-- ==== Sys2Proof/Word.lean ====
section
/-! DEFINITION. The words of the model: bytes, 32-bit register words and 64-bit values of the LN640, and the shape of a
register field.  Widths are those of R5 and R6. -/

namespace Sys2Proof

/-- A byte of host memory, LPDDR5, a frame or a BAR2 slot (R5). -/
abbrev Byte := BitVec 8

/-- A register word: every register is 32 bits wide (R6). -/
abbrev Word := BitVec 32

/-- A 64-bit value, such as a ring time or a device identity (R11). -/
abbrev Word64 := BitVec 64

/-- A register field: the BAR0 offset of its register, its lowest bit, its width in bits, and the value of the Reset
column of its table (R10). -/
structure Field where
  off   : Nat
  lo    : Nat
  w     : Nat
  reset : Nat
  deriving DecidableEq, Repr

/-- The number under which a field's value is stored: fields of different registers, or at different bits of one, have
different keys. -/
def Field.key (f : Field) : Nat := f.off * 32 + f.lo

end Sys2Proof
end

