-- ==== Sys2Proof/Frames.lean ====
section
/-! DEFINITION. The plain data that commands carry and that the block sends: requesters of register accesses, K-frame
payloads (R143-R168), host items (R92), and everything the block emits to the outside. -/

namespace Sys2Proof

/-- The requesters of R11: the host, the supervisor, cluster processor `n` (P1-P8), and a remote node. -/
inductive Requester where
  | host
  | supervisor
  | proc (n : Nat)
  | remote (node : Nat)
  deriving DecidableEq, Repr

/-- The delivery tag of R121 that a DATA or RETURN frame carries, with the source node that the K-frame header names. -/
structure Tag where
  src     : Nat := 0
  gen     : Nat := 0
  wsn     : Nat := 0
  prev    : Nat := 0
  retired : Nat := 0
  sq      : Nat := 0
  resend  : Bool := false
  deriving DecidableEq, Repr

/-- One entry of an ACK frame (R160). -/
structure AckEntry where
  gen      : Nat := 0
  wsn      : Nat := 0
  sq       : Nat := 0
  result   : Nat := 0
  endpoint : Nat := 0
  detail   : Nat := 0
  deriving DecidableEq, Repr

/-- R402: a journal input: a frame kept, a field input handed to the signal router (with the identifier word of a CAN record), a
commit point, or a configuration write. -/
inductive JournalBody where
  | frame (tag : Tag) (ep cls param opcode length segOff : Nat) (last : Bool) (bytes : List Byte)
  | router (ep : Nat) (ident : Option Nat) (bytes : List Byte)
  | commit (key wsn : Nat)
  | config (off val : Nat)
  deriving DecidableEq, Repr

/-- R400, R401: what a COPY frame carries: an item that commits inside the chip, a checkpoint segment of signal values or of TX
message copies (`first` opens a checkpoint), or a configuration write. -/
inductive CopyBody where
  | item (tag : Tag) (ep cls opcode param length : Nat) (bytes : List Byte)
  | signals (first : Bool) (values : List (Nat × Nat))
  | messages (copies : List (Nat × List Byte))
  | config (off val : Nat)
  deriving DecidableEq, Repr

/-- R403, R407: what the witness reads at one half: `TWIN_STATUS`, `GLB_MODE`, `TWIN_CFG`, `TWIN_CKPT_CFG` and
`TWIN_CKPT_AGE`. -/
structure TwinAnswer where
  status  : Word := 0
  mode    : Word := 0
  cfg     : Word := 0
  ckptCfg : Word := 0
  ckptAge : Word := 0
  deriving DecidableEq, Repr

/-- The payload of a K-frame, one constructor for each frame type of R145, with the `CLASS` of a frame whose type does not give it. -/
inductive KBody where
  | data (tag : Tag) (cls param opcode length segOff : Nat) (last : Bool) (bytes : List Byte)
  | ret (tag : Tag) (cls param opcode length segOff : Nat) (last : Bool) (bytes : List Byte)
  | ack (entries : List AckEntry)
  | resync (ledger : Nat)
  /-- `pair` marks the frame of a twin pair's endpoints 0x100 and above, sent with `SRC` local endpoint 0x100 (R395). -/
  | epState (pair : Bool) (version up draining fenced : Nat) (full more : Bool) (entries : List (Nat × Nat))
  | epFlush (version : Nat)
  | enum (round : Nat)
  | enumReport (uid claim mode flags hops round : Nat)
  | map (round n flags : Nat) (ids : List Nat)
  | protect (kind port : Nat)
  | raReq (offset count write : Nat) (words : List Nat)
  | raRsp (status count : Nat) (words : List Nat)
  | bootReply (offset status detail loadStatus loadId : Nat)
  | actArm (time crc gap seq nodes : Nat)
  | actCancel (seq : Nat)
  | actReport (seq node code : Nat)
  | lullToken (round n consents : Nat)
  | lullCommit (round : Nat)
  | lullRefuse (round reason : Nat)
  | lullVoid (round reason : Nat)
  | signal (cls : Nat) (bytes : List Byte)
  | stream (cls : Nat) (bytes : List Byte)
  | timeSync (bytes : List Nat)
  /-- TWIN frames (R397): `KIND` 1, 3, 5, 6 and 7 with `SEQ` and the body's words, JOURNAL and COPY with their input. -/
  | twin (kind : Nat) (words : List Nat)
  | twinJournal (seq : Nat) (body : JournalBody)
  | twinCopy (seq : Nat) (body : CopyBody)
  deriving DecidableEq, Repr

/-- An ordered set sent between frames on a ring or twin port (R140, R224). -/
inductive OrderedSet where
  | credit (cls cells : Nat)
  | remoteFault
  | timeSync (seq : Nat)
  | timeReply (seq : Nat)
  deriving DecidableEq, Repr

/-- A range of bytes: the first one's address and their number. -/
structure Span where
  addr : Nat
  len  : Nat
  deriving DecidableEq, Repr

/-- A UDP datagram on the service port (R67). -/
structure Datagram where
  dstMac  : Nat
  srcMac  : Nat
  dstIp   : Nat
  srcIp   : Nat
  dstPort : Nat
  srcPort : Nat
  bytes   : List Byte
  deriving DecidableEq, Repr

/-- A number in a frame, and the ring port at which the frame arrived (R153). -/
structure AtPort where
  num  : Nat
  port : Fin 2
  deriving DecidableEq, Repr

/-- The source node of a broadcast, and its `SEQ` (R155). -/
structure Sent where
  node : Nat
  seq  : Nat
  deriving DecidableEq, Repr

/-- The ring on which a frame came, and its `WRAPPED` bit (R143). -/
structure OnRing where
  ring    : Fin 2
  wrapped : Bool
  deriving DecidableEq, Repr

/-- A loss at a ring port (R156): 0 signal detect, 1 block lock, 2 alignment, 3 REMOTE_FAULT; and for the first two the lanes at which it shows. -/
structure PortLoss where
  cause : Fin 4
  lanes : Fin 16
  deriving DecidableEq, Repr

/-- The round that a Lull frame names, and the frame's `HOPS` (R168). -/
structure RoundAt where
  round : Nat
  hops  : Nat
  deriving DecidableEq, Repr

/-- What the root's own judgement at the start of a round meets (R168, R169): its supervisor's policy, and a wake condition asserted. -/
structure OwnConsent where
  policy : Bool
  wake   : Bool
  deriving DecidableEq, Repr

/-- Where an attempt on a CAN bus ended (R308, R311): in the seventh bit of end-of-frame, and the loop delay that its frame measured, 0
where it ended before that. -/
structure AttemptEnd where
  eof7 : Bool
  loop : Nat
  deriving DecidableEq, Repr

/-- The payload of a frame, and its `CLASS`. -/
structure InClass where
  cls   : Fin 8
  bytes : List Byte
  deriving DecidableEq, Repr

/-- What the unit that hands the Polder a frame says of a destination (R185): an endpoint address with an opcode of R93, this node's
host, its supervisor, its service port, the twin partner, or the loopback of SERVICE (R181). -/
inductive SwitchDst where
  | endpoint (addr opcode : Nat)
  | host
  | supervisor
  | service
  | partner
  | loopback
  deriving DecidableEq, Repr

/-- What the block sends to the outside or to a unit of its own that the command list drives by further commands.
Everything sent stands in `State.out`, oldest first. -/
inductive Output where
  /-- A K-frame of this node's own, queued for ring port `port` (0 East, on ring A; 1 West, on ring B; 2 TWL): its `WRAPPED` bit
  (R156), `DST`, `SEQ` and payload, and the frame's bytes (R143). -/
  | kframe (port : Nat) (wrapped : Bool) (dst seq : Nat) (body : KBody) (bytes : List Byte)
  /-- A ledger change sent to the standby's AON (R131): the entry's key and fields. -/
  | mirror (key state gen last pend : Nat)
  /-- A frame that a switch output handed to its unit, as its bytes (R185). -/
  | egress (port : Nat) (bytes : List Byte)
  /-- A transit frame handed to the Polder for ring port `port`, its class and its bytes (R154). -/
  | transit (port cls : Nat) (bytes : List Byte)
  /-- A frame kept for this node by R154, as its bytes. -/
  | kept (port : Nat) (bytes : List Byte)
  | orderedSet (port : Nat) (os : OrderedSet)
  /-- A frame that an island ended in the form its receiver rejects (R24). -/
  | tornFrame (island : Nat)
  /-- The bytes that a register read returns to its requester (R6). -/
  | readData (req : Requester) (addr : Nat) (bytes : List Byte)
  /-- A posted write in host memory. -/
  | hostWrite (addr : Nat) (bytes : List Byte)
  /-- A read request to host memory: a doorbell line, descriptors, a payload buffer or a journal read-back. -/
  | hostRead (addr len purpose : Nat)
  /-- An MSI-X message of a vector (R109). -/
  | msix (vector : Nat)
  /-- The level or release of a named pin (R49): group, index, and the level (0, 1) or 2 for Z. -/
  | pin (group index level : Nat)
  /-- A reply datagram of the service port (R67): destination and source MAC address, IP address and UDP port, and its payload. -/
  | svcReply (dstMac srcMac dstIp srcIp dstPort srcPort : Nat) (bytes : List Byte)
  /-- What AON does to the processors: 0 P0-P8 in reset, 1 P0-P8 stopped, 2 P0 released, 3 P1-P8 released, 4 P0-P8 resumed. -/
  | processors (what : Nat)
  /-- Processor `p` loaded with `len` bytes from an LPDDR5 address (R72). -/
  | load (p addr len : Nat)
  /-- A frame a unit emits on its medium: the unit's local endpoint and the frame's bytes. -/
  | unitFrame (endpoint : Nat) (bytes : List Byte)
  /-- A received frame handed to a cluster processor (R241). -/
  | toProcessor (p port : Nat) (bytes : List Byte) (stamp : Nat)
  /-- The transmit timestamp of a PTP frame, for the processor of its port (R222, R229). -/
  | txStamp (port stamp : Nat)
  /-- The bits that a SHIFT of engine `e` of a group sent on `OUT_PIN`, framing bits among them, and its `CLK` (R283). -/
  | pioBits (cluster group e : Nat) (bits : List Bool) (clk : Nat)
  /-- IEEE 802.3 PAUSE sent on an Ethernet port (R243). -/
  | pause (port quanta : Nat)
  /-- A CAN frame's bits on the bus: controller, identifier, flags and data (R308). -/
  | canFrame (ctrl ident flags : Nat) (bytes : List Byte)
  | canError (ctrl : Nat)
  /-- A PMBus command of the voltage loop (R461): command code and data. -/
  | pmbus (cmd data : Nat)
  /-- A CCI write or read of a camera: camera, read, register and bytes (R356, R364). -/
  | cci (cam : Nat) (read : Bool) (reg : Nat) (bytes : List Byte)
  /-- A CSI-2 packet of transmitter `cst`: its data type and its payload, or for Frame Start and Frame End its frame number (R384). -/
  | csi (cst dt : Nat) (bytes : List Byte)
  /-- A bus access of the bridge on a far bus (R332). -/
  | busAccess (bus : Nat) (write : Bool) (addr len : Nat) (bytes : List Byte)
  deriving DecidableEq, Repr

end Sys2Proof
end

