-- ==== Sys2Proof/Syntax.lean ====
section
/-! DEFINITION. The commands of the block: one constructor for each row of spec/opcode_table.json, in the table's order.
A command is an event at the block: a register access, a frame or an ordered set arriving, a pin or a timer, an internal
step whose moment the outside world or the handshakes decide.  Its operands are what the outside supplies (notes/assumptions/1.md):
everything that the block's own state determines, the command's meaning computes. -/

namespace Sys2Proof

/-- One constructor for each row of spec/opcode_table.json. -/
inductive Instr where
  /-- `REGISTER_WRITE` (R7). -/
  | registerWrite (req : Requester) (off : Nat) (val : Word)
  /-- `BAR0_PARTIAL_WRITE` (R6). -/
  | bar0PartialWrite (req : Requester) (off : Nat)
  /-- `REG_PAIR_LO_READ` (R11). -/
  | regPairLoRead (req : Requester) (off : Span)
  /-- `REG_PAIR_LO_WRITE` (R11). -/
  | regPairLoWrite (req : Requester) (off : Nat) (val : Word)
  /-- `SV_LOCKSTEP` (R18). -/
  | svLockstep
  /-- `ISL_UNDERRUN` (R24). -/
  | islUnderrun (island : Fin 81) (engine : Fin 8)
  /-- `REFCLK_LOSS` (R25). -/
  | refclkLoss (clk : Fin 3)
  /-- `REFCLK_RETURN` (R216). -/
  | refclkReturn (clk : Fin 3)
  /-- `PACE_THREAT` (R28). -/
  | paceThreat (d : Fin 17) (pace : BitVec 16)
  /-- `FLOW_CONTROL_RELEASE` (R29). -/
  | flowControlRelease (d : Fin 17)
  /-- `GLB_PD_ON_SET` (R32). -/
  | glbPdOnSet (req : Requester) (val : Word)
  /-- `GLB_PD_ON_CLR` (R32). -/
  | glbPdOnClr (req : Requester) (val : Word)
  /-- `DOMAIN_POWER_UP_START` (R32). -/
  | domainPowerUpStart (d : Fin 17)
  /-- `DOMAIN_POWER_UP_DONE` (R33). -/
  | domainPowerUpDone (d : Fin 17)
  /-- `DOMAIN_DRAIN_START` (R32). -/
  | domainDrainStart (d : Fin 17)
  /-- `DOMAIN_DRAIN_END` (R33). -/
  | domainDrainEnd (d : Fin 17)
  /-- `DOMAIN_POWER_OFF_DONE` (R33). -/
  | domainPowerOffDone (d : Fin 17)
  /-- `MODE_REQ_ACTIVE` (R37). -/
  | modeReqActive
  /-- `MODE_REQ_SERVICE` (R37). -/
  | modeReqService
  /-- `MODE_REQ_DORMANT` (R37). -/
  | modeReqDormant
  /-- `MODE_REQ_NOT_ALLOWED` (R36). -/
  | modeReqNotAllowed (target : BitVec 4)
  /-- `SERVICE_ENTRY_COMPLETE` (R38). -/
  | serviceEntryComplete
  /-- `DORMANT_ENTRY_COMPLETE` (R37). -/
  | dormantEntryComplete
  /-- `POR_ASSERT` (R57). -/
  | porAssert
  /-- `POR_RELEASE` (R37). -/
  | porRelease (load : BitVec 2) (slot testEn psw : Bool) (suppliesValid : Bool)
  /-- `SUPPLY_LOSS` (R477). -/
  | supplyLoss
  /-- `PERST_ASSERT` (R60). -/
  | perstAssert
  /-- `PERST_RELEASE` (R57). -/
  | perstRelease
  /-- `GLB_RESET_WARM` (R60). -/
  | glbResetWarm (req : Requester)
  /-- `GLB_RESET_NODE` (R60). -/
  | glbResetNode (req : Requester)
  /-- `SV_WATCHDOG_SERVICE` (R497). -/
  | svWatchdogService (period : Option Nat)
  /-- `SV_WATCHDOG_WARNING` (R414). -/
  | svWatchdogWarning
  /-- `SV_WATCHDOG_EXPIRY` (R497). -/
  | svWatchdogExpiry
  /-- `LOADER_RESET_END` (R61). -/
  | loaderResetEnd (sizeGiB : Nat)
  /-- `BOOT_BAR2_POST` (R66). -/
  | bootBar2Post (slot : BitVec 13)
  /-- `BAR2_SLOT_CONSUMED` (R66). -/
  | bar2SlotConsumed
  /-- `BAR2_WRITE` (R494). -/
  | bar2Write (off : Nat) (bytes : List Byte)
  /-- `SVC_BOOT_DATAGRAM` (R67). -/
  | svcBootDatagram (bytes : Datagram)
  /-- `BOOT_BLOCK_FRAME` (R68). -/
  | bootBlockFrame (unicast : Bool) (src : AtPort) (bytes : List Byte)
  /-- `BOOT_REPLY_FRAME` (R161). -/
  | bootReplyFrame (node offset status detail loadStatus loadId : Nat)
  /-- `BOOT_HEADER_BLOCK` (R71). -/
  | bootHeaderBlock (path : Fin 3) (bytes : List Byte)
  /-- `BOOT_IMAGE_BLOCK` (R63). -/
  | bootImageBlock (path : Fin 3) (bytes : List Byte)
  /-- `BOOT_START_BLOCK` (R72). -/
  | bootStartBlock (path : Fin 3) (bytes : List Byte)
  /-- `BOOT_RESTART_BLOCK` (R64). -/
  | bootRestartBlock (path : Fin 3) (bytes : List Byte)
  /-- `BOOT_CTRL_RESTART` (R73). -/
  | bootCtrlRestart
  /-- `BOOT_CTRL_RESTART_STAGE` (R73). -/
  | bootCtrlRestartStage
  /-- `IMAGE_VERIFY_DONE` (R61). -/
  | imageVerifyDone
  /-- `PROCESSORS_READY` (R61). -/
  | processorsReady
  /-- `ACT_ARM_CMD` (R76). -/
  | actArmCmd (val : Word)
  /-- `ACT_CANCEL_CMD` (R76). -/
  | actCancelCmd
  /-- `ACT_REPORT_DEADLINE` (R76). -/
  | actReportDeadline
  /-- `ACT_ROUND_END` (R76). -/
  | actRoundEnd
  /-- `ACT_ARM_FRAME` (R77). -/
  | actArmFrame (time crc gap : Nat) (seq : AtPort) (nodes : Nat)
  /-- `ACT_CANCEL_FRAME` (R78). -/
  | actCancelFrame (seq : AtPort)
  /-- `ACT_REPORT_FRAME` (R76). -/
  | actReportFrame (seq node code : Nat)
  /-- `ACTIVATION_TIME` (R77). -/
  | activationTime
  /-- `ACT_PROCESSORS_STOPPED` (R77). -/
  | actProcessorsStopped
  /-- `ACT_P0_RUNNING` (R77). -/
  | actP0Running
  /-- `ACT_ALL_READY` (R77). -/
  | actAllReady
  /-- `ACT_TIMER_EXPIRY` (R79). -/
  | actTimerExpiry
  /-- `CAL_LOAD_SHADOW` (R82). -/
  | calLoadShadow
  /-- `CAL_COMMIT` (R82). -/
  | calCommit
  /-- `CAL_ERASE` (R82). -/
  | calErase
  /-- `CAL_COMMIT_DONE` (R82). -/
  | calCommitDone
  /-- `CAL_ERASE_DONE` (R81). -/
  | calEraseDone
  /-- `HQ_CTRL_EN` (R106). -/
  | hqCtrlEn (val : Word)
  /-- `SQ_ENABLE` (R104). -/
  | sqEnable (sq : BitVec 8) (val : Word)
  /-- `SQ_DISABLE` (R104). -/
  | sqDisable (sq : BitVec 8) (val : Word)
  /-- `CQ_ENABLE` (R108). -/
  | cqEnable (cq : BitVec 8) (val : Word)
  /-- `DOORBELL_POLL_ISSUE` (R88). -/
  | doorbellPollIssue (line : Fin 32)
  /-- `DOORBELL_POLL_RETURN` (R87). -/
  | doorbellPollReturn (line : Fin 32) (words : Option (List Word64))
  /-- `CQ_HEAD_POLL` (R90). -/
  | cqHeadPoll (line : Fin 32)
  /-- `CQ_HEAD_READ_RETURN` (R90). -/
  | cqHeadReadReturn (line : Fin 32) (words : Option (List Word64))
  /-- `DESC_FETCH_ISSUE` (R91). -/
  | descFetchIssue
  /-- `DESC_FETCH_RETURN` (R94). -/
  | descFetchReturn (sq : BitVec 8) (descs : Option (List (List Byte)))
  /-- `PAYLOAD_READ_DONE` (R94). -/
  | payloadReadDone (sq : BitVec 8) (num : Nat) (bytes : Option (List Byte))
  /-- `ITEM_ACCEPT` (R117). -/
  | itemAccept (sq : BitVec 8) (num : Nat)
  /-- `JOURNAL_FLUSH_READ_DONE` (R118). -/
  | journalFlushReadDone (covered : Nat)
  /-- `CQ_RECORD_WRITE` (R99). -/
  | cqRecordWrite (cq : BitVec 8)
  /-- `CQ_MOD_TIME_EXPIRY` (R110). -/
  | cqModTimeExpiry (cq : BitVec 8)
  /-- `MSIX_VECTOR_UNMASK` (R110). -/
  | msixVectorUnmask (vector : BitVec 8)
  /-- `HOST_WRITES_BLOCKED` (R499). -/
  | hostWritesBlocked
  /-- `HOST_WRITES_RESUMED` (R499). -/
  | hostWritesResumed
  /-- `NOP` (R93). -/
  | nop (sq : BitVec 8) (num : Nat)
  /-- `FENCE` (R93). -/
  | fence (sq : BitVec 8) (num : Nat)
  /-- `SEND` (R97). -/
  | send (ep : BitVec 12)
  /-- `SEND_TIME_REACHED` (R97). -/
  | sendTimeReached (ep : BitVec 12)
  /-- `SIG_UPDATE` (R328). -/
  | sigUpdate (src sq wsn : Nat)
  /-- `REG_WRITE` (R93). -/
  | regWrite (src sq wsn : Nat)
  /-- `REG_READ` (R93). -/
  | regRead (src sq wsn : Nat)
  /-- `BRIDGE_WRITE` (R332). -/
  | bridgeWrite (src sq wsn : Nat)
  /-- `BRIDGE_READ` (R332). -/
  | bridgeRead (src sq wsn : Nat)
  /-- `BULK_PUT` (R338). -/
  | bulkPut (src sq wsn : Nat)
  /-- `BULK_GET` (R338). -/
  | bulkGet (src sq wsn : Nat)
  /-- `RX_POST` (R93). -/
  | rxPost (src sq wsn : Nat)
  /-- `DATA_FRAME` (R123). -/
  | dataFrame (tag : Tag) (ep : BitVec 12) (cls : Fin 8) (param opcode length segOff : Nat) (last : Bool) (bytes : List Byte)
  /-- `RETURN_FRAME` (R146). -/
  | returnFrame (tag : Tag) (segOff : Nat) (last : Bool) (bytes : List Byte)
  /-- `ACK_FRAME` (R120). -/
  | ackFrame (src : Nat) (entries : List AckEntry)
  /-- `ACK_TIMEOUT_EXPIRY` (R124). -/
  | ackTimeoutExpiry (sq : BitVec 8) (wsn : Nat)
  /-- `RESYNC_FRAME` (R124). -/
  | resyncFrame (src seq ledger : Nat)
  /-- `JOURNAL_ENABLE` (R132). -/
  | journalEnable (val : Word) (header : Option Nat) (table : List (Nat × Nat × Nat))
  /-- `JOURNAL_SCAN_DONE` (R132). -/
  | journalScanDone (records : List (Nat × List Byte × List Byte))
  /-- `JOURNAL_WAIT_GEN_EXPIRY` (R132). -/
  | journalWaitGenExpiry
  /-- `JOURNAL_REPLAY_DONE` (R132). -/
  | journalReplayDone
  /-- `PORT_DOWN` (R135). -/
  | portDown (port : Nat)
  /-- `LINK_RETURN` (R135). -/
  | linkReturn (port : Nat)
  /-- `LINK_STABLE_EXPIRY` (R135). -/
  | linkStableExpiry (port : Nat)
  /-- `HOLD_TIME_EXPIRY` (R135). -/
  | holdTimeExpiry (port : Nat)
  /-- `DEST_ABSENT_EXPIRY` (R135). -/
  | destAbsentExpiry (node : Nat)
  /-- `RING_SIGNAL_DETECT` (R141). -/
  | ringSignalDetect (port : Fin 3)
  /-- `RING_TRAINING_DONE` (R141). -/
  | ringTrainingDone (port : Fin 3)
  /-- `RING_PORT_LOSS` (R156). -/
  | ringPortLoss (port : Fin 3) (cause : PortLoss)
  /-- `CREDIT_OS` (R142). -/
  | creditOs (port : Fin 3) (cls : Fin 8) (cells : Nat)
  /-- `CREDIT_RETURN_TIMER` (R142). -/
  | creditReturnTimer (port : Fin 3)
  /-- `RING_TRANSIT_FRAME` (R154). -/
  | ringTransitFrame (port : Fin 3) (bytes : List Byte)
  /-- `RING_ENABLE` (R152). -/
  | ringEnable
  /-- `ENUM_START` (R152). -/
  | enumStart
  /-- `ENUM_FRAME` (R149). -/
  | enumFrame (port : Fin 2) (src : Sent) (round hops : Nat) (wrapped : Bool)
  /-- `ENUM_REPORT_FRAME` (R150). -/
  | enumReportFrame (uid claim mode flags hops round : Nat)
  /-- `ENUM_MAP_TIMER` (R150). -/
  | enumMapTimer
  /-- `MAP_FRAME` (R150). -/
  | mapFrame (src round n flags : Nat) (ids : List Nat)
  /-- `ENUM_RESTART_TIMER` (R152). -/
  | enumRestartTimer
  /-- `PROTECT_FRAME` (R158). -/
  | protectFrame (src seq kind port : Nat)
  /-- `EP_STATE_FRAME` (R163). -/
  | epStateFrame (src : Sent) (pair : Bool) (ring : OnRing) (hops version up draining fenced : Nat) (full more : Bool) (entries : List (Nat × Nat))
  /-- `EP_FLUSH_FRAME` (R164). -/
  | epFlushFrame (src version : Nat)
  /-- `EP_STATE_RETRANSMIT` (R164). -/
  | epStateRetransmit
  /-- `RA_REQ_FRAME` (R166). -/
  | raReqFrame (src : AtPort) (seq offset count write reserved payLen : Nat) (words : List Word)
  /-- `RA_RSP_FRAME` (R165). -/
  | raRspFrame (src seq status count : Nat) (words : List Word)
  /-- `RA_TIMEOUT` (R166). -/
  | raTimeout (seq : Nat)
  /-- `LULL_START` (R168). -/
  | lullStart (policyConsents : OwnConsent)
  /-- `LULL_ABORT` (R168). -/
  | lullAbort
  /-- `LULL_WAKE_CMD` (R171). -/
  | lullWakeCmd
  /-- `LULL_CLEAR_LOG` (R176). -/
  | lullClearLog
  /-- `LULL_TOKEN_FRAME` (R170). -/
  | lullTokenFrame (round : RoundAt) (n consents : Nat) (policyConsents wakeAsserted : Bool)
  /-- `LULL_COMMIT_FRAME` (R170). -/
  | lullCommitFrame (round : RoundAt)
  /-- `LULL_REFUSE_FRAME` (R173). -/
  | lullRefuseFrame (src round reason : Nat)
  /-- `LULL_VOID_FRAME` (R170). -/
  | lullVoidFrame (src round reason : Nat)
  /-- `LULL_ROUND_TIMEOUT` (R168). -/
  | lullRoundTimeout
  /-- `LULL_SET_OFF` (R170). -/
  | lullSetOff
  /-- `LULL_SET_UP` (R170). -/
  | lullSetUp
  /-- `WAKE_IN_ASSERT` (R171). -/
  | wakeInAssert
  /-- `RING_WAKE_ARM` (R171). -/
  | ringWakeArm (port : Fin 3)
  /-- `RING_ACTIVITY_WAKE` (R171). -/
  | ringActivityWake (port : Fin 3)
  /-- `RING_QUIET_TIMER` (R171). -/
  | ringQuietTimer (port : Fin 3)
  /-- `AON_CAN_WAKE` (R316). -/
  | aonCanWake (ctrl : Fin 48)
  /-- `PSW_TAKE` (R56). -/
  | pswTake
  /-- `PSW_TAKE_PULSE_END` (R56). -/
  | pswTakePulseEnd
  /-- `PSW_SENSE_CHANGE` (R54). -/
  | pswSenseChange (level : Bool)
  /-- `PSW_TAKE_TIMEOUT` (R56). -/
  | pswTakeTimeout
  /-- `PLD_FRAME_LINK` (R182). -/
  | pldFrameLink (inp : Fin 32) (dsts : List SwitchDst) (cls : Fin 8) (tagged ok : Bool) (bytes : List Byte)
  /-- `PLD_FLUSH` (R191). -/
  | pldFlush (val : Word)
  /-- `PLD_FLUSH_DONE` (R191). -/
  | pldFlushDone
  /-- `SCH_FRAME_START` (R198). -/
  | schFrameStart (out : Fin 32)
  /-- `FRAME_EGRESS_END` (R185). -/
  | frameEgressEnd (out : Fin 32)
  /-- `VOQ_PROMOTION` (R201). -/
  | voqPromotion (out inp : Fin 32) (cls : Fin 8)
  /-- `WEIR_RATE_WRITE` (R204). -/
  | weirRateWrite (out : Fin 32) (cls : Fin 8) (val : Word)
  /-- `WEIR_BURST_WRITE` (R204). -/
  | weirBurstWrite (out : Fin 32) (cls : Fin 8) (val : Word)
  /-- `GCL_COMMIT` (R208). -/
  | gclCommit (g : Fin 19) (val : Word)
  /-- `GCL_DISABLE` (R210). -/
  | gclDisable (g : Fin 19)
  /-- `GCL_ABORT` (R210). -/
  | gclAbort (g : Fin 19)
  /-- `GCL_START_TIME` (R209). -/
  | gclStartTime (g : Fin 19)
  /-- `GCL_ENTRY_BOUNDARY` (R206). -/
  | gclEntryBoundary (g : Fin 19)
  /-- `GUARD_BAND_START` (R206). -/
  | guardBandStart (g : Fin 19) (cls : Fin 8)
  /-- `TIME_RATE_WRITE` (R218). -/
  | timeRateWrite (val : Word)
  /-- `TIME_STEP_WRITE` (R219). -/
  | timeStepWrite (req : Requester) (val : Word)
  /-- `LOCK_NOW` (R220). -/
  | lockNow
  /-- `TIME_LOCK_ACHIEVED` (R220). -/
  | timeLockAchieved
  /-- `TIME_UPSTREAM_TIMEOUT` (R220). -/
  | timeUpstreamTimeout
  /-- `TIME_SYNC_TIMER` (R224). -/
  | timeSyncTimer (port : Fin 3) (wait : Nat)
  /-- `TIME_SYNC_OS` (R224). -/
  | timeSyncOs (port : Fin 3) (seq : BitVec 8) (wait : Nat)
  /-- `TIME_REPLY_OS` (R225). -/
  | timeReplyOs (port : Fin 3) (seq : BitVec 8)
  /-- `TIME_SYNC_FRAME` (R226). -/
  | timeSyncFrame (port : Fin 3) (bytes : List Byte)
  /-- `SERVO_WINDOW_END` (R465). -/
  | servoWindowEnd (source : Option Int)
  /-- `FSYNC_ENABLE` (R230). -/
  | fsyncEnable (n : Fin 8) (val : Word)
  /-- `FSYNC_EDGE` (R230). -/
  | fsyncEdge (n : Fin 8)
  /-- `FSYNC_PULSE_END` (R230). -/
  | fsyncPulseEnd (n : Fin 8)
  /-- `FSYNC_HELD_RELEASE` (R231). -/
  | fsyncHeldRelease (n : Fin 8)
  /-- `PPS_OUT_EDGE` (R232). -/
  | ppsOutEdge (rise : Bool)
  /-- `PPS_IN_EDGE` (R228). -/
  | ppsInEdge
  /-- `QSGMII_SYNC_LOSS` (R236). -/
  | qsgmiiSyncLoss (link : Fin 4)
  /-- `QSGMII_CONTROL_WORD` (R236). -/
  | qsgmiiControlWord (port : Fin 16) (link full : Bool) (speed : Fin 3)
  /-- `ETH_LINK_UP_TIMER` (R244). -/
  | ethLinkUpTimer (port : Fin 16)
  /-- `ETH_PORT_ENABLE` (R244). -/
  | ethPortEnable (port : Fin 16) (val : Word)
  /-- `ETH_PORT_DISABLE` (R244). -/
  | ethPortDisable (port : Fin 16) (val : Word)
  /-- `ETH_DRAIN_DONE` (R244). -/
  | ethDrainDone (port : Fin 16)
  /-- `ETH_FRAME_RECEIVE` (R240). -/
  | ethFrameReceive (port : Fin 16) (bytes : List Byte)
  /-- `ETH_PAUSE_RECEIVE` (R243). -/
  | ethPauseReceive (port : Fin 16) (quanta : BitVec 16)
  /-- `ETH_PAUSE_EXPIRY` (R243). -/
  | ethPauseExpiry (port : Fin 16)
  /-- `ETH_PAUSE_REPEAT` (R243). -/
  | ethPauseRepeat (port : Fin 16)
  /-- `ETH_TX_COMMIT` (R126). -/
  | ethTxCommit (port : Fin 16)
  /-- `PIN_FUNC_WRITE` (R250). -/
  | pinFuncWrite (n : Fin 6) (p : Fin 64) (val : Word)
  /-- `RX_PACKET_TO_SLICE` (R254). -/
  | rxPacketToSlice (n : Fin 6) (q : Fin 32)
  /-- `TX_FIFO_WRITE` (R255). -/
  | txFifoWrite (n : Fin 6) (q : Fin 32)
  /-- `FLUSH_RX` (R260). -/
  | flushRx (n : Fin 6) (q : Fin 32)
  /-- `FLUSH_TX` (R260). -/
  | flushTx (n : Fin 6) (q : Fin 32)
  /-- `FIFO_FLUSH_DONE` (R260). -/
  | fifoFlushDone (n : Fin 6) (q : Fin 32)
  /-- `DROP_RX` (R261). -/
  | dropRx (n : Fin 6) (q : Fin 32)
  /-- `DROP_TX` (R261). -/
  | dropTx (n : Fin 6) (q : Fin 32)
  /-- `DIO_TIMED_ENTRY` (R264). -/
  | dioTimedEntry (n : Fin 6) (p : Fin 64)
  /-- `DIO_ENTRY_APPLY` (R264). -/
  | dioEntryApply (n : Fin 6) (p : Fin 64)
  /-- `DIO_OUT_SET` (R265). -/
  | dioOutSet (n : Fin 6) (m : Fin 2) (val : Word)
  /-- `DIO_OUT_CLR` (R265). -/
  | dioOutClr (n : Fin 6) (m : Fin 2) (val : Word)
  /-- `DIO_DIR_WRITE` (R265). -/
  | dioDirWrite (n : Fin 6) (p : Fin 64) (val : Word)
  /-- `DIO_RAW_CHANGE` (R266). -/
  | dioRawChange (n : Fin 6) (p : Fin 64) (level : Bool)
  /-- `DIO_DEBOUNCE_EXPIRY` (R266). -/
  | dioDebounceExpiry (n : Fin 6) (p : Fin 64)
  /-- `EVT_LOAN_HOLD_EXPIRY` (R268). -/
  | evtLoanHoldExpiry (n : Fin 6) (p : Fin 64)
  /-- `SHIFT` (R283). -/
  | pioShift (n : Fin 6) (g : Fin 4) (e : Fin 8) (rx : List Bool) (cut : Fin 32) (lost : BitVec 16)
  /-- `SET` (R279). -/
  | pioSet (n : Fin 6) (g : Fin 4) (e : Fin 8) (lost : BitVec 16)
  /-- `WAIT` (R284). -/
  | pioWait (n : Fin 6) (g : Fin 4) (e : Fin 8) (onTick : Bool)
  /-- `PIO_WAIT_SATISFIED` (R284). -/
  | pioWaitSatisfied (n : Fin 6) (g : Fin 4) (e : Fin 8) (onTick : Bool)
  /-- `JMP` (R281). -/
  | pioJmp (n : Fin 6) (g : Fin 4) (e : Fin 8)
  /-- `PULL` (R285). -/
  | pioPull (n : Fin 6) (g : Fin 4) (e : Fin 8)
  /-- `PIO_PULL_UNSTALL` (R285). -/
  | pioPullUnstall (n : Fin 6) (g : Fin 4) (e : Fin 8)
  /-- `PIO_UNDERFLOW` (R286). -/
  | pioUnderflow (n : Fin 6) (g : Fin 4) (e : Fin 8)
  /-- `PUSH` (R287). -/
  | pioPush (n : Fin 6) (g : Fin 4) (e : Fin 8)
  /-- `EVENT` (R280). -/
  | pioEvent (n : Fin 6) (g : Fin 4) (e : Fin 8)
  /-- `LOAD` (R280). -/
  | pioLoad (n : Fin 6) (g : Fin 4) (e : Fin 8)
  /-- `MOV` (R280). -/
  | pioMov (n : Fin 6) (g : Fin 4) (e : Fin 8)
  /-- `DROP` (R261). -/
  | pioDrop (n : Fin 6) (g : Fin 4) (e : Fin 8)
  /-- `HALT` (R289). -/
  | pioHalt (n : Fin 6) (g : Fin 4) (e : Fin 8)
  /-- `PIO_ILLEGAL` (R282). -/
  | pioIllegal (n : Fin 6) (g : Fin 4) (e : Fin 8)
  /-- `PIO_DELAY_EXPIRY` (R280). -/
  | pioDelayExpiry (n : Fin 6) (g : Fin 4) (e : Fin 8)
  /-- `PIO_STRETCH_RELEASE` (R283). -/
  | pioStretchRelease (n : Fin 6) (g : Fin 4) (e : Fin 8) (rx : List Bool) (cut : Fin 32) (lost : BitVec 16)
  /-- `PIO_EOP_IDLE_CLOSE` (R287). -/
  | pioEopIdleClose (n : Fin 6) (g : Fin 4) (e : Fin 8)
  /-- `PIO_IN_EDGE` (R275). -/
  | pioInEdge (n : Fin 6) (g : Fin 4) (e : Fin 8) (rise : Bool)
  /-- `PIO_SYNC_START` (R288). -/
  | pioSyncStart (n : Fin 6) (g : Fin 4) (val : Word)
  /-- `PIO_SYNC_RESTART` (R288). -/
  | pioSyncRestart (n : Fin 6) (g : Fin 4) (val : Word)
  /-- `PIO_SYNC_TIME_REACHED` (R288). -/
  | pioSyncTimeReached (n : Fin 6) (g : Fin 4)
  /-- `PIO_HALT_CMD` (R289). -/
  | pioHaltCmd (n : Fin 6) (g : Fin 4) (mask : BitVec 8) (cuts : List (Nat × Nat × List Bool))
  /-- `EVF_SET` (R292). -/
  | evfSet (n : Fin 6) (g : Fin 4) (val : Word)
  /-- `EVF_CLR` (R292). -/
  | evfClr (n : Fin 6) (g : Fin 4) (val : Word)
  /-- `PIO_PROG_WRITE` (R290). -/
  | pioProgWrite (n : Fin 6) (g : Fin 4) (w : Fin 128) (val : Word)
  /-- `CAN_ENABLE` (R300). -/
  | canEnable (n : Fin 6) (c : Fin 8) (val : Word)
  /-- `CAN_DISABLE` (R299). -/
  | canDisable (n : Fin 6) (c : Fin 8) (val : Word)
  /-- `CAN_SLEEP` (R315). -/
  | canSleep (n : Fin 6) (c : Fin 8) (busIdle : Bool)
  /-- `CAN_WAKE` (R315). -/
  | canWake (n : Fin 6) (c : Fin 8)
  /-- `CAN_RECOVER` (R299). -/
  | canRecover (n : Fin 6) (c : Fin 8)
  /-- `CAN_TX_CANCEL` (R309). -/
  | canTxCancel (n : Fin 6) (c : Fin 8) (j : Fin 128) (won : Bool)
  /-- `CAN_INTEGRATED` (R299). -/
  | canIntegrated (n : Fin 6) (c : Fin 8)
  /-- `CAN_RECOVERY_DONE` (R299). -/
  | canRecoveryDone (n : Fin 6) (c : Fin 8)
  /-- `CAN_OBJECT_LOAD` (R308). -/
  | canObjectLoad (n : Fin 6) (c : Fin 8)
  /-- `CAN_OBJECT_REQUEST` (R308). -/
  | canObjectRequest (n : Fin 6) (c : Fin 8) (j : Fin 128)
  /-- `CAN_ARB_LOST` (R308). -/
  | canArbLost (n : Fin 6) (c : Fin 8) (newer : List (Fin 128))
  /-- `CAN_TX_COMMIT` (R308). -/
  | canTxCommit (n : Fin 6) (c : Fin 8) (newer : List (Fin 128)) (loop ago : Nat)
  /-- `CAN_TX_ERROR` (R308). -/
  | canTxError (n : Fin 6) (c : Fin 8) (newer : List (Fin 128)) (lec : Fin 7) (dTec dRec : Fin 9) (dup : Bool) (eof7 : AttemptEnd)
  /-- `CAN_DUP_HOLD_END` (R310). -/
  | canDupHoldEnd (n : Fin 6) (c : Fin 8) (j : Fin 128)
  /-- `CAN_FRAME_RECEIVE` (R306). -/
  | canFrameReceive (n : Fin 6) (c : Fin 8) (ident : Word) (fdf brs esi : Bool) (dlc : Fin 16) (bytes : List Byte) (ago : Nat)
  /-- `CAN_BUS_WAKE` (R315). -/
  | canBusWake (n : Fin 6) (c : Fin 8)
  /-- `CAN_LOAN_HOLD_EXPIRY` (R312). -/
  | canLoanHoldExpiry (n : Fin 6) (c : Fin 8)
  /-- `CAN_OBJECT_CAPTURE_READ` (R302). -/
  | canObjectCaptureRead (req : Requester) (n : Fin 6) (c : Fin 8) (j : Fin 128)
  /-- `SIG_INPUT` (R324). -/
  | sigInput
  /-- `SIGNAL_FRAME` (R326). -/
  | signalFrame (src : Nat) (ep : BitVec 12) (bytes : InClass)
  /-- `SIG_PERIOD_EXPIRY` (R324). -/
  | sigPeriodExpiry (m : Fin 4096)
  /-- `SIG_MIN_GAP_EXPIRY` (R324). -/
  | sigMinGapExpiry (m : Fin 4096)
  /-- `SIG_ENTRY_WRITE` (R343). -/
  | sigEntryWrite (val : Word)
  /-- `SIG_ENTRY_READ` (R343). -/
  | sigEntryRead (val : Word)
  /-- `FB_DEVICE_REQUEST` (R331). -/
  | fbDeviceRequest (fb : Fin 16)
  /-- `FB_RESPONSE` (R331). -/
  | fbResponse (fb : Fin 16)
  /-- `BRIDGE_BUS_GRANT` (R332). -/
  | bridgeBusGrant (bus : Fin 18)
  /-- `BRIDGE_PCIE_COMPLETION` (R333). -/
  | bridgePcieCompletion (error : Bool) (bytes : List Byte)
  /-- `BRIDGE_FAR_TIMEOUT` (R333). -/
  | bridgeFarTimeout (bus : Fin 18) (id : Nat)
  /-- `BRIDGE_LOCK_TIMEOUT` (R335). -/
  | bridgeLockTimeout (near : Fin 18)
  /-- `BRIDGE_RETRY_TIMER` (R337). -/
  | bridgeRetryTimer (id : Nat)
  /-- `CSI_FRAME_START` (R362). -/
  | csiFrameStart (c : Fin 8) (vc : Fin 4) (fn : BitVec 16)
  /-- `CSI_LINE` (R349). -/
  | csiLine (c : Fin 8) (vc : Fin 4) (dt : Nat) (bytes : List Byte) (headerOk crcOk : Bool)
  /-- `CSI_FRAME_END` (R362). -/
  | csiFrameEnd (c : Fin 8) (vc : Fin 4)
  /-- `CAM_ENABLE` (R362). -/
  | camEnable (c : Fin 8) (val : Word)
  /-- `CAM_DISABLE` (R362). -/
  | camDisable (c : Fin 8) (val : Word)
  /-- `CAM_ID_READ_DONE` (R362). -/
  | camIdReadDone (c : Fin 8) (ack : Bool) (value : Nat)
  /-- `CAM_INIT_DONE` (R362). -/
  | camInitDone (c : Fin 8) (ack : Bool)
  /-- `VIS_SETTINGS_SET` (R358). -/
  | visSettingsSet (c : Fin 8)
  /-- `CCI_WRITE_DONE` (R359). -/
  | cciWriteDone (c : Fin 8) (ack : Bool)
  /-- `CCI_LATCH_POINT` (R361). -/
  | cciLatchPoint (c : Fin 8) (frame : Nat)
  /-- `CCI_DIRECT_CMD` (R364). -/
  | cciDirectCmd (c : Fin 8) (val : Word)
  /-- `CCI_DIRECT_DONE` (R364). -/
  | cciDirectDone (c : Fin 8) (ack : Bool) (data : Byte)
  /-- `PIPE_LINE_TAKE` (R351). -/
  | pipeLineTake
  /-- `VIS_OUTPUT_ENABLE` (R380). -/
  | visOutputEnable (c : Fin 8) (k : Fin 5) (val : Word)
  /-- `VIS_STREAM_SEND` (R382). -/
  | visStreamSend
  /-- `STAGING_RELEASE` (R381). -/
  | stagingRelease
  /-- `STREAM_FRAME` (R383). -/
  | streamFrame (ep : BitVec 12) (bytes : List Byte)
  /-- `SINK_INCOMPLETE_TIMEOUT` (R383). -/
  | sinkIncompleteTimeout (k : Fin 64)
  /-- `CSITX_ROW_SEND` (R384). -/
  | csitxRowSend (t : Fin 2)
  /-- `TWIN_PAIRING_START` (R398). -/
  | twinPairingStart
  /-- `TWIN_HELLO` (R398). -/
  | twinHello (id slot role mode pairId epoch img : Nat)
  /-- `TWIN_SYNC_DONE` (R399). -/
  | twinSyncDone (config : List (Nat × Word))
  /-- `TWIN_JOURNAL` (R402). -/
  | twinJournal (seq : Nat) (body : JournalBody)
  /-- `TWIN_EPOCH_END` (R402). -/
  | twinEpochEnd (epoch : Nat)
  /-- `TWIN_DIGEST` (R399). -/
  | twinDigest (epoch digest : Nat) (health : Bool)
  /-- `TWIN_DIGEST_TIMEOUT` (R399). -/
  | twinDigestTimeout
  /-- `TWIN_COPY` (R400). -/
  | twinCopy (seq : Nat) (body : CopyBody)
  /-- `TWIN_COPY_ACK` (R400). -/
  | twinCopyAck (seq : Nat)
  /-- `TWIN_CKPT_TIMER` (R401). -/
  | twinCkptTimer
  /-- `TWIN_LEDGER_REQ` (R404). -/
  | twinLedgerReq (switchOver : Bool)
  /-- `TWIN_LEDGER` (R404). -/
  | twinLedger (entries : List (Nat × Bool × Nat × Nat × Nat)) (pins : List (Fin 6 × BitVec 64)) (dike : List (Fin 16 × Fin 8 × BitVec 4))
  /-- `TWIN_LEDGER_READ_TIMEOUT` (R131). -/
  | twinLedgerReadTimeout (entries : List (Nat × Bool × Nat × Nat × Nat)) (pins : List (Fin 6 × BitVec 64)) (dike : List (Fin 16 × Fin 8 × BitVec 4))
  /-- `TWIN_TAKE` (R404). -/
  | twinTake (req : Requester) (val : Word)
  /-- `TWIN_RESYNC` (R399). -/
  | twinResync (req : Requester) (val : Word)
  /-- `WITNESS_BEAT` (R403). -/
  | witnessBeat (pair : Fin 64) (a b : Option TwinAnswer)
  /-- `WITNESS_SWITCH_OVER` (R407). -/
  | witnessSwitchOver (val : Word) (a b : Option TwinAnswer)
  /-- `INT_ACCEPT` (R416). -/
  | intAccept (b : Fin 9)
  /-- `INT_ENTRY_DONE` (R419). -/
  | intEntryDone (b : Fin 9)
  /-- `INT_COMPLETE` (R417). -/
  | intComplete (req : Requester) (b : Fin 9) (val : Word) (low : List Nat)
  /-- `INT_EXIT_DONE` (R419). -/
  | intExitDone (b : Fin 9)
  /-- `INT_PEND_SET` (R413). -/
  | intPendSet (bank : Fin 10) (w : Fin 32) (val : Word)
  /-- `INT_PEND_CLR` (R413). -/
  | intPendClr (bank : Fin 10) (w : Fin 32) (val : Word)
  /-- `INT_MASK_SET` (R416). -/
  | intMaskSet (bank : Fin 10) (w : Fin 32) (val : Word)
  /-- `INT_MASK_CLR` (R420). -/
  | intMaskClr (bank : Fin 10) (w : Fin 32) (val : Word)
  /-- `INT_ROUTE_WRITE` (R420). -/
  | intRouteWrite (n : Fin 1024) (val : Word)
  /-- `FAULT_RECORD` (R425). -/
  | faultRecord (src : Fin 640) (info : List Word)
  /-- `FLT_ACK_C` (R428). -/
  | fltAckC (val : Word)
  /-- `FLT_ACK_U` (R428). -/
  | fltAckU (val : Word)
  /-- `FLT_ACK_F` (R428). -/
  | fltAckF (val : Word)
  /-- `FLT_ACTION_WRITE` (R430). -/
  | fltActionWrite (n : Fin 640) (val : Word)
  /-- `FAULT_N_PULSE_END` (R435). -/
  | faultNPulseEnd
  /-- `FLT_RECOVER_EXPIRY` (R433). -/
  | fltRecoverExpiry
  /-- `DIKE_ENABLE` (R452). -/
  | dikeEnable (c : Fin 16) (val : Word)
  /-- `DIKE_DISABLE` (R449). -/
  | dikeDisable (c : Fin 16) (val : Word)
  /-- `DIKE_RESTART` (R449). -/
  | dikeRestart (c : Fin 16) (val : Word)
  /-- `DIKE_PRES_CHANGE` (R450). -/
  | dikePresChange (c : Fin 16) (level : Bool)
  /-- `DIKE_DEBOUNCE_DONE` (R449). -/
  | dikeDebounceDone (c : Fin 16)
  /-- `DIKE_LIMITER_ENGAGE` (R445). -/
  | dikeLimiterEngage (c : Fin 16) (raws : List (BitVec 12))
  /-- `DIKE_LIMITER_RELEASE` (R445). -/
  | dikeLimiterRelease (c : Fin 16) (raws : List (BitVec 12))
  /-- `DIKE_PG_SETTLE_EXPIRY` (R449). -/
  | dikePgSettleExpiry (c : Fin 16)
  /-- `DIKE_TRIP` (R447). -/
  | dikeTrip (c : Fin 16) (raws : List (BitVec 12)) (timeout : Bool)
  /-- `DIKE_BACKOFF_END` (R447). -/
  | dikeBackoffEnd (c : Fin 16)
  /-- `DIKE_RETRY_RESET_TIMER` (R447). -/
  | dikeRetryResetTimer (c : Fin 16)
  /-- `AVS_EVALUATION` (R460). -/
  | avsEvaluation (counts : List (Fin 17 × Fin 64 × BitVec 16))
  /-- `AVS_SETTLE_EXPIRY` (R461). -/
  | avsSettleExpiry
  /-- `AVS_HOLD_POLL` (R461). -/
  | avsHoldPoll
  /-- `PMBUS_ALERT` (R461). -/
  | pmbusAlert
  /-- `PMBUS_RESPONSE` (R461). -/
  | pmbusResponse (ack : Bool) (data : BitVec 16)
  /-- `AVS_ENABLE` (R461). -/
  | avsEnable (val : Word)
  /-- `THERMAL_SAMPLE` (R463). -/
  | thermalSample (temps : List (BitVec 8))
  /-- `THERMAL_LIMIT_STEP` (R463). -/
  | thermalLimitStep
  /-- `LULL_AUTO_START` (R466). -/
  | lullAutoStart (policyConsents : OwnConsent)
  /-- `CAN_RX_ERROR` (R299). -/
  | canRxError (n : Fin 6) (c : Fin 8) (lec : Fin 7) (dTec dRec : Fin 9)
  /-- `REFERENCE_CLOCKS_PRESENT` (R25). -/
  | referenceClocksPresent
  deriving DecidableEq, Repr

end Sys2Proof
end

