-- ==== Sys2Proof/Decode.lean ====
section
/-! DEFINITION. Table words. The block takes commands, not encoded instructions: spec/opcode_table.json gives none of its rows any
bits (its "fields" are empty), so no word spells a command. -/

namespace Sys2Proof

/-- The command that a word of the opcode table spells: none, since no row has bits. -/
def decodeTableWord (_nbits _w : Nat) : Option Instr := none

end Sys2Proof
end

