-- ==== Sys2Proof/Config.lean ====
section
/-! DEFINITION. What an implementation or the manufacture of a part fixes, and the values that the spec leaves open: each a
constant without a body, so that no proof can know its value (notes/assumptions/4.md). -/

namespace Sys2Proof.Config

/-- The fused 64-bit device identity `GLB_UID` (R60). -/
opaque uid : Word64

/-- A free value of the model, drawn by number: what the spec leaves open and the hardware fixes. -/
opaque freeValue : Nat → Nat

/-- The frame limit of an endpoint of another node as this node knows it (R94 check 6): the largest `SEND` (false) or the smallest
`RX_POST` (true) by node, local endpoint and time. -/
opaque destLimit : Bool → Nat → Nat → Nat → Nat

/-- The filter that the root applies to E (R226): from the number of filter steps so far, the value in use and the new sample. -/
opaque closureFilter : Nat → Int → Int → Int

/-- The nominal latencies of a port while no calibration block is valid (R223), in 2^-8 ns: transmit (true) or receive, and the
entry's number. -/
opaque nominalLatency : Bool → Nat → Int

/-- Stage 8 of the vision pipeline (R369): R, G and B of a pixel by edge-directed interpolation, from `BAYER`, the image of stage 7
and the pixel's place. -/
opaque demosaic : Nat → List (List Int) → Nat → Nat → Int × Int × Int

/-- R377: whether the edge of a scaler's footprint, at `a / b` of 1/256 pixel, is taken at the next 1/256 above it. -/
opaque edgeUp : Nat → Nat → Bool

end Sys2Proof.Config
end

