-- ==== Sys2Proof/Machine/RegNames.lean ====
section
/-! DEFINITION. The register fields of BAR0 (R6-R11, R490-R495): one `Field` per field of the register tables of spec/,
named REGISTER_FIELD (REGISTER alone where the register has one field), with its offset, bit position, width and the
value of the table's Reset column (R10).  Registers the tables list once for an instance take the instance indices as
arguments, at the stride the register's rule states.  A `_CLR` register shares the storage of its `_SET` (R9).
A field whose Reset column reads "Strap", "Pin", "Fuses", "Stored" or "Ledger" is given by the operation that reads it;
its stored value here starts at 0, and the calibration block is the factory's (notes/assumptions/3.md). -/

namespace Sys2Proof.Machine.Reg

/-- R80, R81: the calibration block as the factory wrote it: `MAGIC`, `LAYOUT` 1 and `ORIGIN` 1, the CRC, unit sense gains and
pace-monitor references, and 0 elsewhere. The values of its entries are the model's (notes/assumptions/3.md). -/
def factoryWord (i : Nat) : Nat :=
  if i = 0 then 0x43414C31 else if i = 1 then 0x101 else if i = 3 then 0x7948CBEB
  else if 0x58 ≤ i ∧ i < 0x78 ∧ i % 2 = 0 then 0x10000 else if 0x88 ≤ i ∧ i < 0xC8 then 0x10000 else 0

/-- R190: the default `RES`k of each class of switch port `p`. -/
def pldResDefault (p : Nat) : Nat :=
  if p ≤ 1 then 64 else if p = 2 then 32 else if p = 3 then 16 else if p = 4 then 8
  else if p ≤ 12 then 16 else if p ≤ 29 then 8 else if p = 30 then 16 else 8

/-- R190: the default `SHR_MAX` of switch port `p`. -/
def pldShrDefault (p : Nat) : Nat :=
  if p ≤ 1 then 8192 else if p = 2 then 2048 else if p = 3 then 8192 else if p = 4 then 256
  else if p ≤ 11 then 1024 else if p = 12 then 8192 else if p ≤ 29 then 256 else if p = 30 then 8192 else 256

/-- R190: the default `OUT_MAX` of switch port `p`. -/
def pldOutDefault (p : Nat) : Nat :=
  if p ≤ 5 then 8192 else if p ≤ 11 then 1024 else if p = 12 then 8192 else if p ≤ 28 then 1024 else 8192

/-- R181: the egress ceiling of switch port `p` in Mb/s (`SCH_OUTn_LINK.RATE_MBPS`). The loopback port SP31 is counted
within the port it serves, so it has no ceiling of its own. -/
def schRateDefault (p : Nat) : Nat :=
  if p ≤ 1 then 100000 else if p = 2 then 50000 else if p = 3 then 128000 else if p = 4 then 2000
  else if p = 5 then 16000 else if p ≤ 11 then 5000 else if p = 12 then 40000 else if p ≤ 29 then 1000
  else if p = 30 then 17000 else 0

/-- R206, R238: the `GUARD` of each class of gate list `g` in ns at its output's ceiling rate: the wire time of 2,108 bytes on
SP0-SP2 and of 1,542 bytes at 1,000 Mb/s on an Ethernet output. -/
def gclGuardDefault (g : Nat) : Nat := if g ≤ 1 then 169 else if g = 2 then 338 else 12336

/-- R197: the `OVERHEAD` of switch port `p` in bytes. -/
def schOverhead (p : Nat) : Nat :=
  if p ≤ 2 then 16 else if 13 ≤ p ∧ p ≤ 28 then 20 else 0

/-- R26 and R472: the pace floor of domain `d` per microsecond. -/
def paceFloor (d : Nat) : Nat :=
  if d = 6 then 500 else if d = 9 then 2000 else if d = 7 then 40 else if d = 3 ∨ d = 4 then 250
  else if d = 5 then 125 else if d = 2 then 500 else if d = 10 then 800 else if d = 8 then 100
  else if 11 ≤ d ∧ d ≤ 16 then 20 else 0

/-- R414: the kind word `w` of private bank `b` (1 = level source). -/
def intKind (b w : Nat) : Nat :=
  if 1 ≤ b ∧ b ≤ 6 then
    (if w = 4 ∨ w = 5 then 0x80808080 else if w = 6 then 0xFFFFFFFF else if w = 7 then 1 else 0)
  else if b = 7 then (if w = 2 then 1 else 0)
  else 0

/-- R415: the kind word `w` of the shared sources (640-767 are level sources). -/
def intShKind (w : Nat) : Nat := if 20 ≤ w ∧ w ≤ 23 then 0xFFFFFFFF else 0

/-- R437: the class of error source `n` (0 C, 1 U, 2 F); 0 for a number not listed. -/
def srcClass (n : Nat) : Nat :=
  if n ≤ 3 then 2
  else if n = 7 ∨ n = 8 then 1
  else if 16 ≤ n ∧ n ≤ 18 then 1
  else if n = 20 then 2
  else if n = 21 ∨ n = 22 ∨ n = 24 ∨ n = 25 ∨ n = 26 then 1
  else if n = 35 ∨ n = 36 then 1
  else if 72 ≤ n ∧ n ≤ 79 then 1
  else if n = 80 then 2
  else if 96 ≤ n ∧ n ≤ 111 then 1
  else if 128 ≤ n ∧ n ≤ 208 then 1
  else if 248 ≤ n ∧ n ≤ 271 then 1
  else if 320 ≤ n ∧ n ≤ 463 then 1
  else if n = 513 then 1
  else if 528 ≤ n ∧ n ≤ 556 then 1
  else if 560 ≤ n ∧ n ≤ 591 then 1
  else if 608 ≤ n ∧ n ≤ 626 then 1
  else if n = 627 then 2
  else if n = 630 ∨ n = 631 then 1
  else if n = 632 then 2
  else 0

/-- R437: the default action of error source `n` (0 RECORD, 1 STOP, 2 FENCE). -/
def srcAction (n : Nat) : Nat :=
  if n ≤ 3 then 2
  else if n = 16 ∨ n = 17 then 1
  else if n = 20 then 2
  else if n = 80 then 2
  else if 320 ≤ n ∧ n ≤ 367 then 1
  else if n = 627 ∨ n = 632 then 2
  else 0

/-- R437: whether the catalogue lists error source `n`. -/
def srcListed (n : Nat) : Bool :=
  n ≤ 8 || (16 ≤ n && n ≤ 26) || (32 ≤ n && n ≤ 38) || (40 ≤ n && n ≤ 42) || n == 48
  || (64 ≤ n && n ≤ 80) || (96 ≤ n && n ≤ 208) || (224 ≤ n && n ≤ 513) || (520 ≤ n && n ≤ 556)
  || (560 ≤ n && n ≤ 632)

/-- `GLB_ID` (00_scope.md). -/
def GLB_ID_PART : Field := { off := 0x0, lo := 16, w := 16, reset := 1600 }
def GLB_ID_STEPPING : Field := { off := 0x0, lo := 8, w := 8, reset := 161 }
def GLB_ID_FAMILY : Field := { off := 0x0, lo := 0, w := 8, reset := 1 }
/-- `GLB_MODE` (01_architecture.md). -/
def GLB_MODE_REQ_STATUS : Field := { off := 0x4, lo := 12, w := 4, reset := 0 }
def GLB_MODE_PREV : Field := { off := 0x4, lo := 8, w := 4, reset := 0 }
def GLB_MODE_MODE : Field := { off := 0x4, lo := 0, w := 4, reset := 2 }
/-- `GLB_MODE_REQ` (01_architecture.md). -/
def GLB_MODE_REQ : Field := { off := 0x8, lo := 0, w := 4, reset := 0 }
/-- `GLB_PIN_POLICY` (02_pins_and_package.md). -/
def GLB_PIN_POLICY_FENCE_HOLD : Field := { off := 0x40, lo := 8, w := 6, reset := 0 }
def GLB_PIN_POLICY_RST_HOLD : Field := { off := 0x40, lo := 0, w := 6, reset := 63 }
/-- `GLB_STRAP` (02_pins_and_package.md). -/
def GLB_STRAP_TEST_EN : Field := { off := 0x44, lo := 3, w := 1, reset := 0 }
def GLB_STRAP_SLOT : Field := { off := 0x44, lo := 2, w := 1, reset := 0 }
def GLB_STRAP_LOAD : Field := { off := 0x44, lo := 0, w := 2, reset := 0 }
/-- `GLB_PSW` (02_pins_and_package.md). -/
def GLB_PSW_SENSE : Field := { off := 0x48, lo := 3, w := 1, reset := 0 }
def GLB_PSW_OWN : Field := { off := 0x48, lo := 2, w := 1, reset := 0 }
def GLB_PSW_TAKE : Field := { off := 0x48, lo := 1, w := 1, reset := 0 }
def GLB_PSW_LOST : Field := { off := 0x48, lo := 0, w := 1, reset := 0 }
/-- `MSIX_ADDR_LO` (23_register_index.md). -/
def MSIX_ADDR_LO (a : Nat) : Field := { off := 0x26000 + 0x10 * a, lo := 0, w := 32, reset := 0 }
/-- `MSIX_ADDR_HI` (23_register_index.md). -/
def MSIX_ADDR_HI (a : Nat) : Field := { off := 0x26004 + 0x10 * a, lo := 0, w := 32, reset := 0 }
/-- `MSIX_DATA` (23_register_index.md). -/
def MSIX_DATA (a : Nat) : Field := { off := 0x26008 + 0x10 * a, lo := 0, w := 32, reset := 0 }
/-- `MSIX_CTRL` (23_register_index.md). -/
def MSIX_CTRL (a : Nat) : Field := { off := 0x2600C + 0x10 * a, lo := 0, w := 1, reset := 1 }
/-- `MSIX_PBA` (23_register_index.md). -/
def MSIX_PBA (a : Nat) : Field := { off := 0x27000 + 0x4 * a, lo := 0, w := 32, reset := 0 }
/-- `GLB_PD_ON_SET` (01_architecture.md). -/
def GLB_PD_ON_SET : Field := { off := 0x10, lo := 0, w := 17, reset := 1119 }
/-- `GLB_PD_ON_CLR` (01_architecture.md). -/
def GLB_PD_ON_CLR : Field := GLB_PD_ON_SET
/-- `GLB_PD_STATUS` (01_architecture.md). -/
def GLB_PD_STATUS : Field := { off := 0x18, lo := 0, w := 17, reset := 1119 }
/-- `GLB_PD_TRANS` (01_architecture.md). -/
def GLB_PD_TRANS : Field := { off := 0x1C, lo := 0, w := 17, reset := 0 }
/-- `GLB_PD_ERR` (01_architecture.md). -/
def GLB_PD_ERR : Field := { off := 0x20, lo := 0, w := 17, reset := 0 }
/-- `GLB_RESET` (03_boot_and_firmware.md). -/
def GLB_RESET_KEY : Field := { off := 0x30, lo := 16, w := 16, reset := 0 }
def GLB_RESET_KIND : Field := { off := 0x30, lo := 0, w := 2, reset := 0 }
/-- `GLB_RST_CFG` (03_boot_and_firmware.md). -/
def GLB_RST_CFG : Field := { off := 0x38, lo := 0, w := 1, reset := 1 }
/-- `GLB_RST_CAUSE` (03_boot_and_firmware.md). -/
def GLB_RST_CAUSE_COUNT : Field := { off := 0x3C, lo := 16, w := 16, reset := 0 }
def GLB_RST_CAUSE_SOURCE : Field := { off := 0x3C, lo := 4, w := 4, reset := 0 }
def GLB_RST_CAUSE_KIND : Field := { off := 0x3C, lo := 0, w := 2, reset := 0 }
/-- `GLB_UID_LO` (03_boot_and_firmware.md). -/
def GLB_UID_LO : Field := { off := 0x50, lo := 0, w := 32, reset := 0 }
/-- `GLB_UID_HI` (03_boot_and_firmware.md). -/
def GLB_UID_HI : Field := { off := 0x54, lo := 0, w := 32, reset := 0 }
/-- `BOOT_STATUS` (03_boot_and_firmware.md). -/
def BOOT_STATUS_DETAIL : Field := { off := 0x10000, lo := 24, w := 8, reset := 0 }
def BOOT_STATUS_PATH : Field := { off := 0x10000, lo := 18, w := 2, reset := 0 }
def BOOT_STATUS_SLOT : Field := { off := 0x10000, lo := 16, w := 2, reset := 0 }
def BOOT_STATUS_LOAD_STATUS : Field := { off := 0x10000, lo := 0, w := 4, reset := 0 }
/-- `BOOT_PAGES` (03_boot_and_firmware.md). -/
def BOOT_PAGES_RECEIVED : Field := { off := 0x10004, lo := 16, w := 16, reset := 0 }
def BOOT_PAGES_EXPECTED : Field := { off := 0x10004, lo := 0, w := 16, reset := 0 }
/-- `BOOT_MISSING` (03_boot_and_firmware.md). -/
def BOOT_MISSING_NONE : Field := { off := 0x10008, lo := 31, w := 1, reset := 0 }
def BOOT_MISSING_FIRST : Field := { off := 0x10008, lo := 0, w := 16, reset := 0 }
/-- `BOOT_BAR2_POST` (03_boot_and_firmware.md). -/
def BOOT_BAR2_POST : Field := { off := 0x10010, lo := 0, w := 13, reset := 0 }
/-- `BOOT_BAR2_RESULT` (03_boot_and_firmware.md). -/
def BOOT_BAR2_RESULT_STATUS : Field := { off := 0x10014, lo := 24, w := 8, reset := 0 }
def BOOT_BAR2_RESULT_DETAIL : Field := { off := 0x10014, lo := 16, w := 8, reset := 0 }
def BOOT_BAR2_RESULT_LAST_SLOT : Field := { off := 0x10014, lo := 0, w := 13, reset := 0 }
/-- `BOOT_BAR2_QUEUE` (03_boot_and_firmware.md). -/
def BOOT_BAR2_QUEUE_OVERRUN : Field := { off := 0x10018, lo := 31, w := 1, reset := 0 }
def BOOT_BAR2_QUEUE_PENDING : Field := { off := 0x10018, lo := 0, w := 7, reset := 0 }
/-- `BOOT_CTRL` (03_boot_and_firmware.md). -/
def BOOT_CTRL_RESTART_STAGE : Field := { off := 0x1001C, lo := 1, w := 1, reset := 0 }
def BOOT_CTRL_RESTART : Field := { off := 0x1001C, lo := 0, w := 1, reset := 0 }
/-- `BOOT_IMG_VERSION` (03_boot_and_firmware.md). -/
def BOOT_IMG_VERSION : Field := { off := 0x10020, lo := 0, w := 32, reset := 0 }
/-- `BOOT_IMG_CRC` (03_boot_and_firmware.md). -/
def BOOT_IMG_CRC : Field := { off := 0x10024, lo := 0, w := 32, reset := 0 }
/-- `BOOT_STAGED_CRC` (03_boot_and_firmware.md). -/
def BOOT_STAGED_CRC : Field := { off := 0x10028, lo := 0, w := 32, reset := 0 }
/-- `BOOT_STAGED_STATUS` (03_boot_and_firmware.md). -/
def BOOT_STAGED_STATUS_DETAIL : Field := { off := 0x1002C, lo := 24, w := 8, reset := 0 }
def BOOT_STAGED_STATUS_ARMED : Field := { off := 0x1002C, lo := 4, w := 1, reset := 0 }
def BOOT_STAGED_STATUS_STAGE_STATUS : Field := { off := 0x1002C, lo := 0, w := 4, reset := 0 }
/-- `BOOT_ACT_TIME_LO` (03_boot_and_firmware.md). -/
def BOOT_ACT_TIME_LO : Field := { off := 0x10030, lo := 0, w := 32, reset := 0 }
/-- `BOOT_ACT_TIME_HI` (03_boot_and_firmware.md). -/
def BOOT_ACT_TIME_HI : Field := { off := 0x10034, lo := 0, w := 32, reset := 0 }
/-- `BOOT_ACT_CRC` (03_boot_and_firmware.md). -/
def BOOT_ACT_CRC : Field := { off := 0x10038, lo := 0, w := 32, reset := 0 }
/-- `BOOT_ACT_CTRL` (03_boot_and_firmware.md). -/
def BOOT_ACT_CTRL_TWIN_GAP : Field := { off := 0x1003C, lo := 16, w := 16, reset := 10000 }
def BOOT_ACT_CTRL_CANCEL : Field := { off := 0x1003C, lo := 1, w := 1, reset := 0 }
def BOOT_ACT_CTRL_ARM : Field := { off := 0x1003C, lo := 0, w := 1, reset := 0 }
/-- `BOOT_ACT_MAP0–BOOT_ACT_MAP7` (03_boot_and_firmware.md). -/
def BOOT_ACT_MAP (a : Nat) : Field := { off := 0x10040 + 0x4 * a, lo := 0, w := 32, reset := 0 }
/-- `BOOT_ACT_RESULT` (03_boot_and_firmware.md). -/
def BOOT_ACT_RESULT_FIRST_NODE : Field := { off := 0x10060, lo := 24, w := 8, reset := 0 }
def BOOT_ACT_RESULT_NODES_BAD : Field := { off := 0x10060, lo := 16, w := 8, reset := 0 }
def BOOT_ACT_RESULT_CODE : Field := { off := 0x10060, lo := 8, w := 8, reset := 0 }
def BOOT_ACT_RESULT_ACT_STATE : Field := { off := 0x10060, lo := 0, w := 4, reset := 0 }
/-- `BOOT_CAL_STATE` (03_boot_and_firmware.md). -/
def BOOT_CAL_STATE_COMMITS : Field := { off := 0x10080, lo := 16, w := 16, reset := 0 }
def BOOT_CAL_STATE_LAYOUT : Field := { off := 0x10080, lo := 8, w := 8, reset := 1 }
def BOOT_CAL_STATE_BUSY : Field := { off := 0x10080, lo := 3, w := 1, reset := 0 }
def BOOT_CAL_STATE_ERR : Field := { off := 0x10080, lo := 2, w := 1, reset := 0 }
def BOOT_CAL_STATE_CAL_STATE : Field := { off := 0x10080, lo := 0, w := 2, reset := 1 }
/-- `BOOT_CAL_CTRL` (03_boot_and_firmware.md). -/
def BOOT_CAL_CTRL_KEY : Field := { off := 0x10084, lo := 16, w := 16, reset := 0 }
def BOOT_CAL_CTRL_ERASE : Field := { off := 0x10084, lo := 2, w := 1, reset := 0 }
def BOOT_CAL_CTRL_COMMIT : Field := { off := 0x10084, lo := 1, w := 1, reset := 0 }
def BOOT_CAL_CTRL_LOAD_SHADOW : Field := { off := 0x10084, lo := 0, w := 1, reset := 0 }
/-- `BOOT_CAL_DATA` (03_boot_and_firmware.md). -/
def BOOT_CAL_DATA (a : Nat) : Field := { off := 0x11000 + 0x4 * a, lo := 0, w := 32, reset := factoryWord a }
/-- `BOOT_CAL_SHADOW` (03_boot_and_firmware.md). -/
def BOOT_CAL_SHADOW (a : Nat) : Field := { off := 0x12000 + 0x4 * a, lo := 0, w := 32, reset := 0 }
/-- `HQ_CTRL` (04_host_work.md). -/
def HQ_CTRL : Field := { off := 0x20000, lo := 0, w := 1, reset := 0 }
/-- `HQ_STATUS` (04_host_work.md). -/
def HQ_STATUS : Field := { off := 0x20004, lo := 0, w := 12, reset := 0 }
/-- `HQ_DB_BASE_LO` (04_host_work.md). -/
def HQ_DB_BASE_LO : Field := { off := 0x20008, lo := 12, w := 20, reset := 0 }
/-- `HQ_DB_BASE_HI` (04_host_work.md). -/
def HQ_DB_BASE_HI : Field := { off := 0x2000C, lo := 0, w := 32, reset := 0 }
/-- `HQ_HEAD_BASE_LO` (04_host_work.md). -/
def HQ_HEAD_BASE_LO : Field := { off := 0x20010, lo := 12, w := 20, reset := 0 }
/-- `HQ_HEAD_BASE_HI` (04_host_work.md). -/
def HQ_HEAD_BASE_HI : Field := { off := 0x20014, lo := 0, w := 32, reset := 0 }
/-- `HQ_POLL_CFG` (04_host_work.md). -/
def HQ_POLL_CFG_MAX : Field := { off := 0x20018, lo := 16, w := 16, reset := 64000 }
def HQ_POLL_CFG_MIN : Field := { off := 0x20018, lo := 0, w := 16, reset := 250 }
/-- `HQ_ERR` (04_host_work.md). -/
def HQ_ERR_CQ_WRITE : Field := { off := 0x20020, lo := 2, w := 1, reset := 0 }
def HQ_ERR_DB_READ : Field := { off := 0x20020, lo := 1, w := 1, reset := 0 }
def HQ_ERR_CFG_REJECT : Field := { off := 0x20020, lo := 0, w := 1, reset := 0 }
/-- `HQ_CNT_FETCHED` (04_host_work.md). -/
def HQ_CNT_FETCHED : Field := { off := 0x20024, lo := 0, w := 32, reset := 0 }
/-- `HQ_CNT_REFUSED` (04_host_work.md). -/
def HQ_CNT_REFUSED : Field := { off := 0x20028, lo := 0, w := 32, reset := 0 }
/-- `HQ_CNT_STALE` (04_host_work.md). -/
def HQ_CNT_STALE : Field := { off := 0x2002C, lo := 0, w := 32, reset := 0 }
/-- `HQ_SQn_BASE_LO` (04_host_work.md). -/
def HQ_SQ_BASE_LO (a : Nat) : Field := { off := 0x21000 + 0x20 * a, lo := 12, w := 20, reset := 0 }
/-- `HQ_SQn_BASE_HI` (04_host_work.md). -/
def HQ_SQ_BASE_HI (a : Nat) : Field := { off := 0x21004 + 0x20 * a, lo := 0, w := 32, reset := 0 }
/-- `HQ_SQn_CFG` (04_host_work.md). -/
def HQ_SQ_CFG_CQ (a : Nat) : Field := { off := 0x21008 + 0x20 * a, lo := 24, w := 8, reset := 0 }
def HQ_SQ_CFG_LOG2_ENTRIES (a : Nat) : Field := { off := 0x21008 + 0x20 * a, lo := 19, w := 5, reset := 0 }
def HQ_SQ_CFG_ORDER (a : Nat) : Field := { off := 0x21008 + 0x20 * a, lo := 16, w := 1, reset := 1 }
def HQ_SQ_CFG_STOP_ON_ERR (a : Nat) : Field := { off := 0x21008 + 0x20 * a, lo := 15, w := 1, reset := 0 }
def HQ_SQ_CFG_FENCE_ON_POSTED_FAULT (a : Nat) : Field := { off := 0x21008 + 0x20 * a, lo := 14, w := 1, reset := 0 }
def HQ_SQ_CFG_MAX_INFLIGHT (a : Nat) : Field := { off := 0x21008 + 0x20 * a, lo := 0, w := 12, reset := 0 }
/-- `HQ_SQn_CTRL` (04_host_work.md). -/
def HQ_SQ_CTRL_EPOCH (a : Nat) : Field := { off := 0x2100C + 0x20 * a, lo := 16, w := 16, reset := 0 }
def HQ_SQ_CTRL_DISABLE (a : Nat) : Field := { off := 0x2100C + 0x20 * a, lo := 1, w := 1, reset := 0 }
def HQ_SQ_CTRL_ENABLE (a : Nat) : Field := { off := 0x2100C + 0x20 * a, lo := 0, w := 1, reset := 0 }
/-- `HQ_SQn_STATE` (04_host_work.md). -/
def HQ_SQ_STATE_INFLIGHT (a : Nat) : Field := { off := 0x21010 + 0x20 * a, lo := 16, w := 12, reset := 0 }
def HQ_SQ_STATE_LAST_STATUS (a : Nat) : Field := { off := 0x21010 + 0x20 * a, lo := 8, w := 8, reset := 0 }
def HQ_SQ_STATE_STATE (a : Nat) : Field := { off := 0x21010 + 0x20 * a, lo := 0, w := 2, reset := 0 }
/-- `HQ_SQn_CONS` (04_host_work.md). -/
def HQ_SQ_CONS (a : Nat) : Field := { off := 0x21014 + 0x20 * a, lo := 0, w := 32, reset := 0 }
/-- `HQ_CQn_BASE_LO` (04_host_work.md). -/
def HQ_CQ_BASE_LO (a : Nat) : Field := { off := 0x24000 + 0x20 * a, lo := 12, w := 20, reset := 0 }
/-- `HQ_CQn_BASE_HI` (04_host_work.md). -/
def HQ_CQ_BASE_HI (a : Nat) : Field := { off := 0x24004 + 0x20 * a, lo := 0, w := 32, reset := 0 }
/-- `HQ_CQn_CFG` (04_host_work.md). -/
def HQ_CQ_CFG_VECTOR (a : Nat) : Field := { off := 0x24008 + 0x20 * a, lo := 24, w := 8, reset := 0 }
def HQ_CQ_CFG_LOG2_ENTRIES (a : Nat) : Field := { off := 0x24008 + 0x20 * a, lo := 19, w := 5, reset := 0 }
def HQ_CQ_CFG_ENABLE (a : Nat) : Field := { off := 0x24008 + 0x20 * a, lo := 0, w := 1, reset := 0 }
/-- `HQ_CQn_MOD` (04_host_work.md). -/
def HQ_CQ_MOD_MOD_TIME (a : Nat) : Field := { off := 0x2400C + 0x20 * a, lo := 16, w := 16, reset := 0 }
def HQ_CQ_MOD_MOD_COUNT (a : Nat) : Field := { off := 0x2400C + 0x20 * a, lo := 0, w := 16, reset := 1 }
/-- `HQ_CQn_WRITTEN` (04_host_work.md). -/
def HQ_CQ_WRITTEN (a : Nat) : Field := { off := 0x24010 + 0x20 * a, lo := 0, w := 32, reset := 0 }
/-- `HQ_CQn_STALLS` (04_host_work.md). -/
def HQ_CQ_STALLS (a : Nat) : Field := { off := 0x24014 + 0x20 * a, lo := 0, w := 32, reset := 0 }
/-- `HQ_JRN_BASE_LO` (05_delivery_guarantee.md). -/
def HQ_JRN_BASE_LO : Field := { off := 0x28000, lo := 12, w := 20, reset := 0 }
/-- `HQ_JRN_BASE_HI` (05_delivery_guarantee.md). -/
def HQ_JRN_BASE_HI : Field := { off := 0x28004, lo := 0, w := 32, reset := 0 }
/-- `HQ_JRN_CFG` (05_delivery_guarantee.md). -/
def HQ_JRN_CFG_SPOOL_MIB : Field := { off := 0x28008, lo := 16, w := 13, reset := 0 }
def HQ_JRN_CFG_LOG2_RECORDS : Field := { off := 0x28008, lo := 8, w := 5, reset := 0 }
def HQ_JRN_CFG_ENABLE : Field := { off := 0x28008, lo := 0, w := 1, reset := 0 }
/-- `HQ_JRN_STATUS` (05_delivery_guarantee.md). -/
def HQ_JRN_STATUS_ERR : Field := { off := 0x2800C, lo := 4, w := 4, reset := 0 }
def HQ_JRN_STATUS_STATE : Field := { off := 0x2800C, lo := 0, w := 4, reset := 0 }
/-- `HQ_JRN_ACCEPTED` (05_delivery_guarantee.md). -/
def HQ_JRN_ACCEPTED : Field := { off := 0x28010, lo := 0, w := 32, reset := 0 }
/-- `HQ_JRN_REPLAYED` (05_delivery_guarantee.md). -/
def HQ_JRN_REPLAYED : Field := { off := 0x28014, lo := 0, w := 32, reset := 0 }
/-- `HQ_JRN_INDET` (05_delivery_guarantee.md). -/
def HQ_JRN_INDET : Field := { off := 0x28018, lo := 0, w := 32, reset := 0 }
/-- `HQ_JRN_SPOOL_FREE` (05_delivery_guarantee.md). -/
def HQ_JRN_SPOOL_FREE : Field := { off := 0x2801C, lo := 0, w := 13, reset := 0 }
/-- `HQ_DLV_CFG` (05_delivery_guarantee.md). -/
def HQ_DLV_CFG_HOLD_TIME : Field := { off := 0x28020, lo := 16, w := 10, reset := 50 }
def HQ_DLV_CFG_TAKEOVER_PEND : Field := { off := 0x28020, lo := 12, w := 1, reset := 0 }
def HQ_DLV_CFG_ACK_TIMEOUT : Field := { off := 0x28020, lo := 0, w := 10, reset := 10 }
/-- `HQ_LDG_STATUS` (05_delivery_guarantee.md). -/
def HQ_LDG_STATUS_MIRROR : Field := { off := 0x28040, lo := 31, w := 1, reset := 0 }
def HQ_LDG_STATUS_USED : Field := { off := 0x28040, lo := 0, w := 17, reset := 0 }
/-- `HQ_LDG_DUP` (05_delivery_guarantee.md). -/
def HQ_LDG_DUP : Field := { off := 0x28044, lo := 0, w := 32, reset := 0 }
/-- `HQ_LDG_GAP` (05_delivery_guarantee.md). -/
def HQ_LDG_GAP : Field := { off := 0x28048, lo := 0, w := 32, reset := 0 }
/-- `HQ_LDG_TORN` (05_delivery_guarantee.md). -/
def HQ_LDG_TORN : Field := { off := 0x2804C, lo := 0, w := 32, reset := 0 }
/-- `HQ_LDG_FULL` (05_delivery_guarantee.md). -/
def HQ_LDG_FULL : Field := { off := 0x28050, lo := 0, w := 32, reset := 0 }
/-- `RING_NODE` (06_ring.md). -/
def RING_NODE_ROOT : Field := { off := 0x80000, lo := 15, w := 1, reset := 0 }
def RING_NODE_HELD_OUT : Field := { off := 0x80000, lo := 14, w := 1, reset := 0 }
def RING_NODE_ID : Field := { off := 0x80000, lo := 0, w := 8, reset := 0 }
/-- `RING_CTRL` (06_ring.md). -/
def RING_CTRL_ENUM_START : Field := { off := 0x80004, lo := 1, w := 1, reset := 0 }
def RING_CTRL_EN : Field := { off := 0x80004, lo := 0, w := 1, reset := 0 }
/-- `RING_ENUM_CFG` (06_ring.md). -/
def RING_ENUM_CFG : Field := { off := 0x80008, lo := 0, w := 1, reset := 0 }
/-- `RING_ENUM_STATUS` (06_ring.md). -/
def RING_ENUM_STATUS_ROUND : Field := { off := 0x8000C, lo := 16, w := 16, reset := 0 }
def RING_ENUM_STATUS_N : Field := { off := 0x8000C, lo := 8, w := 8, reset := 0 }
def RING_ENUM_STATUS_CLOSED : Field := { off := 0x8000C, lo := 7, w := 1, reset := 0 }
def RING_ENUM_STATUS_STATE : Field := { off := 0x8000C, lo := 0, w := 2, reset := 0 }
/-- `RING_PROT_STATUS` (06_ring.md). -/
def RING_PROT_STATUS_FIRST_WRAP : Field := { off := 0x80010, lo := 24, w := 8, reset := 0 }
def RING_PROT_STATUS_WRAP_W : Field := { off := 0x80010, lo := 3, w := 1, reset := 0 }
def RING_PROT_STATUS_WRAP_E : Field := { off := 0x80010, lo := 2, w := 1, reset := 0 }
def RING_PROT_STATUS_BREAKS : Field := { off := 0x80010, lo := 0, w := 2, reset := 0 }
/-- `RING_ERR` (06_ring.md). -/
def RING_ERR_RA_TIMEOUT : Field := { off := 0x80014, lo := 2, w := 1, reset := 0 }
def RING_ERR_LULL_SET_REJECT : Field := { off := 0x80014, lo := 1, w := 1, reset := 0 }
def RING_ERR_CFG_REJECT : Field := { off := 0x80014, lo := 0, w := 1, reset := 0 }
/-- `RING_RA_CFG` (06_ring.md). -/
def RING_RA_CFG_TIMEOUT : Field := { off := 0x80018, lo := 16, w := 16, reset := 1000 }
def RING_RA_CFG_ANY_WRITE : Field := { off := 0x80018, lo := 0, w := 1, reset := 0 }
/-- `RING_MAP0–RING_MAP7` (06_ring.md). -/
def RING_MAP (a : Nat) : Field := { off := 0x80040 + 0x4 * a, lo := 0, w := 32, reset := 0 }
/-- `RING_DUP_STATUS` (06_ring.md). -/
def RING_DUP_STATUS_COUNT : Field := { off := 0x80080, lo := 16, w := 16, reset := 0 }
def RING_DUP_STATUS_UNKNOWN : Field := { off := 0x80080, lo := 8, w := 8, reset := 0 }
def RING_DUP_STATUS_LAST_ID : Field := { off := 0x80080, lo := 0, w := 8, reset := 0 }
/-- `RING_DUP_UID_A_LO` (06_ring.md). -/
def RING_DUP_UID_A_LO : Field := { off := 0x80084, lo := 0, w := 32, reset := 0 }
/-- `RING_DUP_UID_A_HI` (06_ring.md). -/
def RING_DUP_UID_A_HI : Field := { off := 0x80088, lo := 0, w := 32, reset := 0 }
/-- `RING_DUP_UID_B_LO` (06_ring.md). -/
def RING_DUP_UID_B_LO : Field := { off := 0x8008C, lo := 0, w := 32, reset := 0 }
/-- `RING_DUP_UID_B_HI` (06_ring.md). -/
def RING_DUP_UID_B_HI : Field := { off := 0x80090, lo := 0, w := 32, reset := 0 }
/-- `RING_NTABn_LO` (06_ring.md). -/
def RING_NTAB_LO (a : Nat) : Field := { off := 0x81000 + 0x8 * a, lo := 0, w := 32, reset := 0 }
/-- `RING_NTABn_HI` (06_ring.md). -/
def RING_NTAB_HI (a : Nat) : Field := { off := 0x81004 + 0x8 * a, lo := 0, w := 32, reset := 0 }
/-- `RING_PORTn_STATUS` (06_ring.md). -/
def RING_PORT_STATUS_SIG_DET (a : Nat) : Field := { off := 0x80020 + 0x4 * a, lo := 12, w := 4, reset := 0 }
def RING_PORT_STATUS_LOCK (a : Nat) : Field := { off := 0x80020 + 0x4 * a, lo := 8, w := 4, reset := 0 }
def RING_PORT_STATUS_ALIGNED (a : Nat) : Field := { off := 0x80020 + 0x4 * a, lo := 7, w := 1, reset := 0 }
def RING_PORT_STATUS_RF_RX (a : Nat) : Field := { off := 0x80020 + 0x4 * a, lo := 6, w := 1, reset := 0 }
def RING_PORT_STATUS_STATE (a : Nat) : Field := { off := 0x80020 + 0x4 * a, lo := 0, w := 3, reset := 0 }
/-- `RING_PORTn_CNT_RX` (06_ring.md). -/
def RING_PORT_CNT_RX (a : Nat) : Field := { off := 0x80100 + 0x20 * a, lo := 0, w := 32, reset := 0 }
/-- `RING_PORTn_CNT_TX` (06_ring.md). -/
def RING_PORT_CNT_TX (a : Nat) : Field := { off := 0x80104 + 0x20 * a, lo := 0, w := 32, reset := 0 }
/-- `RING_PORTn_CNT_FCS` (06_ring.md). -/
def RING_PORT_CNT_FCS (a : Nat) : Field := { off := 0x80108 + 0x20 * a, lo := 0, w := 32, reset := 0 }
/-- `RING_PORTn_CNT_DISCARD` (06_ring.md). -/
def RING_PORT_CNT_DISCARD (a : Nat) : Field := { off := 0x8010C + 0x20 * a, lo := 0, w := 32, reset := 0 }
/-- `RING_PORTn_CNT_WRAP` (06_ring.md). -/
def RING_PORT_CNT_WRAP (a : Nat) : Field := { off := 0x80110 + 0x20 * a, lo := 0, w := 32, reset := 0 }
/-- `RING_PORTn_CNT_DOWN` (06_ring.md). -/
def RING_PORT_CNT_DOWN (a : Nat) : Field := { off := 0x80114 + 0x20 * a, lo := 0, w := 32, reset := 0 }
/-- `RING_LULL_SET` (06_ring.md). -/
def RING_LULL_SET : Field := { off := 0x80200, lo := 0, w := 17, reset := 129976 }
/-- `RING_LULL_CFG` (06_ring.md). -/
def RING_LULL_CFG_REFUSE_LIMIT : Field := { off := 0x80204, lo := 24, w := 8, reset := 8 }
def RING_LULL_CFG_ROUND_MS : Field := { off := 0x80204, lo := 8, w := 16, reset := 1000 }
def RING_LULL_CFG_DIKE_WAKE : Field := { off := 0x80204, lo := 1, w := 1, reset := 1 }
def RING_LULL_CFG_DENY : Field := { off := 0x80204, lo := 0, w := 1, reset := 0 }
/-- `RING_LULL_CTRL` (06_ring.md). -/
def RING_LULL_CTRL_CLEAR_LOG : Field := { off := 0x80208, lo := 3, w := 1, reset := 0 }
def RING_LULL_CTRL_WAKE : Field := { off := 0x80208, lo := 2, w := 1, reset := 0 }
def RING_LULL_CTRL_ABORT : Field := { off := 0x80208, lo := 1, w := 1, reset := 0 }
def RING_LULL_CTRL_START : Field := { off := 0x80208, lo := 0, w := 1, reset := 0 }
/-- `RING_LULL_STATUS` (06_ring.md). -/
def RING_LULL_STATUS_ROUND : Field := { off := 0x8020C, lo := 16, w := 16, reset := 0 }
def RING_LULL_STATUS_RESULT : Field := { off := 0x8020C, lo := 12, w := 4, reset := 0 }
def RING_LULL_STATUS_LAST_REASON : Field := { off := 0x8020C, lo := 8, w := 4, reset := 0 }
def RING_LULL_STATUS_STATE : Field := { off := 0x8020C, lo := 0, w := 3, reset := 0 }
/-- `AON_WAKE_SRC` (06_ring.md). -/
def AON_WAKE_SRC_CAN_IDX : Field := { off := 0x80210, lo := 26, w := 6, reset := 0 }
def AON_WAKE_SRC_FIRST : Field := { off := 0x80210, lo := 20, w := 4, reset := 0 }
def AON_WAKE_SRC_SRC : Field := { off := 0x80210, lo := 0, w := 8, reset := 0 }
/-- `RING_LULL_ROUNDS` (06_ring.md). -/
def RING_LULL_ROUNDS_COMMITTED : Field := { off := 0x80214, lo := 16, w := 16, reset := 0 }
def RING_LULL_ROUNDS_STARTED : Field := { off := 0x80214, lo := 0, w := 16, reset := 0 }
/-- `RING_LULL_LOGn` (06_ring.md). -/
def RING_LULL_LOG_COUNT (a : Nat) : Field := { off := 0x80400 + 0x4 * a, lo := 16, w := 16, reset := 0 }
def RING_LULL_LOG_CONSEC (a : Nat) : Field := { off := 0x80400 + 0x4 * a, lo := 8, w := 8, reset := 0 }
def RING_LULL_LOG_LAST_REASON (a : Nat) : Field := { off := 0x80400 + 0x4 * a, lo := 0, w := 4, reset := 0 }
/-- `PLD_STATUS` (07_polder_switch.md). -/
def PLD_STATUS : Field := { off := 0xC0000, lo := 0, w := 17, reset := 65536 }
/-- `PLD_SHR_CFG` (07_polder_switch.md). -/
def PLD_SHR_CFG : Field := { off := 0xC0004, lo := 0, w := 16, reset := 18432 }
/-- `PLD_SHR_STATUS` (07_polder_switch.md). -/
def PLD_SHR_STATUS : Field := { off := 0xC0008, lo := 0, w := 16, reset := 61760 }
/-- `PLD_FLUSH` (07_polder_switch.md). -/
def PLD_FLUSH_ALL_OUT : Field := { off := 0xC0010, lo := 19, w := 1, reset := 0 }
def PLD_FLUSH_ALL_IN : Field := { off := 0xC0010, lo := 18, w := 1, reset := 0 }
def PLD_FLUSH_CLASSES : Field := { off := 0xC0010, lo := 10, w := 8, reset := 0 }
def PLD_FLUSH_OUT : Field := { off := 0xC0010, lo := 5, w := 5, reset := 0 }
def PLD_FLUSH_IN : Field := { off := 0xC0010, lo := 0, w := 5, reset := 0 }
/-- `PLD_FLUSH_STATUS` (07_polder_switch.md). -/
def PLD_FLUSH_STATUS_FRAMES : Field := { off := 0xC0014, lo := 16, w := 16, reset := 0 }
def PLD_FLUSH_STATUS_KEPT : Field := { off := 0xC0014, lo := 1, w := 1, reset := 0 }
def PLD_FLUSH_STATUS_BUSY : Field := { off := 0xC0014, lo := 0, w := 1, reset := 0 }
/-- `PLD_ERR` (07_polder_switch.md). -/
def PLD_ERR_ECC_U : Field := { off := 0xC0018, lo := 2, w := 1, reset := 0 }
def PLD_ERR_FLUSH_REJECT : Field := { off := 0xC0018, lo := 1, w := 1, reset := 0 }
def PLD_ERR_CFG_REJECT : Field := { off := 0xC0018, lo := 0, w := 1, reset := 0 }
/-- `PLD_CNT_CRC` (07_polder_switch.md). -/
def PLD_CNT_CRC : Field := { off := 0xC0020, lo := 0, w := 32, reset := 0 }
/-- `PLD_CNT_OVERSIZE` (07_polder_switch.md). -/
def PLD_CNT_OVERSIZE : Field := { off := 0xC0024, lo := 0, w := 32, reset := 0 }
/-- `PLD_CNT_NOROOM` (07_polder_switch.md). -/
def PLD_CNT_NOROOM : Field := { off := 0xC0028, lo := 0, w := 32, reset := 0 }
/-- `PLD_CNT_FLUSHED` (07_polder_switch.md). -/
def PLD_CNT_FLUSHED : Field := { off := 0xC002C, lo := 0, w := 32, reset := 0 }
/-- `PLD_CNT_ECC_C` (07_polder_switch.md). -/
def PLD_CNT_ECC_C : Field := { off := 0xC0030, lo := 0, w := 32, reset := 0 }
/-- `PLD_CNT_ECC_U` (07_polder_switch.md). -/
def PLD_CNT_ECC_U : Field := { off := 0xC0034, lo := 0, w := 32, reset := 0 }
/-- `PLD_DIAG_CELL` (07_polder_switch.md). -/
def PLD_DIAG_CELL : Field := { off := 0xC0040, lo := 0, w := 16, reset := 0 }
/-- `PLD_DIAG_DATA` (07_polder_switch.md). -/
def PLD_DIAG_DATA (a : Nat) : Field := { off := 0xC0100 + 0x4 * a, lo := 0, w := 32, reset := 0 }
/-- `PLD_INn_RES_LO` (07_polder_switch.md). -/
def PLD_IN_RES_LO_RES3 (a : Nat) : Field := { off := 0xC1000 + 0x20 * a, lo := 24, w := 8, reset := pldResDefault a }
def PLD_IN_RES_LO_RES2 (a : Nat) : Field := { off := 0xC1000 + 0x20 * a, lo := 16, w := 8, reset := pldResDefault a }
def PLD_IN_RES_LO_RES1 (a : Nat) : Field := { off := 0xC1000 + 0x20 * a, lo := 8, w := 8, reset := pldResDefault a }
def PLD_IN_RES_LO_RES0 (a : Nat) : Field := { off := 0xC1000 + 0x20 * a, lo := 0, w := 8, reset := pldResDefault a }
/-- `PLD_INn_RES_HI` (07_polder_switch.md). -/
def PLD_IN_RES_HI_RES7 (a : Nat) : Field := { off := 0xC1004 + 0x20 * a, lo := 24, w := 8, reset := pldResDefault a }
def PLD_IN_RES_HI_RES6 (a : Nat) : Field := { off := 0xC1004 + 0x20 * a, lo := 16, w := 8, reset := pldResDefault a }
def PLD_IN_RES_HI_RES5 (a : Nat) : Field := { off := 0xC1004 + 0x20 * a, lo := 8, w := 8, reset := pldResDefault a }
def PLD_IN_RES_HI_RES4 (a : Nat) : Field := { off := 0xC1004 + 0x20 * a, lo := 0, w := 8, reset := pldResDefault a }
/-- `PLD_INn_SHR` (07_polder_switch.md). -/
def PLD_IN_SHR_HYST (a : Nat) : Field := { off := 0xC1008 + 0x20 * a, lo := 16, w := 16, reset := 64 }
def PLD_IN_SHR_SHR_MAX (a : Nat) : Field := { off := 0xC1008 + 0x20 * a, lo := 0, w := 16, reset := pldShrDefault a }
/-- `PLD_INn_USE` (07_polder_switch.md). -/
def PLD_IN_USE_SHR_USED (a : Nat) : Field := { off := 0xC100C + 0x20 * a, lo := 16, w := 16, reset := 0 }
def PLD_IN_USE_RES_USED (a : Nat) : Field := { off := 0xC100C + 0x20 * a, lo := 0, w := 16, reset := 0 }
/-- `PLD_INn_CNT_FRAMES` (07_polder_switch.md). -/
def PLD_IN_CNT_FRAMES (a : Nat) : Field := { off := 0xC1010 + 0x20 * a, lo := 0, w := 32, reset := 0 }
/-- `PLD_INn_CNT_DROP` (07_polder_switch.md). -/
def PLD_IN_CNT_DROP (a : Nat) : Field := { off := 0xC1014 + 0x20 * a, lo := 0, w := 32, reset := 0 }
/-- `PLD_INn_STATE` (07_polder_switch.md). -/
def PLD_IN_STATE_CREDITED (a : Nat) : Field := { off := 0xC1018 + 0x20 * a, lo := 1, w := 1, reset := (if a ≤ 2 then 1 else 0) }
def PLD_IN_STATE_HELD (a : Nat) : Field := { off := 0xC1018 + 0x20 * a, lo := 0, w := 1, reset := 0 }
/-- `PLD_OUTn_MAX` (07_polder_switch.md). -/
def PLD_OUT_MAX (a : Nat) : Field := { off := 0xC2000 + 0x10 * a, lo := 0, w := 16, reset := pldOutDefault a }
/-- `PLD_OUTn_USE` (07_polder_switch.md). -/
def PLD_OUT_USE_CREDITED (a : Nat) : Field := { off := 0xC2004 + 0x10 * a, lo := 16, w := 16, reset := 0 }
def PLD_OUT_USE_HELD (a : Nat) : Field := { off := 0xC2004 + 0x10 * a, lo := 0, w := 16, reset := 0 }
/-- `PLD_OUTn_CNT_TX` (07_polder_switch.md). -/
def PLD_OUT_CNT_TX (a : Nat) : Field := { off := 0xC2008 + 0x10 * a, lo := 0, w := 32, reset := 0 }
/-- `SCH_ERR` (08_scheduling.md). -/
def SCH_ERR : Field := { off := 0xE0000, lo := 0, w := 1, reset := 0 }
/-- `SCH_OUTn_CFG` (08_scheduling.md). -/
def SCH_OUT_CFG (a : Nat) : Field := { off := 0xE1000 + 0x100 * a, lo := 8, w := 8, reset := 128 }
/-- `SCH_OUTn_LINK` (08_scheduling.md). -/
def SCH_OUT_LINK_RATE_MBPS (a : Nat) : Field := { off := 0xE1004 + 0x100 * a, lo := 8, w := 24, reset := schRateDefault a }
def SCH_OUT_LINK_OVERHEAD (a : Nat) : Field := { off := 0xE1004 + 0x100 * a, lo := 0, w := 8, reset := schOverhead a }
/-- `SCH_OUTn_XBUDGET` (08_scheduling.md). -/
def SCH_OUT_XBUDGET_NEG (a : Nat) : Field := { off := 0xE1008 + 0x100 * a, lo := 31, w := 1, reset := 0 }
def SCH_OUT_XBUDGET_NS (a : Nat) : Field := { off := 0xE1008 + 0x100 * a, lo := 0, w := 15, reset := 20000 }
/-- `SCH_OUTn_CNT_PROMO` (08_scheduling.md). -/
def SCH_OUT_CNT_PROMO (a : Nat) : Field := { off := 0xE100C + 0x100 * a, lo := 0, w := 32, reset := 0 }
/-- `SCH_OUTn_CNT_XSENT` (08_scheduling.md). -/
def SCH_OUT_CNT_XSENT (a : Nat) : Field := { off := 0xE1010 + 0x100 * a, lo := 0, w := 32, reset := 0 }
/-- `SCH_OUTn_CNT_GUARD` (08_scheduling.md). -/
def SCH_OUT_CNT_GUARD (a : Nat) : Field := { off := 0xE1014 + 0x100 * a, lo := 0, w := 32, reset := 0 }
/-- `SCH_OUTn_CLSk_CFG` (08_scheduling.md). -/
def SCH_OUT_CLS_CFG_MAX_WAIT (a b : Nat) : Field := { off := 0xE1020 + 0x100 * a + 0x4 * b, lo := 16, w := 16, reset := 10000 }
def SCH_OUT_CLS_CFG_PROMO_EN (a b : Nat) : Field := { off := 0xE1020 + 0x100 * a + 0x4 * b, lo := 15, w := 1, reset := 1 }
def SCH_OUT_CLS_CFG_WEIGHT (a b : Nat) : Field := { off := 0xE1020 + 0x100 * a + 0x4 * b, lo := 0, w := 8, reset := 16 }
/-- `SCH_OUTn_CLSk_WEIR_RATE` (08_scheduling.md). -/
def SCH_OUT_CLS_WEIR_RATE_EN (a b : Nat) : Field := { off := 0xE1040 + 0x100 * a + 0x8 * b, lo := 31, w := 1, reset := 0 }
def SCH_OUT_CLS_WEIR_RATE_REFILL (a b : Nat) : Field := { off := 0xE1040 + 0x100 * a + 0x8 * b, lo := 30, w := 1, reset := 0 }
def SCH_OUT_CLS_WEIR_RATE_RATE (a b : Nat) : Field := { off := 0xE1040 + 0x100 * a + 0x8 * b, lo := 0, w := 27, reset := 0 }
/-- `SCH_OUTn_CLSk_WEIR_BURST` (08_scheduling.md). -/
def SCH_OUT_CLS_WEIR_BURST (a b : Nat) : Field := { off := 0xE1044 + 0x100 * a + 0x8 * b, lo := 0, w := 24, reset := 9216 }
/-- `SCH_OUTn_CLSk_WEIR_TOKENS` (08_scheduling.md). -/
def SCH_OUT_CLS_WEIR_TOKENS (a b : Nat) : Field := { off := 0xE1080 + 0x100 * a + 0x4 * b, lo := 0, w := 24, reset := 0 }
/-- `SCH_GCLg_CTRL` (08_scheduling.md). -/
def SCH_GCL_CTRL_LEN (a : Nat) : Field := { off := 0xE4000 + 0x800 * a, lo := 16, w := 8, reset := 0 }
def SCH_GCL_CTRL_ABORT (a : Nat) : Field := { off := 0xE4000 + 0x800 * a, lo := 2, w := 1, reset := 0 }
def SCH_GCL_CTRL_DISABLE (a : Nat) : Field := { off := 0xE4000 + 0x800 * a, lo := 1, w := 1, reset := 0 }
def SCH_GCL_CTRL_COMMIT (a : Nat) : Field := { off := 0xE4000 + 0x800 * a, lo := 0, w := 1, reset := 0 }
/-- `SCH_GCLg_CHANGE_LO` (08_scheduling.md). -/
def SCH_GCL_CHANGE_LO (a : Nat) : Field := { off := 0xE4004 + 0x800 * a, lo := 0, w := 32, reset := 0 }
/-- `SCH_GCLg_CHANGE_HI` (08_scheduling.md). -/
def SCH_GCL_CHANGE_HI (a : Nat) : Field := { off := 0xE4008 + 0x800 * a, lo := 0, w := 32, reset := 0 }
/-- `SCH_GCLg_STATUS` (08_scheduling.md). -/
def SCH_GCL_STATUS_ERR (a : Nat) : Field := { off := 0xE400C + 0x800 * a, lo := 28, w := 4, reset := 0 }
def SCH_GCL_STATUS_STATE (a : Nat) : Field := { off := 0xE400C + 0x800 * a, lo := 26, w := 2, reset := 0 }
def SCH_GCL_STATUS_OPER_LEN (a : Nat) : Field := { off := 0xE400C + 0x800 * a, lo := 16, w := 8, reset := 0 }
def SCH_GCL_STATUS_ENTRY (a : Nat) : Field := { off := 0xE400C + 0x800 * a, lo := 8, w := 8, reset := 0 }
def SCH_GCL_STATUS_GATES (a : Nat) : Field := { off := 0xE400C + 0x800 * a, lo := 0, w := 8, reset := 255 }
/-- `SCH_GCLg_CYCLE` (08_scheduling.md). -/
def SCH_GCL_CYCLE (a : Nat) : Field := { off := 0xE4010 + 0x800 * a, lo := 0, w := 32, reset := 0 }
/-- `SCH_GCLg_OPER_CYCLE` (08_scheduling.md). -/
def SCH_GCL_OPER_CYCLE (a : Nat) : Field := { off := 0xE4014 + 0x800 * a, lo := 0, w := 32, reset := 0 }
/-- `SCH_GCLg_GUARDk` (08_scheduling.md). -/
def SCH_GCL_GUARD (a b : Nat) : Field := { off := 0xE4020 + 0x800 * a + 0x4 * b, lo := 0, w := 32, reset := gclGuardDefault a }
/-- `SCH_GCLg_ADMe_IVL` (08_scheduling.md). -/
def SCH_GCL_ADM_IVL (a b : Nat) : Field := { off := 0xE4100 + 0x800 * a + 0x8 * b, lo := 0, w := 32, reset := 0 }
/-- `SCH_GCLg_ADMe_GATES` (08_scheduling.md). -/
def SCH_GCL_ADM_GATES (a b : Nat) : Field := { off := 0xE4104 + 0x800 * a + 0x8 * b, lo := 0, w := 8, reset := 0 }
/-- `SCH_GCLg_OPEe_IVL` (08_scheduling.md). -/
def SCH_GCL_OPE_IVL (a b : Nat) : Field := { off := 0xE4300 + 0x800 * a + 0x8 * b, lo := 0, w := 32, reset := 0 }
/-- `SCH_GCLg_OPEe_GATES` (08_scheduling.md). -/
def SCH_GCL_OPE_GATES (a b : Nat) : Field := { off := 0xE4304 + 0x800 * a + 0x8 * b, lo := 0, w := 8, reset := 0 }
/-- `TIME_COUNT_LO` (09_time.md). -/
def TIME_COUNT_LO : Field := { off := 0x60000, lo := 0, w := 32, reset := 0 }
/-- `TIME_COUNT_HI` (09_time.md). -/
def TIME_COUNT_HI : Field := { off := 0x60004, lo := 0, w := 32, reset := 0 }
/-- `TIME_NOW_LO` (09_time.md). -/
def TIME_NOW_LO : Field := { off := 0x60008, lo := 0, w := 32, reset := 0 }
/-- `TIME_NOW_HI` (09_time.md). -/
def TIME_NOW_HI : Field := { off := 0x6000C, lo := 0, w := 32, reset := 0 }
/-- `TIME_OFFSET_LO` (09_time.md). -/
def TIME_OFFSET_LO : Field := { off := 0x60010, lo := 0, w := 32, reset := 0 }
/-- `TIME_OFFSET_HI` (09_time.md). -/
def TIME_OFFSET_HI : Field := { off := 0x60014, lo := 0, w := 32, reset := 0 }
/-- `TIME_ANCHOR_LO` (09_time.md). -/
def TIME_ANCHOR_LO : Field := { off := 0x60018, lo := 0, w := 32, reset := 0 }
/-- `TIME_ANCHOR_HI` (09_time.md). -/
def TIME_ANCHOR_HI : Field := { off := 0x6001C, lo := 0, w := 32, reset := 0 }
/-- `TIME_RATE` (09_time.md). -/
def TIME_RATE : Field := { off := 0x60020, lo := 0, w := 32, reset := 0 }
/-- `TIME_STEP_LO` (09_time.md). -/
def TIME_STEP_LO : Field := { off := 0x60024, lo := 0, w := 32, reset := 0 }
/-- `TIME_STEP_HI` (09_time.md). -/
def TIME_STEP_HI : Field := { off := 0x60028, lo := 0, w := 32, reset := 0 }
/-- `TIME_CFG` (09_time.md). -/
def TIME_CFG_SYNC_US : Field := { off := 0x6002C, lo := 22, w := 10, reset := 125 }
def TIME_CFG_LIMIT_PPM : Field := { off := 0x6002C, lo := 12, w := 10, reset := 100 }
def TIME_CFG_PTP_PORT : Field := { off := 0x6002C, lo := 8, w := 4, reset := 0 }
def TIME_CFG_PPS_IN_EN : Field := { off := 0x6002C, lo := 3, w := 1, reset := 0 }
def TIME_CFG_PPS_OUT_EN : Field := { off := 0x6002C, lo := 2, w := 1, reset := 0 }
def TIME_CFG_SRC : Field := { off := 0x6002C, lo := 0, w := 2, reset := 0 }
/-- `TIME_CTRL` (09_time.md). -/
def TIME_CTRL : Field := { off := 0x60030, lo := 0, w := 1, reset := 0 }
/-- `TIME_STATUS` (09_time.md). -/
def TIME_STATUS_HOPS : Field := { off := 0x60034, lo := 24, w := 8, reset := 0 }
def TIME_STATUS_EVER_LOCKED : Field := { off := 0x60034, lo := 15, w := 1, reset := 0 }
def TIME_STATUS_LOCKED_SINCE_RESET : Field := { off := 0x60034, lo := 14, w := 1, reset := 0 }
def TIME_STATUS_CLOSURE_VALID : Field := { off := 0x60034, lo := 13, w := 1, reset := 0 }
def TIME_STATUS_CHAIN : Field := { off := 0x60034, lo := 12, w := 1, reset := 0 }
def TIME_STATUS_LOCK : Field := { off := 0x60034, lo := 0, w := 3, reset := 0 }
/-- `TIME_ERR` (09_time.md). -/
def TIME_ERR_UPSTREAM_LOST : Field := { off := 0x60038, lo := 3, w := 1, reset := 0 }
def TIME_ERR_STEP_REJECT : Field := { off := 0x60038, lo := 2, w := 1, reset := 0 }
def TIME_ERR_RATE_REJECT : Field := { off := 0x60038, lo := 1, w := 1, reset := 0 }
def TIME_ERR_CFG_REJECT : Field := { off := 0x60038, lo := 0, w := 1, reset := 0 }
/-- `TIME_ERR_EST` (09_time.md). -/
def TIME_ERR_EST : Field := { off := 0x6003C, lo := 0, w := 32, reset := 0 }
/-- `TIME_CLOSURE` (09_time.md). -/
def TIME_CLOSURE : Field := { off := 0x60040, lo := 0, w := 32, reset := 0 }
/-- `TIME_LINKn_DELAY` (09_time.md). -/
def TIME_LINK_DELAY (a : Nat) : Field := { off := 0x60050 + 0x4 * a, lo := 0, w := 32, reset := 0 }
/-- `TIME_LINKn_ASYM` (09_time.md). -/
def TIME_LINK_ASYM (a : Nat) : Field := { off := 0x60060 + 0x4 * a, lo := 0, w := 32, reset := 0 }
/-- `TIME_PPS_IN_LO` (09_time.md). -/
def TIME_PPS_IN_LO : Field := { off := 0x60070, lo := 0, w := 32, reset := 0 }
/-- `TIME_PPS_IN_HI` (09_time.md). -/
def TIME_PPS_IN_HI : Field := { off := 0x60074, lo := 0, w := 32, reset := 0 }
/-- `TIME_FSYNCn_CTRL` (09_time.md). -/
def TIME_FSYNC_CTRL_POL (a : Nat) : Field := { off := 0x60100 + 0x20 * a, lo := 2, w := 1, reset := 0 }
def TIME_FSYNC_CTRL_ONCE (a : Nat) : Field := { off := 0x60100 + 0x20 * a, lo := 1, w := 1, reset := 0 }
def TIME_FSYNC_CTRL_EN (a : Nat) : Field := { off := 0x60100 + 0x20 * a, lo := 0, w := 1, reset := 0 }
/-- `TIME_FSYNCn_START_LO` (09_time.md). -/
def TIME_FSYNC_START_LO (a : Nat) : Field := { off := 0x60104 + 0x20 * a, lo := 0, w := 32, reset := 0 }
/-- `TIME_FSYNCn_START_HI` (09_time.md). -/
def TIME_FSYNC_START_HI (a : Nat) : Field := { off := 0x60108 + 0x20 * a, lo := 0, w := 32, reset := 0 }
/-- `TIME_FSYNCn_PERIOD` (09_time.md). -/
def TIME_FSYNC_PERIOD (a : Nat) : Field := { off := 0x6010C + 0x20 * a, lo := 0, w := 32, reset := 0 }
/-- `TIME_FSYNCn_WIDTH` (09_time.md). -/
def TIME_FSYNC_WIDTH (a : Nat) : Field := { off := 0x60110 + 0x20 * a, lo := 0, w := 32, reset := 0 }
/-- `TIME_FSYNCn_CNT_FIRED` (09_time.md). -/
def TIME_FSYNC_CNT_FIRED (a : Nat) : Field := { off := 0x60114 + 0x20 * a, lo := 0, w := 32, reset := 0 }
/-- `TIME_FSYNCn_CNT_LATE` (09_time.md). -/
def TIME_FSYNC_CNT_LATE (a : Nat) : Field := { off := 0x60118 + 0x20 * a, lo := 0, w := 32, reset := 0 }
/-- `NET_QS_STATUS` (10_ethernet.md). -/
def NET_QS_STATUS : Field := { off := 0x100000, lo := 0, w := 4, reset := 0 }
/-- `NET_ERR` (10_ethernet.md). -/
def NET_ERR : Field := { off := 0x100004, lo := 0, w := 1, reset := 0 }
/-- `NET_PORTn_CFG` (10_ethernet.md). -/
def NET_PORT_CFG_EN (a : Nat) : Field := { off := 0x101000 + 0x40 * a, lo := 31, w := 1, reset := 0 }
def NET_PORT_CFG_PAUSE_TX_EN (a : Nat) : Field := { off := 0x101000 + 0x40 * a, lo := 30, w := 1, reset := 1 }
def NET_PORT_CFG_PAUSE_RX_EN (a : Nat) : Field := { off := 0x101000 + 0x40 * a, lo := 29, w := 1, reset := 1 }
def NET_PORT_CFG_TS_APPEND (a : Nat) : Field := { off := 0x101000 + 0x40 * a, lo := 28, w := 1, reset := 0 }
def NET_PORT_CFG_PTP_TRAP (a : Nat) : Field := { off := 0x101000 + 0x40 * a, lo := 27, w := 1, reset := 1 }
def NET_PORT_CFG_DEF_CLASS (a : Nat) : Field := { off := 0x101000 + 0x40 * a, lo := 24, w := 3, reset := 0 }
def NET_PORT_CFG_MAX_FRAME (a : Nat) : Field := { off := 0x101000 + 0x40 * a, lo := 0, w := 14, reset := 1522 }
/-- `NET_PORTn_PCP_MAP` (10_ethernet.md). -/
def NET_PORT_PCP_MAP (a : Nat) : Field := { off := 0x101004 + 0x40 * a, lo := 0, w := 24, reset := 16434824 }
/-- `NET_PORTn_STATUS` (10_ethernet.md). -/
def NET_PORT_STATUS_LINK (a : Nat) : Field := { off := 0x101008 + 0x40 * a, lo := 6, w := 1, reset := 0 }
def NET_PORT_STATUS_SPEED (a : Nat) : Field := { off := 0x101008 + 0x40 * a, lo := 4, w := 2, reset := 0 }
def NET_PORT_STATUS_STATE (a : Nat) : Field := { off := 0x101008 + 0x40 * a, lo := 0, w := 3, reset := 0 }
/-- `NET_PORTn_LAT10` (10_ethernet.md). -/
def NET_PORT_LAT10_RX_LAT (a : Nat) : Field := { off := 0x10100C + 0x40 * a, lo := 16, w := 16, reset := 0 }
def NET_PORT_LAT10_TX_LAT (a : Nat) : Field := { off := 0x10100C + 0x40 * a, lo := 0, w := 16, reset := 0 }
/-- `NET_PORTn_LAT100` (10_ethernet.md). -/
def NET_PORT_LAT100_RX_LAT (a : Nat) : Field := { off := 0x101010 + 0x40 * a, lo := 16, w := 16, reset := 0 }
def NET_PORT_LAT100_TX_LAT (a : Nat) : Field := { off := 0x101010 + 0x40 * a, lo := 0, w := 16, reset := 0 }
/-- `NET_PORTn_LAT1000` (10_ethernet.md). -/
def NET_PORT_LAT1000_RX_LAT (a : Nat) : Field := { off := 0x101014 + 0x40 * a, lo := 16, w := 16, reset := 0 }
def NET_PORT_LAT1000_TX_LAT (a : Nat) : Field := { off := 0x101014 + 0x40 * a, lo := 0, w := 16, reset := 0 }
/-- `NET_PORTn_PAUSE` (10_ethernet.md). -/
def NET_PORT_PAUSE (a : Nat) : Field := { off := 0x101018 + 0x40 * a, lo := 0, w := 16, reset := 65535 }
/-- `NET_PORTn_CNT_RX` (10_ethernet.md). -/
def NET_PORT_CNT_RX (a : Nat) : Field := { off := 0x10101C + 0x40 * a, lo := 0, w := 32, reset := 0 }
/-- `NET_PORTn_CNT_TX` (10_ethernet.md). -/
def NET_PORT_CNT_TX (a : Nat) : Field := { off := 0x101020 + 0x40 * a, lo := 0, w := 32, reset := 0 }
/-- `NET_PORTn_CNT_FCS` (10_ethernet.md). -/
def NET_PORT_CNT_FCS (a : Nat) : Field := { off := 0x101024 + 0x40 * a, lo := 0, w := 32, reset := 0 }
/-- `NET_PORTn_CNT_RUNT` (10_ethernet.md). -/
def NET_PORT_CNT_RUNT (a : Nat) : Field := { off := 0x101028 + 0x40 * a, lo := 0, w := 32, reset := 0 }
/-- `NET_PORTn_CNT_LONG` (10_ethernet.md). -/
def NET_PORT_CNT_LONG (a : Nat) : Field := { off := 0x10102C + 0x40 * a, lo := 0, w := 32, reset := 0 }
/-- `NET_PORTn_CNT_DROP` (10_ethernet.md). -/
def NET_PORT_CNT_DROP (a : Nat) : Field := { off := 0x101030 + 0x40 * a, lo := 0, w := 32, reset := 0 }
/-- `NET_PORTn_CNT_PAUSE_TX` (10_ethernet.md). -/
def NET_PORT_CNT_PAUSE_TX (a : Nat) : Field := { off := 0x101034 + 0x40 * a, lo := 0, w := 32, reset := 0 }
/-- `NET_PORTn_CNT_PAUSE_RX` (10_ethernet.md). -/
def NET_PORT_CNT_PAUSE_RX (a : Nat) : Field := { off := 0x101038 + 0x40 * a, lo := 0, w := 32, reset := 0 }
/-- `NET_PORTn_CNT_DOWN` (10_ethernet.md). -/
def NET_PORT_CNT_DOWN (a : Nat) : Field := { off := 0x10103C + 0x40 * a, lo := 0, w := 32, reset := 0 }
/-- `FCn_ERR` (11_field_clusters_fifos.md). -/
def FC_ERR_EVT_LOST (a : Nat) : Field := { off := 0x400000 + 0x100000 * a, lo := 1, w := 1, reset := 0 }
def FC_ERR_CFG_REJECT (a : Nat) : Field := { off := 0x400000 + 0x100000 * a, lo := 0, w := 1, reset := 0 }
/-- `FCn_EVT_CFG` (11_field_clusters_fifos.md). -/
def FC_EVT_CFG (a : Nat) : Field := { off := 0x400004 + 0x100000 * a, lo := 16, w := 16, reset := 100 }
/-- `FCn_PINp_CFG` (11_field_clusters_fifos.md). -/
def FC_PIN_CFG_FLOW_POL (a b : Nat) : Field := { off := 0x400100 + 0x100000 * a + 0x4 * b, lo := 14, w := 1, reset := 0 }
def FC_PIN_CFG_FLOW_DIR (a b : Nat) : Field := { off := 0x400100 + 0x100000 * a + 0x4 * b, lo := 13, w := 1, reset := 0 }
def FC_PIN_CFG_FLOW_PORT (a b : Nat) : Field := { off := 0x400100 + 0x100000 * a + 0x4 * b, lo := 8, w := 5, reset := 0 }
def FC_PIN_CFG_DRIVE (a b : Nat) : Field := { off := 0x400100 + 0x100000 * a + 0x4 * b, lo := 3, w := 2, reset := 0 }
def FC_PIN_CFG_PULL (a b : Nat) : Field := { off := 0x400100 + 0x100000 * a + 0x4 * b, lo := 2, w := 1, reset := 1 }
def FC_PIN_CFG_FUNC (a b : Nat) : Field := { off := 0x400100 + 0x100000 * a + 0x4 * b, lo := 0, w := 2, reset := 3 }
/-- `FCn_DIO_OUTm_SET` (11_field_clusters_fifos.md). -/
def FC_DIO_OUT_SET (a b : Nat) : Field := { off := 0x400200 + 0x100000 * a + 0x8 * b, lo := 0, w := 32, reset := 0 }
/-- `FCn_DIO_OUTm_CLR` (11_field_clusters_fifos.md). -/
def FC_DIO_OUT_CLR (a b : Nat) : Field := FC_DIO_OUT_SET a b
/-- `FCn_DIO_INm` (11_field_clusters_fifos.md). -/
def FC_DIO_IN (a b : Nat) : Field := { off := 0x400210 + 0x100000 * a + 0x4 * b, lo := 0, w := 32, reset := 0 }
/-- `FCn_DIO_EDGEm` (11_field_clusters_fifos.md). -/
def FC_DIO_EDGE (a b : Nat) : Field := { off := 0x400218 + 0x100000 * a + 0x4 * b, lo := 0, w := 32, reset := 0 }
/-- `FC0_FLOWm_CFG` (11_field_clusters_fifos.md). -/
def FC0_FLOW_CFG_EN (a : Nat) : Field := { off := 0x400300 + 0x4 * a, lo := 31, w := 1, reset := 0 }
def FC0_FLOW_CFG_POL (a : Nat) : Field := { off := 0x400300 + 0x4 * a, lo := 30, w := 1, reset := 0 }
def FC0_FLOW_CFG_DIR (a : Nat) : Field := { off := 0x400300 + 0x4 * a, lo := 29, w := 1, reset := 0 }
def FC0_FLOW_CFG_CLUSTER (a : Nat) : Field := { off := 0x400300 + 0x4 * a, lo := 8, w := 3, reset := 0 }
def FC0_FLOW_CFG_PORT (a : Nat) : Field := { off := 0x400300 + 0x4 * a, lo := 0, w := 5, reset := 0 }
/-- `FCn_DIOp_CFG` (11_field_clusters_fifos.md). -/
def FC_DIO_CFG_DEB (a b : Nat) : Field := { off := 0x401000 + 0x100000 * a + 0x10 * b, lo := 16, w := 16, reset := 0 }
def FC_DIO_CFG_EVT_EN (a b : Nat) : Field := { off := 0x401000 + 0x100000 * a + 0x10 * b, lo := 4, w := 1, reset := 0 }
def FC_DIO_CFG_EDGE (a b : Nat) : Field := { off := 0x401000 + 0x100000 * a + 0x10 * b, lo := 2, w := 2, reset := 0 }
def FC_DIO_CFG_INIT (a b : Nat) : Field := { off := 0x401000 + 0x100000 * a + 0x10 * b, lo := 1, w := 1, reset := 0 }
def FC_DIO_CFG_DIR (a b : Nat) : Field := { off := 0x401000 + 0x100000 * a + 0x10 * b, lo := 0, w := 1, reset := 0 }
/-- `FCn_DIOp_CNT_EDGE` (11_field_clusters_fifos.md). -/
def FC_DIO_CNT_EDGE (a b : Nat) : Field := { off := 0x401004 + 0x100000 * a + 0x10 * b, lo := 0, w := 32, reset := 0 }
/-- `FCn_DIOp_QUEUE` (11_field_clusters_fifos.md). -/
def FC_DIO_QUEUE (a b : Nat) : Field := { off := 0x401008 + 0x100000 * a + 0x10 * b, lo := 0, w := 4, reset := 0 }
/-- `FCn_PORTq_CFG` (11_field_clusters_fifos.md). -/
def FC_PORT_CFG_RX_EN (a b : Nat) : Field := { off := 0x404000 + 0x100000 * a + 0x40 * b, lo := 31, w := 1, reset := 0 }
def FC_PORT_CFG_TX_EN (a b : Nat) : Field := { off := 0x404000 + 0x100000 * a + 0x40 * b, lo := 30, w := 1, reset := 0 }
def FC_PORT_CFG_ROUTE (a b : Nat) : Field := { off := 0x404000 + 0x100000 * a + 0x40 * b, lo := 29, w := 1, reset := 0 }
def FC_PORT_CFG_MAX_PKT (a b : Nat) : Field := { off := 0x404000 + 0x100000 * a + 0x40 * b, lo := 0, w := 12, reset := 256 }
/-- `FCn_PORTq_RXWM` (11_field_clusters_fifos.md). -/
def FC_PORT_RXWM_HI (a b : Nat) : Field := { off := 0x404004 + 0x100000 * a + 0x40 * b, lo := 16, w := 10, reset := 384 }
def FC_PORT_RXWM_LO (a b : Nat) : Field := { off := 0x404004 + 0x100000 * a + 0x40 * b, lo := 0, w := 10, reset := 128 }
/-- `FCn_PORTq_TXWM` (11_field_clusters_fifos.md). -/
def FC_PORT_TXWM_HI (a b : Nat) : Field := { off := 0x404008 + 0x100000 * a + 0x40 * b, lo := 16, w := 10, reset := 448 }
def FC_PORT_TXWM_LO (a b : Nat) : Field := { off := 0x404008 + 0x100000 * a + 0x40 * b, lo := 0, w := 10, reset := 64 }
/-- `FCn_PORTq_CTRL` (11_field_clusters_fifos.md). -/
def FC_PORT_CTRL_DROP_TX (a b : Nat) : Field := { off := 0x40400C + 0x100000 * a + 0x40 * b, lo := 3, w := 1, reset := 0 }
def FC_PORT_CTRL_DROP_RX (a b : Nat) : Field := { off := 0x40400C + 0x100000 * a + 0x40 * b, lo := 2, w := 1, reset := 0 }
def FC_PORT_CTRL_FLUSH_TX (a b : Nat) : Field := { off := 0x40400C + 0x100000 * a + 0x40 * b, lo := 1, w := 1, reset := 0 }
def FC_PORT_CTRL_FLUSH_RX (a b : Nat) : Field := { off := 0x40400C + 0x100000 * a + 0x40 * b, lo := 0, w := 1, reset := 0 }
/-- `FCn_PORTq_STATUS` (11_field_clusters_fifos.md). -/
def FC_PORT_STATUS_RX_FORCED (a b : Nat) : Field := { off := 0x404010 + 0x100000 * a + 0x40 * b, lo := 31, w := 1, reset := 0 }
def FC_PORT_STATUS_RX_ABOVE (a b : Nat) : Field := { off := 0x404010 + 0x100000 * a + 0x40 * b, lo := 30, w := 1, reset := 0 }
def FC_PORT_STATUS_TX_ABOVE (a b : Nat) : Field := { off := 0x404010 + 0x100000 * a + 0x40 * b, lo := 29, w := 1, reset := 0 }
def FC_PORT_STATUS_FLUSH_BUSY (a b : Nat) : Field := { off := 0x404010 + 0x100000 * a + 0x40 * b, lo := 28, w := 1, reset := 0 }
def FC_PORT_STATUS_RX_FILL (a b : Nat) : Field := { off := 0x404010 + 0x100000 * a + 0x40 * b, lo := 16, w := 10, reset := 0 }
def FC_PORT_STATUS_TX_FILL (a b : Nat) : Field := { off := 0x404010 + 0x100000 * a + 0x40 * b, lo := 0, w := 10, reset := 0 }
/-- `FCn_PORTq_FLAGS` (11_field_clusters_fifos.md). -/
def FC_PORT_FLAGS_DROP_LATE (a b : Nat) : Field := { off := 0x404014 + 0x100000 * a + 0x40 * b, lo := 5, w := 1, reset := 0 }
def FC_PORT_FLAGS_KEPT (a b : Nat) : Field := { off := 0x404014 + 0x100000 * a + 0x40 * b, lo := 4, w := 1, reset := 0 }
def FC_PORT_FLAGS_OVERLONG (a b : Nat) : Field := { off := 0x404014 + 0x100000 * a + 0x40 * b, lo := 3, w := 1, reset := 0 }
def FC_PORT_FLAGS_RX_OVER (a b : Nat) : Field := { off := 0x404014 + 0x100000 * a + 0x40 * b, lo := 2, w := 1, reset := 0 }
def FC_PORT_FLAGS_TX_UNDER (a b : Nat) : Field := { off := 0x404014 + 0x100000 * a + 0x40 * b, lo := 1, w := 1, reset := 0 }
/-- `FCn_PORTq_CNT_RX` (11_field_clusters_fifos.md). -/
def FC_PORT_CNT_RX (a b : Nat) : Field := { off := 0x404018 + 0x100000 * a + 0x40 * b, lo := 0, w := 32, reset := 0 }
/-- `FCn_PORTq_CNT_TX` (11_field_clusters_fifos.md). -/
def FC_PORT_CNT_TX (a b : Nat) : Field := { off := 0x40401C + 0x100000 * a + 0x40 * b, lo := 0, w := 32, reset := 0 }
/-- `FCn_PORTq_CNT_RX_DROP` (11_field_clusters_fifos.md). -/
def FC_PORT_CNT_RX_DROP (a b : Nat) : Field := { off := 0x404020 + 0x100000 * a + 0x40 * b, lo := 0, w := 32, reset := 0 }
/-- `FCn_PIOg_ERR` (12_pio_engines.md). -/
def FC_PIO_ERR_PIN_CLASH (a b : Nat) : Field := { off := 0x410000 + 0x100000 * a + 0x1000 * b, lo := 2, w := 1, reset := 0 }
def FC_PIO_ERR_CFG_REJECT (a b : Nat) : Field := { off := 0x410000 + 0x100000 * a + 0x1000 * b, lo := 1, w := 1, reset := 0 }
def FC_PIO_ERR_PROG_REJECT (a b : Nat) : Field := { off := 0x410000 + 0x100000 * a + 0x1000 * b, lo := 0, w := 1, reset := 0 }
/-- `FCn_PIOg_SYNC` (12_pio_engines.md). -/
def FC_PIO_SYNC_AT (a b : Nat) : Field := { off := 0x410004 + 0x100000 * a + 0x1000 * b, lo := 16, w := 1, reset := 0 }
def FC_PIO_SYNC_RESTART (a b : Nat) : Field := { off := 0x410004 + 0x100000 * a + 0x1000 * b, lo := 8, w := 8, reset := 0 }
def FC_PIO_SYNC_START (a b : Nat) : Field := { off := 0x410004 + 0x100000 * a + 0x1000 * b, lo := 0, w := 8, reset := 0 }
/-- `FCn_PIOg_HALT` (12_pio_engines.md). -/
def FC_PIO_HALT (a b : Nat) : Field := { off := 0x410008 + 0x100000 * a + 0x1000 * b, lo := 0, w := 8, reset := 0 }
/-- `FCn_PIOg_SYNC_TIME_LO` (12_pio_engines.md). -/
def FC_PIO_SYNC_TIME_LO (a b : Nat) : Field := { off := 0x41000C + 0x100000 * a + 0x1000 * b, lo := 0, w := 32, reset := 0 }
/-- `FCn_PIOg_SYNC_TIME_HI` (12_pio_engines.md). -/
def FC_PIO_SYNC_TIME_HI (a b : Nat) : Field := { off := 0x410010 + 0x100000 * a + 0x1000 * b, lo := 0, w := 32, reset := 0 }
/-- `FCn_PIOg_STATE` (12_pio_engines.md). -/
def FC_PIO_STATE_SYNC_PENDING (a b : Nat) : Field := { off := 0x410014 + 0x100000 * a + 0x1000 * b, lo := 16, w := 1, reset := 0 }
def FC_PIO_STATE_STALLED (a b : Nat) : Field := { off := 0x410014 + 0x100000 * a + 0x1000 * b, lo := 8, w := 8, reset := 0 }
def FC_PIO_STATE_RUNNING (a b : Nat) : Field := { off := 0x410014 + 0x100000 * a + 0x1000 * b, lo := 0, w := 8, reset := 0 }
/-- `FCn_PIOg_EVF_SET` (12_pio_engines.md). -/
def FC_PIO_EVF_SET (a b : Nat) : Field := { off := 0x410018 + 0x100000 * a + 0x1000 * b, lo := 0, w := 8, reset := 0 }
/-- `FCn_PIOg_EVF_CLR` (12_pio_engines.md). -/
def FC_PIO_EVF_CLR (a b : Nat) : Field := FC_PIO_EVF_SET a b
/-- `FCn_PIOg_IRQ` (12_pio_engines.md). -/
def FC_PIO_IRQ_FAULT (a b : Nat) : Field := { off := 0x410020 + 0x100000 * a + 0x1000 * b, lo := 8, w := 8, reset := 0 }
def FC_PIO_IRQ_EVT (a b : Nat) : Field := { off := 0x410020 + 0x100000 * a + 0x1000 * b, lo := 0, w := 8, reset := 0 }
/-- `FCn_PIOg_PROGw` (12_pio_engines.md). -/
def FC_PIO_PROG (a b c : Nat) : Field := { off := 0x410400 + 0x100000 * a + 0x1000 * b + 0x4 * c, lo := 0, w := 32, reset := 2684354560 }
/-- `FCn_PIOg_ENGe_CTRL` (12_pio_engines.md). -/
def FC_PIO_ENG_CTRL_ENTRY (a b c : Nat) : Field := { off := 0x410800 + 0x100000 * a + 0x1000 * b + 0x40 * c, lo := 16, w := 7, reset := 0 }
def FC_PIO_ENG_CTRL_END (a b c : Nat) : Field := { off := 0x410800 + 0x100000 * a + 0x1000 * b + 0x40 * c, lo := 8, w := 7, reset := 0 }
def FC_PIO_ENG_CTRL_BASE (a b c : Nat) : Field := { off := 0x410800 + 0x100000 * a + 0x1000 * b + 0x40 * c, lo := 0, w := 7, reset := 0 }
/-- `FCn_PIOg_ENGe_DIV` (12_pio_engines.md). -/
def FC_PIO_ENG_DIV_NUM (a b c : Nat) : Field := { off := 0x410804 + 0x100000 * a + 0x1000 * b + 0x40 * c, lo := 24, w := 8, reset := 1 }
def FC_PIO_ENG_DIV_MOD (a b c : Nat) : Field := { off := 0x410804 + 0x100000 * a + 0x1000 * b + 0x40 * c, lo := 0, w := 24, reset := 1 }
/-- `FCn_PIOg_ENGe_PINS` (12_pio_engines.md). -/
def FC_PIO_ENG_PINS_CLK_OUT (a b c : Nat) : Field := { off := 0x410808 + 0x100000 * a + 0x1000 * b + 0x40 * c, lo := 19, w := 1, reset := 1 }
def FC_PIO_ENG_PINS_OD (a b c : Nat) : Field := { off := 0x410808 + 0x100000 * a + 0x1000 * b + 0x40 * c, lo := 18, w := 1, reset := 0 }
def FC_PIO_ENG_PINS_STRETCH (a b c : Nat) : Field := { off := 0x410808 + 0x100000 * a + 0x1000 * b + 0x40 * c, lo := 17, w := 1, reset := 0 }
def FC_PIO_ENG_PINS_SAMPLE (a b c : Nat) : Field := { off := 0x410808 + 0x100000 * a + 0x1000 * b + 0x40 * c, lo := 16, w := 1, reset := 0 }
def FC_PIO_ENG_PINS_ORDER (a b c : Nat) : Field := { off := 0x410808 + 0x100000 * a + 0x1000 * b + 0x40 * c, lo := 15, w := 1, reset := 0 }
def FC_PIO_ENG_PINS_CLK_PIN (a b c : Nat) : Field := { off := 0x410808 + 0x100000 * a + 0x1000 * b + 0x40 * c, lo := 8, w := 4, reset := 0 }
def FC_PIO_ENG_PINS_IN_PIN (a b c : Nat) : Field := { off := 0x410808 + 0x100000 * a + 0x1000 * b + 0x40 * c, lo := 4, w := 4, reset := 0 }
def FC_PIO_ENG_PINS_OUT_PIN (a b c : Nat) : Field := { off := 0x410808 + 0x100000 * a + 0x1000 * b + 0x40 * c, lo := 0, w := 4, reset := 0 }
/-- `FCn_PIOg_ENGe_PORTS` (12_pio_engines.md). -/
def FC_PIO_ENG_PORTS_TX_USE (a b c : Nat) : Field := { off := 0x41080C + 0x100000 * a + 0x1000 * b + 0x40 * c, lo := 31, w := 1, reset := 0 }
def FC_PIO_ENG_PORTS_RX_USE (a b c : Nat) : Field := { off := 0x41080C + 0x100000 * a + 0x1000 * b + 0x40 * c, lo := 30, w := 1, reset := 0 }
def FC_PIO_ENG_PORTS_UNDER_TARGET (a b c : Nat) : Field := { off := 0x41080C + 0x100000 * a + 0x1000 * b + 0x40 * c, lo := 16, w := 7, reset := 0 }
def FC_PIO_ENG_PORTS_RX_PORT (a b c : Nat) : Field := { off := 0x41080C + 0x100000 * a + 0x1000 * b + 0x40 * c, lo := 8, w := 3, reset := 0 }
def FC_PIO_ENG_PORTS_TX_PORT (a b c : Nat) : Field := { off := 0x41080C + 0x100000 * a + 0x1000 * b + 0x40 * c, lo := 0, w := 3, reset := 0 }
/-- `FCn_PIOg_ENGe_TIMING` (12_pio_engines.md). -/
def FC_PIO_ENG_TIMING_TICK (a b c : Nat) : Field := { off := 0x410810 + 0x100000 * a + 0x1000 * b + 0x40 * c, lo := 16, w := 16, reset := 0 }
def FC_PIO_ENG_TIMING_EOP_IDLE (a b c : Nat) : Field := { off := 0x410810 + 0x100000 * a + 0x1000 * b + 0x40 * c, lo := 0, w := 16, reset := 0 }
/-- `FCn_PIOg_ENGe_CNT` (12_pio_engines.md). -/
def FC_PIO_ENG_CNT_CB (a b c : Nat) : Field := { off := 0x410814 + 0x100000 * a + 0x1000 * b + 0x40 * c, lo := 16, w := 16, reset := 0 }
def FC_PIO_ENG_CNT_CA (a b c : Nat) : Field := { off := 0x410814 + 0x100000 * a + 0x1000 * b + 0x40 * c, lo := 0, w := 16, reset := 0 }
/-- `FCn_PIOg_ENGe_D` (12_pio_engines.md). -/
def FC_PIO_ENG_D (a b c : Nat) : Field := { off := 0x410818 + 0x100000 * a + 0x1000 * b + 0x40 * c, lo := 0, w := 32, reset := 0 }
/-- `FCn_PIOg_ENGe_TSR` (12_pio_engines.md). -/
def FC_PIO_ENG_TSR (a b c : Nat) : Field := { off := 0x41081C + 0x100000 * a + 0x1000 * b + 0x40 * c, lo := 0, w := 32, reset := 0 }
/-- `FCn_PIOg_ENGe_RSR` (12_pio_engines.md). -/
def FC_PIO_ENG_RSR (a b c : Nat) : Field := { off := 0x410820 + 0x100000 * a + 0x1000 * b + 0x40 * c, lo := 0, w := 32, reset := 0 }
/-- `FCn_PIOg_ENGe_STATUS` (12_pio_engines.md). -/
def FC_PIO_ENG_STATUS_PC (a b c : Nat) : Field := { off := 0x410824 + 0x100000 * a + 0x1000 * b + 0x40 * c, lo := 16, w := 7, reset := 0 }
def FC_PIO_ENG_STATUS_NO_EOF (a b c : Nat) : Field := { off := 0x410824 + 0x100000 * a + 0x1000 * b + 0x40 * c, lo := 9, w := 1, reset := 0 }
def FC_PIO_ENG_STATUS_EOF_EARLY (a b c : Nat) : Field := { off := 0x410824 + 0x100000 * a + 0x1000 * b + 0x40 * c, lo := 8, w := 1, reset := 0 }
def FC_PIO_ENG_STATUS_ILLEGAL (a b c : Nat) : Field := { off := 0x410824 + 0x100000 * a + 0x1000 * b + 0x40 * c, lo := 7, w := 1, reset := 0 }
def FC_PIO_ENG_STATUS_ABORTED (a b c : Nat) : Field := { off := 0x410824 + 0x100000 * a + 0x1000 * b + 0x40 * c, lo := 6, w := 1, reset := 0 }
def FC_PIO_ENG_STATUS_RX_OVER (a b c : Nat) : Field := { off := 0x410824 + 0x100000 * a + 0x1000 * b + 0x40 * c, lo := 5, w := 1, reset := 0 }
def FC_PIO_ENG_STATUS_TX_UNDER (a b c : Nat) : Field := { off := 0x410824 + 0x100000 * a + 0x1000 * b + 0x40 * c, lo := 4, w := 1, reset := 0 }
def FC_PIO_ENG_STATUS_STATE (a b c : Nat) : Field := { off := 0x410824 + 0x100000 * a + 0x1000 * b + 0x40 * c, lo := 0, w := 2, reset := 0 }
/-- `FCn_PIOg_ENGe_CNT_EOF` (12_pio_engines.md). -/
def FC_PIO_ENG_CNT_EOF (a b c : Nat) : Field := { off := 0x410828 + 0x100000 * a + 0x1000 * b + 0x40 * c, lo := 0, w := 32, reset := 0 }
/-- `FCn_CANc_CFG` (13_can.md). -/
def FC_CAN_CFG_EN (a b : Nat) : Field := { off := 0x420000 + 0x100000 * a + 0x8000 * b, lo := 31, w := 1, reset := 0 }
def FC_CAN_CFG_TX_EN (a b : Nat) : Field := { off := 0x420000 + 0x100000 * a + 0x8000 * b, lo := 30, w := 1, reset := 0 }
def FC_CAN_CFG_RX_EN (a b : Nat) : Field := { off := 0x420000 + 0x100000 * a + 0x8000 * b, lo := 29, w := 1, reset := 0 }
def FC_CAN_CFG_RESTRICTED (a b : Nat) : Field := { off := 0x420000 + 0x100000 * a + 0x8000 * b, lo := 28, w := 1, reset := 0 }
def FC_CAN_CFG_FD_EN (a b : Nat) : Field := { off := 0x420000 + 0x100000 * a + 0x8000 * b, lo := 27, w := 1, reset := 1 }
def FC_CAN_CFG_TDC_EN (a b : Nat) : Field := { off := 0x420000 + 0x100000 * a + 0x8000 * b, lo := 26, w := 1, reset := 1 }
def FC_CAN_CFG_AUTO_RECOVER (a b : Nat) : Field := { off := 0x420000 + 0x100000 * a + 0x8000 * b, lo := 25, w := 1, reset := 0 }
def FC_CAN_CFG_NOMATCH_STORE (a b : Nat) : Field := { off := 0x420000 + 0x100000 * a + 0x8000 * b, lo := 24, w := 1, reset := 0 }
def FC_CAN_CFG_NOMATCH_OBJ (a b : Nat) : Field := { off := 0x420000 + 0x100000 * a + 0x8000 * b, lo := 16, w := 7, reset := 0 }
def FC_CAN_CFG_FILT_COUNT (a b : Nat) : Field := { off := 0x420000 + 0x100000 * a + 0x8000 * b, lo := 0, w := 9, reset := 256 }
/-- `FCn_CANc_CMD` (13_can.md). -/
def FC_CAN_CMD_SLEEP (a b : Nat) : Field := { off := 0x420004 + 0x100000 * a + 0x8000 * b, lo := 3, w := 1, reset := 0 }
def FC_CAN_CMD_WAKE (a b : Nat) : Field := { off := 0x420004 + 0x100000 * a + 0x8000 * b, lo := 2, w := 1, reset := 0 }
def FC_CAN_CMD_RECOVER (a b : Nat) : Field := { off := 0x420004 + 0x100000 * a + 0x8000 * b, lo := 1, w := 1, reset := 0 }
/-- `FCn_CANc_NBT` (13_can.md). -/
def FC_CAN_NBT_NBRP (a b : Nat) : Field := { off := 0x420008 + 0x100000 * a + 0x8000 * b, lo := 24, w := 8, reset := 2 }
def FC_CAN_NBT_NTSEG1 (a b : Nat) : Field := { off := 0x420008 + 0x100000 * a + 0x8000 * b, lo := 16, w := 8, reset := 63 }
def FC_CAN_NBT_NTSEG2 (a b : Nat) : Field := { off := 0x420008 + 0x100000 * a + 0x8000 * b, lo := 8, w := 7, reset := 16 }
def FC_CAN_NBT_NSJW (a b : Nat) : Field := { off := 0x420008 + 0x100000 * a + 0x8000 * b, lo := 0, w := 7, reset := 16 }
/-- `FCn_CANc_DBT` (13_can.md). -/
def FC_CAN_DBT_DBRP (a b : Nat) : Field := { off := 0x42000C + 0x100000 * a + 0x8000 * b, lo := 24, w := 5, reset := 2 }
def FC_CAN_DBT_DTSEG1 (a b : Nat) : Field := { off := 0x42000C + 0x100000 * a + 0x8000 * b, lo := 16, w := 5, reset := 15 }
def FC_CAN_DBT_DTSEG2 (a b : Nat) : Field := { off := 0x42000C + 0x100000 * a + 0x8000 * b, lo := 8, w := 4, reset := 4 }
def FC_CAN_DBT_DSJW (a b : Nat) : Field := { off := 0x42000C + 0x100000 * a + 0x8000 * b, lo := 0, w := 4, reset := 4 }
/-- `FCn_CANc_TDC` (13_can.md). -/
def FC_CAN_TDC (a b : Nat) : Field := { off := 0x420010 + 0x100000 * a + 0x8000 * b, lo := 0, w := 7, reset := 32 }
/-- `FCn_CANc_WAKE` (13_can.md). -/
def FC_CAN_WAKE (a b : Nat) : Field := { off := 0x420014 + 0x100000 * a + 0x8000 * b, lo := 0, w := 8, reset := 8 }
/-- `FCn_CANc_RX_CFG` (13_can.md). -/
def FC_CAN_RX_CFG (a b : Nat) : Field := { off := 0x420018 + 0x100000 * a + 0x8000 * b, lo := 0, w := 16, reset := 100 }
/-- `FCn_CANc_STATUS` (13_can.md). -/
def FC_CAN_STATUS_TEC (a b : Nat) : Field := { off := 0x420020 + 0x100000 * a + 0x8000 * b, lo := 24, w := 8, reset := 0 }
def FC_CAN_STATUS_REC (a b : Nat) : Field := { off := 0x420020 + 0x100000 * a + 0x8000 * b, lo := 16, w := 8, reset := 0 }
def FC_CAN_STATUS_LEC (a b : Nat) : Field := { off := 0x420020 + 0x100000 * a + 0x8000 * b, lo := 8, w := 4, reset := 0 }
def FC_CAN_STATUS_WAKE_CAUSE (a b : Nat) : Field := { off := 0x420020 + 0x100000 * a + 0x8000 * b, lo := 6, w := 2, reset := 0 }
def FC_CAN_STATUS_STATE (a b : Nat) : Field := { off := 0x420020 + 0x100000 * a + 0x8000 * b, lo := 0, w := 3, reset := 0 }
/-- `FCn_CANc_TDC_STATUS` (13_can.md). -/
def FC_CAN_TDC_STATUS_SAT (a b : Nat) : Field := { off := 0x420024 + 0x100000 * a + 0x8000 * b, lo := 16, w := 1, reset := 0 }
def FC_CAN_TDC_STATUS_DELAY (a b : Nat) : Field := { off := 0x420024 + 0x100000 * a + 0x8000 * b, lo := 0, w := 16, reset := 0 }
/-- `FCn_CANc_FLAGS` (13_can.md). -/
def FC_CAN_FLAGS_SLEEP_REFUSED (a b : Nat) : Field := { off := 0x420028 + 0x100000 * a + 0x8000 * b, lo := 6, w := 1, reset := 0 }
def FC_CAN_FLAGS_WOKEN (a b : Nat) : Field := { off := 0x420028 + 0x100000 * a + 0x8000 * b, lo := 5, w := 1, reset := 0 }
def FC_CAN_FLAGS_BUS_OFF (a b : Nat) : Field := { off := 0x420028 + 0x100000 * a + 0x8000 * b, lo := 4, w := 1, reset := 0 }
def FC_CAN_FLAGS_ERR_PASSIVE (a b : Nat) : Field := { off := 0x420028 + 0x100000 * a + 0x8000 * b, lo := 3, w := 1, reset := 0 }
def FC_CAN_FLAGS_EOF_RETX (a b : Nat) : Field := { off := 0x420028 + 0x100000 * a + 0x8000 * b, lo := 2, w := 1, reset := 0 }
def FC_CAN_FLAGS_RX_LOST (a b : Nat) : Field := { off := 0x420028 + 0x100000 * a + 0x8000 * b, lo := 1, w := 1, reset := 0 }
def FC_CAN_FLAGS_DUP_ID (a b : Nat) : Field := { off := 0x420028 + 0x100000 * a + 0x8000 * b, lo := 0, w := 1, reset := 0 }
/-- `FCn_CANc_ERR` (13_can.md). -/
def FC_CAN_ERR_CFG_CODE (a b : Nat) : Field := { off := 0x42002C + 0x100000 * a + 0x8000 * b, lo := 24, w := 8, reset := 0 }
def FC_CAN_ERR_FILT_IDX (a b : Nat) : Field := { off := 0x42002C + 0x100000 * a + 0x8000 * b, lo := 16, w := 8, reset := 0 }
def FC_CAN_ERR_CFG_REJECT (a b : Nat) : Field := { off := 0x42002C + 0x100000 * a + 0x8000 * b, lo := 0, w := 1, reset := 0 }
/-- `FCn_CANc_TX_CANCEL` (13_can.md). -/
def FC_CAN_TX_CANCEL (a b : Nat) : Field := { off := 0x420030 + 0x100000 * a + 0x8000 * b, lo := 0, w := 7, reset := 0 }
/-- `FCn_CANc_CANCEL_RESULT` (13_can.md). -/
def FC_CAN_CANCEL_RESULT_OBJ (a b : Nat) : Field := { off := 0x420034 + 0x100000 * a + 0x8000 * b, lo := 8, w := 7, reset := 0 }
def FC_CAN_CANCEL_RESULT_LATE (a b : Nat) : Field := { off := 0x420034 + 0x100000 * a + 0x8000 * b, lo := 2, w := 1, reset := 0 }
def FC_CAN_CANCEL_RESULT_RESULT (a b : Nat) : Field := { off := 0x420034 + 0x100000 * a + 0x8000 * b, lo := 0, w := 2, reset := 0 }
/-- `FCn_CANc_TXPENDm` (13_can.md). -/
def FC_CAN_TXPEND (a b c : Nat) : Field := { off := 0x420040 + 0x100000 * a + 0x8000 * b + 0x4 * c, lo := 0, w := 32, reset := 0 }
/-- `FCn_CANc_RXNEWm` (13_can.md). -/
def FC_CAN_RXNEW (a b c : Nat) : Field := { off := 0x420050 + 0x100000 * a + 0x8000 * b + 0x4 * c, lo := 0, w := 32, reset := 0 }
/-- `FCn_CANc_DUP_LAST` (13_can.md). -/
def FC_CAN_DUP_LAST_COUNT (a b : Nat) : Field := { off := 0x420060 + 0x100000 * a + 0x8000 * b, lo := 16, w := 16, reset := 0 }
def FC_CAN_DUP_LAST_OBJ (a b : Nat) : Field := { off := 0x420060 + 0x100000 * a + 0x8000 * b, lo := 0, w := 7, reset := 0 }
/-- `FCn_CANc_CNT_TX` (13_can.md). -/
def FC_CAN_CNT_TX (a b : Nat) : Field := { off := 0x420080 + 0x100000 * a + 0x8000 * b, lo := 0, w := 32, reset := 0 }
/-- `FCn_CANc_CNT_RX` (13_can.md). -/
def FC_CAN_CNT_RX (a b : Nat) : Field := { off := 0x420084 + 0x100000 * a + 0x8000 * b, lo := 0, w := 32, reset := 0 }
/-- `FCn_CANc_CNT_RX_REJECT` (13_can.md). -/
def FC_CAN_CNT_RX_REJECT (a b : Nat) : Field := { off := 0x420088 + 0x100000 * a + 0x8000 * b, lo := 0, w := 32, reset := 0 }
/-- `FCn_CANc_CNT_RX_LOST` (13_can.md). -/
def FC_CAN_CNT_RX_LOST (a b : Nat) : Field := { off := 0x42008C + 0x100000 * a + 0x8000 * b, lo := 0, w := 32, reset := 0 }
/-- `FCn_CANc_CNT_ARB_LOST` (13_can.md). -/
def FC_CAN_CNT_ARB_LOST (a b : Nat) : Field := { off := 0x420090 + 0x100000 * a + 0x8000 * b, lo := 0, w := 32, reset := 0 }
/-- `FCn_CANc_CNT_ERR` (13_can.md). -/
def FC_CAN_CNT_ERR (a b : Nat) : Field := { off := 0x420094 + 0x100000 * a + 0x8000 * b, lo := 0, w := 32, reset := 0 }
/-- `FCn_CANc_CNT_EOF_RETX` (13_can.md). -/
def FC_CAN_CNT_EOF_RETX (a b : Nat) : Field := { off := 0x420098 + 0x100000 * a + 0x8000 * b, lo := 0, w := 32, reset := 0 }
/-- `FCn_CANc_CNT_DUP_HOLD` (13_can.md). -/
def FC_CAN_CNT_DUP_HOLD (a b : Nat) : Field := { off := 0x42009C + 0x100000 * a + 0x8000 * b, lo := 0, w := 32, reset := 0 }
/-- `FCn_CANc_CNT_CANCEL` (13_can.md). -/
def FC_CAN_CNT_CANCEL (a b : Nat) : Field := { off := 0x4200A0 + 0x100000 * a + 0x8000 * b, lo := 0, w := 32, reset := 0 }
/-- `FCn_CANc_CNT_BUS_OFF` (13_can.md). -/
def FC_CAN_CNT_BUS_OFF (a b : Nat) : Field := { off := 0x4200A4 + 0x100000 * a + 0x8000 * b, lo := 0, w := 32, reset := 0 }
/-- `FCn_CANc_MM` (13_can.md). -/
def FC_CAN_MM (a b c : Nat) : Field := { off := 0x424000 + 0x100000 * a + 0x8000 * b + 0x4 * c, lo := 0, w := 32, reset := 0 }
/-- `SIG_CTRL` (14_signal_router_bridge.md). -/
def SIG_CTRL_BRG_EN : Field := { off := 0xA00000, lo := 1, w := 1, reset := 0 }
def SIG_CTRL_EN : Field := { off := 0xA00000, lo := 0, w := 1, reset := 0 }
/-- `SIG_ERR` (14_signal_router_bridge.md). -/
def SIG_ERR_LINK_LIMIT : Field := { off := 0xA00004, lo := 2, w := 1, reset := 0 }
def SIG_ERR_PIN_LIMIT : Field := { off := 0xA00004, lo := 1, w := 1, reset := 0 }
def SIG_ERR_CFG_REJECT : Field := { off := 0xA00004, lo := 0, w := 1, reset := 0 }
/-- `SIG_STATUS` (14_signal_router_bridge.md). -/
def SIG_STATUS : Field := { off := 0xA00008, lo := 0, w := 16, reset := 0 }
/-- `SIG_ENT_SEL` (14_signal_router_bridge.md). -/
def SIG_ENT_SEL_WRITE : Field := { off := 0xA00010, lo := 31, w := 1, reset := 0 }
def SIG_ENT_SEL_READ : Field := { off := 0xA00010, lo := 30, w := 1, reset := 0 }
def SIG_ENT_SEL_ID : Field := { off := 0xA00010, lo := 0, w := 18, reset := 0 }
/-- `SIG_ENT_DATA0–7` (14_signal_router_bridge.md). -/
def SIG_ENT_DATA (a : Nat) : Field := { off := 0xA00020 + 0x4 * a, lo := 0, w := 32, reset := 0 }
/-- `SIG_CNT_OPS` (14_signal_router_bridge.md). -/
def SIG_CNT_OPS : Field := { off := 0xA00040, lo := 0, w := 32, reset := 0 }
/-- `SIG_CNT_MISS` (14_signal_router_bridge.md). -/
def SIG_CNT_MISS : Field := { off := 0xA00044, lo := 0, w := 32, reset := 0 }
/-- `SIG_CNT_SKIPPED` (14_signal_router_bridge.md). -/
def SIG_CNT_SKIPPED : Field := { off := 0xA00048, lo := 0, w := 32, reset := 0 }
/-- `SIG_CNT_SAT` (14_signal_router_bridge.md). -/
def SIG_CNT_SAT : Field := { off := 0xA0004C, lo := 0, w := 32, reset := 0 }
/-- `SIG_CNT_NOMSG` (14_signal_router_bridge.md). -/
def SIG_CNT_NOMSG : Field := { off := 0xA00050, lo := 0, w := 32, reset := 0 }
/-- `SIG_CNT_SHORT` (14_signal_router_bridge.md). -/
def SIG_CNT_SHORT : Field := { off := 0xA00054, lo := 0, w := 32, reset := 0 }
/-- `SIG_CNT_COALESCED` (14_signal_router_bridge.md). -/
def SIG_CNT_COALESCED : Field := { off := 0xA00058, lo := 0, w := 32, reset := 0 }
/-- `SIG_CNT_TX` (14_signal_router_bridge.md). -/
def SIG_CNT_TX : Field := { off := 0xA0005C, lo := 0, w := 32, reset := 0 }
/-- `SIG_CNT_TX_DROP` (14_signal_router_bridge.md). -/
def SIG_CNT_TX_DROP : Field := { off := 0xA00060, lo := 0, w := 32, reset := 0 }
/-- `SIG_MSGm_Ww` (14_signal_router_bridge.md). -/
def SIG_MSG_W (a b : Nat) : Field := { off := 0xA10000 + 0x10 * a + 0x4 * b, lo := 0, w := 32, reset := 0 }
/-- `SIG_XTABt_Xi` (14_signal_router_bridge.md). -/
def SIG_XTAB_X (a b : Nat) : Field := { off := 0xA20000 + 0x80 * a + 0x8 * b, lo := 0, w := 32, reset := 0 }
/-- `SIG_XTABt_Yi` (14_signal_router_bridge.md). -/
def SIG_XTAB_Y (a b : Nat) : Field := { off := 0xA20004 + 0x80 * a + 0x8 * b, lo := 0, w := 32, reset := 0 }
/-- `SIG_BRG_RETRY` (14_signal_router_bridge.md). -/
def SIG_BRG_RETRY_RETRY_US : Field := { off := 0xA30000, lo := 16, w := 16, reset := 10 }
def SIG_BRG_RETRY_RETRY_MAX : Field := { off := 0xA30000, lo := 0, w := 8, reset := 16 }
/-- `SIG_BRG_LOCK` (14_signal_router_bridge.md). -/
def SIG_BRG_LOCK : Field := { off := 0xA30004, lo := 0, w := 16, reset := 1000 }
/-- `SIG_BRG_CNT_RETRY` (14_signal_router_bridge.md). -/
def SIG_BRG_CNT_RETRY : Field := { off := 0xA30010, lo := 0, w := 32, reset := 0 }
/-- `SIG_BRG_CNT_CONFLICT` (14_signal_router_bridge.md). -/
def SIG_BRG_CNT_CONFLICT : Field := { off := 0xA30014, lo := 0, w := 32, reset := 0 }
/-- `SIG_BRG_CNT_PFAULT` (14_signal_router_bridge.md). -/
def SIG_BRG_CNT_PFAULT : Field := { off := 0xA30018, lo := 0, w := 32, reset := 0 }
/-- `SIG_BRG_RNGr_CFG` (14_signal_router_bridge.md). -/
def SIG_BRG_RNG_CFG_EN (a : Nat) : Field := { off := 0xA31000 + 0x20 * a, lo := 31, w := 1, reset := 0 }
def SIG_BRG_RNG_CFG_POSTED (a : Nat) : Field := { off := 0xA31000 + 0x20 * a, lo := 30, w := 1, reset := 0 }
def SIG_BRG_RNG_CFG_TARGET (a : Nat) : Field := { off := 0xA31000 + 0x20 * a, lo := 28, w := 2, reset := 0 }
def SIG_BRG_RNG_CFG_LOG2_SIZE (a : Nat) : Field := { off := 0xA31000 + 0x20 * a, lo := 22, w := 6, reset := 12 }
def SIG_BRG_RNG_CFG_NODE (a : Nat) : Field := { off := 0xA31000 + 0x20 * a, lo := 8, w := 8, reset := 0 }
def SIG_BRG_RNG_CFG_FB (a : Nat) : Field := { off := 0xA31000 + 0x20 * a, lo := 0, w := 4, reset := 0 }
/-- `SIG_BRG_RNGr_BASE_LO` (14_signal_router_bridge.md). -/
def SIG_BRG_RNG_BASE_LO (a : Nat) : Field := { off := 0xA31004 + 0x20 * a, lo := 0, w := 32, reset := 0 }
/-- `SIG_BRG_RNGr_BASE_HI` (14_signal_router_bridge.md). -/
def SIG_BRG_RNG_BASE_HI (a : Nat) : Field := { off := 0xA31008 + 0x20 * a, lo := 0, w := 16, reset := 0 }
/-- `SIG_BRG_RNGr_XLATE_LO` (14_signal_router_bridge.md). -/
def SIG_BRG_RNG_XLATE_LO (a : Nat) : Field := { off := 0xA3100C + 0x20 * a, lo := 0, w := 32, reset := 0 }
/-- `SIG_BRG_RNGr_XLATE_HI` (14_signal_router_bridge.md). -/
def SIG_BRG_RNG_XLATE_HI (a : Nat) : Field := { off := 0xA31010 + 0x20 * a, lo := 0, w := 32, reset := 0 }
/-- `SIG_BRG_BUSb_CFG` (14_signal_router_bridge.md). -/
def SIG_BRG_BUS_CFG_EN (a : Nat) : Field := { off := 0xA32000 + 0x10 * a, lo := 31, w := 1, reset := (if a ≤ 1 then 1 else 0) }
def SIG_BRG_BUS_CFG_RANK (a : Nat) : Field := { off := 0xA32000 + 0x10 * a, lo := 24, w := 5, reset := a }
def SIG_BRG_BUS_CFG_CLUSTER (a : Nat) : Field := { off := 0xA32000 + 0x10 * a, lo := 8, w := 3, reset := 0 }
def SIG_BRG_BUS_CFG_PORT (a : Nat) : Field := { off := 0xA32000 + 0x10 * a, lo := 0, w := 5, reset := 0 }
/-- `SIG_BRG_BUSb_TIMEOUT` (14_signal_router_bridge.md). -/
def SIG_BRG_BUS_TIMEOUT (a : Nat) : Field := { off := 0xA32004 + 0x10 * a, lo := 0, w := 16, reset := 500 }
/-- `SIG_BRG_BUSb_STATUS` (14_signal_router_bridge.md). -/
def SIG_BRG_BUS_STATUS_LOCKED (a : Nat) : Field := { off := 0xA32008 + 0x10 * a, lo := 2, w := 1, reset := 0 }
def SIG_BRG_BUS_STATUS_FAR_HELD (a : Nat) : Field := { off := 0xA32008 + 0x10 * a, lo := 1, w := 1, reset := 0 }
def SIG_BRG_BUS_STATUS_NEAR_HELD (a : Nat) : Field := { off := 0xA32008 + 0x10 * a, lo := 0, w := 1, reset := 0 }
/-- `SIG_BULKq_CFG` (14_signal_router_bridge.md). -/
def SIG_BULK_CFG_EN (a : Nat) : Field := { off := 0xA40000 + 0x10 * a, lo := 31, w := 1, reset := 0 }
def SIG_BULK_CFG_LOG2_SIZE (a : Nat) : Field := { off := 0xA40000 + 0x10 * a, lo := 24, w := 5, reset := 12 }
def SIG_BULK_CFG_BASE (a : Nat) : Field := { off := 0xA40000 + 0x10 * a, lo := 0, w := 22, reset := 0 }
/-- `SIG_BULKq_FILL` (14_signal_router_bridge.md). -/
def SIG_BULK_FILL (a : Nat) : Field := { off := 0xA40004 + 0x10 * a, lo := 0, w := 31, reset := 0 }
/-- `SIG_BULKq_STATUS` (14_signal_router_bridge.md). -/
def SIG_BULK_STATUS (a : Nat) : Field := { off := 0xA40008 + 0x10 * a, lo := 0, w := 1, reset := 0 }
/-- `VIS_ADMIT` (15_vision_capture.md). -/
def VIS_ADMIT_LIMIT : Field := { off := 0x200000, lo := 16, w := 16, reset := 1800 }
def VIS_ADMIT_USED : Field := { off := 0x200000, lo := 0, w := 16, reset := 0 }
/-- `VIS_ERR` (15_vision_capture.md). -/
def VIS_ERR_ADMIT_REJECT : Field := { off := 0x200004, lo := 1, w := 1, reset := 0 }
def VIS_ERR_CFG_REJECT : Field := { off := 0x200004, lo := 0, w := 1, reset := 0 }
/-- `VIS_CAMc_CFG` (15_vision_capture.md). -/
def VIS_CAM_CFG_EN (a : Nat) : Field := { off := 0x201000 + 0x100 * a, lo := 31, w := 1, reset := 0 }
def VIS_CAM_CFG_MODE (a : Nat) : Field := { off := 0x201000 + 0x100 * a, lo := 30, w := 1, reset := 0 }
def VIS_CAM_CFG_FSYNC_SEL (a : Nat) : Field := { off := 0x201000 + 0x100 * a, lo := 27, w := 3, reset := 0 }
def VIS_CAM_CFG_LANES (a : Nat) : Field := { off := 0x201000 + 0x100 * a, lo := 25, w := 2, reset := 3 }
def VIS_CAM_CFG_VC (a : Nat) : Field := { off := 0x201000 + 0x100 * a, lo := 23, w := 2, reset := 0 }
def VIS_CAM_CFG_DT (a : Nat) : Field := { off := 0x201000 + 0x100 * a, lo := 16, w := 6, reset := 44 }
def VIS_CAM_CFG_PROFILE (a : Nat) : Field := { off := 0x201000 + 0x100 * a, lo := 0, w := 5, reset := 0 }
/-- `VIS_CAMc_SIZE` (15_vision_capture.md). -/
def VIS_CAM_SIZE_HEIGHT (a : Nat) : Field := { off := 0x201004 + 0x100 * a, lo := 16, w := 16, reset := 1 }
def VIS_CAM_SIZE_WIDTH (a : Nat) : Field := { off := 0x201004 + 0x100 * a, lo := 0, w := 16, reset := 1 }
/-- `VIS_CAMc_LINE_NS` (15_vision_capture.md). -/
def VIS_CAM_LINE_NS (a : Nat) : Field := { off := 0x201008 + 0x100 * a, lo := 0, w := 32, reset := 8000 }
/-- `VIS_CAMc_TRIG` (15_vision_capture.md). -/
def VIS_CAM_TRIG (a : Nat) : Field := { off := 0x20100C + 0x100 * a, lo := 0, w := 16, reset := 1000 }
/-- `VIS_CAMc_STATUS` (15_vision_capture.md). -/
def VIS_CAM_STATUS_ERR (a : Nat) : Field := { off := 0x201010 + 0x100 * a, lo := 24, w := 8, reset := 0 }
def VIS_CAM_STATUS_STATE (a : Nat) : Field := { off := 0x201010 + 0x100 * a, lo := 0, w := 3, reset := 0 }
/-- `VIS_CAMc_FRAME` (15_vision_capture.md). -/
def VIS_CAM_FRAME (a : Nat) : Field := { off := 0x201014 + 0x100 * a, lo := 0, w := 32, reset := 0 }
/-- `VIS_CAMc_SET` (15_vision_capture.md). -/
def VIS_CAM_SET_TAG (a : Nat) : Field := { off := 0x201018 + 0x100 * a, lo := 16, w := 16, reset := 0 }
def VIS_CAM_SET_QUEUED (a : Nat) : Field := { off := 0x201018 + 0x100 * a, lo := 0, w := 5, reset := 0 }
/-- `VIS_CAMc_LB` (15_vision_capture.md). -/
def VIS_CAM_LB (a : Nat) : Field := { off := 0x20101C + 0x100 * a, lo := 0, w := 17, reset := 0 }
/-- `VIS_CAMc_CNT_FRAMES` (15_vision_capture.md). -/
def VIS_CAM_CNT_FRAMES (a : Nat) : Field := { off := 0x201020 + 0x100 * a, lo := 0, w := 32, reset := 0 }
/-- `VIS_CAMc_CNT_REFUSED` (15_vision_capture.md). -/
def VIS_CAM_CNT_REFUSED (a : Nat) : Field := { off := 0x201024 + 0x100 * a, lo := 0, w := 32, reset := 0 }
/-- `VIS_CAMc_CNT_LINE_ERR` (15_vision_capture.md). -/
def VIS_CAM_CNT_LINE_ERR (a : Nat) : Field := { off := 0x201028 + 0x100 * a, lo := 0, w := 32, reset := 0 }
/-- `VIS_CAMc_CNT_SET_REFUSED` (15_vision_capture.md). -/
def VIS_CAM_CNT_SET_REFUSED (a : Nat) : Field := { off := 0x20102C + 0x100 * a, lo := 0, w := 32, reset := 0 }
/-- `VIS_CAMc_CNT_CCI_ERR` (15_vision_capture.md). -/
def VIS_CAM_CNT_CCI_ERR (a : Nat) : Field := { off := 0x201030 + 0x100 * a, lo := 0, w := 32, reset := 0 }
/-- `VIS_CAMc_CCI_CMD` (15_vision_capture.md). -/
def VIS_CAM_CCI_CMD_GO (a : Nat) : Field := { off := 0x201040 + 0x100 * a, lo := 31, w := 1, reset := 0 }
def VIS_CAM_CCI_CMD_READ (a : Nat) : Field := { off := 0x201040 + 0x100 * a, lo := 30, w := 1, reset := 0 }
def VIS_CAM_CCI_CMD_REG (a : Nat) : Field := { off := 0x201040 + 0x100 * a, lo := 8, w := 16, reset := 0 }
def VIS_CAM_CCI_CMD_DATA (a : Nat) : Field := { off := 0x201040 + 0x100 * a, lo := 0, w := 8, reset := 0 }
/-- `VIS_CAMc_CCI_STATUS` (15_vision_capture.md). -/
def VIS_CAM_CCI_STATUS_BUSY (a : Nat) : Field := { off := 0x201044 + 0x100 * a, lo := 31, w := 1, reset := 0 }
def VIS_CAM_CCI_STATUS_RESULT (a : Nat) : Field := { off := 0x201044 + 0x100 * a, lo := 29, w := 2, reset := 0 }
def VIS_CAM_CCI_STATUS_RDATA (a : Nat) : Field := { off := 0x201044 + 0x100 * a, lo := 0, w := 8, reset := 0 }
/-- `VIS_PIPE_ERR` (16_vision_pipeline.md). -/
def VIS_PIPE_ERR_STAGE_SKIP : Field := { off := 0x210000, lo := 2, w := 1, reset := 0 }
def VIS_PIPE_ERR_SET_LOCKED : Field := { off := 0x210000, lo := 1, w := 1, reset := 0 }
def VIS_PIPE_ERR_CFG_REJECT : Field := { off := 0x210000, lo := 0, w := 1, reset := 0 }
/-- `VIS_STAGE_BASE` (16_vision_pipeline.md). -/
def VIS_STAGE_BASE : Field := { off := 0x210004, lo := 0, w := 22, reset := 0 }
/-- `VIS_STAGE_SIZE` (16_vision_pipeline.md). -/
def VIS_STAGE_SIZE : Field := { off := 0x210008, lo := 0, w := 16, reset := 256 }
/-- `VIS_STAGE_FREE` (16_vision_pipeline.md). -/
def VIS_STAGE_FREE : Field := { off := 0x21000C, lo := 0, w := 16, reset := 0 }
/-- `VIS_PIPE_INUSE` (16_vision_pipeline.md). -/
def VIS_PIPE_INUSE : Field := { off := 0x210010, lo := 0, w := 16, reset := 0 }
/-- `VIS_PIPE_CNT_LINES` (16_vision_pipeline.md). -/
def VIS_PIPE_CNT_LINES : Field := { off := 0x210014, lo := 0, w := 32, reset := 0 }
/-- `VIS_PIPE_CNT_SKIP` (16_vision_pipeline.md). -/
def VIS_PIPE_CNT_SKIP : Field := { off := 0x210018, lo := 0, w := 32, reset := 0 }
/-- `VIS_CAMc_PIPE` (16_vision_pipeline.md). -/
def VIS_CAM_PIPE_SET (a : Nat) : Field := { off := 0x201050 + 0x100 * a, lo := 28, w := 4, reset := 0 }
def VIS_CAM_PIPE_INIT_SET (a : Nat) : Field := { off := 0x201050 + 0x100 * a, lo := 24, w := 4, reset := 0 }
def VIS_CAM_PIPE_BAYER (a : Nat) : Field := { off := 0x201050 + 0x100 * a, lo := 16, w := 2, reset := 0 }
def VIS_CAM_PIPE_TAP_POINT (a : Nat) : Field := { off := 0x201050 + 0x100 * a, lo := 8, w := 2, reset := 0 }
def VIS_CAM_PIPE_TNR_VALID (a : Nat) : Field := { off := 0x201050 + 0x100 * a, lo := 0, w := 1, reset := 0 }
/-- `VIS_CAMc_TNR_BASE` (16_vision_pipeline.md). -/
def VIS_CAM_TNR_BASE (a : Nat) : Field := { off := 0x201054 + 0x100 * a, lo := 0, w := 22, reset := 0 }
/-- `VIS_CAMc_PROCESSED` (16_vision_pipeline.md). -/
def VIS_CAM_PROCESSED (a : Nat) : Field := { off := 0x201058 + 0x100 * a, lo := 0, w := 32, reset := 0 }
/-- `VIS_CAMc_OUTk_CFG` (16_vision_pipeline.md). -/
def VIS_CAM_OUT_CFG_EN (a b : Nat) : Field := { off := 0x201060 + 0x100 * a + 0x10 * b, lo := 31, w := 1, reset := 0 }
def VIS_CAM_OUT_CFG_DEST (a b : Nat) : Field := { off := 0x201060 + 0x100 * a + 0x10 * b, lo := 28, w := 3, reset := 0 }
def VIS_CAM_OUT_CFG_CLASS (a b : Nat) : Field := { off := 0x201060 + 0x100 * a + 0x10 * b, lo := 25, w := 3, reset := 0 }
def VIS_CAM_OUT_CFG_ADDR (a b : Nat) : Field := { off := 0x201060 + 0x100 * a + 0x10 * b, lo := 0, w := 20, reset := 0 }
/-- `VIS_CAMc_OUTk_MAX` (16_vision_pipeline.md). -/
def VIS_CAM_OUT_MAX (a b : Nat) : Field := { off := 0x201064 + 0x100 * a + 0x10 * b, lo := 0, w := 28, reset := 0 }
/-- `VIS_CAMc_OUTk_CNT_OUT` (16_vision_pipeline.md). -/
def VIS_CAM_OUT_CNT_OUT (a b : Nat) : Field := { off := 0x201068 + 0x100 * a + 0x10 * b, lo := 0, w := 32, reset := 0 }
/-- `VIS_CAMc_OUTk_CNT_SKIP` (16_vision_pipeline.md). -/
def VIS_CAM_OUT_CNT_SKIP (a b : Nat) : Field := { off := 0x20106C + 0x100 * a + 0x10 * b, lo := 0, w := 32, reset := 0 }
/-- `VIS_SETs_SNR` (16_vision_pipeline.md). -/
def VIS_SET_SNR_EN (a : Nat) : Field := { off := 0x220000 + 0x1000 * a, lo := 31, w := 1, reset := 0 }
def VIS_SET_SNR_STRENGTH (a : Nat) : Field := { off := 0x220000 + 0x1000 * a, lo := 16, w := 8, reset := 128 }
def VIS_SET_SNR_PEDESTAL (a : Nat) : Field := { off := 0x220000 + 0x1000 * a, lo := 0, w := 14, reset := 256 }
/-- `VIS_SETs_SNR_NOISE` (16_vision_pipeline.md). -/
def VIS_SET_SNR_NOISE_A (a : Nat) : Field := { off := 0x220004 + 0x1000 * a, lo := 16, w := 16, reset := 16 }
def VIS_SET_SNR_NOISE_B (a : Nat) : Field := { off := 0x220004 + 0x1000 * a, lo := 0, w := 16, reset := 64 }
/-- `VIS_SETs_TNR` (16_vision_pipeline.md). -/
def VIS_SET_TNR_EN (a : Nat) : Field := { off := 0x220008 + 0x1000 * a, lo := 31, w := 1, reset := 0 }
def VIS_SET_TNR_ALPHA (a : Nat) : Field := { off := 0x220008 + 0x1000 * a, lo := 16, w := 8, reset := 64 }
def VIS_SET_TNR_MOTION_TH (a : Nat) : Field := { off := 0x220008 + 0x1000 * a, lo := 0, w := 14, reset := 128 }
/-- `VIS_SETs_BL01` (16_vision_pipeline.md). -/
def VIS_SET_BL01_BL1 (a : Nat) : Field := { off := 0x22000C + 0x1000 * a, lo := 16, w := 14, reset := 256 }
def VIS_SET_BL01_BL0 (a : Nat) : Field := { off := 0x22000C + 0x1000 * a, lo := 0, w := 14, reset := 256 }
/-- `VIS_SETs_BL23` (16_vision_pipeline.md). -/
def VIS_SET_BL23_BL3 (a : Nat) : Field := { off := 0x220010 + 0x1000 * a, lo := 16, w := 14, reset := 256 }
def VIS_SET_BL23_BL2 (a : Nat) : Field := { off := 0x220010 + 0x1000 * a, lo := 0, w := 14, reset := 256 }
/-- `VIS_SETs_BLG01` (16_vision_pipeline.md). -/
def VIS_SET_BLG01_BLG1 (a : Nat) : Field := { off := 0x220014 + 0x1000 * a, lo := 16, w := 16, reset := 4096 }
def VIS_SET_BLG01_BLG0 (a : Nat) : Field := { off := 0x220014 + 0x1000 * a, lo := 0, w := 16, reset := 4096 }
/-- `VIS_SETs_BLG23` (16_vision_pipeline.md). -/
def VIS_SET_BLG23_BLG3 (a : Nat) : Field := { off := 0x220018 + 0x1000 * a, lo := 16, w := 16, reset := 4096 }
def VIS_SET_BLG23_BLG2 (a : Nat) : Field := { off := 0x220018 + 0x1000 * a, lo := 0, w := 16, reset := 4096 }
/-- `VIS_SETs_DPC` (16_vision_pipeline.md). -/
def VIS_SET_DPC_EN (a : Nat) : Field := { off := 0x22001C + 0x1000 * a, lo := 31, w := 1, reset := 0 }
def VIS_SET_DPC_TH (a : Nat) : Field := { off := 0x22001C + 0x1000 * a, lo := 0, w := 14, reset := 1024 }
/-- `VIS_SETs_LSC` (16_vision_pipeline.md). -/
def VIS_SET_LSC (a : Nat) : Field := { off := 0x220020 + 0x1000 * a, lo := 31, w := 1, reset := 0 }
/-- `VIS_SETs_WB_RG` (16_vision_pipeline.md). -/
def VIS_SET_WB_RG_WB_G (a : Nat) : Field := { off := 0x220024 + 0x1000 * a, lo := 16, w := 16, reset := 4096 }
def VIS_SET_WB_RG_WB_R (a : Nat) : Field := { off := 0x220024 + 0x1000 * a, lo := 0, w := 16, reset := 4096 }
/-- `VIS_SETs_WB_B` (16_vision_pipeline.md). -/
def VIS_SET_WB_B (a : Nat) : Field := { off := 0x220028 + 0x1000 * a, lo := 0, w := 16, reset := 4096 }
/-- `VIS_SETs_CCMi` (16_vision_pipeline.md). -/
def VIS_SET_CCM_HI (a b : Nat) : Field := { off := 0x22002C + 0x1000 * a + 0x4 * b, lo := 16, w := 16, reset := 0 }
def VIS_SET_CCM_LO (a b : Nat) : Field := { off := 0x22002C + 0x1000 * a + 0x4 * b, lo := 0, w := 16, reset := (if b % 2 = 0 then 4096 else 0) }
/-- `VIS_SETs_CCM_OFF01` (16_vision_pipeline.md). -/
def VIS_SET_CCM_OFF01_OFF_G (a : Nat) : Field := { off := 0x220040 + 0x1000 * a, lo := 16, w := 16, reset := 0 }
def VIS_SET_CCM_OFF01_OFF_R (a : Nat) : Field := { off := 0x220040 + 0x1000 * a, lo := 0, w := 16, reset := 0 }
/-- `VIS_SETs_CCM_OFF2` (16_vision_pipeline.md). -/
def VIS_SET_CCM_OFF2 (a : Nat) : Field := { off := 0x220044 + 0x1000 * a, lo := 0, w := 16, reset := 0 }
/-- `VIS_SETs_TONE_CSC` (16_vision_pipeline.md). -/
def VIS_SET_TONE_CSC_TONE_EN (a : Nat) : Field := { off := 0x220048 + 0x1000 * a, lo := 31, w := 1, reset := 0 }
def VIS_SET_TONE_CSC_CSC (a : Nat) : Field := { off := 0x220048 + 0x1000 * a, lo := 0, w := 2, reset := 0 }
/-- `VIS_SETs_OUTo_CROP_XY` (16_vision_pipeline.md). -/
def VIS_SET_OUT_CROP_XY_Y (a b : Nat) : Field := { off := 0x220060 + 0x1000 * a + 0x10 * b, lo := 16, w := 16, reset := 0 }
def VIS_SET_OUT_CROP_XY_X (a b : Nat) : Field := { off := 0x220060 + 0x1000 * a + 0x10 * b, lo := 0, w := 16, reset := 0 }
/-- `VIS_SETs_OUTo_CROP_WH` (16_vision_pipeline.md). -/
def VIS_SET_OUT_CROP_WH_H (a b : Nat) : Field := { off := 0x220064 + 0x1000 * a + 0x10 * b, lo := 16, w := 16, reset := 0 }
def VIS_SET_OUT_CROP_WH_W (a b : Nat) : Field := { off := 0x220064 + 0x1000 * a + 0x10 * b, lo := 0, w := 16, reset := 0 }
/-- `VIS_SETs_OUTo_OUT_WH` (16_vision_pipeline.md). -/
def VIS_SET_OUT_OUT_WH_OUT_H (a b : Nat) : Field := { off := 0x220068 + 0x1000 * a + 0x10 * b, lo := 16, w := 16, reset := 0 }
def VIS_SET_OUT_OUT_WH_OUT_W (a b : Nat) : Field := { off := 0x220068 + 0x1000 * a + 0x10 * b, lo := 0, w := 16, reset := 0 }
/-- `VIS_SETs_OUTo_FMT` (16_vision_pipeline.md). -/
def VIS_SET_OUT_FMT_MB_ALIGN (a b : Nat) : Field := { off := 0x22006C + 0x1000 * a + 0x10 * b, lo := 4, w := 2, reset := 0 }
def VIS_SET_OUT_FMT_FORMAT (a b : Nat) : Field := { off := 0x22006C + 0x1000 * a + 0x10 * b, lo := 0, w := 3, reset := b }
/-- `VIS_SETs_MV_FMT` (16_vision_pipeline.md). -/
def VIS_SET_MV_FMT_ROI_EN (a : Nat) : Field := { off := 0x220080 + 0x1000 * a, lo := 16, w := 4, reset := 0 }
def VIS_SET_MV_FMT_SCALE (a : Nat) : Field := { off := 0x220080 + 0x1000 * a, lo := 8, w := 2, reset := 0 }
def VIS_SET_MV_FMT_FORMAT (a : Nat) : Field := { off := 0x220080 + 0x1000 * a, lo := 0, w := 3, reset := 3 }
/-- `VIS_SETs_ROIr_XY` (16_vision_pipeline.md). -/
def VIS_SET_ROI_XY_Y (a b : Nat) : Field := { off := 0x220090 + 0x1000 * a + 0x8 * b, lo := 16, w := 16, reset := 0 }
def VIS_SET_ROI_XY_X (a b : Nat) : Field := { off := 0x220090 + 0x1000 * a + 0x8 * b, lo := 0, w := 16, reset := 0 }
/-- `VIS_SETs_ROIr_WH` (16_vision_pipeline.md). -/
def VIS_SET_ROI_WH_H (a b : Nat) : Field := { off := 0x220094 + 0x1000 * a + 0x8 * b, lo := 16, w := 16, reset := 0 }
def VIS_SET_ROI_WH_W (a b : Nat) : Field := { off := 0x220094 + 0x1000 * a + 0x8 * b, lo := 0, w := 16, reset := 0 }
/-- `VIS_SETs_TONEj` (16_vision_pipeline.md). -/
def VIS_SET_TONE_P1 (a b : Nat) : Field := { off := 0x220100 + 0x1000 * a + 0x4 * b, lo := 16, w := 10, reset := 0 }
def VIS_SET_TONE_P0 (a b : Nat) : Field := { off := 0x220100 + 0x1000 * a + 0x4 * b, lo := 0, w := 10, reset := 0 }
/-- `VIS_SETs_LSCm_A` (16_vision_pipeline.md). -/
def VIS_SET_LSC_A_HI (a b : Nat) : Field := { off := 0x220400 + 0x1000 * a + 0x8 * b, lo := 16, w := 16, reset := 4096 }
def VIS_SET_LSC_A_LO (a b : Nat) : Field := { off := 0x220400 + 0x1000 * a + 0x8 * b, lo := 0, w := 16, reset := 4096 }
/-- `VIS_SETs_LSCm_B` (16_vision_pipeline.md). -/
def VIS_SET_LSC_B_HI (a b : Nat) : Field := { off := 0x220404 + 0x1000 * a + 0x8 * b, lo := 16, w := 16, reset := 4096 }
def VIS_SET_LSC_B_LO (a b : Nat) : Field := { off := 0x220404 + 0x1000 * a + 0x8 * b, lo := 0, w := 16, reset := 4096 }
/-- `VIS_CSTt_CFG` (16_vision_pipeline.md). -/
def VIS_CST_CFG_EN (a : Nat) : Field := { off := 0x230000 + 0x100 * a, lo := 31, w := 1, reset := 0 }
def VIS_CST_CFG_LANES (a : Nat) : Field := { off := 0x230000 + 0x100 * a, lo := 29, w := 2, reset := 3 }
def VIS_CST_CFG_CONT_CLK (a : Nat) : Field := { off := 0x230000 + 0x100 * a, lo := 28, w := 1, reset := 0 }
def VIS_CST_CFG_VC (a : Nat) : Field := { off := 0x230000 + 0x100 * a, lo := 26, w := 2, reset := 0 }
def VIS_CST_CFG_LANE_MBPS (a : Nat) : Field := { off := 0x230000 + 0x100 * a, lo := 0, w := 12, reset := 2500 }
/-- `VIS_CSTt_STATUS` (16_vision_pipeline.md). -/
def VIS_CST_STATUS_BOUND (a : Nat) : Field := { off := 0x230004 + 0x100 * a, lo := 1, w := 1, reset := 0 }
def VIS_CST_STATUS_BUSY (a : Nat) : Field := { off := 0x230004 + 0x100 * a, lo := 0, w := 1, reset := 0 }
/-- `VIS_CSTt_CNT_FRAMES` (16_vision_pipeline.md). -/
def VIS_CST_CNT_FRAMES (a : Nat) : Field := { off := 0x230008 + 0x100 * a, lo := 0, w := 32, reset := 0 }
/-- `VIS_SINKs_CFG` (16_vision_pipeline.md). -/
def VIS_SINK_CFG_EN (a : Nat) : Field := { off := 0x231000 + 0x20 * a, lo := 31, w := 1, reset := 0 }
def VIS_SINK_CFG_DEST (a : Nat) : Field := { off := 0x231000 + 0x20 * a, lo := 28, w := 3, reset := 0 }
def VIS_SINK_CFG_ADDR (a : Nat) : Field := { off := 0x231000 + 0x20 * a, lo := 0, w := 9, reset := 0 }
/-- `VIS_SINKs_MAX` (16_vision_pipeline.md). -/
def VIS_SINK_MAX (a : Nat) : Field := { off := 0x231004 + 0x20 * a, lo := 0, w := 28, reset := 0 }
/-- `VIS_SINKs_CNT_OUT` (16_vision_pipeline.md). -/
def VIS_SINK_CNT_OUT (a : Nat) : Field := { off := 0x231008 + 0x20 * a, lo := 0, w := 32, reset := 0 }
/-- `VIS_SINKs_CNT_DROP` (16_vision_pipeline.md). -/
def VIS_SINK_CNT_DROP (a : Nat) : Field := { off := 0x23100C + 0x20 * a, lo := 0, w := 32, reset := 0 }
/-- `TWIN_CFG` (17_twins.md). -/
def TWIN_CFG_EPOCH_US : Field := { off := 0xB00000, lo := 16, w := 16, reset := 100 }
def TWIN_CFG_PAIR_ID : Field := { off := 0xB00000, lo := 8, w := 8, reset := 0 }
def TWIN_CFG_MODE : Field := { off := 0xB00000, lo := 1, w := 1, reset := 0 }
def TWIN_CFG_EN : Field := { off := 0xB00000, lo := 0, w := 1, reset := 0 }
/-- `TWIN_CKPT_CFG` (17_twins.md). -/
def TWIN_CKPT_CFG_CKPT_MS : Field := { off := 0xB00004, lo := 16, w := 16, reset := 100 }
def TWIN_CKPT_CFG_HOST : Field := { off := 0xB00004, lo := 6, w := 1, reset := 0 }
def TWIN_CKPT_CFG_RANGE : Field := { off := 0xB00004, lo := 0, w := 6, reset := 0 }
/-- `TWIN_STATUS` (17_twins.md). -/
def TWIN_STATUS_PARTNER_ID : Field := { off := 0xB00008, lo := 24, w := 8, reset := 0 }
def TWIN_STATUS_PAIR_ERR : Field := { off := 0xB00008, lo := 16, w := 8, reset := 0 }
def TWIN_STATUS_MIRROR_OK : Field := { off := 0xB00008, lo := 7, w := 1, reset := 0 }
def TWIN_STATUS_HEALTH : Field := { off := 0xB00008, lo := 6, w := 1, reset := 0 }
def TWIN_STATUS_ROLE : Field := { off := 0xB00008, lo := 4, w := 2, reset := 0 }
def TWIN_STATUS_STATE : Field := { off := 0xB00008, lo := 0, w := 3, reset := 0 }
/-- `TWIN_EPOCH` (17_twins.md). -/
def TWIN_EPOCH : Field := { off := 0xB0000C, lo := 0, w := 32, reset := 0 }
/-- `TWIN_DIGEST` (17_twins.md). -/
def TWIN_DIGEST : Field := { off := 0xB00010, lo := 0, w := 32, reset := 0 }
/-- `TWIN_CKPT_AGE` (17_twins.md). -/
def TWIN_CKPT_AGE : Field := { off := 0xB00014, lo := 0, w := 32, reset := 4294967295 }
/-- `TWIN_CTRL` (17_twins.md). -/
def TWIN_CTRL_KEY : Field := { off := 0xB00018, lo := 16, w := 16, reset := 0 }
def TWIN_CTRL_RESYNC : Field := { off := 0xB00018, lo := 2, w := 1, reset := 0 }
def TWIN_CTRL_TAKE : Field := { off := 0xB00018, lo := 1, w := 1, reset := 0 }
/-- `TWIN_WIT_ID` (17_twins.md). -/
def TWIN_WIT_ID : Field := { off := 0xB0001C, lo := 0, w := 8, reset := 0 }
/-- `TWIN_CNT_DIVERGE` (17_twins.md). -/
def TWIN_CNT_DIVERGE : Field := { off := 0xB00020, lo := 0, w := 32, reset := 0 }
/-- `TWIN_CNT_TAKEOVER` (17_twins.md). -/
def TWIN_CNT_TAKEOVER : Field := { off := 0xB00024, lo := 0, w := 32, reset := 0 }
/-- `TWIN_CNT_CKPT` (17_twins.md). -/
def TWIN_CNT_CKPT : Field := { off := 0xB00028, lo := 0, w := 32, reset := 0 }
/-- `TWIN_ERR` (17_twins.md). -/
def TWIN_ERR_DIVERGED : Field := { off := 0xB0002C, lo := 1, w := 1, reset := 0 }
def TWIN_ERR_CFG_REJECT : Field := { off := 0xB0002C, lo := 0, w := 1, reset := 0 }
/-- `TWIN_WIT_CFG` (17_twins.md). -/
def TWIN_WIT_CFG_BEAT_US : Field := { off := 0xB01000, lo := 16, w := 16, reset := 500 }
def TWIN_WIT_CFG_MISS_LIMIT : Field := { off := 0xB01000, lo := 4, w := 4, reset := 4 }
def TWIN_WIT_CFG_EN : Field := { off := 0xB01000, lo := 0, w := 1, reset := 0 }
/-- `TWIN_WIT_CTRL` (17_twins.md). -/
def TWIN_WIT_CTRL_KEY : Field := { off := 0xB01004, lo := 16, w := 16, reset := 0 }
def TWIN_WIT_CTRL_PAIR : Field := { off := 0xB01004, lo := 0, w := 6, reset := 0 }
/-- `TWIN_WITp_CFG` (17_twins.md). -/
def TWIN_WITP_CFG_EN (a : Nat) : Field := { off := 0xB01100 + 0x8 * a, lo := 31, w := 1, reset := 0 }
def TWIN_WITP_CFG_ID_B (a : Nat) : Field := { off := 0xB01100 + 0x8 * a, lo := 8, w := 8, reset := 0 }
def TWIN_WITP_CFG_ID_A (a : Nat) : Field := { off := 0xB01100 + 0x8 * a, lo := 0, w := 8, reset := 0 }
/-- `TWIN_WITp_STATUS` (17_twins.md). -/
def TWIN_WITP_STATUS_DECISION (a : Nat) : Field := { off := 0xB01104 + 0x8 * a, lo := 28, w := 4, reset := 0 }
def TWIN_WITP_STATUS_MISSES (a : Nat) : Field := { off := 0xB01104 + 0x8 * a, lo := 24, w := 4, reset := 0 }
def TWIN_WITP_STATUS_ACTIVE_SLOT (a : Nat) : Field := { off := 0xB01104 + 0x8 * a, lo := 16, w := 1, reset := 0 }
def TWIN_WITP_STATUS_TAKEOVERS (a : Nat) : Field := { off := 0xB01104 + 0x8 * a, lo := 0, w := 16, reset := 0 }
/-- `INT_Pb_PEND_SETw` (18_interrupts.md). -/
def INT_P_PEND_SET (a b : Nat) : Field := { off := 0x30000 + 0x1000 * a + 0x4 * b, lo := 0, w := 32, reset := 0 }
/-- `INT_Pb_PEND_CLRw` (18_interrupts.md). -/
def INT_P_PEND_CLR (a b : Nat) : Field := INT_P_PEND_SET a b
/-- `INT_Pb_MASK_SETw` (18_interrupts.md). -/
def INT_P_MASK_SET (a b : Nat) : Field := { off := 0x30040 + 0x1000 * a + 0x4 * b, lo := 0, w := 32, reset := 4294967295 }
/-- `INT_Pb_MASK_CLRw` (18_interrupts.md). -/
def INT_P_MASK_CLR (a b : Nat) : Field := INT_P_MASK_SET a b
/-- `INT_Pb_KINDw` (18_interrupts.md). -/
def INT_P_KIND (a b : Nat) : Field := { off := 0x30080 + 0x1000 * a + 0x4 * b, lo := 0, w := 32, reset := intKind a b }
/-- `INT_Pb_INPUTw` (18_interrupts.md). -/
def INT_P_INPUT (a b : Nat) : Field := { off := 0x300A0 + 0x1000 * a + 0x4 * b, lo := 0, w := 32, reset := 0 }
/-- `INT_Pb_PRIOi` (18_interrupts.md). -/
def INT_P_PRIO_PRIO0 (a b : Nat) : Field := { off := 0x30100 + 0x1000 * a + 0x4 * b, lo := 0, w := 3, reset := 0 }
def INT_P_PRIO_PRIO1 (a b : Nat) : Field := { off := 0x30100 + 0x1000 * a + 0x4 * b, lo := 4, w := 3, reset := 0 }
def INT_P_PRIO_PRIO2 (a b : Nat) : Field := { off := 0x30100 + 0x1000 * a + 0x4 * b, lo := 8, w := 3, reset := 0 }
def INT_P_PRIO_PRIO3 (a b : Nat) : Field := { off := 0x30100 + 0x1000 * a + 0x4 * b, lo := 12, w := 3, reset := 0 }
def INT_P_PRIO_PRIO4 (a b : Nat) : Field := { off := 0x30100 + 0x1000 * a + 0x4 * b, lo := 16, w := 3, reset := 0 }
def INT_P_PRIO_PRIO5 (a b : Nat) : Field := { off := 0x30100 + 0x1000 * a + 0x4 * b, lo := 20, w := 3, reset := 0 }
def INT_P_PRIO_PRIO6 (a b : Nat) : Field := { off := 0x30100 + 0x1000 * a + 0x4 * b, lo := 24, w := 3, reset := 0 }
def INT_P_PRIO_PRIO7 (a b : Nat) : Field := { off := 0x30100 + 0x1000 * a + 0x4 * b, lo := 28, w := 3, reset := 0 }
/-- `INT_Pb_STATE` (18_interrupts.md). -/
def INT_P_STATE_RUNLVL (a : Nat) : Field := { off := 0x30200 + 0x1000 * a, lo := 16, w := 3, reset := 0 }
def INT_P_STATE_PENDLVL (a : Nat) : Field := { off := 0x30200 + 0x1000 * a, lo := 8, w := 8, reset := 0 }
def INT_P_STATE_INSVC (a : Nat) : Field := { off := 0x30200 + 0x1000 * a, lo := 0, w := 8, reset := 0 }
/-- `INT_Pb_COMPLETE` (18_interrupts.md). -/
def INT_P_COMPLETE (a : Nat) : Field := { off := 0x30204 + 0x1000 * a, lo := 0, w := 3, reset := 0 }
/-- `INT_Pb_CNT_SPURIOUS` (18_interrupts.md). -/
def INT_P_CNT_SPURIOUS (a : Nat) : Field := { off := 0x30208 + 0x1000 * a, lo := 0, w := 32, reset := 0 }
/-- `INT_Pb_CNT_CLAIM` (18_interrupts.md). -/
def INT_P_CNT_CLAIM (a : Nat) : Field := { off := 0x3020C + 0x1000 * a, lo := 0, w := 32, reset := 0 }
/-- `INT_Pb_ERR` (18_interrupts.md). -/
def INT_P_ERR_BAD_COMPLETE (a : Nat) : Field := { off := 0x30210 + 0x1000 * a, lo := 1, w := 1, reset := 0 }
def INT_P_ERR_CFG_REJECT (a : Nat) : Field := { off := 0x30210 + 0x1000 * a, lo := 0, w := 1, reset := 0 }
/-- `INT_Pb_SH_SUM` (18_interrupts.md). -/
def INT_P_SH_SUM (a : Nat) : Field := { off := 0x30214 + 0x1000 * a, lo := 0, w := 32, reset := 0 }
/-- `INT_SH_PEND_SETw` (18_interrupts.md). -/
def INT_SH_PEND_SET (a : Nat) : Field := { off := 0x3C000 + 0x4 * a, lo := 0, w := 32, reset := 0 }
/-- `INT_SH_PEND_CLRw` (18_interrupts.md). -/
def INT_SH_PEND_CLR (a : Nat) : Field := INT_SH_PEND_SET a
/-- `INT_SH_MASK_SETw` (18_interrupts.md). -/
def INT_SH_MASK_SET (a : Nat) : Field := { off := 0x3C100 + 0x4 * a, lo := 0, w := 32, reset := 4294967295 }
/-- `INT_SH_MASK_CLRw` (18_interrupts.md). -/
def INT_SH_MASK_CLR (a : Nat) : Field := INT_SH_MASK_SET a
/-- `INT_SH_KINDw` (18_interrupts.md). -/
def INT_SH_KIND (a : Nat) : Field := { off := 0x3C200 + 0x4 * a, lo := 0, w := 32, reset := intShKind a }
/-- `INT_SH_INPUTw` (18_interrupts.md). -/
def INT_SH_INPUT (a : Nat) : Field := { off := 0x3C280 + 0x4 * a, lo := 0, w := 32, reset := 0 }
/-- `INT_SH_ERR` (18_interrupts.md). -/
def INT_SH_ERR : Field := { off := 0x3C300, lo := 0, w := 1, reset := 0 }
/-- `INT_SH_PRIOi` (18_interrupts.md). -/
def INT_SH_PRIO_PRIO0 (a : Nat) : Field := { off := 0x3C400 + 0x4 * a, lo := 0, w := 3, reset := 0 }
def INT_SH_PRIO_PRIO1 (a : Nat) : Field := { off := 0x3C400 + 0x4 * a, lo := 4, w := 3, reset := 0 }
def INT_SH_PRIO_PRIO2 (a : Nat) : Field := { off := 0x3C400 + 0x4 * a, lo := 8, w := 3, reset := 0 }
def INT_SH_PRIO_PRIO3 (a : Nat) : Field := { off := 0x3C400 + 0x4 * a, lo := 12, w := 3, reset := 0 }
def INT_SH_PRIO_PRIO4 (a : Nat) : Field := { off := 0x3C400 + 0x4 * a, lo := 16, w := 3, reset := 0 }
def INT_SH_PRIO_PRIO5 (a : Nat) : Field := { off := 0x3C400 + 0x4 * a, lo := 20, w := 3, reset := 0 }
def INT_SH_PRIO_PRIO6 (a : Nat) : Field := { off := 0x3C400 + 0x4 * a, lo := 24, w := 3, reset := 0 }
def INT_SH_PRIO_PRIO7 (a : Nat) : Field := { off := 0x3C400 + 0x4 * a, lo := 28, w := 3, reset := 0 }
/-- `INT_SH_ROUTEs` (18_interrupts.md). -/
def INT_SH_ROUTE_VECTOR (a : Nat) : Field := { off := 0x3D000 + 0x4 * a, lo := 8, w := 8, reset := 0 }
def INT_SH_ROUTE_TARGET (a : Nat) : Field := { off := 0x3D000 + 0x4 * a, lo := 0, w := 4, reset := 0 }
/-- `FLT_STATUS` (19_faults.md). -/
def FLT_STATUS_LAST_SRC : Field := { off := 0x40000, lo := 14, w := 10, reset := 0 }
def FLT_STATUS_SQUALL : Field := { off := 0x40000, lo := 3, w := 1, reset := 0 }
def FLT_STATUS_UNACK_F : Field := { off := 0x40000, lo := 2, w := 1, reset := 0 }
def FLT_STATUS_UNACK_U : Field := { off := 0x40000, lo := 1, w := 1, reset := 0 }
def FLT_STATUS_UNACK_C : Field := { off := 0x40000, lo := 0, w := 1, reset := 0 }
/-- `FLT_FENCED` (19_faults.md). -/
def FLT_FENCED : Field := { off := 0x40004, lo := 0, w := 17, reset := 0 }
/-- `FLT_SEQ` (19_faults.md). -/
def FLT_SEQ : Field := { off := 0x40008, lo := 0, w := 32, reset := 1 }
/-- `FLT_ACK_C` (19_faults.md). -/
def FLT_ACK_C : Field := { off := 0x4000C, lo := 0, w := 32, reset := 0 }
/-- `FLT_ACK_U` (19_faults.md). -/
def FLT_ACK_U : Field := { off := 0x40010, lo := 0, w := 32, reset := 0 }
/-- `FLT_ACK_F` (19_faults.md). -/
def FLT_ACK_F : Field := { off := 0x40014, lo := 0, w := 32, reset := 0 }
/-- `FLT_FAULTN` (19_faults.md). -/
def FLT_FAULTN_PULSE : Field := { off := 0x40018, lo := 1, w := 1, reset := 0 }
def FLT_FAULTN_DRIVE : Field := { off := 0x40018, lo := 0, w := 1, reset := 0 }
/-- `FLT_LOG_STATUS` (19_faults.md). -/
def FLT_LOG_STATUS_LOST : Field := { off := 0x4001C, lo := 16, w := 16, reset := 0 }
def FLT_LOG_STATUS_USED : Field := { off := 0x4001C, lo := 0, w := 10, reset := 0 }
/-- `FLT_CNT_C` (19_faults.md). -/
def FLT_CNT_C : Field := { off := 0x40020, lo := 0, w := 32, reset := 0 }
/-- `FLT_CNT_U` (19_faults.md). -/
def FLT_CNT_U : Field := { off := 0x40024, lo := 0, w := 32, reset := 0 }
/-- `FLT_CNT_F` (19_faults.md). -/
def FLT_CNT_F : Field := { off := 0x40028, lo := 0, w := 32, reset := 0 }
/-- `FLT_CNT_SQUALL` (19_faults.md). -/
def FLT_CNT_SQUALL : Field := { off := 0x4002C, lo := 0, w := 32, reset := 0 }
/-- `FLT_HLOG_BASE_LO` (19_faults.md). -/
def FLT_HLOG_BASE_LO : Field := { off := 0x40030, lo := 12, w := 20, reset := 0 }
/-- `FLT_HLOG_BASE_HI` (19_faults.md). -/
def FLT_HLOG_BASE_HI : Field := { off := 0x40034, lo := 0, w := 32, reset := 0 }
/-- `FLT_HLOG_CFG` (19_faults.md). -/
def FLT_HLOG_CFG_LOG2_ENTRIES : Field := { off := 0x40038, lo := 8, w := 5, reset := 0 }
def FLT_HLOG_CFG_EN : Field := { off := 0x40038, lo := 0, w := 1, reset := 0 }
/-- `FLT_HLOG_NEXT` (19_faults.md). -/
def FLT_HLOG_NEXT : Field := { off := 0x4003C, lo := 0, w := 32, reset := 1 }
/-- `FLT_ERR` (19_faults.md). -/
def FLT_ERR : Field := { off := 0x40040, lo := 0, w := 1, reset := 0 }
/-- `FLT_CFG` (19_faults.md). -/
def FLT_CFG : Field := { off := 0x40044, lo := 0, w := 16, reset := 0 }
/-- `FLT_LOG` (19_faults.md). -/
def FLT_LOG (a : Nat) : Field := { off := 0x44000 + 0x4 * a, lo := 0, w := 32, reset := 0 }
/-- `FLT_SRCs` (19_faults.md). -/
def FLT_SRC_COUNT (a : Nat) : Field := { off := 0x41000 + 0x4 * a, lo := 16, w := 16, reset := 0 }
def FLT_SRC_CLASS (a : Nat) : Field := { off := 0x41000 + 0x4 * a, lo := 4, w := 2, reset := srcClass a }
def FLT_SRC_ACTION (a : Nat) : Field := { off := 0x41000 + 0x4 * a, lo := 0, w := 2, reset := srcAction a }
/-- `DIKE_ERR` (20_dike_power.md). -/
def DIKE_ERR : Field := { off := 0x58000, lo := 0, w := 1, reset := 0 }
/-- `DIKE_PG` (20_dike_power.md). -/
def DIKE_PG : Field := { off := 0x58004, lo := 0, w := 16, reset := 0 }
/-- `DIKE_CHc_CFG` (20_dike_power.md). -/
def DIKE_CH_CFG_EN (a : Nat) : Field := { off := 0x59000 + 0x80 * a, lo := 31, w := 1, reset := 0 }
def DIKE_CH_CFG_PRES_USE (a : Nat) : Field := { off := 0x59000 + 0x80 * a, lo := 30, w := 1, reset := 1 }
def DIKE_CH_CFG_PRES_POL (a : Nat) : Field := { off := 0x59000 + 0x80 * a, lo := 29, w := 1, reset := 0 }
def DIKE_CH_CFG_PG_POL (a : Nat) : Field := { off := 0x59000 + 0x80 * a, lo := 28, w := 1, reset := 0 }
def DIKE_CH_CFG_RETRY_MAX (a : Nat) : Field := { off := 0x59000 + 0x80 * a, lo := 24, w := 3, reset := 3 }
def DIKE_CH_CFG_SLEW (a : Nat) : Field := { off := 0x59000 + 0x80 * a, lo := 16, w := 8, reset := 20 }
def DIKE_CH_CFG_BACKOFF_MS (a : Nat) : Field := { off := 0x59000 + 0x80 * a, lo := 0, w := 10, reset := 100 }
/-- `DIKE_CHc_LIMIT` (20_dike_power.md). -/
def DIKE_CH_LIMIT_ILIM_INRUSH (a : Nat) : Field := { off := 0x59004 + 0x80 * a, lo := 16, w := 12, reset := 200 }
def DIKE_CH_LIMIT_ILIM (a : Nat) : Field := { off := 0x59004 + 0x80 * a, lo := 0, w := 12, reset := 400 }
/-- `DIKE_CHc_SC` (20_dike_power.md). -/
def DIKE_CH_SC (a : Nat) : Field := { off := 0x59008 + 0x80 * a, lo := 0, w := 12, reset := 2000 }
/-- `DIKE_CHc_TIMER` (20_dike_power.md). -/
def DIKE_CH_TIMER_FAULT_US (a : Nat) : Field := { off := 0x5900C + 0x80 * a, lo := 16, w := 16, reset := 1000 }
def DIKE_CH_TIMER_INRUSH_MS (a : Nat) : Field := { off := 0x5900C + 0x80 * a, lo := 0, w := 16, reset := 100 }
/-- `DIKE_CHc_PG` (20_dike_power.md). -/
def DIKE_CH_PG (a : Nat) : Field := { off := 0x59010 + 0x80 * a, lo := 0, w := 16, reset := 10000 }
/-- `DIKE_CHc_DRIVE` (20_dike_power.md). -/
def DIKE_CH_DRIVE (a : Nat) : Field := { off := 0x59014 + 0x80 * a, lo := 0, w := 11, reset := 1500 }
/-- `DIKE_CHc_CURVEk` (20_dike_power.md). -/
def DIKE_CH_CURVE_I (a b : Nat) : Field := { off := 0x59020 + 0x80 * a + 0x4 * b, lo := 16, w := 12, reset := 0 }
def DIKE_CH_CURVE_T (a b : Nat) : Field := { off := 0x59020 + 0x80 * a + 0x4 * b, lo := 0, w := 16, reset := 0 }
/-- `DIKE_CHc_BINDk` (20_dike_power.md). -/
def DIKE_CH_BIND_EN (a b : Nat) : Field := { off := 0x59040 + 0x80 * a + 0x4 * b, lo := 31, w := 1, reset := 0 }
def DIKE_CH_BIND_LAST (a b : Nat) : Field := { off := 0x59040 + 0x80 * a + 0x4 * b, lo := 16, w := 12, reset := 0 }
def DIKE_CH_BIND_FIRST (a b : Nat) : Field := { off := 0x59040 + 0x80 * a + 0x4 * b, lo := 0, w := 12, reset := 0 }
/-- `DIKE_CHc_CMD` (20_dike_power.md). -/
def DIKE_CH_CMD (a : Nat) : Field := { off := 0x59050 + 0x80 * a, lo := 0, w := 1, reset := 0 }
/-- `DIKE_CHc_STATUS` (20_dike_power.md). -/
def DIKE_CH_STATUS_CURRENT (a : Nat) : Field := { off := 0x59054 + 0x80 * a, lo := 16, w := 12, reset := 0 }
def DIKE_CH_STATUS_RETRIES (a : Nat) : Field := { off := 0x59054 + 0x80 * a, lo := 8, w := 4, reset := 0 }
def DIKE_CH_STATUS_PG (a : Nat) : Field := { off := 0x59054 + 0x80 * a, lo := 7, w := 1, reset := 0 }
def DIKE_CH_STATUS_PRES (a : Nat) : Field := { off := 0x59054 + 0x80 * a, lo := 6, w := 1, reset := 0 }
def DIKE_CH_STATUS_LIMITING (a : Nat) : Field := { off := 0x59054 + 0x80 * a, lo := 5, w := 1, reset := 0 }
def DIKE_CH_STATUS_STATE (a : Nat) : Field := { off := 0x59054 + 0x80 * a, lo := 0, w := 3, reset := 0 }
/-- `DIKE_CHc_CAUSE` (20_dike_power.md). -/
def DIKE_CH_CAUSE_PEAK (a : Nat) : Field := { off := 0x59058 + 0x80 * a, lo := 16, w := 12, reset := 0 }
def DIKE_CH_CAUSE_POINT (a : Nat) : Field := { off := 0x59058 + 0x80 * a, lo := 4, w := 3, reset := 0 }
def DIKE_CH_CAUSE_CAUSE (a : Nat) : Field := { off := 0x59058 + 0x80 * a, lo := 0, w := 4, reset := 0 }
/-- `DIKE_CHc_FLAGS` (20_dike_power.md). -/
def DIKE_CH_FLAGS_PRES_BOUNCE (a : Nat) : Field := { off := 0x5905C + 0x80 * a, lo := 3, w := 1, reset := 0 }
def DIKE_CH_FLAGS_LOCKOUT (a : Nat) : Field := { off := 0x5905C + 0x80 * a, lo := 2, w := 1, reset := 0 }
def DIKE_CH_FLAGS_TRIP (a : Nat) : Field := { off := 0x5905C + 0x80 * a, lo := 1, w := 1, reset := 0 }
/-- `DIKE_CHc_CNT_TRIP` (20_dike_power.md). -/
def DIKE_CH_CNT_TRIP (a : Nat) : Field := { off := 0x59060 + 0x80 * a, lo := 0, w := 32, reset := 0 }
/-- `DIKE_CHc_CNT_INSERT` (20_dike_power.md). -/
def DIKE_CH_CNT_INSERT (a : Nat) : Field := { off := 0x59064 + 0x80 * a, lo := 0, w := 32, reset := 0 }
/-- `PWR_POL_CTRL` (21_adaptation.md). -/
def PWR_POL_CTRL_LULL_AUTO : Field := { off := 0x50000, lo := 2, w := 1, reset := 0 }
def PWR_POL_CTRL_SERVO : Field := { off := 0x50000, lo := 1, w := 1, reset := 1 }
def PWR_POL_CTRL_AVS : Field := { off := 0x50000, lo := 0, w := 1, reset := 1 }
/-- `PWR_AVS_RANGE` (21_adaptation.md). -/
def PWR_AVS_RANGE_VMAX_MV : Field := { off := 0x50004, lo := 16, w := 10, reset := 850 }
def PWR_AVS_RANGE_VMIN_MV : Field := { off := 0x50004, lo := 0, w := 10, reset := 600 }
/-- `PWR_AVS_STEP` (21_adaptation.md). -/
def PWR_AVS_STEP_STEP_MV : Field := { off := 0x50008, lo := 24, w := 8, reset := 5 }
def PWR_AVS_STEP_DOWN_COUNT : Field := { off := 0x50008, lo := 16, w := 8, reset := 10 }
def PWR_AVS_STEP_HYST_PCT : Field := { off := 0x50008, lo := 8, w := 8, reset := 3 }
/-- `PWR_AVS_TIME` (21_adaptation.md). -/
def PWR_AVS_TIME_PERIOD_US : Field := { off := 0x5000C, lo := 16, w := 16, reset := 100 }
def PWR_AVS_TIME_SETTLE_US : Field := { off := 0x5000C, lo := 0, w := 16, reset := 50 }
/-- `PWR_AVS_MARGIN` (21_adaptation.md). -/
def PWR_AVS_MARGIN_FIELD_PCT : Field := { off := 0x50010, lo := 8, w := 8, reset := 10 }
def PWR_AVS_MARGIN_MARGIN_PCT : Field := { off := 0x50010, lo := 0, w := 8, reset := 10 }
/-- `PWR_AVS_FIXED` (21_adaptation.md). -/
def PWR_AVS_FIXED : Field := { off := 0x50014, lo := 0, w := 10, reset := 750 }
/-- `PWR_AVS_STATUS` (21_adaptation.md). -/
def PWR_AVS_STATUS_STATE : Field := { off := 0x50018, lo := 30, w := 2, reset := 0 }
def PWR_AVS_STATUS_VOUT_MV : Field := { off := 0x50018, lo := 16, w := 10, reset := 0 }
def PWR_AVS_STATUS_SET_MV : Field := { off := 0x50018, lo := 0, w := 10, reset := 850 }
/-- `PWR_AVS_RATIO` (21_adaptation.md). -/
def PWR_AVS_RATIO_DOMAIN : Field := { off := 0x5001C, lo := 16, w := 5, reset := 0 }
def PWR_AVS_RATIO_RATIO : Field := { off := 0x5001C, lo := 0, w := 16, reset := 0 }
/-- `PWR_PMB_CFG` (21_adaptation.md). -/
def PWR_PMB_CFG_SPEED : Field := { off := 0x50020, lo := 8, w := 1, reset := 1 }
def PWR_PMB_CFG_PEC : Field := { off := 0x50020, lo := 7, w := 1, reset := 0 }
def PWR_PMB_CFG_ADDR : Field := { off := 0x50020, lo := 0, w := 7, reset := 64 }
/-- `PWR_ERR` (21_adaptation.md). -/
def PWR_ERR_AVS_FAULT : Field := { off := 0x50024, lo := 1, w := 1, reset := 0 }
def PWR_ERR_CFG_REJECT : Field := { off := 0x50024, lo := 0, w := 1, reset := 0 }
/-- `PWR_PACEd` (21_adaptation.md). -/
def PWR_PACE_FLOOR (a : Nat) : Field := { off := 0x50100 + 0x4 * a, lo := 16, w := 16, reset := paceFloor a }
def PWR_PACE_PACE (a : Nat) : Field := { off := 0x50100 + 0x4 * a, lo := 0, w := 16, reset := 0 }
/-- `PWR_THERM_CFG` (21_adaptation.md). -/
def PWR_THERM_CFG_T_HIGH : Field := { off := 0x50200, lo := 16, w := 8, reset := 108 }
def PWR_THERM_CFG_T_WARN : Field := { off := 0x50200, lo := 8, w := 8, reset := 100 }
def PWR_THERM_CFG_T_HYST : Field := { off := 0x50200, lo := 0, w := 8, reset := 5 }
/-- `PWR_THERM_VIS` (21_adaptation.md). -/
def PWR_THERM_VIS_VIS_STEP : Field := { off := 0x50204, lo := 16, w := 16, reset := 300 }
def PWR_THERM_VIS_VIS_MIN : Field := { off := 0x50204, lo := 0, w := 16, reset := 900 }
/-- `PWR_THERM_STATUS` (21_adaptation.md). -/
def PWR_THERM_STATUS_T_MAX : Field := { off := 0x50208, lo := 24, w := 8, reset := 0 }
def PWR_THERM_STATUS_SENSOR : Field := { off := 0x50208, lo := 20, w := 4, reset := 0 }
def PWR_THERM_STATUS_LEVEL : Field := { off := 0x50208, lo := 0, w := 2, reset := 0 }
/-- `PWR_POL_DB` (21_adaptation.md). -/
def PWR_POL_DB_CURVE : Field := { off := 0x50300, lo := 8, w := 2, reset := 0 }
def PWR_POL_DB_STAY : Field := { off := 0x50300, lo := 0, w := 8, reset := 8 }
/-- `PWR_POL_LULL` (21_adaptation.md). -/
def PWR_POL_LULL_IDLE_S : Field := { off := 0x50304, lo := 16, w := 16, reset := 600 }
def PWR_POL_LULL_RETRY_S : Field := { off := 0x50304, lo := 0, w := 16, reset := 60 }
/-- `PWR_POL_SERVO` (21_adaptation.md). -/
def PWR_POL_SERVO : Field := { off := 0x50308, lo := 0, w := 4, reset := 2 }
/-- `MEM_STATUS` (23_register_index.md). -/
def MEM_STATUS_SIZE_GIB : Field := { off := 0xC00000, lo := 8, w := 8, reset := 0 }
def MEM_STATUS_TRAINED : Field := { off := 0xC00000, lo := 0, w := 1, reset := 0 }
/-- `MEM_CNT_ECC_C` (23_register_index.md). -/
def MEM_CNT_ECC_C : Field := { off := 0xC00004, lo := 0, w := 32, reset := 0 }
/-- `MEM_CNT_ECC_U` (23_register_index.md). -/
def MEM_CNT_ECC_U : Field := { off := 0xC00008, lo := 0, w := 32, reset := 0 }

end Sys2Proof.Machine.Reg
end

