-- ==== Sys2Proof/Machine/RegTable.lean ====
section
/-! DEFINITION. The register tables of spec/ as data: one row per register, with its base offset, the strides and counts
of its instances, and its fields with their access codes (R6-R9, R490-R495). -/

namespace Sys2Proof.Machine.Reg

/-- The access codes of R7. -/
inductive Acc where
  | rw | ro | wo | w1c | w1s
  deriving DecidableEq, Repr

/-- Whether a register is the low or the high half of a 64-bit pair under R11. -/
inductive Pair where
  | single | lo | hi
  deriving DecidableEq, Repr

/-- A row of a register table: instance i, j, k lies at `base` plus the strides of `dims`. -/
structure RegRow where
  base   : Nat
  dims   : List (Nat × Nat)
  pair   : Pair
  fields : Nat → Nat → Nat → List (Field × Acc)

/-- The GLB block of the register tables, part 0. -/
def rowsGlb0 : List RegRow :=
  [ { base := 0x0, dims := [], pair := .single, fields := fun _ _ _ => [(GLB_ID_PART, .ro), (GLB_ID_STEPPING, .ro), (GLB_ID_FAMILY, .ro)] },
    { base := 0x4, dims := [], pair := .single, fields := fun _ _ _ => [(GLB_MODE_REQ_STATUS, .ro), (GLB_MODE_PREV, .ro), (GLB_MODE_MODE, .ro)] },
    { base := 0x8, dims := [], pair := .single, fields := fun _ _ _ => [(GLB_MODE_REQ, .wo)] },
    { base := 0x40, dims := [], pair := .single, fields := fun _ _ _ => [(GLB_PIN_POLICY_FENCE_HOLD, .rw), (GLB_PIN_POLICY_RST_HOLD, .rw)] },
    { base := 0x44, dims := [], pair := .single, fields := fun _ _ _ => [(GLB_STRAP_TEST_EN, .ro), (GLB_STRAP_SLOT, .ro), (GLB_STRAP_LOAD, .ro)] },
    { base := 0x48, dims := [], pair := .single, fields := fun _ _ _ => [(GLB_PSW_SENSE, .ro), (GLB_PSW_OWN, .ro), (GLB_PSW_TAKE, .wo), (GLB_PSW_LOST, .w1c)] },
    { base := 0x10, dims := [], pair := .single, fields := fun _ _ _ => [(GLB_PD_ON_SET, .w1s)] },
    { base := 0x14, dims := [], pair := .single, fields := fun _ _ _ => [(GLB_PD_ON_CLR, .w1c)] },
    { base := 0x18, dims := [], pair := .single, fields := fun _ _ _ => [(GLB_PD_STATUS, .ro)] },
    { base := 0x1C, dims := [], pair := .single, fields := fun _ _ _ => [(GLB_PD_TRANS, .ro)] },
    { base := 0x20, dims := [], pair := .single, fields := fun _ _ _ => [(GLB_PD_ERR, .w1c)] },
    { base := 0x30, dims := [], pair := .single, fields := fun _ _ _ => [(GLB_RESET_KEY, .wo), (GLB_RESET_KIND, .wo)] },
    { base := 0x38, dims := [], pair := .single, fields := fun _ _ _ => [(GLB_RST_CFG, .rw)] },
    { base := 0x3C, dims := [], pair := .single, fields := fun _ _ _ => [(GLB_RST_CAUSE_COUNT, .ro), (GLB_RST_CAUSE_SOURCE, .ro), (GLB_RST_CAUSE_KIND, .ro)] },
    { base := 0x50, dims := [], pair := .lo, fields := fun _ _ _ => [(GLB_UID_LO, .ro)] },
    { base := 0x54, dims := [], pair := .hi, fields := fun _ _ _ => [(GLB_UID_HI, .ro)] } ]

def rowsGlb : List RegRow := rowsGlb0

/-- The BOOT block of the register tables, part 0. -/
def rowsBoot0 : List RegRow :=
  [ { base := 0x10000, dims := [], pair := .single, fields := fun _ _ _ => [(BOOT_STATUS_DETAIL, .ro), (BOOT_STATUS_PATH, .ro), (BOOT_STATUS_SLOT, .ro), (BOOT_STATUS_LOAD_STATUS, .ro)] },
    { base := 0x10004, dims := [], pair := .single, fields := fun _ _ _ => [(BOOT_PAGES_RECEIVED, .ro), (BOOT_PAGES_EXPECTED, .ro)] },
    { base := 0x10008, dims := [], pair := .single, fields := fun _ _ _ => [(BOOT_MISSING_NONE, .ro), (BOOT_MISSING_FIRST, .ro)] },
    { base := 0x10010, dims := [], pair := .single, fields := fun _ _ _ => [(BOOT_BAR2_POST, .wo)] },
    { base := 0x10014, dims := [], pair := .single, fields := fun _ _ _ => [(BOOT_BAR2_RESULT_STATUS, .ro), (BOOT_BAR2_RESULT_DETAIL, .ro), (BOOT_BAR2_RESULT_LAST_SLOT, .ro)] },
    { base := 0x10018, dims := [], pair := .single, fields := fun _ _ _ => [(BOOT_BAR2_QUEUE_OVERRUN, .w1c), (BOOT_BAR2_QUEUE_PENDING, .ro)] },
    { base := 0x1001C, dims := [], pair := .single, fields := fun _ _ _ => [(BOOT_CTRL_RESTART_STAGE, .wo), (BOOT_CTRL_RESTART, .wo)] },
    { base := 0x10020, dims := [], pair := .single, fields := fun _ _ _ => [(BOOT_IMG_VERSION, .ro)] },
    { base := 0x10024, dims := [], pair := .single, fields := fun _ _ _ => [(BOOT_IMG_CRC, .ro)] },
    { base := 0x10028, dims := [], pair := .single, fields := fun _ _ _ => [(BOOT_STAGED_CRC, .ro)] },
    { base := 0x1002C, dims := [], pair := .single, fields := fun _ _ _ => [(BOOT_STAGED_STATUS_DETAIL, .ro), (BOOT_STAGED_STATUS_ARMED, .ro), (BOOT_STAGED_STATUS_STAGE_STATUS, .ro)] },
    { base := 0x10030, dims := [], pair := .lo, fields := fun _ _ _ => [(BOOT_ACT_TIME_LO, .rw)] },
    { base := 0x10034, dims := [], pair := .hi, fields := fun _ _ _ => [(BOOT_ACT_TIME_HI, .rw)] },
    { base := 0x10038, dims := [], pair := .single, fields := fun _ _ _ => [(BOOT_ACT_CRC, .rw)] },
    { base := 0x1003C, dims := [], pair := .single, fields := fun _ _ _ => [(BOOT_ACT_CTRL_TWIN_GAP, .rw), (BOOT_ACT_CTRL_CANCEL, .wo), (BOOT_ACT_CTRL_ARM, .wo)] },
    { base := 0x10040, dims := [(0x4, 8)], pair := .single, fields := fun a _ _ => [(BOOT_ACT_MAP a, .rw)] },
    { base := 0x10060, dims := [], pair := .single, fields := fun _ _ _ => [(BOOT_ACT_RESULT_FIRST_NODE, .ro), (BOOT_ACT_RESULT_NODES_BAD, .ro), (BOOT_ACT_RESULT_CODE, .ro), (BOOT_ACT_RESULT_ACT_STATE, .ro)] },
    { base := 0x10080, dims := [], pair := .single, fields := fun _ _ _ => [(BOOT_CAL_STATE_COMMITS, .ro), (BOOT_CAL_STATE_LAYOUT, .ro), (BOOT_CAL_STATE_BUSY, .ro), (BOOT_CAL_STATE_ERR, .w1c), (BOOT_CAL_STATE_CAL_STATE, .ro)] },
    { base := 0x10084, dims := [], pair := .single, fields := fun _ _ _ => [(BOOT_CAL_CTRL_KEY, .wo), (BOOT_CAL_CTRL_ERASE, .wo), (BOOT_CAL_CTRL_COMMIT, .wo), (BOOT_CAL_CTRL_LOAD_SHADOW, .wo)] },
    { base := 0x11000, dims := [(0x4, 1024)], pair := .single, fields := fun a _ _ => [(BOOT_CAL_DATA a, .ro)] },
    { base := 0x12000, dims := [(0x4, 1024)], pair := .single, fields := fun a _ _ => [(BOOT_CAL_SHADOW a, .rw)] } ]

def rowsBoot : List RegRow := rowsBoot0

/-- The HQ block of the register tables, part 0. -/
def rowsHq0 : List RegRow :=
  [ { base := 0x26000, dims := [(0x10, 256)], pair := .single, fields := fun a _ _ => [(MSIX_ADDR_LO a, .rw)] },
    { base := 0x26004, dims := [(0x10, 256)], pair := .single, fields := fun a _ _ => [(MSIX_ADDR_HI a, .rw)] },
    { base := 0x26008, dims := [(0x10, 256)], pair := .single, fields := fun a _ _ => [(MSIX_DATA a, .rw)] },
    { base := 0x2600C, dims := [(0x10, 256)], pair := .single, fields := fun a _ _ => [(MSIX_CTRL a, .rw)] },
    { base := 0x27000, dims := [(0x4, 8)], pair := .single, fields := fun a _ _ => [(MSIX_PBA a, .ro)] },
    { base := 0x20000, dims := [], pair := .single, fields := fun _ _ _ => [(HQ_CTRL, .rw)] },
    { base := 0x20004, dims := [], pair := .single, fields := fun _ _ _ => [(HQ_STATUS, .ro)] },
    { base := 0x20008, dims := [], pair := .lo, fields := fun _ _ _ => [(HQ_DB_BASE_LO, .rw)] },
    { base := 0x2000C, dims := [], pair := .hi, fields := fun _ _ _ => [(HQ_DB_BASE_HI, .rw)] },
    { base := 0x20010, dims := [], pair := .lo, fields := fun _ _ _ => [(HQ_HEAD_BASE_LO, .rw)] },
    { base := 0x20014, dims := [], pair := .hi, fields := fun _ _ _ => [(HQ_HEAD_BASE_HI, .rw)] },
    { base := 0x20018, dims := [], pair := .single, fields := fun _ _ _ => [(HQ_POLL_CFG_MAX, .rw), (HQ_POLL_CFG_MIN, .rw)] },
    { base := 0x20020, dims := [], pair := .single, fields := fun _ _ _ => [(HQ_ERR_CQ_WRITE, .w1c), (HQ_ERR_DB_READ, .w1c), (HQ_ERR_CFG_REJECT, .w1c)] },
    { base := 0x20024, dims := [], pair := .single, fields := fun _ _ _ => [(HQ_CNT_FETCHED, .ro)] },
    { base := 0x20028, dims := [], pair := .single, fields := fun _ _ _ => [(HQ_CNT_REFUSED, .ro)] },
    { base := 0x2002C, dims := [], pair := .single, fields := fun _ _ _ => [(HQ_CNT_STALE, .ro)] },
    { base := 0x21000, dims := [(0x20, 256)], pair := .lo, fields := fun a _ _ => [(HQ_SQ_BASE_LO a, .rw)] },
    { base := 0x21004, dims := [(0x20, 256)], pair := .hi, fields := fun a _ _ => [(HQ_SQ_BASE_HI a, .rw)] },
    { base := 0x21008, dims := [(0x20, 256)], pair := .single, fields := fun a _ _ => [(HQ_SQ_CFG_CQ a, .rw), (HQ_SQ_CFG_LOG2_ENTRIES a, .rw), (HQ_SQ_CFG_ORDER a, .rw), (HQ_SQ_CFG_STOP_ON_ERR a, .rw), (HQ_SQ_CFG_FENCE_ON_POSTED_FAULT a, .rw), (HQ_SQ_CFG_MAX_INFLIGHT a, .rw)] },
    { base := 0x2100C, dims := [(0x20, 256)], pair := .single, fields := fun a _ _ => [(HQ_SQ_CTRL_EPOCH a, .rw), (HQ_SQ_CTRL_DISABLE a, .wo), (HQ_SQ_CTRL_ENABLE a, .wo)] },
    { base := 0x21010, dims := [(0x20, 256)], pair := .single, fields := fun a _ _ => [(HQ_SQ_STATE_INFLIGHT a, .ro), (HQ_SQ_STATE_LAST_STATUS a, .ro), (HQ_SQ_STATE_STATE a, .ro)] },
    { base := 0x21014, dims := [(0x20, 256)], pair := .single, fields := fun a _ _ => [(HQ_SQ_CONS a, .rw)] },
    { base := 0x24000, dims := [(0x20, 256)], pair := .lo, fields := fun a _ _ => [(HQ_CQ_BASE_LO a, .rw)] },
    { base := 0x24004, dims := [(0x20, 256)], pair := .hi, fields := fun a _ _ => [(HQ_CQ_BASE_HI a, .rw)] } ]

/-- The HQ block of the register tables, part 1. -/
def rowsHq1 : List RegRow :=
  [ { base := 0x24008, dims := [(0x20, 256)], pair := .single, fields := fun a _ _ => [(HQ_CQ_CFG_VECTOR a, .rw), (HQ_CQ_CFG_LOG2_ENTRIES a, .rw), (HQ_CQ_CFG_ENABLE a, .rw)] },
    { base := 0x2400C, dims := [(0x20, 256)], pair := .single, fields := fun a _ _ => [(HQ_CQ_MOD_MOD_TIME a, .rw), (HQ_CQ_MOD_MOD_COUNT a, .rw)] },
    { base := 0x24010, dims := [(0x20, 256)], pair := .single, fields := fun a _ _ => [(HQ_CQ_WRITTEN a, .ro)] },
    { base := 0x24014, dims := [(0x20, 256)], pair := .single, fields := fun a _ _ => [(HQ_CQ_STALLS a, .ro)] },
    { base := 0x28000, dims := [], pair := .lo, fields := fun _ _ _ => [(HQ_JRN_BASE_LO, .rw)] },
    { base := 0x28004, dims := [], pair := .hi, fields := fun _ _ _ => [(HQ_JRN_BASE_HI, .rw)] },
    { base := 0x28008, dims := [], pair := .single, fields := fun _ _ _ => [(HQ_JRN_CFG_SPOOL_MIB, .rw), (HQ_JRN_CFG_LOG2_RECORDS, .rw), (HQ_JRN_CFG_ENABLE, .rw)] },
    { base := 0x2800C, dims := [], pair := .single, fields := fun _ _ _ => [(HQ_JRN_STATUS_ERR, .ro), (HQ_JRN_STATUS_STATE, .ro)] },
    { base := 0x28010, dims := [], pair := .single, fields := fun _ _ _ => [(HQ_JRN_ACCEPTED, .ro)] },
    { base := 0x28014, dims := [], pair := .single, fields := fun _ _ _ => [(HQ_JRN_REPLAYED, .ro)] },
    { base := 0x28018, dims := [], pair := .single, fields := fun _ _ _ => [(HQ_JRN_INDET, .ro)] },
    { base := 0x2801C, dims := [], pair := .single, fields := fun _ _ _ => [(HQ_JRN_SPOOL_FREE, .ro)] },
    { base := 0x28020, dims := [], pair := .single, fields := fun _ _ _ => [(HQ_DLV_CFG_HOLD_TIME, .rw), (HQ_DLV_CFG_TAKEOVER_PEND, .rw), (HQ_DLV_CFG_ACK_TIMEOUT, .rw)] },
    { base := 0x28040, dims := [], pair := .single, fields := fun _ _ _ => [(HQ_LDG_STATUS_MIRROR, .ro), (HQ_LDG_STATUS_USED, .ro)] },
    { base := 0x28044, dims := [], pair := .single, fields := fun _ _ _ => [(HQ_LDG_DUP, .ro)] },
    { base := 0x28048, dims := [], pair := .single, fields := fun _ _ _ => [(HQ_LDG_GAP, .ro)] },
    { base := 0x2804C, dims := [], pair := .single, fields := fun _ _ _ => [(HQ_LDG_TORN, .ro)] },
    { base := 0x28050, dims := [], pair := .single, fields := fun _ _ _ => [(HQ_LDG_FULL, .ro)] } ]

def rowsHq : List RegRow := rowsHq0 ++ rowsHq1

/-- The INT block of the register tables, part 0. -/
def rowsInt0 : List RegRow :=
  [ { base := 0x30000, dims := [(0x1000, 9), (0x4, 8)], pair := .single, fields := fun a b _ => [(INT_P_PEND_SET a b, .w1s)] },
    { base := 0x30020, dims := [(0x1000, 9), (0x4, 8)], pair := .single, fields := fun a b _ => [(INT_P_PEND_CLR a b, .w1c)] },
    { base := 0x30040, dims := [(0x1000, 9), (0x4, 8)], pair := .single, fields := fun a b _ => [(INT_P_MASK_SET a b, .w1s)] },
    { base := 0x30060, dims := [(0x1000, 9), (0x4, 8)], pair := .single, fields := fun a b _ => [(INT_P_MASK_CLR a b, .w1c)] },
    { base := 0x30080, dims := [(0x1000, 9), (0x4, 8)], pair := .single, fields := fun a b _ => [(INT_P_KIND a b, .ro)] },
    { base := 0x300A0, dims := [(0x1000, 9), (0x4, 8)], pair := .single, fields := fun a b _ => [(INT_P_INPUT a b, .ro)] },
    { base := 0x30100, dims := [(0x1000, 9), (0x4, 32)], pair := .single, fields := fun a b _ => [(INT_P_PRIO_PRIO0 a b, .rw), (INT_P_PRIO_PRIO1 a b, .rw), (INT_P_PRIO_PRIO2 a b, .rw), (INT_P_PRIO_PRIO3 a b, .rw), (INT_P_PRIO_PRIO4 a b, .rw), (INT_P_PRIO_PRIO5 a b, .rw), (INT_P_PRIO_PRIO6 a b, .rw), (INT_P_PRIO_PRIO7 a b, .rw)] },
    { base := 0x30200, dims := [(0x1000, 9)], pair := .single, fields := fun a _ _ => [(INT_P_STATE_RUNLVL a, .ro), (INT_P_STATE_PENDLVL a, .ro), (INT_P_STATE_INSVC a, .ro)] },
    { base := 0x30204, dims := [(0x1000, 9)], pair := .single, fields := fun a _ _ => [(INT_P_COMPLETE a, .wo)] },
    { base := 0x30208, dims := [(0x1000, 9)], pair := .single, fields := fun a _ _ => [(INT_P_CNT_SPURIOUS a, .ro)] },
    { base := 0x3020C, dims := [(0x1000, 9)], pair := .single, fields := fun a _ _ => [(INT_P_CNT_CLAIM a, .ro)] },
    { base := 0x30210, dims := [(0x1000, 9)], pair := .single, fields := fun a _ _ => [(INT_P_ERR_BAD_COMPLETE a, .w1c), (INT_P_ERR_CFG_REJECT a, .w1c)] },
    { base := 0x30214, dims := [(0x1000, 9)], pair := .single, fields := fun a _ _ => [(INT_P_SH_SUM a, .ro)] },
    { base := 0x3C000, dims := [(0x4, 32)], pair := .single, fields := fun a _ _ => [(INT_SH_PEND_SET a, .w1s)] },
    { base := 0x3C080, dims := [(0x4, 32)], pair := .single, fields := fun a _ _ => [(INT_SH_PEND_CLR a, .w1c)] },
    { base := 0x3C100, dims := [(0x4, 32)], pair := .single, fields := fun a _ _ => [(INT_SH_MASK_SET a, .w1s)] },
    { base := 0x3C180, dims := [(0x4, 32)], pair := .single, fields := fun a _ _ => [(INT_SH_MASK_CLR a, .w1c)] },
    { base := 0x3C200, dims := [(0x4, 32)], pair := .single, fields := fun a _ _ => [(INT_SH_KIND a, .ro)] },
    { base := 0x3C280, dims := [(0x4, 32)], pair := .single, fields := fun a _ _ => [(INT_SH_INPUT a, .ro)] },
    { base := 0x3C300, dims := [], pair := .single, fields := fun _ _ _ => [(INT_SH_ERR, .w1c)] },
    { base := 0x3C400, dims := [(0x4, 128)], pair := .single, fields := fun a _ _ => [(INT_SH_PRIO_PRIO0 a, .rw), (INT_SH_PRIO_PRIO1 a, .rw), (INT_SH_PRIO_PRIO2 a, .rw), (INT_SH_PRIO_PRIO3 a, .rw), (INT_SH_PRIO_PRIO4 a, .rw), (INT_SH_PRIO_PRIO5 a, .rw), (INT_SH_PRIO_PRIO6 a, .rw), (INT_SH_PRIO_PRIO7 a, .rw)] },
    { base := 0x3D000, dims := [(0x4, 1024)], pair := .single, fields := fun a _ _ => [(INT_SH_ROUTE_VECTOR a, .rw), (INT_SH_ROUTE_TARGET a, .rw)] } ]

def rowsInt : List RegRow := rowsInt0

/-- The FLT block of the register tables, part 0. -/
def rowsFlt0 : List RegRow :=
  [ { base := 0x40000, dims := [], pair := .single, fields := fun _ _ _ => [(FLT_STATUS_LAST_SRC, .ro), (FLT_STATUS_SQUALL, .ro), (FLT_STATUS_UNACK_F, .ro), (FLT_STATUS_UNACK_U, .ro), (FLT_STATUS_UNACK_C, .ro)] },
    { base := 0x40004, dims := [], pair := .single, fields := fun _ _ _ => [(FLT_FENCED, .ro)] },
    { base := 0x40008, dims := [], pair := .single, fields := fun _ _ _ => [(FLT_SEQ, .ro)] },
    { base := 0x4000C, dims := [], pair := .single, fields := fun _ _ _ => [(FLT_ACK_C, .wo)] },
    { base := 0x40010, dims := [], pair := .single, fields := fun _ _ _ => [(FLT_ACK_U, .wo)] },
    { base := 0x40014, dims := [], pair := .single, fields := fun _ _ _ => [(FLT_ACK_F, .wo)] },
    { base := 0x40018, dims := [], pair := .single, fields := fun _ _ _ => [(FLT_FAULTN_PULSE, .ro), (FLT_FAULTN_DRIVE, .rw)] },
    { base := 0x4001C, dims := [], pair := .single, fields := fun _ _ _ => [(FLT_LOG_STATUS_LOST, .ro), (FLT_LOG_STATUS_USED, .ro)] },
    { base := 0x40020, dims := [], pair := .single, fields := fun _ _ _ => [(FLT_CNT_C, .ro)] },
    { base := 0x40024, dims := [], pair := .single, fields := fun _ _ _ => [(FLT_CNT_U, .ro)] },
    { base := 0x40028, dims := [], pair := .single, fields := fun _ _ _ => [(FLT_CNT_F, .ro)] },
    { base := 0x4002C, dims := [], pair := .single, fields := fun _ _ _ => [(FLT_CNT_SQUALL, .ro)] },
    { base := 0x40030, dims := [], pair := .lo, fields := fun _ _ _ => [(FLT_HLOG_BASE_LO, .rw)] },
    { base := 0x40034, dims := [], pair := .hi, fields := fun _ _ _ => [(FLT_HLOG_BASE_HI, .rw)] },
    { base := 0x40038, dims := [], pair := .single, fields := fun _ _ _ => [(FLT_HLOG_CFG_LOG2_ENTRIES, .rw), (FLT_HLOG_CFG_EN, .rw)] },
    { base := 0x4003C, dims := [], pair := .single, fields := fun _ _ _ => [(FLT_HLOG_NEXT, .ro)] },
    { base := 0x40040, dims := [], pair := .single, fields := fun _ _ _ => [(FLT_ERR, .w1c)] },
    { base := 0x40044, dims := [], pair := .single, fields := fun _ _ _ => [(FLT_CFG, .rw)] },
    { base := 0x44000, dims := [(0x4, 4096)], pair := .single, fields := fun a _ _ => [(FLT_LOG a, .ro)] },
    { base := 0x41000, dims := [(0x4, 640)], pair := .single, fields := fun a _ _ => [(FLT_SRC_COUNT a, .ro), (FLT_SRC_CLASS a, .ro), (FLT_SRC_ACTION a, .rw)] } ]

def rowsFlt : List RegRow := rowsFlt0

/-- The PWR block of the register tables, part 0. -/
def rowsPwr0 : List RegRow :=
  [ { base := 0x58000, dims := [], pair := .single, fields := fun _ _ _ => [(DIKE_ERR, .w1c)] },
    { base := 0x58004, dims := [], pair := .single, fields := fun _ _ _ => [(DIKE_PG, .ro)] },
    { base := 0x59000, dims := [(0x80, 16)], pair := .single, fields := fun a _ _ => [(DIKE_CH_CFG_EN a, .rw), (DIKE_CH_CFG_PRES_USE a, .rw), (DIKE_CH_CFG_PRES_POL a, .rw), (DIKE_CH_CFG_PG_POL a, .rw), (DIKE_CH_CFG_RETRY_MAX a, .rw), (DIKE_CH_CFG_SLEW a, .rw), (DIKE_CH_CFG_BACKOFF_MS a, .rw)] },
    { base := 0x59004, dims := [(0x80, 16)], pair := .single, fields := fun a _ _ => [(DIKE_CH_LIMIT_ILIM_INRUSH a, .rw), (DIKE_CH_LIMIT_ILIM a, .rw)] },
    { base := 0x59008, dims := [(0x80, 16)], pair := .single, fields := fun a _ _ => [(DIKE_CH_SC a, .rw)] },
    { base := 0x5900C, dims := [(0x80, 16)], pair := .single, fields := fun a _ _ => [(DIKE_CH_TIMER_FAULT_US a, .rw), (DIKE_CH_TIMER_INRUSH_MS a, .rw)] },
    { base := 0x59010, dims := [(0x80, 16)], pair := .single, fields := fun a _ _ => [(DIKE_CH_PG a, .rw)] },
    { base := 0x59014, dims := [(0x80, 16)], pair := .single, fields := fun a _ _ => [(DIKE_CH_DRIVE a, .rw)] },
    { base := 0x59020, dims := [(0x80, 16), (0x4, 8)], pair := .single, fields := fun a b _ => [(DIKE_CH_CURVE_I a b, .rw), (DIKE_CH_CURVE_T a b, .rw)] },
    { base := 0x59040, dims := [(0x80, 16), (0x4, 4)], pair := .single, fields := fun a b _ => [(DIKE_CH_BIND_EN a b, .rw), (DIKE_CH_BIND_LAST a b, .rw), (DIKE_CH_BIND_FIRST a b, .rw)] },
    { base := 0x59050, dims := [(0x80, 16)], pair := .single, fields := fun a _ _ => [(DIKE_CH_CMD a, .wo)] },
    { base := 0x59054, dims := [(0x80, 16)], pair := .single, fields := fun a _ _ => [(DIKE_CH_STATUS_CURRENT a, .ro), (DIKE_CH_STATUS_RETRIES a, .ro), (DIKE_CH_STATUS_PG a, .ro), (DIKE_CH_STATUS_PRES a, .ro), (DIKE_CH_STATUS_LIMITING a, .ro), (DIKE_CH_STATUS_STATE a, .ro)] },
    { base := 0x59058, dims := [(0x80, 16)], pair := .single, fields := fun a _ _ => [(DIKE_CH_CAUSE_PEAK a, .ro), (DIKE_CH_CAUSE_POINT a, .ro), (DIKE_CH_CAUSE_CAUSE a, .ro)] },
    { base := 0x5905C, dims := [(0x80, 16)], pair := .single, fields := fun a _ _ => [(DIKE_CH_FLAGS_PRES_BOUNCE a, .w1c), (DIKE_CH_FLAGS_LOCKOUT a, .w1c), (DIKE_CH_FLAGS_TRIP a, .w1c)] },
    { base := 0x59060, dims := [(0x80, 16)], pair := .single, fields := fun a _ _ => [(DIKE_CH_CNT_TRIP a, .ro)] },
    { base := 0x59064, dims := [(0x80, 16)], pair := .single, fields := fun a _ _ => [(DIKE_CH_CNT_INSERT a, .ro)] },
    { base := 0x50000, dims := [], pair := .single, fields := fun _ _ _ => [(PWR_POL_CTRL_LULL_AUTO, .rw), (PWR_POL_CTRL_SERVO, .rw), (PWR_POL_CTRL_AVS, .rw)] },
    { base := 0x50004, dims := [], pair := .single, fields := fun _ _ _ => [(PWR_AVS_RANGE_VMAX_MV, .rw), (PWR_AVS_RANGE_VMIN_MV, .rw)] },
    { base := 0x50008, dims := [], pair := .single, fields := fun _ _ _ => [(PWR_AVS_STEP_STEP_MV, .rw), (PWR_AVS_STEP_DOWN_COUNT, .rw), (PWR_AVS_STEP_HYST_PCT, .rw)] },
    { base := 0x5000C, dims := [], pair := .single, fields := fun _ _ _ => [(PWR_AVS_TIME_PERIOD_US, .rw), (PWR_AVS_TIME_SETTLE_US, .rw)] },
    { base := 0x50010, dims := [], pair := .single, fields := fun _ _ _ => [(PWR_AVS_MARGIN_FIELD_PCT, .rw), (PWR_AVS_MARGIN_MARGIN_PCT, .rw)] },
    { base := 0x50014, dims := [], pair := .single, fields := fun _ _ _ => [(PWR_AVS_FIXED, .rw)] },
    { base := 0x50018, dims := [], pair := .single, fields := fun _ _ _ => [(PWR_AVS_STATUS_STATE, .ro), (PWR_AVS_STATUS_VOUT_MV, .ro), (PWR_AVS_STATUS_SET_MV, .ro)] },
    { base := 0x5001C, dims := [], pair := .single, fields := fun _ _ _ => [(PWR_AVS_RATIO_DOMAIN, .ro), (PWR_AVS_RATIO_RATIO, .ro)] } ]

/-- The PWR block of the register tables, part 1. -/
def rowsPwr1 : List RegRow :=
  [ { base := 0x50020, dims := [], pair := .single, fields := fun _ _ _ => [(PWR_PMB_CFG_SPEED, .rw), (PWR_PMB_CFG_PEC, .rw), (PWR_PMB_CFG_ADDR, .rw)] },
    { base := 0x50024, dims := [], pair := .single, fields := fun _ _ _ => [(PWR_ERR_AVS_FAULT, .w1c), (PWR_ERR_CFG_REJECT, .w1c)] },
    { base := 0x50100, dims := [(0x4, 17)], pair := .single, fields := fun a _ _ => [(PWR_PACE_FLOOR a, .ro), (PWR_PACE_PACE a, .ro)] },
    { base := 0x50200, dims := [], pair := .single, fields := fun _ _ _ => [(PWR_THERM_CFG_T_HIGH, .rw), (PWR_THERM_CFG_T_WARN, .rw), (PWR_THERM_CFG_T_HYST, .rw)] },
    { base := 0x50204, dims := [], pair := .single, fields := fun _ _ _ => [(PWR_THERM_VIS_VIS_STEP, .rw), (PWR_THERM_VIS_VIS_MIN, .rw)] },
    { base := 0x50208, dims := [], pair := .single, fields := fun _ _ _ => [(PWR_THERM_STATUS_T_MAX, .ro), (PWR_THERM_STATUS_SENSOR, .ro), (PWR_THERM_STATUS_LEVEL, .ro)] },
    { base := 0x50300, dims := [], pair := .single, fields := fun _ _ _ => [(PWR_POL_DB_CURVE, .rw), (PWR_POL_DB_STAY, .rw)] },
    { base := 0x50304, dims := [], pair := .single, fields := fun _ _ _ => [(PWR_POL_LULL_IDLE_S, .rw), (PWR_POL_LULL_RETRY_S, .rw)] },
    { base := 0x50308, dims := [], pair := .single, fields := fun _ _ _ => [(PWR_POL_SERVO, .rw)] } ]

def rowsPwr : List RegRow := rowsPwr0 ++ rowsPwr1

/-- The TIME block of the register tables, part 0. -/
def rowsTime0 : List RegRow :=
  [ { base := 0x60000, dims := [], pair := .lo, fields := fun _ _ _ => [(TIME_COUNT_LO, .ro)] },
    { base := 0x60004, dims := [], pair := .hi, fields := fun _ _ _ => [(TIME_COUNT_HI, .ro)] },
    { base := 0x60008, dims := [], pair := .lo, fields := fun _ _ _ => [(TIME_NOW_LO, .ro)] },
    { base := 0x6000C, dims := [], pair := .hi, fields := fun _ _ _ => [(TIME_NOW_HI, .ro)] },
    { base := 0x60010, dims := [], pair := .lo, fields := fun _ _ _ => [(TIME_OFFSET_LO, .ro)] },
    { base := 0x60014, dims := [], pair := .hi, fields := fun _ _ _ => [(TIME_OFFSET_HI, .ro)] },
    { base := 0x60018, dims := [], pair := .lo, fields := fun _ _ _ => [(TIME_ANCHOR_LO, .ro)] },
    { base := 0x6001C, dims := [], pair := .hi, fields := fun _ _ _ => [(TIME_ANCHOR_HI, .ro)] },
    { base := 0x60020, dims := [], pair := .single, fields := fun _ _ _ => [(TIME_RATE, .rw)] },
    { base := 0x60024, dims := [], pair := .lo, fields := fun _ _ _ => [(TIME_STEP_LO, .wo)] },
    { base := 0x60028, dims := [], pair := .hi, fields := fun _ _ _ => [(TIME_STEP_HI, .wo)] },
    { base := 0x6002C, dims := [], pair := .single, fields := fun _ _ _ => [(TIME_CFG_SYNC_US, .rw), (TIME_CFG_LIMIT_PPM, .rw), (TIME_CFG_PTP_PORT, .rw), (TIME_CFG_PPS_IN_EN, .rw), (TIME_CFG_PPS_OUT_EN, .rw), (TIME_CFG_SRC, .rw)] },
    { base := 0x60030, dims := [], pair := .single, fields := fun _ _ _ => [(TIME_CTRL, .wo)] },
    { base := 0x60034, dims := [], pair := .single, fields := fun _ _ _ => [(TIME_STATUS_HOPS, .ro), (TIME_STATUS_EVER_LOCKED, .ro), (TIME_STATUS_LOCKED_SINCE_RESET, .ro), (TIME_STATUS_CLOSURE_VALID, .ro), (TIME_STATUS_CHAIN, .ro), (TIME_STATUS_LOCK, .ro)] },
    { base := 0x60038, dims := [], pair := .single, fields := fun _ _ _ => [(TIME_ERR_UPSTREAM_LOST, .w1c), (TIME_ERR_STEP_REJECT, .w1c), (TIME_ERR_RATE_REJECT, .w1c), (TIME_ERR_CFG_REJECT, .w1c)] },
    { base := 0x6003C, dims := [], pair := .single, fields := fun _ _ _ => [(TIME_ERR_EST, .ro)] },
    { base := 0x60040, dims := [], pair := .single, fields := fun _ _ _ => [(TIME_CLOSURE, .ro)] },
    { base := 0x60050, dims := [(0x4, 3)], pair := .single, fields := fun a _ _ => [(TIME_LINK_DELAY a, .ro)] },
    { base := 0x60060, dims := [(0x4, 3)], pair := .single, fields := fun a _ _ => [(TIME_LINK_ASYM a, .rw)] },
    { base := 0x60070, dims := [], pair := .lo, fields := fun _ _ _ => [(TIME_PPS_IN_LO, .ro)] },
    { base := 0x60074, dims := [], pair := .hi, fields := fun _ _ _ => [(TIME_PPS_IN_HI, .ro)] },
    { base := 0x60100, dims := [(0x20, 8)], pair := .single, fields := fun a _ _ => [(TIME_FSYNC_CTRL_POL a, .rw), (TIME_FSYNC_CTRL_ONCE a, .rw), (TIME_FSYNC_CTRL_EN a, .rw)] },
    { base := 0x60104, dims := [(0x20, 8)], pair := .lo, fields := fun a _ _ => [(TIME_FSYNC_START_LO a, .rw)] },
    { base := 0x60108, dims := [(0x20, 8)], pair := .hi, fields := fun a _ _ => [(TIME_FSYNC_START_HI a, .rw)] } ]

/-- The TIME block of the register tables, part 1. -/
def rowsTime1 : List RegRow :=
  [ { base := 0x6010C, dims := [(0x20, 8)], pair := .single, fields := fun a _ _ => [(TIME_FSYNC_PERIOD a, .rw)] },
    { base := 0x60110, dims := [(0x20, 8)], pair := .single, fields := fun a _ _ => [(TIME_FSYNC_WIDTH a, .rw)] },
    { base := 0x60114, dims := [(0x20, 8)], pair := .single, fields := fun a _ _ => [(TIME_FSYNC_CNT_FIRED a, .ro)] },
    { base := 0x60118, dims := [(0x20, 8)], pair := .single, fields := fun a _ _ => [(TIME_FSYNC_CNT_LATE a, .ro)] } ]

def rowsTime : List RegRow := rowsTime0 ++ rowsTime1

/-- The RING block of the register tables, part 0. -/
def rowsRing0 : List RegRow :=
  [ { base := 0x80000, dims := [], pair := .single, fields := fun _ _ _ => [(RING_NODE_ROOT, .ro), (RING_NODE_HELD_OUT, .ro), (RING_NODE_ID, .rw)] },
    { base := 0x80004, dims := [], pair := .single, fields := fun _ _ _ => [(RING_CTRL_ENUM_START, .wo), (RING_CTRL_EN, .rw)] },
    { base := 0x80008, dims := [], pair := .single, fields := fun _ _ _ => [(RING_ENUM_CFG, .rw)] },
    { base := 0x8000C, dims := [], pair := .single, fields := fun _ _ _ => [(RING_ENUM_STATUS_ROUND, .ro), (RING_ENUM_STATUS_N, .ro), (RING_ENUM_STATUS_CLOSED, .ro), (RING_ENUM_STATUS_STATE, .ro)] },
    { base := 0x80010, dims := [], pair := .single, fields := fun _ _ _ => [(RING_PROT_STATUS_FIRST_WRAP, .ro), (RING_PROT_STATUS_WRAP_W, .ro), (RING_PROT_STATUS_WRAP_E, .ro), (RING_PROT_STATUS_BREAKS, .ro)] },
    { base := 0x80014, dims := [], pair := .single, fields := fun _ _ _ => [(RING_ERR_RA_TIMEOUT, .w1c), (RING_ERR_LULL_SET_REJECT, .w1c), (RING_ERR_CFG_REJECT, .w1c)] },
    { base := 0x80018, dims := [], pair := .single, fields := fun _ _ _ => [(RING_RA_CFG_TIMEOUT, .rw), (RING_RA_CFG_ANY_WRITE, .rw)] },
    { base := 0x80040, dims := [(0x4, 8)], pair := .single, fields := fun a _ _ => [(RING_MAP a, .ro)] },
    { base := 0x80080, dims := [], pair := .single, fields := fun _ _ _ => [(RING_DUP_STATUS_COUNT, .ro), (RING_DUP_STATUS_UNKNOWN, .ro), (RING_DUP_STATUS_LAST_ID, .ro)] },
    { base := 0x80084, dims := [], pair := .lo, fields := fun _ _ _ => [(RING_DUP_UID_A_LO, .ro)] },
    { base := 0x80088, dims := [], pair := .hi, fields := fun _ _ _ => [(RING_DUP_UID_A_HI, .ro)] },
    { base := 0x8008C, dims := [], pair := .lo, fields := fun _ _ _ => [(RING_DUP_UID_B_LO, .ro)] },
    { base := 0x80090, dims := [], pair := .hi, fields := fun _ _ _ => [(RING_DUP_UID_B_HI, .ro)] },
    { base := 0x81000, dims := [(0x8, 255)], pair := .lo, fields := fun a _ _ => [(RING_NTAB_LO a, .rw)] },
    { base := 0x81004, dims := [(0x8, 255)], pair := .hi, fields := fun a _ _ => [(RING_NTAB_HI a, .rw)] },
    { base := 0x80020, dims := [(0x4, 3)], pair := .single, fields := fun a _ _ => [(RING_PORT_STATUS_SIG_DET a, .ro), (RING_PORT_STATUS_LOCK a, .ro), (RING_PORT_STATUS_ALIGNED a, .ro), (RING_PORT_STATUS_RF_RX a, .ro), (RING_PORT_STATUS_STATE a, .ro)] },
    { base := 0x80100, dims := [(0x20, 3)], pair := .single, fields := fun a _ _ => [(RING_PORT_CNT_RX a, .ro)] },
    { base := 0x80104, dims := [(0x20, 3)], pair := .single, fields := fun a _ _ => [(RING_PORT_CNT_TX a, .ro)] },
    { base := 0x80108, dims := [(0x20, 3)], pair := .single, fields := fun a _ _ => [(RING_PORT_CNT_FCS a, .ro)] },
    { base := 0x8010C, dims := [(0x20, 3)], pair := .single, fields := fun a _ _ => [(RING_PORT_CNT_DISCARD a, .ro)] },
    { base := 0x80110, dims := [(0x20, 3)], pair := .single, fields := fun a _ _ => [(RING_PORT_CNT_WRAP a, .ro)] },
    { base := 0x80114, dims := [(0x20, 3)], pair := .single, fields := fun a _ _ => [(RING_PORT_CNT_DOWN a, .ro)] },
    { base := 0x80200, dims := [], pair := .single, fields := fun _ _ _ => [(RING_LULL_SET, .rw)] },
    { base := 0x80204, dims := [], pair := .single, fields := fun _ _ _ => [(RING_LULL_CFG_REFUSE_LIMIT, .rw), (RING_LULL_CFG_ROUND_MS, .rw), (RING_LULL_CFG_DIKE_WAKE, .rw), (RING_LULL_CFG_DENY, .rw)] } ]

/-- The RING block of the register tables, part 1. -/
def rowsRing1 : List RegRow :=
  [ { base := 0x80208, dims := [], pair := .single, fields := fun _ _ _ => [(RING_LULL_CTRL_CLEAR_LOG, .wo), (RING_LULL_CTRL_WAKE, .wo), (RING_LULL_CTRL_ABORT, .wo), (RING_LULL_CTRL_START, .wo)] },
    { base := 0x8020C, dims := [], pair := .single, fields := fun _ _ _ => [(RING_LULL_STATUS_ROUND, .ro), (RING_LULL_STATUS_RESULT, .ro), (RING_LULL_STATUS_LAST_REASON, .ro), (RING_LULL_STATUS_STATE, .ro)] },
    { base := 0x80210, dims := [], pair := .single, fields := fun _ _ _ => [(AON_WAKE_SRC_CAN_IDX, .ro), (AON_WAKE_SRC_FIRST, .ro), (AON_WAKE_SRC_SRC, .w1c)] },
    { base := 0x80214, dims := [], pair := .single, fields := fun _ _ _ => [(RING_LULL_ROUNDS_COMMITTED, .ro), (RING_LULL_ROUNDS_STARTED, .ro)] },
    { base := 0x80400, dims := [(0x4, 255)], pair := .single, fields := fun a _ _ => [(RING_LULL_LOG_COUNT a, .ro), (RING_LULL_LOG_CONSEC a, .ro), (RING_LULL_LOG_LAST_REASON a, .ro)] } ]

def rowsRing : List RegRow := rowsRing0 ++ rowsRing1

/-- The PLD block of the register tables, part 0. -/
def rowsPld0 : List RegRow :=
  [ { base := 0xC0000, dims := [], pair := .single, fields := fun _ _ _ => [(PLD_STATUS, .ro)] },
    { base := 0xC0004, dims := [], pair := .single, fields := fun _ _ _ => [(PLD_SHR_CFG, .rw)] },
    { base := 0xC0008, dims := [], pair := .single, fields := fun _ _ _ => [(PLD_SHR_STATUS, .ro)] },
    { base := 0xC0010, dims := [], pair := .single, fields := fun _ _ _ => [(PLD_FLUSH_ALL_OUT, .wo), (PLD_FLUSH_ALL_IN, .wo), (PLD_FLUSH_CLASSES, .wo), (PLD_FLUSH_OUT, .wo), (PLD_FLUSH_IN, .wo)] },
    { base := 0xC0014, dims := [], pair := .single, fields := fun _ _ _ => [(PLD_FLUSH_STATUS_FRAMES, .ro), (PLD_FLUSH_STATUS_KEPT, .ro), (PLD_FLUSH_STATUS_BUSY, .ro)] },
    { base := 0xC0018, dims := [], pair := .single, fields := fun _ _ _ => [(PLD_ERR_ECC_U, .w1c), (PLD_ERR_FLUSH_REJECT, .w1c), (PLD_ERR_CFG_REJECT, .w1c)] },
    { base := 0xC0020, dims := [], pair := .single, fields := fun _ _ _ => [(PLD_CNT_CRC, .ro)] },
    { base := 0xC0024, dims := [], pair := .single, fields := fun _ _ _ => [(PLD_CNT_OVERSIZE, .ro)] },
    { base := 0xC0028, dims := [], pair := .single, fields := fun _ _ _ => [(PLD_CNT_NOROOM, .ro)] },
    { base := 0xC002C, dims := [], pair := .single, fields := fun _ _ _ => [(PLD_CNT_FLUSHED, .ro)] },
    { base := 0xC0030, dims := [], pair := .single, fields := fun _ _ _ => [(PLD_CNT_ECC_C, .ro)] },
    { base := 0xC0034, dims := [], pair := .single, fields := fun _ _ _ => [(PLD_CNT_ECC_U, .ro)] },
    { base := 0xC0040, dims := [], pair := .single, fields := fun _ _ _ => [(PLD_DIAG_CELL, .rw)] },
    { base := 0xC0100, dims := [(0x4, 64)], pair := .single, fields := fun a _ _ => [(PLD_DIAG_DATA a, .ro)] },
    { base := 0xC1000, dims := [(0x20, 32)], pair := .single, fields := fun a _ _ => [(PLD_IN_RES_LO_RES3 a, .rw), (PLD_IN_RES_LO_RES2 a, .rw), (PLD_IN_RES_LO_RES1 a, .rw), (PLD_IN_RES_LO_RES0 a, .rw)] },
    { base := 0xC1004, dims := [(0x20, 32)], pair := .single, fields := fun a _ _ => [(PLD_IN_RES_HI_RES7 a, .rw), (PLD_IN_RES_HI_RES6 a, .rw), (PLD_IN_RES_HI_RES5 a, .rw), (PLD_IN_RES_HI_RES4 a, .rw)] },
    { base := 0xC1008, dims := [(0x20, 32)], pair := .single, fields := fun a _ _ => [(PLD_IN_SHR_HYST a, .rw), (PLD_IN_SHR_SHR_MAX a, .rw)] },
    { base := 0xC100C, dims := [(0x20, 32)], pair := .single, fields := fun a _ _ => [(PLD_IN_USE_SHR_USED a, .ro), (PLD_IN_USE_RES_USED a, .ro)] },
    { base := 0xC1010, dims := [(0x20, 32)], pair := .single, fields := fun a _ _ => [(PLD_IN_CNT_FRAMES a, .ro)] },
    { base := 0xC1014, dims := [(0x20, 32)], pair := .single, fields := fun a _ _ => [(PLD_IN_CNT_DROP a, .ro)] },
    { base := 0xC1018, dims := [(0x20, 32)], pair := .single, fields := fun a _ _ => [(PLD_IN_STATE_CREDITED a, .ro), (PLD_IN_STATE_HELD a, .ro)] },
    { base := 0xC2000, dims := [(0x10, 32)], pair := .single, fields := fun a _ _ => [(PLD_OUT_MAX a, .rw)] },
    { base := 0xC2004, dims := [(0x10, 32)], pair := .single, fields := fun a _ _ => [(PLD_OUT_USE_CREDITED a, .ro), (PLD_OUT_USE_HELD a, .ro)] },
    { base := 0xC2008, dims := [(0x10, 32)], pair := .single, fields := fun a _ _ => [(PLD_OUT_CNT_TX a, .ro)] } ]

def rowsPld : List RegRow := rowsPld0

/-- The SCH block of the register tables, part 0. -/
def rowsSch0 : List RegRow :=
  [ { base := 0xE0000, dims := [], pair := .single, fields := fun _ _ _ => [(SCH_ERR, .w1c)] },
    { base := 0xE1000, dims := [(0x100, 32)], pair := .single, fields := fun a _ _ => [(SCH_OUT_CFG a, .rw)] },
    { base := 0xE1004, dims := [(0x100, 32)], pair := .single, fields := fun a _ _ => [(SCH_OUT_LINK_RATE_MBPS a, .ro), (SCH_OUT_LINK_OVERHEAD a, .ro)] },
    { base := 0xE1008, dims := [(0x100, 32)], pair := .single, fields := fun a _ _ => [(SCH_OUT_XBUDGET_NEG a, .ro), (SCH_OUT_XBUDGET_NS a, .ro)] },
    { base := 0xE100C, dims := [(0x100, 32)], pair := .single, fields := fun a _ _ => [(SCH_OUT_CNT_PROMO a, .ro)] },
    { base := 0xE1010, dims := [(0x100, 32)], pair := .single, fields := fun a _ _ => [(SCH_OUT_CNT_XSENT a, .ro)] },
    { base := 0xE1014, dims := [(0x100, 32)], pair := .single, fields := fun a _ _ => [(SCH_OUT_CNT_GUARD a, .ro)] },
    { base := 0xE1020, dims := [(0x100, 32), (0x4, 8)], pair := .single, fields := fun a b _ => [(SCH_OUT_CLS_CFG_MAX_WAIT a b, .rw), (SCH_OUT_CLS_CFG_PROMO_EN a b, .rw), (SCH_OUT_CLS_CFG_WEIGHT a b, .rw)] },
    { base := 0xE1040, dims := [(0x100, 32), (0x8, 8)], pair := .single, fields := fun a b _ => [(SCH_OUT_CLS_WEIR_RATE_EN a b, .rw), (SCH_OUT_CLS_WEIR_RATE_REFILL a b, .rw), (SCH_OUT_CLS_WEIR_RATE_RATE a b, .rw)] },
    { base := 0xE1044, dims := [(0x100, 32), (0x8, 8)], pair := .single, fields := fun a b _ => [(SCH_OUT_CLS_WEIR_BURST a b, .rw)] },
    { base := 0xE1080, dims := [(0x100, 32), (0x4, 8)], pair := .single, fields := fun a b _ => [(SCH_OUT_CLS_WEIR_TOKENS a b, .ro)] },
    { base := 0xE4000, dims := [(0x800, 19)], pair := .single, fields := fun a _ _ => [(SCH_GCL_CTRL_LEN a, .rw), (SCH_GCL_CTRL_ABORT a, .wo), (SCH_GCL_CTRL_DISABLE a, .wo), (SCH_GCL_CTRL_COMMIT a, .wo)] },
    { base := 0xE4004, dims := [(0x800, 19)], pair := .lo, fields := fun a _ _ => [(SCH_GCL_CHANGE_LO a, .rw)] },
    { base := 0xE4008, dims := [(0x800, 19)], pair := .hi, fields := fun a _ _ => [(SCH_GCL_CHANGE_HI a, .rw)] },
    { base := 0xE400C, dims := [(0x800, 19)], pair := .single, fields := fun a _ _ => [(SCH_GCL_STATUS_ERR a, .ro), (SCH_GCL_STATUS_STATE a, .ro), (SCH_GCL_STATUS_OPER_LEN a, .ro), (SCH_GCL_STATUS_ENTRY a, .ro), (SCH_GCL_STATUS_GATES a, .ro)] },
    { base := 0xE4010, dims := [(0x800, 19)], pair := .single, fields := fun a _ _ => [(SCH_GCL_CYCLE a, .ro)] },
    { base := 0xE4014, dims := [(0x800, 19)], pair := .single, fields := fun a _ _ => [(SCH_GCL_OPER_CYCLE a, .ro)] },
    { base := 0xE4020, dims := [(0x800, 19), (0x4, 8)], pair := .single, fields := fun a b _ => [(SCH_GCL_GUARD a b, .ro)] },
    { base := 0xE4100, dims := [(0x800, 19), (0x8, 64)], pair := .single, fields := fun a b _ => [(SCH_GCL_ADM_IVL a b, .rw)] },
    { base := 0xE4104, dims := [(0x800, 19), (0x8, 64)], pair := .single, fields := fun a b _ => [(SCH_GCL_ADM_GATES a b, .rw)] },
    { base := 0xE4300, dims := [(0x800, 19), (0x8, 64)], pair := .single, fields := fun a b _ => [(SCH_GCL_OPE_IVL a b, .ro)] },
    { base := 0xE4304, dims := [(0x800, 19), (0x8, 64)], pair := .single, fields := fun a b _ => [(SCH_GCL_OPE_GATES a b, .ro)] } ]

def rowsSch : List RegRow := rowsSch0

/-- The NET block of the register tables, part 0. -/
def rowsNet0 : List RegRow :=
  [ { base := 0x100000, dims := [], pair := .single, fields := fun _ _ _ => [(NET_QS_STATUS, .ro)] },
    { base := 0x100004, dims := [], pair := .single, fields := fun _ _ _ => [(NET_ERR, .w1c)] },
    { base := 0x101000, dims := [(0x40, 16)], pair := .single, fields := fun a _ _ => [(NET_PORT_CFG_EN a, .rw), (NET_PORT_CFG_PAUSE_TX_EN a, .rw), (NET_PORT_CFG_PAUSE_RX_EN a, .rw), (NET_PORT_CFG_TS_APPEND a, .rw), (NET_PORT_CFG_PTP_TRAP a, .rw), (NET_PORT_CFG_DEF_CLASS a, .rw), (NET_PORT_CFG_MAX_FRAME a, .rw)] },
    { base := 0x101004, dims := [(0x40, 16)], pair := .single, fields := fun a _ _ => [(NET_PORT_PCP_MAP a, .rw)] },
    { base := 0x101008, dims := [(0x40, 16)], pair := .single, fields := fun a _ _ => [(NET_PORT_STATUS_LINK a, .ro), (NET_PORT_STATUS_SPEED a, .ro), (NET_PORT_STATUS_STATE a, .ro)] },
    { base := 0x10100C, dims := [(0x40, 16)], pair := .single, fields := fun a _ _ => [(NET_PORT_LAT10_RX_LAT a, .rw), (NET_PORT_LAT10_TX_LAT a, .rw)] },
    { base := 0x101010, dims := [(0x40, 16)], pair := .single, fields := fun a _ _ => [(NET_PORT_LAT100_RX_LAT a, .rw), (NET_PORT_LAT100_TX_LAT a, .rw)] },
    { base := 0x101014, dims := [(0x40, 16)], pair := .single, fields := fun a _ _ => [(NET_PORT_LAT1000_RX_LAT a, .rw), (NET_PORT_LAT1000_TX_LAT a, .rw)] },
    { base := 0x101018, dims := [(0x40, 16)], pair := .single, fields := fun a _ _ => [(NET_PORT_PAUSE a, .rw)] },
    { base := 0x10101C, dims := [(0x40, 16)], pair := .single, fields := fun a _ _ => [(NET_PORT_CNT_RX a, .ro)] },
    { base := 0x101020, dims := [(0x40, 16)], pair := .single, fields := fun a _ _ => [(NET_PORT_CNT_TX a, .ro)] },
    { base := 0x101024, dims := [(0x40, 16)], pair := .single, fields := fun a _ _ => [(NET_PORT_CNT_FCS a, .ro)] },
    { base := 0x101028, dims := [(0x40, 16)], pair := .single, fields := fun a _ _ => [(NET_PORT_CNT_RUNT a, .ro)] },
    { base := 0x10102C, dims := [(0x40, 16)], pair := .single, fields := fun a _ _ => [(NET_PORT_CNT_LONG a, .ro)] },
    { base := 0x101030, dims := [(0x40, 16)], pair := .single, fields := fun a _ _ => [(NET_PORT_CNT_DROP a, .ro)] },
    { base := 0x101034, dims := [(0x40, 16)], pair := .single, fields := fun a _ _ => [(NET_PORT_CNT_PAUSE_TX a, .ro)] },
    { base := 0x101038, dims := [(0x40, 16)], pair := .single, fields := fun a _ _ => [(NET_PORT_CNT_PAUSE_RX a, .ro)] },
    { base := 0x10103C, dims := [(0x40, 16)], pair := .single, fields := fun a _ _ => [(NET_PORT_CNT_DOWN a, .ro)] } ]

def rowsNet : List RegRow := rowsNet0

/-- The VIS block of the register tables, part 0. -/
def rowsVis0 : List RegRow :=
  [ { base := 0x200000, dims := [], pair := .single, fields := fun _ _ _ => [(VIS_ADMIT_LIMIT, .ro), (VIS_ADMIT_USED, .ro)] },
    { base := 0x200004, dims := [], pair := .single, fields := fun _ _ _ => [(VIS_ERR_ADMIT_REJECT, .w1c), (VIS_ERR_CFG_REJECT, .w1c)] },
    { base := 0x201000, dims := [(0x100, 8)], pair := .single, fields := fun a _ _ => [(VIS_CAM_CFG_EN a, .rw), (VIS_CAM_CFG_MODE a, .rw), (VIS_CAM_CFG_FSYNC_SEL a, .rw), (VIS_CAM_CFG_LANES a, .rw), (VIS_CAM_CFG_VC a, .rw), (VIS_CAM_CFG_DT a, .rw), (VIS_CAM_CFG_PROFILE a, .rw)] },
    { base := 0x201004, dims := [(0x100, 8)], pair := .single, fields := fun a _ _ => [(VIS_CAM_SIZE_HEIGHT a, .rw), (VIS_CAM_SIZE_WIDTH a, .rw)] },
    { base := 0x201008, dims := [(0x100, 8)], pair := .single, fields := fun a _ _ => [(VIS_CAM_LINE_NS a, .rw)] },
    { base := 0x20100C, dims := [(0x100, 8)], pair := .single, fields := fun a _ _ => [(VIS_CAM_TRIG a, .rw)] },
    { base := 0x201010, dims := [(0x100, 8)], pair := .single, fields := fun a _ _ => [(VIS_CAM_STATUS_ERR a, .ro), (VIS_CAM_STATUS_STATE a, .ro)] },
    { base := 0x201014, dims := [(0x100, 8)], pair := .single, fields := fun a _ _ => [(VIS_CAM_FRAME a, .ro)] },
    { base := 0x201018, dims := [(0x100, 8)], pair := .single, fields := fun a _ _ => [(VIS_CAM_SET_TAG a, .ro), (VIS_CAM_SET_QUEUED a, .ro)] },
    { base := 0x20101C, dims := [(0x100, 8)], pair := .single, fields := fun a _ _ => [(VIS_CAM_LB a, .ro)] },
    { base := 0x201020, dims := [(0x100, 8)], pair := .single, fields := fun a _ _ => [(VIS_CAM_CNT_FRAMES a, .ro)] },
    { base := 0x201024, dims := [(0x100, 8)], pair := .single, fields := fun a _ _ => [(VIS_CAM_CNT_REFUSED a, .ro)] },
    { base := 0x201028, dims := [(0x100, 8)], pair := .single, fields := fun a _ _ => [(VIS_CAM_CNT_LINE_ERR a, .ro)] },
    { base := 0x20102C, dims := [(0x100, 8)], pair := .single, fields := fun a _ _ => [(VIS_CAM_CNT_SET_REFUSED a, .ro)] },
    { base := 0x201030, dims := [(0x100, 8)], pair := .single, fields := fun a _ _ => [(VIS_CAM_CNT_CCI_ERR a, .ro)] },
    { base := 0x201040, dims := [(0x100, 8)], pair := .single, fields := fun a _ _ => [(VIS_CAM_CCI_CMD_GO a, .wo), (VIS_CAM_CCI_CMD_READ a, .rw), (VIS_CAM_CCI_CMD_REG a, .rw), (VIS_CAM_CCI_CMD_DATA a, .rw)] },
    { base := 0x201044, dims := [(0x100, 8)], pair := .single, fields := fun a _ _ => [(VIS_CAM_CCI_STATUS_BUSY a, .ro), (VIS_CAM_CCI_STATUS_RESULT a, .ro), (VIS_CAM_CCI_STATUS_RDATA a, .ro)] },
    { base := 0x210000, dims := [], pair := .single, fields := fun _ _ _ => [(VIS_PIPE_ERR_STAGE_SKIP, .w1c), (VIS_PIPE_ERR_SET_LOCKED, .w1c), (VIS_PIPE_ERR_CFG_REJECT, .w1c)] },
    { base := 0x210004, dims := [], pair := .single, fields := fun _ _ _ => [(VIS_STAGE_BASE, .rw)] },
    { base := 0x210008, dims := [], pair := .single, fields := fun _ _ _ => [(VIS_STAGE_SIZE, .rw)] },
    { base := 0x21000C, dims := [], pair := .single, fields := fun _ _ _ => [(VIS_STAGE_FREE, .ro)] },
    { base := 0x210010, dims := [], pair := .single, fields := fun _ _ _ => [(VIS_PIPE_INUSE, .ro)] },
    { base := 0x210014, dims := [], pair := .single, fields := fun _ _ _ => [(VIS_PIPE_CNT_LINES, .ro)] },
    { base := 0x210018, dims := [], pair := .single, fields := fun _ _ _ => [(VIS_PIPE_CNT_SKIP, .ro)] } ]

/-- The VIS block of the register tables, part 1. -/
def rowsVis1 : List RegRow :=
  [ { base := 0x201050, dims := [(0x100, 8)], pair := .single, fields := fun a _ _ => [(VIS_CAM_PIPE_SET a, .ro), (VIS_CAM_PIPE_INIT_SET a, .rw), (VIS_CAM_PIPE_BAYER a, .rw), (VIS_CAM_PIPE_TAP_POINT a, .rw), (VIS_CAM_PIPE_TNR_VALID a, .ro)] },
    { base := 0x201054, dims := [(0x100, 8)], pair := .single, fields := fun a _ _ => [(VIS_CAM_TNR_BASE a, .rw)] },
    { base := 0x201058, dims := [(0x100, 8)], pair := .single, fields := fun a _ _ => [(VIS_CAM_PROCESSED a, .ro)] },
    { base := 0x201060, dims := [(0x100, 8), (0x10, 5)], pair := .single, fields := fun a b _ => [(VIS_CAM_OUT_CFG_EN a b, .rw), (VIS_CAM_OUT_CFG_DEST a b, .rw), (VIS_CAM_OUT_CFG_CLASS a b, .rw), (VIS_CAM_OUT_CFG_ADDR a b, .rw)] },
    { base := 0x201064, dims := [(0x100, 8), (0x10, 5)], pair := .single, fields := fun a b _ => [(VIS_CAM_OUT_MAX a b, .rw)] },
    { base := 0x201068, dims := [(0x100, 8), (0x10, 5)], pair := .single, fields := fun a b _ => [(VIS_CAM_OUT_CNT_OUT a b, .ro)] },
    { base := 0x20106C, dims := [(0x100, 8), (0x10, 5)], pair := .single, fields := fun a b _ => [(VIS_CAM_OUT_CNT_SKIP a b, .ro)] },
    { base := 0x220000, dims := [(0x1000, 16)], pair := .single, fields := fun a _ _ => [(VIS_SET_SNR_EN a, .rw), (VIS_SET_SNR_STRENGTH a, .rw), (VIS_SET_SNR_PEDESTAL a, .rw)] },
    { base := 0x220004, dims := [(0x1000, 16)], pair := .single, fields := fun a _ _ => [(VIS_SET_SNR_NOISE_A a, .rw), (VIS_SET_SNR_NOISE_B a, .rw)] },
    { base := 0x220008, dims := [(0x1000, 16)], pair := .single, fields := fun a _ _ => [(VIS_SET_TNR_EN a, .rw), (VIS_SET_TNR_ALPHA a, .rw), (VIS_SET_TNR_MOTION_TH a, .rw)] },
    { base := 0x22000C, dims := [(0x1000, 16)], pair := .single, fields := fun a _ _ => [(VIS_SET_BL01_BL1 a, .rw), (VIS_SET_BL01_BL0 a, .rw)] },
    { base := 0x220010, dims := [(0x1000, 16)], pair := .single, fields := fun a _ _ => [(VIS_SET_BL23_BL3 a, .rw), (VIS_SET_BL23_BL2 a, .rw)] },
    { base := 0x220014, dims := [(0x1000, 16)], pair := .single, fields := fun a _ _ => [(VIS_SET_BLG01_BLG1 a, .rw), (VIS_SET_BLG01_BLG0 a, .rw)] },
    { base := 0x220018, dims := [(0x1000, 16)], pair := .single, fields := fun a _ _ => [(VIS_SET_BLG23_BLG3 a, .rw), (VIS_SET_BLG23_BLG2 a, .rw)] },
    { base := 0x22001C, dims := [(0x1000, 16)], pair := .single, fields := fun a _ _ => [(VIS_SET_DPC_EN a, .rw), (VIS_SET_DPC_TH a, .rw)] },
    { base := 0x220020, dims := [(0x1000, 16)], pair := .single, fields := fun a _ _ => [(VIS_SET_LSC a, .rw)] },
    { base := 0x220024, dims := [(0x1000, 16)], pair := .single, fields := fun a _ _ => [(VIS_SET_WB_RG_WB_G a, .rw), (VIS_SET_WB_RG_WB_R a, .rw)] },
    { base := 0x220028, dims := [(0x1000, 16)], pair := .single, fields := fun a _ _ => [(VIS_SET_WB_B a, .rw)] },
    { base := 0x22002C, dims := [(0x1000, 16), (0x4, 5)], pair := .single, fields := fun a b _ => [(VIS_SET_CCM_HI a b, .rw), (VIS_SET_CCM_LO a b, .rw)] },
    { base := 0x220040, dims := [(0x1000, 16)], pair := .single, fields := fun a _ _ => [(VIS_SET_CCM_OFF01_OFF_G a, .rw), (VIS_SET_CCM_OFF01_OFF_R a, .rw)] },
    { base := 0x220044, dims := [(0x1000, 16)], pair := .single, fields := fun a _ _ => [(VIS_SET_CCM_OFF2 a, .rw)] },
    { base := 0x220048, dims := [(0x1000, 16)], pair := .single, fields := fun a _ _ => [(VIS_SET_TONE_CSC_TONE_EN a, .rw), (VIS_SET_TONE_CSC_CSC a, .rw)] },
    { base := 0x220060, dims := [(0x1000, 16), (0x10, 2)], pair := .single, fields := fun a b _ => [(VIS_SET_OUT_CROP_XY_Y a b, .rw), (VIS_SET_OUT_CROP_XY_X a b, .rw)] },
    { base := 0x220064, dims := [(0x1000, 16), (0x10, 2)], pair := .single, fields := fun a b _ => [(VIS_SET_OUT_CROP_WH_H a b, .rw), (VIS_SET_OUT_CROP_WH_W a b, .rw)] } ]

/-- The VIS block of the register tables, part 2. -/
def rowsVis2 : List RegRow :=
  [ { base := 0x220068, dims := [(0x1000, 16), (0x10, 2)], pair := .single, fields := fun a b _ => [(VIS_SET_OUT_OUT_WH_OUT_H a b, .rw), (VIS_SET_OUT_OUT_WH_OUT_W a b, .rw)] },
    { base := 0x22006C, dims := [(0x1000, 16), (0x10, 2)], pair := .single, fields := fun a b _ => [(VIS_SET_OUT_FMT_MB_ALIGN a b, .rw), (VIS_SET_OUT_FMT_FORMAT a b, .rw)] },
    { base := 0x220080, dims := [(0x1000, 16)], pair := .single, fields := fun a _ _ => [(VIS_SET_MV_FMT_ROI_EN a, .rw), (VIS_SET_MV_FMT_SCALE a, .rw), (VIS_SET_MV_FMT_FORMAT a, .rw)] },
    { base := 0x220090, dims := [(0x1000, 16), (0x8, 4)], pair := .single, fields := fun a b _ => [(VIS_SET_ROI_XY_Y a b, .rw), (VIS_SET_ROI_XY_X a b, .rw)] },
    { base := 0x220094, dims := [(0x1000, 16), (0x8, 4)], pair := .single, fields := fun a b _ => [(VIS_SET_ROI_WH_H a b, .rw), (VIS_SET_ROI_WH_W a b, .rw)] },
    { base := 0x220100, dims := [(0x1000, 16), (0x4, 65)], pair := .single, fields := fun a b _ => [(VIS_SET_TONE_P1 a b, .rw), (VIS_SET_TONE_P0 a b, .rw)] },
    { base := 0x220400, dims := [(0x1000, 16), (0x8, 289)], pair := .single, fields := fun a b _ => [(VIS_SET_LSC_A_HI a b, .rw), (VIS_SET_LSC_A_LO a b, .rw)] },
    { base := 0x220404, dims := [(0x1000, 16), (0x8, 289)], pair := .single, fields := fun a b _ => [(VIS_SET_LSC_B_HI a b, .rw), (VIS_SET_LSC_B_LO a b, .rw)] },
    { base := 0x230000, dims := [(0x100, 2)], pair := .single, fields := fun a _ _ => [(VIS_CST_CFG_EN a, .rw), (VIS_CST_CFG_LANES a, .rw), (VIS_CST_CFG_CONT_CLK a, .rw), (VIS_CST_CFG_VC a, .rw), (VIS_CST_CFG_LANE_MBPS a, .rw)] },
    { base := 0x230004, dims := [(0x100, 2)], pair := .single, fields := fun a _ _ => [(VIS_CST_STATUS_BOUND a, .ro), (VIS_CST_STATUS_BUSY a, .ro)] },
    { base := 0x230008, dims := [(0x100, 2)], pair := .single, fields := fun a _ _ => [(VIS_CST_CNT_FRAMES a, .ro)] },
    { base := 0x231000, dims := [(0x20, 64)], pair := .single, fields := fun a _ _ => [(VIS_SINK_CFG_EN a, .rw), (VIS_SINK_CFG_DEST a, .rw), (VIS_SINK_CFG_ADDR a, .rw)] },
    { base := 0x231004, dims := [(0x20, 64)], pair := .single, fields := fun a _ _ => [(VIS_SINK_MAX a, .rw)] },
    { base := 0x231008, dims := [(0x20, 64)], pair := .single, fields := fun a _ _ => [(VIS_SINK_CNT_OUT a, .ro)] },
    { base := 0x23100C, dims := [(0x20, 64)], pair := .single, fields := fun a _ _ => [(VIS_SINK_CNT_DROP a, .ro)] } ]

def rowsVis : List RegRow := rowsVis0 ++ rowsVis1 ++ rowsVis2

/-- The FC block of the register tables, part 0. -/
def rowsFc0 : List RegRow :=
  [ { base := 0x400000, dims := [(0x100000, 6)], pair := .single, fields := fun a _ _ => [(FC_ERR_EVT_LOST a, .w1c), (FC_ERR_CFG_REJECT a, .w1c)] },
    { base := 0x400004, dims := [(0x100000, 6)], pair := .single, fields := fun a _ _ => [(FC_EVT_CFG a, .rw)] },
    { base := 0x400100, dims := [(0x100000, 6), (0x4, 64)], pair := .single, fields := fun a b _ => [(FC_PIN_CFG_FLOW_POL a b, .rw), (FC_PIN_CFG_FLOW_DIR a b, .rw), (FC_PIN_CFG_FLOW_PORT a b, .rw), (FC_PIN_CFG_DRIVE a b, .rw), (FC_PIN_CFG_PULL a b, .rw), (FC_PIN_CFG_FUNC a b, .rw)] },
    { base := 0x400200, dims := [(0x100000, 6), (0x8, 2)], pair := .single, fields := fun a b _ => [(FC_DIO_OUT_SET a b, .w1s)] },
    { base := 0x400204, dims := [(0x100000, 6), (0x8, 2)], pair := .single, fields := fun a b _ => [(FC_DIO_OUT_CLR a b, .w1c)] },
    { base := 0x400210, dims := [(0x100000, 6), (0x4, 2)], pair := .single, fields := fun a b _ => [(FC_DIO_IN a b, .ro)] },
    { base := 0x400218, dims := [(0x100000, 6), (0x4, 2)], pair := .single, fields := fun a b _ => [(FC_DIO_EDGE a b, .w1c)] },
    { base := 0x400300, dims := [(0x4, 8)], pair := .single, fields := fun a _ _ => [(FC0_FLOW_CFG_EN a, .rw), (FC0_FLOW_CFG_POL a, .rw), (FC0_FLOW_CFG_DIR a, .rw), (FC0_FLOW_CFG_CLUSTER a, .rw), (FC0_FLOW_CFG_PORT a, .rw)] },
    { base := 0x401000, dims := [(0x100000, 6), (0x10, 64)], pair := .single, fields := fun a b _ => [(FC_DIO_CFG_DEB a b, .rw), (FC_DIO_CFG_EVT_EN a b, .rw), (FC_DIO_CFG_EDGE a b, .rw), (FC_DIO_CFG_INIT a b, .rw), (FC_DIO_CFG_DIR a b, .rw)] },
    { base := 0x401004, dims := [(0x100000, 6), (0x10, 64)], pair := .single, fields := fun a b _ => [(FC_DIO_CNT_EDGE a b, .ro)] },
    { base := 0x401008, dims := [(0x100000, 6), (0x10, 64)], pair := .single, fields := fun a b _ => [(FC_DIO_QUEUE a b, .ro)] },
    { base := 0x404000, dims := [(0x100000, 6), (0x40, 32)], pair := .single, fields := fun a b _ => [(FC_PORT_CFG_RX_EN a b, .rw), (FC_PORT_CFG_TX_EN a b, .rw), (FC_PORT_CFG_ROUTE a b, .rw), (FC_PORT_CFG_MAX_PKT a b, .rw)] },
    { base := 0x404004, dims := [(0x100000, 6), (0x40, 32)], pair := .single, fields := fun a b _ => [(FC_PORT_RXWM_HI a b, .rw), (FC_PORT_RXWM_LO a b, .rw)] },
    { base := 0x404008, dims := [(0x100000, 6), (0x40, 32)], pair := .single, fields := fun a b _ => [(FC_PORT_TXWM_HI a b, .rw), (FC_PORT_TXWM_LO a b, .rw)] },
    { base := 0x40400C, dims := [(0x100000, 6), (0x40, 32)], pair := .single, fields := fun a b _ => [(FC_PORT_CTRL_DROP_TX a b, .wo), (FC_PORT_CTRL_DROP_RX a b, .wo), (FC_PORT_CTRL_FLUSH_TX a b, .wo), (FC_PORT_CTRL_FLUSH_RX a b, .wo)] },
    { base := 0x404010, dims := [(0x100000, 6), (0x40, 32)], pair := .single, fields := fun a b _ => [(FC_PORT_STATUS_RX_FORCED a b, .ro), (FC_PORT_STATUS_RX_ABOVE a b, .ro), (FC_PORT_STATUS_TX_ABOVE a b, .ro), (FC_PORT_STATUS_FLUSH_BUSY a b, .ro), (FC_PORT_STATUS_RX_FILL a b, .ro), (FC_PORT_STATUS_TX_FILL a b, .ro)] },
    { base := 0x404014, dims := [(0x100000, 6), (0x40, 32)], pair := .single, fields := fun a b _ => [(FC_PORT_FLAGS_DROP_LATE a b, .w1c), (FC_PORT_FLAGS_KEPT a b, .w1c), (FC_PORT_FLAGS_OVERLONG a b, .w1c), (FC_PORT_FLAGS_RX_OVER a b, .w1c), (FC_PORT_FLAGS_TX_UNDER a b, .w1c)] },
    { base := 0x404018, dims := [(0x100000, 6), (0x40, 32)], pair := .single, fields := fun a b _ => [(FC_PORT_CNT_RX a b, .ro)] },
    { base := 0x40401C, dims := [(0x100000, 6), (0x40, 32)], pair := .single, fields := fun a b _ => [(FC_PORT_CNT_TX a b, .ro)] },
    { base := 0x404020, dims := [(0x100000, 6), (0x40, 32)], pair := .single, fields := fun a b _ => [(FC_PORT_CNT_RX_DROP a b, .ro)] },
    { base := 0x410000, dims := [(0x100000, 6), (0x1000, 4)], pair := .single, fields := fun a b _ => [(FC_PIO_ERR_PIN_CLASH a b, .w1c), (FC_PIO_ERR_CFG_REJECT a b, .w1c), (FC_PIO_ERR_PROG_REJECT a b, .w1c)] },
    { base := 0x410004, dims := [(0x100000, 6), (0x1000, 4)], pair := .single, fields := fun a b _ => [(FC_PIO_SYNC_AT a b, .wo), (FC_PIO_SYNC_RESTART a b, .wo), (FC_PIO_SYNC_START a b, .wo)] },
    { base := 0x410008, dims := [(0x100000, 6), (0x1000, 4)], pair := .single, fields := fun a b _ => [(FC_PIO_HALT a b, .wo)] },
    { base := 0x41000C, dims := [(0x100000, 6), (0x1000, 4)], pair := .lo, fields := fun a b _ => [(FC_PIO_SYNC_TIME_LO a b, .rw)] } ]

/-- The FC block of the register tables, part 1. -/
def rowsFc1 : List RegRow :=
  [ { base := 0x410010, dims := [(0x100000, 6), (0x1000, 4)], pair := .hi, fields := fun a b _ => [(FC_PIO_SYNC_TIME_HI a b, .rw)] },
    { base := 0x410014, dims := [(0x100000, 6), (0x1000, 4)], pair := .single, fields := fun a b _ => [(FC_PIO_STATE_SYNC_PENDING a b, .ro), (FC_PIO_STATE_STALLED a b, .ro), (FC_PIO_STATE_RUNNING a b, .ro)] },
    { base := 0x410018, dims := [(0x100000, 6), (0x1000, 4)], pair := .single, fields := fun a b _ => [(FC_PIO_EVF_SET a b, .w1s)] },
    { base := 0x41001C, dims := [(0x100000, 6), (0x1000, 4)], pair := .single, fields := fun a b _ => [(FC_PIO_EVF_CLR a b, .w1c)] },
    { base := 0x410020, dims := [(0x100000, 6), (0x1000, 4)], pair := .single, fields := fun a b _ => [(FC_PIO_IRQ_FAULT a b, .w1c), (FC_PIO_IRQ_EVT a b, .w1c)] },
    { base := 0x410400, dims := [(0x100000, 6), (0x1000, 4), (0x4, 128)], pair := .single, fields := fun a b c => [(FC_PIO_PROG a b c, .rw)] },
    { base := 0x410800, dims := [(0x100000, 6), (0x1000, 4), (0x40, 8)], pair := .single, fields := fun a b c => [(FC_PIO_ENG_CTRL_ENTRY a b c, .rw), (FC_PIO_ENG_CTRL_END a b c, .rw), (FC_PIO_ENG_CTRL_BASE a b c, .rw)] },
    { base := 0x410804, dims := [(0x100000, 6), (0x1000, 4), (0x40, 8)], pair := .single, fields := fun a b c => [(FC_PIO_ENG_DIV_NUM a b c, .rw), (FC_PIO_ENG_DIV_MOD a b c, .rw)] },
    { base := 0x410808, dims := [(0x100000, 6), (0x1000, 4), (0x40, 8)], pair := .single, fields := fun a b c => [(FC_PIO_ENG_PINS_CLK_OUT a b c, .rw), (FC_PIO_ENG_PINS_OD a b c, .rw), (FC_PIO_ENG_PINS_STRETCH a b c, .rw), (FC_PIO_ENG_PINS_SAMPLE a b c, .rw), (FC_PIO_ENG_PINS_ORDER a b c, .rw), (FC_PIO_ENG_PINS_CLK_PIN a b c, .rw), (FC_PIO_ENG_PINS_IN_PIN a b c, .rw), (FC_PIO_ENG_PINS_OUT_PIN a b c, .rw)] },
    { base := 0x41080C, dims := [(0x100000, 6), (0x1000, 4), (0x40, 8)], pair := .single, fields := fun a b c => [(FC_PIO_ENG_PORTS_TX_USE a b c, .rw), (FC_PIO_ENG_PORTS_RX_USE a b c, .rw), (FC_PIO_ENG_PORTS_UNDER_TARGET a b c, .rw), (FC_PIO_ENG_PORTS_RX_PORT a b c, .rw), (FC_PIO_ENG_PORTS_TX_PORT a b c, .rw)] },
    { base := 0x410810, dims := [(0x100000, 6), (0x1000, 4), (0x40, 8)], pair := .single, fields := fun a b c => [(FC_PIO_ENG_TIMING_TICK a b c, .rw), (FC_PIO_ENG_TIMING_EOP_IDLE a b c, .rw)] },
    { base := 0x410814, dims := [(0x100000, 6), (0x1000, 4), (0x40, 8)], pair := .single, fields := fun a b c => [(FC_PIO_ENG_CNT_CB a b c, .rw), (FC_PIO_ENG_CNT_CA a b c, .rw)] },
    { base := 0x410818, dims := [(0x100000, 6), (0x1000, 4), (0x40, 8)], pair := .single, fields := fun a b c => [(FC_PIO_ENG_D a b c, .rw)] },
    { base := 0x41081C, dims := [(0x100000, 6), (0x1000, 4), (0x40, 8)], pair := .single, fields := fun a b c => [(FC_PIO_ENG_TSR a b c, .rw)] },
    { base := 0x410820, dims := [(0x100000, 6), (0x1000, 4), (0x40, 8)], pair := .single, fields := fun a b c => [(FC_PIO_ENG_RSR a b c, .rw)] },
    { base := 0x410824, dims := [(0x100000, 6), (0x1000, 4), (0x40, 8)], pair := .single, fields := fun a b c => [(FC_PIO_ENG_STATUS_PC a b c, .ro), (FC_PIO_ENG_STATUS_NO_EOF a b c, .w1c), (FC_PIO_ENG_STATUS_EOF_EARLY a b c, .w1c), (FC_PIO_ENG_STATUS_ILLEGAL a b c, .w1c), (FC_PIO_ENG_STATUS_ABORTED a b c, .w1c), (FC_PIO_ENG_STATUS_RX_OVER a b c, .w1c), (FC_PIO_ENG_STATUS_TX_UNDER a b c, .w1c), (FC_PIO_ENG_STATUS_STATE a b c, .ro)] },
    { base := 0x410828, dims := [(0x100000, 6), (0x1000, 4), (0x40, 8)], pair := .single, fields := fun a b c => [(FC_PIO_ENG_CNT_EOF a b c, .ro)] },
    { base := 0x420000, dims := [(0x100000, 6), (0x8000, 8)], pair := .single, fields := fun a b _ => [(FC_CAN_CFG_EN a b, .rw), (FC_CAN_CFG_TX_EN a b, .rw), (FC_CAN_CFG_RX_EN a b, .rw), (FC_CAN_CFG_RESTRICTED a b, .rw), (FC_CAN_CFG_FD_EN a b, .rw), (FC_CAN_CFG_TDC_EN a b, .rw), (FC_CAN_CFG_AUTO_RECOVER a b, .rw), (FC_CAN_CFG_NOMATCH_STORE a b, .rw), (FC_CAN_CFG_NOMATCH_OBJ a b, .rw), (FC_CAN_CFG_FILT_COUNT a b, .rw)] },
    { base := 0x420004, dims := [(0x100000, 6), (0x8000, 8)], pair := .single, fields := fun a b _ => [(FC_CAN_CMD_SLEEP a b, .wo), (FC_CAN_CMD_WAKE a b, .wo), (FC_CAN_CMD_RECOVER a b, .wo)] },
    { base := 0x420008, dims := [(0x100000, 6), (0x8000, 8)], pair := .single, fields := fun a b _ => [(FC_CAN_NBT_NBRP a b, .rw), (FC_CAN_NBT_NTSEG1 a b, .rw), (FC_CAN_NBT_NTSEG2 a b, .rw), (FC_CAN_NBT_NSJW a b, .rw)] },
    { base := 0x42000C, dims := [(0x100000, 6), (0x8000, 8)], pair := .single, fields := fun a b _ => [(FC_CAN_DBT_DBRP a b, .rw), (FC_CAN_DBT_DTSEG1 a b, .rw), (FC_CAN_DBT_DTSEG2 a b, .rw), (FC_CAN_DBT_DSJW a b, .rw)] },
    { base := 0x420010, dims := [(0x100000, 6), (0x8000, 8)], pair := .single, fields := fun a b _ => [(FC_CAN_TDC a b, .rw)] },
    { base := 0x420014, dims := [(0x100000, 6), (0x8000, 8)], pair := .single, fields := fun a b _ => [(FC_CAN_WAKE a b, .rw)] },
    { base := 0x420018, dims := [(0x100000, 6), (0x8000, 8)], pair := .single, fields := fun a b _ => [(FC_CAN_RX_CFG a b, .rw)] } ]

/-- The FC block of the register tables, part 2. -/
def rowsFc2 : List RegRow :=
  [ { base := 0x420020, dims := [(0x100000, 6), (0x8000, 8)], pair := .single, fields := fun a b _ => [(FC_CAN_STATUS_TEC a b, .ro), (FC_CAN_STATUS_REC a b, .ro), (FC_CAN_STATUS_LEC a b, .ro), (FC_CAN_STATUS_WAKE_CAUSE a b, .ro), (FC_CAN_STATUS_STATE a b, .ro)] },
    { base := 0x420024, dims := [(0x100000, 6), (0x8000, 8)], pair := .single, fields := fun a b _ => [(FC_CAN_TDC_STATUS_SAT a b, .ro), (FC_CAN_TDC_STATUS_DELAY a b, .ro)] },
    { base := 0x420028, dims := [(0x100000, 6), (0x8000, 8)], pair := .single, fields := fun a b _ => [(FC_CAN_FLAGS_SLEEP_REFUSED a b, .w1c), (FC_CAN_FLAGS_WOKEN a b, .w1c), (FC_CAN_FLAGS_BUS_OFF a b, .w1c), (FC_CAN_FLAGS_ERR_PASSIVE a b, .w1c), (FC_CAN_FLAGS_EOF_RETX a b, .w1c), (FC_CAN_FLAGS_RX_LOST a b, .w1c), (FC_CAN_FLAGS_DUP_ID a b, .w1c)] },
    { base := 0x42002C, dims := [(0x100000, 6), (0x8000, 8)], pair := .single, fields := fun a b _ => [(FC_CAN_ERR_CFG_CODE a b, .ro), (FC_CAN_ERR_FILT_IDX a b, .ro), (FC_CAN_ERR_CFG_REJECT a b, .w1c)] },
    { base := 0x420030, dims := [(0x100000, 6), (0x8000, 8)], pair := .single, fields := fun a b _ => [(FC_CAN_TX_CANCEL a b, .wo)] },
    { base := 0x420034, dims := [(0x100000, 6), (0x8000, 8)], pair := .single, fields := fun a b _ => [(FC_CAN_CANCEL_RESULT_OBJ a b, .ro), (FC_CAN_CANCEL_RESULT_LATE a b, .ro), (FC_CAN_CANCEL_RESULT_RESULT a b, .ro)] },
    { base := 0x420040, dims := [(0x100000, 6), (0x8000, 8), (0x4, 4)], pair := .single, fields := fun a b c => [(FC_CAN_TXPEND a b c, .ro)] },
    { base := 0x420050, dims := [(0x100000, 6), (0x8000, 8), (0x4, 4)], pair := .single, fields := fun a b c => [(FC_CAN_RXNEW a b c, .w1c)] },
    { base := 0x420060, dims := [(0x100000, 6), (0x8000, 8)], pair := .single, fields := fun a b _ => [(FC_CAN_DUP_LAST_COUNT a b, .ro), (FC_CAN_DUP_LAST_OBJ a b, .ro)] },
    { base := 0x420080, dims := [(0x100000, 6), (0x8000, 8)], pair := .single, fields := fun a b _ => [(FC_CAN_CNT_TX a b, .ro)] },
    { base := 0x420084, dims := [(0x100000, 6), (0x8000, 8)], pair := .single, fields := fun a b _ => [(FC_CAN_CNT_RX a b, .ro)] },
    { base := 0x420088, dims := [(0x100000, 6), (0x8000, 8)], pair := .single, fields := fun a b _ => [(FC_CAN_CNT_RX_REJECT a b, .ro)] },
    { base := 0x42008C, dims := [(0x100000, 6), (0x8000, 8)], pair := .single, fields := fun a b _ => [(FC_CAN_CNT_RX_LOST a b, .ro)] },
    { base := 0x420090, dims := [(0x100000, 6), (0x8000, 8)], pair := .single, fields := fun a b _ => [(FC_CAN_CNT_ARB_LOST a b, .ro)] },
    { base := 0x420094, dims := [(0x100000, 6), (0x8000, 8)], pair := .single, fields := fun a b _ => [(FC_CAN_CNT_ERR a b, .ro)] },
    { base := 0x420098, dims := [(0x100000, 6), (0x8000, 8)], pair := .single, fields := fun a b _ => [(FC_CAN_CNT_EOF_RETX a b, .ro)] },
    { base := 0x42009C, dims := [(0x100000, 6), (0x8000, 8)], pair := .single, fields := fun a b _ => [(FC_CAN_CNT_DUP_HOLD a b, .ro)] },
    { base := 0x4200A0, dims := [(0x100000, 6), (0x8000, 8)], pair := .single, fields := fun a b _ => [(FC_CAN_CNT_CANCEL a b, .ro)] },
    { base := 0x4200A4, dims := [(0x100000, 6), (0x8000, 8)], pair := .single, fields := fun a b _ => [(FC_CAN_CNT_BUS_OFF a b, .ro)] },
    { base := 0x424000, dims := [(0x100000, 6), (0x8000, 8), (0x4, 4096)], pair := .single, fields := fun a b c => [(FC_CAN_MM a b c, .rw)] } ]

def rowsFc : List RegRow := rowsFc0 ++ rowsFc1 ++ rowsFc2

/-- The SIG block of the register tables, part 0. -/
def rowsSig0 : List RegRow :=
  [ { base := 0xA00000, dims := [], pair := .single, fields := fun _ _ _ => [(SIG_CTRL_BRG_EN, .rw), (SIG_CTRL_EN, .rw)] },
    { base := 0xA00004, dims := [], pair := .single, fields := fun _ _ _ => [(SIG_ERR_LINK_LIMIT, .w1c), (SIG_ERR_PIN_LIMIT, .w1c), (SIG_ERR_CFG_REJECT, .w1c)] },
    { base := 0xA00008, dims := [], pair := .single, fields := fun _ _ _ => [(SIG_STATUS, .ro)] },
    { base := 0xA00010, dims := [], pair := .single, fields := fun _ _ _ => [(SIG_ENT_SEL_WRITE, .wo), (SIG_ENT_SEL_READ, .wo), (SIG_ENT_SEL_ID, .rw)] },
    { base := 0xA00020, dims := [(0x4, 8)], pair := .single, fields := fun a _ _ => [(SIG_ENT_DATA a, .rw)] },
    { base := 0xA00040, dims := [], pair := .single, fields := fun _ _ _ => [(SIG_CNT_OPS, .ro)] },
    { base := 0xA00044, dims := [], pair := .single, fields := fun _ _ _ => [(SIG_CNT_MISS, .ro)] },
    { base := 0xA00048, dims := [], pair := .single, fields := fun _ _ _ => [(SIG_CNT_SKIPPED, .ro)] },
    { base := 0xA0004C, dims := [], pair := .single, fields := fun _ _ _ => [(SIG_CNT_SAT, .ro)] },
    { base := 0xA00050, dims := [], pair := .single, fields := fun _ _ _ => [(SIG_CNT_NOMSG, .ro)] },
    { base := 0xA00054, dims := [], pair := .single, fields := fun _ _ _ => [(SIG_CNT_SHORT, .ro)] },
    { base := 0xA00058, dims := [], pair := .single, fields := fun _ _ _ => [(SIG_CNT_COALESCED, .ro)] },
    { base := 0xA0005C, dims := [], pair := .single, fields := fun _ _ _ => [(SIG_CNT_TX, .ro)] },
    { base := 0xA00060, dims := [], pair := .single, fields := fun _ _ _ => [(SIG_CNT_TX_DROP, .ro)] },
    { base := 0xA10000, dims := [(0x10, 4096), (0x4, 4)], pair := .single, fields := fun a b _ => [(SIG_MSG_W a b, .rw)] },
    { base := 0xA20000, dims := [(0x80, 256), (0x8, 16)], pair := .single, fields := fun a b _ => [(SIG_XTAB_X a b, .rw)] },
    { base := 0xA20004, dims := [(0x80, 256), (0x8, 16)], pair := .single, fields := fun a b _ => [(SIG_XTAB_Y a b, .rw)] },
    { base := 0xA30000, dims := [], pair := .single, fields := fun _ _ _ => [(SIG_BRG_RETRY_RETRY_US, .rw), (SIG_BRG_RETRY_RETRY_MAX, .rw)] },
    { base := 0xA30004, dims := [], pair := .single, fields := fun _ _ _ => [(SIG_BRG_LOCK, .rw)] },
    { base := 0xA30010, dims := [], pair := .single, fields := fun _ _ _ => [(SIG_BRG_CNT_RETRY, .ro)] },
    { base := 0xA30014, dims := [], pair := .single, fields := fun _ _ _ => [(SIG_BRG_CNT_CONFLICT, .ro)] },
    { base := 0xA30018, dims := [], pair := .single, fields := fun _ _ _ => [(SIG_BRG_CNT_PFAULT, .ro)] },
    { base := 0xA31000, dims := [(0x20, 64)], pair := .single, fields := fun a _ _ => [(SIG_BRG_RNG_CFG_EN a, .rw), (SIG_BRG_RNG_CFG_POSTED a, .rw), (SIG_BRG_RNG_CFG_TARGET a, .rw), (SIG_BRG_RNG_CFG_LOG2_SIZE a, .rw), (SIG_BRG_RNG_CFG_NODE a, .rw), (SIG_BRG_RNG_CFG_FB a, .rw)] },
    { base := 0xA31004, dims := [(0x20, 64)], pair := .lo, fields := fun a _ _ => [(SIG_BRG_RNG_BASE_LO a, .rw)] } ]

/-- The SIG block of the register tables, part 1. -/
def rowsSig1 : List RegRow :=
  [ { base := 0xA31008, dims := [(0x20, 64)], pair := .hi, fields := fun a _ _ => [(SIG_BRG_RNG_BASE_HI a, .rw)] },
    { base := 0xA3100C, dims := [(0x20, 64)], pair := .lo, fields := fun a _ _ => [(SIG_BRG_RNG_XLATE_LO a, .rw)] },
    { base := 0xA31010, dims := [(0x20, 64)], pair := .hi, fields := fun a _ _ => [(SIG_BRG_RNG_XLATE_HI a, .rw)] },
    { base := 0xA32000, dims := [(0x10, 18)], pair := .single, fields := fun a _ _ => [(SIG_BRG_BUS_CFG_EN a, .rw), (SIG_BRG_BUS_CFG_RANK a, .rw), (SIG_BRG_BUS_CFG_CLUSTER a, .rw), (SIG_BRG_BUS_CFG_PORT a, .rw)] },
    { base := 0xA32004, dims := [(0x10, 18)], pair := .single, fields := fun a _ _ => [(SIG_BRG_BUS_TIMEOUT a, .rw)] },
    { base := 0xA32008, dims := [(0x10, 18)], pair := .single, fields := fun a _ _ => [(SIG_BRG_BUS_STATUS_LOCKED a, .ro), (SIG_BRG_BUS_STATUS_FAR_HELD a, .ro), (SIG_BRG_BUS_STATUS_NEAR_HELD a, .ro)] },
    { base := 0xA40000, dims := [(0x10, 512)], pair := .single, fields := fun a _ _ => [(SIG_BULK_CFG_EN a, .rw), (SIG_BULK_CFG_LOG2_SIZE a, .rw), (SIG_BULK_CFG_BASE a, .rw)] },
    { base := 0xA40004, dims := [(0x10, 512)], pair := .single, fields := fun a _ _ => [(SIG_BULK_FILL a, .ro)] },
    { base := 0xA40008, dims := [(0x10, 512)], pair := .single, fields := fun a _ _ => [(SIG_BULK_STATUS a, .ro)] } ]

def rowsSig : List RegRow := rowsSig0 ++ rowsSig1

/-- The TWIN block of the register tables, part 0. -/
def rowsTwin0 : List RegRow :=
  [ { base := 0xB00000, dims := [], pair := .single, fields := fun _ _ _ => [(TWIN_CFG_EPOCH_US, .rw), (TWIN_CFG_PAIR_ID, .rw), (TWIN_CFG_MODE, .rw), (TWIN_CFG_EN, .rw)] },
    { base := 0xB00004, dims := [], pair := .single, fields := fun _ _ _ => [(TWIN_CKPT_CFG_CKPT_MS, .rw), (TWIN_CKPT_CFG_HOST, .rw), (TWIN_CKPT_CFG_RANGE, .rw)] },
    { base := 0xB00008, dims := [], pair := .single, fields := fun _ _ _ => [(TWIN_STATUS_PARTNER_ID, .ro), (TWIN_STATUS_PAIR_ERR, .ro), (TWIN_STATUS_MIRROR_OK, .ro), (TWIN_STATUS_HEALTH, .ro), (TWIN_STATUS_ROLE, .ro), (TWIN_STATUS_STATE, .ro)] },
    { base := 0xB0000C, dims := [], pair := .single, fields := fun _ _ _ => [(TWIN_EPOCH, .ro)] },
    { base := 0xB00010, dims := [], pair := .single, fields := fun _ _ _ => [(TWIN_DIGEST, .ro)] },
    { base := 0xB00014, dims := [], pair := .single, fields := fun _ _ _ => [(TWIN_CKPT_AGE, .ro)] },
    { base := 0xB00018, dims := [], pair := .single, fields := fun _ _ _ => [(TWIN_CTRL_KEY, .wo), (TWIN_CTRL_RESYNC, .wo), (TWIN_CTRL_TAKE, .wo)] },
    { base := 0xB0001C, dims := [], pair := .single, fields := fun _ _ _ => [(TWIN_WIT_ID, .rw)] },
    { base := 0xB00020, dims := [], pair := .single, fields := fun _ _ _ => [(TWIN_CNT_DIVERGE, .ro)] },
    { base := 0xB00024, dims := [], pair := .single, fields := fun _ _ _ => [(TWIN_CNT_TAKEOVER, .ro)] },
    { base := 0xB00028, dims := [], pair := .single, fields := fun _ _ _ => [(TWIN_CNT_CKPT, .ro)] },
    { base := 0xB0002C, dims := [], pair := .single, fields := fun _ _ _ => [(TWIN_ERR_DIVERGED, .w1c), (TWIN_ERR_CFG_REJECT, .w1c)] },
    { base := 0xB01000, dims := [], pair := .single, fields := fun _ _ _ => [(TWIN_WIT_CFG_BEAT_US, .rw), (TWIN_WIT_CFG_MISS_LIMIT, .rw), (TWIN_WIT_CFG_EN, .rw)] },
    { base := 0xB01004, dims := [], pair := .single, fields := fun _ _ _ => [(TWIN_WIT_CTRL_KEY, .wo), (TWIN_WIT_CTRL_PAIR, .wo)] },
    { base := 0xB01100, dims := [(0x8, 64)], pair := .single, fields := fun a _ _ => [(TWIN_WITP_CFG_EN a, .rw), (TWIN_WITP_CFG_ID_B a, .rw), (TWIN_WITP_CFG_ID_A a, .rw)] },
    { base := 0xB01104, dims := [(0x8, 64)], pair := .single, fields := fun a _ _ => [(TWIN_WITP_STATUS_DECISION a, .ro), (TWIN_WITP_STATUS_MISSES a, .ro), (TWIN_WITP_STATUS_ACTIVE_SLOT a, .ro), (TWIN_WITP_STATUS_TAKEOVERS a, .ro)] } ]

def rowsTwin : List RegRow := rowsTwin0

/-- The MEM block of the register tables, part 0. -/
def rowsMem0 : List RegRow :=
  [ { base := 0xC00000, dims := [], pair := .single, fields := fun _ _ _ => [(MEM_STATUS_SIZE_GIB, .ro), (MEM_STATUS_TRAINED, .ro)] },
    { base := 0xC00004, dims := [], pair := .single, fields := fun _ _ _ => [(MEM_CNT_ECC_C, .ro)] },
    { base := 0xC00008, dims := [], pair := .single, fields := fun _ _ _ => [(MEM_CNT_ECC_U, .ro)] } ]

def rowsMem : List RegRow := rowsMem0

/-- The register rows of the block that holds offset `off` (R491). -/
def rowsAt (off : Nat) : List RegRow :=
  if off < 0x10000 then rowsGlb
  else if off < 0x20000 then rowsBoot
  else if off < 0x30000 then rowsHq
  else if off < 0x40000 then rowsInt
  else if off < 0x50000 then rowsFlt
  else if off < 0x60000 then rowsPwr
  else if off < 0x80000 then rowsTime
  else if off < 0xC0000 then rowsRing
  else if off < 0xE0000 then rowsPld
  else if off < 0x100000 then rowsSch
  else if off < 0x200000 then rowsNet
  else if off < 0x400000 then rowsVis
  else if off < 0xA00000 then rowsFc
  else if off < 0xB00000 then rowsSig
  else if off < 0xC00000 then rowsTwin
  else if off < 0x1000000 then rowsMem
  else []

/-- The indices at which `d` lies in a nest of strides and counts, if it does. -/
def indicesOf : List (Nat × Nat) → Nat → Option (List Nat)
  | [], d => if d = 0 then some [] else none
  | (stride, count) :: rest, d =>
    if d / stride < count then (indicesOf rest (d % stride)).map (d / stride :: ·) else none

/-- The fields of row `r` at offset `off`, if `off` is one of its instances. -/
def RegRow.at (r : RegRow) (off : Nat) : Option (List (Field × Acc)) :=
  if off < r.base then none
  else match indicesOf r.dims (off - r.base) with
    | some ix => some (r.fields (ix.getD 0 0) (ix.getD 1 0) (ix.getD 2 0))
    | none => none

/-- The row and the fields of the register at offset `off`: none for an offset no table defines (R8). -/
def findIn (off : Nat) : List RegRow → Option (RegRow × List (Field × Acc))
  | [] => none
  | r :: rest => match r.at off with
    | some fs => some (r, fs)
    | none => findIn off rest

/-- The register at BAR0 offset `off`. The instances n = 0 of `RING_NTABn` and `RING_LULL_LOGn` (n = 1-254) and the
message table entry m = 0 do not exist (R174, R176, R343). -/
def regAt (off : Nat) : Option (RegRow × List (Field × Acc)) :=
  if off = 0x80400 ∨ off = 0x81000 ∨ off = 0x81004 ∨ (0xA10000 ≤ off ∧ off < 0xA10010) then none
  else findIn off (rowsAt off)

end Sys2Proof.Machine.Reg
end

