-- ==== Sys2Proof/Machine/State.lean ====
section
/-! DEFINITION. The state of the block as plain data: the register fields, the memories, the state of each unit that no
register shows, what the block has sent, and the queue of waiting commands. -/

namespace Sys2Proof.Machine

/-- Why a step stops with a fault. The spec gives every command of the table an effect, or names the state it leaves
unchanged (R15), so no meaning raises one. Safe: nothing stops here. -/
inductive Fault where
  /-- Raised by no meaning: kept so that the type of faults is not empty. Safe. -/
  | unused
  deriving DecidableEq, Repr

/-- Why a step refuses a command. Safe: a refusal changes nothing. -/
inductive Refusal where
  /-- Raised by an arm of `exec` whose command has no meaning yet. Safe. -/
  | notModelled (mnemonic : String)
  deriving DecidableEq, Repr

/-- A sparse map: entries at strictly rising keys. -/
abbrev SMap (α : Type) := List (Nat × α)

/-- The phases of a power domain (R32, R33, R433). -/
inductive Phase where
  | off          -- no power
  | upWait       -- accepted for power-on, waiting for a domain it requires
  | upRun        -- powering up
  | up
  | drainWait    -- accepted for power-off, waiting for a domain that requires it
  | drainRun     -- draining
  | isolated     -- drained or fenced, its power being removed
  | fenced       -- fenced and still powered
  deriving DecidableEq, Repr

/-- The twin roles of R1. -/
inductive TwinRole where
  | single | active | standby
  deriving DecidableEq, Repr

/-- The node as a whole: power domains, pins of the system group, resets, modes and roles. -/
structure NodeSt where
  phase       : List Phase := []
  /-- Domains that were up at some time since the last POR (R33). -/
  upSincePor  : Nat := 0
  /-- Threatened domains, whose intake is under flow control (R28, R29). -/
  threat      : Nat := 0
  /-- Level of `PSW_SENSE`. -/
  pswSense    : Bool := false
  /-- The take pulse on `PSW_TAKE_N` is low. -/
  pswPulse    : Bool := false
  /-- A take pulse was emitted and `PSW_SENSE` has not yet shown this half's slot (R56). -/
  pswWait     : Bool := false
  /-- A single node waits for `PSW_SENSE` to show its slot (R54). -/
  pswWatch    : Bool := false
  /-- `POR_N` low or a supply lost: the node is OFF. -/
  off         : Bool := false
  /-- What took the node to OFF: 0 `POR_N`, 1 a supply (R60). -/
  offCause    : Nat := 0
  perst       : Bool := false
  /-- Held in a NODE reset by `PERST_N` (R60). -/
  held        : Bool := false
  /-- A reset has ended at the domains and the boot ROM agent has not yet acted on it (R61). -/
  resetKind   : Option Nat := none
  wdogRun     : Bool := true
  /-- The watchdog period in force, in microseconds (R497). -/
  wdogPeriod  : Nat := 1000000
  /-- Half of the watchdog period has passed since the last service (R414, R497). -/
  wdogHalf    : Bool := false
  /-- A `GLB_MODE_REQ` target whose request is pending. -/
  modeReq     : Option Nat := none
  /-- Field emission paused at frame boundaries (R37). -/
  paused      : Bool := false
  /-- Presence of `REFCLK_TIME`, `REFCLK_SER` and `REFCLK_PCIE`. -/
  refTime     : Bool := true
  refSer      : Bool := true
  refPcie     : Bool := true
  /-- Woken from DORMANT while a reference was missing (R25). -/
  awaitRefs   : Bool := false
  /-- A wake source fired after SV isolated for DORMANT (R39). -/
  wakeLate    : Bool := false
  ringRoot    : Bool := false
  twinRole    : TwinRole := .single
  /-- The delivery ledger holds what it held before the last reset: KEPT in the next RESYNC (R124). -/
  ledgerKept  : Bool := false
  /-- Entry to CONTAINED while SV was not fenced and `RECOVER_MS` was set: the recovery timer runs (R433). -/
  recovering  : Bool := false
  /-- The ledger was written to retention RAM at DORMANT entry (R37). -/
  ledgerSaved : Bool := false
  /-- CAN controllers, `8 * n + c`, whose frame in progress at entry to SERVICE has ended (R318). -/
  canDone     : List Nat := []
  /-- The states of the pin groups of R49 as last shown, by the numbers of `State.groupLevels`. -/
  shown       : List Nat := [0, 1, 1, 1, 1, 1, 1, 2, 2, 2, 2, 2, 1, 3]
  deriving DecidableEq, Repr

/-- A header accepted for a load or staging session (R69). -/
structure Header where
  total   : Nat := 0
  crc     : Nat := 0
  version : Nat := 0
  comps   : List (Nat × Nat × Nat × Nat) := []
  deriving DecidableEq, Repr

/-- A load or staging session of the boot ROM agent: its accepted header and its page bitmap. The owner, the status and
the `DETAIL` stand in `BOOT_STATUS` and `BOOT_STAGED_STATUS`. -/
structure Session where
  owner  : Nat := 0
  hdr    : Option Header := none
  bitmap : Nat := 0
  deriving DecidableEq, Repr

/-- What an image slot of LPDDR5 holds: whether an image was started from it or is READY in it, its `IMG_CRC` and its
`IMAGE_VERSION` (R74-R77). -/
structure SlotInfo where
  valid   : Bool := false
  /-- The image has run from this slot (R74, R75). -/
  ran     : Bool := false
  crc     : Nat := 0
  version : Nat := 0
  deriving DecidableEq, Repr

/-- An activation this node is armed for (R75, R77). -/
structure Armed where
  time : Nat := 0
  seq  : Nat := 0
  src  : Nat := 0
  deriving DecidableEq, Repr

/-- The boot ROM agent, staging, activation and the calibration block. -/
structure BootSt where
  load         : Session := {}
  stage        : Session := {}
  pathsOpen    : Bool := false
  /-- BAR2 slots posted and not yet consumed, oldest first (R66). -/
  posts        : List Nat := []
  /-- An image has been started since the last NODE or POR reset (R61). -/
  imageStarted : Bool := false
  /-- The image under check restarts after a WARM reset. -/
  warmCheck    : Bool := false
  slot0        : SlotInfo := {}
  slot1        : SlotInfo := {}
  startRing    : Nat := 0
  startTwin    : Nat := 0
  armed        : Option Armed := none
  /-- Events 1-4 of R77: 0 none, 1 processors stopping, 2 slots swapped, 3 P1-P8 released. -/
  actEvent     : Nat := 0
  /-- The policies are frozen from event 1 until event 4. -/
  frozen       : Bool := false
  /-- The port at which the last activation frame arrived (R153). -/
  actPort      : Nat := 0
  /-- A result to report once the node runs again (R78, R79): sequence number and code. -/
  owedReport   : Option (Nat × Nat) := none
  /-- At the root: the reports of the round, node and code, in order of arrival. -/
  reports      : List (Nat × Nat) := []
  actSeq       : Nat := 0
  /-- At the root: `ACT_TIME`, `TWIN_GAP` and the nodes of the round, as they stood at its start (R76). -/
  actAt        : Nat := 0
  actGap       : Nat := 0
  actMap       : Nat := 0
  /-- At the root: BOOT_REPLY frames received, oldest first: node, `OFFSET`, status, `DETAIL`, `LOAD_STATUS`, `LOAD_ID`. -/
  replies      : List (Nat × Nat × Nat × Nat × Nat × Nat) := []
  /-- A commit (1) or an erase (2) of the calibration block in progress. -/
  calJob       : Nat := 0
  /-- The calibration values in use, read at the end of the last reset (R82): the words of the block that differ from their
  factory values, by `Field.key`, and whether the block was BLANK then. -/
  cal          : SMap Nat := []
  calBlank     : Bool := false
  deriving DecidableEq, Repr

/-- A copy of another node's endpoint state (R163): `more` = the last frame applied promised another; `held` = a full sequence has
been applied whole (R177). -/
structure EpCopy where
  version  : Nat := 0
  up       : Nat := 0
  draining : Nat := 0
  fenced   : Nat := 0
  more     : Bool := false
  held     : Bool := false
  entries  : SMap Nat := []
  deriving DecidableEq, Repr

/-- A drain that awaits EP_FLUSH (R164): its domain, or 4096 + the endpoint withdrawn; its version; the nodes heard from. -/
structure Drain where
  domain  : Nat := 0
  version : Nat := 0
  flushed : List Nat := []
  deriving DecidableEq, Repr

/-- A K-frame of this node's own that no ring port could take (R156). -/
structure HeldFrame where
  port : Nat := 0
  dst  : Nat := 0
  seq  : Nat := 0
  body : KBody := .protect 0 0
  deriving DecidableEq, Repr

/-- An ENUM_REPORT as the root collects it (R150). -/
structure Report where
  uid   : Nat := 0
  claim : Nat := 0
  mode  : Nat := 0
  flags : Nat := 0
  hops  : Nat := 0
  deriving DecidableEq, Repr

/-- The ring unit beyond its registers. -/
structure RingSt where
  /-- `ID_AT_POS` of the last MAP applied, and the node's own position. -/
  map          : List Nat := []
  pos          : Nat := 0
  rootId       : Option Nat := none
  /-- Source of the last ENUM answered, its round, and the `HOPS` of the reports on ring A and ring B (R149, R150). -/
  enumSrc      : Option Nat := none
  answered     : Option Nat := none
  hopsA        : Option Nat := none
  hopsB        : Option Nat := none
  reports      : List Report := []
  enumBack     : Bool := false
  /-- An enumeration is due at the end of a 2 ms wait (R152); the node has woken from LULL as root (R152). -/
  enumAgain    : Bool := false
  wakeEnum     : Bool := false
  /-- Nodes that the root counts as in LOADING (R168). -/
  loading      : List Nat := []
  /-- Breaks reported by PROTECT that are in force: source node, port and `SEQ` (R153, R159). -/
  breaks       : List (Nat × Nat × Nat) := []
  /-- Ports whose WRAP a RELEASE has ended, with the `SEQ` of the last one (R159). -/
  released     : List (Nat × Nat × Nat) := []
  bseq         : Nat := 0
  lastSeq      : SMap Nat := []
  epVersion    : Nat := 0
  ownEps       : SMap Nat := []
  /-- Copies of other nodes' endpoint state, by node; that of a twin pair's endpoints by 256 + pair ID (R163, R395). -/
  copies       : SMap EpCopy := []
  /-- The position from which a pair's EP_STATE came, by pair ID (R395). -/
  pairPos      : SMap Nat := []
  /-- EP_FLUSH that this node still owes: node, version, drained domain bits and withdrawn endpoints (R164). -/
  owedFlush    : List (Nat × Nat × Nat × List Nat) := []
  drains       : List Drain := []
  heldFrames   : List HeldFrame := []
  /-- Frames of other nodes that no ring port could take: the port, the class and the bytes (R156). -/
  heldTransit  : List (Nat × Nat × List Byte) := []
  /-- Remote accesses of the supervisor without a response yet: `SEQ` (R166). -/
  raOpen       : List Nat := []
  raSeq        : Nat := 0
  /-- Credits held at port p for class k, at 8p + k, and returns pending there (R142). -/
  credits      : SMap Nat := []
  returns      : SMap Nat := []
  /-- Cells granted at port p for class k and not yet used by a frame (R188). -/
  granted      : SMap Nat := []
  remoteFault  : Nat := 0
  /-- Ring ports whose wake is armed (R171). -/
  wakeArmed    : Nat := 0
  lullRound    : Nat := 0
  lullVoided   : List Nat := []
  /-- At the root: COMMIT of the round has been sent, and nodes recorded as `LULL_REFUSER` since they last consented
  (R168, R173). -/
  commitSent   : Bool := false
  refusers     : List Nat := []
  deriving DecidableEq, Repr

/-- The fault hub beyond its registers: unacknowledged entries as sequence number, recorded class and `ESC` (R428). -/
structure FltSt where
  unack : List (Nat × Nat × Bool) := []
  deriving DecidableEq, Repr

/-- A descriptor (R92). -/
structure Desc where
  bufAddr : Nat := 0
  length  : Nat := 0
  opcode  : Nat := 0
  bufSize : Nat := 0
  cls     : Nat := 0
  imm     : Bool := false
  dest    : Nat := 0
  param   : Nat := 0
  tag     : Nat := 0
  /-- The 32 bytes as fetched. -/
  raw     : List Byte := []
  deriving DecidableEq, Repr

/-- How far an item has come (R96, R113-R120). -/
inductive ItemStage where
  | waiting    -- it waits in HIF until its payload may be read (R189)
  | reading    -- its payload is being read
  | ready      -- it waits for acceptance
  | accepted   -- its journal record is written, the read of R118 has not completed
  | flushed    -- it may be forwarded
  | forwarded  -- it has left for its destination
  | done       -- its outcome is known, its first record not yet queued
  | recorded   -- its first record waits in its CQ
  deriving DecidableEq, Repr

/-- An item in flight: fetched, its first record not yet written (R102). -/
structure Item where
  sq       : Nat := 0
  num      : Nat := 0
  desc     : Desc := {}
  data     : List Byte := []
  stage    : ItemStage := .waiting
  wsn      : Nat := 0
  prev     : Nat := 0
  /-- Forwarded at least once (R129). -/
  everFwd  : Bool := false
  /-- Re-sent from the journal (R136). -/
  replay   : Bool := false
  /-- The acknowledgement timeout in force, in ms (R124). -/
  timeout  : Nat := 0
  /-- Bytes of RETURN frames written so far (R146). -/
  got      : Nat := 0
  status   : Nat := 0
  result   : Nat := 0
  detail   : Nat := 0
  late     : Bool := false
  deriving DecidableEq, Repr

/-- A completion record that waits to be written (R98). -/
structure Record where
  sq      : Nat := 0
  num     : Nat := 0
  tag     : Nat := 0
  wsn     : Nat := 0
  status  : Nat := 0
  result  : Nat := 0
  detail  : Nat := 0
  late    : Bool := false
  second  : Bool := false
  imm     : Bool := false
  /-- It has found its CQ full and been counted (R108). -/
  stalled : Bool := false
  deriving DecidableEq, Repr

/-- The host interface beyond its registers. -/
structure HqSt where
  /-- Items in flight, in order of fetch. -/
  items      : List Item := []
  /-- Records waiting, by CQ, oldest first (R101). -/
  records    : SMap (List Record) := []
  /-- Poll period of each SQ line in ns, and the lines whose poll has been issued and not returned (R88). -/
  period     : SMap Nat := []
  polling    : Nat := 0
  /-- Empty polls of a line since it last found work (R464). -/
  empties    : SMap Nat := []
  /-- The last `PROD` read for each SQ since its enable (R87). -/
  prod       : SMap Nat := []
  /-- The SQ last served by a fetch, at first 255 (DESIGN CHOICE, notes/assumptions/14.md), and descriptors requested and not returned,
  by SQ (R91). -/
  lastSq     : Nat := 255
  fetching   : SMap Nat := []
  /-- Cached head, and records written since the last message, by CQ (R90, R110). -/
  cqHead     : SMap Nat := []
  unsignalled : SMap Nat := []
  /-- Host writes cannot be issued (R499). -/
  blocked    : Bool := false
  heldWrites : List Output := []
  /-- SQs whose consumed word, and whose WSN-table entry, is to be written with its current value once writes can be issued (R499). -/
  heldCons   : List Nat := []
  heldTable  : List Nat := []
  /-- The function mask of MSI-X (R109). -/
  funcMask   : Bool := false
  /-- SQs in ERROR with a `POSTED_FAULT`, whose posted writes are held (R104). -/
  postHeld   : List Nat := []
  deriving DecidableEq, Repr

/-- A ledger entry (R122); its key holds the endpoint, the source node and the source SQ. -/
structure LedgerEntry where
  pending : Bool := false
  gen     : Nat := 0
  last    : Nat := 0
  pend    : Nat := 0
  deriving DecidableEq, Repr

/-- A slot of the journal's record ring in use, in order of acceptance (R116, R117). -/
structure JSlot where
  slot     : Nat := 0
  sq       : Nat := 0
  wsn      : Nat := 0
  spoolOff : Nat := 0
  spoolLen : Nat := 0
  retired  : Bool := false
  deriving DecidableEq, Repr

/-- Accepted work that has reached this node as its destination and been decided "apply" (R123). -/
structure Work where
  src     : Nat := 0
  sq      : Nat := 0
  gen     : Nat := 0
  wsn     : Nat := 0
  prev    : Nat := 0
  retired : Nat := 0
  resend  : Bool := false
  ep      : Nat := 0
  opcode  : Nat := 0
  param   : Nat := 0
  length  : Nat := 0
  cls     : Nat := 0
  data    : List Byte := []
  /-- Handed to the unit of its endpoint. -/
  taken   : Bool := false
  /-- Its emission has started (R126). -/
  started : Bool := false
  /-- It has come to the head of its queue, and `late` says whether its ring time had passed by then (R97). -/
  atHead  : Bool := false
  /-- Its frame was cut off; it waits for its resend (R127). -/
  torn    : Bool := false
  late    : Bool := false
  deriving DecidableEq, Repr

/-- Segments of an item received so far (R146). -/
structure Partial where
  work : Work := {}
  tag  : Tag := {}
  segs : List (Nat × List Byte) := []
  deriving DecidableEq, Repr

/-- The down-port state of R135 of a port other than a ring port. -/
inductive Flap where
  | hold | holdStable | redirect | redirectStable
  deriving DecidableEq, Repr

/-- Journal, ledger and work at this node as destination. -/
structure DlvSt where
  /-- AON's copy of `GEN`, and of `LAST_WSN` and `RETIRED` by SQ (R119). -/
  gen       : Nat := 0
  last      : SMap Nat := []
  retired   : SMap Nat := []
  /-- The `GEN` of the header read at the last enable; it takes force when WAIT_GEN ends (R132). -/
  newGen    : Nat := 0
  /-- `LAST_WSN` of the last item of each SQ and `DEST` (at SQ * 2^20 + DEST) in this generation (R116). -/
  lastDest  : SMap Nat := []
  slots     : List JSlot := []
  nextSlot  : Nat := 0
  spoolNext : Nat := 0
  /-- Items whose record no completed PCIe read covers yet, oldest first (R118): SQ and WSN. -/
  unflushed : List (Nat × Nat) := []
  /-- The ledger (R122), by endpoint + 4096 * source node + 2^20 * source SQ. -/
  ledger    : SMap LedgerEntry := []
  /-- `GEN` and `RETIRED` last received, by 256 * source node + SQ (R125). -/
  srcRet    : SMap (Nat × Nat) := []
  work      : List Work := []
  partials  : List Partial := []
  /-- Ports other than ring ports that are down, by local endpoint (R135). -/
  flaps     : SMap Flap := []
  /-- Domains powered off after a drain since the last reset, one bit each (R33, R164). -/
  offBits   : Nat := 0
  /-- Items whose emission a halt ended, and their `DETAIL`, not yet acknowledged (R289). -/
  owedFail  : List ((Nat × Nat × Nat) × Nat) := []
  /-- ACK entries gathered for a source node, not yet sent (R160). -/
  acks      : SMap (List AckEntry) := []
  /-- Frames of the signal router and the bridge numbered so far. -/
  rawNext   : Nat := 0
  /-- The response of the last committed bridge item of each stream (R334), by 256 * source node + SQ: WSN, result, `DETAIL` and
  read data. -/
  kept      : SMap (Nat × Nat × Nat × List Byte) := []
  /-- Bridge writes of this node's SQs that other nodes have applied, for the records of R333: SQ, WSN, number and `TAG`. -/
  brgDone   : List (Nat × Nat × Nat × Nat) := []
  deriving DecidableEq, Repr

/-- An internal commit or a checkpoint segment that awaits COPY_ACK (R400, R401). -/
structure CopyWait where
  seq   : Nat := 0
  src   : Nat := 0
  sq    : Nat := 0
  wsn   : Nat := 0
  bytes : Nat := 0
  ckpt  : Bool := false
  /-- A configuration write's copy: nothing waits for it. -/
  config : Bool := false
  deriving DecidableEq, Repr

/-- A partner's HELLO (R397). -/
structure Hello where
  id    : Nat := 0
  slot  : Nat := 0
  role  : Nat := 0
  mode  : Nat := 0
  pair  : Nat := 0
  epoch : Nat := 0
  img   : Nat := 0
  deriving DecidableEq, Repr

/-- A witness's view of one pair (R403): consecutive misses of the standby half, whether the last state other than UNPAIRED that
the standby showed was PAIRED, whether no standby was found for the failure that lasts, and whether the half told to take over has
not yet answered as active. -/
structure WitnessPair where
  missB     : Nat := 0
  wasPaired : Bool := false
  noStandby : Bool := false
  taking    : Bool := false
  deriving DecidableEq, Repr

/-- A twin half beyond its registers. -/
structure TwinSt where
  partner   : Option Hello := none
  /-- `SEQ` counters of frames sent, by `KIND` (R397). -/
  txSeq     : SMap Nat := []
  copies    : List CopyWait := []
  /-- State changes of the present epoch, in journal order, as bytes (R402). -/
  epochLog  : List Byte := []
  /-- Own digest and the partner's digest of an epoch, as far as known. -/
  ownDigest : Option (Nat × Nat) := none
  peerDigest : Option (Nat × Nat) := none
  /-- Copies in flight when TWL lost its power, whose items the active half is to commit alone (R400). -/
  orphans   : List CopyWait := []
  /-- A first digest has matched since SYNCING began. -/
  synced    : Bool := false
  /-- A take-over has begun: the active half's ledger is being read (R404). -/
  reading   : Bool := false
  /-- A TAKE waits for event 4 of R77 (R409). -/
  takeWaits : Bool := false
  /-- A take-over waits for `OWN` = 1 before its units start and it is announced (R404 events 3-5). -/
  handOver  : Bool := false
  /-- Milliseconds of `TWIN_CKPT_AGE` in the making: the count at which it was last counted on. -/
  ageAt     : Nat := 0
  witness   : SMap WitnessPair := []
  deriving DecidableEq, Repr

/-- An FSYNC generator: the number of its next edge, whether its pulse runs, and whether an edge is held (R230, R231). -/
structure FsyncSt where
  k    : Nat := 0
  high : Bool := false
  held : Bool := false
  /-- The ring time of the last edge driven, and whether it had been held (R352). -/
  edge : Option (Nat × Bool) := none
  deriving DecidableEq, Repr

/-- The time unit beyond its registers: the fraction bits of `OFFSET` (R217), the exchanges of each port (R224), the servo
(R465) and the generators. -/
structure TimeSt where
  offFrac : Nat := 0
  /-- The last `SEQ` sent on a port; the exchange open there as `SEQ` and T1, by port. -/
  seq     : SMap Nat := []
  sent    : SMap (Nat × Nat) := []
  /-- The last SYNC received on a port: `SEQ`, T2, T3, and the count at T2. -/
  got     : SMap (Nat × Nat × Nat × Nat) := []
  /-- This node's `corr` (R226). -/
  corr    : Int := 0
  /-- The frequency term F, none until the servo's first window after a reset, and e of the window before. -/
  freq    : Option Int := none
  ePrev   : Option Int := none
  /-- Sum and number of the errors of the present window. -/
  errSum  : Int := 0
  errNum  : Nat := 0
  fsync   : SMap FsyncSt := []
  ppsHigh : Bool := false
  /-- A rate, and the sum of the steps, written since the last tick: they take effect at the next one (R218, R219). -/
  rateNext : Option Nat := none
  stepNext : Option Int := none
  /-- The count at the last accepted exchange or source update (R220). -/
  lastEx  : Option Nat := none
  deriving DecidableEq, Repr

/-- An output in the staging region (R379, R381). Its destination is that of its reservation. -/
structure VisOutput where
  cam   : Nat := 0
  kind  : Nat := 0
  roi   : Nat := 0
  frame : Nat := 0
  set   : Nat := 0
  size  : Nat := 0
  dest  : Nat := 0
  addr  : Nat := 0
  cls   : Nat := 0
  bytes : List Byte := []
  ready : Bool := false
  sent  : Bool := false
  /-- The loan that it fills, by source, SQ and WSN (R385), and how many of its pieces have entered SP12 (R30). -/
  loan  : Nat × Nat × Nat := (0, 0, 0)
  pos   : Nat := 0
  deriving DecidableEq, Repr

/-- A frame stored in the Polder (R182-R188). -/
structure PFrame where
  num     : Nat := 0
  inp     : Nat := 0
  cls     : Nat := 0
  tagged  : Bool := false
  bytes   : List Byte := []
  /-- Its cells, in order, and how many of them are of the reserved pool. -/
  cells   : List Nat := []
  resCells : Nat := 0
  /-- Outputs that have not handed its last cell over, and those of them whose egress has begun. -/
  outs    : List Nat := []
  started : List Nat := []
  /-- Some copy has been emitted. -/
  emitted : Bool := false
  /-- The vision output, or the segment of one, that its last cell completes at the destination (R30, R382). -/
  vis     : Option VisOutput := none
  deriving DecidableEq, Repr

/-- The Polder beyond its registers. -/
structure PldSt where
  /-- Frames stored, in the order in which they were linked. -/
  frames  : List PFrame := []
  nextNum : Nat := 0
  /-- The parity of the last cell allocated (R178). -/
  lastOdd : Bool := true
  /-- The 16 MiB of cells, one byte a cell of the list, at 256 * cell + offset (R178, R180). -/
  mem     : List Host.Cell := []
  /-- VOQs of a flush that have not passed their packet boundary: copies to remove, as frame number and output (R191). -/
  flush   : List (Nat × Nat) := []
  /-- The flush that runs: its command word, and the number of the first frame linked after it (R191, R192). -/
  flushV  : Nat := 0
  flushAt : Nat := 0
  /-- Outputs at `OUT_MAX` for which a held input waits with its next frame (R187). -/
  blocked : SMap (List Nat) := []
  deriving DecidableEq, Repr

/-- One output's scheduler (R198-R203). -/
structure OutSt where
  v        : Nat := 0
  /-- Class tags, class virtual times, and VOQ tags at 8 * input + class (R199). -/
  fTag     : SMap Nat := []
  cv       : SMap Nat := []
  vTag     : SMap Nat := []
  /-- The expedite budget in ps (R202), and the count at which it was last brought up to date. -/
  budget   : Int := 20000000
  budgetAt : Nat := 0
  /-- Promoted VOQs, at 8 * input + class (R201). -/
  promoted : List Nat := []
  /-- The candidate of each class and its finish tag, and the head of each VOQ, at 8 * input + class, and its (R199). -/
  cand     : SMap (Nat × Nat) := []
  vCand    : SMap (Nat × Nat) := []
  /-- Head frames that the running guard band of a class has deferred, by class (R214). -/
  deferred : List (Nat × Nat) := []
  /-- The frame in egress. -/
  busy     : Option Nat := none
  deriving DecidableEq, Repr

/-- A Weir (R204): the `BURST` in force, its tokens in units of 1/8,000,000 byte, and the count at which they were last
brought up to date. -/
structure WeirSt where
  burst  : Nat := 0x2400
  tokens : Nat := 0
  at'    : Nat := 0
  deriving DecidableEq, Repr

/-- A gate list beyond its registers (R206-R211). -/
structure GclSt where
  /-- The ring times at which the pending list starts, the running list started, and its running entry began. -/
  start   : Nat := 0
  base    : Nat := 0
  since   : Nat := 0
  /-- The state to return to on `ABORT`: 0 IDLE or 2 RUNNING. -/
  prev    : Nat := 0
  /-- DISABLE has been taken; the gates open at the next boundary (R210). -/
  closing : Bool := false
  deriving DecidableEq, Repr

/-- The schedulers beyond their registers. -/
structure SchSt where
  outs  : SMap OutSt := []
  /-- Weirs, at 8 * output + class. -/
  weirs : SMap WeirSt := []
  gcls  : SMap GclSt := []
  deriving DecidableEq, Repr

/-- A line in a receiver's line buffer (R348): its frame, the ring time of its header, and its payload. -/
structure VisLine where
  frame : Nat := 0
  sol   : Nat := 0
  bytes : List Byte := []
  deriving DecidableEq, Repr

/-- A frame between its Frame Start and the end of its processing (R349, R354, R370). -/
structure VisFrame where
  frame     : Nat := 0
  setTag    : Nat := 0
  sof       : Nat := 0
  fsyncTime : Nat := 0
  csiFn     : Nat := 0
  flags     : Nat := 0
  /-- Lines kept, and the set in force. -/
  kept      : Nat := 0
  set       : Nat := 0
  closed    : Bool := false
  /-- The pipeline has taken its first line and reserved its outputs; the lines taken. -/
  begun     : Bool := false
  rows      : List (List Byte) := []
  deriving DecidableEq, Repr

/-- A CCI write of a settings window (R359): the window's frame, the target frame of its set (R361), the first frame that a fault of
it makes uncertain, its kind (0 `GH_ON`, 1 a parameter, 2 `GH_OFF`), and whether it has been repeated. -/
structure CciWrite where
  frame  : Nat := 0
  target : Nat := 0
  from'  : Nat := 0
  kind   : Nat := 1
  reg    : Nat := 0
  bytes  : List Byte := []
  tried  : Bool := false
  deriving DecidableEq, Repr

/-- A queued settings set (R357, R358): target frame, tag, pipeline set, and parameter values by `PARAM_ID`. -/
structure VisSet where
  target  : Nat := 0
  tag     : Nat := 0
  pipe    : Nat := 0xFF
  entries : SMap Nat := []
  deriving DecidableEq, Repr

/-- A camera beyond its registers. -/
structure VisCam where
  lines    : List VisLine := []
  frames   : List VisFrame := []
  sets     : List VisSet := []
  writes   : List CciWrite := []
  /-- Frames whose sensor settings are uncertain, first and last (R361). -/
  faults   : List (Nat × Nat) := []
  /-- The start of the last line. -/
  lastLine : Option Nat := none
  /-- `EN` has been written 0 during a frame (R362). -/
  stopping : Bool := false
  /-- A direct CCI command has been put on the bus, and the command as it was written (R364). -/
  direct   : Bool := false
  cmd      : Nat := 0
  /-- The frame that wrote the whole reference last (R373). -/
  tnr      : Option Nat := none
  deriving DecidableEq, Repr

/-- An output for a CSI-2 transmitter (R384): its camera, frame number and header, the data type of its rows, the rows not yet sent,
and whether its Frame Start has been sent. -/
structure CsiFrame where
  cam    : Nat := 0
  kind   : Nat := 0
  frame  : Nat := 0
  header : List Byte := []
  dt     : Nat := 0
  rows   : List (List Byte) := []
  begun  : Bool := false
  deriving DecidableEq, Repr

/-- The output that a sink reassembles (R383): `FRAME`, `CAM`, `KIND` and `ROI`, its segments by offset, its size where its header
has come, and whether `LAST` has come. -/
structure SinkCur where
  id    : Nat × Nat × Nat × Nat := (0, 0, 0, 0)
  segs  : SMap (List Byte) := []
  total : Option Nat := none
  last  : Bool := false
  deriving DecidableEq, Repr

/-- An output that a sink has closed: its segments, its size and its `OFLAGS`. -/
structure SinkDone where
  segs   : SMap (List Byte) := []
  total  : Nat := 0
  oflags : Nat := 0
  /-- The loan that it fills, and how many of its pieces have entered SP12 (R30). -/
  loan   : Nat × Nat × Nat := (0, 0, 0)
  pos    : Nat := 0
  deriving DecidableEq, Repr

/-- A sink beyond its registers. -/
structure SinkSt where
  cur  : Option SinkCur := none
  done : List SinkDone := []
  deriving DecidableEq, Repr

/-- The vision block beyond its registers. -/
structure VisSt where
  cams   : SMap VisCam := []
  /-- The camera last served by the pipeline (R351). -/
  last   : Nat := 7
  /-- Outputs in the staging region, in the order of their reservation. -/
  staged : List VisOutput := []
  sinks  : SMap SinkSt := []
  /-- Outputs of the CSI-2 transmitters. -/
  tx     : SMap (List CsiFrame) := []
  deriving DecidableEq, Repr

/-- A frame received at an Ethernet port that waits in the Polder for a loan (R241). -/
structure EthFrame where
  bytes : List Byte := []
  /-- The receive timestamp, and the class. -/
  ts    : Nat := 0
  cls   : Nat := 0
  /-- Its cells, and how many of them are of the reserved pool. -/
  cells : List Nat := []
  res   : Nat := 0
  deriving DecidableEq, Repr

/-- An Ethernet port beyond its registers. -/
structure EthSt where
  /-- The item whose frame is being emitted: source, SQ and WSN. -/
  tx        : Option (Nat × Nat × Nat) := none
  /-- A PAUSE has been received during a frame (R246). -/
  pausePend : Bool := false
  /-- PAUSE has been sent and its cause persists (R243). -/
  pauseSent : Bool := false
  /-- Frames received for which no loan is posted (R241). -/
  waiting   : List EthFrame := []
  /-- The transmit timestamp of the last frame started (R222), as R242 lays one out. -/
  txTs      : Nat := 0
  deriving DecidableEq, Repr

/-- One word of a port FIFO with its tag (R252). On the TX side `key` names the item whose frame it carries: source, SQ and
WSN. `detail` is the `DETAIL` of R269 that an RX packet's last word carries. -/
structure FWord where
  bytes  : List Byte := []
  eop    : Bool := false
  err    : Bool := false
  detail : Nat := 0
  key    : Nat × Nat × Nat := (0, 0, 0)
  deriving DecidableEq, Repr

/-- A port FIFO: its filling and its draining bank, oldest word first (R252, R254). -/
structure Fifo where
  filling  : List FWord := []
  draining : List FWord := []
  deriving DecidableEq, Repr

/-- A PIO serial port beyond its registers. -/
structure PortSt where
  rx      : Fifo := {}
  tx      : Fifo := {}
  /-- The last word of the RX filling bank is open. -/
  rxOpen  : Bool := false
  /-- Bytes held of the RX packet that is being pushed, and whether it is in error. -/
  rxLen   : Nat := 0
  rxErr   : Bool := false
  /-- Bytes are discarded up to the next end-of-packet (R256, R261). -/
  rxSkip  : Bool := false
  /-- The frame that the slice builds (R254). -/
  build   : List Byte := []
  /-- Packets linked and not yet delivered to a loan: bytes and `DETAIL` (R269). -/
  ready   : List (List Byte × Nat) := []
  /-- The frame that the slice writes into the TX FIFO, and its bytes still to be written (R255). -/
  txCur   : Option ((Nat × Nat × Nat) × List Byte) := none
  /-- The packet begun and not yet ended by its end-of-frame event, and whether its last byte has been pulled (R285). -/
  txPkt   : Option ((Nat × Nat × Nat) × Bool) := none
  /-- The next pull reports end-of-packet (R261). -/
  txEop   : Bool := false
  /-- Flushes that wait for their packet boundary (R260). -/
  flushRx : Bool := false
  flushTx : Bool := false
  deriving DecidableEq, Repr

/-- A discrete line beyond its registers. -/
structure LineSt where
  /-- The timed queue, oldest first: item, and whether its time had passed when it became the head (R264). -/
  queue : List ((Nat × Nat × Nat) × Bool) := []
  /-- A debounce interval: the new level and the ring time at which it began (R266). -/
  deb   : Option (Bool × Nat) := none
  /-- Records of the line since the cluster came up (R267). -/
  seq   : Nat := 0
  /-- Records in the loan that is being filled (R268). -/
  loan  : List Byte := []
  deriving DecidableEq, Repr

/-- What a STALLED engine waits for (R291). -/
inductive Stall where
  | none | wait | pull | stretch
  deriving DecidableEq, Repr

/-- A PIO engine beyond its registers (R275). Times are ticks of 5 ns of the counter. -/
structure EngSt where
  rise     : Bool := false
  fall     : Bool := false
  eop      : Bool := false
  /-- The tick of the last edge on `IN_PIN`. -/
  edgeAt   : Nat := 0
  /-- The tick of the divider's last restart, and that from which the tick counter counts: with `NUM` and `MOD` they give the
  step accumulator and the step number (R276). -/
  start    : Nat := 0
  tickAt   : Nat := 0
  /-- The tick at which the present WAIT began. -/
  waitAt   : Nat := 0
  /-- `DELAY` steps run, and the word that follows them. -/
  delay    : Bool := false
  next     : Nat := 0
  stall    : Stall := .none
  /-- The instruction before was a WAIT that took no step (R284). -/
  freeWait : Bool := false
  /-- A `STREAM` shift has refilled `TSR` and goes on with its next group (R283). -/
  mid      : Bool := false
  /-- Bits left of a shift that waits for a stretched clock. -/
  left     : Nat := 0
  deriving DecidableEq, Repr

/-- A PIO group beyond its registers. -/
structure GroupSt where
  engs : SMap EngSt := []
  /-- A SYNC that waits for its time: `START` and `RESTART` (R288). -/
  sync : Option (Nat × Nat) := none
  deriving DecidableEq, Repr

/-- A send object that holds an item (R308-R310). -/
structure CanObj where
  key       : Nat × Nat × Nat := (0, 0, 0)
  requested : Bool := false
  /-- Held out of arbitration for that many frame times. -/
  held      : Option Nat := none
  /-- Consecutive attempts that ended in a DUP event. -/
  dups      : Nat := 0
  deriving DecidableEq, Repr

/-- A CAN controller beyond its registers and message memory. -/
structure CanSt where
  objs    : SMap CanObj := []
  /-- The object whose cancel is late and pending (R309). -/
  late    : Option Nat := none
  /-- The object last committed, and whether a late cancel stood against it. -/
  last    : Option (Nat × Bool) := none
  /-- The object whose frame is retransmitted outside the ledger (R308). -/
  retx    : Option Nat := none
  /-- The delivery queue, oldest first: its slot, `DELIVER` and the record's bytes (R312). -/
  queue   : List (Nat × Nat × List Byte) := []
  slot    : Nat := 0
  lost    : Nat := 0
  /-- Records in the loan that is being filled. -/
  loan    : List Byte := []
  /-- Restricted operation waits for 11 recessive bits (R314). -/
  waiting : Bool := false
  deriving DecidableEq, Repr

/-- A field cluster beyond its registers. -/
structure Cluster where
  /-- The level and the output enable of each `FIO` pin as last driven, latched and retained by AON (R49, R52). -/
  pinOut : Nat := 0
  pinOe  : Nat := 0
  /-- The levels at the pins as last sampled (R266). -/
  raw    : Nat := 0
  /-- The levels of the pins as the PIO synchronisers last captured them (R277). -/
  cap    : Nat := 0
  ports  : SMap PortSt := []
  lines  : SMap LineSt := []
  /-- Event records that wait for a loan: line and bytes (R268); records lost since the last one. -/
  evq    : List (Nat × List Byte) := []
  evLost : Nat := 0
  groups : SMap GroupSt := []
  cans   : SMap CanSt := []
  /-- Pins that have left Hold with no driver yet: each starts at its held level (R52). -/
  resume : Nat := 0
  /-- The level and the output enable of the `FLOW` pins as last driven; those of cluster 0 stand for the block's (R251). -/
  flow   : Nat := 0
  flowOe : Nat := 0
  deriving DecidableEq, Repr

/-- An input that waits at the signal router (R324, R326, R329): a packet of a PIO port, a CAN record with its identifier word, or
the records of a VALUES frame. -/
inductive SigIn where
  | packet (ep : Nat) (bytes : List Byte)
  | can (ep ident : Nat) (bytes : List Byte)
  | values (src : Nat) (bytes : List Byte)
  deriving DecidableEq, Repr

/-- A TX message beyond its registers (R324): the bytes last emitted and those assembled since (none: all zero), whether
`MIN_GAP_US` still runs since the last emission, and whether an emission has fallen due in it. -/
structure SigTx where
  copy : List Byte := []
  cur  : List Byte := []
  gap  : Bool := false
  due  : Bool := false
  deriving DecidableEq, Repr

/-- How far a bridge transaction has come (R332, R337). -/
inductive BrgStage where
  | waitNear   -- its near bus is held by another
  | waitFar    -- it holds its near bus, where it is non-posted, and needs its far bus
  | issued     -- its access has been made and its response is awaited
  | retry      -- it has lost a cycle and waits to start again
  deriving DecidableEq, Repr

/-- A bridge transaction (R330-R337). Buses: 0 PCIE, 1 RING, 2 + b for FBb. -/
structure BrgTx where
  id      : Nat := 0
  near    : Nat := 0
  /-- The item that it carries out, or none for a request of a field device, whose `TAG` is `tag`. -/
  key     : Option (Nat × Nat × Nat) := none
  tag     : Nat := 0
  cls     : Nat := 0
  write   : Bool := false
  posted  : Bool := false
  lock    : Bool := false
  last    : Bool := false
  range   : Nat := 0
  far     : Nat := 0
  /-- The target address, the bytes to move, and the data of a write. -/
  addr    : Nat := 0
  len     : Nat := 0
  data    : List Byte := []
  stage   : BrgStage := .waitNear
  retries : Nat := 0
  /-- `SEQ` of its RA_REQ. -/
  seq     : Nat := 0
  deriving DecidableEq, Repr

/-- What has become of a locked sequence (R335, R336). -/
inductive LockStage where
  | taking | held | broken | refused
  deriving DecidableEq, Repr

/-- A locked sequence of a stream (R335). -/
structure BrgLock where
  src   : Nat := 0
  sq    : Nat := 0
  near  : Nat := 0
  far   : Nat := 0
  stage : LockStage := .taking
  deriving DecidableEq, Repr

/-- A posted write that has left the bridge and may still fail (R333). -/
structure BrgPosted where
  tx  : BrgTx := {}
  gen : Nat := 0
  /-- Descriptor number and `TAG` of an item of this node's own host. -/
  num : Nat := 0
  itemTag : Nat := 0
  deriving DecidableEq, Repr

/-- The signal router and the bridge beyond their registers. -/
structure SigSt where
  /-- Inputs, in order of arrival. -/
  inputs : List SigIn := []
  /-- Packets received on the FBs, by bus (R331). -/
  fbIn   : SMap (List (List Byte)) := []
  /-- TX messages, by number. -/
  tx     : SMap SigTx := []
  /-- The signal cache (R327): unpinned entries, most recently used first, and pinned entries. -/
  lru    : List Nat := []
  pinned : List Nat := []
  /-- Bridge transactions, in order of arrival, the number of the next one, posted writes that have left, and locked sequences. -/
  txs    : List BrgTx := []
  nextTx : Nat := 0
  posted : List BrgPosted := []
  locks  : List BrgLock := []
  deriving DecidableEq, Repr

/-- An unretired `BULK_GET` (R338): its queue, its item (source, SQ, WSN, `GEN`), the bytes promised, and whether it has retired
behind an older one. -/
structure BulkGet where
  q    : Nat := 0
  src  : Nat := 0
  sq   : Nat := 0
  wsn  : Nat := 0
  gen  : Nat := 0
  n    : Nat := 0
  done : Bool := false
  deriving DecidableEq, Repr

/-- The bulk queues beyond their registers: the read points, the unretired gets, and AON's bits (R338, R339). -/
structure BulkSt where
  rd   : SMap Nat := []
  gets : List BulkGet := []
  bits : Nat := 0
  deriving DecidableEq, Repr

/-- A Dike channel beyond its registers (R445-R450): the level of `DKc_PRES`, the largest sample of the attempt, whether the last
sample was at or above `ISC`, the counters of the curve points, and whether the loop drives `DKc_CTRL` above 0 V. -/
structure DikeCh where
  pin   : Bool := false
  peak  : Nat := 0
  short : Bool := false
  curve : List Nat := []
  drive : Bool := false
  deriving DecidableEq, Repr

/-- The adaptive-voltage loop beyond its registers (R460, R461): consecutive evaluations that allow a fall, whether readings are
ignored after a setpoint write, the Linear16 exponent as `VOUT_MODE` gave it, and the PMBus commands to send, the first of which is
on the bus: the command and, for a setpoint, its mV; and whether that one has been repeated after a NACK. -/
structure PwrSt where
  down     : Nat := 0
  settling : Bool := false
  vmode    : Nat := 0
  queue    : List (Nat × Nat) := []
  tried    : Bool := false
  deriving DecidableEq, Repr

/-- A source that a bank has claimed (R416, R417): its level and its number (from 1,024 on a private source). -/
structure Claim where
  level : Nat := 0
  src   : Nat := 0
  deriving DecidableEq, Repr

/-- An interrupt bank and its processor beyond the registers: the sources claimed, and whether an entry or an exit sequence runs
(R416, R419). -/
structure IntBank where
  claims : List Claim := []
  entry  : Bool := false
  exit   : Bool := false
  deriving DecidableEq, Repr


/-- The state of the block. -/
structure State where
  /-- Register fields that differ from their reset values, by `Field.key`. -/
  regs    : SMap Nat := []
  /-- LPDDR5, one byte a cell; an address not listed reads 0. -/
  mem     : List Host.Cell := []
  /-- The BAR2 window, one byte a cell (R494). -/
  bar2    : List Host.Cell := []
  /-- Captured halves of the 64-bit pairs, by requester and offset of `_LO` (R11). -/
  capture : List (Requester × Nat × Nat) := []
  /-- Staged low halves, by requester and offset of `_LO` (R11). -/
  staged  : List (Requester × Nat × Nat) := []
  node    : NodeSt := {}
  boot    : BootSt := {}
  ring    : RingSt := {}
  flt     : FltSt := {}
  hq      : HqSt := {}
  dlv     : DlvSt := {}
  twin    : TwinSt := {}
  time    : TimeSt := {}
  /-- The supervisor's copy in LPDDR5 of the last accepted configuration writes (R130, R293, R316), by `Field.key`, and the
  PIO engines that were running, by 8 * (4 * cluster + group) + engine. -/
  saved   : SMap Nat := []
  savedRun : List Nat := []
  pld     : PldSt := {}
  sch     : SchSt := {}
  vis     : VisSt := {}
  net     : SMap EthSt := []
  fc      : SMap Cluster := []
  /-- Message objects captured for a requester: controller `8n + c`, object, and the object's words (R302). -/
  canCap  : List (Requester × Nat × Nat × List Nat) := []
  sig     : SigSt := {}
  bulk    : BulkSt := {}
  dike    : SMap DikeCh := []
  pwr     : PwrSt := {}
  ints    : SMap IntBank := []
  /-- Everything sent outward, oldest first. -/
  out     : List Output := []
  /-- The model's own counter of free values drawn (notes/assumptions/4.md). -/
  fresh   : Nat := 0
  /-- The commands that are waiting, first in, first out. -/
  pending : List Instr := []
  deriving DecidableEq, Repr

/-- The phases right after POR: the reset set of R31 (0x0_045F) is up. -/
def resetPhases : List Phase :=
  [.up, .up, .up, .up, .up, .off, .up, .off, .off, .off, .up, .off, .off, .off, .off, .off, .off]

/-- The node right after POR, in LOADING with the reset set of domains up (R10, R37), before the boot ROM agent acts on
the end of the reset. Every register field is at its reset value. -/
def State.reset : State :=
  { node := { phase := resetPhases, upSincePor := 0x45F, resetKind := some 0 } }

end Sys2Proof.Machine
end

