-- ==== Sys2Proof/Machine/Bits.lean ====
section
/-! DEFINITION. Bit, byte and number helpers: bits of a value, little-endian bytes (R5), two's complement, CRC-32C (R62),
rounding and serial-number comparison. -/

namespace Sys2Proof.Machine

/-- `v` with bit `i` set. -/
def setBit (v i : Nat) : Nat := v ||| (1 <<< i)

/-- `v` without the bits of `m`. -/
def clearBits (v m : Nat) : Nat := v ^^^ (v &&& m)

/-- `v` with bit `i` cleared. -/
def clearBit (v i : Nat) : Nat := clearBits v (1 <<< i)

/-- Bits `lo` to `lo + w - 1` of `v`. -/
def bitsOf (v lo w : Nat) : Nat := (v >>> lo) % 2 ^ w

/-- One for true. -/
def b2n (b : Bool) : Nat := if b then 1 else 0

/-- The indices of the bits of `v` below `n` that are set, in ascending order. -/
def bitList (v n : Nat) : List Nat := (List.range n).filter (fun i => v.testBit i)

/-- How many of the low `n` bits of `v` are set. -/
def popCount (v n : Nat) : Nat := (bitList v n).length

/-- The two's-complement reading of the low `w` bits of `v`. -/
def sext (w v : Nat) : Int :=
  if (v % 2 ^ w).testBit (w - 1) then (v % 2 ^ w : Int) - 2 ^ w else (v % 2 ^ w : Int)

/-- The low `w` bits of an integer. -/
def wrapInt (w : Nat) (x : Int) : Nat := (x % (2 ^ w : Int)).toNat

/-- An integer saturated to `lo`-`hi`. -/
def clampInt (lo hi x : Int) : Int := if x < lo then lo else if hi < x then hi else x

/-- The quotient rounded to the nearest integer, with halves rounded away from zero (R322). -/
def divRoundAway (x d : Int) : Int :=
  if d ≤ 0 then 0
  else if 0 ≤ x then (2 * x + d) / (2 * d) else -((2 * (-x) + d) / (2 * d))

/-- The value of bytes in little-endian order (R5). -/
def leNat : List Byte → Nat
  | [] => 0
  | b :: rest => b.toNat + 256 * leNat rest

/-- `n` bytes of `v` in little-endian order (R5). -/
def leBytes : Nat → Nat → List Byte
  | 0, _ => []
  | n + 1, v => BitVec.ofNat 8 v :: leBytes n (v / 256)

/-- The little-endian value of `n` bytes of `bs` from byte `i`. Bytes beyond the end read 0. -/
def leAt (bs : List Byte) (i n : Nat) : Nat := leNat ((bs.drop i).take n)

/-- The bytes of 32-bit words, in order. -/
def wordBytes (ws : List Nat) : List Byte := ws.flatMap (leBytes 4)

/-- One bit of a reflected CRC-32 division. -/
def crcBit (poly c : Nat) : Nat := if c % 2 = 1 then (c >>> 1) ^^^ poly else c >>> 1

/-- `n` bits of the division. -/
def crcBits (poly : Nat) : Nat → Nat → Nat
  | 0, c => c
  | n + 1, c => crcBits poly n (crcBit poly c)

/-- A reflected CRC-32 with initial value and final XOR 0xFFFF_FFFF. -/
def crcOf (poly : Nat) (bs : List Byte) : Nat := bs.foldl (fun c b => crcBits poly 8 (c ^^^ b.toNat)) 0xFFFFFFFF ^^^ 0xFFFFFFFF

/-- R62: CRC-32C, polynomial 0x1EDC_6F41 reflected. -/
def crc32c (bs : List Byte) : Nat := crcOf 0x82F63B78 bs

/-- The FCS of an Ethernet frame (R237, R240): the CRC-32 of IEEE 802.3. -/
def crc32 (bs : List Byte) : Nat := crcOf 0xEDB88320 bs

/-- The value of `n` bytes of `bs` from byte `i` in big-endian order. -/
def beAt (bs : List Byte) (i n : Nat) : Nat := leNat ((bs.drop i).take n).reverse

/-- Whether `a` is later than `b` in serial-number arithmetic modulo `2^w`. -/
def laterThan (w a b : Nat) : Bool :=
  let d := (a + 2 ^ w - b % 2 ^ w) % 2 ^ w
  1 ≤ d && d ≤ 2 ^ (w - 1) - 1

/-- A list with its element `i` changed by `f`. -/
def updAt {α : Type} : List α → Nat → (α → α) → List α
  | [], _, _ => []
  | a :: rest, 0, f => f a :: rest
  | a :: rest, i + 1, f => a :: updAt rest i f

/-- The position of the first element that satisfies `p`. -/
def findIdxFrom {α : Type} (p : α → Bool) : List α → Nat → Option Nat
  | [], _ => none
  | a :: rest, i => if p a then some i else findIdxFrom p rest (i + 1)

/-- The lowest number from `i`, over `fuel` numbers, that satisfies `p`. -/
def lowestFrom (p : Nat → Bool) : Nat → Nat → Option Nat
  | 0, _ => none
  | fuel + 1, i => if p i then some i else lowestFrom p fuel (i + 1)

/-- The ceiling of a quotient. -/
def ceilDiv (a b : Nat) : Nat := (a + b - 1) / b

end Sys2Proof.Machine
end

