-- ==== Sys2Proof/Machine/Wire.lean ====
section
/-! DEFINITION. K-frames and the link below them as bytes (R67, R75, R121, R139, R140, R143, R145, R146, R149, R150, R156, R160-R168, R225,
R397): blocks, ordered sets, the header, the delivery tag, the payload of each frame type, and the FCS. -/

namespace Sys2Proof.Machine

/-! ### Blocks and ordered sets (R139, R140) -/

/-- R140: an ordered set as a control block: the block type 0x4B, its three data bytes, and the O code in the low half of the byte that
follows them; the rest is 0. -/
def controlBlock (o d1 d2 d3 : Nat) : List Byte :=
  leBytes 1 0x4B ++ leBytes 1 d1 ++ leBytes 1 d2 ++ leBytes 1 d3 ++ leBytes 1 (o % 16) ++ leBytes 3 0

/-- R140, R224: the block of an ordered set. -/
def orderedSetBytes : OrderedSet → List Byte
  | .credit k n => controlBlock 0x5 k (n % 256) (n / 256)
  | .remoteFault => controlBlock 0x0 0 0 2
  | .timeSync q => controlBlock 0x6 q 1 0
  | .timeReply q => controlBlock 0x6 q 2 0

/-- R140: the ordered set of a control block; one that is undefined, or a CREDIT returning 0 cells, is discarded. -/
def readOrderedSet (bs : List Byte) : Option OrderedSet :=
  let d1 := leAt bs 1 1
  let d2 := leAt bs 2 1
  let d3 := leAt bs 3 1
  if leAt bs 0 1 ≠ 0x4B then none
  else match leAt bs 4 1 % 16 with
    | 0x5 => if d1 < 8 ∧ (d2 ≠ 0 ∨ d3 ≠ 0) then some (.credit d1 (d2 + 256 * d3)) else none
    | 0x0 => if d1 = 0 ∧ d2 = 0 ∧ d3 = 2 then some .remoteFault else none
    | 0x6 => if d3 ≠ 0 then none else if d2 = 1 then some (.timeSync d1) else if d2 = 2 then some (.timeReply d1) else none
    | _ => none

/-- R139: the alignment marker of a lane: a block that bypasses the scrambler. -/
def alignmentMarker (lane : Nat) : List Byte :=
  leBytes 1 0x4B ++ leBytes 1 0x4E ++ leBytes 1 0x4F ++ leBytes 1 0x4D ++ leBytes 1 lane ++ leBytes 1 (255 - lane) ++ leBytes 2 0

/-- Groups of eight bytes. -/
def eights : Nat → List Byte → List (List Byte)
  | 0, _ => []
  | fuel + 1, l => if l.length < 8 then [l] else l.take 8 :: eights fuel (l.drop 8)

/-- IEEE 802.3 Clause 82: the block type of a terminate block that carries `n` bytes. -/
def terminateType (n : Nat) : Nat :=
  if n = 0 then 0x87 else if n = 1 then 0x99 else if n = 2 then 0xAA else if n = 3 then 0xB4 else if n = 4 then 0xCC
  else if n = 5 then 0xD2 else if n = 6 then 0xE1 else 0xFF

/-- R139: a K-frame as 64-bit blocks with their sync headers (1 control, 2 data): a start block (type 0x78) with the frame's bytes 0-6, data
blocks, and a terminate block with what is left. Bytes go in ascending order, bit 0 of each first. -/
def frameBlocks (bs : List Byte) : List (Nat × List Byte) :=
  let l := eights bs.length (bs.drop 7)
  let last := l.getLastD []
  (1, leBytes 1 0x78 ++ bs.take 7) :: (l.dropLast.map (fun b => (2, b)))
    ++ [(1, leBytes 1 (terminateType last.length) ++ last ++ leBytes (7 - last.length) 0)]

/-- R139: the block that lane `lane` of `lanes` carries in each round: blocks go round-robin from lane 0. -/
def laneBlocks (lanes lane : Nat) (l : List (Nat × List Byte)) : List (Nat × List Byte) :=
  (l.zipIdx).filterMap (fun (b, i) => if i % lanes = lane then some b else none)

/-! ### Payloads (R145) -/

/-- R145: the `TYPE` of a frame. -/
def typeOf : KBody → Nat
  | .data .. => 0x01 | .ret .. => 0x02 | .ack .. => 0x03 | .resync .. => 0x04 | .epState .. => 0x05 | .epFlush .. => 0x06
  | .enum .. => 0x10 | .enumReport .. => 0x11 | .map .. => 0x12 | .protect .. => 0x13 | .raReq .. => 0x18 | .raRsp .. => 0x19
  | .bootReply .. => 0x21 | .actArm .. => 0x22 | .actCancel .. => 0x23 | .actReport .. => 0x24
  | .lullToken .. => 0x28 | .lullCommit .. => 0x29 | .lullRefuse .. => 0x2A | .lullVoid .. => 0x2B
  | .signal .. => 0x30 | .stream .. => 0x31 | .timeSync .. => 0x38 | .twin .. => 0x40 | .twinJournal .. => 0x40 | .twinCopy .. => 0x40

/-- R145: the `CLASS` of a frame. -/
def classOf : KBody → Nat
  | .data _ k .. => k | .ret _ k .. => k | .signal k _ => k | .stream k _ => k | .bootReply .. => 1
  | _ => 7

/-- R143, R145: the frame carries a delivery tag. -/
def taggedOf : KBody → Option Tag
  | .data t .. => some t | .ret t .. => some t
  | _ => none

/-- R121: the delivery tag. -/
def tagBytes (t : Tag) : List Byte :=
  leBytes 4 t.gen ++ leBytes 6 t.wsn ++ leBytes 6 t.prev ++ leBytes 6 t.retired ++ leBytes 1 t.sq ++ leBytes 1 (if t.resend then 1 else 0)

/-- R146: the prefix of a DATA or RETURN payload. -/
def itemPrefix (param opcode length segOff : Nat) (last : Bool) : List Byte :=
  leBytes 8 param ++ leBytes 1 opcode ++ leBytes 3 length ++ leBytes 3 segOff ++ leBytes 1 (if last then 1 else 0)

/-- R160: an entry of an ACK. -/
def ackBytes (e : AckEntry) : List Byte :=
  leBytes 4 e.gen ++ leBytes 6 e.wsn ++ leBytes 1 e.sq ++ leBytes 1 e.result ++ leBytes 2 (e.endpoint % 4096) ++ leBytes 1 e.detail ++ leBytes 1 0

/-- R67, R68: the 16 bytes that answer a block. -/
def replyPayload (offset status detail loadStatus loadId : Nat) : List Byte :=
  leBytes 4 0x4C424B32 ++ leBytes 4 offset ++ leBytes 1 status ++ leBytes 1 detail ++ leBytes 1 loadStatus ++ leBytes 1 0 ++ leBytes 4 loadId

/-- R122: a ledger entry. -/
def ledgerBytes (key state gen last pend : Nat) : List Byte :=
  leBytes 24 (key % 2 ^ 28 + state * 2 ^ 28 + gen % 2 ^ 32 * 2 ^ 32 + last % 2 ^ 48 * 2 ^ 64 + pend % 2 ^ 48 * 2 ^ 112)

/-- R402: a journal input as bytes; those that it adds to the digest of its epoch are the same (notes/assumptions/34.md). -/
def journalBytes : JournalBody → List Byte
  | .frame t ep cls param opcode length segOff last bs =>
    wordBytes [1, t.src, t.sq, t.gen, t.wsn % 2 ^ 32, t.wsn / 2 ^ 32, ep, cls, param % 2 ^ 32, param / 2 ^ 32, opcode, length,
      segOff, b2n last] ++ bs
  | .router ep ident bs => wordBytes [2, ep, b2n ident.isSome, ident.getD 0] ++ bs
  | .commit k wsn => wordBytes [3, k, wsn % 2 ^ 32, wsn / 2 ^ 32]
  | .config off v => wordBytes [4, off, v]

/-- R400, R401: a copy as bytes. -/
def copyBytes : CopyBody → List Byte
  | .item t ep cls opcode param length bs => leBytes 4 1 ++ tagBytes t ++ wordBytes [t.src, ep, cls, opcode, length] ++ leBytes 8 param ++ bs
  | .signals first vs => wordBytes [2, b2n first] ++ vs.flatMap (fun v => leBytes 4 v.1 ++ leBytes 8 v.2)
  | .messages ms => wordBytes [3] ++ ms.flatMap (fun m => wordBytes [m.1, m.2.length] ++ m.2)
  | .config off v => wordBytes [4, off, v]

/-- R397: the body of a TWIN frame from its words; the first of them is `SEQ`. -/
def twinBody (kind : Nat) (words : List Nat) : List Byte :=
  let w (i : Nat) : Nat := words.getD i 0
  match kind with
  | 1 => leBytes 1 (w 1) ++ leBytes 1 (w 2) ++ leBytes 1 (w 3) ++ leBytes 1 (w 4) ++ leBytes 1 (w 5) ++ leBytes 3 0 ++ leBytes 4 (w 6) ++ leBytes 4 (w 7)
  | 3 => leBytes 4 (w 1) ++ leBytes 4 (w 2) ++ leBytes 4 (w 3) ++ leBytes 1 (w 4) ++ leBytes 3 0
  | _ => wordBytes (words.drop 1)

/-- R145-R168, R225, R397: the payload of a frame. -/
def payload : KBody → List Byte
  | .data _ _ param opcode length segOff last bs => itemPrefix param opcode length segOff last ++ bs
  | .ret _ _ param opcode length segOff last bs => itemPrefix param opcode length segOff last ++ bs
  | .ack es => es.flatMap ackBytes
  | .resync l => leBytes 8 l
  | .epState _ version up draining fenced full more es =>
    leBytes 4 version ++ leBytes 4 up ++ leBytes 4 draining ++ leBytes 4 fenced ++ leBytes 1 (b2n full + 2 * b2n more) ++ leBytes 3 0
      ++ es.flatMap (fun e => leBytes 4 (e.1 % 4096 + e.2 % 32 * 4096))
  | .epFlush version => leBytes 4 version
  | .enum round => leBytes 2 round ++ leBytes 6 0
  | .enumReport uid claim mode flags hops round =>
    leBytes 8 uid ++ leBytes 1 claim ++ leBytes 1 mode ++ leBytes 1 flags ++ leBytes 1 0 ++ leBytes 2 hops ++ leBytes 2 round
  | .map round n flags ids => leBytes 2 round ++ leBytes 1 n ++ leBytes 1 flags ++ (List.range 254).flatMap (fun i => leBytes 1 (ids.getD i 0))
  | .protect kind port => leBytes 1 kind ++ leBytes 1 port ++ leBytes 6 0
  | .raReq off count write words => leBytes 4 off ++ leBytes 2 count ++ leBytes 1 write ++ leBytes 1 0 ++ wordBytes words
  | .raRsp status count words => leBytes 1 status ++ leBytes 3 0 ++ leBytes 2 count ++ leBytes 2 0 ++ wordBytes words
  | .bootReply off status detail load id => replyPayload off status detail load id
  | .actArm time crc gap seq nodes => leBytes 8 time ++ leBytes 4 crc ++ leBytes 2 gap ++ leBytes 2 seq ++ leBytes 32 nodes
  | .actCancel seq => leBytes 2 seq ++ leBytes 6 0
  | .actReport seq node code => leBytes 2 seq ++ leBytes 1 node ++ leBytes 1 code ++ leBytes 4 0
  | .lullToken round n consents => leBytes 2 round ++ leBytes 1 n ++ leBytes 1 consents ++ leBytes 4 0
  | .lullCommit round => leBytes 2 round ++ leBytes 6 0
  | .lullRefuse round reason => leBytes 2 round ++ leBytes 1 reason ++ leBytes 5 0
  | .lullVoid round reason => leBytes 2 round ++ leBytes 1 reason ++ leBytes 5 0
  | .signal _ bs => bs
  | .stream _ bs => bs
  | .timeSync l => l.flatMap (leBytes 1)
  | .twin kind words => leBytes 1 kind ++ leBytes 3 0 ++ leBytes 4 (words.headD 0) ++ twinBody kind words
  | .twinJournal seq b => leBytes 1 2 ++ leBytes 3 0 ++ leBytes 4 seq ++ journalBytes b
  | .twinCopy seq b => leBytes 1 4 ++ leBytes 3 0 ++ leBytes 4 seq ++ copyBytes b

/-! ### Frames (R143, R144) -/

/-- R143, R395: the local endpoint in `SRC`: 0x100 in the EP_STATE of a pair's endpoints, else that of the node. -/
def srcEndpoint : KBody → Nat
  | .epState true .. => 0x100
  | _ => 0

/-- R143: the header of a frame that travels ring `ring` (0 A, 1 B). -/
def kframeHeader (ring : Nat) (wrapped : Bool) (hops dst src seq : Nat) (body : KBody) : List Byte :=
  leBytes 1 (typeOf body)
  ++ leBytes 1 (classOf body % 8 * 32 + ring % 2 * 16 + (if wrapped then 8 else 0) + (if (taggedOf body).isSome then 4 else 0))
  ++ leBytes 2 ((payload body).length % 4096) ++ leBytes 4 (hops % 1024 * 2 ^ 20 + dst % 2 ^ 20) ++ leBytes 4 (src % 2 ^ 20)
  ++ leBytes 2 seq ++ leBytes 2 0

/-- R143: a K-frame: header, delivery tag where it carries one, payload, and the FCS of R144. -/
def kframeBytes (ring : Nat) (wrapped : Bool) (hops dst src seq : Nat) (body : KBody) : List Byte :=
  let bs := kframeHeader ring wrapped hops dst src seq body ++ ((taggedOf body).map tagBytes).getD [] ++ payload body
  bs ++ leBytes 4 (crc32c bs)

/-- R143: the ring on which frames leave by port `p` (0 East, 1 West). -/
def ringOf (p : Nat) : Nat := if p = 1 then 1 else 0

/-- R143: a frame of node `node` as it leaves by port `p`. -/
def ownFrame (node p : Nat) (wrapped : Bool) (dst seq : Nat) (body : KBody) : Output :=
  .kframe p wrapped dst seq body (kframeBytes (ringOf p) wrapped 0 dst (node * 4096 + srcEndpoint body) seq body)

end Sys2Proof.Machine
end

