-- ==== Sys2Proof/Machine/Ops.lean ====
section
/-! DEFINITION. The named operations over the state that the meanings share: sparse maps, register fields, memory, flags
with their level interrupt sources, host writes and MSI-X, ring time, modes and power domains, and this node's own
K-frames. -/

namespace Sys2Proof.Machine

open Sys2Proof.Machine.Reg

/-! ### Sparse maps -/

/-- The value at key `k`, if it is listed. -/
def SMap.find {α : Type} : SMap α → Nat → Option α
  | [], _ => none
  | (k', v) :: rest, k => if k' = k then some v else SMap.find rest k

/-- The map with key `k` listed with value `v`, at its place in the order. -/
def SMap.insert {α : Type} : SMap α → Nat → α → SMap α
  | [], k, v => [(k, v)]
  | (k', v') :: rest, k, v =>
    if k < k' then (k, v) :: (k', v') :: rest
    else if k = k' then (k, v) :: rest
    else (k', v') :: SMap.insert rest k v

/-- The map without key `k`. -/
def SMap.erase {α : Type} : SMap α → Nat → SMap α
  | [], _ => []
  | (k', v') :: rest, k => if k' = k then SMap.erase rest k else (k', v') :: SMap.erase rest k

/-- The value at key `k`, or `d` where none is listed. -/
def SMap.getD {α : Type} (m : SMap α) (k : Nat) (d : α) : α := (SMap.find m k).getD d

/-- The keys at strictly rising places. -/
def SMap.sorted {α : Type} : SMap α → Bool
  | [] => true
  | [_] => true
  | (a, _) :: (b, v) :: rest => decide (a < b) && SMap.sorted ((b, v) :: rest)

/-! ### Register fields -/

/-- The value of a register field: its stored value, or its reset value. -/
def State.get (s : State) (f : Field) : Nat := SMap.getD s.regs f.key f.reset

/-- The state with register field `f` holding the low bits of `v`. A field at its reset value is not listed. -/
def State.put (s : State) (f : Field) (v : Nat) : State :=
  { s with regs := if v % 2 ^ f.w = f.reset then SMap.erase s.regs f.key
                   else SMap.insert s.regs f.key (v % 2 ^ f.w) }

/-- Whether a one-bit field is set. -/
def State.flag (s : State) (f : Field) : Bool := s.get f != 0

/-- Field `f` counted up by `n`, wrapping at its width. -/
def State.addTo (s : State) (f : Field) (n : Nat) : State := s.put f (s.get f + n)

/-- Field `f` counted up by 1, wrapping at its width. -/
def State.inc (s : State) (f : Field) : State := s.addTo f 1

/-- Field `f` counted up by `n`, saturating at its width. -/
def State.addSat (s : State) (f : Field) (n : Nat) : State := s.put f (min (s.get f + n) (2 ^ f.w - 1))

/-- Field `f` counted up by 1, saturating at its width. -/
def State.incSat (s : State) (f : Field) : State := s.addSat f 1

/-- Bit `i` of field `f` set. -/
def State.orBits (s : State) (f : Field) (m : Nat) : State := s.put f (s.get f ||| m)

/-- The bits of `m` cleared in field `f`. -/
def State.dropBits (s : State) (f : Field) (m : Nat) : State := s.put f (clearBits (s.get f) m)

/-- The 64-bit value of a pair (R11). -/
def State.get64 (s : State) (lo hi : Field) : Nat := s.get hi * 2 ^ 32 + s.get lo

/-- A 64-bit value stored in a pair (R11). -/
def State.put64 (s : State) (lo hi : Field) (v : Nat) : State := (s.put lo v).put hi (v / 2 ^ 32)

/-- `n` applications of a state change, for the numbers of a list in order. -/
def State.each (s : State) (l : List Nat) (f : State → Nat → State) : State := l.foldl f s

/-- R82: a word of the calibration block as it was read at the end of the last reset. -/
def State.calWord (s : State) (i : Nat) : Nat := SMap.getD s.boot.cal (BOOT_CAL_DATA i).key (BOOT_CAL_DATA i).reset

/-! ### Output -/

/-- Something sent outward. -/
def State.emit (s : State) (o : Output) : State := { s with out := s.out ++ [o] }

/-- The number of the next free value, and the state in which it has been drawn. -/
def State.draw (s : State) : State := { s with fresh := s.fresh + 1 }

/-- A free value of one bit. -/
def State.freeBit (s : State) : Bool := Config.freeValue s.fresh % 2 == 1

/-! ### Memory -/

/-- The byte at an address: 0 where none is listed. -/
def Memory.read : List Host.Cell → Nat → Byte
  | [], _ => 0
  | (a, b) :: rest, k => if a = k then b else Memory.read rest k

/-- The memory with byte `b` at address `k`; a byte 0 is not listed. -/
def Memory.write (m : List Host.Cell) (k : Nat) (b : Byte) : List Host.Cell :=
  if b = 0 then SMap.erase m k else SMap.insert m k b

/-- The memory with `bs` stored from address `k` on. -/
def Memory.writeList (m : List Host.Cell) (k : Nat) : List Byte → List Host.Cell
  | [] => m
  | b :: rest => Memory.writeList (Memory.write m k b) (k + 1) rest

/-- `n` bytes from address `k` on. -/
def Memory.readList (m : List Host.Cell) (k : Nat) : Nat → List Byte
  | 0 => []
  | n + 1 => Memory.read m k :: Memory.readList m (k + 1) n

/-- The canonical form: strictly rising addresses and no byte 0 listed. -/
def Memory.wf (m : List Host.Cell) : Bool := SMap.sorted m && m.all (fun c => c.2 != 0)

/-- LPDDR5 with `bs` stored from address `k` on. -/
def State.memWrite (s : State) (k : Nat) (bs : List Byte) : State := { s with mem := Memory.writeList s.mem k bs }

/-- `n` bytes of LPDDR5 from address `k` on. -/
def State.memRead (s : State) (k n : Nat) : List Byte := Memory.readList s.mem k n

/-! ### Power domains and modes (R31-R38) -/

def dAON : Nat := 0
def dSV  : Nat := 1
def dHIF : Nat := 2
def dRGE : Nat := 3
def dRGW : Nat := 4
def dTWL : Nat := 5
def dPLD : Nat := 6
def dSIG : Nat := 7
def dNET : Nat := 8
def dVIS : Nat := 9
def dMEM : Nat := 10
/-- The domain of field cluster `n`. -/
def dFC (n : Nat) : Nat := 11 + n

def mOFF : Nat := 0
def mDORMANT : Nat := 1
def mLOADING : Nat := 2
def mACTIVE : Nat := 3
def mLULL : Nat := 4
def mSTANDBY : Nat := 5
def mSERVICE : Nat := 6
def mCONTAINED : Nat := 7

/-- The mode code (R35). -/
def State.mode (s : State) : Nat := s.get GLB_MODE_MODE

/-- The phase of domain `d`. -/
def State.phase (s : State) (d : Nat) : Phase := s.node.phase.getD d .off

/-- Domain `d` is up: powered, isolation released, not fenced (R31). -/
def State.isUp (s : State) (d : Nat) : Bool := (s.get GLB_PD_STATUS).testBit d

/-! ### Pins that follow the mode (R49, R54) -/

/-- R54: this node drives the shared pins. -/
def State.ownsPins (s : State) : Bool := s.flag GLB_PSW_OWN

/-- R49, R54: every shared pin is in Z: `PSW_SENSE` shows the other slot, or the half is in TWIN-STANDBY. -/
def State.sharedZ (s : State) : Bool := s.get GLB_PSW_SENSE != s.get GLB_STRAP_SLOT || s.mode == mSTANDBY

/-- R49: the FSYNC pins: low, Z, or driven by their generators. -/
def State.fsyncPins (s : State) : Nat :=
  if s.sharedZ then 2 else if s.mode = mACTIVE then (if s.ownsPins then 3 else 2) else 0

/-- R49: the TXD pins of cluster `n`: recessive, Z, or driven by their controllers. -/
def State.canPins (s : State) (n : Nat) : Nat :=
  if s.sharedZ then 2
  else if (s.mode = mACTIVE ∨ s.mode = mCONTAINED) ∧ s.isUp (dFC n) then (if s.ownsPins then 3 else 2)
  else 1

/-- R49: the CCI pins: released, or driven. -/
def State.cciPins (s : State) : Nat :=
  if (s.mode = mACTIVE ∨ s.mode = mCONTAINED) ∧ s.ownsPins ∧ s.isUp dVIS then 3 else 2

/-- R49: the SerDes lanes of RGE, RGW, TWL and NET: idle, or active. In LOADING a lane is idle until trained. -/
def State.lanePins (s : State) (d : Nat) : Nat :=
  if !s.isUp d || s.mode == mDORMANT then 2
  else if s.mode = mLOADING ∧ (d = dNET ∨ s.get (RING_PORT_STATUS_STATE (d - dRGE)) < 2) then 2
  else 3

/-- R49, R57: the LPDDR5 pins: 0 with `DDR_RESET_N` low, 1 active, 2 in self-refresh. -/
def State.ddrPins (s : State) : Nat :=
  if s.mode = mDORMANT ∨ s.node.resetKind = some 2 then 0 else if s.mode = mLULL then 2 else 1

/-- R49: the pin groups in one list: 0 FSYNC, 1-6 the TXD pins of FC0-FC5, 7 CCI, 8-11 the lanes of RGE, RGW, TWL and NET,
12 LPDDR5, 13 the outputs of the Dike channels; each 0 low, 1 high, 2 in Z, released or idle, or 3 as its unit drives it. -/
def State.groupLevels (s : State) : List Nat :=
  s.fsyncPins :: (List.range 6).map s.canPins ++ [s.cciPins, s.lanePins dRGE, s.lanePins dRGW, s.lanePins dTWL, s.lanePins dNET, s.ddrPins, if s.sharedZ then 2 else 3]

/-- The pin groups that have changed are shown (output pin group 10). -/
def State.showGroups (s : State) : State :=
  let new := s.groupLevels
  let changed := (List.range 14).filter (fun k => new.getD k 0 != s.node.shown.getD k 0)
  { s with node := { s.node with shown := new }, out := s.out ++ changed.map (fun k => .pin 10 k (new.getD k 0)) }

/-- A mode transition: `PREV` takes the mode left (R35), the pins follow (R49), and a CAN frame in progress may complete (R318). -/
def State.setMode (s : State) (m : Nat) : State :=
  let s := { s with node := { s.node with canDone := [] } }
  ((s.put GLB_MODE_PREV s.mode).put GLB_MODE_MODE m).showGroups

/-- Domain `d` is fenced (R432). -/
def State.isFenced (s : State) (d : Nat) : Bool := (s.get FLT_FENCED).testBit d

/-- Domain `d` is threatened, its intake under flow control (R28). -/
def State.isThreat (s : State) (d : Nat) : Bool := s.node.threat.testBit d

/-- Whether domain `d` drains. -/
def State.isDraining (s : State) (d : Nat) : Bool :=
  s.phase d == .drainRun

/-- R60: HIF is held in its reset state while `PERST_N` is low. -/
def State.hifHeld (s : State) : Bool := s.node.perst

/-- The registers of a domain answer accesses: it is up or still drains before isolation (R492), and not held in reset (R60). -/
def State.accessible (s : State) (d : Nat) : Bool := s.isUp d && !s.isFenced d && !(d == dHIF && s.hifHeld)

/-- AON's registers take accesses: in every mode but OFF (R502), and not while `PERST_N` holds every requester in reset (R57). -/
def State.aonOpen (s : State) : Bool := !s.node.off && !s.node.held

/-- The domains that domain `d` requires (R31), as domain bits. -/
def requiresBits (d : Nat) : Nat :=
  if d = 0 then 0
  else if d = 1 then 0x1
  else if d = 6 ∨ d = 10 then 0x2
  else if d = 7 ∨ d = 9 then 0x440
  else if 11 ≤ d ∧ d ≤ 16 then 0xC0
  else if d ≤ 16 then 0x40
  else 0

/-- A domain that may not be off in ACTIVE (R31). -/
def neverOff (d : Nat) : Bool := d ≤ 2 || d == 6 || d == 10

/-- The phase of domain `d` replaced, and the status registers that show it (R31). -/
def State.setPhase (s : State) (d : Nat) (p : Phase) : State :=
  let s := { s with node := { s.node with phase := updAt s.node.phase d (fun _ => p) } }
  let s := match p with
    | .up => s.orBits GLB_PD_STATUS (1 <<< d)
    | .drainWait | .drainRun => s
    | _ => s.dropBits GLB_PD_STATUS (1 <<< d)
  State.showGroups <| match p with
  | .upWait | .upRun | .drainRun => s.orBits GLB_PD_TRANS (1 <<< d)
  | _ => s.dropBits GLB_PD_TRANS (1 <<< d)

/-- A threat of domain `d` ends (R29). -/
def State.endThreat (s : State) (d : Nat) : State :=
  { s with node := { s.node with threat := clearBit s.node.threat d } }

/-! ### Ring time (R216, R217) -/

/-- Ring time at count `c`, in units of 2^-8 ns modulo 2^72. -/
def State.ringRawAt (s : State) (c : Nat) : Nat :=
  let off := s.get64 TIME_OFFSET_LO TIME_OFFSET_HI * 256 + s.time.offFrac
  let dc : Int := (c : Int) - (s.get64 TIME_ANCHOR_LO TIME_ANCHOR_HI : Int)
  let rate : Int := 2 ^ 40 + sext 32 (s.get TIME_RATE)
  wrapInt 72 ((off : Int) + dc * rate * 256 / 2 ^ 40)

/-- The count. -/
def State.count (s : State) : Nat := s.get64 TIME_COUNT_LO TIME_COUNT_HI

/-- Ring time now in whole nanoseconds (R217). -/
def State.ringTime (s : State) : Nat := s.ringRawAt s.count / 256

/-! ### Interrupt sources (R413-R420) -/

/-- The MSI-X message of a vector: held back as a pending bit while the vector is masked (R109, R110). It waits while host
writes cannot be issued (R499). -/
def State.msix (s : State) (v : Nat) : State :=
  if s.get (MSIX_CTRL v) = 1 ∨ s.hq.funcMask then s.orBits (MSIX_PBA (v / 32)) (1 <<< (v % 32))
  else if s.hq.blocked then { s with hq := { s.hq with heldWrites := s.hq.heldWrites ++ [.msix v] } }
  else s.emit (.msix v)

/-- Shared source `n` becomes pending; a source routed to the host and unmasked sends its vector when the bit rises (R420). -/
def State.pendShared (s : State) (n : Nat) : State :=
  let w := INT_SH_PEND_SET (n / 32)
  if (s.get w).testBit (n % 32) then s
  else
    let s := s.orBits w (1 <<< (n % 32))
    if s.get (INT_SH_ROUTE_TARGET n) = 9 ∧ ¬ (s.get (INT_SH_MASK_SET (n / 32))).testBit (n % 32)
    then s.msix (s.get (INT_SH_ROUTE_VECTOR n)) else s

/-- The domain of the processor of bank `b` (R502). -/
def bankDomain (b : Nat) : Nat := if b = 0 then dSV else if b ≤ 6 then dFC (b - 1) else if b = 7 then dVIS else dNET

/-- Private source `n` of bank `b` becomes pending. A bank whose domain is off is lost with the domain (R422). -/
def State.pendPrivate (s : State) (b n : Nat) : State :=
  if s.isUp (bankDomain b) || s.isFenced (bankDomain b) then
    s.orBits (INT_P_PEND_SET b (n / 32)) (1 <<< (n % 32))
  else s

/-- R413: bit `i` of a field that is the input of an edge source becomes 1: private source `n` of bank `b` becomes pending where the
bit rises. -/
def State.riseBit (s : State) (f : Field) (i b n : Nat) : State :=
  if (s.get f).testBit i then s else (s.orBits f (1 <<< i)).pendPrivate b n

/-- Where a status or error field is the input of a level source of R414 or R438 and `v` makes it high: the shared source
(none, n), or the private source (some bank, n). -/
def levelSource (f : Field) (v : Nat) : Option (Option Nat × Nat) :=
  if v = 0 then none
  else if f.off = 0x60038 then some (none, 640)
  else if f.key = TIME_STATUS_LOCK.key then (if v = 3 then some (none, 641) else none)
  else if f.off = 0x80014 then some (none, 642)
  else if f.key = RING_NODE_HELD_OUT.key then some (none, 643)
  else if f.key = RING_PROT_STATUS_BREAKS.key then some (none, 647)
  else if f.off = 0xB0002C then some (none, 648)
  else if f.key = TWIN_STATUS_STATE.key then (if v = 3 then some (none, 649) else none)
  else if f.key = BOOT_CAL_STATE_ERR.key then some (none, 650)
  else if f.key = BOOT_BAR2_QUEUE_OVERRUN.key then some (none, 651)
  else if f.off = 0xA00004 then some (none, 652)
  else if f.off = 0x210000 then some (some 7, 64)
  else if 0x400000 ≤ f.off ∧ f.off < 0xA00000 then
    let n := (f.off - 0x400000) / 0x100000
    let r := f.off % 0x100000
    if r = 0 then some (some (n + 1), 224)
    else if 0x4000 ≤ r ∧ r < 0x4800 ∧ r % 0x40 = 0x14 then some (some (n + 1), 192 + (r - 0x4000) / 0x40)
    else if 0x20000 ≤ r ∧ r < 0x60000 ∧ 0x50 ≤ r % 0x8000 ∧ r % 0x8000 < 0x60 then
      some (some (n + 1), 128 + 8 * ((r - 0x20000) / 0x8000) + 7)
    else none
  else none

/-- A status or error field written, its level source becoming pending where the input is high (R413). -/
def State.putLevel (s : State) (f : Field) (v : Nat) : State :=
  match levelSource f v with
  | some (none, n) => (s.put f v).pendShared n
  | some (some b, n) => (s.put f v).pendPrivate b n
  | none => s.put f v

/-- A flag set by the hardware. -/
def State.raise (s : State) (f : Field) : State := s.putLevel f 1

/-! ### Host writes (R499) -/

/-- A posted write in host memory, held in order while host writes cannot be issued. -/
def State.hostWrite (s : State) (addr : Nat) (bytes : List Byte) : State :=
  if s.hq.blocked then { s with hq := { s.hq with heldWrites := s.hq.heldWrites ++ [.hostWrite addr bytes] } }
  else s.emit (.hostWrite addr bytes)

/-! ### The node's own K-frames (R153-R163) -/

/-- The state of ring port `p`: 0 DOWN, 1 TRAINING, 2 UP, 3 HOLD, 4 REDIRECT, 5 LULL (R141, R175). -/
def State.portState (s : State) (p : Nat) : Nat := s.get (RING_PORT_STATUS_STATE p)

/-- The node's ID (R148). -/
def State.nodeId (s : State) : Nat := s.get RING_NODE_ID

/-- A frame for ring port `p` leaves through it, is turned onto the other ring port where `p` cannot take it, and is held
where neither can (R156). The twin port turns nothing. -/
def State.sendOn (s : State) (p dst seq : Nat) (body : KBody) : State :=
  if s.portState p = 2 then s.emit (ownFrame s.nodeId p false dst seq body)
  else if p ≤ 1 ∧ s.portState (1 - p) = 2 then
    (s.inc (RING_PORT_CNT_WRAP p)).emit (ownFrame s.nodeId (1 - p) true dst seq body)
  else { s with ring := { s.ring with heldFrames := s.ring.heldFrames ++ [{ port := p, dst, seq, body }] } }

/-- A broadcast of this node: the next broadcast number, out of the East port (R153, R155). A held-out node originates
none (R151). -/
def State.broadcast (s : State) (body : KBody) : State :=
  if s.flag RING_NODE_HELD_OUT then s
  else
    let q := (s.ring.bseq + 1) % 65536
    State.sendOn { s with ring := { s.ring with bseq := q } } 0 (255 * 4096) q body

/-- The position of a node in the ring map (R150). -/
def State.posOf (s : State) (n : Nat) : Option Nat :=
  if n = 0 then none else findIdxFrom (fun x => x == n) s.ring.map 0

/-- Nodes of the ring map other than this one. -/
def State.otherNodes (s : State) : List Nat := s.ring.map.filter (fun n => n != 0 && n != s.nodeId)

/-- Whether the way from position `a` on ring A over `hops` segments crosses a break reported by PROTECT (R153). A break
at a node's East port lies between its position and the next; one at its West port lies before its position. -/
def State.crosses (s : State) (a hops : Nat) : Bool :=
  let n := s.ring.map.length
  s.ring.breaks.any fun (node, port, _) =>
    match s.posOf node with
    | none => false
    | some q =>
      let seg := if port = 0 then q else (q + n - 1) % n
      (seg + n - a % n) % n < hops

/-- The position of a destination: that from which the pair's EP_STATE came for a pair's endpoints 0x100 and above, and the
node's place in the ring map otherwise (R395). -/
def State.destPos (s : State) (node ep : Nat) : Option Nat :=
  if 0x100 ≤ ep then
    match SMap.find s.ring.pairPos node with
    | some p => some p
    | none => s.posOf node
  else s.posOf node

/-- The port by which a unicast for an endpoint of node `dst` leaves: fewer hops, ring A on a tie, no direction that crosses a
break (R153). None when the destination counts as absent. -/
def State.routePort (s : State) (dst ep : Nat) : Option Nat :=
  let n := s.ring.map.length
  match s.destPos dst ep, s.posOf s.nodeId with
  | some pd, some ps =>
    let ha := (pd + n - ps) % n
    let hb := n - ha
    let okA := ! s.crosses ps ha
    let okB := ! s.crosses pd hb
    if okA && (ha ≤ hb || !okB) then some 0 else if okB then some 1 else none
  | _, _ => none

/-- A unicast for endpoint `ep` of node `dst` can leave now: the destination does not count as absent and a ring port is UP
(R153, R156). -/
def State.reaches (s : State) (dst ep : Nat) : Bool :=
  !s.flag RING_NODE_HELD_OUT && (s.routePort dst ep).isSome && (s.portState 0 == 2 || s.portState 1 == 2)

/-- A unicast of this node's own for endpoint address `node`·4096 + `ep`. Without a ring map it goes back by port `back`
(R153). -/
def State.unicast (s : State) (node ep seq : Nat) (body : KBody) (back : Nat) : State :=
  if s.flag RING_NODE_HELD_OUT then s
  else if s.ring.map = [] then s.sendOn back (node * 4096 + ep) seq body
  else match s.routePort node ep with
    | some p => s.sendOn p (node * 4096 + ep) seq body
    | none => { s with ring := { s.ring with heldFrames := s.ring.heldFrames ++ [{ port := 0, dst := node * 4096 + ep, seq, body }] } }

/-- The drain bits of this node's own domains. -/
def State.drainingBits (s : State) : Nat :=
  ((List.range 17).filter (fun d => s.isDraining d)).foldl setBit 0

/-- The EP_STATE frame of the present state with the given entries (R163). -/
def State.epFrame (s : State) (pair full more : Bool) (entries : List (Nat × Nat)) : KBody :=
  .epState pair s.ring.epVersion (s.get GLB_PD_STATUS) s.drainingBits (s.get FLT_FENCED) full more entries

/-- EP_STATE with `FULL` = 0 of the present version, for the given entries: one frame of a single node; of a twin half one for
its endpoint 0x000 and, while it owns the pins, one for the pair's endpoints (R395). A node without an ID has no endpoint address and
sends none (R147). -/
def State.sendEpChange (s : State) (entries : List (Nat × Nat)) : State :=
  if s.nodeId = 0 then s
  else if s.node.twinRole = .single then s.broadcast (s.epFrame false false false entries)
  else
    let s := s.broadcast (s.epFrame false false false (entries.filter (fun e => e.1 < 0x100)))
    if s.flag GLB_PSW_OWN then s.broadcast (s.epFrame true false false (entries.filter (fun e => 0x100 ≤ e.1))) else s

/-- A change of the node's own endpoint state: the next `VERSION`, and EP_STATE with `FULL` = 0 broadcast (R163). -/
def State.epChange (s : State) (entries : List (Nat × Nat)) : State :=
  State.sendEpChange { s with ring := { s.ring with epVersion := (s.ring.epVersion + 1) % 2 ^ 32 } } entries

/-- R451: a Dike channel with `EN` = 1 that withholds PG feeds endpoint `ep`. -/
def State.dikeDown (s : State) (ep : Nat) : Bool :=
  0x100 ≤ ep && (List.range 16).any fun c => s.flag (DIKE_CH_CFG_EN c) && !s.flag (DIKE_CH_STATUS_PG c)
    && (List.range 4).any (fun k => s.flag (DIKE_CH_BIND_EN c k) && s.get (DIKE_CH_BIND_FIRST c k) ≤ ep
      && ep ≤ s.get (DIKE_CH_BIND_LAST c k))

/-- Endpoint `ep` is configured for the opcodes of `ops` (bits [16:12] of R163, from bit 0), or withdrawn with 0. -/
def State.announce (s : State) (ep ops : Nat) : State :=
  if SMap.getD s.ring.ownEps ep 0 = ops then s
  else
    let m := if ops = 0 then SMap.erase s.ring.ownEps ep else SMap.insert s.ring.ownEps ep ops
    -- R451: an endpoint announced while its Dike channel withholds PG is a down port.
    let flaps := if ops ≠ 0 ∧ s.dikeDown ep ∧ (SMap.find s.dlv.flaps ep).isNone then SMap.insert s.dlv.flaps ep .hold
      else s.dlv.flaps
    State.epChange { s with ring := { s.ring with ownEps := m }, dlv := { s.dlv with flaps := flaps } } [(ep, ops)]

/-- The frames of a full sequence: at most 507 entries in one payload of 2,048 bytes. -/
def epChunks : Nat → List (Nat × Nat) → List (List (Nat × Nat))
  | 0, _ => []
  | fuel + 1, l => if l.length ≤ 507 then [l] else l.take 507 :: epChunks fuel (l.drop 507)

/-- The frames of a full sequence sent in order, `MORE` set on all but the last (R163). -/
def State.sendChunks (s : State) (pair : Bool) : List (List (Nat × Nat)) → State
  | [] => s
  | [l] => s.broadcast (s.epFrame pair true false l)
  | l :: rest => State.sendChunks (s.broadcast (s.epFrame pair true true l)) pair rest

/-- The node's full endpoint state as a sequence of frames (R163), split as R395 says at a twin half. -/
def State.sendFullState (s : State) : State :=
  let l := s.ring.ownEps
  if s.nodeId = 0 then s
  else if s.node.twinRole = .single then s.sendChunks false (epChunks (l.length + 1) l)
  else
    let s := s.sendChunks false (epChunks (l.length + 1) (l.filter (fun e => e.1 < 0x100)))
    if s.flag GLB_PSW_OWN then s.sendChunks true (epChunks (l.length + 1) (l.filter (fun e => 0x100 ≤ e.1))) else s

end Sys2Proof.Machine
end

