-- ==== Sys2Proof/Machine/ClusterOps.lean ====
section
/-! DEFINITION. Field clusters (R249-R262, R289, R299): pins and what drives them, the port FIFOs and their watermarks, and the
halt of a PIO engine: what the stops of the fault hub need of a cluster. -/

namespace Sys2Proof.Machine

open Sys2Proof.Machine.Reg

/-! ### The state of a cluster -/

/-- Cluster `n`. -/
def State.cl (s : State) (n : Nat) : Cluster := SMap.getD s.fc n {}

/-- Cluster `n` replaced. -/
def State.setCl (s : State) (n : Nat) (c : Cluster) : State := { s with fc := SMap.insert s.fc n c }

/-- Port `q` of cluster `n`. -/
def State.portSt (s : State) (n q : Nat) : PortSt := SMap.getD (s.cl n).ports q {}

/-- Port `q` of cluster `n` replaced. -/
def State.setPortSt (s : State) (n q : Nat) (x : PortSt) : State :=
  let c := s.cl n
  s.setCl n { c with ports := SMap.insert c.ports q x }

/-- Line `p` of cluster `n`. -/
def State.line (s : State) (n p : Nat) : LineSt := SMap.getD (s.cl n).lines p {}

/-- Line `p` of cluster `n` replaced, and `USED` of its timed queue. -/
def State.setLine (s : State) (n p : Nat) (x : LineSt) : State :=
  let c := s.cl n
  (s.setCl n { c with lines := SMap.insert c.lines p x }).put (FC_DIO_QUEUE n p) x.queue.length

/-- PIO group `g` of cluster `n`. -/
def State.group (s : State) (n g : Nat) : GroupSt := SMap.getD (s.cl n).groups g {}

/-- PIO group `g` of cluster `n` replaced. -/
def State.setGroup (s : State) (n g : Nat) (x : GroupSt) : State :=
  let c := s.cl n
  s.setCl n { c with groups := SMap.insert c.groups g x }

/-- Engine `e` of a group. -/
def State.eng (s : State) (n g e : Nat) : EngSt := SMap.getD (s.group n g).engs e {}

/-- Engine `e` of a group replaced. -/
def State.setEng (s : State) (n g e : Nat) (x : EngSt) : State :=
  let y := s.group n g
  s.setGroup n g { y with engs := SMap.insert y.engs e x }

/-- CAN controller `c` of cluster `n`. -/
def State.can (s : State) (n c : Nat) : CanSt := SMap.getD (s.cl n).cans c {}

/-- CAN controller `c` of cluster `n` replaced. -/
def State.setCan (s : State) (n c : Nat) (x : CanSt) : State :=
  let y := s.cl n
  s.setCl n { y with cans := SMap.insert y.cans c x }

/-! ### Pins (R49-R54, R249) -/

/-- R49: the outputs of cluster `n` hold: they keep their last level whatever their drivers do. -/
def State.holdsPins (s : State) (n : Nat) : Bool :=
  !s.isUp (dFC n) || s.mode == mSERVICE || s.mode == mLULL || s.mode == mDORMANT || s.mode == mOFF
  || (s.mode == mLOADING && s.get GLB_RST_CAUSE_KIND != 0)

/-- R49, R50, R54: an output of cluster `n` whose latch shows `latch`, before its own driver is looked at: what it shows, or none where
the running cluster drives it. -/
def State.outShown (s : State) (n latch : Nat) : Option Nat :=
  if s.sharedZ then some 2
  else if s.isFenced (dFC n) then some (if (s.get GLB_PIN_POLICY_FENCE_HOLD).testBit n ∧ s.ownsPins then latch else 2)
  else if s.mode = mLOADING ∧ s.get GLB_RST_CAUSE_KIND ≠ 0 then some (if (s.get GLB_PIN_POLICY_RST_HOLD).testBit n then latch else 2)
  else if !s.ownsPins then some 2
  else if s.holdsPins n then some latch
  else none

/-- What a latch of a level and an output enable shows at bit `p`: 0, 1, or 2 for Z. -/
def latchAt (out oe p : Nat) : Nat := if oe.testBit p then b2n (out.testBit p) else 2

/-- R49, R50, R54, R249: what pin `p` of cluster `n` shows: 0, 1, or 2 for Z. A pin that has left Hold and has no driver yet starts at
its held level (R52). -/
def State.pinShown (s : State) (n p : Nat) : Nat :=
  let c := s.cl n
  let latch := latchAt c.pinOut c.pinOe p
  (s.outShown n latch).getD (if s.get (FC_PIN_CFG_FUNC n p) = 3 ∧ ¬ c.resume.testBit p then 2 else latch)

/-- R49, R50, R54, R251: what `FLOW`[m] shows: 0, 1, or 2 for Z. It holds or goes to Z as its source cluster gives. -/
def State.flowShown (s : State) (m : Nat) : Nat :=
  let latch := latchAt (s.cl 0).flow (s.cl 0).flowOe m
  (s.outShown (s.get (FC0_FLOW_CFG_CLUSTER m)) latch).getD latch

/-- The field pins and `FLOW` pins that show another level than before. -/
def State.showPins (before s : State) : State :=
  let pins := before.fc.flatMap (fun e => ((bitList e.2.pinOe 64).filter (fun p => before.pinShown e.1 p != s.pinShown e.1 p)).map
    (fun p => Output.pin 3 (64 * e.1 + p) (s.pinShown e.1 p)))
  let flows := ((bitList (before.cl 0).flowOe 8).filter (fun m => before.flowShown m != s.flowShown m)).map
    (fun m => Output.pin 8 m (s.flowShown m))
  { s with out := s.out ++ (pins ++ flows) }

/-- R52: a driver sets the level and the output enable of a pin. A cluster that holds its outputs keeps their levels. -/
def State.drivePin (s : State) (n p : Nat) (level oe : Bool) : State :=
  if s.holdsPins n then s
  else
    let before := s.pinShown n p
    let c := s.cl n
    let s := s.setCl n { c with
      pinOut := if level then setBit c.pinOut p else clearBit c.pinOut p
      pinOe := if oe then setBit c.pinOe p else clearBit c.pinOe p
      resume := clearBit c.resume p }
    let after := s.pinShown n p
    if after = before then s else s.emit (.pin 3 (64 * n + p) after)

/-- The watermark state of a port in a direction (0 RX, 1 TX). -/
def State.above (s : State) (n q dir : Nat) : Bool :=
  s.flag (if dir = 0 then FC_PORT_STATUS_RX_ABOVE n q else FC_PORT_STATUS_TX_ABOVE n q)

/-- R249: a FLOW_OUT pin follows its port's watermark state. -/
def State.driveFlowPin (s : State) (n p : Nat) : State :=
  if s.get (FC_PIN_CFG_FUNC n p) = 2 then
    s.drivePin n p (s.above n (s.get (FC_PIN_CFG_FLOW_PORT n p)) (s.get (FC_PIN_CFG_FLOW_DIR n p))
      != s.flag (FC_PIN_CFG_FLOW_POL n p)) true
  else s

/-- R251: the latch of `FLOW`[m] takes its port's watermark state while FC0 and its source cluster are up. -/
def State.setFlow (s : State) (m : Nat) : State :=
  let n := s.get (FC0_FLOW_CFG_CLUSTER m)
  if s.flag (FC0_FLOW_CFG_EN m) ∧ ¬ s.holdsPins 0 ∧ ¬ s.holdsPins n then
    let level := s.above n (s.get (FC0_FLOW_CFG_PORT m)) (s.get (FC0_FLOW_CFG_DIR m)) != s.flag (FC0_FLOW_CFG_POL m)
    let c := s.cl 0
    s.setCl 0 { c with flow := if level then setBit c.flow m else clearBit c.flow m, flowOe := setBit c.flowOe m }
  else s

/-- R251: `FLOW`[m] follows its port's watermark state. -/
def State.driveFlow (s : State) (m : Nat) : State :=
  let before := s.flowShown m
  let s := s.setFlow m
  if s.flowShown m = before then s else s.emit (.pin 8 m (s.flowShown m))

/-- R249, R251: the pins that show a port's watermark state follow it. -/
def State.showFlow (s : State) (n q dir : Nat) : State :=
  let s := s.each ((List.range 64).filter (fun p => s.get (FC_PIN_CFG_FUNC n p) == 2 && s.get (FC_PIN_CFG_FLOW_PORT n p) == q
    && s.get (FC_PIN_CFG_FLOW_DIR n p) == dir)) (fun s p => s.driveFlowPin n p)
  s.each ((List.range 8).filter (fun m => s.get (FC0_FLOW_CFG_CLUSTER m) == n && s.get (FC0_FLOW_CFG_PORT m) == q
    && s.get (FC0_FLOW_CFG_DIR m) == dir)) State.driveFlow

/-! ### Port FIFOs (R252-R259) -/

/-- Bytes of a list of words. -/
def wordsFill (ws : List FWord) : Nat := (ws.map (fun w => w.bytes.length)).sum

/-- R252: the fill of a FIFO. -/
def Fifo.fill (f : Fifo) : Nat := wordsFill f.filling + wordsFill f.draining

/-- R258: the watermark state at a fill, from its value before. -/
def aboveNext (fill hi lo : Nat) (before : Bool) : Bool := if hi ≤ fill then true else if fill ≤ lo then false else before

/-- R28, R259: the RX watermark states of cluster `n` are forced. -/
def State.fcForced (s : State) (n : Nat) : Bool := s.isThreat dPLD || s.isThreat (dFC n)

/-- R252, R258, R259: `STATUS` of port `q` as the FIFOs stand, and the pins that show it. -/
def State.showPort (s : State) (n q : Nat) : State :=
  let x := s.portSt n q
  let forced := s.fcForced n
  let ra := forced || aboveNext x.rx.fill (s.get (FC_PORT_RXWM_HI n q)) (s.get (FC_PORT_RXWM_LO n q)) (s.above n q 0)
  let ta := aboveNext x.tx.fill (s.get (FC_PORT_TXWM_HI n q)) (s.get (FC_PORT_TXWM_LO n q)) (s.above n q 1)
  let ra0 := s.above n q 0
  let ta0 := s.above n q 1
  let s := ((s.put (FC_PORT_STATUS_RX_FILL n q) x.rx.fill).put (FC_PORT_STATUS_TX_FILL n q) x.tx.fill).put
    (FC_PORT_STATUS_RX_FORCED n q) (b2n forced)
  let s := ((s.put (FC_PORT_STATUS_RX_ABOVE n q) (b2n ra)).put (FC_PORT_STATUS_TX_ABOVE n q) (b2n ta)).put
    (FC_PORT_STATUS_FLUSH_BUSY n q) (b2n (x.flushRx || x.flushTx))
  let s := if ra = ra0 then s else s.showFlow n q 0
  if ta = ta0 then s else s.showFlow n q 1

/-- R259: every port of cluster `n` brought up to date, as a threat starts or ends. -/
def State.showCluster (s : State) (n : Nat) : State := s.each (List.range 32) (fun s q => s.showPort n q)

/-- R28, R259: the clusters that a threat of domain `d` concerns brought up to date. -/
def State.showForced (s : State) (d : Nat) : State :=
  if d = dPLD then s.each (List.range 6) State.showCluster
  else if dFC 0 ≤ d ∧ d ≤ dFC 5 then s.showCluster (d - dFC 0) else s

/-- R254: a word is closed: it is full or the last of its packet. -/
def FWord.closed (w : FWord) : Bool := w.eop || w.bytes.length == 32

/-- R254: the banks swap where they may. An open word at the end of the filling bank stays in it (notes/assumptions/40.md). -/
def Fifo.swap (f : Fifo) : Fifo :=
  if f.draining = [] ∧ ((8 ≤ f.filling.length ∧ f.filling.all FWord.closed) ∨ f.filling.any (fun w => w.eop)) then
    { filling := f.filling.filter (fun w => !w.closed), draining := f.filling.filter FWord.closed }
  else f

/-- Room in the filling bank for a new word. -/
def Fifo.room (f : Fifo) : Bool := f.filling.length < 8

/-- The last word of a list changed. -/
def updLast (ws : List FWord) (f : FWord → FWord) : List FWord := updAt ws (ws.length - 1) f

/-- R254, R256: the last word that the RX side holds of the packet being pushed takes its tag. Where the slice has read that
word already, an empty word ends its frame (R254). -/
def PortSt.tagLast (x : PortSt) (err : Bool) (detail : Nat) : PortSt :=
  let tag (w : FWord) : FWord := { w with eop := true, err, detail }
  let open' (ws : List FWord) : Bool := ws.getLast?.any (fun w => !w.eop)
  if open' x.rx.filling then { x with rx := { x.rx with filling := updLast x.rx.filling tag } }
  else if open' x.rx.draining then { x with rx := { x.rx with draining := updLast x.rx.draining tag } }
  else { x with rx := { x.rx with draining := x.rx.draining ++ [{ bytes := [], eop := true, err, detail }] } }

/-- R256, R261, R287: the packet being pushed is closed. -/
def PortSt.closeRx (x : PortSt) (err : Bool) (detail : Nat) : PortSt :=
  let err := err || x.rxErr
  if x.rxLen = 0 then { x with rxErr := false }
  else
    let x := x.tagLast err (detail ||| (2 * b2n err))
    { x with rx := x.rx.swap, rxOpen := false, rxLen := 0, rxErr := false }

/-- R261: `DROP_RX`: the packet being pushed is closed with `ERR`, and the rest of it discarded. -/
def PortSt.dropRx (x : PortSt) : PortSt := { x.closeRx true 4 with rxSkip := true }

/-- R253, R257: one byte pushed. The second part says that it found both banks full. -/
def PortSt.pushByte (x : PortSt) (b : Byte) : PortSt × Bool :=
  if x.rxOpen then
    let f := { x.rx with filling := updLast x.rx.filling (fun w => { w with bytes := w.bytes ++ [b] }) }
    let full := match f.filling.getLast? with
      | some w => w.bytes.length == 32
      | none => true
    ({ x with rx := f, rxOpen := !full, rxLen := x.rxLen + 1 }, false)
  else
    let f := x.rx.swap
    if f.room then
      ({ x with rx := { f with filling := f.filling ++ [{ bytes := [b] }] }, rxOpen := true, rxLen := x.rxLen + 1 }, false)
    else ({ x with rx := f, rxErr := true }, true)

/-! ### Halting an engine (R289) -/

/-- R261: the TX packet of a port in progress ends: what the FIFO and the slice still hold of it is released unsent. -/
def PortSt.dropTx (x : PortSt) (key : Nat × Nat × Nat) : PortSt :=
  let keep (w : FWord) : Bool := w.key != key
  { x with
    tx := Fifo.swap { filling := x.tx.filling.filter keep, draining := x.tx.draining.filter keep }
    txCur := x.txCur.filter (fun e => e.1 != key)
    txPkt := none }

/-- The state code of an engine (R291): 0 HALTED, 1 RUNNING, 2 STALLED, 3 PAUSED. -/
def State.engState (s : State) (n g e : Nat) : Nat := s.get (FC_PIO_ENG_STATUS_STATE n g e)

/-- R291, R294: an engine changes state, as `STATUS` and `STATE` show it. -/
def State.setEngState (s : State) (n g e st : Nat) : State :=
  let s := s.put (FC_PIO_ENG_STATUS_STATE n g e) st
  let s := if st = 0 then s.dropBits (FC_PIO_STATE_RUNNING n g) (1 <<< e) else s.orBits (FC_PIO_STATE_RUNNING n g) (1 <<< e)
  if st = 2 then s.orBits (FC_PIO_STATE_STALLED n g) (1 <<< e) else s.dropBits (FC_PIO_STATE_STALLED n g) (1 <<< e)

/-- R289: engine `e` halts. A shift between its groups or its bits sets `ABORTED`; a TX packet begun and not ended is dropped,
its acknowledgement with `detail` owed; an open RX packet is closed as by `DROP_RX`. -/
def State.haltEngine (s : State) (n g e detail : Nat) : State :=
  if s.engState n g e = 0 then s
  else
    let x := s.eng n g e
    let s := if x.mid ∨ x.stall = .stretch then s.put (FC_PIO_ENG_STATUS_ABORTED n g e) 1 else s
    let s := (s.setEngState n g e 0).setEng n g e { x with
      delay := false, stall := .none, mid := false, left := 0, freeWait := false }
    let q := 8 * g + s.get (FC_PIO_ENG_PORTS_TX_PORT n g e)
    let s := if s.flag (FC_PIO_ENG_PORTS_TX_USE n g e) then
        (match (s.portSt n q).txPkt with
         | some (key, _) =>
           let s := (s.setPortSt n q ((s.portSt n q).dropTx key)).showPort n q
           { s with dlv := { s.dlv with owedFail := s.dlv.owedFail ++ [(key, detail)] } }
         | none => s)
      else s
    let r := 8 * g + s.get (FC_PIO_ENG_PORTS_RX_PORT n g e)
    if s.flag (FC_PIO_ENG_PORTS_RX_USE n g e) ∧ (s.portSt n r).rxLen ≠ 0 then
      (s.setPortSt n r (s.portSt n r).dropRx).showPort n r
    else s

/-- R289, R293, R431: every engine of a group halts. -/
def State.haltGroup (s : State) (n g detail : Nat) : State := s.each (List.range 8) (fun s e => s.haltEngine n g e detail)

/-! ### Pauses (R291) -/

/-- R291: a stalled WAIT, and a PULL stalled at a packet's first byte, pause at once when the node enters SERVICE. -/
def State.pauseWaits (s : State) : State :=
  s.each (List.range 192) (fun s i =>
    let n := i / 32
    let g := i / 8 % 4
    let e := i % 8
    if s.engState n g e = 2 ∧ ((s.eng n g e).stall = .wait ∨ (s.eng n g e).stall = .pull) then
      let x := s.eng n g e
      (s.setEngState n g e 3).setEng n g e { x with stall := .none }
    else s)

/-- R291: paused engines run on when the node returns to ACTIVE. A WAIT starts from scratch. -/
def State.resumeEngines (s : State) : State :=
  s.each (List.range 192) (fun s i =>
    let n := i / 32
    let g := i / 8 % 4
    let e := i % 8
    if s.engState n g e = 3 then s.setEngState n g e 1 else s)

/-! ### Stopping a controller (R299, R318) -/

/-- A controller in CONFIG, with nothing in its objects and its queue. -/
def State.canConfig (s : State) (n c : Nat) : State :=
  let s := (s.put (FC_CAN_CFG_EN n c) 0).put (FC_CAN_STATUS_STATE n c) 0
  let s := s.each (List.range 4) (fun s m => s.put (FC_CAN_TXPEND n c m) 0)
  s.setCan n c {}

end Sys2Proof.Machine
end

