-- ==== Sys2Proof/Machine/Protect.lean ====
section
/-! DEFINITION. Ring protection (R152, R153, R156, R158, R159): breaks in force, wraps and their release, and the Lull round that a
protection event voids (R168-R170). -/

namespace Sys2Proof.Machine

open Sys2Proof.Machine.Reg

/-- R168: the node sends a LULL_VOID with a reason: IDLE again, and a later COMMIT of the round is discarded (R170). -/
def State.voidRound (s : State) (reason : Nat) : State :=
  let s := s.put RING_LULL_STATUS_STATE 0
  let s := { s with ring := { s.ring with lullVoided := s.ring.lullRound :: s.ring.lullVoided } }
  s.broadcast (.lullVoid s.ring.lullRound reason)

/-- R170: a node that has consented voids the round with a reason of R169; at the root the round ends VOIDED. -/
def State.voidBy (s : State) (reason : Nat) : State :=
  if s.get RING_LULL_STATUS_STATE = 1 then
    let s := s.voidRound reason
    if s.get RING_LULL_STATUS_RESULT = 1 then
      (s.put RING_LULL_STATUS_RESULT 4).put RING_LULL_STATUS_LAST_REASON reason
    else s
  else s

/-- The segment of the ring that a break at a node's port lies on. -/
def State.segOf (s : State) (node port : Nat) : Option Nat :=
  match s.posOf node with
  | some q => some (if port = 0 then q else (q + s.ring.map.length - 1) % s.ring.map.length)
  | none => none

/-- R174: `BREAKS` counts the segments broken, and `FIRST_WRAP` names the first node whose WRAP is in force. -/
def State.showBreaks (s : State) : State :=
  let segs := (s.ring.breaks.map (fun b => match s.segOf b.1 b.2.1 with
    | some q => 2 * q
    | none => 2 * (b.1 * 2 + b.2.1) + 1)).eraseDups
  (s.putLevel RING_PROT_STATUS_BREAKS (min 2 segs.length)).put RING_PROT_STATUS_FIRST_WRAP
    ((s.ring.breaks.head?.map (fun b => b.1)).getD 0)

/-- R153, R159: a WRAP of a port of a node is in force from its `SEQ` on, unless a later RELEASE has come before it. -/
def State.addBreak (s : State) (node port seq : Nat) : State :=
  if s.ring.released.any (fun b => b.1 == node && b.2.1 == port && !laterThan 16 seq b.2.2) then s
  else if s.ring.breaks.any (fun b => b.1 == node && b.2.1 == port) then
    State.showBreaks { s with ring := { s.ring with breaks := s.ring.breaks.map (fun b =>
      if b.1 = node ∧ b.2.1 = port ∧ laterThan 16 seq b.2.2 then (node, port, seq) else b) } }
  else State.showBreaks { s with ring := { s.ring with breaks := s.ring.breaks ++ [(node, port, seq)] } }

/-- R153, R159: a RELEASE with a later `SEQ` ends the WRAP of a port of a node. Its `SEQ` is kept, so that an earlier WRAP that arrives
after it stays out of force. -/
def State.dropBreak (s : State) (node port seq : Nat) : State :=
  let same (b : Nat × Nat × Nat) : Bool := b.1 == node && b.2.1 == port
  if s.ring.released.any (fun b => same b && laterThan 16 b.2.2 seq) then s
  else State.showBreaks { s with ring := { s.ring with
    breaks := s.ring.breaks.filter (fun b => !(same b && (laterThan 16 seq b.2.2 || seq == b.2.2)))
    released := s.ring.released.filter (fun b => !same b) ++ [(node, port, seq)] } }

/-- The wrap flag of ring port `p` (R174). -/
def wrapField (p : Nat) : Field := if p = 0 then RING_PROT_STATUS_WRAP_E else RING_PROT_STATUS_WRAP_W

/-- R152, R168: ENUM sent on both rings by the root; a Lull round in progress is voided. -/
def State.startEnum (s : State) : State :=
  let round := (s.get RING_ENUM_STATUS_ROUND + 1) % 65536
  let s := s.voidBy 12
  let s := (s.put RING_ENUM_STATUS_ROUND round).put RING_ENUM_STATUS_STATE 1
  let q := (s.ring.bseq + 1) % 65536
  let s := { s with ring := { s.ring with reports := [], enumBack := false, enumAgain := false, bseq := q } }
  (s.sendOn 0 (255 * 4096) q (.enum round)).sendOn 1 (255 * 4096) q (.enum round)

/-- The root with its ring services running. -/
def State.rootRuns (s : State) : Bool := s.flag RING_NODE_ROOT && s.flag RING_CTRL_EN

/-- R152: a protection event at the root: an enumeration in progress is abandoned and starts again 2 ms later; a RELEASE starts
one. -/
def State.protectionEvent (s : State) (release : Bool) : State :=
  if ¬ s.rootRuns then s
  else if s.get RING_ENUM_STATUS_STATE = 1 then
    { s.put RING_ENUM_STATUS_STATE 0 with ring := { s.ring with enumAgain := true } }
  else if release then s.startEnum else s

/-- R156: the node wraps at ring port `p` and broadcasts PROTECT WRAP. -/
def State.wrapPort (s : State) (p : Nat) : State :=
  let s := (s.put (wrapField p) 1).voidBy 11
  let s := s.broadcast (.protect 1 p)
  (s.addBreak s.nodeId p s.ring.bseq).protectionEvent false

/-- R158: the node releases its wrap at ring port `p` and broadcasts PROTECT RELEASE. -/
def State.unwrapPort (s : State) (p : Nat) : State :=
  let s := s.put (wrapField p) 0
  let s := s.broadcast (.protect 2 p)
  (s.dropBreak s.nodeId p s.ring.bseq).protectionEvent true

end Sys2Proof.Machine
end

