-- ==== Sys2Proof/Machine/Stops.lean ====
section
/-! DEFINITION. Taking a unit out of service: STOP of R431 for each unit that has one, and the stop of a domain's units when
the domain is fenced or isolated (R433). -/

namespace Sys2Proof.Machine

open Sys2Proof.Machine.Reg

/-- R502: the power domain of the register at an offset. The private banks follow their processors. -/
def regDomain (off : Nat) : Nat :=
  if off < 0x10000 then dAON
  else if off < 0x20000 then (if 0x10080 ≤ off ∧ off < 0x10088 ∨ 0x11000 ≤ off then dAON else dSV)
  else if off < 0x30000 then dHIF
  else if off < 0x40000 then (if off < 0x39000 then bankDomain ((off - 0x30000) / 0x1000) else dSV)
  else if off < 0x80000 then dAON
  else if off < 0xC0000 then
    (if off = 0x80000 ∨ (0x80040 ≤ off ∧ off < 0x80060) ∨ off = 0x8000C ∨ off = 0x80010 ∨ off = 0x80200 ∨ off = 0x80210
     then dAON
     else if 0x80020 ≤ off ∧ off < 0x8002C then dRGE + (off - 0x80020) / 4
     else if 0x80100 ≤ off ∧ off < 0x80160 then dRGE + (off - 0x80100) / 0x20
     else dSV)
  else if off < 0x100000 then dPLD
  else if off < 0x200000 then dNET
  else if off < 0x400000 then dVIS
  else if off < 0xA00000 then dFC ((off - 0x400000) / 0x100000)
  else if off < 0xB00000 then dSIG
  else if off < 0xC00000 then dSV
  else dMEM

/-- R422: a mask or a priority of a private bank, which the supervisor writes back from its LPDDR5 copy when the bank's domain
comes up. -/
def bankSetting (off : Nat) : Bool :=
  decide (0x30000 ≤ off ∧ off < 0x39000) && (decide (0x40 ≤ off % 0x1000 ∧ off % 0x1000 < 0x60) ||
    decide (0x100 ≤ off % 0x1000 ∧ off % 0x1000 < 0x180))

/-- The register fields of domain `d` at their reset values, as after power-up. -/
def State.clearRegs (s : State) (d : Nat) : State :=
  { s with regs := s.regs.filter (fun e => regDomain (e.1 / 32) != d || bankSetting (e.1 / 32)) }

/-- R141: the register fields of domain `d` after a wake from LULL: those of the units at their reset values, while the state of a ring port, which
woke before its domain's other registers, stays. -/
def State.wakeRegs (s : State) (d : Nat) : State :=
  { s with regs := s.regs.filter (fun e => regDomain (e.1 / 32) != d || bankSetting (e.1 / 32)
    || decide (0x80020 ≤ e.1 / 32 ∧ e.1 / 32 < 0x8002C)) }

/-- A stored field that is configuration: its access code is RW. The bulk-queue registers count whole (R339, R342). -/
def isConfigKey (key : Nat) : Bool :=
  (decide (0xA40000 * 32 ≤ key) && decide (key < 0xA42000 * 32)) ||
  match regAt (key / 32) with
  | some (_, fs) => fs.any (fun e => e.1.key == key && e.2 == .rw)
  | none => false

/-- The configuration of domain `d` as it stands. -/
def State.configOf (s : State) (d : Nat) : List (Nat × Nat) :=
  s.regs.filter (fun e => regDomain (e.1 / 32) == d && isConfigKey e.1)

/-- R147, R501: the power domain of the unit of a local endpoint from 0x100. -/
def epHome (ep : Nat) : Nat :=
  if ep < 0x400 then dFC ((ep - 0x100) / 0x80) else if ep < 0x500 then dNET else if ep < 0x600 then dVIS else dSIG

/-- The key under which an endpoint's state as a down port is held: local endpoint 0x000 has 3, beside ring and twin ports 0-2. -/
def flapKey (ep : Nat) : Nat := if ep = 0 then 3 else ep

/-- R501: domain `d` serves the endpoint with flap key `k`. -/
def servesKey (d k : Nat) : Bool :=
  if k = 3 then d == dSV || d == dSIG else decide (0x100 ≤ k ∧ k < 0x1000) && (epHome k == d || (decide (0x600 ≤ k) && d == dMEM))

/-- Items that a unit of domain `d` had taken: a `SEND` waits for its resend (R127), and a frame of the signal router or the
bridge is lost (R325). Loans stay posted. -/
def State.dropTaken (s : State) (d : Nat) : State :=
  let mine (w : Work) : Bool := decide (0x100 ≤ w.ep) && epHome w.ep == d && w.taken && w.opcode != 0x50
  let owed (w : Work) : Bool := s.dlv.owedFail.any (fun e => e.1 == (w.src, w.sq, w.wsn))
  { s with dlv := { s.dlv with work :=
      (s.dlv.work.filter (fun w => !(mine w && decide (256 ≤ w.src)))).map (fun w =>
        if mine w && !owed w then { w with torn := true } else w) } }

/-- R433: SIG stops: open transactions of the bridge end. An item whose far access has been made is answered
`BRG_FAR_TIMEOUT`; one without waits to start again. -/
def State.stopBridge (s : State) : State :=
  let issued := s.sig.txs.filterMap (fun t => if t.stage == .issued then t.key else none)
  { s with
    sig := { s.sig with txs := [], posted := [], locks := [] }
    dlv := { s.dlv with
      owedFail := s.dlv.owedFail ++ issued.map (fun k => (k, 0x10))
      work := s.dlv.work.map (fun w =>
        if (w.opcode = 0x30 ∨ w.opcode = 0x31) ∧ w.taken ∧ ¬ issued.contains (w.src, w.sq, w.wsn) then { w with taken := false } else w) } }

/-- R163: the endpoints of domain `d` are configured for nothing. -/
def State.clearEndpoints (s : State) (d : Nat) : State :=
  let mine (ep : Nat) : Bool := if ep = 0 then d == dSIG else decide (0x100 ≤ ep) && epHome ep == d
  let gone := s.ring.ownEps.filter (fun e => mine e.1)
  if gone = [] then s
  else
    let s : State := { s with ring := { s.ring with
      ownEps := s.ring.ownEps.filter (fun e => !mine e.1)
      drains := s.ring.drains.filter (fun x => !(decide (4096 ≤ x.domain) && mine (x.domain - 4096))) } }
    s.epChange (gone.map (fun e => (e.1, 0)))

/-- HIF stops: items, records and the journal's working state are lost; AON's copies and the ledger are not (R119, R122, R129). -/
def State.loseHost (s : State) (blocked : Bool) : State :=
  { s with
    hq := { blocked := blocked, funcMask := s.hq.funcMask }
    dlv := { s.dlv with slots := [], nextSlot := 0, spoolNext := 0, unflushed := [], brgDone := [] } }

/-- The units of domain `d` as they are after its power-up. What AON keeps stays: the latched pins of a cluster (R49). -/
def State.freshUnits (s : State) (d : Nat) : State :=
  let s := (s.dropTaken d).clearEndpoints d
  let s : State := { s with ints := s.ints.filter (fun e => bankDomain e.1 != d) }
  if dFC 0 ≤ d ∧ d ≤ dFC 5 then
    let n := d - dFC 0
    let c := s.cl n
    s.setCl n { pinOut := c.pinOut, pinOe := c.pinOe, resume := c.pinOe, flow := c.flow, flowOe := c.flowOe }
  else if d = dNET then { s with net := [] }
  else if d = dHIF then
    let s := s.loseHost s.hq.blocked
    (s.put HQ_LDG_STATUS_USED s.dlv.ledger.length).put HQ_LDG_STATUS_MIRROR (b2n (s.get TWIN_STATUS_STATE == 2))
  else if d = dSIG then
    -- AON's bits of the bulk queues outlive SIG (R339).
    let s : State := { s with sig := {}, bulk := { rd := s.bulk.rd, bits := s.bulk.bits } }
    s.each (bitList s.bulk.bits 512) (fun s q => s.put (SIG_BULK_STATUS q) 1)
  else if d = dVIS then { s with vis := {} }
  else s

/-- R175: port `p` receives nothing. -/
def State.clearLanes (s : State) (p : Nat) : State :=
  (((s.put (RING_PORT_STATUS_SIG_DET p) 0).put (RING_PORT_STATUS_LOCK p) 0).put (RING_PORT_STATUS_ALIGNED p) 0).put
    (RING_PORT_STATUS_RF_RX p) 0

/-- R399, R400: without TWL the half is UNPAIRED, the mirror stops, and items whose copies are in flight are the active half's alone. -/
def State.losePair (s : State) : State :=
  let st := s.get TWIN_STATUS_STATE
  let s := if 1 ≤ st ∧ st ≤ 3 then s.put TWIN_STATUS_STATE 0 else s
  let s : State := { s with twin := { s.twin with
    copies := [], orphans := s.twin.orphans ++ s.twin.copies.filter (fun c => !(c.ckpt || c.config)), synced := false, partner := none } }
  s.put HQ_LDG_STATUS_MIRROR 0

/-- R33, R141, R156: ring or twin port `p` loses its power: DOWN, which wraps at a ring port. A port in LULL stays there. -/
def State.stopPort (s : State) (p : Nat) : State :=
  if s.portState p = 0 ∨ s.portState p = 5 then s
  else
    let s := ((s.put (RING_PORT_STATUS_STATE p) 0).clearLanes p).pendShared (644 + p)
    let s := { s with ring := { s.ring with remoteFault := clearBit s.ring.remoteFault p } }
    if p = 2 then s.losePair
    else if s.portState (1 - p) = 2 ∧ ¬ s.flag (wrapField p) then s.wrapPort p else s

/-- R433: the units of domain `d` stop at once: engines halt (R293), controllers go to CONFIG (R318), cameras to DISABLED (R366). -/
def State.stopDomain (s : State) (d : Nat) : State :=
  let s :=
    if dFC 0 ≤ d ∧ d ≤ dFC 5 then
      let n := d - dFC 0
      let s := s.each (List.range 4) (fun s g => s.haltGroup n g 2)
      s.each (List.range 8) (fun s c => s.canConfig n c)
    else if d = dSIG then s.stopBridge
    else if d = dHIF then s.loseHost true
    else if d = dRGE ∨ d = dRGW ∨ d = dTWL then s.stopPort (d - dRGE)
    else if d = dPLD then
      -- Frames in egress end in the rejected form of R24; nothing more starts.
      let s := s.pld.frames.foldl (fun s f => f.started.foldl (fun s o => s.emit (.tornFrame o)) s) s
      { s with sch := { s.sch with outs := s.sch.outs.map (fun (e : Nat × OutSt) => (e.1, { e.2 with busy := none })) } }
    else if d = dVIS then
      let s : State := { s with vis := {} }
      s.each (List.range 8) (fun s c => (s.put (VIS_CAM_CFG_EN c) 0).put (VIS_CAM_STATUS_STATE c) 0)
    else s
  s.dropTaken d

end Sys2Proof.Machine
end

