-- ==== Sys2Proof/Machine/FaultHub.lean ====
section
/-! DEFINITION. The fault hub (R425-R442): writing an entry, escalation (Squall), containment, the host log, and the
commands of its family. -/

namespace Sys2Proof.Machine

open Sys2Proof.Machine.Reg

/-- R437: the first number of the range of the catalogue that source `n` lies in. -/
def srcBase (n : Nat) : Nat :=
  if 1 ≤ n ∧ n ≤ 3 then 1 else if 32 ≤ n ∧ n ≤ 34 then 32 else if 40 ≤ n ∧ n ≤ 42 then 40
  else if 64 ≤ n ∧ n ≤ 71 then 64 else if 72 ≤ n ∧ n ≤ 79 then 72 else if 96 ≤ n ∧ n ≤ 111 then 96
  else if 112 ≤ n ∧ n ≤ 127 then 112 else if 128 ≤ n ∧ n ≤ 208 then 128 else if 224 ≤ n ∧ n ≤ 247 then 224
  else if 248 ≤ n ∧ n ≤ 271 then 248 else if 272 ≤ n ∧ n ≤ 319 then 272 else if 320 ≤ n ∧ n ≤ 367 then 320
  else if 368 ≤ n ∧ n ≤ 415 then 368 else if 416 ≤ n ∧ n ≤ 463 then 416 else if 464 ≤ n ∧ n ≤ 511 then 464
  else if 520 ≤ n ∧ n ≤ 527 then 520 else if 528 ≤ n ∧ n ≤ 535 then 528 else if 536 ≤ n ∧ n ≤ 543 then 536
  else if 544 ≤ n ∧ n ≤ 551 then 544 else if 560 ≤ n ∧ n ≤ 575 then 560 else if 576 ≤ n ∧ n ≤ 591 then 576
  else if 592 ≤ n ∧ n ≤ 607 then 592 else if 608 ≤ n ∧ n ≤ 624 then 608 else if n = 629 then 628
  else if n = 631 then 630 else n

/-- R437: the domain of an island of source 128 + `i` (R23, R24). -/
def islandDomain (i : Nat) : Nat :=
  if i = 0 then dRGE else if i = 1 then dRGW else if i = 2 then dTWL else if i ≤ 6 then dNET
  else if i ≤ 8 then dVIS else if i ≤ 56 then dFC ((i - 9) / 8) else dFC ((i - 57) / 4)

/-- R432, R437: the fence set of source `n` as domain bits: the set that the catalogue gives, or the home domain. -/
def fenceSet (n : Nat) : Nat :=
  let fc := 0x1F800
  if n = 0 then 1 <<< dSV
  else if n = 1 then (1 <<< dMEM) ||| (1 <<< dSIG) ||| (1 <<< dVIS) ||| fc
  else if n = 2 then (1 <<< dRGE) ||| (1 <<< dRGW) ||| (1 <<< dTWL) ||| (1 <<< dNET)
  else if n = 3 then 1 <<< dHIF
  else if n = 4 then 1 <<< dSV
  else if n = 5 then 1 <<< dHIF
  else if n = 7 ∨ n = 8 then 1 <<< dSV
  else if 16 ≤ n ∧ n ≤ 18 then 1 <<< dHIF
  else if n = 20 then (1 <<< dSIG) ||| (1 <<< dNET) ||| (1 <<< dVIS) ||| fc
  else if 32 ≤ n ∧ n ≤ 34 then 1 <<< (dRGE + (n - 32))
  else if 35 ≤ n ∧ n ≤ 38 then 1 <<< dRGE
  else if 40 ≤ n ∧ n ≤ 42 then 1 <<< (dRGE + (n - 40))
  else if 64 ≤ n ∧ n ≤ 80 then 1 <<< dPLD
  else if 96 ≤ n ∧ n ≤ 127 then 1 <<< dNET
  else if 128 ≤ n ∧ n ≤ 208 then 1 <<< islandDomain (n - 128)
  else if 224 ≤ n ∧ n ≤ 271 then 1 <<< dFC ((n - srcBase n) / 4)
  else if 272 ≤ n ∧ n ≤ 511 then 1 <<< dFC ((n - srcBase n) / 8)
  else if n = 512 ∨ n = 513 then 1 <<< dSIG
  else if 520 ≤ n ∧ n ≤ 551 then 1 <<< dVIS
  else if 552 ≤ n ∧ n ≤ 556 then 1 <<< dTWL
  else if n = 627 then (1 <<< dVIS) ||| (1 <<< dNET) ||| (1 <<< dSIG) ||| fc
  else if 628 ≤ n ∧ n ≤ 631 then 1 <<< dMEM
  else if n = 632 then (1 <<< dMEM) ||| (1 <<< dSIG) ||| (1 <<< dVIS)
  else 0

/-- Whether some unacknowledged entry has recorded class `c` (R428). -/
def State.hasUnack (s : State) (c : Nat) : Bool := s.flt.unack.any (fun e => e.2.1 == c)

/-- R402: `HEALTH` of a twin half: no unacknowledged class U or class F entry, and not CONTAINED. -/
def State.showHealth (s : State) : State :=
  s.put TWIN_STATUS_HEALTH
    (b2n (s.node.twinRole != .single && !s.hasUnack 1 && !s.hasUnack 2 && s.mode != mCONTAINED))

/-- R428, R429: the acknowledgement state as `FLT_STATUS` shows it. -/
def State.showUnack (s : State) : State :=
  State.showHealth <| (((s.put FLT_STATUS_UNACK_C (b2n (s.hasUnack 0))).put FLT_STATUS_UNACK_U (b2n (s.hasUnack 1))).put
    FLT_STATUS_UNACK_F (b2n (s.hasUnack 2))).put FLT_STATUS_SQUALL (b2n (s.flt.unack.any (fun e => e.2.2)))

/-- R426, R427: the eight words of an entry in its slot of the on-chip log. -/
def State.logEntry (s : State) (seq : Nat) (ws : List Nat) : State :=
  s.each (List.range 8) (fun s i => s.put (FLT_LOG (seq % 512 * 8 + i)) (ws.getD i 0))

/-- One entry of the on-chip log as its 32 bytes. -/
def State.logBytes (s : State) (seq : Nat) : List Byte :=
  wordBytes ((List.range 8).map (fun i => s.get (FLT_LOG (seq % 512 * 8 + i))))

/-- R436: entries from `FLT_HLOG_NEXT` copied to the host ring while the log still holds them. -/
def State.hlogLoop : Nat → State → State
  | 0, s => s
  | fuel + 1, s =>
    let n := s.get FLT_HLOG_NEXT
    if n = s.get FLT_SEQ then s
    else
      let base := s.get FLT_HLOG_BASE_LO * 4096 + s.get FLT_HLOG_BASE_HI * 2 ^ 32
      let k := s.get FLT_HLOG_CFG_LOG2_ENTRIES
      State.hlogLoop fuel ((s.hostWrite (base + 32 * (n % 2 ^ k)) (s.logBytes n)).put FLT_HLOG_NEXT (n + 1))

/-- R436: the host-log copies that can be made now. -/
def State.hlogCopy (s : State) : State :=
  if s.flag FLT_HLOG_CFG_EN && s.isUp dHIF && !s.hq.blocked then
    let next := s.get FLT_SEQ
    let oldest := (next + 2 ^ 32 - s.get FLT_LOG_STATUS_USED) % 2 ^ 32
    let behind := (next + 2 ^ 32 - s.get FLT_HLOG_NEXT) % 2 ^ 32
    let s := if s.get FLT_LOG_STATUS_USED < behind then s.put FLT_HLOG_NEXT oldest else s
    State.hlogLoop 512 s
  else s

/-- R433: the endpoints served by domain `d`, announced or with work, are down ports from now on. -/
def State.downEndpoints (s : State) (d : Nat) : State :=
  let eps := ((0 :: s.ring.ownEps.map (fun e => e.1) ++ s.dlv.work.map (fun w => w.ep)).map flapKey).filter (servesKey d)
  { s with dlv := { s.dlv with flaps := eps.foldl (fun m k => if (SMap.find m k).isSome then m else SMap.insert m k .hold) s.dlv.flaps } }

/-- R432, R433: domain `d` fenced: isolated at once, its units stopped, a threat ended (R29). -/
def State.fenceDomain (s : State) (d : Nat) : State :=
  let s := s.orBits FLT_FENCED (1 <<< d)
  let s := ((s.stopDomain d).endThreat d).downEndpoints d
  match s.phase d with
  | .off | .upWait | .isolated => s.setPhase d (if s.phase d = .isolated then .isolated else .off)
  | _ => s.setPhase d .fenced

/-- R171: every ring port leaves LULL for TRAINING at entry to WAKING (R141). -/
def State.portsWake (s : State) : State :=
  let s := { s with ring := { s.ring with wakeEnum := s.flag RING_NODE_ROOT, wakeArmed := 0 } }
  s.each [0, 1, 2] (fun s p => if s.portState p = 5 then
    (s.put (RING_PORT_STATUS_STATE p) 1).pendShared (644 + p) else s)

/-- R37: the domains of the Lull set that LULL has switched off: those that are requested on and not fenced. -/
def State.lullOff (s : State) : List Nat :=
  (bitList (s.get RING_LULL_SET) 17).filter (fun d => (s.get GLB_PD_ON_SET).testBit d && !s.isFenced d && s.phase d == .off)

/-- R37: the Lull set is up again. -/
def State.lullBack (s : State) : State := s.each s.lullOff (fun s d => ((s.wakeRegs d).freshUnits d).setPhase d .up)

/-- R170: a class F entry takes the node out of the Lull table; a COMMIT of a round it had consented to is discarded. -/
def State.leaveLull (s : State) : State :=
  let s : State := if s.get RING_LULL_STATUS_STATE = 1 then
      { s with ring := { s.ring with lullVoided := s.ring.lullRound :: s.ring.lullVoided } } else s
  let s := if s.mode = mLULL then s.lullBack.portsWake else s
  s.put RING_LULL_STATUS_STATE 0

/-- R39: a DORMANT entry is abandoned: a domain that drains runs on, and one that is off powers up again. An isolated one does once
its power is off (R33). -/
def State.bringBack (s : State) : State :=
  let s := { s with ring := { s.ring with drains := s.ring.drains.filter (fun d => decide (4096 ≤ d.domain)) } }
  s.each ((bitList (s.get GLB_PD_ON_SET) 17).filter (fun d => d != 0)) (fun s d =>
    if s.isFenced d then s
    else match s.phase d with
      | .drainWait | .drainRun => s.setPhase d .up
      | .off => s.setPhase d .upWait
      | _ => s)

/-- R76-R78: a node that was armed reports a result to the root and is armed no longer. -/
def State.disarm (s : State) (code : Nat) : State :=
  match s.boot.armed with
  | none => s
  | some a =>
    let s := { s with boot := { s.boot with armed := none } }
    (s.put BOOT_STAGED_STATUS_ARMED 0).unicast a.src 0 0 (.actReport a.seq s.nodeId code) s.boot.actPort

/-- R78: an activation at event 1 is given up: the processors go on, and the policies resume. -/
def State.stopActivation (s : State) : State :=
  if s.boot.actEvent = 0 then s
  else State.emit { s with boot := { s.boot with actEvent := 0, frozen := false } } (.processors 4)

/-- R433: ring ports that are still powered transmit REMOTE_FAULT. -/
def State.sendRemoteFault (s : State) : State :=
  s.each [0, 1] (fun s p =>
    if s.isUp (dRGE + p) then
      { s with ring := { s.ring with remoteFault := setBit s.ring.remoteFault p } }.emit (.orderedSet p .remoteFault)
    else s)

/-- R39: a DORMANT entry that goes on whatever happens: SV has isolated. -/
def State.dormantSure (s : State) : Bool :=
  s.node.modeReq == some mDORMANT && (s.phase dSV == .off || s.phase dSV == .isolated)

/-- R434: a class F entry: the pulse on `FAULT_N`, the fence set isolated, and CONTAINED entered. In DORMANT it fences
nothing and leaves the mode. A request or a transition in progress is preempted (R39). -/
def State.classF (s : State) (src : Nat) : State :=
  let s := (s.put FLT_FAULTN_PULSE 1).emit (.pin 9 0 0)
  if s.mode = mDORMANT ∨ s.mode = mOFF ∨ s.node.off ∨ s.dormantSure then s
  else
    let bits := clearBit (fenceSet src) 0
    let s := s.leaveLull
    let s := if s.node.modeReq = some mDORMANT then s.bringBack else s
    let s := match s.node.modeReq with
      | some _ => { s with node := { s.node with modeReq := none, paused := false } }.put GLB_MODE_REQ_STATUS 5
      | none => s
    let s := State.showPins s (s.each (bitList bits 17) State.fenceDomain)
    -- R78: an activation that has not swapped the slots is not performed; a later one goes on.
    let s := if s.boot.actEvent ≤ 1 then s.stopActivation.disarm 6 else s
    let s := if s.mode = mCONTAINED then s else
      let s := (s.setMode mCONTAINED).showHealth
      { s with node := { s.node with recovering := !s.isFenced dSV && s.get FLT_CFG != 0 } }
    if bits.testBit dPLD || bits.testBit dSV || bits.testBit dHIF then s.sendRemoteFault else s.epChange []

/-- R428, R429: an entry of the source's class would be escalated now. -/
def State.escalates (s : State) (src : Nat) : Bool :=
  (srcClass src == 0 && s.hasUnack 0) || (srcClass src == 1 && s.hasUnack 1)

/-- R430: the action that a firing of the source applies now: the source's, or a stricter one of an escalation. -/
def State.actionOf (s : State) (src : Nat) : Nat :=
  max (s.get (FLT_SRC_ACTION src)) (if s.escalates src then srcClass src + 1 else 0)

/-- R431: a firing of the source applies STOP now. -/
def State.stops (s : State) (src : Nat) : Bool := srcListed src && s.actionOf src == 1

/-- R425-R437: an error source fires with its `INFO` words. A source that the catalogue does not list is never recorded. STOP is
the unit's own (R431): its file applies it where `stops` holds. -/
def State.recordWith (s : State) (src : Nat) (info : List Nat) : State :=
  if !srcListed src then s
  else
    let c0 := srcClass src
    let esc := s.escalates src
    let c := if esc then c0 + 1 else c0
    let act := s.actionOf src
    let seq := s.get FLT_SEQ
    let lost := s.flt.unack.any (fun e => e.1 == (seq + 2 ^ 32 - 512) % 2 ^ 32) && s.get FLT_LOG_STATUS_USED == 512
    let s := if lost then s.incSat FLT_LOG_STATUS_LOST else s
    let t := s.ringTime
    let s := s.logEntry seq ([seq, src + c * 2 ^ 16 + b2n esc * 2 ^ 18 + act * 2 ^ 24, t % 2 ^ 32, t / 2 ^ 32] ++ info)
    let s := (s.inc FLT_SEQ).put FLT_LOG_STATUS_USED (min 512 (s.get FLT_LOG_STATUS_USED + 1))
    let s := (s.put FLT_STATUS_LAST_SRC src).incSat (FLT_SRC_COUNT src)
    let s := if c = 0 then s.inc FLT_CNT_C else if c = 1 then s.inc FLT_CNT_U else s
    -- R432: an entry of class F, or one whose action is FENCE.
    let s := if c = 2 ∨ act = 2 then s.inc FLT_CNT_F else s
    let s := if esc then s.inc FLT_CNT_SQUALL else s
    let s := { s with flt := { s.flt with unack := s.flt.unack ++ [(seq, c, esc)] } }
    let s := s.showUnack.pendShared src
    (if c = 2 ∨ act = 2 then s.classF src else s).hlogCopy

/-- An error source fires whose chapter names no details: `INFO` holds the instance index (R426). -/
def State.record (s : State) (src : Nat) : State := s.recordWith src [src - srcBase src]

/-- R428: the entries of recorded class `c` up to `q` acknowledged; a `q` later than the last assigned is refused. -/
def State.acknowledge (s : State) (c q : Nat) : State :=
  let last := (s.get FLT_SEQ + 2 ^ 32 - 1) % 2 ^ 32
  if laterThan 32 q last then s.raise FLT_ERR
  else
    { s with flt := { s.flt with unack := s.flt.unack.filter (fun e => ! (e.2.1 == c && ! laterThan 32 e.1 q)) } }.showUnack

end Sys2Proof.Machine
end

