-- ==== Sys2Proof/Machine/Endpoints.lean ====
section
/-! DEFINITION. Local endpoints (R147, R501): which unit serves one, the power domains that the checks of R94 test, and the limits
on `LENGTH` that the units' chapters set. -/

namespace Sys2Proof.Machine

open Sys2Proof.Machine.Reg

def opNop : Nat := 0x00
def opFence : Nat := 0x01
def opSend : Nat := 0x10
def opSig : Nat := 0x11
def opRegWrite : Nat := 0x20
def opRegRead : Nat := 0x21
def opBridgeWrite : Nat := 0x30
def opBridgeRead : Nat := 0x31
def opBulkPut : Nat := 0x40
def opBulkGet : Nat := 0x41
def opRxPost : Nat := 0x50

/-- R93: the opcode is defined. -/
def opDefined (op : Nat) : Bool := [0x00, 0x01, 0x10, 0x11, 0x20, 0x21, 0x30, 0x31, 0x40, 0x41, 0x50].contains op

/-- R94: opcodes that carry data out. -/
def carriesOut (op : Nat) : Bool := op == 0x10 || op == 0x11 || op == 0x20 || op == 0x30 || op == 0x40

/-- R128: opcodes that carry no ledger at their target. A bridge item has one, its far bus has none (R334). -/
def noLedger (op : Nat) : Bool := op == 0x21 || op == 0x41 || op == 0x50

/-- R163: the opcode bit of an EP_STATE entry (from bit 12) that announces opcode `op`. -/
def opBit (op : Nat) : Nat :=
  if op = 0x10 then 1 else if op = 0x50 then 2 else if op = 0x40 ∨ op = 0x41 then 4
  else if op = 0x11 then 8 else if op = 0x30 ∨ op = 0x31 then 16 else 0

/-- R147: the unit of a local endpoint. -/
inductive EpUnit where
  | node
  | line (fc p : Nat)
  | port (fc q : Nat)
  | can (fc c : Nat)
  | eth (n : Nat)
  | vision (v : Nat)
  | bulk (q : Nat)
  | reserved
  deriving DecidableEq, Repr

/-- R147: the assignment of local endpoints. -/
def unitOf (ep : Nat) : EpUnit :=
  if ep = 0 then .node
  else if 0x100 ≤ ep ∧ ep < 0x400 then
    let n := (ep - 0x100) / 0x80
    let r := (ep - 0x100) % 0x80
    if r < 0x40 then .line n r else if r < 0x60 then .port n (r - 0x40)
    else if r < 0x68 then .can n (r - 0x60) else .reserved
  else if 0x400 ≤ ep ∧ ep < 0x410 then .eth (ep - 0x400)
  else if 0x500 ≤ ep ∧ ep < 0x600 then .vision (ep - 0x500)
  else if 0x600 ≤ ep ∧ ep < 0x800 then .bulk (ep - 0x600)
  else .reserved

/-- The endpoint of a PIO serial port. -/
def epPort (fc q : Nat) : Nat := 0x140 + 0x80 * fc + q

/-- The endpoint of a discrete line. -/
def epLine (fc p : Nat) : Nat := 0x100 + 0x80 * fc + p

/-- The endpoint of a CAN controller. -/
def epCan (fc c : Nat) : Nat := 0x160 + 0x80 * fc + c

/-- R93, R147: the local part is valid for the opcode. -/
def localOk (op ep : Nat) : Bool :=
  match unitOf ep with
  | .node => op == 0x11 || op == 0x20 || op == 0x21 || op == 0x30 || op == 0x31
  | .bulk _ => op == 0x40 || op == 0x41
  | .reserved => false
  | _ => op == 0x10 || op == 0x50

/-- R501: the domains that checks 8 and 9 test. -/
def epDomains (op ep : Nat) : List Nat :=
  match unitOf ep with
  | .node => if op = 0x20 ∨ op = 0x21 then [dSV] else [dSIG]
  | .line n _ => [dFC n]
  | .port n _ => [dFC n]
  | .can n _ => [dFC n]
  | .eth _ => [dNET]
  | .vision _ => [dVIS]
  | .bulk _ => [dSIG, dMEM]
  | .reserved => []

/-- R94 check 6: the smallest and the largest `LENGTH` of a `SEND` to endpoint `ep` of `node`, the node's own configuration applied to
its own endpoints; the limit that another node has configured is a free value (notes/assumptions/8.md). A `SEND` to another node is one
frame of at most 2,032 bytes (R146, R237). -/
def State.sendRange (s : State) (own : Bool) (node ep : Nat) : Nat × Nat :=
  let far := Config.destLimit false node ep s.count
  let (lo, hi) : Nat × Nat := match unitOf ep with
    | .line _ _ => (1, 1)
    | .port n q => (1, if own then s.get (FC_PORT_CFG_MAX_PKT n q) else far)
    | .can _ _ => (8, 72)
    | .eth n => (14, if own then s.get (NET_PORT_CFG_MAX_FRAME n) - 4 else far)
    | .vision _ => (24, 272)
    | _ => (1, 0)
  (lo, if own then hi else min hi 2032)

/-- R94 check 6: whether an `RX_POST` of `len` bytes suits endpoint `ep` of `node`; what another node has configured is a free value. -/
def State.loanOk (s : State) (own : Bool) (node ep len : Nat) : Bool :=
  let far : Bool := decide (Config.destLimit true node ep s.count ≤ len)
  match unitOf ep with
  | .line _ _ => 16 ≤ len && len % 16 == 0
  | .port n q => if own then s.get (FC_PORT_CFG_MAX_PKT n q) ≤ len else far
  | .can _ _ => 80 ≤ len && len % 8 == 0
  | .eth n => if own then s.get (NET_PORT_CFG_MAX_FRAME n) + 8 * s.get (NET_PORT_CFG_TS_APPEND n) ≤ len else far
  | .vision v =>
    if !own then far
    else if 0x10 ≤ v ∧ v < 0x50 then s.get (VIS_CAM_OUT_MAX ((v - 0x10) / 8) ((v - 0x10) % 8)) ≤ len
    else if 0x80 ≤ v ∧ v < 0xC0 then s.get (VIS_SINK_MAX (v - 0x80)) ≤ len
    else true
  | _ => false

/-- Endpoint `ep` of node `n` is this node's: a half of a twin pair answers for the pair ID's endpoints 0x100 and above only while
it owns the pins (R395). -/
def State.isOwn (s : State) (n ep : Nat) : Bool :=
  if s.node.twinRole != .single && 0x100 ≤ ep then n == s.get TWIN_CFG_PAIR_ID && s.flag GLB_PSW_OWN
  else n == s.nodeId

/-- R94 check 7: the node part is 1-254 and present in the ring. -/
def State.nodePresent (s : State) (n : Nat) : Bool :=
  1 ≤ n && n ≤ 254 && (n == s.nodeId || (s.posOf n).isSome)

/-- The copy of a node's endpoint state that concerns endpoint `ep` (R163, R395), once a full sequence of it is held: until then
the node's endpoints count as not up (R177). -/
def State.copyFor (s : State) (n ep : Nat) : Option EpCopy :=
  let own : Option EpCopy := SMap.find s.ring.copies n
  let c : Option EpCopy := if 0x100 ≤ ep then (SMap.find s.ring.copies (256 + n)).or own else own
  match c with
  | some c => if c.held then some c else none
  | none => none

/-- R94 check 8: a domain of a destination node is up and not draining (R95). A fenced domain passes it, though `UP` reads 0
there (R31): new work for a fenced domain fails check 9 (R433). -/
def State.destUp (s : State) (n ep d : Nat) : Bool :=
  if s.isOwn n ep then s.isFenced d || (s.isUp d && !s.isDraining d)
  else match s.copyFor n ep with
    | some c => c.fenced.testBit d || (c.up.testBit d && !c.draining.testBit d)
    | none => false

/-- R94 check 9: a domain of a destination node is fenced. -/
def State.destFenced (s : State) (n ep d : Nat) : Bool :=
  if s.isOwn n ep then s.isFenced d
  else match s.copyFor n ep with
    | some c => c.fenced.testBit d
    | none => false

/-- R94 check 10: the endpoint is configured for the opcode. -/
def State.destConfigured (s : State) (n op ep : Nat) : Bool :=
  if op = 0x20 ∨ op = 0x21 then true
  else
    let ops := if s.isOwn n ep then SMap.getD s.ring.ownEps ep 0
      else match s.copyFor n ep with
        | some c => SMap.getD c.entries ep 0
        | none => 0
    ops &&& opBit op != 0

/-- R130, R164: the node itself has endpoint `ep` configured for the opcode, or it drains the endpoint and still accepts. -/
def State.ownConfigured (s : State) (op ep : Nat) : Bool :=
  op == 0x20 || op == 0x21 || SMap.getD s.ring.ownEps ep 0 &&& opBit op != 0
  || s.ring.drains.any (fun d => d.domain == 4096 + ep)

/-- R92: a descriptor from its 32 bytes. -/
def parseDesc (bs : List Byte) : Desc :=
  { bufAddr := leAt bs 0 8, length := leAt bs 8 3, opcode := leAt bs 11 1, bufSize := leAt bs 12 3
    cls := leAt bs 15 1 / 32, imm := (leAt bs 15 1).testBit 4, dest := leAt bs 16 4 % 2 ^ 20
    param := leAt bs 20 8, tag := leAt bs 28 4, raw := bs }

/-- R92-R94 check 1: some field documented as 0 is not 0. -/
def descRsv (d : Desc) : Bool :=
  let bs := d.raw
  leAt bs 15 1 % 16 != 0 || leAt bs 16 4 / 2 ^ 20 != 0
  || ((d.opcode == 0 || d.opcode == 1) &&
      (d.bufAddr != 0 || d.length != 0 || d.bufSize != 0 || d.dest != 0 || d.param != 0))
  || ((d.opcode == 0x11 || d.opcode == 0x40 || d.opcode == 0x41 || d.opcode == 0x50) && d.param != 0)
  || ((d.opcode == 0x20 || d.opcode == 0x21) && d.param / 2 ^ 26 != 0)
  || ((d.opcode == 0x30 || d.opcode == 0x31) && d.param / 2 ^ 48 % 2 ^ 14 != 0)

/-- R94 check 6: `LENGTH` within the opcode's range and the destination's limit, and `PARAM` aligned. -/
def State.lengthOk (s : State) (d : Desc) : Bool :=
  let ep := d.dest % 4096
  let own := s.isOwn (d.dest / 4096) (d.dest % 4096)
  if d.opcode = 0x10 then
    if localOk 0x10 ep then (s.sendRange own (d.dest / 4096) ep).1 ≤ d.length && d.length ≤ (s.sendRange own (d.dest / 4096) ep).2 else true
  else if d.opcode = 0x11 then 16 ≤ d.length && d.length ≤ 65536 && d.length % 16 == 0
  else if d.opcode = 0x20 ∨ d.opcode = 0x21 then
    4 ≤ d.length && d.length ≤ 1024 && d.length % 4 == 0 && d.param % 4 == 0
  else if d.opcode = 0x30 ∨ d.opcode = 0x31 then d.length ≤ 4096
  else if d.opcode = 0x50 then (if localOk 0x50 ep then s.loanOk own (d.dest / 4096) ep d.length else true)
  else true

/-- R94: checks 1-11 in their order: 0, or the status of the first that fails (R100). -/
def State.checkDesc (s : State) (d : Desc) : Nat :=
  let node := d.dest / 4096
  let ep := d.dest % 4096
  let doms := epDomains d.opcode ep
  if descRsv d then 0x01
  else if ¬ opDefined d.opcode then 0x02
  else if d.opcode ≤ 1 then 0
  else if d.length = 0 then 0x03
  else if d.bufSize = 0 then 0x04
  else if d.bufSize < d.length then 0x05
  else if ¬ s.lengthOk d then 0x06
  else if ¬ (s.nodePresent node && localOk d.opcode ep) then 0x07
  else if ¬ doms.all (s.destUp node ep) then 0x08
  else if doms.any (s.destFenced node ep) then 0x09
  else if ¬ s.destConfigured node d.opcode ep then 0x0A
  else if d.opcode = 0x10 ∧ d.param ≠ 0 ∧ s.ringTime + 10000000000 < d.param then 0x0B
  else 0

end Sys2Proof.Machine
end

