-- ==== Sys2Proof/Machine/Node.lean ====
section
/-! DEFINITION. The node as a whole: power domains (R31-R34), modes (R35-R40), pace threats (R28, R29), reference clocks (R25),
islands (R24), pin sharing (R53-R56) and the watchdog's service and warning (R497). -/

namespace Sys2Proof.Machine

open Sys2Proof.Machine.Reg

/-- The domains in an order in which each stands after the domains it requires (R31). -/
def domainOrder : List Nat := [0, 1, 6, 10, 2, 3, 4, 5, 7, 8, 9, 11, 12, 13, 14, 15, 16]

/-- R32: the power-on requests of `bits` that are accepted, judged together. -/
def State.acceptOn (s : State) (bits : Nat) : Nat :=
  domainOrder.foldl (fun acc d =>
    if bits.testBit d && !s.isFenced d && !(s.get GLB_PD_ON_SET).testBit d
        && (bitList (requiresBits d) 17).all (fun r => s.isUp r || acc.testBit r)
    then setBit acc d else acc) 0

/-- R32: the power-on requests of `bits` that are refused. -/
def State.refuseOn (s : State) (bits : Nat) : Nat :=
  (bitList bits 17).foldl (fun acc d =>
    if s.isFenced d || (!(s.get GLB_PD_ON_SET).testBit d && !(s.acceptOn bits).testBit d) then setBit acc d else acc) 0

/-- R32: the power-off requests of `bits` that are accepted, judged together against the requested-on state that the whole
write leaves. -/
def State.acceptOff (s : State) (bits : Nat) : Nat :=
  domainOrder.reverse.foldl (fun acc d =>
    if bits.testBit d && (s.get GLB_PD_ON_SET).testBit d && !(s.mode == mACTIVE && neverOff d)
        && (List.range 17).all (fun e => !(requiresBits e).testBit d || !(s.get GLB_PD_ON_SET).testBit e || acc.testBit e)
    then setBit acc d else acc) 0

/-- R32: the power-off requests of `bits` that are refused. -/
def State.refuseOff (s : State) (bits : Nat) : Nat :=
  (bitList bits 17).foldl (fun acc d =>
    if (s.mode == mACTIVE && neverOff d)
        || (List.range 17).any (fun e => (requiresBits e).testBit d && (s.get GLB_PD_ON_SET).testBit e && !(s.acceptOff bits).testBit e)
    then setBit acc d else acc) 0

/-- R32: domain `d` accepted for power-on. One that still drains is powered up again once it is off. -/
def State.startOn (s : State) (d : Nat) : State :=
  match s.phase d with
  | .off => s.setPhase d .upWait
  | .drainWait => s.setPhase d .up
  | _ => s

/-- R32: domain `d` accepted for power-off. A fenced domain is not drained. -/
def State.startOff (s : State) (d : Nat) : State :=
  match s.phase d with
  | .up => s.setPhase d .drainWait
  | .fenced => s.setPhase d .isolated
  | .upWait => s.setPhase d .off
  | .upRun => s.setPhase d .isolated
  | _ => s

/-- R32: a write of `GLB_PD_ON_SET`. -/
def execGlbPdOnSet (_req : Requester) (val : Word) (s : State) : Host.Outcome State Fault Refusal :=
  let bits := val.toNat % 2 ^ 17
  let ok := s.acceptOn bits
  let s' := (s.orBits GLB_PD_ERR (s.refuseOn bits)).orBits GLB_PD_ON_SET ok
  .next (if s.aonOpen then s'.each (bitList ok 17) State.startOn else s)

/-- R32: a write of `GLB_PD_ON_CLR`. -/
def execGlbPdOnClr (_req : Requester) (val : Word) (s : State) : Host.Outcome State Fault Refusal :=
  let bits := val.toNat % 2 ^ 17
  let ok := s.acceptOff bits
  let s' := (s.orBits GLB_PD_ERR (s.refuseOff bits)).dropBits GLB_PD_ON_SET ok
  .next (if s.aonOpen then s'.each (bitList ok 17) State.startOff else s)

/-- R32: an accepted domain starts its power-up once every domain it requires is up. -/
def execDomainPowerUpStart (d : Fin 17) (s : State) : Host.Outcome State Fault Refusal :=
  .next (if s.phase d = .upWait ∧ (bitList (requiresBits d) 17).all s.isUp then s.setPhase d .upRun else s)

/-- No domain that requires `d` is still on its way off. -/
def State.requirersOff (s : State) (d : Nat) : Bool :=
  (List.range 17).all (fun e => !(requiresBits e).testBit d ||
    (s.phase e != .drainWait && s.phase e != .drainRun && s.phase e != .isolated))

/-- R32, R164: an accepted domain starts its drain once every domain that requires it, and that goes off with it, is off. On the way
to DORMANT every domain drains, and going off alone follows that order (R37). EP_STATE with its `DRAINING` bit is broadcast. -/
def execDomainDrainStart (d : Fin 17) (s : State) : Host.Outcome State Fault Refusal :=
  .next (if s.phase d = .drainWait ∧ (s.node.modeReq = some mDORMANT ∨ s.requirersOff d) then
      let s := (s.setPhase d .drainRun).epChange []
      { s with ring := { s.ring with
          drains := s.ring.drains ++ [{ domain := d, version := s.ring.epVersion, flushed := [] }] } }
    else s)

/-- R164: EP_FLUSH for the drain's version is held from every other node of the ring map. -/
def State.flushHeld (s : State) (dr : Drain) : Bool := s.otherNodes.all (fun n => dr.flushed.contains n)

/-- R33, R164: the drain of domain `d` may end as far as EP_FLUSH goes. -/
def State.drainFlushed (s : State) (d : Nat) : Bool :=
  (s.ring.drains.filter (fun dr => dr.domain == d)).all s.flushHeld

/-- R33: no accepted item is queued for the units of domain `d`; a loan is not emitted. -/
def State.emittedAll (s : State) (d : Nat) : Bool :=
  s.dlv.work.all (fun w => w.opcode == 0x50 || !(epDomains w.opcode w.ep).contains d)

/-- R33: the drain ends, outputs are held and the domain is isolated. Its threat, if any, ends (R29). -/
def execDomainDrainEnd (d : Fin 17) (s : State) : Host.Outcome State Fault Refusal :=
  .next (if s.phase d = .drainRun ∧ s.drainFlushed d ∧ s.emittedAll d ∧ s.requirersOff d then
      let s := (s.stopDomain d).endThreat d
      let s := { s with ring := { s.ring with drains := s.ring.drains.filter (fun dr => dr.domain != d.val) } }
      s.setPhase d .isolated
    else s)

/-- R33, R32: power is removed from an isolated domain. A fenced domain stays fenced; a domain requested on again meanwhile
starts its power-up, but not on the way to DORMANT. -/
def execDomainPowerOffDone (d : Fin 17) (s : State) : Host.Outcome State Fault Refusal :=
  .next (if s.phase d = .isolated then
      if (s.get GLB_PD_ON_SET).testBit d && !s.isFenced d && s.node.modeReq != some mDORMANT
      then s.setPhase d .upWait
      else State.epChange (({ s with dlv := { s.dlv with offBits := setBit s.dlv.offBits d } } : State).setPhase d .off) []
    else s)

/-! ### Modes -/

/-- R36, R37: a mode request is judged: discarded while one is pending, BUSY during events 1-4 of R77, NOT_ALLOWED from a mode
the table does not list, and otherwise `act`. -/
def State.modeRequest (s : State) (from' : Nat) (act : State → State) : State :=
  if ¬ s.aonOpen ∨ s.get GLB_MODE_REQ_STATUS = 2 then s
  else if s.boot.actEvent ≠ 0 then s.put GLB_MODE_REQ_STATUS 6
  else if s.mode = from' then act s
  else s.put GLB_MODE_REQ_STATUS 3

/-- R37: ACTIVE requested in SERVICE: field emission and descriptor fetch go on. -/
def execModeReqActive (s : State) : Host.Outcome State Fault Refusal :=
  .next (s.modeRequest mSERVICE fun s =>
    let s := (s.setMode mACTIVE).put GLB_MODE_REQ_STATUS 1
    State.resumeEngines { s with node := { s.node with paused := false } })

/-- R37: SERVICE requested in ACTIVE: descriptor fetch stops and field emission pauses at frame boundaries. The request is
pending until every port has paused. -/
def execModeReqService (s : State) : Host.Outcome State Fault Refusal :=
  .next (s.modeRequest mACTIVE fun s =>
    State.pauseWaits { s.put GLB_MODE_REQ_STATUS 2 with node := { s.node with modeReq := some mSERVICE, paused := true } })

/-- R38: every field port has paused at a frame boundary and outputs hold: SERVICE is reached. -/
def execServiceEntryComplete (s : State) : Host.Outcome State Fault Refusal :=
  .next (if s.node.modeReq = some mSERVICE then
      let s := (s.setMode mSERVICE).put GLB_MODE_REQ_STATUS 1
      { s with node := { s.node with modeReq := none } }
    else s)

/-- R37: DORMANT requested in ACTIVE: every domain but AON drains and goes off in dependency order. -/
def execModeReqDormant (s : State) : Host.Outcome State Fault Refusal :=
  .next (s.modeRequest mACTIVE fun s =>
    let s := { s.put GLB_MODE_REQ_STATUS 2 with node := { s.node with modeReq := some mDORMANT } }
    s.each ((List.range 17).drop 1) State.startOff)

/-- R36: any other target, or a target from a mode the table does not list, ends NOT_ALLOWED. -/
def execModeReqNotAllowed (target : BitVec 4) (s : State) : Host.Outcome State Fault Refusal :=
  .next (if (target = 3 ∧ s.mode = mSERVICE) ∨ ((target = 6 ∨ target = 1) ∧ s.mode = mACTIVE) then s
    else s.modeRequest 8 id)

/-! ### Reference clocks, islands and pace -/

/-- R24: an island's crossing FIFO runs empty in mid-frame: the frame ends in the form its receiver rejects, and the island
is recorded. -/
def State.islandUnderrun (s : State) (i : Nat) : State := (s.emit (.tornFrame i)).record (128 + i)

/-- R25, R216: a reference clock is lost: outside OFF and DORMANT the class F source of the reference fires. The time counter
stops while `REFCLK_TIME` is absent. -/
def execRefclkLoss (clk : Fin 3) (s : State) : Host.Outcome State Fault Refusal :=
  let node := if clk = 0 then { s.node with refTime := false }
    else if clk = 1 then { s.node with refSer := false } else { s.node with refPcie := false }
  let s := { s with node := node }
  .next (if s.mode = mDORMANT ∨ s.node.off then s else s.recordWith (1 + clk.val) [clk.val])

/-- R216: a reference returns; with `REFCLK_TIME` the counter resumes from the value it held. -/
def execRefclkReturn (clk : Fin 3) (s : State) : Host.Outcome State Fault Refusal :=
  .next { s with node := if clk = 0 then { s.node with refTime := true }
    else if clk = 1 then { s.node with refSer := true } else { s.node with refPcie := true } }

/-- R28: the VCORE setpoint stands at its ceiling: `VMAX_MV` in AUTO, and the voltage in force in BOOT, FIXED and HOLD. -/
def State.atCeiling (s : State) : Bool :=
  s.get PWR_AVS_STATUS_STATE != 1 || decide (s.get PWR_AVS_RANGE_VMAX_MV ≤ s.get PWR_AVS_STATUS_SET_MV)

/-- R28, R459: a threat starts in a domain with a floor that is up, not fenced and not threatened already, its pace below floor × 1.05 at
the ceiling of the setpoint: its intake comes under flow control and the hub records `PACE_THREAT` with `PACE` and `FLOOR`. -/
def State.paceThreat (s : State) (d pace : Nat) : State :=
  let s := s.put (PWR_PACE_PACE d) pace
  if s.isUp d && !s.isFenced d && !s.isThreat d && paceFloor d != 0 && decide (100 * pace < 105 * paceFloor d) && s.atCeiling then
    let s := { s with node := { s.node with threat := setBit s.node.threat d } }
    let s := s.pendShared (672 + d)
    s.recordWith (608 + d) [pace % 65536 + paceFloor d * 65536]
  else s

/-- R29: pace has stayed at or above floor × (1 + margin) for 100 µs: the threat of domain `d` ends. -/
def State.releaseThreat (s : State) (d : Nat) : State := s.endThreat d

/-- R18: a mismatch between the two supervisor cores. -/
def execSvLockstep (s : State) : Host.Outcome State Fault Refusal := .next (s.record 0)

/-! ### Pin sharing (R53-R56) -/

/-- `PSW_SENSE` shows this half's own slot (R54). -/
def State.ownSlot (s : State) : Bool := b2n s.node.pswSense == s.get GLB_STRAP_SLOT

/-- R54, R56: this half drives its shared pins under R52: each shows its latched level or its unit's. -/
def State.drivePins (s : State) : State :=
  State.showPins s
    ({ s.put GLB_PSW_OWN 1 with node := { s.node with pswWait := false, pswWatch := false } }.emit (.pin 0 0 1)).showGroups

/-- R54, R56: this half sets every shared pin to Z. -/
def State.releasePins (s : State) : State := State.showPins s ((s.put GLB_PSW_OWN 0).emit (.pin 0 0 2)).showGroups

/-- R56 events 1 and 4: a take pulse, sent only while the twin role is active. Where `PSW_SENSE` already shows this half's slot it
drives its pins; a DEPOSED half holds them in Z (R406). -/
def State.takePulse (s : State) : State :=
  if s.node.twinRole = .active then
    let s := { s with node := { s.node with pswPulse := true, pswWait := true } }.emit (.pin 6 0 0)
    if s.ownSlot ∧ s.get TWIN_STATUS_STATE ≠ 4 then (if s.ownsPins then { s with node := { s.node with pswWait := false } } else s.drivePins)
    else s
  else s

/-- R55: a write of `GLB_PSW` with `TAKE` set. -/
def execPswTake (s : State) : Host.Outcome State Fault Refusal := .next (if s.aonOpen then s.takePulse else s)

/-- R56: the 2 µs take pulse ends. -/
def execPswTakePulseEnd (s : State) : Host.Outcome State Fault Refusal :=
  .next (if s.node.pswPulse then { s with node := { s.node with pswPulse := false } }.emit (.pin 6 0 1) else s)

/-- R56: `PSW_SENSE` does not show the own slot 5 µs after a take pulse: `LOST`, `TWIN_PSW_LOST`, and the pins stay in Z. -/
def execPswTakeTimeout (s : State) : Host.Outcome State Fault Refusal :=
  .next (if s.node.pswWait && !s.ownSlot then
      ({ s with node := { s.node with pswWait := false } }.put GLB_PSW_LOST 1).record 552
    else { s with node := { s.node with pswWait := false } })

/-- R54: at its entry to ACTIVE a single node checks `PSW_SENSE`. -/
def State.singlePins (s : State) : State :=
  if s.ownSlot then s.drivePins
  else
    let s := { s.releasePins with node := { s.node with pswWatch := true } }
    (s.put GLB_PSW_LOST 1).record 552

/-! ### The supervisor watchdog (R497) -/

/-- R497: the watchdog is served: its count starts again, with a new period of 10 ms to 1 s (in microseconds) where one is
set. -/
def execSvWatchdogService (period : Option Nat) (s : State) : Host.Outcome State Fault Refusal :=
  let node := { s.node with wdogHalf := false }
  .next { s with node := match period with
    | some p => if 10000 ≤ p ∧ p ≤ 1000000 then { node with wdogPeriod := p } else node
    | none => node }

/-- R414: half a period before expiry, source 16 of bank P0 is set. -/
def execSvWatchdogWarning (s : State) : Host.Outcome State Fault Refusal :=
  .next (if s.node.wdogRun then
      { s with node := { s.node with wdogHalf := true } }.pendPrivate 0 16 else s)

end Sys2Proof.Machine
end

