-- ==== Sys2Proof/Machine/Reset.lean ====
section
/-! DEFINITION. Resets: what POR, NODE and WARM resets keep (R57-R60, R81, R177, R220, R233, R440, R493), and the commands that
start and release them. -/

namespace Sys2Proof.Machine

open Sys2Proof.Machine.Reg

/-- R58 and the chapters' own reset rules: the register fields that keep their values across a NODE (`kind` 2) or WARM
(`kind` 1) reset, by `Field.key`. -/
def keptKey (kind key : Nat) : Bool :=
  let off := key / 32
  -- GLB_RST_CFG, GLB_RST_CAUSE, GLB_PIN_POLICY, GLB_STRAP, and the pin level GLB_PSW.SENSE
  (off == 0x38) || (off == 0x3C) || (off == 0x40) || (off == 0x44) || (key == 0x48 * 32 + 3)
  -- BOOT, the calibration block with it (R73)
  || (0x10000 ≤ off && off < 0x13000)
  -- FLT but FLT_FENCED and FLT_ERR (R440)
  || (0x40000 ≤ off && off < 0x48000 && off != 0x40004 && off != 0x40040)
  -- the Dike channels (R58)
  || (0x58000 ≤ off && off < 0x60000)
  -- the PWR policy registers (R470)
  || (0x50000 ≤ off && off < 0x58000 && off != 0x50018)
  -- TIME but TIME_ERR and the FSYNC EN bits (R233)
  || (0x60000 ≤ off && off < 0x60200 && off != 0x60038
      && !(0x60100 ≤ off && off % 0x20 == 0 && key % 32 == 0))
  -- RING: the kept ring state (R177)
  || (key == 0x80000 * 32) || (off == 0x8000C && key % 32 != 0) || (off == 0x80010)
  || (0x80040 ≤ off && off < 0x80060) || (off == 0x80200) || (off == 0x80210)
  -- MEM across a WARM reset (R493)
  || (kind == 1 && 0xC00000 ≤ off && off < 0xC0000C)

/-- R130, R271, R339: the supervisor's copy in LPDDR5 after a WARM reset: the registers of the field clusters and of the bulk
queues as they stood, and what it still held for a domain that was off. -/
def State.warmCopy (s : State) : SMap Nat :=
  let has (e : Nat × Nat) : Bool :=
    let d := regDomain (e.1 / 32)
    decide (dFC 0 ≤ d ∧ d ≤ dFC 5) || (decide (0xA40000 * 32 ≤ e.1) && decide (e.1 < 0xA42000 * 32))
  let live (e : Nat × Nat) : Bool := s.isUp (regDomain (e.1 / 32)) || s.isFenced (regDomain (e.1 / 32))
  let old := s.saved.filter (fun e => has e && !live e)
  (s.regs.filter (fun e => has e && live e && isConfigKey e.1)).foldl (fun m e => SMap.insert m e.1 e.2) old

/-- R49-R52: what AON retains of cluster `n` across a reset: its latched pins. Outputs that the pin policy releases go to Z. -/
def State.latched (s : State) (n : Nat) : Cluster :=
  let c := s.cl n
  let fenced := s.isFenced (dFC n) && !(s.get GLB_PIN_POLICY_FENCE_HOLD).testBit n
  let holds := (s.get GLB_PIN_POLICY_RST_HOLD).testBit n && !fenced
  let kept (m : Nat) : Bool := (s.get GLB_PIN_POLICY_RST_HOLD).testBit (s.get (FC0_FLOW_CFG_CLUSTER m)) && s.flowShown m != 2
  let oe := if holds then c.pinOe else 0
  { pinOut := c.pinOut, pinOe := oe, resume := oe, flow := c.flow
    flowOe := (bitList c.flowOe 8).foldl (fun acc m => if kept m then setBit acc m else acc) 0 }

/-- R57-R60: what a NODE (2) or WARM (1) reset leaves: every domain but AON at its reset state, and what AON keeps. Posts that wait are
discarded (DESIGN CHOICE, notes/assumptions/9.md). -/
def State.resetBase (s : State) (kind : Nat) : State :=
  let owed := match s.boot.armed with
    | some a => if s.boot.actEvent = 0 then s.boot.owedReport else some (a.seq, 7)
    | none => s.boot.owedReport
  { State.reset with
    regs := s.regs.filter (fun e => keptKey kind e.1)
    mem := if kind = 1 then s.mem else []
    bar2 := s.bar2
    node := { State.reset.node with
      upSincePor := s.node.upSincePor, pswSense := s.node.pswSense, resetKind := some kind
      refTime := s.node.refTime, refSer := s.node.refSer, refPcie := s.node.refPcie
      ringRoot := s.node.ringRoot, twinRole := s.node.twinRole, ledgerKept := true, perst := s.node.perst
      shown := s.node.shown }
    boot := { s.boot with
      pathsOpen := false, posts := [], armed := none, actEvent := 0, frozen := false, calJob := 0, owedReport := owed
      imageStarted := s.boot.imageStarted && kind == 1, reports := [] }
    ring := { map := s.ring.map, pos := s.ring.pos, rootId := s.ring.rootId, enumSrc := s.ring.enumSrc
              breaks := s.ring.breaks, released := s.ring.released, bseq := s.ring.bseq, lastSeq := s.ring.lastSeq }
    flt := s.flt
    dlv := { gen := s.dlv.gen, last := s.dlv.last, retired := s.dlv.retired, ledger := s.dlv.ledger, srcRet := s.dlv.srcRet
             lastDest := s.dlv.lastDest
             kept := if kind = 1 then s.dlv.kept else [] }
    time := { s.time with sent := [], got := [], freq := none, ePrev := none, errSum := 0, errNum := 0, fsync := [] }
    saved := if kind = 1 then s.warmCopy else []
    pld := { mem := s.pld.mem }
    fc := s.fc.map (fun e => (e.1, s.latched e.1))
    bulk := if kind = 1 then { rd := s.bulk.rd, bits := s.bulk.bits } else { bits := s.bulk.bits }
    dike := s.dike
    out := s.out
    fresh := s.fresh
    pending := s.pending }

/-- A NODE (2) or WARM (1) reset with its `SOURCE` (R57-R60): every domain but AON restarts from its reset state; what AON
keeps stays. Requests and transitions in progress are abandoned without a status (R40). -/
def State.resetNarrow (s : State) (kind source : Nat) : State :=
  let swapped := s.boot.actEvent = 2 ∨ s.boot.actEvent = 3
  let base := s.resetBase kind
  let base := (base.put BOOT_STAGED_STATUS_ARMED 0).put BOOT_CAL_STATE_BUSY 0
  let base := (base.put BOOT_BAR2_QUEUE_PENDING 0).put HQ_LDG_STATUS_USED s.dlv.ledger.length
  let base := if swapped then base.put BOOT_STATUS_SLOT (1 - base.get BOOT_STATUS_SLOT) else base
  let base := if kind = 1 ∧ s.get TWIN_STATUS_STATE = 4 then base.put TWIN_STATUS_STATE 4 else base
  let base := ((base.incSat GLB_RST_CAUSE_COUNT).put GLB_RST_CAUSE_SOURCE source).put GLB_RST_CAUSE_KIND kind
  (s.showPins (((base.put GLB_MODE_MODE mLOADING).put GLB_MODE_PREV s.mode).emit (.processors 0))).showGroups

/-- R59: a wider reset than `kind` has begun and not yet ended: a narrower one is discarded. -/
def State.widerReset (s : State) (kind : Nat) : Bool :=
  s.node.held || (match s.node.resetKind with
    | some k => k == 0 || (k == 2 && kind == 1)
    | none => false)

/-- R37, R57: a reset of a kind other than POR leads from any mode except OFF into LOADING. While `PERST_N` holds the node in
a NODE reset, that wider reset stands (R59). -/
def State.narrowReset (s : State) (kind source : Nat) : State :=
  if s.node.off ∨ s.widerReset kind then s
  else if source = 2 then s.resetNarrow kind source
  else (s.resetNarrow kind source).hlogCopy

/-- R57, R58: what the node keeps in OFF: the calibration block, without `BUSY` and `ERR`, and what is wired to it. -/
def State.offBase (s : State) (node : NodeSt) : State :=
  { State.reset with
    regs := s.regs.filter (fun e => (e.1 / 32 == 0x10080 && e.1 != BOOT_CAL_STATE_ERR.key && e.1 != BOOT_CAL_STATE_BUSY.key)
      || (0x11000 ≤ e.1 / 32 && (e.1 / 32) < 0x12000))
    node := node
    out := s.out, fresh := s.fresh, pending := s.pending }

/-- R57: the node in OFF: all state is lost except the calibration block. `cause` is 0 for `POR_N` and 1 for a supply. -/
def State.toOff (s : State) (cause : Nat) : State :=
  let base := s.offBase { phase := List.replicate 17 .off, off := true, offCause := cause, wdogRun := false, perst := s.node.perst,
                          refTime := s.node.refTime, refSer := s.node.refSer, refPcie := s.node.refPcie, pswSense := s.node.pswSense }
  (base.put GLB_MODE_MODE mOFF).put GLB_PD_STATUS 0

/-- R57: `POR_N` low for at least 10 µs. -/
def execPorAssert (s : State) : Host.Outcome State Fault Refusal := .next (s.toOff 0)

/-- R477: a supply loss takes the node to OFF. -/
def execSupplyLoss (s : State) : Host.Outcome State Fault Refusal := .next (s.toOff 1)

/-- R25, R57: every domain but AON is down. -/
def State.domainsDown (s : State) : State :=
  State.showGroups (State.put { s with node := { s.node with phase := .up :: List.replicate 16 .off } } GLB_PD_STATUS 1)

/-- R31: the reset set of domains comes up. -/
def State.domainsUp (s : State) : State :=
  State.showGroups (State.put { s with node := { s.node with phase := resetPhases } } GLB_PD_STATUS 0x45F)

/-- R57, R60: `PERST_N` low holds the node in its reset. -/
def State.holdReset (s : State) : State := State.domainsDown { s with node := { s.node with perst := true, held := true } }

/-- R37, R47: a rising edge of `POR_N` with all supplies valid starts LOADING. The straps are sampled once. The time counter
starts at 0 (R216). A `PERST_N` that is low holds the node (R60). -/
def execPorRelease (load : BitVec 2) (slot testEn psw : Bool) (suppliesValid : Bool) (s : State) :
    Host.Outcome State Fault Refusal :=
  .next (if s.node.off ∧ suppliesValid then
      let base := s.offBase { State.reset.node with
                              pswSense := psw, perst := s.node.perst
                              refTime := s.node.refTime, refSer := s.node.refSer, refPcie := s.node.refPcie }
      let base := ((base.put GLB_STRAP_LOAD load.toNat).put GLB_STRAP_SLOT (b2n slot)).put GLB_STRAP_TEST_EN (b2n testEn)
      let base := ((base.put GLB_PSW_SENSE (b2n psw)).put GLB_RST_CAUSE_SOURCE s.node.offCause).showGroups
      if s.node.perst then base.holdReset else base
    else s)

/-- R60: `GLB_RESET` written with the key and `KIND` 1; `SOURCE` 4 for a remote access and 3 otherwise. -/
def resetSource : Requester → Nat
  | .remote _ => 4
  | _ => 3

/-- R60: a WARM reset by `GLB_RESET`. -/
def execGlbResetWarm (req : Requester) (s : State) : Host.Outcome State Fault Refusal :=
  .next (if s.aonOpen then s.narrowReset 1 (resetSource req) else s)

/-- R60: a NODE reset by `GLB_RESET`. -/
def execGlbResetNode (req : Requester) (s : State) : Host.Outcome State Fault Refusal :=
  .next (if s.aonOpen then s.narrowReset 2 (resetSource req) else s)

/-- R60: HIF in its reset state: its registers and queues at their reset values and the host link down (R499). -/
def State.hifReset (s : State) : State :=
  let s := (s.clearRegs dHIF).freshUnits dHIF
  { s with hq := { s.hq with blocked := true } }

/-- R57, R60: `PERST_N` asserted: a NODE reset that holds for as long as the pin stays low, or HIF alone in reset. -/
def execPerstAssert (s : State) : Host.Outcome State Fault Refusal :=
  .next (if s.node.off then { s with node := { s.node with perst := true } }
    else if s.flag GLB_RST_CFG then (s.narrowReset 2 2).holdReset
    else { s with node := { s.node with perst := true } }.hifReset)

/-- R57, R60: `PERST_N` released: LOADING starts after a NODE reset; otherwise the host link retrains. -/
def execPerstRelease (s : State) : Host.Outcome State Fault Refusal :=
  .next (
    let t := { s with node := { s.node with perst := false, held := false } }
    if s.node.held ∧ ¬ s.node.awaitRefs then t.domainsUp else t)

/-- R497: a whole watchdog period without service: a WARM reset with `SOURCE` 5, and `SV_WDOG` recorded after it (R437). The
watchdog does not run in DORMANT. -/
def execSvWatchdogExpiry (s : State) : Host.Outcome State Fault Refusal :=
  .next (if s.node.wdogRun ∧ ¬ s.node.off ∧ ¬ s.widerReset 1 then (s.resetNarrow 1 5).record 8 else s)

/-- R433: `RECOVER_MS` after entry to CONTAINED the supervisor writes `GLB_RESET` with `KIND` = 1, while SV is not fenced. -/
def execFltRecoverExpiry (s : State) : Host.Outcome State Fault Refusal :=
  .next (if s.node.recovering ∧ s.mode = mCONTAINED ∧ ¬ s.isFenced dSV then s.narrowReset 1 3 else s)

/-! ### Wakes (R37, R39, R170-R172) -/

/-- R176: a wake source recorded: its bit, and `FIRST` when the bits were all 0. -/
def State.recordWake (s : State) (bit first : Nat) : State :=
  let s := if s.get AON_WAKE_SRC_SRC = 0 then s.put AON_WAKE_SRC_FIRST first else s
  s.orBits AON_WAKE_SRC_SRC (1 <<< bit)

/-- R37: a wake from DORMANT acts as a NODE reset with `SOURCE` 7. The reset set of domains comes up only once all three
references are present (R25). -/
def State.wakeFromDormant (s : State) : State :=
  let refs := s.node.refTime && s.node.refSer && s.node.refPcie
  let s := s.resetNarrow 2 7
  if refs then s else State.domainsDown { s with node := { s.node with awaitRefs := true } }

/-- R39, R170: a wake source at the node: from DORMANT into LOADING; from LULL into WAKING; a consented round is voided; a
DORMANT entry is abandoned before SV has isolated and followed by LOADING after it. -/
def State.wake (s : State) (bit first : Nat) : State :=
  if s.mode = mDORMANT then (s.recordWake bit first).wakeFromDormant
  else if s.mode = mLULL then
    let s := s.recordWake bit first
    if s.get RING_LULL_STATUS_STATE = 3 then (s.put RING_LULL_STATUS_STATE 4).portsWake else s
  else if s.node.modeReq = some mDORMANT then
    let s := s.recordWake bit first
    if s.dormantSure then { s with node := { s.node with wakeLate := true } }
    else
      let s := s.bringBack
      State.epChange { s.put GLB_MODE_REQ_STATUS 4 with node := { s.node with modeReq := none } } []
  else if s.get RING_LULL_STATUS_STATE = 1 then (s.recordWake bit first).voidBy 6
  else if s.get RING_LULL_STATUS_STATE = 2 then
    { s.recordWake bit first with node := { s.node with wakeLate := true } }
  else s

/-- R37: DORMANT is reached once SV, the last domain, is isolated and every domain but AON is off. The ledger has been
written to retention RAM. A wake source that fired meanwhile is followed at once (R39). -/
def execDormantEntryComplete (s : State) : Host.Outcome State Fault Refusal :=
  .next (if s.node.modeReq = some mDORMANT ∧
        ((List.range 17).drop 1).all (fun d => s.phase d == .off || (s.phase d == .isolated && d == dSV)) then
      let s := (s.setPhase dSV .off).setMode mDORMANT
      let late := s.node.wakeLate
      let s := { s.put GLB_MODE_REQ_STATUS 1 with node :=
        { s.node with modeReq := none, ledgerSaved := true, wdogRun := false, wakeLate := false } }
      if late then s.wakeFromDormant else s
    else s)

/-- R25: after a wake from DORMANT, the last missing reference returns and the reset set of domains comes up. -/
def execReferenceClocksPresent (s : State) : Host.Outcome State Fault Refusal :=
  .next (let node := { s.node with refTime := true, refSer := true, refPcie := true }
    if s.node.awaitRefs then
      let s := { s with node := { node with awaitRefs := false } }
      if s.node.held then s else s.domainsUp
    else { s with node := node })

/-- R171, R172: `WAKE_IN` high for 1 µs. -/
def execWakeInAssert (s : State) : Host.Outcome State Fault Refusal := .next (s.wake 0 1)

end Sys2Proof.Machine
end

