-- ==== Sys2Proof/Machine/Boot.lean ====
section
/-! DEFINITION. The boot ROM agent, staging, scheduled activation and the calibration block (R61-R82, R494, R498). -/

namespace Sys2Proof.Machine

open Sys2Proof.Machine.Reg

/-! ### Blocks (R62-R65, R498) -/

/-- A block of R62. -/
structure Block where
  tag  : Nat
  off  : Nat
  len  : Nat
  zero : Nat
  id   : Nat
  data : List Byte
  crc  : Nat
  size : Nat
  ok   : Bool
  deriving DecidableEq, Repr

/-- R62: the fields of a block, with its own CRC tested. -/
def parseBlock (bs : List Byte) : Block :=
  let len := leAt bs 8 2
  { tag := leAt bs 0 4, off := leAt bs 4 4, len, zero := leAt bs 10 2, id := leAt bs 12 4
    data := (bs.drop 16).take len, crc := leAt bs (16 + len) 4, size := bs.length
    ok := crc32c (bs.take (16 + len)) == leAt bs (16 + len) 4 }

/-- R64: the offsets of the control blocks. -/
def offStart : Nat := 0xFFFFF000
def offRestart : Nat := 0xFFFFF400

/-- R74: blocks open a staging session in ACTIVE, SERVICE and TWIN-STANDBY. -/
def State.staging (s : State) : Bool := s.mode == mACTIVE || s.mode == mSERVICE || s.mode == mSTANDBY

/-- The session that a block is judged against. -/
def State.session (s : State) : Session := if s.staging then s.boot.stage else s.boot.load

/-- The status of that session, by the codes of R61. -/
def State.sessionStatus (s : State) : Nat :=
  if s.staging then s.get BOOT_STAGED_STATUS_STAGE_STATUS else s.get BOOT_STATUS_LOAD_STATUS

/-- That session changed. -/
def State.setSession (s : State) (x : Session) : State :=
  if s.staging then { s with boot := { s.boot with stage := x } } else { s with boot := { s.boot with load := x } }

/-- Its status changed. -/
def State.setSessionStatus (s : State) (v : Nat) : State :=
  if s.staging then s.put BOOT_STAGED_STATUS_STAGE_STATUS v else s.put BOOT_STATUS_LOAD_STATUS v

/-- Its `DETAIL`. -/
def State.setSessionDetail (s : State) (v : Nat) : State :=
  if s.staging then s.put BOOT_STAGED_STATUS_DETAIL v else s.put BOOT_STATUS_DETAIL v

/-- The image slot that the session's blocks go to: the active slot in LOADING, the other slot for staging. -/
def State.sessionSlot (s : State) : Nat :=
  if s.staging then 1 - s.get BOOT_STATUS_SLOT else s.get BOOT_STATUS_SLOT

/-- The LPDDR5 address of an image slot. -/
def slotBase (slot : Nat) : Nat := if slot = 0 then 0 else 0x02000000

/-- What a slot holds. -/
def State.slotInfo (s : State) (slot : Nat) : SlotInfo := if slot = 0 then s.boot.slot0 else s.boot.slot1

/-- What a slot holds, changed. -/
def State.setSlotInfo (s : State) (slot : Nat) (x : SlotInfo) : State :=
  if slot = 0 then { s with boot := { s.boot with slot0 := x } } else { s with boot := { s.boot with slot1 := x } }

/-- R47, R498 test 5: path 0 BAR2, 1 service port, 2 ring boot, as the straps allow. -/
def State.pathAllowed (s : State) (path : Nat) : Bool :=
  s.get GLB_STRAP_LOAD == 0 || s.get GLB_STRAP_LOAD == path + 1

/-- R63: the pages of an image. -/
def pagesOf (total : Nat) : Nat := ceilDiv total 1024

/-- The four bytes of a component entry's fields from byte `i` of the header (R70): ID, flags, offset, length, CRC. -/
def compAt (d : List Byte) (i : Nat) : Nat × Nat × Nat × Nat × Nat :=
  (leAt d (48 + 16 * i) 2, leAt d (50 + 16 * i) 2, leAt d (52 + 16 * i) 4, leAt d (56 + 16 * i) 4, leAt d (60 + 16 * i) 4)

/-- R70: the component rules, all four required components present. -/
def compsOk (d : List Byte) (hdrLen total count : Nat) : Bool :=
  let cs := (List.range count).map (compAt d)
  1 ≤ count && count ≤ 61
  && cs.all (fun (id, fl, off, len, _) =>
      1 ≤ id && id ≤ 6 && fl == 0 && len != 0 && hdrLen ≤ off && off + len ≤ total)
  && (List.range count).all (fun i => (List.range i).all (fun j =>
      let (_, _, oi, li, _) := compAt d i
      let (_, _, oj, lj, _) := compAt d j
      oi + li ≤ oj || oj + lj ≤ oi))
  && [1, 2, 3, 4].all (fun id => cs.any (fun c => c.1 == id))

/-- A list of bytes with those of `lo` to `hi - 1` read as 0. -/
def zeroBytes (d : List Byte) (lo hi : Nat) : List Byte :=
  d.take lo ++ List.replicate (min hi d.length - min lo d.length) 0 ++ d.drop hi

/-- R71: the checks of a header block in their order: 0 when all pass. `from?` is the running `IMAGE_VERSION` of a staging
session. -/
def headerCheck (d : List Byte) (len : Nat) (from? : Option Nat) : Nat :=
  let hdrLen := leAt d 6 2
  let count := leAt d 32 2
  let total := leAt d 12 4
  if leAt d 0 4 ≠ 0x4B4E4D46 then 0x01
  else if leAt d 5 1 ≠ 1 ∨ leAt d 34 14 ≠ 0 then 0x02
  else if hdrLen ≠ 48 + 16 * count ∨ 1024 < hdrLen ∨ len < hdrLen then 0x03
  else if crc32c (zeroBytes (d.take hdrLen) 20 24) ≠ leAt d 20 4 then 0x04
  else if leAt d 8 2 ≠ 0x0640 then 0x05
  else if ¬ (leAt d 10 2).testBit 1 then 0x06
  else if total < hdrLen ∨ 33554432 < total ∨ len ≠ min 1024 total then 0x07
  else if ¬ compsOk d hdrLen total count then 0x08
  else match from? with
    | some v => if v < leAt d 28 4 then 0x09 else 0
    | none => 0

/-- The header that a page 0 holds (R69, R70). -/
def readHeader (d : List Byte) : Header :=
  { total := leAt d 12 4, crc := leAt d 16 4, version := leAt d 24 4
    comps := (List.range (leAt d 32 2)).map (fun i =>
      let (id, _, off, len, crc) := compAt d i
      (id, off, len, crc)) }

/-- R64, R498 test 9: the data of a restart block are valid. -/
def restartOk (d : List Byte) : Bool := leAt d 0 1 ≤ 1 && leAt d 1 15 == 0

/-- R64, R65: the data of a start block are valid on a path. -/
def startOk (d : List Byte) (path : Nat) : Bool :=
  leAt d 0 1 ≤ 1 && leAt d 1 1 ≤ 2 && leAt d 2 14 == 0 && !(leAt d 0 1 == 1 && path == 2)

/-- R498: the status of a block by the first test that fails, with the `DETAIL` of a header check; status 0 when every test
passes. -/
def State.blockStatus (s : State) (path : Nat) (b : Block) : Nat × Nat :=
  let x := s.session
  let st := s.sessionStatus
  let ctl := 0xFFFFF000 ≤ b.off
  let restart := b.off == offRestart
  let start := b.off == offStart
  let page := b.off / 1024
  if b.tag ≠ 0x4C424B31 then (0x03, 0)
  else if b.len = 0 ∨ b.len % 4 ≠ 0 ∨ 1024 < b.len ∨ b.size < 20 + b.len then (0x04, 0)
  else if ¬ b.ok then (0x02, 0)
  else if b.zero ≠ 0 then (0x04, 0)
  else if ¬ s.pathAllowed path then (0x08, 0)
  else if s.mode = mLULL ∨ s.mode = mCONTAINED then (0x0D, 0)
  else if s.get BOOT_STATUS_LOAD_STATUS = 8 ∧ ¬ s.staging then (0x09, 0)
  else if ctl ∧ ¬ (restart ∨ start) then (0x05, 0)
  else if ctl ∧ b.len ≠ 16 then (0x04, 0)
  else if restart then
    if ¬ restartOk b.data then (0x11, 0)
    else if leAt b.data 0 1 = 1 ∧ s.flag BOOT_STAGED_STATUS_ARMED then (0x0C, 0)
    else (0, 0)
  else if st = 6 ∨ st = 7 then (0x09, 0)
  else if x.owner ≠ 0 ∧ x.owner ≠ path + 1 then (0x08, 0)
  else if ¬ start ∧ s.staging ∧ s.flag BOOT_STAGED_STATUS_ARMED then (0x0C, 0)
  else match x.hdr with
    | none =>
      if start then (if s.staging then (0x12, 0) else (0x10, 0))
      else if b.off ≠ 0 then (0x06, 0)
      else
        let d := headerCheck b.data b.len (if s.staging then some (s.get BOOT_IMG_VERSION) else none)
        if d ≠ 0 then (0x0A, d) else (0, 0)
    | some h =>
      if b.id ≠ h.crc then (0x07, 0)
      else if start then
        (if s.staging then (0x12, 0) else if st ≠ 3 then (0x10, 0)
         else if ¬ startOk b.data path then (0x11, 0) else (0, 0))
      else if st ≠ 1 then (0x0B, 0)
      else if b.off % 1024 ≠ 0 ∨ pagesOf h.total ≤ page then (0x05, 0)
      else if b.len ≠ min 1024 (h.total - page * 1024) then (0x04, 0)
      else (0, 0)

/-- R73: `BOOT_PAGES` and `BOOT_MISSING` show the session that blocks are judged against at the time (DESIGN CHOICE: the spec does not
say which of the two sessions they report; notes/assumptions/10.md). -/
def State.showPages (s : State) : State :=
  match s.session.hdr with
  | none => (((s.put BOOT_PAGES_EXPECTED 0).put BOOT_PAGES_RECEIVED 0).put BOOT_MISSING_NONE 0).put BOOT_MISSING_FIRST 0
  | some h =>
    let p := pagesOf h.total
    let s := (s.put BOOT_PAGES_EXPECTED p).put BOOT_PAGES_RECEIVED (popCount s.session.bitmap p)
    match lowestFrom (fun i => !s.session.bitmap.testBit i) p 0 with
    | some i => (s.put BOOT_MISSING_NONE 0).put BOOT_MISSING_FIRST i
    | none => (s.put BOOT_MISSING_NONE 1).put BOOT_MISSING_FIRST 0

/-- R63: a page written into the session's slot; the last missing page starts the check (R61). -/
def State.storePage (s : State) (x : Session) (h : Header) (b : Block) : State :=
  let s := s.memWrite (slotBase s.sessionSlot + b.off) b.data
  let x := { x with bitmap := setBit x.bitmap (b.off / 1024) }
  let s := (s.setSession x).showPages
  if popCount x.bitmap (pagesOf h.total) = pagesOf h.total then s.setSessionStatus 2 else s.setSessionStatus 1

/-- R61, R69: a header accepted: its path becomes the owner and `LOAD_ID` = `IMG_CRC`. -/
def State.acceptHeader (s : State) (path : Nat) (b : Block) : State :=
  let h := readHeader b.data
  let x : Session := { owner := path + 1, hdr := some h, bitmap := 0 }
  let s := if s.staging then s.put BOOT_STAGED_CRC h.crc else s.put BOOT_STATUS_PATH (path + 1)
  (s.setSlotInfo s.sessionSlot {}).storePage x h b

/-- R61: the load session restarts: ownership released, page bitmap cleared. TEST_HOLD is not left. A re-check after a WARM reset
that it meets is given up. -/
def State.restartLoad (s : State) : State :=
  if s.get BOOT_STATUS_LOAD_STATUS = 8 then s
  else
    let s := { s with boot := { s.boot with load := {}, warmCheck := false } }
    let s := (s.put BOOT_STATUS_LOAD_STATUS 0).put BOOT_STATUS_PATH 0
    if s.staging then s else s.showPages

/-- R61, R74: the staging session restarts, unless its image is armed. An image of the staging slot that has never run is given up with
it (R75). -/
def State.restartStage (s : State) : State :=
  if s.flag BOOT_STAGED_STATUS_ARMED then s
  else
    let other := 1 - s.get BOOT_STATUS_SLOT
    let s := { s with boot := { s.boot with stage := {} } }
    let s := (s.put BOOT_STAGED_STATUS_STAGE_STATUS 0).put BOOT_STAGED_CRC 0
    let s := if (s.slotInfo other).ran then s else s.setSlotInfo other {}
    if s.staging then s.showPages else s

/-- R61: a restart of a session: 0 the load, 1 the staging session. -/
def State.restartSession (s : State) (sess : Nat) : State := if sess = 1 then s.restartStage else s.restartLoad

/-- R73, R498: `BOOT_CTRL` acts as a restart block: not in LULL or CONTAINED, and not in TEST_HOLD. -/
def State.ctrlRestart (s : State) (sess : Nat) : State :=
  if s.mode = mLULL ∨ s.mode = mCONTAINED ∨ (s.get BOOT_STATUS_LOAD_STATUS = 8 ∧ ¬ s.staging) then s else s.restartSession sess

/-- The kind of a block by its `OFFSET` and the session: 0 header, 1 image, 2 start, 3 restart, 4 an offset of no block. -/
def State.blockKind (s : State) (b : Block) : Nat :=
  if b.off = offStart then 2 else if b.off = offRestart then 3 else if 0xFFFFF000 ≤ b.off then 4
  else if s.session.hdr = none ∧ b.off = 0 then 0 else 1

/-! ### The start of an image (R72) -/

/-- The component of an image that processor `p` is loaded from (R70). -/
def procComp (p : Nat) : Nat := if p = 0 then 1 else if p ≤ 6 then 2 else if p = 7 then 3 else 4

/-- The header that an image slot holds. -/
def State.slotHeader (s : State) (slot : Nat) : Header := readHeader (s.memRead (slotBase slot) 1024)

/-- R72: processors loaded from their components of the image in the active slot. -/
def State.loadProcs (s : State) (ps : List Nat) : State :=
  let slot := s.get BOOT_STATUS_SLOT
  let comps := (s.slotHeader slot).comps
  ps.foldl (fun s p => (comps.filter (fun c => c.1 == procComp p)).foldl
    (fun s c => s.emit (.load p (slotBase slot + c.2.1) c.2.2.1)) s) s

/-- R72: the agent jumps to the supervisor firmware, which loads P1-P8 and releases them. -/
def State.startImage (s : State) : State :=
  (((s.loadProcs [0]).emit (.processors 2)).loadProcs [1, 2, 3, 4, 5, 6, 7, 8]).emit (.processors 3)

/-- What a block that every test of R498 passes does. -/
def State.actOnBlock (s : State) (path : Nat) (b : Block) : State :=
  if b.off = offRestart then s.restartSession (leAt b.data 0 1)
  else if b.off = offStart then
    State.startImage { s.put BOOT_STATUS_LOAD_STATUS 4 with boot := { s.boot with
        startRing := leAt b.data 0 1, startTwin := leAt b.data 1 1 } }
  else match s.session.hdr with
    | none => s.acceptHeader path b
    | some h => s.storePage s.session h b

/-- R498: the agent judges a block and acts on it: the new state with the block's status and `DETAIL`. A header block that
fails a check leads to REFUSED_HEADER (R61). Other refused blocks change nothing. -/
def State.agent (s : State) (path : Nat) (bs : List Byte) : State × Nat × Nat :=
  let b := parseBlock bs
  let (st, d) := s.blockStatus path b
  if st = 0 then (s.actOnBlock path b, 0, 0)
  else if st = 0x0A then ((s.setSessionStatus 6).setSessionDetail d, st, d)
  else (s, st, d)

/-- R67: `LOAD_ID` of the session against which a block is judged: 0 while it has no accepted header. During the re-check after a
WARM reset the load session holds the header of the active slot. -/
def State.replyId (s : State) : Nat :=
  if s.staging then s.get BOOT_STAGED_CRC else (s.boot.load.hdr.map (fun h => h.crc)).getD 0

/-- R66: a BAR2 slot posted. A post beyond 64 is discarded and sets `OVERRUN`. -/
def execBootBar2Post (slot : BitVec 13) (s : State) : Host.Outcome State Fault Refusal :=
  .next (if ¬ s.aonOpen then s
    else if s.boot.posts.length < 64 then
      { s with boot := { s.boot with posts := s.boot.posts ++ [slot.toNat] } }.put BOOT_BAR2_QUEUE_PENDING
        (s.boot.posts.length + 1)
    else s.raise BOOT_BAR2_QUEUE_OVERRUN)

/-- R66, R494: the agent consumes the oldest post: it copies the slot's block, judges it, and reports in
`BOOT_BAR2_RESULT`. -/
def execBar2SlotConsumed (s : State) : Host.Outcome State Fault Refusal :=
  .next (match s.boot.posts with
    | slot :: rest =>
      if s.boot.pathsOpen then
        let bs := Memory.readList s.bar2 (slot * 2048) 1044
        let s := { s with boot := { s.boot with posts := rest } }.put BOOT_BAR2_QUEUE_PENDING rest.length
        let (s, st, d) := s.agent 0 bs
        ((s.put BOOT_BAR2_RESULT_STATUS st).put BOOT_BAR2_RESULT_DETAIL d).put BOOT_BAR2_RESULT_LAST_SLOT slot
      else s
    | [] => s)

/-- R494: a host write in the BAR2 window, of any width and alignment. -/
def execBar2Write (off : Nat) (bytes : List Byte) (s : State) : Host.Outcome State Fault Refusal :=
  .next (if off + bytes.length ≤ 0x1000000 ∧ s.accessible dHIF then { s with bar2 := Memory.writeList s.bar2 off bytes } else s)

/-- R67: the agent's MAC address: 0x02 followed by `GLB_UID` [39:0]. -/
def ownMac : Nat := 0x02 * 2 ^ 40 + Config.uid.toNat % 2 ^ 40

/-- The broadcast MAC address. -/
def allMac : Nat := 2 ^ 48 - 1

/-- R67, R68: the 16 bytes that answer a block. -/
def State.replyBytes (s : State) (offset status detail : Nat) : List Byte :=
  replyPayload offset status detail s.sessionStatus s.replyId

/-- R67: a UDP datagram on the service port: one to the agent's own MAC address or to broadcast, at port 50640, delivers one block, and
every block is answered. -/
def execSvcBootDatagram (g : Datagram) (s : State) : Host.Outcome State Fault Refusal :=
  .next (if s.boot.pathsOpen ∧ (g.dstMac = ownMac ∨ g.dstMac = allMac) ∧ g.dstPort = 50640 then
      let (s', st, d) := s.agent 1 g.bytes
      s'.emit (.svcReply g.srcMac ownMac g.srcIp g.dstIp g.srcPort 50640 (s'.replyBytes (leAt g.bytes 4 4) st d))
    else s)

/-- R150, R166: the root as this node knows it. -/
def State.rootNode (s : State) : Nat :=
  match s.ring.map with
  | r :: _ => r
  | [] => match s.ring.rootId with
    | some r => r
    | none => s.ring.enumSrc.getD 0

/-- R68, R153: a BOOT_BLOCK frame delivers one block; a unicast block is answered with BOOT_REPLY, by the port of its arrival where there is no
ring map. -/
def execBootBlockFrame (unicast : Bool) (src : AtPort) (bytes : List Byte) (s : State) :
    Host.Outcome State Fault Refusal :=
  .next (if s.boot.pathsOpen then
      let (s', st, d) := s.agent 2 bytes
      if unicast then s'.unicast src.num 0 0 (.bootReply (leAt bytes 4 4) st d s'.sessionStatus s'.replyId) src.port else s'
    else s)

/-- R161: a BOOT_REPLY reaches the root and stands for its firmware, in order. -/
def execBootReplyFrame (node offset status detail loadStatus loadId : Nat) (s : State) :
    Host.Outcome State Fault Refusal :=
  .next (if s.flag RING_NODE_ROOT then
      { s with boot := { s.boot with replies := s.boot.replies ++ [(node, offset, status, detail, loadStatus, loadId)] } }
    else s)

/-- A block of one kind at the agent, by whatever path it came. -/
def State.agentKind (s : State) (kind path : Nat) (bs : List Byte) : State :=
  if s.boot.pathsOpen ∧ s.blockKind (parseBlock bs) = kind then (s.agent path bs).1 else s

/-- R61, R71: a page-0 block before a header is accepted. -/
def execBootHeaderBlock (path : Fin 3) (bytes : List Byte) (s : State) : Host.Outcome State Fault Refusal :=
  .next (s.agentKind 0 path bytes)

/-- R63: an image block. -/
def execBootImageBlock (path : Fin 3) (bytes : List Byte) (s : State) : Host.Outcome State Fault Refusal :=
  .next (s.agentKind 1 path bytes)

/-- R72: a start block. -/
def execBootStartBlock (path : Fin 3) (bytes : List Byte) (s : State) : Host.Outcome State Fault Refusal :=
  .next (s.agentKind 2 path bytes)

/-- R64: a restart block. -/
def execBootRestartBlock (path : Fin 3) (bytes : List Byte) (s : State) : Host.Outcome State Fault Refusal :=
  .next (s.agentKind 3 path bytes)

/-- R73: `BOOT_CTRL.RESTART` acts as a restart block with `SESSION` 0. -/
def execBootCtrlRestart (s : State) : Host.Outcome State Fault Refusal := .next (if s.aonOpen then s.ctrlRestart 0 else s)

/-- R73: `BOOT_CTRL.RESTART_STAGE` acts as a restart block with `SESSION` 1. -/
def execBootCtrlRestartStage (s : State) : Host.Outcome State Fault Refusal := .next (if s.aonOpen then s.ctrlRestart 1 else s)

/-! ### The end of a reset, the check of an image and its start -/

/-- R69, R70: the image of a slot under a header: 0 when all CRCs match, else the `DETAIL` code of the first that differs. -/
def State.imageCheck (s : State) (slot : Nat) (h : Header) : Nat :=
  let img := s.memRead (slotBase slot) h.total
  if crc32c (zeroBytes img 16 24) ≠ h.crc then 0x10
  else if h.comps.all (fun (_, off, len, crc) => crc32c ((img.drop off).take len) == crc) then 0
  else 0x11

/-- R61: after a WARM reset the active slot has been checked: the image starts again, or the agent waits for a header. -/
def State.verifyWarm (s : State) : State :=
  let slot := s.get BOOT_STATUS_SLOT
  let page := s.memRead (slotBase slot) 1024
  let s := { s with boot := { s.boot with warmCheck := false } }
  if headerCheck page (min 1024 (leAt page 12 4)) none = 0 ∧ s.imageCheck slot (readHeader page) = 0 then
    State.startImage { s.put BOOT_STATUS_LOAD_STATUS 4 with boot := { s.boot with
        startRing := b2n s.node.ringRoot
        startTwin := match s.node.twinRole with
          | .single => 0 | .active => 1 | .standby => 2 } }
  else s.restartLoad.put BOOT_STATUS_DETAIL 0x20

/-- R61: the image and component CRCs have been computed. -/
def execImageVerifyDone (s : State) : Host.Outcome State Fault Refusal :=
  .next (if s.sessionStatus ≠ 2 then s
    else if s.boot.warmCheck ∧ ¬ s.staging then s.verifyWarm
    else match s.session.hdr with
      | none => s
      | some h =>
        let d := s.imageCheck s.sessionSlot h
        if d = 0 then
          (s.setSlotInfo s.sessionSlot { valid := true, crc := h.crc, version := h.version }).setSessionStatus 3
        else (s.setSessionDetail d).setSessionStatus 7)

/-- R81, R82: at the end of every reset the calibration block is read, for use until the next reset; a BLANK block records
`CAL_BLANK`. -/
def State.readCalibration (s : State) : State :=
  let blank := s.get BOOT_CAL_STATE_CAL_STATE == 0
  let s : State := { s with boot := { s.boot with
    cal := s.regs.filter (fun e => 0x11000 ≤ e.1 / 32 && e.1 / 32 < 0x12000), calBlank := blank } }
  if blank then s.record 6 else s

/-- R220: the lock state after a reset: HOLDOVER when the node has been LOCKED since the last POR, FREE otherwise. -/
def State.timeAfterReset (s : State) : State :=
  (s.putLevel TIME_STATUS_LOCK (if s.flag TIME_STATUS_EVER_LOCKED then 3 else 0)).put TIME_STATUS_LOCKED_SINCE_RESET 0

/-- R493: LPDDR5 training completes. -/
def State.trained (s : State) (sizeGiB : Nat) : State := (s.put MEM_STATUS_TRAINED 1).put MEM_STATUS_SIZE_GIB sizeGiB

/-- The twin role of a start block (R64). -/
def twinRoleOf (v : Nat) : TwinRole := if v = 1 then .active else if v = 2 then .standby else .single

/-! ### Scheduled activation (R75-R79) -/

/-- R76: the root's round: every named node has reported `code`. -/
def State.allReported (s : State) (code : Nat) : Bool :=
  (bitList s.boot.actMap 256).all
    (fun n => n == 0 || n == 255 || s.boot.reports.any (fun r => r.1 == n && r.2 == code))

/-- R76: the nodes that `BOOT_ACT_MAP` names, as one value. -/
def State.actNodes (s : State) : Nat :=
  (List.range 8).foldl (fun acc m => acc + s.get (BOOT_ACT_MAP m) * 2 ^ (32 * m)) 0

/-- R76: the `ACT_TIME` that software has written. -/
def State.actTime (s : State) : Nat := s.get64 BOOT_ACT_TIME_LO BOOT_ACT_TIME_HI

/-- R78: this node no longer armed. -/
def State.unarm (s : State) : State := { s with boot := { s.boot with armed := none } }.put BOOT_STAGED_STATUS_ARMED 0

/-- R76: the round cancelled: ACT_CANCEL sent, which the root obeys like any other node that the round names. -/
def State.cancelRound (s : State) : State :=
  let s := (s.broadcast (.actCancel s.boot.actSeq)).put BOOT_ACT_RESULT_ACT_STATE 3
  if s.boot.actEvent = 0 ∧ s.boot.armed.any (fun a => a.seq == s.boot.actSeq) then s.unarm else s

/-- R75, R77: a node judges ACT_ARM and answers with a result code: 0 when it arms. The image may be that which READY staging or an
earlier run has left in the other slot. -/
def State.armResult (s : State) (time crc seq : Nat) : Nat :=
  let other := s.slotInfo (1 - s.get BOOT_STATUS_SLOT)
  if ¬ (other.valid ∧ other.crc = crc) then 2
  else if s.mode = mCONTAINED ∨ s.boot.armed.any (fun a => a.seq != seq) then 3
  else if time < s.ringTime + 10000000 then 4
  else 0

/-- R77: the node's activation time: `ACT_TIME`, and `TWIN_GAP` later for the active half of a twin pair. -/
def State.armAt (s : State) (time gap : Nat) : Nat := if s.node.twinRole = .active then time + gap * 1000 else time

/-- R77: a named node arms, or reports why it does not. -/
def State.armNode (s : State) (time crc gap seq src : Nat) : State :=
  let r := s.armResult time crc seq
  let s := if r = 0 then
      { s with boot := { s.boot with armed := some { time := s.armAt time gap, seq, src } } }.put BOOT_STAGED_STATUS_ARMED 1
    else s
  s.unicast src 0 0 (.actReport seq s.nodeId r) s.boot.actPort

/-- R76: the first result other than `ACT_ARMED` and `ACT_DONE` of a node is counted, the first such node with its result. -/
def State.countBad (s : State) (node code : Nat) : State :=
  if code ≤ 1 ∨ s.boot.reports.any (fun r => r.1 == node && decide (1 < r.2)) then s
  else
    let s : State := if s.get BOOT_ACT_RESULT_NODES_BAD = 0 then
        (s.put BOOT_ACT_RESULT_FIRST_NODE node).put BOOT_ACT_RESULT_CODE code else s
    s.inc BOOT_ACT_RESULT_NODES_BAD

/-- R76: a report of a named node at the root: recorded and counted; up to `ACT_TIME` − 50 ms one other than `ACT_ARMED` cancels the
round, and the last `ACT_ARMED` ends ARMING. -/
def State.actReported (s : State) (node code : Nat) : State :=
  if ¬ s.boot.actMap.testBit node then s
  else
    let s := s.countBad node code
    let s := { s with boot := { s.boot with reports := s.boot.reports ++ [(node, code)] } }
    if s.ringTime + 50000000 ≤ s.boot.actAt ∧ code ≠ 0 then s.cancelRound
    else if s.get BOOT_ACT_RESULT_ACT_STATE = 1 ∧ s.allReported 0 then s.put BOOT_ACT_RESULT_ACT_STATE 2
    else s

/-- R76: the root starts a round: ACT_ARM sent, and the root judged like any other node that the map names. -/
def State.startAct (s : State) (gap : Nat) : State :=
  let q := (s.boot.actSeq + 1) % 65536
  let s := { s.put BOOT_ACT_CTRL_TWIN_GAP gap with boot := { s.boot with
    actSeq := q, reports := [], actAt := s.actTime, actGap := gap, actMap := s.actNodes } }
  let s := (((s.put BOOT_ACT_RESULT_ACT_STATE 1).put BOOT_ACT_RESULT_CODE 0).put BOOT_ACT_RESULT_NODES_BAD 0).put
    BOOT_ACT_RESULT_FIRST_NODE 0
  let s := s.broadcast (.actArm s.actTime (s.get BOOT_ACT_CRC) gap q s.actNodes)
  if s.actNodes.testBit s.nodeId then
    let r := s.armResult s.actTime (s.get BOOT_ACT_CRC) q
    let s := if r = 0 then
        { s with boot := { s.boot with armed := some { time := s.armAt s.actTime gap, seq := q, src := s.nodeId } } }.put
          BOOT_STAGED_STATUS_ARMED 1 else s
    s.actReported s.nodeId r
  else s

/-- R76: `ARM` is heard: at the root, and no round runs. -/
def State.armHeard (s : State) : Bool :=
  s.flag RING_NODE_ROOT && s.get BOOT_ACT_RESULT_ACT_STATE != 1 && s.get BOOT_ACT_RESULT_ACT_STATE != 2

/-- R76: `ARM` with this `TWIN_GAP` starts a round. -/
def State.armOk (s : State) (gap : Nat) : Bool :=
  s.armHeard && decide (5000 ≤ gap) && decide (s.ringTime + 200000000 ≤ s.actTime)

/-- R76: `BOOT_ACT_CTRL` written with `ARM` = 1: the root judges `TWIN_GAP` and `ACT_TIME` and starts the round. A node that
the map names at the root arms like any other. A refused write changes no field (R496). -/
def execActArmCmd (val : Word) (s : State) : Host.Outcome State Fault Refusal :=
  let gap := val.toNat / 65536
  .next (if ¬ (s.aonOpen ∧ s.armHeard) then s
    else if gap < 5000 then (s.put BOOT_ACT_RESULT_ACT_STATE 3).put BOOT_ACT_RESULT_CODE 3
    else if s.actTime < s.ringTime + 200000000 then (s.put BOOT_ACT_RESULT_ACT_STATE 3).put BOOT_ACT_RESULT_CODE 4
    else s.startAct gap)

/-- R76: `CANCEL` up to `ACT_TIME` − 50 ms. -/
def execActCancelCmd (s : State) : Host.Outcome State Fault Refusal :=
  let st : Nat := s.get BOOT_ACT_RESULT_ACT_STATE
  .next (if s.aonOpen ∧ s.flag RING_NODE_ROOT ∧ (st = 1 ∨ st = 2) ∧ s.ringTime + 50000000 ≤ s.boot.actAt then s.cancelRound else s)

/-- R76: at `ACT_TIME` − 50 ms a round in which a named node has not reported `ACT_ARMED` is cancelled. -/
def execActReportDeadline (s : State) : Host.Outcome State Fault Refusal :=
  let st : Nat := s.get BOOT_ACT_RESULT_ACT_STATE
  .next (if (st = 1 ∨ st = 2) ∧ s.boot.actAt ≤ s.ringTime + 50000000 ∧ ¬ s.allReported 0 then s.cancelRound else s)

/-- R76: at `ACT_TIME` + `TWIN_GAP` + 2 ms the round is DONE or PARTIAL. -/
def execActRoundEnd (s : State) : Host.Outcome State Fault Refusal :=
  let st : Nat := s.get BOOT_ACT_RESULT_ACT_STATE
  .next (if (st = 1 ∨ st = 2) ∧ s.boot.actAt + 1000 * s.boot.actGap + 2000000 ≤ s.ringTime then
      s.put BOOT_ACT_RESULT_ACT_STATE (if s.allReported 1 then 4 else 5)
    else s)

/-- R153: the port at which the last activation frame arrived. -/
def State.fromPort (s : State) (p : Nat) : State := { s with boot := { s.boot with actPort := p } }

/-- R77: ACT_ARM at a node. -/
def execActArmFrame (time crc gap : Nat) (seq : AtPort) (nodes : Nat) (s : State) : Host.Outcome State Fault Refusal :=
  .next (if s.nodeId ≠ 0 ∧ nodes.testBit s.nodeId then (s.fromPort seq.port).armNode time crc gap seq.num s.rootNode else s)

/-- R78: ACT_CANCEL at a node: it disarms, or reports `ACT_CANCEL_LATE` once its activation time has come. -/
def execActCancelFrame (seq : AtPort) (s : State) : Host.Outcome State Fault Refusal :=
  .next (match s.boot.armed with
    | some a =>
      if a.seq ≠ seq.num then s
      else if s.boot.actEvent ≠ 0 ∨ a.time ≤ s.ringTime then s.unicast a.src 0 0 (.actReport seq.num s.nodeId 5) seq.port
      else s.unarm
    | none => s)

/-- R76: ACT_REPORT at the root. One that comes after the round has been cancelled or has ended is still counted. -/
def execActReportFrame (seq node code : Nat) (s : State) : Host.Outcome State Fault Refusal :=
  let st : Nat := s.get BOOT_ACT_RESULT_ACT_STATE
  .next (if ¬ s.flag RING_NODE_ROOT ∨ seq ≠ s.boot.actSeq ∨ st = 0 then s
    else if st = 1 ∨ st = 2 then s.actReported node code
    else if s.boot.actMap.testBit node then
      let s := s.countBad node code
      { s with boot := { s.boot with reports := s.boot.reports ++ [(node, code)] } }
    else s)

/-- R77: the activation time of an armed node has come. -/
def State.actDue (s : State) : Bool := s.boot.armed.any (fun a => decide (a.time ≤ s.ringTime)) && s.boot.actEvent == 0

/-- R77 event 1: the activation time of an armed node: P0-P8 stop at an instruction boundary and the policies freeze. AON
starts the activation timer (R79). -/
def execActivationTime (s : State) : Host.Outcome State Fault Refusal :=
  .next (if s.actDue ∧ s.mode ≠ mCONTAINED then
      { s with boot := { s.boot with actEvent := 1, frozen := true } }.emit (.processors 1)
    else s)

/-- The running image as `BOOT_IMG_*` reports it: that of the active slot. -/
def State.showImage (s : State) : State :=
  let x := s.slotInfo (s.get BOOT_STATUS_SLOT)
  (s.put BOOT_IMG_CRC x.crc).put BOOT_IMG_VERSION x.version

/-- R77 event 2: the slots swap and P0 restarts on the new image, with nothing in service at its bank (R422). -/
def execActProcessorsStopped (s : State) : Host.Outcome State Fault Refusal :=
  .next (if s.boot.actEvent = 1 then
      let s := { s with boot := { s.boot with actEvent := 2 } }
      let s := (s.put BOOT_STATUS_SLOT (1 - s.get BOOT_STATUS_SLOT)).showImage
      let s : State := { s with ints := SMap.erase s.ints 0 }
      (((s.put (INT_P_STATE_INSVC 0) 0).put (INT_P_STATE_RUNLVL 0) 0).loadProcs [0]).emit (.processors 2)
    else s)

/-- R77 event 3: P1-P8 are loaded and released, with nothing in service at their banks (R422). -/
def execActP0Running (s : State) : Host.Outcome State Fault Refusal :=
  .next (if s.boot.actEvent = 2 then
      let s : State := { s with boot := { s.boot with actEvent := 3 }, ints := s.ints.filter (fun e => e.1 == 0) }
      ((s.each [1, 2, 3, 4, 5, 6, 7, 8] (fun s b =>
        (s.put (INT_P_STATE_INSVC b) 0).put (INT_P_STATE_RUNLVL b) 0)).loadProcs [1, 2, 3, 4, 5, 6, 7, 8]).emit (.processors 3)
    else s)

/-- R79: the activation timer expires with a processor not ready: the slots swap back and AON starts a WARM reset with
`SOURCE` 6. The node owes `ACT_FALLBACK`, and `BOOT_ACT_FAIL` is recorded. -/
def execActTimerExpiry (s : State) : Host.Outcome State Fault Refusal :=
  .next (if s.boot.actEvent ≠ 0 then
      let owed := s.boot.armed.map (fun a => (a.seq, 8))
      let s := s.resetNarrow 1 6
      let s := { s with boot := { s.boot with owedReport := owed } }
      ((s.put BOOT_STAGED_STATUS_STAGE_STATUS 3).showImage).record 7
    else s)

/-! ### The calibration block (R80-R82) -/

/-- The 4 KiB of the shadow, as bytes. -/
def State.shadowBytes (s : State) : List Byte :=
  wordBytes ((List.range 1024).map (fun i => s.get (BOOT_CAL_SHADOW i)))

/-- R82: `MAGIC`, `LAYOUT` and the CRC of the shadow are valid (R80). -/
def State.shadowOk (s : State) : Bool :=
  let d := s.shadowBytes
  leAt d 0 4 == 0x43414C31 && leAt d 4 1 == 1
  && crc32c (zeroBytes (zeroBytes d 5 6) 12 16) == leAt d 12 4

/-- R82: the block in force copied into the shadow. A command while a commit or an erase runs is ignored and sets `ERR` (DESIGN CHOICE: the
spec says so of shadow writes alone; notes/assumptions/10.md). -/
def execCalLoadShadow (s : State) : Host.Outcome State Fault Refusal :=
  .next (if ¬ s.aonOpen then s
    else if s.flag BOOT_CAL_STATE_BUSY then s.raise BOOT_CAL_STATE_ERR
    else s.each (List.range 1024) (fun s i => s.put (BOOT_CAL_SHADOW i) (s.get (BOOT_CAL_DATA i))))

/-- R82: a commit: the shadow is checked, and the write into the spare page starts. -/
def execCalCommit (s : State) : Host.Outcome State Fault Refusal :=
  .next (if ¬ s.aonOpen then s
    else if s.flag BOOT_CAL_STATE_BUSY ∨ ¬ s.shadowOk ∨ 10000 ≤ s.get BOOT_CAL_STATE_COMMITS
    then s.raise BOOT_CAL_STATE_ERR
    else { s.put BOOT_CAL_STATE_BUSY 1 with boot := { s.boot with calJob := 1 } })

/-- R82: an erase starts. -/
def execCalErase (s : State) : Host.Outcome State Fault Refusal :=
  .next (if ¬ s.aonOpen then s
    else if s.flag BOOT_CAL_STATE_BUSY then s.raise BOOT_CAL_STATE_ERR
    else { s.put BOOT_CAL_STATE_BUSY 1 with boot := { s.boot with calJob := 2 } })

/-- R82: the new page is marked valid with `ORIGIN` = 2, and the old page erased. -/
def execCalCommitDone (s : State) : Host.Outcome State Fault Refusal :=
  .next (if s.boot.calJob = 1 then
      let s := s.each (List.range 1024) (fun s i => s.put (BOOT_CAL_DATA i) (s.get (BOOT_CAL_SHADOW i)))
      let w1 := s.get (BOOT_CAL_DATA 1)
      let s := s.put (BOOT_CAL_DATA 1) (w1 % 256 + 2 * 256 + w1 / 65536 * 65536)
      let s := { s with boot := { s.boot with calJob := 0 } }
      (((s.inc BOOT_CAL_STATE_COMMITS).put BOOT_CAL_STATE_LAYOUT 1).put BOOT_CAL_STATE_CAL_STATE 2).put BOOT_CAL_STATE_BUSY 0
    else s)

/-- R81, R82: an erase completes: `CAL_STATE` is BLANK. What an erased page reads is left open: a free value each word. -/
def execCalEraseDone (s : State) : Host.Outcome State Fault Refusal :=
  .next (if s.boot.calJob = 2 then
      let s := s.each (List.range 1024) (fun s i => (s.put (BOOT_CAL_DATA i) (Config.freeValue s.fresh)).draw)
      let s := { s with boot := { s.boot with calJob := 0 } }
      ((s.put BOOT_CAL_STATE_LAYOUT 0).put BOOT_CAL_STATE_CAL_STATE 0).put BOOT_CAL_STATE_BUSY 0
    else s)

end Sys2Proof.Machine
end

