-- ==== Sys2Proof/Machine/Items.lean ====
section
/-! DEFINITION. The operations on items that the host, delivery and unit families share: completion and its records
(R98-R103), acceptance into the journal (R113-R120), forwarding (R103, R118, R146), the ledger of a destination (R122-R128) and
what a commit does. -/

namespace Sys2Proof.Machine

open Sys2Proof.Machine.Reg

/-! ### Items -/

/-- The rank of a stage, in the order in which an item passes them. -/
def ItemStage.rank : ItemStage → Nat
  | .waiting | .reading => 0 | .ready => 1 | .accepted => 2 | .flushed => 3 | .forwarded => 4 | .done => 5 | .recorded => 6

/-- The item is accepted (R113). -/
def Item.isAccepted (i : Item) : Bool := i.wsn != 0

/-- The outcome of the item is known. -/
def Item.isDone (i : Item) : Bool := 5 ≤ i.stage.rank

/-- The item of SQ `sq` and descriptor number `num`. -/
def State.item? (s : State) (sq num : Nat) : Option Item := s.hq.items.find? (fun i => i.sq == sq && i.num == num)

/-- The accepted item of SQ `sq` and WSN `wsn` whose outcome is open. -/
def State.openItem? (s : State) (sq wsn : Nat) : Option Item :=
  s.hq.items.find? (fun i => i.sq == sq && i.wsn == wsn && i.wsn != 0 && !i.isDone)

/-- The items in flight replaced. -/
def State.setItems (s : State) (l : List Item) : State := { s with hq := { s.hq with items := l } }

/-- The item of SQ `sq` and number `num` changed. -/
def State.updItem (s : State) (sq num : Nat) (f : Item → Item) : State :=
  s.setItems (s.hq.items.map (fun i => if i.sq = sq ∧ i.num = num then f i else i))

/-- Items of SQ `sq` in flight, in order. -/
def State.itemsOf (s : State) (sq : Nat) : List Item := s.hq.items.filter (fun i => i.sq == sq)

/-- `INFLIGHT` of an SQ and of the device, as the items stand (R102, R106, R107). -/
def State.showInflight (s : State) (sq : Nat) : State :=
  (s.put HQ_STATUS s.hq.items.length).put (HQ_SQ_STATE_INFLIGHT sq) (s.itemsOf sq).length

/-- The state of an SQ (R104): 0 DISABLED, 1 ENABLED, 2 STOPPING, 3 ERROR. -/
def State.sqState (s : State) (sq : Nat) : Nat := s.get (HQ_SQ_STATE_STATE sq)

/-- The state of the journal (R132): 0 OFF, 1 SCANNING, 2 REPLAYING, 3 RUNNING, 4 WAIT_GEN, 5 ERROR. -/
def State.jrnState (s : State) : Nat := s.get HQ_JRN_STATUS_STATE

/-! ### Completion records -/

/-- A record queued at its CQ (R101). -/
def State.queueRecord (s : State) (cq : Nat) (r : Record) : State :=
  { s with hq := { s.hq with records := SMap.insert s.hq.records cq (SMap.getD s.hq.records cq [] ++ [r]) } }

/-- The first record of an item (R98). -/
def Item.record (i : Item) : Record :=
  { sq := i.sq, num := i.num, tag := i.desc.tag, wsn := i.wsn, status := i.status, result := i.result
    detail := i.detail, late := i.late, imm := i.desc.imm }

/-- R103: first records of finished items move to the CQ's queue: under STRICT in submission order, under FREE as they finish. -/
def recordsReady (strict : Bool) : List Item → List Item
  | [] => []
  | i :: rest =>
    if i.stage = .recorded then recordsReady strict rest
    else if i.stage = .done then i :: recordsReady strict rest
    else if strict then [] else recordsReady strict rest

/-- The finished items of SQ `sq` queue their records (R101, R103). -/
def State.pumpRecords (s : State) (sq : Nat) : State :=
  let cq := s.get (HQ_SQ_CFG_CQ sq)
  (recordsReady (s.flag (HQ_SQ_CFG_ORDER sq)) (s.itemsOf sq)).foldl (fun s i =>
    (s.updItem sq i.num (fun i => { i with stage := .recorded })).queueRecord cq i.record) s

/-- The item's outcome, without what follows from it. -/
def State.finish (s : State) (sq num status result detail : Nat) (late : Bool) : State :=
  let s := if 1 ≤ status ∧ status ≤ 0x0D then s.inc HQ_CNT_REFUSED else s
  s.updItem sq num (fun i => { i with stage := .done, status, result, detail, late })

/-- R104: unaccepted items of an SQ complete `FLUSHED`. -/
def State.flushSq (s : State) (sq : Nat) : State :=
  ((s.itemsOf sq).filter (fun i => !i.isAccepted && !i.isDone)).foldl (fun s i => s.finish sq i.num 0x0D 0 0 false) s

/-- R104: an ENABLED SQ enters ERROR with `LAST_STATUS`. -/
def State.sqError (s : State) (sq status : Nat) : State :=
  if s.sqState sq = 1 then
    (((s.put (HQ_SQ_STATE_STATE sq) 3).put (HQ_SQ_STATE_LAST_STATUS sq) status).flushSq sq).pumpRecords sq
  else s

/-- R104, R112: a STOPPING SQ without items in flight or an open descriptor read is DISABLED. -/
def State.settleSq (s : State) (sq : Nat) : State :=
  if s.sqState sq = 2 ∧ s.itemsOf sq = [] ∧ SMap.find s.hq.fetching sq = none then s.put (HQ_SQ_STATE_STATE sq) 0 else s

/-- An item completes: its outcome, its record, and ERROR under `STOP_ON_ERR` (R104). -/
def State.complete (s : State) (sq num status result detail : Nat) (late : Bool) : State :=
  let s := (s.finish sq num status result detail late).pumpRecords sq
  if status ≠ 0 ∧ s.flag (HQ_SQ_CFG_STOP_ON_ERR sq) then s.sqError sq status else s

/-! ### The journal area (R115-R119) -/

/-- The address of the journal area. -/
def State.jrnBase (s : State) : Nat := s.get HQ_JRN_BASE_LO * 4096 + s.get HQ_JRN_BASE_HI * 2 ^ 32

/-- How many records the ring holds. -/
def State.jrnRecords (s : State) : Nat := 2 ^ s.get HQ_JRN_CFG_LOG2_RECORDS

/-- The address of record slot `i`. -/
def State.recordAddr (s : State) (i : Nat) : Nat := s.jrnBase + 0x2000 + 64 * i

/-- The address of the spool, and its size. -/
def State.spoolBase (s : State) : Nat := s.jrnBase + 0x2000 + 64 * s.jrnRecords
def State.spoolSize (s : State) : Nat := s.get HQ_JRN_CFG_SPOOL_MIB * 2 ^ 20

/-- R119: the WSN-table entry of an SQ is written, at every acceptance and every retirement of the SQ; while host writes cannot be
issued it waits, and is written with its current value then (R499). -/
def State.writeTable (s : State) (sq : Nat) : State :=
  if s.hq.blocked then { s with hq := { s.hq with heldTable := s.hq.heldTable.filter (fun n => n != sq) ++ [sq] } }
  else s.hostWrite (s.jrnBase + 0x1000 + 16 * sq)
    (leBytes 6 (SMap.getD s.dlv.last sq 0) ++ [0, 0] ++ leBytes 6 (SMap.getD s.dlv.retired sq 0) ++ [0, 0])

/-- R117: where a payload of `len` bytes fits in the spool: at the next offset, or at 0 when it would pass the end. -/
def spoolPlace (size next : Nat) (tail : Option Nat) (len : Nat) : Option Nat :=
  match tail with
  | none => if next + len ≤ size then some next else if len ≤ size then some 0 else none
  | some t =>
    if t < next then (if next + len ≤ size then some next else if len ≤ t then some 0 else none)
    else if next + len ≤ t then some next else none

/-- The offset of the oldest payload in the spool. -/
def State.spoolTail (s : State) : Option Nat :=
  (s.dlv.slots.find? (fun j => j.spoolLen != 0)).map (fun j => j.spoolOff)

/-- `HQ_JRN_SPOOL_FREE`: free spool in whole MiB (R134). -/
def State.showSpool (s : State) : State :=
  let size := s.spoolSize
  let used := match s.spoolTail with
    | none => 0
    | some t => if t < s.dlv.spoolNext then s.dlv.spoolNext - t else size - t + s.dlv.spoolNext
  s.put HQ_JRN_SPOOL_FREE ((size - used) / 2 ^ 20)

/-- The WSN after `w` (R121). -/
def nextWsn (w : Nat) : Nat := if w = 2 ^ 48 - 1 then 1 else w + 1

/-- R116: the bytes of a journal record in a state (1 ACCEPTED). -/
def recordBytes (wsn sq st num spool : Nat) (raw : List Byte) (prev : Nat) : List Byte :=
  let body (x : Nat) : List Byte := leBytes 6 wsn ++ leBytes 1 sq ++ leBytes 1 x ++ leBytes 4 num ++ leBytes 4 spool
    ++ (raw ++ List.replicate 32 0).take 32 ++ leBytes 6 prev ++ [0, 0]
  body st ++ leBytes 4 (crc32c (body 0)) ++ [0, 0, 0, 0]

/-- R116, R120: byte `STATE` of the record of an item is written. -/
def State.writeRecordState (s : State) (sq wsn st : Nat) : State :=
  match s.dlv.slots.find? (fun j => j.sq == sq && j.wsn == wsn) with
  | some j => s.hostWrite (s.recordAddr j.slot + 7) [BitVec.ofNat 8 st]
  | none => s

/-- `RETIRED` of an SQ: every WSN up to it has retired (R115). -/
def State.retiredOf (s : State) (sq : Nat) : Nat :=
  match s.dlv.slots.find? (fun j => j.sq == sq && !j.retired) with
  | some j => if j.wsn = 1 then 0 else j.wsn - 1
  | none => SMap.getD s.dlv.last sq 0

/-- R120 steps 3 and 4: the record slot and the spool space released, behind the oldest unretired item, and `RETIRED`
advanced. -/
def State.releaseSlot (s : State) (sq wsn : Nat) : State :=
  let slots := s.dlv.slots.map (fun j => if j.sq = sq ∧ j.wsn = wsn then { j with retired := true } else j)
  let s := { s with dlv := { s.dlv with slots := slots } }
  let r := s.retiredOf sq
  let s := { s with dlv := { s.dlv with
    retired := SMap.insert s.dlv.retired sq r, slots := s.dlv.slots.dropWhile (fun j => j.retired) } }
  (s.writeTable sq).showSpool

/-! ### EP_FLUSH (R164) -/

/-- An unretired accepted item for a domain of `bits` at node `n`, or for one of its endpoints `eps`. -/
def State.hasItemFor (s : State) (n bits : Nat) (eps : List Nat) : Bool :=
  s.hq.items.any (fun i => i.isAccepted && !i.isDone && i.desc.dest / 4096 == n
    && ((epDomains i.desc.opcode (i.desc.dest % 4096)).any (fun d => bits.testBit d) || eps.contains (i.desc.dest % 4096)))

/-- R164: EP_FLUSH to each draining node for which no accepted item is unretired any more. -/
def State.payFlush (s : State) : State :=
  let (due, rest) := s.ring.owedFlush.partition (fun e => !s.hasItemFor e.1 e.2.2.1 e.2.2.2)
  let s := { s with ring := { s.ring with owedFlush := rest } }
  due.foldl (fun s e => s.unicast e.1 0 0 (.epFlush e.2.1) 0) s

/-! ### Forwarding (R103, R118, R146) -/

/-- The tag of an item's frames (R121). -/
def State.tagOf (s : State) (i : Item) (resend : Bool) : Tag :=
  { src := s.nodeId, gen := s.dlv.gen, wsn := i.wsn, prev := i.prev, retired := SMap.getD s.dlv.retired i.sq 0
    sq := i.sq, resend }

/-- R146: the segments of an item's data, 2,032 bytes each but the last. -/
def segments : Nat → Nat → List Byte → List (Nat × Bool × List Byte)
  | 0, _, _ => []
  | fuel + 1, off, bs =>
    if bs.length ≤ 2032 then [(off, true, bs)] else (off, false, bs.take 2032) :: segments fuel (off + 2032) (bs.drop 2032)

/-- The DATA frames of an item to another node (R146). -/
def State.sendData (s : State) (i : Item) (resend : Bool) : State :=
  (segments (i.data.length + 1) 0 i.data).foldl (fun s (off, last, bs) =>
    s.unicast (i.desc.dest / 4096) (i.desc.dest % 4096) 0
      (.data (s.tagOf i resend) i.desc.cls i.desc.param i.desc.opcode i.desc.length off last bs) 0) s

/-- R160: the ACK frame gathered for a source node goes out. -/
def State.sendAcks (s : State) (src : Nat) : State :=
  let es := SMap.getD s.dlv.acks src []
  if es = [] then s
  else State.unicast { s with dlv := { s.dlv with acks := SMap.erase s.dlv.acks src } } src 0 0 (.ack es) 0

/-- R160: an ACK entry for a source node joins those gathered for it. They go out in one frame, at the next tick or when they are
128. -/
def State.sendAck (s : State) (w : Work) (wsn result detail : Nat) : State :=
  let e : AckEntry := { gen := w.gen, wsn, sq := w.sq, result, endpoint := w.ep, detail }
  let es := SMap.getD s.dlv.acks w.src [] ++ [e]
  let s := { s with dlv := { s.dlv with acks := SMap.insert s.dlv.acks w.src es } }
  if es.length < 128 then s else s.sendAcks w.src

/-- R160: what is gathered goes out, well within 10 µs of each commit. -/
def State.flushAcks (s : State) : State := s.each (s.dlv.acks.map (fun e => e.1)) State.sendAcks

/-! ### The ledger (R122-R127) -/

/-- The key of a ledger entry. -/
def ledgerKey (ep src sq : Nat) : Nat := ep + 4096 * src + 2 ^ 20 * sq

/-- R131: a change of the ledger goes to the standby while the mirror is current or being made. `state` is 0 for an entry removed. -/
def State.mirrorEntry (s : State) (k state gen last pend : Nat) : State :=
  if (s.flag HQ_LDG_STATUS_MIRROR ∨ s.get TWIN_STATUS_STATE = 1) ∧ s.node.twinRole = .active then s.emit (.mirror k state gen last pend)
  else s

/-- A ledger entry changed, with `USED` and the mirror (R122, R131). -/
def State.putLedger (s : State) (k : Nat) (e : LedgerEntry) : State :=
  let s := { s with dlv := { s.dlv with ledger := SMap.insert s.dlv.ledger k e } }
  (s.put HQ_LDG_STATUS_USED s.dlv.ledger.length).mirrorEntry k (if e.pending then 2 else 1) e.gen e.last e.pend

/-- A ledger entry removed. -/
def State.dropLedger (s : State) (k : Nat) : State :=
  let s := { s with dlv := { s.dlv with ledger := SMap.erase s.dlv.ledger k } }
  (s.put HQ_LDG_STATUS_USED s.dlv.ledger.length).mirrorEntry k 0 0 0 0

/-- The last item handed over for an entry and not yet ended, or `LAST_WSN` (R103, R126; notes/assumptions/41.md). -/
def State.ledgerTail (s : State) (k : Nat) (e : LedgerEntry) : Nat :=
  match (s.dlv.work.filter (fun w => ledgerKey w.ep w.src w.sq == k)).getLast? with
  | some w => w.wsn
  | none => e.last

/-- R125: an entry that may be evicted: `LAST_WSN` is not later than the `RETIRED` last received from its source, or lies 2^46 or more
behind it. -/
def State.evictable (s : State) (k : Nat) (e : LedgerEntry) : Bool :=
  match SMap.find s.dlv.srcRet ((k / 4096 % 256) * 256 + k / 2 ^ 20) with
  | some (_, r) =>
    let behind := (r + 2 ^ 48 - e.last) % 2 ^ 48
    !laterThan 48 e.last r || (decide (2 ^ 46 ≤ behind) && decide (behind ≤ 2 ^ 47))
  | none => false

/-- No item of the entry is under way here. -/
def State.entryIdle (s : State) (k : Nat) (e : LedgerEntry) : Bool :=
  !e.pending && s.dlv.work.all (fun w => ledgerKey w.ep w.src w.sq != k)

/-- R125: room for one more entry, an evictable one removed where the ledger is full: one with no item under way where there is one. -/
def State.ledgerRoom (s : State) : Option State :=
  if s.dlv.ledger.length < 65536 then some s
  else match (s.dlv.ledger.find? (fun x => s.evictable x.1 x.2 && s.entryIdle x.1 x.2)).or
      (s.dlv.ledger.find? (fun x => s.evictable x.1 x.2)) with
    | some (k, _) => some (s.dropLedger k)
    | none => none

/-- R97: the first `SEND` of an endpoint's queue is at its head: it is `LATE` where its ring time has passed by now. -/
def State.markHead (s : State) (ep : Nat) : State :=
  match s.dlv.work.find? (fun w => w.ep == ep && w.opcode == 0x10) with
  | some h =>
    if h.atHead then s
    else { s with dlv := { s.dlv with work := s.dlv.work.map (fun x =>
      if x.src = h.src ∧ x.sq = h.sq ∧ x.wsn = h.wsn then
        { x with atHead := true, late := decide (x.param ≠ 0 ∧ x.param < s.ringTime) } else x) } }
  | none => s

/-- Work queued at this node as its destination. -/
def State.addWork (s : State) (w : Work) : State :=
  State.markHead { s with dlv := { s.dlv with work := s.dlv.work ++ [w] } } w.ep

/-- The work of a source, SQ and WSN removed. -/
def State.dropWork (s : State) (w : Work) : State :=
  State.markHead
    { s with dlv := { s.dlv with work := s.dlv.work.filter (fun x => !(x.src == w.src && x.sq == w.sq && x.wsn == w.wsn)) } } w.ep

/-- The work of a source, SQ and WSN. -/
def State.work? (s : State) (src sq wsn : Nat) : Option Work :=
  s.dlv.work.find? (fun w => w.src == src && w.sq == sq && w.wsn == wsn)

/-- The oldest work for an endpoint that its unit has not taken. -/
def State.nextWork (s : State) (ep op : Nat) : Option Work :=
  s.dlv.work.find? (fun w => w.ep == ep && w.opcode == op && !w.taken)

/-- A work item changed. -/
def State.updWork (s : State) (w : Work) (f : Work → Work) : State :=
  { s with dlv := { s.dlv with work := s.dlv.work.map (fun x =>
      if x.src = w.src ∧ x.sq = w.sq ∧ x.wsn = w.wsn then f x else x) } }

/-- The work has been handed to its unit. -/
def State.takeWork (s : State) (w : Work) : State := s.updWork w (fun x => { x with taken := true })

/-! ### Retirement at the source (R120) -/

/-- An accepted item's outcome reaches its source: the outcome, its record, and EP_FLUSH that waited for it. A replayed item
that ends `OK` carries `DLV_REPLAY` (R136). -/
def State.retireRaw (s : State) (sq wsn status result detail : Nat) (late : Bool) : State :=
  match s.openItem? sq wsn with
  | some i =>
    let detail := if i.replay ∧ status = 0 then detail ||| 2 else detail
    let s := if status = 0x22 then s.inc HQ_JRN_INDET else s
    (s.complete sq i.num status result detail late).payFlush
  | none => s

/-- A frame of the signal router (source 256) or of the bridge (257): no delivery tag and no commit point (R325, R331). -/
def Work.raw (w : Work) : Bool := decide (256 ≤ w.src)

/-- The result code of R160 and the completion status that it stands for. -/
def ackStatus (result : Nat) : Nat :=
  if result = 0x01 ∨ result = 0x02 then 0 else if result = 0x04 then 0x21 else if result = 0x20 then 0x20 else result

/-- The work ends with an acknowledgement to its source: by an ACK frame, or within the node (R124). -/
def State.answerRaw (s : State) (w : Work) (result bytes detail : Nat) : State :=
  let s := s.dropWork w
  if w.raw then (if result = 0x01 then s else if w.src = 256 then s.inc SIG_CNT_TX_DROP else s)
  else if w.src = s.nodeId then
    s.retireRaw w.sq w.wsn (ackStatus result) bytes (if result = 0x02 then 1 else detail) w.late
  else s.sendAck w w.wsn result detail

/-- R126: the emission of an item starts: PENDING with its WSN. A frame that an earlier reset cut off is counted (R127). -/
def State.startEmission (s : State) (w : Work) : State :=
  let k := ledgerKey w.ep w.src w.sq
  match if w.raw then none else SMap.find s.dlv.ledger k with
  | some e =>
    let s := if e.pending ∧ e.pend = w.wsn ∧ ¬ w.started then s.inc HQ_LDG_TORN else s
    (s.putLedger k { e with pending := true, pend := w.wsn }).updWork w (fun x => { x with started := true })
  | none => s

/-- R164, R433: a unit that serves an item is in a domain that is fenced, or that was powered off after its drain: the item is
work for a down port. -/
def State.servedDown (s : State) (op ep : Nat) : Bool :=
  (epDomains op ep).any (fun d => s.isFenced d || s.dlv.offBits.testBit d)

/-- The ledger holds the item as PENDING: an emission of it has started (R126). -/
def State.isPending (s : State) (w : Work) : Bool :=
  match SMap.find s.dlv.ledger (ledgerKey w.ep w.src w.sq) with
  | some e => e.pending && e.gen == w.gen && e.pend == w.wsn
  | none => false

/-- The endpoint is a down port in REDIRECT (R135 event 5). -/
def State.inRedirect (s : State) (ep : Nat) : Bool :=
  match SMap.find s.dlv.flaps (flapKey ep) with
  | some .redirect | some .redirectStable => true
  | _ => false

/-- R135 event 5: the item is returned as `REDIRECT`: any item of the endpoint, at endpoint 0x000 one for a domain that is down (R433),
no emission of which has started. -/
def State.returnsItem (s : State) (w : Work) : Bool :=
  (w.ep != 0 || s.servedDown w.opcode w.ep) && (!w.started || w.torn) && !s.isPending w && decide (w.src < 256)

/-- The endpoint's port is down or not yet stable (R135, condition 4 of R197). -/
def State.epDown (s : State) (ep : Nat) : Bool := (SMap.find s.dlv.flaps ep).isSome

/-- R338, R128: the gets of a source's SQ that its `RETIRED` covers have retired. Those of another `GEN` are void. -/
def State.settleGets (s : State) (src : Nat) (t : Tag) : State :=
  let gs := (s.bulk.gets.filter (fun g => !(g.src == src && g.sq == t.sq && g.gen != t.gen))).map (fun g =>
    if g.src = src ∧ g.sq = t.sq ∧ ¬ laterThan 48 g.wsn t.retired then { g with done := true } else g)
  { s with bulk := { s.bulk with gets := gs } }

/-- R334: the response of a bridge item kept at the destination. -/
def State.keptFor (s : State) (w : Work) : Option (Nat × Nat × List Byte) :=
  match SMap.find s.dlv.kept (w.src * 256 + w.sq) with
  | some (wsn, result, detail, bs) =>
    if wsn = w.wsn ∧ (w.opcode = 0x30 ∨ w.opcode = 0x31) then some (result, detail, bs) else none
  | none => none

/-- The tag under which a work's data returns (R146). -/
def Work.tag (w : Work) : Tag :=
  { src := w.src, gen := w.gen, wsn := w.wsn, prev := w.prev, retired := w.retired, sq := w.sq, resend := w.resend }

/-- R146, R334: a bridge item's response goes to another node: read data in RETURN frames, or an acknowledgement. -/
def State.sendBridgeReply (s : State) (w : Work) (result detail : Nat) (bytes : List Byte) : State :=
  if result = 0x01 ∧ w.opcode = 0x31 then
    (segments (bytes.length + 1) 0 bytes).foldl (fun s (off, last, bs) =>
      s.unicast w.src 0 0 (.ret w.tag w.cls w.param w.opcode w.length off last bs) 0) s
  else s.sendAck w w.wsn result detail

/-- R123, R334: the acknowledgement of a duplicate: from the kept copy for the last committed bridge item, and `DUP` otherwise. -/
def State.answerDup (s : State) (w : Work) : State :=
  match s.keptFor w with
  | some (result, detail, bs) =>
    if w.src = s.nodeId then
      let s := match s.openItem? w.sq w.wsn with
        | some i => if bs = [] then s else s.hostWrite i.desc.bufAddr bs
        | none => s
      s.answerRaw w result (if w.opcode = 0x31 then bs.length else w.length) detail
    else s.sendBridgeReply w result detail bs
  | none => s.answerRaw w 0x02 w.length 0

/-- R123: the item has been applied before, as the ledger shows. -/
def State.wasApplied (s : State) (w : Work) : Bool :=
  !noLedger w.opcode && match SMap.find s.dlv.ledger (ledgerKey w.ep w.src w.sq) with
    | some e => e.gen == w.gen && !laterThan 48 w.wsn e.last
    | none => false

/-- What a tagged frame meets at its ledger entry (R123): the item is under way already, is to be applied, creates its entry, has been
applied, leaves a gap behind a `LAST_WSN`, or finds the ledger full. -/
inductive Verdict where
  | known | apply | create | dup | gap (last : Nat) | full
  deriving DecidableEq, Repr

/-- R123, R125: the decision on a frame. An entry of another `GEN` counts as absent. -/
def State.verdict (s : State) (w : Work) (t : Tag) : Verdict :=
  let k := ledgerKey w.ep w.src w.sq
  let e := SMap.find s.dlv.ledger k
  if (s.work? w.src w.sq w.wsn).isSome then .known
  else match e.filter (fun e => e.gen == t.gen) with
    | some e => if ¬ laterThan 48 w.wsn e.last then .dup else if t.prev = s.ledgerTail k e then .apply else .gap e.last
    | none =>
      if t.prev ≠ 0 ∧ laterThan 48 t.prev t.retired then .gap 0
      else if e.isSome ∨ s.ledgerRoom.isSome then .create else .full

/-- R125: an entry behind which a frame has left a gap is evicted where it may be, so that its source's next item finds it absent
(notes/assumptions/41.md). -/
def State.evictGap (s : State) (k : Nat) : State :=
  match SMap.find s.dlv.ledger k with
  | some e => if s.evictable k e ∧ s.entryIdle k e then s.dropLedger k else s
  | none => s

/-- R123: the decision carried out; what goes back to another node is acknowledged at once. -/
def State.takeVerdict (s : State) (w : Work) (t : Tag) : Verdict → State
  | .known => s
  | .apply => s.addWork w
  | .create =>
    let k := ledgerKey w.ep w.src w.sq
    let s := if (SMap.find s.dlv.ledger k).isSome then s else s.ledgerRoom.getD s
    (s.putLedger k { pending := false, gen := t.gen, last := t.prev, pend := 0 }).addWork w
  | .dup => (s.inc HQ_LDG_DUP).answerDup w
  | .gap last =>
    let s := s.inc HQ_LDG_GAP
    (if w.src = s.nodeId then s else s.sendAck w last 0x03 0).evictGap (ledgerKey w.ep w.src w.sq)
  | .full =>
    let s := (s.inc HQ_LDG_FULL).record 21
    if w.src = s.nodeId then s else s.sendAck w w.wsn 0x05 0

/-- R135, R433: the item finds a down port in REDIRECT and goes back. -/
def State.turnsBack (s : State) (w : Work) : Bool := s.inRedirect w.ep && s.returnsItem w && !s.wasApplied w

/-- R127: the item waits here for this resend, its frame torn. -/
def State.isTorn (s : State) (w : Work) : Bool := (s.work? w.src w.sq w.wsn).any (fun x => x.torn)

/-- R130: the endpoint takes the item: it is announced for its opcode, or it is a down port that holds it. -/
def State.takesItem (s : State) (w : Work) : Bool := s.ownConfigured w.opcode w.ep || s.servedDown w.opcode w.ep

/-- What the tag of a frame says of its source, and the down port that the frame is held at (R125, R128, R135, R433). -/
def State.noteTag (s : State) (w : Work) (t : Tag) : State :=
  let s := s.settleGets w.src t
  let s : State := if s.servedDown w.opcode w.ep && (SMap.find s.dlv.flaps (flapKey w.ep)).isNone then
      { s with dlv := { s.dlv with flaps := SMap.insert s.dlv.flaps (flapKey w.ep) .hold } } else s
  { s with dlv := { s.dlv with srcRet := SMap.insert s.dlv.srcRet (w.src * 256 + w.sq) (t.gen, t.retired) } }

/-- R123, R125, R128, R130: work arrives at this node and is applied, discarded or answered. -/
def State.arrive (s : State) (w : Work) (t : Tag) : State :=
  let w := { w with prev := t.prev, retired := t.retired }
  let s := s.noteTag w t
  if s.turnsBack w then s.answerRaw w 0x04 0 1
  else if s.isTorn w then s.updWork w (fun x => { x with torn := false, taken := false, started := false })
  else if ¬ s.takesItem w then s
  else if noLedger w.opcode then (if (s.work? w.src w.sq w.wsn).isSome then s else s.addWork w)
  else s.takeVerdict w t (s.verdict w t)

/-- R123: where a frame leaves a gap: the `LAST_WSN` that it is answered with. -/
def State.gapOf (s : State) (w : Work) (t : Tag) : Option Nat :=
  let s := s.noteTag w t
  if s.turnsBack w ∨ s.isTorn w ∨ ¬ s.takesItem w ∨ noLedger w.opcode then none
  else match s.verdict w t with
    | .gap last => some last
    | _ => none

/-- The work of an item of this node that arrives at itself. -/
def State.ownWork (s : State) (i : Item) (resend : Bool) : Work :=
  { src := s.nodeId, sq := i.sq, gen := s.dlv.gen, wsn := i.wsn, resend, ep := i.desc.dest % 4096
    opcode := i.desc.opcode, param := i.desc.param, length := i.desc.length, cls := i.desc.cls, data := i.data }

/-- R123: on `GAP` within the node, its unretired items of that SQ and destination later than the returned value arrive again, in WSN
order. -/
def State.refill (s : State) (i : Item) (last : Nat) : State :=
  ((s.itemsOf i.sq).filter (fun j => j.stage == .forwarded && j.desc.dest == i.desc.dest && laterThan 48 j.wsn last)).foldl
    (fun s j => s.arrive (s.ownWork j true) (s.tagOf j true)) s

/-- An item leaves for its destination: into this node, or as DATA frames (R118, R146). -/
def State.forward (s : State) (i : Item) (resend : Bool) : State :=
  let s := if i.replay ∧ ¬ i.everFwd then s.inc HQ_JRN_REPLAYED else s
  let s := s.updItem i.sq i.num (fun x => { x with stage := .forwarded, everFwd := true
                                                   timeout := if x.timeout = 0 then s.get HQ_DLV_CFG_ACK_TIMEOUT else x.timeout })
  if s.isOwn (i.desc.dest / 4096) (i.desc.dest % 4096) then
    let w := s.ownWork i resend
    let t := s.tagOf i resend
    match s.gapOf w t with
    | some last => (s.arrive w t).refill i last
    | none => s.arrive w t
  else s.sendData i resend

/-- R103: item `i` may be forwarded, the earlier items of its SQ in flight being `before`. -/
def mayForward (strict : Bool) (before : List Item) (i : Item) : Bool :=
  before.all (fun j => j.isDone || (j.desc.opcode != 1 &&
    (if strict then false else j.desc.dest != i.desc.dest || 4 ≤ j.stage.rank)))

/-- The destination of an item can be reached now: it is this node, or a frame for it can leave (R135, R153, R156). -/
def State.canGo (s : State) (i : Item) : Bool :=
  s.isOwn (i.desc.dest / 4096) (i.desc.dest % 4096) || s.reaches (i.desc.dest / 4096) (i.desc.dest % 4096)

/-- R104: a `BRIDGE_WRITE` that may be posted is held while its SQ is in ERROR after a `POSTED_FAULT`; within the node the bridge holds
it. -/
def State.postBarred (s : State) (i : Item) : Bool :=
  i.desc.opcode == 0x30 && !i.desc.param.testBit 63 && s.sqState i.sq == 3 && s.hq.postHeld.contains i.sq
  && !s.isOwn (i.desc.dest / 4096) (i.desc.dest % 4096)

/-- The first flushed item of an SQ that may be forwarded. An item whose frames can leave by no port stays unforwarded (R129,
R135, R156). -/
def State.nextForward (s : State) (strict : Bool) : List Item → List Item → Option Item
  | _, [] => none
  | before, i :: rest =>
    if i.stage = .flushed ∧ i.desc.opcode ≠ 0 ∧ i.desc.opcode ≠ 1 ∧ mayForward strict before i ∧ s.canGo i ∧ ¬ s.postBarred i then some i
    else s.nextForward strict (before ++ [i]) rest

/-- R103, R118: flushed items of an SQ are forwarded in order, as far as the order mode and fences allow. -/
def State.pumpForward : Nat → State → Nat → State
  | 0, s, _ => s
  | fuel + 1, s, sq =>
    match s.nextForward (s.flag (HQ_SQ_CFG_ORDER sq)) [] (s.itemsOf sq) with
    | some i => State.pumpForward fuel (s.forward i i.replay) sq
    | none => s

/-- The items of an SQ that may now be forwarded. -/
def State.pump (s : State) (sq : Nat) : State := State.pumpForward s.hq.items.length s sq

/-- Every SQ's flushed items that may now be forwarded leave (R103). -/
def State.kick (s : State) : State :=
  (((s.hq.items.filter (fun i => i.stage == .flushed)).map (fun i => i.sq)).eraseDups).foldl State.pump s

/-- R120: an accepted item retires, and items that waited for it go on. -/
def State.retire (s : State) (sq wsn status result detail : Nat) (late : Bool) : State :=
  (s.retireRaw sq wsn status result detail late).kick

/-- R124: the work ends with an acknowledgement, and items that waited for it go on. -/
def State.answer (s : State) (w : Work) (result bytes detail : Nat) : State := (s.answerRaw w result bytes detail).kick

/-- The next `SEQ` of a `KIND` of TWIN frames (R397). -/
def State.twinSeq (s : State) (kind : Nat) : Nat := SMap.getD s.twin.txSeq kind 0

/-- `SEQ` of a `KIND` counted on. -/
def State.bumpTwin (s : State) (kind : Nat) : State :=
  { s with twin := { s.twin with txSeq := SMap.insert s.twin.txSeq kind (s.twinSeq kind + 1) } }

/-- R402: a journal input of the active half in LOCKSTEP: it enters TWL's queue, and its change the epoch's digest. -/
def State.journalInput (s : State) (body : JournalBody) : State :=
  if s.get TWIN_CFG_MODE = 1 ∧ (s.get TWIN_STATUS_STATE = 1 ∨ s.get TWIN_STATUS_STATE = 2) ∧ s.node.twinRole = .active then
    let q := s.twinSeq 2
    let s := s.bumpTwin 2
    let s : State := { s with twin := { s.twin with epochLog := s.twin.epochLog ++ journalBytes body } }
    s.sendOn 2 0 0 (.twinJournal q body)
  else s

/-- R126: the ledger entry of a work commits: `LAST_WSN` = its WSN and COMMITTED in one update. `LAST_WSN` never goes back. -/
def State.commitLedger (s : State) (w : Work) : State :=
  if noLedger w.opcode ∨ w.raw then s
  else
    let k := ledgerKey w.ep w.src w.sq
    let last : Nat := match SMap.find s.dlv.ledger k with
      | some e => if e.gen = w.gen ∧ ¬ laterThan 48 w.wsn e.last then e.last else w.wsn
      | none => w.wsn
    s.putLedger k { pending := false, gen := w.gen, last, pend := w.wsn }

/-- R126: the commit point: the ledger entry commits, then `APPLIED`. -/
def State.commit (s : State) (w : Work) (bytes detail : Nat) : State :=
  let s := if noLedger w.opcode ∨ w.raw then s
    else (s.commitLedger w).journalInput (.commit (ledgerKey w.ep w.src w.sq) w.wsn)
  s.answer w 0x01 bytes detail

/-- R146, R160: data for the host buffer of a work's source: written here, or returned in RETURN frames followed, for other
opcodes than `REG_READ`, by `APPLIED` with the `DETAIL`. -/
def State.returnData (s : State) (w : Work) (bytes : List Byte) (detail : Nat) : State :=
  if w.src = s.nodeId then
    let s := match s.openItem? w.sq w.wsn with
      | some i => if bytes = [] then s else s.hostWrite i.desc.bufAddr bytes
      | none => s
    s.answer w 0x01 bytes.length detail
  else
    let s := (segments (bytes.length + 1) 0 bytes).foldl (fun s (off, last, bs) =>
      s.unicast w.src 0 0 (.ret w.tag w.cls w.param w.opcode w.length off last bs) 0) s
    if w.opcode = 0x21 then (s.dropWork w).kick else s.answer w 0x01 bytes.length detail

/-- R103: no earlier item of the work's SQ at its endpoint is still to take effect. -/
def State.inOrder (s : State) (w : Work) : Bool :=
  s.dlv.work.all (fun x => !(x.src == w.src && x.sq == w.sq && x.ep == w.ep && x.gen == w.gen && laterThan 48 w.wsn x.wsn)
    || (x.opcode == 0x50 && x.taken))

/-- The oldest work of an endpoint with an opcode, where its unit has not taken it already and its turn has come. -/
def State.headWork (s : State) (ep op : Nat) : Option Work :=
  match s.dlv.work.find? (fun w => w.ep == ep && w.opcode == op) with
  | some w => if w.taken ∨ ¬ s.inOrder w then none else some w
  | none => none

/-- R93: the loans posted at an endpoint, oldest first. -/
def State.loansOf (s : State) (ep : Nat) : List Work := s.dlv.work.filter (fun w => w.ep == ep && w.opcode == 0x50 && w.taken)

/-- R127: the frame of a work is torn: its entry stays PENDING, and the work waits for its resend. -/
def State.tearWork (s : State) (w : Work) : State :=
  if w.raw then s.dropWork w else s.updWork w (fun x => { x with taken := true, torn := true })

/-- R97: the head `SEND` of an endpoint once its ring time allows it. -/
def State.sendReady (s : State) (ep : Nat) : Option Work := (s.headWork ep 0x10).filter (fun w => decide (w.param ≤ s.ringTime))

/-- R37, R38: a domain's units emit: it is up, and field emission is not paused. -/
def State.emits (s : State) (d : Nat) : Bool := s.isUp d && !(s.node.paused || s.mode == mSERVICE)

/-- An item that the unit turns away with a code after acceptance (`REMOTE_ERROR`, or a status of the unit's chapter), without
effect: the entry advances past it, so that later items of its SQ follow it. -/
def State.failWork (s : State) (w : Work) (result bytes detail : Nat) : State :=
  (s.commitLedger w).answer w result bytes detail

/-- R325, R331: a frame of the signal router or the bridge queued for a local endpoint, in the way of a `SEND`. -/
def State.addRaw (s : State) (who ep cls : Nat) (data : List Byte) : State :=
  let s := { s with dlv := { s.dlv with rawNext := s.dlv.rawNext + 1 } }
  s.addWork { src := who, wsn := s.dlv.rawNext, ep, opcode := 0x10, length := data.length, cls, data }

/-- R289, R400: acknowledgements owed for items whose emission a halt ended, `REMOTE_ERROR` with the `DETAIL`, and commits of items whose
copies TWL has lost. -/
def State.payFails (s : State) : State :=
  let l := s.dlv.owedFail
  let o := s.twin.orphans
  let s : State := { s with dlv := { s.dlv with owedFail := [] }, twin := { s.twin with orphans := [] } }
  let s := o.foldl (fun s c => match s.work? c.src c.sq c.wsn with
    | some w => s.commit w c.bytes 0
    | none => s) s
  l.foldl (fun s ((src, sq, wsn), detail) =>
    match s.work? src sq wsn with
    | some w => s.failWork w 0x20 0 detail
    | none => s) s

/-- R135: an item returned to its source as `REDIRECT` with `PORT_DOWN`; the ledger is unchanged. -/
def State.redirectWork (s : State) (w : Work) : State := s.answer w 0x04 0 1

/-- R400: an internal commit. While this half is the active half of a PAIRED node it waits for COPY_ACK. -/
def State.commitInternal (s : State) (w : Work) (bytes : Nat) : State :=
  if s.get TWIN_STATUS_STATE = 2 ∧ s.node.twinRole = .active then
    let q := s.twinSeq 4
    let s := s.bumpTwin 4
    let c : CopyWait := { seq := q, src := w.src, sq := w.sq, wsn := w.wsn, bytes := bytes }
    let s : State := { s with twin := { s.twin with copies := s.twin.copies ++ [c] } }
    (s.updWork w (fun x => { x with taken := true, started := true })).sendOn 2 0 0
      (.twinCopy q (.item w.tag w.ep w.cls w.opcode w.param w.length w.data))
  else s.commit w bytes 0

/-- An unretired item is resent with `RESEND` = 1 (R123, R124). -/
def State.resend (s : State) (i : Item) : State := if i.stage = .forwarded ∧ s.canGo i then s.forward i true else s

/-- R130: every unretired item for an endpoint of a node is resent, in WSN order. -/
def State.resendTo (s : State) (node : Nat) (p : Item → Bool) : State :=
  (s.hq.items.filter (fun i => i.stage == .forwarded && i.desc.dest / 4096 == node && p i)).foldl State.resend s

/-- R130: an endpoint of this node has been announced: the node's own unretired items for it are resent. -/
def State.resendOwn (s : State) (ep : Nat) : State :=
  (s.hq.items.filter (fun i => i.stage == .forwarded && i.desc.dest % 4096 == ep && s.isOwn (i.desc.dest / 4096) ep)).foldl State.resend s

/-- R136: an item completes `INDETERMINATE` with a `DETAIL`. -/
def State.indeterminate (s : State) (i : Item) (detail : Nat) : State := s.retire i.sq i.wsn 0x22 0 detail false

/-- R136: one `DLV_INDET` entry for a destination and source SQ, naming the first and the last WSN, packed as the model chose
(DESIGN CHOICE, notes/assumptions/15.md). -/
def State.reportIndet (s : State) (sq first last : Nat) : State :=
  s.recordWith 25 [first % 2 ^ 32, first / 2 ^ 32 + sq * 2 ^ 16, last % 2 ^ 32, last / 2 ^ 32]

/-- R136: items end `INDETERMINATE`, with one report for each destination and source SQ. -/
def State.indetAll (s : State) (l : List Item) (detail : Nat) : State :=
  let keys := (l.map (fun i => (i.sq, i.desc.dest))).eraseDups
  let s := l.foldl (fun s i => s.indeterminate i detail) s
  keys.foldl (fun s k =>
    let ws := (l.filter (fun i => (i.sq, i.desc.dest) == k)).map (fun i => i.wsn)
    s.reportIndet k.1 (ws.headD 0) (ws.getLastD 0)) s

end Sys2Proof.Machine
end

