-- ==== Sys2Proof/Machine/Pools.lean ====
section
/-! DEFINITION. The cells of the Polder and their pools (R178, R185, R187, R188, R193-R195). -/

namespace Sys2Proof.Machine

open Sys2Proof.Machine.Reg

/-- R147, R181: the switch port of the unit that serves a local endpoint. -/
def switchPort (op ep : Nat) : Nat :=
  match unitOf ep with
  | .node => if op = 0x20 ∨ op = 0x21 then 4 else 5
  | .line n _ | .port n _ | .can n _ => 6 + n
  | .eth n => 13 + n
  | .vision _ => 12
  | .bulk _ => 30
  | .reserved => 4

/-- R185: the output of a destination, from the ring map and the endpoint routing. A broadcast leaves by the East port (R155); a node that
counts as absent has none. -/
def State.switchOut (s : State) : SwitchDst → Option Nat
  | .endpoint addr op =>
    if s.isOwn (addr / 4096) (addr % 4096) then some (switchPort op (addr % 4096))
    else if addr / 4096 = 255 then some 0
    else s.routePort (addr / 4096) (addr % 4096)
  | .host => some 3
  | .supervisor => some 4
  | .service => some 29
  | .partner => some 2
  | .loopback => some 31

/-- The `RES` of a class at an input (R194). -/
def resField (n k : Nat) : Field :=
  if k = 0 then PLD_IN_RES_LO_RES0 n else if k = 1 then PLD_IN_RES_LO_RES1 n else if k = 2 then PLD_IN_RES_LO_RES2 n
  else if k = 3 then PLD_IN_RES_LO_RES3 n else if k = 4 then PLD_IN_RES_HI_RES4 n else if k = 5 then PLD_IN_RES_HI_RES5 n
  else if k = 6 then PLD_IN_RES_HI_RES6 n else PLD_IN_RES_HI_RES7 n

/-- R178: the cells of a frame of `n` bytes. -/
def cellsOf (n : Nat) : Nat := ceilDiv n 256

/-- R241: frames of the Ethernet port behind input `n` that wait for a loan. -/
def State.ethWaiting (s : State) (n : Nat) : List EthFrame :=
  if 13 ≤ n ∧ n ≤ 28 then (SMap.getD s.net (n - 13) {}).waiting else []

/-- Cells in use. -/
def State.usedCells (s : State) : List Nat :=
  s.pld.frames.flatMap (fun f => f.cells) ++ s.net.flatMap (fun e => e.2.waiting.flatMap (fun f => f.cells))

/-- R178: the next cell allocated: of the parity that was not taken last where one is free, else of the other; which free cell
of a parity is the lowest (notes/assumptions/20.md). -/
def nextCell (used : List Nat) (lastOdd : Bool) : Option Nat :=
  let want := if lastOdd then 0 else 1
  let free (par : Nat) : Option Nat :=
    (lowestFrom (fun i => !used.contains (2 * i + par)) 32768 0).map (fun i => 2 * i + par)
  match free want with
  | some c => some c
  | none => free (1 - want)

/-- R178: `n` cells allocated in turn. -/
def takeCells : Nat → List Nat → Bool → List Nat
  | 0, _, _ => []
  | n + 1, used, lastOdd =>
    match nextCell used lastOdd with
    | some c => c :: takeCells n (c :: used) (c % 2 = 1)
    | none => []

/-- Reserved cells that an input holds in a class, and shared cells that it holds. -/
def State.resUsed (s : State) (n k : Nat) : Nat :=
  (s.pld.frames.filter (fun f => f.inp == n && f.cls == k)).foldl (fun acc f => acc + f.resCells) 0
    + ((s.ethWaiting n).filter (fun f => f.cls == k)).foldl (fun acc f => acc + f.res) 0
def State.shrUsed (s : State) (n : Nat) : Nat :=
  (s.pld.frames.filter (fun f => f.inp == n)).foldl (fun acc f => acc + (f.cells.length - f.resCells)) 0
    + (s.ethWaiting n).foldl (fun acc f => acc + (f.cells.length - f.res)) 0

/-- The cells of the shared pool: all that are not reserved. -/
def State.sharedPool (s : State) : Nat :=
  65536 - (List.range 32).foldl (fun acc n => (List.range 8).foldl (fun a k => a + s.get (resField n k)) acc) 0

/-- Free shared cells. -/
def State.shrFree (s : State) : Nat :=
  s.sharedPool - (List.range 32).foldl (fun acc n => acc + s.shrUsed n) 0

/-- Cells queued for an output from held or credited inputs. -/
def State.outUsed (s : State) (o : Nat) (credited : Bool) : Nat :=
  (s.pld.frames.filter (fun f => f.outs.contains o && (f.inp ≤ 2) == credited)).foldl (fun acc f => acc + f.cells.length) 0

/-- R187: a held input is held: its shared use reaches `SHR_MAX`, or free shared cells are below `SHR_FLOOR`. -/
def State.inputHeld (s : State) (n : Nat) : Bool :=
  s.get (PLD_IN_SHR_SHR_MAX n) ≤ s.shrUsed n || s.shrFree < s.get PLD_SHR_CFG

/-- R187: it is released again only at `SHR_MAX` - `HYST`. -/
def State.inputReleased (s : State) (n : Nat) : Bool :=
  s.shrUsed n + s.get (PLD_IN_SHR_HYST n) ≤ s.get (PLD_IN_SHR_SHR_MAX n) && s.get PLD_SHR_CFG ≤ s.shrFree

/-- R188: shared cells that stand reserved for grants: what a class has been granted beyond its free reserved cells. -/
def State.grantShared (s : State) : Nat :=
  (List.range 3).foldl (fun acc p => (List.range 8).foldl (fun acc k =>
    acc + (SMap.getD s.ring.granted (8 * p + k) 0 - (s.get (resField p k) - s.resUsed p k))) acc) 0

/-- Whether output `o` has reached `OUT_MAX` (R187). -/
def State.outFull (s : State) (o : Nat) : Bool := s.get (PLD_OUT_MAX o) ≤ s.outUsed o false + s.outUsed o true

/-- R187, R189: a frame of `len` bytes of class `k` from input `n` fits: output `o` has not reached `OUT_MAX`, and the frame takes
the input's shared use to no more than `SHR_MAX`. -/
def State.frameFits (s : State) (n k o len : Nat) : Bool :=
  let free := s.get (resField n k) - s.resUsed n k
  !s.outFull o && decide (s.shrUsed n + (cellsOf len - free) ≤ s.get (PLD_IN_SHR_SHR_MAX n))

/-- R193-R195: what the status registers show of the pools. -/
def State.showPools (s : State) : State :=
  let s := (s.put PLD_STATUS (65536 - s.usedCells.length)).put PLD_SHR_STATUS s.shrFree
  s.each (List.range 32) (fun s n =>
    let s := s.put (PLD_IN_USE_SHR_USED n) (s.shrUsed n)
    let s := s.put (PLD_IN_USE_RES_USED n) ((List.range 8).foldl (fun a k => a + s.resUsed n k) 0)
    let s := s.put (PLD_OUT_USE_CREDITED n) (min 65535 (s.outUsed n true))
    let s := s.put (PLD_OUT_USE_HELD n) (s.outUsed n false)
    if n ≤ 2 then s
    else if s.inputHeld n then s.put (PLD_IN_STATE_HELD n) 1
    else if s.inputReleased n ∧ ¬ (SMap.getD s.pld.blocked n []).any s.outFull then
      State.put { s with pld := { s.pld with blocked := SMap.erase s.pld.blocked n } } (PLD_IN_STATE_HELD n) 0
    else s)

end Sys2Proof.Machine
end

