-- ==== Sys2Proof/Machine/HostQueues.lean ====
section
/-! DEFINITION. The host interface (R83-R112, R499-R501): rings, doorbell polling, descriptor fetch, acceptance, completion
records and MSI-X. -/

namespace Sys2Proof.Machine

open Sys2Proof.Machine.Reg

/-! ### Rings (R104-R108) -/

/-- A configuration write or command of the host block is refused (R105). -/
def State.hqReject (s : State) : State := s.raise HQ_ERR_CFG_REJECT

/-- Every SQ is DISABLED. -/
def State.allSqDisabled (s : State) : Bool := (List.range 256).all (fun n => s.sqState n == 0)

/-- R106, R132: `HQ_CTRL` written. It takes a write only while every SQ is DISABLED, and not back to 0 while the journal is
not OFF. -/
def execHqCtrlEn (val : Word) (s : State) : Host.Outcome State Fault Refusal :=
  .next (if val.toNat % 2 = s.get HQ_CTRL then s
    else if ¬ s.allSqDisabled ∨ (val.toNat % 2 = 0 ∧ s.jrnState ≠ 0) then s.hqReject else s.put HQ_CTRL val.toNat)

/-- The consumed word of an SQ is written to the head page (R84, R91), with its value of the moment once writes can be issued (R499). -/
def State.writeConsumed (s : State) (sq : Nat) : State :=
  if s.hq.blocked then { s with hq := { s.hq with heldCons := s.hq.heldCons.filter (fun n => n != sq) ++ [sq] } }
  else s.hostWrite (s.get HQ_HEAD_BASE_LO * 4096 + s.get HQ_HEAD_BASE_HI * 2 ^ 32 + 8 * sq)
    (leBytes 4 (s.get (HQ_SQ_CONS sq)) ++ leBytes 2 (s.get (HQ_SQ_CTRL_EPOCH sq)) ++ [0, 0])

/-- R104, R133: the configuration of an SQ, its CQ and the journal allow it to be enabled. -/
def State.sqValid (s : State) (sq : Nat) : Bool :=
  6 ≤ s.get (HQ_SQ_CFG_LOG2_ENTRIES sq) && s.get (HQ_SQ_CFG_LOG2_ENTRIES sq) ≤ 16
  && s.get (HQ_SQ_CFG_MAX_INFLIGHT sq) ≤ 2048
  && s.flag (HQ_CQ_CFG_ENABLE (s.get (HQ_SQ_CFG_CQ sq)))
  && 1 ≤ s.jrnState && s.jrnState ≤ 4

/-- R132: an SQ's ACCEPTED records are re-sent, in WSN order, before any new fetch from it. -/
def State.replaySq (s : State) (sq : Nat) : State :=
  let due := (s.itemsOf sq).filter (fun i => i.replay && !i.everFwd && i.stage == .accepted)
  let s := due.foldl (fun s i => s.updItem sq i.num (fun i => { i with stage := .flushed })) s
  s.kick

/-- R104, R105: `HQ_SQn_CTRL` written with `ENABLE`. `EPOCH` takes the write with it, only while the SQ is DISABLED. -/
def execSqEnable (sq : BitVec 8) (val : Word) (s : State) : Host.Outcome State Fault Refusal :=
  .next (
    let n := sq.toNat
    if s.sqState n ≠ 0 then (if val.toNat / 65536 = s.get (HQ_SQ_CTRL_EPOCH n) then s else s.hqReject)
    else if ¬ s.sqValid n then s.hqReject
    else
      let s := s.put (HQ_SQ_CTRL_EPOCH n) (val.toNat / 65536)
      let s := s.put (HQ_SQ_STATE_STATE n) 1
      let s := { s with hq := { s.hq with prod := SMap.erase s.hq.prod n, postHeld := s.hq.postHeld.filter (fun q => q != n) } }
      let s := s.writeConsumed n
      if s.jrnState = 2 then s.replaySq n else s)

/-- R104: `HQ_SQn_CTRL` written with `DISABLE`: STOPPING, and the unaccepted items complete `FLUSHED`. -/
def execSqDisable (sq : BitVec 8) (val : Word) (s : State) : Host.Outcome State Fault Refusal :=
  .next (
    let n := sq.toNat
    if s.sqState n ≠ 0 ∧ val.toNat / 65536 ≠ s.get (HQ_SQ_CTRL_EPOCH n) then s.hqReject
    else if s.sqState n = 1 ∨ s.sqState n = 3 then
      ((((s.put (HQ_SQ_STATE_STATE n) 2).flushSq n).pumpRecords n).settleSq n).pump n
    else s.put (HQ_SQ_CTRL_EPOCH n) (val.toNat / 65536))

/-- R105, R108: `HQ_CQn_CFG` written. Enabling starts pass 1 at record count 0; disabling needs every SQ mapped to it
DISABLED. -/
def execCqEnable (cq : BitVec 8) (val : Word) (s : State) : Host.Outcome State Fault Refusal :=
  .next (
    let n := cq.toNat
    let v := val.toNat
    let same := v / 2 ^ 24 == s.get (HQ_CQ_CFG_VECTOR n) && v / 2 ^ 19 % 32 == s.get (HQ_CQ_CFG_LOG2_ENTRIES n)
    if s.flag (HQ_CQ_CFG_ENABLE n) then
      if ¬ same then s.hqReject
      else if v % 2 = 1 then s
      else if (List.range 256).all (fun q => s.get (HQ_SQ_CFG_CQ q) != n || s.sqState q == 0)
        then s.put (HQ_CQ_CFG_ENABLE n) 0 else s.hqReject
    else if v % 2 = 1 ∧ ¬ (6 ≤ v / 2 ^ 19 % 32 ∧ v / 2 ^ 19 % 32 ≤ 16) then s.hqReject
    else
      let s := (s.put (HQ_CQ_CFG_VECTOR n) (v / 2 ^ 24)).put (HQ_CQ_CFG_LOG2_ENTRIES n) (v / 2 ^ 19)
      if v % 2 = 1 then
        let s := (s.put (HQ_CQ_CFG_ENABLE n) 1).put (HQ_CQ_WRITTEN n) 0
        { s with hq := { s.hq with
          cqHead := SMap.erase s.hq.cqHead n, unsignalled := SMap.erase s.hq.unsignalled n } }
      else s)

/-! ### Doorbell polling (R87-R90) -/

/-- The SQs of a line. -/
def lineOf (line : Nat) : List Nat := (List.range 8).map (fun i => 8 * line + i)

/-- The address of the doorbell page. -/
def State.dbBase (s : State) : Nat := s.get HQ_DB_BASE_LO * 4096 + s.get HQ_DB_BASE_HI * 2 ^ 32

/-- A line is polled while one of its SQs is ENABLED and `HQ_CTRL.EN` = 1, but not under flow control of HIF (R28). -/
def State.linePolled (s : State) (line : Nat) : Bool :=
  s.flag HQ_CTRL && (lineOf line).any (fun n => s.sqState n == 1) && !s.isThreat dHIF

/-- R88: the line's poll period expires and its read is issued. -/
def execDoorbellPollIssue (line : Fin 32) (s : State) : Host.Outcome State Fault Refusal :=
  .next (if s.linePolled line ∧ ¬ s.hq.polling.testBit line then
      { s with hq := { s.hq with polling := setBit s.hq.polling line } }.emit (.hostRead (s.dbBase + 64 * line) 64 0)
    else s)

/-- R88, R464: the period after an empty poll. -/
def State.nextPeriod (s : State) (p empties : Nat) : Nat :=
  let mn := s.get HQ_POLL_CFG_MIN
  let mx := s.get HQ_POLL_CFG_MAX
  let c := s.get PWR_POL_DB_CURVE
  let next := if c = 1 then p + mn else if c = 2 ∧ empties < s.get PWR_POL_DB_STAY then mn else 2 * p
  max mn (min next mx)

/-- R87: one SQ's doorbell word evaluated: the state, and whether it shows new work. -/
def State.doorbell (s : State) (n : Nat) (w : Nat) : State × Bool :=
  if s.sqState n ≠ 1 then (s, false)
  else if w / 2 ^ 32 % 65536 ≠ s.get (HQ_SQ_CTRL_EPOCH n) then (s.inc HQ_CNT_STALE, false)
  else
    let prod := w % 2 ^ 32
    let d := (prod + 2 ^ 32 - s.get (HQ_SQ_CONS n)) % 2 ^ 32
    if 2 ^ s.get (HQ_SQ_CFG_LOG2_ENTRIES n) < d then
      ((s.sqError n 0x0E).recordWith 16 [n, prod], false)
    else ({ s with hq := { s.hq with prod := SMap.insert s.hq.prod n prod } }, d != 0)

/-- R87: the eight doorbell words of a line evaluated in order: the state, and whether one shows new work. -/
def State.doorbells (s : State) (line : Nat) (ws : List Word64) : State × Bool :=
  (List.range 8).foldl (fun (acc : State × Bool) i =>
    ((acc.1.doorbell (8 * line + i) (ws.getD i 0).toNat).1, acc.2 || (acc.1.doorbell (8 * line + i) (ws.getD i 0).toNat).2)) (s, false)

/-- R87, R88: a poll of a line returns. A read that failed sets `DB_READ`, and the line is read again after `MAX`. In LULL a
poll that finds work is a wake source of the root's HIF (R171). -/
def State.pollReturn (s : State) (line : Nat) (words : Option (List Word64)) : State × Bool :=
  if ¬ s.hq.polling.testBit line then (s, false)
  else
    let s := { s with hq := { s.hq with polling := clearBit s.hq.polling line } }
    match words with
    | none =>
      (({ s with hq := { s.hq with period := SMap.insert s.hq.period line (s.get HQ_POLL_CFG_MAX) } }).raise HQ_ERR_DB_READ,
        false)
    | some ws =>
      let (s, found) := s.doorbells line ws
      let p := SMap.getD s.hq.period line (s.get HQ_POLL_CFG_MIN)
      let e := SMap.getD s.hq.empties line 0
      -- R77: the period is frozen during an activation.
      let (p', e') := if s.boot.frozen then (p, e) else if found then (s.get HQ_POLL_CFG_MIN, 0) else (s.nextPeriod p e, e + 1)
      ({ s with hq := { s.hq with period := SMap.insert s.hq.period line p', empties := SMap.insert s.hq.empties line e' } },
        found)

/-- R90: a CQ has a record ready and, by the cached head, no free slot. -/
def State.cqFull (s : State) (n : Nat) : Bool :=
  SMap.getD s.hq.records n [] != []
  && 2 ^ s.get (HQ_CQ_CFG_LOG2_ENTRIES n) ≤ (s.get (HQ_CQ_WRITTEN n) + 2 ^ 32 - SMap.getD s.hq.cqHead n 0) % 2 ^ 32

/-- R90: while a CQ of the line is stalled full, its head line is read. -/
def execCqHeadPoll (line : Fin 32) (s : State) : Host.Outcome State Fault Refusal :=
  .next (if (lineOf line).any s.cqFull then s.emit (.hostRead (s.dbBase + 2048 + 64 * line) 64 1) else s)

/-- R431: a STOP of `HQ_CQ_HEAD_BAD`: every ENABLED SQ mapped to the CQ enters ERROR with `CQ_HEAD_BAD`. -/
def State.stopCq (s : State) (n : Nat) : State :=
  s.each ((List.range 256).filter (fun q => s.sqState q == 1 && s.get (HQ_SQ_CFG_CQ q) == n)) (fun s q => s.sqError q 0x10)

/-- R90, R431, R500: a bad head of a CQ recorded, and its STOP. -/
def State.badHead (s : State) (n head : Nat) : State :=
  let stop := s.stops 18
  let s := s.recordWith 18 [n, head]
  if stop then s.stopCq n else s

/-- R90: one CQ's head word evaluated. A head beyond what has been written is ignored and recorded with R500's details. -/
def State.headWord (s : State) (n head : Nat) : State :=
  if ¬ s.flag (HQ_CQ_CFG_ENABLE n) then s
  else
    let written := s.get (HQ_CQ_WRITTEN n)
    let old := SMap.getD s.hq.cqHead n 0
    if (written + 2 ^ 32 - old) % 2 ^ 32 < (head + 2 ^ 32 - old) % 2 ^ 32 then s.badHead n head
    else { s with hq := { s.hq with cqHead := SMap.insert s.hq.cqHead n head } }

/-- R90: a CQ head line returns. A read that failed sets `DB_READ`. -/
def execCqHeadReadReturn (line : Fin 32) (words : Option (List Word64)) (s : State) : Host.Outcome State Fault Refusal :=
  .next (match words with
    | none => s.raise HQ_ERR_DB_READ
    | some ws => s.each (List.range 8) (fun s i => s.headWord (8 * line + i) ((ws.getD i 0).toNat % 2 ^ 32)))

/-! ### Descriptor fetch (R91-R95) -/

/-- R132: an item of the journal's replay has been re-sent, or needs no more to be. -/
def Item.resent (i : Item) : Bool := !i.replay || i.everFwd || i.isDone || (i.desc.opcode ≤ 1 && i.stage == .flushed)

/-- R133: fetching is open for an SQ: the journal is RUNNING, or in REPLAYING the SQ's records have been re-sent. -/
def State.fetchOpen (s : State) (n : Nat) : Bool :=
  s.jrnState == 3 || (s.jrnState == 2 && (s.itemsOf n).all Item.resent)

/-- Descriptors of an SQ that wait and have not been requested. -/
def State.waiting (s : State) (n : Nat) : Nat :=
  match SMap.find s.hq.prod n with
  | some p => (p + 2 ^ 32 - s.get (HQ_SQ_CONS n)) % 2 ^ 32
  | none => 0

/-- R91, R189: how many descriptors may be fetched from an SQ now. -/
def State.fetchable (s : State) (n : Nat) : Nat :=
  let lim := if s.get (HQ_SQ_CFG_MAX_INFLIGHT n) = 0 then 2048 else s.get (HQ_SQ_CFG_MAX_INFLIGHT n)
  let out := s.hq.fetching.foldl (fun acc e => acc + e.2) 0
  if s.sqState n = 1 ∧ s.fetchOpen n ∧ SMap.find s.hq.fetching n = none ∧ (s.itemsOf n).all (fun i => i.stage != .waiting) ∧ ¬ s.cqFull (s.get (HQ_SQ_CFG_CQ n)) then
    min (min 16 (s.waiting n)) (min (lim - (s.itemsOf n).length) (2048 - s.hq.items.length - out))
  else 0

/-- R91: HIF fetches descriptors at all: not in LOADING or LULL, nor in SERVICE or on the way there, and not under flow control of
HIF or PLD (R28). -/
def State.fetchRuns (s : State) : Bool :=
  s.flag HQ_CTRL && !([mSERVICE, mLOADING, mLULL, mDORMANT].contains s.mode) && !s.node.paused && !s.isThreat dHIF && !s.isThreat dPLD

/-- R91: the next SQ in round-robin order after the one last served. -/
def State.nextFetch (s : State) : Option Nat :=
  ((List.range 256).map (fun i => (s.hq.lastSq + 1 + i) % 256)).find? (fun n => s.fetchable n != 0)

/-- The host address of descriptor number `c` of an SQ (R84). -/
def State.descAddr (s : State) (n c : Nat) : Nat :=
  s.get (HQ_SQ_BASE_LO n) * 4096 + s.get (HQ_SQ_BASE_HI n) * 2 ^ 32 + 32 * (c % 2 ^ s.get (HQ_SQ_CFG_LOG2_ENTRIES n))

/-- R84: the reads of the slots of `k` descriptors from number `c` on: one run, or two where they pass the end of the ring. -/
def State.readSlots (s : State) (n c k : Nat) : State :=
  let m := 2 ^ s.get (HQ_SQ_CFG_LOG2_ENTRIES n)
  let first := min k (m - c % m)
  let s := s.emit (.hostRead (s.descAddr n c) (32 * first) 2)
  if first < k then s.emit (.hostRead (s.descAddr n 0) (32 * (k - first)) 2) else s

/-- R91: a descriptor read is issued for the next SQ. -/
def execDescFetchIssue (s : State) : Host.Outcome State Fault Refusal :=
  .next (if s.fetchRuns then
      match s.nextFetch with
      | some n =>
        let k := s.fetchable n
        State.readSlots { s with hq := { s.hq with lastSq := n, fetching := SMap.insert s.hq.fetching n k } } n (s.get (HQ_SQ_CONS n)) k
      | none => s
    else s)

/-- R94: one fetched descriptor is checked and becomes an item in flight, or a refused one. An SQ that has left ENABLED
flushes what passes (R112). -/
def State.takeDesc (s : State) (n : Nat) (bs : List Byte) : State :=
  let d := parseDesc bs
  let c := s.get (HQ_SQ_CONS n)
  let st := s.checkDesc d
  let s := (s.put (HQ_SQ_CONS n) (c + 1)).inc HQ_CNT_FETCHED
  let stage : ItemStage := if carriesOut d.opcode then .waiting else .ready
  let s := s.setItems (s.hq.items ++ [({ sq := n, num := c, desc := d, stage := stage } : Item)])
  if st ≠ 0 then s.complete n c st 0 0 false
  else if s.sqState n ≠ 1 then s.complete n c 0x0D 0 0 false
  else s

/-- R189: the first frame of an item fits: its output has not reached `OUT_MAX`, and it takes HIF's shared use to no more than
`SHR_MAX`. The frame holds at most 2,032 bytes of an item for another node (R146). -/
def State.hifRoom (s : State) (i : Item) : Bool :=
  match s.switchOut (.endpoint i.desc.dest i.desc.opcode) with
  | none => true
  | some o =>
    s.frameFits 3 i.desc.cls o (if s.isOwn (i.desc.dest / 4096) (i.desc.dest % 4096) then i.desc.length else min i.desc.length 2032)

/-- R189: the payload of an item that waits in HIF is read now, where its frame fits and no earlier item of its SQ waits. -/
def State.hifRead (s : State) (i : Item) : State :=
  let first := (s.itemsOf i.sq).find? (fun j => j.stage == .waiting)
  if first.any (fun j => j.num == i.num) ∧ s.hifRoom i then
    (s.updItem i.sq i.num (fun j => { j with stage := .reading })).emit (.hostRead i.desc.bufAddr i.desc.length 3)
  else s

/-- R94, R189: the payloads that can be read now. -/
def State.hifPump (s : State) : State := (s.hq.items.filter (fun i => i.stage == .waiting)).foldl State.hifRead s

/-- R94, R104: fetched descriptors are checked in order and the consumed word is written; a failed read puts the SQ in
ERROR. -/
def execDescFetchReturn (sq : BitVec 8) (descs : Option (List (List Byte))) (s : State) : Host.Outcome State Fault Refusal :=
  .next (
    let n := sq.toNat
    match SMap.find s.hq.fetching n with
    | none => s
    | some k =>
      let s := { s with hq := { s.hq with fetching := SMap.erase s.hq.fetching n } }
      match descs with
      | none => ((s.sqError n 0x0F).recordWith 17 [n]).settleSq n
      | some l =>
        let s := (l.take k).foldl (fun s bs => s.takeDesc n bs) s
        ((s.writeConsumed n).showInflight n).hifPump.settleSq n)

/-- R263: the byte of a `SEND` to a discrete line has bits 7-1 set. -/
def Item.badLineByte (i : Item) (bs : List Byte) : Bool :=
  match unitOf (i.desc.dest % 4096) with
  | .line _ _ => i.desc.opcode == 0x10 && decide (2 ≤ leAt bs 0 1)
  | _ => false

/-- R94 check 12, R263: the payload of an item has been read, or the item completes `DMA_ERROR`. A byte for a discrete line
whose bits 7-1 are set fails check 1. -/
def execPayloadReadDone (sq : BitVec 8) (num : Nat) (bytes : Option (List Byte)) (s : State) :
    Host.Outcome State Fault Refusal :=
  .next (
    let n := sq.toNat
    match s.item? n num with
    | none => s
    | some i =>
      if i.stage ≠ .reading then s
      else match bytes with
        | none => s.complete n num 0x0C 0 0 false
        | some bs =>
          if i.badLineByte bs then s.complete n num 0x01 0 0 false
          else s.updItem n num (fun i => { i with stage := .ready, data := bs.take i.desc.length }))

/-! ### Acceptance (R113, R117-R119) -/

/-- R117: the place of an item's record and payload, where both fit behind the oldest unretired item: slot and spool offset. -/
def State.journalPlace (s : State) (i : Item) : Option (Nat × Nat × Nat) :=
  let len := if carriesOut i.desc.opcode then ceilDiv i.data.length 64 * 64 else 0
  if (s.dlv.slots.head?).any (fun j => j.slot == s.dlv.nextSlot % s.jrnRecords) then none
  else if len = 0 then some (s.dlv.nextSlot % s.jrnRecords, 0xFFFFFFFF, 0)
  else match spoolPlace s.spoolSize s.dlv.spoolNext s.spoolTail len with
    | some off => some (s.dlv.nextSlot % s.jrnRecords, off, len)
    | none => none

/-- R96, R113: an item is accepted next in its SQ: it is ready, every item before it has been accepted or refused, and
acceptance is open. -/
def State.mayAccept (s : State) (i : Item) : Bool :=
  i.stage == .ready && s.sqState i.sq == 1 && !s.hq.blocked && s.fetchOpen i.sq
  && ((s.itemsOf i.sq).takeWhile (fun j => j.num != i.num)).all (fun j => j.isAccepted || j.isDone)

/-- R117-R119: the payload copy and the journal record of item `i` are written at their places, the item gets its WSN, and the
read of R118 follows. -/
def State.acceptAt (s : State) (i : Item) (slot off len : Nat) : State :=
  let n := i.sq
  let wsn := nextWsn (SMap.getD s.dlv.last n 0)
  let key := n * 2 ^ 20 + i.desc.dest
  let prev := SMap.getD s.dlv.lastDest key 0
  let s := if len = 0 then s else s.hostWrite (s.spoolBase + off) i.data
  let s := s.hostWrite (s.recordAddr slot) (recordBytes wsn n 1 i.num off i.desc.raw prev)
  let s := { s with dlv := { s.dlv with
    last := SMap.insert s.dlv.last n wsn
    lastDest := SMap.insert s.dlv.lastDest key wsn
    slots := s.dlv.slots ++ [({ slot, sq := n, wsn, spoolOff := off, spoolLen := len } : JSlot)]
    nextSlot := (slot + 1) % s.jrnRecords
    spoolNext := if len = 0 then s.dlv.spoolNext else off + len
    unflushed := s.dlv.unflushed ++ [(n, wsn)] } }
  let s := s.updItem n i.num (fun i => { i with stage := .accepted, wsn := wsn, prev := prev })
  let s := ((s.inc HQ_JRN_ACCEPTED).writeTable n).showSpool
  s.emit (.hostRead (s.recordAddr slot) 64 4)

/-- R117-R119: an item whose turn it is, is accepted when its record and payload fit. -/
def execItemAccept (sq : BitVec 8) (num : Nat) (s : State) : Host.Outcome State Fault Refusal :=
  .next (match s.item? sq.toNat num with
    | some i =>
      if s.mayAccept i then
        match s.journalPlace i with
        | some (slot, off, len) => s.acceptAt i slot off len
        | none => s
      else s
    | none => s)

/-- R118: a PCIe read issued after journal records completes: the records it covers are flushed and their items forwarded. -/
def execJournalFlushReadDone (covered : Nat) (s : State) : Host.Outcome State Fault Refusal :=
  .next (
    let done := s.dlv.unflushed.take covered
    let s := { s with dlv := { s.dlv with unflushed := s.dlv.unflushed.drop covered } }
    (s.setItems (s.hq.items.map (fun i =>
      if i.stage = .accepted ∧ done.contains (i.sq, i.wsn) then { i with stage := .flushed } else i))).kick)

/-- R93: a NOP completes at acceptance. -/
def execNop (sq : BitVec 8) (num : Nat) (s : State) : Host.Outcome State Fault Refusal :=
  .next (match s.item? sq.toNat num with
    | some i => if i.desc.opcode = 0x00 ∧ i.isAccepted ∧ ¬ i.isDone then s.retire i.sq i.wsn 0 0 0 false else s
    | none => s)

/-- R93: a FENCE completes when every earlier item of its SQ has completed. -/
def execFence (sq : BitVec 8) (num : Nat) (s : State) : Host.Outcome State Fault Refusal :=
  .next (match s.item? sq.toNat num with
    | some i =>
      if i.desc.opcode = 0x01 ∧ i.isAccepted ∧ ¬ i.isDone
          ∧ ((s.itemsOf i.sq).takeWhile (fun j => j.num != num)).all (fun j => j.isDone)
      then s.retire i.sq i.wsn 0 0 0 false else s
    | none => s)

/-! ### Records and messages (R98-R101, R110, R499) -/

/-- R98: the 16 bytes of a record, for pass parity `odd`. -/
def recordWords (r : Record) (odd : Bool) : List Byte :=
  leBytes 4 r.tag ++ leBytes 6 r.wsn ++ leBytes 1 r.sq ++ leBytes 1 r.status ++ leBytes 3 r.result
  ++ leBytes 1 (r.detail % 32 + 32 * b2n r.second + 64 * b2n r.late + 128 * b2n odd)

/-- R110: the CQ's message is sent. -/
def State.cqMessage (s : State) (n : Nat) : State :=
  { s with hq := { s.hq with unsignalled := SMap.erase s.hq.unsignalled n } }.msix (s.get (HQ_CQ_CFG_VECTOR n))

/-- R120, R136: what follows the first record of an item: its journal record, its slot and spool, the SQ's state. -/
def State.recordWritten (s : State) (r : Record) : State :=
  if r.second then s
  else
    let s := s.setItems (s.hq.items.filter (fun i => !(i.sq == r.sq && i.num == r.num)))
    let s := if r.wsn = 0 then s
      else (s.writeRecordState r.sq r.wsn (if r.status = 0x22 then 3 else 2)).releaseSlot r.sq r.wsn
    (s.showInflight r.sq).settleSq r.sq

/-- R98, R99, R110: record `r`, the oldest of CQ `n`, is written as one posted write; `rest` wait on. -/
def State.putRecord (s : State) (n : Nat) (r : Record) (rest : List Record) : State :=
  let k := s.get (HQ_CQ_CFG_LOG2_ENTRIES n)
  let c := s.get (HQ_CQ_WRITTEN n)
  let base := s.get (HQ_CQ_BASE_LO n) * 4096 + s.get (HQ_CQ_BASE_HI n) * 2 ^ 32
  let s := { s with hq := { s.hq with records := SMap.insert s.hq.records n rest } }
  let s := s.hostWrite (base + 16 * (c % 2 ^ k)) (recordWords r (c / 2 ^ k % 2 = 0))
  let s := (s.put (HQ_CQ_WRITTEN n) (c + 1)).recordWritten r
  let u := SMap.getD s.hq.unsignalled n 0 + 1
  if s.get (HQ_CQ_MOD_MOD_COUNT n) ≤ u ∨ s.get (HQ_CQ_MOD_MOD_TIME n) = 0 ∨ r.imm then s.cqMessage n
  else { s with hq := { s.hq with unsignalled := SMap.insert s.hq.unsignalled n u } }

/-- R99, R101: the oldest record waiting for a CQ is written when a slot is free. A record that finds the CQ full is counted
once. While host writes cannot be issued it stays, and `CQ_WRITE` is set (R499). -/
def execCqRecordWrite (cq : BitVec 8) (s : State) : Host.Outcome State Fault Refusal :=
  .next (
    let n := cq.toNat
    match SMap.getD s.hq.records n [] with
    | [] => s
    | r :: rest =>
      if ¬ s.flag (HQ_CQ_CFG_ENABLE n) then s
      else if s.hq.blocked then s.raise HQ_ERR_CQ_WRITE
      else if s.cqFull n then
        if r.stalled then s
        else { s with hq := { s.hq with records := SMap.insert s.hq.records n ({ r with stalled := true } :: rest) } }.inc
          (HQ_CQ_STALLS n)
      else s.putRecord n r rest)

/-- R110: `MOD_TIME` has passed since the first unsignalled record. -/
def execCqModTimeExpiry (cq : BitVec 8) (s : State) : Host.Outcome State Fault Refusal :=
  .next (if SMap.getD s.hq.unsignalled cq.toNat 0 = 0 then s else s.cqMessage cq.toNat)

/-- R110: a vector is unmasked: a pending message is sent. -/
def execMsixVectorUnmask (vector : BitVec 8) (s : State) : Host.Outcome State Fault Refusal :=
  .next (
    let v := vector.toNat
    let s := s.put (MSIX_CTRL v) 0
    if ¬ s.hq.funcMask ∧ (s.get (MSIX_PBA (v / 32))).testBit (v % 32) then (s.dropBits (MSIX_PBA (v / 32)) (1 <<< (v % 32))).msix v else s)

/-- R499: host writes cannot be issued. Records that wait set `CQ_WRITE`. -/
def execHostWritesBlocked (s : State) : Host.Outcome State Fault Refusal :=
  .next (
    let s := { s with hq := { s.hq with blocked := true } }
    if s.hq.records.any (fun e => e.2 != []) then s.raise HQ_ERR_CQ_WRITE else s)

/-- A held write is issued; a message for a vector masked meanwhile sets its pending bit (R110). -/
def State.issueHeld (s : State) : Output → State
  | .msix v => s.msix v
  | o => s.emit o

/-- R499: every held write is issued in its original order, consumed words and WSN-table entries with their current values, and
host-log copies follow (R436). -/
def execHostWritesResumed (s : State) : Host.Outcome State Fault Refusal :=
  .next (if s.hifHeld then s else
    let held := s.hq.heldWrites
    let cons := s.hq.heldCons
    let table := s.hq.heldTable
    let s := { s with hq := { s.hq with blocked := false, heldWrites := [], heldCons := [], heldTable := [] } }
    let s := table.foldl State.writeTable (held.foldl State.issueHeld s)
    (cons.foldl State.writeConsumed s).hlogCopy)

/-- R88: see `State.pollReturn`. In LULL a poll that finds work wakes the root (R171). -/
def execDoorbellPollReturn (line : Fin 32) (words : Option (List Word64)) (s : State) : Host.Outcome State Fault Refusal :=
  .next (
    let (s, found) := s.pollReturn line words
    if found ∧ s.flag RING_NODE_ROOT ∧ s.mode = mLULL then s.wake 7 8 else s)

end Sys2Proof.Machine
end

