-- ==== Sys2Proof/Machine/Delivery.lean ====
section
/-! DEFINITION. Delivery (R113-R138): DATA, RETURN and ACK frames, resends, RESYNC, and the journal with its replay. -/

namespace Sys2Proof.Machine

open Sys2Proof.Machine.Reg

/-! ### Frames of accepted items (R121-R124, R146) -/

/-- The bytes of the segments received, in the order of their offsets, once they cover the item (R146). -/
def assemble (length : Nat) (segs : List (Nat × List Byte)) : Option (List Byte) :=
  let bs := (segs.mergeSort (fun a b => a.1 ≤ b.1)).flatMap (fun e => e.2)
  if bs.length = length then some bs else none

/-- R146: a segment joins those of its item; the item arrives when all are present. -/
def State.segment (s : State) (w : Work) (t : Tag) (segOff : Nat) (bytes : List Byte) : State :=
  let same (p : Partial) : Bool := p.work.src == w.src && p.work.sq == w.sq && p.work.wsn == w.wsn && p.work.gen == w.gen
  let old := (s.dlv.partials.find? same).map (fun p => p.segs)
  let segs := (old.getD []).filter (fun e => e.1 != segOff) ++ [(segOff, bytes)]
  let rest := s.dlv.partials.filter (fun p => !same p)
  match assemble w.length segs with
  | some bs => State.arrive { s with dlv := { s.dlv with partials := rest } } { w with data := bs } t
  | none => { s with dlv := { s.dlv with partials := rest ++ [({ work := w, tag := t, segs := segs } : Partial)] } }

/-- R123, R146: what a tagged DATA frame brings: its item where it is whole, or a segment of it. -/
def State.takeFrame (s : State) (tag : Tag) (ep cls param opcode length segOff : Nat) (last : Bool) (bytes : List Byte) : State :=
  let w : Work := { src := tag.src, sq := tag.sq, gen := tag.gen, wsn := tag.wsn, resend := tag.resend, ep, opcode, param, length, cls }
  if carriesOut opcode then
    (if last ∧ segOff = 0 ∧ bytes.length = length then s.arrive { w with data := bytes } tag
     else s.segment w tag segOff bytes)
  else s.arrive w tag

/-- R123, R130, R146: a tagged DATA frame for this node. It voids a Lull round that the node has consented to (R170). -/
def execDataFrame (tag : Tag) (ep : BitVec 12) (cls : Fin 8) (param opcode length segOff : Nat) (last : Bool)
    (bytes : List Byte) (s : State) : Host.Outcome State Fault Refusal :=
  .next (
    let s := (s.voidBy 5).journalInput (.frame tag ep.toNat cls.val param opcode length segOff last bytes)
    s.takeFrame tag ep.toNat cls.val param opcode length segOff last bytes)

/-- R146, R334: a RETURN frame's segment is written at `BUF_ADDR` + `SEG_OFF`; a `REG_READ` or a `BRIDGE_READ` retires with the last
one, every other item
with its acknowledgement (R160). -/
def execReturnFrame (tag : Tag) (segOff : Nat) (last : Bool) (bytes : List Byte) (s : State) :
    Host.Outcome State Fault Refusal :=
  .next (
    if tag.gen ≠ s.dlv.gen then s
    else match s.openItem? tag.sq tag.wsn with
      | none => s
      | some i =>
        let s := s.hostWrite (i.desc.bufAddr + segOff) bytes
        let s := s.updItem i.sq i.num (fun i => { i with got := segOff + bytes.length })
        if last ∧ (i.desc.opcode = 0x21 ∨ i.desc.opcode = 0x31) then s.retire i.sq i.wsn 0 (segOff + bytes.length) 0 false else s)

/-- R104, R333: the second record of a posted write that has failed, on the CQ of its SQ; with `FENCE_ON_POSTED_FAULT` or
`STOP_ON_ERR` the SQ enters ERROR, and in ERROR its later posted writes are held. -/
def State.postedRecord (s : State) (sq num tag wsn detail : Nat) : State :=
  let cq := s.get (HQ_SQ_CFG_CQ sq)
  let s := s.queueRecord cq { sq, num, tag, wsn, status := 0x40, detail, second := true }
  let s := if s.flag (HQ_SQ_CFG_FENCE_ON_POSTED_FAULT sq) ∨ s.flag (HQ_SQ_CFG_STOP_ON_ERR sq) then s.sqError sq 0x40 else s
  if s.sqState sq = 3 ∧ ¬ s.hq.postHeld.contains sq then { s with hq := { s.hq with postHeld := s.hq.postHeld ++ [sq] } } else s

/-- R333: an ACK entry with `REMOTE_ERROR` for a bridge write reported as applied before. -/
def State.postedFault (s : State) (_src : Nat) (e : AckEntry) : State :=
  match s.dlv.brgDone.find? (fun x => x.1 == e.sq && x.2.1 == e.wsn) with
  | some (sq, wsn, num, tag) =>
    let s : State := { s with dlv := { s.dlv with brgDone := s.dlv.brgDone.filter (fun x => !(x.1 == sq && x.2.1 == wsn)) } }
    s.postedRecord sq num tag wsn e.detail
  | none => s

/-- R123, R124, R160: one entry of an ACK frame at the source. -/
def State.ackEntry (s : State) (src : Nat) (e : AckEntry) : State :=
  if e.gen ≠ s.dlv.gen then s
  else if e.result = 0x03 then
    (s.hq.items.filter (fun i => i.sq == e.sq && i.stage == .forwarded && i.desc.dest == src * 4096 + e.endpoint
      && laterThan 48 i.wsn e.wsn)).foldl State.resend s
  else if e.result = 0x05 then s
  else match s.openItem? e.sq e.wsn with
    | some i =>
      if i.desc.dest / 4096 ≠ src then s
      else
        let ok := e.result = 0x01 ∨ e.result = 0x02
        let moved := if carriesOut i.desc.opcode then i.desc.length else i.got
        if e.result = 0x22 then s.indetAll [i] e.detail
        else
        let s := if ok ∧ i.desc.opcode = 0x30 then
            { s with dlv := { s.dlv with brgDone := s.dlv.brgDone ++ [(i.sq, i.wsn, i.num, i.desc.tag)] } }
          else s
        -- No field of an ACK entry says whether the frame was late (R97).
        let timed := decide (ok ∧ i.desc.opcode = 0x10 ∧ i.desc.param ≠ 0)
        let late := timed && s.freeBit
        State.retire (if timed then s.draw else s) e.sq e.wsn (ackStatus e.result) (if ok then moved else 0)
          (if e.result = 0x02 then 1 else e.detail) late
    | none =>
      -- R333: a posted write that another node has reported as applied has failed there.
      if e.result = 0x20 then s.postedFault src e else s

/-- R120: an ACK frame reaches the source. -/
def execAckFrame (src : Nat) (entries : List AckEntry) (s : State) : Host.Outcome State Fault Refusal :=
  .next (entries.foldl (fun s e => s.ackEntry src e) s)

/-- R124: an item without acknowledgement is resent, and its timeout doubles up to 1 s. -/
def execAckTimeoutExpiry (sq : BitVec 8) (wsn : Nat) (s : State) : Host.Outcome State Fault Refusal :=
  .next (match s.openItem? sq.toNat wsn with
    | some i =>
      if i.stage = .forwarded then
        (s.updItem i.sq i.num (fun i => { i with timeout := min (2 * i.timeout) 1000 })).resend
          { i with timeout := min (2 * i.timeout) 1000 }
      else s
    | none => s)

/-- R124, R129, R155, R163, R168: RESYNC of another node. With `LEDGER` = NEW, items forwarded to it at least once end
`INDETERMINATE`; every other unretired item is resent. -/
def execResyncFrame (src seq ledger : Nat) (s : State) : Host.Outcome State Fault Refusal :=
  .next (
    let s := { s with ring := { s.ring with
      lastSeq := SMap.insert s.ring.lastSeq src (seq % 65536), loading := s.ring.loading.filter (fun n => n != src) } }
    let mine := s.hq.items.filter (fun i => i.isAccepted && !i.isDone && i.everFwd && i.desc.dest / 4096 == src)
    let s := if ledger = 2 then (s.indetAll mine 1).kick else s
    (s.resendTo src (fun _ => true)).sendFullState)

/-- R129, R135: a destination has been absent for `HOLD_TIME`: items never forwarded return `REDIRECT` with `DEST_ABSENT`, and
the others end `INDETERMINATE`. -/
def execDestAbsentExpiry (node : Nat) (s : State) : Host.Outcome State Fault Refusal :=
  .next (
    if node = s.nodeId ∨ (s.routePort node 0).isSome then s
    else
      let mine := s.hq.items.filter (fun i => i.isAccepted && !i.isDone && i.desc.dest / 4096 == node
        && i.desc.opcode != 0 && i.desc.opcode != 1)
      let s := (mine.filter (fun i => !i.everFwd)).foldl (fun s i => s.retireRaw i.sq i.wsn 0x21 0 2 false) s
      (s.indetAll (mine.filter (fun i => i.everFwd)) 1).kick)

/-! ### The journal (R132, R133, R137) -/

/-- R137: SQs whose AON copy shows unretired WSNs are reported as lost, each with the old `GEN` and the range, packed as the model
chose, without the SQ (DESIGN CHOICE, notes/assumptions/15.md). -/
def State.reportLost (s : State) : State :=
  s.dlv.last.foldl (fun s (sq, w) =>
    let r := SMap.getD s.dlv.retired sq 0
    if laterThan 48 w r then
      s.recordWith 26 [s.dlv.gen, nextWsn r % 2 ^ 32, nextWsn r / 2 ^ 32 + w % 2 ^ 16 * 2 ^ 16, w / 2 ^ 16]
    else s) s

/-- R132: the sizes of a journal configuration are in range. -/
def jrnSizesOk (v : Nat) : Bool :=
  32 ≤ v / 65536 % 8192 && v / 65536 % 8192 ≤ 4096 && 10 ≤ v / 256 % 32 && v / 256 % 32 ≤ 20

/-- The fields of `HQ_JRN_CFG` other than `ENABLE` written. -/
def State.jrnFields (s : State) (v : Nat) : State :=
  (s.put HQ_JRN_CFG_SPOOL_MIB (v / 65536)).put HQ_JRN_CFG_LOG2_RECORDS (v / 256)

/-- R132: the enable of the journal is refused with an error code (DESIGN CHOICE which, notes/assumptions/16.md). -/
def State.jrnRefuse (s : State) (code : Nat) : State := (s.put HQ_JRN_STATUS_ERR code).hqReject

/-- R132, R137: the journal is enabled with the header's `gen` and the WSN table: a table of zeros waits under a new `GEN`, any other
is taken over and the records are scanned. -/
def State.jrnStart (s : State) (v gen : Nat) (table : List (Nat × Nat × Nat)) : State :=
  let s := ((s.jrnFields v).put HQ_JRN_CFG_ENABLE 1).put HQ_JRN_STATUS_ERR 0
  let zero := table.all (fun (_, l, r) => l == 0 && r == 0)
  let s := if zero ∨ s.dlv.gen ≠ gen then s.reportLost else s
  if zero then
    { s.put HQ_JRN_STATUS_STATE 4 with dlv := { s.dlv with newGen := gen } }.showSpool
  else
    let last := table.foldl (fun m (q, l, _) => SMap.insert m q l) ([] : SMap Nat)
    let ret := table.foldl (fun m (q, _, r) => SMap.insert m q r) ([] : SMap Nat)
    let s := { s.put HQ_JRN_STATUS_STATE 1 with dlv := { s.dlv with
      gen := gen, newGen := gen, last := last, retired := ret
      lastDest := if s.dlv.gen = gen then s.dlv.lastDest else [], slots := [], nextSlot := 0
      spoolNext := 0, unflushed := [] } }
    s.showSpool.emit (.hostRead (s.recordAddr 0) (64 * s.jrnRecords) 5)

/-- R132: the journal goes to OFF. Items of a replay that have not been re-sent leave with it: a new scan reads their records
(notes/assumptions/16.md). -/
def State.jrnOff (s : State) : State :=
  let gone := s.hq.items.filter (fun i => i.replay && !i.everFwd && !i.isDone)
  let s := (s.setItems (s.hq.items.filter (fun i => !(i.replay && !i.everFwd && !i.isDone)))).put HQ_JRN_STATUS_STATE 0
  gone.foldl (fun s i => s.showInflight i.sq) s

/-- R132, R134: `HQ_JRN_CFG` written. An accepted `ENABLE` = 0 goes to OFF (DESIGN CHOICE, notes/assumptions/16.md). At an enable the header (its `GEN`, or none where it cannot be read) and the nonzero
entries of the WSN table (SQ, `LAST_WSN`, `RETIRED`) are read. -/
def execJournalEnable (val : Word) (header : Option Nat) (table : List (Nat × Nat × Nat)) (s : State) :
    Host.Outcome State Fault Refusal :=
  .next (
    let v := val.toNat
    let same := v / 65536 % 8192 == s.get HQ_JRN_CFG_SPOOL_MIB && v / 256 % 32 == s.get HQ_JRN_CFG_LOG2_RECORDS
    if s.flag HQ_JRN_CFG_ENABLE then
      if ¬ same then s.hqReject
      else if v % 2 = 1 then s
      else if ¬ s.allSqDisabled then s.hqReject
      else (s.put HQ_JRN_CFG_ENABLE 0).jrnOff
    else if v % 2 = 0 then s.jrnFields v
    else if ¬ s.flag HQ_CTRL ∨ ¬ jrnSizesOk v then s.jrnRefuse 1
    else match header with
      | none => s.jrnRefuse 3
      | some gen =>
        if gen % 2 ^ 32 = 0 then s.jrnRefuse 2 else s.jrnStart v gen table)

/-- R116: a journal record read back: SQ, WSN, STATE, number, spool offset, previous WSN, descriptor, and whether its CRC is
right. -/
structure JRead where
  slot  : Nat
  sq    : Nat
  wsn   : Nat
  st    : Nat
  num   : Nat
  spool : Nat
  prev  : Nat
  desc  : Desc
  ok    : Bool
  data  : List Byte
  deriving DecidableEq, Repr

/-- R116: the fields of a record. -/
def readRecord (slot : Nat) (bs data : List Byte) : JRead :=
  { slot, sq := leAt bs 6 1, wsn := leAt bs 0 6, st := leAt bs 7 1, num := leAt bs 8 4, spool := leAt bs 12 4
    prev := leAt bs 48 6, desc := parseDesc ((bs.drop 16).take 32)
    ok := crc32c (bs.take 7 ++ [0] ++ (bs.drop 8).take 48) == leAt bs 56 4, data }

/-- R132: one record of the scan taken over: `LAST_WSN` is the later of the table's value and the record's, and an ACCEPTED
record becomes an item to replay. -/
def State.takeRecord (s : State) (r : JRead) : State :=
  let l := SMap.getD s.dlv.last r.sq 0
  let last := if laterThan 48 r.wsn l then SMap.insert s.dlv.last r.sq r.wsn else s.dlv.last
  let len := if r.spool = 0xFFFFFFFF then 0 else ceilDiv r.data.length 64 * 64
  let s := { s with dlv := { s.dlv with
    last := last
    lastDest := if laterThan 48 r.wsn (SMap.getD s.dlv.lastDest (r.sq * 2 ^ 20 + r.desc.dest) 0) then
        SMap.insert s.dlv.lastDest (r.sq * 2 ^ 20 + r.desc.dest) r.wsn else s.dlv.lastDest
    nextSlot := (r.slot + 1) % s.jrnRecords, spoolNext := if len = 0 then s.dlv.spoolNext else r.spool + len } }
  if r.st = 1 then
    let i : Item := { sq := r.sq, num := r.num, desc := r.desc, data := r.data, stage := .accepted, wsn := r.wsn
                      prev := r.prev, replay := true }
    let s := { s with dlv := { s.dlv with slots := s.dlv.slots ++
      [({ slot := r.slot, sq := r.sq, wsn := r.wsn, spoolOff := r.spool, spoolLen := len } : JSlot)] } }
    if s.hq.items.any (fun x => x.sq == r.sq && x.wsn == r.wsn) then s else (s.setItems (s.hq.items ++ [i])).showInflight r.sq
  else s

/-- R132, R133: the journal enters ERROR: fetching stops and what is not accepted completes `FLUSHED`. -/
def State.jrnError (s : State) : State :=
  let s := ((s.put HQ_JRN_STATUS_STATE 5).put HQ_JRN_STATUS_ERR 4).record 24
  s.each (List.range 256) (fun s n => if s.itemsOf n = [] then s else (s.flushSq n).pumpRecords n)

/-- R128, R132: the records of a scan taken over. Bridge items end `INDETERMINATE` and are not replayed; the others are re-sent. -/
def State.takeScan (s : State) (rs : List JRead) : State :=
  let s := (rs.foldl State.takeRecord s).put HQ_JRN_STATUS_STATE 2
  let far := s.hq.items.filter (fun i => i.replay && (i.desc.opcode == 0x30 || i.desc.opcode == 0x31))
  let s := (s.indetAll far 3).showSpool
  s.each (List.range 256) (fun s n => if s.sqState n = 1 then s.replaySq n else s)

/-- R132: the scan completes: the records of the ring that are not empty, in order of acceptance, each with the payload that the
spool holds for it. A record read again in REPLAYING with a bad `REC_CRC` leads to ERROR too. -/
def execJournalScanDone (records : List (Nat × List Byte × List Byte)) (s : State) : Host.Outcome State Fault Refusal :=
  .next (
    if s.jrnState ≠ 1 ∧ s.jrnState ≠ 2 then s
    else
      let rs := (records.map (fun (i, bs, d) => readRecord i bs d)).filter (fun r => r.st != 0)
      if ¬ rs.all (fun r => r.ok) then s.jrnError else if s.jrnState = 1 then s.takeScan rs else s)

/-- R132: WAIT_GEN ends: WSNs start at 1 under the new `GEN`, which AON takes. -/
def execJournalWaitGenExpiry (s : State) : Host.Outcome State Fault Refusal :=
  .next (
    if s.jrnState = 4 then
      { s.put HQ_JRN_STATUS_STATE 3 with dlv := { s.dlv with
        gen := s.dlv.newGen, last := [], retired := [], lastDest := [], slots := [], nextSlot := 0, spoolNext := 0
        unflushed := [] } }.showSpool
    else s)

/-- R132: every SQ with ACCEPTED records has had them re-sent: RUNNING. -/
def execJournalReplayDone (s : State) : Host.Outcome State Fault Refusal :=
  .next (
    if s.jrnState = 2 ∧ s.hq.items.all Item.resent then s.put HQ_JRN_STATUS_STATE 3
    else s)

end Sys2Proof.Machine
end

