-- ==== Sys2Proof/Machine/Ring.lean ====
section
/-! DEFINITION. The Knaorn ring (R139-R164): ports, credits, enumeration, protection and endpoint state. -/

namespace Sys2Proof.Machine

open Sys2Proof.Machine.Reg

/-! ### Ports (R141, R142, R156-R158) -/

/-- The state of ring port `p` changed; a state other than UP is the input of its shared source (R438). -/
def State.setPort (s : State) (p st : Nat) : State :=
  let s := s.put (RING_PORT_STATUS_STATE p) st
  if st = 2 then s else s.pendShared (644 + p)

/-- R188: the cells that a credited input grants for a class. -/
def State.creditCeiling (s : State) (p k : Nat) : Nat := s.get (resField p k) + s.get (PLD_IN_SHR_SHR_MAX p) / 8

/-- R28: the port withholds credits: its domain or PLD is threatened. -/
def State.creditsHeld (s : State) (p : Nat) : Bool := s.isThreat dPLD || s.isThreat (dRGE + p)

/-- R142, R188: a grant of cells to the partner of port `p`, which reserves them. -/
def State.grant (s : State) (p k n : Nat) : State :=
  State.emit { s with ring := { s.ring with granted := SMap.insert s.ring.granted (8 * p + k) (SMap.getD s.ring.granted (8 * p + k) 0 + n) } }
    (.orderedSet p (.credit k n))

/-- R141, R188: credits advertised for every class at entry to UP. The credits that the port holds at its partner start at 0. -/
def State.advertise (s : State) (p : Nat) : State :=
  s.each (List.range 8) (fun s k =>
    let s := { s with ring := { s.ring with
      credits := SMap.erase s.ring.credits (8 * p + k), returns := SMap.erase s.ring.returns (8 * p + k)
      granted := SMap.erase s.ring.granted (8 * p + k) } }
    if s.creditsHeld p then { s with ring := { s.ring with returns := SMap.insert s.ring.returns (8 * p + k) (s.creditCeiling p k) } }
    else s.grant p k (s.creditCeiling p k))

/-- R140, R143: the frame turned onto the other ring: `RING` flipped and `WRAPPED` = 1, with a new FCS (R156). -/
def turnFrame (bs : List Byte) : List Byte :=
  let b1 := (leAt bs 1 1 ^^^ 16) ||| 8
  let body := bs.take 1 ++ [BitVec.ofNat 8 b1] ++ (bs.take (bs.length - 4)).drop 2
  body ++ leBytes 4 (crc32c body)

/-- R154, R156: a frame of another node goes to the Polder for ring port `out`, is turned where that port is lost, DOWN or
TRAINING, and is held where the other one is too. -/
def State.sendTransit (s : State) (out cls : Nat) (bs : List Byte) : State :=
  if s.portState out = 2 then s.emit (.transit out cls bs)
  else if s.portState (1 - out) = 2 then (s.inc (RING_PORT_CNT_WRAP out)).emit (.transit (1 - out) cls (turnFrame bs))
  else { s with ring := { s.ring with heldTransit := s.ring.heldTransit ++ [(out, cls, bs)] } }

/-- R144 test 6, R154: a frame that a unit of this node passes on, received on port `p` with `hops`: `HOPS` is incremented, and it goes out on
the ring on which it came, in the queue of its class. -/
def State.passOn (s : State) (p src seq hops dst : Nat) (wrapped : Bool) (body : KBody) : State :=
  if 508 < hops + 1 then s.inc (RING_PORT_CNT_DISCARD p)
  else s.sendTransit (1 - p) (classOf body)
    (kframeBytes (ringOf (1 - p)) wrapped (hops + 1) dst (src * 4096 + srcEndpoint body) seq body)

/-- R153, R156: a frame that was held leaves by the port that its route now names, or else by the one it was held for. -/
def State.sendHeld (s : State) (h : HeldFrame) : State :=
  let back : Nat := if h.dst / 4096 = 255 then h.port else (s.routePort (h.dst / 4096) (h.dst % 4096)).getD h.port
  s.sendOn back h.dst h.seq h.body

/-- R156: frames that no ring port could take leave, in order, once a port can take them; items not yet forwarded follow. -/
def State.releaseHeld (s : State) : State :=
  let l := s.ring.heldFrames
  let tr := s.ring.heldTransit
  let s := { s with ring := { s.ring with heldFrames := [], heldTransit := [] } }
  let s := tr.foldl (fun s (o, c, bs) => s.sendTransit o c bs) s
  (l.foldl State.sendHeld s).kick

/-- R156: a port that is DOWN or TRAINING wraps once its other port is UP. -/
def State.wrapOther (s : State) (p : Nat) : State :=
  if p ≤ 1 ∧ (s.portState (1 - p) = 0 ∨ s.portState (1 - p) = 1) ∧ ¬ s.flag (wrapField (1 - p)) then s.wrapPort (1 - p) else s

/-- R135 event 5: frames queued in the Polder for ring port `p` go out through the other ring port, turned onto its ring. One in
egress is lost with the port (R159). -/
def State.redirectQueued (s : State) (p : Nat) : State :=
  let due (f : PFrame) : Bool := f.outs == [p] && f.started == []
  let mem := (s.pld.frames.filter due).foldl (fun m f =>
    (f.cells.zipIdx).foldl (fun m (c, i) => Memory.writeList m (256 * c) (((turnFrame f.bytes).drop (256 * i)).take 256)) m) s.pld.mem
  State.showPools { s with pld := { s.pld with
    mem := mem
    frames := s.pld.frames.map (fun f => if due f then { f with outs := [1 - p], bytes := turnFrame f.bytes } else f) } }

/-- The lanes of port `p` (R139, R175). -/
def laneBits (p : Nat) : Nat := if p = 2 then 3 else 15

/-- R175: every lane of port `p` shows signal, lock and alignment. -/
def State.showLanes (s : State) (p : Nat) : State :=
  ((s.put (RING_PORT_STATUS_SIG_DET p) (laneBits p)).put (RING_PORT_STATUS_LOCK p) (laneBits p)).put (RING_PORT_STATUS_ALIGNED p) 1

/-- R141, R158: port `p` is UP: credits advertised, held frames sent, its wrap released. The root of a ring that has woken
from LULL enumerates 2 ms after both its ports are UP (R152). -/
def State.portUp (s : State) (p : Nat) : State :=
  let s := ((s.setPort p 2).put (RING_PORT_STATUS_RF_RX p) 0).showLanes p
  let s := { s with ring := { s.ring with remoteFault := clearBit s.ring.remoteFault p } }
  let s := s.advertise p
  if 2 ≤ p then s
  else
    let s := if s.portState (1 - p) = 4 then s.redirectQueued (1 - p) else s
    let s := if s.flag (wrapField p) then s.unwrapPort p else s
    let s := s.releaseHeld
    let s := s.wrapOther p
    if s.ring.wakeEnum ∧ s.portState 0 = 2 ∧ s.portState 1 = 2 then
      { s with ring := { s.ring with wakeEnum := false, enumAgain := true } }
    else s

/-- R399, R129: the twin link is lost: a half that is not deposed is UNPAIRED, the mirror stops, and copies in flight are
committed by the active half alone (R400). -/
def State.twinLinkLost (s : State) : State :=
  let waits := s.twin.copies
  let st := s.get TWIN_STATUS_STATE
  let s := if 1 ≤ st ∧ st ≤ 3 then s.put TWIN_STATUS_STATE 0 else s
  let s := { s with twin := { s.twin with copies := [], synced := false, partner := none } }
  let s := if s.flag HQ_LDG_STATUS_MIRROR then (s.put HQ_LDG_STATUS_MIRROR 0).record 22 else s
  waits.foldl (fun s c =>
    if c.ckpt ∨ c.config then s
    else match s.work? c.src c.sq c.wsn with
      | some w => s.commit w c.bytes 0
      | none => s) s

/-- R156, R175: what a loss of cause `cause` at some lanes of port `p` leaves of its signals: 0 signal detect low, 1 block lock lost, 2 the
alignment marker missing, 3 REMOTE_FAULT received. -/
def State.loseLanes (s : State) (p cause lanes : Nat) : State :=
  if cause = 3 then s.put (RING_PORT_STATUS_RF_RX p) 1
  else
    let s := s.put (RING_PORT_STATUS_ALIGNED p) 0
    let s := if cause = 2 then s else s.dropBits (RING_PORT_STATUS_LOCK p) lanes
    if cause = 0 then s.dropBits (RING_PORT_STATUS_SIG_DET p) lanes else s

/-- R156, R157: a port that is UP loses its receive side: HOLD, REMOTE_FAULT on its transmit side unless the loss was one,
and the node wraps. The twin link turns nothing. -/
def State.portLoss (s : State) (p cause lanes : Nat) : State :=
  if s.portState p ≠ 2 then s
  else
    let s := (((s.setPort p 3).inc (RING_PORT_CNT_DOWN p)).loseLanes p cause lanes).record (40 + p)
    let s := if cause = 3 then s
      else { s with ring := { s.ring with remoteFault := setBit s.ring.remoteFault p } }.emit (.orderedSet p .remoteFault)
    if p = 2 then s.twinLinkLost else s.wrapPort p

/-- R141, R175: signal detect on every lane takes a DOWN port to TRAINING. -/
def execRingSignalDetect (port : Fin 3) (s : State) : Host.Outcome State Fault Refusal :=
  .next (if s.portState port = 0 ∧ s.isUp (dRGE + port) then (s.setPort port 1).put (RING_PORT_STATUS_SIG_DET port) (laneBits port)
    else if s.portState port = 1 then s.put (RING_PORT_STATUS_SIG_DET port) (laneBits port)
    else s)

/-- R141: every lane locked and aligned without REMOTE_FAULT for 2 ms. -/
def execRingTrainingDone (port : Fin 3) (s : State) : Host.Outcome State Fault Refusal :=
  .next (if s.portState port = 1 then s.portUp port else s)

/-- R156: loss is declared at a port: its cause and, for the first two causes, the lanes at which it shows; see `State.loseLanes`. -/
def execRingPortLoss (port : Fin 3) (cause : PortLoss) (s : State) : Host.Outcome State Fault Refusal :=
  .next (s.portLoss port cause.cause cause.lanes)

/-- R140, R142: a CREDIT ordered set returns cells; one that returns 0 cells is discarded. -/
def execCreditOs (port : Fin 3) (cls : Fin 8) (cells : Nat) (s : State) : Host.Outcome State Fault Refusal :=
  .next (if cells = 0 then s
    else
      let k := 8 * port.val + cls.val
      { s with ring := { s.ring with credits := SMap.insert s.ring.credits k (SMap.getD s.ring.credits k 0 + cells % 65536) } })

/-- R142: pending returns of a port are sent, unless they are withheld (R28, R188). -/
def execCreditReturnTimer (port : Fin 3) (s : State) : Host.Outcome State Fault Refusal :=
  .next (if s.creditsHeld port then s
    else s.each (List.range 8) (fun s k =>
      let n := SMap.getD s.ring.returns (8 * port.val + k) 0
      if n = 0 then s
      else State.grant { s with ring := { s.ring with returns := SMap.erase s.ring.returns (8 * port.val + k) } } port k n))

/-! ### Enumeration (R149-R152) -/

/-- R174: `RING_CTRL` written with `EN` = 1: at the root ring services run and it enumerates. A member ignores the write. -/
def execRingEnable (s : State) : Host.Outcome State Fault Refusal :=
  .next (if s.flag RING_NODE_ROOT then
      (if s.flag RING_CTRL_EN then s else (s.put RING_CTRL_EN 1).startEnum)
    else s)

/-- R152: `ENUM_START` at the root; ignored while an enumeration runs. -/
def execEnumStart (s : State) : Host.Outcome State Fault Refusal :=
  .next (if s.rootRuns ∧ s.get RING_ENUM_STATUS_STATE ≠ 1 then s.startEnum else s)

/-- R149: the `FLAGS` of an ENUM_REPORT. -/
def State.reportFlags (s : State) (ring : Nat) : Nat :=
  ring + 2 * s.get GLB_STRAP_SLOT + 4 * (match s.node.twinRole with
    | .single => 0 | .active => 1 | .standby => 2)

/-- R149: an unwrapped ENUM is answered back the way it came, and the hops on its ring are kept. -/
def State.answerEnum (s : State) (port : Fin 2) (src round hops : Nat) : State :=
  let ring := 1 - port.val
  let fresh := s.ring.answered ≠ some round
  let s := { s with ring := { s.ring with
    enumSrc := some src, answered := some round
    hopsA := if ring = 0 then some (hops + 1) else if fresh then none else s.ring.hopsA
    hopsB := if ring = 1 then some (hops + 1) else if fresh then none else s.ring.hopsB } }
  s.sendOn port (src * 4096) 0
    (.enumReport Config.uid.toNat s.nodeId s.mode (s.reportFlags ring) (hops + 1) round)

/-- R149, R154: ENUM reaches the node through a port (0 East, on ring B; 1 West, on ring A). An unwrapped one is answered back the
way it came; the root removes its own. Every other ENUM is forwarded, with `HOPS` incremented. -/
def execEnumFrame (port : Fin 2) (src : Sent) (round hops : Nat) (wrapped : Bool) (s : State) :
    Host.Outcome State Fault Refusal :=
  .next (
    if s.flag RING_NODE_ROOT ∧ src.node = s.nodeId then
      (if port = 1 ∧ ¬ wrapped ∧ round = s.get RING_ENUM_STATUS_ROUND then
        { s with ring := { s.ring with enumBack := true } } else s)
    else (if wrapped then s else s.answerEnum port src.node round hops).passOn port src.node src.seq hops (255 * 4096) wrapped (.enum round))

/-- R150: the root collects an ENUM_REPORT of the present round. -/
def execEnumReportFrame (uid claim mode flags hops round : Nat) (s : State) : Host.Outcome State Fault Refusal :=
  .next (if s.flag RING_NODE_ROOT ∧ s.get RING_ENUM_STATUS_STATE = 1 ∧ round = s.get RING_ENUM_STATUS_ROUND then
      { s with ring := { s.ring with reports := s.ring.reports ++ [({ uid, claim, mode, flags, hops } : Report)] } }
    else s)

/-- A node as the root sees it after its reports: UID, claim, mode and position. -/
structure Member where
  uid   : Nat
  claim : Nat
  mode  : Nat
  pos   : Nat
  deriving DecidableEq, Repr

/-- R150: the members, in order of position: the ring-A `HOPS` of a node that reported on ring A, and otherwise `N` minus its
ring-B `HOPS`. -/
def membersOf (reports : List Report) : List Member :=
  let uids := (reports.map (fun r => r.uid)).eraseDups
  let n := uids.length + 1
  (uids.filterMap (fun u =>
    match reports.find? (fun r => r.uid == u && r.flags % 2 == 0), reports.find? (fun r => r.uid == u && r.flags % 2 == 1) with
    | some r, _ => some (⟨u, r.claim, r.mode, r.hops⟩ : Member)
    | none, some r => some ⟨u, r.claim, r.mode, n - r.hops⟩
    | none, none => none)).mergeSort (fun a b => a.pos ≤ b.pos)

/-- R150: the ID that `RING_NTABn` gives a UID, or 0. -/
def State.tableId (s : State) (uid : Nat) : Nat :=
  (((List.range 254).map (fun i => i + 1)).find? (fun n => uid != 0 && s.get64 (RING_NTAB_LO n) (RING_NTAB_HI n) == uid)).getD 0

/-- R150, R151: the ID that a member asks for: its claim, or its table entry. -/
def State.wanted (s : State) (m : Member) : Nat := if s.get RING_ENUM_CFG = 1 then s.tableId m.uid else m.claim

/-- R151: the member shares its ID with another, or claims the root's. -/
def State.isDup (s : State) (ms : List Member) (m : Member) : Bool :=
  let w := s.wanted m
  w != 0 && (w == s.nodeId || ms.any (fun x => x.uid != m.uid && s.wanted x == w))

/-- The lowest ID that no list holds. -/
def lowestFree (used : List Nat) : Nat := (((List.range 254).map (fun i => i + 1)).find? (fun n => !used.contains n)).getD 0

/-- R150: the IDs of the members, in position order. Members that claim 0 take the lowest free IDs. -/
def State.assignIds (s : State) (ms : List Member) : List Member → List Nat → List (Nat × Nat)
  | [], _ => []
  | m :: rest, used =>
    let w := s.wanted m
    if s.isDup ms m then (m.pos, 0) :: s.assignIds ms rest used
    else if w ≠ 0 then (m.pos, w) :: s.assignIds ms rest used
    else if s.get RING_ENUM_CFG = 1 then (m.pos, 0) :: s.assignIds ms rest used
    else (m.pos, lowestFree used) :: s.assignIds ms rest (lowestFree used :: used)

/-- R174: the presence bits of the ring map. -/
def State.showMap (s : State) : State :=
  s.each (List.range 8) (fun s m => s.put (RING_MAP m)
    ((List.range 32).foldl (fun acc j => if 32 * m + j ≠ 0 ∧ s.ring.map.contains (32 * m + j) then setBit acc j else acc) 0))

/-- R150, R177: a MAP applied: the ring map, `N`, `CLOSED` and the root's ID. A closed ring clears the breaks. -/
def State.applyMap (s : State) (n : Nat) (closed : Bool) (ids : List Nat) (pos : Nat) : State :=
  let s := { s with ring := { s.ring with map := ids.take n, pos := pos, rootId := ids.head? } }
  let s := (((s.put RING_ENUM_STATUS_N n).put RING_ENUM_STATUS_CLOSED (b2n closed)).put RING_ENUM_STATUS_STATE 2).showMap
  -- R226: without a closed ring the root's closure is not valid.
  let s := if ¬ closed ∧ s.flag RING_NODE_ROOT then s.put TIME_STATUS_CLOSURE_VALID 0 else s
  if closed then (State.showBreaks { s with ring := { s.ring with breaks := [], released := [] } }).releaseHeld else s.showBreaks

/-- R151: the root records a duplicated ID once, with the UIDs of two claimants. -/
def State.recordDup (s : State) (id a b : Nat) : State :=
  let s := (s.incSat RING_DUP_STATUS_COUNT).put RING_DUP_STATUS_LAST_ID id
  ((s.put64 RING_DUP_UID_A_LO RING_DUP_UID_A_HI a).put64 RING_DUP_UID_B_LO RING_DUP_UID_B_HI b).recordWith 36 [id]

/-- R150, R151: the root works out the ring from its reports, broadcasts MAP, applies it and records the duplicates. -/
def State.formRing (s : State) : State :=
  let ms := membersOf s.ring.reports
  let n := ms.length + 1
  let used := s.nodeId :: ms.map s.wanted
  let given := s.assignIds ms ms used
  let ids := s.nodeId :: (List.range ms.length).map (fun i =>
    ((given.find? (fun g => g.1 == i + 1)).map (fun g => g.2)).getD 0)
  let closed := s.ring.enumBack
  let dups := (((ms.filter (s.isDup ms)).map s.wanted).eraseDups).map (fun id =>
    (id, (ms.filter (fun m => s.wanted m == id)).map (fun m => m.uid)))
  let unknown := if s.get RING_ENUM_CFG = 1 then (ms.filter (fun m => s.wanted m == 0)).length else 0
  let s := s.addSat RING_DUP_STATUS_UNKNOWN unknown
  let loading := ms.filterMap (fun m => if m.mode = 2 then (ids[m.pos]?) else none)
  let s := { s with ring := { s.ring with loading := loading } }
  let round := s.get RING_ENUM_STATUS_ROUND
  let s := s.broadcast (.map round n (b2n closed) ids)
  let s := (s.applyMap n closed ids 0).sendFullState
  dups.foldl (fun s (id, us) =>
    if id = s.nodeId then s.recordDup id Config.uid.toNat (us.headD 0) else s.recordDup id (us.headD 0) (us.getD 1 0)) s

/-- R150, R151: five milliseconds after ENUM the root forms the ring. -/
def execEnumMapTimer (s : State) : Host.Outcome State Fault Refusal :=
  .next (if s.flag RING_NODE_ROOT ∧ s.get RING_ENUM_STATUS_STATE = 1 then s.formRing else s)

/-- R150: the position of this node in a ring of `n`: from its own reports. -/
def State.myPos (s : State) (n : Nat) : Nat :=
  match s.ring.hopsA, s.ring.hopsB with
  | some a, _ => a
  | none, some b => n - b
  | none, none => 0

/-- R150, R151: a node applies a MAP of the round it answered: its position from its own reports, its ID from its position. -/
def execMapFrame (_src round n flags : Nat) (ids : List Nat) (s : State) : Host.Outcome State Fault Refusal :=
  .next (if s.ring.answered = some round ∧ ¬ s.flag RING_NODE_ROOT then
      let pos := s.myPos n
      let s := (s.applyMap n (flags % 2 = 1) ids pos).put RING_ENUM_STATUS_ROUND round
      let id := ids.getD pos 0
      let s := s.put RING_NODE_ID id
      if id = 0 then (s.raise RING_NODE_HELD_OUT).record 35
      else (s.put RING_NODE_HELD_OUT 0).sendFullState
    else s)

/-- R152: two milliseconds after the last wrap is in place, or after both ports of a woken root are UP. -/
def execEnumRestartTimer (s : State) : Host.Outcome State Fault Refusal :=
  .next (if s.rootRuns ∧ s.ring.enumAgain then s.startEnum else s)

/-- R158, R159: PROTECT of another node: 1 WRAP, 2 RELEASE. -/
def execProtectFrame (src seq kind port : Nat) (s : State) : Host.Outcome State Fault Refusal :=
  .next (if kind = 1 then (s.addBreak src port seq).protectionEvent false
    else if kind = 2 then ((s.dropBreak src port seq).protectionEvent true).releaseHeld
    else s)

/-! ### Endpoint state (R163, R164, R395) -/

/-- R163: the entries of a copy after a frame. -/
def mergeEntries (old : SMap Nat) (l : List (Nat × Nat)) : SMap Nat :=
  l.foldl (fun m e => if e.2 % 32 = 0 then SMap.erase m e.1 else SMap.insert m e.1 (e.2 % 32)) old

/-- R164, R244: the domains that an EP_STATE shows draining and the endpoints it withdraws: EP_FLUSH is owed, or sent at once. -/
def State.oweFlush (s : State) (src version draining : Nat) (gone : List Nat) : State :=
  if draining = 0 ∧ gone = [] then s
  else
    let others := s.ring.owedFlush.filter (fun e => !(e.1 == src && e.2.1 == version))
    State.payFlush { s with ring := { s.ring with owedFlush := others ++ [(src, version, draining, gone)] } }

/-- R130, R163: the copy of a sender's endpoints, and the place of a pair, after an EP_STATE. -/
def State.mergeEp (s : State) (src : Nat) (pair : Bool) (ring : Fin 2) (hops version up draining fenced : Nat)
    (full more : Bool) (entries : List (Nat × Nat)) : State :=
  let key := if pair then 256 + src else src
  let n := s.ring.map.length
  let old := SMap.find s.ring.copies key
  let starts : Bool := full && (match old with
    | none => true
    | some c => !c.more)
  let prev : SMap Nat := match old with
    | none => []
    | some c => c.entries
  let base : SMap Nat := if starts then [] else prev
  let was : Bool := match old with
    | none => false
    | some c => c.held
  let c : EpCopy :=
    { version, up, draining, fenced, more, held := was || (full && !more), entries := mergeEntries base entries }
  { s with ring := { s.ring with
    copies := SMap.insert s.ring.copies key c
    pairPos := if pair ∧ n ≠ 0 then
        SMap.insert s.ring.pairPos src
          (if ring = 0 then (s.ring.pos + n * hops + n - (hops + 1)) % n else (s.ring.pos + hops + 1) % n)
      else s.ring.pairPos } }

/-- R130, R163: an EP_STATE updates the copy of its sender and is then forwarded on the ring on which it came, unless it has come back to
its source. An endpoint it announces makes this node resend at once. A held-out node only forwards (R151). -/
def execEpStateFrame (src : Sent) (pair : Bool) (ring : OnRing) (hops version up draining fenced : Nat) (full more : Bool)
    (entries : List (Nat × Nat)) (s : State) : Host.Outcome State Fault Refusal :=
  .next (
    let on (s : State) : State := s.passOn (1 - ring.ring.val) src.node src.seq hops (255 * 4096) ring.wrapped
      (.epState pair version up draining fenced full more entries)
    if src.node = s.nodeId ∧ src.node ≠ 0 then (if ring.ring = 0 then s else on s)
    else if s.flag RING_NODE_HELD_OUT then on s
    else
    let s := on (s.mergeEp src.node pair ring.ring hops version up draining fenced full more entries)
    let s := s.oweFlush src.node version draining ((entries.filter (fun e => e.2 % 32 == 0)).map (fun e => e.1))
    let named := entries.filterMap (fun e => if e.2 % 32 = 0 then none else some e.1)
    s.resendTo src.node (fun i => named.contains (i.desc.dest % 4096)))

/-- R164: EP_FLUSH for a version reaches the draining node. -/
def execEpFlushFrame (src version : Nat) (s : State) : Host.Outcome State Fault Refusal :=
  .next (
    let l := s.ring.drains.map (fun d =>
      if d.version = version ∧ ¬ d.flushed.contains src then { d with flushed := d.flushed ++ [src] } else d)
    let answered (d : Drain) : Bool := decide (4096 ≤ d.domain) && (d.domain - 4096) / 16 != 0x40 && s.flushHeld d
    { s with ring := { s.ring with drains := l.filter (fun d => !answered d) } })

/-- R164: EP_STATE of a drain sent again, with the drain's version. -/
def State.resendDrain (s : State) (d : Drain) : State :=
  let ep := d.domain - 4096
  let pair := s.node.twinRole != .single && 0x100 ≤ ep && 4096 ≤ d.domain
  s.broadcast (.epState pair d.version (s.get GLB_PD_STATUS) s.drainingBits (s.get FLT_FENCED) false false
    (if 4096 ≤ d.domain then [(ep, SMap.getD s.ring.ownEps ep 0)] else []))

/-- R164: EP_STATE retransmitted, as a new broadcast of the same version, until every node has answered. -/
def execEpStateRetransmit (s : State) : Host.Outcome State Fault Refusal :=
  .next ((s.ring.drains.filter (fun d => !s.flushHeld d)).foldl State.resendDrain s)

/-- R164, R244: an endpoint is withdrawn: EP_STATE, and a drain that awaits EP_FLUSH of its version. -/
def State.withdraw (s : State) (ep : Nat) : State :=
  let s := s.announce ep 0
  let d : Drain := { domain := 4096 + ep, version := s.ring.epVersion }
  { s with ring := { s.ring with drains := s.ring.drains.filter (fun x => x.domain != 4096 + ep) ++ [d] } }

/-- R164: every other node has answered an endpoint's withdrawal. -/
def State.withdrawn (s : State) (ep : Nat) : Bool := s.drainFlushed (4096 + ep)

/-- The withdrawal of an endpoint is over. -/
def State.endWithdraw (s : State) (ep : Nat) : State :=
  { s with ring := { s.ring with drains := s.ring.drains.filter (fun x => x.domain != 4096 + ep) } }

/-- R163, R164: the opcodes of an endpoint as its unit is now configured: announced, or the endpoint withdrawn. -/
def State.reannounce (s : State) (ep ops : Nat) : State :=
  if SMap.getD s.ring.ownEps ep 0 = ops then s
  else if ops = 0 then s.withdraw ep else ((s.endWithdraw ep).announce ep ops).resendOwn ep

end Sys2Proof.Machine
end

