-- ==== Sys2Proof/Machine/Sig.lean ====
section
/-! DEFINITION. The signal router (R320-R329, R341-R343): the signal table in LPDDR5, its cache, fields and transforms, inputs,
links, and the emissions of TX messages. -/

namespace Sys2Proof.Machine

open Sys2Proof.Machine.Reg

/-! ### Entries (R320, R327) -/

/-- A signal entry (R320). -/
structure SigEntry where
  xform  : Nat
  msg    : Nat
  next   : Nat
  be     : Bool
  signed : Bool
  len    : Nat
  bit    : Nat
  scale  : Nat
  offset : Nat
  value  : Int
  dst0   : Option Nat
  dst1   : Option Nat
  deriving DecidableEq, Repr

/-- The LPDDR5 address of entry `id`. -/
def sigAddr (id : Nat) : Nat := 0x04000000 + 32 * id

/-- A link of an entry. -/
def sigLink (v : Nat) : Option Nat := if v.testBit 31 then some (v % 2 ^ 18) else none

/-- R320: entry `id` of the signal table. -/
def State.sigEntry (s : State) (id : Nat) : SigEntry :=
  let bs := s.memRead (sigAddr id) 32
  let a := leAt bs 0 4
  let b := leAt bs 4 4
  { xform := a / 2 ^ 30, msg := bitsOf a 18 12, next := a % 2 ^ 18, be := b.testBit 31, signed := b.testBit 30
    len := bitsOf b 21 6, bit := b % 2 ^ 14, scale := leAt bs 8 4, offset := leAt bs 12 4, value := sext 64 (leAt bs 16 8)
    dst0 := sigLink (leAt bs 24 4), dst1 := sigLink (leAt bs 28 4) }

/-- The `VALUE` of an entry written, saturated to its range (R322). -/
def State.setValue (s : State) (id : Nat) (v : Int) : State :=
  s.memWrite (sigAddr id + 16) (leBytes 8 (wrapInt 64 (clampInt (-(2 ^ 63)) (2 ^ 63 - 1) v)))

/-- Unpinned entries that the cache may hold (R327). -/
def State.lruRoom (s : State) : Nat := 65536 - s.sig.pinned.length

/-- R327: a signal operation on entry `id`: counted, with a miss where the entry was not cached, which it then is. -/
def State.sigOp (s : State) (id : Nat) : State :=
  let s := s.inc SIG_CNT_OPS
  if s.sig.pinned.contains id then s
  else
    let s := if s.sig.lru.contains id then s else s.inc SIG_CNT_MISS
    { s with sig := { s.sig with lru := (id :: s.sig.lru.filter (fun x => x != id)).take s.lruRoom } }

/-- R320, R327: entry `id` stored. A pin beyond 49,152 is stored unpinned and sets `PIN_LIMIT`. -/
def State.writeEntry (s : State) (id : Nat) (bs : List Byte) : State :=
  let pin := (leAt bs 4 4).testBit 29
  let others := s.sig.pinned.filter (fun x => x != id)
  let full := decide (49152 ≤ others.length)
  let bs := if pin ∧ full then bs.take 4 ++ leBytes 4 (clearBit (leAt bs 4 4) 29) ++ bs.drop 8 else bs
  let s := if pin ∧ full then s.raise SIG_ERR_PIN_LIMIT else s
  let pinned := if pin ∧ ¬ full then others ++ [id] else others
  let s := s.memWrite (sigAddr id) (bs.take 32)
  let s : State := { s with sig := { s.sig with pinned := pinned } }
  let lru := s.sig.lru.filter (fun x => !pinned.contains x)
  State.put { s with sig := { s.sig with lru := lru.take s.lruRoom } } SIG_STATUS pinned.length

/-- R343: `SIG_ENT_SEL.WRITE`: `SIG_ENT_DATA` stored in entry `ID`. -/
def State.storeEntry (s : State) (id : Nat) : State :=
  s.writeEntry id (wordBytes ((List.range 8).map (fun k => s.get (SIG_ENT_DATA k))))

/-- R343: `SIG_ENT_SEL.READ`: entry `ID` loaded into `SIG_ENT_DATA`. -/
def State.loadEntry (s : State) (id : Nat) : State :=
  let bs := s.memRead (sigAddr id) 32
  s.each (List.range 8) (fun s k => s.put (SIG_ENT_DATA k) (leAt bs (4 * k) 4))

/-- R343: a write of `SIG_ENT_SEL`. With both bits set the entry is stored and then loaded. -/
def State.writeEntSel (s : State) (v : Nat) : State :=
  let id := v % 2 ^ 18
  let s := s.put SIG_ENT_SEL_ID id
  let s := if v.testBit 31 then s.storeEntry id else s
  if v.testBit 30 then s.loadEntry id else s

/-- R343: a write of `SIG_ENT_SEL` with `WRITE` set. -/
def execSigEntryWrite (val : Word) (s : State) : Host.Outcome State Fault Refusal :=
  .next (if s.isUp dSIG ∧ val.toNat.testBit 31 then s.writeEntSel val.toNat else s)

/-- R343: a write of `SIG_ENT_SEL` with `READ` set. -/
def execSigEntryRead (val : Word) (s : State) : Host.Outcome State Fault Refusal :=
  .next (if s.isUp dSIG ∧ val.toNat.testBit 30 then s.writeEntSel val.toNat else s)

/-! ### Fields and transforms (R321, R322) -/

/-- R321: the positions of a field of `n` bits, from position `p` on, in the order of descending (`BE`) or ascending value bits. -/
def fieldPositions (be : Bool) : Nat → Nat → List Nat
  | 0, _ => []
  | n + 1, p => p :: fieldPositions be n (if be then (if p % 8 ≠ 0 then p - 1 else p + 15) else p + 1)

/-- R321: the message bit of each value bit, lowest first. -/
def SigEntry.positions (e : SigEntry) : List Nat :=
  let l := fieldPositions e.be e.len e.bit
  if e.be then l.reverse else l

/-- Bit `k` of a message (R321). -/
def msgBit (bs : List Byte) (k : Nat) : Bool := (bs.getD (k / 8) 0).getLsbD (k % 8)

/-- The message with bit `k` set to `b`. -/
def setMsgBit (bs : List Byte) (k : Nat) (b : Bool) : List Byte :=
  updAt bs (k / 8) (fun x => if b then x ||| (1#8 <<< (k % 8)) else x &&& ~~~(1#8 <<< (k % 8)))

/-- The value of bits, lowest first. -/
def bitsVal : List Bool → Nat
  | [] => 0
  | b :: rest => b2n b + 2 * bitsVal rest

/-- R322: the points of transform table `t`. -/
def State.xtab (s : State) (t : Nat) : List (Int × Int) :=
  (List.range 16).map (fun i => (sext 32 (s.get (SIG_XTAB_X t i)), sext 32 (s.get (SIG_XTAB_Y t i))))

/-- R322: the X values of a table ascend strictly. -/
def ascends : List (Int × Int) → Bool
  | [] => true
  | [_] => true
  | (a, _) :: (b, y) :: rest => decide (a < b) && ascends ((b, y) :: rest)

/-- R322: the table's output for an input. -/
def interpolate : List (Int × Int) → Int → Int
  | [], _ => 0
  | [(_, y)], _ => y
  | (x0, y0) :: (x1, y1) :: rest, x =>
    if x ≤ x0 then y0
    else if x < x1 then divRoundAway (y0 * (x1 - x0) + (y1 - y0) * (x - x0)) (x1 - x0)
    else interpolate ((x1, y1) :: rest) x

/-- R321, R322: an entry that the router skips: an invalid transform, or a table that does not ascend. -/
def State.badXform (s : State) (e : SigEntry) : Bool :=
  e.xform == 3 || (e.xform == 2 && !ascends (s.xtab (e.scale % 256)))

/-- R321: a field is usable in a message of `len` bytes. -/
def SigEntry.usable (e : SigEntry) (len : Nat) : Bool :=
  decide (1 ≤ e.len ∧ e.len ≤ 32) && e.positions.all (fun p => decide (p < 8 * len))

/-- R322: `VALUE` from a raw field. -/
def State.valueOf (s : State) (e : SigEntry) (r : Int) : Int :=
  if e.xform = 0 then r * 65536
  else if e.xform = 1 then r * sext 32 e.scale + sext 32 e.offset
  else interpolate (s.xtab (e.scale % 256)) r

/-- R322: the raw field of a TX signal before its saturation. -/
def State.rawOf (s : State) (e : SigEntry) : Int :=
  if e.xform = 0 then divRoundAway e.value 65536
  else if e.xform = 1 then divRoundAway (e.value * sext 32 e.scale + sext 32 e.offset * 65536) (2 ^ 32)
  else interpolate (s.xtab (e.scale % 256)) (clampInt (-(2 ^ 31)) (2 ^ 31 - 1) e.value)

/-- The range of a field (R322). -/
def SigEntry.range (e : SigEntry) : Int × Int :=
  if e.signed then (-(2 ^ (e.len - 1)), 2 ^ (e.len - 1) - 1) else (0, 2 ^ e.len - 1)

/-! ### Messages (R323) -/

/-- R323: the fields of message `m`. -/
def State.msgDir (s : State) (m : Nat) : Nat := s.get (SIG_MSG_W m 0) / 2 ^ 30
def State.msgOnChange (s : State) (m : Nat) : Bool := (s.get (SIG_MSG_W m 0)).testBit 29
def State.msgKeyBytes (s : State) (m : Nat) : Nat := bitsOf (s.get (SIG_MSG_W m 0)) 26 3
def State.msgClass (s : State) (m : Nat) : Nat := bitsOf (s.get (SIG_MSG_W m 0)) 23 3
def State.msgEp (s : State) (m : Nat) : Nat := s.get (SIG_MSG_W m 0) % 2 ^ 20
def State.msgLen (s : State) (m : Nat) : Nat := s.get (SIG_MSG_W m 2) / 2 ^ 20
def State.msgFirst (s : State) (m : Nat) : Nat := s.get (SIG_MSG_W m 2) % 2 ^ 18
def State.msgPeriod (s : State) (m : Nat) : Nat := s.get (SIG_MSG_W m 3) / 2 ^ 16
def State.msgGap (s : State) (m : Nat) : Nat := s.get (SIG_MSG_W m 3) % 2 ^ 16

/-- R320, R324: the signals of a message from `id` on, by `NEXT`, up to the last one or one met before. -/
def State.sigChain (s : State) : Nat → Nat → List Nat → List Nat
  | 0, _, seen => seen
  | fuel + 1, id, seen =>
    if seen.contains id then seen
    else
      let n := (s.sigEntry id).next
      if n = id then seen ++ [id] else State.sigChain s fuel n (seen ++ [id])

/-- The signals of message `m`. -/
def State.msgSignals (s : State) (m : Nat) : List Nat := s.sigChain 262144 (s.msgFirst m) []

/-- R4, R323, R343: `SIG_MSGm_Ww` written. `DIR` 3 is refused, and a `LEN` outside 1-2,048. A TX message written takes an all-zero copy (R324). -/
def State.writeMsg (s : State) (m w v : Nat) : State :=
  if (w = 0 ∧ 3 ≤ v / 2 ^ 30) ∨ (w = 2 ∧ (v / 2 ^ 20 = 0 ∨ 2048 < v / 2 ^ 20)) then s.raise SIG_ERR_CFG_REJECT
  else
    let s := s.put (SIG_MSG_W m w) v
    { s with sig := { s.sig with tx := SMap.erase s.sig.tx m } }

/-- The state of TX message `m`. -/
def State.sigTx (s : State) (m : Nat) : SigTx := SMap.getD s.sig.tx m {}

/-- The state of TX message `m` replaced. -/
def State.setSigTx (s : State) (m : Nat) (x : SigTx) : State := { s with sig := { s.sig with tx := SMap.insert s.sig.tx m x } }

/-- Bytes filled up with zeros to a length. -/
def padTo (n : Nat) (bs : List Byte) : List Byte := (bs ++ List.replicate (n - bs.length) 0).take n

/-! ### Emissions (R324-R326) -/

/-- R325: a message at a local endpoint, in the way of a `SEND`. In SERVICE the latest bytes of a message replace those that wait
(R342). A message that the endpoint does not take is lost. -/
def State.emitLocal (s : State) (m ep cls : Nat) (bytes : List Byte) : State :=
  let range := s.sendRange true s.nodeId ep
  let doms := epDomains 0x10 ep
  if SMap.getD s.ring.ownEps ep 0 &&& 1 = 0 ∨ s.epDown ep ∨ ¬ doms.all (fun d => s.isUp d && !s.isFenced d && !s.isDraining d)
      ∨ bytes.length < range.1 ∨ range.2 < bytes.length
      ∨ (s.switchOut (.endpoint (s.nodeId * 4096 + ep) 0x10)).any (fun o => !s.frameFits 5 cls o bytes.length) then
    s.inc SIG_CNT_TX_DROP
  else
    let wait := s.dlv.work.find? (fun w => w.src == 256 && w.sq == m && m != 0 && w.ep == ep && !w.taken)
    match (if s.node.paused ∨ s.mode = mSERVICE then wait else none) with
    | some w => s.updWork w (fun w => { w with data := bytes, length := bytes.length, cls := cls })
    | none =>
      let s : State := { s with dlv := { s.dlv with rawNext := s.dlv.rawNext + 1 } }
      s.addWork { src := 256, sq := m, wsn := s.dlv.rawNext, ep, opcode := 0x10, length := bytes.length, cls, data := bytes }

/-- R326: the VALUES records of signals. -/
def State.valueRecords (s : State) (ids : List Nat) : List Byte :=
  ids.flatMap (fun id => leBytes 4 (2 ^ 28 + id) ++ leBytes 4 0 ++ s.memRead (sigAddr id + 16) 8)

/-- Lists of at most `n` elements. -/
def chunks {α : Type} (n : Nat) : Nat → List α → List (List α)
  | 0, _ => []
  | fuel + 1, l => if l.length ≤ n then [l] else l.take n :: chunks n fuel (l.drop n)

/-- R326: a SIGNAL frame to an endpoint of a node, 255 being all. -/
def State.sendSignal (s : State) (node ep cls : Nat) (bytes : List Byte) : State :=
  if node = 255 then s.broadcast (.signal cls bytes)
  else if (s.routePort node ep).isNone then s.inc SIG_CNT_TX_DROP
  else s.unicast node ep 0 (.signal cls bytes) 0

/-- R324-R326: TX message `m` is emitted from the bytes current now; the copy takes them and `MIN_GAP_US` starts. -/
def State.emitMsg (s : State) (m : Nat) : State :=
  let x := s.sigTx m
  let bytes := padTo (s.msgLen m) x.cur
  let s := s.setSigTx m { copy := x.cur, cur := x.cur, gap := s.msgGap m != 0, due := false }
  let s := s.inc SIG_CNT_TX
  let node := s.msgEp m / 4096
  let ep := s.msgEp m % 4096
  let own := node = 0 ∨ s.isOwn node ep
  if ep = 0 then
    (chunks 127 (s.msgSignals m).length (s.msgSignals m)).foldl (fun s ids =>
      let recs := s.valueRecords ids
      if own then { s with sig := { s.sig with inputs := s.sig.inputs ++ [.values s.nodeId recs] } }
      else s.sendSignal node 0 (s.msgClass m) ([2, 0] ++ leBytes 2 m ++ leBytes 4 0 ++ recs)) s
  else if own then s.emitLocal m ep (s.msgClass m) bytes
  else s.sendSignal node ep (s.msgClass m) ([1, 0] ++ leBytes 2 m ++ leBytes 4 0 ++ bytes)

/-- R324: an emission of `m` falls due: made now, or at the end of the gap. -/
def State.emitDue (s : State) (m : Nat) : State :=
  let x := s.sigTx m
  if x.gap then s.setSigTx m { x with due := true } else s.emitMsg m

/-- R321, R322, R327: one signal of a TX message repacked. -/
def State.repack (s : State) (len id : Nat) (bs : List Byte) : State × List Byte :=
  let e := s.sigEntry id
  if s.badXform e ∨ ¬ e.usable len then (s.inc SIG_CNT_SKIPPED, bs)
  else
    let s := s.sigOp id
    let raw := s.rawOf e
    let r := clampInt e.range.1 e.range.2 raw
    let s := if r = raw then s else s.inc SIG_CNT_SAT
    let v := wrapInt e.len r
    let bits := (List.range e.len).map (fun i => v.testBit i)
    (s, (e.positions.zip bits).foldl (fun bs (p, b) => setMsgBit bs p b) bs)

/-- R324: TX message `m` assembled from its copy, and emitted on a change. -/
def State.assembleMsg (s : State) (m : Nat) : State :=
  let len := s.msgLen m
  let (s, bs) := (s.msgSignals m).foldl (fun (a : State × List Byte) id => a.1.repack len id a.2) (s, padTo len (s.sigTx m).copy)
  let s := s.setSigTx m { s.sigTx m with cur := bs }
  if s.msgOnChange m ∧ bs ≠ padTo len (s.sigTx m).copy then s.emitDue m else s

/-! ### Values and links (R324) -/

/-- R324: links followed from the front of the list; each linked signal takes the value and adds its own links. The number is one
more than the links that the input may still follow, and 0 once `LINK_LIMIT` has been reported for it. The answer holds the number
left and the signals that have taken a value. -/
def State.followLinks : Nat → State → List (Nat × Int) → List Nat → State × Nat × List Nat
  | k, s, [], got => (s, k, got)
  | 0, s, _ :: _, got => (s, 0, got)
  | 1, s, _ :: _, got => ((s.raise SIG_ERR_LINK_LIMIT).record 512, 0, got)
  | k + 2, s, (id, v) :: rest, got =>
    let s := (s.sigOp id).setValue id v
    let e := s.sigEntry id
    State.followLinks (k + 1) s ((e.dst0.toList ++ e.dst1.toList).map (fun d => (d, v)) ++ rest) (got ++ [id])

/-- R324: a signal takes a value and passes it through its links. -/
def State.takeValue (s : State) (k id : Nat) (v : Int) (got : List Nat) : State × Nat × List Nat :=
  let s := s.setValue id v
  let e := s.sigEntry id
  s.followLinks k ((e.dst0.toList ++ e.dst1.toList).map (fun d => (d, e.value))) (got ++ [id])

/-- R324, R329: the TX messages of the signals that have taken a value are assembled, each once, in the order in which they were
met. -/
def State.updateMsgs (s : State) (got : List Nat) : State :=
  let ms := ((got.map (fun id => (s.sigEntry id).msg)).filter (fun m => m != 0 && s.msgDir m == 2)).eraseDups
  ms.foldl State.assembleMsg s

/-- R321, R322, R324: the signals of RX message `m` unpacked from an input. -/
def State.unpack (s : State) (m : Nat) (bytes : List Byte) : State :=
  let (s, _, got) := (s.msgSignals m).foldl (fun (a : State × Nat × List Nat) id =>
    let (s, k, got) := a
    let e := s.sigEntry id
    if s.badXform e ∨ ¬ e.usable (s.msgLen m) then (s.inc SIG_CNT_SKIPPED, k, got)
    else
      let r := bitsVal (e.positions.map (msgBit bytes))
      let v := s.valueOf e (if e.signed then sext e.len r else (r : Int))
      (s.sigOp id).takeValue k id v got) (s, 9, [])
  s.updateMsgs got

/-! ### Inputs (R324, R326, R328, R329) -/

/-- R323, R324: an input's endpoint, the test of a message's `KEY`, and its bytes. -/
def State.keyMatches (s : State) (m : Nat) : SigIn → Bool
  | .packet ep bs =>
    let k := s.msgKeyBytes m
    s.msgEp m == ep && k ≤ 4 && k ≤ bs.length && leAt bs 0 k == s.get (SIG_MSG_W m 1) % 2 ^ (8 * k)
  | .can ep ident _ =>
    s.msgEp m == ep && s.get (SIG_MSG_W m 1) / 2 ^ 31 == bitsOf ident 31 1 && s.get (SIG_MSG_W m 1) % 2 ^ 29 == ident % 2 ^ 29
  | .values _ _ => false

/-- R324: the RX message that takes an input. -/
def State.matchMsg (s : State) (i : SigIn) : Option Nat :=
  lowestFrom (fun m => s.msgDir m == 1 && s.keyMatches m i) 1 4095

/-- R329: while SIG is threatened, a newer input to an RX message replaces those to the same message that have not been served. -/
def State.coalesce (s : State) (i : SigIn) : State :=
  match s.matchMsg i with
  | none => s
  | some m =>
    let old := s.sig.inputs.filter (fun j => s.matchMsg j == some m)
    let s : State := { s with sig := { s.sig with inputs := s.sig.inputs.filter (fun j => s.matchMsg j != some m) } }
    s.addTo SIG_CNT_COALESCED old.length

/-- R324, R329, R402: a field input handed to the signal router. -/
def State.toRouter (s : State) (i : SigIn) : State :=
  if ¬ s.isUp dSIG then s
  else
    let s := if s.isThreat dSIG then s.coalesce i else s
    let s : State := { s with sig := { s.sig with inputs := s.sig.inputs ++ [i] } }
    match i with
    | .packet ep bs => s.journalInput (.router ep none bs)
    | .can ep ident bs => s.journalInput (.router ep (some ident) bs)
    | .values _ _ => s

/-- R328: a record of 16 bytes: its `OP`, `ID` and `DATA`. -/
def recordsOf : Nat → List Byte → List (List Byte)
  | 0, _ => []
  | fuel + 1, bs => if bs.length < 16 then [] else bs.take 16 :: recordsOf fuel (bs.drop 16)

/-- R328: a record that passes the check. -/
def State.recordOk (s : State) (values : Bool) (bs : List Byte) : Bool :=
  let a := leAt bs 0 4
  let e := s.sigEntry (a % 2 ^ 18)
  bitsOf a 18 10 == 0 && leAt bs 4 4 == 0
  && (a / 2 ^ 28 == 1
      || (a / 2 ^ 28 == 2 && !values && leAt bs 12 4 == 0 && (e.msg == 0 || s.msgDir e.msg == 1)))

/-- R328: one record applied, through links and emissions as an input would. -/
def State.applyRecord (s : State) (bs : List Byte) : State :=
  let id := leAt bs 0 4 % 2 ^ 18
  let e := s.sigEntry id
  if leAt bs 0 4 / 2 ^ 28 = 1 then
    let (s, _, got) := s.takeValue 9 id (sext 64 (leAt bs 8 8)) []
    s.updateMsgs got
  else if s.badXform e then s.inc SIG_CNT_SKIPPED
  else
    let r := leAt bs 8 4
    let (s, _, got) := s.takeValue 9 id (s.valueOf e (if e.signed then sext 32 r else (r : Int))) []
    s.updateMsgs got

/-- The router serves inputs: SIG is up and `EN` is set (R343). -/
def State.routes (s : State) : Bool := s.isUp dSIG && s.flag SIG_CTRL_EN

/-- R324, R326, R329: input `i`, taken from the front, served. -/
def State.serveInput (s : State) (i : SigIn) : State :=
  match i with
  | .values _ bs =>
    let rs := recordsOf bs.length bs
    if rs.length * 16 = bs.length ∧ rs.length ≤ 127 ∧ rs.all (s.recordOk true) then rs.foldl State.applyRecord s else s
  | .packet _ bs | .can _ _ bs =>
    match s.matchMsg i with
    | none => s.inc SIG_CNT_NOMSG
    | some m =>
      if bs.length < s.msgLen m then s.inc SIG_CNT_SHORT
      else s.unpack m bs

/-- R324: the router serves the oldest input. -/
def execSigInput (s : State) : Host.Outcome State Fault Refusal :=
  .next (
    if ¬ s.routes then s
    else match s.sig.inputs with
      | [] => s
      | i :: rest => State.serveInput { s with sig := { s.sig with inputs := rest } } i)

/-- R326: a SIGNAL frame: a message for a local endpoint, or records for this node's table. -/
def execSignalFrame (src : Nat) (ep : BitVec 12) (f : InClass) (s : State) : Host.Outcome State Fault Refusal :=
  .next (
    if ¬ s.isUp dSIG ∨ f.bytes.length < 8 then s
    else if f.bytes.headD 0 = 1 then s.emitLocal 0 ep.toNat f.cls (f.bytes.drop 8)
    else if f.bytes.headD 0 = 2 then { s with sig := { s.sig with inputs := s.sig.inputs ++ [.values src (f.bytes.drop 8)] } }
    else s)

/-- R324: `PERIOD_MS` has passed since the last emission of message `m`. -/
def execSigPeriodExpiry (m : Fin 4096) (s : State) : Host.Outcome State Fault Refusal :=
  .next (if s.routes ∧ m.val ≠ 0 ∧ s.msgDir m.val = 2 ∧ s.msgPeriod m.val ≠ 0 then s.emitDue m.val else s)

/-- R324: the gap after the last emission of message `m` ends; an emission due in it is made. -/
def execSigMinGapExpiry (m : Fin 4096) (s : State) : Host.Outcome State Fault Refusal :=
  .next (
    let x := s.sigTx m.val
    if ¬ x.gap then s
    else
      let s := s.setSigTx m.val { x with gap := false, due := false }
      if x.due ∧ s.routes ∧ s.msgDir m.val = 2 then s.emitMsg m.val else s)

/-! ### Items (R126, R328) -/

/-- R103, R126: work for an endpoint of SIG or of the supervisor that may be carried out: with its opcode, not yet taken, and no
earlier item of its stream still uncommitted but those whose far access has been issued. -/
def State.readyWork (s : State) (src sq wsn op : Nat) : Option Work :=
  match s.work? src sq wsn with
  | some w =>
    let before := (s.dlv.work.filter (fun x => x.ep == w.ep && x.src == src && x.sq == sq)).takeWhile (fun x => x.wsn != wsn)
    if w.opcode = op ∧ ¬ w.taken ∧ before.all (fun x => x.taken && (x.started || (x.opcode != 0x30 && x.opcode != 0x31)))
    then some w else none
  | none => none

/-- R328: a `SIG_UPDATE` item: every record is checked, then applied in order, and the item commits. -/
def execSigUpdate (src sq wsn : Nat) (s : State) : Host.Outcome State Fault Refusal :=
  .next (
    if ¬ s.routes then s
    else match s.readyWork src sq wsn 0x11 with
      | none => s
      | some w =>
        let rs := recordsOf w.data.length w.data
        if rs.all (s.recordOk false) then (rs.foldl State.applyRecord s).commitInternal w w.length
        else s.failWork w 0x20 0 0x06)

/-- R501: the opcodes that endpoint 0x000 takes. -/
def State.sigOps (s : State) : Nat := 8 * s.get SIG_CTRL_EN + 16 * s.get SIG_CTRL_BRG_EN

/-- R343: `SIG_CTRL` written. -/
def State.writeSigCtrl (s : State) (v : Nat) : State :=
  let s := (s.put SIG_CTRL_EN v).put SIG_CTRL_BRG_EN (v / 2)
  s.reannounce 0 s.sigOps

end Sys2Proof.Machine
end

