-- ==== Sys2Proof/Machine/Fifos.lean ====
section
/-! DEFINITION. Pins and port FIFOs of the field clusters (R249-R262, R269, R270, R274): functions, frames into and out of the
FIFOs, flushes, drops and loans. -/

namespace Sys2Proof.Machine

open Sys2Proof.Machine.Reg

/-! ### Configuration (R250, R251, R272-R274) -/

/-- R330: the bridge bus (2-17) that a port is bound to. -/
def State.boundBus (s : State) (n q : Nat) : Option Nat :=
  (List.range 16).map (· + 2) |>.find? (fun b => s.flag (SIG_BRG_BUS_CFG_EN b) && s.get (SIG_BRG_BUS_CFG_CLUSTER b) == n
    && s.get (SIG_BRG_BUS_CFG_PORT b) == q)

/-- R274, R330: the opcodes that a port's endpoint takes, as EP_STATE shows them. -/
def State.portOps (s : State) (n q : Nat) : Nat :=
  if (s.boundBus n q).isSome then 0 else s.get (FC_PORT_CFG_TX_EN n q) + 2 * s.get (FC_PORT_CFG_RX_EN n q)

/-- R263, R268: the opcodes that a line's endpoint takes. -/
def State.lineOps (s : State) (n p : Nat) : Nat :=
  b2n (s.flag (FC_DIO_CFG_DIR n p) && s.get (FC_PIN_CFG_FUNC n p) == 0) + 2 * s.get (FC_DIO_CFG_EVT_EN n p)

/-- Some engine of group `g` of cluster `n` is not halted. -/
def State.groupRuns (s : State) (n g : Nat) : Bool := s.get (FC_PIO_STATE_RUNNING n g) != 0

/-- R249, R250: `FCn_PINp_CFG` written. -/
def State.writePinCfg (s : State) (n p v : Nat) : State :=
  let f0 := s.get (FC_PIN_CFG_FUNC n p)
  let f := v % 4
  if f ≠ f0 ∧ ((f0 = 1 ∧ s.groupRuns n (p / 16))
      ∨ (f0 = 0 ∧ s.flag (FC_DIO_CFG_DIR n p) ∧ (s.line n p).queue ≠ [])) then s.raise (FC_ERR_CFG_REJECT n)
  else
    let s := ((s.put (FC_PIN_CFG_FLOW_POL n p) (v / 2 ^ 14)).put (FC_PIN_CFG_FLOW_DIR n p) (v / 2 ^ 13)).put
      (FC_PIN_CFG_FLOW_PORT n p) (v / 2 ^ 8)
    let s := (s.put (FC_PIN_CFG_DRIVE n p) (v / 8)).put (FC_PIN_CFG_PULL n p) (v / 4)
    let c := s.cl n
    -- A pin that leaves OFF keeps Z until its new driver sets it (R250), but one that has left Hold its held level (R52).
    let s := if f0 = 3 ∧ f ≠ 3 ∧ ¬ s.holdsPins n ∧ ¬ c.resume.testBit p then s.setCl n { c with pinOe := clearBit c.pinOe p } else s
    let s := if s.holdsPins n then s else s.setCl n { s.cl n with resume := clearBit (s.cl n).resume p }
    let s := s.put (FC_PIN_CFG_FUNC n p) f
    (s.driveFlowPin n p).reannounce (epLine n p) (s.lineOps n p)

/-- R250: a write of `FCn_PINp_CFG`. -/
def execPinFuncWrite (n : Fin 6) (p : Fin 64) (val : Word) (s : State) : Host.Outcome State Fault Refusal :=
  .next (if s.isUp (dFC n) then s.writePinCfg n p val.toNat else s)

/-- R251, R272: `FLOW`[m] is driven no more: `EN` was written 0. -/
def State.undriveFlow (s : State) (m : Nat) : State :=
  let c := s.cl 0
  if s.flag (FC0_FLOW_CFG_EN m) ∨ s.holdsPins 0 then s else s.setCl 0 { c with flowOe := clearBit c.flowOe m }

/-- R251: `FC0_FLOWm_CFG` written. -/
def State.writeFlowCfg (s : State) (m v : Nat) : State :=
  if 6 ≤ v / 2 ^ 8 % 8 then s.raise (FC_ERR_CFG_REJECT 0)
  else
    let before := s.flowShown m
    let s := ((s.put (FC0_FLOW_CFG_EN m) (v / 2 ^ 31)).put (FC0_FLOW_CFG_POL m) (v / 2 ^ 30)).put (FC0_FLOW_CFG_DIR m) (v / 2 ^ 29)
    let s := (((s.put (FC0_FLOW_CFG_CLUSTER m) (v / 2 ^ 8)).put (FC0_FLOW_CFG_PORT m) v).undriveFlow m).setFlow m
    if s.flowShown m = before then s else s.emit (.pin 8 m (s.flowShown m))

/-- R258: a watermark register written: `HI` in 2-512, `LO` in 1 to `HI` - 1. -/
def State.writeWatermark (s : State) (n q dir v : Nat) : State :=
  let hi := v / 2 ^ 16 % 2 ^ 10
  let lo := v % 2 ^ 10
  if hi < 2 ∨ 512 < hi ∨ lo = 0 ∨ hi ≤ lo then s.raise (FC_ERR_CFG_REJECT n)
  else if dir = 0 then ((s.put (FC_PORT_RXWM_HI n q) hi).put (FC_PORT_RXWM_LO n q) lo).showPort n q
  else ((s.put (FC_PORT_TXWM_HI n q) hi).put (FC_PORT_TXWM_LO n q) lo).showPort n q

/-- R274: `FCn_PORTq_CFG` written. `RX_EN` written 0 gives the port's loans back (R270). -/
def State.writePortCfg (s : State) (n q v : Nat) : State :=
  let m := v % 2 ^ 12
  let change := m ≠ s.get (FC_PORT_CFG_MAX_PKT n q) ∨ v / 2 ^ 29 % 2 ≠ s.get (FC_PORT_CFG_ROUTE n q)
  if m = 0 ∨ 2048 < m ∨ (change ∧ (s.flag (FC_PORT_CFG_RX_EN n q) ∨ s.flag (FC_PORT_CFG_TX_EN n q))) then
    s.raise (FC_ERR_CFG_REJECT n)
  else
    let stop := s.flag (FC_PORT_CFG_RX_EN n q) ∧ ¬ v.testBit 31
    let s := ((s.put (FC_PORT_CFG_RX_EN n q) (v / 2 ^ 31)).put (FC_PORT_CFG_TX_EN n q) (v / 2 ^ 30)).put
      (FC_PORT_CFG_ROUTE n q) (v / 2 ^ 29)
    let s := s.put (FC_PORT_CFG_MAX_PKT n q) m
    let s := if stop then (s.loansOf (epPort n q)).foldl (fun s w => s.failWork w 0x60 0 0) s else s
    s.reannounce (epPort n q) (s.portOps n q)

/-! ### Reception (R253-R257, R269) -/

/-- R253-R257: bytes pushed, up to `MAX_PKT` of a packet. `eop` says that the push ends the packet; the result's flags are
`RX_OVER` and `OVERLONG`. -/
def PortSt.push (maxPkt : Nat) (eop : Bool) : List Byte → PortSt → PortSt × Bool × Bool
  | [], x => (x, false, false)
  | b :: rest, x =>
    let (y, full) := x.pushByte b
    if y.rxLen = maxPkt ∧ ¬ full ∧ (rest ≠ [] ∨ ¬ eop) then ({ y.closeRx true 1 with rxSkip := true }, false, true)
    else
      let (z, o, l) := PortSt.push maxPkt eop rest y
      (z, full || o, l)

/-- R253, R256, R257, R287: a push of an engine: its bytes, whether it ends the packet, and whether it marks it in error. The
result's flag says that bytes were discarded for want of room. A FIFO that is not in use takes nothing. -/
def State.pushPort (s : State) (n q : Nat) (bytes : List Byte) (eop err : Bool) : State × Bool :=
  if ¬ s.flag (FC_PORT_CFG_RX_EN n q) then (s, false)
  else
    let x := s.portSt n q
    if x.rxSkip then (s.setPortSt n q { x with rxSkip := !eop }, false)
    else
      let (x, full, long) := PortSt.push (s.get (FC_PORT_CFG_MAX_PKT n q)) eop bytes { x with rxErr := x.rxErr || err }
      let x := if long then { x with rxSkip := !eop } else if eop then x.closeRx false 0 else x
      let s := (s.setPortSt n q { x with rx := x.rx.swap }).showPort n q
      let s := if full then s.raise (FC_PORT_FLAGS_RX_OVER n q) else s
      (if long then s.raise (FC_PORT_FLAGS_OVERLONG n q) else s, full)

/-- R269: linked packets fill the loans posted, in order. A loan that is too small is given back. -/
def State.portFill : Nat → State → Nat → Nat → State
  | 0, s, _, _ => s
  | fuel + 1, s, n, q =>
    match (s.portSt n q).ready, s.loansOf (epPort n q) with
    | (bs, detail) :: rest, w :: _ =>
      if w.length < bs.length then State.portFill fuel (s.failWork w 0x60 0 0) n q
      else
        let x := s.portSt n q
        State.portFill fuel ((s.setPortSt n q { x with ready := rest }).returnData w bs detail) n q
    | _, _ => s

/-- R269: packets and loans of a port meet. -/
def State.portDeliver (s : State) (n q : Nat) : State :=
  s.portFill ((s.portSt n q).ready.length + (s.loansOf (epPort n q)).length) n q

/-- R254, R256, R269: a packet has been read whole: counted, and sent to the port's loans, to the signal router or to the
bridge. -/
def State.linkPacket (s : State) (n q : Nat) (bytes : List Byte) (detail : Nat) : State :=
  let s := s.inc (FC_PORT_CNT_RX n q)
  let s := if detail.testBit 1 then s.inc (FC_PORT_CNT_RX_DROP n q) else s
  match s.boundBus n q with
  | some b =>
    if ¬ s.isUp dSIG then s
    else { s with sig := { s.sig with fbIn := SMap.insert s.sig.fbIn b (SMap.getD s.sig.fbIn b [] ++ [bytes]) } }
  | none =>
    if s.flag (FC_PORT_CFG_ROUTE n q) then
      s.toRouter (.packet (epPort n q) bytes)
    else
      let x := s.portSt n q
      (s.setPortSt n q { x with ready := x.ready ++ [(bytes, detail)] }).portDeliver n q

/-- The words up to the end of the first packet, and the rest. -/
def takePacket : List FWord → List FWord × List FWord
  | [] => ([], [])
  | w :: rest =>
    if w.eop then ([w], rest)
    else
      let (a, b) := takePacket rest
      (w :: a, b)

/-- R33, R254: the switch slice reads the closed words of a packet from the draining bank, unless its cluster drains. -/
def execRxPacketToSlice (n : Fin 6) (q : Fin 32) (s : State) : Host.Outcome State Fault Refusal :=
  .next (
    let x := s.portSt n q
    let (ws, rest) := takePacket x.rx.swap.draining
    if ¬ s.isUp (dFC n) ∨ s.isDraining (dFC n) ∨ ws = [] then s
    else
      let built := x.build ++ ws.flatMap (fun w => w.bytes)
      let rx := Fifo.swap { x.rx.swap with draining := rest }
      match ws.getLast? with
      | some w =>
        if w.eop then ((s.setPortSt n q { x with rx, build := [] }).showPort n q).linkPacket n q built w.detail
        else (s.setPortSt n q { x with rx, build := built }).showPort n q
      | none => s)

/-! ### Transmission (R255) -/

/-- The state of the item that a key names. -/
def State.workAt (s : State) (k : Nat × Nat × Nat) : Option Work := s.work? k.1 k.2.1 k.2.2

/-- R97, R255: the slice starts the head `SEND` of a port, or the item waits for its ring time. -/
def State.portStart (s : State) (n q : Nat) : State :=
  let x := s.portSt n q
  if ¬ s.isUp (dFC n) ∨ x.txCur ≠ none ∨ x.flushTx ∨ s.epDown (epPort n q) then s
  else match s.sendReady (epPort n q) with
    | none => s
    | some w =>
      (s.takeWork w).setPortSt n q
        { x with txCur := some ((w.src, w.sq, w.wsn), w.data) }

/-- R255: words of the frame written while the filling bank has room. -/
def PortSt.txWrite : Nat → PortSt → PortSt
  | 0, x => x
  | fuel + 1, x =>
    let f := x.tx.swap
    match x.txCur with
    | none => { x with tx := f }
    | some (k, bs) =>
      if ¬ f.room then { x with tx := f }
      else
        let w : FWord := { bytes := bs.take 32, eop := decide (bs.length ≤ 32), key := k }
        let x := { x with tx := Fifo.swap { f with filling := f.filling ++ [w] } }
        PortSt.txWrite fuel { x with txCur := if bs.length ≤ 32 then none else some (k, bs.drop 32) }

/-- R255: the slice writes a frame's words into the TX FIFO as room frees. -/
def execTxFifoWrite (n : Fin 6) (q : Fin 32) (s : State) : Host.Outcome State Fault Refusal :=
  .next (if s.isUp (dFC n) then (s.setPortSt n q ((s.portSt n q).txWrite 16)).showPort n q else s)

/-- One byte pulled: the byte, whether it is the packet's last, and its item. -/
def PortSt.pullByte (x : PortSt) : Option (Byte × Bool × (Nat × Nat × Nat) × PortSt) :=
  let f := x.tx.swap
  match f.draining with
  | [] => none
  | w :: rest =>
    match w.bytes with
    | [] => none
    | b :: [] => some (b, w.eop, w.key, { x with tx := Fifo.swap { f with draining := rest } })
    | b :: bs => some (b, false, w.key, { x with tx := { f with draining := { w with bytes := bs } :: rest } })

/-- R255: a pull of up to `n` bytes: the bytes, whether they end the packet, and whether the FIFO ran dry. -/
def PortSt.pull : Nat → PortSt → List Byte × Bool × Bool × PortSt
  | 0, x => ([], false, false, x)
  | n + 1, x =>
    match x.pullByte with
    | none => ([], false, true, x)
    | some (b, last, _, y) =>
      if last then ([b], true, false, y)
      else
        let (bs, e, d, z) := PortSt.pull n y
        (b :: bs, e, d, z)

/-- The item of the next byte in the TX FIFO. -/
def PortSt.nextKey (x : PortSt) : Option (Nat × Nat × Nat) := (x.pullByte).map (fun e => e.2.2.1)

/-! ### Flush and drop (R260-R262) -/

/-- R260: `CTRL.FLUSH_RX`. -/
def State.flushRx (s : State) (n q : Nat) : State :=
  (s.setPortSt n q { s.portSt n q with flushRx := true }).showPort n q

/-- R260: `CTRL.FLUSH_TX`. -/
def State.flushTx (s : State) (n q : Nat) : State :=
  (s.setPortSt n q { s.portSt n q with flushTx := true }).showPort n q

/-- R260: a flush of the RX FIFO is requested. -/
def execFlushRx (n : Fin 6) (q : Fin 32) (s : State) : Host.Outcome State Fault Refusal :=
  .next (if s.isUp (dFC n) then s.flushRx n q else s)

/-- R260: a flush of the TX FIFO is requested. -/
def execFlushTx (n : Fin 6) (q : Fin 32) (s : State) : Host.Outcome State Fault Refusal :=
  .next (if s.isUp (dFC n) then s.flushTx n q else s)

/-- R260: the RX packet bytes held are released, and every packet held is counted. The rest of a packet still being pushed is
discarded with it. -/
def State.releaseRx (s : State) (n q : Nat) : State :=
  let x := s.portSt n q
  let k := ((x.rx.filling ++ x.rx.draining).filter (fun w => w.eop)).length + b2n (x.rxLen != 0)
  (s.setPortSt n q { x with rx := {}, rxOpen := false, rxLen := 0, rxErr := false, rxSkip := x.rxSkip || x.rxLen != 0
                            flushRx := false }).addTo (FC_PORT_CNT_RX_DROP n q) k

/-- What the FIFO and the slice hold of the named frames is released. -/
def PortSt.without (x : PortSt) (gone : Nat × Nat × Nat → Bool) : PortSt :=
  let keep (w : FWord) : Bool := !gone w.key
  { x with
    tx := Fifo.swap { filling := x.tx.filling.filter keep, draining := x.tx.draining.filter keep }
    txCur := x.txCur.filter (fun e => !gone e.1) }

/-- The frames that the TX side holds and the engine has not begun. -/
def PortSt.unbegun (x : PortSt) : List (Nat × Nat × Nat) :=
  let begun := (x.txPkt.map (fun e => e.1)).toList
  ((x.tx.draining ++ x.tx.filling).map (fun w => w.key) ++ (x.txCur.map (fun e => e.1)).toList).eraseDups.filter
    (fun k => !begun.contains k)

/-- R260: frames in the TX FIFO that carry no accepted work are released; tagged ones stay, which sets `KEPT`. -/
def State.releaseTx (s : State) (n q : Nat) : State :=
  let x := s.portSt n q
  let keys := x.unbegun
  let gone := keys.filter (fun k => decide (256 ≤ k.1))
  let s := s.setPortSt n q { x.without (fun k => gone.contains k) with flushTx := false }
  let s := if keys.any (fun k => decide (k.1 < 256)) then s.raise (FC_PORT_FLAGS_KEPT n q) else s
  gone.foldl (fun s k => match s.workAt k with
    | some w => s.answer w 0x20 0 0
    | none => s) s

/-- R260, R262: the packet boundary of a flush passes: a packet whose bytes have started to leave has completed. -/
def execFifoFlushDone (n : Fin 6) (q : Fin 32) (s : State) : Host.Outcome State Fault Refusal :=
  .next (
    let s := if (s.portSt n q).flushRx ∧ (s.portSt n q).build = [] then s.releaseRx n q else s
    let mid : Bool := match (s.portSt n q).txPkt with
      | some (_, last) => !last
      | none => false
    let s := if (s.portSt n q).flushTx ∧ ¬ mid then s.releaseTx n q else s
    s.showPort n q)

/-- R261: `DROP_RX`: the packet being pushed is closed with `ERR` and `DROPPED`. -/
def State.dropRxPacket (s : State) (n q : Nat) : State :=
  let x := s.portSt n q
  if x.rxLen = 0 then s.raise (FC_PORT_FLAGS_DROP_LATE n q) else (s.setPortSt n q x.dropRx).showPort n q

/-- R261: the current TX packet is dropped: a tagged item completes `REMOTE_ERROR` with `FIFO_DROP`. The engine sees
end-of-packet at its next pull. -/
def State.dropTxPacket (s : State) (n q : Nat) : State :=
  let x := s.portSt n q
  match x.txPkt with
  | none => s.raise (FC_PORT_FLAGS_DROP_LATE n q)
  | some (k, last) =>
    let s := (s.setPortSt n q { x.dropTx k with txEop := !last }).showPort n q
    match s.workAt k with
    | some w => s.failWork w 0x20 0 0x01
    | none => s

/-- R261: `CTRL.DROP_RX`. -/
def execDropRx (n : Fin 6) (q : Fin 32) (s : State) : Host.Outcome State Fault Refusal :=
  .next (if s.isUp (dFC n) then s.dropRxPacket n q else s)

/-- R261: `CTRL.DROP_TX`. -/
def execDropTx (n : Fin 6) (q : Fin 32) (s : State) : Host.Outcome State Fault Refusal :=
  .next (if s.isUp (dFC n) then s.dropTxPacket n q else s)

end Sys2Proof.Machine
end

