-- ==== Sys2Proof/Machine/Bridge.lean ====
section
/-! DEFINITION. The bus bridge (R330-R337, R341, R342, R344, R345): ranges, transactions on near and far buses, posted writes, wait
cycles, locked sequences and retries. -/

namespace Sys2Proof.Machine

open Sys2Proof.Machine.Reg

/-! ### Ranges (R330) -/

/-- The BASE and the XLATE of a range. -/
def State.rngBase (s : State) (r : Nat) : Nat := s.get64 (SIG_BRG_RNG_BASE_LO r) (SIG_BRG_RNG_BASE_HI r)
def State.rngXlate (s : State) (r : Nat) : Nat := s.get64 (SIG_BRG_RNG_XLATE_LO r) (SIG_BRG_RNG_XLATE_HI r)

/-- R330: range `r` covers an address. -/
def State.rngCovers (s : State) (r a : Nat) : Bool :=
  s.flag (SIG_BRG_RNG_CFG_EN r) && s.rngBase r ≤ a && a < s.rngBase r + 2 ^ s.get (SIG_BRG_RNG_CFG_LOG2_SIZE r)

/-- The far bus of a range: 0 PCIE, 1 RING, 2 + b for FBb. -/
def State.rngBus (s : State) (r : Nat) : Nat :=
  if s.get (SIG_BRG_RNG_CFG_TARGET r) = 2 then 2 + s.get (SIG_BRG_RNG_CFG_FB r) else s.get (SIG_BRG_RNG_CFG_TARGET r)

/-- The port that an FB is bound to. -/
def State.busPort (s : State) (b : Nat) : Nat × Nat := (s.get (SIG_BRG_BUS_CFG_CLUSTER b), s.get (SIG_BRG_BUS_CFG_PORT b))

/-- R330: a far address resolved: its range, its far bus and the target address, or the `DETAIL` of the failure (R340). -/
def State.resolve (s : State) (a len : Nat) : (Nat × Nat × Nat) ⊕ Nat :=
  match lowestFrom (fun r => s.rngCovers r a) 0 64 with
  | none => .inr 0x09
  | some r =>
    let b := s.rngBus r
    let t := (s.rngXlate r + (a - s.rngBase r)) % 2 ^ 64
    if ¬ s.rngCovers r (a + len - 1) then .inr 0x0A
    else if ¬ s.flag (SIG_BRG_BUS_CFG_EN b) then .inr 0x09
    else if b = 1 then (if t % 4 ≠ 0 ∨ len % 4 ≠ 0 ∨ 1024 < len then .inr 0x0B else .inl (r, b, t))
    else if 2 ≤ b then
      (if s.get (FC_PORT_CFG_MAX_PKT (s.busPort b).1 (s.busPort b).2) < len + 16 then .inr 0x0B else .inl (r, b, t))
    else .inl (r, b, t)

/-! ### Buses (R332, R335) -/

/-- The stream of a transaction of an item: source node and SQ. -/
def BrgTx.stream (t : BrgTx) : Option (Nat × Nat) := t.key.map (fun k => (k.1, k.2.1))

/-- The transaction holds its near bus (R332). -/
def BrgTx.holds (t : BrgTx) : Bool := !t.posted && (t.stage == .waitFar || t.stage == .issued)

/-- Another transaction than `id` holds bus `b` as its near bus. -/
def State.nearHeld (s : State) (b id : Nat) : Bool := s.sig.txs.any (fun t => t.id != id && t.near == b && t.holds)

/-- Bus `b` has been granted as far bus to another transaction than `id`. -/
def State.farHeld (s : State) (b id : Nat) : Bool := s.sig.txs.any (fun t => t.id != id && t.far == b && t.stage == .issued)

/-- R335: a locked sequence of another stream holds bus `b`. -/
def State.lockedOut (s : State) (b : Nat) (stream : Option (Nat × Nat)) : Bool :=
  s.sig.locks.any (fun l => l.stage == .held && (l.near == b || l.far == b) && some (l.src, l.sq) != stream)

/-- The locked sequence of a stream (R335). -/
def State.lockOf (s : State) (stream : Option (Nat × Nat)) : Option BrgLock :=
  s.sig.locks.find? (fun l => some (l.src, l.sq) == stream)

/-- The near bus of a transaction is free for it. -/
def State.nearFree (s : State) (t : BrgTx) : Bool := !s.nearHeld t.near t.id && !s.lockedOut t.near t.stream

/-- R332, R335: the far bus of a non-posted transaction is free for it. The first item of a locked sequence also needs its near bus
for itself. -/
def State.farFree (s : State) (t : BrgTx) : Bool :=
  !s.nearHeld t.far t.id && !s.farHeld t.far t.id && !s.lockedOut t.far t.stream
  && (!t.lock || (s.lockOf t.stream).any (fun l => l.stage == .held) || !s.farHeld t.near t.id)

/-- R345: the bus status registers as transactions and locks stand. -/
def State.showBuses (s : State) : State :=
  s.each (List.range 18) (fun s b =>
    ((s.put (SIG_BRG_BUS_STATUS_LOCKED b) (b2n (s.lockedOut b none))).put (SIG_BRG_BUS_STATUS_FAR_HELD b)
      (b2n (s.sig.txs.any (fun t => t.far == b && t.stage == .issued)))).put (SIG_BRG_BUS_STATUS_NEAR_HELD b)
      (b2n (s.sig.txs.any (fun t => t.near == b && t.holds))))

/-- A transaction replaced, by its number. -/
def State.updTx (s : State) (t : BrgTx) : State :=
  { s with sig := { s.sig with txs := s.sig.txs.map (fun x => if x.id = t.id then t else x) } }

/-- A transaction ends. -/
def State.dropTx (s : State) (t : BrgTx) : State :=
  { s with sig := { s.sig with txs := s.sig.txs.filter (fun x => x.id != t.id) } }

/-- The locked sequence of a stream in another stage. -/
def State.lockStage (s : State) (stream : Option (Nat × Nat)) (st : LockStage) : State :=
  { s with sig := { s.sig with locks := s.sig.locks.map (fun l => if some (l.src, l.sq) = stream then { l with stage := st } else l) } }

/-- The locked sequence of a stream ends. -/
def State.endLock (s : State) (stream : Option (Nat × Nat)) : State :=
  { s with sig := { s.sig with locks := s.sig.locks.filter (fun l => some (l.src, l.sq) != stream) } }

/-! ### Responses (R331, R333, R334) -/

/-- R331: a packet for the device on FB bus `b`, lost while its cluster is down. -/
def State.fbSend (s : State) (b cls : Nat) (bytes : List Byte) : State :=
  let (n, q) := s.busPort b
  if s.isUp (dFC n) then s.addRaw 257 (epPort n q) cls bytes else s

/-- R331: the 16-byte header of a packet. -/
def fbHeader (op tag flags code len addr : Nat) : List Byte :=
  leBytes 1 op ++ leBytes 1 tag ++ leBytes 1 flags ++ leBytes 1 code ++ leBytes 2 len ++ [0, 0] ++ leBytes 8 addr

/-- R331: the response to a device's request. -/
def State.fbReply (s : State) (t : BrgTx) (op code : Nat) (data : List Byte) : State :=
  s.fbSend t.near t.cls (fbHeader op t.tag 0 code t.len 0 ++ data)

/-- The work of a transaction. -/
def State.txWork (s : State) (t : BrgTx) : Option Work := t.key.bind (fun k => s.work? k.1 k.2.1 k.2.2)

/-- R334: the response of a bridge item: kept, and sent to its source. -/
def State.bridgeAnswer (s : State) (w : Work) (result detail : Nat) (bytes : List Byte) : State :=
  let s : State := { s with dlv := { s.dlv with kept := SMap.insert s.dlv.kept (w.src * 256 + w.sq) (w.wsn, result, detail, bytes) } }
  if w.src = s.nodeId then
    let s := match s.openItem? w.sq w.wsn with
      | some i => if bytes = [] then s else s.hostWrite i.desc.bufAddr bytes
      | none => s
    s.answer w result (if result ≠ 0x01 then 0 else if w.opcode = 0x31 then bytes.length else w.length) detail
  else ((s.dropWork w).sendBridgeReply w result detail bytes).kick

/-- R126, R334: the ledger entry of a bridge item commits. -/
def State.bridgeCommit (s : State) (w : Work) : State :=
  let s := (s.commitLedger w).journalInput (.commit (ledgerKey w.ep w.src w.sq) w.wsn)
  s.updWork w (fun x => { x with taken := true, started := true })

/-- R330, R335-R337: a bridge item ends with a `DETAIL` and no access made. -/
def State.bridgeFail (s : State) (w : Work) (detail : Nat) : State := (s.bridgeCommit w).bridgeAnswer w 0x20 detail []

/-! ### Cycles (R336) -/

/-- R336: the chain from a waiting transaction over the holders of the buses that each waits for; the cycle, where it closes. -/
def cycleFrom (txs : List BrgTx) (first : Nat) : Nat → BrgTx → List BrgTx → Option (List BrgTx)
  | 0, _, _ => none
  | fuel + 1, t, seen =>
    match txs.find? (fun u => u.id != t.id && u.near == t.far && u.holds && u.stage == .waitFar) with
    | none => none
    | some u => if u.id = first then some seen else cycleFrom txs first fuel u (seen ++ [u])

/-- The transaction whose near bus has the highest rank. -/
def State.loserOf (s : State) : List BrgTx → Option BrgTx
  | [] => none
  | t :: rest => match s.loserOf rest with
    | some u => if s.get (SIG_BRG_BUS_CFG_RANK u.near) < s.get (SIG_BRG_BUS_CFG_RANK t.near) then some t else some u
    | none => some t

/-- R336, R337: a transaction loses: it releases its bus and its far access does not start. -/
def State.loseTx (s : State) (t : BrgTx) : State :=
  let s := s.inc SIG_BRG_CNT_CONFLICT
  match s.txWork t with
  | none => if t.key.isSome then s.dropTx t else (s.dropTx t).fbReply t 0x12 0 []
  | some w =>
    if t.lock then
      let s := if t.last then s.endLock t.stream else s.lockStage t.stream .refused
      (s.dropTx t).bridgeFail w 0x0C
    else s.updTx { t with stage := .retry, retries := t.retries + 1 }

/-- R336: the check made as transaction `t` starts to wait for its far bus. -/
def State.checkCycle (s : State) (t : BrgTx) : State :=
  match cycleFrom s.sig.txs t.id 18 t [t] with
  | none => s
  | some c => match s.loserOf c with
    | some u => s.loseTx u
    | none => s

/-- R332: transactions that wait for a near bus which is now free hold it, in order of arrival, and start to wait for their far
bus. -/
def State.nearPump : Nat → State → State
  | 0, s => s
  | fuel + 1, s =>
    match s.sig.txs.find? (fun t => t.stage == .waitNear && s.nearFree t) with
    | none => s
    | some t =>
      let t := { t with stage := .waitFar }
      State.nearPump fuel ((s.updTx t).checkCycle t)

/-- The transactions and the bus registers brought up to date. -/
def State.bridgePump (s : State) : State := (s.nearPump (2 * s.sig.txs.length)).showBuses

/-! ### Starting (R330, R335) -/

/-- R342, R343: the bridge starts new transactions. -/
def State.bridgeOpen (s : State) : Bool := s.isUp dSIG && s.flag SIG_CTRL_BRG_EN && s.mode != mSERVICE

/-- R332: a transaction enters; a posted write waits for its far bus at once. -/
def State.enterTx (s : State) (t : BrgTx) : State :=
  let t := { t with id := s.sig.nextTx, stage := if t.posted then .waitFar else .waitNear }
  State.bridgePump { s with sig := { s.sig with nextTx := s.sig.nextTx + 1, txs := s.sig.txs ++ [t] } }

/-- R330, R335: a bridge item starts. -/
def State.startBridge (s : State) (w : Work) : State :=
  let lock := w.param.testBit 63
  let last := lock && w.param.testBit 62
  let stream := some (w.src, w.sq)
  let old : Option BrgLock := if lock then s.lockOf stream else none
  let fail (s : State) (detail : Nat) : State := ((if last then s.endLock stream else s).bridgeFail w detail).bridgePump
  let stage : Option LockStage := old.map (fun l => l.stage)
  match stage with
  | some .broken => fail s 0x0E
  | some .refused => fail s 0x0C
  | _ =>
    match s.resolve (w.param % 2 ^ 48) w.length with
    | .inr d => fail s d
    | .inl (r, b, a) =>
      if old.any (fun l => l.far != b) then fail s 0x0A
      else
        let near := if w.src = s.nodeId then 0 else 1
        let s := if lock ∧ old.isNone then
            { s with sig := { s.sig with locks := s.sig.locks ++ [({ src := w.src, sq := w.sq, near, far := b } : BrgLock)] } }
          else s
        let write := decide (w.opcode = 0x30)
        (s.updWork w (fun x => { x with taken := true })).enterTx
          { near, key := some (w.src, w.sq, w.wsn), cls := w.cls, write
            posted := write && !lock && s.flag (SIG_BRG_RNG_CFG_POSTED r), lock, last, range := r, far := b, addr := a
            len := w.length, data := w.data }

/-- R332: a `BRIDGE_WRITE` item. -/
def execBridgeWrite (src sq wsn : Nat) (s : State) : Host.Outcome State Fault Refusal :=
  .next (if ¬ s.bridgeOpen then s
    else match s.readyWork src sq wsn 0x30 with
      | some w => s.startBridge w
      | none => s)

/-- R332: a `BRIDGE_READ` item. -/
def execBridgeRead (src sq wsn : Nat) (s : State) : Host.Outcome State Fault Refusal :=
  .next (if ¬ s.bridgeOpen then s
    else match s.readyWork src sq wsn 0x31 with
      | some w => s.startBridge w
      | none => s)

/-- The oldest packet received on an FB. -/
def State.fbHead (s : State) (b : Nat) : Option (List Byte) := (SMap.getD s.sig.fbIn b []).head?

/-- The oldest packet of an FB taken. -/
def State.fbPop (s : State) (b : Nat) : State :=
  { s with sig := { s.sig with fbIn := SMap.insert s.sig.fbIn b ((SMap.getD s.sig.fbIn b []).drop 1) } }

/-- R331: a packet of a device's request is well-formed. -/
def fbRequestOk (bs : List Byte) : Bool :=
  let op := leAt bs 0 1
  let len := leAt bs 4 2
  1 ≤ op && op ≤ 3 && leAt bs 2 1 < 4 && len != 0 && leAt bs 3 1 == 0 && leAt bs 6 2 == 0 && leAt bs 14 2 == 0
  && bs.length == (if op = 2 then 16 else 16 + len)

/-- R330, R331, R337: the request `bs` of the device of FB bus `b`, taken: a transaction starts, or the request is answered. A
packet that is too short for a header or whose `OP` is unknown is discarded. -/
def State.serveRequest (s : State) (b : Nat) (bs : List Byte) : State :=
  let op := leAt bs 0 1
  let len := leAt bs 4 2
  let t : BrgTx := { near := b, tag := leAt bs 1 1, write := decide (op ≠ 2), len, data := bs.drop 16 }
  if bs.length < 16 ∨ op = 0 ∨ 3 < op then s
  else if ¬ fbRequestOk bs then s.fbReply t 0x11 0x0B []
  else match s.resolve (leAt bs 8 6) len with
    | .inr d => s.fbReply t 0x11 d []
    | .inl (r, f, a) =>
      s.enterTx { t with posted := t.write && s.flag (SIG_BRG_RNG_CFG_POSTED r), range := r, far := f, addr := a }

/-- R331: a packet is a response, by its `OP`. -/
def isResponse (bs : List Byte) : Bool := 0x10 ≤ leAt bs 0 1 && leAt bs 0 1 ≤ 0x12

/-- R331: the oldest packet of FB `fb` is a request of its device. -/
def execFbDeviceRequest (fb : Fin 16) (s : State) : Host.Outcome State Fault Refusal :=
  .next (match s.fbHead (2 + fb.val) with
    | none => s
    | some bs =>
      if isResponse bs ∨ ¬ s.bridgeOpen then s
      else (s.fbPop (2 + fb.val)).serveRequest (2 + fb.val) bs)

/-! ### Access (R331-R333) -/

/-- R331-R333: the access of a transaction on its far bus. -/
def State.access (s : State) (t : BrgTx) : State :=
  if t.far = 0 then s.emit (.busAccess 0 t.write t.addr t.len t.data)
  else if t.far = 1 then
    let node := s.get (SIG_BRG_RNG_CFG_NODE t.range)
    let words := if t.write then (List.range (t.len / 4)).map (fun i => leAt t.data (4 * i) 4) else []
    s.unicast node 0 t.seq (.raReq t.addr (t.len / 4) (b2n t.write) words) 0
  else
    s.fbSend t.far t.cls (fbHeader (if t.posted then 3 else if t.write then 1 else 2) (t.id % 256)
      (b2n t.lock + 2 * b2n t.last) 0 t.len t.addr ++ t.data)

/-- The transaction with the `SEQ` of its RA_REQ, where its far bus is RING. -/
def State.numberRa (s : State) (t : BrgTx) : State × BrgTx :=
  if t.far = 1 then
    let q := (s.ring.raSeq + 1) % 65536
    ({ s with ring := { s.ring with raSeq := q } }, { t with seq := q })
  else (s, t)

/-- R333-R335: the transaction has its response: read data, or the `DETAIL` of an error. -/
def State.endTx (s : State) (t : BrgTx) (detail : Nat) (bytes : List Byte) : State :=
  let s := s.dropTx t
  let s := match s.txWork t with
    | some w => s.bridgeAnswer w (if detail = 0 then 0x01 else 0x20) detail bytes
    | none => if t.key.isSome then s else s.fbReply t (if detail = 0 then 0x10 else 0x11) detail bytes
  let s := if t.lock ∧ t.last then s.endLock t.stream else s
  s.bridgePump

/-- R126: no earlier item of the transaction's stream at endpoint 0 is uncommitted. -/
def State.inTurn (s : State) (t : BrgTx) : Bool :=
  match s.txWork t with
  | some w => ((s.dlv.work.filter (fun x => x.ep == w.ep && x.src == w.src && x.sq == w.sq)).takeWhile (fun x => x.wsn != w.wsn)).all
      (fun x => x.started && (x.opcode == 0x30 || x.opcode == 0x31))
  | none => true

/-- R332-R334: a posted write leaves the bridge. -/
def State.issuePosted (s : State) (t : BrgTx) : State :=
  let (s, t) := s.numberRa t
  let work := s.txWork t
  let item := t.key.bind (fun k => s.openItem? k.2.1 k.2.2)
  let s := match work with
    | some w => s.bridgeCommit w
    | none => s
  let s := (s.access t).dropTx t
  let p : BrgPosted := { tx := t, gen := (work.map (fun w => w.gen)).getD 0
                         num := (item.map (fun i => i.num)).getD 0, itemTag := (item.map (fun i => i.desc.tag)).getD 0 }
  let clash (x : BrgPosted) : Bool := x.tx.far == t.far && x.tx.id % 256 == t.id % 256
  let s := if t.far = 0 then s
    else { s with sig := { s.sig with posted := s.sig.posted.filter (fun x => !clash x) ++ [p] } }
  let s := match work with
    | some w => s.bridgeAnswer w 0x01 0 []
    | none => s.fbReply t 0x10 0 []
  s.bridgePump

/-- R332, R334, R335: a non-posted transaction makes its access. A write on PCIE is complete with it. -/
def State.issueTx (s : State) (t : BrgTx) : State :=
  let (s, t) := s.numberRa t
  let t := { t with stage := .issued }
  let s := if t.lock then s.lockStage t.stream .held else s
  let s := match s.txWork t with
    | some w => s.bridgeCommit w
    | none => s
  let s := ((s.updTx t).access t).showBuses
  if t.far = 0 ∧ t.write then s.endTx t 0 [] else s

/-- R104: a posted write is held while its SQ is in ERROR after a `POSTED_FAULT`. -/
def State.postWaits (s : State) (t : BrgTx) : Bool :=
  match t.key with
  | some (src, sq, _) => src == s.nodeId && s.sqState sq == 3 && s.hq.postHeld.contains sq
  | none => false

/-- R332, R335, R341: far bus `bus` is granted: to the oldest posted write for it, or to the oldest non-posted transaction that it
is free for. -/
def execBridgeBusGrant (bus : Fin 18) (s : State) : Host.Outcome State Fault Refusal :=
  .next (
    if ¬ s.isUp dSIG then s
    else
      let b := bus.val
      match s.sig.txs.find? (fun t => t.posted && t.far == b && s.inTurn t && !s.lockedOut b none && !s.postWaits t) with
      | some t => s.issuePosted t
      | none =>
        match s.sig.txs.find? (fun t => !t.posted && t.stage == .waitFar && t.far == b && s.farFree t && s.inTurn t) with
        | some t => s.issueTx t
        | none => s)

/-! ### Far responses (R333) -/

/-- R333: a posted write has failed. -/
def State.failPosted (s : State) (p : BrgPosted) (detail : Nat) : State :=
  let t := p.tx
  match t.key with
  | none => s.fbReply t 0x11 detail []
  | some (src, sq, wsn) =>
    let s := (s.inc SIG_BRG_CNT_PFAULT).recordWith 513
      [t.range + sq * 2 ^ 8 + wsn / 2 ^ 32 * 2 ^ 16, wsn % 2 ^ 32, t.addr % 2 ^ 32, t.addr / 2 ^ 32]
    if src = s.nodeId then s.postedRecord sq p.num p.itemTag wsn detail
    else s.sendAck { src, sq, gen := p.gen, wsn, ep := 0 } wsn 0x20 detail

/-- A posted write is watched no longer. -/
def State.dropPosted (s : State) (p : BrgPosted) : State :=
  { s with sig := { s.sig with posted := s.sig.posted.filter (fun x => x.tx.id != p.tx.id) } }

/-- The non-posted transaction granted far bus `b`. -/
def State.farTx (s : State) (b : Nat) : Option BrgTx := s.sig.txs.find? (fun t => t.far == b && t.stage == .issued)

/-- R333: a PCIe completion for the open read on PCIE: an error (Unsupported Request or Completer Abort), or its data. -/
def execBridgePcieCompletion (error : Bool) (bytes : List Byte) (s : State) : Host.Outcome State Fault Refusal :=
  .next (match s.farTx 0 with
    | some t => if error then s.endTx t 0x0F [] else s.endTx t 0 (padTo t.len bytes)
    | none => s)

/-- R331, R333: the response `bs` on FB bus `b`, taken: it ends the transaction of its tag, or fails a posted write. -/
def State.takeResponse (s : State) (b : Nat) (bs : List Byte) : State :=
  let op := leAt bs 0 1
  let tag := leAt bs 1 1
  match s.farTx b with
  | some t =>
    if t.id % 256 ≠ tag then s
    else if op = 0x10 ∧ (t.write ∨ bs.length = 16 + t.len) then s.endTx t 0 (if t.write then [] else bs.drop 16)
    else s.endTx t 0x11 []
  | none =>
    match s.sig.posted.find? (fun p => p.tx.far == b && p.tx.id % 256 == tag) with
    | some p => if op = 0x11 then (s.dropPosted p).failPosted p 0x11 else s
    | none => s

/-- R331, R333: the oldest packet of FB `fb` is a response of its device. -/
def execFbResponse (fb : Fin 16) (s : State) : Host.Outcome State Fault Refusal :=
  .next (match s.fbHead (2 + fb.val) with
    | none => s
    | some bs => if isResponse bs then (s.fbPop (2 + fb.val)).takeResponse (2 + fb.val) bs else s)

/-- R333: a response to an RA_REQ of the bridge. -/
def State.bridgeRaRsp (s : State) (seq status : Nat) (words : List Word) : State :=
  match s.farTx 1 with
  | some t =>
    if t.seq ≠ seq then s
    else if status ≠ 0 then s.endTx t 0x11 []
    else s.endTx t 0 (if t.write then [] else padTo t.len (wordBytes (words.map (fun w => w.toNat))))
  | none => s

/-- R333: the response to a posted write on RING. -/
def State.bridgePostedRsp (s : State) (seq status : Nat) : State :=
  match s.sig.posted.find? (fun p => p.tx.far == 1 && p.tx.seq == seq) with
  | some p => if status = 0 then s.dropPosted p else (s.dropPosted p).failPosted p 0x11
  | none => s

/-- R333: no response of transaction `id` on far bus `bus` within its timeout. -/
def execBridgeFarTimeout (bus : Fin 18) (id : Nat) (s : State) : Host.Outcome State Fault Refusal :=
  .next (match s.farTx bus.val with
    | some t =>
      if t.id = id then s.endTx t 0x10 []
      else s
    | none =>
      match s.sig.posted.find? (fun p => p.tx.far == 1 && bus.val == 1 && p.tx.id == id) with
      | some p => (s.dropPosted p).failPosted p 0x10
      | none => s)

/-- R335: a held lock is broken: the buses are free, and items of its sequence that have made no access end
`BRG_LOCK_TIMEOUT`. -/
def State.breakLock (s : State) (l : BrgLock) : State :=
  let stream := some (l.src, l.sq)
  let s := s.lockStage stream .broken
  let mine := s.sig.txs.filter (fun t => t.lock && t.stream == stream && t.stage != .issued)
  let s := mine.foldl (fun s t =>
    let s := if t.last then s.endLock stream else s
    match s.txWork t with
    | some w => (s.dropTx t).bridgeFail w 0x0E
    | none => s.dropTx t) s
  s.bridgePump

/-- R335: `LOCK_MAX_US` after a lock on near bus `near` was taken. -/
def execBridgeLockTimeout (near : Fin 18) (s : State) : Host.Outcome State Fault Refusal :=
  .next (match s.sig.locks.find? (fun l => l.stage == .held && l.near == near.val) with
    | none => s
    | some l => s.breakLock l)

/-- R337: a retried transaction starts again, or ends after `RETRY_MAX` retries. -/
def State.endRetry (s : State) (t : BrgTx) : State :=
  let s := s.dropTx t
  if s.get SIG_BRG_RETRY_RETRY_MAX < t.retries then
    (match s.txWork t with
     | some w => (s.bridgeFail w 0x0D).bridgePump
     | none => s)
  else
    State.bridgePump { s.inc SIG_BRG_CNT_RETRY with sig := { s.sig with txs := s.sig.txs ++ [{ t with stage := .waitNear }] } }

/-- R337: the wait of a retried item ends. -/
def execBridgeRetryTimer (id : Nat) (s : State) : Host.Outcome State Fault Refusal :=
  .next (match s.sig.txs.find? (fun t => t.id == id && t.stage == .retry) with
    | none => s
    | some t => s.endRetry t)

/-! ### Configuration (R344, R345) -/

/-- R344: `SIG_BRG_RETRY` written. -/
def State.writeBrgRetry (s : State) (v : Nat) : State :=
  if v / 2 ^ 16 % 2 ^ 16 = 0 ∨ v % 2 ^ 8 = 0 then s.raise SIG_ERR_CFG_REJECT
  else (s.put SIG_BRG_RETRY_RETRY_US (v / 2 ^ 16)).put SIG_BRG_RETRY_RETRY_MAX v

/-- R344: `SIG_BRG_LOCK` written. -/
def State.writeBrgLock (s : State) (v : Nat) : State :=
  if v % 2 ^ 16 = 0 then s.raise SIG_ERR_CFG_REJECT else s.put SIG_BRG_LOCK v

/-- R330, R344: `SIG_BRG_RNGr_CFG` written. -/
def State.writeRngCfg (s : State) (r v : Nat) : State :=
  let target := bitsOf v 28 2
  let size := bitsOf v 22 6
  let node := bitsOf v 8 8
  let fb := v % 16
  let moved := target ≠ s.get (SIG_BRG_RNG_CFG_TARGET r) ∨ size ≠ s.get (SIG_BRG_RNG_CFG_LOG2_SIZE r)
    ∨ node ≠ s.get (SIG_BRG_RNG_CFG_NODE r) ∨ fb ≠ s.get (SIG_BRG_RNG_CFG_FB r)
  if target = 3 ∨ size < 12 ∨ 47 < size ∨ (target = 1 ∧ (node = 0 ∨ node = 255))
      ∨ (s.flag (SIG_BRG_RNG_CFG_EN r) ∧ moved) ∨ (v.testBit 31 ∧ s.rngBase r % 2 ^ size ≠ 0) then s.raise SIG_ERR_CFG_REJECT
  else
    let s := ((s.put (SIG_BRG_RNG_CFG_EN r) (v / 2 ^ 31)).put (SIG_BRG_RNG_CFG_POSTED r) (v / 2 ^ 30)).put
      (SIG_BRG_RNG_CFG_TARGET r) target
    ((s.put (SIG_BRG_RNG_CFG_LOG2_SIZE r) size).put (SIG_BRG_RNG_CFG_NODE r) node).put (SIG_BRG_RNG_CFG_FB r) fb

/-- R344: the `BASE` of a range written. -/
def State.writeRngBase (s : State) (r v : Nat) : State :=
  let v := v % 2 ^ 48
  if s.flag (SIG_BRG_RNG_CFG_EN r) ∧ v ≠ s.rngBase r then s.raise SIG_ERR_CFG_REJECT
  else s.put64 (SIG_BRG_RNG_BASE_LO r) (SIG_BRG_RNG_BASE_HI r) v

/-- R344: the `XLATE` of a range written. -/
def State.writeRngXlate (s : State) (r v : Nat) : State :=
  if s.flag (SIG_BRG_RNG_CFG_EN r) ∧ v ≠ s.rngXlate r then s.raise SIG_ERR_CFG_REJECT
  else s.put64 (SIG_BRG_RNG_XLATE_LO r) (SIG_BRG_RNG_XLATE_HI r) v

/-- R330: the endpoint of port `q` of cluster `n` announced as its binding now stands. -/
def State.showBinding (s : State) (p : Nat × Nat) : State :=
  if p.1 < 6 then s.reannounce (epPort p.1 p.2) (s.portOps p.1 p.2) else s

/-- R336, R345: `SIG_BRG_BUSb_CFG` written. -/
def State.writeBusCfg (s : State) (b v : Nat) : State :=
  let rank := bitsOf v 24 5
  let cl := bitsOf v 8 3
  let q := v % 32
  let en := v.testBit 31
  let old := s.busPort b
  let sameRank := (List.range 18).any (fun c => c != b && s.get (SIG_BRG_BUS_CFG_RANK c) == rank)
  let bound := en && 2 ≤ b && (s.boundBus cl q).any (fun c => c != b)
  if sameRank ∨ bound ∨ 5 < cl ∨ (s.flag (SIG_BRG_BUS_CFG_EN b) ∧ 2 ≤ b ∧ (cl, q) ≠ old) then s.raise SIG_ERR_CFG_REJECT
  else
    let s := (s.put (SIG_BRG_BUS_CFG_EN b) (b2n en)).put (SIG_BRG_BUS_CFG_RANK b) rank
    let s := (s.put (SIG_BRG_BUS_CFG_CLUSTER b) cl).put (SIG_BRG_BUS_CFG_PORT b) q
    if b < 2 then s else (s.showBinding old).showBinding (cl, q)

/-- R345: `SIG_BRG_BUSb_TIMEOUT` written. -/
def State.writeBusTimeout (s : State) (b v : Nat) : State :=
  if v % 2 ^ 16 = 0 then s.raise SIG_ERR_CFG_REJECT else s.put (SIG_BRG_BUS_TIMEOUT b) v

end Sys2Proof.Machine
end

