-- ==== Sys2Proof/Machine/Links.lean ====
section
/-! DEFINITION. Down ports other than ring ports (R135): link loss and return, the stability period, and the expiry of
`HOLD_TIME`, by local endpoint. -/

namespace Sys2Proof.Machine

open Sys2Proof.Machine.Reg

/-- The down-port state of an endpoint replaced, or ended (R135). -/
def State.setFlap (s : State) (ep : Nat) (f : Option Flap) : State :=
  { s with dlv := { s.dlv with flaps := match f with
    | some x => SMap.insert s.dlv.flaps ep x
    | none => SMap.erase s.dlv.flaps ep } }

/-- R135: whether the link of endpoint `ep` is up: PCS link of an Ethernet port, a CAN controller not bus-off, and its Dike channel
giving PG (R451). -/
def State.linked (s : State) (ep : Nat) : Bool :=
  !s.dikeDown ep && !s.servedDown 0x10 ep && match unitOf ep with
    | .eth n => s.flag (NET_PORT_STATUS_LINK n)
    | .can n c => s.get (FC_CAN_STATUS_STATE n c) != 4 && s.get (FC_CAN_STATUS_STATE n c) != 5
    | _ => true

/-- R244: the state of an Ethernet port that is UP, PAUSED, HOLD or REDIRECT follows its endpoint's. -/
def State.showLink (s : State) (ep st : Nat) : State :=
  match unitOf ep with
  | .eth n =>
    let old := s.get (NET_PORT_STATUS_STATE n)
    if 2 ≤ old ∧ old ≤ 5 ∧ old ≠ st then (s.put (NET_PORT_STATUS_STATE n) st).pendPrivate 8 n else s
  | _ => s

/-- R135 events 1 and 4: the link of endpoint `ep` is lost. -/
def State.epLinkLost (s : State) (ep : Nat) : State :=
  match SMap.find s.dlv.flaps ep with
  | none => (s.setFlap ep (some .hold)).showLink ep 3
  | some .holdStable => s.setFlap ep (some .hold)
  | some .redirectStable => s.setFlap ep (some .redirect)
  | some _ => s

/-- R135 events 2 and 6: the link of a down endpoint returns and its stability period starts. -/
def State.epLinkReturn (s : State) (ep : Nat) : State :=
  if ¬ s.linked ep then s
  else match SMap.find s.dlv.flaps ep with
    | some .hold => s.setFlap ep (some .holdStable)
    | some .redirect => s.setFlap ep (some .redirectStable)
    | _ => s

/-- R135 events 3 and 6: the link has stayed up for 2 ms: the port is UP. -/
def State.epLinkStable (s : State) (ep : Nat) : State :=
  match SMap.find s.dlv.flaps ep with
  | some .holdStable => (s.setFlap ep none).showLink ep 2
  | some .redirectStable => (s.setFlap ep none).showLink ep 2
  | _ => s

/-- R135 event 5: `HOLD_TIME` passes with the link not up: each held item returns as `REDIRECT` with `PORT_DOWN`. An item whose
emission has started waits for its end. -/
def State.epHoldExpiry (s : State) (ep : Nat) : State :=
  match SMap.find s.dlv.flaps ep with
  | some .hold =>
    let s := (s.setFlap ep (some .redirect)).showLink ep 4
    (s.dlv.work.filter (fun w => flapKey w.ep == ep && s.returnsItem w)).foldl (fun s w => s.redirectWork w) s
  | _ => s

end Sys2Proof.Machine
end

