-- ==== Sys2Proof/Machine/Polder.lean ====
section
/-! DEFINITION. The Polder (R178-R196): cells and their pools, linking a frame, the Spillway, releases and flushes. The command that links a frame stands with the scheduler, which its VOQs feed. -/

namespace Sys2Proof.Machine

open Sys2Proof.Machine.Reg

/-! ### PAUSE (R189, R243) -/

/-- Ethernet port `n` beyond its registers. -/
def State.eth (s : State) (n : Nat) : EthSt := SMap.getD s.net n {}

/-- Ethernet port `n` replaced. -/
def State.setEth (s : State) (n : Nat) (x : EthSt) : State := { s with net := SMap.insert s.net n x }

/-- R28, R189, R243: a cause for PAUSE at port `n`: NET or PLD is threatened, or the port's shared use has reached
`SHR_MAX` - 8. -/
def State.pauseCause (s : State) (n : Nat) : Bool :=
  s.isThreat dNET || s.isThreat dPLD || s.get (PLD_IN_SHR_SHR_MAX (13 + n)) ≤ s.shrUsed (13 + n) + 8

/-- R243: PAUSE with `quanta` sent at port `n` while its link is up. -/
def State.sendPause (s : State) (n quanta : Nat) : State :=
  if s.flag (NET_PORT_STATUS_LINK n) then (s.inc (NET_PORT_CNT_PAUSE_TX n)).emit (.pause n quanta) else s

/-- R243: PAUSE is sent when a cause arises, and with quanta 0 when the last one clears. -/
def State.pauseUpdate (s : State) (n : Nat) : State :=
  if ¬ s.isUp dNET ∨ ¬ s.flag (NET_PORT_CFG_EN n) ∨ ¬ s.flag (NET_PORT_CFG_PAUSE_TX_EN n) then s
  else if s.pauseCause n ∧ ¬ (s.eth n).pauseSent then
    (s.setEth n { s.eth n with pauseSent := true }).sendPause n (s.get (NET_PORT_PAUSE n))
  else if ¬ s.pauseCause n ∧ (s.eth n).pauseSent then (s.setEth n { s.eth n with pauseSent := false }).sendPause n 0
  else s

/-- R28, R243: every port's causes looked at. -/
def State.pauseAll (s : State) : State := s.each (List.range 16) State.pauseUpdate

/-- R184: a frame of an input goes to the Spillway, counted. -/
def State.spill (s : State) (n : Nat) (cnt : Field) : State := (s.inc cnt).inc (PLD_IN_CNT_DROP n)

/-! ### Linking a frame (R181-R189) -/

/-- The domain of the unit behind switch port `n` (R181). -/
def portDomain (n : Nat) : Nat :=
  if n ≤ 2 then dRGE + n else if n = 3 then dHIF else if n = 4 ∨ n = 29 then dSV else if n = 5 then dSIG
  else if n ≤ 11 then dFC (n - 6) else if n = 12 then dVIS else if n ≤ 28 then dNET else if n = 30 then dMEM else dPLD

/-- R28, R33, R181: the switch slice of input `n` takes no frame: PLD is threatened, the input's domain drains, or it is the loopback
outside SERVICE. The ring and twin ports go on during a drain. -/
def State.sliceShut (s : State) (n : Nat) (outs : List Nat) : Bool :=
  s.isThreat dPLD || (3 ≤ n && s.isDraining (portDomain n)) || ((n == 31 || outs.contains 31) && s.mode != mSERVICE)

/-- R187: held input `n` may not link a frame that takes `shared` shared cells: it is held, the frame would take it beyond `SHR_MAX` or
the free cells below `SHR_FLOOR` or the cells reserved by grants (R188), or an output has reached `OUT_MAX`. -/
def State.inputBarred (s : State) (n shared : Nat) (outs : List Nat) : Bool :=
  3 ≤ n && (s.flag (PLD_IN_STATE_HELD n) || s.inputHeld n
    || decide (s.get (PLD_IN_SHR_SHR_MAX n) < s.shrUsed n + shared)
    || decide (s.shrFree < shared + max (s.get PLD_SHR_CFG) s.grantShared)
    || outs.any s.outFull)

/-- R187: input `n` is held; it waits for those of its frame's outputs that are full. -/
def State.holdInput (s : State) (n : Nat) (outs : List Nat) : State :=
  State.put { s with pld := { s.pld with blocked := SMap.insert s.pld.blocked n (outs.filter s.outFull) } } (PLD_IN_STATE_HELD n) 1

/-- R178, R182: cells allocated for a frame as it arrives, and filled. -/
def State.fillCells (s : State) (bytes : List Byte) : State × List Nat :=
  let cells := takeCells (cellsOf bytes.length) s.usedCells s.pld.lastOdd
  let mem := (cells.zipIdx).foldl (fun m (c, i) => Memory.writeList m (256 * c) ((bytes.drop (256 * i)).take 256)) s.pld.mem
  ({ s with pld := { s.pld with mem := mem, lastOdd := (cells.getLast?.map (fun c => c % 2 == 1)).getD s.pld.lastOdd } }, cells)

/-- R182: the check of a frame: its FCS for K-frames and Ethernet, and the unit's own check `ok` elsewhere. -/
def checkFrame (n : Nat) (ok : Bool) (bytes : List Byte) : Bool :=
  let body := bytes.take (bytes.length - 4)
  if n ≤ 2 then crc32c body == leAt bytes (bytes.length - 4) 4
  else if 13 ≤ n ∧ n ≤ 29 then crc32 body == leAt bytes (bytes.length - 4) 4
  else ok

/-- R182, R185-R188: a frame in its cells is linked into its VOQs. A credited frame uses up its grant. -/
def State.linkCells (s : State) (cells : List Nat) (n : Nat) (outs : List Nat) (k : Nat) (tagged : Bool) (bytes : List Byte) (res : Nat)
    (vis : Option VisOutput) : State :=
  let f : PFrame := { num := s.pld.nextNum, inp := n, cls := k, tagged, bytes, cells, resCells := res, outs, vis }
  let s : State := { s with pld := { s.pld with frames := s.pld.frames ++ [f], nextNum := s.pld.nextNum + 1 } }
  let s : State := if n ≤ 2 then
      { s with ring := { s.ring with granted := SMap.insert s.ring.granted (8 * n + k) (SMap.getD s.ring.granted (8 * n + k) 0 - cells.length) } }
    else s
  let s := (s.inc (PLD_IN_CNT_FRAMES n)).showPools
  if 13 ≤ n ∧ n ≤ 28 then s.pauseUpdate (n - 13) else s

/-- R182: a frame that passed its check is written into cells and linked. -/
def State.linkFrame (s : State) (n : Nat) (outs : List Nat) (k : Nat) (tagged : Bool) (bytes : List Byte) (res : Nat)
    (vis : Option VisOutput) : State :=
  (s.fillCells bytes).1.linkCells (s.fillCells bytes).2 n outs k tagged bytes res vis

/-- Cells that a frame of `len` bytes of class `k` draws from the reserved pool of input `n`. -/
def State.reservedFor (s : State) (n k len : Nat) : Nat := min (cellsOf len) (s.get (resField n k) - s.resUsed n k)

/-- R187: a frame of `len` bytes from a unit at input `n` for outputs `outs` may be linked now. -/
def State.mayLink (s : State) (n k len : Nat) (outs : List Nat) : Bool :=
  let shared := cellsOf len - s.reservedFor n k len
  s.isUp dPLD && !s.sliceShut n outs && !s.inputBarred n shared outs && decide (shared ≤ s.shrFree)

/-- R182-R184, R187-R189: an input slice receives a frame. A held input's unit waits where the frame may not start, and an Ethernet
frame that finds no cell goes to the Spillway. Then the frame is written into its cells: one that grows beyond 9,216 bytes or fails its
check goes to the Spillway, its cells released as they are (R180), and any other is linked. -/
def State.frameIn (s : State) (n : Nat) (outs : List Nat) (k : Nat) (tagged ok : Bool) (bytes : List Byte) : State :=
  let len := min bytes.length 9216
  let res := s.reservedFor n k len
  if s.sliceShut n outs then (if 13 ≤ n ∧ n ≤ 28 ∧ s.isThreat dPLD then s.inc (NET_PORT_CNT_DROP (n - 13)) else s)
  else if s.inputBarred n (cellsOf len - res) outs ∨ s.shrFree < cellsOf len - res then
    (if 13 ≤ n ∧ n ≤ 28 then (s.spill n PLD_CNT_NOROOM).inc (NET_PORT_CNT_DROP (n - 13)) else s.holdInput n outs)
  else if 9216 < bytes.length then (s.fillCells (bytes.take 9216)).1.spill n PLD_CNT_OVERSIZE
  else if ¬ checkFrame n ok bytes then (s.fillCells bytes).1.spill n PLD_CNT_CRC
  else s.linkFrame n outs k tagged bytes res none

/-! ### Release (R185, R188) -/

/-- R188: the cells of a frame of a credited input return as credits. -/
def State.returnCredits (s : State) (f : PFrame) : State :=
  if f.inp ≤ 2 then
    let k := 8 * f.inp + f.cls
    { s with ring := { s.ring with returns := SMap.insert s.ring.returns k (SMap.getD s.ring.returns k 0 + f.cells.length) } }
  else s

/-- R201: a promotion goes with the head frame of its VOQ at output `o`. -/
def State.unpromote (s : State) (o : Nat) (f : PFrame) : State :=
  let x := SMap.getD s.sch.outs o {}
  let head := s.pld.frames.find? (fun g => g.inp == f.inp && g.cls == f.cls && g.outs.contains o)
  if x.promoted.contains (8 * f.inp + f.cls) ∧ head.any (fun g => g.num == f.num) then
    { s with sch := { s.sch with outs := SMap.insert s.sch.outs o { x with promoted := x.promoted.filter (fun q => q != 8 * f.inp + f.cls) } } }
  else s

/-- R30: two records name one output; `kind` 6 is the output of sink `cam`. -/
def VisOutput.same (x o : VisOutput) : Bool := x.cam == o.cam && x.kind == o.kind && x.roi == o.roi && x.frame == o.frame

/-- R184: a frame of a vision output leaves the Polder unemitted. The loan or the append that it was for gets no more of that output, whose
space is released; a loan then waits for the next one (DESIGN CHOICE: the spec is silent; notes/assumptions/32.md). -/
def State.loseVis (s : State) (o : VisOutput) : State :=
  if o.dest = 1 then s
  else if o.kind = 6 then
    let x := SMap.getD s.vis.sinks o.cam {}
    State.inc { s with vis := { s.vis with sinks := SMap.insert s.vis.sinks o.cam { x with done := x.done.drop 1 } } } (VIS_SINK_CNT_DROP o.cam)
  else { s with vis := { s.vis with staged := s.vis.staged.map (fun x => if x.same o then { x with sent := true } else x) } }

/-- R184: what a frame carried is lost with it. -/
def State.loseFrame (s : State) (f : PFrame) : State :=
  match f.vis with
  | some o => s.loseVis o
  | none => s

/-- R185: the copy of frame `num` for output `o` is gone; with the last copy its cells are released. -/
def State.dropCopy (s : State) (num o : Nat) (emitted : Bool) : State :=
  match s.pld.frames.find? (fun f => f.num == num) with
  | none => s
  | some f =>
    let f' := { f with outs := f.outs.filter (fun x => x != o), started := f.started.filter (fun x => x != o)
                       emitted := f.emitted || emitted }
    let s := if emitted then s else s.unpromote o f
    if f'.outs = [] then
      let s : State := { s with pld := { s.pld with frames := s.pld.frames.filter (fun x => x.num != num) } }
      let s := s.returnCredits f
      let s := if f'.emitted then s else ((s.loseFrame f).spill f.inp PLD_CNT_FLUSHED).incSat PLD_FLUSH_STATUS_FRAMES
      if 13 ≤ f.inp ∧ f.inp ≤ 28 then s.showPools.pauseUpdate (f.inp - 13) else s.showPools
    else State.showPools { s with pld := { s.pld with frames := s.pld.frames.map (fun x => if x.num = num then f' else x) } }

/-! ### Flush (R191) -/

/-- R191: some frame of the VOQ of (input, output, class) is in egress. -/
def State.voqBusy (s : State) (n o k : Nat) : Bool :=
  s.pld.frames.any (fun f => f.inp == n && f.cls == k && f.started.contains o)

/-- R191: the copies whose VOQ has passed its packet boundary are removed. -/
def State.flushReady (s : State) : State :=
  let (wait, go) := s.pld.flush.partition (fun (num, o) =>
    s.pld.frames.any (fun f => f.num == num && s.voqBusy f.inp o f.cls))
  let s := { s with pld := { s.pld with flush := wait } }
  go.foldl (fun s (num, o) => s.dropCopy num o false) s

/-- R191: the copies that a flush selects: frames of the masked classes, inputs and outputs whose egress has not begun. -/
def State.flushSel (s : State) (v : Nat) : List (PFrame × Nat) :=
  s.pld.frames.flatMap (fun (f : PFrame) =>
    (f.outs.filter (fun o => (v / 2 ^ 10 % 256).testBit f.cls && (v.testBit 18 || f.inp == v % 32)
      && (v.testBit 19 || o == v / 32 % 32) && !f.started.contains o)).map (fun o => (f, o)))

/-- R191: `PLD_FLUSH` written: every untagged frame queued in the selected VOQs and not in egress goes to the Spillway at the
VOQ's next packet boundary. -/
def execPldFlush (val : Word) (s : State) : Host.Outcome State Fault Refusal :=
  .next (
    let v := val.toNat
    if ¬ s.isUp dPLD then s
    else if s.flag PLD_FLUSH_STATUS_BUSY ∨ v / 2 ^ 10 % 256 = 0 then s.raise PLD_ERR_FLUSH_REJECT
    else
      let sel := s.flushSel v
      let kept : Nat := b2n (sel.any (fun (e : PFrame × Nat) => e.1.tagged))
      let s : State := ((s.put PLD_FLUSH_STATUS_FRAMES 0).put PLD_FLUSH_STATUS_KEPT kept).put PLD_FLUSH_STATUS_BUSY 1
      let go : List (Nat × Nat) := (sel.filter (fun (e : PFrame × Nat) => !e.1.tagged)).map (fun e => (e.1.num, e.2))
      State.flushReady { s with pld := { s.pld with flush := go, flushV := v, flushAt := s.pld.nextNum } })

/-- R191: a VOQ that the flush selects has not passed its boundary: a frame linked before the flush is in egress. -/
def State.flushRuns (s : State) : Bool :=
  let v := s.pld.flushV
  s.pld.frames.any (fun f => decide (f.num < s.pld.flushAt) && (v / 2 ^ 10 % 256).testBit f.cls && (v.testBit 18 || f.inp == v % 32)
    && f.started.any (fun o => v.testBit 19 || o == v / 32 % 32))

/-- R191: every selected VOQ has passed its boundary. -/
def execPldFlushDone (s : State) : Host.Outcome State Fault Refusal :=
  .next (if s.isUp dPLD ∧ s.pld.flush = [] ∧ ¬ s.flushRuns then s.put PLD_FLUSH_STATUS_BUSY 0 else s)

/-- R179, R184: an uncorrectable data error of a stored frame: counted, and the frame goes to the Spillway unless its egress has
begun, when it ends in the rejected form of R24. -/
def State.frameEccU (s : State) (num : Nat) : State :=
  let s := (s.inc PLD_CNT_ECC_U).raise PLD_ERR_ECC_U
  match s.pld.frames.find? (fun f => f.num == num) with
  | none => s
  | some f =>
    let s := (s.inc (PLD_IN_CNT_DROP f.inp)).loseFrame f
    let s := f.started.foldl (fun s o => s.emit (.tornFrame o)) s
    let s := f.outs.foldl (fun s o => s.unpromote o f) s
    let s := { s with pld := { s.pld with frames := s.pld.frames.filter (fun x => x.num != num) } }
    let stop (e : Nat × OutSt) : Nat × OutSt := (e.1, if e.2.busy = some num then { e.2 with busy := none } else e.2)
    let s : State := { s with sch := { s.sch with outs := List.map stop s.sch.outs } }
    ((s.returnCredits f).showPools).flushReady

end Sys2Proof.Machine
end

