-- ==== Sys2Proof/Machine/Scheduler.lean ====
section
/-! DEFINITION. Scheduling, Weir shapers and Sluice gates (R197-R215). -/

namespace Sys2Proof.Machine

open Sys2Proof.Machine.Reg

/-- The scheduler of an output. -/
def State.outSt (s : State) (o : Nat) : OutSt := SMap.getD s.sch.outs o {}

/-- The scheduler of an output replaced. -/
def State.setOut (s : State) (o : Nat) (x : OutSt) : State := { s with sch := { s.sch with outs := SMap.insert s.sch.outs o x } }

/-- The Weir of an output and class. -/
def State.weir (s : State) (o k : Nat) : WeirSt := SMap.getD s.sch.weirs (8 * o + k) {}

/-- The Weir of an output and class replaced, and its tokens shown in whole bytes (R214). -/
def State.setWeir (s : State) (o k : Nat) (x : WeirSt) : State :=
  State.put { s with sch := { s.sch with weirs := SMap.insert s.sch.weirs (8 * o + k) x } } (SCH_OUT_CLS_WEIR_TOKENS o k)
    (x.tokens / 8000000)

/-- A gate list. -/
def State.gcl (s : State) (g : Nat) : GclSt := SMap.getD s.sch.gcls g {}

/-- A gate list replaced. -/
def State.setGcl (s : State) (g : Nat) (x : GclSt) : State := { s with sch := { s.sch with gcls := SMap.insert s.sch.gcls g x } }

/-- The output of a gate list. -/
def gclOut (g : Nat) : Nat := if g ≤ 2 then g else g + 10

/-- The gate list of an output, if it has one. -/
def outGcl (o : Nat) : Option Nat := if o ≤ 2 then some o else if 13 ≤ o ∧ o ≤ 28 then some (o - 10) else none

/-! ### Time-driven quantities, brought up to date -/

/-- R204: a Weir's tokens at the present count. One unit is 1/8,000,000 byte, so that `RATE` units accrue each ns at `RATE` kbit/s,
up to `BURST`. -/
def State.accrue (s : State) (o k : Nat) : State :=
  let x := s.weir o k
  let now := s.count
  if s.flag (SCH_OUT_CLS_WEIR_RATE_EN o k) then
    s.setWeir o k { x with
      tokens := min (x.burst * 8000000) (x.tokens + (now - x.at') * s.get (SCH_OUT_CLS_WEIR_RATE_RATE o k)), at' := now }
  else s.setWeir o k { x with tokens := 0, at' := now }

/-- R202: the expedite budget at the present count: 50 ps for every ns, at most 20 µs. -/
def State.accrueBudget (s : State) (o : Nat) : State :=
  let x := s.outSt o
  let now := s.count
  let b : Int := min 20000000 (x.budget + 50 * ((now - x.budgetAt : Nat) : Int))
  s.setOut o { x with budget := b, budgetAt := now }

/-- R214: `SCH_OUTn_XBUDGET` shows the budget. -/
def State.showBudget (s : State) (o : Nat) : State :=
  let b := (s.outSt o).budget
  (s.put (SCH_OUT_XBUDGET_NEG o) (if b < 0 then 1 else 0)).put (SCH_OUT_XBUDGET_NS o) (b.natAbs / 1000)

/-- The budget and the Weirs of an output brought up to date. -/
def State.refreshOut (s : State) (o : Nat) : State :=
  (s.each (List.range 8) (fun s k => s.accrue o k)).accrueBudget o |>.showBudget o

/-! ### Gates and guard bands (R206, R207) -/

/-- The admin entries of a list: interval and mask. -/
def State.admList (s : State) (g : Nat) : List (Nat × Nat) :=
  (List.range (s.get (SCH_GCL_CTRL_LEN g))).map (fun e => (s.get (SCH_GCL_ADM_IVL g e), s.get (SCH_GCL_ADM_GATES g e)))

/-- The operational entries of a list. -/
def State.opeList (s : State) (g : Nat) : List (Nat × Nat) :=
  (List.range (s.get (SCH_GCL_STATUS_OPER_LEN g))).map (fun e => (s.get (SCH_GCL_OPE_IVL g e), s.get (SCH_GCL_OPE_GATES g e)))

/-- The sum of a list's intervals. -/
def cycleOf (l : List (Nat × Nat)) : Nat := l.foldl (fun acc e => acc + e.1) 0

/-- The first entries of a list, up to a time after its start. -/
def cutAt : Nat → List (Nat × Nat) → List (Nat × Nat)
  | _, [] => []
  | n, (i, m) :: rest => if n ≤ i then [(n, m)] else (i, m) :: cutAt (n - i) rest

/-- A list begun at entry `e`. -/
def rotated (e : Nat) (l : List (Nat × Nat)) : List (Nat × Nat) := l.drop e ++ l.take e

/-- R210: a list runs: RUNNING, or PENDING with the old list still in force. -/
def State.listRuns (s : State) (g : Nat) : Bool :=
  s.get (SCH_GCL_STATUS_STATE g) == 2 || (s.get (SCH_GCL_STATUS_STATE g) == 1 && (s.gcl g).prev == 2)

/-- R206, R209, R210: the gate masks to come at list `g`, each with how long it holds, and the ring time from which they run: the
running entry and those after it, cut by the start of a pending list. After DISABLE all gates open at the next boundary. -/
def State.gatePlan (s : State) (g : Nat) : Nat × List (Nat × Nat) :=
  let x := s.gcl g
  let run := rotated (s.get (SCH_GCL_STATUS_ENTRY g)) (s.opeList g)
  let now : Nat × List (Nat × Nat) :=
    if x.closing then (x.since, run.take 1 ++ [(1, 255)])
    else if s.listRuns g then (x.since, run ++ run)
    else (x.start, [(0, 255)])
  if s.get (SCH_GCL_STATUS_STATE g) = 1 then
    let n := x.start - now.1
    let old := cutAt n now.2
    if cycleOf now.2 < n then now else (now.1, old ++ s.admList g ++ s.admList g)
  else if s.listRuns g ∨ x.closing then now
  else (0, [])

/-- R206: the first closing of class `k` in a plan: the gate goes from open to closed. -/
def closingIn (k : Nat) : Nat → Bool → List (Nat × Nat) → Option Nat
  | _, _, [] => none
  | t, opened, (i, m) :: rest => if opened && !m.testBit k then some t else closingIn k (t + i) (m.testBit k) rest

/-- R206: the guard band of class `k` runs: its next closing is at most `GUARD` away. -/
def State.guardRuns (s : State) (g k : Nat) : Bool :=
  let p := s.gatePlan g
  (closingIn k p.1 false p.2).any (fun t => decide (t ≤ s.ringTime + s.get (SCH_GCL_GUARD g k)))

/-! ### Eligibility (R197) -/

/-- R197: the wire bytes of a frame at an output. -/
def State.wireBytes (s : State) (o : Nat) (f : PFrame) : Nat := f.bytes.length + s.get (SCH_OUT_LINK_OVERHEAD o)

/-- R197: the wire time of a frame at an output, in ps. -/
def State.wireTime (s : State) (o : Nat) (f : PFrame) : Nat :=
  if s.get (SCH_OUT_LINK_RATE_MBPS o) = 0 then 0 else s.wireBytes o f * 8000000 / s.get (SCH_OUT_LINK_RATE_MBPS o)

/-- R197 condition 1: the gate of the class is open and its guard band does not run. -/
def State.gateOpen (s : State) (o k : Nat) : Bool :=
  match outGcl o with
  | some g => (s.get (SCH_GCL_STATUS_GATES g)).testBit k && !s.guardRuns g k
  | none => true

/-- R197 condition 2: the Weir holds `l` wire bytes in tokens, or is disabled. -/
def State.weirOpen (s : State) (o k l : Nat) : Bool :=
  !s.flag (SCH_OUT_CLS_WEIR_RATE_EN o k) || l * 8000000 ≤ (s.weir o k).tokens

/-- A started frame of `l` wire bytes spends tokens. -/
def State.spend (s : State) (o k l : Nat) : State :=
  let w := s.weir o k
  if s.flag (SCH_OUT_CLS_WEIR_RATE_EN o k) then s.setWeir o k { w with tokens := w.tokens - l * 8000000 } else s

/-- R142, R197 condition 3: link credit for all of the frame's cells, and 18 cells beyond for a frame that the node inserts. -/
def State.creditOpen (s : State) (o : Nat) (f : PFrame) : Bool :=
  if o ≤ 2 then
    f.cells.length + (if f.inp ≤ 1 then 0 else 18) ≤ SMap.getD s.ring.credits (8 * o + f.cls) 0
  else true

/-- R28, R37, R197 condition 4: the output's unit accepts a frame. Field outputs are paused on the way to SERVICE and in it. A draining
Ethernet port whose link is down holds its frames under R135 (R244). -/
def State.unitOpen (s : State) (o : Nat) : Bool :=
  if o ≤ 2 then s.portState o == 2
  else if 13 ≤ o ∧ o ≤ 28 then
    (s.get (NET_PORT_STATUS_STATE (o - 13)) == 2
      || (s.get (NET_PORT_STATUS_STATE (o - 13)) == 6 && s.flag (NET_PORT_STATUS_LINK (o - 13))
          && (SMap.find s.dlv.flaps (0x400 + (o - 13))).isNone))
    && !(s.node.paused || s.mode == mSERVICE)
  else if 6 ≤ o ∧ o ≤ 11 then !(s.node.paused || s.mode == mSERVICE)
  else true

/-- The head frame of a VOQ, unless its egress has begun. -/
def State.headOf (s : State) (o n k : Nat) : Option PFrame :=
  match s.pld.frames.find? (fun f => f.inp == n && f.cls == k && f.outs.contains o) with
  | some f => if f.started.contains o then none else some f
  | none => none

/-- The eligible head frame of a VOQ (R197). -/
def State.eligible (s : State) (o n k : Nat) : Option PFrame :=
  match s.headOf o n k with
  | some f => if s.gateOpen o k && s.weirOpen o k (s.wireBytes o f) && s.creditOpen o f && s.unitOpen o then some f else none
  | none => none

/-! ### The choice (R198-R203) -/

/-- R199: start and finish tag: S is the later of the virtual time and the tag; the finish adds ⌈L * 256 / W⌉. -/
def finishTag (v f l w : Nat) : Nat := ((if laterThan 32 f v then f else v) + ceilDiv (l * 256) w) % 2 ^ 32

/-- Whether finish tag `a` is earlier than `b` (R199). -/
def tagBefore (a b : Nat) : Bool := laterThan 32 b a

/-- R199: the finish tag of the head `f` of VOQ (`n`, `k`): that which it took when it became the head, or the one it takes now. -/
def State.headTag (s : State) (o n k : Nat) (f : PFrame) : Nat :=
  let x := s.outSt o
  match SMap.find x.vCand (8 * n + k) with
  | some (num, t) => if num = f.num then t else finishTag (SMap.getD x.cv k 0) (SMap.getD x.vTag (8 * n + k) 0) (s.wireBytes o f) 1
  | none => finishTag (SMap.getD x.cv k 0) (SMap.getD x.vTag (8 * n + k) 0) (s.wireBytes o f) 1

/-- R199: the eligible VOQ of a class with the earliest finish tag; the lower input wins a tie. -/
def State.voqByTag (s : State) (o k : Nat) : Option (Nat × PFrame × Nat) :=
  (List.range 32).foldl (fun best n =>
    match s.eligible o n k with
    | none => best
    | some f =>
      let t := s.headTag o n k f
      match best with
      | none => some (n, f, t)
      | some (_, _, t') => if tagBefore t t' then some (n, f, t) else best) none

/-- R199: the finish tag of the candidate `f` of class `k`: that which it took when it became the candidate, or the one it takes now. -/
def State.classTag (s : State) (o k : Nat) (f : PFrame) : Nat :=
  let x := s.outSt o
  let fresh := finishTag x.v (SMap.getD x.fTag k 0) (s.wireBytes o f) (s.get (SCH_OUT_CLS_CFG_WEIGHT o k))
  match SMap.find x.cand k with
  | some (num, t) => if num = f.num then t else fresh
  | none => fresh

/-- R199: heads and candidates that are new at output `o` take their tags. -/
def State.takeTags (s : State) (o : Nat) : State :=
  let heads := (List.range 8).flatMap (fun k => (List.range 32).filterMap (fun n => (s.headOf o n k).map (fun f => (8 * n + k, f.num, s.headTag o n k f))))
  let s := s.setOut o { s.outSt o with vCand := heads.foldl (fun m e => SMap.insert m e.1 e.2) [] }
  let cands := (List.range 8).filterMap (fun k => (s.voqByTag o k).map (fun e => (k, e.2.1.num, s.classTag o k e.2.1)))
  s.setOut o { s.outSt o with cand := cands.foldl (fun m e => SMap.insert m e.1 e.2) [] }

/-- R214: heads of output `o` that only a guard band keeps from starting are counted, once each while it runs. -/
def State.countGuarded (s : State) (o : Nat) : State :=
  match outGcl o with
  | none => s
  | some g =>
    let on := (List.range 8).filter (fun k => s.guardRuns g k)
    let kept := ((s.outSt o).deferred).filter (fun e => on.contains e.1)
    let new := on.flatMap (fun k => (List.range 32).filterMap (fun n => match s.headOf o n k with
      | some f => if (s.get (SCH_GCL_STATUS_GATES g)).testBit k && s.weirOpen o k (s.wireBytes o f) && s.creditOpen o f && s.unitOpen o
          && !kept.contains (k, f.num) then some (k, f.num) else none
      | none => none))
    (s.setOut o { s.outSt o with deferred := kept ++ new }).addTo (SCH_OUT_CNT_GUARD o) new.length

/-- R199, R214: what changes at output `o` when its heads have changed. -/
def State.newHeads (s : State) (o : Nat) : State := (s.takeTags o).countGuarded o

/-- R201, R202: the promoted VOQ with the oldest eligible head, while the budget is above 0. -/
def State.expedite (s : State) (o : Nat) : Option (Nat × Nat × PFrame) :=
  let x := s.outSt o
  if x.budget ≤ 0 then none
  else match s.pld.frames.find? (fun f => x.promoted.contains (8 * f.inp + f.cls)
      && (s.eligible o f.inp f.cls).any (fun h => h.num == f.num)) with
    | some f => some (f.inp, f.cls, f)
    | none => none

/-- R198: the highest class of the priority band with an eligible VOQ. -/
def State.priority (s : State) (o : Nat) : Option (Nat × Nat × PFrame) :=
  (List.range 8).foldl (fun best k =>
    if (s.get (SCH_OUT_CFG o)).testBit k then
      match s.voqByTag o k with
      | some (n, f, _) => some (n, k, f)
      | none => best
    else best) none

/-- R199: the class of the fair band whose candidate has the earliest finish tag; the higher class wins a tie. -/
def State.fair (s : State) (o : Nat) : Option (Nat × Nat × PFrame) :=
  ((List.range 8).foldl (fun (best : Option (Nat × Nat × PFrame × Nat)) k =>
    if (s.get (SCH_OUT_CFG o)).testBit k then best
    else match s.voqByTag o k with
      | none => best
      | some (n, f, _) =>
        let t := s.classTag o k f
        match best with
        | none => some (n, k, f, t)
        | some (_, _, _, t') => if tagBefore t' t then best else some (n, k, f, t)) none).map
    (fun (n, k, f, _) => (n, k, f))

/-- R198: the frame that an idle output starts: its input, class and record, and the band (0 expedite, 1 priority, 2 fair). -/
def State.pick (s : State) (o : Nat) : Option (Nat × Nat × PFrame × Nat) :=
  match s.expedite o with
  | some (n, k, f) => some (n, k, f, 0)
  | none => match s.priority o with
    | some (n, k, f) => some (n, k, f, 1)
    | none => match s.fair o with
      | some (n, k, f) => some (n, k, f, 2)
      | none => none

/-- R199, R202: the tags, budget, tokens and credits that a started frame takes. -/
def State.charge (s : State) (o n k : Nat) (f : PFrame) (band : Nat) : State :=
  let x := s.outSt o
  let l := s.wireBytes o f
  let ft := s.classTag o k f
  let vt := s.headTag o n k f
  let x := { x with
    cand := SMap.erase x.cand k, vCand := SMap.erase x.vCand (8 * n + k),
    v := if band = 2 then ft else x.v, fTag := SMap.insert x.fTag k ft, cv := SMap.insert x.cv k vt,
    vTag := SMap.insert x.vTag (8 * n + k) vt, promoted := x.promoted.filter (fun q => q != 8 * n + k),
    budget := if band = 0 then x.budget - (s.wireTime o f : Int) else x.budget, busy := some f.num }
  let s := (s.setOut o x).showBudget o
  let s := s.spend o k l
  let s := if o ≤ 2 then
      let left := SMap.getD s.ring.credits (8 * o + f.cls) 0 - f.cells.length
      { s with ring := { s.ring with credits := SMap.insert s.ring.credits (8 * o + f.cls) left } }
    else s
  if band = 0 then s.inc (SCH_OUT_CNT_XSENT o) else s

/-- R198: the frame chosen for an output pays its charges and starts. -/
def State.startFrame (s : State) (o n k : Nat) (f : PFrame) (band : Nat) : State :=
  let s := s.charge o n k f band
  { s with pld := { s.pld with frames := s.pld.frames.map (fun x =>
    if x.num = f.num then { x with started := x.started ++ [o] } else x) } }

/-- R198: an idle output with an eligible head frame starts one. -/
def execSchFrameStart (out : Fin 32) (s : State) : Host.Outcome State Fault Refusal :=
  .next (
    if ¬ s.isUp dPLD then s
    else
      let s := (s.refreshOut out).newHeads out
      if (s.outSt out).busy.isSome then s
      else match s.pick out with
        | none => s
        | some (n, k, f, band) => s.startFrame out n k f band)

/-- R185, R191: output `o` hands the last cell of its frame `num` to its unit. -/
def State.endEgress (s : State) (o num : Nat) : State :=
  let bytes := ((s.pld.frames.find? (fun f => f.num == num)).map (fun f => f.bytes)).getD []
  let s := s.setOut o { s.outSt o with busy := none }
  let s := (s.inc (PLD_OUT_CNT_TX o)).emit (.egress o bytes)
  let s := if o ≤ 2 then s.inc (RING_PORT_CNT_TX o) else s
  ((s.dropCopy num o true).flushReady).newHeads o

/-! ### Linking (R182) -/

/-- R182-R189: an input slice has received a frame for the destinations that its unit names; see `State.frameIn`. Its VOQs take it at
once. -/
def execPldFrameLink (inp : Fin 32) (dsts : List SwitchDst) (cls : Fin 8) (tagged ok : Bool) (bytes : List Byte) (s : State) :
    Host.Outcome State Fault Refusal :=
  .next (
    let outs := (dsts.filterMap s.switchOut).eraseDups
    if ¬ s.isUp dPLD ∨ bytes = [] ∨ outs = [] ∨ 4 < outs.length then s
    else (s.frameIn inp outs cls tagged ok bytes).each outs State.newHeads)

/-- R201: the head frame of a VOQ has waited longer than `MAX_WAIT`. A head whose egress has begun is not promoted (R203). -/
def execVoqPromotion (out inp : Fin 32) (cls : Fin 8) (s : State) : Host.Outcome State Fault Refusal :=
  .next (
    let x := s.outSt out
    let q := 8 * inp.val + cls.val
    if s.flag (SCH_OUT_CLS_CFG_PROMO_EN out cls) ∧ (s.headOf out inp cls).isSome ∧ ¬ x.promoted.contains q then
      (s.setOut out { x with promoted := x.promoted ++ [q] }).inc (SCH_OUT_CNT_PROMO out)
    else s)

/-! ### Weirs (R204) -/

/-- R204: the largest frame that an output may carry. -/
def State.largestFrame (s : State) (o : Nat) : Nat :=
  if o ≤ 2 then 2092 else if 13 ≤ o ∧ o ≤ 28 then s.get (NET_PORT_CFG_MAX_FRAME (o - 13)) else 9216

/-- R204: a write of `WEIR_RATE` applies the held `BURST` and sets the tokens by `REFILL`, or is refused. -/
def execWeirRateWrite (out : Fin 32) (cls : Fin 8) (val : Word) (s : State) : Host.Outcome State Fault Refusal :=
  .next (
    let o := out.val
    let k := cls.val
    let v := val.toNat
    let burst := s.get (SCH_OUT_CLS_WEIR_BURST o k)
    if (v.testBit 31 ∧ v % 2 ^ 27 = 0) ∨ burst < s.largestFrame o + s.get (SCH_OUT_LINK_OVERHEAD o) then s.raise SCH_ERR
    else
      let s := ((s.put (SCH_OUT_CLS_WEIR_RATE_EN o k) (v / 2 ^ 31)).put (SCH_OUT_CLS_WEIR_RATE_REFILL o k) (v / 2 ^ 30)).put
        (SCH_OUT_CLS_WEIR_RATE_RATE o k) v
      s.setWeir o k { burst, at' := s.count
                      tokens := if v.testBit 31 ∧ v.testBit 30 then burst * 8000000 else 0 })

/-- R204: a write of `WEIR_BURST` is held. -/
def execWeirBurstWrite (out : Fin 32) (cls : Fin 8) (val : Word) (s : State) : Host.Outcome State Fault Refusal :=
  .next (s.put (SCH_OUT_CLS_WEIR_BURST out cls) val.toNat)

/-! ### Gate lists (R206-R211) -/

/-- The longest run of consecutive open entries of a class in a list. -/
def longestOpen (k : Nat) (l : List (Nat × Nat)) : Nat :=
  (l.foldl (fun (acc : Nat × Nat) e =>
    let run := if e.2.testBit k then acc.1 + e.1 else 0
    (run, max acc.2 run)) (0, 0)).2

/-- R208 check 4: class `k` has an open window, counted around the cycle, of at least `guard`. A class that never closes has no
guard band. -/
def windowOk (k guard : Nat) (l : List (Nat × Nat)) : Bool :=
  if l.all (fun e => e.2.testBit k) then true else 1 ≤ longestOpen k (l ++ l) && guard ≤ longestOpen k (l ++ l)

/-- R208: the checks of a commit in their order. -/
def State.gclCheck (s : State) (g len : Nat) : Nat :=
  let l := s.admList g
  if len = 0 ∨ 64 < len then 1
  else if l.any (fun e => e.1 == 0) then 2
  else if 4294967295 < cycleOf l then 3
  else if ¬ (List.range 8).all (fun k => windowOk k (s.get (SCH_GCL_GUARD g k)) l) then 4
  else if ¬ s.flag TIME_STATUS_LOCKED_SINCE_RESET then 5
  else if s.get (SCH_GCL_STATUS_STATE g) = 1 then 6
  else 0

/-- R209: the start of a new list: the change time, or the first cycle boundary from it that lies at least 10 µs ahead. -/
def startTime (now c cycle : Nat) : Nat :=
  if now + 10000 ≤ c then c else if cycle = 0 then c else c + ceilDiv (now + 10000 - c) cycle * cycle

/-- R208-R210: `SCH_GCLg_CTRL` written with `COMMIT`; `LEN` is written with it, but not while the list is PENDING. -/
def execGclCommit (g : Fin 19) (val : Word) (s : State) : Host.Outcome State Fault Refusal :=
  .next (
    let i := g.val
    let len := val.toNat / 65536 % 256
    let st := s.get (SCH_GCL_STATUS_STATE i)
    if st = 1 ∧ len ≠ s.get (SCH_GCL_CTRL_LEN i) then s.raise SCH_ERR
    else
      let s := s.put (SCH_GCL_CTRL_LEN i) len
      let e := s.gclCheck i len
      let s := s.put (SCH_GCL_STATUS_ERR i) e
      if e ≠ 0 then s
      else
        let start := startTime s.ringTime (s.get64 (SCH_GCL_CHANGE_LO i) (SCH_GCL_CHANGE_HI i)) (cycleOf (s.admList i))
        (s.setGcl i { s.gcl i with start := start, prev := st }).put (SCH_GCL_STATUS_STATE i) 1)

/-- R210: `DISABLE` takes a running list to IDLE; all gates open from the next boundary of the running entry. -/
def execGclDisable (g : Fin 19) (s : State) : Host.Outcome State Fault Refusal :=
  .next (if s.get (SCH_GCL_STATUS_STATE g) = 2 then
      (s.setGcl g { s.gcl g with closing := true }).put (SCH_GCL_STATUS_STATE g) 0
    else s)

/-- R210: the admin list of `i` is operational at entry 0, from its start time on. -/
def State.openList (s : State) (i : Nat) : State :=
  let l := s.admList i
  let s := (l.zipIdx).foldl (fun s (e, n) => (s.put (SCH_GCL_OPE_IVL i n) e.1).put (SCH_GCL_OPE_GATES i n) e.2) s
  let s := (s.put (SCH_GCL_STATUS_OPER_LEN i) l.length).put (SCH_GCL_OPER_CYCLE i) (cycleOf l)
  let s := ((s.put (SCH_GCL_STATUS_STATE i) 2).put (SCH_GCL_STATUS_ENTRY i) 0).put (SCH_GCL_STATUS_GATES i)
    ((l.head?.map (fun e => e.2)).getD 255)
  s.setGcl i { s.gcl i with base := (s.gcl i).start, since := (s.gcl i).start, closing := false, prev := 2 }

/-- R209: the start time of a pending list has come. -/
def State.startDue (s : State) (i : Nat) : Bool :=
  s.get (SCH_GCL_STATUS_STATE i) == 1 && decide ((s.gcl i).start ≤ s.ringTime)

/-- R210, R211: `ABORT` discards a pending commit. One that meets the start time of the list is itself discarded, and the list starts. -/
def execGclAbort (g : Fin 19) (s : State) : Host.Outcome State Fault Refusal :=
  .next (if s.startDue g then (s.openList g).put (SCH_GCL_STATUS_ERR g) 6
    else if s.get (SCH_GCL_STATUS_STATE g) = 1 then s.put (SCH_GCL_STATUS_STATE g) (s.gcl g).prev
    else if s.get (SCH_GCL_STATUS_STATE g) = 2 ∧ (s.gcl g).base = s.ringTime then s.put (SCH_GCL_STATUS_ERR g) 6
    else s)

/-- R209, R210: the start time of a pending list, once ring time has reached it. -/
def execGclStartTime (g : Fin 19) (s : State) : Host.Outcome State Fault Refusal :=
  .next (if s.startDue g then s.openList g else s)

/-- R206, R210: the interval of the running entry ends, once ring time has reached its end: the next entry's mask takes force, or all
gates open after DISABLE. -/
def execGclEntryBoundary (g : Fin 19) (s : State) : Host.Outcome State Fault Refusal :=
  .next (
    let i := g.val
    let x := s.gcl i
    let len := s.get (SCH_GCL_STATUS_OPER_LEN i)
    let stop := x.since + s.get (SCH_GCL_OPE_IVL i (s.get (SCH_GCL_STATUS_ENTRY i)))
    if s.ringTime < stop then s
    else if x.closing then (s.setGcl i { x with closing := false }).put (SCH_GCL_STATUS_GATES i) 255
    else if len = 0 ∨ ¬ s.listRuns i then s
    else
      let e := (s.get (SCH_GCL_STATUS_ENTRY i) + 1) % len
      ((s.setGcl i { x with since := stop }).put (SCH_GCL_STATUS_ENTRY i) e).put (SCH_GCL_STATUS_GATES i) (s.get (SCH_GCL_OPE_GATES i e)))

/-- R206, R214: the guard band of a class begins: no frame of the class starts until its gate closes. Heads that it defers are
counted. -/
def execGuardBandStart (g : Fin 19) (cls : Fin 8) (s : State) : Host.Outcome State Fault Refusal :=
  .next (if s.isUp dPLD ∧ s.guardRuns g cls then (s.refreshOut (gclOut g)).countGuarded (gclOut g) else s)

end Sys2Proof.Machine
end

