-- ==== Sys2Proof/Machine/Time.lean ====
section
/-! DEFINITION. Time (R216-R234, R465): rate and steps, the lock state, the exchange of time on ring and twin links, the servo,
FSYNC generators and the pulse pins. -/

namespace Sys2Proof.Machine

open Sys2Proof.Machine.Reg

/-! ### Rate, step and lock (R217-R221) -/

/-- R218: |`RATE_FRAC`| is within `limit` ppm. -/
def rateOk (limit r : Nat) : Bool := (sext 32 r).natAbs * 1000000 ≤ limit * 2 ^ 40

/-- `OFFSET` set to a value in units of 2^-8 ns (R217). -/
def State.putOffset (s : State) (v : Nat) : State :=
  { s.put64 TIME_OFFSET_LO TIME_OFFSET_HI (v / 256) with time := { s.time with offFrac := v % 256 } }

/-- R218: a new rate, which takes effect at the next tick. -/
def State.setRate (s : State) (r : Nat) : State := { s with time := { s.time with rateNext := some r } }

/-- R218: tick w: `OFFSET` = ring time at w under the old values, `ANCHOR` = w, and the rate written before it. -/
def State.takeRate (s : State) : State :=
  match s.time.rateNext with
  | none => s
  | some r =>
    let w := s.count
    let s := ((s.putOffset (s.ringRawAt w)).put64 TIME_ANCHOR_LO TIME_ANCHOR_HI w).put TIME_RATE r
    { s with time := { s.time with rateNext := none } }

/-- R219: a tick adds the sum of the steps written before it to `OFFSET`. -/
def State.takeStep (s : State) : State :=
  match s.time.stepNext with
  | none => s
  | some d =>
    let off : Int := s.get64 TIME_OFFSET_LO TIME_OFFSET_HI * 256 + s.time.offFrac
    let s := s.putOffset (wrapInt 72 (off + d * 256))
    { s with time := { s.time with stepNext := none } }

/-- R218: `TIME_RATE` written. -/
def execTimeRateWrite (val : Word) (s : State) : Host.Outcome State Fault Refusal :=
  .next (if rateOk (s.get TIME_CFG_LIMIT_PPM) val.toNat then s.setRate val.toNat else s.raise TIME_ERR_RATE_REJECT)

/-- R218, R228, R233: `TIME_CFG` written: a field out of range refuses the write; a node that is not the root keeps its `SRC`. -/
def State.writeTimeCfg (s : State) (v : Nat) : State :=
  let sync := bitsOf v 22 10
  let limit := bitsOf v 12 10
  let root := s.flag RING_NODE_ROOT
  if sync < 32 ∨ 1000 < sync ∨ limit < 1 ∨ 500 < limit ∨ ¬ rateOk limit (s.get TIME_RATE) ∨ (root ∧ v % 4 = 3) then
    s.raise TIME_ERR_CFG_REJECT
  else
    let s := ((s.put TIME_CFG_SYNC_US sync).put TIME_CFG_LIMIT_PPM limit).put TIME_CFG_PTP_PORT (v / 256)
    let s := (s.put TIME_CFG_PPS_IN_EN (v / 8)).put TIME_CFG_PPS_OUT_EN (v / 4)
    if root then s.put TIME_CFG_SRC v else s

/-- R228: `SRC` follows the ring role when the roles are fixed. -/
def State.fixTimeSource (s : State) : State :=
  if ¬ s.node.ringRoot then s.put TIME_CFG_SRC 3
  else if s.get TIME_CFG_SRC = 3 then s.put TIME_CFG_SRC 0 else s

/-- R220: the lock state, with its level source (R438). -/
def State.setLock (s : State) (st : Nat) : State := s.putLevel TIME_STATUS_LOCK st

/-- R220, R221: entry to LOCKED. A step that waits for the next tick is refused. -/
def State.enterLocked (s : State) : State :=
  let s : State := match s.time.stepNext with
    | some _ => State.raise { s with time := { s.time with stepNext := none } } TIME_ERR_STEP_REJECT
    | none => s
  ((s.setLock 2).put TIME_STATUS_EVER_LOCKED 1).put TIME_STATUS_LOCKED_SINCE_RESET 1

/-- R220: the upstream is valid: FREE and HOLDOVER lead to ACQUIRING. -/
def State.upstreamValid (s : State) : State :=
  if s.get TIME_STATUS_LOCK = 0 ∨ s.get TIME_STATUS_LOCK = 3 then s.setLock 1 else s

/-- R220, R233: `TIME_CTRL.LOCK_NOW` at a root with `SRC` = FREE. -/
def execLockNow (s : State) : Host.Outcome State Fault Refusal :=
  .next (if s.flag RING_NODE_ROOT ∧ s.get TIME_CFG_SRC = 0 ∧ s.get TIME_STATUS_LOCK ≠ 2 then s.enterLocked else s)

/-- R220: the filtered error has stayed within 2 ns for 1 s in ACQUIRING. -/
def execTimeLockAchieved (s : State) : Host.Outcome State Fault Refusal :=
  .next (if s.get TIME_STATUS_LOCK = 1 ∧ (sext 32 (s.get TIME_ERR_EST)).natAbs ≤ 512 then s.enterLocked else s)

/-- The node follows an upstream: a member, or a root with `SRC` 1 or 2 (R220, R228). -/
def State.hasUpstream (s : State) : Bool := s.get TIME_CFG_SRC != 0

/-- R220, R221: 10 ms have passed since the last accepted exchange or source update. The count does not tell while `REFCLK_TIME` is
absent. -/
def State.upstreamSilent (s : State) : Bool :=
  !s.node.refTime || s.time.lastEx.all (fun c => decide (c + 10000000 ≤ s.count))

/-- An exchange or a source update is accepted (R220). -/
def State.noteUpstream (s : State) : State := { s with time := { s.time with lastEx := some s.count } }

/-- R220: 10 ms without an accepted exchange or source update. -/
def execTimeUpstreamTimeout (s : State) : Host.Outcome State Fault Refusal :=
  .next (if s.hasUpstream ∧ s.upstreamSilent ∧ (s.get TIME_STATUS_LOCK = 1 ∨ s.get TIME_STATUS_LOCK = 2) then
      ((s.setLock 3).raise TIME_ERR_UPSTREAM_LOST).record 48
    else s)

/-! ### FSYNC (R230, R231) -/

/-- Generator `n`. -/
def State.fsync (s : State) (n : Nat) : FsyncSt := SMap.getD s.time.fsync n {}

/-- Generator `n` replaced. -/
def State.setFsync (s : State) (n : Nat) (x : FsyncSt) : State :=
  { s with time := { s.time with fsync := SMap.insert s.time.fsync n x } }

/-- `START` of generator `n`, and the ring time of its edge `k`. -/
def State.fsyncStart (s : State) (n : Nat) : Nat := s.get64 (TIME_FSYNC_START_LO n) (TIME_FSYNC_START_HI n)
def State.fsyncTime (s : State) (n k : Nat) : Nat := s.fsyncStart n + k * s.get (TIME_FSYNC_PERIOD n)

/-- The smallest k whose edge lies at or after ring time `t`. -/
def State.fsyncFrom (s : State) (n t : Nat) : Nat :=
  if t ≤ s.fsyncStart n then 0 else ceilDiv (t - s.fsyncStart n) (s.get (TIME_FSYNC_PERIOD n))

/-- How many edges of generator `n`, from its next one, are due at the present ring time. -/
def State.fsyncDue (s : State) (n : Nat) : Nat :=
  let k := (s.fsync n).k
  let last := if s.flag (TIME_FSYNC_CTRL_ONCE n) then b2n (decide (s.fsyncStart n ≤ s.ringTime)) else s.fsyncFrom n (s.ringTime + 1)
  if s.flag (TIME_FSYNC_CTRL_EN n) && !(s.fsync n).held then last - k else 0

/-- R49, R54: a level of FSYNC pin `n`, shown while the generators drive the pins. -/
def State.fsyncPin (s : State) (n level : Nat) : State := if s.fsyncPins = 3 then s.emit (.pin 1 n level) else s

/-- An edge of generator `n` driven: the active level, and the count. -/
def State.fsyncDrive (s : State) (n : Nat) : State :=
  let x := s.fsync n
  ((s.setFsync n { x with k := x.k + 1, high := true, held := false, edge := some (s.ringTime, x.held) }).inc (TIME_FSYNC_CNT_FIRED n)).fsyncPin
    n (if s.flag (TIME_FSYNC_CTRL_POL n) then 0 else 1)

/-- The vision pipeline works: some receiver holds a complete line (R231, R351). -/
def State.visBusy (s : State) : Bool := s.vis.cams.any (fun c => !c.2.lines.isEmpty)

/-- R231: VIS is threatened and its pipeline works: a due edge is held. -/
def State.fsyncHold (s : State) : Bool := s.isThreat dVIS && s.visBusy

/-- The next edge of generator `n`, where it is due: driven, or held (R231). -/
def State.fsyncFire (s : State) (n : Nat) : State :=
  if s.fsyncDue n = 0 then s
  else if s.fsyncHold then (s.setFsync n { s.fsync n with held := true }).inc (TIME_FSYNC_CNT_LATE n)
  else s.fsyncDrive n

/-- R230: an edge of generator `n` is due. -/
def execFsyncEdge (n : Fin 8) (s : State) : Host.Outcome State Fault Refusal := .next (s.fsyncFire n)

/-- R231: the pipeline is idle, and a held edge is driven with its full `WIDTH`; later edges resume at the first k whose time
still lies ahead. -/
def execFsyncHeldRelease (n : Fin 8) (s : State) : Host.Outcome State Fault Refusal :=
  .next (if (s.fsync n).held ∧ ¬ s.visBusy then
      let s := s.fsyncDrive n
      s.setFsync n { s.fsync n with k := max (s.fsync n).k (s.fsyncFrom n (s.ringTime + 1)) }
    else s)

/-- R230, R231: `WIDTH` after an edge the pulse ends, also after `EN` has been written 0. -/
def execFsyncPulseEnd (n : Fin 8) (s : State) : Host.Outcome State Fault Refusal :=
  .next (if (s.fsync n).high then
      (s.setFsync n { s.fsync n with high := false }).fsyncPin n (if s.flag (TIME_FSYNC_CTRL_POL n) then 1 else 0)
    else s)

/-- R230, R231, R234: `TIME_FSYNCn_CTRL` written. An edge that is due when `EN` is written 0 is driven or held first, and a held one stays
due. -/
def State.writeFsync (s : State) (n v : Nat) : State :=
  let en := v.testBit 0
  let once := v.testBit 1
  if s.flag (TIME_FSYNC_CTRL_EN n) then
    (if b2n once ≠ s.get (TIME_FSYNC_CTRL_ONCE n) ∨ v / 4 % 2 ≠ s.get (TIME_FSYNC_CTRL_POL n) then s.raise TIME_ERR_CFG_REJECT
     else if en then s
     else (s.each (List.range (s.fsyncDue n)) (fun s _ => s.fsyncFire n)).put (TIME_FSYNC_CTRL_EN n) 0)
  else
    let p := s.get (TIME_FSYNC_PERIOD n)
    let w := s.get (TIME_FSYNC_WIDTH n)
    if en ∧ (p < 1000 ∨ w < 1 ∨ p ≤ w ∨ (once ∧ s.fsyncStart n < s.ringTime + 10000)) then s.raise TIME_ERR_CFG_REJECT
    else
      let s := ((s.put (TIME_FSYNC_CTRL_POL n) (v / 4)).put (TIME_FSYNC_CTRL_ONCE n) (v / 2)).put (TIME_FSYNC_CTRL_EN n) v
      if en then s.setFsync n { s.fsync n with k := s.fsyncFrom n (s.ringTime + 10000) } else s

/-- R230: `TIME_FSYNCn_CTRL` written to enable a generator. -/
def execFsyncEnable (n : Fin 8) (val : Word) (s : State) : Host.Outcome State Fault Refusal := .next (s.writeFsync n val.toNat)

/-! ### Steps (R219) -/

/-- R219: a step of signed nanoseconds, formed from the requester's staged low half (R11); it applies at the next tick, with every other
step written before that tick. -/
def execTimeStepWrite (req : Requester) (val : Word) (s : State) : Host.Outcome State Fault Refusal :=
  .next (if s.flag TIME_STATUS_EVER_LOCKED then s.raise TIME_ERR_STEP_REJECT
    else
      let lo := ((s.staged.find? (fun e => e.1 == req && e.2.1 == 0x60024)).map (fun e => e.2.2)).getD 0
      let s := { s with staged := s.staged.filter (fun e => !(e.1 == req && e.2.1 == 0x60024)) }
      let step := sext 64 (val.toNat * 2 ^ 32 + lo)
      { s with time := { s.time with stepNext := some (s.time.stepNext.getD 0 + step) } })

/-! ### Pulse pins (R228, R232) -/

/-- R232: `PPS_OUT` rises. -/
def State.ppsRise (s : State) : State :=
  if s.flag TIME_CFG_PPS_OUT_EN ∧ ¬ s.time.ppsHigh then { s with time := { s.time with ppsHigh := true } }.emit (.pin 2 0 1) else s

/-- R232: `PPS_OUT` rises at a whole second of ring time, within the 5 ns of R230, and falls 1 ms later. -/
def execPpsOutEdge (rise : Bool) (s : State) : Host.Outcome State Fault Refusal :=
  .next (if rise then (if s.ringTime % 1000000000 ≤ 5 then s.ppsRise else s)
    else if s.time.ppsHigh then { s with time := { s.time with ppsHigh := false } }.emit (.pin 2 0 0)
    else s)

/-- An input of the servo window. -/
def State.servoInput (s : State) (e : Int) : State :=
  { s with time := { s.time with errSum := s.time.errSum + e, errNum := s.time.errNum + 1 } }

/-- R228: a rising edge on `PPS_IN` is timestamped; at a root with `SRC` = 2 its distance from the whole second is the servo's
input. -/
def execPpsInEdge (s : State) : Host.Outcome State Fault Refusal :=
  .next (if s.flag TIME_CFG_PPS_IN_EN then
      let t := s.ringTime
      let s := s.put64 TIME_PPS_IN_LO TIME_PPS_IN_HI t
      if s.flag RING_NODE_ROOT ∧ s.get TIME_CFG_SRC = 2 then
        let frac : Int := t % 1000000000
        (s.servoInput ((if frac < 500000000 then frac else frac - 1000000000) * 256)).noteUpstream.upstreamValid
      else s
    else s)

/-! ### Timestamps and exchanges (R222-R226) -/

/-- R222, R223: the transmit or receive latency of an entry of the calibration block, in 2^-8 ns. -/
def State.latency (s : State) (tx : Bool) (entry : Nat) : Int :=
  if s.boot.calBlank then Config.nominalLatency tx entry
  else sext 32 (s.calWord (4 + 2 * entry + (if tx then 0 else 1)))

/-- R222, R225: a timestamp in units of 2^-8 ns modulo 2^64, with the resolution of 0.25 ns. -/
def stamp (raw lat : Int) : Nat := wrapInt 64 ((raw + lat) / 64 * 64)

/-- The transmit timestamp of a capture at count `c` on port `p`, and the receive timestamp. -/
def State.stampTx (s : State) (p c : Nat) : Nat := stamp (s.ringRawAt c) (s.latency true p)
def State.stampRx (s : State) (p c : Nat) : Nat := stamp (s.ringRawAt c) (-(s.latency false p))

/-- R224: a SYNC is sent with the next `SEQ`. It waits `wait` ns for the end of a frame in progress. -/
def execTimeSyncTimer (port : Fin 3) (wait : Nat) (s : State) : Host.Outcome State Fault Refusal :=
  .next (if s.portState port = 2 then
      let q := (SMap.getD s.time.seq port 255 + 1) % 256
      let t1 := s.stampTx port (s.count + wait)
      State.emit { s with time := { s.time with
        seq := SMap.insert s.time.seq port q, sent := SMap.insert s.time.sent port (q, t1) } } (.orderedSet port (.timeSync q))
    else s)

/-- R224: a SYNC arrives and is answered by REPLY with the same `SEQ`, within 10 µs. -/
def execTimeSyncOs (port : Fin 3) (seq : BitVec 8) (wait : Nat) (s : State) : Host.Outcome State Fault Refusal :=
  .next (if s.portState port = 2 then
      let t2 := s.stampRx port s.count
      let t3 := s.stampTx port (s.count + min wait 10000)
      State.emit { s with time := { s.time with got := SMap.insert s.time.got port (seq.toNat, t2, t3, s.count) } }
        (.orderedSet port (.timeReply seq.toNat))
    else s)

/-- R225: the 32 bytes of a FOLLOW_UP. -/
def State.followUp (s : State) (seq t1 t4 : Nat) : List Nat :=
  let bytes (n v : Nat) : List Nat := (leBytes n v).map (fun b => b.toNat)
  let valid := if s.flag RING_NODE_ROOT ∧ ¬ s.flag RING_ENUM_STATUS_CLOSED then 0 else s.get TIME_STATUS_CLOSURE_VALID
  [1, seq, valid + 2 * b2n (s.get TIME_STATUS_LOCK == 2), s.get TIME_STATUS_HOPS] ++ bytes 8 t1 ++ bytes 8 t4
    ++ bytes 4 (s.get TIME_CLOSURE) ++ bytes 4 (wrapInt 32 s.time.corr) ++ [0, 0, 0, 0]

/-- R225: the REPLY to the open SYNC arrives, and the FOLLOW_UP goes to the neighbour at that port. -/
def execTimeReplyOs (port : Fin 3) (seq : BitVec 8) (s : State) : Host.Outcome State Fault Refusal :=
  .next (match SMap.find s.time.sent port with
    | some (q, t1) =>
      if q = seq.toNat ∧ s.portState port = 2 then
        let t4 := s.stampRx port s.count
        State.emit { s with time := { s.time with sent := SMap.erase s.time.sent port } }
          (ownFrame s.nodeId port false 0 0 (.timeSync (s.followUp q t1 t4)))
      else s
    | none => s)

/-- R226: the chain that a member follows: ring A while the ring is closed; otherwise the one whose path from the root crosses no break,
ring A first; none where both do. -/
def State.chainRing (s : State) : Option Nat :=
  if s.flag RING_ENUM_STATUS_CLOSED ∨ ¬ s.crosses 0 s.ring.pos then some 0
  else if ¬ s.crosses s.ring.pos (s.ring.map.length - s.ring.pos) then some 1 else none

/-- R226: the port of the upstream: West on ring A, East on ring B. A twin half follows its partner while its chain port is not UP, or in
TWIN-STANDBY while its ring ports are not trained. -/
def State.upstreamPort (s : State) : Option Nat :=
  let chain := s.chainRing.map (fun r => 1 - r)
  if s.node.twinRole ≠ .single ∧ (chain.all (fun p => s.portState p != 2) ∨ (s.mode = mSTANDBY ∧ s.portState 0 < 2 ∧ s.portState 1 < 2))
  then some 2 else chain

/-- The difference of two timestamps modulo 2^64 (R225). -/
def stampDiff (a b : Nat) : Int := sext 64 (wrapInt 64 ((a : Int) - b))

/-- R226: `theta` and `delay` of an exchange. -/
def exchange (t1 t2 t3 t4 : Nat) (asym : Int) : Int × Int :=
  let out := stampDiff t2 t1
  let back := stampDiff t4 t3
  (Int.tdiv (out - back - asym) 2, Int.tdiv (out + back) 2)

/-- R226: the root measures E from the ring-A exchange that returns from position N - 1, and filters it. -/
def State.measureClosure (s : State) (corrUp theta : Int) : State :=
  if s.flag RING_ENUM_STATUS_CLOSED then
    let e := Config.closureFilter s.fresh (sext 32 (s.get TIME_CLOSURE)) (corrUp - theta)
    (s.draw.put TIME_CLOSURE (wrapInt 32 e)).put TIME_STATUS_CLOSURE_VALID 1
  else s.put TIME_STATUS_CLOSURE_VALID 0

/-- R226: a member takes an exchange of its upstream. -/
def State.followExchange (s : State) (theta corrUp e : Int) (valid : Bool) (hops chain : Nat) : State :=
  let n : Int := s.get RING_ENUM_STATUS_N
  let corr := if valid ∧ n ≠ 0 then Int.tdiv ((s.ring.pos : Int) * e) n else 0
  let s := { s with time := { s.time with corr := corr } }
  let s := ((s.put TIME_STATUS_HOPS (min 255 (hops + 1))).put TIME_STATUS_CHAIN chain).put TIME_STATUS_CLOSURE_VALID (b2n valid)
  ((s.put TIME_CLOSURE (wrapInt 32 e)).servoInput (theta - corrUp + corr)).noteUpstream.upstreamValid

/-- R225: a FOLLOW_UP answers the last SYNC received at its port, not later than 1 ms after it, and its sender is LOCKED unless
this node is not. -/
def State.followsSync (s : State) (bytes : List Byte) (q c2 : Nat) : Bool :=
  leAt bytes 0 1 == 1 && leAt bytes 1 1 == q && decide (s.count ≤ c2 + 1000000)
  && ((leAt bytes 2 1).testBit 1 || s.get TIME_STATUS_LOCK != 2)

/-- R226: an exchange at a port: the link's delay is shown, the root measures E, and a member follows its upstream. -/
def State.takeExchange (s : State) (port : Nat) (bytes : List Byte) (t2 t3 : Nat) : State :=
  let r := exchange (leAt bytes 4 8) t2 t3 (leAt bytes 12 8) (sext 32 (s.get (TIME_LINK_ASYM port)))
  let s := s.put (TIME_LINK_DELAY port) (wrapInt 32 r.2)
  let e := sext 32 (leAt bytes 20 4)
  let corrUp := sext 32 (leAt bytes 24 4)
  if s.flag RING_NODE_ROOT then (if port = 1 then s.measureClosure corrUp r.1 else s)
  else if s.get TIME_CFG_SRC = 3 ∧ some port = s.upstreamPort then
    s.followExchange r.1 corrUp e ((leAt bytes 2 1).testBit 0) (leAt bytes 3 1) (s.chainRing.getD 0)
  else s

/-- R225, R226: a FOLLOW_UP for the last SYNC received at a port. -/
def execTimeSyncFrame (port : Fin 3) (bytes : List Byte) (s : State) : Host.Outcome State Fault Refusal :=
  .next (match SMap.find s.time.got port with
    | some (q, t2, t3, c2) => if s.followsSync bytes q c2 then s.takeExchange port bytes t2 t3 else s
    | none => s)

/-! ### The servo (R465) -/

/-- R465: an error of 2^-8 ns over a window of W µs as a frequency in units of 2^-40. -/
def errorRate (e : Int) (w : Nat) : Int := divRoundAway (e * 2 ^ 32) (w * 1000)

/-- R465: the rate that the servo writes, within the bound of R218. -/
def clampRate (limit : Nat) (r : Int) : Int :=
  let b : Int := (limit * 2 ^ 40 / 1000000 : Nat)
  clampInt (-b) b r

/-- R465: a window's mean error `e` corrects the frequency, and the rate follows both. -/
def State.servoStep (s : State) (e : Int) : State :=
  let w := 256 * s.get TIME_CFG_SYNC_US
  let f := (s.time.freq).getD (sext 32 (s.get TIME_RATE))
  let de := match s.time.ePrev with
    | some p => e - p
    | none => 0
  let f := f - (errorRate de w) / 2 ^ s.get PWR_POL_SERVO
  let s := { s with time := { s.time with freq := some f, ePrev := some e } }
  (s.put TIME_ERR_EST (wrapInt 32 e)).setRate (wrapInt 32 (clampRate (s.get TIME_CFG_LIMIT_PPM) (f - errorRate e w)))

/-- R220, R228: the mean offset from the PTP slave that a root with `SRC` = 1 hands in. -/
def State.ptpInput (s : State) (source : Option Int) : State :=
  match source with
  | some e => if s.flag RING_NODE_ROOT && s.get TIME_CFG_SRC == 1 then (s.servoInput e).noteUpstream.upstreamValid else s
  | none => s

/-- R465: the end of a servo window. The servo pauses during an activation (R220), and its terms are frozen in HOLDOVER. -/
def execServoWindowEnd (source : Option Int) (s : State) : Host.Outcome State Fault Refusal :=
  .next (
    let s := s.ptpInput source
    let sum := s.time.errSum
    let num := s.time.errNum
    let s := { s with time := { s.time with errSum := 0, errNum := 0 } }
    if num = 0 ∨ s.boot.frozen ∨ ¬ s.flag PWR_POL_CTRL_SERVO ∨ s.get TIME_STATUS_LOCK = 3 then s
    else s.servoStep (divRoundAway sum num))

end Sys2Proof.Machine
end

