-- ==== Sys2Proof/Machine/Net.lean ====
section
/-! DEFINITION. Ethernet ports (R235-R248): links and speeds, PAUSE, port states, transmission and reception. -/

namespace Sys2Proof.Machine

open Sys2Proof.Machine.Reg

/-- The endpoint of Ethernet port `n` (R147). -/
def epEth (n : Nat) : Nat := 0x400 + n

/-- The state of a port (R244): 0 DISABLED, 1 DOWN, 2 UP, 3 HOLD, 4 REDIRECT, 5 PAUSED, 6 DRAINING, 7 LULL. -/
def State.ethState (s : State) (n : Nat) : Nat := s.get (NET_PORT_STATUS_STATE n)

/-- The state of a port changed, with its private source (R414). -/
def State.setEthState (s : State) (n st : Nat) : State :=
  if s.ethState n = st then s else (s.put (NET_PORT_STATUS_STATE n) st).pendPrivate 8 n

/-! ### Speed and guard bands (R236, R238, R239) -/

/-- The speed of a port in Mb/s by its `SPEED` code. -/
def speedMbps (code : Nat) : Nat := if code = 1 then 10 else if code = 2 then 100 else 1000

/-- R238: `GUARD` of every class of the port's gate list at a speed. -/
def State.setGuards (s : State) (n code : Nat) : State :=
  let g := (s.get (NET_PORT_CFG_MAX_FRAME n) + 20) * 8000 / speedMbps code
  s.each (List.range 8) (fun s k => s.put (SCH_GCL_GUARD (3 + n) k) g)

/-- R239: a RUNNING or PENDING list with a class whose window is shorter than its guard. -/
def State.guardTooLong (s : State) (n : Nat) : Bool :=
  let st := s.get (SCH_GCL_STATUS_STATE (3 + n))
  let l := if st = 2 then s.opeList (3 + n) else s.admList (3 + n)
  (st == 1 || st == 2) && !(List.range 8).all (fun k => windowOk k (s.get (SCH_GCL_GUARD (3 + n) k)) l)

/-- R239: the port's gate list goes to IDLE with all gates open. -/
def State.gclIdle (s : State) (g : Nat) : State :=
  ((s.setGcl g {}).put (SCH_GCL_STATUS_STATE g) 0).put (SCH_GCL_STATUS_GATES g) 255

/-! ### Enabling and disabling (R244) -/

/-- R244, R245: `EN` written 0: the port drains, its endpoint is withdrawn and its loans return `ETH_LOAN_RETURNED`. -/
def State.ethDisable (s : State) (n : Nat) : State :=
  let s := s.put (NET_PORT_CFG_EN n) 0
  if s.ethState n = 0 ∨ s.ethState n = 6 then s
  else
    let s := (s.setEthState n 6).withdraw (epEth n)
    (s.dlv.work.filter (fun w => w.ep == epEth n && w.opcode == 0x50)).foldl (fun s w => s.failWork w 0xC0 0 0) s

/-- R244: `EN` written 1: a DISABLED port is DOWN and its endpoint is announced. -/
def State.ethEnable (s : State) (n : Nat) : State :=
  let s := s.put (NET_PORT_CFG_EN n) 1
  if s.ethState n = 0 then ((s.setEthState n 1).announce (epEth n) 3).resendOwn (epEth n) else s

/-- R431: a fault of port `n` recorded, with its STOP. -/
def State.ethRecord (s : State) (n src : Nat) : State :=
  let stop := s.stops src
  let s := s.record src
  if stop then s.ethDisable n else s

/-- R248: `NET_PORTn_CFG` written. -/
def State.writeEthCfg (s : State) (n v : Nat) : State :=
  let m := v % 2 ^ 14
  let cur := s.get (NET_PORT_CFG_MAX_FRAME n)
  if m < 64 ∨ 9216 < m ∨ (m ≠ cur ∧ (s.ethState n ≠ 0 ∨ s.get (SCH_GCL_STATUS_STATE (3 + n)) ≠ 0)) then s.raise NET_ERR
  else
    let s := ((s.put (NET_PORT_CFG_PAUSE_TX_EN n) (v / 2 ^ 30)).put (NET_PORT_CFG_PAUSE_RX_EN n) (v / 2 ^ 29)).put
      (NET_PORT_CFG_TS_APPEND n) (v / 2 ^ 28)
    let s := ((s.put (NET_PORT_CFG_PTP_TRAP n) (v / 2 ^ 27)).put (NET_PORT_CFG_DEF_CLASS n) (v / 2 ^ 24)).put
      (NET_PORT_CFG_MAX_FRAME n) m
    let s := if m = cur then s else s.setGuards n (max 1 (s.get (NET_PORT_STATUS_SPEED n)))
    if v.testBit 31 then s.ethEnable n else if s.flag (NET_PORT_CFG_EN n) then s.ethDisable n else s

/-- R244: `NET_PORTn_CFG` written with `EN` = 1. -/
def execEthPortEnable (port : Fin 16) (val : Word) (s : State) : Host.Outcome State Fault Refusal :=
  .next (if s.isUp dNET then s.writeEthCfg port (val.toNat ||| 2 ^ 31) else s)

/-- R244: `NET_PORTn_CFG` written with `EN` = 0. -/
def execEthPortDisable (port : Fin 16) (val : Word) (s : State) : Host.Outcome State Fault Refusal :=
  .next (if s.isUp dNET then s.writeEthCfg port (val.toNat % 2 ^ 31) else s)

/-- R244: a draining port whose queue is empty and whose withdrawal every node has answered is DISABLED. One that has been
enabled again meanwhile starts anew. -/
def execEthDrainDone (port : Fin 16) (s : State) : Host.Outcome State Fault Refusal :=
  .next (
    let n := port.val
    if s.ethState n = 6 ∧ s.withdrawn (epEth n) ∧ s.dlv.work.all (fun w => w.ep != epEth n) ∧ (s.eth n).tx = none then
      let s := ((s.setEthState n 0).endWithdraw (epEth n)).setFlap (epEth n) none
      let s := (s.setEth n { s.eth n with waiting := [], pausePend := false }).showPools
      if s.flag (NET_PORT_CFG_EN n) then s.ethEnable n else s
    else s)

/-! ### Links (R236, R135) -/

/-- R127, R246: a frame in progress is torn. -/
def State.ethTear (s : State) (n : Nat) : State :=
  match (s.eth n).tx with
  | none => s
  | some (src, sq, wsn) =>
    let s := s.setEth n { s.eth n with tx := none, pausePend := false }
    match s.work? src sq wsn with
    | some w => s.tearWork w
    | none => s

/-- R135, R244: PCS link lost. -/
def State.ethLinkLost (s : State) (n : Nat) : State :=
  if ¬ s.flag (NET_PORT_STATUS_LINK n) then s
  else
    let s := ((s.put (NET_PORT_STATUS_LINK n) 0).put (NET_PORT_STATUS_SPEED n) 0).inc (NET_PORT_CNT_DOWN n)
    let s := s.ethTear n
    let st := s.ethState n
    let s := if st = 2 ∨ st = 5 then (s.setEthState n 3).setFlap (epEth n) (some .hold)
      else match SMap.find s.dlv.flaps (epEth n) with
        | some .holdStable => s.setFlap (epEth n) (some .hold)
        | some .redirectStable => s.setFlap (epEth n) (some .redirect)
        | none => if st = 6 then s.setFlap (epEth n) (some .hold) else s
        | _ => s
    let s := s.setEth n { s.eth n with pauseSent := false }
    s.ethRecord n (112 + n)

/-- R135, R236, R239: PCS link up at a speed: the stability period of a down port starts. -/
def State.ethLinkUp (s : State) (n code : Nat) : State :=
  let s := ((s.put (NET_PORT_STATUS_LINK n) 1).put (NET_PORT_STATUS_SPEED n) code).put (SCH_OUT_LINK_RATE_MBPS (13 + n))
    (speedMbps code)
  let s := s.setGuards n code
  let s := s.epLinkReturn (epEth n)
  let s := if s.guardTooLong n then (s.gclIdle (3 + n)).ethRecord n (96 + n) else s
  s.pauseUpdate n

/-- R236: a QSGMII link loses synchronisation, and its four ports their PCS link. -/
def execQsgmiiSyncLoss (link : Fin 4) (s : State) : Host.Outcome State Fault Refusal :=
  .next (if s.isUp dNET then
      let s := if (s.get NET_QS_STATUS).testBit link.val then s.pendPrivate 8 (32 + link.val) else s
      (s.dropBits NET_QS_STATUS (1 <<< link.val)).each ((List.range 4).map (fun i => 4 * link.val + i)) State.ethLinkLost
    else s)

/-- R235, R236: the in-band control word of a port: link, full duplex and speed (0 10, 1 100, 2 1,000 Mb/s). A new speed counts
as a loss followed at once by a return. -/
def execQsgmiiControlWord (port : Fin 16) (link full : Bool) (speed : Fin 3) (s : State) : Host.Outcome State Fault Refusal :=
  .next (
    let n := port.val
    if ¬ s.isUp dNET then s
    else
      let s := s.riseBit NET_QS_STATUS (n / 4) 8 (32 + n / 4)
      if ¬ (link ∧ full) then s.ethLinkLost n
      else if s.flag (NET_PORT_STATUS_LINK n) ∧ s.get (NET_PORT_STATUS_SPEED n) = speed.val + 1 then s
      else (s.ethLinkLost n).ethLinkUp n (speed.val + 1))

/-- R244: the PCS link of a DOWN port has been up for 2 ms. -/
def execEthLinkUpTimer (port : Fin 16) (s : State) : Host.Outcome State Fault Refusal :=
  .next (if s.isUp dNET ∧ s.ethState port = 1 ∧ s.flag (NET_PORT_STATUS_LINK port) then s.setEthState port 2 else s)

/-! ### PAUSE (R243) -/

/-- R243: a PAUSE received while the port obeys them. A frame in progress completes first (R246). -/
def State.pauseReceived (s : State) (n quanta : Nat) : State :=
  let s := s.inc (NET_PORT_CNT_PAUSE_RX n)
  if ¬ s.flag (NET_PORT_CFG_PAUSE_RX_EN n) then s
  else if quanta = 0 then
    (if s.ethState n = 5 then s.setEthState n 2 else s.setEth n { s.eth n with pausePend := false })
  else if s.ethState n = 2 then
    (if (s.eth n).tx.isSome then s.setEth n { s.eth n with pausePend := true } else s.setEthState n 5)
  else s

/-- R243: a received PAUSE. -/
def execEthPauseReceive (port : Fin 16) (quanta : BitVec 16) (s : State) : Host.Outcome State Fault Refusal :=
  .next (if s.isUp dNET ∧ s.flag (NET_PORT_STATUS_LINK port) ∧ s.ethState port ≠ 0 then s.pauseReceived port quanta.toNat else s)

/-- R243, R244: the pause time of a port ends. -/
def execEthPauseExpiry (port : Fin 16) (s : State) : Host.Outcome State Fault Refusal :=
  .next (if s.isUp dNET then
      (if s.ethState port = 5 then s.setEthState port 2 else s.setEth port { s.eth port with pausePend := false })
    else s)

/-- R243: half of the pause time sent has passed: PAUSE is repeated while the cause persists, and quanta 0 is sent once it has
cleared. -/
def execEthPauseRepeat (port : Fin 16) (s : State) : Host.Outcome State Fault Refusal :=
  .next (if s.isUp dNET ∧ (s.eth port).pauseSent ∧ s.pauseCause port then s.sendPause port (s.get (NET_PORT_PAUSE port))
    else if s.isUp dNET then s.pauseUpdate port else s)

/-! ### Transmission (R237, R126) -/

/-- R237: the frame as the MAC sends it: padded to 60 bytes, with its FCS. -/
def macFrame (bs : List Byte) : List Byte :=
  let p := bs ++ List.replicate (60 - bs.length) 0
  p ++ leBytes 4 (crc32 p)

/-- The port starts frames: UP, or DRAINING with its link up, no frame in progress, and emission not paused. -/
def State.ethReady (s : State) (n : Nat) : Bool :=
  (s.ethState n == 2 || (s.ethState n == 6 && s.flag (NET_PORT_STATUS_LINK n) && !s.epDown (epEth n)))
  && !s.epDown (epEth n) && (s.eth n).tx.isNone && !(s.eth n).pausePend && s.emits dNET

/-- R197, R237: the wire bytes of a `SEND`'s frame. -/
def State.ethWire (s : State) (n : Nat) (w : Work) : Nat := max 60 w.data.length + 4 + s.get (SCH_OUT_LINK_OVERHEAD (13 + n))

/-- R197, R238: gate, guard band and Weir of the frame's class let it start. -/
def State.ethOpen (s : State) (n : Nat) (w : Work) : Bool :=
  s.gateOpen (13 + n) w.cls && (s.refreshOut (13 + n)).weirOpen (13 + n) w.cls (s.ethWire n w)

/-- R247: the transmit PHY latency of the port's speed, in 2^-8 ns. -/
def State.phyTx (s : State) (n : Nat) : Nat :=
  64 * (if s.get (NET_PORT_STATUS_SPEED n) = 1 then s.get (NET_PORT_LAT10_TX_LAT n)
        else if s.get (NET_PORT_STATUS_SPEED n) = 2 then s.get (NET_PORT_LAT100_TX_LAT n)
        else s.get (NET_PORT_LAT1000_TX_LAT n))

/-- R222, R247: the transmit timestamp of a frame that starts now, laid out as R242 gives. -/
def State.ethStampTx (s : State) (n : Nat) : Nat :=
  wrapInt 64 (((s.ringRawAt s.count : Int) + s.latency true (3 + n) + (s.phyTx n : Int)) / 64)

/-- The frame carries an IEEE 802.1Q tag. -/
def hasVlan (bs : List Byte) : Bool := beAt bs 12 2 == 0x8100

/-- R241: a PTP frame: EtherType 0x88F7, or IPv4 UDP to port 319 or 320, after at most one VLAN tag. -/
def isPtp (bs : List Byte) : Bool :=
  let e := if hasVlan bs then 16 else 12
  let ihl := beAt bs (e + 2) 1 % 16 * 4
  let port := beAt bs (e + 2 + ihl + 2) 2
  beAt bs e 2 == 0x88F7 || (beAt bs e 2 == 0x0800 && beAt bs (e + 2 + 9) 1 == 17 && (port == 319 || port == 320))

/-- R97, R126, R237: the head `SEND` of an Ethernet port starts where the scheduler lets it (R238), or waits for its ring time. -/
def State.ethStart (s : State) (n : Nat) : State :=
  if ¬ s.ethReady n then s
  else match (s.sendReady (epEth n)).filter (fun w => s.ethOpen n w) with
    | none => s
    | some w =>
      let s := (s.refreshOut (13 + n)).spend (13 + n) w.cls (s.ethWire n w)
      let s := s.takeWork w
      let ts := s.ethStampTx n
      let s := (s.startEmission w).setEth n { s.eth n with tx := some (w.src, w.sq, w.wsn), txTs := ts }
      let s := s.emit (.unitFrame (epEth n) (macFrame w.data))
      if isPtp w.data then s.emit (.txStamp n ts) else s

/-- R126, R246: the last bit of the FCS leaves the PCS: the item commits. -/
def execEthTxCommit (port : Fin 16) (s : State) : Host.Outcome State Fault Refusal :=
  .next (
    let n := port.val
    match (s.eth n).tx with
    | none => s
    | some (src, sq, wsn) =>
      let pend := (s.eth n).pausePend
      let s := (s.setEth n { s.eth n with tx := none, pausePend := false }).inc (NET_PORT_CNT_TX n)
      let s := if pend ∧ s.ethState n = 2 then s.setEthState n 5 else s
      match s.work? src sq wsn with
      | some w => s.commit w w.length 0
      | none => s)

/-! ### Reception (R240-R242) -/

/-- R243: an IEEE 802.3 PAUSE frame. -/
def isPause (bs : List Byte) : Bool := beAt bs 0 6 == 0x0180C2000001 && beAt bs 12 2 == 0x8808 && beAt bs 14 2 == 1

/-- R241: the class of a received frame. -/
def State.ethClass (s : State) (n : Nat) (bs : List Byte) : Nat :=
  if hasVlan bs then s.get (NET_PORT_PCP_MAP n) / 2 ^ (3 * (beAt bs 14 1 / 32)) % 8 else s.get (NET_PORT_CFG_DEF_CLASS n)

/-- R247: the receive PHY latency of the port's speed, in 2^-8 ns. -/
def State.phyRx (s : State) (n : Nat) : Nat :=
  64 * (if s.get (NET_PORT_STATUS_SPEED n) = 1 then s.get (NET_PORT_LAT10_RX_LAT n)
        else if s.get (NET_PORT_STATUS_SPEED n) = 2 then s.get (NET_PORT_LAT100_RX_LAT n)
        else s.get (NET_PORT_LAT1000_RX_LAT n))

/-- R222, R242, R247: the receive timestamp now: bits [63:2] ns, bits [1:0] quarter nanoseconds. -/
def State.ethStamp (s : State) (n : Nat) : Nat :=
  wrapInt 64 (((s.ringRawAt s.count : Int) - s.latency false (3 + n) - (s.phyRx n : Int)) / 64)

/-- R242: what a filled loan holds, and its `DETAIL`. -/
def State.ethLoan (s : State) (n : Nat) (bs : List Byte) (ts : Nat) : List Byte × Nat :=
  let app := s.flag (NET_PORT_CFG_TS_APPEND n)
  (bs ++ (if app then leBytes 8 ts else []), b2n (hasVlan bs) + 2 * b2n app)

/-- R241, R242: waiting frames fill the loans posted, in order. A loan that is too small for its frame is given back. -/
def State.ethFill : Nat → State → Nat → State
  | 0, s, _ => s
  | fuel + 1, s, n =>
    match (s.eth n).waiting, s.loansOf (epEth n) with
    | f :: rest, w :: _ =>
      let (data, detail) := s.ethLoan n f.bytes f.ts
      if w.length < data.length then State.ethFill fuel (s.failWork w 0xC0 0 0) n
      else State.ethFill fuel ((s.setEth n { s.eth n with waiting := rest }).returnData w data detail) n
    | _, _ => s

/-- R241: frames and loans of a port meet; the cells of frames that have gone are released. -/
def State.ethDeliver (s : State) (n : Nat) : State :=
  ((s.ethFill ((s.eth n).waiting.length + (s.loansOf (epEth n)).length) n).showPools).pauseUpdate n

/-- R189, R241: a received frame is stored in the Polder, or counted where it finds no cell. -/
def State.ethStore (s : State) (n : Nat) (bytes : List Byte) : State :=
  let inp := 13 + n
  let k := s.ethClass n bytes
  let res := s.reservedFor inp k bytes.length
  let shared := cellsOf bytes.length - res
  if ¬ s.isUp dPLD ∨ s.inputBarred inp shared [] ∨ s.shrFree < shared then (s.spill inp PLD_CNT_NOROOM).inc (NET_PORT_CNT_DROP n)
  else
    let ts := s.ethStamp n
    let (s, cells) := s.fillCells bytes
    let x := s.eth n
    ((s.setEth n { x with waiting := x.waiting ++ [{ bytes, ts, cls := k, cells, res }] }).inc (PLD_IN_CNT_FRAMES inp)).ethDeliver n

/-- R29, R240, R241: a frame received at a port, FCS included. One that the partner sends in spite of PAUSE while NET or PLD is threatened
is counted and discarded. -/
def execEthFrameReceive (port : Fin 16) (bytes : List Byte) (s : State) : Host.Outcome State Fault Refusal :=
  .next (
    let n := port.val
    let st := s.ethState n
    if ¬ s.isUp dNET ∨ s.isDraining dNET ∨ ¬ s.flag (NET_PORT_STATUS_LINK n) ∨ st = 0 ∨ st = 1 ∨ st = 7 then s
    else if bytes.length < 64 then s.inc (NET_PORT_CNT_RUNT n)
    else if s.get (NET_PORT_CFG_MAX_FRAME n) < bytes.length then s.inc (NET_PORT_CNT_LONG n)
    else if crc32 (bytes.take (bytes.length - 4)) ≠ leAt bytes (bytes.length - 4) 4 then
      (s.inc (NET_PORT_CNT_FCS n)).spill (13 + n) PLD_CNT_CRC
    else
      let s := s.inc (NET_PORT_CNT_RX n)
      if isPause bytes then s.pauseReceived n (beAt bytes 16 2)
      else if s.isThreat dPLD ∨ (s.isThreat dNET ∧ (s.eth n).pauseSent) then s.inc (NET_PORT_CNT_DROP n)
      else if s.flag (NET_PORT_CFG_PTP_TRAP n) ∧ isPtp bytes then (s.emit (.toProcessor 8 n bytes (s.ethStamp n))).pendPrivate 8 (16 + n)
      else s.ethStore n bytes)

end Sys2Proof.Machine
end

