-- ==== Sys2Proof/Machine/Can.lean ====
section
/-! DEFINITION. CAN FD controllers (R296-R319): configuration and its checks, states, message memory, sending with cancel and
duplicate identifiers, receiving. -/

namespace Sys2Proof.Machine

open Sys2Proof.Machine.Reg

/-! ### Message memory (R301-R306) -/

/-- Word `k` of message object `j`. -/
def canObj (n c j k : Nat) : Field := FC_CAN_MM n c (20 * j + k)

/-- Word `k` of filter element `i`. -/
def canFilt (n c i k : Nat) : Field := FC_CAN_MM n c (2560 + 3 * i + k)

/-- Word `k` of slot `i` of the delivery queue. -/
def canSlot (n c i k : Nat) : Field := FC_CAN_MM n c (3328 + 20 * i + k)

/-- `DIR` and `DELIVER` of an object. -/
def State.objDir (s : State) (n c j : Nat) : Nat := bitsOf (s.get (canObj n c j 1)) 30 2
def State.objDeliver (s : State) (n c j : Nat) : Nat := bitsOf (s.get (canObj n c j 1)) 18 2

/-- R301: the bits of an object's second word that software writes. -/
def objCfgMask : Nat := 0xC7000000 + 0xF0000 + 0x1FFF

/-- R301: the data length of a `DLC`. -/
def dlcLength (fdf : Bool) (dlc : Nat) : Nat :=
  if dlc ≤ 8 then dlc else if ¬ fdf then 8 else [12, 16, 20, 24, 32, 48, 64].getD (dlc - 9) 64

/-- R301: the words of an object that hold `len` bytes of `data` from its byte 16; bytes beyond keep old values. -/
def State.putData (s : State) (n c j : Nat) (data : List Byte) : State :=
  s.each (List.range (ceilDiv data.length 4)) (fun s k =>
    let old := leBytes 4 (s.get (canObj n c j (4 + k)))
    let new := (data.drop (4 * k)).take 4
    s.put (canObj n c j (4 + k)) (leNat (new ++ old.drop new.length)))

/-- R301: `TIME` of an object. -/
def State.putTime (s : State) (n c j time : Nat) : State :=
  (s.put (canObj n c j 2) (4 * time)).put (canObj n c j 3) (4 * time / 2 ^ 32)

/-- R301: the object's word with `NEW`, which mirrors `RXNEWm`. -/
def State.readMm (s : State) (n c w : Nat) : Nat :=
  let v := s.get (FC_CAN_MM n c w)
  if w < 2560 ∧ w % 20 = 1 then
    clearBit v 15 + 2 ^ 15 * b2n ((s.get (FC_CAN_RXNEW n c (w / 20 / 32))).testBit (w / 20 % 32))
  else v

/-- R302: a read of bytes 4-7 of an object captures the whole object for the requester. -/
def State.captureObj (s : State) (req : Requester) (n c j : Nat) : State :=
  let words := (List.range 20).map (fun k => s.readMm n c (20 * j + k))
  { s with canCap := s.canCap.filter (fun e => e.1 != req) ++ [(req, 8 * n + c, j, words)] }

/-- R302: what a requester reads at word `w` of the message memory. -/
def State.mmSeen (s : State) (req : Requester) (n c w : Nat) : Nat :=
  match s.canCap.find? (fun e => e.1 == req) with
  | some (_, g, j, words) => if g = 8 * n + c ∧ w / 20 = j ∧ w < 2560 ∧ w % 20 ≠ 1 then words.getD (w % 20) 0 else s.readMm n c w
  | none => s.readMm n c w

/-- R302: bytes 4-7 of object `j` read by a requester. -/
def execCanObjectCaptureRead (req : Requester) (n : Fin 6) (c : Fin 8) (j : Fin 128) (s : State) :
    Host.Outcome State Fault Refusal :=
  .next (if s.accessible (dFC n) then s.captureObj req n c j else s)

/-! ### Configuration checks (R297, R300, R303, R305) -/

/-- R297: the nominal bit timing. -/
def State.nbtOk (s : State) (n c : Nat) : Bool :=
  let brp := s.get (FC_CAN_NBT_NBRP n c)
  let t1 := s.get (FC_CAN_NBT_NTSEG1 n c)
  let t2 := s.get (FC_CAN_NBT_NTSEG2 n c)
  let sjw := s.get (FC_CAN_NBT_NSJW n c)
  1 ≤ brp && 2 ≤ t1 && 1 ≤ t2 && 1 ≤ sjw && sjw ≤ t2 && 8 ≤ 1 + t1 + t2
  && 80 ≤ brp * (1 + t1 + t2) && brp * (1 + t1 + t2) ≤ 8000

/-- R297: the data bit timing. -/
def State.dbtOk (s : State) (n c : Nat) : Bool :=
  let brp := s.get (FC_CAN_DBT_DBRP n c)
  let t1 := s.get (FC_CAN_DBT_DTSEG1 n c)
  let t2 := s.get (FC_CAN_DBT_DTSEG2 n c)
  let sjw := s.get (FC_CAN_DBT_DSJW n c)
  let nominal := s.get (FC_CAN_NBT_NBRP n c) * (1 + s.get (FC_CAN_NBT_NTSEG1 n c) + s.get (FC_CAN_NBT_NTSEG2 n c))
  !s.flag (FC_CAN_CFG_FD_EN n c) || (1 ≤ brp && 1 ≤ t1 && 1 ≤ t2 && 1 ≤ sjw && sjw ≤ t2 && 5 ≤ 1 + t1 + t2
    && 10 ≤ brp * (1 + t1 + t2) && brp * (1 + t1 + t2) ≤ nominal)

/-- R304, R305: a filter element. -/
def State.filtOk (s : State) (n c i : Nat) : Bool :=
  let w0 := s.get (canFilt n c i 0)
  let w1 := s.get (canFilt n c i 1)
  let w2 := s.get (canFilt n c i 2)
  let id1 := bitsOf w0 0 29
  let id2 := bitsOf w1 0 29
  let type := bitsOf w0 30 2
  bitsOf w1 29 3 == 0 && bitsOf w2 7 24 == 0 && (w0.testBit 29 || (id1 < 2048 && id2 < 2048))
  && !(type == 1 && id2 < id1) && (type == 0 || w2.testBit 31 || s.objDir n c (bitsOf w2 0 7) == 2)

/-- R303: a message object. -/
def State.objOk (s : State) (n c j : Nat) : Bool :=
  let w := s.get (canObj n c j 1)
  bitsOf w 30 2 != 3 && bitsOf w 18 2 != 3 && bitsOf w 24 3 == 0 && bitsOf w 16 2 == 0 && bitsOf w 0 13 == 0

/-- R300: the first check that fails and the filter element that it names, or 0. -/
def State.canCheck (s : State) (n c : Nat) : Nat × Nat :=
  if ¬ s.nbtOk n c then (1, 0)
  else if ¬ s.dbtOk n c then (2, 0)
  else if s.flag (FC_CAN_CFG_TDC_EN n c) ∧ s.get (FC_CAN_TDC n c) = 0 then (3, 0)
  else match (List.range (s.get (FC_CAN_CFG_FILT_COUNT n c))).find? (fun i => !s.filtOk n c i) with
    | some i => (4, i)
    | none =>
      if (List.range 128).any (fun j => !s.objOk n c j) then (5, 0)
      else if s.flag (FC_CAN_CFG_NOMATCH_STORE n c) ∧ s.objDir n c (s.get (FC_CAN_CFG_NOMATCH_OBJ n c)) ≠ 2 then (6, 0)
      else if s.flag (FC_CAN_CFG_RESTRICTED n c) ∧ s.flag (FC_CAN_CFG_TX_EN n c) then (7, 0)
      else if s.get (FC_CAN_WAKE n c) = 0 then (8, 0)
      else (0, 0)

/-! ### States (R299) -/

/-- The state of a controller: 0 CONFIG, 1 INTEGRATING, 2 ERROR_ACTIVE, 3 ERROR_PASSIVE, 4 BUS_OFF, 5 RECOVERING, 6 SLEEP. -/
def State.canState (s : State) (n c : Nat) : Nat := s.get (FC_CAN_STATUS_STATE n c)

/-- A controller changes state. -/
def State.setCanState (s : State) (n c st : Nat) : State := s.put (FC_CAN_STATUS_STATE n c) st

/-- R318, R414: bit `k` of `FLAGS` set, with its private source. -/
def State.canFlag (s : State) (n c : Nat) (f : Field) (k : Nat) : State := s.riseBit f 0 (n + 1) (128 + 8 * c + k)

/-- R313: the opcodes of a controller's endpoint. -/
def State.canOps (s : State) (n c : Nat) : Nat :=
  if s.flag (FC_CAN_CFG_EN n c) then s.get (FC_CAN_CFG_TX_EN n c) + 2 * s.get (FC_CAN_CFG_RX_EN n c) else 0

/-- R312: the outstanding loans of a controller are given back with `RESULT` 0, the one being filled among them. -/
def State.canReturnLoans (s : State) (n c : Nat) : State :=
  let s := s.setCan n c { s.can n c with loan := [] }
  (s.loansOf (epCan n c)).foldl (fun s w => s.failWork w 0x70 0 0) s

/-- R299: the controller in CONFIG: items in its objects stay PENDING and wait for their resend, and loans return. -/
def State.canOff (s : State) (n c : Nat) : State :=
  let s := (s.can n c).objs.foldl (fun s e => match s.workAt e.2.key with
    | some w => s.tearWork w
    | none => s) s
  let s := (s.canReturnLoans n c).canConfig n c
  (s.setFlap (epCan n c) none).reannounce (epCan n c) 0

/-- R431: an error source of a controller recorded, with its STOP. -/
def State.canRecord (s : State) (n c src : Nat) (info : List Nat) : State :=
  let stop := s.stops src
  let s := s.recordWith src info
  if stop then s.canOff n c else s

/-- R299: a controller enters BUS_OFF: a down port (R135). `AUTO_RECOVER` starts the recovery at once. -/
def State.canBusOff (s : State) (n c : Nat) : State :=
  let s := (s.setCanState n c (if s.flag (FC_CAN_CFG_AUTO_RECOVER n c) then 5 else 4)).inc (FC_CAN_CNT_BUS_OFF n c)
  let s := (s.canFlag n c (FC_CAN_FLAGS_BUS_OFF n c) 4).setFlap (epCan n c) (some .hold)
  s.canRecord n c (368 + 8 * n + c) [8 * n + c]

/-- R299: the error counters take their new values, and the state follows them. `TEC` and `REC` show at most 255. -/
def State.setErrors (s : State) (n c tec rec : Nat) : State :=
  let s := (s.put (FC_CAN_STATUS_TEC n c) (min 255 tec)).put (FC_CAN_STATUS_REC n c) (min 255 rec)
  let st := s.canState n c
  if st ≠ 2 ∧ st ≠ 3 then s
  else if 255 < tec then s.canBusOff n c
  else if st = 2 ∧ (127 < tec ∨ 127 < rec) then
    ((s.setCanState n c 3).canFlag n c (FC_CAN_FLAGS_ERR_PASSIVE n c) 3).canRecord n c (464 + 8 * n + c) [8 * n + c]
  else if st = 3 ∧ tec ≤ 127 ∧ rec ≤ 127 then s.setCanState n c 2
  else s

/-- R299, R312, R313: `FCn_CANc_CFG` written. Fields other than `EN`, `TX_EN` and `RX_EN` change only while `EN` = 0. -/
def State.writeCanCfg (s : State) (n c v : Nat) : State :=
  let en0 := s.flag (FC_CAN_CFG_EN n c)
  let count := bitsOf v 0 9
  let restricted0 := s.flag (FC_CAN_CFG_RESTRICTED n c)
  let other : Bool := s.get (FC_CAN_CFG_RESTRICTED n c) != bitsOf v 28 1 || s.get (FC_CAN_CFG_FD_EN n c) != bitsOf v 27 1
    || s.get (FC_CAN_CFG_TDC_EN n c) != bitsOf v 26 1 || s.get (FC_CAN_CFG_AUTO_RECOVER n c) != bitsOf v 25 1
    || s.get (FC_CAN_CFG_NOMATCH_STORE n c) != bitsOf v 24 1 || s.get (FC_CAN_CFG_NOMATCH_OBJ n c) != bitsOf v 16 7
    || s.get (FC_CAN_CFG_FILT_COUNT n c) != count
  if count = 0 ∨ 256 < count ∨ (en0 ∧ other)
      ∨ (restricted0 ∧ v.testBit 28 ∧ v.testBit 30 ∧ ¬ s.flag (FC_CAN_CFG_TX_EN n c))
      ∨ (en0 ∧ ¬ v.testBit 31 ∧ (s.can n c).objs ≠ []) then s.raise (FC_CAN_ERR_CFG_REJECT n c)
  else
    let rxOff := s.flag (FC_CAN_CFG_RX_EN n c) ∧ ¬ v.testBit 29
    let s := ((s.put (FC_CAN_CFG_TX_EN n c) (v / 2 ^ 30)).put (FC_CAN_CFG_RX_EN n c) (v / 2 ^ 29)).put
      (FC_CAN_CFG_RESTRICTED n c) (v / 2 ^ 28)
    let s := ((s.put (FC_CAN_CFG_FD_EN n c) (v / 2 ^ 27)).put (FC_CAN_CFG_TDC_EN n c) (v / 2 ^ 26)).put
      (FC_CAN_CFG_AUTO_RECOVER n c) (v / 2 ^ 25)
    let s := ((s.put (FC_CAN_CFG_NOMATCH_STORE n c) (v / 2 ^ 24)).put (FC_CAN_CFG_NOMATCH_OBJ n c) (v / 2 ^ 16)).put
      (FC_CAN_CFG_FILT_COUNT n c) count
    if ¬ en0 ∧ v.testBit 31 then
      (match s.canCheck n c with
       | (0, _) =>
         let s := (s.put (FC_CAN_CFG_EN n c) 1).setCanState n c (if s.node.twinRole = .standby then 0 else 1)
         s.reannounce (epCan n c) (s.canOps n c)
       | (code, i) =>
         ((s.raise (FC_CAN_ERR_CFG_REJECT n c)).put (FC_CAN_ERR_CFG_CODE n c) code).put (FC_CAN_ERR_FILT_IDX n c) i)
    else if en0 ∧ ¬ v.testBit 31 then s.canOff n c
    else
      let s := if rxOff then s.canReturnLoans n c else s
      s.reannounce (epCan n c) (s.canOps n c)

/-- R300: `CFG` written with `EN` = 1. -/
def execCanEnable (n : Fin 6) (c : Fin 8) (val : Word) (s : State) : Host.Outcome State Fault Refusal :=
  .next (if s.isUp (dFC n) then s.writeCanCfg n c (val.toNat ||| 2 ^ 31) else s)

/-- R299: `CFG` written with `EN` = 0. -/
def execCanDisable (n : Fin 6) (c : Fin 8) (val : Word) (s : State) : Host.Outcome State Fault Refusal :=
  .next (if s.isUp (dFC n) then s.writeCanCfg n c (val.toNat % 2 ^ 31) else s)

/-- R299: 11 consecutive recessive bits: integration ends. In restricted operation the wait after an error ends (R314). -/
def execCanIntegrated (n : Fin 6) (c : Fin 8) (s : State) : Host.Outcome State Fault Refusal :=
  .next (if ¬ s.isUp (dFC n) then s
    else
      let s := s.setCan n c { s.can n c with waiting := false }
      if s.canState n c = 1 then (s.setCanState n c 2).setErrors n c (s.get (FC_CAN_STATUS_TEC n c)) (s.get (FC_CAN_STATUS_REC n c))
      else s)

/-- R299: recovery from bus-off starts. -/
def State.canRecover (s : State) (n c : Nat) : State := if s.canState n c = 4 then s.setCanState n c 5 else s

/-- R299: `CMD.RECOVER`. -/
def execCanRecover (n : Fin 6) (c : Fin 8) (s : State) : Host.Outcome State Fault Refusal :=
  .next (if s.isUp (dFC n) then s.canRecover n c else s)

/-- R299, R135: 128 occurrences of 11 recessive bits: the counters are 0 and the link has returned. -/
def execCanRecoveryDone (n : Fin 6) (c : Fin 8) (s : State) : Host.Outcome State Fault Refusal :=
  .next (if s.isUp (dFC n) ∧ s.canState n c = 5 then
      let s := ((s.setCanState n c 2).put (FC_CAN_STATUS_TEC n c) 0).put (FC_CAN_STATUS_REC n c) 0
      s.epLinkReturn (epCan n c)
    else s)

/-- R315, R317: `CMD.SLEEP`: an idle controller sleeps; with an object requested or the bus not idle it is refused. -/
def State.canSleep (s : State) (n c : Nat) (busIdle : Bool) : State :=
  if s.canState n c ≠ 2 ∧ s.canState n c ≠ 3 then s
  else if busIdle ∧ ¬ (s.can n c).objs.any (fun e => e.2.requested) then s.setCanState n c 6
  else s.canFlag n c (FC_CAN_FLAGS_SLEEP_REFUSED n c) 6

/-- R315: `CMD.SLEEP`. -/
def execCanSleep (n : Fin 6) (c : Fin 8) (busIdle : Bool) (s : State) : Host.Outcome State Fault Refusal :=
  .next (if s.isUp (dFC n) then s.canSleep n c busIdle else s)

/-- R299, R315: a sleeping controller wakes and integrates. -/
def State.canWake (s : State) (n c cause : Nat) : State :=
  if s.canState n c = 6 then
    ((s.setCanState n c 1).put (FC_CAN_STATUS_WAKE_CAUSE n c) cause).canFlag n c (FC_CAN_FLAGS_WOKEN n c) 5
  else s

/-- R315: `CMD.WAKE`. -/
def execCanWake (n : Fin 6) (c : Fin 8) (s : State) : Host.Outcome State Fault Refusal :=
  .next (if s.isUp (dFC n) then s.canWake n c 2 else s)

/-- R315: `RXD` dominant for `WAKE_FILT`. -/
def execCanBusWake (n : Fin 6) (c : Fin 8) (s : State) : Host.Outcome State Fault Refusal :=
  .next (if s.isUp (dFC n) then s.canWake n c 1 else s)

/-! ### Sending (R307-R309) -/

/-- R307: an item's frame is well-formed for the controller. -/
def State.canFormatOk (s : State) (n c : Nat) (w : Work) : Bool :=
  let w0 := leAt w.data 0 4
  let b4 := leAt w.data 4 1
  let b5 := leAt w.data 5 1
  let rtr := w0.testBit 30
  let fdf := b5.testBit 7
  let brs := b5.testBit 6
  let len := if rtr then 0 else dlcLength fdf (b5 % 16)
  !b4.testBit 7 && s.objDir n c (b4 % 128) == 1 && !w0.testBit 29 && bitsOf b5 4 2 == 0 && leAt w.data 6 2 == 0
  && (w0.testBit 31 || bitsOf w0 0 29 < 2048) && !(rtr && fdf) && !(brs && !fdf)
  && !(fdf && !s.flag (FC_CAN_CFG_FD_EN n c)) && w.data.length == 8 + len

/-- R308: the next item that reaches the controller: the oldest of those that are the first of their stream, no item of which is in
an object, and whose object is free or which fail the check. -/
def State.canNextItem (s : State) (n c : Nat) : Option Work :=
  let objs := (s.can n c).objs
  let waiting := s.dlv.work.filter (fun w => w.ep == epCan n c && w.opcode == 0x10 && !w.taken)
  waiting.find? (fun w =>
    (match waiting.find? (fun v => v.src == w.src && v.sq == w.sq) with
     | some v => v.wsn == w.wsn
     | none => false)
    && s.dlv.work.all (fun v => !(v.ep == w.ep && v.src == w.src && v.sq == w.sq && v.taken && v.opcode == 0x10))
    && (!s.canFormatOk n c w || objs.all (fun e => e.1 != leAt w.data 4 1 % 128)))

/-- Bit `j` of `TXPENDm`. -/
def State.setTxPend (s : State) (n c j : Nat) (on : Bool) : State :=
  if on then s.orBits (FC_CAN_TXPEND n c (j / 32)) (1 <<< (j % 32)) else s.dropBits (FC_CAN_TXPEND n c (j / 32)) (1 <<< (j % 32))

/-- R307, R308: an item reaches the controller: checked, and loaded into its send object. A sleeping controller wakes (R315). -/
def State.canLoad (s : State) (n c : Nat) : State :=
  match s.canNextItem n c with
  | none => s
  | some w =>
    if ¬ s.canFormatOk n c w then s.failWork w 0x20 0 0x05
    else
      let j := leAt w.data 4 1 % 128
      let b5 := leAt w.data 5 1
      let w1 := s.get (canObj n c j 1)
      let s := s.put (canObj n c j 0) (leAt w.data 0 4)
      let s := s.put (canObj n c j 1) (clearBits w1 0x38F00000 + bitsOf b5 6 2 * 2 ^ 28 + b5 % 16 * 2 ^ 20)
      let s := s.putData n c j (w.data.drop 8)
      let late := if w.atHead then w.late else w.param != 0 && w.param < s.ringTime
      let s := s.updWork w (fun x => { x with taken := true, atHead := true, late := late })
      let x := s.can n c
      let o : CanObj := { key := (w.src, w.sq, w.wsn), requested := decide (w.param ≤ s.ringTime) }
      ((s.setCan n c { x with objs := SMap.insert x.objs j o }).setTxPend n c j true).canWake n c 3

/-- R308: an item is loaded into a free send object. -/
def execCanObjectLoad (n : Fin 6) (c : Fin 8) (s : State) : Host.Outcome State Fault Refusal :=
  .next (if s.isUp (dFC n) ∧ s.canState n c ≠ 0 then s.canLoad n c else s)

/-- An object changed, or emptied. -/
def State.updObj (s : State) (n c j : Nat) (o : Option CanObj) : State :=
  let x := s.can n c
  match o with
  | some y => s.setCan n c { x with objs := SMap.insert x.objs j y }
  | none => (s.setCan n c { x with objs := SMap.erase x.objs j }).setTxPend n c j false

/-- R308: ring time reaches `PARAM` of a loaded object. -/
def execCanObjectRequest (n : Fin 6) (c : Fin 8) (j : Fin 128) (s : State) : Host.Outcome State Fault Refusal :=
  .next (
    match SMap.find (s.can n c).objs j with
    | some o =>
      (match s.workAt o.key with
       | some w => if s.isUp (dFC n) ∧ w.param ≤ s.ringTime then s.updObj n c j (some { o with requested := true }) else s
       | none => s)
    | none => s)

/-- R308: the arbitration field as sent on the bus, as a number: the lower wins. -/
def arbField (w0 : Nat) : Nat :=
  let id := bitsOf w0 0 29
  let rtr := bitsOf w0 30 1
  if w0.testBit 31 then id / 2 ^ 18 * 2 ^ 21 + 2 ^ 20 + 2 ^ 19 + id % 2 ^ 18 * 2 + rtr else id % 2 ^ 11 * 2 ^ 21 + rtr * 2 ^ 20

/-- The least pair of a list. -/
def leastBy (f : Nat → Nat) : List Nat → Option Nat
  | [] => none
  | a :: rest =>
    match leastBy f rest with
    | none => some a
    | some b => if f a ≤ f b then some a else some b

/-- R49, R54, R318: the controller drives its pin; in SERVICE, to the end of the frame in progress at entry. -/
def State.canDrives (s : State) (n c : Nat) : Bool :=
  s.canPins n == 3 || (s.mode == mSERVICE && s.ownsPins && !s.sharedZ && !s.node.canDone.contains (8 * n + c))

/-- R318: in SERVICE an attempt that has ended was the last. -/
def State.attemptOver (s : State) (n c : Nat) : State :=
  if s.mode = mSERVICE then { s with node := { s.node with canDone := s.node.canDone ++ [8 * n + c] } } else s

/-- R54, R299, R314: the controller may have a frame on its pin. -/
def State.canSends (s : State) (n c : Nat) : Bool :=
  s.isUp (dFC n) && s.canDrives n c && (s.canState n c == 2 || s.canState n c == 3) && !s.epDown (epCan n c)
    && !s.flag (FC_CAN_CFG_RESTRICTED n c)

/-- R54, R308: the object whose frame is being attempted on a pin that this node drives: the first in arbitration order, lower
object number first, of those that contend. `newer` names objects requested after the attempt's start of frame. -/
def State.canAttempt (s : State) (n c : Nat) (newer : List (Fin 128)) : Option Nat :=
  let x := s.can n c
  if ¬ s.canSends n c then none
  else
    let l := (List.range 128).filter (fun j => newer.all (fun k => k.val != j) && (x.retx == some j ||
      (match SMap.find x.objs j with
       | some o => o.requested && o.held.isNone
       | none => false)))
    leastBy (fun j => arbField (s.get (canObj n c j 0))) l

/-- The object being attempted carries the retransmission of a committed frame (R308). -/
def State.isRetx (s : State) (n c j : Nat) : Bool :=
  (s.can n c).retx == some j && (SMap.find (s.can n c).objs j).isNone

/-- R126, R308: PENDING before the start-of-frame bit of an item's first attempt. -/
def State.canBegin (s : State) (n c j : Nat) : State :=
  match SMap.find (s.can n c).objs j with
  | some o =>
    (match s.workAt o.key with
     | some w => if w.started then s else s.startEmission w
     | none => s)
  | none => s

/-- The data bytes of an object's frame. -/
def State.objData (s : State) (n c j : Nat) : List Byte :=
  let w0 := s.get (canObj n c j 0)
  let w1 := s.get (canObj n c j 1)
  let len := if w0.testBit 30 then 0 else dlcLength (w1.testBit 29) (bitsOf w1 20 4)
  (wordBytes ((List.range 16).map (fun k => s.get (canObj n c j (4 + k))))).take len

/-- R309: a pending cancel of object `j` ends with a result. -/
def State.endCancel (s : State) (n c j res : Nat) : State :=
  let x := s.can n c
  if x.late = some j then (s.setCan n c { x with late := none }).put (FC_CAN_CANCEL_RESULT_RESULT n c) res else s

/-- R309: the item of object `j` is cancelled: `REMOTE_ERROR` with `CAN_CANCELLED`. -/
def State.cancelObj (s : State) (n c j : Nat) : State :=
  match SMap.find (s.can n c).objs j with
  | some o =>
    let s := (s.updObj n c j none).inc (FC_CAN_CNT_CANCEL n c)
    (match s.workAt o.key with
     | some w => s.failWork w 0x20 0 0x04
     | none => s)
  | none => s

/-- R308: an attempt loses arbitration. -/
def execCanArbLost (n : Fin 6) (c : Fin 8) (newer : List (Fin 128)) (s : State) : Host.Outcome State Fault Refusal :=
  .next (
    match s.canAttempt n c newer with
    | none => s
    | some j =>
      let s := ((s.attemptOver n c).canBegin n c j).inc (FC_CAN_CNT_ARB_LOST n c)
      match SMap.find (s.can n c).objs j with
      | some o => s.updObj n c j (some { o with dups := 0 })
      | none => s)

/-- R298: the loop delay measured in a frame, in 1/16 clock, with the controller's calibration entry: a delay above 1,500 ns is held
there. A BLANK block gives an entry of 0 (R81). -/
def State.measureLoop (s : State) (n c loop : Nat) : State :=
  let g := 8 * n + c
  let entry := if s.boot.calBlank then 0
    else sext 16 (s.calWord (64 + g / 2) / 2 ^ (16 * (g % 2)))
  let d := (max 0 ((loop : Int) + entry)).toNat
  (s.put (FC_CAN_TDC_STATUS_DELAY n c) (min 1920 d)).put (FC_CAN_TDC_STATUS_SAT n c) (b2n (decide (1920 < d)))

/-- R298: the loop delay measured by the frame of object `j`: an FD frame with `BRS` = 1, while `TDC_EN` = 1. -/
def State.frameLoop (s : State) (n c j loop : Nat) : State :=
  let w1 := s.get (canObj n c j 1)
  if s.flag (FC_CAN_CFG_TDC_EN n c) ∧ w1.testBit 29 ∧ w1.testBit 28 then s.measureLoop n c loop else s

/-- Ring time in nanoseconds `ago` counts before now. -/
def State.timeAgo (s : State) (ago : Nat) : Nat := s.ringRawAt (s.count - ago) / 256

/-- R308, R126: the frame of object `j` has been sent: its item commits; a retransmission outside the ledger ends. -/
def State.txSent (s : State) (n c j : Nat) : State :=
  if s.isRetx n c j then s.setCan n c { s.can n c with retx := none }
  else
    let s := s.canBegin n c j
    match SMap.find (s.can n c).objs j with
    | none => s
    | some o =>
      let late := (s.can n c).late == some j
      let s := ((s.updObj n c j none).endCancel n c j 2).inc (FC_CAN_CNT_TX n c)
      let s := s.put (canObj n c j 1) (clearBit (s.get (canObj n c j 1)) 13)
      let s := s.setCan n c { s.can n c with last := some (j, late) }
      match s.workAt o.key with
      | some w => s.commit w w.length 0
      | none => s

/-- R308, R126: the sixth bit of end-of-frame passes without error: the item commits. A retransmission outside the ledger ends.
`loop` is the loop delay measured, `ago` the counts since the start-of-frame bit. -/
def execCanTxCommit (n : Fin 6) (c : Fin 8) (newer : List (Fin 128)) (loop ago : Nat) (s : State) :
    Host.Outcome State Fault Refusal :=
  .next (
    match s.canAttempt n c newer with
    | none => s
    | some j =>
      let w0 := s.get (canObj n c j 0)
      let w1 := s.get (canObj n c j 1)
      let s := (s.attemptOver n c).emit (.canFrame (8 * n + c) w0 (bitsOf w1 20 10) (s.objData n c j))
      let s := (s.frameLoop n c j loop).putTime n c j (s.timeAgo ago)
      let s := s.setErrors n c (s.get (FC_CAN_STATUS_TEC n c) - 1) (s.get (FC_CAN_STATUS_REC n c))
      s.txSent n c j)

/-- R310: the second consecutive DUP event of an object: it is held out of arbitration for 1-16 frame times, a free value. -/
def State.dupHold (s : State) (n c j : Nat) (o : CanObj) : State :=
  let k := 1 + Config.freeValue s.fresh % 16
  let s := s.draw.updObj n c j (some { o with dups := 0, held := some k })
  let s := s.put (canObj n c j 1) (setBit (s.get (canObj n c j 1)) 13)
  let s := ((s.canFlag n c (FC_CAN_FLAGS_DUP_ID n c) 0).put (FC_CAN_DUP_LAST_OBJ n c) j).incSat (FC_CAN_DUP_LAST_COUNT n c)
  (s.inc (FC_CAN_CNT_DUP_HOLD n c)).canRecord n c (416 + 8 * n + c) [8 * n + c, j, bitsOf (s.get (canObj n c j 0)) 0 29]

/-- R308: an error in the seventh bit of end-of-frame: the frame just committed is retransmitted outside the ledger, unless its
cancel was late (R309) or the error leads to bus-off (R317). -/
def State.eofError (s : State) (n c tec rec : Nat) : State :=
  let x := s.can n c
  let s := s.setCan n c { x with last := none }
  match x.last with
  | some (j, false) =>
    if 255 < tec then s.setErrors n c tec rec
    else
      let s := s.setCan n c { s.can n c with retx := some j }
      ((s.inc (FC_CAN_CNT_EOF_RETX n c)).canFlag n c (FC_CAN_FLAGS_EOF_RETX n c) 2).setErrors n c tec rec
  | _ => s.setErrors n c tec rec

/-- An error counted, with its code in `LEC` and its error frame. -/
def State.noteError (s : State) (n c lec : Nat) : State :=
  ((s.inc (FC_CAN_CNT_ERR n c)).put (FC_CAN_STATUS_LEC n c) lec).emit (.canError (8 * n + c))

/-- R308-R310: the attempt of object `j` ends in an error: a DUP event is counted or holds the object, and a late cancel ends. -/
def State.attemptFailed (s : State) (n c j : Nat) (dup : Bool) : State :=
  match SMap.find (s.can n c).objs j with
  | none => s
  | some o =>
    let s := if ¬ dup then s.updObj n c j (some { o with dups := 0 })
      else if o.dups = 0 then s.updObj n c j (some { o with dups := 1 })
      else s.dupHold n c j o
    if (s.can n c).late = some j then (s.cancelObj n c j).endCancel n c j 1 else s

/-- R308-R310: an attempt ends in an error. `lec` is the error, `dTec` and `dRec` what ISO 11898-1:2015 adds to the counters, `dup` a
bit error in the data field after arbitration was won, `at'` where the attempt ended. -/
def execCanTxError (n : Fin 6) (c : Fin 8) (newer : List (Fin 128)) (lec : Fin 7) (dTec dRec : Fin 9) (dup : Bool)
    (at' : AttemptEnd) (s : State) : Host.Outcome State Fault Refusal :=
  .next (
    let tec := s.get (FC_CAN_STATUS_TEC n c) + dTec
    let rec' := s.get (FC_CAN_STATUS_REC n c) + dRec
    if at'.eof7 then (if s.isUp (dFC n) ∧ (s.can n c).last.isSome then (s.noteError n c lec).eofError n c tec rec' else s)
    else match s.canAttempt n c newer with
      | none => s
      | some j =>
        let s := if at'.loop = 0 then s else s.frameLoop n c j at'.loop
        let s := s.attemptOver n c
        (((s.canBegin n c j).noteError n c lec).attemptFailed n c j dup).setErrors n c tec rec')

/-- R310: the hold of an object ends. -/
def execCanDupHoldEnd (n : Fin 6) (c : Fin 8) (j : Fin 128) (s : State) : Host.Outcome State Fault Refusal :=
  .next (
    match SMap.find (s.can n c).objs j with
    | some o => if o.held.isSome then s.updObj n c j (some { o with held := none, dups := 0 }) else s
    | none => s)

/-- R311: the frame time of object `j` in clocks of 12.5 ns. -/
def State.frameClocks (s : State) (n c j : Nat) : Nat :=
  let w0 := s.get (canObj n c j 0)
  let w1 := s.get (canObj n c j 1)
  let d := (s.objData n c j).length
  let tn := s.get (FC_CAN_NBT_NBRP n c) * (1 + s.get (FC_CAN_NBT_NTSEG1 n c) + s.get (FC_CAN_NBT_NTSEG2 n c))
  let td := if w1.testBit 28 then s.get (FC_CAN_DBT_DBRP n c) * (1 + s.get (FC_CAN_DBT_DTSEG1 n c) + s.get (FC_CAN_DBT_DTSEG2 n c))
    else tn
  if w1.testBit 29 then (if w0.testBit 31 then 48 else 29) * tn + (if d ≤ 16 then 33 + 8 * d else 38 + 8 * d) * td
  else ((if w0.testBit 31 then 67 else 47) + 8 * d) * tn

/-- R309, R317: `TX_CANCEL` written. `won` says that an attempt of the object has won arbitration. -/
def State.txCancel (s : State) (n c j : Nat) (won : Bool) : State :=
  if s.get (FC_CAN_CANCEL_RESULT_RESULT n c) = 3 then s.raise (FC_CAN_ERR_CFG_REJECT n c)
  else
    let s := (s.put (FC_CAN_CANCEL_RESULT_OBJ n c) j).put (FC_CAN_CANCEL_RESULT_LATE n c) 0
    match SMap.find (s.can n c).objs j with
    | none => s.put (FC_CAN_CANCEL_RESULT_RESULT n c) 0
    | some o =>
      if won ∧ o.requested ∧ o.held = none ∧ s.canSends n c then
        let s := s.canBegin n c j
        let s := s.setCan n c { s.can n c with late := some j }
        (s.put (FC_CAN_CANCEL_RESULT_LATE n c) 1).put (FC_CAN_CANCEL_RESULT_RESULT n c) 3
      else (s.cancelObj n c j).put (FC_CAN_CANCEL_RESULT_RESULT n c) 1

/-- R309: a write of `TX_CANCEL`. -/
def execCanTxCancel (n : Fin 6) (c : Fin 8) (j : Fin 128) (won : Bool) (s : State) : Host.Outcome State Fault Refusal :=
  .next (if s.isUp (dFC n) then s.txCancel n c j won else s)

/-! ### Receiving (R306, R312-R314) -/

/-- R304, R306: filter element `i` matches an identifier word. -/
def State.filtMatches (s : State) (n c i w0 : Nat) : Bool :=
  let f0 := s.get (canFilt n c i 0)
  let id := bitsOf w0 0 29
  let id1 := bitsOf f0 0 29
  let id2 := bitsOf (s.get (canFilt n c i 1)) 0 29
  f0.testBit 29 == w0.testBit 31 &&
  (match bitsOf f0 30 2 with
   | 1 => decide (id1 ≤ id) && decide (id ≤ id2)
   | 2 => id == id1 || id == id2
   | 3 => id &&& id2 == id1 &&& id2
   | _ => false)

/-- R306: where the filter list sends a frame: its object, or none when it is rejected. -/
def State.canFilter (s : State) (n c w0 : Nat) : Option Nat :=
  match (List.range (s.get (FC_CAN_CFG_FILT_COUNT n c))).find? (fun i => s.filtMatches n c i w0) with
  | some i =>
    let w2 := s.get (canFilt n c i 2)
    if w2.testBit 31 then none else some (bitsOf w2 0 7)
  | none => if s.flag (FC_CAN_CFG_NOMATCH_STORE n c) then some (s.get (FC_CAN_CFG_NOMATCH_OBJ n c)) else none

/-- R312: a loan that holds records completes. -/
def State.canCloseLoan (s : State) (n c : Nat) : State :=
  match s.loansOf (epCan n c) with
  | w :: _ =>
    let x := s.can n c
    (s.setCan n c { x with loan := [] }).returnData w x.loan 0
  | [] => s

/-- R312: records leave the delivery queue: those for the router at once, those for loans as loans stand. -/
def State.canDrain : Nat → State → Nat → Nat → State
  | 0, s, _, _ => s
  | fuel + 1, s, n, c =>
    let x := s.can n c
    let loans := s.loansOf (epCan n c)
    match x.queue.find? (fun e => e.2.1 == 2 || !loans.isEmpty) with
    | none => s
    | some (slot, deliver, bs) =>
      let rest := x.queue.filter (fun e => e.1 != slot)
      if deliver = 2 then
        let len := dlcLength ((leAt bs 13 1).testBit 7) (leAt bs 13 1 % 16)
        let data := if (leAt bs 8 4).testBit 30 then [] else (bs.drop 16).take len
        let s := s.toRouter (.can (epCan n c) (leAt bs 8 4) data)
        State.canDrain fuel (s.setCan n c { x with queue := rest }) n c
      else match loans with
        | [] => s
        | w :: _ =>
          if w.length < x.loan.length + bs.length ∧ x.loan ≠ [] then State.canDrain fuel (s.canCloseLoan n c) n c
          else State.canDrain fuel (s.setCan n c { x with queue := rest, loan := x.loan ++ bs }) n c

/-- R28, R33, R312: the delivery queue is drained, unless FCn or PLD is threatened or the cluster drains. -/
def State.canDeliver (s : State) (n c : Nat) : State :=
  if s.fcForced n ∨ s.isDraining (dFC n) then s else s.canDrain ((s.can n c).queue.length + (s.loansOf (epCan n c)).length) n c

/-- R312: a receive record. -/
def canRecordBytes (time w0 obj flags lost : Nat) (data : List Byte) : List Byte :=
  leBytes 8 (4 * time) ++ leBytes 4 w0 ++ leBytes 1 obj ++ leBytes 1 flags ++ leBytes 2 lost ++ data
  ++ List.replicate (ceilDiv data.length 8 * 8 - data.length) 0

/-- R312: a record enters the delivery queue, and its slot of the message memory, or is lost where 32 records wait. -/
def State.canEnqueue (s : State) (n c deliver : Nat) (time w0 obj flags : Nat) (data : List Byte) : State :=
  let x := s.can n c
  if x.queue.length < 32 then
    let bs := canRecordBytes time w0 obj flags x.lost data
    let s := s.each (List.range (bs.length / 4)) (fun s k => s.put (canSlot n c x.slot k) (leAt bs (4 * k) 4))
    s.setCan n c { x with queue := x.queue ++ [(x.slot, deliver, bs)], slot := (x.slot + 1) % 32, lost := 0 }
  else
    ((s.setCan n c { x with lost := min 65535 (x.lost + 1) }).inc (FC_CAN_CNT_RX_LOST n c)).canFlag n c
      (FC_CAN_FLAGS_RX_LOST n c) 1

/-- R299: what a validated frame does to `REC`: one less; above 127 a value between 119 and 127, which the standard leaves open.
In restricted operation the counters stay (R314). -/
def State.recAfterFrame (s : State) (n c : Nat) : State :=
  let r := s.get (FC_CAN_STATUS_REC n c)
  if s.flag (FC_CAN_CFG_RESTRICTED n c) then s
  else if r ≤ 127 then s.setErrors n c (s.get (FC_CAN_STATUS_TEC n c)) (r - 1)
  else s.draw.setErrors n c (s.get (FC_CAN_STATUS_TEC n c)) (119 + Config.freeValue s.fresh % 9)

/-- R301, R312: a received frame is stored in object `j`, and queued for delivery where the object delivers. -/
def State.canStore (s : State) (n c j w0 : Nat) (fdf brs esi : Bool) (dlc : Nat) (bytes : List Byte) (ago : Nat) : State :=
  let data := if w0.testBit 30 then [] else bytes.take (dlcLength fdf dlc)
  let flags := 2 ^ 7 * b2n fdf + 2 ^ 6 * b2n brs + 2 ^ 5 * b2n esi + dlc
  let time := s.timeAgo ago
  let new := (s.get (FC_CAN_RXNEW n c (j / 32))).testBit (j % 32)
  let cfg := s.get (canObj n c j 1) &&& objCfgMask
  let s := (s.put (canObj n c j 0) w0).put (canObj n c j 1)
    (cfg + 2 ^ 29 * b2n fdf + 2 ^ 28 * b2n brs + 2 ^ 27 * b2n esi + 2 ^ 20 * dlc + 2 ^ 14 * b2n new)
  let s := ((s.putTime n c j time).putData n c j data).inc (FC_CAN_CNT_RX n c)
  let f := FC_CAN_RXNEW n c (j / 32)
  let s := s.putLevel f (setBit (s.get f) (j % 32))
  let deliver := s.objDeliver n c j
  if deliver = 0 then s else (s.canEnqueue n c deliver time w0 j flags data).canDeliver n c

/-- R299, R314: the controller takes part in bus traffic. -/
def State.canOnBus (s : State) (n c : Nat) : Bool := s.isUp (dFC n) && (s.canState n c == 2 || s.canState n c == 3)

/-- R301, R306, R312: a validated received frame is filtered, stored in its object and queued for delivery. -/
def execCanFrameReceive (n : Fin 6) (c : Fin 8) (ident : Word) (fdf brs esi : Bool) (dlc : Fin 16) (bytes : List Byte) (ago : Nat)
    (s : State) : Host.Outcome State Fault Refusal :=
  .next (
    if ¬ s.canOnBus n c ∨ (s.can n c).waiting ∨ (fdf ∧ ¬ s.flag (FC_CAN_CFG_FD_EN n c)) then s
    else
      let s := s.recAfterFrame n c
      match s.canFilter n c (clearBit ident.toNat 29) with
      | none => s.inc (FC_CAN_CNT_RX_REJECT n c)
      | some j => s.canStore n c j (clearBit ident.toNat 29) fdf brs esi dlc bytes ago)

/-- R312: `RX_HOLD` after its first record a loan completes. -/
def execCanLoanHoldExpiry (n : Fin 6) (c : Fin 8) (s : State) : Host.Outcome State Fault Refusal :=
  .next (if (s.can n c).loan ≠ [] then (s.canCloseLoan n c).canDeliver n c else s)

/-- R299, R314: an error that the controller detects while it does not transmit: its error frame and its counters. In restricted operation it waits for 11 recessive
bits, and the counters stay. -/
def execCanRxError (n : Fin 6) (c : Fin 8) (lec : Fin 7) (dTec dRec : Fin 9) (s : State) : Host.Outcome State Fault Refusal :=
  .next (
    if ¬ s.canOnBus n c then s
    else
      if s.flag (FC_CAN_CFG_RESTRICTED n c) then
        ((s.inc (FC_CAN_CNT_ERR n c)).put (FC_CAN_STATUS_LEC n c) lec).setCan n c { s.can n c with waiting := true }
      else (s.noteError n c lec).setErrors n c (s.get (FC_CAN_STATUS_TEC n c) + dTec) (s.get (FC_CAN_STATUS_REC n c) + dRec))

/-! ### Message memory errors (R300) -/

/-- R300: an uncorrectable error in a filter element: the controller returns to CONFIG. -/
def State.canFilterEcc (s : State) (n c : Nat) : State := (s.recordWith (320 + 8 * n + c) [8 * n + c]).canOff n c

/-- R300, R301, R496: `FCn_CANc_MM` written: the configuration parts change while `EN` = 0. Other parts ignore it. -/
def State.writeMm (s : State) (n c w v : Nat) : State :=
  let isObj : Bool := decide (w < 2560) && w % 20 == 1
  let isFilt : Bool := decide (2560 ≤ w) && decide (w < 3328)
  if ¬ isObj ∧ ¬ isFilt then s
  else
    let old := s.get (FC_CAN_MM n c w)
    let new := if isFilt then v else clearBits old objCfgMask + (v &&& objCfgMask)
    if s.flag (FC_CAN_CFG_EN n c) ∧ new ≠ old then s.raise (FC_CAN_ERR_CFG_REJECT n c) else s.put (FC_CAN_MM n c w) new

end Sys2Proof.Machine
end

