-- ==== Sys2Proof/Machine/Dike.lean ====
section
/-! DEFINITION. The Dike channels (R443-R457): samples and the limiter, the trip conditions, the channel states, presence, power good
and the endpoints that a channel feeds, configuration, and the start of a channel at a take-over. -/

namespace Sys2Proof.Machine

open Sys2Proof.Machine.Reg

/-- Channel `c` beyond its registers. -/
def State.dk (s : State) (c : Nat) : DikeCh := SMap.getD s.dike c {}

/-- Channel `c` beyond its registers, replaced. -/
def State.setDk (s : State) (c : Nat) (x : DikeCh) : State := { s with dike := SMap.insert s.dike c x }

/-- The state of channel `c` (R457): 0 DISABLED, 1 EMPTY, 2 DEBOUNCE, 3 INRUSH, 4 SETTLE, 5 ON, 6 BACKOFF, 7 LOCKOUT. -/
def State.dkState (s : State) (c : Nat) : Nat := s.get (DIKE_CH_STATUS_STATE c)

/-- R454: the loops run and drive, except in OFF and in TWIN-STANDBY. -/
def State.dikeRuns (s : State) : Bool := !s.node.off && s.mode != mSTANDBY

/-- R453: a Dike wake source. -/
def State.dikeWake (s : State) : State := if s.flag RING_LULL_CFG_DIKE_WAKE then s.wake 4 5 else s

/-- R452, R456: a write or a command refused. -/
def State.dikeReject (s : State) : State := s.put DIKE_ERR 1

/-! ### Pins (R443-R449) -/

/-- `DKc_CTRL` (group 4, index `c`): 0 below 50 mV, 1 under the loop. -/
def State.dikeCtrl (s : State) (c : Nat) (on : Bool) : State :=
  let x := s.dk c
  if x.drive = on then s
  else
    let s := s.setDk c { x with drive := on }
    if s.dikeRuns ∧ ¬ s.sharedZ then s.emit (.pin 4 c (b2n on)) else s

/-- `DKc_PG` (group 4, index 16 + `c`) at the level that shows PG (R457). -/
def State.dikePgPin (s : State) (c : Nat) : State :=
  if s.dikeRuns ∧ ¬ s.sharedZ then s.emit (.pin 4 (16 + c) (b2n (s.flag (DIKE_CH_STATUS_PG c) != s.flag (DIKE_CH_CFG_PG_POL c)))) else s

/-- R451: the announced endpoints that channel `c` feeds. -/
def State.dikeBound (s : State) (c : Nat) : List Nat :=
  (s.ring.ownEps.map (fun e => e.1)).filter fun ep => 0x100 ≤ ep && (List.range 4).any fun k =>
    s.flag (DIKE_CH_BIND_EN c k) && s.get (DIKE_CH_BIND_FIRST c k) ≤ ep && ep ≤ s.get (DIKE_CH_BIND_LAST c k)

/-- R451, R455: the endpoints of channel `c` follow `EN` and PG, and its level source 656 + c becomes pending when it rises. -/
def State.dikeShow (s : State) (c : Nat) : State :=
  if s.flag (DIKE_CH_CFG_EN c) ∧ ¬ s.flag (DIKE_CH_STATUS_PG c) then
    (s.dikeBound c).foldl State.epLinkLost (s.pendShared (656 + c))
  else (s.dikeBound c).foldl State.epLinkReturn s

/-- R449: PG of channel `c` asserted or withheld. -/
def State.dikePg (s : State) (c : Nat) (pg : Bool) : State :=
  if s.flag (DIKE_CH_STATUS_PG c) = pg then s
  else
    let s := s.put (DIKE_CH_STATUS_PG c) (b2n pg)
    let s := if pg then s.orBits DIKE_PG (1 <<< c) else s.dropBits DIKE_PG (1 <<< c)
    (s.dikePgPin c).dikeShow c

/-- `DKc_CTRL` below 50 mV and PG withheld, in a state. -/
def State.dikeOff (s : State) (c st : Nat) : State :=
  (((s.put (DIKE_CH_STATUS_STATE c) st).put (DIKE_CH_STATUS_LIMITING c) 0).dikeCtrl c false).dikePg c false

/-- The curve counters at 0 (R446). -/
def State.dikeZero (s : State) (c : Nat) : State := s.setDk c { s.dk c with curve := List.replicate 8 0 }

/-- R449: an attempt starts: INRUSH with `DKc_CTRL` at 0 V and the curve counters at 0. -/
def State.dikeAttempt (s : State) (c : Nat) : State :=
  let s := ((s.dikeOff c 3).dikeZero c)
  (s.setDk c { s.dk c with peak := 0, short := false }).dikeCtrl c true

/-- R449: a channel in EMPTY goes on to DEBOUNCE where a module is present. -/
def State.dikeEmpty (s : State) (c : Nat) : State :=
  let s := s.dikeOff c 1
  if s.flag (DIKE_CH_STATUS_PRES c) then s.put (DIKE_CH_STATUS_STATE c) 2 else s

/-! ### Samples (R444-R447) -/

/-- R444: the corrected code of a raw sample of channel `c`. -/
def State.dikeCode (s : State) (c raw : Nat) : Nat :=
  let blank : Bool := s.boot.calBlank
  let gain : Nat := if blank then 65536 else s.calWord (0x58 + 2 * c)
  let offset : Int := if blank then 0 else sext 16 (s.calWord (0x59 + 2 * c) % 65536)
  (clampInt 0 4095 (divRoundAway ((raw * gain : Nat) + offset * 4096) 65536)).toNat

/-- R445: the limit in force. -/
def State.dikeLimit (s : State) (c : Nat) : Nat :=
  if s.dkState c = 5 then s.get (DIKE_CH_LIMIT_ILIM c) else s.get (DIKE_CH_LIMIT_ILIM_INRUSH c)

/-- R447: a trip of channel `c`. -/
def State.dikeTrip (s : State) (c cause point : Nat) : State :=
  let peak := (s.dk c).peak
  let s := s.dikeOff c (s.dkState c)
  let s := ((s.inc (DIKE_CH_CNT_TRIP c)).put (DIKE_CH_FLAGS_TRIP c) 1).put (DIKE_CH_CAUSE_PEAK c) peak
  let s := (s.put (DIKE_CH_CAUSE_CAUSE c) cause).put (DIKE_CH_CAUSE_POINT c) point
  let s := (s.recordWith (560 + c) [c, cause, peak]).dikeZero c
  let n := s.get (DIKE_CH_STATUS_RETRIES c) + 1
  let s := s.put (DIKE_CH_STATUS_RETRIES c) n
  if n ≤ s.get (DIKE_CH_CFG_RETRY_MAX c) then (s.put (DIKE_CH_STATUS_STATE c) 6).dikeWake
  else ((s.put (DIKE_CH_STATUS_STATE c) 7).put (DIKE_CH_FLAGS_LOCKOUT c) 1).record (576 + c) |>.dikeWake

/-- R446: the counters of the curve points after a sample, and the first point that trips. -/
def State.dikeCurve (s : State) (c code : Nat) : List Nat × Option Nat :=
  let old := (s.dk c).curve
  let next := (List.range 8).map fun k =>
    let t := s.get (DIKE_CH_CURVE_T c k)
    let v := old.getD k 0
    if t = 0 then 0 else if s.get (DIKE_CH_CURVE_I c k) ≤ code then v + 1 else v - 1
  (next, (List.range 8).find? fun k =>
    let t := s.get (DIKE_CH_CURVE_T c k)
    t != 0 && decide (t * 1000 ≤ next.getD k 0))

/-- R446, R447: a trip of channel `c` for time, in ON with the limiter engaged, or in INRUSH and SETTLE. -/
def State.dikeTimeTrip (s : State) (c : Nat) : State :=
  if s.dkState c = 5 ∧ s.flag (DIKE_CH_STATUS_LIMITING c) then s.dikeTrip c 2 0
  else if s.dkState c = 3 ∨ s.dkState c = 4 then s.dikeTrip c 3 0
  else s

/-- R446: a trip condition of time can hold: ON with the limiter engaged, INRUSH or SETTLE. -/
def State.dikeTimed (s : State) (c : Nat) : Bool :=
  (s.dkState c == 5 && s.flag (DIKE_CH_STATUS_LIMITING c)) || s.dkState c == 3 || s.dkState c == 4

/-- R445, R446: one sample of channel `c`: `CURRENT`, the trip conditions in their order, and the limiter. `late` says that a
condition of time holds at this sample. -/
def State.dikeSample (s : State) (c raw : Nat) (late : Bool) : State :=
  let code := s.dikeCode c raw
  let s := s.put (DIKE_CH_STATUS_CURRENT c) code
  let st := s.dkState c
  if st < 3 ∨ 5 < st then s
  else
    let high : Bool := decide (s.get (DIKE_CH_SC c) ≤ code)
    let both := high && (s.dk c).short
    let (curve, point) := s.dikeCurve c code
    let s := s.setDk c { s.dk c with peak := max (s.dk c).peak code, short := high, curve := curve }
    if both then s.dikeTrip c 1 0
    else if late && s.dikeTimed c then s.dikeTimeTrip c
    else match point with
      | some k => s.dikeTrip c 4 k
      | none =>
        if s.dikeLimit c ≤ code then
          let s := s.put (DIKE_CH_STATUS_LIMITING c) 1
          if st = 4 then (s.put (DIKE_CH_STATUS_STATE c) 3).dikeZero c else s
        else s

/-- The samples of a command, in order. -/
def State.dikeSamples (s : State) (c : Nat) (raws : List (BitVec 12)) : State :=
  if s.dikeRuns then raws.foldl (fun s r => s.dikeSample c r.toNat false) s else s

/-- R445: samples of channel `c`, among them one at or above the limit. -/
def execDikeLimiterEngage (c : Fin 16) (raws : List (BitVec 12)) (s : State) : Host.Outcome State Fault Refusal :=
  .next (s.dikeSamples c.val raws)

/-- R445: the last 10 samples of a command all lie below 15/16 of the limit, as an engaged limiter asks for. -/
def State.dikeReleases (s : State) (c : Nat) (raws : List (BitVec 12)) : Bool :=
  let last := raws.drop (raws.length - 10)
  s.dikeRuns && s.flag (DIKE_CH_STATUS_LIMITING c) && last.length == 10
    && last.all (fun r => decide (16 * s.dikeCode c r.toNat < 15 * s.dikeLimit c))

/-- R445: with `DKc_CTRL` at `CTRL_MAX`, 10 consecutive samples below 15/16 of the limit release the limiter; an inrushing channel
enters SETTLE. -/
def execDikeLimiterRelease (c : Fin 16) (raws : List (BitVec 12)) (s : State) : Host.Outcome State Fault Refusal :=
  .next (
    let t := s.dikeSamples c.val raws
    if t.dikeReleases c.val raws then
      let t := t.put (DIKE_CH_STATUS_LIMITING c) 0
      if t.dkState c.val = 3 then t.put (DIKE_CH_STATUS_STATE c) 4 else t
    else t)

/-- R446, R447: samples of channel `c`. With `timeout` a condition of time holds at the last of them, or now where there is none:
`INRUSH_MS` has passed since the attempt entered INRUSH, or in ON `FAULT_US` with the limiter engaged. A short at that sample
comes before it, and a trip-curve point after it. -/
def execDikeTrip (c : Fin 16) (raws : List (BitVec 12)) (timeout : Bool) (s : State) : Host.Outcome State Fault Refusal :=
  .next (
    if ¬ s.dikeRuns then s
    else
      let t := s.dikeSamples c.val raws.dropLast
      match raws.getLast? with
      | some r => t.dikeSample c.val r.toNat timeout
      | none => if timeout then t.dikeTimeTrip c.val else t)

/-! ### Channel states (R449, R450) -/

/-- R449: `PG_SETTLE_US` passes with the limiter released: ON, PG asserted. -/
def execDikePgSettleExpiry (c : Fin 16) (s : State) : Host.Outcome State Fault Refusal :=
  .next (if s.dikeRuns ∧ s.dkState c.val = 4 ∧ ¬ s.flag (DIKE_CH_STATUS_LIMITING c) then
      (s.put (DIKE_CH_STATUS_STATE c) 5).dikePg c.val true
    else s)

/-- R449: presence held for 100 ms. -/
def execDikeDebounceDone (c : Fin 16) (s : State) : Host.Outcome State Fault Refusal :=
  .next (if s.dikeRuns ∧ s.dkState c.val = 2 then ((s.inc (DIKE_CH_CNT_INSERT c)).dikeAttempt c.val).dikeWake else s)

/-- R447, R449: the back-off time ends. -/
def execDikeBackoffEnd (c : Fin 16) (s : State) : Host.Outcome State Fault Refusal :=
  .next (if s.dikeRuns ∧ s.dkState c.val = 6 then s.dikeAttempt c.val else s)

/-- R447: 60 s in ON without a trip. -/
def execDikeRetryResetTimer (c : Fin 16) (s : State) : Host.Outcome State Fault Refusal :=
  .next (if s.dikeRuns ∧ s.dkState c.val = 5 then s.put (DIKE_CH_STATUS_RETRIES c) 0 else s)

/-- R449, R450: presence of channel `c` as `STATUS.PRES` shows it, and what a change does. -/
def State.dikePres (s : State) (c : Nat) : State :=
  let pres := (s.dk c).pin != s.flag (DIKE_CH_CFG_PRES_POL c)
  if pres = s.flag (DIKE_CH_STATUS_PRES c) then s
  else
    let s := s.put (DIKE_CH_STATUS_PRES c) (b2n pres)
    let st := s.dkState c
    if ¬ s.dikeRuns ∨ ¬ s.flag (DIKE_CH_CFG_PRES_USE c) ∨ st = 0 then s
    else if pres then (if st = 1 then s.put (DIKE_CH_STATUS_STATE c) 2 else s)
    else if st = 1 then s
    else
      let s := if st = 2 then (s.put (DIKE_CH_FLAGS_PRES_BOUNCE c) 1).record (592 + c) else s
      ((s.dikeOff c 1).put (DIKE_CH_STATUS_RETRIES c) 0).dikeWake

/-- R450: `DKc_PRES` changes. -/
def execDikePresChange (c : Fin 16) (level : Bool) (s : State) : Host.Outcome State Fault Refusal :=
  .next ((s.setDk c { s.dk c with pin := level }).dikePres c.val)

/-- R449, R452: `CMD.RESTART`, refused outside BACKOFF and LOCKOUT. -/
def State.dikeRestart (s : State) (c : Nat) : State :=
  if s.dkState c = 6 ∨ s.dkState c = 7 then (s.put (DIKE_CH_STATUS_RETRIES c) 0).dikeAttempt c else s.dikeReject

/-- R449: `DIKE_CHc_CMD` written. -/
def execDikeRestart (c : Fin 16) (val : Word) (s : State) : Host.Outcome State Fault Refusal :=
  .next (if val.toNat.testBit 0 then s.dikeRestart c.val else s)

/-! ### Configuration (R452) -/

/-- R452: the points of the trip curve in use: `I` strictly ascends, `T` strictly descends, and every `I` lies in range. -/
def curveOk (lo hi : Nat) : List (Nat × Nat) → Bool
  | [] => true
  | [p] => lo ≤ p.1 && p.1 < hi
  | p :: q :: rest => lo ≤ p.1 && p.1 < hi && p.1 < q.1 && q.2 < p.2 && curveOk lo hi (q :: rest)

/-- R452: the configuration of channel `c` allows `EN` = 1. -/
def State.dikeOk (s : State) (c : Nat) : Bool :=
  let inr := s.get (DIKE_CH_LIMIT_ILIM_INRUSH c)
  let sc := s.get (DIKE_CH_SC c)
  1 ≤ inr && inr ≤ s.get (DIKE_CH_LIMIT_ILIM c) && s.get (DIKE_CH_LIMIT_ILIM c) < sc
  && 1 ≤ s.get (DIKE_CH_CFG_SLEW c) && 1 ≤ s.get (DIKE_CH_CFG_BACKOFF_MS c) && s.get (DIKE_CH_CFG_BACKOFF_MS c) ≤ 1000
  && s.get (DIKE_CH_TIMER_FAULT_US c) != 0 && s.get (DIKE_CH_TIMER_INRUSH_MS c) != 0 && s.get (DIKE_CH_PG c) != 0
  && 100 ≤ s.get (DIKE_CH_DRIVE c) && s.get (DIKE_CH_DRIVE c) ≤ 1800
  && curveOk inr sc ((((List.range 8).map (fun k => (s.get (DIKE_CH_CURVE_I c k), s.get (DIKE_CH_CURVE_T c k)))).filter
      (fun p => p.2 != 0)))
  && (List.range 4).all (fun k => !s.flag (DIKE_CH_BIND_EN c k) || (0x100 ≤ s.get (DIKE_CH_BIND_FIRST c k)
      && s.get (DIKE_CH_BIND_FIRST c k) ≤ s.get (DIKE_CH_BIND_LAST c k) && s.get (DIKE_CH_BIND_LAST c k) ≤ 0x7FF))

/-- The fields of `DIKE_CHc_CFG` other than `EN` as a write would leave them. -/
def State.dikeCfgFields (s : State) (c v : Nat) : State :=
  let s := ((s.put (DIKE_CH_CFG_PRES_USE c) (v / 2 ^ 30)).put (DIKE_CH_CFG_PRES_POL c) (v / 2 ^ 29)).put (DIKE_CH_CFG_PG_POL c) (v / 2 ^ 28)
  ((s.put (DIKE_CH_CFG_RETRY_MAX c) (v / 2 ^ 24)).put (DIKE_CH_CFG_SLEW c) (v / 65536)).put (DIKE_CH_CFG_BACKOFF_MS c) v

/-- A write leaves the fields of `DIKE_CHc_CFG` other than `EN` as they are (R496). -/
def State.dikeCfgSame (s : State) (c v : Nat) : Bool := (s.dikeCfgFields c v).regs == s.regs

/-- R449: a channel whose `EN` has just been set goes to EMPTY, or starts an attempt without presence. -/
def State.dikeStart (s : State) (c : Nat) : State :=
  let s := (s.put (DIKE_CH_CFG_EN c) 1).dikeShow c
  if s.flag (DIKE_CH_CFG_PRES_USE c) then s.dikeEmpty c else s.dikeAttempt c

/-- R449: `EN` written 0. -/
def State.dikeStop (s : State) (c : Nat) : State :=
  let s := (s.dikeOff c 0).put (DIKE_CH_STATUS_RETRIES c) 0
  (s.put (DIKE_CH_CFG_EN c) 0).dikeShow c

/-- R449, R452, R496: `DIKE_CHc_CFG` written. -/
def State.writeDikeCfg (s : State) (c v : Nat) : State :=
  if s.flag (DIKE_CH_CFG_EN c) then
    if ¬ s.dikeCfgSame c v then s.dikeReject else if v.testBit 31 then s else s.dikeStop c
  else
    let t := s.dikeCfgFields c v
    if v.testBit 31 ∧ ¬ t.dikeOk c then s.dikeReject
    else
      let t := (t.dikePres c).dikePgPin c
      if v.testBit 31 then t.dikeStart c else t

/-- R452: `DIKE_CHc_CFG` written with `EN` = 1. -/
def execDikeEnable (c : Fin 16) (val : Word) (s : State) : Host.Outcome State Fault Refusal :=
  .next (if val.toNat.testBit 31 then s.writeDikeCfg c.val val.toNat else s)

/-- R449: `DIKE_CHc_CFG` written with `EN` = 0. -/
def execDikeDisable (c : Fin 16) (val : Word) (s : State) : Host.Outcome State Fault Refusal :=
  .next (if val.toNat.testBit 31 then s else s.writeDikeCfg c.val val.toNat)

/-! ### Twins (R405, R454) -/

/-- R405, R454: at a take-over the loop of channel `c` starts from the mirrored state and `RETRIES`. -/
def State.dikeResume (s : State) (c st retries : Nat) : State :=
  let s := (s.put (DIKE_CH_STATUS_RETRIES c) retries).put (DIKE_CH_CFG_EN c) (b2n (st != 0))
  if st = 5 then
    (((s.put (DIKE_CH_STATUS_STATE c) 5).dikeZero c).dikeCtrl c true).dikePg c true
  else if st = 3 ∨ st = 4 then (s.dikeAttempt c).dikeShow c
  else (s.dikeOff c (st % 8)).dikeShow c

end Sys2Proof.Machine
end

