-- ==== Sys2Proof/Machine/Dio.lean ====
section
/-! DEFINITION. Discrete lines (R263-R268, R270, R273): outputs and their timed queue, inputs, debounce and event records. -/

namespace Sys2Proof.Machine

open Sys2Proof.Machine.Reg

/-! ### Outputs (R263-R265) -/

/-- The output level of line `p` in `FCn_DIO_OUTm`. -/
def State.lineLevel (s : State) (n p : Nat) : Bool := (s.get (FC_DIO_OUT_SET n (p / 32))).testBit (p % 32)

/-- R263, R265: the pin of a line that is an output with `FUNC` = DISCRETE takes the line's level. -/
def State.driveLine (s : State) (n p : Nat) : State :=
  if s.get (FC_PIN_CFG_FUNC n p) = 0 ∧ s.flag (FC_DIO_CFG_DIR n p) then s.drivePin n p (s.lineLevel n p) true else s

/-- R265: the output level of a line set or cleared. -/
def State.setLevel (s : State) (n p : Nat) (level : Bool) : State :=
  let f := FC_DIO_OUT_SET n (p / 32)
  ((if level then s.orBits f (1 <<< (p % 32)) else s.dropBits f (1 <<< (p % 32))).driveLine n p)

/-- R264: whether an entry's time has passed as it becomes the head: it is then applied at once with `LATE`. -/
def State.entryLate (s : State) (k : Nat × Nat × Nat) : Bool :=
  match s.workAt k with
  | some w => w.param != 0 && w.param < s.ringTime
  | none => false

/-- R264: the oldest `SEND` to a line enters its timed queue of 8 entries, when there is room. -/
def State.lineEntry (s : State) (n p : Nat) : State :=
  let x := s.line n p
  let next := s.dlv.work.find? (fun w => w.ep == epLine n p && w.opcode == 0x10 && !w.taken)
  match next with
  | some w =>
    if s.isUp (dFC n) ∧ x.queue.length < 8 then
      let k := (w.src, w.sq, w.wsn)
      (s.takeWork w).setLine n p { x with queue := x.queue ++ [(k, x.queue = [] && s.entryLate k)] }
    else s
  | none => s

/-- R264: a `SEND` to a line enters its timed queue. -/
def execDioTimedEntry (n : Fin 6) (p : Fin 64) (s : State) : Host.Outcome State Fault Refusal := .next (s.lineEntry n p)

/-- R264, R126: the head entry is applied at the pin when its time has come, and commits. -/
def execDioEntryApply (n : Fin 6) (p : Fin 64) (s : State) : Host.Outcome State Fault Refusal :=
  .next (
    let x := s.line n p
    match x.queue with
    | [] => s
    | (k, late) :: rest =>
      match s.workAt k with
      | none => s.setLine n p { x with queue := rest }
      | some w =>
        if ¬ s.emits (dFC n) ∨ ¬ s.ownsPins ∨ s.epDown (epLine n p) ∨ s.ringTime < w.param then s
        else
          let s := (s.startEmission w).setLevel n p ((leAt w.data 0 1).testBit 0)
          let rest := match rest with
            | (k', _) :: more => (k', s.entryLate k') :: more
            | [] => []
          (s.setLine n p { x with queue := rest }).commit { w with late := w.late || late } 1 0)

/-- R265: `FCn_DIO_OUTm_SET` written. -/
def execDioOutSet (n : Fin 6) (m : Fin 2) (val : Word) (s : State) : Host.Outcome State Fault Refusal :=
  .next (if s.isUp (dFC n) then s.each (bitList val.toNat 32) (fun s i => s.setLevel n (32 * m + i) true) else s)

/-- R265: `FCn_DIO_OUTm_CLR` written. -/
def execDioOutClr (n : Fin 6) (m : Fin 2) (val : Word) (s : State) : Host.Outcome State Fault Refusal :=
  .next (if s.isUp (dFC n) then s.each (bitList val.toNat 32) (fun s i => s.setLevel n (32 * m + i) false) else s)

/-! ### Event records (R266-R268) -/

/-- R267: an event record. -/
def eventRecord (time line : Nat) (level : Bool) (lost seq : Nat) : List Byte :=
  leBytes 8 (4 * time % 2 ^ 64) ++ leBytes 1 line ++ leBytes 1 (b2n level + 2 * b2n level + 4 * b2n (lost != 0))
  ++ leBytes 2 lost ++ leBytes 4 seq

/-- R268: the loan that a line fills completes. -/
def State.closeLoan (s : State) (n p : Nat) : State :=
  match s.loansOf (epLine n p) with
  | w :: _ =>
    let x := s.line n p
    (s.setLine n p { x with loan := [] }).returnData w x.loan 0
  | [] => s

/-- R268: a record enters the loan of its line; one that is full completes. -/
def State.fillLoan (s : State) (n p : Nat) (r : List Byte) : State :=
  let x := s.line n p
  let s := s.setLine n p { x with loan := x.loan ++ r }
  match s.loansOf (epLine n p) with
  | w :: _ => if w.length < x.loan.length + 32 then s.closeLoan n p else s
  | [] => s

/-- R268: a record goes to its line's loan, to the cluster's queue of 1,024 records, or is lost. -/
def State.putEvent (s : State) (n p : Nat) (time : Nat) (level : Bool) : State :=
  let x := s.line n p
  let s := s.setLine n p { x with seq := x.seq + 1 }
  let c := s.cl n
  let r := eventRecord time p level c.evLost (x.seq + 1)
  if s.loansOf (epLine n p) ≠ [] ∧ c.evq.all (fun e => e.1 != p) then
    (s.setCl n { c with evLost := 0 }).fillLoan n p r
  else if c.evq.length < 1024 then s.setCl n { c with evq := c.evq ++ [(p, r)], evLost := 0 }
  else (s.setCl n { c with evLost := min 65535 (c.evLost + 1) }).raise (FC_ERR_EVT_LOST n)

/-- R268: records of a line that wait go to the loans posted. -/
def State.lineDrain : Nat → State → Nat → Nat → State
  | 0, s, _, _ => s
  | fuel + 1, s, n, p =>
    let c := s.cl n
    match c.evq.find? (fun e => e.1 == p), s.loansOf (epLine n p) with
    | some (_, r), _ :: _ =>
      let i := c.evq.findIdx (fun e => e.1 == p)
      State.lineDrain fuel ((s.setCl n { c with evq := c.evq.eraseIdx i }).fillLoan n p r) n p
    | _, _ => s

/-- R268: a loan posted at a line takes the records that wait. -/
def State.lineDeliver (s : State) (n p : Nat) : State := s.lineDrain (s.cl n).evq.length n p

/-- R268: `EVT_HOLD` after its first record a loan completes. -/
def execEvtLoanHoldExpiry (n : Fin 6) (p : Fin 64) (s : State) : Host.Outcome State Fault Refusal :=
  .next (if (s.line n p).loan ≠ [] then (s.closeLoan n p).lineDeliver n p else s)

/-! ### Inputs (R266) -/

/-- R266: a new level of a line is accepted: its bit, and where the change matches `EDGE` the edge bit with its private
source, the count and the event record. -/
def State.acceptLevel (s : State) (n p : Nat) (level : Bool) (time : Nat) : State :=
  let x := s.line n p
  let s := s.setLine n p { x with deb := none }
  let f := FC_DIO_IN n (p / 32)
  let s := if level then s.orBits f (1 <<< (p % 32)) else s.dropBits f (1 <<< (p % 32))
  if (s.get (FC_DIO_CFG_EDGE n p)).testBit (if level then 0 else 1) then
    let s := s.riseBit (FC_DIO_EDGE n (p / 32)) (p % 32) (n + 1) p
    let s := s.inc (FC_DIO_CNT_EDGE n p)
    if s.flag (FC_DIO_CFG_EVT_EN n p) then s.putEvent n p time level else s
  else s

/-- The level at pin `p` of cluster `n` as last sampled. -/
def State.rawLevel (s : State) (n p : Nat) : Bool := (s.cl n).raw.testBit p

/-- R275, R277: an edge at the `IN_PIN` of engine `e` sets its latch. -/
def State.latchEdge (s : State) (n g e : Nat) (rise : Bool) : State :=
  let x := s.eng n g e
  s.setEng n g e { x with rise := x.rise || rise, fall := x.fall || !rise, edgeAt := s.count / 5 }

/-- R266, R277: the sampled level of a pin changes, for the line and for the PIO synchroniser: an edge for every engine of the
pin's group that has it as its `IN_PIN`. -/
def State.setRaw (s : State) (n p : Nat) (level : Bool) : State :=
  let c := s.cl n
  let s := s.setCl n { c with raw := if level then setBit c.raw p else clearBit c.raw p
                              cap := if level then setBit c.cap p else clearBit c.cap p }
  s.each ((List.range 8).filter (fun e => s.get (FC_PIO_ENG_PINS_IN_PIN n (p / 16) e) == p % 16))
    (fun s e => s.latchEdge n (p / 16) e level)

/-- R266: the ring time of the 200 MHz sample at the present count. -/
def State.sampleTime (s : State) : Nat := s.ringRawAt (s.count / 5 * 5) / 256

/-- R266: a raw change of a pin starts or restarts the line's debounce interval, or ends it where the accepted level returns.
With `DEB` = 0 it is accepted at once. -/
def State.rawChange (s : State) (n p : Nat) (level : Bool) : State :=
  if s.rawLevel n p = level then s
  else
    let s := s.setRaw n p level
    let x := s.line n p
    if (s.get (FC_DIO_IN n (p / 32))).testBit (p % 32) = level then s.setLine n p { x with deb := none }
    else if s.get (FC_DIO_CFG_DEB n p) = 0 then s.acceptLevel n p level s.sampleTime
    else s.setLine n p { x with deb := some (level, s.sampleTime) }

/-- R266: a raw change at a pin. -/
def execDioRawChange (n : Fin 6) (p : Fin 64) (level : Bool) (s : State) : Host.Outcome State Fault Refusal :=
  .next (if s.isUp (dFC n) then s.rawChange n p level else s)

/-- R266: the raw input has held its new level for `DEB` without a break. -/
def execDioDebounceExpiry (n : Fin 6) (p : Fin 64) (s : State) : Host.Outcome State Fault Refusal :=
  .next (if s.isUp (dFC n) then
      (match (s.line n p).deb with
       | some (level, time) => s.acceptLevel n p level time
       | none => s)
    else s)

/-! ### Configuration (R265, R268, R273) -/

/-- R265, R268, R270, R273: `FCn_DIOp_CFG` written. `EVT_EN` written 0 gives the line's loans back, the one being filled with its
records. -/
def State.writeLineCfg (s : State) (n p v : Nat) : State :=
  let dir0 := s.flag (FC_DIO_CFG_DIR n p)
  let dir := v.testBit 0
  if dir ≠ dir0 ∧ (s.line n p).queue ≠ [] then s.raise (FC_ERR_CFG_REJECT n)
  else
    let stop := s.flag (FC_DIO_CFG_EVT_EN n p) ∧ ¬ v.testBit 4
    let s := ((s.put (FC_DIO_CFG_DEB n p) (v / 2 ^ 16)).put (FC_DIO_CFG_EVT_EN n p) (v / 2 ^ 4)).put (FC_DIO_CFG_EDGE n p) (v / 4)
    let s := (s.put (FC_DIO_CFG_INIT n p) (v / 2)).put (FC_DIO_CFG_DIR n p) v
    let s := if dir ∧ ¬ dir0 then s.setLevel n p (v.testBit 1)
      else if dir0 ∧ ¬ dir ∧ s.get (FC_PIN_CFG_FUNC n p) = 0 then s.drivePin n p (s.lineLevel n p) false
      else s
    let s := if stop then
        let s := if (s.line n p).loan = [] then s else s.closeLoan n p
        (s.loansOf (epLine n p)).foldl (fun s w => s.failWork w 0x60 0 0) s
      else s
    s.reannounce (epLine n p) (s.lineOps n p)

/-- R265: a write of `FCn_DIOp_CFG`. -/
def execDioDirWrite (n : Fin 6) (p : Fin 64) (val : Word) (s : State) : Host.Outcome State Fault Refusal :=
  .next (if s.isUp (dFC n) then s.writeLineCfg n p val.toNat else s)

end Sys2Proof.Machine
end

