-- ==== Sys2Proof/Machine/Pio.lean ====
section
/-! DEFINITION. PIO engines (R275-R295): the instruction set, frames on a port, starting, halting and programming. An instruction
command executes the word at the engine's `PC` when its `OP` is that instruction's and the engine may execute. -/

namespace Sys2Proof.Machine

open Sys2Proof.Machine.Reg

/-! ### Instruction words (R280, R282) -/

/-- The word at the engine's `PC`. -/
def State.pioWord (s : State) (n g e : Nat) : Nat := s.get (FC_PIO_PROG n g (s.get (FC_PIO_ENG_STATUS_PC n g e)))

/-- `OP`. -/
def opOf (w : Nat) : Nat := bitsOf w 28 4

/-- `DELAY`. -/
def delayOf (w : Nat) : Nat := bitsOf w 24 4

/-- `COUNT` of a SHIFT: 0 means 32. -/
def countOf (w : Nat) : Nat := if bitsOf w 0 5 = 0 then 32 else bitsOf w 0 5

/-- R282: `TARGET` lies in the engine's region. -/
def State.inRegion (s : State) (n g e t : Nat) : Bool :=
  s.get (FC_PIO_ENG_CTRL_BASE n g e) ≤ t && t ≤ s.get (FC_PIO_ENG_CTRL_END n g e)

/-- R282: the word is legal for the engine. A `STREAM` refill without a TX port is found when it is executed. -/
def State.pioLegal (s : State) (n g e w : Nat) : Bool :=
  match opOf w with
  | 0x0 =>
    let dir := bitsOf w 22 2
    let clk := bitsOf w 20 2
    dir != 3 && clk != 3 && bitsOf w 5 11 == 0 && !(w.testBit 17 && dir == 1)
    && (bitsOf w 18 2 == 0 || (dir == 0 && clk == 0))
  | 0x1 => bitsOf w 21 3 ≤ 5 && bitsOf w 16 5 == 0 && bitsOf w 0 16 != 0
  | 0x2 => bitsOf w 21 3 ≤ 5 && bitsOf w 12 7 == 0 && bitsOf w 3 5 == 0
    && (bitsOf w 21 3 != 5 || s.get (FC_PIO_ENG_TIMING_TICK n g e) != 0)
  | 0x3 => bitsOf w 20 4 ≤ 10 && bitsOf w 12 8 == 0 && !w.testBit 7 && s.inRegion n g e (bitsOf w 0 7)
    && !(bitsOf w 20 4 == 9 && w.testBit 11)
  | 0x4 => bitsOf w 3 21 == 0 && 1 ≤ bitsOf w 0 3 && bitsOf w 0 3 ≤ 4 && s.flag (FC_PIO_ENG_PORTS_TX_USE n g e)
  | 0x5 => bitsOf w 11 13 == 0 && bitsOf w 3 5 == 0 && 1 ≤ bitsOf w 0 3 && bitsOf w 0 3 ≤ 4
    && s.flag (FC_PIO_ENG_PORTS_RX_USE n g e)
  | 0x6 => bitsOf w 12 12 == 0 && bitsOf w 3 5 == 0
  | 0x7 => bitsOf w 16 6 == 0
  | 0x8 => bitsOf w 21 3 ≤ 4 && bitsOf w 18 3 ≤ 6 && bitsOf w 0 17 == 0
  | 0x9 => bitsOf w 0 24 == 0
  | 0xA => bitsOf w 0 24 == 0
  | _ => false

/-! ### Engines -/

/-- The tick of 5 ns at the present count (R276). -/
def State.tick (s : State) : Nat := s.count / 5

/-- R276: the engine's step accumulator: what its additions of `NUM` since the divider's last restart leave beyond whole
multiples of `MOD`. -/
def State.stepAccumulator (s : State) (n g e : Nat) : Nat :=
  (s.tick - (s.eng n g e).start) * s.get (FC_PIO_ENG_DIV_NUM n g e) % s.get (FC_PIO_ENG_DIV_MOD n g e)

/-- The TX and RX ports of an engine, as ports of the cluster. -/
def State.txPort (s : State) (n g e : Nat) : Nat := 8 * g + s.get (FC_PIO_ENG_PORTS_TX_PORT n g e)
def State.rxPort (s : State) (n g e : Nat) : Nat := 8 * g + s.get (FC_PIO_ENG_PORTS_RX_PORT n g e)

/-- R277: the captured level of pin `p` of a group. -/
def State.capLevel (s : State) (n g p : Nat) : Bool := (s.cl n).cap.testBit (16 * g + p)

/-- The node is in SERVICE or on its way there (R37, R291). -/
def State.pausing (s : State) : Bool := s.node.paused || s.mode == mSERVICE

/-- R278: the word after the present one. -/
def State.pcNext (s : State) (n g e : Nat) : Nat :=
  let pc := s.get (FC_PIO_ENG_STATUS_PC n g e)
  if pc = s.get (FC_PIO_ENG_CTRL_END n g e) then s.get (FC_PIO_ENG_CTRL_BASE n g e) else (pc + 1) % 128

/-- R280: an instruction ends: its `DELAY` steps run, or the next word follows at once. -/
def State.endInstr (s : State) (n g e w next : Nat) (freeWait : Bool) : State :=
  let x := { s.eng n g e with mid := false, left := 0, stall := Stall.none, freeWait := freeWait }
  if delayOf w = 0 then (s.setEng n g e x).put (FC_PIO_ENG_STATUS_PC n g e) next
  else s.setEng n g e { x with delay := true, next := next }

/-- R278, R280: an engine may execute the word at its `PC`: it runs, no `DELAY` does, and the word is a legal instruction of the
given `OP`. -/
def State.pioMay (s : State) (n g e op : Nat) : Bool :=
  s.isUp (dFC n) && s.engState n g e == 1 && !(s.eng n g e).delay && opOf (s.pioWord n g e) == op
  && s.pioLegal n g e (s.pioWord n g e)

/-- R291: an engine without a TX port pauses at its next instruction while the node enters SERVICE. -/
def State.pioPauses (s : State) (n g e : Nat) : Bool := s.pausing && !s.flag (FC_PIO_ENG_PORTS_TX_USE n g e)

/-- An instruction of `OP` at an engine: the engine pauses, or executes its word by `f`. -/
def State.onInstr (s : State) (n g e op : Nat) (f : Nat → State) : State :=
  if ¬ s.pioMay n g e op then s
  else if s.pioPauses n g e then s.setEngState n g e 3
  else f (s.pioWord n g e)

/-- R431: an error source of a PIO group recorded, with its STOP. -/
def State.pioRecord (s : State) (n g src : Nat) : State :=
  let stop := s.stops src
  let s := s.record src
  if stop then (s.haltGroup n g 2).payFails else s

/-- R282, R289: an illegal instruction halts its engine. -/
def State.haltIllegal (s : State) (n g e : Nat) : State :=
  let s := (s.haltEngine n g e 3).payFails
  let s := (s.put (FC_PIO_ENG_STATUS_ILLEGAL n g e) 1).riseBit (FC_PIO_IRQ_FAULT n g) e (n + 1) (96 + 8 * g + e)
  s.pioRecord n g (248 + 4 * n + g)

/-! ### Pins (R279) -/

/-- R279: an engine writes the level, the output enable or both of pin `p` of its group. A pin whose `FUNC` is not PIO does not
take it. -/
def State.pioPin (s : State) (n g p : Nat) (level oe : Option Bool) : State :=
  let q := 16 * g + p
  if s.get (FC_PIN_CFG_FUNC n q) ≠ 1 then s
  else
    let c := s.cl n
    s.drivePin n q (level.getD (c.pinOut.testBit q)) (oe.getD (c.pinOe.testBit q))

/-- R279: a bit value on `OUT_PIN` or `CLK_PIN`. -/
def State.pioBit (s : State) (n g e p : Nat) (b : Bool) : State :=
  if s.flag (FC_PIO_ENG_PINS_OD n g e) then (if b then s.pioPin n g p none (some false) else s.pioPin n g p (some false) (some true))
  else s.pioPin n g p (some b) (some true)

/-- R279: pin writes that a lower-numbered engine's write at the same tick discards. -/
def State.pinClash (s : State) (n g written lost : Nat) : State :=
  if written &&& lost = 0 then s
  else (s.raise (FC_PIO_ERR_PIN_CLASH n g)).pioRecord n g (224 + 4 * n + g)

/-- R279, R280: SET. `lost` names pins that a lower-numbered engine writes at the same tick. -/
def execPioSet (n : Fin 6) (g : Fin 4) (e : Fin 8) (lost : BitVec 16) (s : State) : Host.Outcome State Fault Refusal :=
  .next (s.onInstr n g e 0x1 fun w =>
    let act := bitsOf w 21 3
    let mask := bitsOf w 0 16
    let level : Option Bool := if act = 0 ∨ act = 4 then some false else if act = 1 ∨ act = 5 then some true else none
    let oe : Option Bool := if act = 2 ∨ act = 4 ∨ act = 5 then some true else if act = 3 then some false else none
    let s := s.each (bitList (clearBits mask lost.toNat) 16) (fun s p => s.pioPin n g p level oe)
    let s := s.pinClash n g mask lost.toNat
    if s.engState n g e = 0 then s else s.endInstr n g e w (s.pcNext n g e) false)

/-! ### Frames on a port (R285, R286) -/

/-- R285, R126: the end-of-frame event of the engine's TX port: the packet pulled to its end commits. One raised earlier is
discarded. -/
def State.endOfFrame (s : State) (n g e : Nat) : State :=
  let q := s.txPort n g e
  let x := s.portSt n q
  match if s.flag (FC_PIO_ENG_PORTS_TX_USE n g e) then x.txPkt else none with
  | some (k, true) =>
    let s := (s.setPortSt n q { x with txPkt := none }).inc (FC_PIO_ENG_CNT_EOF n g e)
    (match s.workAt k with
     | some w => s.commit w w.length 0
     | none => s)
  | some (_, false) => s.put (FC_PIO_ENG_STATUS_EOF_EARLY n g e) 1
  | none => s

/-- R283: the bytes of a pull in `TSR`: byte i at bit 8i, or at bit 24 - 8i. -/
def loadTsr (msb : Bool) (bs : List Byte) : Nat :=
  (bs.zipIdx.map (fun (b, i) => b.toNat * 2 ^ (if msb then 24 - 8 * i else 8 * i))).sum

/-- The outcome of a pull. -/
inductive PullResult where
  | done | empty | dry
  deriving DecidableEq, Repr

/-- R285: bytes taken inside a packet. -/
def State.pullInside (s : State) (n g e want : Nat) (k : Nat × Nat × Nat) : State × PullResult :=
  let q := s.txPort n g e
  let (bs, last, dry, x) := (s.portSt n q).pull want
  if dry then ((s.setPortSt n q { x with txPkt := some (k, false) }).showPort n q, .dry)
  else
    let s := (s.setPortSt n q { x with txPkt := some (k, last) }).showPort n q
    let s := if last then s.inc (FC_PORT_CNT_TX n q) else s
    let s := s.put (FC_PIO_ENG_TSR n g e) (loadTsr (s.flag (FC_PIO_ENG_PINS_ORDER n g e)) bs)
    (s.setEng n g e { s.eng n g e with eop := last }, .done)

/-- R135, R285: a pull of up to `want` bytes into `TSR`. A down port begins no packet. The first byte of a packet writes PENDING before it is pulled; the end-of-frame
event of a packet before it that is still awaited is raised first. -/
def State.enginePull (s : State) (n g e want : Nat) : State × PullResult :=
  let q := s.txPort n g e
  let x := s.portSt n q
  if x.txEop then
    let s := (s.setPortSt n q { x with txEop := false }).put (FC_PIO_ENG_TSR n g e) 0
    (s.setEng n g e { s.eng n g e with eop := true }, .done)
  else match x.txPkt with
    | some (k, false) => s.pullInside n g e want k
    | other =>
      match if s.epDown (epPort n q) then none else x.nextKey with
      | none => (s, .empty)
      | some k =>
        let s := if other.isSome then (s.endOfFrame n g e).put (FC_PIO_ENG_STATUS_NO_EOF n g e) 1 else s
        let s := match s.workAt k with
          | some w => s.startEmission w
          | none => s
        s.pullInside n g e want k

/-- R291: the next pull would take the first byte of a packet. -/
def State.atPacketStart (s : State) (n g e : Nat) : Bool :=
  let x := s.portSt n (s.txPort n g e)
  !x.txEop && (match x.txPkt with
    | some (_, false) => false
    | _ => true)

/-- R286: the underflow rule: the item is torn and the engine goes on at `UNDER_TARGET`. -/
def State.pioUnderflow (s : State) (n g e : Nat) : State :=
  let q := s.txPort n g e
  let x := s.portSt n q
  match x.txPkt with
  | some (k, false) =>
    let s := (s.setPortSt n q (x.dropTx k)).showPort n q
    let s := (s.raise (FC_PORT_FLAGS_TX_UNDER n q)).put (FC_PIO_ENG_STATUS_TX_UNDER n g e) 1
    let s := match s.workAt k with
      | some w => s.tearWork w
      | none => s
    let t := s.get (FC_PIO_ENG_PORTS_UNDER_TARGET n g e)
    let s := s.setEng n g e { s.eng n g e with mid := false, stall := .none, freeWait := false }
    let s := if s.inRegion n g e t then s.put (FC_PIO_ENG_STATUS_PC n g e) t else s.haltIllegal n g e
    s.pioRecord n g (128 + 57 + 4 * n + g)
  | _ => s

/-- A pull of `want` bytes for the instruction `w`: `f` follows its success; an empty FIFO stalls the engine at a packet's first
byte and is an underflow inside one. -/
def State.pullThen (s : State) (n g e want : Nat) (f : State → State) : State :=
  if s.pausing ∧ s.atPacketStart n g e then
    (s.setEngState n g e 3).setEng n g e { s.eng n g e with stall := .none }
  else
    match s.enginePull n g e want with
    | (s, .done) => f ((s.setEngState n g e 1).setEng n g e { s.eng n g e with stall := .none })
    | (s, .empty) => (s.setEngState n g e 2).setEng n g e { s.eng n g e with stall := .pull, freeWait := false }
    | (s, .dry) => (s.setEngState n g e 1).pioUnderflow n g e

/-- R285: PULL. -/
def execPioPull (n : Fin 6) (g : Fin 4) (e : Fin 8) (s : State) : Host.Outcome State Fault Refusal :=
  .next (s.onInstr n g e 0x4 fun w =>
    s.pullThen n g e (bitsOf w 0 3) (fun s => s.endInstr n g e w (s.pcNext n g e) false))

/-- R285, R291: a pull that stalled at a packet's first byte resumes: a PULL, or the refill of a `STREAM` shift. -/
def execPioPullUnstall (n : Fin 6) (g : Fin 4) (e : Fin 8) (s : State) : Host.Outcome State Fault Refusal :=
  .next (
    let w := s.pioWord n g e
    if ¬ s.isUp (dFC n) ∨ s.engState n g e ≠ 2 ∨ (s.eng n g e).stall ≠ .pull then s
    else if opOf w = 0x4 then s.pullThen n g e (bitsOf w 0 3) (fun s => s.endInstr n g e w (s.pcNext n g e) false)
    else s.pullThen n g e (ceilDiv (countOf w) 8) (fun s => s.setEng n g e { s.eng n g e with mid := true }))

/-- R286: a PULL finds the TX FIFO empty inside a packet. -/
def execPioUnderflow (n : Fin 6) (g : Fin 4) (e : Fin 8) (s : State) : Host.Outcome State Fault Refusal :=
  .next (s.onInstr n g e 0x4 fun w =>
    let (_, _, dry, _) := (s.portSt n (s.txPort n g e)).pull (bitsOf w 0 3)
    if dry then s.pioUnderflow n g e else s)

/-- The bytes that a PUSH of `k` bytes takes from `RSR` (R283). -/
def pushBytes (msb : Bool) (k rsr : Nat) : List Byte :=
  (List.range k).map (fun i => BitVec.ofNat 8 (if msb then rsr / 2 ^ (8 * (k - 1 - i)) else rsr / 2 ^ (32 - 8 * k + 8 * i)))

/-- R287: PUSH. `CHK` marks the packet in error when `IN_PIN` reads low. -/
def execPioPush (n : Fin 6) (g : Fin 4) (e : Fin 8) (s : State) : Host.Outcome State Fault Refusal :=
  .next (s.onInstr n g e 0x5 fun w =>
    let bs := pushBytes (s.flag (FC_PIO_ENG_PINS_ORDER n g e)) (bitsOf w 0 3) (s.get (FC_PIO_ENG_RSR n g e))
    let err := w.testBit 9 || (w.testBit 10 && !s.capLevel n g (s.get (FC_PIO_ENG_PINS_IN_PIN n g e)))
    let (s, full) := s.pushPort n (s.rxPort n g e) bs (w.testBit 8) err
    let s := if full then s.put (FC_PIO_ENG_STATUS_RX_OVER n g e) 1 else s
    (s.put (FC_PIO_ENG_RSR n g e) 0).endInstr n g e w (s.pcNext n g e) false)

/-- R287: a WAIT has lasted `EOP_IDLE` steps: an open packet of the RX port is closed as by a PUSH of 0 bytes with `EOP` = 1. -/
def execPioEopIdleClose (n : Fin 6) (g : Fin 4) (e : Fin 8) (s : State) : Host.Outcome State Fault Refusal :=
  .next (
    let q := s.rxPort n g e
    if s.isUp (dFC n) ∧ s.engState n g e = 2 ∧ (s.eng n g e).stall = .wait ∧ s.get (FC_PIO_ENG_TIMING_EOP_IDLE n g e) ≠ 0
        ∧ s.flag (FC_PIO_ENG_PORTS_RX_USE n g e) then (s.pushPort n q [] true false).1
    else s)

/-! ### SHIFT (R283) -/

/-- R283: `k` bit times: bits sent from `TSR`, bits received into `RSR`. Where the samples given end, `idle` is received. -/
def shiftBits (msb out inp idle : Bool) : Nat → Nat → Nat → List Bool → List Bool × Nat × Nat
  | 0, tsr, rsr, _ => ([], tsr, rsr)
  | k + 1, tsr, rsr, rx =>
    let b := if msb then tsr.testBit 31 else tsr.testBit 0
    let tsr := if ¬ out then tsr else if msb then tsr * 2 % 2 ^ 32 else tsr / 2
    let r := b2n (rx.headD idle)
    let rsr := if ¬ inp then rsr else if msb then (rsr * 2 + r) % 2 ^ 32 else rsr / 2 + r * 2 ^ 31
    let (bs, tsr, rsr) := shiftBits msb out inp idle k tsr rsr rx.tail
    (b :: bs, tsr, rsr)

/-- R283: the data bits with the framing bits of `FRAME`: a start bit, even parity, stop bits. -/
def frameBits (frame : Nat) (data : List Bool) : List Bool :=
  if frame = 0 then data
  else
    let parity := if frame = 3 then [data.foldl (fun a b => a != b) false] else []
    false :: data ++ parity ++ (if frame = 2 then [true, true] else [true])

/-- R279, R283: `k` bit times of the SHIFT `w`: registers, latches, pins at their last values, and the bits sent. -/
def State.shiftRun (s : State) (n g e w k : Nat) (rx : List Bool) (lost : Nat) : State :=
  let dir := bitsOf w 22 2
  let clk := bitsOf w 20 2
  let out := dir != 1
  let inp := dir != 0
  let idle := s.capLevel n g (s.get (FC_PIO_ENG_PINS_IN_PIN n g e))
  let (bs, tsr, rsr) := shiftBits (s.flag (FC_PIO_ENG_PINS_ORDER n g e)) out inp idle k (s.get (FC_PIO_ENG_TSR n g e))
    (s.get (FC_PIO_ENG_RSR n g e)) rx
  let s := (s.put (FC_PIO_ENG_TSR n g e) tsr).put (FC_PIO_ENG_RSR n g e) rsr
  let s := if inp ∧ k ≠ 0 then s.setEng n g e { s.eng n g e with rise := false, fall := false } else s
  let sent := if out then frameBits (bitsOf w 18 2) bs else []
  let po := s.get (FC_PIO_ENG_PINS_OUT_PIN n g e)
  let pc := s.get (FC_PIO_ENG_PINS_CLK_PIN n g e)
  let drivesClk : Bool := clk != 0 && s.flag (FC_PIO_ENG_PINS_CLK_OUT n g e)
  let s := match sent.getLast? with
    | some b => if lost.testBit po then s else s.pioBit n g e po b
    | none => s
  let s := if drivesClk ∧ ¬ lost.testBit pc then s.pioBit n g e pc (clk == 2) else s
  let s := if sent = [] then s else s.emit (.pioBits n g e sent clk)
  s.pinClash n g ((if out then 1 <<< po else 0) ||| (if drivesClk then 1 <<< pc else 0)) lost

/-- R283: a group of bits has been shifted: the refill of a `STREAM` shift, or the end of the instruction with its end-of-frame
event. -/
def State.shiftEnd (s : State) (n g e w : Nat) : State :=
  if s.engState n g e = 0 then s
  else if w.testBit 17 ∧ ¬ (s.eng n g e).eop then
    (if s.flag (FC_PIO_ENG_PORTS_TX_USE n g e) then
      s.pullThen n g e (ceilDiv (countOf w) 8) (fun s => s.setEng n g e { s.eng n g e with mid := true })
    else s.haltIllegal n g e)
  else
    let s := if w.testBit 16 then s.endOfFrame n g e else s
    s.endInstr n g e w (s.pcNext n g e) false

/-- R283: bits of a shift, up to where `STRETCH` finds the clock held low after `cut` of them. -/
def State.shiftSome (s : State) (n g e w k : Nat) (rx : List Bool) (cut : Nat) (lost : Nat) : State :=
  let stretches := s.flag (FC_PIO_ENG_PINS_STRETCH n g e) && s.flag (FC_PIO_ENG_PINS_OD n g e) && bitsOf w 20 2 == 2
  if stretches ∧ 1 ≤ cut ∧ cut < k then
    let s := s.shiftRun n g e w cut rx lost
    if s.engState n g e = 0 then s
    else (s.setEngState n g e 2).setEng n g e { s.eng n g e with stall := .stretch, left := k - cut, freeWait := false }
  else (s.shiftRun n g e w k rx lost).shiftEnd n g e w

/-- R283: SHIFT: one group of `COUNT` bits, with its framing; a `STREAM` shift goes on with the next command. `rx` holds the
samples taken, `cut` the bits after which a stretched clock was found low (0: none), `lost` the pins that a lower-numbered engine
writes at the same tick. -/
def execPioShift (n : Fin 6) (g : Fin 4) (e : Fin 8) (rx : List Bool) (cut : Fin 32) (lost : BitVec 16) (s : State) :
    Host.Outcome State Fault Refusal :=
  .next (s.onInstr n g e 0x0 fun w => s.shiftSome n g e w (countOf w) rx cut lost.toNat)

/-- R283: the stretched clock reads high: the divider restarts and the shift goes on. -/
def execPioStretchRelease (n : Fin 6) (g : Fin 4) (e : Fin 8) (rx : List Bool) (cut : Fin 32) (lost : BitVec 16) (s : State) :
    Host.Outcome State Fault Refusal :=
  .next (
    let x := s.eng n g e
    if ¬ s.isUp (dFC n) ∨ s.engState n g e ≠ 2 ∨ x.stall ≠ .stretch then s
    else
      let s := (s.setEngState n g e 1).setEng n g e { x with stall := .none, start := s.tick, left := 0 }
      s.shiftSome n g e (s.pioWord n g e) x.left rx cut lost.toNat)

/-! ### WAIT (R284) -/

/-- R284: the condition of the WAIT `w` holds. Whether the engine stands on a tick is the command's `onTick`. -/
def State.waitHolds (s : State) (n g e w : Nat) (onTick : Bool) : Bool :=
  let x := s.eng n g e
  match bitsOf w 21 3 with
  | 0 => s.capLevel n g (bitsOf w 8 4)
  | 1 => !s.capLevel n g (bitsOf w 8 4)
  | 2 => x.rise
  | 3 => x.fall
  | 4 => (s.get (FC_PIO_EVF_SET n g)).testBit (bitsOf w 0 3)
  | _ => onTick

/-- R284: a WAIT completes: its latch is consumed; with `HALF` the divider restarts at the later of the edge's tick plus half a
step and the start of the WAIT. -/
def State.waitDone (s : State) (n g e w : Nat) (freeWait : Bool) : State :=
  let x := s.eng n g e
  let src := bitsOf w 21 3
  let half := s.get (FC_PIO_ENG_DIV_MOD n g e) / (2 * s.get (FC_PIO_ENG_DIV_NUM n g e))
  let at' := max (x.edgeAt + half) x.waitAt
  let x := if w.testBit 19 ∧ (src = 2 ∨ src = 3) then { x with start := at', tickAt := at' } else x
  let x := if src = 2 then { x with rise := false } else if src = 3 then { x with fall := false } else x
  let s := (s.setEngState n g e 1).setEng n g e x
  s.endInstr n g e w (s.pcNext n g e) freeWait

/-- R284: engines of the group stalled in a WAIT for event flag `f`. -/
def State.flagWaiters (s : State) (n g f : Nat) : List Nat :=
  (List.range 8).filter (fun e => s.engState n g e == 2 && (s.eng n g e).stall == .wait && opOf (s.pioWord n g e) == 2
    && bitsOf (s.pioWord n g e) 21 3 == 4 && bitsOf (s.pioWord n g e) 0 3 == f)

/-- R284: every engine that flag `f` releases goes on; the flag is then cleared where one of them, or `clr`, asks for it. -/
def State.releaseFlag (s : State) (n g f : Nat) (clr : Bool) : State :=
  let es := s.flagWaiters n g f
  let clr := clr || es.any (fun e => (s.pioWord n g e).testBit 20)
  let s := s.each es (fun s e => s.waitDone n g e (s.pioWord n g e) false)
  if clr then s.dropBits (FC_PIO_EVF_SET n g) (1 <<< f) else s

/-- R284, R291: WAIT: completes at once where its condition holds, unless the instruction before was a WAIT that took no step;
stalls otherwise. -/
def execPioWait (n : Fin 6) (g : Fin 4) (e : Fin 8) (onTick : Bool) (s : State) : Host.Outcome State Fault Refusal :=
  .next (s.onInstr n g e 0x2 fun w =>
    let x := s.eng n g e
    let s := s.setEng n g e { x with waitAt := s.tick }
    if s.waitHolds n g e w onTick ∧ ¬ x.freeWait then
      let s := s.waitDone n g e w true
      if bitsOf w 21 3 = 4 then s.releaseFlag n g (bitsOf w 0 3) (w.testBit 20) else s
    else if s.pausing then (s.setEngState n g e 3).setEng n g e { s.eng n g e with freeWait := false }
    else (s.setEngState n g e 2).setEng n g e { s.eng n g e with stall := .wait, freeWait := false })

/-- R284: the condition of a stalled WAIT is met. -/
def execPioWaitSatisfied (n : Fin 6) (g : Fin 4) (e : Fin 8) (onTick : Bool) (s : State) :
    Host.Outcome State Fault Refusal :=
  .next (
    let w := s.pioWord n g e
    if s.isUp (dFC n) ∧ s.engState n g e = 2 ∧ (s.eng n g e).stall = .wait ∧ s.waitHolds n g e w onTick then
      (if bitsOf w 21 3 = 4 then s.releaseFlag n g (bitsOf w 0 3) false else s.waitDone n g e w false)
    else s)

/-- R266, R275, R277: an edge on the engine's `IN_PIN`: the pin's level, for its line and for the engines that read it, and the
engine's latch. -/
def execPioInEdge (n : Fin 6) (g : Fin 4) (e : Fin 8) (rise : Bool) (s : State) : Host.Outcome State Fault Refusal :=
  .next (if s.isUp (dFC n) then
      (s.rawChange n (16 * g + s.get (FC_PIO_ENG_PINS_IN_PIN n g e)) rise).latchEdge n g e rise
    else s)

/-! ### Jumps, events, constants and moves (R280, R281) -/

/-- R281: a loop counter stepped. -/
def stepLoop (v : Nat) : Nat := v - 1

/-- R281: the condition of a JMP, and what testing it does to a loop counter. -/
def State.jmpTest (s : State) (n g e cond arg : Nat) : State × Bool :=
  let ca := s.get (FC_PIO_ENG_CNT_CA n g e)
  let cb := s.get (FC_PIO_ENG_CNT_CB n g e)
  match cond with
  | 0 => (s, true)
  | 1 => (s.put (FC_PIO_ENG_CNT_CA n g e) (stepLoop ca), stepLoop ca != 0)
  | 2 => (s.put (FC_PIO_ENG_CNT_CB n g e) (stepLoop cb), stepLoop cb != 0)
  | 3 => (s, ca == 0)
  | 4 => (s, cb == 0)
  | 5 => (s, s.capLevel n g arg)
  | 6 => (s, !s.capLevel n g arg)
  | 7 => (s, (s.eng n g e).eop)
  | 8 => (s, (s.portSt n (s.txPort n g e)).tx.fill != 0)
  | 9 => (s, (s.get (FC_PIO_EVF_SET n g)).testBit arg)
  | _ => (s, s.get (FC_PIO_ENG_D n g e) != s.get (FC_PIO_ENG_RSR n g e))

/-- R281: JMP: a true condition makes `TARGET` the next word. -/
def execPioJmp (n : Fin 6) (g : Fin 4) (e : Fin 8) (s : State) : Host.Outcome State Fault Refusal :=
  .next (s.onInstr n g e 0x3 fun w =>
    let (s, taken) := s.jmpTest n g e (bitsOf w 20 4) (bitsOf w 8 4)
    s.endInstr n g e w (if taken then bitsOf w 0 7 else s.pcNext n g e) false)

/-- R280, R285, R294: EVENT: a flag set or cleared, an interrupt on the flag, an end-of-frame event. -/
def execPioEvent (n : Fin 6) (g : Fin 4) (e : Fin 8) (s : State) : Host.Outcome State Fault Refusal :=
  .next (s.onInstr n g e 0x6 fun w =>
    let f := bitsOf w 0 3
    let s := if ¬ w.testBit 11 then s
      else if w.testBit 8 then s.dropBits (FC_PIO_EVF_SET n g) (1 <<< f) else s.orBits (FC_PIO_EVF_SET n g) (1 <<< f)
    let s := if w.testBit 9 then s.riseBit (FC_PIO_IRQ_EVT n g) f (n + 1) (64 + 8 * g + f) else s
    let s := if w.testBit 10 then s.endOfFrame n g e else s
    s.endInstr n g e w (s.pcNext n g e) false)

/-- R280: an immediate into `CA`, `CB`, or half of `D`. -/
def State.loadImm (s : State) (n g e dst imm : Nat) : State :=
  match dst with
  | 0 => s.put (FC_PIO_ENG_CNT_CA n g e) imm
  | 1 => s.put (FC_PIO_ENG_CNT_CB n g e) imm
  | 2 => s.put (FC_PIO_ENG_D n g e) imm
  | _ => s.put (FC_PIO_ENG_D n g e) (imm * 2 ^ 16 + s.get (FC_PIO_ENG_D n g e) % 2 ^ 16)

/-- R280: LOAD. -/
def execPioLoad (n : Fin 6) (g : Fin 4) (e : Fin 8) (s : State) : Host.Outcome State Fault Refusal :=
  .next (s.onInstr n g e 0x7 fun w =>
    (s.loadImm n g e (bitsOf w 22 2) (bitsOf w 0 16)).endInstr n g e w (s.pcNext n g e) false)

/-- R280: a source of MOV, zero-extended. -/
def State.movSrc (s : State) (n g e src : Nat) : Nat :=
  match src with
  | 0 => s.get (FC_PIO_ENG_D n g e)
  | 1 => s.get (FC_PIO_ENG_TSR n g e)
  | 2 => s.get (FC_PIO_ENG_RSR n g e)
  | 3 => s.get (FC_PIO_ENG_CNT_CA n g e)
  | 4 => s.get (FC_PIO_ENG_CNT_CB n g e)
  | 5 => bitsOf (s.cl n).cap (16 * g) 16
  | _ => 0

/-- R280: a destination of MOV written: a 16-bit one takes the low 16 bits. -/
def State.movDst (s : State) (n g e dst v : Nat) : State :=
  match dst with
  | 0 => s.put (FC_PIO_ENG_D n g e) v
  | 1 => s.put (FC_PIO_ENG_TSR n g e) v
  | 2 => s.put (FC_PIO_ENG_RSR n g e) v
  | 3 => s.put (FC_PIO_ENG_CNT_CA n g e) v
  | _ => s.put (FC_PIO_ENG_CNT_CB n g e) v

/-- R280: MOV: a register or the pin levels copied, or its complement. -/
def execPioMov (n : Fin 6) (g : Fin 4) (e : Fin 8) (s : State) : Host.Outcome State Fault Refusal :=
  .next (s.onInstr n g e 0x8 fun w =>
    let v := s.movSrc n g e (bitsOf w 18 3)
    (s.movDst n g e (bitsOf w 21 3) (if w.testBit 17 then 2 ^ 32 - 1 - v else v)).endInstr n g e w (s.pcNext n g e) false)

/-- R261, R280: DROP: the rest of the current TX packet is dropped. -/
def execPioDrop (n : Fin 6) (g : Fin 4) (e : Fin 8) (s : State) : Host.Outcome State Fault Refusal :=
  .next (s.onInstr n g e 0x9 fun w =>
    let s := if s.flag (FC_PIO_ENG_PORTS_TX_USE n g e) then s.dropTxPacket n (s.txPort n g e) else s
    s.endInstr n g e w (s.pcNext n g e) false)

/-- R280, R289: HALT. `PC` shows the next word. -/
def execPioHalt (n : Fin 6) (g : Fin 4) (e : Fin 8) (s : State) : Host.Outcome State Fault Refusal :=
  .next (s.onInstr n g e 0xA fun _ =>
    ((s.put (FC_PIO_ENG_STATUS_PC n g e) (s.pcNext n g e)).haltEngine n g e 2).payFails)

/-- R282: the word at the `PC` of a running engine is illegal. -/
def execPioIllegal (n : Fin 6) (g : Fin 4) (e : Fin 8) (s : State) : Host.Outcome State Fault Refusal :=
  .next (if s.isUp (dFC n) ∧ s.engState n g e = 1 ∧ ¬ (s.eng n g e).delay ∧ ¬ s.pioLegal n g e (s.pioWord n g e) then
      s.haltIllegal n g e
    else s)

/-- R278, R280: the `DELAY` steps of an instruction end. -/
def execPioDelayExpiry (n : Fin 6) (g : Fin 4) (e : Fin 8) (s : State) : Host.Outcome State Fault Refusal :=
  .next (
    let x := s.eng n g e
    if s.isUp (dFC n) ∧ s.engState n g e = 1 ∧ x.delay then
      (s.setEng n g e { x with delay := false }).put (FC_PIO_ENG_STATUS_PC n g e) x.next
    else s)

/-! ### Starting, halting and programming (R288-R292) -/

/-- R288: the configuration of a named engine is sound. `UNDER_TARGET` counts where the engine has a TX port. -/
def State.engSound (s : State) (n g e : Nat) : Bool :=
  s.get (FC_PIO_ENG_CTRL_BASE n g e) ≤ s.get (FC_PIO_ENG_CTRL_END n g e)
  && s.inRegion n g e (s.get (FC_PIO_ENG_CTRL_ENTRY n g e))
  && (!s.flag (FC_PIO_ENG_PORTS_TX_USE n g e) || s.inRegion n g e (s.get (FC_PIO_ENG_PORTS_UNDER_TARGET n g e)))
  && s.get (FC_PIO_ENG_DIV_NUM n g e) != 0
  && s.get (FC_PIO_ENG_DIV_NUM n g e) ≤ s.get (FC_PIO_ENG_DIV_MOD n g e)

/-- R288: two engines use one port in the same direction. -/
def State.portsMeet (s : State) (n g a b : Nat) : Bool :=
  (s.flag (FC_PIO_ENG_PORTS_TX_USE n g a) && s.flag (FC_PIO_ENG_PORTS_TX_USE n g b) && s.txPort n g a == s.txPort n g b)
  || (s.flag (FC_PIO_ENG_PORTS_RX_USE n g a) && s.flag (FC_PIO_ENG_PORTS_RX_USE n g b) && s.rxPort n g a == s.rxPort n g b)

/-- R288, R293: an engine leaves HALTED and begins at its `ENTRY`. Those of a standby half stay halted. -/
def State.startEngine (s : State) (n g e : Nat) : State :=
  if s.engState n g e ≠ 0 ∨ s.node.twinRole = .standby then s
  else
    ((s.setEngState n g e 1).put (FC_PIO_ENG_STATUS_PC n g e) (s.get (FC_PIO_ENG_CTRL_ENTRY n g e))).setEng n g e
      { start := s.tick, tickAt := s.tick }

/-- R288: the divider and the tick counter of a running engine restart. -/
def State.restartEngine (s : State) (n g e : Nat) : State :=
  if s.engState n g e = 0 then s else s.setEng n g e { s.eng n g e with start := s.tick, tickAt := s.tick }

/-- R288: a SYNC acts at the present tick. -/
def State.syncNow (s : State) (n g start restart : Nat) : State :=
  let s := s.each (bitList restart 8) (fun s e => s.restartEngine n g e)
  s.each (bitList start 8) (fun s e => s.startEngine n g e)

/-- R288: `FCn_PIOg_SYNC` written. -/
def State.writeSync (s : State) (n g v : Nat) : State :=
  let start := bitsOf v 0 8
  let restart := bitsOf v 8 8
  let named := bitList (start ||| restart) 8
  let others := (List.range 8).filter (fun e => s.engState n g e != 0 || named.contains e)
  let t := s.get64 (FC_PIO_SYNC_TIME_LO n g) (FC_PIO_SYNC_TIME_HI n g)
  if (s.group n g).sync.isSome ∨ ¬ named.all (fun e => s.engSound n g e)
      ∨ named.any (fun a => others.any (fun b => a != b && s.portsMeet n g a b))
      ∨ (v.testBit 16 ∧ t < s.ringTime + 10000) then s.raise (FC_PIO_ERR_CFG_REJECT n g)
  else if v.testBit 16 then
    (s.setGroup n g { s.group n g with sync := some (start, restart) }).put (FC_PIO_STATE_SYNC_PENDING n g) 1
  else s.syncNow n g start restart

/-- R288: a SYNC that names engines to start. -/
def execPioSyncStart (n : Fin 6) (g : Fin 4) (val : Word) (s : State) : Host.Outcome State Fault Refusal :=
  .next (if s.isUp (dFC n) then s.writeSync n g val.toNat else s)

/-- R288: a SYNC that names engines whose dividers restart. -/
def execPioSyncRestart (n : Fin 6) (g : Fin 4) (val : Word) (s : State) : Host.Outcome State Fault Refusal :=
  .next (if s.isUp (dFC n) then s.writeSync n g val.toNat else s)

/-- R288: ring time reaches `SYNC_TIME`. -/
def execPioSyncTimeReached (n : Fin 6) (g : Fin 4) (s : State) : Host.Outcome State Fault Refusal :=
  .next (
    match (s.group n g).sync with
    | some (start, restart) =>
      if s.get64 (FC_PIO_SYNC_TIME_LO n g) (FC_PIO_SYNC_TIME_HI n g) ≤ s.ringTime then
        ((s.setGroup n g { s.group n g with sync := none }).put (FC_PIO_STATE_SYNC_PENDING n g) 0).syncNow n g start restart
      else s
    | none => s)

/-- R289, R292: an engine is halted by a write: taken out of a start that waits. -/
def State.unSync (s : State) (n g e : Nat) : State :=
  match (s.group n g).sync with
  | some (start, restart) =>
    if start.testBit e then
      (s.setGroup n g { s.group n g with sync := some (clearBit start e, restart) }).raise (FC_PIO_ERR_CFG_REJECT n g)
    else s
  | none => s

/-- R289: a 1 in `FCn_PIOg_HALT`. `cuts` gives, for an engine that was in a SHIFT, the bits shifted by then and their samples. -/
def State.haltWrite (s : State) (n g mask : Nat) (cuts : List (Nat × Nat × List Bool)) : State :=
  let one (s : State) (e : Nat) : State :=
    let s := s.unSync n g e
    let w := s.pioWord n g e
    let s := match cuts.find? (fun c => c.1 == e) with
      | some (_, k, rx) =>
        if s.engState n g e = 1 ∧ ¬ (s.eng n g e).delay ∧ opOf w = 0 ∧ s.pioLegal n g e w then
          (s.shiftRun n g e w (min k (countOf w)) rx 0).put (FC_PIO_ENG_STATUS_ABORTED n g e) 1
        else s
      | none => s
    s.haltEngine n g e 2
  (s.each (bitList mask 8) one).payFails

/-- R289: a write of `FCn_PIOg_HALT`. -/
def execPioHaltCmd (n : Fin 6) (g : Fin 4) (mask : BitVec 8) (cuts : List (Nat × Nat × List Bool)) (s : State) :
    Host.Outcome State Fault Refusal :=
  .next (if s.isUp (dFC n) then s.haltWrite n g mask.toNat cuts else s)

/-- R284, R292: `FCn_PIOg_EVF_SET` written. -/
def execEvfSet (n : Fin 6) (g : Fin 4) (val : Word) (s : State) : Host.Outcome State Fault Refusal :=
  .next (if s.isUp (dFC n) then s.orBits (FC_PIO_EVF_SET n g) (val.toNat % 256) else s)

/-- R292: `FCn_PIOg_EVF_CLR` written. -/
def execEvfClr (n : Fin 6) (g : Fin 4) (val : Word) (s : State) : Host.Outcome State Fault Refusal :=
  .next (if s.isUp (dFC n) then s.dropBits (FC_PIO_EVF_SET n g) (val.toNat % 256) else s)

/-- R290, R496: a program word written while every engine whose region holds it is halted, or with its present value. -/
def State.writeProg (s : State) (n g w v : Nat) : State :=
  if v ≠ s.get (FC_PIO_PROG n g w) ∧ (List.range 8).any (fun e => s.engState n g e != 0 && s.inRegion n g e w) then s.raise (FC_PIO_ERR_PROG_REJECT n g)
  else s.put (FC_PIO_PROG n g w) v

/-- R290: a write of `FCn_PIOg_PROGw`. -/
def execPioProgWrite (n : Fin 6) (g : Fin 4) (w : Fin 128) (val : Word) (s : State) : Host.Outcome State Fault Refusal :=
  .next (if s.isUp (dFC n) then s.writeProg n g w val.toNat else s)

end Sys2Proof.Machine
end

