-- ==== Sys2Proof/Machine/Bulk.lean ====
section
/-! DEFINITION. Bulk queues (R128, R338, R339, R346): byte rings in LPDDR5, puts, gets and their retirement, and reported loss. -/

namespace Sys2Proof.Machine

open Sys2Proof.Machine.Reg

/-- The endpoint of bulk queue `q` (R338). -/
def epBulk (q : Nat) : Nat := 0x600 + q

/-- The first byte of queue `q`'s ring and its size in bytes. -/
def State.bulkBase (s : State) (q : Nat) : Nat := s.get (SIG_BULK_CFG_BASE q) * 4096
def State.bulkSize (s : State) (q : Nat) : Nat := 2 ^ s.get (SIG_BULK_CFG_LOG2_SIZE q)

/-- R338, R339: the bytes held in a queue, and AON's bit of it. -/
def State.setFill (s : State) (q n : Nat) : State :=
  let s := s.put (SIG_BULK_FILL q) n
  { s with bulk := { s.bulk with bits := if n = 0 then clearBit s.bulk.bits q else setBit s.bulk.bits q } }

/-- `n` bytes written into the ring of queue `q` from place `i` on. -/
def State.ringWrite (s : State) (q i : Nat) (bytes : List Byte) : State :=
  let i := i % s.bulkSize q
  let (a, b) := bytes.splitAt (s.bulkSize q - i)
  (s.memWrite (s.bulkBase q + i) a).memWrite (s.bulkBase q) b

/-- `n` bytes of the ring of queue `q` from place `i` on. -/
def State.ringRead (s : State) (q i n : Nat) : List Byte :=
  let i := i % s.bulkSize q
  let a := min n (s.bulkSize q - i)
  s.memRead (s.bulkBase q + i) a ++ s.memRead (s.bulkBase q) (n - a)

/-- R338: retired gets at the front of a queue's promises take their bytes out of it. -/
def State.leaveBytes : Nat → State → Nat → State
  | 0, s, _ => s
  | fuel + 1, s, q =>
    match s.bulk.gets.find? (fun g => g.q == q) with
    | none => s
    | some g =>
      if ¬ g.done then s
      else
        let rd := SMap.getD s.bulk.rd q 0 + g.n
        let gets := s.bulk.gets.erase g
        let s : State := { s with bulk := { s.bulk with gets, rd := SMap.insert s.bulk.rd q (rd % s.bulkSize q) } }
        State.leaveBytes fuel (s.setFill q (s.get (SIG_BULK_FILL q) - g.n)) q

/-- R338: the bytes of retired gets leave their queues. -/
def State.settleBulk (s : State) : State :=
  ((s.bulk.gets.map (fun g => g.q)).eraseDups).foldl (fun s q => s.leaveBytes s.bulk.gets.length q) s

/-- The queue of an endpoint that takes items: SIG and LPDDR5 are up, and LPDDR5 is not threatened (R28). -/
def State.bulkReady (s : State) (src sq wsn op : Nat) : Option (Work × Nat) :=
  if ¬ (s.isUp dSIG ∧ s.isUp dMEM) ∨ s.isThreat dMEM then none
  else match s.readyWork src sq wsn op with
    | some w => if 0x600 ≤ w.ep ∧ w.ep < 0x800 then some (w, w.ep - 0x600) else none
    | none => none

/-- R339: the first item to a queue that has lost its bytes: the queue is then empty and in use. -/
def State.bulkLost (s : State) (w : Work) (q : Nat) : State :=
  let s : State := { s with bulk := { s.bulk with
    rd := SMap.erase s.bulk.rd q, gets := s.bulk.gets.filter (fun g => g.q != q) } }
  ((s.put (SIG_BULK_STATUS q) 0).setFill q 0).failWork w 0x20 0 0x08

/-- R338, R339: a `BULK_PUT` appends its bytes, or completes `BULK_FULL` or `BULK_LOST`. -/
def State.bulkTake (s : State) (w : Work) (q : Nat) : State :=
  let fill := s.get (SIG_BULK_FILL q)
  if s.flag (SIG_BULK_STATUS q) then s.bulkLost w q
  else if s.bulkSize q < fill + w.data.length then s.failWork w 0x20 0 0x07
  else ((s.ringWrite q (SMap.getD s.bulk.rd q 0 + fill) w.data).setFill q (fill + w.data.length)).commitInternal w w.length

/-- R338: a `BULK_PUT` item. -/
def execBulkPut (src sq wsn : Nat) (s : State) : Host.Outcome State Fault Refusal :=
  .next (
    let s := s.settleBulk
    match s.bulkReady src sq wsn 0x40 with
    | none => s
    | some (w, q) => s.bulkTake w q)

/-- R128, R338, R339: a `BULK_GET` copies the bytes that no earlier unretired get has been promised. They leave the queue when it
retires. A get carried out again answers with the bytes promised to it before. -/
def State.bulkGive (s : State) (w : Work) (q : Nat) : State :=
  if s.flag (SIG_BULK_STATUS q) then s.bulkLost w q
  else
    let mine (g : BulkGet) : Bool := g.q == q && g.src == w.src && g.sq == w.sq && g.wsn == w.wsn
    let before := (s.bulk.gets.filter (fun g => g.q == q)).takeWhile (fun g => !mine g)
    let off := (before.map (fun g => g.n)).sum
    let old := s.bulk.gets.find? mine
    let n := match old with
      | some g => g.n
      | none => min w.length (s.get (SIG_BULK_FILL q) - off)
    let bytes := s.ringRead q (SMap.getD s.bulk.rd q 0 + off) n
    let here := decide (w.src = s.nodeId)
    let g : BulkGet := { q, src := w.src, sq := w.sq, wsn := w.wsn, gen := w.gen, n, done := here }
    let gets := if old.isSome then s.bulk.gets.map (fun x => if mine x then g else x) else s.bulk.gets ++ [g]
    let s : State := { s with bulk := { s.bulk with gets } }
    (s.returnData w bytes 0).settleBulk

/-- R338: a `BULK_GET` item. -/
def execBulkGet (src sq wsn : Nat) (s : State) : Host.Outcome State Fault Refusal :=
  .next (
    let s := s.settleBulk
    match s.bulkReady src sq wsn 0x41 with
    | none => s
    | some (w, q) => s.bulkGive w q)

/-- R338: the region of queue `q` with a configuration overlaps another enabled queue. -/
def State.bulkOverlap (s : State) (q base size : Nat) : Bool :=
  (List.range 512).any (fun p => p != q && s.flag (SIG_BULK_CFG_EN p)
    && s.bulkBase p < base + size && base < s.bulkBase p + s.bulkSize p)

/-- R338, R346: `SIG_BULKq_CFG` written. -/
def State.writeBulkCfg (s : State) (q v : Nat) : State :=
  let size := bitsOf v 24 5
  let base := v % 2 ^ 22
  let en := v.testBit 31
  let was := s.flag (SIG_BULK_CFG_EN q)
  let moved := size ≠ s.get (SIG_BULK_CFG_LOG2_SIZE q) ∨ base ≠ s.get (SIG_BULK_CFG_BASE q)
  let bad := base * 4096 < 0x04800000 ∨ s.get MEM_STATUS_SIZE_GIB * 2 ^ 30 < base * 4096 + 2 ^ size
    ∨ s.bulkOverlap q (base * 4096) (2 ^ size)
  if size < 12 ∨ 30 < size ∨ (moved ∧ (was ∨ s.get (SIG_BULK_FILL q) ≠ 0)) ∨ (en ∧ ¬ was ∧ bad) then s.raise SIG_ERR_CFG_REJECT
  else
    let s := ((s.put (SIG_BULK_CFG_EN q) (b2n en)).put (SIG_BULK_CFG_LOG2_SIZE q) size).put (SIG_BULK_CFG_BASE q) base
    s.reannounce (epBulk q) (4 * b2n en)

end Sys2Proof.Machine
end

