-- ==== Sys2Proof/Machine/VisMath.lean ====
section
/-! DEFINITION. The arithmetic of the vision pipeline (R347, R369, R373, R375-R378): packed lines, stages, scalers, formats and
statistics, over the registers of a parameter set. -/

namespace Sys2Proof.Machine

open Sys2Proof.Machine.Reg

/-! ### Images -/

/-- An image of samples, as rows. -/
abbrev Img := List (List Int)

/-- An image of R, G and B samples, or of Y, Cb and Cr. -/
abbrev Img3 := List (List (Int × Int × Int))

/-- The sample at column `x` of row `y`. -/
def Img.at' (m : Img) (x y : Nat) : Int := (m.getD y []).getD x 0

/-- The samples at column `x` of row `y`. -/
def Img3.at' (m : Img3) (x y : Nat) : Int × Int × Int := (m.getD y []).getD x (0, 0, 0)

/-- The image whose sample at column `x` of row `y` is `f x y`. -/
def imgOf {α : Type} (w h : Nat) (f : Nat → Nat → α) : List (List α) :=
  (List.range h).map (fun y => (List.range w).map (fun x => f x y))

/-- R369: a result rounded to the nearest integer, halves away from zero, and clamped. -/
def stageOut (lo hi : Int) (num den : Int) : Int := clampInt lo hi (divRoundAway num den)

/-- The range of the samples of stages 1 to 9. -/
def out14 (num den : Int) : Int := stageOut 0 16383 num den

/-- R369: a coordinate mirrored at the edges of `n` samples. -/
def mirror (n : Nat) (i : Int) : Nat :=
  let j := if i < 0 then -i else if (n : Int) ≤ i then 2 * ((n : Int) - 1) - i else i
  min (n - 1) j.toNat

/-- R369: the eight pixels of the same Bayer colour at distance 2. -/
def sameColour (m : Img) (w h x y : Nat) : List Int :=
  [((-2 : Int), (-2 : Int)), (0, -2), (2, -2), (-2, 0), (2, 0), (-2, 2), (0, 2), (2, 2)].map (fun (dx, dy) =>
    m.at' (mirror w (x + dx)) (mirror h (y + dy)))

/-- R369: the Bayer channel of a pixel: 0 R, 1 Gr, 2 Gb, 3 B. -/
def bayerCh (bayer x y : Nat) : Nat :=
  let i := 2 * (y % 2) + x % 2
  if bayer = 0 then i
  else if bayer = 1 then [1, 0, 3, 2].getD i 0
  else if bayer = 2 then [2, 3, 0, 1].getD i 0
  else 3 - i

/-! ### Lines (R347-R349) -/

/-- The bits of a pixel of a data type: RAW8, RAW10, RAW12 or RAW14. -/
def dtBits (dt : Nat) : Nat := if dt = 0x2A then 8 else if dt = 0x2B then 10 else if dt = 0x2C then 12 else 14

/-- R348: the bytes of a line of `w` pixels. -/
def lineBytes (w dt : Nat) : Nat := ceilDiv (w * dtBits dt) 8

/-- Pixel `x` of a packed line, in the packing of CSI-2. -/
def rawPixel (dt : Nat) (bs : List Byte) (x : Nat) : Nat :=
  let b (i : Nat) : Nat := (bs.getD i 0).toNat
  if dt = 0x2A then b x
  else if dt = 0x2B then b (x / 4 * 5 + x % 4) * 4 + bitsOf (b (x / 4 * 5 + 4)) (2 * (x % 4)) 2
  else if dt = 0x2C then b (x / 2 * 3 + x % 2) * 16 + bitsOf (b (x / 2 * 3 + 2)) (4 * (x % 2)) 4
  else
    let low := b (x / 4 * 7 + 4) + 256 * b (x / 4 * 7 + 5) + 65536 * b (x / 4 * 7 + 6)
    b (x / 4 * 7 + x % 4) * 64 + bitsOf low (6 * (x % 4)) 6

/-! ### Stages (R369, R373) -/

/-- Stage 1: unpack. -/
def stage1 (w dt : Nat) (rows : List (List Byte)) : Img :=
  rows.map (fun bs => (List.range w).map (fun x => ((rawPixel dt bs x * 2 ^ (14 - dtBits dt) : Nat) : Int)))

/-- Stage 2: spatial noise reduction. -/
def State.stage2 (s : State) (k w h : Nat) (m : Img) : Img :=
  if ¬ s.flag (VIS_SET_SNR_EN k) then m
  else imgOf w h (fun x y =>
    let v := m.at' x y
    let base : Int := max 0 (v - s.get (VIS_SET_SNR_PEDESTAL k))
    -- 256 times the variance.
    let var : Int := 256 * s.get (VIS_SET_SNR_NOISE_A k) + s.get (VIS_SET_SNR_NOISE_B k) * base
    let near := (sameColour m w h x y).filter (fun n => decide (256 * (n - v) * (n - v) ≤ 4 * var))
    let cnt : Int := near.length + 1
    let sum : Int := near.sum + v
    out14 (v * 256 * cnt + (sum - cnt * v) * s.get (VIS_SET_SNR_STRENGTH k)) (256 * cnt))

/-- Stage 3: temporal noise reduction against a valid reference. -/
def State.stage3 (s : State) (k w h : Nat) (ref : Option Img) (m : Img) : Img :=
  match ref with
  | none => m
  | some r =>
    if ¬ s.flag (VIS_SET_TNR_EN k) then m
    else imgOf w h (fun x y =>
      let v := m.at' x y
      let o := r.at' x y
      if (v - o).natAbs ≤ s.get (VIS_SET_TNR_MOTION_TH k) then out14 (o * 256 + (v - o) * (s.get (VIS_SET_TNR_ALPHA k) + 1)) 256
      else v)

/-- The black level and its gain of a channel. -/
def State.blackLevel (s : State) (k ch : Nat) : Nat × Nat :=
  if ch = 0 then (s.get (VIS_SET_BL01_BL0 k), s.get (VIS_SET_BLG01_BLG0 k))
  else if ch = 1 then (s.get (VIS_SET_BL01_BL1 k), s.get (VIS_SET_BLG01_BLG1 k))
  else if ch = 2 then (s.get (VIS_SET_BL23_BL2 k), s.get (VIS_SET_BLG23_BLG2 k))
  else (s.get (VIS_SET_BL23_BL3 k), s.get (VIS_SET_BLG23_BLG3 k))

/-- Stage 4: black level. -/
def State.stage4 (s : State) (k bayer w h : Nat) (m : Img) : Img :=
  imgOf w h (fun x y =>
    let (bl, g) := s.blackLevel k (bayerCh bayer x y)
    out14 (max 0 (m.at' x y - bl) * g) 4096)

/-- Stage 5: defect pixels. -/
def State.stage5 (s : State) (k w h : Nat) (m : Img) : Img :=
  if ¬ s.flag (VIS_SET_DPC_EN k) then m
  else imgOf w h (fun x y =>
    let v := m.at' x y
    let l := (sameColour m w h x y).mergeSort (fun a b => decide (a ≤ b))
    let th : Int := s.get (VIS_SET_DPC_TH k)
    if l.getD 7 0 + th < v ∨ v < l.getD 0 0 - th then out14 (l.getD 3 0 + l.getD 4 0) 2 else v)

/-- The lens-shading gain of a channel at grid point `m`. -/
def State.lscGain (s : State) (k ch m : Nat) : Nat :=
  if ch = 0 then s.get (VIS_SET_LSC_A_LO k m) else if ch = 1 then s.get (VIS_SET_LSC_A_HI k m)
  else if ch = 2 then s.get (VIS_SET_LSC_B_LO k m) else s.get (VIS_SET_LSC_B_HI k m)

/-- The grid cell of coordinate `x` of `n` pixels: its first point, the part of the cell passed, and the whole cell. -/
def gridCell (n x : Nat) : Nat × Nat × Nat :=
  if n ≤ 1 then (0, 0, 1)
  else
    let i := min 15 (x * 16 / (n - 1))
    (i, x * 16 - i * (n - 1), n - 1)

/-- Stage 6: lens shading, on an image of `w` by `fullH` pixels. -/
def State.stage6 (s : State) (k bayer w h fullH : Nat) (m : Img) : Img :=
  if ¬ s.flag (VIS_SET_LSC k) then m
  else imgOf w h (fun x y =>
    let ch := bayerCh bayer x y
    let (i, rx, dx) := gridCell w x
    let (j, ry, dy) := gridCell fullH y
    let g (a b : Nat) : Int := s.lscGain k ch (17 * (j + b) + i + a)
    let num : Int := g 0 0 * (dx - rx) * (dy - ry) + g 1 0 * rx * (dy - ry) + g 0 1 * (dx - rx) * ry + g 1 1 * rx * ry
    out14 (m.at' x y * num) (4096 * dx * dy))

/-- Stage 7: white balance. -/
def State.stage7 (s : State) (k bayer w h : Nat) (m : Img) : Img :=
  imgOf w h (fun x y =>
    let ch := bayerCh bayer x y
    let g := if ch = 0 then s.get (VIS_SET_WB_RG_WB_R k) else if ch = 3 then s.get (VIS_SET_WB_B k) else s.get (VIS_SET_WB_RG_WB_G k)
    out14 (m.at' x y * g) 4096)

/-- Stage 8: demosaic. The interpolation's values are the implementation's. -/
def stage8 (bayer w h : Nat) (m : Img) : Img3 :=
  imgOf w h (fun x y =>
    let (r, g, b) := Config.demosaic bayer m x y
    (clampInt 0 16383 r, clampInt 0 16383 g, clampInt 0 16383 b))

/-- Coefficient c`i` of colour correction. -/
def State.ccm (s : State) (k i : Nat) : Int :=
  sext 16 (if i % 2 = 1 then s.get (VIS_SET_CCM_HI k (i / 2)) else s.get (VIS_SET_CCM_LO k (i / 2)))

/-- Stage 9: colour correction. -/
def State.stage9 (s : State) (k w h : Nat) (m : Img3) : Img3 :=
  imgOf w h (fun x y =>
    let (r, g, b) := m.at' x y
    let row (i : Nat) (off : Field) : Int :=
      out14 (s.ccm k i * r + s.ccm k (i + 1) * g + s.ccm k (i + 2) * b + sext 16 (s.get off) * 4096) 4096
    (row 0 (VIS_SET_CCM_OFF01_OFF_R k), row 3 (VIS_SET_CCM_OFF01_OFF_G k), row 6 (VIS_SET_CCM_OFF2 k)))

/-- Point `i` of the tone curve. -/
def State.tonePoint (s : State) (k i : Nat) : Int :=
  if i % 2 = 1 then s.get (VIS_SET_TONE_P1 k (i / 2)) else s.get (VIS_SET_TONE_P0 k (i / 2))

/-- Stage 10 of one sample. -/
def State.tone (s : State) (k : Nat) (v : Int) : Int :=
  if s.flag (VIS_SET_TONE_CSC_TONE_EN k) then
    let i := v.toNat / 128
    let a := s.tonePoint k i
    stageOut 0 1023 (a * 128 + (s.tonePoint k (i + 1) - a) * ((v.toNat % 128 : Nat) : Int)) 128
  else ((v.toNat / 16 : Nat) : Int)

/-- Stage 10: tone and gamma. -/
def State.stage10 (s : State) (k w h : Nat) (m : Img3) : Img3 :=
  imgOf w h (fun x y =>
    let (r, g, b) := m.at' x y
    (s.tone k r, s.tone k g, s.tone k b))

/-- The luma weights of a standard, in 1/10,000 (ITU-R BT.709 or BT.601). -/
def lumaWeights (csc : Nat) : Int × Int × Int := if csc ≤ 1 then (2126, 7152, 722) else (2990, 5870, 1140)

/-- Stage 11 of one pixel: 10-bit Y, Cb and Cr. -/
def csc (mode : Nat) (p : Int × Int × Int) : Int × Int × Int :=
  let (r, g, b) := p
  let (kr, kg, kb) := lumaWeights mode
  let y := kr * r + kg * g + kb * b
  let limited := mode % 2 == 0
  -- Y of full scale 10,000 * 1,023; B - Y and R - Y of full scale 2 * (10,000 - k) * 1,023.
  let ys : Int := if limited then 876 else 1023
  let cs : Int := if limited then 896 else 1023
  let y0 : Int := if limited then 64 else 0
  let (ylo, yhi, clo, chi) : Int × Int × Int × Int := if limited then (64, 940, 64, 960) else (0, 1023, 0, 1023)
  let c (v kk : Int) : Int :=
    let den := 2 * (10000 - kk) * 1023
    stageOut clo chi (512 * den + cs * (10000 * v - y)) den
  (stageOut ylo yhi (y0 * 10230000 + ys * y) 10230000, c b kb, c r kr)

/-- Stage 11: colour space conversion. -/
def State.stage11 (s : State) (k w h : Nat) (m : Img3) : Img3 :=
  imgOf w h (fun x y => csc (s.get (VIS_SET_TONE_CSC_CSC k)) (m.at' x y))

/-! ### Scalers and formats (R376, R377) -/

/-- The edge of output pixel `i` of `out` over `size` source pixels, in 1/256 pixel (R377). -/
def footEdge (size out i : Nat) : Nat :=
  let a := 256 * size * i
  if a % out = 0 then a / out else a / out + b2n (Config.edgeUp a out)

/-- The source pixels under output pixel `i`, each with its weight. -/
def footprint (size out i : Nat) : List (Nat × Nat) :=
  let a := footEdge size out i
  let b := footEdge size out (i + 1)
  (List.range (ceilDiv b 256 - a / 256)).map (fun j =>
    let p := a / 256 + j
    (p, min b (256 * (p + 1)) - max a (256 * p)))

/-- R377: the area-weighted mean of `f` under a footprint of columns and rows. -/
def areaMean (f : Nat → Nat → Int) (xs ys : List (Nat × Nat)) : Int :=
  let cells := ys.flatMap (fun (y, wy) => xs.map (fun (x, wx) => (f x y * ((wx * wy : Nat) : Int), wx * wy)))
  divRoundAway (cells.map (fun c => c.1)).sum (((cells.map (fun c => c.2)).sum : Nat) : Int)

/-- One output plane, scaled from the crop at (`x0`, `y0`) of `cw` by `ch` pixels to `ow` by `oh`. -/
def scale (x0 y0 cw ch ow oh : Nat) (f : Nat → Nat → Int) : Img :=
  imgOf ow oh (fun x y => areaMean (fun a b => f (x0 + a) (y0 + b)) (footprint cw ow x) (footprint ch oh y))

/-- R377: output rows whose source rows are among the first `kept` of the image. -/
def rowsWhole (y0 ch oh kept : Nat) : Nat :=
  ((List.range oh).takeWhile (fun y => y0 + ceilDiv (footEdge ch oh (y + 1)) 256 ≤ kept)).length

/-- One byte of an 8-bit sample of a 10-bit value. -/
def b8 (v : Int) : List Byte := leBytes 1 (v.toNat / 4)

/-- A 16-bit sample. -/
def b16 (v : Nat) : List Byte := leBytes 2 v

/-- The rows of a plane as bytes. -/
def planeRows (m : Img) (n : Nat) (f : Int → List Byte) : List (List Byte) := (m.take n).map (fun r => r.flatMap f)

/-- R377: the chroma rows of NV12 and P010: the means of 2 by 2 blocks of Cb and Cr, interleaved. -/
def chromaRows (cb cr : Img) (w n : Nat) (f : Int → List Byte) : List (List Byte) :=
  (List.range (n / 2)).map (fun y => (List.range (w / 2)).flatMap (fun x =>
    let mean (m : Img) : Int :=
      divRoundAway (m.at' (2 * x) (2 * y) + m.at' (2 * x + 1) (2 * y) + m.at' (2 * x) (2 * y + 1) + m.at' (2 * x + 1) (2 * y + 1)) 4
    f (mean cb) ++ f (mean cr)))

/-- R377: the image bytes of a whole image of a format. -/
def fullBytes (fmt w h : Nat) : Nat :=
  if fmt = 0 ∨ fmt = 5 then 3 * w * h
  else if fmt = 1 then w * h + 2 * (w / 2) * (h / 2)
  else if fmt = 2 then 2 * (w * h + 2 * (w / 2) * (h / 2))
  else if fmt = 3 then w * h
  else if fmt = 4 ∨ fmt = 6 then 2 * w * h
  else 6 * w * h

/-- R377, R384: the bytes of the longest row of a format. -/
def rowBytes (fmt w : Nat) : Nat :=
  if fmt = 0 then 3 * w else if fmt = 2 ∨ fmt = 4 ∨ fmt = 6 then 2 * w else if fmt = 7 then 6 * w else w

/-- The place and the size of an output (R376, R378): format, crop and scaled size, and the size with padding. -/
structure OutGeom where
  fmt : Nat
  x   : Nat
  y   : Nat
  cw  : Nat
  ch  : Nat
  ow  : Nat
  oh  : Nat
  pw  : Nat
  ph  : Nat
  deriving DecidableEq, Repr

/-- `n` rounded up to a multiple of `a`. -/
def roundUp (n a : Nat) : Nat := ceilDiv n a * a

/-- R376, R378: the geometry of output `kind` (0 DISP, 1 CODE, 2 MV, 3 TAP, 4 STATS) and ROI `roi` of camera `c` under set `k`. -/
def State.geom (s : State) (c k kind roi : Nat) : OutGeom :=
  let w := s.get (VIS_CAM_SIZE_WIDTH c)
  let h := s.get (VIS_CAM_SIZE_HEIGHT c)
  if kind ≤ 1 then
    let ow := s.get (VIS_SET_OUT_OUT_WH_OUT_W k kind)
    let oh := s.get (VIS_SET_OUT_OUT_WH_OUT_H k kind)
    let al := if kind = 1 then [1, 16, 32, 64].getD (s.get (VIS_SET_OUT_FMT_MB_ALIGN k kind)) 1 else 1
    { fmt := s.get (VIS_SET_OUT_FMT_FORMAT k kind), x := s.get (VIS_SET_OUT_CROP_XY_X k kind)
      y := s.get (VIS_SET_OUT_CROP_XY_Y k kind), cw := s.get (VIS_SET_OUT_CROP_WH_W k kind)
      ch := s.get (VIS_SET_OUT_CROP_WH_H k kind), ow, oh, pw := roundUp ow al, ph := roundUp oh al }
  else if kind = 2 then
    let d := 2 ^ s.get (VIS_SET_MV_FMT_SCALE k)
    let cw := s.get (VIS_SET_ROI_WH_W k roi)
    let ch := s.get (VIS_SET_ROI_WH_H k roi)
    { fmt := s.get (VIS_SET_MV_FMT_FORMAT k), x := s.get (VIS_SET_ROI_XY_X k roi), y := s.get (VIS_SET_ROI_XY_Y k roi)
      cw, ch, ow := cw / d, oh := ch / d, pw := cw / d, ph := ch / d }
  else if kind = 3 then
    { fmt := if s.get (VIS_CAM_PIPE_TAP_POINT c) ≤ 1 then 6 else 7, x := 0, y := 0, cw := w, ch := h, ow := w, oh := h, pw := w, ph := h }
  else { fmt := 0, x := 0, y := 0, cw := w, ch := h, ow := w / 32, oh := h / 32, pw := w / 32, ph := h / 32 }

/-- The image bytes of a whole output. -/
def State.fullSize (s : State) (c k kind roi : Nat) : Nat :=
  if kind = 4 then 3328
  else
    let g := s.geom c k kind roi
    fullBytes g.fmt g.pw g.ph

/-- The ROIs of an output kind: those of `ROI_EN` for MV, and 0. -/
def State.roisOf (s : State) (k kind : Nat) : List Nat := if kind = 2 then bitList (s.get (VIS_SET_MV_FMT_ROI_EN k)) 4 else [0]

/-- R384: a row of `n` bytes fits a transmitter at a camera's line period. -/
def State.csiFits (s : State) (c t n : Nat) : Bool :=
  let lanes := if s.get (VIS_CST_CFG_LANES t) = 0 then 1 else if s.get (VIS_CST_CFG_LANES t) = 1 then 2 else 4
  (n + 12) * 8 * 10000 ≤ 9 * lanes * s.get (VIS_CST_CFG_LANE_MBPS t) * s.get (VIS_CAM_LINE_NS c)

/-- R376: an output of a set meets the rules for camera `c`. -/
def State.outFits (s : State) (c k kind : Nat) : Bool :=
  let w := s.get (VIS_CAM_SIZE_WIDTH c)
  let h := s.get (VIS_CAM_SIZE_HEIGHT c)
  let rois := s.roisOf k kind
  rois != [] && rois.all (fun r =>
    let g := s.geom c k kind r
    let inside := g.cw != 0 && g.ch != 0 && g.x + g.cw ≤ w && g.y + g.ch ≤ h
    let scaled := g.ow ≤ g.cw && g.cw ≤ 16 * g.ow && g.oh ≤ g.ch && g.ch ≤ 16 * g.oh
    let d := 2 ^ s.get (VIS_SET_MV_FMT_SCALE k)
    let rules : Bool :=
      if kind = 0 then g.fmt ≤ 1 && inside && scaled
      else if kind = 1 then (g.fmt == 1 || g.fmt == 2) && inside && scaled && g.ow % 2 == 0 && g.oh % 2 == 0
      else if kind = 2 then 3 ≤ g.fmt && g.fmt ≤ 5 && inside && g.cw % d == 0 && g.ch % d == 0
      else true
    rules && 48 + s.fullSize c k kind r ≤ s.get (VIS_CAM_OUT_MAX c kind)
    && (s.get (VIS_CAM_OUT_CFG_DEST c kind) != 2
        || (kind != 4 && s.csiFits c (s.get (VIS_CAM_OUT_CFG_ADDR c kind) % 2) (rowBytes g.fmt g.pw))))

/-- R376: set `k` fits camera `c`. -/
def State.setFits (s : State) (c k : Nat) : Bool :=
  (List.range 5).all (fun o => !s.flag (VIS_CAM_OUT_CFG_EN c o) || s.outFits c k o)

/-! ### A frame's images -/

/-- The images of a frame after its stages. -/
structure Stages where
  s1  : Img
  s3  : Img
  s6  : Img
  s8  : Img3
  s9  : Img3
  s10 : Img3
  s11 : Img3

/-- R369: the stages of a frame of camera `c` under set `k`, from its packed lines and the valid reference. -/
def State.stages (s : State) (c k : Nat) (rows : List (List Byte)) (ref : Option Img) : Stages :=
  let w := s.get (VIS_CAM_SIZE_WIDTH c)
  let h := rows.length
  let bayer := s.get (VIS_CAM_PIPE_BAYER c)
  let s1 := stage1 w (s.get (VIS_CAM_CFG_DT c)) rows
  let s3 := s.stage3 k w h ref (s.stage2 k w h s1)
  let s6 := s.stage6 k bayer w h (s.get (VIS_CAM_SIZE_HEIGHT c)) (s.stage5 k w h (s.stage4 k bayer w h s3))
  let s8 := stage8 bayer w h (s.stage7 k bayer w h s6)
  let s9 := s.stage9 k w h s8
  let s10 := s.stage10 k w h s9
  { s1, s3, s6, s8, s9, s10, s11 := s.stage11 k w h s10 }

/-- The rows of an output, one byte string a row, and the number of pixel rows delivered (R376-R378). -/
def State.outputRows (s : State) (c k kind roi : Nat) (st : Stages) : List (List Byte) × Nat :=
  let g := s.geom c k kind roi
  let kept := st.s1.length
  if kind = 3 then
    let p := s.get (VIS_CAM_PIPE_TAP_POINT c)
    let rows := if p ≤ 1 then (if p = 0 then st.s1 else st.s3).map (fun r => r.flatMap (fun v => b16 v.toNat))
      else (if p = 2 then st.s8 else st.s9).map (fun r => r.flatMap (fun (a, b, d) => b16 a.toNat ++ b16 b.toNat ++ b16 d.toNat))
    (rows, kept)
  else
    let n := rowsWhole g.y g.ch g.oh kept
    let n := if n = g.oh then g.ph else n
    let src : Img3 := if g.fmt = 0 ∨ g.fmt = 5 then st.s10 else if g.fmt = 4 then st.s9 else st.s11
    let one (f : Int × Int × Int → Int) : Img := scale g.x g.y g.cw g.ch g.ow g.oh (fun x y => f (src.at' x y))
    let padded (m : Img) : Img := imgOf g.pw g.ph (fun x y => m.at' (min x (g.ow - 1)) (min y (g.oh - 1)))
    if g.fmt = 0 then
      let r := one (fun p => p.1)
      let gr := one (fun p => p.2.1)
      let b := one (fun p => p.2.2)
      ((List.range n).map (fun y => (List.range g.ow).flatMap (fun x => b8 (r.at' x y) ++ b8 (gr.at' x y) ++ b8 (b.at' x y))), n)
    else if g.fmt = 1 then
      (planeRows (padded (one (fun p => p.1))) n b8
        ++ chromaRows (padded (one (fun p => p.2.1))) (padded (one (fun p => p.2.2))) g.pw n b8, n)
    else if g.fmt = 2 then
      let f (v : Int) : List Byte := b16 (v.toNat * 64)
      (planeRows (padded (one (fun p => p.1))) n f
        ++ chromaRows (padded (one (fun p => p.2.1))) (padded (one (fun p => p.2.2))) g.pw n f, n)
    else if g.fmt = 3 then (planeRows (one (fun p => p.1)) n b8, n)
    else if g.fmt = 4 then
      let (kr, kg, kb) := lumaWeights (s.get (VIS_SET_TONE_CSC_CSC k))
      (planeRows (one (fun p => out14 (kr * p.1 + kg * p.2.1 + kb * p.2.2) 10000)) n (fun v => b16 (v.toNat * 4)), n)
    else
      (planeRows (one (fun p => p.1)) n b8 ++ planeRows (one (fun p => p.2.1)) n b8 ++ planeRows (one (fun p => p.2.2)) n b8, n)

/-! ### Statistics (R375) -/

/-- R375: the statistics body of a frame, from the output of stage 6. -/
def statsBody (bayer w h : Nat) (m : Img) : List Byte :=
  let zw := w / 32
  let zh := h / 32
  -- One quad's R, G and B.
  let quad (qx qy : Nat) : Int × Int × Int :=
    let px := [(0, 0), (1, 0), (0, 1), (1, 1)].map (fun (a, b) =>
      (bayerCh bayer (2 * qx + a) (2 * qy + b), m.at' (2 * qx + a) (2 * qy + b)))
    let ch (i : Nat) : Int := ((px.find? (fun p => p.1 == i)).map (fun p => p.2)).getD 0
    (ch 0, divRoundAway (ch 1 + ch 2) 2, ch 3)
  let here (qy : Nat) : Bool := decide (2 * qy + 1 < m.length)
  let zone (z : Nat) : List (Int × Int × Int) :=
    (List.range zh).flatMap (fun j => (List.range zw).filterMap (fun i =>
      let qy := z / 16 * zh + j
      if here qy then some (quad (z % 16 * zw + i) qy) else none))
  let sum32 (l : List Int) : List Byte := leBytes 4 (min (2 ^ 32 - 1) l.sum.toNat)
  let zones := (List.range 256).map zone
  let sums := zones.flatMap (fun q => sum32 (q.map (fun p => p.1)) ++ sum32 (q.map (fun p => p.2.1)) ++ sum32 (q.map (fun p => p.2.2)))
  let bins := zones.flatMap (fun q => q.map (fun (r, g, b) => (divRoundAway (r + 2 * g + b) 4).toNat / 256))
  sums ++ (List.range 64).flatMap (fun i => leBytes 4 (bins.filter (fun x => x == i)).length)

end Sys2Proof.Machine
end

