-- ==== Sys2Proof/Machine/Vision.lean ====
section
/-! DEFINITION. Vision capture and sensor control (R347-R368): receivers, admission, frame numbers and tags, sensor profiles,
settings sets, CCI, and camera states. -/

namespace Sys2Proof.Machine

open Sys2Proof.Machine.Reg

/-- Camera `c` beyond its registers. -/
def State.cam (s : State) (c : Nat) : VisCam := SMap.getD s.vis.cams c {}

/-- Camera `c` replaced, and `QUEUED` of its settings queue. -/
def State.setCam (s : State) (c : Nat) (x : VisCam) : State :=
  State.put { s with vis := { s.vis with cams := SMap.insert s.vis.cams c x } } (VIS_CAM_SET_QUEUED c) x.sets.length

/-- R362: the state of a camera: 0 DISABLED, 1 STARTING, 2 ARMED, 3 RECEIVING. -/
def State.camState (s : State) (c : Nat) : Nat := s.get (VIS_CAM_STATUS_STATE c)

/-- The endpoint of a camera's settings, and of its output `k` (R357, R385). -/
def epCam (c : Nat) : Nat := 0x500 + c
def epOut (c k : Nat) : Nat := 0x510 + 8 * c + k

/-! ### Sensor profiles (R355) -/

/-- A parameter of a profile. -/
structure SensorParam where
  id    : Nat
  reg   : Nat
  bytes : Nat
  delay : Nat
  ok    : Bool
  deriving DecidableEq, Repr

/-- A sensor profile. -/
structure Profile where
  addr    : Nat
  flags   : Nat
  idReg   : Nat
  idValue : Nat
  latchUs : Nat
  ghReg   : Nat
  ghOn    : Nat
  ghOff   : Nat
  params  : List SensorParam
  inits   : List (Nat × Nat)
  ok      : Bool
  deriving DecidableEq, Repr

/-- R355: the profile that begins a byte string, and its size. -/
def readProfile (bs : List Byte) : Profile × Nat :=
  let np := leAt bs 16 1
  let ni := leAt bs 17 2
  let params := (List.range np).map (fun i =>
    let b := 32 + 8 * i
    ({ id := leAt bs b 2, reg := leAt bs (b + 2) 2, bytes := leAt bs (b + 4) 1, delay := leAt bs (b + 5) 1
       ok := leAt bs b 2 != 0 && 1 ≤ leAt bs (b + 4) 1 && leAt bs (b + 4) 1 ≤ 4 && leAt bs (b + 5) 1 ≤ 3
         && leAt bs (b + 6) 2 == 0 && ((1 ≤ leAt bs b 2 && leAt bs b 2 ≤ 4) || 0x100 ≤ leAt bs b 2) } : SensorParam))
  let ids := params.map (fun p => p.id)
  let flags := leAt bs 3 1
  let ok := leAt bs 0 2 != 0 && leAt bs 2 1 < 128 && flags % 4 != 3 && flags / 16 == 0
    && 100 ≤ leAt bs 8 4 && leAt bs 8 4 ≤ 1000000 && 1 ≤ np && np ≤ 64 && ni ≤ 2048 && leAt bs 19 13 == 0
    && params.all (fun p => p.ok) && ids.eraseDups.length == ids.length
  ({ addr := leAt bs 2 1 % 128, flags, idReg := leAt bs 4 2, idValue := leAt bs 6 2, latchUs := leAt bs 8 4
     ghReg := leAt bs 12 2, ghOn := leAt bs 14 1, ghOff := leAt bs 15 1, params
     inits := (List.range ni).map (fun i => (leAt bs (32 + 8 * np + 4 * i) 2, leAt bs (34 + 8 * np + 4 * i) 1)), ok },
   32 + 8 * np + 4 * ni)

/-- Profile `i` of a component. -/
def profileAt : Nat → List Byte → Option Profile
  | 0, bs => if bs.length < 32 then none else some (readProfile bs).1
  | i + 1, bs => if bs.length < 32 then none else profileAt i (bs.drop (readProfile bs).2)

/-- R70, R355: the profile that a camera's configuration names, in component 0x0006 of the running image. -/
def State.profile (s : State) (i : Nat) : Option Profile :=
  let base := slotBase (s.get BOOT_STATUS_SLOT)
  let hdr := readHeader (s.memRead base 1024)
  match hdr.comps.find? (fun c => c.1 == 6) with
  | some (_, off, len, _) => profileAt i (s.memRead (base + off) len)
  | none => none

/-- The profile of camera `c`, where it breaks no range. -/
def State.camProfile (s : State) (c : Nat) : Option Profile :=
  match s.profile (s.get (VIS_CAM_CFG_PROFILE c)) with
  | some p => if p.ok then some p else none
  | none => none

/-- R360: the duration of a CCI write of `v` value bytes, in ns. -/
def Profile.cciNs (p : Profile) (v : Nat) : Nat :=
  9 * (2 + (if p.flags.testBit 2 then 2 else 1) + v) * (if p.flags % 4 = 0 then 10000 else if p.flags % 4 = 1 then 2500 else 1000)

/-- The bytes of a parameter's value in the order in which they are sent. -/
def Profile.valueBytes (p : Profile) (n v : Nat) : List Byte := if p.flags.testBit 3 then (leBytes n v).reverse else leBytes n v

/-! ### Parameter sets in use (R370, R371) -/

/-- R371: the parameter sets in use, as bits. -/
def State.setsInUse (s : State) : Nat :=
  let cams := (List.range 8).flatMap (fun c =>
    let x := s.cam c
    (x.frames.map (fun f => f.set)) ++ ((x.sets.map (fun e => e.pipe)).filter (fun p => decide (p < 16)))
    ++ (if s.flag (VIS_CAM_CFG_EN c) ∨ x.stopping then [s.get (VIS_CAM_PIPE_SET c), s.get (VIS_CAM_PIPE_INIT_SET c)] else []))
  let outs := (s.vis.staged.filter (fun o => !o.sent)).map (fun o => o.set)
  (cams ++ outs).foldl setBit 0

/-- `VIS_PIPE_INUSE` and `VIS_STAGE_FREE` as they stand (R371, R381). -/
def State.showVis (s : State) : State :=
  let used := (s.vis.staged.map (fun o => o.size)).sum
  (s.put VIS_PIPE_INUSE s.setsInUse).put VIS_STAGE_FREE ((s.get VIS_STAGE_SIZE * 2 ^ 20 - used) / 2 ^ 20)

/-! ### Admission and enabling (R348, R350, R362, R372, R374) -/

/-- R350: the pixel rate of camera `c` in Mpixel/s, rounded up. -/
def State.pixelRate (s : State) (c : Nat) : Nat := ceilDiv (s.get (VIS_CAM_SIZE_WIDTH c) * 1000) (s.get (VIS_CAM_LINE_NS c))

/-- R350: the cameras that are enabled, their pixel rates added up. -/
def State.showAdmit (s : State) : State :=
  s.put VIS_ADMIT_USED (((List.range 8).filter (fun c => s.camState c != 0)).map s.pixelRate).sum

/-- Two regions overlap. -/
def overlaps (a n b m : Nat) : Bool := a < b + m && b < a + n

/-- R373: the first byte and the size of camera `c`'s reference. -/
def State.tnrRegion (s : State) (c : Nat) : Nat × Nat :=
  (s.get (VIS_CAM_TNR_BASE c) * 4096, roundUp (s.get (VIS_CAM_SIZE_WIDTH c) * s.get (VIS_CAM_SIZE_HEIGHT c) * 2) 4096)

/-- R381: the first byte and the size of the staging region. -/
def State.stageRegion (s : State) : Nat × Nat := (s.get VIS_STAGE_BASE * 4096, s.get VIS_STAGE_SIZE * 2 ^ 20)

/-- A region that lies below 0x0_0480_0000 or beyond the fitted LPDDR5. -/
def State.regionBad (s : State) (r : Nat × Nat) : Bool := r.1 < 0x04800000 || s.get MEM_STATUS_SIZE_GIB * 2 ^ 30 < r.1 + r.2

/-- R374: an enable of camera `c` fails on its regions. A camera whose `TNR_BASE` is 0 has no reference region. -/
def State.regionFails (s : State) (c : Nat) : Bool :=
  let r := s.tnrRegion c
  let st := s.stageRegion
  let has := s.get (VIS_CAM_TNR_BASE c) != 0
  (s.flag (VIS_SET_TNR_EN (s.get (VIS_CAM_PIPE_INIT_SET c))) && !has)
  || s.regionBad st
  || (has && (s.regionBad r || overlaps r.1 r.2 st.1 st.2
      || (List.range 8).any (fun d => d != c && s.camState d != 0 && s.get (VIS_CAM_TNR_BASE d) != 0
          && overlaps r.1 r.2 (s.tnrRegion d).1 (s.tnrRegion d).2)
      || s.bulkOverlap 512 r.1 r.2))
  || s.bulkOverlap 512 st.1 st.2

/-- R362: the checks of an enable in their order: 0, or the `ERR` code of the first that fails. -/
def State.enableCheck (s : State) (c : Nat) : Nat :=
  let w := s.get (VIS_CAM_SIZE_WIDTH c)
  let dt := s.get (VIS_CAM_CFG_DT c)
  let ns := s.get (VIS_CAM_LINE_NS c)
  if (s.camProfile c).isNone then 1
  else if s.get (VIS_CAM_CFG_LANES c) = 2 ∨ dt < 0x2A ∨ 0x2D < dt ∨ w = 0 ∨ 8192 < w ∨ s.get (VIS_CAM_SIZE_HEIGHT c) = 0
      ∨ s.get (VIS_CAM_TRIG c) = 0 ∨ ns < 100 ∨ 10000000 < ns then 4
  else if 65536 < 2 * lineBytes w dt then 3
  else if s.get VIS_ADMIT_LIMIT < s.pixelRate c + s.get VIS_ADMIT_USED then 2
  else if ¬ s.setFits c (s.get (VIS_CAM_PIPE_INIT_SET c)) then 7
  else if s.regionFails c then 8
  else 0

/-- R362: a camera in state `st`. -/
def State.setCamState (s : State) (c st : Nat) : State := (s.put (VIS_CAM_STATUS_STATE c) st).showAdmit

/-- R362: camera `c` starts: its sensor's ID is read. -/
def State.startCam (s : State) (c : Nat) : State :=
  let e := s.enableCheck c
  if e ≠ 0 then
    let s := s.put (VIS_CAM_STATUS_ERR c) e
    if e = 2 then s.raise VIS_ERR_ADMIT_REJECT else s.raise VIS_ERR_CFG_REJECT
  else
    let s := ((s.put (VIS_CAM_CFG_EN c) 1).put (VIS_CAM_STATUS_ERR c) 0).setCamState c 1
    let s := ((s.put (VIS_CAM_LB c) 0).put (VIS_CAM_PIPE_TNR_VALID c) 0).showVis
    match s.camProfile c with
    | some p => s.emit (.cci c true p.idReg [])
    | none => s

/-- R385: the loans at endpoint `ep` complete with `VIS_LOAN_RETURNED`; an output that was filling one waits for another. -/
def State.returnLoans (s : State) (ep : Nat) : State :=
  let s := (s.loansOf ep).foldl (fun s w => s.failWork w 0xA0 0 0) s
  { s with vis := { s.vis with staged := s.vis.staged.map (fun o =>
    if o.dest = 0 ∧ epOut o.cam o.kind = ep then { o with loan := (0, 0, 0), pos := 0 } else o) } }

/-- R364, R365: a direct command that waited for the window's writes goes onto the bus. -/
def State.startDirect (s : State) (c : Nat) : State :=
  let x := s.cam c
  if s.flag (VIS_CAM_CCI_STATUS_BUSY c) ∧ ¬ x.direct ∧ x.writes = [] then
    let read := x.cmd.testBit 30
    (s.setCam c { x with direct := true }).emit (.cci c read (bitsOf x.cmd 8 16) (if read then [] else leBytes 1 x.cmd))
  else s

/-- R364: window writes end with their camera, and a direct command goes on; the loans of its outputs return (R385). -/
def State.dropCam (s : State) (c : Nat) : State :=
  let x := s.cam c
  let ended (f : VisFrame) : VisFrame := if f.closed then f else { f with closed := true, flags := setBit f.flags 0 }
  let s := (s.setCam c { direct := x.direct, cmd := x.cmd, lines := x.lines, frames := x.frames.map ended }).startDirect c
  s.each (List.range 5) (fun s k => s.returnLoans (epOut c k))

/-- R362: camera `c` goes to DISABLED, its endpoint withdrawn and its settings queue discarded. -/
def State.stopCam (s : State) (c : Nat) : State :=
  ((((s.put (VIS_CAM_CFG_EN c) 0).setCamState c 0).dropCam c).reannounce (epCam c) 0).showVis

/-- R362: fields of `VIS_CAMc_CFG` other than `EN` as a write has them. -/
def State.camFields (s : State) (c v : Nat) : State :=
  let s := ((s.put (VIS_CAM_CFG_MODE c) (v / 2 ^ 30)).put (VIS_CAM_CFG_FSYNC_SEL c) (v / 2 ^ 27)).put (VIS_CAM_CFG_LANES c) (v / 2 ^ 25)
  ((s.put (VIS_CAM_CFG_VC c) (v / 2 ^ 23)).put (VIS_CAM_CFG_DT c) (v / 2 ^ 16)).put (VIS_CAM_CFG_PROFILE c) v

/-- R362: a write of `VIS_CAMc_CFG` would change a field other than `EN`. -/
def State.camMoved (s : State) (c v : Nat) : Bool :=
  bitsOf v 30 1 != s.get (VIS_CAM_CFG_MODE c) || bitsOf v 27 3 != s.get (VIS_CAM_CFG_FSYNC_SEL c)
  || bitsOf v 25 2 != s.get (VIS_CAM_CFG_LANES c) || bitsOf v 23 2 != s.get (VIS_CAM_CFG_VC c)
  || bitsOf v 16 6 != s.get (VIS_CAM_CFG_DT c) || v % 32 != s.get (VIS_CAM_CFG_PROFILE c)

/-- R362, R366, R368: `VIS_CAMc_CFG` written. While `EN` = 1, and while a frame runs on after `EN` was written 0, the other fields
are not writable. A standby's cameras stay DISABLED. -/
def State.writeCamCfg (s : State) (c v : Nat) : State :=
  let en := v.testBit 31
  let was := s.flag (VIS_CAM_CFG_EN c)
  if (was ∨ s.camState c ≠ 0) ∧ s.camMoved c v then s.raise VIS_ERR_CFG_REJECT
  else if was then
    (if en then s
     else if s.camState c = 3 then (s.put (VIS_CAM_CFG_EN c) 0).setCam c { s.cam c with stopping := true }
     else s.stopCam c)
  else if en then
    (if s.camState c ≠ 0 ∨ s.mode = mSTANDBY then s.raise VIS_ERR_CFG_REJECT else (s.camFields c v).startCam c)
  else s.camFields c v

/-- R362: a write of `VIS_CAMc_CFG` with `EN` = 1. -/
def execCamEnable (c : Fin 8) (val : Word) (s : State) : Host.Outcome State Fault Refusal :=
  .next (if s.isUp dVIS ∧ val.toNat.testBit 31 then s.writeCamCfg c.val val.toNat else s)

/-- R362: a write of `VIS_CAMc_CFG` with `EN` = 0. -/
def execCamDisable (c : Fin 8) (val : Word) (s : State) : Host.Outcome State Fault Refusal :=
  .next (if s.isUp dVIS ∧ ¬ val.toNat.testBit 31 then s.writeCamCfg c.val val.toNat else s)

/-- R362: starting fails with an `ERR` code. -/
def State.failStart (s : State) (c err : Nat) : State := (s.put (VIS_CAM_STATUS_ERR c) err).stopCam c

/-- R355, R362: the sensor ID has been read, or received a second NACK: the init list is written, or the camera is DISABLED. -/
def execCamIdReadDone (c : Fin 8) (ack : Bool) (value : Nat) (s : State) : Host.Outcome State Fault Refusal :=
  .next (
    let n := c.val
    match (if s.camState n = 1 then s.camProfile n else none) with
    | none => s
    | some p =>
      if ¬ ack then s.failStart n 6
      else if value % 2 ^ (if p.flags.testBit 2 then 16 else 8) ≠ p.idValue then s.failStart n 5
      else p.inits.foldl (fun s (reg, v) => s.emit (.cci n false reg (leBytes 1 v))) s)

/-- R362: the init list is written, or met a second NACK. -/
def execCamInitDone (c : Fin 8) (ack : Bool) (s : State) : Host.Outcome State Fault Refusal :=
  .next (
    let n := c.val
    if s.camState n ≠ 1 then s
    else if ¬ ack then s.failStart n 6
    else
      let s := (((s.setCamState n 2).put (VIS_CAM_FRAME n) 0).put (VIS_CAM_SET_TAG n) 0).put (VIS_CAM_PIPE_SET n)
        (s.get (VIS_CAM_PIPE_INIT_SET n))
      (s.reannounce (epCam n) 1).showVis)

/-! ### Faults of a camera (R431) -/

/-- A source of camera `c` fires; where STOP applies the camera is DISABLED. -/
def State.camRecord (s : State) (c src : Nat) (info : List Nat) : State :=
  let stop := s.stops src
  let s := s.recordWith src info
  if stop ∧ s.camState c ≠ 0 then s.stopCam c else s

/-! ### Frames and lines (R347-R354, R362, R363) -/

/-- Flag bits of a tag (R354). -/
def fSHORT : Nat := 0
def fLONG : Nat := 1
def fNO_FE : Nat := 2
def fLINE_CRC : Nat := 3
def fLINE_LEN : Nat := 4
def fRATE : Nat := 5
def fTRUNCATED : Nat := 6
def fNO_TRIGGER : Nat := 7
def fFSYNC_HELD : Nat := 8
def fSET_FAULT : Nat := 9

/-- The open frame of a camera changed. -/
def VisCam.updOpen (x : VisCam) (f : VisFrame → VisFrame) : VisCam :=
  { x with frames := x.frames.map (fun y => if y.closed then y else f y) }

/-- The open frame of a camera. -/
def VisCam.openFrame (x : VisCam) : Option VisFrame := x.frames.find? (fun f => !f.closed)

/-- A flag of the open frame set. -/
def VisCam.flagOpen (x : VisCam) (b : Nat) : VisCam := x.updOpen (fun f => { f with flags := setBit f.flags b })

/-- R361: a frame's settings are uncertain. -/
def VisCam.uncertain (x : VisCam) (n : Nat) : Bool := x.faults.any (fun (a, b) => !laterThan 32 a n && !laterThan 32 n b)

/-- R349, R362: the open frame of camera `c` ends: its tag is closed. -/
def State.closeFrame (s : State) (c : Nat) (noFe : Bool) : State :=
  let x := s.cam c
  let h := s.get (VIS_CAM_SIZE_HEIGHT c)
  let x := x.updOpen (fun f =>
    let fl := if f.kept < h then setBit f.flags fSHORT else f.flags
    let fl := if noFe then setBit fl fNO_FE else fl
    let fl := if x.uncertain f.frame then setBit fl fSET_FAULT else fl
    { f with flags := fl, closed := true })
  let s := ((s.setCam c x).inc (VIS_CAM_CNT_FRAMES c)).pendPrivate 7 (8 * c + 1)
  s.setCamState c 2

/-- R359: the CCI writes of a window: those of every queued set whose frame less the delay is the window's, in ascending `PARAM_ID`
order, between the group-hold writes. -/
def VisCam.windowWrites (x : VisCam) (p : Profile) (frame : Nat) : List CciWrite :=
  let ws := x.sets.flatMap (fun e =>
    let ds := e.entries.filterMap (fun (id, _) => (p.params.find? (fun q => q.id == id)).map (fun q => q.delay))
    let dmin := ds.foldl min 3
    e.entries.filterMap (fun (id, v) =>
      match p.params.find? (fun q => q.id == id) with
      | some q =>
        if (e.target + 2 ^ 32 - q.delay) % 2 ^ 32 = frame then
          some (id, ({ frame, target := e.target, from' := (frame + dmin) % 2 ^ 32, kind := 1, reg := q.reg
                       bytes := p.valueBytes q.bytes v } : CciWrite))
        else none
      | none => none))
  let ws := (ws.mergeSort (fun a b => decide (a.1 ≤ b.1))).map (fun e => e.2)
  match ws with
  | [] => []
  | w :: _ =>
    if p.ghReg = 0 then ws
    else
      let gh (k v : Nat) : CciWrite :=
        { frame, target := w.target, from' := w.from', kind := k, reg := p.ghReg, bytes := leBytes 1 v }
      [gh 0 p.ghOn] ++ ws ++ [gh 2 p.ghOff]

/-- R359: the first write of a camera's list goes onto the bus. -/
def State.sendWrite (s : State) (c : Nat) : State :=
  match (s.cam c).writes with
  | w :: _ => s.emit (.cci c false w.reg w.bytes)
  | [] => s

/-- R353, R359, R370: a Frame Start at camera `c`: `FRAME` counts, the set for it takes effect and leaves the queue, and the window
opens. -/
def State.openWindow (s : State) (c : Nat) : State :=
  let s := s.inc (VIS_CAM_FRAME c)
  let n := s.get (VIS_CAM_FRAME c)
  let x := s.cam c
  let s := match x.sets.find? (fun e => e.target == n) with
    | some e =>
      let s := s.put (VIS_CAM_SET_TAG c) e.tag
      let s := if e.pipe < 16 then s.put (VIS_CAM_PIPE_SET c) e.pipe else s
      s.setCam c { x with sets := x.sets.filter (fun y => y.target != n) }
    | none => s
  match s.camProfile c with
  | none => s
  | some p =>
    -- The window's writes include those of the set that has just taken effect, where a delay is 0.
    let ws := x.windowWrites p n
    let y := s.cam c
    let s := s.setCam c { y with writes := y.writes ++ ws }
    if y.writes = [] ∧ ¬ y.direct then s.sendWrite c else s

/-- R33, R362: the frame is refused at its start: free-run while VIS is threatened, SERVICE, or a drain of VIS. -/
def State.refusesFrame (s : State) (c : Nat) : Bool :=
  (!s.flag (VIS_CAM_CFG_MODE c) && s.isThreat dVIS) || s.mode == mSERVICE || s.isDraining dVIS

/-- R352: the edge that a Frame Start belongs to: its time and whether it was held. -/
def State.edgeOf (s : State) (c : Nat) : Option (Nat × Bool) :=
  match (s.fsync (s.get (VIS_CAM_CFG_FSYNC_SEL c))).edge with
  | some (t, held) => if t ≤ s.ringTime ∧ s.ringTime ≤ t + 1000 * s.get (VIS_CAM_TRIG c) then some (t, held) else none
  | none => none

/-- R362: a frame refused at its start is counted, and the camera's reference is no longer valid. -/
def State.refuseFrame (s : State) (n : Nat) : State :=
  let s := (s.inc (VIS_CAM_CNT_REFUSED n)).put (VIS_CAM_PIPE_TNR_VALID n) 0
  (s.setCam n { s.cam n with tnr := none }).showVis

/-- R352-R354: a frame is received: its tag takes its number, its settings tag, its times and its trigger flags. -/
def State.beginFrame (s : State) (n fn : Nat) : State :=
  let trig := s.flag (VIS_CAM_CFG_MODE n)
  let edge := if trig then s.edgeOf n else none
  let flags := match edge with
    | some (_, true) => setBit 0 fFSYNC_HELD
    | some (_, false) => 0
    | none => if trig then setBit 0 fNO_TRIGGER else 0
  let f : VisFrame := { frame := s.get (VIS_CAM_FRAME n), setTag := s.get (VIS_CAM_SET_TAG n), sof := s.ringTime
                        fsyncTime := (edge.map (fun e => e.1)).getD 0, csiFn := fn, flags
                        set := s.get (VIS_CAM_PIPE_SET n) }
  let x := s.cam n
  ((s.setCam n { x with frames := x.frames ++ [f] }).setCamState n 3).showVis

/-- R362: a Frame Start while a frame is open closes that frame without a Frame End. -/
def State.cutFrame (s : State) (n : Nat) : State := if s.camState n = 3 then s.closeFrame n true else s

/-- R353, R362: a Frame Start at a camera that goes on: `FRAME` counts and the window opens; then the frame is received, or
refused. -/
def State.startOfFrame (s : State) (n fn : Nat) : State :=
  let t := (s.openWindow n).pendPrivate 7 (8 * n)
  if s.refusesFrame n then t.refuseFrame n else t.beginFrame n fn

/-- R352-R354, R362: a Frame Start of the camera's virtual channel, with its frame number field. -/
def execCsiFrameStart (c : Fin 8) (vc : Fin 4) (fn : BitVec 16) (s : State) : Host.Outcome State Fault Refusal :=
  .next (
    if ¬ s.isUp dVIS ∨ s.camState c.val < 2 ∨ vc.val ≠ s.get (VIS_CAM_CFG_VC c.val) then s
    else if ((s.cutFrame c.val).cam c.val).stopping then (s.cutFrame c.val).stopCam c.val
    else (s.cutFrame c.val).startOfFrame c.val fn.toNat)

/-- The bytes in a camera's line buffer. -/
def VisCam.fill (x : VisCam) : Nat := (x.lines.map (fun l => l.bytes.length)).sum

/-- R349: a line of the right length within the frame's height is kept: it enters the line buffer, or the frame is truncated where
the buffer is full; a line whose CRC is wrong is kept and recorded. -/
def State.keepLine (s : State) (n frame : Nat) (bytes : List Byte) (crcOk : Bool) : State :=
  let x := s.cam n
  if 65536 < x.fill + bytes.length then
    (s.setCam n (x.flagOpen fTRUNCATED)).camRecord n (536 + n) [n]
  else
    let x := if crcOk then x else x.flagOpen fLINE_CRC
    let x := x.updOpen (fun f => { f with kept := f.kept + 1 })
    let x := { x with lines := x.lines ++ [({ frame, sol := s.ringTime, bytes } : VisLine)] }
    let s := s.setCam n x
    let s := s.put (VIS_CAM_LB n) (max (s.get (VIS_CAM_LB n)) x.fill)
    if crcOk then s else (s.inc (VIS_CAM_CNT_LINE_ERR n)).camRecord n (520 + n) [n]

/-- R350: a line begins earlier than 98% of `LINE_NS` after the one before it. -/
def State.lineEarly (s : State) (n : Nat) : Bool :=
  match (s.cam n).lastLine with
  | some t => decide ((s.ringTime - t) * 100 < s.get (VIS_CAM_LINE_NS n) * 98)
  | none => false

/-- R348-R350: a line of the open frame `f` of camera `n`. -/
def State.takeLine (s : State) (n : Nat) (f : VisFrame) (dt : Nat) (bytes : List Byte) (crcOk : Bool) : State :=
  let x := { s.cam n with lastLine := some s.ringTime }
  if f.flags.testBit fTRUNCATED then s.setCam n x
  else if bytes.length ≠ lineBytes (s.get (VIS_CAM_SIZE_WIDTH n)) dt then
    (s.setCam n (x.flagOpen fLINE_LEN)).inc (VIS_CAM_CNT_LINE_ERR n)
  else if s.get (VIS_CAM_SIZE_HEIGHT n) ≤ f.kept then s.setCam n (x.flagOpen fLONG)
  else
    let t := if s.lineEarly n then (s.setCam n (x.flagOpen fRATE)).camRecord n (528 + n) [n] else s.setCam n x
    if t.camState n < 2 then t else t.keepLine n f.frame bytes crcOk

/-- R347-R349: a long packet: its virtual channel and data type, its payload, whether its header could be corrected and whether its
CRC is right. -/
def execCsiLine (c : Fin 8) (vc : Fin 4) (dt : Nat) (bytes : List Byte) (headerOk crcOk : Bool) (s : State) :
    Host.Outcome State Fault Refusal :=
  .next (
    if ¬ s.isUp dVIS ∨ s.camState c.val < 2 then s
    else if ¬ headerOk ∨ vc.val ≠ s.get (VIS_CAM_CFG_VC c.val) ∨ dt ≠ s.get (VIS_CAM_CFG_DT c.val) then
      s.inc (VIS_CAM_CNT_LINE_ERR c.val)
    else match (s.cam c.val).openFrame with
      | none => s
      | some f => s.takeLine c.val f dt bytes crcOk)

/-! ### Settings sets (R356-R361) -/

/-- R358 check 7: the CCI time of a window under the queued sets. -/
def windowNs (p : Profile) (sets : List VisSet) (frame : Nat) : Nat :=
  let x : VisCam := { sets }
  ((x.windowWrites p frame).map (fun w => p.cciNs w.bytes.length)).sum

/-- R358: a set joins the queue, merged with a queued set of its target. -/
def addSet (l : List VisSet) (e : VisSet) : List VisSet :=
  if l.any (fun x => x.target == e.target) then
    l.map (fun x => if x.target = e.target then
      { x with tag := e.tag, pipe := e.pipe, entries := e.entries.foldl (fun m (i, v) => SMap.insert m i v) x.entries } else x)
  else l ++ [e]

/-- R357: a settings set from its bytes. -/
def readSet (bs : List Byte) : VisSet :=
  { target := leAt bs 0 4, tag := leAt bs 4 2, pipe := leAt bs 7 1
    entries := (List.range (leAt bs 6 1)).foldl (fun m i => SMap.insert m (leAt bs (16 + 8 * i) 2) (leAt bs (20 + 8 * i) 4)) [] }

/-- R358, R372: the checks of a set at camera `c` in their order: 0, or the `DETAIL` of the first that fails. -/
def State.setCheck (s : State) (c : Nat) (bs : List Byte) : Nat :=
  let n := leAt bs 6 1
  let e := readSet bs
  let f := s.get (VIS_CAM_FRAME c)
  match (if 2 ≤ s.camState c ∧ ¬ (s.cam c).stopping then s.camProfile c else none) with
  | none => 0x18
  | some p =>
    let known (id v : Nat) : Bool := p.params.any (fun q => q.id == id && decide (v < 2 ^ (8 * q.bytes)))
    let dmax := (e.entries.filterMap (fun (id, _) => (p.params.find? (fun q => q.id == id)).map (fun q => q.delay))).foldl max 0
    let sets := addSet (s.cam c).sets e
    let frames := (sets.flatMap (fun x => (List.range 4).map (fun d => (x.target + 2 ^ 32 - d) % 2 ^ 32))).eraseDups
    if n = 0 ∨ 32 < n ∨ bs.length ≠ 16 + 8 * n ∨ leAt bs 8 8 ≠ 0
        ∨ (List.range n).any (fun i => leAt bs (18 + 8 * i) 2 != 0) then 0x15
    else if ¬ (List.range n).all (fun i => known (leAt bs (16 + 8 * i) 2) (leAt bs (20 + 8 * i) 4))
        ∨ (16 ≤ e.pipe ∧ e.pipe ≠ 0xFF) ∨ (e.pipe < 16 ∧ ¬ s.setFits c e.pipe) then 0x16
    else if ¬ laterThan 32 ((e.target + 2 ^ 32 - dmax) % 2 ^ 32) f then 0x12
    else if laterThan 32 e.target ((f + 1024) % 2 ^ 32) then 0x13
    else if (s.cam c).sets.any (fun x => laterThan 32 x.target e.target) then 0x14
    else if frames.any (fun w => laterThan 32 w f && decide (p.latchUs * 1000 < windowNs p sets w)) then 0x17
    else 0

/-- R357, R358, R400: the settings set at the head of camera `c`'s queue: checked, and queued or refused. A full queue leaves it
waiting. -/
def State.settingsSet (s : State) (c : Nat) : State :=
  if ¬ s.isUp dVIS then s
  else match s.sendReady (epCam c) with
    | none => s
    | some w =>
      let d := s.setCheck c w.data
      if d ≠ 0 then (s.inc (VIS_CAM_CNT_SET_REFUSED c)).failWork w 0x20 0 d
      else
        let x := s.cam c
        let sets := addSet x.sets (readSet w.data)
        if 16 < sets.length then s
        else ((s.setCam c { x with sets }).showVis).commitInternal w w.length

/-- R358: a settings set reaches the head of the camera's queue. -/
def execVisSettingsSet (c : Fin 8) (s : State) : Host.Outcome State Fault Refusal := .next (s.settingsSet c.val)

/-- R361: a window write of camera `c` has failed. -/
def State.cciFault (s : State) (c : Nat) (w : CciWrite) : State :=
  let x := s.cam c
  let s := (s.setCam c { x with faults := x.faults ++ [(w.from', w.target)] }).inc (VIS_CAM_CNT_CCI_ERR c)
  s.camRecord c (544 + c) [c, w.reg, w.target]

/-- The next CCI transaction of a camera. -/
def State.nextCci (s : State) (c : Nat) : State := if (s.cam c).writes = [] then s.startDirect c else s.sendWrite c

/-- R359, R361: the window write on the bus of camera `c` has completed, or received a NACK: it is repeated once. -/
def execCciWriteDone (c : Fin 8) (ack : Bool) (s : State) : Host.Outcome State Fault Refusal :=
  .next (
    let n := c.val
    let x := s.cam n
    match (if s.isUp dVIS ∧ ¬ x.direct then x.writes else []) with
    | [] => s
    | w :: rest =>
      if ack then (s.setCam n { x with writes := rest }).nextCci n
      else if ¬ w.tried then
        (s.setCam n { x with writes := { w with tried := true } :: rest }).emit (.cci n false w.reg w.bytes)
      else ((s.setCam n { x with writes := rest }).cciFault n w).nextCci n)

/-- R361: the latch point of a window passes: writes of it that are not complete have failed, and `GH_OFF` is still sent. -/
def execCciLatchPoint (c : Fin 8) (frame : Nat) (s : State) : Host.Outcome State Fault Refusal :=
  .next (
    let n := c.val
    let x := s.cam n
    let late := x.writes.filter (fun w => w.frame == frame && w.kind == 1)
    if ¬ s.isUp dVIS ∨ late = [] then s
    else
      let rest := x.writes.filter (fun w => !(w.frame == frame && w.kind != 2))
      let s := late.foldl (fun s w => s.cciFault n w) (s.setCam n { x with writes := rest })
      if x.direct then s else s.nextCci n)

/-- R364, R496: `VIS_CAMc_CCI_CMD` written: a `GO` that is refused changes no field. -/
def State.writeCciCmd (s : State) (c v : Nat) : State :=
  let busy := s.flag (VIS_CAM_CCI_STATUS_BUSY c)
  if v.testBit 31 ∧ (busy ∨ s.camState c = 1 ∨ (s.camProfile c).isNone) then
    (s.put (VIS_CAM_CCI_STATUS_RESULT c) 3).raise VIS_ERR_CFG_REJECT
  else
    let s := ((s.put (VIS_CAM_CCI_CMD_READ c) (v / 2 ^ 30)).put (VIS_CAM_CCI_CMD_REG c) (v / 2 ^ 8)).put (VIS_CAM_CCI_CMD_DATA c) v
    if ¬ v.testBit 31 then s
    else
      let s := (s.put (VIS_CAM_CCI_STATUS_BUSY c) 1).put (VIS_CAM_CCI_STATUS_RESULT c) 0
      (s.setCam c { s.cam c with cmd := v }).startDirect c

/-- R364: `GO` written: one direct command. -/
def execCciDirectCmd (c : Fin 8) (val : Word) (s : State) : Host.Outcome State Fault Refusal :=
  .next (if s.isUp dVIS then s.writeCciCmd c.val val.toNat else s)

/-- R364, R414: the direct command completes with OK and, for a read, its byte, or with a NACK. -/
def execCciDirectDone (c : Fin 8) (ack : Bool) (data : Byte) (s : State) : Host.Outcome State Fault Refusal :=
  .next (
    let n := c.val
    let x := s.cam n
    if ¬ s.isUp dVIS ∨ ¬ x.direct then s
    else
      let s := (s.put (VIS_CAM_CCI_STATUS_BUSY n) 0).put (VIS_CAM_CCI_STATUS_RESULT n) (if ack then 1 else 2)
      let s := if ack ∧ x.cmd.testBit 30 then s.put (VIS_CAM_CCI_STATUS_RDATA n) data.toNat else s
      ((s.setCam n { x with direct := false }).pendPrivate 7 (8 * n + 2)).nextCci n)

/-! ### Other configuration (R362, R368, R371, R390) -/

/-- R362, R368: `SIZE`, `LINE_NS` and `TRIG` are not writable while the camera is enabled. -/
def State.camFree (s : State) (c : Nat) : Bool := !s.flag (VIS_CAM_CFG_EN c) && s.camState c == 0

/-- R371: set `k` is in use. -/
def State.setLocked (s : State) (k : Nat) : Bool := s.setsInUse.testBit k

end Sys2Proof.Machine
end

