-- ==== Sys2Proof/Machine/Twin.lean ====
section
/-! DEFINITION. Twin pairs (R394-R412) but what applies copies and journal inputs: pairing, checkpoints, digests, the ledger read
and the take-over, pin transfer, and the witness. -/

namespace Sys2Proof.Machine

open Sys2Proof.Machine.Reg

/-! ### The twin link (R397) -/

/-- TWL is UP. -/
def State.twlUp (s : State) : Bool := s.portState 2 == 2

/-- R397: a TWIN frame with the next `SEQ` of its `KIND`. -/
def State.sendTwin (s : State) (kind : Nat) (words : List Nat) : State :=
  if s.twlUp then (s.bumpTwin kind).sendOn 2 0 0 (.twin kind (s.twinSeq kind :: words)) else s

/-- The code of a twin role (R411). -/
def roleCode : TwinRole → Nat
  | .single => 0 | .active => 1 | .standby => 2

/-- The twin role changed, as `TWIN_STATUS` shows it. -/
def State.setRole (s : State) (r : TwinRole) : State :=
  State.showHealth (State.put { s with node := { s.node with twinRole := r } } TWIN_STATUS_ROLE (roleCode r))

/-- R399: the state of the pair as this half has it (R411): 0 UNPAIRED, 1 SYNCING, 2 PAIRED, 3 DIVERGED, 4 DEPOSED. -/
def State.pairState (s : State) : Nat := s.get TWIN_STATUS_STATE

/-! ### Checkpoints (R401) -/

/-- R401: a COPY frame sent, its acknowledgement awaited as a checkpoint segment or as a configuration copy. -/
def State.sendCopy (s : State) (body : CopyBody) (ckpt : Bool) : State :=
  let q := s.twinSeq 4
  let s := s.bumpTwin 4
  let c : CopyWait := { seq := q, ckpt, config := !ckpt }
  State.sendOn { s with twin := { s.twin with copies := s.twin.copies ++ [c] } } 2 0 0 (.twinCopy q body)

/-- The signals whose value is not 0, with their values. -/
def State.signalValues (s : State) : List (Nat × Nat) :=
  let cells := s.mem.filter (fun c => decide (0x04000000 ≤ c.1 ∧ c.1 < 0x04800000) && decide (16 ≤ c.1 % 32 ∧ c.1 % 32 < 24))
  ((cells.map (fun c => (c.1 - 0x04000000) / 32)).eraseDups).map (fun id => (id, leNat (s.memRead (sigAddr id + 16) 8)))

/-- R401: the segments of a checkpoint: signal values, 64 to a segment, and the TX message copies, one to a segment. -/
def State.checkpoint (s : State) : List CopyBody :=
  let vs := s.signalValues
  let groups := chunks 64 (vs.length + 1) vs
  (.signals true (groups.headD [])) :: (groups.drop 1).map (fun g => .signals false g)
    ++ s.sig.tx.map (fun e => .messages [(e.1, e.2.copy)])

/-- The bytes of a checkpoint segment as they go through a bridge range (notes/assumptions/42.md): records of R326 for values, and
each message copy behind its number and its length. -/
def segmentBytes : CopyBody → List Byte
  | .signals _ vs => vs.flatMap (fun v => leBytes 4 (2 ^ 28 + v.1) ++ leBytes 4 0 ++ leBytes 8 v.2)
  | .messages ms => ms.flatMap (fun m => leBytes 2 m.1 ++ leBytes 2 m.2.length ++ m.2)
  | _ => []

/-- R401: bytes written through a bridge range as posted writes, from an offset on. -/
def State.rangeWrites (s : State) (r : Nat) : Nat → Nat → List Byte → State
  | 0, _, _ => s
  | fuel + 1, off, bs =>
    if bs = [] then s
    else match s.resolve (s.rngBase r + off) (min 1008 bs.length) with
      | .inr _ => s
      | .inl (_, b, a) =>
        let d := bs.take 1008
        State.rangeWrites (s.access { near := b, far := b, range := r, write := true, posted := true, addr := a, len := d.length, data := d })
          r fuel (off + d.length) (bs.drop 1008)

/-- R401: with `HOST`, a checkpoint through bridge range `RANGE`. -/
def State.hostCheckpoint (s : State) (l : List CopyBody) : State :=
  if s.flag TWIN_CKPT_CFG_HOST ∧ s.bridgeOpen then
    let bs := l.flatMap segmentBytes
    s.rangeWrites (s.get TWIN_CKPT_CFG_RANGE) bs.length 0 bs
  else s

/-- R401: a checkpoint sent. -/
def State.sendCheckpoint (s : State) : State :=
  let l := s.checkpoint
  (l.foldl (fun s b => s.sendCopy b true) s).hostCheckpoint l

/-- R401: every `CKPT_MS` the active half in COLD mode sends a checkpoint. -/
def execTwinCkptTimer (s : State) : Host.Outcome State Fault Refusal :=
  .next (if s.node.twinRole = .active ∧ s.get TWIN_CFG_MODE = 0 ∧ (s.pairState = 1 ∨ s.pairState = 2) ∧ s.twlUp
    then s.sendCheckpoint else s)

/-- R400, R401: a COPY_ACK: the item commits; with its last segment a checkpoint is complete. -/
def execTwinCopyAck (seq : Nat) (s : State) : Host.Outcome State Fault Refusal :=
  .next (match s.twin.copies.find? (fun c => c.seq == seq) with
    | none => s
    | some c =>
      let s : State := { s with twin := { s.twin with copies := s.twin.copies.filter (fun x => x.seq != seq) } }
      if c.ckpt then
        (if s.twin.copies.any (fun x => x.ckpt) then s
         else { (s.put TWIN_CKPT_AGE 0).inc TWIN_CNT_CKPT with twin := { s.twin with ageAt := s.count } })
      else if c.config then s
      else match s.work? c.src c.sq c.wsn with
        | some w => s.commit w c.bytes 0
        | none => s)

/-! ### Pairing (R398, R399) -/

/-- R399: SYNCING: the active half copies its whole ledger and a checkpoint. -/
def State.startSync (s : State) : State :=
  let s := (s.put TWIN_STATUS_STATE 1).put HQ_LDG_STATUS_MIRROR 0
  let s : State := { s with twin := { s.twin with
    copies := s.twin.copies.filter (fun c => !c.ckpt), epochLog := [], ownDigest := none, peerDigest := none, synced := false } }
  if s.node.twinRole = .active then
    let s := s.dlv.ledger.foldl (fun s (k, e) => s.emit (.mirror k (if e.pending then 2 else 1) e.gen e.last e.pend)) s
    s.sendCheckpoint
  else s

/-- R398: the checks of a HELLO in their order: 0, or the code of the first that fails. -/
def State.helloCheck (s : State) (h : Hello) : Nat :=
  let slot := s.get GLB_STRAP_SLOT
  let idA := if slot = 0 then s.nodeId else h.id
  let idB := if slot = 0 then h.id else s.nodeId
  let n := s.ring.map.length
  let next : Bool := match s.posOf idA, s.posOf idB with
    | some a, some b => decide (b = (a + 1) % n)
    | _, _ => false
  if h.slot = slot then 1
  else if ¬ ((s.node.twinRole = .active ∧ h.role = 2) ∨ (s.node.twinRole = .standby ∧ h.role = 1)) then 2
  else if s.flag RING_NODE_ROOT ∨ s.rootNode = h.id then 3
  else if ¬ next then 4
  else if h.mode ≠ s.get TWIN_CFG_MODE ∨ h.epoch ≠ s.get TWIN_CFG_EPOCH_US ∨ h.pair ≠ s.get TWIN_CFG_PAIR_ID ∨ h.pair ≠ idA then 5
  else if h.img ≠ s.get BOOT_IMG_CRC then 6
  else 0

/-- R398, R399: the exchange checked. -/
def State.checkHello (s : State) : State :=
  match s.twin.partner with
  | none => s
  | some h =>
    let e := s.helloCheck h
    let s := s.put TWIN_STATUS_PAIR_ERR e
    if e = 0 then s.startSync else s.record 553

/-- R398: pairing is open at this half. -/
def State.pairing (s : State) : Bool := s.flag TWIN_CFG_EN && s.twlUp && s.pairState == 0

/-- R398: each half sends HELLO. A HELLO of the partner that came before is checked now. -/
def execTwinPairingStart (s : State) : Host.Outcome State Fault Refusal :=
  .next (if s.pairing then
      (s.sendTwin 1 [s.nodeId, s.get GLB_STRAP_SLOT, roleCode s.node.twinRole, s.get TWIN_CFG_MODE, s.get TWIN_CFG_PAIR_ID,
        s.get TWIN_CFG_EPOCH_US, s.get BOOT_IMG_CRC]).checkHello
    else s)

/-- R398, R399: a received HELLO. -/
def execTwinHello (id slot role mode pairId epoch img : Nat) (s : State) : Host.Outcome State Fault Refusal :=
  .next (if s.pairState ≠ 0 then s
    else
      let h : Hello := { id, slot, role, mode, pair := pairId, epoch, img }
      let s := State.put { s with twin := { s.twin with partner := some h } } TWIN_STATUS_PARTNER_ID id
      if s.pairing then s.checkHello else s)

/-- R399: a PAIRED half finds that the pair has diverged. A take-over in progress wins (R409). -/
def State.diverge (s : State) : State :=
  if s.pairState ≠ 2 ∨ s.twin.reading ∨ s.twin.handOver then s
  else (((s.putLevel TWIN_STATUS_STATE 3).raise TWIN_ERR_DIVERGED).inc TWIN_CNT_DIVERGE).record 554

/-- R399: DIVERGED goes back to SYNCING. -/
def State.resync (s : State) : State := if s.pairState = 3 then s.startSync else s

/-! ### Digests (R402) -/

/-- R399, R402: the digests of one epoch compared, once both are known. -/
def State.compareDigests (s : State) : State :=
  match s.twin.ownDigest, s.twin.peerDigest with
  | some (k, a), some (j, b) =>
    if k ≠ j then s
    else
      let s := (s.put TWIN_EPOCH k).put TWIN_DIGEST a
      if a = b then (if s.pairState = 1 then { s with twin := { s.twin with synced := true } } else s) else s.diverge
  | _, _ => s

/-- R402: digests are exchanged: LOCKSTEP, SYNCING or PAIRED. -/
def State.lockstep (s : State) : Bool := s.get TWIN_CFG_MODE == 1 && (s.pairState == 1 || s.pairState == 2)

/-- R402: the end of epoch `epoch`: the digest of its state changes is sent. -/
def execTwinEpochEnd (epoch : Nat) (s : State) : Host.Outcome State Fault Refusal :=
  .next (if s.lockstep ∧ (epoch + 1) * (s.get TWIN_CFG_EPOCH_US * 1000) ≤ s.ringTime then
      let d := crc32c s.twin.epochLog
      let s : State := { s with twin := { s.twin with epochLog := [], ownDigest := some (epoch, d) } }
      (s.sendTwin 3 [epoch % 2 ^ 32, epoch / 2 ^ 32, d, s.get TWIN_STATUS_HEALTH]).compareDigests
    else s)

/-- R399: a received DIGEST. -/
def execTwinDigest (epoch digest : Nat) (_health : Bool) (s : State) : Host.Outcome State Fault Refusal :=
  .next (if s.lockstep then
      State.compareDigests { s with twin := { s.twin with peerDigest := some (epoch, digest) } }
    else s)

/-- R399: no digest within 2 epochs. -/
def execTwinDigestTimeout (s : State) : Host.Outcome State Fault Refusal :=
  .next (if s.lockstep then s.diverge else s)

/-! ### Take-over (R131, R404, R405, R407) -/

/-- A refused write of a TWIN register (R411). -/
def State.twinReject (s : State) : State := s.raise TWIN_ERR_CFG_REJECT

/-- R404 event 2, R409: a take-over starts at the standby: it asks for the active half's ledger. Events 1-4 of R77 come first. -/
def State.startTake (s : State) : State :=
  if s.node.twinRole ≠ .standby ∨ s.twin.reading ∨ s.twin.handOver then s
  else if s.boot.actEvent ≠ 0 then { s with twin := { s.twin with takeWaits := true } }
  else State.sendTwin { s with twin := { s.twin with reading := true, takeWaits := false } } 6 []

/-- R404: the requester is the half's witness (R411). -/
def State.isWitness (s : State) (req : Requester) : Bool :=
  let w := if s.get TWIN_WIT_ID = 0 then s.rootNode else s.get TWIN_WIT_ID
  match req with
  | .remote n => w != 0 && n == w
  | _ => false

/-- R399, R404, R411: `TWIN_CTRL` written. -/
def State.writeTwinCtrl (s : State) (req : Requester) (v : Nat) : State :=
  if v / 2 ^ 16 % 2 ^ 16 ≠ 0x7A1E then s.twinReject
  else if v.testBit 1 ∧ ¬ s.isWitness req then s.twinReject
  else
    let s := if v.testBit 2 then s.resync else s
    if v.testBit 1 then s.startTake else s

/-- R404: a write of `TWIN_CTRL` with `TAKE`. -/
def execTwinTake (req : Requester) (val : Word) (s : State) : Host.Outcome State Fault Refusal :=
  .next (if val.toNat.testBit 1 then s.writeTwinCtrl req val.toNat else s)

/-- R399: a write of `TWIN_CTRL` with `RESYNC`. -/
def execTwinResync (req : Requester) (val : Word) (s : State) : Host.Outcome State Fault Refusal :=
  .next (if val.toNat.testBit 2 then s.writeTwinCtrl req val.toNat else s)

/-- R49, R407: the shared pins are given up: they go to Z. -/
def State.giveUpPins (s : State) : State :=
  let s : State := { s with node := { s.node with pswWait := false } }
  if s.flag GLB_PSW_OWN then s.releasePins else s

/-- The engines that run, at 8 * (4 * cluster + group) + engine, and the cameras that are enabled, at 1000 + camera. -/
def State.running (s : State) : List Nat :=
  (List.range 192).filter (fun i => s.engState (i / 32) (i / 8 % 4) (i % 8) != 0)
    ++ ((List.range 8).filter (fun c => s.flag (VIS_CAM_CFG_EN c))).map (fun c => 1000 + c)

/-- R293, R318, R366, R402: the units of a half that becomes standby: halted, their configuration kept. -/
def State.idleUnits (s : State) : State :=
  let s : State := { s with savedRun := s.running }
  let s := s.each (List.range 6) (fun s n =>
    let s := s.each (List.range 4) (fun s g => s.haltGroup n g 2)
    (s.each (List.range 8) (fun s c =>
      let en := s.get (FC_CAN_CFG_EN n c)
      (s.canConfig n c).put (FC_CAN_CFG_EN n c) en)).dropTaken (dFC n))
  ((s.stopDomain dVIS).dropTaken dNET).dropTaken dSIG

/-- The six words of a ledger entry (R122). -/
def entryWords (k : Nat) (e : LedgerEntry) : List Nat :=
  let bs := ledgerBytes k (if e.pending then 2 else 1) e.gen e.last e.pend
  (List.range 6).map (fun i => leAt bs (4 * i) 4)

/-- R397, R404: the ledger in LEDGER frames, as many entries in each as its payload holds. -/
def State.sendLedger (s : State) : State :=
  let l := s.dlv.ledger
  (chunks 85 (l.length + 1) l).foldl (fun s g => s.sendTwin 7 (g.flatMap (fun x => entryWords x.1 x.2))) s

/-- R404 event 2, R407: the active half answers a ledger read. In a switch-over it then gives up its pins and becomes the
standby. -/
def execTwinLedgerReq (switchOver : Bool) (s : State) : Host.Outcome State Fault Refusal :=
  .next (if s.node.twinRole = .active ∧ s.pairState ≠ 4 then
      let s := s.sendLedger
      if switchOver then ((s.giveUpPins.idleUnits).setRole .standby).setMode mSTANDBY else s
    else s)

/-- R131: a mirrored PENDING entry of an emission that the active half did not finish: a frame is reported, or emitted again by the resend
of its item, under `TAKEOVER_PEND`. -/
def State.settleEntry (s : State) (k : Nat) (e : LedgerEntry) : State :=
  let ep := k % 4096
  let line : Bool := match unitOf ep with
    | .line _ _ => true
    | _ => false
  if ¬ e.pending ∨ line then s
  else if s.flag HQ_DLV_CFG_TAKEOVER_PEND then s.recordWith 23 [e.pend % 2 ^ 32, e.pend / 2 ^ 32]
  else
    let s : State := { s with dlv := { s.dlv with ledger := SMap.insert s.dlv.ledger k { e with pending := false, last := e.pend } } }
    s.sendAck { src := k / 4096 % 256, sq := k / 2 ^ 20, gen := e.gen, ep } e.pend 0x22 2

/-- R131: a mirrored PENDING entry of a discrete output is applied again: the level of its item where this half holds it, else the
mirrored level of the line. -/
def State.reapply (s : State) (k : Nat) (e : LedgerEntry) : State :=
  match unitOf (k % 4096) with
  | .line n p =>
    if e.pending then
      let s := match s.work? (k / 4096 % 256) (k / 2 ^ 20) e.pend with
        | some w => s.setLevel n p ((leAt w.data 0 1).testBit 0)
        | none => s
      s.emit (.pin 3 (64 * n + p) (s.pinShown n p))
    else s
  | _ => s

/-- An entry of a ledger read: key, PENDING, `GEN`, `LAST_WSN` and `PEND_WSN`. -/
abbrev LedgerRead := Nat × Bool × Nat × Nat × Nat

/-- A ledger from the entries read. -/
def ledgerOf (l : List LedgerRead) : SMap LedgerEntry :=
  l.foldl (fun m (k, p, g, last, pend) => SMap.insert m k { pending := p, gen := g, last := last, pend := pend }) []

/-- R288, R404: the noted engines of cluster `n` start, group by group. -/
def State.startEngines (s : State) (n : Nat) : State :=
  s.each (List.range 4) (fun s g =>
    s.syncNow n g ((s.savedRun.filter (fun j => decide (j < 192) && j / 8 == 4 * n + g)).foldl (fun m j => setBit m (j % 8)) 0) 0)

/-- R299, R404: the enabled controllers of cluster `n` that do not run integrate. -/
def State.startCans (s : State) (n : Nat) : State :=
  s.each (List.range 8) (fun s c =>
    if s.flag (FC_CAN_CFG_EN n c) ∧ s.canState n c = 0 then s.setCanState n c 1 else s)

/-- R362, R404: the noted cameras start, with the settings queues that they hold. -/
def State.startCams (s : State) : State :=
  s.each ((List.range 8).filter (fun c => s.savedRun.contains (1000 + c))) (fun s c =>
    let sets := (s.cam c).sets
    let s := s.startCam c
    s.setCam c { s.cam c with sets })

/-- R404 events 4 and 5: units start: the engines and cameras that the active half ran, and the enabled controllers. -/
def State.startUnits (s : State) : State :=
  let s := s.each (List.range 6) (fun s n => (s.startEngines n).startCans n)
  { s.startCams with savedRun := [] }

/-- R404: the pins are this half's: its units start and the pair's endpoints and RESYNC with KEPT are sent. -/
def State.endTake (s : State) : State :=
  let s := if s.twin.handOver then
      State.startUnits { s with twin := { s.twin with handOver := false } }
    else s
  (s.sendFullState).broadcast (.resync 1)

/-- R404 event 3, R405: the ledger is settled: the half is active, its discrete outputs stand at the mirrored levels, its Dike
channels in the mirrored states, and it sends its take pulse. -/
def State.takeOver (s : State) (pins : List (Fin 6 × BitVec 64)) (dike : List (Fin 16 × Fin 8 × BitVec 4)) : State :=
  let s := s.put HQ_LDG_STATUS_USED s.dlv.ledger.length
  let s : State := { s with twin := { s.twin with reading := false, takeWaits := false, handOver := true } }
  let s := ((s.setRole .active).setMode mACTIVE).inc TWIN_CNT_TAKEOVER
  let s := pins.foldl (fun s (n, v) => s.each (List.range 64) (fun s p => s.setLevel n p (v.getLsbD p))) s
  let s := dike.foldl (fun s (c, st, r) => s.dikeResume c st r.toNat) s
  let s := s.takePulse
  if s.ownsPins then s.endTake else s

/-- R404: the active half's ledger arrives and is used as it is. -/
def execTwinLedger (entries : List (Nat × Bool × Nat × Nat × Nat)) (pins : List (Fin 6 × BitVec 64))
    (dike : List (Fin 16 × Fin 8 × BitVec 4)) (s : State) : Host.Outcome State Fault Refusal :=
  .next (if s.twin.reading then
      State.takeOver { s with dlv := { s.dlv with ledger := ledgerOf entries } } pins dike
    else s)

/-- R131: the active half has not answered in 500 µs, or TWL is down: the standby settles from its mirror. -/
def execTwinLedgerReadTimeout (entries : List (Nat × Bool × Nat × Nat × Nat)) (pins : List (Fin 6 × BitVec 64))
    (dike : List (Fin 16 × Fin 8 × BitVec 4)) (s : State) : Host.Outcome State Fault Refusal :=
  .next (if s.twin.reading then
      let l := ledgerOf entries
      let s : State := { s with dlv := { s.dlv with ledger := l } }
      let s := (l.foldl (fun s (k, e) => s.settleEntry k e) s).takeOver pins dike
      l.foldl (fun s (k, e) => s.reapply k e) s
    else s)

/-! ### Pins (R54, R56, R399, R406) -/

/-- R54, R56, R399: `PSW_SENSE` changes. The half whose slot it shows drives the pins where its role allows; the other sets them to
Z, and is DEPOSED where it still is active. -/
def execPswSenseChange (level : Bool) (s : State) : Host.Outcome State Fault Refusal :=
  .next (
    let had := s.ownSlot
    let s := State.showPins s (State.put { s with node := { s.node with pswSense := level } } GLB_PSW_SENSE (b2n level)).showGroups
    if s.node.off then s
    else if s.ownSlot then
      (if s.flag GLB_PSW_OWN then s
       else match s.node.twinRole with
         | .single => if s.node.pswWatch then s.drivePins else s
         | .active => if s.node.pswWait ∧ s.pairState ≠ 4 then s.drivePins.endTake else s
         | .standby => s)
    else
      let s := if s.flag GLB_PSW_OWN then s.releasePins else s
      if ¬ had then s
      else match s.node.twinRole with
        | .single => { s with node := { s.node with pswWatch := s.node.pswWatch || s.mode != mLOADING } }
        | .active => s.put TWIN_STATUS_STATE 4
        | .standby => s)

/-! ### The witness (R403, R407, R412) -/

/-- R165: a remote access of the supervisor: the next `SEQ`, and RA_REQ. -/
def State.raSend (s : State) (node off count : Nat) (words : List Nat) (watch : Bool) : State :=
  let q := (s.ring.raSeq + 1) % 65536
  let s : State := { s with ring := { s.ring with
    raSeq := q, raOpen := if watch then s.ring.raOpen ++ [q] else s.ring.raOpen } }
  s.unicast node 0 q (.raReq off count (b2n (words != [])) words) 0

/-- R403: the node serves as a witness: it is the root, or `EN` is set. -/
def State.witnesses (s : State) : Bool := s.flag RING_NODE_ROOT || s.flag TWIN_WIT_CFG_EN

/-- The fields of `TWIN_STATUS` and `GLB_MODE` in an answer. -/
def ansState (a : TwinAnswer) : Nat := a.status.toNat % 8
def ansRole (a : TwinAnswer) : Nat := bitsOf a.status.toNat 4 2
def ansHealthy (a : TwinAnswer) : Bool := a.status.toNat.testBit 6
def ansMirrorOk (a : TwinAnswer) : Bool := a.status.toNat.testBit 7
def ansContained (a : TwinAnswer) : Bool := a.mode.toNat % 16 == mCONTAINED

/-- R403, R404: the decision TAKEOVER carried out for pair `p`: `TAKE` written at the half of the other slot. -/
def State.orderTake (s : State) (p decision : Nat) : State :=
  let slot := 1 - s.get (TWIN_WITP_STATUS_ACTIVE_SLOT p)
  let node := if slot = 0 then s.get (TWIN_WITP_CFG_ID_A p) else s.get (TWIN_WITP_CFG_ID_B p)
  let s := s.raSend node 0xB00018 1 [0x7A1E * 2 ^ 16 + 2] true
  let s := ((s.put (TWIN_WITP_STATUS_DECISION p) decision).put (TWIN_WITP_STATUS_ACTIVE_SLOT p) slot).put (TWIN_WITP_STATUS_MISSES p) 0
  let x := SMap.getD s.twin.witness p {}
  let x := { x with taking := true, missB := 0, noStandby := false }
  let s : State := { s with twin := { s.twin with witness := SMap.insert s.twin.witness p x } }
  s.incSat (TWIN_WITP_STATUS_TAKEOVERS p)

/-- R403: the view of pair `p` replaced. -/
def State.setWitness (s : State) (p : Nat) (x : WitnessPair) : State :=
  { s with twin := { s.twin with witness := SMap.insert s.twin.witness p x } }

/-- R403: the slot of the active half as the answers show it. -/
def State.followRole (s : State) (p : Nat) (a b : Option TwinAnswer) : State :=
  let x := SMap.getD s.twin.witness p {}
  let act (o : Option TwinAnswer) : Bool := o.any (fun y => ansRole y == 1 && ansState y != 4)
  let other := if s.get (TWIN_WITP_STATUS_ACTIVE_SLOT p) = 0 then a else b
  if x.taking then
    (if act (if s.get (TWIN_WITP_STATUS_ACTIVE_SLOT p) = 0 then a else b) then s.setWitness p { x with taking := false } else s)
  else if act other then s
  else if act a then s.put (TWIN_WITP_STATUS_ACTIVE_SLOT p) 0
  else if act b then s.put (TWIN_WITP_STATUS_ACTIVE_SLOT p) 1
  else s

/-- R403: the decision for pair `p` from the answers of its active and its standby half. -/
def State.witnessDecide (s : State) (p : Nat) (act sb : Option TwinAnswer) : State :=
  let limit := s.get TWIN_WIT_CFG_MISS_LIMIT
  let misses := if act.isSome then 0 else min limit (s.get (TWIN_WITP_STATUS_MISSES p) + 1)
  let x := SMap.getD s.twin.witness p {}
  let missB := if sb.isSome then 0 else min limit (x.missB + 1)
  let lost := missB = limit ∧ x.missB ≠ limit ∧ act.isSome
  let was := match sb with
    | some y => if ansState y = 0 then x.wasPaired else ansState y == 2
    | none => x.wasPaired
  let s := (s.put (TWIN_WITP_STATUS_MISSES p) misses).setWitness p { x with missB, wasPaired := was }
  let s := if lost then s.record 556 else s
  let none' (s : State) : State := (s.put (TWIN_WITP_STATUS_DECISION p) 0).setWitness p
    { SMap.getD s.twin.witness p {} with noStandby := false }
  let fails : Bool := match act with
    | some y => ansContained y || (ansState y == 3 && !ansHealthy y)
    | none => misses == limit
  let fit : Bool := sb.any (fun y => ansHealthy y && ansMirrorOk y && (ansState y == 2 || (ansState y == 0 && was)))
  if fails then
    (if fit then s.orderTake p 1
     else
       let s := s.put (TWIN_WITP_STATUS_DECISION p) 2
       if x.noStandby then s
       else (s.setWitness p { SMap.getD s.twin.witness p {} with noStandby := true }).record 555)
  else match act with
    | none => s
    | some y =>
      if ansState y = 3 ∧ sb.isSome then
        let s := none' s
        s.each [s.get (TWIN_WITP_CFG_ID_A p), s.get (TWIN_WITP_CFG_ID_B p)] (fun s n =>
          s.raSend n 0xB00018 1 [0x7A1E * 2 ^ 16 + 4] true)
      else none' s

/-- R403: every `BEAT_US` the witness reads both halves of each pair it serves. `a` and `b` are the answers of slots A and B to the
reads of this beat, none where the read was a miss. -/
def execWitnessBeat (pair : Fin 64) (a b : Option TwinAnswer) (s : State) : Host.Outcome State Fault Refusal :=
  .next (
    let p := pair.val
    if ¬ s.witnesses ∨ ¬ s.flag (TWIN_WITP_CFG_EN p) then s
    else
      let s := s.each [s.get (TWIN_WITP_CFG_ID_A p), s.get (TWIN_WITP_CFG_ID_B p)] (fun s n =>
        (s.raSend n 0xB00008 1 [] false).raSend n 0x00004 1 [] false)
      let s := s.followRole p a b
      if s.get (TWIN_WITP_STATUS_ACTIVE_SLOT p) = 0 then s.witnessDecide p a b else s.witnessDecide p b a)

/-- R407: a switch-over of pair `p` is allowed: the node serves the pair as its witness, both halves are healthy and PAIRED, in COLD
mode the checkpoint is not older than `CKPT_MS`, and no take-over is in progress (R409). -/
def State.switchable (s : State) (p : Nat) (a b : Option TwinAnswer) : Bool :=
  let fine (o : Option TwinAnswer) : Bool := o.any (fun y => ansHealthy y && ansState y == 2)
  let act := if s.get (TWIN_WITP_STATUS_ACTIVE_SLOT p) = 0 then a else b
  s.witnesses && s.flag (TWIN_WITP_CFG_EN p) && !(SMap.getD s.twin.witness p {}).taking && fine a && fine b
    && act.any (fun y => y.cfg.toNat.testBit 1 || y.ckptAge.toNat ≤ y.ckptCfg.toNat / 2 ^ 16)

/-- R407: `TWIN_WIT_CTRL` written: a switch-over of a pair, or REFUSED. `a` and `b` are the answers of slots A and B. -/
def execWitnessSwitchOver (val : Word) (a b : Option TwinAnswer) (s : State) : Host.Outcome State Fault Refusal :=
  .next (
    if val.toNat / 2 ^ 16 ≠ 0x7A1E then s
    else if s.switchable (val.toNat % 64) a b then s.orderTake (val.toNat % 64) 3
    else s.put (TWIN_WITP_STATUS_DECISION (val.toNat % 64)) 4)

end Sys2Proof.Machine
end

