-- ==== Sys2Proof/Machine/VisPipe.lean ====
section
/-! DEFINITION. The vision pipeline and its outputs (R369-R393): line by line into frames, staging, loans, streams, appends, CSI-2
transmitters and sinks. -/

namespace Sys2Proof.Machine

open Sys2Proof.Machine.Reg

/-! ### Headers (R354, R379) -/

/-- R354: the tag of a frame of camera `c`. -/
def State.frameTag (s : State) (c : Nat) (f : VisFrame) : List Byte :=
  leBytes 4 f.frame ++ leBytes 1 c ++ leBytes 1 (s.get (VIS_CAM_CFG_DT c)) ++ leBytes 2 f.setTag ++ leBytes 8 f.sof
  ++ leBytes 8 f.fsyncTime ++ leBytes 2 (s.get (VIS_CAM_SIZE_WIDTH c)) ++ leBytes 2 f.kept ++ leBytes 2 f.csiFn ++ leBytes 2 f.flags

/-- R379: an output header. -/
def State.outputHeader (s : State) (c : Nat) (f : VisFrame) (kind roi fmt oflags ow oh bytes : Nat) : List Byte :=
  s.frameTag c f ++ leBytes 1 kind ++ leBytes 1 roi ++ leBytes 1 fmt ++ leBytes 1 oflags ++ leBytes 2 ow ++ leBytes 2 oh
  ++ leBytes 4 bytes ++ leBytes 1 f.set ++ [0, 0, 0]

/-! ### Staging (R381) -/

/-- Bytes free in the staging region. -/
def State.stageFree (s : State) : Nat := s.get VIS_STAGE_SIZE * 2 ^ 20 - (s.vis.staged.map (fun o => o.size)).sum

/-- R381: an output is skipped. -/
def State.skipOutput (s : State) (c kind : Nat) : State :=
  ((s.inc (VIS_CAM_OUT_CNT_SKIP c kind)).inc VIS_PIPE_CNT_SKIP).raise VIS_PIPE_ERR_STAGE_SKIP

/-- R381, R387: the space of one output of a frame is reserved, or the output skipped. An output for a transmitter needs none. -/
def State.reserve (s : State) (c : Nat) (f : VisFrame) (kind roi : Nat) : State :=
  if ¬ s.flag (VIS_CAM_OUT_CFG_EN c kind) then s
  else
    let dest := s.get (VIS_CAM_OUT_CFG_DEST c kind)
    let size := if dest = 2 then 0 else 48 + s.fullSize c f.set kind roi
    if s.stageFree < size then s.skipOutput c kind
    else
      let o : VisOutput := { cam := c, kind, roi, frame := f.frame, set := f.set, size, dest
                             addr := s.get (VIS_CAM_OUT_CFG_ADDR c kind), cls := s.get (VIS_CAM_OUT_CFG_CLASS c kind) }
      { s with vis := { s.vis with staged := s.vis.staged ++ [o] } }

/-- R381: the outputs of a frame are reserved before their first row leaves the pipeline. -/
def State.reserveFrame (s : State) (c : Nat) (f : VisFrame) : State :=
  s.each (List.range 4) (fun s kind => s.each (s.roisOf f.set kind) (fun s roi => s.reserve c f kind roi))

/-! ### Transmitters (R384) -/

/-- R384: the data type of an output's rows. -/
def csiType (fmt : Nat) : Nat := if fmt = 0 then 0x24 else if fmt = 3 then 0x2A else if fmt = 4 then 0x2E else 0x30

/-- R384: an output for transmitter `t`. One that is off drops it. -/
def State.queueCsi (s : State) (t : Nat) (x : CsiFrame) : State :=
  if s.flag (VIS_CST_CFG_EN t) then
    State.put { s with vis := { s.vis with tx := SMap.insert s.vis.tx t (SMap.getD s.vis.tx t [] ++ [x]) } } (VIS_CST_STATUS_BUSY t) 1
  else s

/-- The outputs of a frame have all been staged or transmitted (R390). -/
def State.showProcessed (s : State) (c frame : Nat) : State :=
  if s.vis.tx.any (fun e => e.2.any (fun x => x.cam == c && x.frame == frame && x.kind < 5)) then s
  else s.put (VIS_CAM_PROCESSED c) frame

/-- R384: the next row of output `x`, at the front of transmitter `n`, is sent: a Frame Start and the header go before the first
row, a Frame End after the last, which ends the output. -/
def State.sendRow (s : State) (n : Nat) (x : CsiFrame) (rest : List CsiFrame) : State :=
  let fn := leBytes 2 ((x.frame - 1) % 65535 + 1)
  let s := if x.begun then s else (s.emit (.csi n 0x00 fn)).emit (.csi n 0x12 x.header)
  let s := match x.rows with
    | r :: _ => s.emit (.csi n x.dt r)
    | [] => s
  if x.rows.length ≤ 1 then
    let s : State := { s.emit (.csi n 0x01 fn) with vis := { s.vis with tx := SMap.insert s.vis.tx n rest } }
    let s := (s.inc (VIS_CST_CNT_FRAMES n)).put (VIS_CST_STATUS_BUSY n) (b2n (rest != []))
    if x.kind < 5 then (s.inc (VIS_CAM_OUT_CNT_OUT x.cam x.kind)).showProcessed x.cam x.frame else s
  else { s with vis := { s.vis with tx := SMap.insert s.vis.tx n ({ x with begun := true, rows := x.rows.drop 1 } :: rest) } }

/-- R384: transmitter `t` sends the next row of its output, with what goes before the first and after the last. -/
def execCsitxRowSend (t : Fin 2) (s : State) : Host.Outcome State Fault Refusal :=
  .next (
    match (if s.isUp dVIS ∧ s.flag (VIS_CST_CFG_EN t.val) then SMap.getD s.vis.tx t.val [] else []) with
    | [] => s
    | x :: rest => s.sendRow t.val x rest)

/-! ### Bulk appends and loans (R380, R385) -/

/-- R380: one append to bulk queue `q`, or none where it has no room or is not in use. -/
def State.bulkAppend (s : State) (q : Nat) (bytes : List Byte) : Option State :=
  let fill := s.get (SIG_BULK_FILL q)
  if ¬ s.flag (SIG_BULK_CFG_EN q) ∨ s.flag (SIG_BULK_STATUS q) ∨ s.bulkSize q < fill + bytes.length then none
  else some ((s.ringWrite q (SMap.getD s.bulk.rd q 0 + fill) bytes).setFill q (fill + bytes.length))

/-- R385: some output fills the loan `k` already. -/
def State.loanInUse (s : State) (k : Nat × Nat × Nat) : Bool :=
  s.vis.staged.any (fun o => !o.sent && o.loan == k) || s.vis.sinks.any (fun e => e.2.done.any (fun d => d.loan == k))

/-- R385: loans at an endpoint smaller than `MAX_BYTES` are given back. -/
def State.returnSmall (s : State) (ep max : Nat) : State :=
  ((s.loansOf ep).takeWhile (fun w => decide (w.length < max))).foldl (fun s w => s.failWork w 0xA0 0 0) s

/-- R385: the loan that an endpoint's next output goes to: the oldest that is large enough and not in use. -/
def State.nextLoan (s : State) (ep max : Nat) : Option Work :=
  (s.loansOf ep).find? (fun w => decide (max ≤ w.length) && !s.loanInUse (w.src, w.sq, w.wsn))

/-! ### Sinks (R383) -/

/-- Sink `k` beyond its registers. -/
def State.sink (s : State) (k : Nat) : SinkSt := SMap.getD s.vis.sinks k {}

/-- Sink `k` replaced. -/
def State.setSink (s : State) (k : Nat) (x : SinkSt) : State := { s with vis := { s.vis with sinks := SMap.insert s.vis.sinks k x } }

/-- The endpoint of sink `k`. -/
def epSink (k : Nat) : Nat := 0x580 + k

/-- The bytes of an output from its segments; bytes that have not arrived are free values. -/
def State.joinSegs (s : State) (segs : SMap (List Byte)) (total : Nat) : List Byte :=
  (List.range total).map (fun i =>
    match segs.find? (fun e => e.1 ≤ i && i < e.1 + e.2.length) with
    | some (off, bs) => bs.getD (i - off) 0
    | none => BitVec.ofNat 8 (Config.freeValue (s.fresh + i)))

/-- R383, R384: the rows of an output held whole as bytes. -/
def outputRowsOf (bytes : List Byte) : List (List Byte) :=
  let fmt := leAt bytes 34 1
  let w := leAt bytes 36 2
  let n := rowBytes fmt w
  if n = 0 then [] else chunks n bytes.length (bytes.drop 48)

/-- R383, R384: outputs that a sink with a transmitter has closed go to it; one that is incomplete is dropped. Those for loans and bulk
queues cross the Polder (R30). -/
def State.sinkPump : Nat → State → Nat → State
  | 0, s, _ => s
  | fuel + 1, s, k =>
    match (s.sink k).done with
    | [] => s
    | d :: rest =>
      if s.get (VIS_SINK_CFG_DEST k) ≠ 2 then s
      else
        let s := s.setSink k { s.sink k with done := rest }
        let s := if d.oflags.testBit 3 then s.inc (VIS_SINK_CNT_DROP k)
          else
            let bs := s.joinSegs d.segs d.total
            (s.queueCsi (s.get (VIS_SINK_CFG_ADDR k) % 2)
              { cam := leAt bs 4 1 % 8, kind := 5, frame := leAt bs 0 4, header := bs.take 48, dt := csiType (leAt bs 34 1)
                rows := outputRowsOf bs }).inc (VIS_SINK_CNT_OUT k)
        State.sinkPump fuel s k

/-- The bytes of segments that lie in an output of `total` bytes have all arrived. -/
def segsWhole (segs : SMap (List Byte)) (total : Nat) : Bool :=
  let (n, ok) := segs.foldl (fun (a : Nat × Bool) e => (max a.1 (e.1 + e.2.length), a.2 && decide (e.1 ≤ a.1))) (0, true)
  ok && decide (total ≤ n)

/-- R379, R383: a sink closes its output; an `INCOMPLETE` one shows it in the `OFLAGS` of its header. -/
def State.closeSink (s : State) (k : Nat) : State :=
  match (s.sink k).cur with
  | none => s
  | some x =>
    match x.total with
    | none => (s.setSink k { s.sink k with cur := none }).inc (VIS_SINK_CNT_DROP k)
    | some total =>
      let whole := segsWhole x.segs total
      let head := SMap.getD x.segs 0 []
      let fl := leAt head 35 1 ||| (if whole then 0 else 8)
      let segs := SMap.insert x.segs 0 (head.take 35 ++ leBytes 1 fl ++ head.drop 36)
      let st := s.sink k
      let s := s.setSink k { cur := none, done := st.done ++ [({ segs, total, oflags := fl } : SinkDone)] }
      s.sinkPump (s.sink k).done.length k

/-- R383: a STREAM segment at sink `k`. -/
def State.sinkSegment (s : State) (k : Nat) (bytes : List Byte) : State :=
  if ¬ (s.isUp dVIS ∧ s.flag (VIS_SINK_CFG_EN k)) ∨ bytes.length < 16 then s
  else
    let id := (leAt bytes 0 4, leAt bytes 4 1, leAt bytes 5 1, leAt bytes 6 1)
    let first := (leAt bytes 7 1).testBit 0
    let last := (leAt bytes 7 1).testBit 1
    let off := leAt bytes 8 4
    let data := bytes.drop 16
    let s := if first ∧ (s.sink k).cur.any (fun x => x.id != id) then s.closeSink k else s
    let cur := match (s.sink k).cur with
      | some x => if x.id = id then some x else none
      | none => if first then some ({ id } : SinkCur) else none
    match cur with
    | none => s.inc (VIS_SINK_CNT_DROP k)
    | some x =>
      let total := if off = 0 ∧ 48 ≤ data.length then some (48 + leAt data 40 4) else x.total
      if total.any (fun t => decide (s.get (VIS_SINK_MAX k) < t)) then
        (s.setSink k { s.sink k with cur := none }).inc (VIS_SINK_CNT_DROP k)
      else
        let x := { x with segs := SMap.insert x.segs off data, total, last := x.last || last }
        let s := s.setSink k { s.sink k with cur := some x }
        if x.last ∧ total.any (segsWhole x.segs) then s.closeSink k else s

/-- R383: a STREAM frame reaches a sink of this node. -/
def execStreamFrame (ep : BitVec 12) (bytes : List Byte) (s : State) : Host.Outcome State Fault Refusal :=
  .next (if 0x580 ≤ ep.toNat ∧ ep.toNat < 0x5C0 then s.sinkSegment (ep.toNat - 0x580) bytes else s)

/-- R383: 100 ms after its `FIRST` an output that is not complete is closed `INCOMPLETE`. -/
def execSinkIncompleteTimeout (k : Fin 64) (s : State) : Host.Outcome State Fault Refusal :=
  .next (if s.isUp dVIS then s.closeSink k.val else s)

/-! ### Sending outputs across the Polder (R30, R380-R385) -/

/-- An output has been sent. -/
def State.markSent (s : State) (o : VisOutput) : State :=
  (State.inc { s with vis := { s.vis with staged := s.vis.staged.map (fun x => if x.same o then { x with sent := true } else x) } }
    (VIS_CAM_OUT_CNT_OUT o.cam o.kind)).showVis

/-- R383: an output that sink `k` has closed, as an output to be sent to the sink's destination. -/
def State.sinkOutput (s : State) (k : Nat) (d : SinkDone) : VisOutput :=
  { cam := k, kind := 6, dest := s.get (VIS_SINK_CFG_DEST k), addr := s.get (VIS_SINK_CFG_ADDR k), size := d.total, ready := true
    loan := d.loan, pos := d.pos }

/-- The segments of an output: its byte string, or what has come of it at a sink. -/
def State.outputSegs (s : State) (o : VisOutput) : SMap (List Byte) :=
  if o.kind = 6 then (((s.sink o.cam).done.head?).map (fun d => d.segs)).getD [] else [(0, o.bytes)]

/-- Bytes from offset `off` on cut into pieces of at most `n`. -/
def pieces (n : Nat) : Nat → Nat → List Byte → List (Nat × List Byte)
  | 0, _, _ => []
  | fuel + 1, off, bs => if bs.length ≤ n then [(off, bs)] else (off, bs.take n) :: pieces n fuel (off + n) (bs.drop n)

/-- R146, R183, R382: the pieces in which an output crosses the Polder: 2,032 bytes in STREAM and RETURN frames, a whole frame of the switch
within the node. -/
def State.outputPieces (s : State) (o : VisOutput) : List (Nat × List Byte) :=
  let n := if o.dest = 1 ∨ (o.dest = 0 ∧ o.loan.1 ≠ s.nodeId) then 2032 else 9216
  (s.outputSegs o).flatMap (fun (off, bs) => pieces n (bs.length + 1) off bs)

/-- R382: the STREAM payload of a piece. -/
def streamPayload (o : VisOutput) (off : Nat) (last : Bool) (bs : List Byte) : List Byte :=
  leBytes 4 o.frame ++ leBytes 1 o.cam ++ leBytes 1 o.kind ++ leBytes 1 o.roi ++ leBytes 1 (b2n (off == 0) + 2 * b2n last)
    ++ leBytes 4 off ++ leBytes 4 0 ++ bs

/-- R28, R381: an output has a piece to send, and its destination takes it: STREAM always, an append while LPDDR5 is not threatened, a loan
where one waits or is being filled. -/
def State.sendable (s : State) (o : VisOutput) : Bool :=
  o.ready && !o.sent && decide (o.pos < (s.outputPieces o).length)
  && (o.dest == 1 || (o.dest == 3 && !s.isThreat dMEM) || (o.dest == 0 && (o.loan != (0, 0, 0) ||
      (s.nextLoan (if o.kind = 6 then epSink o.cam else epOut o.cam o.kind)
        (if o.kind = 6 then s.get (VIS_SINK_MAX o.cam) else s.get (VIS_CAM_OUT_MAX o.cam o.kind))).isSome)))

/-- R382, R383: the output whose next piece is sent: staged outputs in the order in which they finished staging, then those of the sinks. -/
def State.nextOutput (s : State) : Option VisOutput :=
  (s.vis.staged ++ s.vis.sinks.filterMap (fun (k, x) => (x.done.head?).map (fun d => s.sinkOutput k d))).find? s.sendable

/-- R385: an output for a loan takes the loan that it will fill. -/
def State.takeLoan (s : State) (o : VisOutput) : VisOutput :=
  if o.dest ≠ 0 ∨ o.loan ≠ (0, 0, 0) then o
  else match s.nextLoan (if o.kind = 6 then epSink o.cam else epOut o.cam o.kind)
      (if o.kind = 6 then s.get (VIS_SINK_MAX o.cam) else s.get (VIS_CAM_OUT_MAX o.cam o.kind)) with
    | some w => { o with loan := (w.src, w.sq, w.wsn) }
    | none => o

/-- R30, R146, R382: how a piece crosses the Polder: its outputs, its bytes there, whether it is tagged, and the K-frame's class. A piece for
another node is a K-frame already, and a broadcast takes the next broadcast number. -/
def State.pieceFrame (s : State) (o : VisOutput) (off : Nat) (last : Bool) (bs : List Byte) : List Nat × List Byte × Bool × Nat :=
  let ep := o.addr % 4096
  let node := o.addr / 4096
  if o.dest = 1 then
    let body : KBody := .stream o.cls (streamPayload o off last bs)
    if node = 255 then ([0], kframeBytes 0 false 0 (255 * 4096) (s.nodeId * 4096) (s.ring.bseq + 1) body, false, o.cls)
    else if s.isOwn node ep then ([12], streamPayload o off last bs, false, o.cls)
    else
      let p := (s.routePort node ep).getD 0
      ([p], kframeBytes (ringOf p) false 0 o.addr (s.nodeId * 4096) 0 body, false, o.cls)
  else if o.dest = 0 ∧ o.loan.1 ≠ s.nodeId then
    match s.work? o.loan.1 o.loan.2.1 o.loan.2.2 with
    | some w =>
      let p := (s.routePort w.src 0).getD 0
      let body : KBody := .ret w.tag w.cls w.param w.opcode w.length off last bs
      ([p], kframeBytes (ringOf p) false 0 (w.src * 4096) (s.nodeId * 4096) 0 body, true, w.cls)
    | none => ([], [], true, 0)
  else if o.dest = 0 then
    ([3], bs, true, if o.kind = 6 then ((s.work? o.loan.1 o.loan.2.1 o.loan.2.2).map (fun w => w.cls)).getD 0 else o.cls)
  else ([30], bs, false, o.cls)

/-- One more piece of an output has entered SP12. -/
def State.setPos (s : State) (o : VisOutput) (n : Nat) : State :=
  if o.kind = 6 then
    let x := s.sink o.cam
    s.setSink o.cam { x with done := match x.done with
      | d :: rest => { d with pos := n, loan := o.loan } :: rest
      | [] => [] }
  else { s with vis := { s.vis with staged := s.vis.staged.map (fun x => if x.same o then { x with pos := n, loan := o.loan } else x) } }

/-- R30, R187, R381, R382: the next piece of an output enters SP12 as a frame of the switch, or SP12 is held. The last STREAM piece sends the
output. -/
def State.sendPiece (s : State) (o : VisOutput) : State :=
  let o := s.takeLoan o
  let ps := s.outputPieces o
  let (off, bs) := ps.getD o.pos (0, [])
  let last := o.pos + 1 == ps.length
  let (outs, bytes, tagged, k) := s.pieceFrame o off last bs
  if outs = [] ∨ ¬ s.isUp dPLD ∨ s.sliceShut 12 outs then s
  else if ¬ s.mayLink 12 k bytes.length outs then s.holdInput 12 outs
  else
    let s := s.setPos o (o.pos + 1)
    let s : State := if o.dest = 1 ∧ o.addr / 4096 = 255 then { s with ring := { s.ring with bseq := (s.ring.bseq + 1) % 65536 } } else s
    let s := s.linkFrame 12 outs k tagged bytes (s.reservedFor 12 k bytes.length)
      (some { o with bytes := if o.dest = 1 ∧ outs = [12] then bytes else bs, pos := off, sent := last })
    let s := if o.dest = 1 ∧ last then s.markSent o else s
    s.each outs State.newHeads

/-- R380-R383, R385: SP12 and a destination are ready: the next piece of the output whose turn it is enters SP12, while VIS emits (R37, R388).
Loans too small for their endpoint are given back first. -/
def execVisStreamSend (s : State) : Host.Outcome State Fault Refusal :=
  .next (
    if ¬ s.emits dVIS then s
    else
      let s := s.each (List.range 40) (fun s i => s.returnSmall (epOut (i / 5) (i % 5)) (s.get (VIS_CAM_OUT_MAX (i / 5) (i % 5))))
      let s := s.each (List.range 64) (fun s k => s.returnSmall (epSink k) (s.get (VIS_SINK_MAX k)))
      match s.nextOutput with
      | none => s
      | some o => s.sendPiece o)

/-! ### Pieces that have crossed the Polder (R380, R383, R385) -/

/-- The output of which `o` is a piece, while it is still being sent. -/
def State.outputOf (s : State) (o : VisOutput) : Option VisOutput :=
  if o.kind = 6 then ((s.sink o.cam).done.head?).map (fun d => s.sinkOutput o.cam d)
  else s.vis.staged.find? (fun x => x.same o && !x.sent)

/-- The output of which `o` is a piece has been delivered. -/
def State.outputDone (s : State) (o : VisOutput) : State :=
  if o.kind = 6 then (s.setSink o.cam { s.sink o.cam with done := (s.sink o.cam).done.drop 1 }).inc (VIS_SINK_CNT_OUT o.cam) else s.markSent o

/-- R385: a loan's piece has arrived: written into the host buffer of this node, and with the last one the loan is filled. -/
def State.loanPiece (s : State) (o whole : VisOutput) : State :=
  match s.work? o.loan.1 o.loan.2.1 o.loan.2.2 with
  | none => s
  | some w =>
    let s := if w.src = s.nodeId then
        (match s.openItem? w.sq w.wsn with
         | some i => s.hostWrite (i.desc.bufAddr + o.pos) o.bytes
         | none => s)
      else s
    if ¬ o.sent then s
    else
      let segs := s.outputSegs whole
      let total := if o.kind = 6 then whole.size else whole.bytes.length
      (s.answer w 0x01 total (leAt (SMap.getD segs 0 []) 35 1 % 16)).outputDone whole

/-- R380, R381, R383: the last piece of an append has arrived: one append, or a skip where the queue has no room. A staged output's space is
then released. -/
def State.appendPiece (s : State) (o whole : VisOutput) : State :=
  if ¬ o.sent then s
  else
    let bs := if o.kind = 6 then s.joinSegs (s.outputSegs whole) whole.size else whole.bytes
    let s : State := if o.kind = 6 then { s with fresh := s.fresh + whole.size } else s
    match s.bulkAppend (o.addr % 512) bs with
    | some s => s.outputDone whole
    | none =>
      if o.kind = 6 then (s.setSink o.cam { s.sink o.cam with done := (s.sink o.cam).done.drop 1 }).inc (VIS_SINK_CNT_DROP o.cam)
      else
        let s := s.skipOutput o.cam o.kind
        State.showVis { s with vis := { s.vis with staged := s.vis.staged.filter (fun x => !x.same o) } }

/-- R30: a frame of a vision output has crossed the Polder. Those for other nodes have left by a ring port. -/
def State.pieceOut (s : State) (out : Nat) (o : VisOutput) : State :=
  if o.dest = 1 then (if out = 12 then s.sinkSegment (o.addr % 4096 - 0x580) o.bytes else s)
  else match s.outputOf o with
    | some whole => if whole.loan ≠ o.loan then s else if o.dest = 0 then s.loanPiece o whole else s.appendPiece o whole
    | none => s

/-- R185, R197: an output hands the last cell of its frame to its unit. -/
def execFrameEgressEnd (out : Fin 32) (s : State) : Host.Outcome State Fault Refusal :=
  .next (match (if s.isUp dPLD then (s.outSt out).busy else none) with
    | none => s
    | some num =>
      let v := (s.pld.frames.find? (fun f => f.num == num)).bind (fun f => f.vis)
      let s := s.endEgress out num
      match v with
      | some o => s.pieceOut out o
      | none => s)

/-- R381: the space of the oldest output that has been sent is released. -/
def execStagingRelease (s : State) : Host.Outcome State Fault Refusal :=
  .next (match s.vis.staged.find? (fun o => o.sent) with
    | some o => State.showVis { s with vis := { s.vis with staged := s.vis.staged.erase o } }
    | none => s)

/-! ### A frame through the pipeline (R351, R369-R379) -/

/-- R373: the reference of camera `c`, row by row, in LPDDR5. -/
def State.reference (s : State) (c rows : Nat) : Img :=
  let w := s.get (VIS_CAM_SIZE_WIDTH c)
  (List.range rows).map (fun y =>
    let bs := s.memRead ((s.tnrRegion c).1 + 2 * w * y) (2 * w)
    (List.range w).map (fun x => ((leAt bs (2 * x) 2 % 2 ^ 14 : Nat) : Int)))

/-- R373: stage 3's output written into the reference. -/
def State.writeReference (s : State) (c : Nat) (m : Img) : State :=
  let w := s.get (VIS_CAM_SIZE_WIDTH c)
  (List.range m.length).foldl (fun s y =>
    s.memWrite ((s.tnrRegion c).1 + 2 * w * y) ((m.getD y []).flatMap (fun v => b16 v.toNat))) s

/-- R379, R380: one reserved output of a frame takes its bytes: into staging, or to its transmitter. -/
def State.fillOutput (s : State) (c : Nat) (f : VisFrame) (o : VisOutput) (fmt oflags ow oh : Nat) (rows : List (List Byte)) : State :=
  let n := (rows.map (fun r => r.length)).sum
  let head := s.outputHeader c f o.kind o.roi fmt oflags ow oh n
  if o.dest = 2 then
    State.queueCsi { s with vis := { s.vis with staged := s.vis.staged.erase o } } (o.addr % 2)
      { cam := c, kind := o.kind, frame := f.frame, header := head, dt := csiType fmt, rows }
  else
    let o' := { o with bytes := head ++ rows.flatten, ready := true }
    -- An output stands behind those that finished staging before it (R382).
    { s with vis := { s.vis with staged := (s.vis.staged.erase o) ++ [o'] } }

/-- R369-R379: a frame that has ended and whose lines have all been taken: its outputs, its statistics and its reference. -/
def State.finishFrame (s : State) (c : Nat) (f : VisFrame) : State :=
  let x := s.cam c
  let tnrOn := s.flag (VIS_SET_TNR_EN f.set)
  let valid := tnrOn && x.tnr == some ((f.frame + 2 ^ 32 - 1) % 2 ^ 32)
  let whole := !f.flags.testBit fSHORT && !f.flags.testBit fTRUNCATED
  let st := s.stages c f.set f.rows (if valid then some (s.reference c f.rows.length) else none)
  let s := if tnrOn then s.writeReference c st.s3 else s
  let tnr := if tnrOn ∧ whole then some f.frame else none
  let oflags := (if tnrOn ∧ ¬ valid then 1 else 0) + (if whole then 0 else 4)
  let s := s.setCam c { x with tnr, frames := x.frames.filter (fun g => g.frame != f.frame) }
  let s := s.put (VIS_CAM_PIPE_TNR_VALID c) (b2n tnr.isSome)
  let mine := s.vis.staged.filter (fun o => o.cam == c && o.frame == f.frame && !o.ready)
  let s := mine.foldl (fun s o =>
    let g := s.geom c f.set o.kind o.roi
    let (rows, n) := s.outputRows c f.set o.kind o.roi st
    let pad := if o.kind = 1 ∧ s.get (VIS_SET_OUT_FMT_MB_ALIGN f.set 1) ≠ 0 then 2 else 0
    s.fillOutput c f o g.fmt (oflags + pad) g.pw n rows) s
  let s := s.reserve c f 4 0
  let s := match s.vis.staged.find? (fun o => o.cam == c && o.kind == 4 && o.frame == f.frame && !o.ready) with
    | some o =>
      let w := s.get (VIS_CAM_SIZE_WIDTH c)
      let h := s.get (VIS_CAM_SIZE_HEIGHT c)
      s.fillOutput c f o 0 oflags (w / 32) (h / 32) [statsBody (s.get (VIS_CAM_PIPE_BAYER c)) w h st.s6]
    | none => s
  (s.showProcessed c f.frame).showVis

/-- Frames of camera `c` that have ended and whose lines have been taken are finished, in order. -/
def State.finishFrames : Nat → State → Nat → State
  | 0, s, _ => s
  | fuel + 1, s, c =>
    match (s.cam c).frames with
    | f :: _ =>
      if f.closed ∧ (s.cam c).lines.all (fun l => l.frame != f.frame) then State.finishFrames fuel (s.finishFrame c f) c else s
    | [] => s

/-- R351: the camera that the pipeline serves next: the earliest start-of-line among the oldest lines, and on equal ones the camera
after the one last served. -/
def State.nextCam (s : State) : Option Nat :=
  let order := (List.range 8).map (fun i => (s.vis.last + 1 + i) % 8)
  let sol (c : Nat) : Option Nat := ((s.cam c).lines.head?).map (fun l => l.sol)
  order.foldl (fun best c =>
    match sol c, best with
    | none, _ => best
    | some _, none => some c
    | some t, some b => if (sol b).any (fun u => decide (t < u)) then some c else best) none

/-- R351, R381: the line `l`, at the front of camera `c`'s buffer, enters the pipeline. With a frame's first line its outputs are
reserved; a frame that has ended and has no line left is finished. -/
def State.takeNext (s : State) (c : Nat) (l : VisLine) (rest : List VisLine) : State :=
  let s := s.inc VIS_PIPE_CNT_LINES
  let x := s.cam c
  let first := x.frames.any (fun f => f.frame == l.frame && !f.begun)
  let s := (s.setCam c { x with
    lines := rest
    frames := x.frames.map (fun f => if f.frame = l.frame then { f with begun := true, rows := f.rows ++ [l.bytes] } else f) })
  let s : State := { s with vis := { s.vis with last := c } }
  let s := match (if first then (s.cam c).frames.find? (fun f => f.frame == l.frame) else none) with
    | some f => (s.reserveFrame c f).showVis
    | none => s
  s.finishFrames (s.cam c).frames.length c

/-- The front of camera `c`'s line buffer goes through the pipeline. -/
def State.takeFrom (s : State) (c : Nat) : State :=
  match (s.cam c).lines with
  | [] => s
  | l :: rest => s.takeNext c l rest

/-- R28: the line next in turn belongs to a frame whose set writes a TNR reference, and LPDDR5 is threatened: its intake is held. -/
def State.tnrHeld (s : State) (c : Nat) : Bool :=
  s.isThreat dMEM && ((s.cam c).lines.head?).any (fun l =>
    (s.cam c).frames.any (fun f => f.frame == l.frame && s.flag (VIS_SET_TNR_EN f.set)))

/-- R28, R351, R381: the free pipeline takes the next line. With a frame's first line its outputs are reserved. -/
def execPipeLineTake (s : State) : Host.Outcome State Fault Refusal :=
  .next (match (if s.isUp dVIS then s.nextCam else none) with
    | none => s
    | some c => if s.tnrHeld c then s else s.takeFrom c)

/-- R349, R362, R375: the frame of camera `n` ends with its Frame End: its tag is closed, a camera that is stopping goes to DISABLED,
and a frame with no line left is finished. -/
def State.endFrame (s : State) (n : Nat) : State :=
  let s := s.closeFrame n false
  let s := if (s.cam n).stopping then s.stopCam n else s
  (s.finishFrames (s.cam n).frames.length n).showVis

/-- R349, R362, R375: a Frame End of the camera's virtual channel. -/
def execCsiFrameEnd (c : Fin 8) (vc : Fin 4) (s : State) : Host.Outcome State Fault Refusal :=
  .next (
    if ¬ s.isUp dVIS ∨ s.camState c.val ≠ 3 ∨ vc.val ≠ s.get (VIS_CAM_CFG_VC c.val) then s
    else s.endFrame c.val)

/-! ### Configuration (R371, R380, R383, R389-R393) -/

/-- R384, R392: a transmitter is named by an output or a sink other than the given ones. -/
def State.cstBound (s : State) (t : Nat) (notOut : Option (Nat × Nat)) (notSink : Option Nat) : Bool :=
  (List.range 40).any (fun i =>
    let c := i / 5
    let k := i % 5
    some (c, k) != notOut && s.flag (VIS_CAM_OUT_CFG_EN c k) && s.get (VIS_CAM_OUT_CFG_DEST c k) == 2
      && s.get (VIS_CAM_OUT_CFG_ADDR c k) % 2 == t)
  || (List.range 64).any (fun k => some k != notSink && s.flag (VIS_SINK_CFG_EN k) && s.get (VIS_SINK_CFG_DEST k) == 2
      && s.get (VIS_SINK_CFG_ADDR k) % 2 == t)

/-- `BOUND` of both transmitters as it stands. -/
def State.showBound (s : State) : State := s.each [0, 1] (fun s t => s.put (VIS_CST_STATUS_BOUND t) (b2n (s.cstBound t none none)))

/-- R380: `VIS_CAMc_OUTk_CFG` written. -/
def State.writeOutCfg (s : State) (c k v : Nat) : State :=
  let dest := bitsOf v 28 3
  let addr := v % 2 ^ 20
  let en := v.testBit 31
  let was := s.flag (VIS_CAM_OUT_CFG_EN c k)
  let moved := dest ≠ s.get (VIS_CAM_OUT_CFG_DEST c k) ∨ addr ≠ s.get (VIS_CAM_OUT_CFG_ADDR c k)
    ∨ bitsOf v 25 3 ≠ s.get (VIS_CAM_OUT_CFG_CLASS c k)
  if was ∧ moved then s.raise VIS_PIPE_ERR_CFG_REJECT
  else
    let fields (s : State) : State :=
      ((s.put (VIS_CAM_OUT_CFG_DEST c k) dest).put (VIS_CAM_OUT_CFG_CLASS c k) (v / 2 ^ 25)).put (VIS_CAM_OUT_CFG_ADDR c k) addr
    let max := s.get (VIS_CAM_OUT_MAX c k)
    let sinkAddr := 0x580 ≤ addr % 4096 ∧ addr % 4096 < 0x5C0 ∧ addr / 4096 ≠ 0
    let t := fields s
    let set := if s.camState c = 1 then s.get (VIS_CAM_PIPE_INIT_SET c) else s.get (VIS_CAM_PIPE_SET c)
    let bad := 4 ≤ dest ∨ max = 0 ∨ (dest = 1 ∧ ¬ sinkAddr) ∨ (dest = 2 ∧ s.cstBound (addr % 2) (some (c, k)) none)
      ∨ (dest = 3 ∧ ¬ s.flag (SIG_BULK_CFG_EN (addr % 512))) ∨ (dest = 0 ∧ 16777215 < max)
      ∨ (s.camState c ≠ 0 ∧ ¬ t.outFits c set k)
    if en ∧ ¬ was ∧ bad then s.raise VIS_PIPE_ERR_CFG_REJECT
    else
      let s := (fields s).put (VIS_CAM_OUT_CFG_EN c k) (b2n en)
      let s := if was ∧ ¬ en then s.returnLoans (epOut c k) else s
      (s.reannounce (epOut c k) (if en ∧ dest = 0 then 2 else 0)).showBound

/-- R380: a write of `VIS_CAMc_OUTk_CFG`. -/
def execVisOutputEnable (c : Fin 8) (k : Fin 5) (val : Word) (s : State) : Host.Outcome State Fault Refusal :=
  .next (if s.isUp dVIS then s.writeOutCfg c.val k.val val.toNat else s)

/-- R383, R385, R393: `VIS_SINKs_CFG` written. -/
def State.writeSinkCfg (s : State) (k v : Nat) : State :=
  let dest := bitsOf v 28 3
  let addr := v % 2 ^ 9
  let en := v.testBit 31
  let was := s.flag (VIS_SINK_CFG_EN k)
  let max := s.get (VIS_SINK_MAX k)
  let bad := dest = 1 ∨ 4 ≤ dest ∨ max = 0 ∨ (dest = 0 ∧ 16777215 < max) ∨ (dest = 2 ∧ s.cstBound (addr % 2) none (some k))
    ∨ (dest = 3 ∧ ¬ s.flag (SIG_BULK_CFG_EN addr))
  if (was ∧ (dest ≠ s.get (VIS_SINK_CFG_DEST k) ∨ addr ≠ s.get (VIS_SINK_CFG_ADDR k))) ∨ (en ∧ ¬ was ∧ bad) then
    s.raise VIS_PIPE_ERR_CFG_REJECT
  else
    let s := ((s.put (VIS_SINK_CFG_EN k) (b2n en)).put (VIS_SINK_CFG_DEST k) dest).put (VIS_SINK_CFG_ADDR k) addr
    let s := if was ∧ ¬ en then
        let s := s.returnLoans (epSink k)
        s.setSink k {}
      else s
    (s.reannounce (epSink k) (if en ∧ dest = 0 then 2 else 0)).showBound

/-- R392: `VIS_CSTt_CFG` written. -/
def State.writeCstCfg (s : State) (t v : Nat) : State :=
  let en := v.testBit 31
  let was := s.flag (VIS_CST_CFG_EN t)
  let mbps := v % 2 ^ 12
  let moved := bitsOf v 29 2 ≠ s.get (VIS_CST_CFG_LANES t) ∨ bitsOf v 28 1 ≠ s.get (VIS_CST_CFG_CONT_CLK t)
    ∨ bitsOf v 26 2 ≠ s.get (VIS_CST_CFG_VC t) ∨ mbps ≠ s.get (VIS_CST_CFG_LANE_MBPS t)
  if (was ∧ moved) ∨ (en ∧ ¬ was ∧ (mbps < 80 ∨ 2500 < mbps ∨ bitsOf v 29 2 = 2)) then s.raise VIS_PIPE_ERR_CFG_REJECT
  else
    let s := ((s.put (VIS_CST_CFG_EN t) (b2n en)).put (VIS_CST_CFG_LANES t) (v / 2 ^ 29)).put (VIS_CST_CFG_CONT_CLK t) (v / 2 ^ 28)
    let s := (s.put (VIS_CST_CFG_VC t) (v / 2 ^ 26)).put (VIS_CST_CFG_LANE_MBPS t) mbps
    if was ∧ ¬ en then
      State.put { s with vis := { s.vis with tx := SMap.erase s.vis.tx t } } (VIS_CST_STATUS_BUSY t) 0
    else s

/-- R389: the staging region may change: every camera and sink is disabled. -/
def State.stageFreeToMove (s : State) : Bool :=
  (List.range 8).all s.camFree && (List.range 64).all (fun k => !s.flag (VIS_SINK_CFG_EN k))

/-- R389: `VIS_STAGE_BASE` written. -/
def State.writeStageBase (s : State) (v : Nat) : State :=
  if v % 2 ^ 22 ≠ s.get VIS_STAGE_BASE ∧ ¬ s.stageFreeToMove then s.raise VIS_PIPE_ERR_CFG_REJECT
  else (s.put VIS_STAGE_BASE v).showVis

/-- R389: `VIS_STAGE_SIZE` written, 16-4,096 MiB. -/
def State.writeStageSize (s : State) (v : Nat) : State :=
  let n := v % 2 ^ 16
  if n < 16 ∨ 4096 < n ∨ (n ≠ s.get VIS_STAGE_SIZE ∧ ¬ s.stageFreeToMove) then s.raise VIS_PIPE_ERR_CFG_REJECT
  else (s.put VIS_STAGE_SIZE n).showVis

end Sys2Proof.Machine
end

