-- ==== Sys2Proof/Machine/Restore.lean ====
section
/-! DEFINITION. The supervisor's copy of configuration writes in LPDDR5 and its restoration after LULL and after a WARM reset
(R130, R244, R271, R293, R316, R339, R342, R366, R389), and the end of a domain's power-up (R33). -/

namespace Sys2Proof.Machine

open Sys2Proof.Machine.Reg

/-- The domain of a running unit's number. -/
def runDomain (k : Nat) : Nat := if k < 192 then dFC (k / 32) else dVIS

/-- The copy of the domains of `ds` taken, with the units that run in them. Those of a standby half do not run (R401). -/
def State.saveConfig (s : State) (ds : List Nat) : State :=
  let rest := s.saved.filter (fun e => !ds.contains (regDomain (e.1 / 32)))
  { s with
    saved := (ds.flatMap s.configOf).foldl (fun m e => SMap.insert m e.1 e.2) rest
    savedRun := if s.node.twinRole = .standby then s.savedRun
      else s.savedRun.filter (fun k => !ds.contains (runDomain k)) ++ s.running.filter (fun k => ds.contains (runDomain k)) }

/-- The saved configuration of domain `d` written back, and the copy used up. -/
def State.restoreFields (s : State) (d : Nat) : State :=
  let mine (e : Nat × Nat) : Bool := regDomain (e.1 / 32) == d
  { s with regs := (s.saved.filter mine).foldl (fun m e => SMap.insert m e.1 e.2) s.regs
           saved := s.saved.filter (fun e => !mine e) }

/-- R130, R293, R316: cluster `n` restored: engines that were running and enabled controllers start, then its endpoints are
announced. -/
def State.restoreCluster (s : State) (n : Nat) : State :=
  let s := if s.node.twinRole = .standby then s
    else
      let s := (s.startEngines n).startCans n
      { s with savedRun := s.savedRun.filter (fun k => runDomain k != dFC n) }
  let s := s.showCluster n
  let s := s.each (List.range 32) (fun s q => s.reannounce (epPort n q) (s.portOps n q))
  let s := s.each (List.range 64) (fun s p => s.reannounce (epLine n p) (s.lineOps n p))
  s.each (List.range 8) (fun s c => if s.flag (FC_CAN_CFG_EN n c) then s.reannounce (epCan n c) (s.canOps n c) else s)

/-- R339, R342: the endpoints of SIG and the bulk queues announced. -/
def State.restoreSig (s : State) : State :=
  let s := s.reannounce 0 s.sigOps
  s.each ((List.range 512).filter (fun q => s.flag (SIG_BULK_CFG_EN q))) (fun s q => s.reannounce (epBulk q) 4)

/-- R366, R389: enabled cameras pass through STARTING again; outputs and sinks are announced. -/
def State.restoreVis (s : State) : State :=
  let on := (List.range 8).filter (fun c => s.flag (VIS_CAM_CFG_EN c))
  let s := s.each on (fun s c => s.put (VIS_CAM_CFG_EN c) 0)
  let s := if s.node.twinRole = .standby then s
    else { s.each on State.startCam with savedRun := s.savedRun.filter (fun k => runDomain k != dVIS) }
  let s := s.each (List.range 40) (fun s i =>
    if s.flag (VIS_CAM_OUT_CFG_EN (i / 5) (i % 5)) ∧ s.get (VIS_CAM_OUT_CFG_DEST (i / 5) (i % 5)) = 0
    then s.reannounce (epOut (i / 5) (i % 5)) 2 else s)
  let s := s.each (List.range 64) (fun s k =>
    if s.flag (VIS_SINK_CFG_EN k) ∧ s.get (VIS_SINK_CFG_DEST k) = 0 then s.reannounce (epSink k) 2 else s)
  s.showBound.showVis

/-- R244: enabled Ethernet ports are DOWN and announced. -/
def State.restoreNet (s : State) : State :=
  s.each ((List.range 16).filter (fun n => s.flag (NET_PORT_CFG_EN n))) State.ethEnable

/-- R130, R293, R316, R339, R342, R366, R389: the supervisor restores the units of domain `d` from its copy. The bulk registers of
the copy stand for the state of LOST that a power-up of SIG leaves. -/
def State.restoreDomain (s : State) (d : Nat) : State :=
  if s.saved.all (fun e => regDomain (e.1 / 32) != d) then s
  else
    let s := if d = dSIG then s.each (bitList s.bulk.bits 512) (fun s q => s.put (SIG_BULK_STATUS q) 0) else s
    let s := s.restoreFields d
    if dFC 0 ≤ d ∧ d ≤ dFC 5 then s.restoreCluster (d - dFC 0)
    else if d = dSIG then s.restoreSig
    else if d = dVIS then s.restoreVis
    else if d = dNET then s.restoreNet
    else s

/-- R33: the endpoints of domain `d` are down ports no longer with its power-up. -/
def State.upEndpoints (s : State) (d : Nat) : State :=
  { s with dlv := { s.dlv with
    offBits := clearBit s.dlv.offBits d
    flaps := s.dlv.flaps.filter (fun e => !servesKey d e.1) } }

/-- R33: the power-up of a domain completes: isolation is released, its registers and units are at their reset values, and
the node announces the change. A copy that the supervisor holds since a WARM reset is written back first (R130). Host-log copies
follow when HIF is up again (R436). -/
def execDomainPowerUpDone (d : Fin 17) (s : State) : Host.Outcome State Fault Refusal :=
  .next (if s.phase d = .upRun then
      let s := ((s.clearRegs d).freshUnits d).setPhase d .up
      let s := if d = dNET then s.showPools else s
      let s := { s with node := { s.node with upSincePor := setBit s.node.upSincePor d } }
      let s := s.upEndpoints d
      ((s.epChange []).restoreDomain d).hlogCopy
    else s)

end Sys2Proof.Machine
end

