-- ==== Sys2Proof/Machine/Lull.lean ====
section
/-! DEFINITION. The Lull (R167-R173): rounds, commit, sleep and wake. -/

namespace Sys2Proof.Machine

open Sys2Proof.Machine.Reg

/-- R169: accepted work in flight, queued or PENDING at the node. -/
def State.hasWork (s : State) : Bool :=
  s.hq.items.any (fun i => i.isAccepted && !i.isDone) || s.dlv.work != [] || s.dlv.ledger.any (fun e => e.2.pending)

/-- R169: the reason for which the node refuses a token, in the order of the codes; 0 when it consents. -/
def State.refusal (s : State) (policyConsents wakeAsserted : Bool) : Nat :=
  if s.mode = mLOADING then 1
  else if s.mode = mSERVICE then 2
  else if s.mode = mCONTAINED then 3
  else if s.boot.armed.isSome then 4
  else if s.hasWork then 5
  else if wakeAsserted then 6
  else if ¬ policyConsents then 7
  else if s.flag RING_LULL_CFG_DENY then 8
  else 0

/-- R168: the root may start no round: a node held out or in LOADING, the ring not closed, an enumeration or a wrap in
progress. -/
def State.lullBarred (s : State) : Bool :=
  s.ring.map.any (fun n => n == 0) || s.ring.map == [] || s.ring.loading != []
  || !s.flag RING_ENUM_STATUS_CLOSED || s.get RING_ENUM_STATUS_STATE == 1 || s.ring.enumAgain
  || s.ring.breaks != [] || s.flag RING_PROT_STATUS_WRAP_E || s.flag RING_PROT_STATUS_WRAP_W

/-- R168: the root starts a round: it judges its own consent, and sends LULL_TOKEN on ring A. -/
def State.startRound (s : State) (own : OwnConsent) : State :=
  if s.lullBarred then s.put RING_LULL_STATUS_RESULT 6
  else
    let round := (s.get RING_LULL_STATUS_ROUND + 1) % 65536
    let s := (s.put RING_LULL_STATUS_ROUND round).inc RING_LULL_ROUNDS_STARTED
    let s := { s with ring := { s.ring with lullRound := round, commitSent := false } }
    let r := s.refusal own.policy own.wake
    if r ≠ 0 then (s.put RING_LULL_STATUS_RESULT 3).put RING_LULL_STATUS_LAST_REASON r
    else
      let s := (s.put RING_LULL_STATUS_RESULT 1).put RING_LULL_STATUS_STATE 1
      s.sendOn 0 0 0 (.lullToken round (s.get RING_ENUM_STATUS_N) 0)

/-- R168, R176: `RING_LULL_CTRL.START`, ignored while a round runs. -/
def execLullStart (own : OwnConsent) (s : State) : Host.Outcome State Fault Refusal :=
  .next (if s.flag RING_NODE_ROOT ∧ s.get RING_LULL_STATUS_RESULT ≠ 1 then s.startRound own else s)

/-- The root ends a running round as VOIDED or otherwise: LULL_VOID broadcast with a reason. -/
def State.endRound (s : State) (result reason : Nat) : State :=
  ((s.voidRound reason).put RING_LULL_STATUS_RESULT result).put RING_LULL_STATUS_LAST_REASON reason

/-- R168: `RING_LULL_CTRL.ABORT` at the root. -/
def execLullAbort (s : State) : Host.Outcome State Fault Refusal :=
  .next (if s.flag RING_NODE_ROOT ∧ s.get RING_LULL_STATUS_RESULT = 1 then s.endRound 4 13 else s)

/-- R171: `RING_LULL_CTRL.WAKE` is a local wake source; R172 rules it out in DORMANT. During DORMANT entry it preempts the entry (DESIGN
CHOICE, notes/assumptions/11.md). -/
def execLullWakeCmd (s : State) : Host.Outcome State Fault Refusal :=
  .next (if s.mode = mDORMANT then s else s.wake 5 6)

/-- R176: `RING_LULL_CTRL.CLEAR_LOG` at the root. -/
def execLullClearLog (s : State) : Host.Outcome State Fault Refusal :=
  .next (if s.flag RING_NODE_ROOT then
      s.each (List.range 255) (fun s n =>
        ((s.put (RING_LULL_LOG_COUNT n) 0).put (RING_LULL_LOG_CONSEC n) 0).put (RING_LULL_LOG_LAST_REASON n) 0)
    else s)

/-- R173: nodes that have consented in a round: their `CONSEC` returns to 0. -/
def State.consented (s : State) (nodes : List Nat) : State :=
  let s := nodes.foldl (fun s n => s.put (RING_LULL_LOG_CONSEC n) 0) s
  { s with ring := { s.ring with refusers := s.ring.refusers.filter (fun n => !nodes.contains n) } }

/-- R173: a refusal or a void of a member is logged; at `REFUSE_LIMIT` `LULL_REFUSER` is recorded once. -/
def State.logRefusal (s : State) (node reason : Nat) : State :=
  let s := ((s.incSat (RING_LULL_LOG_COUNT node)).incSat (RING_LULL_LOG_CONSEC node)).put (RING_LULL_LOG_LAST_REASON node) reason
  if s.get (RING_LULL_LOG_CONSEC node) = s.get RING_LULL_CFG_REFUSE_LIMIT ∧ ¬ s.ring.refusers.contains node then
    { s with ring := { s.ring with refusers := node :: s.ring.refusers } }.recordWith 38 [node, reason]
  else s

/-- R141, R244, R170: COMMITTED: the ring ports in LULL, Ethernet ports of a Lull set that holds NET too. -/
def State.committed (s : State) : State :=
  let s := s.put RING_LULL_STATUS_STATE 2
  let s := { s with node := { s.node with wakeLate := false } }
  let s := s.each [0, 1, 2] (fun s p => if s.portState p = 2 then s.setPort p 5 else s)
  if (s.get RING_LULL_SET).testBit dNET then
    s.each (List.range 16) (fun s n => if s.get (NET_PORT_STATUS_STATE n) = 2 then (s.put (NET_PORT_STATUS_STATE n) 7).pendPrivate 8 n else s)
  else s

/-- R168, R170: a token, on ring A, at a member, which consents and forwards it or refuses; at the root a full count sends COMMIT. -/
def execLullTokenFrame (f : RoundAt) (n consents : Nat) (policyConsents wakeAsserted : Bool) (s : State) :
    Host.Outcome State Fault Refusal :=
  .next (
    if s.flag RING_NODE_ROOT then
      if s.get RING_LULL_STATUS_RESULT = 1 ∧ f.round = s.ring.lullRound ∧ s.get RING_LULL_STATUS_STATE = 1
          ∧ consents + 1 = s.get RING_ENUM_STATUS_N then
        let s := s.consented s.otherNodes
        { s with ring := { s.ring with commitSent := true } }.sendOn 0 0 0 (.lullCommit f.round)
      else s
    else if s.get RING_LULL_STATUS_STATE ≠ 0 then s
    else
      let s := { s.put RING_LULL_STATUS_ROUND f.round with ring := { s.ring with lullRound := f.round } }
      let r := s.refusal policyConsents wakeAsserted
      if r ≠ 0 then s.unicast s.rootNode 0 0 (.lullRefuse f.round r) 1
      else (s.put RING_LULL_STATUS_STATE 1).passOn 1 s.rootNode 0 f.hops 0 false (.lullToken f.round n (consents + 1)))

/-- R170: COMMIT of its `ROUND` at a node that has consented and not voided it; at the root the round is COMMITTED. -/
def execLullCommitFrame (f : RoundAt) (s : State) : Host.Outcome State Fault Refusal :=
  .next (
    if s.get RING_LULL_STATUS_STATE ≠ 1 ∨ f.round ≠ s.ring.lullRound ∨ s.ring.lullVoided.contains f.round then s
    else if s.flag RING_NODE_ROOT then
      if s.ring.commitSent then
        ((s.put RING_LULL_STATUS_RESULT 2).inc RING_LULL_ROUNDS_COMMITTED).committed
      else s
    else (s.passOn 1 s.rootNode 0 f.hops 0 false (.lullCommit f.round)).committed)

/-- R168, R173: LULL_REFUSE at the root: logged, and it ends the round that runs. Members before the refusing one have consented. -/
def execLullRefuseFrame (src round reason : Nat) (s : State) : Host.Outcome State Fault Refusal :=
  .next (
    if ¬ s.flag RING_NODE_ROOT then s
    else if s.get RING_LULL_STATUS_RESULT = 1 ∧ round = s.ring.lullRound then
      let before := match s.posOf src with
        | some q => (s.ring.map.take q).drop 1
        | none => []
      let s := ((s.consented before).logRefusal src reason)
      (s.endRound 3 9).put RING_LULL_STATUS_LAST_REASON reason
    else s.logRefusal src reason)

/-- R170, R173: LULL_VOID of the round: IDLE again; logged at the root. -/
def execLullVoidFrame (src round reason : Nat) (s : State) : Host.Outcome State Fault Refusal :=
  .next (
    let back : State := if s.get RING_LULL_STATUS_STATE = 1 ∧ round = s.ring.lullRound then
        s.put RING_LULL_STATUS_STATE 0 else s
    if s.flag RING_NODE_ROOT then
      let s := back.logRefusal src reason
      if s.get RING_LULL_STATUS_RESULT = 1 ∧ round = s.ring.lullRound then
        (s.put RING_LULL_STATUS_RESULT 4).put RING_LULL_STATUS_LAST_REASON reason
      else s
    else back)

/-- R168, R170: `ROUND_MS` has passed: the root voids a round whose token has not returned; a member without COMMIT goes back to
IDLE. -/
def execLullRoundTimeout (s : State) : Host.Outcome State Fault Refusal :=
  .next (
    if s.flag RING_NODE_ROOT then
      (if s.get RING_LULL_STATUS_RESULT = 1 ∧ ¬ s.ring.commitSent then s.endRound 5 10 else s)
    else if s.get RING_LULL_STATUS_STATE = 1 then s.put RING_LULL_STATUS_STATE 0 else s)

/-- The domains of the Lull set that can be switched off: up and not fenced. -/
def State.lullDomains (s : State) : List Nat :=
  (bitList (s.get RING_LULL_SET) 17).filter (fun d => s.isUp d && !s.isFenced d)

/-- R37: the Lull set has drained: accepted work for its domains has been emitted. -/
def State.lullDrained (s : State) : Bool := s.lullDomains.all s.emittedAll

/-- R37, R170: the Lull set has drained and is off: LULL. A wake source that fired meanwhile is followed at once (R39). -/
def execLullSetOff (s : State) : Host.Outcome State Fault Refusal :=
  .next (
    if s.get RING_LULL_STATUS_STATE = 2 ∧ s.lullDrained then
      let ds := s.lullDomains
      let s := s.saveConfig ds
      let s := ds.foldl (fun s d => ((s.stopDomain d).endThreat d).setPhase d .off) s
      let late := s.node.wakeLate
      let s := (s.setMode mLULL).put RING_LULL_STATUS_STATE 3
      let s := { s with node := { s.node with wakeLate := false } }
      if late then (s.put RING_LULL_STATUS_STATE 4).portsWake else s
    else s)

/-- R37, R130, R170: the Lull set is up again, restored from the supervisor's copy: ACTIVE,
or TWIN-STANDBY at a standby half, which a take-over alone makes active (R399). -/
def execLullSetUp (s : State) : Host.Outcome State Fault Refusal :=
  .next (
    if s.get RING_LULL_STATUS_STATE = 4 then
      let ds := s.lullOff
      let s := s.lullBack
      let s := (s.setMode (if s.node.twinRole = .standby then mSTANDBY else mACTIVE)).put RING_LULL_STATUS_STATE 0
      (ds.foldl State.restoreDomain s).epChange []
    else s)

/-- R171: signal detect has been low for 10 µs in LULL (R172: in DORMANT): the port's wake is armed. -/
def execRingWakeArm (port : Fin 3) (s : State) : Host.Outcome State Fault Refusal :=
  .next (if s.mode = mLULL ∨ s.mode = mDORMANT then
      { s.clearLanes port with ring := { s.ring with wakeArmed := setBit s.ring.wakeArmed port } } else s)

/-- R176: the bit and the `FIRST` code of a ring port as a wake source. -/
def portWakeBit (p : Nat) : Nat := if p = 2 then 6 else 1 + p
def portWakeFirst (p : Nat) : Nat := if p = 2 then 7 else 2 + p

/-- R171: a rise of 1 µs on an armed port is a wake source. -/
def execRingActivityWake (port : Fin 3) (s : State) : Host.Outcome State Fault Refusal :=
  .next (if s.ring.wakeArmed.testBit port then s.wake (portWakeBit port) (portWakeFirst port) else s)

/-- R171: a port that has not gone low within 20 ms of entry to LULL. The rule does not apply in DORMANT (R172). -/
def execRingQuietTimer (port : Fin 3) (s : State) : Host.Outcome State Fault Refusal :=
  .next (if s.mode = mLULL ∧ ¬ s.ring.wakeArmed.testBit port then s.wake (portWakeBit port) (portWakeFirst port) else s)

/-- R171, R172: the `RXD` pins of cluster `n` are wake sources: on the way to LULL and in it those of a cluster in the Lull set, on the way to
DORMANT and in it those of every cluster. -/
def State.canWakes (s : State) (n : Nat) : Bool :=
  s.mode == mDORMANT || s.node.modeReq == some mDORMANT
  || ((s.mode == mLULL || s.get RING_LULL_STATUS_STATE == 1 || s.get RING_LULL_STATUS_STATE == 2)
      && (s.get RING_LULL_SET).testBit (dFC n))

/-- R39, R170-R172, R316: a dominant `RXD` that passes the wake filter of its controller. -/
def execAonCanWake (ctrl : Fin 48) (s : State) : Host.Outcome State Fault Refusal :=
  .next (if s.canWakes (ctrl.val / 8) then
      let s := if (s.get AON_WAKE_SRC_SRC).testBit 3 then s else s.put AON_WAKE_SRC_CAN_IDX ctrl.val
      s.wake 3 4
    else s)

end Sys2Proof.Machine
end

