-- ==== Sys2Proof/Machine/Power.lean ====
section
/-! DEFINITION. Self-measurement and the adaptive policies (R458-R472): pace, the adaptive-voltage loop on PMBus, the thermal
policy, and rounds of the Lull that the root starts by itself. -/

namespace Sys2Proof.Machine

open Sys2Proof.Machine.Reg

/-! ### PMBus (R461) -/

/-- PMBus command codes (R461). -/
def pmbClearFaults : Nat := 0x03
def pmbVoutMode : Nat := 0x20
def pmbVoutCommand : Nat := 0x21
def pmbStatusWord : Nat := 0x79
def pmbReadVout : Nat := 0x8B

/-- The Linear16 exponent of a `VOUT_MODE` byte. -/
def vexp (vmode : Nat) : Int := sext 5 vmode

/-- A Linear16 mantissa for `mv` millivolts, to the nearest. -/
def toLinear16 (vmode mv : Nat) : Nat :=
  let e := vexp vmode
  let y := if e < 0 then divRoundAway ((mv : Int) * 2 ^ (-e).toNat) 1000 else divRoundAway mv (1000 * 2 ^ e.toNat)
  y.toNat % 65536

/-- Millivolts, to the nearest, of a Linear16 mantissa. -/
def ofLinear16 (vmode y : Nat) : Nat :=
  let e := vexp vmode
  (if e < 0 then divRoundAway ((y : Int) * 1000) (2 ^ (-e).toNat) else (y : Int) * 1000 * 2 ^ e.toNat).toNat

/-- The first waiting PMBus command goes onto the bus. -/
def State.pmbPut (s : State) : State :=
  match s.pwr.queue with
  | (cmd, mv) :: _ => s.emit (.pmbus cmd (if cmd = pmbVoutCommand then toLinear16 s.pwr.vmode mv else 0))
  | [] => s

/-- A PMBus command is sent when those before it have completed. -/
def State.pmbSend (s : State) (cmd mv : Nat) : State :=
  let free := s.pwr.queue = []
  let s : State := { s with pwr := { s.pwr with queue := s.pwr.queue ++ [(cmd, mv)], tried := if free then false else s.pwr.tried } }
  if free then s.pmbPut else s

/-- R460, R461: a setpoint write: VOUT_COMMAND, readings ignored for `SETTLE_US`, and the count of step 2 restarted. -/
def State.setVcore (s : State) (mv : Nat) : State :=
  let s : State := { s.put PWR_AVS_STATUS_SET_MV mv with pwr := { s.pwr with settling := true, down := 0 } }
  s.pmbSend pmbVoutCommand mv

/-- The state of the loop (R471): 0 BOOT, 1 AUTO, 2 FIXED, 3 HOLD. -/
def State.avsState (s : State) : Nat := s.get PWR_AVS_STATUS_STATE

/-- R461: a PMBus fault puts the loop in HOLD. -/
def State.pmbFault (s : State) : State := ((s.put PWR_AVS_STATUS_STATE 3).raise PWR_ERR_AVS_FAULT).record 625

/-- R461, R462: at the end of a reset the agent reads VOUT_MODE and sets `VMAX_MV`. -/
def State.avsBoot (s : State) : State :=
  let s : State := { s.put PWR_AVS_STATUS_STATE 0 with pwr := {} }
  (s.pmbSend pmbVoutMode 0).setVcore (s.get PWR_AVS_RANGE_VMAX_MV)

/-- R460, R462: the loop starts with the supervisor firmware. -/
def State.avsStart (s : State) : State :=
  if s.flag PWR_POL_CTRL_AVS then s.put PWR_AVS_STATUS_STATE 1
  else (s.put PWR_AVS_STATUS_STATE 2).setVcore (s.get PWR_AVS_FIXED)

/-- R461: what an acknowledged answer `y` to command `cmd` does: `VOUT_MODE` is kept, `READ_VOUT` is shown and held against the
setpoint, and a fault bit of `STATUS_WORD` is a PMBus fault. -/
def State.pmbAnswer (s : State) (cmd y : Nat) : State :=
  if cmd = pmbVoutMode then { s with pwr := { s.pwr with vmode := y % 256 } }
  else if cmd = pmbReadVout then
    let mv := ofLinear16 s.pwr.vmode y
    let set := s.get PWR_AVS_STATUS_SET_MV
    let s := s.put PWR_AVS_STATUS_VOUT_MV (min mv 1023)
    if set + 15 < mv ∨ mv + 15 < set then s.pmbFault else s
  else if cmd = pmbStatusWord then
    (if y.testBit 15 ∨ y.testBit 14 ∨ y.testBit 5 ∨ y.testBit 4 then s.pmbFault else s)
  else s

/-- R461: the command at the front of the bus has ended: the rest of the queue stays. -/
def State.pmbPop (s : State) (rest : List (Nat × Nat)) : State := { s with pwr := { s.pwr with queue := rest, tried := false } }

/-- R461: the answer to the PMBus command on the bus. A NACK is followed by one repetition; a second NACK is a fault. -/
def execPmbusResponse (ack : Bool) (data : BitVec 16) (s : State) : Host.Outcome State Fault Refusal :=
  .next (match s.pwr.queue with
    | [] => s
    | (cmd, _) :: rest =>
      if ¬ ack ∧ ¬ s.pwr.tried then State.pmbPut { s with pwr := { s.pwr with tried := true } }
      else if ack then ((s.pmbPop rest).pmbAnswer cmd data.toNat).pmbPut
      else (s.pmbPop rest).pmbFault.pmbPut)

/-- R461: `PMB_ALERT_N` falls: STATUS_WORD is read, after a command in progress (R469). -/
def execPmbusAlert (s : State) : Host.Outcome State Fault Refusal :=
  .next (if s.node.off ∨ s.avsState = 3 then s else s.pmbSend pmbStatusWord 0)

/-- R460, R461: `SETTLE_US` after a setpoint write: READ_VOUT. -/
def execAvsSettleExpiry (s : State) : Host.Outcome State Fault Refusal :=
  .next (if s.pwr.settling then State.pmbSend { s with pwr := { s.pwr with settling := false } } pmbReadVout 0 else s)

/-- R461: in HOLD READ_VOUT is sent every 10 ms. -/
def execAvsHoldPoll (s : State) : Host.Outcome State Fault Refusal :=
  .next (if s.avsState = 3 ∧ ¬ s.node.off then s.pmbSend pmbReadVout 0 else s)

/-- R461, R471: `PWR_POL_CTRL` written. `AVS` from 0 to 1 leaves HOLD; to 0 it sets `FIXED_MV`, where the loop is not in HOLD or
BOOT. -/
def State.writePolCtrl (s : State) (v : Nat) : State :=
  let was := s.flag PWR_POL_CTRL_AVS
  let s := ((s.put PWR_POL_CTRL_LULL_AUTO (v / 4)).put PWR_POL_CTRL_SERVO (v / 2)).put PWR_POL_CTRL_AVS v
  let now := v.testBit 0
  let st := s.avsState
  if now ∧ ¬ was ∧ st ≠ 0 then
    let s : State := { s.put PWR_AVS_STATUS_STATE 1 with pwr := { s.pwr with down := 0 } }
    let s := if st = 3 then s.pmbSend pmbClearFaults 0 else s
    let lo := s.get PWR_AVS_RANGE_VMIN_MV
    let hi := s.get PWR_AVS_RANGE_VMAX_MV
    let set := s.get PWR_AVS_STATUS_SET_MV
    if set < lo then s.setVcore lo else if hi < set then s.setVcore hi else s
  else if was ∧ ¬ now ∧ st = 1 then
    let s := s.put PWR_AVS_STATUS_STATE 2
    if s.boot.frozen then s else s.setVcore (s.get PWR_AVS_FIXED)
  else s

/-- R461: a write of `PWR_POL_CTRL`. -/
def execAvsEnable (val : Word) (s : State) : Host.Outcome State Fault Refusal := .next (s.writePolCtrl val.toNat)

/-! ### Pace and the loop (R458, R460) -/

/-- R458: a count of monitor `m` scaled by its calibration entry, whole counts. -/
def State.paceScale (s : State) (m count : Nat) : Nat :=
  if s.boot.calBlank then count else count * s.calWord (0x88 + m) / 65536

/-- R458: the counts of the monitors (domain, monitor, count) as `PWR_PACEd` reports them: the lowest of each domain that is up and not
fenced, and 0 elsewhere. -/
def State.measure (s : State) (counts : List (Fin 17 × Fin 64 × BitVec 16)) : State :=
  s.each (List.range 17) fun s d =>
    let l := (counts.filter (fun e => e.1.val == d)).map (fun e => s.paceScale e.2.1.val e.2.2.toNat)
    if ¬ s.isUp d ∨ s.isFenced d ∨ paceFloor d = 0 then s.put (PWR_PACE_PACE d) 0
    else match l.min? with
      | some v => s.put (PWR_PACE_PACE d) (min v 65535)
      | none => s

/-- R460, R463, R486: the margin of domain `d` in percent, as the thermal policy caps it, and 8 points more while the calibration block in use
is BLANK. -/
def State.margin (s : State) (d : Nat) : Nat :=
  let level := s.get PWR_THERM_STATUS_LEVEL
  let m := if 11 ≤ d then s.get PWR_AVS_MARGIN_FIELD_PCT else s.get PWR_AVS_MARGIN_MARGIN_PCT
  (if level = 0 ∨ (level = 1 ∧ d < 11) then m else min m 5) + (if s.boot.calBlank then 8 else 0)

/-- The target of domain `d` times 100: floor × (100 + margin). -/
def State.paceTarget (s : State) (d : Nat) : Nat := paceFloor d * (100 + s.margin d)

/-- R460: the domain with the lowest ratio among those that are up. -/
def State.lowestRatio (s : State) : Option Nat :=
  ((List.range 17).filter (fun d => s.isUp d && !s.isFenced d && paceFloor d != 0)).foldl
    (fun (best : Option Nat) d => match best with
      | none => some d
      | some b => if s.get (PWR_PACE_PACE d) * s.paceTarget b < s.get (PWR_PACE_PACE b) * s.paceTarget d then some d else some b)
    none

/-- R460: the count of step 2 restarts. -/
def State.avsClear (s : State) : State := { s with pwr := { s.pwr with down := 0 } }

/-- R460 step 1: the setpoint goes up by a step, to `VMAX_MV` at most. -/
def State.avsUp (s : State) : State :=
  let set := s.get PWR_AVS_STATUS_SET_MV
  let up := min (set + s.get PWR_AVS_STEP_STEP_MV) (s.get PWR_AVS_RANGE_VMAX_MV)
  if up ≤ set then s.avsClear else s.setVcore up

/-- R460 step 2: after `DOWN_COUNT` evaluations in a row the setpoint goes down by a step, to `VMIN_MV` at least. -/
def State.avsDown (s : State) : State :=
  let n := s.pwr.down + 1
  if n < s.get PWR_AVS_STEP_DOWN_COUNT then { s with pwr := { s.pwr with down := n } }
  else
    let set := s.get PWR_AVS_STATUS_SET_MV
    let dn := max (set - s.get PWR_AVS_STEP_STEP_MV) (s.get PWR_AVS_RANGE_VMIN_MV)
    if set ≤ dn then s.avsClear else s.setVcore dn

/-- R460: the decision for a lowest pace of `p` against a target of `t` hundredths. -/
def State.avsDecide (s : State) (p t : Nat) : State :=
  if s.avsState ≠ 1 ∨ s.pwr.settling ∨ s.boot.frozen then s
  else if p * 100 < t then s.avsUp
  else if t * (100 + s.get PWR_AVS_STEP_HYST_PCT) ≤ p * 10000 then s.avsDown
  else s.avsClear

/-- R460: the domain with the lowest ratio, and its ratio, as `PWR_AVS_RATIO` shows them. -/
def State.showRatio (s : State) (d : Nat) : State :=
  (s.put PWR_AVS_RATIO_DOMAIN d).put PWR_AVS_RATIO_RATIO (min (s.get (PWR_PACE_PACE d) * 100 * 4096 / s.paceTarget d) 65535)

/-- R460: every `PERIOD_US` the loop in AUTO evaluates the pace counts and moves the setpoint by a step. Readings are ignored
for `SETTLE_US` after a setpoint write, and a decision during an activation is discarded (R469). -/
def execAvsEvaluation (counts : List (Fin 17 × Fin 64 × BitVec 16)) (s : State) : Host.Outcome State Fault Refusal :=
  .next (match (s.measure counts).lowestRatio with
    | none => s.measure counts
    | some d => ((s.measure counts).showRatio d).avsDecide ((s.measure counts).get (PWR_PACE_PACE d)) ((s.measure counts).paceTarget d))

/-! ### Thermal (R463) -/

/-- R463: `VIS_ADMIT.LIMIT` written by the policy, where VIS takes writes. -/
def State.setLimit (s : State) (v : Nat) : State := if s.accessible dVIS then s.put VIS_ADMIT_LIMIT v else s

/-- R463: `LIMIT` as level `lv` leaves it at an entry and every 1 s: it rises in NORMAL, falls in WARN and is 0 above. -/
def State.stepLimit (s : State) (lv : Nat) : State :=
  let l := s.get VIS_ADMIT_LIMIT
  let step := s.get PWR_THERM_VIS_VIS_STEP
  if lv = 0 then (if l < 1800 then s.setLimit (min 1800 (l + step)) else s)
  else if lv = 1 then s.setLimit (min l (max (s.get PWR_THERM_VIS_VIS_MIN) (l - step)))
  else s.setLimit 0

/-- R463: the threshold of a level. -/
def State.threshold (s : State) (lv : Nat) : Int :=
  if lv = 1 then s.get PWR_THERM_CFG_T_WARN else if lv = 2 then s.get PWR_THERM_CFG_T_HIGH else 115

/-- R463: the level after a reading of `T_MAX`. -/
def State.thermalLevel (s : State) (t : Int) : Nat :=
  let old := s.get PWR_THERM_STATUS_LEVEL
  let hyst : Int := s.get PWR_THERM_CFG_T_HYST
  if 115 ≤ t then 3
  else if old < 2 ∧ s.threshold 2 ≤ t then 2
  else if old = 0 ∧ s.threshold 1 ≤ t then 1
  else
    let holds (lv : Nat) : Bool := decide (s.threshold lv - hyst < t)
    if old = 3 ∧ holds 3 then 3 else if 2 ≤ old ∧ holds 2 then 2 else if 1 ≤ old ∧ holds 1 then 1 else 0

/-- R463: entry into a level from a lower one, or return to it from a higher one. -/
def State.enterLevel (s : State) (old lv : Nat) : State :=
  let s := s.put PWR_THERM_STATUS_LEVEL lv
  let s := if old = 0 ∨ 2 ≤ lv then (if lv = 0 then s else s.stepLimit lv) else s
  let s := if old < 2 ∧ 2 ≤ lv then (s.emit (.pin 5 0 0)).record 626 else s
  let s := if 2 ≤ old ∧ lv < 2 then s.emit (.pin 5 0 1) else s
  if old < 3 ∧ lv = 3 then s.record 627 else s

/-- R463: the corrected readings of the die sensors, in °C, in the order of the sensors. -/
def execThermalSample (temps : List (BitVec 8)) (s : State) : Host.Outcome State Fault Refusal :=
  .next (match (temps.map (fun t => t.toInt)).max? with
    | none => s
    | some t =>
      if s.node.off then s
      else
        let i := (findIdxFrom (fun (x : BitVec 8) => x.toInt == t) temps 0).getD 0
        let s := (s.put PWR_THERM_STATUS_T_MAX (wrapInt 8 t)).put PWR_THERM_STATUS_SENSOR i
        let old := s.get PWR_THERM_STATUS_LEVEL
        let lv := s.thermalLevel t
        if lv = old then s else s.enterLevel old lv)

/-- R463: every 1 s `LIMIT` steps by the level. -/
def execThermalLimitStep (s : State) : Host.Outcome State Fault Refusal :=
  .next (s.stepLimit (s.get PWR_THERM_STATUS_LEVEL))

/-- R466: `RETRY_S` after the last round a root with `LULL_AUTO` = 1 starts one, where it would consent and nothing forbids it. -/
def execLullAutoStart (own : OwnConsent) (s : State) : Host.Outcome State Fault Refusal :=
  .next (if s.flag RING_NODE_ROOT ∧ s.flag PWR_POL_CTRL_LULL_AUTO ∧ s.get RING_LULL_STATUS_RESULT ≠ 1 ∧ ¬ s.lullBarred
        ∧ s.mode = mACTIVE ∧ s.refusal own.policy own.wake = 0 then s.startRound own
    else s)

end Sys2Proof.Machine
end

