-- ==== Sys2Proof/Machine/BootEnd.lean ====
section
/-! DEFINITION. The ends of a reset, of a firmware start and of an activation, which other blocks of the node act on: the agent at
the end of a reset (R61, R462), the roles and the pins at a start (R37, R56, R228), and event 4 of R77. -/

namespace Sys2Proof.Machine

open Sys2Proof.Machine.Reg

/-- R61, R81, R220, R462, R493: what the end of a reset of kind `k` sets up before the agent acts. -/
def State.setUp (s : State) (k sizeGiB : Nat) : State :=
  let s := State.avsBoot (State.showGroups { s with node := { s.node with resetKind := none } })
  State.readCalibration (State.timeAfterReset (if k = 1 then s else s.trained sizeGiB))

/-- R61, R67: the agent at the end of a reset of kind `k`: TEST_HOLD, the re-check of the active slot, or WAIT_HEADER. The paths are open
during the re-check (DEDUCED, notes/assumptions/9.md). -/
def State.startAgent (s : State) (k : Nat) : State :=
  if s.flag GLB_STRAP_TEST_EN then
    { s.put BOOT_STATUS_LOAD_STATUS 8 with boot := { s.boot with pathsOpen := true } }
  else if k = 1 ∧ s.boot.imageStarted then
    -- R67: the paths are open during the re-check, and blocks are judged against the image in the active slot.
    let h := s.slotHeader (s.get BOOT_STATUS_SLOT)
    { (s.put BOOT_STATUS_LOAD_STATUS 2).put BOOT_STATUS_PATH 0 with boot := { s.boot with
        warmCheck := true, pathsOpen := true, load := { owner := 0, hdr := some h, bitmap := 2 ^ pagesOf h.total - 1 } } }
  else
    let s := { s with boot := { s.boot with pathsOpen := true, warmCheck := false } }
    let s := (s.put BOOT_STATUS_LOAD_STATUS 4).restartSession 0
    if k = 1 then s.put BOOT_STATUS_DETAIL 0x20
    else
      let s := { s with boot := { s.boot with slot0 := {}, slot1 := {} } }
      ((s.put BOOT_STATUS_DETAIL 0).put BOOT_STATUS_SLOT 0).restartSession 1

/-- R61, R462: at the end of a reset the agent enters TEST_HOLD or WAIT_HEADER, or re-checks the active slot. -/
def execLoaderResetEnd (sizeGiB : Nat) (s : State) : Host.Outcome State Fault Refusal :=
  .next (match s.node.resetKind with
    | none => s
    | some k => if s.node.held ∨ s.node.awaitRefs ∨ s.node.off then s else (s.setUp k sizeGiB).startAgent k)

/-- R61, R72: the roles that the start block gives, and the image that has started. -/
def State.takeRoles (s : State) : State :=
  let slot := s.get BOOT_STATUS_SLOT
  let h := (s.boot.load.hdr).getD {}
  let s := { s with
    node := { s.node with
      ringRoot := s.boot.startRing == 1, twinRole := twinRoleOf s.boot.startTwin, ledgerKept := true }
    boot := { s.boot with imageStarted := true, pathsOpen := true } }
  let s := s.setSlotInfo slot { valid := true, ran := true, crc := h.crc, version := h.version }
  let s := ((s.put BOOT_STATUS_LOAD_STATUS 5).put BOOT_IMG_CRC h.crc).put BOOT_IMG_VERSION h.version
  let s := s.put RING_NODE_ROOT (b2n s.node.ringRoot)
  (s.fixTimeSource).setRole s.node.twinRole

/-- R37, R56: entry to ACTIVE, or to TWIN-STANDBY at a standby half; an active half takes the pins. -/
def State.enterRole (s : State) : State :=
  let s := s.setMode (if s.node.twinRole = .standby then mSTANDBY else mACTIVE)
  s.takePulse

/-- R79: a result that the node still owes the root goes out. -/
def State.payReport (s : State) : State :=
  match s.boot.owedReport with
  | some (q, c) =>
    { s with boot := { s.boot with owedReport := none } }.unicast s.rootNode 0 0 (.actReport q s.nodeId c) s.boot.actPort
  | none => s

/-- R61, R37, R56, R124, R228, R462: all nine processors are ready: the roles are fixed, the node enters ACTIVE or TWIN-STANDBY, broadcasts
RESYNC and its full endpoint state, and sends a result that it still owes the root. -/
def execProcessorsReady (s : State) : Host.Outcome State Fault Refusal :=
  .next (if s.get BOOT_STATUS_LOAD_STATUS = 4 ∧ s.mode = mLOADING then
      let kept := s.node.ledgerKept
      let s := s.takeRoles.enterRole
      let s := (s.broadcast (.resync (if kept then 1 else 2))).sendFullState
      let s := (if s.node.twinRole = .single then s.singlePins else s).avsStart
      s.payReport
    else s)

/-- R76, R77: the root at its own event 4: disarmed, with its own `ACT_DONE` counted where its round is the last. -/
def State.rootDone (s : State) : State :=
  let q := s.boot.armed.map (fun a => a.seq)
  let s := s.unarm
  if q = some s.boot.actSeq then s.actReported s.nodeId 1 else s

/-- R77 event 4: all nine are ready: the policies resume, ACT_REPORT `ACT_DONE` is sent and `ARMED` = 0. A `TAKE` that waited is
acted on (R409). -/
def execActAllReady (s : State) : Host.Outcome State Fault Refusal :=
  .next (if s.boot.actEvent = 3 then
      let s := { s with boot := { s.boot with actEvent := 0, frozen := false } }
      let slot := s.get BOOT_STATUS_SLOT
      let s := s.setSlotInfo slot { s.slotInfo slot with ran := true }
      let s := if s.twin.takeWaits then s.startTake else s
      if s.flag RING_NODE_ROOT then s.rootDone else s.disarm 1
    else s)

end Sys2Proof.Machine
end

