-- ==== Sys2Proof/Machine/Ints.lean ====
section
/-! DEFINITION. The interrupt banks (R413-R424): inputs, offered levels, acceptance, completion, pending and mask bits, and the
routes of the shared sources. -/

namespace Sys2Proof.Machine

open Sys2Proof.Machine.Reg

/-! ### Inputs (R413-R415, R438) -/

/-- Some bit of the register at an offset is set, its fields resetting to 0. -/
def State.anySet (s : State) (off : Nat) : Bool := s.regs.any (fun e => e.1 / 32 == off && e.2 != 0)

/-- The present input of a private source (R414). -/
def State.privInput (s : State) (b n : Nat) : Bool :=
  if 1 ≤ b ∧ b ≤ 6 then
    let fc := b - 1
    if n < 64 then (s.get (FC_DIO_EDGE fc (n / 32))).testBit (n % 32)
    else if n < 96 then (s.get (FC_PIO_IRQ_EVT fc ((n - 64) / 8))).testBit (n % 8)
    else if n < 128 then (s.get (FC_PIO_IRQ_FAULT fc ((n - 96) / 8))).testBit (n % 8)
    else if n < 192 then
      let c := (n - 128) / 8
      if n % 8 = 7 then (List.range 4).any (fun m => s.get (FC_CAN_RXNEW fc c m) != 0)
      else (SMap.find s.regs ((FC_CAN_FLAGS_DUP_ID fc c).off * 32 + n % 8)).isSome
    else if n < 224 then s.anySet (FC_PORT_FLAGS_KEPT fc (n - 192)).off
    else if n = 224 then s.anySet (FC_ERR_CFG_REJECT fc).off
    else false
  else if b = 7 ∧ n = 64 then s.anySet VIS_PIPE_ERR_CFG_REJECT.off
  else false

/-- The present input of a shared source (R438). The others are pulses or have none. -/
def State.sharedInput (s : State) (n : Nat) : Bool :=
  if n = 640 then s.anySet 0x60038
  else if n = 641 then s.get TIME_STATUS_LOCK == 3
  else if n = 642 then s.anySet 0x80014
  else if n = 643 then s.flag RING_NODE_HELD_OUT
  else if 644 ≤ n ∧ n ≤ 646 then s.portState (n - 644) != 2
  else if n = 647 then s.get RING_PROT_STATUS_BREAKS != 0
  else if n = 648 then s.anySet 0xB0002C
  else if n = 649 then s.get TWIN_STATUS_STATE == 3
  else if n = 650 then s.flag BOOT_CAL_STATE_ERR
  else if n = 651 then s.flag BOOT_BAR2_QUEUE_OVERRUN
  else if n = 652 then s.anySet 0xA00004
  else if 656 ≤ n ∧ n ≤ 671 then s.flag (DIKE_CH_CFG_EN (n - 656)) && !s.flag (DIKE_CH_STATUS_PG (n - 656))
  else if 672 ≤ n ∧ n ≤ 688 then s.isThreat (n - 672)
  else false

/-- R414: the private sources that exist, as the bits of word `w` of bank `b`. -/
def privWord (b w : Nat) : Nat :=
  if b = 0 then (if w = 0 then 0x1FFFF else 0)
  else if b ≤ 6 then (if w ≤ 6 then 0xFFFFFFFF else if w = 7 then 1 else 0)
  else if b = 7 then (if w ≤ 1 then 0x07070707 else if w = 2 then 1 else 0)
  else if w = 0 then 0xFFFFFFFF else if w = 1 then 0xF else 0

/-- R415, R437, R438: the shared sources that exist, as the bits of word `w`. -/
def sharedWord (w : Nat) : Nat :=
  ((List.range 32).filter (fun i =>
    let n := 32 * w + i
    (n < 640 && srcListed n) || (640 ≤ n && n ≤ 652) || (656 ≤ n && n ≤ 688) || 768 ≤ n)).foldl setBit 0

/-- R413: the shared level sources whose input is high are pending. -/
def State.latchLevels (s : State) : State :=
  if s.accessible dSV then
    (((List.range 49).map (fun i => 640 + i)).filter s.sharedInput).foldl State.pendShared s
  else s

/-- The word of present inputs of bank `b`, or of the shared sources. -/
def State.inputWord (s : State) (bank : Option Nat) (w : Nat) : Nat :=
  ((List.range 32).filter (fun i => match bank with
    | some b => s.privInput b (32 * w + i)
    | none => s.sharedInput (32 * w + i))).foldl setBit 0

/-! ### Levels (R416) -/

/-- Bank `b` beyond its registers. -/
def State.bank (s : State) (b : Nat) : IntBank := SMap.getD s.ints b {}

/-- Bank `b` beyond its registers, replaced. -/
def State.setBank (s : State) (b : Nat) (x : IntBank) : State := { s with ints := SMap.insert s.ints b x }

/-- The priority of a private source. -/
def State.privPrio (s : State) (b n : Nat) : Nat :=
  s.get { INT_P_PRIO_PRIO0 b (n / 8) with lo := 4 * (n % 8) }

/-- The priority of a shared source. -/
def State.sharedPrio (s : State) (n : Nat) : Nat := s.get { INT_SH_PRIO_PRIO0 (n / 8) with lo := 4 * (n % 8) }

/-- The unmasked pending private sources of bank `b`. -/
def State.privPending (s : State) (b : Nat) : List Nat :=
  (List.range 8).flatMap (fun w =>
    (bitList (clearBits (s.get (INT_P_PEND_SET b w)) (s.get (INT_P_MASK_SET b w))) 32).map (fun i => 32 * w + i))

/-- The unmasked pending shared sources routed to target `t`. -/
def State.sharedPending (s : State) (t : Nat) : List Nat :=
  ((List.range 32).flatMap (fun w =>
    (bitList (clearBits (s.get (INT_SH_PEND_SET w)) (s.get (INT_SH_MASK_SET w))) 32).map (fun i => 32 * w + i))).filter
    (fun n => s.get (INT_SH_ROUTE_TARGET n) == t)

/-- The sources that bank `b` serves now, as level and number (1,024 and above: private). -/
def State.served (s : State) (b : Nat) : List (Nat × Nat) :=
  (s.privPending b).map (fun n => (s.privPrio b n, 1024 + n)) ++ (s.sharedPending b).map (fun n => (s.sharedPrio n, n))

/-- R423: `PENDLVL`: the levels of the sources served. -/
def State.pendLevels (s : State) (b : Nat) : Nat := clearBit (((s.served b).map (fun e => e.1)).foldl setBit 0) 0

/-- R423: `SH_SUM`. -/
def State.shSum (s : State) (b : Nat) : Nat := ((s.sharedPending b).map (fun n => n / 32)).foldl setBit 0

/-- The highest level in a set of levels, or 0. -/
def topLevel (set : Nat) : Nat := (bitList set 8).foldl max 0

/-- R416: the level that bank `b` offers, or 0. -/
def State.offered (s : State) (b : Nat) : Nat :=
  let l := topLevel (s.pendLevels b)
  if s.get (INT_P_STATE_RUNLVL b) < l then l else 0

/-- `INSVC`, with `RUNLVL` its highest level. -/
def State.setInsvc (s : State) (b v : Nat) : State :=
  (s.put (INT_P_STATE_INSVC b) v).put (INT_P_STATE_RUNLVL b) (topLevel v)

/-- The processor of bank `b` runs: its domain is up and not fenced, and no activation has stopped it. -/
def State.bankRuns (s : State) (b : Nat) : Bool :=
  s.accessible (bankDomain b) && s.boot.actEvent != 1 && (s.boot.actEvent != 2 || b == 0)

/-- R416: the processor of bank `b` accepts the level offered. -/
def State.intAccept (s : State) (b : Nat) : State :=
  let l := s.offered b
  if l = 0 then s
  else
    let x := s.bank b
    let new := ((s.served b).filter (fun e => e.1 == l)).map (fun e => ({ level := l, src := e.2 } : Claim))
    let s := s.setBank b { x with claims := x.claims ++ new, entry := true, exit := false }
    (s.setInsvc b (setBit (s.get (INT_P_STATE_INSVC b)) l)).inc (INT_P_CNT_CLAIM b)

/-- R416: at an instruction boundary, the global interrupt enable being on, the processor accepts the level offered. During an entry
the next acceptance waits for its end (R419). -/
def execIntAccept (b : Fin 9) (s : State) : Host.Outcome State Fault Refusal :=
  .next (if s.bankRuns b ∧ ¬ (s.bank b).entry then s.intAccept b else s)

/-- R419: the entry sequence ends, and a higher level offered meanwhile is accepted before the handler's first instruction. -/
def execIntEntryDone (b : Fin 9) (s : State) : Host.Outcome State Fault Refusal :=
  .next (if s.bankRuns b ∧ (s.bank b).entry then
      (s.setBank b { s.bank b with entry := false }).intAccept b
    else s)

/-- R419: the exit sequence ends, or is abandoned for a level offered meanwhile. -/
def execIntExitDone (b : Fin 9) (s : State) : Host.Outcome State Fault Refusal :=
  .next (if s.bankRuns b ∧ (s.bank b).exit then
      (s.setBank b { s.bank b with exit := false }).intAccept b
    else s)

/-- R417: the pending bit of a level source takes the present value of its input. -/
def State.resample (s : State) (b : Nat) (src : Nat) : State :=
  if src < 1024 then
    let f := INT_SH_PEND_SET (src / 32)
    if s.sharedInput src then s.orBits f (1 <<< (src % 32)) else s.dropBits f (1 <<< (src % 32))
  else
    let n := src - 1024
    let f := INT_P_PEND_SET b (n / 32)
    if s.privInput b n then s.orBits f (1 <<< (n % 32)) else s.dropBits f (1 <<< (n % 32))

/-- The level sources of priority `l` that bank `b` serves at this moment. -/
def State.levelSources (s : State) (b l : Nat) : List Nat :=
  ((List.range 256).filter (fun n => (intKind b (n / 32)).testBit (n % 32) && s.privPrio b n == l)).map (fun n => 1024 + n)
  ++ (List.range 1024).filter (fun n => (intShKind (n / 32)).testBit (n % 32) && s.sharedPrio n == l
      && s.get (INT_SH_ROUTE_TARGET n) == b)

/-- R417, R418: a claimed level source counts as spurious: its input was low when the processor first read its pending word, which
`low` says, and is low now. -/
def State.spurious (s : State) (b : Nat) (low : List Nat) (c : Claim) : Bool :=
  low.contains c.src && (if c.src < 1024 then (intShKind (c.src / 32)).testBit (c.src % 32) && !s.sharedInput c.src
    else (intKind b ((c.src - 1024) / 32)).testBit ((c.src - 1024) % 32) && !s.privInput b (c.src - 1024))

/-- R417: `COMPLETE` of bank `b` written with level `l`. -/
def State.intComplete (s : State) (req : Requester) (b l : Nat) (low : List Nat) : State :=
  let own : Bool := if b = 0 then req == .supervisor else req == .proc b
  if ¬ own ∨ l = 0 ∨ ¬ (s.get (INT_P_STATE_INSVC b)).testBit l then s.put (INT_P_ERR_BAD_COMPLETE b) 1
  else
    let s := s.setInsvc b (clearBit (s.get (INT_P_STATE_INSVC b)) l)
    let s := (s.levelSources b l).foldl (fun s src => s.resample b src) s
    let x := s.bank b
    let n := (x.claims.filter (fun c => c.level == l && s.spurious b low c)).length
    (s.setBank b { claims := x.claims.filter (fun c => c.level != l), entry := false, exit := true }).addTo
      (INT_P_CNT_SPURIOUS b) n

/-- R417: a write of `INT_Pb_COMPLETE`. `low` names the claimed sources (private ones from 1,024) whose input was low when the
processor first read their pending word. -/
def execIntComplete (req : Requester) (b : Fin 9) (val : Word) (low : List Nat) (s : State) : Host.Outcome State Fault Refusal :=
  .next (if s.accessible (bankDomain b) then s.intComplete req b (val.toNat % 8) low else s)

/-! ### Pending, mask and route registers (R413, R416, R420) -/

/-- The domain of a bank, or of the shared sources (R502). -/
def intDomain (bank : Option Nat) : Nat := match bank with
  | some b => bankDomain b
  | none => dSV

/-- R413: a write of a `PEND_SET` register. Sources that do not exist stay 0. -/
def State.pendSet (s : State) (bank : Option Nat) (w v : Nat) : State :=
  match bank with
  | some b => s.orBits (INT_P_PEND_SET b w) (v &&& privWord b w)
  | none => s.each (bitList (v &&& sharedWord w) 32) (fun s i => s.pendShared (32 * w + i))

/-- R413: a write of a `PEND_CLR` register: a level source is cleared only while its input is low. -/
def State.pendClr (s : State) (bank : Option Nat) (w v : Nat) : State :=
  let kind := match bank with
    | some b => intKind b w
    | none => intShKind w
  let stay := kind &&& s.inputWord bank w
  s.dropBits (match bank with
    | some b => INT_P_PEND_SET b w
    | none => INT_SH_PEND_SET w) (clearBits v stay)

/-- R416: a write of a `MASK_SET` register. -/
def State.maskSet (s : State) (bank : Option Nat) (w v : Nat) : State :=
  s.orBits (match bank with
    | some b => INT_P_MASK_SET b w
    | none => INT_SH_MASK_SET w) v

/-- R416, R420: a write of a `MASK_CLR` register: a pending source routed to the host sends its vector as it is unmasked. -/
def State.maskClr (s : State) (bank : Option Nat) (w v : Nat) : State :=
  match bank with
  | some b => s.dropBits (INT_P_MASK_SET b w) v
  | none =>
    let due := v &&& s.get (INT_SH_MASK_SET w) &&& s.get (INT_SH_PEND_SET w)
    let s := s.dropBits (INT_SH_MASK_SET w) v
    s.each ((bitList due 32).filter (fun i => s.get (INT_SH_ROUTE_TARGET (32 * w + i)) == 9))
      (fun s i => s.msix (s.get (INT_SH_ROUTE_VECTOR (32 * w + i))))

/-- R420, R496: a write of `INT_SH_ROUTEs`: a change only while the source is masked. -/
def State.writeRoute (s : State) (n v : Nat) : State :=
  let same : Bool := v % 16 == s.get (INT_SH_ROUTE_TARGET n) && v / 256 % 256 == s.get (INT_SH_ROUTE_VECTOR n)
  if 9 < v % 16 ∨ ¬ (same ∨ (s.get (INT_SH_MASK_SET (n / 32))).testBit (n % 32)) then s.put INT_SH_ERR 1
  else (s.put (INT_SH_ROUTE_TARGET n) v).put (INT_SH_ROUTE_VECTOR n) (v / 256)

/-- The bank that a command names (0-8), or none for the shared sources (9). -/
def bankOf (bank : Fin 10) : Option Nat := if bank.val = 9 then none else some bank.val

/-- A command on a bank or on the shared sources, where their domain takes it, with a word that exists. -/
def State.onBank (s : State) (bank : Fin 10) (w : Fin 32) (f : Option Nat → State) : State :=
  if s.accessible (intDomain (bankOf bank)) ∧ (bank.val = 9 ∨ w.val < 8) then f (bankOf bank) else s

/-- R413: a write of a `PEND_SET` register. -/
def execIntPendSet (bank : Fin 10) (w : Fin 32) (val : Word) (s : State) : Host.Outcome State Fault Refusal :=
  .next (s.onBank bank w fun b => s.pendSet b w val.toNat)

/-- R413: a write of a `PEND_CLR` register. -/
def execIntPendClr (bank : Fin 10) (w : Fin 32) (val : Word) (s : State) : Host.Outcome State Fault Refusal :=
  .next (s.onBank bank w fun b => s.pendClr b w val.toNat)

/-- R416: a write of a `MASK_SET` register. -/
def execIntMaskSet (bank : Fin 10) (w : Fin 32) (val : Word) (s : State) : Host.Outcome State Fault Refusal :=
  .next (s.onBank bank w fun b => s.maskSet b w val.toNat)

/-- R420: a write of a `MASK_CLR` register. -/
def execIntMaskClr (bank : Fin 10) (w : Fin 32) (val : Word) (s : State) : Host.Outcome State Fault Refusal :=
  .next (s.onBank bank w fun b => s.maskClr b w val.toNat)

/-- R420: a write of `INT_SH_ROUTEs`. -/
def execIntRouteWrite (n : Fin 1024) (val : Word) (s : State) : Host.Outcome State Fault Refusal :=
  .next (if s.accessible dSV then s.writeRoute n val.toNat else s)

end Sys2Proof.Machine
end

