-- ==== Sys2Proof/Machine/Units.lean ====
section
/-! DEFINITION. What concerns the units of every endpoint: `SEND` and `RX_POST` items (R93, R97), down ports (R135), islands (R24),
pace threats (R28, R29, R459), and the fault hub's commands (R425-R435). -/

namespace Sys2Proof.Machine

open Sys2Proof.Machine.Reg

/-! ### Items for endpoints (R93, R97) -/

/-- R93, R97: the unit of endpoint `ep` takes its next `SEND`, at once or at its ring time. -/
def State.startSend (s : State) (ep : Nat) : State :=
  match unitOf ep with
  | .eth n => s.ethStart n
  | .port n q => s.portStart n q
  | .line n p => s.lineEntry n p
  | .can n c => if s.isUp (dFC n) ∧ s.canState n c ≠ 0 then s.canLoad n c else s
  | .vision v => if v < 8 then s.settingsSet v else s
  | _ => s

/-- R97: a `SEND` item at an endpoint. -/
def execSend (ep : BitVec 12) (s : State) : Host.Outcome State Fault Refusal := .next (s.startSend ep.toNat)

/-- R97: ring time reaches the `PARAM` of the `SEND` at the head of an endpoint's queue. -/
def execSendTimeReached (ep : BitVec 12) (s : State) : Host.Outcome State Fault Refusal :=
  .next (if (s.sendReady ep.toNat).isSome then s.startSend ep.toNat else s)

/-- R93: frames that wait at an endpoint meet its loans. -/
def State.deliver (s : State) (ep : Nat) : State :=
  match unitOf ep with
  | .eth n => s.ethDeliver n
  | .port n q => s.portDeliver n q
  | .line n p => s.lineDeliver n p
  | .can n c => s.canDeliver n c
  | _ => s

/-- R93: an `RX_POST` item lends its buffer to its endpoint. -/
def execRxPost (src sq wsn : Nat) (s : State) : Host.Outcome State Fault Refusal :=
  .next (match s.work? src sq wsn with
    | some w => if w.opcode = 0x50 ∧ ¬ w.taken ∧ s.inOrder w then (s.takeWork w).deliver w.ep else s
    | none => s)

/-! ### Down ports (R135) -/

/-- The key under which a ring or twin port's stability period is held. -/
def ringFlap (p : Nat) : Nat := 4096 + p

/-- R135 events 1 and 4: a port goes down: a ring or twin port (0-2), or that of a local endpoint. -/
def execPortDown (port : Nat) (s : State) : Host.Outcome State Fault Refusal :=
  .next (if port ≤ 2 then (if s.portState port = 2 then s.portLoss port 0 (laneBits port) else s.setFlap (ringFlap port) none)
    else match unitOf port with
      | .eth n => if s.isUp dNET then s.ethLinkLost n else s
      | .reserved | .node => s
      | _ => s.epLinkLost port)

/-- R135 events 2 and 6: the link of a down port returns. -/
def execLinkReturn (port : Nat) (s : State) : Host.Outcome State Fault Refusal :=
  .next (if port ≤ 2 then
      (if s.portState port = 3 then (s.showLanes port).setFlap (ringFlap port) (some .holdStable)
       else if s.portState port = 4 then (s.showLanes port).setFlap (ringFlap port) (some .redirectStable) else s)
    else s.epLinkReturn port)

/-- R135 events 3 and 6: the link has been up for 2 ms: held frames go out in order, and the port is UP. -/
def execLinkStableExpiry (port : Nat) (s : State) : Host.Outcome State Fault Refusal :=
  .next (if port ≤ 2 then
      (if (SMap.find s.dlv.flaps (ringFlap port)).isSome ∧ (s.portState port = 3 ∨ s.portState port = 4) then
         (s.setFlap (ringFlap port) none).portUp port
       else s)
    else if s.linked port then s.epLinkStable port else s)

/-- R135 event 5: a unit gives up what it held of items that have returned to their source. -/
def State.purge (s : State) (ep : Nat) : State :=
  match unitOf ep with
  | .can n c => (s.can n c).objs.foldl (fun s e => if (s.workAt e.2.key).isNone then s.updObj n c e.1 none else s) s
  | .port n q =>
    let x := s.portSt n q
    (s.setPortSt n q (x.without (fun k => x.unbegun.contains k && (s.workAt k).isNone))).showPort n q
  | .line n p =>
    let x := s.line n p
    s.setLine n p { x with queue := x.queue.filter (fun e => (s.workAt e.1).isSome) }
  | _ => s

/-- R135 event 5: `HOLD_TIME` passes with the link not up. -/
def execHoldTimeExpiry (port : Nat) (s : State) : Host.Outcome State Fault Refusal :=
  .next (if port ≤ 2 then
      (if s.portState port = 3 ∧ (SMap.find s.dlv.flaps (ringFlap port)).isNone then
         let s := s.setPort port 4
         if port ≤ 1 ∧ s.portState (1 - port) = 2 then s.redirectQueued port else s
       else s)
    else ((s.dlv.work.filter (fun w => flapKey w.ep == port)).map (fun w => w.ep)).eraseDups.foldl State.purge
      (s.epHoldExpiry port))

/-! ### Pace (R28, R29, R459) -/

/-- R28: what the start or the end of a threat of domain `d` changes at once: PAUSE, and the forced watermarks of the field
FIFOs. -/
def State.showThreat (s : State) (d : Nat) : State := s.pauseAll.showForced d

/-- R28, R459: the pace of domain `d` has stayed below floor × 1.05 for 10 µs with the setpoint at its ceiling. -/
def execPaceThreat (d : Fin 17) (pace : BitVec 16) (s : State) : Host.Outcome State Fault Refusal :=
  .next ((s.paceThreat d.val pace.toNat).showThreat d.val)

/-- R29: the pace of domain `d` has stayed at or above floor × (1 + margin) for 100 µs: flow control is released. -/
def execFlowControlRelease (d : Fin 17) (s : State) : Host.Outcome State Fault Refusal :=
  .next (if s.isThreat d.val then
      let s := (s.releaseThreat d.val).showThreat d.val
      s.each (List.range 48) (fun s i => s.canDeliver (i / 8) (i % 8))
    else s)

/-! ### Islands (R24) -/

/-- The frame that a controller attempts is torn: its item waits for its resend and leaves its object. -/
def State.canTear (s : State) (n c : Nat) : State :=
  match s.canAttempt n c [] with
  | none => s
  | some j =>
    match SMap.find (s.can n c).objs j with
    | none => s
    | some o =>
      let s := match s.workAt o.key with
        | some w => s.tearWork w
        | none => s
      (s.setCan n c { s.can n c with objs := SMap.erase (s.can n c).objs j }).setTxPend n c j false

/-- R24: island `island` finds its crossing FIFO empty in mid-frame, at port `engine` of a QSGMII link or at engine `engine` of a PIO
group. The frame counts as torn. -/
def execIslUnderrun (island : Fin 81) (engine : Fin 8) (s : State) : Host.Outcome State Fault Refusal :=
  .next (
    let i := island.val
    if 57 ≤ i then s.pioUnderflow ((i - 57) / 4) ((i - 57) % 4) engine
    else if 9 ≤ i then
      let n := (i - 9) / 8
      let c := (i - 9) % 8
      let stop := s.stops (128 + i)
      let s := (s.canTear n c).emit (.tornFrame i)
      (if stop then (s.record (128 + i)).canOff n c else s.record (128 + i))
    else
      let s := if 3 ≤ i ∧ i ≤ 6 then s.ethTear (4 * (i - 3) + engine.val % 4) else s
      s.islandUnderrun i)

/-! ### The fault hub (R425-R435) -/

/-- R431: STOP of the unit of a source, after its entry. -/
def State.stopUnit (s : State) (src : Nat) (info : List Nat) : State :=
  let i := info.headD 0
  if src = 16 then s.sqError i 0x0E
  else if src = 17 then s.sqError i 0x0F
  else if src = 18 then s.stopCq i
  else if 96 ≤ src ∧ src ≤ 127 then s.ethDisable ((src - 96) % 16)
  else if 137 ≤ src ∧ src ≤ 184 then s.canOff ((src - 137) / 8) ((src - 137) % 8)
  else if 185 ≤ src ∧ src ≤ 208 then (s.haltGroup ((src - 185) / 4) ((src - 185) % 4) 2).payFails
  else if 224 ≤ src ∧ src ≤ 271 then (s.haltGroup ((src - 224) % 24 / 4) ((src - 224) % 4) 2).payFails
  else if 272 ≤ src ∧ src ≤ 511 then s.canOff ((src - 272) % 48 / 8) ((src - 272) % 8)
  else if 520 ≤ src ∧ src ≤ 551 then s.stopCam ((src - 520) % 8)
  else s

/-- R179, R184, R294, R300, R493: the counters and flags that a source's unit keeps beside the entry. For an uncorrectable
data error of the Polder the second `INFO` word names the frame. -/
def State.sourceEffect (s : State) (src : Nat) (info : List Nat) : State :=
  if 64 ≤ src ∧ src ≤ 71 then s.inc PLD_CNT_ECC_C
  else if 72 ≤ src ∧ src ≤ 79 then s.frameEccU (info.getD 1 0)
  else if 224 ≤ src ∧ src ≤ 247 then s.raise (FC_PIO_ERR_PIN_CLASH ((src - 224) / 4) ((src - 224) % 4))
  else if 320 ≤ src ∧ src ≤ 367 then s.canOff ((src - 320) / 8) ((src - 320) % 8)
  else if src = 628 ∨ src = 629 then s.inc MEM_CNT_ECC_C
  else if src = 630 ∨ src = 631 then s.inc MEM_CNT_ECC_U
  else s

/-- R425, R431: an error source fires; `info` are its details, or none where its chapter names none (R426). -/
def execFaultRecord (src : Fin 640) (info : List Word) (s : State) : Host.Outcome State Fault Refusal :=
  .next (
    let ws := info.map (fun w => w.toNat)
    let ws := if ws = [] then [src.val - srcBase src] else ws.take 4
    let stop := s.stops src
    let s := if srcListed src then s.sourceEffect src ws else s
    let s := s.recordWith src ws
    if stop then s.stopUnit src ws else s)

/-- R428: `FLT_ACK_C` written. -/
def execFltAckC (val : Word) (s : State) : Host.Outcome State Fault Refusal := .next (s.acknowledge 0 val.toNat)

/-- R428: `FLT_ACK_U` written. -/
def execFltAckU (val : Word) (s : State) : Host.Outcome State Fault Refusal := .next (s.acknowledge 1 val.toNat)

/-- R428: `FLT_ACK_F` written. -/
def execFltAckF (val : Word) (s : State) : Host.Outcome State Fault Refusal := .next (s.acknowledge 2 val.toNat)

/-- R430, R437: `FLT_SRCs` written: only a stricter action takes effect. A source that is not listed ignores it. -/
def State.writeAction (s : State) (n v : Nat) : State :=
  let a := v / 2 ^ (FLT_SRC_ACTION n).lo % 2 ^ (FLT_SRC_ACTION n).w
  if ¬ srcListed n then s
  else if a ≤ 2 ∧ s.get (FLT_SRC_ACTION n) < a then s.put (FLT_SRC_ACTION n) a
  else s.put FLT_ERR 1

/-- R430: a write of `FLT_SRCs`. -/
def execFltActionWrite (n : Fin 640) (val : Word) (s : State) : Host.Outcome State Fault Refusal :=
  .next (s.writeAction n val.toNat)

/-- R435: the pulse on `FAULT_N` ends, and the pin follows `DRIVE`: low, or released. -/
def execFaultNPulseEnd (s : State) : Host.Outcome State Fault Refusal :=
  .next (if s.flag FLT_FAULTN_PULSE then
      (s.put FLT_FAULTN_PULSE 0).emit (.pin 9 0 (if s.flag FLT_FAULTN_DRIVE then 0 else 2))
    else s)

end Sys2Proof.Machine
end

