-- ==== Sys2Proof/Machine/Bus.lean ====
section
/-! DEFINITION. Register writes (R6-R11, R492, R496): the access codes, and what a write does in the blocks that AON, SV and HIF
hold: GLB, BOOT, HQ, INT, FLT, PWR, Dike, TIME, RING and TWIN.  Each takes the requester, the offset and the value. -/

namespace Sys2Proof.Machine

open Sys2Proof.Machine.Reg

/-! ### Access codes (R7, R496) -/

/-- The state that a meaning goes on with. -/
def nextOf (o : Host.Outcome State Fault Refusal) (s : State) : State :=
  match o with
  | .next t => t
  | _ => s

/-- The fields of the register at `off`: none where no table defines it (R8). -/
def fieldsAt (off : Nat) : List (Field × Acc) :=
  match regAt off with
  | some (_, fs) => fs
  | none => []

/-- R7: one field written with its part of a register value. -/
def State.writeField (s : State) (f : Field) (a : Acc) (v : Nat) : State :=
  match a with
  | .rw => s.put f (bitsOf v f.lo f.w)
  | .w1c => s.dropBits f (bitsOf v f.lo f.w)
  | .w1s => s.orBits f (bitsOf v f.lo f.w)
  | .ro => s
  | .wo => s

/-- R7: the fields of a register written by their access codes. -/
def State.plain (s : State) (off v : Nat) : State := (fieldsAt off).foldl (fun s e => s.writeField e.1 e.2 v) s

/-- R496: a write of `v` would change an RW field of the register. -/
def State.moves (s : State) (off v : Nat) : Bool :=
  (fieldsAt off).any (fun e => e.2 == .rw && s.get e.1 != bitsOf v e.1.lo e.1.w)

/-- R496: a write is refused where its value is bad, and where it would change a register whose state does not allow it; the
reject flag is set. -/
def State.writeIf (s : State) (off v : Nat) (value state : Bool) (rej : Field) : State :=
  if !value || (!state && s.moves off v) then s.raise rej else s.plain off v

/-- The value of a field in a register value. -/
def fieldOf (f : Field) (v : Nat) : Nat := bitsOf v f.lo f.w

/-- R11: a pair written whole: low half at `off` - 4. -/
def State.plainPair (s : State) (off v : Nat) : State := (s.plain (off - 4) (v % 2 ^ 32)).plain off (v / 2 ^ 32)

/-- R11, R496: a pair written, refused where the state does not allow a change. -/
def State.pairIf (s : State) (off v : Nat) (state : Bool) (rej : Field) : State :=
  if !state && (s.moves (off - 4) (v % 2 ^ 32) || s.moves off (v / 2 ^ 32)) then s.raise rej else s.plainPair off v

/-- What lies outside the block at a register write is a free value (notes/assumptions/43.md): a word. -/
def State.freeWord (s : State) (i : Nat) : Word := BitVec.ofNat 32 (Config.freeValue (s.fresh + i))

/-! ### GLB (R32, R36, R55, R60) -/

/-- A single register of GLB written. -/
def State.writeGlb (s : State) (req : Requester) (off v : Nat) : State :=
  if off = 0x8 then
    let t := v % 16
    if t = mACTIVE then nextOf (execModeReqActive s) s
    else if t = mSERVICE then nextOf (execModeReqService s) s
    else if t = mDORMANT then nextOf (execModeReqDormant s) s
    else nextOf (execModeReqNotAllowed (BitVec.ofNat 4 t) s) s
  else if off = 0x10 then nextOf (execGlbPdOnSet req (BitVec.ofNat 32 v) s) s
  else if off = 0x14 then nextOf (execGlbPdOnClr req (BitVec.ofNat 32 v) s) s
  else if off = 0x30 then
    if fieldOf GLB_RESET_KEY v ≠ 0xD1CE then s.record 4
    else if fieldOf GLB_RESET_KIND v = 1 then s.narrowReset 1 (resetSource req)
    else if fieldOf GLB_RESET_KIND v = 2 then s.narrowReset 2 (resetSource req)
    else s
  else if off = 0x40 then State.showPins s (s.plain off v)
  else if off = 0x48 then
    let s := s.plain off v
    if fieldOf GLB_PSW_TAKE v = 1 then s.takePulse else s
  else s.plain off v

/-! ### BOOT (R66, R73, R76, R82) -/

/-- A single register of BOOT written. -/
def State.writeBoot (s : State) (off v : Nat) : State :=
  if off = 0x10010 then nextOf (execBootBar2Post (BitVec.ofNat 13 v) s) s
  else if off = 0x1001C then
    let s := if fieldOf BOOT_CTRL_RESTART v = 1 then s.ctrlRestart 0 else s
    if fieldOf BOOT_CTRL_RESTART_STAGE v = 1 then s.ctrlRestart 1 else s
  else if off = 0x1003C then
    -- R496: an `ARM` that is refused or ignored takes the whole write with it.
    if fieldOf BOOT_ACT_CTRL_ARM v = 1 ∧ ¬ s.armOk (fieldOf BOOT_ACT_CTRL_TWIN_GAP v) then
      nextOf (execActArmCmd (BitVec.ofNat 32 v) s) s
    else
      let s := if fieldOf BOOT_ACT_CTRL_ARM v = 1 then nextOf (execActArmCmd (BitVec.ofNat 32 v) s) s
        else s.put BOOT_ACT_CTRL_TWIN_GAP (fieldOf BOOT_ACT_CTRL_TWIN_GAP v)
      if fieldOf BOOT_ACT_CTRL_CANCEL v = 1 then nextOf (execActCancelCmd s) s else s
  else if off = 0x10084 then
    if fieldOf BOOT_CAL_CTRL_KEY v ≠ 0xCA1B then s.raise BOOT_CAL_STATE_ERR
    else
      let s := if fieldOf BOOT_CAL_CTRL_LOAD_SHADOW v = 1 then nextOf (execCalLoadShadow s) s else s
      let s := if fieldOf BOOT_CAL_CTRL_COMMIT v = 1 then nextOf (execCalCommit s) s else s
      if fieldOf BOOT_CAL_CTRL_ERASE v = 1 then nextOf (execCalErase s) s else s
  else if 0x12000 ≤ off ∧ off < 0x13000 ∧ s.flag BOOT_CAL_STATE_BUSY then s.raise BOOT_CAL_STATE_ERR
  else s.plain off v

/-! ### HQ (R89, R104-R110, R132) -/

/-- R104, R105: `HQ_SQn_CTRL` written. -/
def State.writeSqCtrl (s : State) (n v : Nat) : State :=
  if fieldOf (HQ_SQ_CTRL_DISABLE n) v = 1 then nextOf (execSqDisable (BitVec.ofNat 8 n) (BitVec.ofNat 32 v) s) s
  else if fieldOf (HQ_SQ_CTRL_ENABLE n) v = 1 then nextOf (execSqEnable (BitVec.ofNat 8 n) (BitVec.ofNat 32 v) s) s
  else s.writeIf (0x2100C + 0x20 * n) v true (s.sqState n == 0) HQ_ERR_CFG_REJECT

/-- R132: `HQ_JRN_CFG` written; at an enable the header and the table in host memory are free values. -/
def State.writeJournal (s : State) (v : Nat) : State :=
  let n := s.fresh
  let table : List (Nat × Nat × Nat) := (List.range 256).map (fun q =>
    (q, Config.freeValue (n + 2 + 2 * q) % 2 ^ 48, Config.freeValue (n + 3 + 2 * q) % 2 ^ 48))
  let header : Option Nat := if s.freeBit then some (Config.freeValue (n + 1) % 2 ^ 32) else none
  nextOf (execJournalEnable (BitVec.ofNat 32 v) header table { s with fresh := n + 514 }) s

/-- A single register of HQ written. -/
def State.writeHq (s : State) (off v : Nat) : State :=
  if off = 0x20000 then nextOf (execHqCtrlEn (BitVec.ofNat 32 v) s) s
  else if off = 0x20018 then
    let lo := fieldOf HQ_POLL_CFG_MIN v
    let hi := fieldOf HQ_POLL_CFG_MAX v
    s.writeIf off v (250 ≤ lo && lo ≤ hi && hi ≤ 64000) s.allSqDisabled HQ_ERR_CFG_REJECT
  else if 0x21000 ≤ off ∧ off < 0x23000 then
    let n := (off - 0x21000) / 0x20
    if off % 0x20 = 0xC then s.writeSqCtrl n v else s.writeIf off v true (s.sqState n == 0) HQ_ERR_CFG_REJECT
  else if 0x24000 ≤ off ∧ off < 0x26000 then
    let n := (off - 0x24000) / 0x20
    if off % 0x20 = 0x8 then nextOf (execCqEnable (BitVec.ofNat 8 n) (BitVec.ofNat 32 v) s) s
    else if off % 0x20 = 0xC then s.writeIf off v (fieldOf (HQ_CQ_MOD_MOD_COUNT n) v != 0) true HQ_ERR_CFG_REJECT
    else s.plain off v
  else if 0x26000 ≤ off ∧ off < 0x27000 ∧ off % 16 = 12 ∧ v % 2 = 0 then
    nextOf (execMsixVectorUnmask (BitVec.ofNat 8 ((off - 0x26000) / 16)) s) s
  else if off = 0x28008 then s.writeJournal v
  else if off = 0x28020 then
    let h := fieldOf HQ_DLV_CFG_HOLD_TIME v
    let t := fieldOf HQ_DLV_CFG_ACK_TIMEOUT v
    s.writeIf off v (1 ≤ h && h ≤ 1000 && 1 ≤ t && t ≤ 1000) true HQ_ERR_CFG_REJECT
  else s.plain off v

/-- A pair of HQ written (R105, R106, R132). -/
def State.writeHqPair (s : State) (off v : Nat) : State :=
  if off < 0x21000 then s.pairIf off v s.allSqDisabled HQ_ERR_CFG_REJECT
  else if off < 0x24000 then s.pairIf off v (s.sqState ((off - 0x21000) / 0x20) == 0) HQ_ERR_CFG_REJECT
  else if off < 0x26000 then s.pairIf off v (!s.flag (HQ_CQ_CFG_ENABLE ((off - 0x24000) / 0x20))) HQ_ERR_CFG_REJECT
  else s.plainPair off v

/-! ### INT (R413-R420) -/

/-- R417: `INT_Pb_COMPLETE` written. Which claims of the level had their input low at the processor's first read is a free value for
each. -/
def State.writeComplete (s : State) (req : Requester) (b l : Nat) : State :=
  let cs := (s.bank b).claims
  let low := (cs.zipIdx.filter (fun e => Config.freeValue (s.fresh + e.2) % 2 == 1)).map (fun e => e.1.src)
  State.intComplete { s with fresh := s.fresh + cs.length } req b l low

/-- A register of INT written. -/
def State.writeInt (s : State) (req : Requester) (off v : Nat) : State :=
  if off < 0x39000 then
    let b := (off - 0x30000) / 0x1000
    let r := off % 0x1000
    let w := r % 0x20 / 4
    if r < 0x20 then s.pendSet (some b) w v
    else if r < 0x40 then s.pendClr (some b) w v
    else if r < 0x60 then s.maskSet (some b) w v
    else if r < 0x80 then s.maskClr (some b) w v
    else if r = 0x204 then s.writeComplete req b (v % 8)
    else s.plain off v
  else if 0x3C000 ≤ off ∧ off < 0x3C200 then
    let w := off % 0x80 / 4
    if off < 0x3C080 then s.pendSet none w v
    else if off < 0x3C100 then s.pendClr none w v
    else if off < 0x3C180 then s.maskSet none w v
    else s.maskClr none w v
  else if 0x3D000 ≤ off then s.writeRoute ((off - 0x3D000) / 4) v
  else s.plain off v

/-! ### FLT (R428-R436) -/

/-- A register of FLT written. -/
def State.writeFlt (s : State) (off v : Nat) : State :=
  if off = 0x4000C then s.acknowledge 0 v
  else if off = 0x40010 then s.acknowledge 1 v
  else if off = 0x40014 then s.acknowledge 2 v
  else if off = 0x40018 then
    let s := s.plain off v
    if s.flag FLT_FAULTN_PULSE then s else s.emit (.pin 9 0 (if s.flag FLT_FAULTN_DRIVE then 0 else 2))
  else if off = 0x40038 then
    let k := fieldOf FLT_HLOG_CFG_LOG2_ENTRIES v
    let en := fieldOf FLT_HLOG_CFG_EN v = 1
    if s.flag FLT_HLOG_CFG_EN then
      (if k ≠ s.get FLT_HLOG_CFG_LOG2_ENTRIES then s.raise FLT_ERR else s.plain off v)
    else if en ∧ (k < 6 ∨ 16 < k) then s.raise FLT_ERR
    else (s.plain off v).hlogCopy
  else if 0x41000 ≤ off ∧ off < 0x42000 then s.writeAction ((off - 0x41000) / 4) v
  else s.plain off v

/-! ### PWR policies and Dike (R452, R463, R471) -/

/-- R471: the values that a policy register takes. -/
def pwrValueOk (off v : Nat) : Bool :=
  if off = 0x50004 then 600 ≤ fieldOf PWR_AVS_RANGE_VMIN_MV v && fieldOf PWR_AVS_RANGE_VMIN_MV v ≤ fieldOf PWR_AVS_RANGE_VMAX_MV v
    && fieldOf PWR_AVS_RANGE_VMAX_MV v ≤ 850
  else if off = 0x50008 then 1 ≤ fieldOf PWR_AVS_STEP_STEP_MV v && fieldOf PWR_AVS_STEP_STEP_MV v ≤ 25
    && 1 ≤ fieldOf PWR_AVS_STEP_DOWN_COUNT v && 1 ≤ fieldOf PWR_AVS_STEP_HYST_PCT v && fieldOf PWR_AVS_STEP_HYST_PCT v ≤ 20
  else if off = 0x5000C then 20 ≤ fieldOf PWR_AVS_TIME_PERIOD_US v && fieldOf PWR_AVS_TIME_PERIOD_US v ≤ 10000
    && 1 ≤ fieldOf PWR_AVS_TIME_SETTLE_US v && fieldOf PWR_AVS_TIME_SETTLE_US v ≤ fieldOf PWR_AVS_TIME_PERIOD_US v
  else if off = 0x50010 then 5 ≤ fieldOf PWR_AVS_MARGIN_FIELD_PCT v && fieldOf PWR_AVS_MARGIN_FIELD_PCT v ≤ 50
    && 5 ≤ fieldOf PWR_AVS_MARGIN_MARGIN_PCT v && fieldOf PWR_AVS_MARGIN_MARGIN_PCT v ≤ 50
  else if off = 0x50014 then 600 ≤ fieldOf PWR_AVS_FIXED v && fieldOf PWR_AVS_FIXED v ≤ 850
  else if off = 0x50200 then fieldOf PWR_THERM_CFG_T_WARN v < fieldOf PWR_THERM_CFG_T_HIGH v && fieldOf PWR_THERM_CFG_T_HIGH v < 115
    && 1 ≤ fieldOf PWR_THERM_CFG_T_HYST v && fieldOf PWR_THERM_CFG_T_HYST v ≤ 10
  else if off = 0x50204 then 1 ≤ fieldOf PWR_THERM_VIS_VIS_STEP v && fieldOf PWR_THERM_VIS_VIS_STEP v ≤ 1800
    && fieldOf PWR_THERM_VIS_VIS_MIN v ≤ 1800
  else if off = 0x50300 then fieldOf PWR_POL_DB_CURVE v != 3
  else if off = 0x50304 then 1 ≤ fieldOf PWR_POL_LULL_IDLE_S v && 1 ≤ fieldOf PWR_POL_LULL_RETRY_S v
  else if off = 0x50308 then fieldOf PWR_POL_SERVO v ≤ 8
  else true

/-- A register of the PWR policies written: a setpoint outside a new range moves into it, and a new `FIXED_MV` applies, in the
state in which the loop uses it (R460, R461). -/
def State.writePwr (s : State) (off v : Nat) : State :=
  if off = 0x50000 then s.writePolCtrl v
  else if ! pwrValueOk off v then s.raise PWR_ERR_CFG_REJECT
  else
    let s := s.plain off v
    if off = 0x50014 ∧ s.avsState = 2 then (if s.boot.frozen then s else s.setVcore (s.get PWR_AVS_FIXED))
    else if off = 0x50004 ∧ s.avsState = 1 ∧ ! s.boot.frozen then
      let set := s.get PWR_AVS_STATUS_SET_MV
      if set < s.get PWR_AVS_RANGE_VMIN_MV then s.setVcore (s.get PWR_AVS_RANGE_VMIN_MV)
      else if s.get PWR_AVS_RANGE_VMAX_MV < set then s.setVcore (s.get PWR_AVS_RANGE_VMAX_MV)
      else s
    else s

/-- A register of the PWR Dike block written (R449, R452). -/
def State.writeDike (s : State) (off v : Nat) : State :=
  if off < 0x59000 then s.plain off v
  else
    let c := (off - 0x59000) / 0x80
    let r := off % 0x80
    if r = 0 then s.writeDikeCfg c v
    else if r = 0x50 then (if v.testBit 0 then s.dikeRestart c else s)
    else if r = 0x5C then s.plain off v
    else s.writeIf off v true (!s.flag (DIKE_CH_CFG_EN c)) DIKE_ERR

/-! ### TIME (R218-R230, R233) -/

/-- A single register of TIME written. -/
def State.writeTime (s : State) (off v : Nat) : State :=
  if off = 0x60020 then nextOf (execTimeRateWrite (BitVec.ofNat 32 v) s) s
  else if off = 0x6002C then s.writeTimeCfg v
  else if off = 0x60030 then (if fieldOf TIME_CTRL v = 1 then nextOf (execLockNow s) s else s)
  else if 0x60100 ≤ off ∧ off < 0x60200 then
    let n := (off - 0x60100) / 0x20
    if off % 0x20 = 0 then s.writeFsync n v
    else s.writeIf off v true (!s.flag (TIME_FSYNC_CTRL_EN n)) TIME_ERR_CFG_REJECT
  else s.plain off v

/-- A pair of TIME written. -/
def State.writeTimePair (s : State) (off v : Nat) : State :=
  s.pairIf off v (!s.flag (TIME_FSYNC_CTRL_EN ((off - 0x60100) / 0x20))) TIME_ERR_CFG_REJECT

/-! ### RING (R148, R152, R166, R167, R174, R176) -/

/-- R167: the domain bits that `RING_LULL_SET` takes: without AON, SV and MEM, and with every domain that requires one of them. -/
def lullSetOk (v : Nat) : Bool :=
  !v.testBit dAON && !v.testBit dSV && !v.testBit dMEM
  && (List.range 17).all (fun d => v.testBit d || requiresBits d &&& v == 0)

/-- `RING_LULL_CTRL` written (R168, R171, R176). Whether the policy of the root consents is a free value. -/
def State.writeLullCtrl (s : State) (v : Nat) : State :=
  let s := if fieldOf RING_LULL_CTRL_START v = 1 then nextOf (execLullStart ⟨s.freeBit, s.draw.freeBit⟩ s.draw.draw) s else s
  let s := if fieldOf RING_LULL_CTRL_ABORT v = 1 then nextOf (execLullAbort s) s else s
  let s := if fieldOf RING_LULL_CTRL_WAKE v = 1 then nextOf (execLullWakeCmd s) s else s
  if fieldOf RING_LULL_CTRL_CLEAR_LOG v = 1 then nextOf (execLullClearLog s) s else s

/-- A single register of RING written. -/
def State.writeRing (s : State) (off v : Nat) : State :=
  if off = 0x80000 then
    let id := fieldOf RING_NODE_ID v
    if ¬ s.flag RING_NODE_ROOT ∨ s.flag RING_CTRL_EN then s
    else if id = 0 ∨ id = 255 then s.raise RING_ERR_CFG_REJECT
    else s.put RING_NODE_ID id
  else if off = 0x80004 then
    if ¬ s.flag RING_NODE_ROOT then s
    else
      let s := if fieldOf RING_CTRL_EN v = 1 then nextOf (execRingEnable s) s else s.put RING_CTRL_EN 0
      if fieldOf RING_CTRL_ENUM_START v = 1 then nextOf (execEnumStart s) s else s
  else if off = 0x80018 then s.writeIf off v (fieldOf RING_RA_CFG_TIMEOUT v != 0) true RING_ERR_CFG_REJECT
  else if off = 0x80200 then (if lullSetOk (v % 2 ^ 17) then s.plain off v else s.raise RING_ERR_LULL_SET_REJECT)
  else if off = 0x80204 then
    s.writeIf off v (fieldOf RING_LULL_CFG_REFUSE_LIMIT v != 0 && fieldOf RING_LULL_CFG_ROUND_MS v != 0) true RING_ERR_CFG_REJECT
  else if off = 0x80208 then s.writeLullCtrl v
  else s.plain off v

/-! ### TWIN (R404, R407, R411, R412) -/

/-- Five free words as a half's answer, or none. -/
def State.freeAnswer (s : State) (i : Nat) : Option TwinAnswer :=
  if Config.freeValue (s.fresh + i) % 2 = 1 then
    some { status := s.freeWord (i + 1), mode := s.freeWord (i + 2), cfg := s.freeWord (i + 3), ckptCfg := s.freeWord (i + 4)
           ckptAge := s.freeWord (i + 5) }
  else none

/-- A register of TWIN written. The halves' answers to a switch-over's reads are free values. -/
def State.writeTwin (s : State) (req : Requester) (off v : Nat) : State :=
  if off = 0xB00000 then
    let e := fieldOf TWIN_CFG_EPOCH_US v
    let p := fieldOf TWIN_CFG_PAIR_ID v
    s.writeIf off v (10 ≤ e && e ≤ 10000 && 1 ≤ p && p ≤ 254) (s.pairState == 0) TWIN_ERR_CFG_REJECT
  else if off = 0xB00004 then s.writeIf off v (fieldOf TWIN_CKPT_CFG_CKPT_MS v != 0) true TWIN_ERR_CFG_REJECT
  else if off = 0xB00018 then s.writeTwinCtrl req v
  else if off = 0xB01000 then
    s.writeIf off v (100 ≤ fieldOf TWIN_WIT_CFG_BEAT_US v && fieldOf TWIN_WIT_CFG_MISS_LIMIT v != 0) true TWIN_ERR_CFG_REJECT
  else if off = 0xB01004 then
    nextOf (execWitnessSwitchOver (BitVec.ofNat 32 v) (s.freeAnswer 0) (s.freeAnswer 6) { s with fresh := s.fresh + 12 }) s
  else s.plain off v

end Sys2Proof.Machine
end

