-- ==== Sys2Proof/Machine/BusField.lean ====
section
/-! DEFINITION. Register writes in the blocks of the plant-facing domains: PLD, SCH, NET, VIS, the field clusters and SIG. -/

namespace Sys2Proof.Machine

open Sys2Proof.Machine.Reg

/-! ### PLD (R190, R191) -/

/-- The reserved cells of an input over its classes. -/
def State.reserved (s : State) (n : Nat) : Nat := ((List.range 8).map (fun k => s.get (resField n k))).sum

/-- R190: the pool registers hold values that the rule allows. -/
def State.poolsOk (s : State) : Bool :=
  (List.range 32).all (fun n => (List.range 8).all (fun k => (if n ≤ 2 then 27 else 1) ≤ s.get (resField n k)))
  && (List.range 32).all (fun n => s.get (PLD_IN_SHR_SHR_MAX n) != 0 && (2 < n || s.get (PLD_IN_SHR_SHR_MAX n) % 8 == 0)
      && s.get (PLD_IN_SHR_HYST n) < s.get (PLD_IN_SHR_SHR_MAX n))
  && s.get (PLD_IN_SHR_SHR_MAX 0) + s.get (PLD_IN_SHR_SHR_MAX 1) + s.get (PLD_IN_SHR_SHR_MAX 2) ≤ s.get PLD_SHR_CFG
  && ((List.range 32).map s.reserved).sum + s.get PLD_SHR_CFG ≤ 65536

/-- R190: the pool registers of input `n` may change: it holds no cells, and its port is down or the node in LOADING or SERVICE. -/
def State.poolFree (s : State) (n : Nat) : Bool :=
  s.pld.frames.all (fun f => f.inp != n)
  && (if n ≤ 2 then s.portState n ≤ 1 else s.mode == mLOADING || s.mode == mSERVICE)

/-- A register of PLD written. -/
def State.writePld (s : State) (off v : Nat) : State :=
  if off = 0xC0010 then nextOf (execPldFlush (BitVec.ofNat 32 v) s) s
  else if off = 0xC0004 then (if (s.plain off v).poolsOk then (s.plain off v).showPools else s.raise PLD_ERR_CFG_REJECT)
  else if 0xC1000 ≤ off ∧ off < 0xC1400 then
    let n := (off - 0xC1000) / 0x20
    if (s.plain off v).poolsOk ∧ (s.poolFree n ∨ ! s.moves off v) then (s.plain off v).showPools
    else s.raise PLD_ERR_CFG_REJECT
  else if 0xC2000 ≤ off ∧ off % 0x10 = 0 then
    (if v % 2 ^ 16 = 0 then s.raise PLD_ERR_CFG_REJECT else (s.plain off v).showPools)
  else s.plain off v

/-! ### SCH (R204, R208-R214) -/

/-- R208-R210: `SCH_GCLg_CTRL` written: `LEN`, then `ABORT`, `DISABLE` and `COMMIT` as far as they are set. -/
def State.writeGcl (s : State) (g : Fin 19) (v : Nat) : State :=
  let len := fieldOf (SCH_GCL_CTRL_LEN g) v
  if s.get (SCH_GCL_STATUS_STATE g) = 1 ∧ len ≠ s.get (SCH_GCL_CTRL_LEN g) then s.raise SCH_ERR
  else
    let s := s.put (SCH_GCL_CTRL_LEN g) len
    let s := if fieldOf (SCH_GCL_CTRL_ABORT g) v = 1 then nextOf (execGclAbort g s) s else s
    let s := if fieldOf (SCH_GCL_CTRL_DISABLE g) v = 1 then nextOf (execGclDisable g s) s else s
    if fieldOf (SCH_GCL_CTRL_COMMIT g) v = 1 then nextOf (execGclCommit g (BitVec.ofNat 32 v) s) s else s

/-- A register of SCH written. -/
def State.writeSch (s : State) (off v : Nat) : State :=
  if 0xE1000 ≤ off ∧ off < 0xE3000 then
    let o : Fin 32 := Fin.ofNat 32 ((off - 0xE1000) / 0x100)
    let r := off % 0x100
    if 0x20 ≤ r ∧ r < 0x40 then
      let k := (r - 0x20) / 4
      s.writeIf off v (fieldOf (SCH_OUT_CLS_CFG_MAX_WAIT o k) v != 0 && fieldOf (SCH_OUT_CLS_CFG_WEIGHT o k) v != 0) true SCH_ERR
    else if 0x40 ≤ r ∧ r < 0x80 then
      let k : Fin 8 := Fin.ofNat 8 ((r - 0x40) / 8)
      if r % 8 = 0 then nextOf (execWeirRateWrite o k (BitVec.ofNat 32 v) s) s
      else nextOf (execWeirBurstWrite o k (BitVec.ofNat 32 v) s) s
    else s.plain off v
  else if 0xE4000 ≤ off then
    let g : Fin 19 := Fin.ofNat 19 ((off - 0xE4000) / 0x800)
    let r := (off - 0xE4000) % 0x800
    if r = 0 then s.writeGcl g v
    else s.writeIf off v true (s.get (SCH_GCL_STATUS_STATE g) != 1) SCH_ERR
  else s.plain off v

/-! ### NET (R244, R248) -/

/-- A register of NET written. -/
def State.writeNet (s : State) (off v : Nat) : State :=
  if off < 0x101000 then s.plain off v
  else
    let n := (off - 0x101000) / 0x40
    let r := off % 0x40
    if r = 0 then s.writeEthCfg n v
    else if r = 4 then s.writeIf off v true (s.ethState n == 0 && s.get (SCH_GCL_STATUS_STATE (3 + n)) == 0) NET_ERR
    else if r = 0x18 then s.writeIf off v (v % 2 ^ 16 != 0) true NET_ERR
    else s.plain off v

/-! ### VIS (R350, R362, R364, R368, R371, R380, R389-R393) -/

/-- A register of camera `c` at `r` written. -/
def State.writeCam (s : State) (c r off v : Nat) : State :=
  if r = 0 then s.writeCamCfg c v
  else if r < 0x10 then s.writeIf off v true (s.camFree c) VIS_ERR_CFG_REJECT
  else if r = 0x40 then s.writeCciCmd c v
  else if r = 0x50 ∨ r = 0x54 then s.writeIf off v true (s.camFree c) VIS_PIPE_ERR_CFG_REJECT
  else if 0x60 ≤ r ∧ r < 0xB0 then
    let k := (r - 0x60) / 0x10
    if r % 0x10 = 0 then s.writeOutCfg c k v
    else s.writeIf off v true (!s.flag (VIS_CAM_OUT_CFG_EN c k)) VIS_PIPE_ERR_CFG_REJECT
  else s.plain off v

/-- A register of VIS written. A refusal with a bit of its own sets that bit alone (DESIGN CHOICE, notes/assumptions/7.md). -/
def State.writeVis (s : State) (off v : Nat) : State :=
  if 0x201000 ≤ off ∧ off < 0x201800 then s.writeCam ((off - 0x201000) / 0x100) (off % 0x100) off v
  else if off = 0x210004 then s.writeStageBase v
  else if off = 0x210008 then s.writeStageSize v
  else if 0x220000 ≤ off ∧ off < 0x230000 then
    s.writeIf off v true (!s.setLocked ((off - 0x220000) / 0x1000)) VIS_PIPE_ERR_SET_LOCKED
  else if off = 0x230000 ∨ off = 0x230100 then s.writeCstCfg ((off - 0x230000) / 0x100) v
  else if 0x231000 ≤ off ∧ off < 0x231800 then
    let k := (off - 0x231000) / 0x20
    if off % 0x20 = 0 then s.writeSinkCfg k v
    else s.writeIf off v true (!s.flag (VIS_SINK_CFG_EN k)) VIS_PIPE_ERR_CFG_REJECT
  else s.plain off v

/-! ### Field clusters (R249-R317) -/

/-- R260, R261: `FCn_PORTq_CTRL` written. -/
def State.writePortCtrl (s : State) (n : Fin 6) (q : Fin 32) (v : Nat) : State :=
  let s := if v.testBit 0 then nextOf (execFlushRx n q s) s else s
  let s := if v.testBit 1 then nextOf (execFlushTx n q s) s else s
  let s := if v.testBit 2 then nextOf (execDropRx n q s) s else s
  if v.testBit 3 then nextOf (execDropTx n q s) s else s

/-- R289: `FCn_PIOg_HALT` written. How far a shift of a halted engine has come, and what it sampled, are free values. -/
def State.writeHalt (s : State) (n g mask : Nat) : State :=
  let cuts : List (Nat × Nat × List Bool) := (List.range 8).map (fun e =>
    (e, Config.freeValue (s.fresh + 33 * e) % 33, (List.range 32).map (fun i => Config.freeValue (s.fresh + 33 * e + 1 + i) % 2 == 1)))
  State.haltWrite { s with fresh := s.fresh + 264 } n g mask cuts

/-- A register of PIO group `g` at `r` written. -/
def State.writePio (s : State) (n g r off v : Nat) : State :=
  if r = 4 then s.writeSync n g v
  else if r = 8 then s.writeHalt n g (v % 256)
  else if r = 0x18 then s.orBits (FC_PIO_EVF_SET n g) (v % 256)
  else if r = 0x1C then s.dropBits (FC_PIO_EVF_SET n g) (v % 256)
  else if 0x400 ≤ r ∧ r < 0x600 then s.writeProg n g ((r - 0x400) / 4) v
  else if 0x800 ≤ r ∧ r < 0xA00 ∧ r % 0x40 < 0x24 then
    s.writeIf off v true (s.engState n g ((r - 0x800) / 0x40) == 0) (FC_PIO_ERR_CFG_REJECT n g)
  else s.plain off v

/-- R299, R315: `FCn_CANc_CMD` written. Whether the bus is idle is a free value. -/
def State.writeCanCmd (s : State) (n c v : Nat) : State :=
  let s := if v.testBit 1 then s.canRecover n c else s
  let s := if v.testBit 2 then s.canWake n c 2 else s
  if v.testBit 3 then s.draw.canSleep n c s.freeBit else s

/-- A register of CAN controller `c` at `r` written. Whether an attempt of a cancelled object has won arbitration is a free value. -/
def State.writeCan (s : State) (n c r off v : Nat) : State :=
  if r = 0 then s.writeCanCfg n c v
  else if r = 4 then s.writeCanCmd n c v
  else if r < 0x18 then s.writeIf off v true (!s.flag (FC_CAN_CFG_EN n c)) (FC_CAN_ERR_CFG_REJECT n c)
  else if r = 0x18 then s.writeIf off v (v % 2 ^ 16 != 0) true (FC_CAN_ERR_CFG_REJECT n c)
  else if r = 0x30 then s.draw.txCancel n c (v % 128) s.freeBit
  else if 0x4000 ≤ r then s.writeMm n c ((r - 0x4000) / 4) v
  else s.plain off v

/-- A register of field cluster `n` at `r` written. -/
def State.writeFc (s : State) (n r off v : Nat) : State :=
  if r = 4 then s.writeIf off v (fieldOf (FC_EVT_CFG n) v != 0) true (FC_ERR_CFG_REJECT n)
  else if 0x100 ≤ r ∧ r < 0x200 then s.writePinCfg n ((r - 0x100) / 4) v
  else if 0x200 ≤ r ∧ r < 0x210 then
    let m := (r - 0x200) / 8
    s.each (bitList v 32) (fun s i => s.setLevel n (32 * m + i) (r % 8 == 0))
  else if 0x300 ≤ r ∧ r < 0x320 then s.writeFlowCfg ((r - 0x300) / 4) v
  else if 0x1000 ≤ r ∧ r < 0x1400 ∧ r % 16 = 0 then s.writeLineCfg n ((r - 0x1000) / 16) v
  else if 0x4000 ≤ r ∧ r < 0x4800 then
    let q := (r - 0x4000) / 0x40
    if r % 0x40 = 0 then s.writePortCfg n q v
    else if r % 0x40 = 4 then s.writeWatermark n q 0 v
    else if r % 0x40 = 8 then s.writeWatermark n q 1 v
    else if r % 0x40 = 12 then s.writePortCtrl (Fin.ofNat 6 n) (Fin.ofNat 32 q) v
    else s.plain off v
  else if 0x10000 ≤ r ∧ r < 0x14000 then s.writePio n ((r - 0x10000) / 0x1000) (r % 0x1000) off v
  else if 0x20000 ≤ r ∧ r < 0x60000 then s.writeCan n ((r - 0x20000) / 0x8000) (r % 0x8000) off v
  else s.plain off v

/-! ### SIG (R323, R330, R338, R343-R346) -/

/-- A single register of SIG written. -/
def State.writeSig (s : State) (off v : Nat) : State :=
  if off = 0xA00000 then s.writeSigCtrl v
  else if off = 0xA00010 then s.writeEntSel v
  else if 0xA10000 ≤ off ∧ off < 0xA20000 then s.writeMsg ((off - 0xA10000) / 16) (off % 16 / 4) v
  else if off = 0xA30000 then s.writeBrgRetry v
  else if off = 0xA30004 then s.writeBrgLock v
  else if 0xA31000 ≤ off ∧ off < 0xA31800 then s.writeRngCfg ((off - 0xA31000) / 0x20) v
  else if 0xA32000 ≤ off ∧ off < 0xA32120 then
    (if off % 16 = 0 then s.writeBusCfg ((off - 0xA32000) / 16) v else s.writeBusTimeout ((off - 0xA32000) / 16) v)
  else if 0xA40000 ≤ off ∧ off < 0xA42000 then s.writeBulkCfg ((off - 0xA40000) / 16) v
  else s.plain off v

/-- A pair of SIG written. -/
def State.writeSigPair (s : State) (off v : Nat) : State :=
  let r := (off - 0xA31000) / 0x20
  if off % 0x20 = 8 then s.writeRngBase r v else s.writeRngXlate r v

end Sys2Proof.Machine
end

