-- ==== Sys2Proof/Machine/RegAccess.lean ====
section
/-! DEFINITION. Register accesses as commands: BAR0 writes and the 64-bit pairs (R6-R11, R492), the copies that a twin's active half
sends of them (R401, R402), remote access (R165, R166), and the items `REG_WRITE` and `REG_READ` (R93). -/

namespace Sys2Proof.Machine

open Sys2Proof.Machine.Reg

/-! ### Writes -/

/-- R492, R502: the register at `off` takes accesses: AON's in every mode but OFF, another domain's while it is up and not
fenced. -/
def State.busOpen (s : State) (off : Nat) : Bool :=
  off % 4 == 0 && s.aonOpen && (regDomain off == dAON || s.accessible (regDomain off))

/-- Whether the register at `off` is half of a pair, and which (R11). -/
def pairAt (off : Nat) : Pair :=
  match regAt off with
  | some (r, _) => r.pair
  | none => .single

/-- A single register written, by its block (R491). -/
def State.writeReg (s : State) (req : Requester) (off v : Nat) : State :=
  if off < 0x10000 then s.writeGlb req off v
  else if off < 0x20000 then s.writeBoot off v
  else if off < 0x30000 then s.writeHq off v
  else if off < 0x40000 then s.writeInt req off v
  else if off < 0x50000 then s.writeFlt off v
  else if off < 0x58000 then s.writePwr off v
  else if off < 0x60000 then s.writeDike off v
  else if off < 0x80000 then s.writeTime off v
  else if off < 0xC0000 then s.writeRing off v
  else if off < 0xE0000 then s.writePld off v
  else if off < 0x100000 then s.writeSch off v
  else if off < 0x200000 then s.writeNet off v
  else if off < 0x400000 then s.writeVis off v
  else if off < 0xA00000 then s.writeFc ((off - 0x400000) / 0x100000) (off % 0x100000) off v
  else if off < 0xB00000 then s.writeSig off v
  else if off < 0xC00000 then s.writeTwin req off v
  else s.plain off v

/-- A pair written whole through its high half at `off` (R11). -/
def State.writePair (s : State) (off v : Nat) : State :=
  if 0x20000 ≤ off ∧ off < 0x30000 then s.writeHqPair off v
  else if 0x60100 ≤ off ∧ off < 0x60200 then s.writeTimePair off v
  else if 0xA31000 ≤ off ∧ off < 0xA31800 then s.writeSigPair off v
  else s.plainPair off v

/-- What a register holds in its RW, W1C and RO fields. WO and RSV bits read 0 (R7). -/
def State.stored (s : State) (off : Nat) : Nat :=
  (fieldsAt off).foldl (fun v e => if e.2 = .wo then v else v + s.get e.1 * 2 ^ e.1.lo) 0

/-- The low half that a requester has staged for the pair whose low half is at `off` (R11). -/
def State.stagedHalf (s : State) (req : Requester) (off : Nat) : Option Nat :=
  (s.staged.find? (fun e => e.1 == req && e.2.1 == off)).map (fun e => e.2.2)

/-- A requester's stage of a pair cleared. -/
def State.unstage (s : State) (req : Requester) (off : Nat) : State :=
  { s with staged := s.staged.filter (fun e => !(e.1 == req && e.2.1 == off)) }

/-- R11: a write of a low half staged for its requester, in place of an earlier one. A read-only half ignores it (R7). -/
def State.stage (s : State) (req : Requester) (off v : Nat) : State :=
  if (fieldsAt off).all (fun e => e.2 == .ro) then s
  else
    let t := s.unstage req off
    { t with staged := t.staged ++ [(req, off, v)] }

/-- R11: a write of a high half: the whole value takes effect, and the stage is cleared, also where it is refused (DESIGN CHOICE,
notes/assumptions/7.md). `TIME_STEP` applies a step (R219), and a refused one keeps the stage. -/
def State.writeHigh (s : State) (req : Requester) (off v : Nat) : State :=
  if (fieldsAt off).all (fun e => e.2 == .ro) then s
  else if off = 0x60028 then nextOf (execTimeStepWrite req (BitVec.ofNat 32 v) s) s
  else
    let lo := (s.stagedHalf req (off - 4)).getD (s.stored (off - 4))
    (s.unstage req (off - 4)).writePair off (lo + 2 ^ 32 * v)

/-! ### Copies of configuration writes (R401, R402) -/

/-- A register of a unit whose configuration a standby half holds (notes/assumptions/44.md). -/
def unitReg (off : Nat) : Bool :=
  decide (0x58000 ≤ off ∧ off < 0x60000) || decide (0x60100 ≤ off ∧ off < 0x60200)
  || (decide (0xC0000 ≤ off ∧ off < 0xB00000) && !(decide (0x201000 ≤ off ∧ off < 0x201800) && off % 0x100 == 0x40))

/-- A PIO group's `SYNC` or `HALT`: cluster, group, and whether it is `HALT`. -/
def engineReg (off : Nat) : Option (Nat × Nat × Bool) :=
  let r := off % 0x100000
  if 0x400000 ≤ off ∧ off < 0xA00000 ∧ 0x10000 ≤ r ∧ r < 0x14000 ∧ (r % 0x1000 = 4 ∨ r % 0x1000 = 8) then
    some ((off - 0x400000) / 0x100000, (r - 0x10000) / 0x1000, r % 0x1000 == 8)
  else none

/-- A configuration write that has left `s` was accepted: the RW fields hold what it wrote; a `SYNC` has started its engines or
waits; the message memory takes writes while `EN` = 0. -/
def State.accepted (s : State) (off v : Nat) : Bool :=
  match engineReg off with
  | some (n, g, halt) => halt || (v % 256 != 0 && ((s.group n g).sync.isSome
      || (bitList v 8).all (fun e => s.engState n g e != 0)))
  | none =>
    if 0x400000 ≤ off ∧ off < 0xA00000 ∧ 0x20000 ≤ off % 0x100000 ∧ 0x4000 ≤ off % 0x8000 then
      !s.flag (FC_CAN_CFG_EN ((off - 0x400000) / 0x100000) ((off % 0x100000 - 0x20000) / 0x8000))
    else (fieldsAt off).any (fun e => e.2 == .rw) && !s.moves off v

/-- R401, R402: the active half of a pair sends an accepted configuration write to the standby. -/
def State.copyConfig (s : State) (off v : Nat) : State :=
  if s.node.twinRole ≠ .active ∨ ¬ unitReg off ∨ ¬ s.accepted off v ∨ (s.pairState ≠ 1 ∧ s.pairState ≠ 2) then s
  else if s.get TWIN_CFG_MODE = 1 then s.journalInput (.config off v)
  else s.sendCopy (.config off v) false

/-- R6-R11, R492: a full aligned write of one register by a requester. A register that has no writable field ignores it (R7), and so does
an offset that no table defines (R8). -/
def State.busWrite (s : State) (req : Requester) (off v : Nat) : State :=
  if ¬ s.busOpen off then s
  else match pairAt off with
    | .lo => s.stage req off v
    | .hi =>
      let lo := (s.stagedHalf req (off - 4)).getD (s.stored (off - 4))
      ((s.writeHigh req off v).copyConfig (off - 4) lo).copyConfig off v
    | .single => if (fieldsAt off).all (fun e => e.2 == .ro) then s else (s.writeReg req off v).copyConfig off v

/-! ### Reads -/

/-- The `…_SET` register whose state a `…_CLR` register shares (R9). -/
def sharedAt (off : Nat) : Nat :=
  if off = 0x14 then 0x10
  else if 0x30000 ≤ off ∧ off < 0x39000 then
    (if (0x20 ≤ off % 0x1000 ∧ off % 0x1000 < 0x40) ∨ (0x60 ≤ off % 0x1000 ∧ off % 0x1000 < 0x80) then off - 0x20 else off)
  else if (0x3C080 ≤ off ∧ off < 0x3C100) ∨ (0x3C180 ≤ off ∧ off < 0x3C200) then off - 0x80
  else if 0x400000 ≤ off ∧ off < 0xA00000 then
    let r := off % 0x100000
    if (0x200 ≤ r ∧ r < 0x210 ∧ r % 8 = 4) ∨ (0x10000 ≤ r ∧ r < 0x14000 ∧ r % 0x1000 = 0x1C) then off - 4 else off
  else off

/-- A register of INT as it reads: inputs, kinds and levels are those of the moment. -/
def State.readInt (s : State) (off : Nat) : Nat :=
  if off < 0x39000 then
    let b := (off - 0x30000) / 0x1000
    let r := off % 0x1000
    if 0x80 ≤ r ∧ r < 0xA0 then intKind b ((r - 0x80) / 4)
    else if 0xA0 ≤ r ∧ r < 0xC0 then s.inputWord (some b) ((r - 0xA0) / 4)
    else if r = 0x200 then (s.put (INT_P_STATE_PENDLVL b) (s.pendLevels b)).stored off
    else if r = 0x214 then s.shSum b
    else s.stored off
  else if 0x3C200 ≤ off ∧ off < 0x3C280 then intShKind ((off - 0x3C200) / 4)
  else if 0x3C280 ≤ off ∧ off < 0x3C300 then s.inputWord none ((off - 0x3C280) / 4)
  else s.stored off

/-- The value of the register at `off` as a requester reads it now (R7, R9, R217, R302, R413, R416, R437). -/
def State.readReg (s : State) (req : Requester) (off : Nat) : Nat :=
  if off = 0x50 then Config.uid.toNat % 2 ^ 32
  else if off = 0x54 then Config.uid.toNat / 2 ^ 32
  else if off = 0x60008 then s.ringTime % 2 ^ 32
  else if off = 0x6000C then s.ringTime / 2 ^ 32 % 2 ^ 32
  else if 0x30000 ≤ off ∧ off < 0x40000 then s.readInt (sharedAt off)
  else if 0x41000 ≤ off ∧ off < 0x42000 ∧ ¬ srcListed ((off - 0x41000) / 4) then 0
  else if 0xC0100 ≤ off ∧ off < 0xC0200 ∧ s.mode ≠ mSERVICE then 0
  else if 0xC0100 ≤ off ∧ off < 0xC0200 then leNat (Memory.readList s.pld.mem (256 * s.get PLD_DIAG_CELL + (off - 0xC0100)) 4)
  else if 0xE1000 ≤ off ∧ off < 0xE3000 then (s.refreshOut ((off - 0xE1000) / 0x100)).stored off
  else if 0xE4000 ≤ off ∧ off < 0x100000 ∧ (off - 0xE4000) % 0x800 = 0x10 then
    min (2 ^ 32 - 1) (cycleOf (s.admList ((off - 0xE4000) / 0x800)))
  else if 0x400000 ≤ off ∧ off < 0xA00000 ∧ 0x20000 ≤ off % 0x100000 ∧ 0x4000 ≤ off % 0x8000 ∧ fieldsAt off ≠ [] then
    s.mmSeen req ((off - 0x400000) / 0x100000) ((off % 0x100000 - 0x20000) / 0x8000) (off % 0x4000 / 4)
  else s.stored (sharedAt off)

/-- R11: a read of a low half captures the whole value for its requester. -/
def State.captureLow (s : State) (req : Requester) (off : Nat) : State :=
  let v := s.readReg req off + 2 ^ 32 * s.readReg req (off + 4)
  { s with capture := s.capture.filter (fun e => !(e.1 == req && e.2.1 == off)) ++ [(req, off, v)] }

/-- R11: the upper half that a requester reads: that of its capture, or the present one. -/
def State.readHigh (s : State) (req : Requester) (off : Nat) : Nat :=
  match s.capture.find? (fun e => e.1 == req && e.2.1 == off - 4) with
  | some (_, _, v) => v / 2 ^ 32
  | none => s.readReg req off

/-- R302: a read of bytes 4-7 of a message object captures it. -/
def State.captureRead (s : State) (req : Requester) (off : Nat) : State :=
  if 0x400000 ≤ off ∧ off < 0xA00000 ∧ 0x20000 ≤ off % 0x100000 ∧ off % 0x100000 < 0x60000 ∧ 0x4000 ≤ off % 0x8000
      ∧ off % 0x4000 / 4 < 2560 ∧ off % 0x4000 / 4 % 20 = 1 then
    s.captureObj req ((off - 0x400000) / 0x100000) ((off % 0x100000 - 0x20000) / 0x8000) (off % 0x4000 / 4 / 20)
  else s

/-- R6-R11, R492: a read of one register by a requester: what it leaves, and the value. An offset that no table defines reads 0
(R8). -/
def State.busRead (s : State) (req : Requester) (off : Nat) : State × Nat :=
  if ¬ s.busOpen off then (s, 0)
  else match pairAt off with
    | .lo => (s.captureLow req off, s.readReg req off)
    | .hi => (s, s.readHigh req off)
    | .single =>
      if fieldsAt off = [] then (s, 0)
      else
        let t := s.captureRead req off
        (t, t.readReg req off)

/-- Consecutive registers read in ascending order. -/
def State.busReads (s : State) (req : Requester) : Nat → Nat → State × List Nat
  | 0, _ => (s, [])
  | n + 1, off =>
    let (s, v) := s.busRead req off
    let (s, vs) := State.busReads s req n (off + 4)
    (s, v :: vs)

/-- R6: a read of `len` bytes from byte address `a`: one read of each register it touches, in ascending order, and the bytes
addressed. -/
def State.busReadBytes (s : State) (req : Requester) (a len : Nat) : State × List Byte :=
  let (s, vs) := s.busReads req ((a % 4 + len + 3) / 4) (a - a % 4)
  (s, ((wordBytes vs).drop (a % 4)).take len)

/-- Consecutive registers written in ascending order. -/
def State.busWrites (s : State) (req : Requester) (off : Nat) (ws : List Nat) : State :=
  (ws.zipIdx).foldl (fun s e => s.busWrite req (off + 4 * e.2) e.1) s

/-! ### Commands -/

/-- R7: a register written. -/
def execRegisterWrite (req : Requester) (off : Nat) (val : Word) (s : State) : Host.Outcome State Fault Refusal :=
  .next (s.busWrite req off val.toNat)

/-- R6, R492: a BAR0 write that is not a full aligned 32-bit write is discarded and records `HIF_PARTIAL_WR`, whatever the state
of the register's domain. -/
def execBar0PartialWrite (_req : Requester) (_off : Nat) (s : State) : Host.Outcome State Fault Refusal :=
  .next (if s.node.off then s else s.record 5)

/-- R6, R11: a read of bytes of BAR0: its bytes are answered, and the whole value of each pair of whose
low half it returns a byte is captured for its requester. -/
def execRegPairLoRead (req : Requester) (off : Span) (s : State) : Host.Outcome State Fault Refusal :=
  .next (
    let (s, bs) := s.busReadBytes req off.addr off.len
    s.emit (.readData req off.addr bs))

/-- R11: a write of a low half. -/
def execRegPairLoWrite (req : Requester) (off : Nat) (val : Word) (s : State) : Host.Outcome State Fault Refusal :=
  .next (if s.busOpen off ∧ pairAt off = .lo then s.stage req off val.toNat else s)

/-! ### Remote access (R165, R166) -/

/-- R68: the registers that the agent serves in LOADING. -/
def loadingReg (write : Bool) (off : Nat) : Bool :=
  if write then off == 0x30 || off == 0x1001C
  else off == 0 || off == 4 || off == 0x3C || decide (0x10000 ≤ off ∧ off < 0x20000)

/-- The offsets of an access. -/
def accessOffs (off count : Nat) : List Nat := (List.range count).map (fun i => off + 4 * i)

/-- R166: the tests of an access of node `src` that follow `RA_ALIGN`: 0, `RA_DENIED` or `RA_LOADING`. -/
def State.remoteTest (s : State) (src off count : Nat) (write : Bool) : Nat :=
  let offs := accessOffs off count
  if write ∧ ((src ≠ s.rootNode ∧ ¬ s.flag RING_RA_CFG_ANY_WRITE) ∨ s.rootNode = 0
      ∨ offs.any (fun o => o == 0x10084 || decide (0x12000 ≤ o ∧ o < 0x13000))) then 0x81
  else if s.mode = mLOADING ∧ ¬ offs.all (loadingReg write) then 0x82
  else 0

/-- R153, R166: RA_RSP to the requester, by the port of arrival where there is no ring map. -/
def State.raAnswer (s : State) (port src seq status count : Nat) (words : List Nat) : State :=
  s.unicast src 0 seq (.raRsp status count words) port

/-- R166: an access that `RA_ALIGN` turns away. -/
def raMalformed (offset count write reserved payLen : Nat) (words : List Word) : Bool :=
  offset % 4 != 0 || count == 0 || decide (256 < count) || decide (0x04000000 < offset + 4 * count) || decide (1 < write)
  || reserved != 0 || payLen != 8 + 4 * count * write || (write == 1 && words.length != count)

/-- R165, R166: an access served: the words read and answered, or written and answered. A write of `GLB_RESET` is answered
before it takes effect. -/
def State.raServe (s : State) (port src seq offset count write : Nat) (words : List Word) : State :=
  if write = 0 then
    let (s, vs) := s.busReads (.remote src) count offset
    s.raAnswer port src seq 0 count vs
  else
    let ws := (words.map (fun w => w.toNat)).zip (accessOffs offset count)
    let s := (ws.filter (fun e => e.2 != 0x30)).foldl (fun s e => s.busWrite (.remote src) e.2 e.1) s
    let s := s.raAnswer port src seq 0 count []
    (ws.filter (fun e => e.2 == 0x30)).foldl (fun s e => s.busWrite (.remote src) e.2 e.1) s

/-- R166: RA_REQ at its target. -/
def execRaReqFrame (src : AtPort) (seq offset count write reserved payLen : Nat) (words : List Word) (s : State) :
    Host.Outcome State Fault Refusal :=
  .next (
    let st := if raMalformed offset count write reserved payLen words then 0x83 else s.remoteTest src.num offset count (write == 1)
    if st ≠ 0 then s.raAnswer src.port src.num seq st count [] else s.raServe src.port src.num seq offset count write words)

/-- R165, R333: RA_RSP reaches the requester: the bridge's access, or the supervisor's, ends. -/
def execRaRspFrame (_src seq status _count : Nat) (words : List Word) (s : State) : Host.Outcome State Fault Refusal :=
  .next (
    let s : State := { s with ring := { s.ring with raOpen := s.ring.raOpen.filter (fun q => q != seq) } }
    (s.bridgeRaRsp seq status words).bridgePostedRsp seq status)

/-- R166: no RA_RSP within `RING_RA_CFG.TIMEOUT` for a request of the supervisor. -/
def execRaTimeout (seq : Nat) (s : State) : Host.Outcome State Fault Refusal :=
  .next (
    let s : State := { s with ring := { s.ring with raOpen := s.ring.raOpen.filter (fun q => q != seq) } }
    if s.accessible dSV then s.raise RING_ERR_RA_TIMEOUT else s)

/-! ### Items (R93, R126, R160) -/

/-- Whose access an item makes: the own host's, or its source node's. -/
def State.itemReq (s : State) (w : Work) : Requester := if w.src = s.nodeId then .host else .remote w.src

/-- R160, R166: what an item's access is refused with: nothing within the node. -/
def State.itemTest (s : State) (w : Work) : Nat :=
  if w.src = s.nodeId then 0
  else if w.param % 4 ≠ 0 ∨ w.length % 4 ≠ 0 ∨ w.length = 0 ∨ 1024 < w.length ∨ 0x04000000 < w.param + w.length then 0x83
  else s.remoteTest w.src w.param (w.length / 4) (w.opcode == 0x20)

/-- R93, R126: `REG_WRITE`: the words are applied in ascending order, and the item commits with the last one. -/
def execRegWrite (src sq wsn : Nat) (s : State) : Host.Outcome State Fault Refusal :=
  .next (match s.readyWork src sq wsn 0x20 with
    | some w =>
      let st := s.itemTest w
      if st ≠ 0 then s.failWork w st 0 0
      else
        let ws := (List.range (w.length / 4)).map (fun i => leAt w.data (4 * i) 4)
        let s := s.busWrites (s.itemReq w) w.param ws
        if (s.work? src sq wsn).isSome then s.commitInternal w w.length else s
    | none => s)

/-- R93, R146: `REG_READ`: the registers are read in ascending order, and their words returned. -/
def execRegRead (src sq wsn : Nat) (s : State) : Host.Outcome State Fault Refusal :=
  .next (match s.readyWork src sq wsn 0x21 with
    | some w =>
      let st := s.itemTest w
      if st ≠ 0 then s.failWork w st 0 0
      else
        let (s, vs) := s.busReads (s.itemReq w) (w.length / 4) w.param
        s.returnData w (wordBytes vs) 0
    | none => s)

end Sys2Proof.Machine
end

