-- ==== Sys2Proof/Machine/Transit.lean ====
section
/-! DEFINITION. K-frames at the link (R143-R145, R154, R155, R395): what a received frame's tests, its destination and its
broadcast number make of it. -/

namespace Sys2Proof.Machine

open Sys2Proof.Machine.Reg

/-- The header of a K-frame (R143). -/
structure KHeader where
  type    : Nat
  cls     : Nat
  wrapped : Bool
  tagged  : Bool
  payLen  : Nat
  hops    : Nat
  dst     : Nat
  src     : Nat
  seq     : Nat
  zeros   : Nat
  deriving DecidableEq, Repr

/-- R143: the header of a frame, with the bits documented as 0 collected in `zeros`. -/
def parseHeader (bs : List Byte) : KHeader :=
  let b1 := leAt bs 1 1
  let tagged := b1.testBit 2
  { type := leAt bs 0 1, cls := b1 / 32, wrapped := b1.testBit 3, tagged, payLen := leAt bs 2 2 % 4096
    hops := leAt bs 4 4 / 2 ^ 20 % 1024, dst := leAt bs 4 4 % 2 ^ 20, src := leAt bs 8 4 % 2 ^ 20, seq := leAt bs 12 2
    zeros := b1 % 4 + leAt bs 2 2 / 4096 + leAt bs 4 4 / 2 ^ 30 + leAt bs 8 4 / 2 ^ 20 + leAt bs 14 2
             + (if tagged then leAt bs 39 1 / 2 else 0) }

/-- R145: the frame types. -/
def typeDefined (t : Nat) : Bool :=
  (1 ≤ t && t ≤ 6) || (0x10 ≤ t && t ≤ 0x13) || t == 0x18 || t == 0x19 || (0x20 ≤ t && t ≤ 0x24)
  || (0x28 ≤ t && t ≤ 0x2B) || t == 0x30 || t == 0x31 || t == 0x38 || t == 0x40

/-- What R144's tests 1-5 say of a frame: 0 passed, 1 failed at the FCS, 2 discarded with `RING_BAD_FRAME`, 3 discarded
without. -/
def frameTest (bs : List Byte) (h : KHeader) : Nat :=
  if crc32c (bs.take (bs.length - 4)) ≠ leAt bs (bs.length - 4) 4 then 1
  else if h.payLen = 0 ∨ 2048 < h.payLen ∨ bs.length ≠ 20 + h.payLen + (if h.tagged then 24 else 0) then 2
  else if h.zeros ≠ 0 then 3
  else if ¬ typeDefined h.type then 2
  else if h.tagged ≠ (h.type == 1 || h.type == 2) then 2
  else 0

/-- R154: the frame with `HOPS` incremented and a new FCS. -/
def bumpHops (bs : List Byte) : List Byte :=
  let body := bs.take 4 ++ leBytes 4 (leAt bs 4 4 + 2 ^ 20) ++ (bs.take (bs.length - 4)).drop 8
  body ++ leBytes 4 (crc32c body)

/-- A discard under R144 or R154. -/
def State.discard (s : State) (p : Nat) : State := s.inc (RING_PORT_CNT_DISCARD p)

/-- R144 test 6, R154: the frame goes on, on the ring on which it came. -/
def State.forwardTransit (s : State) (p : Nat) (h : KHeader) (bs : List Byte) : State :=
  if 508 < h.hops + 1 then s.discard p else s.sendTransit (1 - p) h.cls (bumpHops bs)

/-- R154: the frame is this node's. -/
def State.keep (s : State) (p : Nat) (bs : List Byte) : State := s.emit (.kept p bs)

/-- R151: a held-out node accepts only ENUM and the MAP that may take it in again. -/
def State.accepts (s : State) (type : Nat) : Bool := !s.flag RING_NODE_HELD_OUT || type == 0x10 || type == 0x12

/-- R155: a broadcast that this node copies: a later `SEQ` than the last one copied from its source, or a RESYNC, MAP or
ENUM. -/
def State.copies (s : State) (h : KHeader) : Bool :=
  h.type == 0x04 || h.type == 0x12 || h.type == 0x10
  || (match SMap.find s.ring.lastSeq (h.src / 4096) with
      | some q => laterThan 16 h.seq q
      | none => true)

/-- R155: a broadcast at this node. ENUM is forwarded by the command that answers it (R149), and an EP_STATE that this node copies by the
command that applies it first (R163). -/
def State.broadcastIn (s : State) (p : Nat) (h : KHeader) (bs : List Byte) : State :=
  if h.src / 4096 = s.nodeId ∧ s.nodeId ≠ 0 then
    if h.type = 0x10 then s.keep p bs
    else if p = 1 then s else s.forwardTransit p h bs
  else
    let mine := s.copies h && s.accepts h.type
    let s := if mine then
        let s := s.keep p bs
        if h.type = 0x12 ∨ h.type = 0x10 then s
        else { s with ring := { s.ring with lastSeq := SMap.insert s.ring.lastSeq (h.src / 4096) h.seq } }
      else s
    if h.type = 0x10 ∨ (h.type = 0x05 ∧ mine) then s else s.forwardTransit p h bs

/-- R154, R395: a unicast at this node. -/
def State.unicastIn (s : State) (p : Nat) (h : KHeader) (bs : List Byte) : State :=
  if s.nodeId ≠ 0 ∧ s.isOwn (h.dst / 4096) (h.dst % 4096) then (if s.accepts h.type then s.keep p bs else s)
  else if h.src / 4096 = s.nodeId ∧ s.nodeId ≠ 0 ∧ ¬ h.wrapped then (s.discard p).record 37
  else s.forwardTransit p h bs

/-- R143-R145, R154, R155: a K-frame received whole on a port that is UP (0 East, on ring B; 1 West, on ring A; 2 TWL). Frames
of the neighbour, of the twin link and of a Lull round are handed to their unit, which forwards what goes on. -/
def execRingTransitFrame (port : Fin 3) (bytes : List Byte) (s : State) : Host.Outcome State Fault Refusal :=
  .next (
    let p := port.val
    if s.portState p ≠ 2 then s
    else
      let h := parseHeader bytes
      let s := s.inc (RING_PORT_CNT_RX p)
      let t := frameTest bytes h
      if t = 1 then ((s.inc (RING_PORT_CNT_FCS p)).inc PLD_CNT_CRC).inc (PLD_IN_CNT_DROP p)
      else if t = 2 then (s.discard p).record (32 + p)
      else if t = 3 then s.discard p
      else if p = 2 ∨ h.type = 0x38 ∨ h.type = 0x28 ∨ h.type = 0x29 then (if s.accepts h.type then s.keep p bytes else s)
      else if h.dst / 4096 = 255 then s.broadcastIn p h bytes
      else s.unicastIn p h bytes)

end Sys2Proof.Machine
end

