-- ==== Sys2Proof/Machine/TwinApply.lean ====
section
/-! DEFINITION. What the standby of a twin pair applies: COPY frames (R400, R401), JOURNAL inputs (R402), and the end of the copy
that SYNCING makes (R399, R401). -/

namespace Sys2Proof.Machine

open Sys2Proof.Machine.Reg

/-- What the standby applies leaves nothing on its ports: frames, host writes and messages that the active half sends are not
sent a second time (R402). -/
def State.quiet (s : State) (f : State → State) : State :=
  let t := f s
  { t with out := s.out, hq := s.hq, ring := s.ring,
           dlv := { t.dlv with acks := s.dlv.acks, work := t.dlv.work.filter (fun w => !w.raw || s.dlv.work.contains w) } }

/-- R401: the units that the standby starts at a take-over, with some added or removed. -/
def State.setRun (s : State) (run : Bool) (ks : List Nat) : State :=
  let rest := s.savedRun.filter (fun k => !ks.contains k)
  { s with savedRun := if run then rest ++ ks else rest }

/-- R401, R402: a configuration write of the active half at the standby. Its engines and cameras stay idle (R293, R366). -/
def State.applyConfig (s : State) (off v : Nat) : State :=
  if s.node.twinRole ≠ .standby then s.busWrite .supervisor off v
  else match engineReg off with
    | some (n, g, halt) => s.setRun (!halt) ((bitList v 8).map (fun e => 8 * (4 * n + g) + e))
    | none =>
      if 0x201000 ≤ off ∧ off < 0x201800 ∧ off % 0x100 = 0 then
        let c := (off - 0x201000) / 0x100
        (s.camFields c v).setRun (v.testBit 31) [1000 + c]
      else s.busWrite .supervisor off v

/-- R338, R400: a put copied into queue `q`, where it fits. -/
def State.copyPut (s : State) (q : Nat) (bytes : List Byte) : State :=
  let fill := s.get (SIG_BULK_FILL q)
  if ¬ s.flag (SIG_BULK_CFG_EN q) ∨ s.bulkSize q < fill + bytes.length then s
  else (s.ringWrite q (SMap.getD s.bulk.rd q 0 + fill) bytes).setFill q (fill + bytes.length)

/-- R400: the effect of an item that commits inside the chip, at the standby. Those of `REG_WRITE` reach it as configuration
writes (R401). -/
def State.applyItem (s : State) (opcode ep : Nat) (bytes : List Byte) : State :=
  if opcode = 0x11 then s.quiet (fun s => (recordsOf bytes.length bytes).foldl State.applyRecord s)
  else if opcode = 0x40 ∧ 0x600 ≤ ep ∧ ep < 0x800 then s.settleBulk.copyPut (ep - 0x600) bytes
  else if opcode = 0x10 ∧ 0x500 ≤ ep ∧ ep < 0x508 then
    s.setCam (ep - 0x500) { s.cam (ep - 0x500) with sets := addSet (s.cam (ep - 0x500)).sets (readSet bytes) }
  else s

/-- R401: a checkpoint's signal values: the first segment starts from values of 0. -/
def State.applySignals (s : State) (first : Bool) (values : List (Nat × Nat)) : State :=
  let s := if first then s.signalValues.foldl (fun s e => s.memWrite (sigAddr e.1 + 16) (leBytes 8 0)) s else s
  values.foldl (fun s e => s.memWrite (sigAddr e.1 + 16) (leBytes 8 e.2)) s

/-- The half is the standby of a pair whose copy is being made or kept. -/
def State.follows (s : State) : Bool := s.node.twinRole == .standby && (s.pairState == 1 || s.pairState == 2)

/-- R400, R401: the content of a COPY frame applied. -/
def State.applyCopy (s : State) (body : CopyBody) : State :=
  match body with
  | .item tag ep _ opcode _ _ bytes =>
    let s := s.applyItem opcode ep bytes
    match s.work? tag.src tag.sq tag.wsn with
    | some w => s.updWork w (fun x => { x with taken := true, started := true })
    | none => s
  | .signals first values => s.applySignals first values
  | .messages copies => copies.foldl (fun (s : State) (e : Nat × List Byte) => s.setSigTx e.1 { s.sigTx e.1 with copy := e.2, cur := e.2 }) s
  | .config off v => s.applyConfig off v

/-- R400, R401: a COPY frame at the standby: its content applied, then acknowledged. In LOCKSTEP the item's own frame has come
before it as a journal input, and its commit point finds it applied. -/
def execTwinCopy (seq : Nat) (body : CopyBody) (s : State) : Host.Outcome State Fault Refusal :=
  .next (if ¬ s.follows then s else (s.applyCopy body).sendTwin 5 [seq])

/-- R402: a commit point at the standby: the effect of an item that commits inside the chip, and the entry's `LAST_WSN`. -/
def State.applyCommit (s : State) (k wsn : Nat) : State :=
  let s := match s.dlv.work.find? (fun w => ledgerKey w.ep w.src w.sq == k && w.wsn == wsn && !w.raw) with
    | some w => (if w.started then s else s.applyItem w.opcode w.ep w.data).dropWork w
    | none => s
  match SMap.find s.dlv.ledger k with
  | some e => { s with dlv := { s.dlv with ledger := SMap.insert s.dlv.ledger k { e with pending := false, last := wsn } } }
  | none => s

/-- R402: gets that wait at the standby take their bytes, without sending them. -/
def State.applyGets (s : State) : State :=
  (s.dlv.work.filter (fun w => w.opcode == 0x41)).foldl (fun s w =>
    s.quiet (fun s => nextOf (execBulkGet w.src w.sq w.wsn s) s)) s

/-- R402: a journal input applied. -/
def State.applyJournal (s : State) (body : JournalBody) : State :=
  match body with
  | .frame tag ep cls param opcode length segOff last bytes =>
    s.quiet (fun s => s.takeFrame tag ep cls param opcode length segOff last bytes)
  | .router ep ident bytes =>
    s.quiet (fun s =>
      let s : State := { s with sig := { s.sig with inputs := s.sig.inputs ++
        [match ident with
         | some i => SigIn.can ep i bytes
         | none => SigIn.packet ep bytes] } }
      nextOf (execSigInput s) s)
  | .commit k wsn => s.applyCommit k wsn
  | .config off v => s.applyConfig off v

/-- R402: a JOURNAL frame at the standby: the input is applied, and its change enters the epoch's digest. -/
def execTwinJournal (_seq : Nat) (body : JournalBody) (s : State) : Host.Outcome State Fault Refusal :=
  .next (if s.follows ∧ s.get TWIN_CFG_MODE = 1 then
      let s : State := { s with twin := { s.twin with epochLog := s.twin.epochLog ++ journalBytes body } }
      (s.applyJournal body).applyGets
    else s)

/-- R399, R401: the copy is complete and, in LOCKSTEP, the first digest has matched: PAIRED. With `HOST` a half loads its
configuration from the checkpoint in host memory, whose writes are `config`. -/
def execTwinSyncDone (config : List (Nat × Word)) (s : State) : Host.Outcome State Fault Refusal :=
  .next (if s.pairState = 1 ∧ s.twin.copies.all (fun c => !c.ckpt && !c.config) ∧ (s.get TWIN_CFG_MODE = 0 ∨ s.twin.synced) then
      let s := if s.flag TWIN_CKPT_CFG_HOST then config.foldl (fun s e => s.applyConfig e.1 e.2.toNat) s else s
      ((s.put TWIN_STATUS_STATE 2).put HQ_LDG_STATUS_MIRROR 1).put TWIN_STATUS_MIRROR_OK 1
    else s)

end Sys2Proof.Machine
end

