-- ==== Sys2Proof/Machine/Dispatch.lean ====
section
/-! DEFINITION. The meaning of each command, one arm for each constructor of `Instr`. -/

namespace Sys2Proof.Machine

def exec (i : Instr) (s : State) : Host.Outcome State Fault Refusal :=
  match i with
  | .registerWrite req off val => Sys2Proof.Machine.execRegisterWrite req off val s
  | .bar0PartialWrite req off => Sys2Proof.Machine.execBar0PartialWrite req off s
  | .regPairLoRead req off => Sys2Proof.Machine.execRegPairLoRead req off s
  | .regPairLoWrite req off val => Sys2Proof.Machine.execRegPairLoWrite req off val s
  | .svLockstep => Sys2Proof.Machine.execSvLockstep s
  | .islUnderrun island engine => Sys2Proof.Machine.execIslUnderrun island engine s
  | .refclkLoss clk => Sys2Proof.Machine.execRefclkLoss clk s
  | .refclkReturn clk => Sys2Proof.Machine.execRefclkReturn clk s
  | .paceThreat d pace => Sys2Proof.Machine.execPaceThreat d pace s
  | .flowControlRelease d => Sys2Proof.Machine.execFlowControlRelease d s
  | .glbPdOnSet req val => Sys2Proof.Machine.execGlbPdOnSet req val s
  | .glbPdOnClr req val => Sys2Proof.Machine.execGlbPdOnClr req val s
  | .domainPowerUpStart d => Sys2Proof.Machine.execDomainPowerUpStart d s
  | .domainPowerUpDone d => Sys2Proof.Machine.execDomainPowerUpDone d s
  | .domainDrainStart d => Sys2Proof.Machine.execDomainDrainStart d s
  | .domainDrainEnd d => Sys2Proof.Machine.execDomainDrainEnd d s
  | .domainPowerOffDone d => Sys2Proof.Machine.execDomainPowerOffDone d s
  | .modeReqActive => Sys2Proof.Machine.execModeReqActive s
  | .modeReqService => Sys2Proof.Machine.execModeReqService s
  | .modeReqDormant => Sys2Proof.Machine.execModeReqDormant s
  | .modeReqNotAllowed target => Sys2Proof.Machine.execModeReqNotAllowed target s
  | .serviceEntryComplete => Sys2Proof.Machine.execServiceEntryComplete s
  | .dormantEntryComplete => Sys2Proof.Machine.execDormantEntryComplete s
  | .porAssert => Sys2Proof.Machine.execPorAssert s
  | .porRelease load slot testEn psw suppliesValid => Sys2Proof.Machine.execPorRelease load slot testEn psw suppliesValid s
  | .supplyLoss => Sys2Proof.Machine.execSupplyLoss s
  | .perstAssert => Sys2Proof.Machine.execPerstAssert s
  | .perstRelease => Sys2Proof.Machine.execPerstRelease s
  | .glbResetWarm req => Sys2Proof.Machine.execGlbResetWarm req s
  | .glbResetNode req => Sys2Proof.Machine.execGlbResetNode req s
  | .svWatchdogService period => Sys2Proof.Machine.execSvWatchdogService period s
  | .svWatchdogWarning => Sys2Proof.Machine.execSvWatchdogWarning s
  | .svWatchdogExpiry => Sys2Proof.Machine.execSvWatchdogExpiry s
  | .loaderResetEnd sizeGiB => Sys2Proof.Machine.execLoaderResetEnd sizeGiB s
  | .bootBar2Post slot => Sys2Proof.Machine.execBootBar2Post slot s
  | .bar2SlotConsumed => Sys2Proof.Machine.execBar2SlotConsumed s
  | .bar2Write off bytes => Sys2Proof.Machine.execBar2Write off bytes s
  | .svcBootDatagram bytes => Sys2Proof.Machine.execSvcBootDatagram bytes s
  | .bootBlockFrame unicast src bytes => Sys2Proof.Machine.execBootBlockFrame unicast src bytes s
  | .bootReplyFrame node offset status detail loadStatus loadId => Sys2Proof.Machine.execBootReplyFrame node offset status detail loadStatus loadId s
  | .bootHeaderBlock path bytes => Sys2Proof.Machine.execBootHeaderBlock path bytes s
  | .bootImageBlock path bytes => Sys2Proof.Machine.execBootImageBlock path bytes s
  | .bootStartBlock path bytes => Sys2Proof.Machine.execBootStartBlock path bytes s
  | .bootRestartBlock path bytes => Sys2Proof.Machine.execBootRestartBlock path bytes s
  | .bootCtrlRestart => Sys2Proof.Machine.execBootCtrlRestart s
  | .bootCtrlRestartStage => Sys2Proof.Machine.execBootCtrlRestartStage s
  | .imageVerifyDone => Sys2Proof.Machine.execImageVerifyDone s
  | .processorsReady => Sys2Proof.Machine.execProcessorsReady s
  | .actArmCmd val => Sys2Proof.Machine.execActArmCmd val s
  | .actCancelCmd => Sys2Proof.Machine.execActCancelCmd s
  | .actReportDeadline => Sys2Proof.Machine.execActReportDeadline s
  | .actRoundEnd => Sys2Proof.Machine.execActRoundEnd s
  | .actArmFrame time crc gap seq nodes => Sys2Proof.Machine.execActArmFrame time crc gap seq nodes s
  | .actCancelFrame seq => Sys2Proof.Machine.execActCancelFrame seq s
  | .actReportFrame seq node code => Sys2Proof.Machine.execActReportFrame seq node code s
  | .activationTime => Sys2Proof.Machine.execActivationTime s
  | .actProcessorsStopped => Sys2Proof.Machine.execActProcessorsStopped s
  | .actP0Running => Sys2Proof.Machine.execActP0Running s
  | .actAllReady => Sys2Proof.Machine.execActAllReady s
  | .actTimerExpiry => Sys2Proof.Machine.execActTimerExpiry s
  | .calLoadShadow => Sys2Proof.Machine.execCalLoadShadow s
  | .calCommit => Sys2Proof.Machine.execCalCommit s
  | .calErase => Sys2Proof.Machine.execCalErase s
  | .calCommitDone => Sys2Proof.Machine.execCalCommitDone s
  | .calEraseDone => Sys2Proof.Machine.execCalEraseDone s
  | .hqCtrlEn val => Sys2Proof.Machine.execHqCtrlEn val s
  | .sqEnable sq val => Sys2Proof.Machine.execSqEnable sq val s
  | .sqDisable sq val => Sys2Proof.Machine.execSqDisable sq val s
  | .cqEnable cq val => Sys2Proof.Machine.execCqEnable cq val s
  | .doorbellPollIssue line => Sys2Proof.Machine.execDoorbellPollIssue line s
  | .doorbellPollReturn line words => Sys2Proof.Machine.execDoorbellPollReturn line words s
  | .cqHeadPoll line => Sys2Proof.Machine.execCqHeadPoll line s
  | .cqHeadReadReturn line words => Sys2Proof.Machine.execCqHeadReadReturn line words s
  | .descFetchIssue => Sys2Proof.Machine.execDescFetchIssue s
  | .descFetchReturn sq descs => Sys2Proof.Machine.execDescFetchReturn sq descs s
  | .payloadReadDone sq num bytes => Sys2Proof.Machine.execPayloadReadDone sq num bytes s
  | .itemAccept sq num => Sys2Proof.Machine.execItemAccept sq num s
  | .journalFlushReadDone covered => Sys2Proof.Machine.execJournalFlushReadDone covered s
  | .cqRecordWrite cq => Sys2Proof.Machine.execCqRecordWrite cq s
  | .cqModTimeExpiry cq => Sys2Proof.Machine.execCqModTimeExpiry cq s
  | .msixVectorUnmask vector => Sys2Proof.Machine.execMsixVectorUnmask vector s
  | .hostWritesBlocked => Sys2Proof.Machine.execHostWritesBlocked s
  | .hostWritesResumed => Sys2Proof.Machine.execHostWritesResumed s
  | .nop sq num => Sys2Proof.Machine.execNop sq num s
  | .fence sq num => Sys2Proof.Machine.execFence sq num s
  | .send ep => Sys2Proof.Machine.execSend ep s
  | .sendTimeReached ep => Sys2Proof.Machine.execSendTimeReached ep s
  | .sigUpdate src sq wsn => Sys2Proof.Machine.execSigUpdate src sq wsn s
  | .regWrite src sq wsn => Sys2Proof.Machine.execRegWrite src sq wsn s
  | .regRead src sq wsn => Sys2Proof.Machine.execRegRead src sq wsn s
  | .bridgeWrite src sq wsn => Sys2Proof.Machine.execBridgeWrite src sq wsn s
  | .bridgeRead src sq wsn => Sys2Proof.Machine.execBridgeRead src sq wsn s
  | .bulkPut src sq wsn => Sys2Proof.Machine.execBulkPut src sq wsn s
  | .bulkGet src sq wsn => Sys2Proof.Machine.execBulkGet src sq wsn s
  | .rxPost src sq wsn => Sys2Proof.Machine.execRxPost src sq wsn s
  | .dataFrame tag ep cls param opcode length segOff last bytes => Sys2Proof.Machine.execDataFrame tag ep cls param opcode length segOff last bytes s
  | .returnFrame tag segOff last bytes => Sys2Proof.Machine.execReturnFrame tag segOff last bytes s
  | .ackFrame src entries => Sys2Proof.Machine.execAckFrame src entries s
  | .ackTimeoutExpiry sq wsn => Sys2Proof.Machine.execAckTimeoutExpiry sq wsn s
  | .resyncFrame src seq ledger => Sys2Proof.Machine.execResyncFrame src seq ledger s
  | .journalEnable val header table => Sys2Proof.Machine.execJournalEnable val header table s
  | .journalScanDone records => Sys2Proof.Machine.execJournalScanDone records s
  | .journalWaitGenExpiry => Sys2Proof.Machine.execJournalWaitGenExpiry s
  | .journalReplayDone => Sys2Proof.Machine.execJournalReplayDone s
  | .portDown port => Sys2Proof.Machine.execPortDown port s
  | .linkReturn port => Sys2Proof.Machine.execLinkReturn port s
  | .linkStableExpiry port => Sys2Proof.Machine.execLinkStableExpiry port s
  | .holdTimeExpiry port => Sys2Proof.Machine.execHoldTimeExpiry port s
  | .destAbsentExpiry node => Sys2Proof.Machine.execDestAbsentExpiry node s
  | .ringSignalDetect port => Sys2Proof.Machine.execRingSignalDetect port s
  | .ringTrainingDone port => Sys2Proof.Machine.execRingTrainingDone port s
  | .ringPortLoss port cause => Sys2Proof.Machine.execRingPortLoss port cause s
  | .creditOs port cls cells => Sys2Proof.Machine.execCreditOs port cls cells s
  | .creditReturnTimer port => Sys2Proof.Machine.execCreditReturnTimer port s
  | .ringTransitFrame port bytes => Sys2Proof.Machine.execRingTransitFrame port bytes s
  | .ringEnable => Sys2Proof.Machine.execRingEnable s
  | .enumStart => Sys2Proof.Machine.execEnumStart s
  | .enumFrame port src round hops wrapped => Sys2Proof.Machine.execEnumFrame port src round hops wrapped s
  | .enumReportFrame uid claim mode flags hops round => Sys2Proof.Machine.execEnumReportFrame uid claim mode flags hops round s
  | .enumMapTimer => Sys2Proof.Machine.execEnumMapTimer s
  | .mapFrame src round n flags ids => Sys2Proof.Machine.execMapFrame src round n flags ids s
  | .enumRestartTimer => Sys2Proof.Machine.execEnumRestartTimer s
  | .protectFrame src seq kind port => Sys2Proof.Machine.execProtectFrame src seq kind port s
  | .epStateFrame src pair ring hops version up draining fenced full more entries => Sys2Proof.Machine.execEpStateFrame src pair ring hops version up draining fenced full more entries s
  | .epFlushFrame src version => Sys2Proof.Machine.execEpFlushFrame src version s
  | .epStateRetransmit => Sys2Proof.Machine.execEpStateRetransmit s
  | .raReqFrame src seq offset count write reserved payLen words => Sys2Proof.Machine.execRaReqFrame src seq offset count write reserved payLen words s
  | .raRspFrame src seq status count words => Sys2Proof.Machine.execRaRspFrame src seq status count words s
  | .raTimeout seq => Sys2Proof.Machine.execRaTimeout seq s
  | .lullStart policyConsents => Sys2Proof.Machine.execLullStart policyConsents s
  | .lullAbort => Sys2Proof.Machine.execLullAbort s
  | .lullWakeCmd => Sys2Proof.Machine.execLullWakeCmd s
  | .lullClearLog => Sys2Proof.Machine.execLullClearLog s
  | .lullTokenFrame round n consents policyConsents wakeAsserted => Sys2Proof.Machine.execLullTokenFrame round n consents policyConsents wakeAsserted s
  | .lullCommitFrame round => Sys2Proof.Machine.execLullCommitFrame round s
  | .lullRefuseFrame src round reason => Sys2Proof.Machine.execLullRefuseFrame src round reason s
  | .lullVoidFrame src round reason => Sys2Proof.Machine.execLullVoidFrame src round reason s
  | .lullRoundTimeout => Sys2Proof.Machine.execLullRoundTimeout s
  | .lullSetOff => Sys2Proof.Machine.execLullSetOff s
  | .lullSetUp => Sys2Proof.Machine.execLullSetUp s
  | .wakeInAssert => Sys2Proof.Machine.execWakeInAssert s
  | .ringWakeArm port => Sys2Proof.Machine.execRingWakeArm port s
  | .ringActivityWake port => Sys2Proof.Machine.execRingActivityWake port s
  | .ringQuietTimer port => Sys2Proof.Machine.execRingQuietTimer port s
  | .aonCanWake ctrl => Sys2Proof.Machine.execAonCanWake ctrl s
  | .pswTake => Sys2Proof.Machine.execPswTake s
  | .pswTakePulseEnd => Sys2Proof.Machine.execPswTakePulseEnd s
  | .pswSenseChange level => Sys2Proof.Machine.execPswSenseChange level s
  | .pswTakeTimeout => Sys2Proof.Machine.execPswTakeTimeout s
  | .pldFrameLink inp dsts cls tagged ok bytes => Sys2Proof.Machine.execPldFrameLink inp dsts cls tagged ok bytes s
  | .pldFlush val => Sys2Proof.Machine.execPldFlush val s
  | .pldFlushDone => Sys2Proof.Machine.execPldFlushDone s
  | .schFrameStart out => Sys2Proof.Machine.execSchFrameStart out s
  | .frameEgressEnd out => Sys2Proof.Machine.execFrameEgressEnd out s
  | .voqPromotion out inp cls => Sys2Proof.Machine.execVoqPromotion out inp cls s
  | .weirRateWrite out cls val => Sys2Proof.Machine.execWeirRateWrite out cls val s
  | .weirBurstWrite out cls val => Sys2Proof.Machine.execWeirBurstWrite out cls val s
  | .gclCommit g val => Sys2Proof.Machine.execGclCommit g val s
  | .gclDisable g => Sys2Proof.Machine.execGclDisable g s
  | .gclAbort g => Sys2Proof.Machine.execGclAbort g s
  | .gclStartTime g => Sys2Proof.Machine.execGclStartTime g s
  | .gclEntryBoundary g => Sys2Proof.Machine.execGclEntryBoundary g s
  | .guardBandStart g cls => Sys2Proof.Machine.execGuardBandStart g cls s
  | .timeRateWrite val => Sys2Proof.Machine.execTimeRateWrite val s
  | .timeStepWrite req val => Sys2Proof.Machine.execTimeStepWrite req val s
  | .lockNow => Sys2Proof.Machine.execLockNow s
  | .timeLockAchieved => Sys2Proof.Machine.execTimeLockAchieved s
  | .timeUpstreamTimeout => Sys2Proof.Machine.execTimeUpstreamTimeout s
  | .timeSyncTimer port wait => Sys2Proof.Machine.execTimeSyncTimer port wait s
  | .timeSyncOs port seq wait => Sys2Proof.Machine.execTimeSyncOs port seq wait s
  | .timeReplyOs port seq => Sys2Proof.Machine.execTimeReplyOs port seq s
  | .timeSyncFrame port bytes => Sys2Proof.Machine.execTimeSyncFrame port bytes s
  | .servoWindowEnd source => Sys2Proof.Machine.execServoWindowEnd source s
  | .fsyncEnable n val => Sys2Proof.Machine.execFsyncEnable n val s
  | .fsyncEdge n => Sys2Proof.Machine.execFsyncEdge n s
  | .fsyncPulseEnd n => Sys2Proof.Machine.execFsyncPulseEnd n s
  | .fsyncHeldRelease n => Sys2Proof.Machine.execFsyncHeldRelease n s
  | .ppsOutEdge rise => Sys2Proof.Machine.execPpsOutEdge rise s
  | .ppsInEdge => Sys2Proof.Machine.execPpsInEdge s
  | .qsgmiiSyncLoss link => Sys2Proof.Machine.execQsgmiiSyncLoss link s
  | .qsgmiiControlWord port link full speed => Sys2Proof.Machine.execQsgmiiControlWord port link full speed s
  | .ethLinkUpTimer port => Sys2Proof.Machine.execEthLinkUpTimer port s
  | .ethPortEnable port val => Sys2Proof.Machine.execEthPortEnable port val s
  | .ethPortDisable port val => Sys2Proof.Machine.execEthPortDisable port val s
  | .ethDrainDone port => Sys2Proof.Machine.execEthDrainDone port s
  | .ethFrameReceive port bytes => Sys2Proof.Machine.execEthFrameReceive port bytes s
  | .ethPauseReceive port quanta => Sys2Proof.Machine.execEthPauseReceive port quanta s
  | .ethPauseExpiry port => Sys2Proof.Machine.execEthPauseExpiry port s
  | .ethPauseRepeat port => Sys2Proof.Machine.execEthPauseRepeat port s
  | .ethTxCommit port => Sys2Proof.Machine.execEthTxCommit port s
  | .pinFuncWrite n p val => Sys2Proof.Machine.execPinFuncWrite n p val s
  | .rxPacketToSlice n q => Sys2Proof.Machine.execRxPacketToSlice n q s
  | .txFifoWrite n q => Sys2Proof.Machine.execTxFifoWrite n q s
  | .flushRx n q => Sys2Proof.Machine.execFlushRx n q s
  | .flushTx n q => Sys2Proof.Machine.execFlushTx n q s
  | .fifoFlushDone n q => Sys2Proof.Machine.execFifoFlushDone n q s
  | .dropRx n q => Sys2Proof.Machine.execDropRx n q s
  | .dropTx n q => Sys2Proof.Machine.execDropTx n q s
  | .dioTimedEntry n p => Sys2Proof.Machine.execDioTimedEntry n p s
  | .dioEntryApply n p => Sys2Proof.Machine.execDioEntryApply n p s
  | .dioOutSet n m val => Sys2Proof.Machine.execDioOutSet n m val s
  | .dioOutClr n m val => Sys2Proof.Machine.execDioOutClr n m val s
  | .dioDirWrite n p val => Sys2Proof.Machine.execDioDirWrite n p val s
  | .dioRawChange n p level => Sys2Proof.Machine.execDioRawChange n p level s
  | .dioDebounceExpiry n p => Sys2Proof.Machine.execDioDebounceExpiry n p s
  | .evtLoanHoldExpiry n p => Sys2Proof.Machine.execEvtLoanHoldExpiry n p s
  | .pioShift n g e rx cut lost => Sys2Proof.Machine.execPioShift n g e rx cut lost s
  | .pioSet n g e lost => Sys2Proof.Machine.execPioSet n g e lost s
  | .pioWait n g e onTick => Sys2Proof.Machine.execPioWait n g e onTick s
  | .pioWaitSatisfied n g e onTick => Sys2Proof.Machine.execPioWaitSatisfied n g e onTick s
  | .pioJmp n g e => Sys2Proof.Machine.execPioJmp n g e s
  | .pioPull n g e => Sys2Proof.Machine.execPioPull n g e s
  | .pioPullUnstall n g e => Sys2Proof.Machine.execPioPullUnstall n g e s
  | .pioUnderflow n g e => Sys2Proof.Machine.execPioUnderflow n g e s
  | .pioPush n g e => Sys2Proof.Machine.execPioPush n g e s
  | .pioEvent n g e => Sys2Proof.Machine.execPioEvent n g e s
  | .pioLoad n g e => Sys2Proof.Machine.execPioLoad n g e s
  | .pioMov n g e => Sys2Proof.Machine.execPioMov n g e s
  | .pioDrop n g e => Sys2Proof.Machine.execPioDrop n g e s
  | .pioHalt n g e => Sys2Proof.Machine.execPioHalt n g e s
  | .pioIllegal n g e => Sys2Proof.Machine.execPioIllegal n g e s
  | .pioDelayExpiry n g e => Sys2Proof.Machine.execPioDelayExpiry n g e s
  | .pioStretchRelease n g e rx cut lost => Sys2Proof.Machine.execPioStretchRelease n g e rx cut lost s
  | .pioEopIdleClose n g e => Sys2Proof.Machine.execPioEopIdleClose n g e s
  | .pioInEdge n g e rise => Sys2Proof.Machine.execPioInEdge n g e rise s
  | .pioSyncStart n g val => Sys2Proof.Machine.execPioSyncStart n g val s
  | .pioSyncRestart n g val => Sys2Proof.Machine.execPioSyncRestart n g val s
  | .pioSyncTimeReached n g => Sys2Proof.Machine.execPioSyncTimeReached n g s
  | .pioHaltCmd n g mask cuts => Sys2Proof.Machine.execPioHaltCmd n g mask cuts s
  | .evfSet n g val => Sys2Proof.Machine.execEvfSet n g val s
  | .evfClr n g val => Sys2Proof.Machine.execEvfClr n g val s
  | .pioProgWrite n g w val => Sys2Proof.Machine.execPioProgWrite n g w val s
  | .canEnable n c val => Sys2Proof.Machine.execCanEnable n c val s
  | .canDisable n c val => Sys2Proof.Machine.execCanDisable n c val s
  | .canSleep n c busIdle => Sys2Proof.Machine.execCanSleep n c busIdle s
  | .canWake n c => Sys2Proof.Machine.execCanWake n c s
  | .canRecover n c => Sys2Proof.Machine.execCanRecover n c s
  | .canTxCancel n c j won => Sys2Proof.Machine.execCanTxCancel n c j won s
  | .canIntegrated n c => Sys2Proof.Machine.execCanIntegrated n c s
  | .canRecoveryDone n c => Sys2Proof.Machine.execCanRecoveryDone n c s
  | .canObjectLoad n c => Sys2Proof.Machine.execCanObjectLoad n c s
  | .canObjectRequest n c j => Sys2Proof.Machine.execCanObjectRequest n c j s
  | .canArbLost n c newer => Sys2Proof.Machine.execCanArbLost n c newer s
  | .canTxCommit n c newer loop ago => Sys2Proof.Machine.execCanTxCommit n c newer loop ago s
  | .canTxError n c newer lec dTec dRec dup eof7 => Sys2Proof.Machine.execCanTxError n c newer lec dTec dRec dup eof7 s
  | .canDupHoldEnd n c j => Sys2Proof.Machine.execCanDupHoldEnd n c j s
  | .canFrameReceive n c ident fdf brs esi dlc bytes ago => Sys2Proof.Machine.execCanFrameReceive n c ident fdf brs esi dlc bytes ago s
  | .canBusWake n c => Sys2Proof.Machine.execCanBusWake n c s
  | .canLoanHoldExpiry n c => Sys2Proof.Machine.execCanLoanHoldExpiry n c s
  | .canObjectCaptureRead req n c j => Sys2Proof.Machine.execCanObjectCaptureRead req n c j s
  | .sigInput => Sys2Proof.Machine.execSigInput s
  | .signalFrame src ep bytes => Sys2Proof.Machine.execSignalFrame src ep bytes s
  | .sigPeriodExpiry m => Sys2Proof.Machine.execSigPeriodExpiry m s
  | .sigMinGapExpiry m => Sys2Proof.Machine.execSigMinGapExpiry m s
  | .sigEntryWrite val => Sys2Proof.Machine.execSigEntryWrite val s
  | .sigEntryRead val => Sys2Proof.Machine.execSigEntryRead val s
  | .fbDeviceRequest fb => Sys2Proof.Machine.execFbDeviceRequest fb s
  | .fbResponse fb => Sys2Proof.Machine.execFbResponse fb s
  | .bridgeBusGrant bus => Sys2Proof.Machine.execBridgeBusGrant bus s
  | .bridgePcieCompletion error bytes => Sys2Proof.Machine.execBridgePcieCompletion error bytes s
  | .bridgeFarTimeout bus id => Sys2Proof.Machine.execBridgeFarTimeout bus id s
  | .bridgeLockTimeout near => Sys2Proof.Machine.execBridgeLockTimeout near s
  | .bridgeRetryTimer id => Sys2Proof.Machine.execBridgeRetryTimer id s
  | .csiFrameStart c vc fn => Sys2Proof.Machine.execCsiFrameStart c vc fn s
  | .csiLine c vc dt bytes headerOk crcOk => Sys2Proof.Machine.execCsiLine c vc dt bytes headerOk crcOk s
  | .csiFrameEnd c vc => Sys2Proof.Machine.execCsiFrameEnd c vc s
  | .camEnable c val => Sys2Proof.Machine.execCamEnable c val s
  | .camDisable c val => Sys2Proof.Machine.execCamDisable c val s
  | .camIdReadDone c ack value => Sys2Proof.Machine.execCamIdReadDone c ack value s
  | .camInitDone c ack => Sys2Proof.Machine.execCamInitDone c ack s
  | .visSettingsSet c => Sys2Proof.Machine.execVisSettingsSet c s
  | .cciWriteDone c ack => Sys2Proof.Machine.execCciWriteDone c ack s
  | .cciLatchPoint c frame => Sys2Proof.Machine.execCciLatchPoint c frame s
  | .cciDirectCmd c val => Sys2Proof.Machine.execCciDirectCmd c val s
  | .cciDirectDone c ack data => Sys2Proof.Machine.execCciDirectDone c ack data s
  | .pipeLineTake => Sys2Proof.Machine.execPipeLineTake s
  | .visOutputEnable c k val => Sys2Proof.Machine.execVisOutputEnable c k val s
  | .visStreamSend => Sys2Proof.Machine.execVisStreamSend s
  | .stagingRelease => Sys2Proof.Machine.execStagingRelease s
  | .streamFrame ep bytes => Sys2Proof.Machine.execStreamFrame ep bytes s
  | .sinkIncompleteTimeout k => Sys2Proof.Machine.execSinkIncompleteTimeout k s
  | .csitxRowSend t => Sys2Proof.Machine.execCsitxRowSend t s
  | .twinPairingStart => Sys2Proof.Machine.execTwinPairingStart s
  | .twinHello id slot role mode pairId epoch img => Sys2Proof.Machine.execTwinHello id slot role mode pairId epoch img s
  | .twinSyncDone config => Sys2Proof.Machine.execTwinSyncDone config s
  | .twinJournal seq body => Sys2Proof.Machine.execTwinJournal seq body s
  | .twinEpochEnd epoch => Sys2Proof.Machine.execTwinEpochEnd epoch s
  | .twinDigest epoch digest health => Sys2Proof.Machine.execTwinDigest epoch digest health s
  | .twinDigestTimeout => Sys2Proof.Machine.execTwinDigestTimeout s
  | .twinCopy seq body => Sys2Proof.Machine.execTwinCopy seq body s
  | .twinCopyAck seq => Sys2Proof.Machine.execTwinCopyAck seq s
  | .twinCkptTimer => Sys2Proof.Machine.execTwinCkptTimer s
  | .twinLedgerReq switchOver => Sys2Proof.Machine.execTwinLedgerReq switchOver s
  | .twinLedger entries pins dike => Sys2Proof.Machine.execTwinLedger entries pins dike s
  | .twinLedgerReadTimeout entries pins dike => Sys2Proof.Machine.execTwinLedgerReadTimeout entries pins dike s
  | .twinTake req val => Sys2Proof.Machine.execTwinTake req val s
  | .twinResync req val => Sys2Proof.Machine.execTwinResync req val s
  | .witnessBeat pair a b => Sys2Proof.Machine.execWitnessBeat pair a b s
  | .witnessSwitchOver val a b => Sys2Proof.Machine.execWitnessSwitchOver val a b s
  | .intAccept b => Sys2Proof.Machine.execIntAccept b s
  | .intEntryDone b => Sys2Proof.Machine.execIntEntryDone b s
  | .intComplete req b val low => Sys2Proof.Machine.execIntComplete req b val low s
  | .intExitDone b => Sys2Proof.Machine.execIntExitDone b s
  | .intPendSet bank w val => Sys2Proof.Machine.execIntPendSet bank w val s
  | .intPendClr bank w val => Sys2Proof.Machine.execIntPendClr bank w val s
  | .intMaskSet bank w val => Sys2Proof.Machine.execIntMaskSet bank w val s
  | .intMaskClr bank w val => Sys2Proof.Machine.execIntMaskClr bank w val s
  | .intRouteWrite n val => Sys2Proof.Machine.execIntRouteWrite n val s
  | .faultRecord src info => Sys2Proof.Machine.execFaultRecord src info s
  | .fltAckC val => Sys2Proof.Machine.execFltAckC val s
  | .fltAckU val => Sys2Proof.Machine.execFltAckU val s
  | .fltAckF val => Sys2Proof.Machine.execFltAckF val s
  | .fltActionWrite n val => Sys2Proof.Machine.execFltActionWrite n val s
  | .faultNPulseEnd => Sys2Proof.Machine.execFaultNPulseEnd s
  | .fltRecoverExpiry => Sys2Proof.Machine.execFltRecoverExpiry s
  | .dikeEnable c val => Sys2Proof.Machine.execDikeEnable c val s
  | .dikeDisable c val => Sys2Proof.Machine.execDikeDisable c val s
  | .dikeRestart c val => Sys2Proof.Machine.execDikeRestart c val s
  | .dikePresChange c level => Sys2Proof.Machine.execDikePresChange c level s
  | .dikeDebounceDone c => Sys2Proof.Machine.execDikeDebounceDone c s
  | .dikeLimiterEngage c raws => Sys2Proof.Machine.execDikeLimiterEngage c raws s
  | .dikeLimiterRelease c raws => Sys2Proof.Machine.execDikeLimiterRelease c raws s
  | .dikePgSettleExpiry c => Sys2Proof.Machine.execDikePgSettleExpiry c s
  | .dikeTrip c raws timeout => Sys2Proof.Machine.execDikeTrip c raws timeout s
  | .dikeBackoffEnd c => Sys2Proof.Machine.execDikeBackoffEnd c s
  | .dikeRetryResetTimer c => Sys2Proof.Machine.execDikeRetryResetTimer c s
  | .avsEvaluation counts => Sys2Proof.Machine.execAvsEvaluation counts s
  | .avsSettleExpiry => Sys2Proof.Machine.execAvsSettleExpiry s
  | .avsHoldPoll => Sys2Proof.Machine.execAvsHoldPoll s
  | .pmbusAlert => Sys2Proof.Machine.execPmbusAlert s
  | .pmbusResponse ack data => Sys2Proof.Machine.execPmbusResponse ack data s
  | .avsEnable val => Sys2Proof.Machine.execAvsEnable val s
  | .thermalSample temps => Sys2Proof.Machine.execThermalSample temps s
  | .thermalLimitStep => Sys2Proof.Machine.execThermalLimitStep s
  | .lullAutoStart policyConsents => Sys2Proof.Machine.execLullAutoStart policyConsents s
  | .canRxError n c lec dTec dRec => Sys2Proof.Machine.execCanRxError n c lec dTec dRec s
  | .referenceClocksPresent => Sys2Proof.Machine.execReferenceClocksPresent s

end Sys2Proof.Machine
end

