-- ==== Sys2Proof/Machine/Idle.lean ====
section
/-! DEFINITION. What the block does while no command waits: one tick of the time-counter island (R216), with what follows the
counter by itself (notes/assumptions/2.md). -/

namespace Sys2Proof.Machine

open Sys2Proof.Machine.Reg

/-- R411: a millisecond of `TWIN_CKPT_AGE` since the last complete checkpoint. -/
def State.ageTick (s : State) : State :=
  if s.get TWIN_CKPT_AGE = 0xFFFFFFFF ∨ s.count < s.twin.ageAt + 1000000 then s
  else { s.incSat TWIN_CKPT_AGE with twin := { s.twin with ageAt := s.twin.ageAt + 1000000 } }

/-- R219: an output scheduled in ring time that a step has passed over. -/
inductive Passed where
  | fsync (n : Nat)
  | send (ep : Nat)
  | pps
  deriving DecidableEq, Repr

/-- R219: the outputs whose time lies after ring time `a` and not after `b`, the present one, in time order. -/
def State.passedOver (s : State) (a b : Nat) : List (Nat × Passed) :=
  let edges := (List.range 8).flatMap (fun n => (List.range (s.fsyncDue n)).map (fun i => (s.fsyncTime n ((s.fsync n).k + i), Passed.fsync n)))
  let sends := (s.dlv.work.filter (fun w => w.opcode == 0x10 && decide (a < w.param) && decide (w.param ≤ b))).map (fun w =>
    (w.param, Passed.send w.ep))
  let pps := if a / 1000000000 < b / 1000000000 then [((a / 1000000000 + 1) * 1000000000, Passed.pps)] else []
  (edges ++ sends ++ pps).mergeSort (fun x y => x.1 ≤ y.1)

/-- R219: one of them fires. -/
def State.firePassed (s : State) : Passed → State
  | .fsync n => s.fsyncFire n
  | .pps => s.ppsRise
  | .send ep =>
    match unitOf ep with
    | .line n p => nextOf (execDioEntryApply (Fin.ofNat 6 n) (Fin.ofNat 64 p) (s.lineEntry n p)) s
    | _ => s.startSend ep

/-- R218, R219: what was written to the rate and as steps since the last tick takes effect at this one; what a forward step passes over
fires at once. -/
def State.retime (s : State) : State :=
  let s := s.takeRate
  let a := s.ringTime
  let stepped : Bool := s.time.stepNext.isSome
  let s := s.takeStep
  if stepped ∧ a < s.ringTime then (s.passedOver a s.ringTime).foldl (fun s e => s.firePassed e.2) s else s

/-- R216: a tick of the 1 GHz time counter, which advances only while `REFCLK_TIME` is present and the node has power.
Level sources follow their inputs (R413), acknowledgements that a halt owes and the ACK entries gathered leave (R289, R160), and HIF looks again at the items that
wait for room (R189). -/
def State.idleTick (s : State) : State :=
  if s.node.off ∨ ¬ s.node.refTime then s
  else (((s.put64 TIME_COUNT_LO TIME_COUNT_HI (s.count + 1)).retime.ageTick.latchLevels).payFails).flushAcks.hifPump

end Sys2Proof.Machine
end

