-- ==== Sys2Proof/WellFormed.lean ====
section
/-! DEFINITION. What commands can come: the ranges of the operands whose types do not already bound them. Meanings are total, and
say what happens outside these ranges too. -/

namespace Sys2Proof

/-! ### The checks -/

/-- A byte, half word, word or 64-bit value. -/
def isByte (v : Nat) : Bool := decide (v < 256)
def isHalf (v : Nat) : Bool := decide (v < 2 ^ 16)
def isWord (v : Nat) : Bool := decide (v < 2 ^ 32)
def isLong (v : Nat) : Bool := decide (v < 2 ^ 64)
def isBit (v : Nat) : Bool := decide (v < 2)

/-- R6: an offset in BAR0, which is 64 MiB, and that of a register. -/
def isOff (off : Nat) : Bool := decide (off < 0x4000000)
def isReg (off : Nat) : Bool := isOff off && off % 4 == 0

/-- R6: a read of up to 4,096 bytes inside BAR0. -/
def isRead (a len : Nat) : Bool := decide (1 ≤ len ∧ len ≤ 4096 ∧ a + len ≤ 0x4000000)

/-- R67: a MAC address. -/
def isMac (m : Nat) : Bool := decide (m < 2 ^ 48)

/-- R148: a node ID, 1-254. -/
def isNode (n : Nat) : Bool := decide (1 ≤ n ∧ n ≤ 254)

/-- R77: a node map of 256 bits. -/
def isNodeSet (v : Nat) : Bool := decide (v < 2 ^ 256)

/-- R121: a WSN, 1 to 2^48 - 1. -/
def isWsn (w : Nat) : Bool := decide (1 ≤ w ∧ w < 2 ^ 48)

/-- R147: a local endpoint; 0-2 also name the ring and twin ports. -/
def isEp (ep : Nat) : Bool := decide (ep < 4096)

/-- R11: a requester: P1-P8, and nodes by their ID. -/
def isRequester : Requester → Bool
  | .host => true
  | .supervisor => true
  | .proc n => decide (1 ≤ n ∧ n ≤ 8)
  | .remote n => isNode n

/-- R494: a write inside the BAR2 window. -/
def isBar2 (off : Nat) (bytes : List Byte) : Bool := decide (off + bytes.length ≤ 0x1000000)

/-- R62: a block of at most 1,044 bytes. -/
def isBlock (bytes : List Byte) : Bool := decide (bytes.length ≤ 1044)

/-- R143: a K-frame's payload, a segment of data (R146), a whole K-frame, and a frame in the switch (R183). -/
def isPayload (bytes : List Byte) : Bool := decide (bytes.length ≤ 2048)
def isSegment (bytes : List Byte) : Bool := decide (bytes.length ≤ 2032)
def isFrame (bytes : List Byte) : Bool := decide (21 ≤ bytes.length ∧ bytes.length ≤ 2092)
def isSwitchFrame (bytes : List Byte) : Bool := decide (bytes.length ≤ 65536)

/-- R150: the IDs of a map. -/
def isMap (ids : List Nat) : Bool := decide (ids.length ≤ 254) && ids.all isByte

/-- R163: the entries of an EP_STATE frame. -/
def areEntries (l : List (Nat × Nat)) : Bool := decide (l.length ≤ 507) && l.all (fun e => isEp e.1 && decide (e.2 < 32))

/-- R166: the words of a remote access. -/
def areWords (l : List Word) : Bool := decide (l.length ≤ 256)

/-- R86: a doorbell or head line of 64 bytes. -/
def isLine : Option (List Word64) → Bool
  | none => true
  | some l => l.length == 8

/-- R91, R92: at most 16 descriptors of 32 bytes. -/
def areDescs : Option (List (List Byte)) → Bool
  | none => true
  | some l => decide (l.length ≤ 16) && l.all (fun d => d.length == 32)

/-- R121: a delivery tag. -/
def isTag (t : Tag) : Bool :=
  isNode t.src && isWord t.gen && isWsn t.wsn && decide (t.prev < 2 ^ 48) && decide (t.retired < 2 ^ 48) && isByte t.sq

/-- R160: the entries of an ACK frame. -/
def areAcks (l : List AckEntry) : Bool :=
  l.all (fun e => isWord e.gen && decide (e.wsn < 2 ^ 48) && isByte e.sq && isByte e.result && isEp e.endpoint && isByte e.detail)

/-- R124: `LEDGER` of RESYNC: 1 KEPT, 2 NEW. -/
def isLedgerCode (v : Nat) : Bool := v == 1 || v == 2

/-- R132: the journal's header and its WSN table as they are read. -/
def isHeader : Option Nat → Bool
  | none => true
  | some g => isWord g
def isTable (l : List (Nat × Nat × Nat)) : Bool := l.all (fun (q, a, b) => isByte q && decide (a < 2 ^ 48) && decide (b < 2 ^ 48))

/-- R116: the records of the journal's ring, 64 bytes each, with their payloads. -/
def areRecords (l : List (Nat × List Byte × List Byte)) : Bool := l.all (fun (i, r, _) => decide (i < 2 ^ 20) && r.length == 64)

/-- R283: the bits sampled by a shift of a group. -/
def isGroup (rx : List Bool) : Bool := decide (rx.length ≤ 32)

/-- R289: how far halted engines have come: engine, bits and samples. -/
def areCuts (l : List (Nat × Nat × List Bool)) : Bool := l.all (fun (e, k, bs) => decide (e < 8 ∧ k ≤ 32) && isGroup bs)

/-- R301: the data of a CAN FD frame. -/
def isCanData (bytes : List Byte) : Bool := decide (bytes.length ≤ 64)

/-- R332: the data of a PCIe completion. -/
def isPage (bytes : List Byte) : Bool := decide (bytes.length ≤ 4096)

/-- R347: a CSI-2 data type of 6 bits. -/
def isDt (v : Nat) : Bool := decide (v < 64)

/-- R413: interrupt sources: shared below 1024, private from there on. -/
def areSources (l : List Nat) : Bool := l.all (fun n => decide (n < 1280))

/-- R426: at most four information words. -/
def isInfo (l : List Word) : Bool := decide (l.length ≤ 4)

/-- R463: the readings of the 16 die sensors. -/
def areTemps (l : List (BitVec 8)) : Bool := l.length == 16

/-- R411: a twin role. -/
def isRole (v : Nat) : Bool := decide (v < 3)

/-- R401: configuration writes. -/
def areWrites (l : List (Nat × Word)) : Bool := l.all (fun e => isReg e.1)

/-- R402: a journal input. -/
def isJournal : JournalBody → Bool
  | .frame tag ep cls param opcode length segOff _ bytes =>
    isTag tag && isEp ep && decide (cls < 8) && isLong param && isByte opcode && isWord length && isWord segOff && isSegment bytes
  | .router ep ident bytes => isEp ep && ident.all isWord && isSwitchFrame bytes
  | .commit _ wsn => isWsn wsn
  | .config off val => isReg off && isWord val

/-- R400, R401: the content of a COPY frame. -/
def isCopy : CopyBody → Bool
  | .item tag ep cls opcode param length _ => isTag tag && isEp ep && decide (cls < 8) && isByte opcode && isLong param && isWord length
  | .signals _ values => values.all (fun e => decide (e.1 < 2 ^ 18) && isLong e.2)
  | .messages copies => copies.all (fun e => decide (e.1 < 4096))
  | .config off val => isReg off && isWord val

/-- R122: ledger entries as they are read: key, PENDING, `GEN`, `LAST_WSN` and `PEND_WSN`. -/
def areReads (l : List (Nat × Bool × Nat × Nat × Nat)) : Bool :=
  l.all (fun (k, _, g, a, b) => decide (k < 2 ^ 28) && isWord g && decide (a < 2 ^ 48) && decide (b < 2 ^ 48))

/-! ### Commands -/

/-- The operands of a command are in their ranges. -/
def Instr.wellFormed : Instr → Bool
  | .registerWrite req off _ => isRequester req && isReg off
  | .bar0PartialWrite req off => isRequester req && isOff off
  | .regPairLoRead req off => isRead off.addr off.len && isRequester req
  | .regPairLoWrite req off _ => isRequester req && isReg off
  | .svLockstep => true
  | .islUnderrun _ _ => true
  | .refclkLoss _ => true
  | .refclkReturn _ => true
  | .paceThreat _ _ => true
  | .flowControlRelease _ => true
  | .glbPdOnSet req _ => isRequester req
  | .glbPdOnClr req _ => isRequester req
  | .domainPowerUpStart _ => true
  | .domainPowerUpDone _ => true
  | .domainDrainStart _ => true
  | .domainDrainEnd _ => true
  | .domainPowerOffDone _ => true
  | .modeReqActive => true
  | .modeReqService => true
  | .modeReqDormant => true
  | .modeReqNotAllowed _ => true
  | .serviceEntryComplete => true
  | .dormantEntryComplete => true
  | .porAssert => true
  | .porRelease _ _ _ _ _ => true
  | .supplyLoss => true
  | .perstAssert => true
  | .perstRelease => true
  | .glbResetWarm req => isRequester req
  | .glbResetNode req => isRequester req
  | .svWatchdogService _ => true
  | .svWatchdogWarning => true
  | .svWatchdogExpiry => true
  | .loaderResetEnd sizeGiB => isByte sizeGiB
  | .bootBar2Post _ => true
  | .bar2SlotConsumed => true
  | .bar2Write off bytes => isBar2 off bytes
  | .svcBootDatagram g => isMac g.dstMac && isMac g.srcMac && isWord g.dstIp && isWord g.srcIp && isHalf g.dstPort && isHalf g.srcPort && isPayload g.bytes
  | .bootBlockFrame _ src bytes => isNode src.num && isPayload bytes
  | .bootReplyFrame node offset status detail loadStatus loadId => isNode node && isWord offset && isByte status && isHalf detail && isByte loadStatus && isWord loadId
  | .bootHeaderBlock _ bytes => isBlock bytes
  | .bootImageBlock _ bytes => isBlock bytes
  | .bootStartBlock _ bytes => isBlock bytes
  | .bootRestartBlock _ bytes => isBlock bytes
  | .bootCtrlRestart => true
  | .bootCtrlRestartStage => true
  | .imageVerifyDone => true
  | .processorsReady => true
  | .actArmCmd _ => true
  | .actCancelCmd => true
  | .actReportDeadline => true
  | .actRoundEnd => true
  | .actArmFrame time crc gap seq nodes => isLong time && isWord crc && isHalf gap && isHalf seq.num && isNodeSet nodes
  | .actCancelFrame seq => isHalf seq.num
  | .actReportFrame seq node code => isHalf seq && isNode node && isByte code
  | .activationTime => true
  | .actProcessorsStopped => true
  | .actP0Running => true
  | .actAllReady => true
  | .actTimerExpiry => true
  | .calLoadShadow => true
  | .calCommit => true
  | .calErase => true
  | .calCommitDone => true
  | .calEraseDone => true
  | .hqCtrlEn _ => true
  | .sqEnable _ _ => true
  | .sqDisable _ _ => true
  | .cqEnable _ _ => true
  | .doorbellPollIssue _ => true
  | .doorbellPollReturn _ words => isLine words
  | .cqHeadPoll _ => true
  | .cqHeadReadReturn _ words => isLine words
  | .descFetchIssue => true
  | .descFetchReturn _ descs => areDescs descs
  | .payloadReadDone _ num _ => isWord num
  | .itemAccept _ num => isWord num
  | .journalFlushReadDone _ => true
  | .cqRecordWrite _ => true
  | .cqModTimeExpiry _ => true
  | .msixVectorUnmask _ => true
  | .hostWritesBlocked => true
  | .hostWritesResumed => true
  | .nop _ num => isWord num
  | .fence _ num => isWord num
  | .send _ => true
  | .sendTimeReached _ => true
  | .sigUpdate src sq wsn => isNode src && isByte sq && isWsn wsn
  | .regWrite src sq wsn => isNode src && isByte sq && isWsn wsn
  | .regRead src sq wsn => isNode src && isByte sq && isWsn wsn
  | .bridgeWrite src sq wsn => isNode src && isByte sq && isWsn wsn
  | .bridgeRead src sq wsn => isNode src && isByte sq && isWsn wsn
  | .bulkPut src sq wsn => isNode src && isByte sq && isWsn wsn
  | .bulkGet src sq wsn => isNode src && isByte sq && isWsn wsn
  | .rxPost src sq wsn => isNode src && isByte sq && isWsn wsn
  | .dataFrame tag _ _ param opcode length segOff _ bytes => isTag tag && isLong param && isByte opcode && isWord length && isWord segOff && isSegment bytes
  | .returnFrame tag segOff _ bytes => isTag tag && isWord segOff && isSegment bytes
  | .ackFrame src entries => isNode src && areAcks entries
  | .ackTimeoutExpiry _ wsn => isWsn wsn
  | .resyncFrame src seq ledger => isNode src && isHalf seq && isLedgerCode ledger
  | .journalEnable _ header table => isHeader header && isTable table
  | .journalScanDone records => areRecords records
  | .journalWaitGenExpiry => true
  | .journalReplayDone => true
  | .portDown port => isEp port
  | .linkReturn port => isEp port
  | .linkStableExpiry port => isEp port
  | .holdTimeExpiry port => isEp port
  | .destAbsentExpiry node => isNode node
  | .ringSignalDetect _ => true
  | .ringTrainingDone _ => true
  | .ringPortLoss _ _ => true
  | .creditOs _ _ cells => isHalf cells
  | .creditReturnTimer _ => true
  | .ringTransitFrame _ bytes => isFrame bytes
  | .ringEnable => true
  | .enumStart => true
  | .enumFrame _ src round hops _ => isByte src.node && isHalf round && isByte hops
  | .enumReportFrame uid claim mode flags hops round => isLong uid && isByte claim && isByte mode && isByte flags && isHalf hops && isHalf round
  | .enumMapTimer => true
  | .mapFrame src round n flags ids => isByte src && isHalf round && isByte n && isByte flags && isMap ids
  | .enumRestartTimer => true
  | .protectFrame src seq kind port => isNode src && isHalf seq && isByte kind && isByte port
  | .epStateFrame src _ _ hops version up draining fenced _ _ entries => isNode src.node && isByte hops && isWord version && isWord up && isWord draining && isWord fenced && areEntries entries
  | .epFlushFrame src version => isNode src && isWord version
  | .epStateRetransmit => true
  | .raReqFrame src seq offset count write reserved payLen words => isNode src.num && isHalf seq && isWord offset && isHalf count && isByte write && isByte reserved && isHalf payLen && areWords words
  | .raRspFrame src seq status count words => isNode src && isHalf seq && isByte status && isHalf count && areWords words
  | .raTimeout seq => isHalf seq
  | .lullStart _ => true
  | .lullAbort => true
  | .lullWakeCmd => true
  | .lullClearLog => true
  | .lullTokenFrame round n consents _ _ => isHalf round.round && isByte n && isByte consents
  | .lullCommitFrame round => isHalf round.round
  | .lullRefuseFrame src round reason => isNode src && isHalf round && isByte reason
  | .lullVoidFrame src round reason => isNode src && isHalf round && isByte reason
  | .lullRoundTimeout => true
  | .lullSetOff => true
  | .lullSetUp => true
  | .wakeInAssert => true
  | .ringWakeArm _ => true
  | .ringActivityWake _ => true
  | .ringQuietTimer _ => true
  | .aonCanWake _ => true
  | .pswTake => true
  | .pswTakePulseEnd => true
  | .pswSenseChange _ => true
  | .pswTakeTimeout => true
  | .pldFrameLink _ _ _ _ _ bytes => isSwitchFrame bytes
  | .pldFlush _ => true
  | .pldFlushDone => true
  | .schFrameStart _ => true
  | .frameEgressEnd _ => true
  | .voqPromotion _ _ _ => true
  | .weirRateWrite _ _ _ => true
  | .weirBurstWrite _ _ _ => true
  | .gclCommit _ _ => true
  | .gclDisable _ => true
  | .gclAbort _ => true
  | .gclStartTime _ => true
  | .gclEntryBoundary _ => true
  | .guardBandStart _ _ => true
  | .timeRateWrite _ => true
  | .timeStepWrite req _ => isRequester req
  | .lockNow => true
  | .timeLockAchieved => true
  | .timeUpstreamTimeout => true
  | .timeSyncTimer _ _ => true
  | .timeSyncOs _ _ _ => true
  | .timeReplyOs _ _ => true
  | .timeSyncFrame _ bytes => isPayload bytes
  | .servoWindowEnd _ => true
  | .fsyncEnable _ _ => true
  | .fsyncEdge _ => true
  | .fsyncPulseEnd _ => true
  | .fsyncHeldRelease _ => true
  | .ppsOutEdge _ => true
  | .ppsInEdge => true
  | .qsgmiiSyncLoss _ => true
  | .qsgmiiControlWord _ _ _ _ => true
  | .ethLinkUpTimer _ => true
  | .ethPortEnable _ _ => true
  | .ethPortDisable _ _ => true
  | .ethDrainDone _ => true
  | .ethFrameReceive _ _ => true
  | .ethPauseReceive _ _ => true
  | .ethPauseExpiry _ => true
  | .ethPauseRepeat _ => true
  | .ethTxCommit _ => true
  | .pinFuncWrite _ _ _ => true
  | .rxPacketToSlice _ _ => true
  | .txFifoWrite _ _ => true
  | .flushRx _ _ => true
  | .flushTx _ _ => true
  | .fifoFlushDone _ _ => true
  | .dropRx _ _ => true
  | .dropTx _ _ => true
  | .dioTimedEntry _ _ => true
  | .dioEntryApply _ _ => true
  | .dioOutSet _ _ _ => true
  | .dioOutClr _ _ _ => true
  | .dioDirWrite _ _ _ => true
  | .dioRawChange _ _ _ => true
  | .dioDebounceExpiry _ _ => true
  | .evtLoanHoldExpiry _ _ => true
  | .pioShift _ _ _ rx _ _ => isGroup rx
  | .pioSet _ _ _ _ => true
  | .pioWait _ _ _ _ => true
  | .pioWaitSatisfied _ _ _ _ => true
  | .pioJmp _ _ _ => true
  | .pioPull _ _ _ => true
  | .pioPullUnstall _ _ _ => true
  | .pioUnderflow _ _ _ => true
  | .pioPush _ _ _ => true
  | .pioEvent _ _ _ => true
  | .pioLoad _ _ _ => true
  | .pioMov _ _ _ => true
  | .pioDrop _ _ _ => true
  | .pioHalt _ _ _ => true
  | .pioIllegal _ _ _ => true
  | .pioDelayExpiry _ _ _ => true
  | .pioStretchRelease _ _ _ rx _ _ => isGroup rx
  | .pioEopIdleClose _ _ _ => true
  | .pioInEdge _ _ _ _ => true
  | .pioSyncStart _ _ _ => true
  | .pioSyncRestart _ _ _ => true
  | .pioSyncTimeReached _ _ => true
  | .pioHaltCmd _ _ _ cuts => areCuts cuts
  | .evfSet _ _ _ => true
  | .evfClr _ _ _ => true
  | .pioProgWrite _ _ _ _ => true
  | .canEnable _ _ _ => true
  | .canDisable _ _ _ => true
  | .canSleep _ _ _ => true
  | .canWake _ _ => true
  | .canRecover _ _ => true
  | .canTxCancel _ _ _ _ => true
  | .canIntegrated _ _ => true
  | .canRecoveryDone _ _ => true
  | .canObjectLoad _ _ => true
  | .canObjectRequest _ _ _ => true
  | .canArbLost _ _ _ => true
  | .canTxCommit _ _ _ _ _ => true
  | .canTxError _ _ _ _ _ _ _ _ => true
  | .canDupHoldEnd _ _ _ => true
  | .canFrameReceive _ _ _ _ _ _ _ bytes _ => isCanData bytes
  | .canBusWake _ _ => true
  | .canLoanHoldExpiry _ _ => true
  | .canObjectCaptureRead req _ _ _ => isRequester req
  | .sigInput => true
  | .signalFrame src _ bytes => isNode src && isPayload bytes.bytes
  | .sigPeriodExpiry _ => true
  | .sigMinGapExpiry _ => true
  | .sigEntryWrite _ => true
  | .sigEntryRead _ => true
  | .fbDeviceRequest _ => true
  | .fbResponse _ => true
  | .bridgeBusGrant _ => true
  | .bridgePcieCompletion _ bytes => isPage bytes
  | .bridgeFarTimeout _ _ => true
  | .bridgeLockTimeout _ => true
  | .bridgeRetryTimer _ => true
  | .csiFrameStart _ _ _ => true
  | .csiLine _ _ dt _ _ _ => isDt dt
  | .csiFrameEnd _ _ => true
  | .camEnable _ _ => true
  | .camDisable _ _ => true
  | .camIdReadDone _ _ value => isHalf value
  | .camInitDone _ _ => true
  | .visSettingsSet _ => true
  | .cciWriteDone _ _ => true
  | .cciLatchPoint _ frame => isWord frame
  | .cciDirectCmd _ _ => true
  | .cciDirectDone _ _ _ => true
  | .pipeLineTake => true
  | .visOutputEnable _ _ _ => true
  | .visStreamSend => true
  | .stagingRelease => true
  | .streamFrame _ bytes => isPayload bytes
  | .sinkIncompleteTimeout _ => true
  | .csitxRowSend _ => true
  | .twinPairingStart => true
  | .twinHello id slot role mode pairId epoch img => isNode id && isBit slot && isRole role && isBit mode && isByte pairId && isHalf epoch && isWord img
  | .twinSyncDone config => areWrites config
  | .twinJournal seq body => isWord seq && isJournal body
  | .twinEpochEnd epoch => isLong epoch
  | .twinDigest epoch digest _ => isLong epoch && isWord digest
  | .twinDigestTimeout => true
  | .twinCopy seq body => isWord seq && isCopy body
  | .twinCopyAck seq => isWord seq
  | .twinCkptTimer => true
  | .twinLedgerReq _ => true
  | .twinLedger entries _ _ => areReads entries
  | .twinLedgerReadTimeout entries _ _ => areReads entries
  | .twinTake req _ => isRequester req
  | .twinResync req _ => isRequester req
  | .witnessBeat _ _ _ => true
  | .witnessSwitchOver _ _ _ => true
  | .intAccept _ => true
  | .intEntryDone _ => true
  | .intComplete req _ _ low => isRequester req && areSources low
  | .intExitDone _ => true
  | .intPendSet _ _ _ => true
  | .intPendClr _ _ _ => true
  | .intMaskSet _ _ _ => true
  | .intMaskClr _ _ _ => true
  | .intRouteWrite _ _ => true
  | .faultRecord _ info => isInfo info
  | .fltAckC _ => true
  | .fltAckU _ => true
  | .fltAckF _ => true
  | .fltActionWrite _ _ => true
  | .faultNPulseEnd => true
  | .fltRecoverExpiry => true
  | .dikeEnable _ _ => true
  | .dikeDisable _ _ => true
  | .dikeRestart _ _ => true
  | .dikePresChange _ _ => true
  | .dikeDebounceDone _ => true
  | .dikeLimiterEngage _ _ => true
  | .dikeLimiterRelease _ _ => true
  | .dikePgSettleExpiry _ => true
  | .dikeTrip _ _ _ => true
  | .dikeBackoffEnd _ => true
  | .dikeRetryResetTimer _ => true
  | .avsEvaluation _ => true
  | .avsSettleExpiry => true
  | .avsHoldPoll => true
  | .pmbusAlert => true
  | .pmbusResponse _ _ => true
  | .avsEnable _ => true
  | .thermalSample temps => areTemps temps
  | .thermalLimitStep => true
  | .lullAutoStart _ => true
  | .canRxError _ _ _ _ _ => true
  | .referenceClocksPresent => true

end Sys2Proof
end

