-- ==== Sys2Proof/Safety.lean ====
section
/-! DEFINITION. What counts as a safe run, in the terms that claims use: memories in their canonical form, register fields at
rising keys, and waiting commands that are well formed. -/

namespace Sys2Proof

open Sys2Proof.Machine

/-- The three memories of the block, LPDDR5, the BAR2 window and the cells of the Polder, are in canonical form, and register
fields are listed at rising keys. -/
def Canonical (s : State) : Bool :=
  Memory.wf s.mem && Memory.wf s.bar2 && Memory.wf s.pld.mem && SMap.sorted s.regs

/-- A state that a run of well-formed commands can be in. -/
def Safe (s : State) : Bool := Canonical s && s.pending.all Instr.wellFormed

/-- A command completes: it answers a next state. -/
def Completes (c : Instr) (s : State) : Prop := ∃ t, exec c s = .next t

end Sys2Proof
end

