-- ==== Sys2Proof/Certificates/Slice0/Obligations.lean ====
section
/-! DEFINITION. The statements for the provers. Each formalises rules of the spec that its docstring names; the commands of a family
are stated together, one clause for each condition under which a command has its effect, and the next state is written with the
operations of the model that the rule calls for. -/

section Statements

open Sys2Proof Sys2Proof.Machine Sys2Proof.Machine.Reg

/-- R12, R21: A step runs the command at the front of the queue. For every command and every state, the step of the state with
that command at the front of its queue is the command carried out on the state with the queue's rest. (The queue of waiting
commands is the model's: notes/assumptions/1.md.) -/
def Obligations.StepRunsFront : Prop :=
  ∀ (c : Instr) (rest : List Instr) (s : State), step { s with pending := c :: rest } = exec c { s with pending := rest }

/-- R216: On an empty queue the time counter advances by one. On an empty queue a step is one tick of the time-counter island:
without power or REFCLK_TIME the state stays as it is; with both, and nothing left to do at a tick (no rate or step written,
no acknowledgement owed or gathered, no item waiting for room), the 64-bit counter advances by 1, modulo 2^64, and LPDDR5 is
as it was. That a tick passes exactly when no command waits is the model's choice (notes/assumptions/2.md). -/
def Obligations.StepIdle : Prop :=
  (∀ (s : State), s.pending = [] → (s.node.off = true ∨ s.node.refTime = false) → step s = .next s) ∧
  (∀ (s : State), s.pending = [] → s.node.off = false → s.node.refTime = true → s.time.rateNext = none → s.time.stepNext = none →
      s.dlv.owedFail = [] → s.twin.orphans = [] → s.dlv.acks = [] → s.hq.items.all (fun i => i.stage != .waiting) = true →
      ∃ t, step s = .next t ∧ t.count = (s.count + 1) % 2 ^ 64 ∧ t.mem = s.mem)

/-- R15: Every command answers a next state in every state. In every state every command answers a next state: an event that is
not listed for a state leaves the machine in it, so no command faults and none is refused. Under which conditions a command
has its own effect is stated family by family in the other statements. -/
def Obligations.CommandsComplete : Prop :=
  ∀ (c : Instr) (s : State), ∃ t, exec c s = .next t

/-- R12, R21: No command touches the queue or takes back what was sent. Whatever command is carried out, the queue of waiting
commands stays as it is, and what has been sent outward stays sent: the output after it is the output before it with something
appended. So a step takes exactly the front of the queue. -/
def Obligations.QueueAndOutputKept : Prop :=
  (∀ (c : Instr) (s t : State), exec c s = .next t → t.pending = s.pending ∧ ∃ l, t.out = s.out ++ l) ∧
  (∀ (c : Instr) (rest : List Instr) (s t : State), s.pending = c :: rest → step s = .next t → t.pending = rest)

/-- R5, R215, R302: Every step keeps memory and registers in canonical form. The LPDDR5, the BAR2 window and the cells of the
Polder keep their canonical form (addresses strictly rising, no entry equal to what an unlisted address reads as), register
fields stay listed at strictly rising keys, and the waiting commands stay well formed, over every step from every such state. -/
def Obligations.CanonicalStep : Prop :=
  (∀ (s t : State), Canonical s = true → step s = .next t → Canonical t = true) ∧
  (∀ (s t : State), Safe s = true → step s = .next t → Safe t = true)

/-- R5, R10: The state after reset is in canonical form. The invariant of CanonicalStep holds of the state after reset. -/
def Obligations.CanonicalReset : Prop :=
  Safe State.reset = true

/-- R2, R10, R31, R35: Every register holds its Reset column after POR. After POR every register field reads its Reset column, in
particular GLB_ID, GLB_MODE = LOADING, the reset set of domains in GLB_PD_STATUS and the first sequence number of the fault
log; no output has been sent and no command waits. The fields to which the spec gives no number (straps, pin levels, the
calibration block, LPDDR5 contents) are at the values that notes/assumptions/3.md names. -/
def Obligations.ResetValues : Prop :=
  (∀ (f : Field), State.reset.get f = f.reset) ∧
  State.reset.get GLB_ID_PART = 0x0640 ∧ State.reset.get GLB_ID_STEPPING = 0xA1 ∧ State.reset.get GLB_ID_FAMILY = 0x01 ∧
  State.reset.mode = mLOADING ∧ State.reset.get GLB_PD_STATUS = 0x0045F ∧ State.reset.get FLT_SEQ = 1 ∧
  State.reset.out = [] ∧ State.reset.pending = [] ∧ State.reset.dlv.ledger = []

/-- R5: Structures in memory are little-endian. A value of n bytes is laid out with byte i holding bits 8i to 8i+7; what is
written to LPDDR5 so reads back as the value modulo 2^(8n); and a write leaves every other byte of memory as it was. -/
def Obligations.LittleEndian : Prop :=
  (∀ (n v i : Nat), i < n → (leBytes n v).length = n ∧ ((leBytes n v).getD i 0).toNat = v / 256 ^ i % 256) ∧
  (∀ (s : State) (k n v : Nat), leNat ((s.memWrite k (leBytes n v)).memRead k n) = v % 256 ^ n) ∧
  (∀ (s : State) (k j : Nat) (bs : List Byte), j < k ∨ k + bs.length ≤ j →
      Memory.read (s.memWrite k bs).mem j = Memory.read s.mem j)

/-- R8: Offsets that no table defines behave as RSV. At an offset that no register table defines, a write by any requester changes
nothing, and a read returns 0 and changes nothing. -/
def Obligations.UndefinedOffsets : Prop :=
  ∀ (s : State) (req : Requester) (off : Nat) (val : Word), regAt off = none →
      exec (.registerWrite req off val) s = .next s ∧ s.busRead req off = (s, 0)

/-- R428: Acknowledging entries of the fault log. A write of FLT_ACK_C, FLT_ACK_U or FLT_ACK_F removes from the unacknowledged
entries exactly those of its class whose SEQ is not later than the value written; the UNACK bits of FLT_STATUS read 1 exactly
while an entry of their class is unacknowledged; a value later than the last SEQ assigned is ignored and sets
FLT_ERR.CFG_REJECT; the containment in force does not change. -/
def Obligations.Acknowledge : Prop :=
  ∀ (k : Nat) (cmd : Word → Instr),
      ((k = 0 ∧ cmd = .fltAckC) ∨ (k = 1 ∧ cmd = .fltAckU) ∨ (k = 2 ∧ cmd = .fltAckF)) →
      ∀ (s : State) (val : Word),
        (laterThan 32 val.toNat ((s.get FLT_SEQ + 2 ^ 32 - 1) % 2 ^ 32) = true →
          ∃ t, exec (cmd val) s = .next t ∧ t.get FLT_ERR = 1 ∧ t.flt = s.flt ∧ t.get FLT_FENCED = s.get FLT_FENCED ∧
            t.get FLT_STATUS_UNACK_C = s.get FLT_STATUS_UNACK_C ∧ t.get FLT_STATUS_UNACK_U = s.get FLT_STATUS_UNACK_U ∧
            t.get FLT_STATUS_UNACK_F = s.get FLT_STATUS_UNACK_F) ∧
        (laterThan 32 val.toNat ((s.get FLT_SEQ + 2 ^ 32 - 1) % 2 ^ 32) = false →
          ∃ t, exec (cmd val) s = .next t ∧
            t.flt.unack = s.flt.unack.filter (fun e => !(e.2.1 == k && !laterThan 32 e.1 val.toNat)) ∧
            (t.get FLT_STATUS_UNACK_C = if t.flt.unack.any (fun e => e.2.1 == 0) then 1 else 0) ∧
            (t.get FLT_STATUS_UNACK_U = if t.flt.unack.any (fun e => e.2.1 == 1) then 1 else 0) ∧
            (t.get FLT_STATUS_UNACK_F = if t.flt.unack.any (fun e => e.2.1 == 2) then 1 else 0) ∧
            t.get FLT_FENCED = s.get FLT_FENCED ∧ t.get GLB_PD_STATUS = s.get GLB_PD_STATUS ∧ t.mode = s.mode ∧
            t.node = s.node ∧ t.get FLT_ERR = s.get FLT_ERR)

/-- R444: The corrected code of a Dike sample. The corrected code of a raw sample is raw x GAIN / 65,536 + OFFSET / 16 rounded to
the nearest integer, halves away from zero, and clamped to 0 to 4,095, with GAIN and OFFSET from the channel's calibration
entry at byte 0x160 + 8c of the block in force, or 1.0 and 0 with a BLANK block; a sample of a channel that drives nothing
leaves it in CURRENT and changes nothing else. -/
def Obligations.DikeCode : Prop :=
  ∀ (s : State) (c : Fin 16) (raw : BitVec 12) (gain offset : Int),
      (if s.boot.calBlank = true then gain = 65536 ∧ offset = 0
       else gain = s.calWord (0x160 / 4 + 2 * c.val) ∧
         offset = (BitVec.ofNat 16 (s.calWord (0x160 / 4 + 2 * c.val + 1))).toInt) →
      (∃ n : Int, (s.dikeCode c.val raw.toNat : Int) = max 0 (min 4095 n) ∧
        2 * |65536 * n - (raw.toNat * gain + 4096 * offset)| ≤ 65536 ∧
        (2 * |65536 * n - (raw.toNat * gain + 4096 * offset)| = 65536 →
          |raw.toNat * gain + 4096 * offset| < |65536 * n|)) ∧
      (s.dikeRuns = true → s.dkState c.val < 3 ∨ 5 < s.dkState c.val →
        exec (.dikeLimiterEngage c [raw]) s = .next (s.put (DIKE_CH_STATUS_CURRENT c.val) (s.dikeCode c.val raw.toNat)))

/-- R31, R32, R33, R164: Power domains are requested, powered up, drained and taken off. A write of GLB_PD_ON_SET or GLB_PD_ON_CLR
that AON takes sets the error bits of the refused requests, takes the accepted ones into the requested-on state and starts the
transition of each. A domain that waits and whose required domains are up starts its power-up, which ends with its registers
and units at their reset values, the change announced and a copy held since a WARM reset written back. A domain whose
requirers are off starts its drain, which EP_STATE announces; a drain whose flush is held and whose accepted work has been
emitted isolates the domain; an isolated domain goes off, or, when it has been requested on again, waits for its power-up. -/
def Obligations.PowerDomains : Prop :=
  (∀ (s : State) (req : Requester) (val : Word),
      s.aonOpen = true →
      exec (.glbPdOnSet req val) s = .next (((s.orBits GLB_PD_ERR (s.refuseOn (val.toNat % 2 ^ 17))).orBits GLB_PD_ON_SET (s.acceptOn (val.toNat % 2 ^ 17))).each (bitList (s.acceptOn (val.toNat % 2 ^ 17)) 17) State.startOn)) ∧
  (∀ (s : State) (req : Requester) (val : Word),
      s.aonOpen = true →
      exec (.glbPdOnClr req val) s = .next (((s.orBits GLB_PD_ERR (s.refuseOff (val.toNat % 2 ^ 17))).dropBits GLB_PD_ON_SET (s.acceptOff (val.toNat % 2 ^ 17))).each (bitList (s.acceptOff (val.toNat % 2 ^ 17)) 17) State.startOff)) ∧
  (∀ (s : State) (d : Fin 17),
      s.phase d = .upWait →
      (bitList (requiresBits d) 17).all s.isUp = true →
      exec (.domainPowerUpStart d) s = .next (s.setPhase d .upRun)) ∧
  (∀ (s : State) (d : Fin 17),
      s.phase d = .upRun →
      exec (.domainPowerUpDone d) s = .next ((let u := ((s.clearRegs d).freshUnits d).setPhase d .up
   let v := if d.val = dNET then u.showPools else u
   let w : State := { v with node := { v.node with upSincePor := setBit v.node.upSincePor d } }
   (((w.upEndpoints d).epChange []).restoreDomain d).hlogCopy))) ∧
  (∀ (s : State) (d : Fin 17),
      s.phase d = .drainWait →
      s.requirersOff d = true →
      exec (.domainDrainStart d) s = .next ((let u := (s.setPhase d .drainRun).epChange []
   { u with ring := { u.ring with drains := u.ring.drains ++ [{ domain := d, version := u.ring.epVersion, flushed := [] }] } }))) ∧
  (∀ (s : State) (d : Fin 17),
      s.phase d = .drainRun →
      s.drainFlushed d = true →
      s.emittedAll d = true →
      s.requirersOff d = true →
      exec (.domainDrainEnd d) s = .next ((let u := (s.stopDomain d).endThreat d
   State.setPhase { u with ring := { u.ring with drains := u.ring.drains.filter (fun dr => dr.domain != d.val) } } d .isolated))) ∧
  (∀ (s : State) (d : Fin 17),
      s.phase d = .isolated →
      (s.get GLB_PD_ON_SET).testBit d = false →
      exec (.domainPowerOffDone d) s = .next (State.epChange (State.setPhase { s with dlv := { s.dlv with offBits := setBit s.dlv.offBits d } } d .off) [])) ∧
  (∀ (s : State) (d : Fin 17),
      s.phase d = .isolated →
      (s.get GLB_PD_ON_SET).testBit d = true →
      s.isFenced d = false →
      s.node.modeReq ≠ some mDORMANT →
      exec (.domainPowerOffDone d) s = .next (s.setPhase d .upWait))

/-- R36, R37, R38, R39: Mode requests are judged and reach their modes. With AON open, no request pending and no activation under
way, a request for ACTIVE in SERVICE is carried out and ends DONE; a request for SERVICE in ACTIVE is PENDING and the field
pauses; a request for DORMANT in ACTIVE is PENDING and every domain but AON starts on its way off; and any other target, or a
target in a mode for which the table does not list it, ends NOT_ALLOWED and changes nothing else. The event that completes the
entry to SERVICE ends its request DONE in SERVICE; the event that completes the entry to DORMANT, with every domain but AON
off or SV alone isolated, ends its request DONE in DORMANT, and a wake source that fired during the entry is then followed
into LOADING. WAKE_IN in DORMANT is recorded and starts the wake. -/
def Obligations.ModeRequests : Prop :=
  (∀ (s : State),
      s.aonOpen = true →
      s.get GLB_MODE_REQ_STATUS ≠ 2 →
      s.boot.actEvent = 0 →
      s.mode = mSERVICE →
      exec (.modeReqActive) s = .next ((let u := (s.setMode mACTIVE).put GLB_MODE_REQ_STATUS 1
   State.resumeEngines { u with node := { u.node with paused := false } }))) ∧
  (∀ (s : State),
      s.aonOpen = true →
      s.get GLB_MODE_REQ_STATUS ≠ 2 →
      s.boot.actEvent = 0 →
      s.mode = mACTIVE →
      exec (.modeReqService) s = .next (State.pauseWaits { s.put GLB_MODE_REQ_STATUS 2 with node := { s.node with modeReq := some mSERVICE, paused := true } })) ∧
  (∀ (s : State),
      s.aonOpen = true →
      s.get GLB_MODE_REQ_STATUS ≠ 2 →
      s.boot.actEvent = 0 →
      s.mode = mACTIVE →
      exec (.modeReqDormant) s = .next (State.each { s.put GLB_MODE_REQ_STATUS 2 with node := { s.node with modeReq := some mDORMANT } } ((List.range 17).drop 1) State.startOff)) ∧
  (∀ (s : State) (target : BitVec 4),
      s.aonOpen = true →
      s.get GLB_MODE_REQ_STATUS ≠ 2 →
      s.boot.actEvent = 0 →
      s.mode < 8 →
      ¬ ((target = 3 ∧ s.mode = mSERVICE) ∨ ((target = 6 ∨ target = 1) ∧ s.mode = mACTIVE)) →
      exec (.modeReqNotAllowed target) s = .next (s.put GLB_MODE_REQ_STATUS 3)) ∧
  (∀ (s : State),
      s.node.modeReq = some mSERVICE →
      exec (.serviceEntryComplete) s = .next ((let u := (s.setMode mSERVICE).put GLB_MODE_REQ_STATUS 1
   { u with node := { u.node with modeReq := none } }))) ∧
  (∀ (s : State),
      s.node.modeReq = some mDORMANT →
      ((List.range 17).drop 1).all (fun d => s.phase d == .off || (s.phase d == .isolated && d == dSV)) = true →
      s.node.wakeLate = false →
      exec (.dormantEntryComplete) s = .next ((let u := (s.setPhase dSV .off).setMode mDORMANT
   { u.put GLB_MODE_REQ_STATUS 1 with node :=
        { u.node with modeReq := none, ledgerSaved := true, wdogRun := false, wakeLate := false } }))) ∧
  (∀ (s : State),
      s.node.modeReq = some mDORMANT →
      ((List.range 17).drop 1).all (fun d => s.phase d == .off || (s.phase d == .isolated && d == dSV)) = true →
      s.node.wakeLate = true →
      exec (.dormantEntryComplete) s = .next ((let u := (s.setPhase dSV .off).setMode mDORMANT
   State.wakeFromDormant { u.put GLB_MODE_REQ_STATUS 1 with node :=
        { u.node with modeReq := none, ledgerSaved := true, wdogRun := false, wakeLate := false } }))) ∧
  (∀ (s : State),
      s.mode = mDORMANT →
      exec (.wakeInAssert) s = .next ((s.recordWake 0 1).wakeFromDormant))

/-- R25, R57, R59, R60, R433, R497: Resets and their causes. POR_N low or a supply lost takes the node to OFF. A rise of POR_N
with valid supplies while PERST_N is high samples the straps and the pin-sharing level, takes the cause of the reset, and
leaves every register but the calibration block at its reset value. PERST_N asserted holds the node in a NODE reset where NODE
resets are chosen, and puts HIF alone in reset otherwise; its release ends either. A write of GLB_RESET, a watchdog expiry and
the recovery timer in CONTAINED reset the node by their kind and cause, unless a wider reset has not ended. After a wake from
DORMANT the last reference to return brings the reset set of domains up. -/
def Obligations.ResetCommands : Prop :=
  (∀ (s : State),
      exec (.porAssert) s = .next (s.toOff 0)) ∧
  (∀ (s : State),
      exec (.supplyLoss) s = .next (s.toOff 1)) ∧
  (∀ (s : State) (load : BitVec 2) (slot testEn psw : Bool),
      s.node.off = true →
      s.node.perst = false →
      exec (.porRelease load slot testEn psw true) s = .next ((let u := s.offBase { State.reset.node with
     pswSense := psw
     perst := s.node.perst
     refTime := s.node.refTime
     refSer := s.node.refSer
     refPcie := s.node.refPcie }
   ((((((u.put GLB_STRAP_LOAD load.toNat).put GLB_STRAP_SLOT (b2n slot)).put GLB_STRAP_TEST_EN (b2n testEn)).put
      GLB_PSW_SENSE (b2n psw)).put GLB_RST_CAUSE_SOURCE s.node.offCause)).showGroups))) ∧
  (∀ (s : State),
      s.node.off = false →
      s.flag GLB_RST_CFG = true →
      s.widerReset 2 = false →
      exec (.perstAssert) s = .next ((s.resetNarrow 2 2).holdReset)) ∧
  (∀ (s : State),
      s.node.off = false →
      s.flag GLB_RST_CFG = false →
      exec (.perstAssert) s = .next (State.hifReset { s with node := { s.node with perst := true } })) ∧
  (∀ (s : State),
      s.node.held = false →
      exec (.perstRelease) s = .next ({ s with node := { s.node with perst := false, held := false } })) ∧
  (∀ (s : State),
      s.node.held = true →
      s.node.awaitRefs = false →
      exec (.perstRelease) s = .next (State.domainsUp { s with node := { s.node with perst := false, held := false } })) ∧
  (∀ (s : State) (req : Requester),
      s.aonOpen = true →
      s.node.off = false →
      s.widerReset 1 = false →
      exec (.glbResetWarm req) s = .next ((s.resetNarrow 1 (resetSource req)).hlogCopy)) ∧
  (∀ (s : State) (req : Requester),
      s.aonOpen = true →
      s.node.off = false →
      s.widerReset 2 = false →
      exec (.glbResetNode req) s = .next ((s.resetNarrow 2 (resetSource req)).hlogCopy)) ∧
  (∀ (s : State),
      s.node.wdogRun = true →
      s.node.off = false →
      s.widerReset 1 = false →
      exec (.svWatchdogExpiry) s = .next ((s.resetNarrow 1 5).record 8)) ∧
  (∀ (s : State),
      s.node.recovering = true →
      s.mode = mCONTAINED →
      s.isFenced dSV = false →
      s.node.off = false →
      s.widerReset 1 = false →
      exec (.fltRecoverExpiry) s = .next ((s.resetNarrow 1 3).hlogCopy)) ∧
  (∀ (s : State),
      s.node.awaitRefs = true →
      s.node.held = false →
      exec (.referenceClocksPresent) s = .next (State.domainsUp { s with node := { s.node with refTime := true, refSer := true, refPcie := true, awaitRefs := false } }))

/-- R18, R24, R25, R28, R29, R216, R414, R497, R54, R55, R56, R406: Error sources of the node and the shared pins. A lockstep
mismatch is recorded; a reference clock lost outside OFF and DORMANT stops and is recorded by its name, and one that returns
runs again; the crossing FIFO of an island that runs empty in mid-frame tears the frame, which at an Ethernet link, a CAN
controller or a PIO engine is its unit's, and is recorded; a pace below floor x 1.05 at the voltage ceiling, in a domain that
is up and not threatened, puts the domain under flow control and records the threat with pace and floor; pace regained ends
the threat and lets waiting deliveries go on; the watchdog takes a service with a new period, and warns through source 16 of
bank P0. A take pulse is sent by the active half when GLB_PSW.TAKE is written, and ends by its own event; a half whose slot
PSW_SENSE does not show at the end of its wait is LOST and recorded. When PSW_SENSE leaves the own slot of an active half that
drives the shared pins, the half releases them and is DEPOSED. -/
def Obligations.NodeSources : Prop :=
  (∀ (s : State),
      exec (.svLockstep) s = .next (s.record 0)) ∧
  (∀ (s : State),
      s.mode ≠ mDORMANT →
      s.node.off = false →
      exec (.refclkLoss 0) s = .next (State.recordWith { s with node := { s.node with refTime := false } } 1 [0])) ∧
  (∀ (s : State),
      s.mode ≠ mDORMANT →
      s.node.off = false →
      exec (.refclkLoss 1) s = .next (State.recordWith { s with node := { s.node with refSer := false } } 2 [1])) ∧
  (∀ (s : State),
      s.mode ≠ mDORMANT →
      s.node.off = false →
      exec (.refclkLoss 2) s = .next (State.recordWith { s with node := { s.node with refPcie := false } } 3 [2])) ∧
  (∀ (s : State),
      exec (.refclkReturn 0) s = .next ({ s with node := { s.node with refTime := true } })) ∧
  (∀ (s : State),
      exec (.refclkReturn 1) s = .next ({ s with node := { s.node with refSer := true } })) ∧
  (∀ (s : State),
      exec (.refclkReturn 2) s = .next ({ s with node := { s.node with refPcie := true } })) ∧
  (∀ (s : State) (island : Fin 81) (engine : Fin 8),
      island.val < 3 ∨ island.val = 7 ∨ island.val = 8 →
      exec (.islUnderrun island engine) s = .next ((s.emit (.tornFrame island)).record (128 + island))) ∧
  (∀ (s : State) (island : Fin 81) (engine : Fin 8),
      3 ≤ island.val ∧ island.val ≤ 6 →
      exec (.islUnderrun island engine) s = .next (((s.ethTear (4 * (island.val - 3) + engine.val % 4)).emit (.tornFrame island)).record (128 + island))) ∧
  (∀ (s : State) (island : Fin 81) (engine : Fin 8),
      9 ≤ island.val →
      island.val ≤ 56 →
      s.stops (128 + island.val) = false →
      exec (.islUnderrun island engine) s = .next (((s.canTear ((island.val - 9) / 8) ((island.val - 9) % 8)).emit (.tornFrame island)).record (128 + island))) ∧
  (∀ (s : State) (island : Fin 81) (engine : Fin 8),
      57 ≤ island.val →
      exec (.islUnderrun island engine) s = .next (s.pioUnderflow ((island.val - 57) / 4) ((island.val - 57) % 4) engine)) ∧
  (∀ (s : State) (d : Fin 17) (pace : BitVec 16),
      s.isUp d = true →
      s.isFenced d = false →
      s.isThreat d = false →
      paceFloor d ≠ 0 →
      100 * pace.toNat < 105 * paceFloor d →
      s.atCeiling = true →
      exec (.paceThreat d pace) s = .next ((let u := s.put (PWR_PACE_PACE d.val) pace.toNat
   (State.recordWith (State.pendShared { u with node := { u.node with threat := setBit u.node.threat d } } (672 + d))
     (608 + d) [pace.toNat % 65536 + paceFloor d * 65536]).showThreat d))) ∧
  (∀ (s : State) (d : Fin 17),
      s.isThreat d = true →
      exec (.flowControlRelease d) s = .next (((s.endThreat d).showThreat d).each (List.range 48) (fun s i => s.canDeliver (i / 8) (i % 8)))) ∧
  (∀ (s : State) (p : Nat),
      10000 ≤ p →
      p ≤ 1000000 →
      exec (.svWatchdogService (some p)) s = .next ({ s with node := { s.node with wdogHalf := false, wdogPeriod := p } })) ∧
  (∀ (s : State),
      s.node.wdogRun = true →
      exec (.svWatchdogWarning) s = .next (State.pendPrivate { s with node := { s.node with wdogHalf := true } } 0 16)) ∧
  (∀ (s : State),
      s.aonOpen = true →
      s.node.twinRole = .active →
      s.ownSlot = false →
      exec (.pswTake) s = .next (State.emit { s with node := { s.node with pswPulse := true, pswWait := true } } (.pin 6 0 0))) ∧
  (∀ (s : State),
      s.node.pswPulse = true →
      exec (.pswTakePulseEnd) s = .next (State.emit { s with node := { s.node with pswPulse := false } } (.pin 6 0 1))) ∧
  (∀ (s : State),
      s.node.pswWait = true →
      s.ownSlot = false →
      exec (.pswTakeTimeout) s = .next ((State.put { s with node := { s.node with pswWait := false } } GLB_PSW_LOST 1).record 552)) ∧
  (∀ (s : State) (level : Bool),
      s.node.off = false →
      s.node.twinRole = .active →
      s.ownSlot = true →
      b2n level ≠ s.get GLB_STRAP_SLOT →
      s.flag GLB_PSW_OWN = true →
      exec (.pswSenseChange level) s = .next (((State.showPins s (State.put { s with node := { s.node with pswSense := level } } GLB_PSW_SENSE (b2n level)).showGroups).releasePins).put TWIN_STATUS_STATE 4))

/-- R93, R97, R135, R141: Endpoint units and down ports. A SEND is started at the unit of its endpoint, at once or when it is
ready at its ring time, and an RX_POST that has not been taken and comes in its order lends its buffer to its endpoint. The
loss of a ring or twin port that is UP is taken at once; the link that returns to a port in HOLD or REDIRECT, or to an
endpoint's port, starts its stability period, after which the port is UP; HOLD_TIME without a link leads to REDIRECT, and an
endpoint's unit gives up what it held of the items that go back. -/
def Obligations.EndpointUnits : Prop :=
  (∀ (s : State) (ep : BitVec 12),
      exec (.send ep) s = .next (s.startSend ep.toNat)) ∧
  (∀ (s : State) (ep : BitVec 12),
      (s.sendReady ep.toNat).isSome = true →
      exec (.sendTimeReached ep) s = .next (s.startSend ep.toNat)) ∧
  (∀ (s : State) (src sq wsn : Nat) (x : Work),
      s.work? src sq wsn = some x →
      x.opcode = 0x50 →
      x.taken = false →
      s.inOrder x = true →
      exec (.rxPost src sq wsn) s = .next ((s.takeWork x).deliver x.ep)) ∧
  (∀ (s : State) (port : Nat),
      port ≤ 2 →
      s.portState port = 2 →
      exec (.portDown port) s = .next (s.portLoss port 0 (laneBits port))) ∧
  (∀ (s : State) (port : Nat),
      port ≤ 2 →
      s.portState port = 3 →
      exec (.linkReturn port) s = .next ((s.showLanes port).setFlap (ringFlap port) (some .holdStable))) ∧
  (∀ (s : State) (port : Nat),
      port ≤ 2 →
      s.portState port = 4 →
      exec (.linkReturn port) s = .next ((s.showLanes port).setFlap (ringFlap port) (some .redirectStable))) ∧
  (∀ (s : State) (port : Nat),
      2 < port →
      exec (.linkReturn port) s = .next (s.epLinkReturn port)) ∧
  (∀ (s : State) (port : Nat),
      port ≤ 2 →
      (SMap.find s.dlv.flaps (ringFlap port)).isSome = true →
      s.portState port = 3 ∨ s.portState port = 4 →
      exec (.linkStableExpiry port) s = .next ((s.setFlap (ringFlap port) none).portUp port)) ∧
  (∀ (s : State) (port : Nat),
      2 < port →
      s.linked port = true →
      exec (.linkStableExpiry port) s = .next (s.epLinkStable port)) ∧
  (∀ (s : State),
      s.portState 2 = 3 →
      (SMap.find s.dlv.flaps (ringFlap 2)).isNone = true →
      exec (.holdTimeExpiry 2) s = .next (s.setPort 2 4)) ∧
  (∀ (s : State) (port : Nat),
      2 < port →
      exec (.holdTimeExpiry port) s = .next (((s.dlv.work.filter (fun w => flapKey w.ep == port)).map (fun w => w.ep)).eraseDups.foldl State.purge (s.epHoldExpiry port)))

/-- R425, R428, R430, R431, R435: Error sources, acknowledgements and actions. A listed source that fires without a STOP keeps its
unit's counters and is recorded with its INFO words; one that applies STOP, here with the instance index for want of details,
takes its unit out of service too; a write of FLT_ACK_C, _U or _F acknowledges entries of its class; a write of FLT_SRCs with
a stricter action of 1 or 2 takes effect; the pulse on FAULT_N ends and the pin follows DRIVE. -/
def Obligations.FaultHub : Prop :=
  (∀ (s : State) (src : Fin 640) (info : List Word),
      srcListed src = true →
      s.stops src = false →
      info.map (fun x => x.toNat) ≠ [] →
      exec (.faultRecord src info) s = .next ((s.sourceEffect src ((info.map (fun x => x.toNat)).take 4)).recordWith src ((info.map (fun x => x.toNat)).take 4))) ∧
  (∀ (s : State) (src : Fin 640),
      srcListed src = true →
      s.stops src = true →
      exec (.faultRecord src []) s = .next (((s.sourceEffect src [src.val - srcBase src]).recordWith src [src.val - srcBase src]).stopUnit src [src.val - srcBase src])) ∧
  (∀ (s : State) (val : Word),
      exec (.fltAckC val) s = .next (s.acknowledge 0 val.toNat)) ∧
  (∀ (s : State) (val : Word),
      exec (.fltAckU val) s = .next (s.acknowledge 1 val.toNat)) ∧
  (∀ (s : State) (val : Word),
      exec (.fltAckF val) s = .next (s.acknowledge 2 val.toNat)) ∧
  (∀ (s : State) (n : Fin 640) (val : Word),
      srcListed n.val = true →
      val.toNat % 4 ≤ 2 →
      s.get (FLT_SRC_ACTION n) < val.toNat % 4 →
      exec (.fltActionWrite n val) s = .next (s.put (FLT_SRC_ACTION n) (val.toNat % 4))) ∧
  (∀ (s : State),
      s.flag FLT_FAULTN_PULSE = true →
      exec (.faultNPulseEnd) s = .next ((s.put FLT_FAULTN_PULSE 0).emit (.pin 9 0 (if s.flag FLT_FAULTN_DRIVE then 0 else 2))))

/-- R61, R63, R64, R66, R67, R68, R72, R73, R161, R494, R498: The boot ROM agent takes blocks, answers them and starts what they
ask for. A post to a BAR2 slot is queued while fewer than 64 wait, and sets OVERRUN and is lost otherwise. While its paths are
open the agent takes the oldest post, judges its block and reports the result; a host write in the BAR2 window is stored while
HIF can be reached. A datagram on the service port for the agent's own or the broadcast MAC address is judged and answered to
its sender, and any other datagram changes nothing. A BOOT_BLOCK frame is judged, and a unicast one is answered with
BOOT_REPLY by the port of its arrival. A block of each kind is judged, and what it passes acts on the session. BOOT_CTRL
restarts a session, except in LULL, CONTAINED and TEST_HOLD. A BOOT_REPLY reaches the firmware of the root, and changes
nothing at another node. -/
def Obligations.BootAgent : Prop :=
  (∀ (s : State) (slot : BitVec 13),
      s.aonOpen = true →
      s.boot.posts.length < 64 →
      exec (.bootBar2Post slot) s = .next (State.put { s with boot := { s.boot with posts := s.boot.posts ++ [slot.toNat] } } BOOT_BAR2_QUEUE_PENDING (s.boot.posts.length + 1))) ∧
  (∀ (s : State) (slot : BitVec 13),
      s.aonOpen = true →
      64 ≤ s.boot.posts.length →
      exec (.bootBar2Post slot) s = .next (s.raise BOOT_BAR2_QUEUE_OVERRUN)) ∧
  (∀ (s : State) (slot : Nat) (rest : List Nat),
      s.boot.posts = slot :: rest →
      s.boot.pathsOpen = true →
      exec (.bar2SlotConsumed) s = .next ((let bs := Memory.readList s.bar2 (slot * 2048) 1044
   let u := State.put { s with boot := { s.boot with posts := rest } } BOOT_BAR2_QUEUE_PENDING rest.length
   let r := u.agent 0 bs
   ((r.1.put BOOT_BAR2_RESULT_STATUS r.2.1).put BOOT_BAR2_RESULT_DETAIL r.2.2).put BOOT_BAR2_RESULT_LAST_SLOT slot))) ∧
  (∀ (s : State) (off : Nat) (bytes : List Byte),
      off + bytes.length ≤ 0x1000000 →
      s.accessible dHIF = true →
      exec (.bar2Write off bytes) s = .next ({ s with bar2 := Memory.writeList s.bar2 off bytes })) ∧
  (∀ (s : State) (dstMac srcMac dstIp srcIp srcPort : Nat) (bytes : List Byte),
      s.boot.pathsOpen = true →
      dstMac = allMac ∨ dstMac = ownMac →
      exec (.svcBootDatagram ⟨dstMac, srcMac, dstIp, srcIp, 50640, srcPort, bytes⟩) s = .next ((let r := s.agent 1 bytes
   r.1.emit (.svcReply srcMac ownMac srcIp dstIp srcPort 50640 (r.1.replyBytes (leAt bytes 4 4) r.2.1 r.2.2))))) ∧
  (∀ (s : State) (dstMac srcMac dstIp srcIp srcPort dstPort : Nat) (bytes : List Byte),
      dstPort ≠ 50640 ∨ (dstMac ≠ ownMac ∧ dstMac ≠ allMac) →
      exec (.svcBootDatagram ⟨dstMac, srcMac, dstIp, srcIp, dstPort, srcPort, bytes⟩) s = .next (s)) ∧
  (∀ (s : State) (port : Fin 2) (src : Nat) (bytes : List Byte),
      s.boot.pathsOpen = true →
      exec (.bootBlockFrame true ⟨src, port⟩ bytes) s = .next ((let r := s.agent 2 bytes
   r.1.unicast src 0 0 (.bootReply (leAt bytes 4 4) r.2.1 r.2.2 r.1.sessionStatus r.1.replyId) port))) ∧
  (∀ (s : State) (port : Fin 2) (src : Nat) (bytes : List Byte),
      s.boot.pathsOpen = true →
      exec (.bootBlockFrame false ⟨src, port⟩ bytes) s = .next ((s.agent 2 bytes).1)) ∧
  (∀ (s : State) (node offset status detail loadStatus loadId : Nat),
      s.flag RING_NODE_ROOT = true →
      exec (.bootReplyFrame node offset status detail loadStatus loadId) s = .next ({ s with boot := { s.boot with replies := s.boot.replies ++ [(node, offset, status, detail, loadStatus, loadId)] } })) ∧
  (∀ (s : State) (node offset status detail loadStatus loadId : Nat),
      s.flag RING_NODE_ROOT = false →
      exec (.bootReplyFrame node offset status detail loadStatus loadId) s = .next (s)) ∧
  (∀ (s : State) (path : Fin 3) (bytes : List Byte),
      s.boot.pathsOpen = true →
      s.blockKind (parseBlock bytes) = 0 →
      exec (.bootHeaderBlock path bytes) s = .next ((s.agent path bytes).1)) ∧
  (∀ (s : State) (path : Fin 3) (bytes : List Byte),
      s.boot.pathsOpen = true →
      (parseBlock bytes).off = 0 →
      s.session.hdr = none →
      s.blockStatus path (parseBlock bytes) = (0, 0) →
      exec (.bootHeaderBlock path bytes) s = .next (s.acceptHeader path (parseBlock bytes))) ∧
  (∀ (s : State) (path : Fin 3) (bytes : List Byte),
      s.boot.pathsOpen = true →
      s.blockKind (parseBlock bytes) = 1 →
      exec (.bootImageBlock path bytes) s = .next ((s.agent path bytes).1)) ∧
  (∀ (s : State) (path : Fin 3) (bytes : List Byte) (x : Header),
      s.boot.pathsOpen = true →
      (parseBlock bytes).off < 0xFFFFF000 →
      s.session.hdr = some x →
      s.blockStatus path (parseBlock bytes) = (0, 0) →
      exec (.bootImageBlock path bytes) s = .next (s.storePage s.session x (parseBlock bytes))) ∧
  (∀ (s : State) (path : Fin 3) (bytes : List Byte),
      s.boot.pathsOpen = true →
      s.blockKind (parseBlock bytes) = 2 →
      exec (.bootStartBlock path bytes) s = .next ((s.agent path bytes).1)) ∧
  (∀ (s : State) (path : Fin 3) (bytes : List Byte),
      s.boot.pathsOpen = true →
      (parseBlock bytes).off = offStart →
      s.blockStatus path (parseBlock bytes) = (0, 0) →
      exec (.bootStartBlock path bytes) s = .next (State.startImage { s.put BOOT_STATUS_LOAD_STATUS 4 with boot := { s.boot with
     startRing := leAt (parseBlock bytes).data 0 1, startTwin := leAt (parseBlock bytes).data 1 1 } })) ∧
  (∀ (s : State) (path : Fin 3) (bytes : List Byte),
      s.boot.pathsOpen = true →
      s.blockKind (parseBlock bytes) = 3 →
      exec (.bootRestartBlock path bytes) s = .next ((s.agent path bytes).1)) ∧
  (∀ (s : State) (path : Fin 3) (bytes : List Byte),
      s.boot.pathsOpen = true →
      (parseBlock bytes).off = offRestart →
      s.blockStatus path (parseBlock bytes) = (0, 0) →
      exec (.bootRestartBlock path bytes) s = .next (s.restartSession (leAt (parseBlock bytes).data 0 1))) ∧
  (∀ (s : State),
      s.aonOpen = true →
      s.mode ≠ mLULL →
      s.mode ≠ mCONTAINED →
      s.get BOOT_STATUS_LOAD_STATUS ≠ 8 ∨ s.staging = true →
      exec (.bootCtrlRestart) s = .next (s.restartSession 0)) ∧
  (∀ (s : State),
      s.mode = mLULL ∨ s.mode = mCONTAINED ∨ (s.get BOOT_STATUS_LOAD_STATUS = 8 ∧ s.staging = false) →
      exec (.bootCtrlRestart) s = .next (s)) ∧
  (∀ (s : State),
      s.aonOpen = true →
      s.mode ≠ mLULL →
      s.mode ≠ mCONTAINED →
      s.get BOOT_STATUS_LOAD_STATUS ≠ 8 ∨ s.staging = true →
      exec (.bootCtrlRestartStage) s = .next (s.restartSession 1)) ∧
  (∀ (s : State),
      s.mode = mLULL ∨ s.mode = mCONTAINED ∨ (s.get BOOT_STATUS_LOAD_STATUS = 8 ∧ s.staging = false) →
      exec (.bootCtrlRestartStage) s = .next (s))

/-- R75, R76, R77, R78, R79: A scheduled activation from its round to its end. ARM at the root, with no round running, is refused
for a TWIN_GAP below 5,000 us or an ACT_TIME less than 200 ms ahead with its code, and starts a round otherwise; CANCEL up to
ACT_TIME - 50 ms cancels it, and the report deadline cancels a round for which a named node has not reported ACT_ARMED; the
round's end makes it DONE or PARTIAL. A report is recorded and counted at the root during the round and after it. A node that
ACT_ARM names judges it and answers by the port of its arrival; ACT_CANCEL disarms it, or is answered late once the activation
time has come. At its time an armed node stops its processors and freezes; events 2 and 3 swap the slots and load and release
the processors; event 4, when no TAKE waits, disarms with ACT_DONE; a timer that expires falls back to the other slot with a
WARM reset. -/
def Obligations.Activation : Prop :=
  (∀ (s : State) (val : Word),
      s.aonOpen = true →
      s.armHeard = true →
      val.toNat / 65536 < 5000 →
      exec (.actArmCmd val) s = .next ((s.put BOOT_ACT_RESULT_ACT_STATE 3).put BOOT_ACT_RESULT_CODE 3)) ∧
  (∀ (s : State) (val : Word),
      s.aonOpen = true →
      s.armHeard = true →
      5000 ≤ val.toNat / 65536 →
      s.actTime < s.ringTime + 200000000 →
      exec (.actArmCmd val) s = .next ((s.put BOOT_ACT_RESULT_ACT_STATE 3).put BOOT_ACT_RESULT_CODE 4)) ∧
  (∀ (s : State) (val : Word),
      s.aonOpen = true →
      s.armHeard = true →
      5000 ≤ val.toNat / 65536 →
      s.ringTime + 200000000 ≤ s.actTime →
      exec (.actArmCmd val) s = .next (s.startAct (val.toNat / 65536))) ∧
  (∀ (s : State) (val : Word),
      s.armHeard = false →
      exec (.actArmCmd val) s = .next (s)) ∧
  (∀ (s : State),
      s.aonOpen = true →
      s.flag RING_NODE_ROOT = true →
      s.get BOOT_ACT_RESULT_ACT_STATE = 1 ∨ s.get BOOT_ACT_RESULT_ACT_STATE = 2 →
      s.ringTime + 50000000 ≤ s.boot.actAt →
      exec (.actCancelCmd) s = .next (s.cancelRound)) ∧
  (∀ (s : State),
      s.boot.actAt < s.ringTime + 50000000 →
      exec (.actCancelCmd) s = .next (s)) ∧
  (∀ (s : State),
      s.get BOOT_ACT_RESULT_ACT_STATE = 1 ∨ s.get BOOT_ACT_RESULT_ACT_STATE = 2 →
      s.boot.actAt ≤ s.ringTime + 50000000 →
      s.allReported 0 = false →
      exec (.actReportDeadline) s = .next (s.cancelRound)) ∧
  (∀ (s : State),
      s.get BOOT_ACT_RESULT_ACT_STATE = 1 ∨ s.get BOOT_ACT_RESULT_ACT_STATE = 2 →
      s.boot.actAt + 1000 * s.boot.actGap + 2000000 ≤ s.ringTime →
      exec (.actRoundEnd) s = .next (s.put BOOT_ACT_RESULT_ACT_STATE (if s.allReported 1 then 4 else 5))) ∧
  (∀ (s : State) (port : Fin 2) (time crc gap seq nodes : Nat),
      s.nodeId ≠ 0 →
      nodes.testBit s.nodeId = true →
      exec (.actArmFrame time crc gap ⟨seq, port⟩ nodes) s = .next ((s.fromPort port).armNode time crc gap seq s.rootNode)) ∧
  (∀ (s : State) (port : Fin 2) (time crc gap seq nodes : Nat),
      s.nodeId = 0 ∨ nodes.testBit s.nodeId = false →
      exec (.actArmFrame time crc gap ⟨seq, port⟩ nodes) s = .next (s)) ∧
  (∀ (s : State) (port : Fin 2) (seq : Nat) (a : Armed),
      s.boot.armed = some a →
      a.seq = seq →
      s.boot.actEvent = 0 →
      s.ringTime < a.time →
      exec (.actCancelFrame ⟨seq, port⟩) s = .next (State.put { s with boot := { s.boot with armed := none } } BOOT_STAGED_STATUS_ARMED 0)) ∧
  (∀ (s : State) (port : Fin 2) (seq : Nat) (a : Armed),
      s.boot.armed = some a →
      a.seq = seq →
      s.boot.actEvent ≠ 0 ∨ a.time ≤ s.ringTime →
      exec (.actCancelFrame ⟨seq, port⟩) s = .next (s.unicast a.src 0 0 (.actReport seq s.nodeId 5) port)) ∧
  (∀ (s : State) (seq node code : Nat),
      s.flag RING_NODE_ROOT = true →
      seq = s.boot.actSeq →
      s.get BOOT_ACT_RESULT_ACT_STATE = 1 ∨ s.get BOOT_ACT_RESULT_ACT_STATE = 2 →
      exec (.actReportFrame seq node code) s = .next (s.actReported node code)) ∧
  (∀ (s : State) (seq node code : Nat),
      s.flag RING_NODE_ROOT = true →
      seq = s.boot.actSeq →
      3 ≤ s.get BOOT_ACT_RESULT_ACT_STATE →
      s.boot.actMap.testBit node = true →
      exec (.actReportFrame seq node code) s = .next ((let u := s.countBad node code
   { u with boot := { u.boot with reports := u.boot.reports ++ [(node, code)] } }))) ∧
  (∀ (s : State) (a : Armed),
      s.boot.armed = some a →
      a.time ≤ s.ringTime →
      s.boot.actEvent = 0 →
      s.mode ≠ mCONTAINED →
      exec (.activationTime) s = .next (State.emit { s with boot := { s.boot with actEvent := 1, frozen := true } } (.processors 1))) ∧
  (∀ (s : State),
      s.boot.actEvent = 1 →
      exec (.actProcessorsStopped) s = .next ((let u := (State.put { s with boot := { s.boot with actEvent := 2 } } BOOT_STATUS_SLOT (1 - s.get BOOT_STATUS_SLOT)).showImage
   (((State.put { u with ints := SMap.erase u.ints 0 } (INT_P_STATE_INSVC 0) 0).put (INT_P_STATE_RUNLVL 0) 0).loadProcs [0]).emit (.processors 2)))) ∧
  (∀ (s : State),
      s.boot.actEvent = 2 →
      exec (.actP0Running) s = .next (((State.each { s with boot := { s.boot with actEvent := 3 }, ints := s.ints.filter (fun e => e.1 == 0) } [1, 2, 3, 4, 5, 6, 7, 8]
     (fun s b => (s.put (INT_P_STATE_INSVC b) 0).put (INT_P_STATE_RUNLVL b) 0)).loadProcs [1, 2, 3, 4, 5, 6, 7, 8]).emit (.processors 3))) ∧
  (∀ (s : State),
      s.boot.actEvent = 3 →
      s.twin.takeWaits = false →
      s.flag RING_NODE_ROOT = false →
      exec (.actAllReady) s = .next ((let u : State := { s with boot := { s.boot with actEvent := 0, frozen := false } }
   (u.setSlotInfo (u.get BOOT_STATUS_SLOT) { u.slotInfo (u.get BOOT_STATUS_SLOT) with ran := true }).disarm 1))) ∧
  (∀ (s : State),
      s.boot.actEvent = 3 →
      s.twin.takeWaits = false →
      s.flag RING_NODE_ROOT = true →
      exec (.actAllReady) s = .next ((let u : State := { s with boot := { s.boot with actEvent := 0, frozen := false } }
   (u.setSlotInfo (u.get BOOT_STATUS_SLOT) { u.slotInfo (u.get BOOT_STATUS_SLOT) with ran := true }).rootDone))) ∧
  (∀ (s : State),
      s.boot.actEvent ≠ 0 →
      exec (.actTimerExpiry) s = .next ((let u := s.resetNarrow 1 6
   ((State.put { u with boot := { u.boot with owedReport := s.boot.armed.map (fun a => (a.seq, 8)) } } BOOT_STAGED_STATUS_STAGE_STATUS 3).showImage).record 7)))

/-- R80, R81, R82, R37, R56, R61, R69, R70, R124, R228, R462, R493: Calibration and the end of a load or reset. While AON can be
reached and no commit or erase runs, LOAD_SHADOW copies the block in force into the shadow, COMMIT of a valid shadow and ERASE
start their job, and COMMIT of any other shadow or after 10,000 commits sets ERR; while one runs each of the three is ignored
and sets ERR (the model's choice: notes/assumptions/10.md). The end of a commit puts the shadow in the block with ORIGIN 2,
and the end of an erase leaves it BLANK with free words (the model's choice: notes/assumptions/4.md). At the end of a reset,
with no hold and the references present, the node is set up; then the agent enters TEST_HOLD where the strap says so, checks
the image of the active slot again after a WARM reset under which an image had started, and waits for a header after a NODE
reset or a POR, with both slots empty. An image whose CRCs match makes its session READY; one that fails them ends it with the
DETAIL of the failure; and after a WARM reset the image in the active slot is checked and started or given up. When all nine
processors are ready the node takes its roles, enters ACTIVE or TWIN-STANDBY, and broadcasts RESYNC and its endpoint state. -/
def Obligations.Calibration : Prop :=
  (∀ (s : State),
      s.aonOpen = true →
      s.flag BOOT_CAL_STATE_BUSY = false →
      exec (.calLoadShadow) s = .next (s.each (List.range 1024) (fun s i => s.put (BOOT_CAL_SHADOW i) (s.get (BOOT_CAL_DATA i))))) ∧
  (∀ (s : State),
      s.aonOpen = true →
      s.flag BOOT_CAL_STATE_BUSY = true →
      exec (.calLoadShadow) s = .next (s.raise BOOT_CAL_STATE_ERR)) ∧
  (∀ (s : State),
      s.aonOpen = true →
      s.flag BOOT_CAL_STATE_BUSY = true →
      exec (.calCommit) s = .next (s.raise BOOT_CAL_STATE_ERR)) ∧
  (∀ (s : State),
      s.aonOpen = true →
      s.flag BOOT_CAL_STATE_BUSY = false →
      exec (.calCommit) s = .next ((if s.shadowOk = true ∧ s.get BOOT_CAL_STATE_COMMITS < 10000
    then { s.put BOOT_CAL_STATE_BUSY 1 with boot := { s.boot with calJob := 1 } }
    else s.raise BOOT_CAL_STATE_ERR))) ∧
  (∀ (s : State),
      s.aonOpen = true →
      s.flag BOOT_CAL_STATE_BUSY = true →
      exec (.calErase) s = .next (s.raise BOOT_CAL_STATE_ERR)) ∧
  (∀ (s : State),
      s.aonOpen = true →
      s.flag BOOT_CAL_STATE_BUSY = false →
      exec (.calErase) s = .next ({ s.put BOOT_CAL_STATE_BUSY 1 with boot := { s.boot with calJob := 2 } })) ∧
  (∀ (s : State),
      s.boot.calJob = 1 →
      exec (.calCommitDone) s = .next ((let u := s.each (List.range 1024) (fun s i => s.put (BOOT_CAL_DATA i) (s.get (BOOT_CAL_SHADOW i)))
   let x := u.get (BOOT_CAL_DATA 1)
   let u := u.put (BOOT_CAL_DATA 1) (x % 256 + 2 * 256 + x / 65536 * 65536)
   let u : State := { u with boot := { u.boot with calJob := 0 } }
   (((u.inc BOOT_CAL_STATE_COMMITS).put BOOT_CAL_STATE_LAYOUT 1).put BOOT_CAL_STATE_CAL_STATE 2).put BOOT_CAL_STATE_BUSY 0))) ∧
  (∀ (s : State),
      s.boot.calJob = 2 →
      exec (.calEraseDone) s = .next ((let u := s.each (List.range 1024) (fun s i => (s.put (BOOT_CAL_DATA i) (Config.freeValue s.fresh)).draw)
   let u : State := { u with boot := { u.boot with calJob := 0 } }
   ((u.put BOOT_CAL_STATE_LAYOUT 0).put BOOT_CAL_STATE_CAL_STATE 0).put BOOT_CAL_STATE_BUSY 0))) ∧
  (∀ (s : State) (sizeGiB k : Nat),
      s.node.resetKind = some k →
      s.node.held = false →
      s.node.awaitRefs = false →
      s.node.off = false →
      (s.setUp k sizeGiB).flag GLB_STRAP_TEST_EN = true →
      exec (.loaderResetEnd sizeGiB) s = .next ((let u := s.setUp k sizeGiB
   { u.put BOOT_STATUS_LOAD_STATUS 8 with boot := { u.boot with pathsOpen := true } }))) ∧
  (∀ (s : State) (sizeGiB : Nat),
      s.node.resetKind = some 1 →
      s.node.held = false →
      s.node.awaitRefs = false →
      s.node.off = false →
      (s.setUp 1 sizeGiB).flag GLB_STRAP_TEST_EN = false →
      (s.setUp 1 sizeGiB).boot.imageStarted = true →
      exec (.loaderResetEnd sizeGiB) s = .next ((let u := s.setUp 1 sizeGiB
   let x := u.slotHeader (u.get BOOT_STATUS_SLOT)
   { (u.put BOOT_STATUS_LOAD_STATUS 2).put BOOT_STATUS_PATH 0 with boot := { u.boot with
       warmCheck := true, pathsOpen := true, load := { owner := 0, hdr := some x, bitmap := 2 ^ pagesOf x.total - 1 } } }))) ∧
  (∀ (s : State) (sizeGiB k : Nat),
      s.node.resetKind = some k →
      k ≠ 1 →
      s.node.held = false →
      s.node.awaitRefs = false →
      s.node.off = false →
      (s.setUp k sizeGiB).flag GLB_STRAP_TEST_EN = false →
      exec (.loaderResetEnd sizeGiB) s = .next ((let u := s.setUp k sizeGiB
   let v : State := { u with boot := { u.boot with pathsOpen := true, warmCheck := false } }
   let w := (v.put BOOT_STATUS_LOAD_STATUS 4).restartSession 0
   State.restartSession (((State.put { w with boot := { w.boot with slot0 := {}, slot1 := {} } } BOOT_STATUS_DETAIL 0).put BOOT_STATUS_SLOT 0)) 1))) ∧
  (∀ (s : State) (x : Header),
      s.sessionStatus = 2 →
      s.boot.warmCheck = false ∨ s.staging = true →
      s.session.hdr = some x →
      s.imageCheck s.sessionSlot x = 0 →
      exec (.imageVerifyDone) s = .next ((s.setSlotInfo s.sessionSlot { valid := true, crc := x.crc, version := x.version }).setSessionStatus 3)) ∧
  (∀ (s : State) (x : Header),
      s.sessionStatus = 2 →
      s.boot.warmCheck = false ∨ s.staging = true →
      s.session.hdr = some x →
      s.imageCheck s.sessionSlot x ≠ 0 →
      exec (.imageVerifyDone) s = .next ((s.setSessionDetail (s.imageCheck s.sessionSlot x)).setSessionStatus 7)) ∧
  (∀ (s : State),
      s.sessionStatus = 2 →
      s.boot.warmCheck = true →
      s.staging = false →
      exec (.imageVerifyDone) s = .next (s.verifyWarm)) ∧
  (∀ (s : State),
      s.get BOOT_STATUS_LOAD_STATUS = 4 →
      s.mode = mLOADING →
      exec (.processorsReady) s = .next ((let u := (s.takeRoles.enterRole.broadcast (.resync (if s.node.ledgerKept then 1 else 2))).sendFullState
   ((if u.node.twinRole = .single then u.singlePins else u).avsStart).payReport)))

/-- R6, R7, R11, R492: Register accesses of a requester. While a register's domain can be reached a full write of a register with
a writable field takes effect by its block, and by a copy to the standby half where one is due; a write of the low half of a
pair is staged for its requester, and a write of the high half applies the whole value. A write to a register that cannot be
reached, to one with read-only fields alone or to an offset that holds none changes nothing, and a partial write outside OFF
is discarded and recorded. A read answers the bytes it addresses, with whatever the registers it touches leave; a read of the
low half of a pair captures the whole value for its requester. -/
def Obligations.RegisterAccess : Prop :=
  (∀ (s : State) (req : Requester) (off : Nat) (val : Word),
      s.busOpen off = true →
      pairAt off = .single →
      (fieldsAt off).all (fun e => e.2 == .ro) = false →
      exec (.registerWrite req off val) s = .next ((s.writeReg req off val.toNat).copyConfig off val.toNat)) ∧
  (∀ (s : State) (req : Requester) (off : Nat) (val : Word),
      s.busOpen off = true →
      pairAt off = .lo →
      exec (.registerWrite req off val) s = .next (s.stage req off val.toNat)) ∧
  (∀ (s : State) (req : Requester) (off : Nat) (val : Word),
      s.busOpen off = true →
      pairAt off = .hi →
      exec (.registerWrite req off val) s = .next ((let lo := (s.stagedHalf req (off - 4)).getD (s.stored (off - 4))
   ((s.writeHigh req off val.toNat).copyConfig (off - 4) lo).copyConfig off val.toNat))) ∧
  (∀ (s : State) (req : Requester) (off : Nat) (val : Word),
      s.busOpen off = false →
      exec (.registerWrite req off val) s = .next (s)) ∧
  (∀ (s : State) (req : Requester) (off : Nat) (val : Word),
      pairAt off = .single →
      (fieldsAt off).all (fun e => e.2 == .ro) = true →
      exec (.registerWrite req off val) s = .next (s)) ∧
  (∀ (s : State) (req : Requester) (off : Nat),
      s.node.off = false →
      exec (.bar0PartialWrite req off) s = .next (s.record 5)) ∧
  (∀ (s : State) (req : Requester) (a len : Nat),
      exec (.regPairLoRead req ⟨a, len⟩) s = .next ((let r := s.busReadBytes req a len
   r.1.emit (.readData req a r.2)))) ∧
  (∀ (s : State) (req : Requester) (off : Nat),
      s.busOpen off = true →
      pairAt off = .lo →
      off % 4 = 0 →
      exec (.regPairLoRead req ⟨off, 4⟩) s = .next ((let v := s.readReg req off + 2 ^ 32 * s.readReg req (off + 4)
   State.emit { s with capture := s.capture.filter (fun e => !(e.1 == req && e.2.1 == off)) ++ [(req, off, v)] }
     (.readData req off (((wordBytes [s.readReg req off]).drop 0).take 4))))) ∧
  (∀ (s : State) (req : Requester) (off : Nat) (val : Word),
      s.busOpen off = true →
      pairAt off = .lo →
      (fieldsAt off).all (fun e => e.2 == .ro) = false →
      exec (.regPairLoWrite req off val) s = .next ({ s with staged := s.staged.filter (fun e => !(e.1 == req && e.2.1 == off)) ++ [(req, off, val.toNat)] }))

/-- R93, R126, R146, R160, R165, R166: Remote accesses and the register items. A well-formed RA_REQ of a node that may make it is
answered with the words read, or applied in ascending order and answered, a write of GLB_RESET only after its answer; a
malformed one is answered RA_ALIGN and one that is not allowed RA_DENIED or RA_LOADING. RA_RSP ends the access it answers, and
a request of the supervisor without one raises RA_TIMEOUT. REG_READ returns the words it reads in ascending order; REG_WRITE
applies its words in ascending order and commits with the last, unless the write has reset the node; an access that is turned
away fails its item with the status code of its fault. -/
def Obligations.RemoteAccess : Prop :=
  (∀ (s : State) (port : Fin 2) (src seq offset count : Nat) (words : List Word),
      raMalformed offset count 0 0 8 words = false →
      s.remoteTest src offset count false = 0 →
      exec (.raReqFrame ⟨src, port⟩ seq offset count 0 0 8 words) s = .next ((let r := s.busReads (.remote src) count offset
   r.1.raAnswer port src seq 0 count r.2))) ∧
  (∀ (s : State) (port : Fin 2) (src seq offset count payLen : Nat) (words : List Word),
      raMalformed offset count 1 0 payLen words = false →
      s.remoteTest src offset count true = 0 →
      exec (.raReqFrame ⟨src, port⟩ seq offset count 1 0 payLen words) s = .next ((let ws := (words.map (fun w => w.toNat)).zip (accessOffs offset count)
   let t := (ws.filter (fun e => e.2 != 0x30)).foldl (fun s e => s.busWrite (.remote src) e.2 e.1) s
   (ws.filter (fun e => e.2 == 0x30)).foldl (fun s e => s.busWrite (.remote src) e.2 e.1) (t.raAnswer port src seq 0 count [])))) ∧
  (∀ (s : State) (port : Fin 2) (src seq offset count write reserved payLen : Nat) (words : List Word),
      raMalformed offset count write reserved payLen words = true →
      exec (.raReqFrame ⟨src, port⟩ seq offset count write reserved payLen words) s = .next (s.raAnswer port src seq 0x83 count [])) ∧
  (∀ (s : State) (port : Fin 2) (src seq offset count write reserved payLen : Nat) (words : List Word),
      raMalformed offset count write reserved payLen words = false →
      s.remoteTest src offset count (write == 1) ≠ 0 →
      exec (.raReqFrame ⟨src, port⟩ seq offset count write reserved payLen words) s = .next (s.raAnswer port src seq (s.remoteTest src offset count (write == 1)) count [])) ∧
  (∀ (s : State) (src seq status count : Nat) (words : List Word),
      exec (.raRspFrame src seq status count words) s = .next ((let s : State := { s with ring := { s.ring with raOpen := s.ring.raOpen.filter (fun q => q != seq) } }
   (s.bridgeRaRsp seq status words).bridgePostedRsp seq status))) ∧
  (∀ (s : State) (seq : Nat),
      s.accessible dSV = true →
      exec (.raTimeout seq) s = .next (State.raise { s with ring := { s.ring with raOpen := s.ring.raOpen.filter (fun q => q != seq) } } RING_ERR_RA_TIMEOUT)) ∧
  (∀ (s : State) (src sq wsn : Nat) (w : Work),
      s.readyWork src sq wsn 0x20 = some w →
      s.itemTest w = 0 →
      exec (.regWrite src sq wsn) s = .next ((let t := s.busWrites (s.itemReq w) w.param ((List.range (w.length / 4)).map (fun i => leAt w.data (4 * i) 4))
   if (t.work? src sq wsn).isSome then t.commitInternal w w.length else t))) ∧
  (∀ (s : State) (src sq wsn : Nat) (w : Work),
      s.readyWork src sq wsn 0x20 = some w →
      s.itemTest w ≠ 0 →
      exec (.regWrite src sq wsn) s = .next (s.failWork w (s.itemTest w) 0 0)) ∧
  (∀ (s : State) (src sq wsn : Nat) (w : Work),
      s.readyWork src sq wsn 0x21 = some w →
      s.itemTest w = 0 →
      exec (.regRead src sq wsn) s = .next ((let r := s.busReads (s.itemReq w) (w.length / 4) w.param
   r.1.returnData w (wordBytes r.2) 0))) ∧
  (∀ (s : State) (src sq wsn : Nat) (w : Work),
      s.readyWork src sq wsn 0x21 = some w →
      s.itemTest w ≠ 0 →
      exec (.regRead src sq wsn) s = .next (s.failWork w (s.itemTest w) 0 0))

/-- R168, R170, R173, R176: A Lull round at the root and at the members. START at the root with no round running ends RESULT at
BARRED where the ring is not open to it, at REFUSED when the root itself refuses, and begins a round otherwise. A token at a
member that is IDLE is consented and passed on or refused to the root; at the root of the running round the full count of
consents sends COMMIT. COMMIT makes the round COMMITTED at a consenting member and at the root. A refusal is logged at the
root and ends the round that runs, and one of another round is logged alone; a void ends the round at its node and is logged
at the root. ROUND_MS and ABORT end a round; CLEAR_LOG empties the log. -/
def Obligations.LullRounds : Prop :=
  (∀ (s : State) (policyConsents wakeAsserted : Bool),
      s.flag RING_NODE_ROOT = true →
      s.get RING_LULL_STATUS_RESULT ≠ 1 →
      s.lullBarred = true →
      exec (.lullStart ⟨policyConsents, wakeAsserted⟩) s = .next (s.put RING_LULL_STATUS_RESULT 6)) ∧
  (∀ (s : State) (policyConsents wakeAsserted : Bool),
      s.flag RING_NODE_ROOT = true →
      s.get RING_LULL_STATUS_RESULT ≠ 1 →
      s.lullBarred = false →
      exec (.lullStart ⟨policyConsents, wakeAsserted⟩) s = .next ((let round := (s.get RING_LULL_STATUS_ROUND + 1) % 65536
   let t := (s.put RING_LULL_STATUS_ROUND round).inc RING_LULL_ROUNDS_STARTED
   let t := { t with ring := { t.ring with lullRound := round, commitSent := false } }
   let r := t.refusal policyConsents wakeAsserted
   if r ≠ 0 then (t.put RING_LULL_STATUS_RESULT 3).put RING_LULL_STATUS_LAST_REASON r
   else State.sendOn ((t.put RING_LULL_STATUS_RESULT 1).put RING_LULL_STATUS_STATE 1) 0 0 0
     (.lullToken round (((t.put RING_LULL_STATUS_RESULT 1).put RING_LULL_STATUS_STATE 1).get RING_ENUM_STATUS_N) 0)))) ∧
  (∀ (s : State),
      s.flag RING_NODE_ROOT = true →
      s.get RING_LULL_STATUS_RESULT = 1 →
      exec (.lullAbort) s = .next (s.endRound 4 13)) ∧
  (∀ (s : State),
      s.flag RING_NODE_ROOT = true →
      exec (.lullClearLog) s = .next (s.each (List.range 255) (fun s n => ((s.put (RING_LULL_LOG_COUNT n) 0).put (RING_LULL_LOG_CONSEC n) 0).put (RING_LULL_LOG_LAST_REASON n) 0))) ∧
  (∀ (s : State) (hops round n consents : Nat) (policyConsents wakeAsserted : Bool),
      s.flag RING_NODE_ROOT = false →
      s.get RING_LULL_STATUS_STATE = 0 →
      exec (.lullTokenFrame ⟨round, hops⟩ n consents policyConsents wakeAsserted) s = .next ((let t : State := { s.put RING_LULL_STATUS_ROUND round with ring := { s.ring with lullRound := round } }
   if t.refusal policyConsents wakeAsserted ≠ 0
   then t.unicast t.rootNode 0 0 (.lullRefuse round (t.refusal policyConsents wakeAsserted)) 1
   else (t.put RING_LULL_STATUS_STATE 1).passOn 1 t.rootNode 0 hops 0 false (.lullToken round n (consents + 1))))) ∧
  (∀ (s : State) (hops round n consents : Nat) (policyConsents wakeAsserted : Bool),
      s.flag RING_NODE_ROOT = true →
      s.get RING_LULL_STATUS_RESULT = 1 →
      s.get RING_LULL_STATUS_STATE = 1 →
      round = s.ring.lullRound →
      consents + 1 = s.get RING_ENUM_STATUS_N →
      exec (.lullTokenFrame ⟨round, hops⟩ n consents policyConsents wakeAsserted) s = .next ((let t := s.consented s.otherNodes
   State.sendOn { t with ring := { t.ring with commitSent := true } } 0 0 0 (.lullCommit round)))) ∧
  (∀ (s : State) (hops round : Nat),
      s.flag RING_NODE_ROOT = false →
      s.get RING_LULL_STATUS_STATE = 1 →
      round = s.ring.lullRound →
      s.ring.lullVoided.contains round = false →
      exec (.lullCommitFrame ⟨round, hops⟩) s = .next ((s.passOn 1 s.rootNode 0 hops 0 false (.lullCommit round)).committed)) ∧
  (∀ (s : State) (hops round : Nat),
      s.flag RING_NODE_ROOT = true →
      s.ring.commitSent = true →
      s.get RING_LULL_STATUS_STATE = 1 →
      round = s.ring.lullRound →
      s.ring.lullVoided.contains round = false →
      exec (.lullCommitFrame ⟨round, hops⟩) s = .next (((s.put RING_LULL_STATUS_RESULT 2).inc RING_LULL_ROUNDS_COMMITTED).committed)) ∧
  (∀ (s : State) (src round reason : Nat),
      s.flag RING_NODE_ROOT = true →
      s.get RING_LULL_STATUS_RESULT = 1 →
      round = s.ring.lullRound →
      exec (.lullRefuseFrame src round reason) s = .next ((let before := match s.posOf src with
     | some q => (s.ring.map.take q).drop 1
     | none => []
   State.put (((s.consented before).logRefusal src reason).endRound 3 9) RING_LULL_STATUS_LAST_REASON reason))) ∧
  (∀ (s : State) (src round reason : Nat),
      s.flag RING_NODE_ROOT = true →
      s.get RING_LULL_STATUS_RESULT ≠ 1 ∨ round ≠ s.ring.lullRound →
      exec (.lullRefuseFrame src round reason) s = .next (s.logRefusal src reason)) ∧
  (∀ (s : State) (src round reason : Nat),
      s.flag RING_NODE_ROOT = false →
      s.get RING_LULL_STATUS_STATE = 1 →
      round = s.ring.lullRound →
      exec (.lullVoidFrame src round reason) s = .next (s.put RING_LULL_STATUS_STATE 0)) ∧
  (∀ (s : State) (src round reason : Nat),
      s.flag RING_NODE_ROOT = true →
      s.get RING_LULL_STATUS_STATE = 1 →
      round = s.ring.lullRound →
      exec (.lullVoidFrame src round reason) s = .next ((let t := (s.put RING_LULL_STATUS_STATE 0).logRefusal src reason
   if t.get RING_LULL_STATUS_RESULT = 1 ∧ round = t.ring.lullRound
   then (t.put RING_LULL_STATUS_RESULT 4).put RING_LULL_STATUS_LAST_REASON reason else t))) ∧
  (∀ (s : State),
      s.flag RING_NODE_ROOT = true →
      s.get RING_LULL_STATUS_RESULT = 1 →
      s.ring.commitSent = false →
      exec (.lullRoundTimeout) s = .next (s.endRound 5 10)) ∧
  (∀ (s : State),
      s.flag RING_NODE_ROOT = false →
      s.get RING_LULL_STATUS_STATE = 1 →
      exec (.lullRoundTimeout) s = .next (s.put RING_LULL_STATUS_STATE 0))

/-- R37, R39, R171, R172, R316, R399: The Lull set goes off and comes back, and what wakes it. A committed node whose Lull set has
drained saves its configuration, takes the set's domains off and is in LULL, from which a wake that came meanwhile leads at
once; while the set has not drained nothing changes. A waking node brings the set up again, restores it and is ACTIVE, or
TWIN-STANDBY at a standby half. In LULL and DORMANT a port whose signal is gone arms its wake, and activity on an armed port
wakes; a port that has not armed its wake in time and the WAKE command wake from LULL alone. A dominant RXD line that can wake
is recorded with its controller, the first time alone, and wakes. -/
def Obligations.LullSleep : Prop :=
  (∀ (s : State),
      s.get RING_LULL_STATUS_STATE = 2 →
      s.lullDrained = true →
      exec (.lullSetOff) s = .next ((let t := s.lullDomains.foldl (fun s d => ((s.stopDomain d).endThreat d).setPhase d .off) (s.saveConfig s.lullDomains)
   let u := (t.setMode mLULL).put RING_LULL_STATUS_STATE 3
   let v : State := { u with node := { u.node with wakeLate := false } }
   if t.node.wakeLate then (v.put RING_LULL_STATUS_STATE 4).portsWake else v))) ∧
  (∀ (s : State),
      s.lullDrained = false →
      exec (.lullSetOff) s = .next (s)) ∧
  (∀ (s : State),
      s.get RING_LULL_STATUS_STATE = 4 →
      exec (.lullSetUp) s = .next ((let t := s.lullBack
   let u := (t.setMode (if t.node.twinRole = .standby then mSTANDBY else mACTIVE)).put RING_LULL_STATUS_STATE 0
   (s.lullOff.foldl State.restoreDomain u).epChange []))) ∧
  (∀ (s : State),
      s.mode ≠ mDORMANT →
      exec (.lullWakeCmd) s = .next (s.wake 5 6)) ∧
  (∀ (s : State),
      s.mode = mDORMANT →
      exec (.lullWakeCmd) s = .next (s)) ∧
  (∀ (s : State) (port : Fin 3),
      s.mode = mLULL ∨ s.mode = mDORMANT →
      exec (.ringWakeArm port) s = .next ({ s.clearLanes port with ring := { s.ring with wakeArmed := setBit s.ring.wakeArmed port } })) ∧
  (∀ (s : State) (port : Fin 3),
      s.ring.wakeArmed.testBit port = true →
      exec (.ringActivityWake port) s = .next (s.wake (if port.val = 2 then 6 else 1 + port.val) (if port.val = 2 then 7 else 2 + port.val))) ∧
  (∀ (s : State) (port : Fin 3),
      s.ring.wakeArmed.testBit port = false →
      exec (.ringActivityWake port) s = .next (s)) ∧
  (∀ (s : State) (port : Fin 3),
      s.mode = mLULL →
      s.ring.wakeArmed.testBit port = false →
      exec (.ringQuietTimer port) s = .next (s.wake (if port.val = 2 then 6 else 1 + port.val) (if port.val = 2 then 7 else 2 + port.val))) ∧
  (∀ (s : State) (port : Fin 3),
      s.mode = mDORMANT →
      exec (.ringQuietTimer port) s = .next (s)) ∧
  (∀ (s : State) (ctrl : Fin 48),
      s.canWakes (ctrl.val / 8) = true →
      (s.get AON_WAKE_SRC_SRC).testBit 3 = false →
      exec (.aonCanWake ctrl) s = .next ((s.put AON_WAKE_SRC_CAN_IDX ctrl.val).wake 3 4)) ∧
  (∀ (s : State) (ctrl : Fin 48),
      s.canWakes (ctrl.val / 8) = true →
      (s.get AON_WAKE_SRC_SRC).testBit 3 = true →
      exec (.aonCanWake ctrl) s = .next (s.wake 3 4)) ∧
  (∀ (s : State) (ctrl : Fin 48),
      s.canWakes (ctrl.val / 8) = false →
      exec (.aonCanWake ctrl) s = .next (s))

/-- R143, R144, R145, R154, R155: A K-frame received on a ring port. A K-frame received whole on a port that is UP is counted. One
whose FCS fails is counted at CNT_FCS and at the Polder too, one that breaks the format is discarded with RING_BAD_FRAME or
without, and one that passes is handed on: kept here where it goes no further than its neighbour and this node takes its type,
spread where it is a broadcast, and routed otherwise. On a port that is not UP it changes nothing. -/
def Obligations.RingFrames : Prop :=
  (∀ (s : State) (port : Fin 3) (bytes : List Byte),
      s.portState port.val ≠ 2 →
      exec (.ringTransitFrame port bytes) s = .next (s)) ∧
  (∀ (s : State) (port : Fin 3) (bytes : List Byte),
      s.portState port.val = 2 →
      frameTest bytes (parseHeader bytes) = 1 →
      exec (.ringTransitFrame port bytes) s = .next ((((s.inc (RING_PORT_CNT_RX port)).inc (RING_PORT_CNT_FCS port)).inc PLD_CNT_CRC).inc (PLD_IN_CNT_DROP port))) ∧
  (∀ (s : State) (port : Fin 3) (bytes : List Byte),
      s.portState port.val = 2 →
      frameTest bytes (parseHeader bytes) = 2 →
      exec (.ringTransitFrame port bytes) s = .next (((s.inc (RING_PORT_CNT_RX port)).discard port).record (32 + port))) ∧
  (∀ (s : State) (port : Fin 3) (bytes : List Byte),
      s.portState port.val = 2 →
      frameTest bytes (parseHeader bytes) = 3 →
      exec (.ringTransitFrame port bytes) s = .next ((s.inc (RING_PORT_CNT_RX port)).discard port)) ∧
  (∀ (s : State) (port : Fin 3) (bytes : List Byte),
      s.portState port.val = 2 →
      frameTest bytes (parseHeader bytes) = 0 →
      exec (.ringTransitFrame port bytes) s = .next ((let t := s.inc (RING_PORT_CNT_RX port)
   let x := parseHeader bytes
   if port.val = 2 ∨ x.type = 0x38 ∨ x.type = 0x28 ∨ x.type = 0x29 then (if t.accepts x.type then t.keep port bytes else t)
   else if x.dst / 4096 = 255 then t.broadcastIn port x bytes
   else t.unicastIn port x bytes)))

/-- R84, R87, R88, R90, R104, R105, R106, R108, R132, R133, R500: Host queues are configured, and their doorbells and heads
polled. HQ_CTRL is taken while every SQ is DISABLED, not back to 0 under a journal that is not OFF, and refused with
CFG_REJECT otherwise. ENABLE of a valid DISABLED SQ takes EPOCH, shows its consumed word and, in REPLAYING, re-sends its
records; of one that is not valid, or with another EPOCH while it is not DISABLED, it is refused. DISABLE stops an ENABLED SQ
or one in ERROR and flushes it; with another EPOCH it is refused, and at a DISABLED SQ it takes EPOCH alone. A CQ is enabled
with a size that R108 allows and refused otherwise, and disabled while every SQ mapped to it is DISABLED. A polled line is
read once at a time, the words of a poll are evaluated, and one that finds work in LULL wakes the root; the head line of a
full CQ is read and its words are evaluated, and a failed read sets DB_READ. -/
def Obligations.HostRings : Prop :=
  (∀ (s : State) (val : Word),
      val.toNat % 2 ≠ s.get HQ_CTRL →
      s.allSqDisabled = true →
      val.toNat % 2 = 1 ∨ s.jrnState = 0 →
      exec (.hqCtrlEn val) s = .next (s.put HQ_CTRL val.toNat)) ∧
  (∀ (s : State) (val : Word),
      val.toNat % 2 ≠ s.get HQ_CTRL →
      s.allSqDisabled = false →
      exec (.hqCtrlEn val) s = .next (s.hqReject)) ∧
  (∀ (s : State) (val : Word),
      val.toNat % 2 ≠ s.get HQ_CTRL →
      val.toNat % 2 = 0 →
      s.jrnState ≠ 0 →
      exec (.hqCtrlEn val) s = .next (s.hqReject)) ∧
  (∀ (s : State) (sq : BitVec 8) (val : Word),
      s.sqState sq.toNat = 0 →
      s.sqValid sq.toNat = true →
      exec (.sqEnable sq val) s = .next ((let t := (s.put (HQ_SQ_CTRL_EPOCH sq.toNat) (val.toNat / 65536)).put (HQ_SQ_STATE_STATE sq.toNat) 1
   let u := State.writeConsumed { t with hq := { t.hq with prod := SMap.erase t.hq.prod sq.toNat, postHeld := t.hq.postHeld.filter (fun q => q != sq.toNat) } } sq.toNat
   if u.jrnState = 2 then u.replaySq sq.toNat else u))) ∧
  (∀ (s : State) (sq : BitVec 8) (val : Word),
      s.sqState sq.toNat = 0 →
      s.sqValid sq.toNat = false →
      exec (.sqEnable sq val) s = .next (s.hqReject)) ∧
  (∀ (s : State) (sq : BitVec 8) (val : Word),
      s.sqState sq.toNat ≠ 0 →
      val.toNat / 65536 ≠ s.get (HQ_SQ_CTRL_EPOCH sq.toNat) →
      exec (.sqEnable sq val) s = .next (s.hqReject)) ∧
  (∀ (s : State) (sq : BitVec 8) (val : Word),
      s.sqState sq.toNat = 1 ∨ s.sqState sq.toNat = 3 →
      val.toNat / 65536 = s.get (HQ_SQ_CTRL_EPOCH sq.toNat) →
      exec (.sqDisable sq val) s = .next (((((s.put (HQ_SQ_STATE_STATE sq.toNat) 2).flushSq sq.toNat).pumpRecords sq.toNat).settleSq sq.toNat).pump sq.toNat)) ∧
  (∀ (s : State) (sq : BitVec 8) (val : Word),
      s.sqState sq.toNat = 0 →
      exec (.sqDisable sq val) s = .next (s.put (HQ_SQ_CTRL_EPOCH sq.toNat) (val.toNat / 65536))) ∧
  (∀ (s : State) (sq : BitVec 8) (val : Word),
      s.sqState sq.toNat ≠ 0 →
      val.toNat / 65536 ≠ s.get (HQ_SQ_CTRL_EPOCH sq.toNat) →
      exec (.sqDisable sq val) s = .next (s.hqReject)) ∧
  (∀ (s : State) (cq : BitVec 8) (val : Word),
      s.flag (HQ_CQ_CFG_ENABLE cq.toNat) = false →
      val.toNat % 2 = 1 →
      6 ≤ val.toNat / 2 ^ 19 % 32 ∧ val.toNat / 2 ^ 19 % 32 ≤ 16 →
      exec (.cqEnable cq val) s = .next ((let t := (s.put (HQ_CQ_CFG_VECTOR cq.toNat) (val.toNat / 2 ^ 24)).put (HQ_CQ_CFG_LOG2_ENTRIES cq.toNat) (val.toNat / 2 ^ 19)
   let u := (t.put (HQ_CQ_CFG_ENABLE cq.toNat) 1).put (HQ_CQ_WRITTEN cq.toNat) 0
   { u with hq := { u.hq with
     cqHead := SMap.erase u.hq.cqHead cq.toNat
     unsignalled := SMap.erase u.hq.unsignalled cq.toNat } }))) ∧
  (∀ (s : State) (cq : BitVec 8) (val : Word),
      s.flag (HQ_CQ_CFG_ENABLE cq.toNat) = false →
      val.toNat % 2 = 1 →
      ¬ (6 ≤ val.toNat / 2 ^ 19 % 32 ∧ val.toNat / 2 ^ 19 % 32 ≤ 16) →
      exec (.cqEnable cq val) s = .next (s.hqReject)) ∧
  (∀ (s : State) (cq : BitVec 8) (val : Word),
      s.flag (HQ_CQ_CFG_ENABLE cq.toNat) = true →
      val.toNat / 2 ^ 24 = s.get (HQ_CQ_CFG_VECTOR cq.toNat) →
      val.toNat / 2 ^ 19 % 32 = s.get (HQ_CQ_CFG_LOG2_ENTRIES cq.toNat) →
      val.toNat % 2 = 0 →
      exec (.cqEnable cq val) s = .next ((if (List.range 256).all (fun q => s.get (HQ_SQ_CFG_CQ q) != cq.toNat || s.sqState q == 0)
   then s.put (HQ_CQ_CFG_ENABLE cq.toNat) 0 else s.hqReject))) ∧
  (∀ (s : State) (line : Fin 32),
      s.linePolled line = true →
      s.hq.polling.testBit line = false →
      exec (.doorbellPollIssue line) s = .next (State.emit { s with hq := { s.hq with polling := setBit s.hq.polling line } } (.hostRead (s.dbBase + 64 * line) 64 0))) ∧
  (∀ (s : State) (line : Fin 32) (words : Option (List Word64)),
      s.mode ≠ mLULL →
      (s.pollReturn line words).1.mode ≠ mLULL →
      exec (.doorbellPollReturn line words) s = .next ((s.pollReturn line words).1)) ∧
  (∀ (s : State) (line : Fin 32) (words : Option (List Word64)),
      (s.pollReturn line words).1.mode = mLULL →
      (s.pollReturn line words).1.flag RING_NODE_ROOT = true →
      (s.pollReturn line words).2 = true →
      exec (.doorbellPollReturn line words) s = .next ((s.pollReturn line words).1.wake 7 8)) ∧
  (∀ (s : State) (line : Fin 32),
      (lineOf line).any s.cqFull = true →
      exec (.cqHeadPoll line) s = .next (s.emit (.hostRead (s.dbBase + 2048 + 64 * line) 64 1))) ∧
  (∀ (s : State) (line : Fin 32),
      exec (.cqHeadReadReturn line none) s = .next (s.raise HQ_ERR_DB_READ)) ∧
  (∀ (s : State) (line : Fin 32) (ws : List Word64),
      exec (.cqHeadReadReturn line (some ws)) s = .next (s.each (List.range 8) (fun s i => s.headWord (8 * line + i) ((ws.getD i 0).toNat % 2 ^ 32))))

/-- R91, R93, R94, R104, R113, R117, R118, R119, R120, R136: Items are fetched, accepted and completed. While fetching runs the
descriptors of the next SQ that may fetch are read; its return is checked in order, and a failed one puts the SQ in ERROR; a
payload that has been read makes its item ready, a line's bad byte completes it with status 0x01 and a failed read with 0x0C;
an item whose turn it is is accepted where its record and payload fit; records covered by a read are flushed and their items
forwarded; a NOP completes at acceptance, and a FENCE when every earlier item has. -/
def Obligations.HostItems : Prop :=
  (∀ (s : State) (n : Nat),
      s.fetchRuns = true →
      s.nextFetch = some n →
      exec (.descFetchIssue) s = .next (State.readSlots { s with hq := { s.hq with lastSq := n, fetching := SMap.insert s.hq.fetching n (s.fetchable n) } } n
    (s.get (HQ_SQ_CONS n)) (s.fetchable n))) ∧
  (∀ (s : State) (sq : BitVec 8) (k : Nat) (l : List (List Byte)),
      SMap.find s.hq.fetching sq.toNat = some k →
      exec (.descFetchReturn sq (some l)) s = .next ((let t : State := { s with hq := { s.hq with fetching := SMap.erase s.hq.fetching sq.toNat } }
   let u := (l.take k).foldl (fun s bs => s.takeDesc sq.toNat bs) t
   ((u.writeConsumed sq.toNat).showInflight sq.toNat).hifPump.settleSq sq.toNat))) ∧
  (∀ (s : State) (sq : BitVec 8) (k : Nat),
      SMap.find s.hq.fetching sq.toNat = some k →
      exec (.descFetchReturn sq none) s = .next (((State.sqError { s with hq := { s.hq with fetching := SMap.erase s.hq.fetching sq.toNat } } sq.toNat 0x0F).recordWith 17 [sq.toNat]).settleSq sq.toNat)) ∧
  (∀ (s : State) (sq : BitVec 8) (num : Nat) (bs : List Byte) (i : Item),
      s.item? sq.toNat num = some i →
      i.stage = .reading →
      i.badLineByte bs = false →
      exec (.payloadReadDone sq num (some bs)) s = .next (s.updItem sq.toNat num (fun i => { i with stage := .ready, data := bs.take i.desc.length }))) ∧
  (∀ (s : State) (sq : BitVec 8) (num : Nat) (bs : List Byte) (i : Item),
      s.item? sq.toNat num = some i →
      i.stage = .reading →
      i.badLineByte bs = true →
      exec (.payloadReadDone sq num (some bs)) s = .next (s.complete sq.toNat num 0x01 0 0 false)) ∧
  (∀ (s : State) (sq : BitVec 8) (num : Nat) (i : Item),
      s.item? sq.toNat num = some i →
      i.stage = .reading →
      exec (.payloadReadDone sq num none) s = .next (s.complete sq.toNat num 0x0C 0 0 false)) ∧
  (∀ (s : State) (sq : BitVec 8) (num : Nat) (i : Item) (slot off len : Nat),
      s.item? sq.toNat num = some i →
      s.mayAccept i = true →
      s.journalPlace i = some (slot, off, len) →
      exec (.itemAccept sq num) s = .next (s.acceptAt i slot off len)) ∧
  (∀ (s : State) (sq : BitVec 8) (num : Nat) (i : Item),
      s.item? sq.toNat num = some i →
      s.mayAccept i = false ∨ s.journalPlace i = none →
      exec (.itemAccept sq num) s = .next (s)) ∧
  (∀ (s : State) (covered : Nat),
      exec (.journalFlushReadDone covered) s = .next ((let done := s.dlv.unflushed.take covered
   let t : State := { s with dlv := { s.dlv with unflushed := s.dlv.unflushed.drop covered } }
   (t.setItems (t.hq.items.map (fun i =>
     if i.stage = .accepted ∧ done.contains (i.sq, i.wsn) then { i with stage := .flushed } else i))).kick))) ∧
  (∀ (s : State) (sq : BitVec 8) (num : Nat) (i : Item),
      s.item? sq.toNat num = some i →
      i.desc.opcode = 0x00 →
      i.isAccepted = true →
      i.isDone = false →
      exec (.nop sq num) s = .next (s.retire i.sq i.wsn 0 0 0 false)) ∧
  (∀ (s : State) (sq : BitVec 8) (num : Nat) (i : Item),
      s.item? sq.toNat num = some i →
      i.desc.opcode = 0x01 →
      i.isAccepted = true →
      i.isDone = false →
      ((s.itemsOf i.sq).takeWhile (fun j => j.num != num)).all (fun j => j.isDone) = true →
      exec (.fence sq num) s = .next (s.retire i.sq i.wsn 0 0 0 false)) ∧
  (∀ (s : State) (sq : BitVec 8) (num : Nat) (i : Item),
      s.item? sq.toNat num = some i →
      ((s.itemsOf i.sq).takeWhile (fun j => j.num != num)).all (fun j => j.isDone) = false →
      exec (.fence sq num) s = .next (s))

/-- R98, R99, R101, R110, R436, R499: Completion records and messages. The oldest record that waits for an enabled CQ is written
where a slot is free; while host writes cannot be issued it stays and CQ_WRITE is set, and one that finds the CQ full is
counted once. The modulation timer sends the CQ's message, and a vector that is unmasked sends its pending one unless the
function is masked. When host writes can be issued again, outside a reset of HIF, the held writes follow in their order, then
table entries and consumed words with their current values, then the host-log copies. -/
def Obligations.HostRecords : Prop :=
  (∀ (s : State) (cq : BitVec 8) (r : Record) (rest : List Record),
      SMap.getD s.hq.records cq.toNat [] = r :: rest →
      s.flag (HQ_CQ_CFG_ENABLE cq.toNat) = true →
      s.hq.blocked = false →
      s.cqFull cq.toNat = false →
      exec (.cqRecordWrite cq) s = .next (s.putRecord cq.toNat r rest)) ∧
  (∀ (s : State) (cq : BitVec 8) (r : Record) (rest : List Record),
      SMap.getD s.hq.records cq.toNat [] = r :: rest →
      s.flag (HQ_CQ_CFG_ENABLE cq.toNat) = true →
      s.hq.blocked = true →
      exec (.cqRecordWrite cq) s = .next (s.raise HQ_ERR_CQ_WRITE)) ∧
  (∀ (s : State) (cq : BitVec 8) (r : Record) (rest : List Record),
      SMap.getD s.hq.records cq.toNat [] = r :: rest →
      s.flag (HQ_CQ_CFG_ENABLE cq.toNat) = true →
      s.hq.blocked = false →
      s.cqFull cq.toNat = true →
      r.stalled = false →
      exec (.cqRecordWrite cq) s = .next (State.inc { s with hq := { s.hq with records := SMap.insert s.hq.records cq.toNat ({ r with stalled := true } :: rest) } } (HQ_CQ_STALLS cq.toNat))) ∧
  (∀ (s : State) (cq : BitVec 8),
      SMap.getD s.hq.unsignalled cq.toNat 0 ≠ 0 →
      exec (.cqModTimeExpiry cq) s = .next (State.msix { s with hq := { s.hq with unsignalled := SMap.erase s.hq.unsignalled cq.toNat } } (s.get (HQ_CQ_CFG_VECTOR cq.toNat)))) ∧
  (∀ (s : State) (vector : BitVec 8),
      exec (.msixVectorUnmask vector) s = .next ((let t := s.put (MSIX_CTRL vector.toNat) 0
   if ¬ t.hq.funcMask ∧ (t.get (MSIX_PBA (vector.toNat / 32))).testBit (vector.toNat % 32)
   then (t.dropBits (MSIX_PBA (vector.toNat / 32)) (1 <<< (vector.toNat % 32))).msix vector.toNat else t))) ∧
  (∀ (s : State),
      exec (.hostWritesBlocked) s = .next ((let t : State := { s with hq := { s.hq with blocked := true } }
   if s.hq.records.any (fun e => e.2 != []) then t.raise HQ_ERR_CQ_WRITE else t))) ∧
  (∀ (s : State),
      s.hifHeld = false →
      exec (.hostWritesResumed) s = .next ((let t : State := { s with hq := { s.hq with blocked := false, heldWrites := [], heldCons := [], heldTable := [] } }
   let u := s.hq.heldTable.foldl State.writeTable (s.hq.heldWrites.foldl State.issueHeld t)
   (s.hq.heldCons.foldl State.writeConsumed u).hlogCopy))) ∧
  (∀ (s : State),
      s.hifHeld = true →
      exec (.hostWritesResumed) s = .next (s))

/-- R120, R121, R123, R124, R129, R135, R146, R160, R163, R168, R170, R334: Frames of accepted items and what their loss leads to.
A tagged DATA frame voids a Lull round, is mirrored to a pair's standby half, and brings its item or a segment of it. The
RETURN of an open item under the present GEN is written to its buffer, and the last one retires a REG_READ or a BRIDGE_READ;
an ACK frame acts entry by entry; an item without acknowledgement is resent with its timeout doubled up to 1 s; a RESYNC with
a new ledger ends the items forwarded there INDETERMINATE and has the others resent; a destination absent for HOLD_TIME
returns REDIRECT for items never forwarded and ends the others INDETERMINATE. -/
def Obligations.Delivery : Prop :=
  (∀ (s : State) (tag : Tag) (ep : BitVec 12) (cls : Fin 8) (param opcode length segOff : Nat) (last : Bool) (bytes : List Byte),
      exec (.dataFrame tag ep cls param opcode length segOff last bytes) s = .next (((s.voidBy 5).journalInput (.frame tag ep.toNat cls.val param opcode length segOff last bytes)).takeFrame tag ep.toNat cls.val param opcode length segOff last bytes)) ∧
  (∀ (s : State) (tag : Tag) (segOff : Nat) (last : Bool) (bytes : List Byte) (i : Item),
      tag.gen = s.dlv.gen →
      s.openItem? tag.sq tag.wsn = some i →
      exec (.returnFrame tag segOff last bytes) s = .next ((let t := (s.hostWrite (i.desc.bufAddr + segOff) bytes).updItem i.sq i.num (fun i => { i with got := segOff + bytes.length })
   if last ∧ (i.desc.opcode = 0x21 ∨ i.desc.opcode = 0x31) then t.retire i.sq i.wsn 0 (segOff + bytes.length) 0 false else t))) ∧
  (∀ (s : State) (tag : Tag) (segOff : Nat) (last : Bool) (bytes : List Byte),
      tag.gen ≠ s.dlv.gen ∨ s.openItem? tag.sq tag.wsn = none →
      exec (.returnFrame tag segOff last bytes) s = .next (s)) ∧
  (∀ (s : State) (src : Nat) (entries : List AckEntry),
      exec (.ackFrame src entries) s = .next (entries.foldl (fun s e => s.ackEntry src e) s)) ∧
  (∀ (s : State) (sq : BitVec 8) (wsn : Nat) (i : Item),
      s.openItem? sq.toNat wsn = some i →
      i.stage = .forwarded →
      exec (.ackTimeoutExpiry sq wsn) s = .next ((s.updItem i.sq i.num (fun i => { i with timeout := min (2 * i.timeout) 1000 })).resend { i with timeout := min (2 * i.timeout) 1000 })) ∧
  (∀ (s : State) (sq : BitVec 8) (wsn : Nat),
      s.openItem? sq.toNat wsn = none →
      exec (.ackTimeoutExpiry sq wsn) s = .next (s)) ∧
  (∀ (s : State) (src seq ledger : Nat),
      exec (.resyncFrame src seq ledger) s = .next ((let t : State := { s with ring := { s.ring with
     lastSeq := SMap.insert s.ring.lastSeq src (seq % 65536), loading := s.ring.loading.filter (fun n => n != src) } }
   let mine := t.hq.items.filter (fun i => i.isAccepted && !i.isDone && i.everFwd && i.desc.dest / 4096 == src)
   let u := if ledger = 2 then (t.indetAll mine 1).kick else t
   (u.resendTo src (fun _ => true)).sendFullState))) ∧
  (∀ (s : State) (node : Nat),
      node ≠ s.nodeId →
      s.routePort node 0 = none →
      exec (.destAbsentExpiry node) s = .next ((let mine := s.hq.items.filter (fun i => i.isAccepted && !i.isDone && i.desc.dest / 4096 == node
     && i.desc.opcode != 0 && i.desc.opcode != 1)
   let t := (mine.filter (fun i => !i.everFwd)).foldl (fun s i => s.retireRaw i.sq i.wsn 0x21 0 2 false) s
   (t.indetAll (mine.filter (fun i => i.everFwd)) 1).kick)))

/-- R128, R132, R133, R134, R137: The host's journal is enabled, scanned and replayed. An enable of the journal with HQ_CTRL.EN =
1, sizes in range and a GEN that is not 0 in a header that can be read starts it from the header and the WSN table, and is
refused with an error code otherwise; without ENABLE the fields are taken, and ENABLE written back to 0 while every SQ is
DISABLED leads to OFF (the model's choice: notes/assumptions/16.md). A scan whose records pass their CRC is taken over and
replayed, and a record of a scan or a replay that does not leads to ERROR; WAIT_GEN ends with empty numbers under the new GEN;
replay ends in RUNNING when every record has been re-sent. -/
def Obligations.Journal : Prop :=
  (∀ (s : State) (val : Word) (gen : Nat) (table : List (Nat × Nat × Nat)),
      s.flag HQ_JRN_CFG_ENABLE = false →
      val.toNat % 2 = 1 →
      s.flag HQ_CTRL = true →
      jrnSizesOk val.toNat = true →
      gen % 2 ^ 32 ≠ 0 →
      exec (.journalEnable val (some gen) table) s = .next (s.jrnStart val.toNat gen table)) ∧
  (∀ (s : State) (val : Word) (header : Option Nat) (table : List (Nat × Nat × Nat)),
      s.flag HQ_JRN_CFG_ENABLE = false →
      val.toNat % 2 = 1 →
      s.flag HQ_CTRL = false ∨ jrnSizesOk val.toNat = false →
      exec (.journalEnable val header table) s = .next ((s.put HQ_JRN_STATUS_ERR 1).hqReject)) ∧
  (∀ (s : State) (val : Word) (table : List (Nat × Nat × Nat)),
      s.flag HQ_JRN_CFG_ENABLE = false →
      val.toNat % 2 = 1 →
      s.flag HQ_CTRL = true →
      jrnSizesOk val.toNat = true →
      exec (.journalEnable val none table) s = .next ((s.put HQ_JRN_STATUS_ERR 3).hqReject)) ∧
  (∀ (s : State) (val : Word) (header : Option Nat) (table : List (Nat × Nat × Nat)),
      s.flag HQ_JRN_CFG_ENABLE = false →
      val.toNat % 2 = 0 →
      exec (.journalEnable val header table) s = .next (s.jrnFields val.toNat)) ∧
  (∀ (s : State) (val : Word) (gen : Nat) (table : List (Nat × Nat × Nat)),
      s.flag HQ_JRN_CFG_ENABLE = false →
      val.toNat % 2 = 1 →
      s.flag HQ_CTRL = true →
      jrnSizesOk val.toNat = true →
      gen % 2 ^ 32 = 0 →
      exec (.journalEnable val (some gen) table) s = .next ((s.put HQ_JRN_STATUS_ERR 2).hqReject)) ∧
  (∀ (s : State) (val : Word) (header : Option Nat) (table : List (Nat × Nat × Nat)),
      s.flag HQ_JRN_CFG_ENABLE = true →
      val.toNat / 65536 % 8192 = s.get HQ_JRN_CFG_SPOOL_MIB →
      val.toNat / 256 % 32 = s.get HQ_JRN_CFG_LOG2_RECORDS →
      val.toNat % 2 = 0 →
      s.allSqDisabled = true →
      exec (.journalEnable val header table) s = .next ((s.put HQ_JRN_CFG_ENABLE 0).jrnOff)) ∧
  (∀ (s : State) (records : List (Nat × List Byte × List Byte)),
      s.jrnState = 1 →
      ((records.map (fun (i, bs, d) => readRecord i bs d)).filter (fun r => r.st != 0)).all (fun r => r.ok) = true →
      exec (.journalScanDone records) s = .next (s.takeScan ((records.map (fun (i, bs, d) => readRecord i bs d)).filter (fun r => r.st != 0)))) ∧
  (∀ (s : State) (records : List (Nat × List Byte × List Byte)),
      s.jrnState = 1 ∨ s.jrnState = 2 →
      ((records.map (fun (i, bs, d) => readRecord i bs d)).filter (fun r => r.st != 0)).all (fun r => r.ok) = false →
      exec (.journalScanDone records) s = .next (s.jrnError)) ∧
  (∀ (s : State),
      s.jrnState = 4 →
      exec (.journalWaitGenExpiry) s = .next (State.showSpool { s.put HQ_JRN_STATUS_STATE 3 with dlv := { s.dlv with
    gen := s.dlv.newGen, last := [], retired := [], lastDest := [], slots := [], nextSlot := 0, spoolNext := 0, unflushed := [] } })) ∧
  (∀ (s : State),
      s.jrnState = 2 →
      s.hq.items.all Item.resent = true →
      exec (.journalReplayDone) s = .next (s.put HQ_JRN_STATUS_STATE 3)) ∧
  (∀ (s : State),
      s.hq.items.all Item.resent = false →
      exec (.journalReplayDone) s = .next (s))

/-- R140, R141, R142, R156, R157, R175: Ring ports train, carry credits and are lost. Signal detect takes a DOWN port of a domain
that is up to TRAINING, and is shown at one in TRAINING; training ends with the port UP. The loss of a port that is UP takes
it to HOLD, is counted, shown at its lanes and recorded, answered with REMOTE_FAULT unless that was its cause, and wraps the
ring or ends the twin's pairing; the loss of any other port changes nothing. A CREDIT set adds its cells, one of 0 cells is
discarded, and pending returns of a port that does not withhold them are sent and cleared. -/
def Obligations.RingPorts : Prop :=
  (∀ (s : State) (port : Fin 3),
      s.portState port = 0 →
      s.isUp (dRGE + port) = true →
      exec (.ringSignalDetect port) s = .next ((s.setPort port 1).put (RING_PORT_STATUS_SIG_DET port) (laneBits port))) ∧
  (∀ (s : State) (port : Fin 3),
      s.portState port = 1 →
      exec (.ringSignalDetect port) s = .next (s.put (RING_PORT_STATUS_SIG_DET port) (laneBits port))) ∧
  (∀ (s : State) (port : Fin 3),
      s.portState port = 1 →
      exec (.ringTrainingDone port) s = .next (s.portUp port)) ∧
  (∀ (s : State) (port : Fin 3) (lanes : Fin 16),
      s.portState port = 2 →
      exec (.ringPortLoss port ⟨3, lanes⟩) s = .next ((let t := (((s.setPort port 3).inc (RING_PORT_CNT_DOWN port)).put (RING_PORT_STATUS_RF_RX port) 1).record (40 + port)
   if port.val = 2 then t.twinLinkLost else t.wrapPort port))) ∧
  (∀ (s : State) (port : Fin 3) (cause : Fin 4) (lanes : Fin 16),
      s.portState port = 2 →
      cause ≠ 3 →
      exec (.ringPortLoss port ⟨cause, lanes⟩) s = .next ((let t := (((s.setPort port 3).inc (RING_PORT_CNT_DOWN port)).loseLanes port cause lanes).record (40 + port)
   let u := State.emit { t with ring := { t.ring with remoteFault := setBit t.ring.remoteFault port } } (.orderedSet port .remoteFault)
   if port.val = 2 then u.twinLinkLost else u.wrapPort port))) ∧
  (∀ (s : State) (port : Fin 3) (cause : Fin 4) (lanes : Fin 16),
      s.portState port ≠ 2 →
      exec (.ringPortLoss port ⟨cause, lanes⟩) s = .next (s)) ∧
  (∀ (s : State) (port : Fin 3) (cls : Fin 8) (cells : Nat),
      cells ≠ 0 →
      exec (.creditOs port cls cells) s = .next ((let k := 8 * port.val + cls.val
   { s with ring := { s.ring with credits := SMap.insert s.ring.credits k (SMap.getD s.ring.credits k 0 + cells % 65536) } }))) ∧
  (∀ (s : State) (port : Fin 3) (cls : Fin 8),
      exec (.creditOs port cls 0) s = .next (s)) ∧
  (∀ (s : State) (port : Fin 3),
      s.creditsHeld port = false →
      exec (.creditReturnTimer port) s = .next (s.each (List.range 8) (fun s k =>
    let n := SMap.getD s.ring.returns (8 * port.val + k) 0
    if n = 0 then s
    else State.grant { s with ring := { s.ring with returns := SMap.erase s.ring.returns (8 * port.val + k) } } port k n))) ∧
  (∀ (s : State) (port : Fin 3),
      s.creditsHeld port = true →
      exec (.creditReturnTimer port) s = .next (s))

/-- R149, R150, R151, R152, R158, R159, R174, R130, R163, R164, R395: Enumeration and endpoint state. The root enumerates when
RING_CTRL enables it, when ENUM_START asks and when a wrap or a wake calls for it. At another node an ENUM is answered back
the way it came unless it is wrapped, and passed on; the root takes its own off the ring, and notes the unwrapped one of the
present round on ring A. Reports of the round are collected, and five milliseconds after ENUM the root forms the ring; a node
applies the MAP of the round it answered and is held out under ID 0; PROTECT adds or drops a break. An EP_STATE of another
node updates the copy of its sender, goes on on its ring, owes EP_FLUSH for what it withdraws and has the items of the
endpoints it names resent; at a held-out node it goes on alone, and the node's own is taken off ring A and goes on on ring B.
An EP_FLUSH is noted for the drain of its version, and a drain of an endpoint that every node has answered is over unless its
unit waits for it; until then EP_STATE is sent again. -/
def Obligations.Enumeration : Prop :=
  (∀ (s : State),
      s.flag RING_NODE_ROOT = true →
      s.flag RING_CTRL_EN = false →
      exec (.ringEnable) s = .next ((s.put RING_CTRL_EN 1).startEnum)) ∧
  (∀ (s : State),
      s.flag RING_NODE_ROOT = false →
      exec (.ringEnable) s = .next (s)) ∧
  (∀ (s : State),
      s.rootRuns = true →
      s.get RING_ENUM_STATUS_STATE ≠ 1 →
      exec (.enumStart) s = .next (s.startEnum)) ∧
  (∀ (s : State),
      s.rootRuns = true →
      s.ring.enumAgain = true →
      exec (.enumRestartTimer) s = .next (s.startEnum)) ∧
  (∀ (s : State) (port : Fin 2) (src seq round hops : Nat),
      s.flag RING_NODE_ROOT = false ∨ src ≠ s.nodeId →
      exec (.enumFrame port ⟨src, seq⟩ round hops false) s = .next ((s.answerEnum port src round hops).passOn port src seq hops (255 * 4096) false (.enum round))) ∧
  (∀ (s : State) (port : Fin 2) (src seq round hops : Nat),
      s.flag RING_NODE_ROOT = false ∨ src ≠ s.nodeId →
      exec (.enumFrame port ⟨src, seq⟩ round hops true) s = .next (s.passOn port src seq hops (255 * 4096) true (.enum round))) ∧
  (∀ (s : State) (src seq round hops : Nat),
      s.flag RING_NODE_ROOT = true →
      src = s.nodeId →
      round = s.get RING_ENUM_STATUS_ROUND →
      exec (.enumFrame 1 ⟨src, seq⟩ round hops false) s = .next ({ s with ring := { s.ring with enumBack := true } })) ∧
  (∀ (s : State) (port : Fin 2) (src seq round hops : Nat) (wrapped : Bool),
      s.flag RING_NODE_ROOT = true →
      src = s.nodeId →
      port = 0 ∨ wrapped = true ∨ round ≠ s.get RING_ENUM_STATUS_ROUND →
      exec (.enumFrame port ⟨src, seq⟩ round hops wrapped) s = .next (s)) ∧
  (∀ (s : State) (uid claim mode flags hops round : Nat),
      s.flag RING_NODE_ROOT = true →
      s.get RING_ENUM_STATUS_STATE = 1 →
      round = s.get RING_ENUM_STATUS_ROUND →
      exec (.enumReportFrame uid claim mode flags hops round) s = .next ({ s with ring := { s.ring with reports := s.ring.reports ++ [({ uid, claim, mode, flags, hops } : Report)] } })) ∧
  (∀ (s : State),
      s.flag RING_NODE_ROOT = true →
      s.get RING_ENUM_STATUS_STATE = 1 →
      exec (.enumMapTimer) s = .next (s.formRing)) ∧
  (∀ (s : State) (src round n flags : Nat) (ids : List Nat),
      s.flag RING_NODE_ROOT = false →
      s.ring.answered = some round →
      ids.getD (s.myPos n) 0 ≠ 0 →
      exec (.mapFrame src round n flags ids) s = .next ((let t := (s.applyMap n (flags % 2 = 1) ids (s.myPos n)).put RING_ENUM_STATUS_ROUND round
   State.sendFullState ((t.put RING_NODE_ID (ids.getD (s.myPos n) 0)).put RING_NODE_HELD_OUT 0)))) ∧
  (∀ (s : State) (src round n flags : Nat) (ids : List Nat),
      s.flag RING_NODE_ROOT = false →
      s.ring.answered = some round →
      ids.getD (s.myPos n) 0 = 0 →
      exec (.mapFrame src round n flags ids) s = .next ((let t := (s.applyMap n (flags % 2 = 1) ids (s.myPos n)).put RING_ENUM_STATUS_ROUND round
   ((t.put RING_NODE_ID 0).raise RING_NODE_HELD_OUT).record 35))) ∧
  (∀ (s : State) (src seq port : Nat),
      exec (.protectFrame src seq 1 port) s = .next ((s.addBreak src port seq).protectionEvent false)) ∧
  (∀ (s : State) (src seq port : Nat),
      exec (.protectFrame src seq 2 port) s = .next (((s.dropBreak src port seq).protectionEvent true).releaseHeld)) ∧
  (∀ (s : State) (src seq : Nat) (pair wrapped : Bool) (ring : Fin 2) (hops version up draining fenced : Nat) (full more : Bool) (entries : List (Nat × Nat)),
      src ≠ s.nodeId ∨ src = 0 →
      s.flag RING_NODE_HELD_OUT = false →
      exec (.epStateFrame ⟨src, seq⟩ pair ⟨ring, wrapped⟩ hops version up draining fenced full more entries) s = .next ((let t := (s.mergeEp src pair ring hops version up draining fenced full more entries).passOn (1 - ring.val) src seq hops (255 * 4096) wrapped (.epState pair version up draining fenced full more entries)
   let u := t.oweFlush src version draining ((entries.filter (fun e => e.2 % 32 == 0)).map (fun e => e.1))
   let named := entries.filterMap (fun e => if e.2 % 32 = 0 then none else some e.1)
   u.resendTo src (fun i => named.contains (i.desc.dest % 4096))))) ∧
  (∀ (s : State) (src seq : Nat) (pair wrapped : Bool) (ring : Fin 2) (hops version up draining fenced : Nat) (full more : Bool) (entries : List (Nat × Nat)),
      src ≠ s.nodeId ∨ src = 0 →
      s.flag RING_NODE_HELD_OUT = true →
      exec (.epStateFrame ⟨src, seq⟩ pair ⟨ring, wrapped⟩ hops version up draining fenced full more entries) s = .next (s.passOn (1 - ring.val) src seq hops (255 * 4096) wrapped (.epState pair version up draining fenced full more entries))) ∧
  (∀ (s : State) (src seq : Nat) (pair wrapped : Bool) (ring : Fin 2) (hops version up draining fenced : Nat) (full more : Bool) (entries : List (Nat × Nat)),
      src = s.nodeId →
      src ≠ 0 →
      exec (.epStateFrame ⟨src, seq⟩ pair ⟨ring, wrapped⟩ hops version up draining fenced full more entries) s = .next ((if ring = 0 then s else s.passOn (1 - ring.val) src seq hops (255 * 4096) wrapped (.epState pair version up draining fenced full more entries)))) ∧
  (∀ (s : State) (src version : Nat),
      exec (.epFlushFrame src version) s = .next ((let l := s.ring.drains.map (fun d =>
     if d.version = version ∧ ¬ d.flushed.contains src then { d with flushed := d.flushed ++ [src] } else d)
   { s with ring := { s.ring with drains := l.filter (fun d =>
     !(decide (4096 ≤ d.domain) && (d.domain - 4096) / 16 != 0x40 && s.flushHeld d)) } }))) ∧
  (∀ (s : State),
      exec (.epStateRetransmit) s = .next ((s.ring.drains.filter (fun d => !s.flushHeld d)).foldl State.resendDrain s))

/-- R178, R182, R184, R185, R187, R191, R197, R198, R201: Frames are linked, sent and flushed in the Polder. A frame that an input
slice receives is linked where its cells allow it; one that is too long or fails its check goes to the Spillway, a held
input's unit waits, and an Ethernet frame that finds no room is dropped; a slice that is shut takes none, and counts an
Ethernet frame under a threat. An idle output starts the frame that R198 picks, and ends it with its copy released, and with
the piece of a vision output handed on; a waiting head of a VOQ is promoted. A flush selects its copies, removes those whose
VOQ is at a boundary, and ends when none is left; one while BUSY or with an empty mask is refused. -/
def Obligations.Polder : Prop :=
  (∀ (s : State) (inp : Fin 32) (dsts : List SwitchDst) (outs : List Nat) (cls : Fin 8) (tagged ok : Bool) (bytes : List Byte),
      s.isUp dPLD = true →
      bytes ≠ [] →
      (dsts.filterMap s.switchOut).eraseDups = outs →
      outs ≠ [] ∧ outs.length ≤ 4 →
      s.sliceShut inp outs = false →
      s.inputBarred inp (cellsOf bytes.length - s.reservedFor inp cls bytes.length) outs = false →
      cellsOf bytes.length - s.reservedFor inp cls bytes.length ≤ s.shrFree →
      bytes.length ≤ 9216 →
      checkFrame inp ok bytes = true →
      exec (.pldFrameLink inp dsts cls tagged ok bytes) s = .next ((s.linkFrame inp outs cls tagged bytes (s.reservedFor inp cls bytes.length) none).each outs State.newHeads)) ∧
  (∀ (s : State) (inp : Fin 32) (dsts : List SwitchDst) (outs : List Nat) (cls : Fin 8) (tagged ok : Bool) (bytes : List Byte),
      s.isUp dPLD = true →
      bytes ≠ [] →
      (dsts.filterMap s.switchOut).eraseDups = outs →
      outs ≠ [] ∧ outs.length ≤ 4 →
      s.sliceShut inp outs = false →
      s.inputBarred inp (cellsOf 9216 - s.reservedFor inp cls 9216) outs = false →
      cellsOf 9216 - s.reservedFor inp cls 9216 ≤ s.shrFree →
      9216 < bytes.length →
      exec (.pldFrameLink inp dsts cls tagged ok bytes) s = .next (((s.fillCells (bytes.take 9216)).1.spill inp PLD_CNT_OVERSIZE).each outs State.newHeads)) ∧
  (∀ (s : State) (inp : Fin 32) (dsts : List SwitchDst) (outs : List Nat) (cls : Fin 8) (tagged ok : Bool) (bytes : List Byte),
      s.isUp dPLD = true →
      bytes ≠ [] →
      (dsts.filterMap s.switchOut).eraseDups = outs →
      outs ≠ [] ∧ outs.length ≤ 4 →
      s.sliceShut inp outs = false →
      s.inputBarred inp (cellsOf bytes.length - s.reservedFor inp cls bytes.length) outs = false →
      cellsOf bytes.length - s.reservedFor inp cls bytes.length ≤ s.shrFree →
      bytes.length ≤ 9216 →
      checkFrame inp ok bytes = false →
      exec (.pldFrameLink inp dsts cls tagged ok bytes) s = .next (((s.fillCells bytes).1.spill inp PLD_CNT_CRC).each outs State.newHeads)) ∧
  (∀ (s : State) (inp : Fin 32) (dsts : List SwitchDst) (outs : List Nat) (cls : Fin 8) (tagged ok : Bool) (bytes : List Byte),
      s.isUp dPLD = true →
      bytes ≠ [] →
      (dsts.filterMap s.switchOut).eraseDups = outs →
      outs ≠ [] ∧ outs.length ≤ 4 →
      s.sliceShut inp outs = false →
      s.inputBarred inp (cellsOf (min bytes.length 9216) - s.reservedFor inp cls (min bytes.length 9216)) outs = true ∨ s.shrFree < cellsOf (min bytes.length 9216) - s.reservedFor inp cls (min bytes.length 9216) →
      exec (.pldFrameLink inp dsts cls tagged ok bytes) s = .next ((if 13 ≤ inp.val ∧ inp.val ≤ 28 then (s.spill inp PLD_CNT_NOROOM).inc (NET_PORT_CNT_DROP (inp - 13)) else s.holdInput inp outs).each outs State.newHeads)) ∧
  (∀ (s : State) (inp : Fin 32) (dsts : List SwitchDst) (outs : List Nat) (cls : Fin 8) (tagged ok : Bool) (bytes : List Byte),
      s.isUp dPLD = true →
      bytes ≠ [] →
      (dsts.filterMap s.switchOut).eraseDups = outs →
      outs ≠ [] ∧ outs.length ≤ 4 →
      s.sliceShut inp outs = true →
      exec (.pldFrameLink inp dsts cls tagged ok bytes) s = .next ((if 13 ≤ inp.val ∧ inp.val ≤ 28 ∧ s.isThreat dPLD = true then s.inc (NET_PORT_CNT_DROP (inp - 13)) else s).each outs State.newHeads)) ∧
  (∀ (s : State) (out : Fin 32) (n k : Nat) (f : PFrame) (band : Nat),
      s.isUp dPLD = true →
      (((s.refreshOut out).newHeads out).outSt out).busy = none →
      ((s.refreshOut out).newHeads out).pick out = some (n, k, f, band) →
      exec (.schFrameStart out) s = .next (((s.refreshOut out).newHeads out).startFrame out n k f band)) ∧
  (∀ (s : State) (out : Fin 32),
      s.isUp dPLD = true →
      (((s.refreshOut out).newHeads out).outSt out).busy.isSome = true ∨ ((s.refreshOut out).newHeads out).pick out = none →
      exec (.schFrameStart out) s = .next ((s.refreshOut out).newHeads out)) ∧
  (∀ (s : State) (out : Fin 32) (num : Nat),
      s.isUp dPLD = true →
      (s.outSt out).busy = some num →
      (s.pld.frames.find? (fun f => f.num == num)).bind (fun f => f.vis) = none →
      exec (.frameEgressEnd out) s = .next ((let bytes := ((s.pld.frames.find? (fun f => f.num == num)).map (fun f => f.bytes)).getD []
   let t := ((s.setOut out { s.outSt out with busy := none }).inc (PLD_OUT_CNT_TX out)).emit (.egress out bytes)
   (((if out.val ≤ 2 then t.inc (RING_PORT_CNT_TX out) else t).dropCopy num out true).flushReady).newHeads out))) ∧
  (∀ (s : State) (out : Fin 32) (num : Nat) (o : VisOutput),
      s.isUp dPLD = true →
      (s.outSt out).busy = some num →
      (s.pld.frames.find? (fun f => f.num == num)).bind (fun f => f.vis) = some o →
      exec (.frameEgressEnd out) s = .next ((s.endEgress out num).pieceOut out o)) ∧
  (∀ (s : State) (out : Fin 32),
      (s.outSt out).busy = none →
      exec (.frameEgressEnd out) s = .next (s)) ∧
  (∀ (s : State) (out inp : Fin 32) (cls : Fin 8),
      s.flag (SCH_OUT_CLS_CFG_PROMO_EN out cls) = true →
      (s.headOf out inp cls).isSome = true →
      (s.outSt out).promoted.contains (8 * inp.val + cls.val) = false →
      exec (.voqPromotion out inp cls) s = .next ((s.setOut out { s.outSt out with promoted := (s.outSt out).promoted ++ [8 * inp.val + cls.val] }).inc (SCH_OUT_CNT_PROMO out))) ∧
  (∀ (s : State) (val : Word),
      s.isUp dPLD = true →
      s.flag PLD_FLUSH_STATUS_BUSY = false →
      val.toNat / 2 ^ 10 % 256 ≠ 0 →
      exec (.pldFlush val) s = .next ((let sel := s.flushSel val.toNat
   let t := ((s.put PLD_FLUSH_STATUS_FRAMES 0).put PLD_FLUSH_STATUS_KEPT (b2n (sel.any (fun e => e.1.tagged)))).put PLD_FLUSH_STATUS_BUSY 1
   State.flushReady { t with pld := { t.pld with
     flush := (sel.filter (fun e => !e.1.tagged)).map (fun e => (e.1.num, e.2)), flushV := val.toNat, flushAt := t.pld.nextNum } }))) ∧
  (∀ (s : State) (val : Word),
      s.isUp dPLD = true →
      s.flag PLD_FLUSH_STATUS_BUSY = true ∨ val.toNat / 2 ^ 10 % 256 = 0 →
      exec (.pldFlush val) s = .next (s.raise PLD_ERR_FLUSH_REJECT)) ∧
  (∀ (s : State),
      s.isUp dPLD = true →
      s.pld.flush = [] →
      s.flushRuns = false →
      exec (.pldFlushDone) s = .next (s.put PLD_FLUSH_STATUS_BUSY 0)) ∧
  (∀ (s : State),
      s.pld.flush ≠ [] ∨ s.flushRuns = true →
      exec (.pldFlushDone) s = .next (s))

/-- R204, R206, R208, R209, R210: Weir shapers and Sluice gate lists. A WEIR_RATE write with a BURST that covers the largest frame
applies rate and refill and sets the tokens; any other is refused. A WEIR_BURST write is held. A COMMIT runs the checks of
R208 in order and leaves its error, or a PENDING list with its start time; one that would change LEN while a list is PENDING
is refused. ABORT takes a pending commit back, and one at the start of the list is itself discarded with ERR 6; DISABLE ends a
running list. Once its start time has come a list is operational at entry 0; at the end of its interval an entry gives way to
the next one's mask, or to open gates after DISABLE; heads that a guard band defers are counted when it begins. -/
def Obligations.Weirs : Prop :=
  (∀ (s : State) (out : Fin 32) (cls : Fin 8) (val : Word),
      ¬ (val.toNat.testBit 31 = true ∧ val.toNat % 2 ^ 27 = 0) →
      s.largestFrame out + s.get (SCH_OUT_LINK_OVERHEAD out) ≤ s.get (SCH_OUT_CLS_WEIR_BURST out cls) →
      exec (.weirRateWrite out cls val) s = .next ((let burst := s.get (SCH_OUT_CLS_WEIR_BURST out cls)
   let t := ((s.put (SCH_OUT_CLS_WEIR_RATE_EN out cls) (val.toNat / 2 ^ 31)).put (SCH_OUT_CLS_WEIR_RATE_REFILL out cls) (val.toNat / 2 ^ 30)).put
     (SCH_OUT_CLS_WEIR_RATE_RATE out cls) val.toNat
   t.setWeir out cls { burst, at' := t.count, tokens := if val.toNat.testBit 31 ∧ val.toNat.testBit 30 then burst * 8000000 else 0 }))) ∧
  (∀ (s : State) (out : Fin 32) (cls : Fin 8) (val : Word),
      (val.toNat.testBit 31 = true ∧ val.toNat % 2 ^ 27 = 0) ∨ s.get (SCH_OUT_CLS_WEIR_BURST out cls) < s.largestFrame out + s.get (SCH_OUT_LINK_OVERHEAD out) →
      exec (.weirRateWrite out cls val) s = .next (s.raise SCH_ERR)) ∧
  (∀ (s : State) (out : Fin 32) (cls : Fin 8) (val : Word),
      exec (.weirBurstWrite out cls val) s = .next (s.put (SCH_OUT_CLS_WEIR_BURST out cls) val.toNat)) ∧
  (∀ (s : State) (g : Fin 19) (val : Word),
      s.get (SCH_GCL_STATUS_STATE g) ≠ 1 →
      (s.put (SCH_GCL_CTRL_LEN g) (val.toNat / 65536 % 256)).gclCheck g (val.toNat / 65536 % 256) ≠ 0 →
      exec (.gclCommit g val) s = .next ((let t := s.put (SCH_GCL_CTRL_LEN g) (val.toNat / 65536 % 256)
   t.put (SCH_GCL_STATUS_ERR g) (t.gclCheck g (val.toNat / 65536 % 256))))) ∧
  (∀ (s : State) (g : Fin 19) (val : Word),
      s.get (SCH_GCL_STATUS_STATE g) ≠ 1 →
      (s.put (SCH_GCL_CTRL_LEN g) (val.toNat / 65536 % 256)).gclCheck g (val.toNat / 65536 % 256) = 0 →
      exec (.gclCommit g val) s = .next ((let t := (s.put (SCH_GCL_CTRL_LEN g) (val.toNat / 65536 % 256)).put (SCH_GCL_STATUS_ERR g) 0
   let start := startTime t.ringTime (t.get64 (SCH_GCL_CHANGE_LO g) (SCH_GCL_CHANGE_HI g)) (cycleOf (t.admList g))
   (t.setGcl g { t.gcl g with start := start, prev := s.get (SCH_GCL_STATUS_STATE g) }).put (SCH_GCL_STATUS_STATE g) 1))) ∧
  (∀ (s : State) (g : Fin 19) (val : Word),
      s.get (SCH_GCL_STATUS_STATE g) = 1 →
      val.toNat / 65536 % 256 ≠ s.get (SCH_GCL_CTRL_LEN g) →
      exec (.gclCommit g val) s = .next (s.raise SCH_ERR)) ∧
  (∀ (s : State) (g : Fin 19),
      s.get (SCH_GCL_STATUS_STATE g) = 2 →
      exec (.gclDisable g) s = .next ((s.setGcl g { s.gcl g with closing := true }).put (SCH_GCL_STATUS_STATE g) 0)) ∧
  (∀ (s : State) (g : Fin 19),
      s.get (SCH_GCL_STATUS_STATE g) = 1 →
      s.ringTime < (s.gcl g).start →
      exec (.gclAbort g) s = .next (s.put (SCH_GCL_STATUS_STATE g) (s.gcl g).prev)) ∧
  (∀ (s : State) (g : Fin 19),
      s.get (SCH_GCL_STATUS_STATE g) = 1 →
      (s.gcl g).start ≤ s.ringTime →
      exec (.gclAbort g) s = .next ((s.openList g).put (SCH_GCL_STATUS_ERR g) 6)) ∧
  (∀ (s : State) (g : Fin 19),
      s.get (SCH_GCL_STATUS_STATE g) = 1 →
      (s.gcl g).start ≤ s.ringTime →
      exec (.gclStartTime g) s = .next (s.openList g)) ∧
  (∀ (s : State) (g : Fin 19),
      s.ringTime < (s.gcl g).start →
      exec (.gclStartTime g) s = .next (s)) ∧
  (∀ (s : State) (g : Fin 19),
      (s.gcl g).since + s.get (SCH_GCL_OPE_IVL g (s.get (SCH_GCL_STATUS_ENTRY g))) ≤ s.ringTime →
      (s.gcl g).closing = true →
      exec (.gclEntryBoundary g) s = .next ((s.setGcl g { s.gcl g with closing := false }).put (SCH_GCL_STATUS_GATES g) 255)) ∧
  (∀ (s : State) (g : Fin 19),
      s.ringTime < (s.gcl g).since + s.get (SCH_GCL_OPE_IVL g (s.get (SCH_GCL_STATUS_ENTRY g))) →
      exec (.gclEntryBoundary g) s = .next (s)) ∧
  (∀ (s : State) (g : Fin 19),
      (s.gcl g).since + s.get (SCH_GCL_OPE_IVL g (s.get (SCH_GCL_STATUS_ENTRY g))) ≤ s.ringTime →
      (s.gcl g).closing = false →
      s.listRuns g = true →
      s.get (SCH_GCL_STATUS_OPER_LEN g) ≠ 0 →
      exec (.gclEntryBoundary g) s = .next ((let e := (s.get (SCH_GCL_STATUS_ENTRY g) + 1) % s.get (SCH_GCL_STATUS_OPER_LEN g)
   let stop := (s.gcl g).since + s.get (SCH_GCL_OPE_IVL g (s.get (SCH_GCL_STATUS_ENTRY g)))
   ((s.setGcl g { s.gcl g with since := stop }).put (SCH_GCL_STATUS_ENTRY g) e).put (SCH_GCL_STATUS_GATES g) (s.get (SCH_GCL_OPE_GATES g e))))) ∧
  (∀ (s : State) (g : Fin 19) (cls : Fin 8),
      s.isUp dPLD = true →
      s.guardRuns g cls = true →
      exec (.guardBandStart g cls) s = .next ((s.refreshOut (gclOut g)).countGuarded (gclOut g))) ∧
  (∀ (s : State) (g : Fin 19) (cls : Fin 8),
      s.guardRuns g cls = false →
      exec (.guardBandStart g cls) s = .next (s))

/-- R217, R218, R219, R220, R222, R224, R225, R226, R228, R465: Rate, steps, lock and exchanges of time. A rate within LIMIT_PPM
is held for the next tick and any other is refused; a step before the first lock is added to the one that the next tick
applies, and one after it is refused. LOCK_NOW and a second within 2 ns lock, and refuse a step that still waits; 10 ms
without an exchange of the upstream lead to HOLDOVER. SYNC, REPLY and FOLLOW_UP are sent and taken as R224 to R226 say, and
the end of a servo window corrects the rate. -/
def Obligations.TimeLock : Prop :=
  (∀ (s : State) (val : Word),
      rateOk (s.get TIME_CFG_LIMIT_PPM) val.toNat = true →
      exec (.timeRateWrite val) s = .next ({ s with time := { s.time with rateNext := some val.toNat } })) ∧
  (∀ (s : State) (val : Word),
      rateOk (s.get TIME_CFG_LIMIT_PPM) val.toNat = false →
      exec (.timeRateWrite val) s = .next (s.raise TIME_ERR_RATE_REJECT)) ∧
  (∀ (s : State) (req : Requester) (val : Word),
      s.flag TIME_STATUS_EVER_LOCKED = true →
      exec (.timeStepWrite req val) s = .next (s.raise TIME_ERR_STEP_REJECT)) ∧
  (∀ (s : State) (req : Requester) (val : Word),
      s.flag TIME_STATUS_EVER_LOCKED = false →
      exec (.timeStepWrite req val) s = .next ((let lo := ((s.staged.find? (fun e => e.1 == req && e.2.1 == 0x60024)).map (fun e => e.2.2)).getD 0
   let step := sext 64 (val.toNat * 2 ^ 32 + lo)
   { s with staged := s.staged.filter (fun e => !(e.1 == req && e.2.1 == 0x60024))
            time := { s.time with stepNext := some (s.time.stepNext.getD 0 + step) } }))) ∧
  (∀ (s : State),
      s.flag RING_NODE_ROOT = true →
      s.get TIME_CFG_SRC = 0 →
      s.get TIME_STATUS_LOCK ≠ 2 →
      s.time.stepNext = none →
      exec (.lockNow) s = .next (((s.setLock 2).put TIME_STATUS_EVER_LOCKED 1).put TIME_STATUS_LOCKED_SINCE_RESET 1)) ∧
  (∀ (s : State) (d : Int),
      s.flag RING_NODE_ROOT = true →
      s.get TIME_CFG_SRC = 0 →
      s.get TIME_STATUS_LOCK ≠ 2 →
      s.time.stepNext = some d →
      exec (.lockNow) s = .next ((let t := State.raise { s with time := { s.time with stepNext := none } } TIME_ERR_STEP_REJECT
   ((t.setLock 2).put TIME_STATUS_EVER_LOCKED 1).put TIME_STATUS_LOCKED_SINCE_RESET 1))) ∧
  (∀ (s : State),
      s.get TIME_STATUS_LOCK = 1 →
      (sext 32 (s.get TIME_ERR_EST)).natAbs ≤ 512 →
      s.time.stepNext = none →
      exec (.timeLockAchieved) s = .next (((s.setLock 2).put TIME_STATUS_EVER_LOCKED 1).put TIME_STATUS_LOCKED_SINCE_RESET 1)) ∧
  (∀ (s : State) (d : Int),
      s.get TIME_STATUS_LOCK = 1 →
      (sext 32 (s.get TIME_ERR_EST)).natAbs ≤ 512 →
      s.time.stepNext = some d →
      exec (.timeLockAchieved) s = .next ((let t := State.raise { s with time := { s.time with stepNext := none } } TIME_ERR_STEP_REJECT
   ((t.setLock 2).put TIME_STATUS_EVER_LOCKED 1).put TIME_STATUS_LOCKED_SINCE_RESET 1))) ∧
  (∀ (s : State),
      s.get TIME_CFG_SRC ≠ 0 →
      s.upstreamSilent = true →
      s.get TIME_STATUS_LOCK = 1 ∨ s.get TIME_STATUS_LOCK = 2 →
      exec (.timeUpstreamTimeout) s = .next (((s.setLock 3).raise TIME_ERR_UPSTREAM_LOST).record 48)) ∧
  (∀ (s : State),
      s.get TIME_CFG_SRC = 0 ∨ s.upstreamSilent = false →
      exec (.timeUpstreamTimeout) s = .next (s)) ∧
  (∀ (s : State) (port : Fin 3) (wait : Nat),
      s.portState port = 2 →
      exec (.timeSyncTimer port wait) s = .next ((let q := (SMap.getD s.time.seq port 255 + 1) % 256
   State.emit { s with time := { s.time with
     seq := SMap.insert s.time.seq port q, sent := SMap.insert s.time.sent port (q, s.stampTx port (s.count + wait)) } } (.orderedSet port (.timeSync q))))) ∧
  (∀ (s : State) (port : Fin 3) (seq : BitVec 8) (wait : Nat),
      s.portState port = 2 →
      exec (.timeSyncOs port seq wait) s = .next (State.emit { s with time := { s.time with
     got := SMap.insert s.time.got port (seq.toNat, s.stampRx port s.count, s.stampTx port (s.count + min wait 10000), s.count) } } (.orderedSet port (.timeReply seq.toNat)))) ∧
  (∀ (s : State) (port : Fin 3) (seq : BitVec 8) (t1 : Nat),
      SMap.find s.time.sent port = some (seq.toNat, t1) →
      s.portState port = 2 →
      exec (.timeReplyOs port seq) s = .next ((let t4 := s.stampRx port s.count
   let t : State := { s with time := { s.time with sent := SMap.erase s.time.sent port } }
   t.emit (ownFrame s.nodeId port false 0 0 (.timeSync (s.followUp seq.toNat t1 t4)))))) ∧
  (∀ (s : State) (port : Fin 3) (bytes : List Byte) (q t2 t3 c2 : Nat),
      SMap.find s.time.got port = some (q, t2, t3, c2) →
      s.followsSync bytes q c2 = true →
      exec (.timeSyncFrame port bytes) s = .next (s.takeExchange port bytes t2 t3)) ∧
  (∀ (s : State) (port : Fin 3) (bytes : List Byte) (q t2 t3 c2 : Nat),
      SMap.find s.time.got port = some (q, t2, t3, c2) →
      s.followsSync bytes q c2 = false →
      exec (.timeSyncFrame port bytes) s = .next (s)) ∧
  (∀ (s : State) (source : Option Int),
      (s.ptpInput source).time.errNum ≠ 0 →
      (s.ptpInput source).boot.frozen = false →
      (s.ptpInput source).flag PWR_POL_CTRL_SERVO = true →
      (s.ptpInput source).get TIME_STATUS_LOCK ≠ 3 →
      exec (.servoWindowEnd source) s = .next ((let t := s.ptpInput source
   State.servoStep { t with time := { t.time with errSum := 0, errNum := 0 } } (divRoundAway t.time.errSum t.time.errNum))))

/-- R228, R230, R231, R232, R234: FSYNC generators and the pulse pins. A write of a generator's control enables it with PERIOD,
WIDTH and START in range, is refused with one of them out of range or with ONCE or POL changed while it runs, and with EN = 0
stops it after the edges that are due. A due edge is driven, or held while the threatened vision pipeline works; a held edge
is driven when the pipeline idles, and WIDTH later a pulse ends. PPS_OUT rises at a whole second where it is enabled and
falls, and an edge on PPS_IN is timestamped. -/
def Obligations.Fsync : Prop :=
  (∀ (s : State) (n : Fin 8) (val : Word),
      s.flag (TIME_FSYNC_CTRL_EN n) = false →
      val.toNat.testBit 0 = true →
      1000 ≤ s.get (TIME_FSYNC_PERIOD n) →
      1 ≤ s.get (TIME_FSYNC_WIDTH n) ∧ s.get (TIME_FSYNC_WIDTH n) < s.get (TIME_FSYNC_PERIOD n) →
      val.toNat.testBit 1 = false ∨ s.ringTime + 10000 ≤ s.fsyncStart n →
      exec (.fsyncEnable n val) s = .next ((let t := ((s.put (TIME_FSYNC_CTRL_POL n) (val.toNat / 4)).put (TIME_FSYNC_CTRL_ONCE n) (val.toNat / 2)).put (TIME_FSYNC_CTRL_EN n) val.toNat
   t.setFsync n { t.fsync n with k := t.fsyncFrom n (t.ringTime + 10000) }))) ∧
  (∀ (s : State) (n : Fin 8) (val : Word),
      s.flag (TIME_FSYNC_CTRL_EN n) = false →
      val.toNat.testBit 0 = true →
      s.get (TIME_FSYNC_PERIOD n) < 1000 ∨ s.get (TIME_FSYNC_WIDTH n) < 1 ∨ s.get (TIME_FSYNC_PERIOD n) ≤ s.get (TIME_FSYNC_WIDTH n) →
      exec (.fsyncEnable n val) s = .next (s.raise TIME_ERR_CFG_REJECT)) ∧
  (∀ (s : State) (n : Fin 8) (val : Word),
      s.flag (TIME_FSYNC_CTRL_EN n) = false →
      val.toNat.testBit 0 = true →
      val.toNat.testBit 1 = true →
      s.fsyncStart n < s.ringTime + 10000 →
      exec (.fsyncEnable n val) s = .next (s.raise TIME_ERR_CFG_REJECT)) ∧
  (∀ (s : State) (n : Fin 8) (val : Word),
      s.flag (TIME_FSYNC_CTRL_EN n) = true →
      b2n (val.toNat.testBit 1) ≠ s.get (TIME_FSYNC_CTRL_ONCE n) ∨ val.toNat / 4 % 2 ≠ s.get (TIME_FSYNC_CTRL_POL n) →
      exec (.fsyncEnable n val) s = .next (s.raise TIME_ERR_CFG_REJECT)) ∧
  (∀ (s : State) (n : Fin 8) (val : Word),
      s.flag (TIME_FSYNC_CTRL_EN n) = true →
      b2n (val.toNat.testBit 1) = s.get (TIME_FSYNC_CTRL_ONCE n) →
      val.toNat / 4 % 2 = s.get (TIME_FSYNC_CTRL_POL n) →
      val.toNat.testBit 0 = false →
      exec (.fsyncEnable n val) s = .next ((s.each (List.range (s.fsyncDue n)) (fun s _ => s.fsyncFire n)).put (TIME_FSYNC_CTRL_EN n) 0)) ∧
  (∀ (s : State) (n : Fin 8),
      s.fsyncDue n ≠ 0 →
      s.fsyncHold = true →
      exec (.fsyncEdge n) s = .next ((s.setFsync n { s.fsync n with held := true }).inc (TIME_FSYNC_CNT_LATE n))) ∧
  (∀ (s : State) (n : Fin 8),
      s.fsyncDue n ≠ 0 →
      s.fsyncHold = false →
      exec (.fsyncEdge n) s = .next (s.fsyncDrive n)) ∧
  (∀ (s : State) (n : Fin 8),
      (s.fsync n).held = true →
      s.visBusy = false →
      exec (.fsyncHeldRelease n) s = .next ((let t := s.fsyncDrive n
   t.setFsync n { t.fsync n with k := max (t.fsync n).k (t.fsyncFrom n (t.ringTime + 1)) }))) ∧
  (∀ (s : State) (n : Fin 8),
      (s.fsync n).high = true →
      exec (.fsyncPulseEnd n) s = .next ((s.setFsync n { s.fsync n with high := false }).fsyncPin n (if s.flag (TIME_FSYNC_CTRL_POL n) then 1 else 0))) ∧
  (∀ (s : State),
      s.ringTime % 1000000000 ≤ 5 →
      s.flag TIME_CFG_PPS_OUT_EN = true →
      s.time.ppsHigh = false →
      exec (.ppsOutEdge true) s = .next (State.emit { s with time := { s.time with ppsHigh := true } } (.pin 2 0 1))) ∧
  (∀ (s : State),
      s.time.ppsHigh = true →
      exec (.ppsOutEdge false) s = .next (State.emit { s with time := { s.time with ppsHigh := false } } (.pin 2 0 0))) ∧
  (∀ (s : State),
      s.flag TIME_CFG_PPS_IN_EN = true →
      exec (.ppsInEdge) s = .next ((let t := s.put64 TIME_PPS_IN_LO TIME_PPS_IN_HI s.ringTime
   if t.flag RING_NODE_ROOT ∧ t.get TIME_CFG_SRC = 2 then
     let frac : Int := s.ringTime % 1000000000
     (t.servoInput ((if frac < 500000000 then frac else frac - 1000000000) * 256)).noteUpstream.upstreamValid
   else t)))

/-- R235, R236, R237, R239, R243, R244, R246, R240, R241, R242: Ethernet ports and frames. While NET is up a CFG write is applied
with EN set by an enable and cleared by a disable, and an enable with MAX_FRAME below 64 is refused; a drained port whose
withdrawal is answered is DISABLED, or starts anew where it has been enabled again. A QSGMII link that loses synchronisation
takes its four ports' links down; a control word for link and full duplex at a new speed takes the link down and up again, at
the same speed it changes nothing more, and any other takes the link down; 2 ms of link make a DOWN port UP. A received PAUSE
is handled, its end makes a PAUSED port UP, and PAUSE is repeated while its cause lasts; the end of a sent frame commits its
item. A frame at a port that receives is counted as a runt, as too long, or as bad by its FCS with its drop at the Polder, or
as received; a good one acts as a PAUSE, is counted as dropped while PLD is threatened or NET is and PAUSE has been sent, goes
to the processor's PTP trap with its timestamp, or is stored in the Polder for a loan. A port that does not receive takes
nothing. -/
def Obligations.EthernetPorts : Prop :=
  (∀ (s : State) (port : Fin 16) (val : Word),
      s.isUp dNET = true →
      exec (.ethPortEnable port val) s = .next (s.writeEthCfg port (val.toNat ||| 2 ^ 31))) ∧
  (∀ (s : State) (port : Fin 16) (val : Word),
      s.isUp dNET = true →
      exec (.ethPortDisable port val) s = .next (s.writeEthCfg port (val.toNat % 2 ^ 31))) ∧
  (∀ (s : State) (port : Fin 16) (val : Word),
      s.isUp dNET = true →
      (val.toNat ||| 2 ^ 31) % 2 ^ 14 < 64 →
      exec (.ethPortEnable port val) s = .next (s.raise NET_ERR)) ∧
  (∀ (s : State) (port : Fin 16),
      s.ethState port = 6 →
      s.withdrawn (epEth port) = true →
      s.dlv.work.all (fun w => w.ep != epEth port) = true →
      (s.eth port).tx = none →
      exec (.ethDrainDone port) s = .next ((let t := ((s.setEthState port 0).endWithdraw (epEth port)).setFlap (epEth port) none
   let u := (t.setEth port { t.eth port with waiting := [], pausePend := false }).showPools
   if u.flag (NET_PORT_CFG_EN port) then u.ethEnable port else u))) ∧
  (∀ (s : State) (link : Fin 4),
      s.isUp dNET = true →
      exec (.qsgmiiSyncLoss link) s = .next ((let t := if (s.get NET_QS_STATUS).testBit link.val then s.pendPrivate 8 (32 + link.val) else s
   (t.dropBits NET_QS_STATUS (1 <<< link.val)).each ((List.range 4).map (fun i => 4 * link.val + i)) State.ethLinkLost))) ∧
  (∀ (s : State) (port : Fin 16) (speed : Fin 3),
      s.isUp dNET = true →
      ¬ ((s.riseBit NET_QS_STATUS (port / 4) 8 (32 + port / 4)).flag (NET_PORT_STATUS_LINK port) = true ∧ (s.riseBit NET_QS_STATUS (port / 4) 8 (32 + port / 4)).get (NET_PORT_STATUS_SPEED port) = speed.val + 1) →
      exec (.qsgmiiControlWord port true true speed) s = .next (((s.riseBit NET_QS_STATUS (port / 4) 8 (32 + port / 4)).ethLinkLost port).ethLinkUp port (speed.val + 1))) ∧
  (∀ (s : State) (port : Fin 16) (link full : Bool) (speed : Fin 3),
      s.isUp dNET = true →
      link = false ∨ full = false →
      exec (.qsgmiiControlWord port link full speed) s = .next ((s.riseBit NET_QS_STATUS (port / 4) 8 (32 + port / 4)).ethLinkLost port)) ∧
  (∀ (s : State) (port : Fin 16) (speed : Fin 3),
      s.isUp dNET = true →
      (s.riseBit NET_QS_STATUS (port / 4) 8 (32 + port / 4)).flag (NET_PORT_STATUS_LINK port) = true →
      (s.riseBit NET_QS_STATUS (port / 4) 8 (32 + port / 4)).get (NET_PORT_STATUS_SPEED port) = speed.val + 1 →
      exec (.qsgmiiControlWord port true true speed) s = .next (s.riseBit NET_QS_STATUS (port / 4) 8 (32 + port / 4))) ∧
  (∀ (s : State) (port : Fin 16),
      s.isUp dNET = true →
      s.ethState port = 1 →
      s.flag (NET_PORT_STATUS_LINK port) = true →
      exec (.ethLinkUpTimer port) s = .next (s.setEthState port 2)) ∧
  (∀ (s : State) (port : Fin 16) (quanta : BitVec 16),
      s.isUp dNET = true →
      s.flag (NET_PORT_STATUS_LINK port) = true →
      s.ethState port ≠ 0 →
      exec (.ethPauseReceive port quanta) s = .next (s.pauseReceived port quanta.toNat)) ∧
  (∀ (s : State) (port : Fin 16),
      s.isUp dNET = true →
      s.ethState port = 5 →
      exec (.ethPauseExpiry port) s = .next (s.setEthState port 2)) ∧
  (∀ (s : State) (port : Fin 16),
      s.isUp dNET = true →
      (s.eth port).pauseSent = true →
      s.pauseCause port = true →
      exec (.ethPauseRepeat port) s = .next (s.sendPause port (s.get (NET_PORT_PAUSE port)))) ∧
  (∀ (s : State) (port : Fin 16),
      s.isUp dNET = true →
      s.pauseCause port = false →
      exec (.ethPauseRepeat port) s = .next (s.pauseUpdate port)) ∧
  (∀ (s : State) (port : Fin 16) (src sq wsn : Nat),
      (s.eth port).tx = some (src, sq, wsn) →
      exec (.ethTxCommit port) s = .next ((let t := (s.setEth port { s.eth port with tx := none, pausePend := false }).inc (NET_PORT_CNT_TX port)
   let u := if (s.eth port).pausePend ∧ t.ethState port = 2 then t.setEthState port 5 else t
   match u.work? src sq wsn with
   | some w => u.commit w w.length 0
   | none => u))) ∧
  (∀ (s : State) (port : Fin 16) (bytes : List Byte),
      s.isUp dNET = false ∨ s.isDraining dNET = true ∨ s.flag (NET_PORT_STATUS_LINK port) = false ∨ s.ethState port = 0 ∨ s.ethState port = 1 ∨ s.ethState port = 7 →
      exec (.ethFrameReceive port bytes) s = .next (s)) ∧
  (∀ (s : State) (port : Fin 16) (bytes : List Byte),
      s.isUp dNET = true ∧ s.isDraining dNET = false →
      s.flag (NET_PORT_STATUS_LINK port) = true →
      s.ethState port ≠ 0 ∧ s.ethState port ≠ 1 ∧ s.ethState port ≠ 7 →
      bytes.length < 64 →
      exec (.ethFrameReceive port bytes) s = .next (s.inc (NET_PORT_CNT_RUNT port))) ∧
  (∀ (s : State) (port : Fin 16) (bytes : List Byte),
      s.isUp dNET = true ∧ s.isDraining dNET = false →
      s.flag (NET_PORT_STATUS_LINK port) = true →
      s.ethState port ≠ 0 ∧ s.ethState port ≠ 1 ∧ s.ethState port ≠ 7 →
      64 ≤ bytes.length →
      s.get (NET_PORT_CFG_MAX_FRAME port) < bytes.length →
      exec (.ethFrameReceive port bytes) s = .next (s.inc (NET_PORT_CNT_LONG port))) ∧
  (∀ (s : State) (port : Fin 16) (bytes : List Byte),
      s.isUp dNET = true ∧ s.isDraining dNET = false →
      s.flag (NET_PORT_STATUS_LINK port) = true →
      s.ethState port ≠ 0 ∧ s.ethState port ≠ 1 ∧ s.ethState port ≠ 7 →
      64 ≤ bytes.length ∧ bytes.length ≤ s.get (NET_PORT_CFG_MAX_FRAME port) →
      crc32 (bytes.take (bytes.length - 4)) ≠ leAt bytes (bytes.length - 4) 4 →
      exec (.ethFrameReceive port bytes) s = .next ((s.inc (NET_PORT_CNT_FCS port)).spill (13 + port) PLD_CNT_CRC)) ∧
  (∀ (s : State) (port : Fin 16) (bytes : List Byte),
      s.isUp dNET = true ∧ s.isDraining dNET = false →
      s.flag (NET_PORT_STATUS_LINK port) = true →
      s.ethState port ≠ 0 ∧ s.ethState port ≠ 1 ∧ s.ethState port ≠ 7 →
      64 ≤ bytes.length ∧ bytes.length ≤ s.get (NET_PORT_CFG_MAX_FRAME port) →
      crc32 (bytes.take (bytes.length - 4)) = leAt bytes (bytes.length - 4) 4 →
      exec (.ethFrameReceive port bytes) s = .next ((let t := s.inc (NET_PORT_CNT_RX port)
   if isPause bytes then t.pauseReceived port (beAt bytes 16 2)
   else if t.isThreat dPLD ∨ (t.isThreat dNET ∧ (t.eth port).pauseSent) then t.inc (NET_PORT_CNT_DROP port)
   else if t.flag (NET_PORT_CFG_PTP_TRAP port) ∧ isPtp bytes then (t.emit (.toProcessor 8 port bytes (t.ethStamp port))).pendPrivate 8 (16 + port)
   else t.ethStore port bytes)))

/-- R249, R250, R263, R264, R265, R266, R268, R270: Pin functions and discrete lines. While its cluster is up a write of a pin's
or line's configuration is taken by the rules of its register, and one that would take the pin from a running PIO group is
refused; OUT_SET and OUT_CLR set and clear the levels named in turn. A timed entry joins its line's queue while it has room,
and the head is applied at its time and commits. A raw change is taken at its line, and at the end of the debounce interval
the level is accepted; the hold time completes the loan being filled. -/
def Obligations.FieldPins : Prop :=
  (∀ (s : State) (n : Fin 6) (p : Fin 64) (val : Word),
      s.isUp (dFC n) = true →
      exec (.pinFuncWrite n p val) s = .next (s.writePinCfg n p val.toNat)) ∧
  (∀ (s : State) (n : Fin 6) (p : Fin 64) (val : Word),
      s.isUp (dFC n) = true →
      val.toNat % 4 ≠ 1 →
      s.get (FC_PIN_CFG_FUNC n p) = 1 →
      s.groupRuns n (p / 16) = true →
      exec (.pinFuncWrite n p val) s = .next (s.raise (FC_ERR_CFG_REJECT n))) ∧
  (∀ (s : State) (n : Fin 6) (m : Fin 2) (val : Word),
      s.isUp (dFC n) = true →
      exec (.dioOutSet n m val) s = .next (s.each (bitList val.toNat 32) (fun s i => s.setLevel n (32 * m + i) true))) ∧
  (∀ (s : State) (n : Fin 6) (m : Fin 2) (val : Word),
      s.isUp (dFC n) = true →
      exec (.dioOutClr n m val) s = .next (s.each (bitList val.toNat 32) (fun s i => s.setLevel n (32 * m + i) false))) ∧
  (∀ (s : State) (n : Fin 6) (p : Fin 64) (val : Word),
      s.isUp (dFC n) = true →
      exec (.dioDirWrite n p val) s = .next (s.writeLineCfg n p val.toNat)) ∧
  (∀ (s : State) (n : Fin 6) (p : Fin 64) (w : Work),
      s.dlv.work.find? (fun w => w.ep == epLine n p && w.opcode == 0x10 && !w.taken) = some w →
      s.isUp (dFC n) = true →
      (s.line n p).queue.length < 8 →
      exec (.dioTimedEntry n p) s = .next ((let k := (w.src, w.sq, w.wsn)
   (s.takeWork w).setLine n p { s.line n p with queue := (s.line n p).queue ++ [(k, (s.line n p).queue = [] && s.entryLate k)] }))) ∧
  (∀ (s : State) (n : Fin 6) (p : Fin 64) (k : Nat × Nat × Nat) (late : Bool) (w : Work),
      (s.line n p).queue = [(k, late)] →
      s.workAt k = some w →
      s.emits (dFC n) = true ∧ s.ownsPins = true →
      s.epDown (epLine n p) = false →
      w.param ≤ s.ringTime →
      exec (.dioEntryApply n p) s = .next ((let t := (s.startEmission w).setLevel n p ((leAt w.data 0 1).testBit 0)
   (t.setLine n p { s.line n p with queue := [] }).commit { w with late := w.late || late } 1 0))) ∧
  (∀ (s : State) (n : Fin 6) (p : Fin 64) (level : Bool),
      s.isUp (dFC n) = true →
      exec (.dioRawChange n p level) s = .next (s.rawChange n p level)) ∧
  (∀ (s : State) (n : Fin 6) (p : Fin 64) (level : Bool) (time : Nat),
      s.isUp (dFC n) = true →
      (s.line n p).deb = some (level, time) →
      exec (.dioDebounceExpiry n p) s = .next (s.acceptLevel n p level time)) ∧
  (∀ (s : State) (n : Fin 6) (p : Fin 64),
      (s.line n p).loan ≠ [] →
      exec (.evtLoanHoldExpiry n p) s = .next ((s.closeLoan n p).lineDeliver n p))

/-- R254, R255, R260, R261, R262: Port FIFOs between their engines and the switch. While the cluster is up and does not drain the
slice reads the closed words of the draining bank, and hands a packet on with its last; the frame being sent is written into
the TX FIFO while there is room; FLUSH and DROP are requested for either side, a drop that comes too late sets DROP_LATE, and
a flush is done at its packet boundary. -/
def Obligations.PortFifos : Prop :=
  (∀ (s : State) (n : Fin 6) (q : Fin 32) (ws rest : List FWord) (w : FWord),
      s.isUp (dFC n) = true →
      s.isDraining (dFC n) = false →
      takePacket (s.portSt n q).rx.swap.draining = (ws, rest) →
      ws.getLast? = some w →
      exec (.rxPacketToSlice n q) s = .next ((let x := s.portSt n q
   let built := x.build ++ ws.flatMap (fun w => w.bytes)
   let rx := Fifo.swap { x.rx.swap with draining := rest }
   if w.eop then ((s.setPortSt n q { x with rx, build := [] }).showPort n q).linkPacket n q built w.detail
   else (s.setPortSt n q { x with rx, build := built }).showPort n q))) ∧
  (∀ (s : State) (n : Fin 6) (q : Fin 32),
      s.isUp (dFC n) = true →
      exec (.txFifoWrite n q) s = .next ((s.setPortSt n q ((s.portSt n q).txWrite 16)).showPort n q)) ∧
  (∀ (s : State) (n : Fin 6) (q : Fin 32),
      s.isUp (dFC n) = true →
      exec (.flushRx n q) s = .next ((s.setPortSt n q { s.portSt n q with flushRx := true }).showPort n q)) ∧
  (∀ (s : State) (n : Fin 6) (q : Fin 32),
      s.isUp (dFC n) = true →
      exec (.flushTx n q) s = .next ((s.setPortSt n q { s.portSt n q with flushTx := true }).showPort n q)) ∧
  (∀ (s : State) (n : Fin 6) (q : Fin 32),
      exec (.fifoFlushDone n q) s = .next ((let t := if (s.portSt n q).flushRx ∧ (s.portSt n q).build = [] then s.releaseRx n q else s
   let mid : Bool := match (t.portSt n q).txPkt with
     | some (_, last) => !last
     | none => false
   let u := if (t.portSt n q).flushTx ∧ ¬ mid then t.releaseTx n q else t
   u.showPort n q))) ∧
  (∀ (s : State) (n : Fin 6) (q : Fin 32),
      s.isUp (dFC n) = true →
      (s.portSt n q).rxLen = 0 →
      exec (.dropRx n q) s = .next (s.raise (FC_PORT_FLAGS_DROP_LATE n q))) ∧
  (∀ (s : State) (n : Fin 6) (q : Fin 32),
      s.isUp (dFC n) = true →
      (s.portSt n q).rxLen ≠ 0 →
      exec (.dropRx n q) s = .next ((s.setPortSt n q (s.portSt n q).dropRx).showPort n q)) ∧
  (∀ (s : State) (n : Fin 6) (q : Fin 32),
      s.isUp (dFC n) = true →
      (s.portSt n q).txPkt = none →
      exec (.dropTx n q) s = .next (s.raise (FC_PORT_FLAGS_DROP_LATE n q))) ∧
  (∀ (s : State) (n : Fin 6) (q : Fin 32) (k : Nat × Nat × Nat) (last : Bool),
      s.isUp (dFC n) = true →
      (s.portSt n q).txPkt = some (k, last) →
      exec (.dropTx n q) s = .next ((let t := (s.setPortSt n q { (s.portSt n q).dropTx k with txEop := !last }).showPort n q
   match t.workAt k with
   | some w => t.failWork w 0x20 0 0x01
   | none => t)))

/-- R278, R279, R280, R281, R283, R291: PIO instructions that shift, drive pins, jump and move. An engine that may execute the
word at its PC and does not pause executes it: SHIFT shifts a group of COUNT bits, SET drives the pins of its mask that no
lower-numbered engine writes and records a clash, JMP goes to TARGET where its condition holds, LOAD and MOV write their
destination; SET, JMP, LOAD and MOV then end with their DELAY and their next word. At each of the five an engine that may not
execute the word is unchanged, and one that pauses stops before it. -/
def Obligations.PioPins : Prop :=
  (∀ (s : State) (n : Fin 6) (g : Fin 4) (e : Fin 8) (rx : List Bool) (cut : Fin 32) (lost : BitVec 16),
      s.pioMay n g e 0x0 = true →
      s.pioPauses n g e = false →
      exec (.pioShift n g e rx cut lost) s = .next (s.shiftSome n g e (s.pioWord n g e) (countOf (s.pioWord n g e)) rx cut lost.toNat)) ∧
  (∀ (s : State) (n : Fin 6) (g : Fin 4) (e : Fin 8) (rx : List Bool) (cut : Fin 32) (lost : BitVec 16),
      s.pioMay n g e 0x0 = false →
      exec (.pioShift n g e rx cut lost) s = .next (s)) ∧
  (∀ (s : State) (n : Fin 6) (g : Fin 4) (e : Fin 8) (rx : List Bool) (cut : Fin 32) (lost : BitVec 16),
      s.pioMay n g e 0x0 = true →
      s.pioPauses n g e = true →
      exec (.pioShift n g e rx cut lost) s = .next (s.setEngState n g e 3)) ∧
  (∀ (s : State) (n : Fin 6) (g : Fin 4) (e : Fin 8) (lost : BitVec 16),
      s.pioMay n g e 0x1 = true →
      s.pioPauses n g e = false →
      exec (.pioSet n g e lost) s = .next ((let w := s.pioWord n g e
   let act := bitsOf w 21 3
   let mask := bitsOf w 0 16
   let level : Option Bool := if act = 0 ∨ act = 4 then some false else if act = 1 ∨ act = 5 then some true else none
   let oe : Option Bool := if act = 2 ∨ act = 4 ∨ act = 5 then some true else if act = 3 then some false else none
   let t := (s.each (bitList (clearBits mask lost.toNat) 16) (fun s p => s.pioPin n g p level oe)).pinClash n g mask lost.toNat
   if t.engState n g e = 0 then t else t.endInstr n g e w (t.pcNext n g e) false))) ∧
  (∀ (s : State) (n : Fin 6) (g : Fin 4) (e : Fin 8) (lost : BitVec 16),
      s.pioMay n g e 0x1 = true →
      s.pioPauses n g e = true →
      exec (.pioSet n g e lost) s = .next (s.setEngState n g e 3)) ∧
  (∀ (s : State) (n : Fin 6) (g : Fin 4) (e : Fin 8) (lost : BitVec 16),
      s.pioMay n g e 0x1 = false →
      exec (.pioSet n g e lost) s = .next (s)) ∧
  (∀ (s : State) (n : Fin 6) (g : Fin 4) (e : Fin 8),
      s.pioMay n g e 0x3 = true →
      s.pioPauses n g e = false →
      exec (.pioJmp n g e) s = .next ((let w := s.pioWord n g e
   let r := s.jmpTest n g e (bitsOf w 20 4) (bitsOf w 8 4)
   r.1.endInstr n g e w (if r.2 then bitsOf w 0 7 else r.1.pcNext n g e) false))) ∧
  (∀ (s : State) (n : Fin 6) (g : Fin 4) (e : Fin 8) ,
      s.pioMay n g e 0x3 = false →
      exec (.pioJmp n g e) s = .next (s)) ∧
  (∀ (s : State) (n : Fin 6) (g : Fin 4) (e : Fin 8) ,
      s.pioMay n g e 0x3 = true →
      s.pioPauses n g e = true →
      exec (.pioJmp n g e) s = .next (s.setEngState n g e 3)) ∧
  (∀ (s : State) (n : Fin 6) (g : Fin 4) (e : Fin 8),
      s.pioMay n g e 0x7 = true →
      s.pioPauses n g e = false →
      exec (.pioLoad n g e) s = .next ((let w := s.pioWord n g e
   (s.loadImm n g e (bitsOf w 22 2) (bitsOf w 0 16)).endInstr n g e w (s.pcNext n g e) false))) ∧
  (∀ (s : State) (n : Fin 6) (g : Fin 4) (e : Fin 8) ,
      s.pioMay n g e 0x7 = false →
      exec (.pioLoad n g e) s = .next (s)) ∧
  (∀ (s : State) (n : Fin 6) (g : Fin 4) (e : Fin 8) ,
      s.pioMay n g e 0x7 = true →
      s.pioPauses n g e = true →
      exec (.pioLoad n g e) s = .next (s.setEngState n g e 3)) ∧
  (∀ (s : State) (n : Fin 6) (g : Fin 4) (e : Fin 8),
      s.pioMay n g e 0x8 = true →
      s.pioPauses n g e = false →
      exec (.pioMov n g e) s = .next ((let w := s.pioWord n g e
   let v := s.movSrc n g e (bitsOf w 18 3)
   (s.movDst n g e (bitsOf w 21 3) (if w.testBit 17 then 2 ^ 32 - 1 - v else v)).endInstr n g e w (s.pcNext n g e) false))) ∧
  (∀ (s : State) (n : Fin 6) (g : Fin 4) (e : Fin 8) ,
      s.pioMay n g e 0x8 = false →
      exec (.pioMov n g e) s = .next (s)) ∧
  (∀ (s : State) (n : Fin 6) (g : Fin 4) (e : Fin 8) ,
      s.pioMay n g e 0x8 = true →
      s.pioPauses n g e = true →
      exec (.pioMov n g e) s = .next (s.setEngState n g e 3))

/-- R261, R280, R282, R285, R286, R287, R289, R294: PIO instructions that pull, push, signal and halt. An engine that may execute
its word and does not pause pulls bytes of its TX port by PULL or stalls for them, pushes bytes of RSR to its RX port by PUSH,
sets or clears a flag by EVENT with its interrupt and end-of-frame event, drops the rest of its TX packet by DROP, or halts by
HALT with PC at the next word; a pull that finds the FIFO empty inside a packet is an underflow. At each of them an engine
that may not execute the word is unchanged, and one that pauses stops before its PUSH, EVENT, DROP or HALT. A pull stalled at
a packet's start resumes, and an illegal word at PC halts a running engine. -/
def Obligations.PioFrames : Prop :=
  (∀ (s : State) (n : Fin 6) (g : Fin 4) (e : Fin 8),
      s.pioMay n g e 0x4 = true →
      s.pioPauses n g e = false →
      exec (.pioPull n g e) s = .next (s.pullThen n g e (bitsOf (s.pioWord n g e) 0 3) (fun t => t.endInstr n g e (s.pioWord n g e) (t.pcNext n g e) false))) ∧
  (∀ (s : State) (n : Fin 6) (g : Fin 4) (e : Fin 8) ,
      s.pioMay n g e 0x4 = false →
      exec (.pioPull n g e) s = .next (s)) ∧
  (∀ (s : State) (n : Fin 6) (g : Fin 4) (e : Fin 8),
      s.isUp (dFC n) = true →
      s.engState n g e = 2 →
      (s.eng n g e).stall = .pull →
      opOf (s.pioWord n g e) = 0x4 →
      exec (.pioPullUnstall n g e) s = .next (s.pullThen n g e (bitsOf (s.pioWord n g e) 0 3) (fun t => t.endInstr n g e (s.pioWord n g e) (t.pcNext n g e) false))) ∧
  (∀ (s : State) (n : Fin 6) (g : Fin 4) (e : Fin 8),
      s.isUp (dFC n) = true →
      s.engState n g e = 2 →
      (s.eng n g e).stall = .pull →
      opOf (s.pioWord n g e) ≠ 0x4 →
      exec (.pioPullUnstall n g e) s = .next (s.pullThen n g e (ceilDiv (countOf (s.pioWord n g e)) 8) (fun t => t.setEng n g e { t.eng n g e with mid := true }))) ∧
  (∀ (s : State) (n : Fin 6) (g : Fin 4) (e : Fin 8),
      s.pioMay n g e 0x4 = true →
      s.pioPauses n g e = false →
      ((s.portSt n (s.txPort n g e)).pull (bitsOf (s.pioWord n g e) 0 3)).2.2.1 = true →
      exec (.pioUnderflow n g e) s = .next (s.pioUnderflow n g e)) ∧
  (∀ (s : State) (n : Fin 6) (g : Fin 4) (e : Fin 8) ,
      s.pioMay n g e 0x4 = false →
      exec (.pioUnderflow n g e) s = .next (s)) ∧
  (∀ (s : State) (n : Fin 6) (g : Fin 4) (e : Fin 8),
      s.pioMay n g e 0x5 = true →
      s.pioPauses n g e = false →
      exec (.pioPush n g e) s = .next ((let w := s.pioWord n g e
   let bs := pushBytes (s.flag (FC_PIO_ENG_PINS_ORDER n g e)) (bitsOf w 0 3) (s.get (FC_PIO_ENG_RSR n g e))
   let err := w.testBit 9 || (w.testBit 10 && !s.capLevel n g (s.get (FC_PIO_ENG_PINS_IN_PIN n g e)))
   let r := s.pushPort n (s.rxPort n g e) bs (w.testBit 8) err
   let t := if r.2 then r.1.put (FC_PIO_ENG_STATUS_RX_OVER n g e) 1 else r.1
   (t.put (FC_PIO_ENG_RSR n g e) 0).endInstr n g e w (t.pcNext n g e) false))) ∧
  (∀ (s : State) (n : Fin 6) (g : Fin 4) (e : Fin 8) ,
      s.pioMay n g e 0x5 = false →
      exec (.pioPush n g e) s = .next (s)) ∧
  (∀ (s : State) (n : Fin 6) (g : Fin 4) (e : Fin 8) ,
      s.pioMay n g e 0x5 = true →
      s.pioPauses n g e = true →
      exec (.pioPush n g e) s = .next (s.setEngState n g e 3)) ∧
  (∀ (s : State) (n : Fin 6) (g : Fin 4) (e : Fin 8),
      s.pioMay n g e 0x6 = true →
      s.pioPauses n g e = false →
      exec (.pioEvent n g e) s = .next ((let w := s.pioWord n g e
   let f := bitsOf w 0 3
   let t := if ¬ w.testBit 11 then s
     else if w.testBit 8 then s.dropBits (FC_PIO_EVF_SET n g) (1 <<< f) else s.orBits (FC_PIO_EVF_SET n g) (1 <<< f)
   let t := if w.testBit 9 then t.riseBit (FC_PIO_IRQ_EVT n g) f (n + 1) (64 + 8 * g + f) else t
   let t := if w.testBit 10 then t.endOfFrame n g e else t
   t.endInstr n g e w (t.pcNext n g e) false))) ∧
  (∀ (s : State) (n : Fin 6) (g : Fin 4) (e : Fin 8) ,
      s.pioMay n g e 0x6 = false →
      exec (.pioEvent n g e) s = .next (s)) ∧
  (∀ (s : State) (n : Fin 6) (g : Fin 4) (e : Fin 8) ,
      s.pioMay n g e 0x6 = true →
      s.pioPauses n g e = true →
      exec (.pioEvent n g e) s = .next (s.setEngState n g e 3)) ∧
  (∀ (s : State) (n : Fin 6) (g : Fin 4) (e : Fin 8),
      s.pioMay n g e 0x9 = true →
      s.pioPauses n g e = false →
      exec (.pioDrop n g e) s = .next ((let t := if s.flag (FC_PIO_ENG_PORTS_TX_USE n g e) then s.dropTxPacket n (s.txPort n g e) else s
   t.endInstr n g e (s.pioWord n g e) (t.pcNext n g e) false))) ∧
  (∀ (s : State) (n : Fin 6) (g : Fin 4) (e : Fin 8) ,
      s.pioMay n g e 0x9 = false →
      exec (.pioDrop n g e) s = .next (s)) ∧
  (∀ (s : State) (n : Fin 6) (g : Fin 4) (e : Fin 8) ,
      s.pioMay n g e 0x9 = true →
      s.pioPauses n g e = true →
      exec (.pioDrop n g e) s = .next (s.setEngState n g e 3)) ∧
  (∀ (s : State) (n : Fin 6) (g : Fin 4) (e : Fin 8),
      s.pioMay n g e 0xA = true →
      s.pioPauses n g e = false →
      exec (.pioHalt n g e) s = .next (((s.put (FC_PIO_ENG_STATUS_PC n g e) (s.pcNext n g e)).haltEngine n g e 2).payFails)) ∧
  (∀ (s : State) (n : Fin 6) (g : Fin 4) (e : Fin 8) ,
      s.pioMay n g e 0xA = false →
      exec (.pioHalt n g e) s = .next (s)) ∧
  (∀ (s : State) (n : Fin 6) (g : Fin 4) (e : Fin 8) ,
      s.pioMay n g e 0xA = true →
      s.pioPauses n g e = true →
      exec (.pioHalt n g e) s = .next (s.setEngState n g e 3)) ∧
  (∀ (s : State) (n : Fin 6) (g : Fin 4) (e : Fin 8),
      s.isUp (dFC n) = true →
      s.engState n g e = 1 →
      (s.eng n g e).delay = false →
      s.pioLegal n g e (s.pioWord n g e) = false →
      exec (.pioIllegal n g e) s = .next (s.haltIllegal n g e))

/-- R275, R277, R278, R280, R283, R284, R287, R291: PIO waits, delays and edges. A WAIT whose condition holds completes at once,
with every engine that waits for the same flag where it waits for one, unless the instruction before was a WAIT that took no
step; otherwise the engine stalls in it, or pauses before it; a stalled one goes on when its condition is met. The end of a
DELAY moves PC on, a stretched clock that reads high lets the shift go on, an edge is taken at its pin's line and sets the
engine's latch, and EOP_IDLE steps of a WAIT close the RX port's packet. -/
def Obligations.PioWaits : Prop :=
  (∀ (s : State) (n : Fin 6) (g : Fin 4) (e : Fin 8) (onTick : Bool),
      s.pioMay n g e 0x2 = true →
      s.pioPauses n g e = false →
      (s.setEng n g e { s.eng n g e with waitAt := s.tick }).waitHolds n g e (s.pioWord n g e) onTick = true →
      (s.eng n g e).freeWait = false →
      exec (.pioWait n g e onTick) s = .next ((let w := s.pioWord n g e
   let t := (s.setEng n g e { s.eng n g e with waitAt := s.tick }).waitDone n g e w true
   if bitsOf w 21 3 = 4 then t.releaseFlag n g (bitsOf w 0 3) (w.testBit 20) else t))) ∧
  (∀ (s : State) (n : Fin 6) (g : Fin 4) (e : Fin 8) (onTick : Bool),
      s.pioMay n g e 0x2 = true →
      s.pioPauses n g e = false →
      (s.setEng n g e { s.eng n g e with waitAt := s.tick }).waitHolds n g e (s.pioWord n g e) onTick = false ∨ (s.eng n g e).freeWait = true →
      exec (.pioWait n g e onTick) s = .next ((let t := s.setEng n g e { s.eng n g e with waitAt := s.tick }
   if t.pausing then (t.setEngState n g e 3).setEng n g e { t.eng n g e with freeWait := false }
   else (t.setEngState n g e 2).setEng n g e { t.eng n g e with stall := .wait, freeWait := false }))) ∧
  (∀ (s : State) (n : Fin 6) (g : Fin 4) (e : Fin 8) (onTick : Bool),
      s.pioMay n g e 0x2 = false →
      exec (.pioWait n g e onTick) s = .next (s)) ∧
  (∀ (s : State) (n : Fin 6) (g : Fin 4) (e : Fin 8) (onTick : Bool),
      s.pioMay n g e 0x2 = true →
      s.pioPauses n g e = true →
      exec (.pioWait n g e onTick) s = .next (s.setEngState n g e 3)) ∧
  (∀ (s : State) (n : Fin 6) (g : Fin 4) (e : Fin 8) (onTick : Bool),
      s.isUp (dFC n) = true →
      s.engState n g e = 2 →
      (s.eng n g e).stall = .wait →
      s.waitHolds n g e (s.pioWord n g e) onTick = true →
      exec (.pioWaitSatisfied n g e onTick) s = .next (if bitsOf (s.pioWord n g e) 21 3 = 4 then s.releaseFlag n g (bitsOf (s.pioWord n g e) 0 3) false else s.waitDone n g e (s.pioWord n g e) false)) ∧
  (∀ (s : State) (n : Fin 6) (g : Fin 4) (e : Fin 8),
      s.isUp (dFC n) = true →
      s.engState n g e = 1 →
      (s.eng n g e).delay = true →
      exec (.pioDelayExpiry n g e) s = .next ((s.setEng n g e { s.eng n g e with delay := false }).put (FC_PIO_ENG_STATUS_PC n g e) (s.eng n g e).next)) ∧
  (∀ (s : State) (n : Fin 6) (g : Fin 4) (e : Fin 8) (rx : List Bool) (cut : Fin 32) (lost : BitVec 16),
      s.isUp (dFC n) = true →
      s.engState n g e = 2 →
      (s.eng n g e).stall = .stretch →
      exec (.pioStretchRelease n g e rx cut lost) s = .next ((let t := (s.setEngState n g e 1).setEng n g e { s.eng n g e with stall := .none, start := s.tick, left := 0 }
   t.shiftSome n g e (t.pioWord n g e) (s.eng n g e).left rx cut lost.toNat))) ∧
  (∀ (s : State) (n : Fin 6) (g : Fin 4) (e : Fin 8) (rise : Bool),
      s.isUp (dFC n) = true →
      exec (.pioInEdge n g e rise) s = .next ((s.rawChange n (16 * g + s.get (FC_PIO_ENG_PINS_IN_PIN n g e)) rise).latchEdge n g e rise)) ∧
  (∀ (s : State) (n : Fin 6) (g : Fin 4) (e : Fin 8),
      s.isUp (dFC n) = true →
      s.engState n g e = 2 →
      (s.eng n g e).stall = .wait →
      s.get (FC_PIO_ENG_TIMING_EOP_IDLE n g e) ≠ 0 →
      s.flag (FC_PIO_ENG_PORTS_RX_USE n g e) = true →
      exec (.pioEopIdleClose n g e) s = .next ((s.pushPort n (s.rxPort n g e) [] true false).1))

/-- R284, R288, R289, R290, R292: PIO groups are started, halted and programmed. While the cluster is up a write of SYNC is judged
and starts or restarts the named engines at once or at SYNC_TIME, and is refused while one waits; SYNC_TIME reached starts and
restarts those that wait; HALT halts the named engines; EVF_SET and EVF_CLR set and clear flags; a program word is written
unless it changes and a running engine's region holds it, which is refused. -/
def Obligations.PioControl : Prop :=
  (∀ (s : State) (n : Fin 6) (g : Fin 4) (val : Word),
      s.isUp (dFC n) = true →
      exec (.pioSyncStart n g val) s = .next (s.writeSync n g val.toNat)) ∧
  (∀ (s : State) (n : Fin 6) (g : Fin 4) (val : Word),
      s.isUp (dFC n) = true →
      exec (.pioSyncRestart n g val) s = .next (s.writeSync n g val.toNat)) ∧
  (∀ (s : State) (n : Fin 6) (g : Fin 4) (val : Word),
      s.isUp (dFC n) = true →
      (s.group n g).sync.isSome = true →
      exec (.pioSyncStart n g val) s = .next (s.raise (FC_PIO_ERR_CFG_REJECT n g))) ∧
  (∀ (s : State) (n : Fin 6) (g : Fin 4) (start restart : Nat),
      (s.group n g).sync = some (start, restart) →
      s.get64 (FC_PIO_SYNC_TIME_LO n g) (FC_PIO_SYNC_TIME_HI n g) ≤ s.ringTime →
      exec (.pioSyncTimeReached n g) s = .next (((s.setGroup n g { s.group n g with sync := none }).put (FC_PIO_STATE_SYNC_PENDING n g) 0).syncNow n g start restart)) ∧
  (∀ (s : State) (n : Fin 6) (g : Fin 4) (mask : BitVec 8) (cuts : List (Nat × Nat × List Bool)),
      s.isUp (dFC n) = true →
      exec (.pioHaltCmd n g mask cuts) s = .next (s.haltWrite n g mask.toNat cuts)) ∧
  (∀ (s : State) (n : Fin 6) (g : Fin 4) (val : Word),
      s.isUp (dFC n) = true →
      exec (.evfSet n g val) s = .next (s.orBits (FC_PIO_EVF_SET n g) (val.toNat % 256))) ∧
  (∀ (s : State) (n : Fin 6) (g : Fin 4) (val : Word),
      s.isUp (dFC n) = true →
      exec (.evfClr n g val) s = .next (s.dropBits (FC_PIO_EVF_SET n g) (val.toNat % 256))) ∧
  (∀ (s : State) (n : Fin 6) (g : Fin 4) (w : Fin 128) (val : Word),
      s.isUp (dFC n) = true →
      val.toNat = s.get (FC_PIO_PROG n g w) ∨ (List.range 8).any (fun e => s.engState n g e != 0 && s.inRegion n g e w) = false →
      exec (.pioProgWrite n g w val) s = .next (s.put (FC_PIO_PROG n g w) val.toNat)) ∧
  (∀ (s : State) (n : Fin 6) (g : Fin 4) (w : Fin 128) (val : Word),
      s.isUp (dFC n) = true →
      val.toNat ≠ s.get (FC_PIO_PROG n g w) →
      (List.range 8).any (fun e => s.engState n g e != 0 && s.inRegion n g e w) = true →
      exec (.pioProgWrite n g w val) s = .next (s.raise (FC_PIO_ERR_PROG_REJECT n g)))

/-- R299, R300, R302, R315, R317: CAN controllers are configured, integrate, sleep and recover. While the cluster is up a write of
CFG is judged and enables or disables a controller, and a FILT_COUNT of 0 is refused; RECOVER starts the recovery from
BUS_OFF, SLEEP puts an idle controller to sleep and is refused on a busy bus, and WAKE or a dominant line wakes a sleeping
one; 11 recessive bits end the integration, and the recovery sequence clears the counters and brings the link back. A read of
an object's bytes 4 to 7 captures it. -/
def Obligations.CanStates : Prop :=
  (∀ (s : State) (n : Fin 6) (c : Fin 8) (val : Word),
      s.isUp (dFC n) = true →
      exec (.canEnable n c val) s = .next (s.writeCanCfg n c (val.toNat ||| 2 ^ 31))) ∧
  (∀ (s : State) (n : Fin 6) (c : Fin 8) (val : Word),
      s.isUp (dFC n) = true →
      exec (.canDisable n c val) s = .next (s.writeCanCfg n c (val.toNat % 2 ^ 31))) ∧
  (∀ (s : State) (n : Fin 6) (c : Fin 8) (val : Word),
      s.isUp (dFC n) = true →
      bitsOf (val.toNat ||| 2 ^ 31) 0 9 = 0 →
      exec (.canEnable n c val) s = .next (s.raise (FC_CAN_ERR_CFG_REJECT n c))) ∧
  (∀ (s : State) (n : Fin 6) (c : Fin 8),
      s.isUp (dFC n) = true →
      s.canState n c = 4 →
      exec (.canRecover n c) s = .next (s.setCanState n c 5)) ∧
  (∀ (s : State) (n : Fin 6) (c : Fin 8),
      s.isUp (dFC n) = true →
      s.canState n c = 2 ∨ s.canState n c = 3 →
      (s.can n c).objs.any (fun e => e.2.requested) = false →
      exec (.canSleep n c true) s = .next (s.setCanState n c 6)) ∧
  (∀ (s : State) (n : Fin 6) (c : Fin 8),
      s.isUp (dFC n) = true →
      s.canState n c = 2 ∨ s.canState n c = 3 →
      exec (.canSleep n c false) s = .next (s.canFlag n c (FC_CAN_FLAGS_SLEEP_REFUSED n c) 6)) ∧
  (∀ (s : State) (n : Fin 6) (c : Fin 8),
      s.isUp (dFC n) = true →
      s.canState n c = 6 →
      exec (.canWake n c) s = .next (((s.setCanState n c 1).put (FC_CAN_STATUS_WAKE_CAUSE n c) 2).canFlag n c (FC_CAN_FLAGS_WOKEN n c) 5)) ∧
  (∀ (s : State) (n : Fin 6) (c : Fin 8),
      s.isUp (dFC n) = true →
      s.canState n c = 6 →
      exec (.canBusWake n c) s = .next (((s.setCanState n c 1).put (FC_CAN_STATUS_WAKE_CAUSE n c) 1).canFlag n c (FC_CAN_FLAGS_WOKEN n c) 5)) ∧
  (∀ (s : State) (n : Fin 6) (c : Fin 8),
      s.isUp (dFC n) = true →
      (s.setCan n c { s.can n c with waiting := false }).canState n c = 1 →
      exec (.canIntegrated n c) s = .next ((let t := s.setCan n c { s.can n c with waiting := false }
   (t.setCanState n c 2).setErrors n c (t.get (FC_CAN_STATUS_TEC n c)) (t.get (FC_CAN_STATUS_REC n c))))) ∧
  (∀ (s : State) (n : Fin 6) (c : Fin 8),
      s.isUp (dFC n) = true →
      s.canState n c = 5 →
      exec (.canRecoveryDone n c) s = .next (State.epLinkReturn (((s.setCanState n c 2).put (FC_CAN_STATUS_TEC n c) 0).put (FC_CAN_STATUS_REC n c) 0) (epCan n c))) ∧
  (∀ (s : State) (req : Requester) (n : Fin 6) (c : Fin 8) (j : Fin 128),
      s.accessible (dFC n) = true →
      exec (.canObjectCaptureRead req n c j) s = .next ({ s with canCap := s.canCap.filter (fun e => e.1 != req) ++ [(req, 8 * n.val + c.val, j.val, (List.range 20).map (fun k => s.readMm n c (20 * j + k)))] }))

/-- R126, R307, R308, R309, R310: CAN controllers send. An item is loaded into its free send object and requested at its time; the
attempt that arbitration chooses loses it, or sends its frame and commits, or ends in an error that counts and holds a
duplicated identifier; an error in the seventh bit of end-of-frame counts and sends the committed frame again; a hold ends;
TX_CANCEL takes an object back or is noted as late, and is refused while one is pending. -/
def Obligations.CanSend : Prop :=
  (∀ (s : State) (n : Fin 6) (c : Fin 8),
      s.isUp (dFC n) = true →
      s.canState n c ≠ 0 →
      exec (.canObjectLoad n c) s = .next (s.canLoad n c)) ∧
  (∀ (s : State) (n : Fin 6) (c : Fin 8) (j : Fin 128) (o : CanObj) (w : Work),
      SMap.find (s.can n c).objs j = some o →
      s.workAt o.key = some w →
      s.isUp (dFC n) = true →
      w.param ≤ s.ringTime →
      exec (.canObjectRequest n c j) s = .next (s.updObj n c j (some { o with requested := true }))) ∧
  (∀ (s : State) (n : Fin 6) (c : Fin 8) (newer : List (Fin 128)) (j : Nat),
      s.canAttempt n c newer = some j →
      exec (.canArbLost n c newer) s = .next ((let t := ((s.attemptOver n c).canBegin n c j).inc (FC_CAN_CNT_ARB_LOST n c)
   match SMap.find (t.can n c).objs j with
   | some o => t.updObj n c j (some { o with dups := 0 })
   | none => t))) ∧
  (∀ (s : State) (n : Fin 6) (c : Fin 8) (newer : List (Fin 128)) (loop ago : Nat) (j : Nat),
      s.canAttempt n c newer = some j →
      exec (.canTxCommit n c newer loop ago) s = .next ((let w1 := s.get (canObj n c j 1)
   let t := (s.attemptOver n c).emit (.canFrame (8 * n + c) (s.get (canObj n c j 0)) (bitsOf w1 20 10) (s.objData n c j))
   let t := (t.frameLoop n c j loop).putTime n c j (t.timeAgo ago)
   (t.setErrors n c (t.get (FC_CAN_STATUS_TEC n c) - 1) (t.get (FC_CAN_STATUS_REC n c))).txSent n c j))) ∧
  (∀ (s : State) (n : Fin 6) (c : Fin 8) (newer : List (Fin 128)) (lec : Fin 7) (dTec dRec : Fin 9) (dup : Bool) (loop : Nat) (j : Nat),
      s.canAttempt n c newer = some j →
      exec (.canTxError n c newer lec dTec dRec dup ⟨false, loop⟩) s = .next (State.setErrors (((((if loop = 0 then s else s.frameLoop n c j loop).attemptOver n c).canBegin n c j).noteError n c lec).attemptFailed n c j dup) n c (s.get (FC_CAN_STATUS_TEC n c) + dTec) (s.get (FC_CAN_STATUS_REC n c) + dRec))) ∧
  (∀ (s : State) (n : Fin 6) (c : Fin 8) (newer : List (Fin 128)) (lec : Fin 7) (dTec dRec : Fin 9) (dup : Bool) (loop : Nat),
      s.isUp (dFC n) = true →
      (s.can n c).last.isSome = true →
      exec (.canTxError n c newer lec dTec dRec dup ⟨true, loop⟩) s = .next ((s.noteError n c lec).eofError n c (s.get (FC_CAN_STATUS_TEC n c) + dTec) (s.get (FC_CAN_STATUS_REC n c) + dRec))) ∧
  (∀ (s : State) (n : Fin 6) (c : Fin 8) (j : Fin 128) (o : CanObj),
      SMap.find (s.can n c).objs j = some o →
      o.held.isSome = true →
      exec (.canDupHoldEnd n c j) s = .next (s.updObj n c j (some { o with held := none, dups := 0 }))) ∧
  (∀ (s : State) (n : Fin 6) (c : Fin 8) (j : Fin 128) (won : Bool),
      s.isUp (dFC n) = true →
      s.get (FC_CAN_CANCEL_RESULT_RESULT n c) = 3 →
      exec (.canTxCancel n c j won) s = .next (s.raise (FC_CAN_ERR_CFG_REJECT n c))) ∧
  (∀ (s : State) (n : Fin 6) (c : Fin 8) (j : Fin 128) (won : Bool),
      s.isUp (dFC n) = true →
      exec (.canTxCancel n c j won) s = .next (s.txCancel n c j won))

/-- R299, R301, R306, R312, R314: CAN controllers receive. A validated frame at a controller on the bus lowers REC and is
rejected, or stored in the object its filter names and queued for delivery; a controller off the bus or waiting, or one
without FD at an FD frame, takes none; RX_HOLD completes the loan being filled; an error while receiving is counted with its
error frame, and in restricted operation the controller waits for 11 recessive bits with its counters unchanged. -/
def Obligations.CanReceive : Prop :=
  (∀ (s : State) (n : Fin 6) (c : Fin 8) (ident : Word) (fdf brs esi : Bool) (dlc : Fin 16) (bytes : List Byte) (ago : Nat) (j : Nat),
      s.canOnBus n c = true →
      (s.can n c).waiting = false →
      (fdf = true → s.flag (FC_CAN_CFG_FD_EN n c) = true) →
      (s.recAfterFrame n c).canFilter n c (clearBit ident.toNat 29) = some j →
      exec (.canFrameReceive n c ident fdf brs esi dlc bytes ago) s = .next ((s.recAfterFrame n c).canStore n c j (clearBit ident.toNat 29) fdf brs esi dlc bytes ago)) ∧
  (∀ (s : State) (n : Fin 6) (c : Fin 8) (ident : Word) (fdf brs esi : Bool) (dlc : Fin 16) (bytes : List Byte) (ago : Nat),
      s.canOnBus n c = true →
      (s.can n c).waiting = false →
      (fdf = true → s.flag (FC_CAN_CFG_FD_EN n c) = true) →
      (s.recAfterFrame n c).canFilter n c (clearBit ident.toNat 29) = none →
      exec (.canFrameReceive n c ident fdf brs esi dlc bytes ago) s = .next ((s.recAfterFrame n c).inc (FC_CAN_CNT_RX_REJECT n c))) ∧
  (∀ (s : State) (n : Fin 6) (c : Fin 8) (ident : Word) (fdf brs esi : Bool) (dlc : Fin 16) (bytes : List Byte) (ago : Nat),
      s.canOnBus n c = false ∨ (s.can n c).waiting = true ∨ (fdf = true ∧ s.flag (FC_CAN_CFG_FD_EN n c) = false) →
      exec (.canFrameReceive n c ident fdf brs esi dlc bytes ago) s = .next (s)) ∧
  (∀ (s : State) (n : Fin 6) (c : Fin 8),
      (s.can n c).loan ≠ [] →
      exec (.canLoanHoldExpiry n c) s = .next ((s.canCloseLoan n c).canDeliver n c)) ∧
  (∀ (s : State) (n : Fin 6) (c : Fin 8) (lec : Fin 7) (dTec dRec : Fin 9),
      s.canOnBus n c = true →
      s.flag (FC_CAN_CFG_RESTRICTED n c) = false →
      exec (.canRxError n c lec dTec dRec) s = .next ((s.noteError n c lec).setErrors n c (s.get (FC_CAN_STATUS_TEC n c) + dTec) (s.get (FC_CAN_STATUS_REC n c) + dRec))) ∧
  (∀ (s : State) (n : Fin 6) (c : Fin 8) (lec : Fin 7) (dTec dRec : Fin 9),
      s.canOnBus n c = true →
      s.flag (FC_CAN_CFG_RESTRICTED n c) = true →
      exec (.canRxError n c lec dTec dRec) s = .next (((s.inc (FC_CAN_CNT_ERR n c)).put (FC_CAN_STATUS_LEC n c) lec).setCan n c { s.can n c with waiting := true }))

/-- R324, R326, R327, R328, R329, R343: The signal router. While the router serves, it takes the oldest input and serves it, and
otherwise none; a SIG_UPDATE item that is ready is applied record by record and committed where every record passes its check,
and fails otherwise; PERIOD_MS makes the emission of an outgoing message due, and the end of a gap makes the one that fell due
in it. While SIG is up a SIGNAL frame of form 1 brings a message for a local endpoint and one of form 2 records for the table,
and a shorter one nothing; SIG_ENT_SEL stores entries with WRITE and loads them with READ. -/
def Obligations.SignalRouter : Prop :=
  (∀ (s : State) (i : SigIn) (rest : List SigIn),
      s.routes = true →
      s.sig.inputs = i :: rest →
      exec (.sigInput) s = .next (State.serveInput { s with sig := { s.sig with inputs := rest } } i)) ∧
  (∀ (s : State),
      s.routes = false ∨ s.sig.inputs = [] →
      exec (.sigInput) s = .next (s)) ∧
  (∀ (s : State) (src sq wsn : Nat) (w : Work),
      s.routes = true →
      s.readyWork src sq wsn 0x11 = some w →
      (recordsOf w.data.length w.data).all (s.recordOk false) = true →
      exec (.sigUpdate src sq wsn) s = .next (((recordsOf w.data.length w.data).foldl State.applyRecord s).commitInternal w w.length)) ∧
  (∀ (s : State) (src sq wsn : Nat) (w : Work),
      s.routes = true →
      s.readyWork src sq wsn 0x11 = some w →
      (recordsOf w.data.length w.data).all (s.recordOk false) = false →
      exec (.sigUpdate src sq wsn) s = .next (s.failWork w 0x20 0 0x06)) ∧
  (∀ (s : State) (src : Nat) (ep : BitVec 12) (cls : Fin 8) (bytes : List Byte),
      s.isUp dSIG = true →
      8 ≤ bytes.length →
      bytes.headD 0 = 1 →
      exec (.signalFrame src ep ⟨cls, bytes⟩) s = .next (s.emitLocal 0 ep.toNat cls (bytes.drop 8))) ∧
  (∀ (s : State) (src : Nat) (ep : BitVec 12) (cls : Fin 8) (bytes : List Byte),
      s.isUp dSIG = true →
      8 ≤ bytes.length →
      bytes.headD 0 = 2 →
      exec (.signalFrame src ep ⟨cls, bytes⟩) s = .next ({ s with sig := { s.sig with inputs := s.sig.inputs ++ [.values src (bytes.drop 8)] } })) ∧
  (∀ (s : State) (src : Nat) (ep : BitVec 12) (cls : Fin 8) (bytes : List Byte),
      s.isUp dSIG = false ∨ bytes.length < 8 →
      exec (.signalFrame src ep ⟨cls, bytes⟩) s = .next (s)) ∧
  (∀ (s : State) (m : Fin 4096),
      s.routes = true →
      m.val ≠ 0 →
      s.msgDir m.val = 2 →
      s.msgPeriod m.val ≠ 0 →
      exec (.sigPeriodExpiry m) s = .next (s.emitDue m.val)) ∧
  (∀ (s : State) (m : Fin 4096),
      (s.sigTx m.val).gap = true →
      exec (.sigMinGapExpiry m) s = .next ((let t := s.setSigTx m.val { s.sigTx m.val with gap := false, due := false }
   if (s.sigTx m.val).due ∧ t.routes ∧ t.msgDir m.val = 2 then t.emitMsg m.val else t))) ∧
  (∀ (s : State) (val : Word),
      s.isUp dSIG = true →
      val.toNat.testBit 31 = true →
      exec (.sigEntryWrite val) s = .next ((let t := (s.put SIG_ENT_SEL_ID (val.toNat % 2 ^ 18)).storeEntry (val.toNat % 2 ^ 18)
   if val.toNat.testBit 30 then t.loadEntry (val.toNat % 2 ^ 18) else t))) ∧
  (∀ (s : State) (val : Word),
      s.isUp dSIG = true →
      val.toNat.testBit 30 = true →
      val.toNat.testBit 31 = false →
      exec (.sigEntryRead val) s = .next ((s.put SIG_ENT_SEL_ID (val.toNat % 2 ^ 18)).loadEntry (val.toNat % 2 ^ 18)))

/-- R126, R330, R331, R332, R333, R335, R337: The bus bridge. While the bridge starts transactions, an item that is ready starts,
and a device's request at the head of its bus is taken and served; a response at the head is taken at any time. While SIG is
up a far bus is granted to the oldest posted write that may have it, else to the oldest non-posted transaction that it is free
for. A PCIe completion ends the transaction at the host, a timeout ends the transaction it names or fails a posted write,
LOCK_MAX_US breaks a held lock, and the wait of a retried transaction ends. -/
def Obligations.Bridge : Prop :=
  (∀ (s : State) (src sq wsn : Nat) (w : Work),
      s.bridgeOpen = true →
      s.readyWork src sq wsn 0x30 = some w →
      exec (.bridgeWrite src sq wsn) s = .next (s.startBridge w)) ∧
  (∀ (s : State) (src sq wsn : Nat) (w : Work),
      s.bridgeOpen = true →
      s.readyWork src sq wsn 0x31 = some w →
      exec (.bridgeRead src sq wsn) s = .next (s.startBridge w)) ∧
  (∀ (s : State) (fb : Fin 16) (bs : List Byte),
      s.fbHead (2 + fb.val) = some bs →
      isResponse bs = false →
      s.bridgeOpen = true →
      exec (.fbDeviceRequest fb) s = .next ((s.fbPop (2 + fb.val)).serveRequest (2 + fb.val) bs)) ∧
  (∀ (s : State) (fb : Fin 16) (bs : List Byte),
      s.fbHead (2 + fb.val) = some bs →
      isResponse bs = true →
      exec (.fbResponse fb) s = .next ((s.fbPop (2 + fb.val)).takeResponse (2 + fb.val) bs)) ∧
  (∀ (s : State) (bus : Fin 18) (x : BrgTx),
      s.isUp dSIG = true →
      s.sig.txs.find? (fun t => t.posted && t.far == bus.val && s.inTurn t && !s.lockedOut bus.val none && !s.postWaits t) = some x →
      exec (.bridgeBusGrant bus) s = .next (s.issuePosted x)) ∧
  (∀ (s : State) (bus : Fin 18) (x : BrgTx),
      s.isUp dSIG = true →
      s.sig.txs.find? (fun t => t.posted && t.far == bus.val && s.inTurn t && !s.lockedOut bus.val none && !s.postWaits t) = none →
      s.sig.txs.find? (fun t => !t.posted && t.stage == .waitFar && t.far == bus.val && s.farFree t && s.inTurn t) = some x →
      exec (.bridgeBusGrant bus) s = .next (s.issueTx x)) ∧
  (∀ (s : State) (error : Bool) (bytes : List Byte) (x : BrgTx),
      s.farTx 0 = some x →
      exec (.bridgePcieCompletion error bytes) s = .next (if error then s.endTx x 0x0F [] else s.endTx x 0 (padTo x.len bytes))) ∧
  (∀ (s : State) (bus : Fin 18) (id : Nat) (x : BrgTx),
      s.farTx bus.val = some x →
      x.id = id →
      exec (.bridgeFarTimeout bus id) s = .next (s.endTx x 0x10 [])) ∧
  (∀ (s : State) (id : Nat) (x : BrgPosted),
      s.farTx 1 = none →
      s.sig.posted.find? (fun p => p.tx.far == 1 && p.tx.id == id) = some x →
      exec (.bridgeFarTimeout 1 id) s = .next ((s.dropPosted x).failPosted x 0x10)) ∧
  (∀ (s : State) (near : Fin 18) (l : BrgLock),
      s.sig.locks.find? (fun l => l.stage == .held && l.near == near.val) = some l →
      exec (.bridgeLockTimeout near) s = .next (s.breakLock l)) ∧
  (∀ (s : State) (id : Nat) (x : BrgTx),
      s.sig.txs.find? (fun t => t.id == id && t.stage == .retry) = some x →
      exec (.bridgeRetryTimer id) s = .next (s.endRetry x))

/-- R128, R338, R339: Bulk queues take and give bytes. The bytes of retired gets leave their queues; then a BULK_PUT that is ready
is taken at its queue, and completes BULK_FULL where a queue that has lost nothing has no room for it; a BULK_GET that is
ready is answered at its queue, and one that is not does nothing more. -/
def Obligations.BulkQueues : Prop :=
  (∀ (s : State) (src sq wsn : Nat) (w : Work) (q : Nat),
      s.settleBulk.bulkReady src sq wsn 0x40 = some (w, q) →
      exec (.bulkPut src sq wsn) s = .next (s.settleBulk.bulkTake w q)) ∧
  (∀ (s : State) (src sq wsn : Nat) (w : Work) (q : Nat),
      s.settleBulk.bulkReady src sq wsn 0x40 = some (w, q) →
      s.settleBulk.flag (SIG_BULK_STATUS q) = false →
      s.settleBulk.bulkSize q < s.settleBulk.get (SIG_BULK_FILL q) + w.data.length →
      exec (.bulkPut src sq wsn) s = .next (s.settleBulk.failWork w 0x20 0 0x07)) ∧
  (∀ (s : State) (src sq wsn : Nat) (w : Work) (q : Nat),
      s.settleBulk.bulkReady src sq wsn 0x41 = some (w, q) →
      exec (.bulkGet src sq wsn) s = .next (s.settleBulk.bulkGive w q)) ∧
  (∀ (s : State) (src sq wsn : Nat),
      s.settleBulk.bulkReady src sq wsn 0x41 = none →
      exec (.bulkGet src sq wsn) s = .next (s.settleBulk))

/-- R355, R362, R364: Cameras start and stop. While VIS is up a write of VIS_CAMc_CFG is judged and enables or disables the
camera; a camera that is STARTING writes its init list where its sensor answers with its ID, is DISABLED with ERR 6 on a NACK
or 5 on another ID, and becomes ARMED with FRAME and SET_TAG 0 when the list is written. -/
def Obligations.Cameras : Prop :=
  (∀ (s : State) (c : Fin 8) (val : Word),
      s.isUp dVIS = true →
      val.toNat.testBit 31 = true →
      exec (.camEnable c val) s = .next (s.writeCamCfg c.val val.toNat)) ∧
  (∀ (s : State) (c : Fin 8) (val : Word),
      s.isUp dVIS = true →
      val.toNat.testBit 31 = false →
      exec (.camDisable c val) s = .next (s.writeCamCfg c.val val.toNat)) ∧
  (∀ (s : State) (c : Fin 8) (ack : Bool) (value : Nat) (p : Profile),
      s.camState c.val = 1 →
      s.camProfile c.val = some p →
      (value % 2 ^ (if p.flags.testBit 2 then 16 else 8) = p.idValue) →
      exec (.camIdReadDone c ack value) s = .next (if ack then p.inits.foldl (fun s e => s.emit (.cci c.val false e.1 (leBytes 1 e.2))) s else s.failStart c.val 6)) ∧
  (∀ (s : State) (c : Fin 8) (value : Nat) (p : Profile),
      s.camState c.val = 1 →
      s.camProfile c.val = some p →
      (value % 2 ^ (if p.flags.testBit 2 then 16 else 8) ≠ p.idValue) →
      exec (.camIdReadDone c true value) s = .next (s.failStart c.val 5)) ∧
  (∀ (s : State) (c : Fin 8) (ack : Bool),
      s.camState c.val = 1 →
      exec (.camInitDone c ack) s = .next (if ack then ((((((s.setCamState c.val 2).put (VIS_CAM_FRAME c.val) 0).put (VIS_CAM_SET_TAG c.val) 0).put (VIS_CAM_PIPE_SET c.val) (s.get (VIS_CAM_PIPE_INIT_SET c.val))).reannounce (epCam c.val) 1).showVis) else s.failStart c.val 6))

/-- R348, R349, R350, R352, R353, R362, R375: Frames and lines of a camera. A Frame Start of the camera's virtual channel closes a
frame that is still open, ends a camera that is stopping, and otherwise begins the next frame or refuses it; a line of the
open frame with a good header goes through the length, height, rate and buffer rules, and one with a bad header, another
channel or another type is counted; a Frame End ends the frame. -/
def Obligations.CameraFrames : Prop :=
  (∀ (s : State) (c : Fin 8) (vc : Fin 4) (fn : BitVec 16),
      s.isUp dVIS = true →
      2 ≤ s.camState c.val →
      vc.val = s.get (VIS_CAM_CFG_VC c.val) →
      ((s.cutFrame c.val).cam c.val).stopping = false →
      exec (.csiFrameStart c vc fn) s = .next ((s.cutFrame c.val).startOfFrame c.val fn.toNat)) ∧
  (∀ (s : State) (c : Fin 8) (vc : Fin 4) (fn : BitVec 16),
      s.isUp dVIS = true →
      2 ≤ s.camState c.val →
      vc.val = s.get (VIS_CAM_CFG_VC c.val) →
      ((s.cutFrame c.val).cam c.val).stopping = true →
      exec (.csiFrameStart c vc fn) s = .next ((s.cutFrame c.val).stopCam c.val)) ∧
  (∀ (s : State) (c : Fin 8) (vc : Fin 4),
      s.isUp dVIS = true →
      s.camState c.val = 3 →
      vc.val = s.get (VIS_CAM_CFG_VC c.val) →
      exec (.csiFrameEnd c vc) s = .next (s.endFrame c.val)) ∧
  (∀ (s : State) (c : Fin 8) (vc : Fin 4) (dt : Nat) (bytes : List Byte) (crcOk : Bool) (f : VisFrame),
      s.isUp dVIS = true →
      2 ≤ s.camState c.val →
      vc.val = s.get (VIS_CAM_CFG_VC c.val) →
      dt = s.get (VIS_CAM_CFG_DT c.val) →
      (s.cam c.val).openFrame = some f →
      exec (.csiLine c vc dt bytes true crcOk) s = .next (s.takeLine c.val f dt bytes crcOk)) ∧
  (∀ (s : State) (c : Fin 8) (vc : Fin 4) (dt : Nat) (bytes : List Byte) (headerOk crcOk : Bool),
      s.isUp dVIS = true →
      2 ≤ s.camState c.val →
      headerOk = false ∨ vc.val ≠ s.get (VIS_CAM_CFG_VC c.val) ∨ dt ≠ s.get (VIS_CAM_CFG_DT c.val) →
      exec (.csiLine c vc dt bytes headerOk crcOk) s = .next (s.inc (VIS_CAM_CNT_LINE_ERR c.val)))

/-- R357, R358, R359, R361, R364: Settings sets and sensor transactions. A settings set at the head of its camera's queue is
refused with its cause, or queued and committed while the queue has room, or left waiting; a window write that completes gives
way to the next transaction, one that is not acknowledged is repeated once and then recorded; at the latch point the writes
still due have failed; a direct command is judged and runs, and ends with its result and, for a read, its byte. -/
def Obligations.SensorControl : Prop :=
  (∀ (s : State) (c : Fin 8) (w : Work),
      s.isUp dVIS = true →
      s.sendReady (epCam c.val) = some w →
      s.setCheck c.val w.data ≠ 0 →
      exec (.visSettingsSet c) s = .next ((s.inc (VIS_CAM_CNT_SET_REFUSED c.val)).failWork w 0x20 0 (s.setCheck c.val w.data))) ∧
  (∀ (s : State) (c : Fin 8) (w : Work),
      s.isUp dVIS = true →
      s.sendReady (epCam c.val) = some w →
      s.setCheck c.val w.data = 0 →
      (addSet (s.cam c.val).sets (readSet w.data)).length ≤ 16 →
      exec (.visSettingsSet c) s = .next (((s.setCam c.val { s.cam c.val with sets := addSet (s.cam c.val).sets (readSet w.data) }).showVis).commitInternal w w.length)) ∧
  (∀ (s : State) (c : Fin 8) (w : Work),
      s.isUp dVIS = true →
      s.sendReady (epCam c.val) = some w →
      s.setCheck c.val w.data = 0 →
      16 < (addSet (s.cam c.val).sets (readSet w.data)).length →
      exec (.visSettingsSet c) s = .next (s)) ∧
  (∀ (s : State) (c : Fin 8) (w : CciWrite) (rest : List CciWrite),
      s.isUp dVIS = true →
      (s.cam c.val).direct = false →
      (s.cam c.val).writes = w :: rest →
      exec (.cciWriteDone c true) s = .next ((s.setCam c.val { s.cam c.val with writes := rest }).nextCci c.val)) ∧
  (∀ (s : State) (c : Fin 8) (w : CciWrite) (rest : List CciWrite),
      s.isUp dVIS = true →
      (s.cam c.val).direct = false →
      (s.cam c.val).writes = w :: rest →
      exec (.cciWriteDone c false) s = .next (if w.tried then ((s.setCam c.val { s.cam c.val with writes := rest }).cciFault c.val w).nextCci c.val
  else (s.setCam c.val { s.cam c.val with writes := { w with tried := true } :: rest }).emit (.cci c.val false w.reg w.bytes))) ∧
  (∀ (s : State) (c : Fin 8) (frame : Nat),
      s.isUp dVIS = true →
      (s.cam c.val).writes.any (fun w => w.frame == frame && w.kind == 1) = true →
      (s.cam c.val).direct = false →
      exec (.cciLatchPoint c frame) s = .next ((((s.cam c.val).writes.filter (fun w => w.frame == frame && w.kind == 1)).foldl (fun s w => s.cciFault c.val w)
    (s.setCam c.val { s.cam c.val with writes := (s.cam c.val).writes.filter (fun w => !(w.frame == frame && w.kind != 2)) })).nextCci c.val)) ∧
  (∀ (s : State) (c : Fin 8) (val : Word),
      s.isUp dVIS = true →
      exec (.cciDirectCmd c val) s = .next (s.writeCciCmd c.val val.toNat)) ∧
  (∀ (s : State) (c : Fin 8) (data : Byte),
      s.isUp dVIS = true →
      (s.cam c.val).direct = true →
      exec (.cciDirectDone c false data) s = .next (((((s.put (VIS_CAM_CCI_STATUS_BUSY c.val) 0).put (VIS_CAM_CCI_STATUS_RESULT c.val) 2).setCam c.val { s.cam c.val with direct := false }).pendPrivate 7 (8 * c.val + 2)).nextCci c.val)) ∧
  (∀ (s : State) (c : Fin 8) (data : Byte),
      s.isUp dVIS = true →
      (s.cam c.val).direct = true →
      (s.cam c.val).cmd.testBit 30 = true →
      exec (.cciDirectDone c true data) s = .next ((((((s.put (VIS_CAM_CCI_STATUS_BUSY c.val) 0).put (VIS_CAM_CCI_STATUS_RESULT c.val) 1).put (VIS_CAM_CCI_STATUS_RDATA c.val) data.toNat).setCam c.val { s.cam c.val with direct := false }).pendPrivate 7 (8 * c.val + 2)).nextCci c.val)) ∧
  (∀ (s : State) (c : Fin 8) (data : Byte),
      s.isUp dVIS = true →
      (s.cam c.val).direct = true →
      (s.cam c.val).cmd.testBit 30 = false →
      exec (.cciDirectDone c true data) s = .next (((((s.put (VIS_CAM_CCI_STATUS_BUSY c.val) 0).put (VIS_CAM_CCI_STATUS_RESULT c.val) 1).setCam c.val { s.cam c.val with direct := false }).pendPrivate 7 (8 * c.val + 2)).nextCci c.val))

/-- R351, R380, R381, R382, R383, R384, R385: The pipeline and its outputs. The free pipeline takes the line of the camera it
serves next, unless its temporal filter is held by the threat to MEM; a write of an output's configuration is judged and
taken; while VIS emits, loans too small for their endpoint are given back and the next piece of the output whose turn it is
enters SP12; the space of the oldest sent output is released; STREAM frames reach the sink they name, and a sink closes its
incomplete output at its timeout; a transmitter sends the next row of its first output. -/
def Obligations.VisionOutputs : Prop :=
  (∀ (s : State) (c : Nat),
      s.isUp dVIS = true →
      s.nextCam = some c →
      s.tnrHeld c = false →
      exec (.pipeLineTake) s = .next (s.takeFrom c)) ∧
  (∀ (s : State) (c : Nat),
      s.isUp dVIS = true →
      s.nextCam = some c →
      s.tnrHeld c = true →
      exec (.pipeLineTake) s = .next (s)) ∧
  (∀ (s : State) (c : Fin 8) (k : Fin 5) (val : Word),
      s.isUp dVIS = true →
      exec (.visOutputEnable c k val) s = .next (s.writeOutCfg c.val k.val val.toNat)) ∧
  (∀ (s : State) (o : VisOutput),
      s.emits dVIS = true →
      ((s.each (List.range 40) (fun s i => s.returnSmall (epOut (i / 5) (i % 5)) (s.get (VIS_CAM_OUT_MAX (i / 5) (i % 5))))).each (List.range 64) (fun s k => s.returnSmall (epSink k) (s.get (VIS_SINK_MAX k)))).nextOutput = some o →
      exec (.visStreamSend) s = .next (((s.each (List.range 40) (fun s i => s.returnSmall (epOut (i / 5) (i % 5)) (s.get (VIS_CAM_OUT_MAX (i / 5) (i % 5))))).each (List.range 64) (fun s k => s.returnSmall (epSink k) (s.get (VIS_SINK_MAX k)))).sendPiece o)) ∧
  (∀ (s : State) (o : VisOutput),
      s.vis.staged.find? (fun o => o.sent) = some o →
      exec (.stagingRelease) s = .next (State.showVis { s with vis := { s.vis with staged := s.vis.staged.erase o } })) ∧
  (∀ (s : State) (ep : BitVec 12) (bytes : List Byte),
      exec (.streamFrame ep bytes) s = .next (if 0x580 ≤ ep.toNat ∧ ep.toNat < 0x5C0 then s.sinkSegment (ep.toNat - 0x580) bytes else s)) ∧
  (∀ (s : State) (k : Fin 64),
      s.isUp dVIS = true →
      exec (.sinkIncompleteTimeout k) s = .next (s.closeSink k.val)) ∧
  (∀ (s : State) (t : Fin 2) (x : CsiFrame) (rest : List CsiFrame),
      s.isUp dVIS = true →
      s.flag (VIS_CST_CFG_EN t.val) = true →
      SMap.getD s.vis.tx t.val [] = x :: rest →
      exec (.csitxRowSend t) s = .next (s.sendRow t.val x rest))

/-- R131, R398, R399, R400, R401, R402, R404, R407, R411, R403, R412: Twin pairs and their witness. A half that pairs sends HELLO
and checks the partner's, which an UNPAIRED half notes; a checkpoint of an active COLD half with TWL up is sent at its period
and complete with its last acknowledgement, and a copied item commits with its own; the end of a LOCKSTEP epoch sends the
digest of its changes and digests are compared; a missing digest diverges the pair. An active half answers a ledger read and
gives up its role at a switch-over, and a reading standby takes over with the ledger it gets or, without an answer, settles
its mirror and applies pending outputs again. TWIN_CTRL with the key starts a take-over for the witness and a resync, and is
refused without the key or from another requester; a complete copy ends SYNCING in PAIRED, and a standby applies a journal
input or a copy. At a beat the witness of an enabled pair reads both halves, follows the active role and decides from the
answers of the active and the other half; TWIN_WIT_CTRL with the key orders a switch-over of a pair that allows it and shows
REFUSED otherwise, and without the key does nothing. -/
def Obligations.TwinPairs : Prop :=
  (∀ (s : State),
      s.pairing = true →
      exec (.twinPairingStart) s = .next ((s.sendTwin 1 [s.nodeId, s.get GLB_STRAP_SLOT, roleCode s.node.twinRole, s.get TWIN_CFG_MODE, s.get TWIN_CFG_PAIR_ID, s.get TWIN_CFG_EPOCH_US, s.get BOOT_IMG_CRC]).checkHello)) ∧
  (∀ (s : State) (id slot role mode pairId epoch img : Nat),
      s.pairState = 0 →
      exec (.twinHello id slot role mode pairId epoch img) s = .next ((let t := State.put { s with twin := { s.twin with partner := some { id, slot, role, mode, pair := pairId, epoch, img } } } TWIN_STATUS_PARTNER_ID id
   if t.pairing then t.checkHello else t))) ∧
  (∀ (s : State) (id slot role mode pairId epoch img : Nat),
      s.pairState ≠ 0 →
      exec (.twinHello id slot role mode pairId epoch img) s = .next (s)) ∧
  (∀ (s : State),
      s.node.twinRole = .active →
      s.get TWIN_CFG_MODE = 0 →
      s.pairState = 1 ∨ s.pairState = 2 →
      s.twlUp = true →
      exec (.twinCkptTimer) s = .next (s.sendCheckpoint)) ∧
  (∀ (s : State) (seq : Nat) (x : CopyWait) (w : Work),
      s.twin.copies.find? (fun y => y.seq == seq) = some x →
      x.ckpt = false →
      x.config = false →
      State.work? { s with twin := { s.twin with copies := s.twin.copies.filter (fun y => y.seq != seq) } } x.src x.sq x.wsn = some w →
      exec (.twinCopyAck seq) s = .next (State.commit { s with twin := { s.twin with copies := s.twin.copies.filter (fun y => y.seq != seq) } } w x.bytes 0)) ∧
  (∀ (s : State) (seq : Nat) (x : CopyWait),
      s.twin.copies.find? (fun y => y.seq == seq) = some x →
      x.ckpt = true →
      (s.twin.copies.filter (fun y => y.seq != seq)).any (fun y => y.ckpt) = false →
      exec (.twinCopyAck seq) s = .next ((let t : State := { s with twin := { s.twin with copies := s.twin.copies.filter (fun y => y.seq != seq) } }
   { (t.put TWIN_CKPT_AGE 0).inc TWIN_CNT_CKPT with twin := { t.twin with ageAt := t.count } }))) ∧
  (∀ (s : State) (epoch : Nat),
      s.lockstep = true →
      (epoch + 1) * (s.get TWIN_CFG_EPOCH_US * 1000) ≤ s.ringTime →
      exec (.twinEpochEnd epoch) s = .next ((let t : State := { s with twin := { s.twin with epochLog := [], ownDigest := some (epoch, crc32c s.twin.epochLog) } }
   (t.sendTwin 3 [epoch % 2 ^ 32, epoch / 2 ^ 32, crc32c s.twin.epochLog, t.get TWIN_STATUS_HEALTH]).compareDigests))) ∧
  (∀ (s : State) (epoch digest : Nat) (health : Bool),
      s.lockstep = true →
      exec (.twinDigest epoch digest health) s = .next (State.compareDigests { s with twin := { s.twin with peerDigest := some (epoch, digest) } })) ∧
  (∀ (s : State),
      s.lockstep = true →
      exec (.twinDigestTimeout) s = .next (s.diverge)) ∧
  (∀ (s : State) (switchOver : Bool),
      s.node.twinRole = .active →
      s.pairState ≠ 4 →
      exec (.twinLedgerReq switchOver) s = .next (if switchOver then ((s.sendLedger.giveUpPins.idleUnits).setRole .standby).setMode mSTANDBY else s.sendLedger)) ∧
  (∀ (s : State) (entries : List (Nat × Bool × Nat × Nat × Nat)) (pins : List (Fin 6 × BitVec 64)) (dike : List (Fin 16 × Fin 8 × BitVec 4)),
      s.twin.reading = true →
      exec (.twinLedger entries pins dike) s = .next (State.takeOver { s with dlv := { s.dlv with ledger := ledgerOf entries } } pins dike)) ∧
  (∀ (s : State) (entries : List (Nat × Bool × Nat × Nat × Nat)) (pins : List (Fin 6 × BitVec 64)) (dike : List (Fin 16 × Fin 8 × BitVec 4)),
      s.twin.reading = true →
      exec (.twinLedgerReadTimeout entries pins dike) s = .next ((ledgerOf entries).foldl (fun (s : State) (e : Nat × LedgerEntry) => s.reapply e.1 e.2) (((ledgerOf entries).foldl (fun (s : State) (e : Nat × LedgerEntry) => s.settleEntry e.1 e.2) { s with dlv := { s.dlv with ledger := ledgerOf entries } }).takeOver pins dike))) ∧
  (∀ (s : State) (req : Requester) (val : Word),
      val.toNat.testBit 1 = true →
      val.toNat / 2 ^ 16 % 2 ^ 16 = 0x7A1E →
      s.isWitness req = true →
      exec (.twinTake req val) s = .next ((if val.toNat.testBit 2 then s.resync else s).startTake)) ∧
  (∀ (s : State) (req : Requester) (val : Word),
      val.toNat.testBit 1 = true →
      val.toNat / 2 ^ 16 % 2 ^ 16 ≠ 0x7A1E ∨ s.isWitness req = false →
      exec (.twinTake req val) s = .next (s.raise TWIN_ERR_CFG_REJECT)) ∧
  (∀ (s : State) (req : Requester) (val : Word),
      val.toNat.testBit 2 = true →
      val.toNat.testBit 1 = false →
      val.toNat / 2 ^ 16 % 2 ^ 16 = 0x7A1E →
      exec (.twinResync req val) s = .next (s.resync)) ∧
  (∀ (s : State) (req : Requester) (val : Word),
      val.toNat.testBit 2 = true →
      val.toNat / 2 ^ 16 % 2 ^ 16 ≠ 0x7A1E →
      exec (.twinResync req val) s = .next (s.raise TWIN_ERR_CFG_REJECT)) ∧
  (∀ (s : State) (config : List (Nat × Word)),
      s.pairState = 1 →
      s.twin.copies.all (fun y => !y.ckpt && !y.config) = true →
      s.get TWIN_CFG_MODE = 0 ∨ s.twin.synced = true →
      s.flag TWIN_CKPT_CFG_HOST = false →
      exec (.twinSyncDone config) s = .next (((s.put TWIN_STATUS_STATE 2).put HQ_LDG_STATUS_MIRROR 1).put TWIN_STATUS_MIRROR_OK 1)) ∧
  (∀ (s : State) (config : List (Nat × Word)),
      s.pairState = 1 →
      s.twin.copies.all (fun y => !y.ckpt && !y.config) = true →
      s.get TWIN_CFG_MODE = 0 ∨ s.twin.synced = true →
      s.flag TWIN_CKPT_CFG_HOST = true →
      exec (.twinSyncDone config) s = .next ((((config.foldl (fun s e => s.applyConfig e.1 e.2.toNat) s).put TWIN_STATUS_STATE 2).put HQ_LDG_STATUS_MIRROR 1).put TWIN_STATUS_MIRROR_OK 1)) ∧
  (∀ (s : State) (seq : Nat) (body : JournalBody),
      s.follows = true →
      s.get TWIN_CFG_MODE = 1 →
      exec (.twinJournal seq body) s = .next ((State.applyJournal { s with twin := { s.twin with epochLog := s.twin.epochLog ++ journalBytes body } } body).applyGets)) ∧
  (∀ (s : State) (seq : Nat) (body : CopyBody),
      s.follows = true →
      exec (.twinCopy seq body) s = .next ((s.applyCopy body).sendTwin 5 [seq])) ∧
  (∀ (s : State) (pair : Fin 64) (x y : Option TwinAnswer),
      s.witnesses = true →
      s.flag (TWIN_WITP_CFG_EN pair.val) = true →
      exec (.witnessBeat pair x y) s = .next ((let t := (s.each [s.get (TWIN_WITP_CFG_ID_A pair.val), s.get (TWIN_WITP_CFG_ID_B pair.val)] (fun s n => (s.raSend n 0xB00008 1 [] false).raSend n 0x00004 1 [] false)).followRole pair.val x y
   if t.get (TWIN_WITP_STATUS_ACTIVE_SLOT pair.val) = 0 then t.witnessDecide pair.val x y else t.witnessDecide pair.val y x))) ∧
  (∀ (s : State) (val : Word) (x y : Option TwinAnswer),
      val.toNat / 2 ^ 16 = 0x7A1E →
      exec (.witnessSwitchOver val x y) s = .next (if s.switchable (val.toNat % 64) x y then s.orderTake (val.toNat % 64) 3 else s.put (TWIN_WITP_STATUS_DECISION (val.toNat % 64)) 4)) ∧
  (∀ (s : State) (val : Word) (x y : Option TwinAnswer),
      val.toNat / 2 ^ 16 ≠ 0x7A1E →
      exec (.witnessSwitchOver val x y) s = .next (s))

/-- R413, R416, R417, R419, R420: Interrupt banks accept, complete and are written. A processor that runs and is not in an entry
accepts the level offered; the end of an entry or exit sequence accepts a level offered meanwhile; while the bank's domain
takes accesses a COMPLETE is judged for its bank, and writes of the pending and mask registers of a bank or of the shared
sources set and clear the bits that exist; a route is written with a target that exists while the source is masked or where it
does not change, and refused otherwise. -/
def Obligations.Interrupts : Prop :=
  (∀ (s : State) (x : Fin 9),
      s.bankRuns x = true →
      (s.bank x).entry = false →
      exec (.intAccept x) s = .next (s.intAccept x)) ∧
  (∀ (s : State) (x : Fin 9),
      s.bankRuns x = true →
      (s.bank x).entry = true →
      exec (.intEntryDone x) s = .next ((s.setBank x { s.bank x with entry := false }).intAccept x)) ∧
  (∀ (s : State) (x : Fin 9),
      s.bankRuns x = true →
      (s.bank x).exit = true →
      exec (.intExitDone x) s = .next ((s.setBank x { s.bank x with exit := false }).intAccept x)) ∧
  (∀ (s : State) (req : Requester) (x : Fin 9) (val : Word) (low : List Nat),
      s.accessible (bankDomain x) = true →
      exec (.intComplete req x val low) s = .next (s.intComplete req x (val.toNat % 8) low)) ∧
  (∀ (s : State) (bank : Fin 10) (w : Fin 32) (val : Word),
      s.accessible (intDomain (bankOf bank)) = true →
      bank.val = 9 ∨ w.val < 8 →
      exec (.intPendSet bank w val) s = .next (s.pendSet (bankOf bank) w val.toNat)) ∧
  (∀ (s : State) (bank : Fin 10) (w : Fin 32) (val : Word),
      s.accessible (intDomain (bankOf bank)) = true →
      bank.val = 9 ∨ w.val < 8 →
      exec (.intPendClr bank w val) s = .next (s.pendClr (bankOf bank) w val.toNat)) ∧
  (∀ (s : State) (bank : Fin 10) (w : Fin 32) (val : Word),
      s.accessible (intDomain (bankOf bank)) = true →
      bank.val = 9 ∨ w.val < 8 →
      exec (.intMaskSet bank w val) s = .next (s.maskSet (bankOf bank) w val.toNat)) ∧
  (∀ (s : State) (bank : Fin 10) (w : Fin 32) (val : Word),
      s.accessible (intDomain (bankOf bank)) = true →
      bank.val = 9 ∨ w.val < 8 →
      exec (.intMaskClr bank w val) s = .next (s.maskClr (bankOf bank) w val.toNat)) ∧
  (∀ (s : State) (n : Fin 1024) (val : Word),
      s.accessible dSV = true →
      9 < val.toNat % 16 ∨ ((val.toNat % 16 ≠ s.get (INT_SH_ROUTE_TARGET n) ∨ val.toNat / 256 % 256 ≠ s.get (INT_SH_ROUTE_VECTOR n)) ∧ (s.get (INT_SH_MASK_SET (n.val / 32))).testBit (n.val % 32) = false) →
      exec (.intRouteWrite n val) s = .next (s.put INT_SH_ERR 1)) ∧
  (∀ (s : State) (n : Fin 1024) (val : Word),
      s.accessible dSV = true →
      val.toNat % 16 ≤ 9 →
      (val.toNat % 16 = s.get (INT_SH_ROUTE_TARGET n) ∧ val.toNat / 256 % 256 = s.get (INT_SH_ROUTE_VECTOR n)) ∨ (s.get (INT_SH_MASK_SET (n.val / 32))).testBit (n.val % 32) = true →
      exec (.intRouteWrite n val) s = .next ((s.put (INT_SH_ROUTE_TARGET n) val.toNat).put (INT_SH_ROUTE_VECTOR n) (val.toNat / 256)))

/-- R445, R446, R447, R449, R450, R452: Dike channels. An enable of a disabled channel takes the configuration and starts the
channel where its configuration allows it and is refused otherwise, and one of an enabled channel changes nothing and is
refused where it would change a field; a disable stops an enabled channel, unless it would change a field, and takes the
fields of a disabled one. Samples go through the limiter and the trip conditions in order, with a condition of time at the
last of them; 10 low samples release the limiter; debounce, settling, back-off and the retry reset move the channel on;
presence follows the pin; RESTART starts a channel in BACKOFF or LOCKOUT and is refused otherwise. -/
def Obligations.DikeChannels : Prop :=
  (∀ (s : State) (x : Fin 16) (val : Word),
      val.toNat.testBit 31 = true →
      s.flag (DIKE_CH_CFG_EN x.val) = false →
      (s.dikeCfgFields x.val val.toNat).dikeOk x.val = true →
      exec (.dikeEnable x val) s = .next ((((s.dikeCfgFields x.val val.toNat).dikePres x.val).dikePgPin x.val).dikeStart x.val)) ∧
  (∀ (s : State) (x : Fin 16) (val : Word),
      val.toNat.testBit 31 = true →
      s.flag (DIKE_CH_CFG_EN x.val) = false →
      (s.dikeCfgFields x.val val.toNat).dikeOk x.val = false →
      exec (.dikeEnable x val) s = .next (s.dikeReject)) ∧
  (∀ (s : State) (x : Fin 16) (val : Word),
      val.toNat.testBit 31 = true →
      s.flag (DIKE_CH_CFG_EN x.val) = true →
      exec (.dikeEnable x val) s = .next (if s.dikeCfgSame x.val val.toNat then s else s.dikeReject)) ∧
  (∀ (s : State) (x : Fin 16) (val : Word),
      val.toNat.testBit 31 = false →
      s.flag (DIKE_CH_CFG_EN x.val) = true →
      exec (.dikeDisable x val) s = .next (if s.dikeCfgSame x.val val.toNat then s.dikeStop x.val else s.dikeReject)) ∧
  (∀ (s : State) (x : Fin 16) (val : Word),
      val.toNat.testBit 31 = false →
      s.flag (DIKE_CH_CFG_EN x.val) = false →
      exec (.dikeDisable x val) s = .next (((s.dikeCfgFields x.val val.toNat).dikePres x.val).dikePgPin x.val)) ∧
  (∀ (s : State) (x : Fin 16) (val : Word),
      val.toNat.testBit 0 = true →
      s.dkState x.val = 6 ∨ s.dkState x.val = 7 →
      exec (.dikeRestart x val) s = .next ((s.put (DIKE_CH_STATUS_RETRIES x.val) 0).dikeAttempt x.val)) ∧
  (∀ (s : State) (x : Fin 16) (val : Word),
      val.toNat.testBit 0 = true →
      s.dkState x.val ≠ 6 →
      s.dkState x.val ≠ 7 →
      exec (.dikeRestart x val) s = .next (s.dikeReject)) ∧
  (∀ (s : State) (x : Fin 16) (level : Bool),
      exec (.dikePresChange x level) s = .next ((s.setDk x { s.dk x with pin := level }).dikePres x.val)) ∧
  (∀ (s : State) (x : Fin 16),
      s.dikeRuns = true →
      s.dkState x.val = 2 →
      exec (.dikeDebounceDone x) s = .next (((s.inc (DIKE_CH_CNT_INSERT x.val)).dikeAttempt x.val).dikeWake)) ∧
  (∀ (s : State) (x : Fin 16) (raws : List (BitVec 12)),
      s.dikeRuns = true →
      exec (.dikeLimiterEngage x raws) s = .next (raws.foldl (fun s r => s.dikeSample x.val r.toNat false) s)) ∧
  (∀ (s : State) (x : Fin 16) (raws : List (BitVec 12)),
      (s.dikeSamples x.val raws).dikeReleases x.val raws = true →
      exec (.dikeLimiterRelease x raws) s = .next ((let t := (s.dikeSamples x.val raws).put (DIKE_CH_STATUS_LIMITING x.val) 0
   if t.dkState x.val = 3 then t.put (DIKE_CH_STATUS_STATE x.val) 4 else t))) ∧
  (∀ (s : State) (x : Fin 16),
      s.dikeRuns = true →
      s.dkState x.val = 4 →
      s.flag (DIKE_CH_STATUS_LIMITING x.val) = false →
      exec (.dikePgSettleExpiry x) s = .next ((s.put (DIKE_CH_STATUS_STATE x.val) 5).dikePg x.val true)) ∧
  (∀ (s : State) (x : Fin 16),
      s.dikeRuns = true →
      exec (.dikeTrip x [] true) s = .next (s.dikeTimeTrip x.val)) ∧
  (∀ (s : State) (x : Fin 16) (raws : List (BitVec 12)) (r : BitVec 12) (late : Bool),
      s.dikeRuns = true →
      raws.getLast? = some r →
      exec (.dikeTrip x raws late) s = .next ((s.dikeSamples x.val raws.dropLast).dikeSample x.val r.toNat late)) ∧
  (∀ (s : State) (x : Fin 16),
      s.dikeRuns = true →
      s.dkState x.val = 6 →
      exec (.dikeBackoffEnd x) s = .next (s.dikeAttempt x.val)) ∧
  (∀ (s : State) (x : Fin 16),
      s.dikeRuns = true →
      s.dkState x.val = 5 →
      exec (.dikeRetryResetTimer x) s = .next (s.put (DIKE_CH_STATUS_RETRIES x.val) 0))

/-- R460, R461, R463, R466, R471: Core voltage, PMBus, thermal policy and rounds by policy. An evaluation measures the pace
counts, shows the lowest ratio and decides a step; an acknowledged PMBus command is answered and the next one is put, a
command not acknowledged is repeated once and a second NACK is a fault of the loop; an alert outside HOLD reads STATUS_WORD,
the end of settling and each poll in HOLD read VOUT; a sample shows the highest temperature and its sensor and changes the
level by the thresholds, and every second LIMIT steps by the level; PWR_POL_CTRL is written, and a root with LULL_AUTO starts
a round where it would consent and nothing forbids it. -/
def Obligations.PowerPolicies : Prop :=
  (∀ (s : State) (counts : List (Fin 17 × Fin 64 × BitVec 16)) (d : Nat),
      (s.measure counts).lowestRatio = some d →
      exec (.avsEvaluation counts) s = .next (((s.measure counts).showRatio d).avsDecide ((s.measure counts).get (PWR_PACE_PACE d)) ((s.measure counts).paceTarget d))) ∧
  (∀ (s : State),
      s.pwr.settling = true →
      exec (.avsSettleExpiry) s = .next (State.pmbSend { s with pwr := { s.pwr with settling := false } } pmbReadVout 0)) ∧
  (∀ (s : State),
      s.avsState = 3 →
      s.node.off = false →
      exec (.avsHoldPoll) s = .next (s.pmbSend pmbReadVout 0)) ∧
  (∀ (s : State),
      s.avsState ≠ 3 →
      s.node.off = false →
      exec (.pmbusAlert) s = .next (s.pmbSend pmbStatusWord 0)) ∧
  (∀ (s : State) (data : BitVec 16) (cmd mv : Nat) (rest : List (Nat × Nat)),
      s.pwr.queue = (cmd, mv) :: rest →
      exec (.pmbusResponse true data) s = .next (((s.pmbPop rest).pmbAnswer cmd data.toNat).pmbPut)) ∧
  (∀ (s : State) (data : BitVec 16) (cmd mv : Nat) (rest : List (Nat × Nat)),
      s.pwr.queue = (cmd, mv) :: rest →
      exec (.pmbusResponse false data) s = .next (if s.pwr.tried then (s.pmbPop rest).pmbFault.pmbPut else State.pmbPut { s with pwr := { s.pwr with tried := true } })) ∧
  (∀ (s : State) (val : Word),
      exec (.avsEnable val) s = .next (s.writePolCtrl val.toNat)) ∧
  (∀ (s : State) (temps : List (BitVec 8)) (n : Int),
      (temps.map (fun t => t.toInt)).max? = some n →
      s.node.off = false →
      exec (.thermalSample temps) s = .next ((let t := (s.put PWR_THERM_STATUS_T_MAX (wrapInt 8 n)).put PWR_THERM_STATUS_SENSOR ((findIdxFrom (fun (x : BitVec 8) => x.toInt == n) temps 0).getD 0)
   if t.thermalLevel n = t.get PWR_THERM_STATUS_LEVEL then t else t.enterLevel (t.get PWR_THERM_STATUS_LEVEL) (t.thermalLevel n)))) ∧
  (∀ (s : State),
      exec (.thermalLimitStep) s = .next (s.stepLimit (s.get PWR_THERM_STATUS_LEVEL))) ∧
  (∀ (s : State) (policyConsents wakeAsserted : Bool),
      s.flag RING_NODE_ROOT = true →
      s.flag PWR_POL_CTRL_LULL_AUTO = true →
      s.get RING_LULL_STATUS_RESULT ≠ 1 →
      s.lullBarred = false →
      s.mode = mACTIVE →
      s.refusal policyConsents wakeAsserted = 0 →
      exec (.lullAutoStart ⟨policyConsents, wakeAsserted⟩) s = .next (s.startRound ⟨policyConsents, wakeAsserted⟩))

/-- R12, R35, R60, R73, R106, R423, R429, R471, R174, R411: What the commands of the system blocks leave unchanged. For each
command named, every component of the state but those listed for it is exactly as it was: so LPDDR5, the Polder with its cells
and the field clusters are unchanged by all of them, and the BAR2 window by all but BAR2_WRITE. Where regs is listed, the
registers written are those that the statement of the command's family gives. -/
def Obligations.FrameSystem : Prop :=
  (∀ (time crc gap : Nat) (seq : AtPort) (nodes : Nat) (s : State), ∃ t, exec (.actArmFrame time crc gap seq nodes) s = .next t ∧ t = { s with regs := t.regs, boot := t.boot, ring := t.ring, out := t.out }) ∧
  (∀ (s : State), ∃ t, exec (.actCancelCmd) s = .next t ∧ t = { s with regs := t.regs, boot := t.boot, ring := t.ring, out := t.out }) ∧
  (∀ (seq : AtPort) (s : State), ∃ t, exec (.actCancelFrame seq) s = .next t ∧ t = { s with regs := t.regs, boot := t.boot, ring := t.ring, out := t.out }) ∧
  (∀ (s : State), ∃ t, exec (.actProcessorsStopped) s = .next t ∧ t = { s with regs := t.regs, boot := t.boot, ints := t.ints, out := t.out }) ∧
  (∀ (s : State), ∃ t, exec (.actReportDeadline) s = .next t ∧ t = { s with regs := t.regs, boot := t.boot, ring := t.ring, out := t.out }) ∧
  (∀ (s : State), ∃ t, exec (.activationTime) s = .next t ∧ t = { s with boot := t.boot, out := t.out }) ∧
  (∀ (val : Word) (s : State), ∃ t, exec (.avsEnable val) s = .next t ∧ t = { s with regs := t.regs, pwr := t.pwr, out := t.out }) ∧
  (∀ (s : State), ∃ t, exec (.avsHoldPoll) s = .next t ∧ t = { s with pwr := t.pwr, out := t.out }) ∧
  (∀ (s : State), ∃ t, exec (.avsSettleExpiry) s = .next t ∧ t = { s with pwr := t.pwr, out := t.out }) ∧
  (∀ (off : Nat) (bytes : List Byte) (s : State), ∃ t, exec (.bar2Write off bytes) s = .next t ∧ t = { s with bar2 := t.bar2 }) ∧
  (∀ (s : State), ∃ t, exec (.bootCtrlRestart) s = .next t ∧ t = { s with regs := t.regs, boot := t.boot }) ∧
  (∀ (s : State), ∃ t, exec (.bootCtrlRestartStage) s = .next t ∧ t = { s with regs := t.regs, boot := t.boot }) ∧
  (∀ (s : State), ∃ t, exec (.calCommit) s = .next t ∧ t = { s with regs := t.regs, boot := t.boot, hq := t.hq, out := t.out }) ∧
  (∀ (s : State), ∃ t, exec (.calLoadShadow) s = .next t ∧ t = { s with regs := t.regs, hq := t.hq, out := t.out }) ∧
  (∀ (cq : BitVec 8) (val : Word) (s : State), ∃ t, exec (.cqEnable cq val) s = .next t ∧ t = { s with regs := t.regs, hq := t.hq, out := t.out }) ∧
  (∀ (line : Fin 32) (s : State), ∃ t, exec (.cqHeadPoll line) s = .next t ∧ t = { s with out := t.out }) ∧
  (∀ (cq : BitVec 8) (s : State), ∃ t, exec (.cqModTimeExpiry cq) s = .next t ∧ t = { s with regs := t.regs, hq := t.hq, out := t.out }) ∧
  (∀ (port : Fin 3) (cls : Fin 8) (cells : Nat) (s : State), ∃ t, exec (.creditOs port cls cells) s = .next t ∧ t = { s with ring := t.ring }) ∧
  (∀ (s : State), ∃ t, exec (.descFetchIssue) s = .next t ∧ t = { s with hq := t.hq, out := t.out }) ∧
  (∀ (line : Fin 32) (s : State), ∃ t, exec (.doorbellPollIssue line) s = .next t ∧ t = { s with hq := t.hq, out := t.out }) ∧
  (∀ (s : State), ∃ t, exec (.faultNPulseEnd) s = .next t ∧ t = { s with regs := t.regs, out := t.out }) ∧
  (∀ (n : Fin 640) (val : Word) (s : State), ∃ t, exec (.fltActionWrite n val) s = .next t ∧ t = { s with regs := t.regs }) ∧
  (∀ (val : Word) (s : State), ∃ t, exec (.hqCtrlEn val) s = .next t ∧ t = { s with regs := t.regs, hq := t.hq, out := t.out }) ∧
  (∀ (s : State), ∃ t, exec (.imageVerifyDone) s = .next t ∧ t = { s with regs := t.regs, boot := t.boot, out := t.out }) ∧
  (∀ (b : Fin 9) (s : State), ∃ t, exec (.intAccept b) s = .next t ∧ t = { s with regs := t.regs, ints := t.ints }) ∧
  (∀ (req : Requester) (b : Fin 9) (val : Word) (low : List Nat) (s : State), ∃ t, exec (.intComplete req b val low) s = .next t ∧ t = { s with regs := t.regs, ints := t.ints }) ∧
  (∀ (bank : Fin 10) (w : Fin 32) (val : Word) (s : State), ∃ t, exec (.intMaskSet bank w val) s = .next t ∧ t = { s with regs := t.regs }) ∧
  (∀ (bank : Fin 10) (w : Fin 32) (val : Word) (s : State), ∃ t, exec (.intPendClr bank w val) s = .next t ∧ t = { s with regs := t.regs }) ∧
  (∀ (n : Fin 1024) (val : Word) (s : State), ∃ t, exec (.intRouteWrite n val) s = .next t ∧ t = { s with regs := t.regs }) ∧
  (∀ (s : State), ∃ t, exec (.journalWaitGenExpiry) s = .next t ∧ t = { s with regs := t.regs, dlv := t.dlv }) ∧
  (∀ (port : Nat) (s : State), ∃ t, exec (.linkReturn port) s = .next t ∧ t = { s with regs := t.regs, dlv := t.dlv }) ∧
  (∀ (s : State), ∃ t, exec (.lullAbort) s = .next t ∧ t = { s with regs := t.regs, ring := t.ring, out := t.out }) ∧
  (∀ (s : State), ∃ t, exec (.lullRoundTimeout) s = .next t ∧ t = { s with regs := t.regs, ring := t.ring, out := t.out }) ∧
  (∀ (target : BitVec 4) (s : State), ∃ t, exec (.modeReqNotAllowed target) s = .next t ∧ t = { s with regs := t.regs }) ∧
  (∀ (s : State), ∃ t, exec (.pmbusAlert) s = .next t ∧ t = { s with pwr := t.pwr, out := t.out }) ∧
  (∀ (s : State), ∃ t, exec (.pswTake) s = .next t ∧ t = { s with regs := t.regs, node := t.node, out := t.out }) ∧
  (∀ (s : State), ∃ t, exec (.pswTakePulseEnd) s = .next t ∧ t = { s with node := t.node, out := t.out }) ∧
  (∀ (seq : Nat) (s : State), ∃ t, exec (.raTimeout seq) s = .next t ∧ t = { s with regs := t.regs, ring := t.ring, hq := t.hq, out := t.out }) ∧
  (∀ (clk : Fin 3) (s : State), ∃ t, exec (.refclkReturn clk) s = .next t ∧ t = { s with node := t.node }) ∧
  (∀ (s : State), ∃ t, exec (.referenceClocksPresent) s = .next t ∧ t = { s with regs := t.regs, node := t.node, out := t.out }) ∧
  (∀ (req : Requester) (off : Span) (s : State), ∃ t, exec (.regPairLoRead req off) s = .next t ∧ t = { s with regs := t.regs, capture := t.capture, sch := t.sch, canCap := t.canCap, out := t.out }) ∧
  (∀ (req : Requester) (off : Nat) (val : Word) (s : State), ∃ t, exec (.regPairLoWrite req off val) s = .next t ∧ t = { s with staged := t.staged }) ∧
  (∀ (s : State), ∃ t, exec (.ringEnable) s = .next t ∧ t = { s with regs := t.regs, ring := t.ring, out := t.out }) ∧
  (∀ (port : Fin 3) (s : State), ∃ t, exec (.ringSignalDetect port) s = .next t ∧ t = { s with regs := t.regs, hq := t.hq, out := t.out }) ∧
  (∀ (port : Fin 3) (s : State), ∃ t, exec (.ringWakeArm port) s = .next t ∧ t = { s with regs := t.regs, ring := t.ring }) ∧
  (∀ (s : State), ∃ t, exec (.serviceEntryComplete) s = .next t ∧ t = { s with regs := t.regs, node := t.node, out := t.out }) ∧
  (∀ (period : Option Nat) (s : State), ∃ t, exec (.svWatchdogService period) s = .next t ∧ t = { s with node := t.node }) ∧
  (∀ (s : State), ∃ t, exec (.svWatchdogWarning) s = .next t ∧ t = { s with regs := t.regs, node := t.node }) ∧
  (∀ (s : State), ∃ t, exec (.thermalLimitStep) s = .next t ∧ t = { s with regs := t.regs }) ∧
  (∀ (val : Word) (a b : Option TwinAnswer) (s : State), ∃ t, exec (.witnessSwitchOver val a b) s = .next t ∧ t = { s with regs := t.regs, ring := t.ring, twin := t.twin, out := t.out })

/-- R12, R215, R200, R217, R235: What the commands of the Polder, the schedule, time and Ethernet leave unchanged. For each
command named, every component of the state but those listed for it is exactly as it was: so LPDDR5, the BAR2 window and the
field clusters are unchanged by all of them, and the Polder with its cells by all that do not list pld. Where regs is listed,
the registers written are those that the statement of the command's family gives. -/
def Obligations.FrameNetwork : Prop :=
  (∀ (port : Fin 16) (s : State), ∃ t, exec (.ethLinkUpTimer port) s = .next t ∧ t = { s with regs := t.regs }) ∧
  (∀ (port : Fin 16) (s : State), ∃ t, exec (.ethPauseExpiry port) s = .next t ∧ t = { s with regs := t.regs, net := t.net }) ∧
  (∀ (port : Fin 16) (quanta : BitVec 16) (s : State), ∃ t, exec (.ethPauseReceive port quanta) s = .next t ∧ t = { s with regs := t.regs, net := t.net }) ∧
  (∀ (n : Fin 8) (s : State), ∃ t, exec (.fsyncEdge n) s = .next t ∧ t = { s with regs := t.regs, time := t.time, out := t.out }) ∧
  (∀ (n : Fin 8) (s : State), ∃ t, exec (.fsyncHeldRelease n) s = .next t ∧ t = { s with regs := t.regs, time := t.time, out := t.out }) ∧
  (∀ (n : Fin 8) (s : State), ∃ t, exec (.fsyncPulseEnd n) s = .next t ∧ t = { s with time := t.time, out := t.out }) ∧
  (∀ (g : Fin 19) (s : State), ∃ t, exec (.gclAbort g) s = .next t ∧ t = { s with regs := t.regs, sch := t.sch }) ∧
  (∀ (g : Fin 19) (val : Word) (s : State), ∃ t, exec (.gclCommit g val) s = .next t ∧ t = { s with regs := t.regs, hq := t.hq, sch := t.sch, out := t.out }) ∧
  (∀ (g : Fin 19) (s : State), ∃ t, exec (.gclDisable g) s = .next t ∧ t = { s with regs := t.regs, sch := t.sch }) ∧
  (∀ (g : Fin 19) (s : State), ∃ t, exec (.gclEntryBoundary g) s = .next t ∧ t = { s with regs := t.regs, sch := t.sch }) ∧
  (∀ (g : Fin 19) (cls : Fin 8) (s : State), ∃ t, exec (.guardBandStart g cls) s = .next t ∧ t = { s with regs := t.regs, sch := t.sch }) ∧
  (∀ (s : State), ∃ t, exec (.lockNow) s = .next t ∧ t = { s with regs := t.regs, hq := t.hq, time := t.time, out := t.out }) ∧
  (∀ (s : State), ∃ t, exec (.pldFlushDone) s = .next t ∧ t = { s with regs := t.regs }) ∧
  (∀ (inp : Fin 32) (outs : List SwitchDst) (cls : Fin 8) (tagged ok : Bool) (bytes : List Byte) (s : State), ∃ t, exec (.pldFrameLink inp outs cls tagged ok bytes) s = .next t ∧ t = { s with regs := t.regs, ring := t.ring, pld := t.pld, sch := t.sch, net := t.net, out := t.out }) ∧
  (∀ (s : State), ∃ t, exec (.ppsInEdge) s = .next t ∧ t = { s with regs := t.regs, hq := t.hq, time := t.time, out := t.out }) ∧
  (∀ (rise : Bool) (s : State), ∃ t, exec (.ppsOutEdge rise) s = .next t ∧ t = { s with time := t.time, out := t.out }) ∧
  (∀ (out : Fin 32) (s : State), ∃ t, exec (.schFrameStart out) s = .next t ∧ t = { s with regs := t.regs, ring := t.ring, pld := t.pld, sch := t.sch }) ∧
  (∀ (source : Option Int) (s : State), ∃ t, exec (.servoWindowEnd source) s = .next t ∧ t = { s with regs := t.regs, hq := t.hq, time := t.time, out := t.out }) ∧
  (∀ (s : State), ∃ t, exec (.timeLockAchieved) s = .next t ∧ t = { s with regs := t.regs, hq := t.hq, time := t.time, out := t.out }) ∧
  (∀ (val : Word) (s : State), ∃ t, exec (.timeRateWrite val) s = .next t ∧ t = { s with regs := t.regs, hq := t.hq, time := t.time, out := t.out }) ∧
  (∀ (port : Fin 3) (seq : BitVec 8) (s : State), ∃ t, exec (.timeReplyOs port seq) s = .next t ∧ t = { s with time := t.time, out := t.out }) ∧
  (∀ (port : Fin 3) (seq : BitVec 8) (wait : Nat) (s : State), ∃ t, exec (.timeSyncOs port seq wait) s = .next t ∧ t = { s with time := t.time, out := t.out }) ∧
  (∀ (port : Fin 3) (wait : Nat) (s : State), ∃ t, exec (.timeSyncTimer port wait) s = .next t ∧ t = { s with time := t.time, out := t.out }) ∧
  (∀ (out inp : Fin 32) (cls : Fin 8) (s : State), ∃ t, exec (.voqPromotion out inp cls) s = .next t ∧ t = { s with regs := t.regs, sch := t.sch }) ∧
  (∀ (out : Fin 32) (cls : Fin 8) (val : Word) (s : State), ∃ t, exec (.weirBurstWrite out cls val) s = .next t ∧ t = { s with regs := t.regs }) ∧
  (∀ (out : Fin 32) (cls : Fin 8) (val : Word) (s : State), ∃ t, exec (.weirRateWrite out cls val) s = .next t ∧ t = { s with regs := t.regs, hq := t.hq, sch := t.sch, out := t.out })

/-- R12, R263, R295, R302, R362: What the commands of the field clusters, vision and signals leave unchanged. For each command
named, every component of the state but those listed for it is exactly as it was: so LPDDR5, the BAR2 window and the Polder
with its cells are unchanged by all of them. Where regs is listed, the registers written are those that the statement of the
command's family gives. -/
def Obligations.FrameField : Prop :=
  (∀ (n : Fin 6) (c : Fin 8) (newer : List (Fin 128)) (s : State), ∃ t, exec (.canArbLost n c newer) s = .next t ∧ t = { s with regs := t.regs, node := t.node, dlv := t.dlv, fc := t.fc, out := t.out }) ∧
  (∀ (n : Fin 6) (c : Fin 8) (j : Fin 128) (s : State), ∃ t, exec (.canDupHoldEnd n c j) s = .next t ∧ t = { s with regs := t.regs, fc := t.fc }) ∧
  (∀ (req : Requester) (n : Fin 6) (c : Fin 8) (j : Fin 128) (s : State), ∃ t, exec (.canObjectCaptureRead req n c j) s = .next t ∧ t = { s with canCap := t.canCap }) ∧
  (∀ (n : Fin 6) (c : Fin 8) (j : Fin 128) (s : State), ∃ t, exec (.canObjectRequest n c j) s = .next t ∧ t = { s with regs := t.regs, fc := t.fc }) ∧
  (∀ (n : Fin 6) (c : Fin 8) (s : State), ∃ t, exec (.canRecover n c) s = .next t ∧ t = { s with regs := t.regs }) ∧
  (∀ (n : Fin 6) (c : Fin 8) (busIdle : Bool) (s : State), ∃ t, exec (.canSleep n c busIdle) s = .next t ∧ t = { s with regs := t.regs }) ∧
  (∀ (n : Fin 6) (c : Fin 8) (s : State), ∃ t, exec (.canWake n c) s = .next t ∧ t = { s with regs := t.regs }) ∧
  (∀ (c : Fin 8) (val : Word) (s : State), ∃ t, exec (.cciDirectCmd c val) s = .next t ∧ t = { s with regs := t.regs, hq := t.hq, vis := t.vis, out := t.out }) ∧
  (∀ (c : Fin 8) (ack : Bool) (data : Byte) (s : State), ∃ t, exec (.cciDirectDone c ack data) s = .next t ∧ t = { s with regs := t.regs, vis := t.vis, out := t.out }) ∧
  (∀ (n : Fin 2) (s : State), ∃ t, exec (.csitxRowSend n) s = .next t ∧ t = { s with regs := t.regs, vis := t.vis, out := t.out }) ∧
  (∀ (c : Fin 16) (s : State), ∃ t, exec (.dikeRetryResetTimer c) s = .next t ∧ t = { s with regs := t.regs }) ∧
  (∀ (n : Fin 6) (m : Fin 2) (val : Word) (s : State), ∃ t, exec (.dioOutClr n m val) s = .next t ∧ t = { s with regs := t.regs, fc := t.fc, out := t.out }) ∧
  (∀ (n : Fin 6) (m : Fin 2) (val : Word) (s : State), ∃ t, exec (.dioOutSet n m val) s = .next t ∧ t = { s with regs := t.regs, fc := t.fc, out := t.out }) ∧
  (∀ (n : Fin 6) (p : Fin 64) (s : State), ∃ t, exec (.dioTimedEntry n p) s = .next t ∧ t = { s with regs := t.regs, dlv := t.dlv, fc := t.fc }) ∧
  (∀ (n : Fin 6) (g : Fin 4) (val : Word) (s : State), ∃ t, exec (.evfClr n g val) s = .next t ∧ t = { s with regs := t.regs }) ∧
  (∀ (n : Fin 6) (g : Fin 4) (val : Word) (s : State), ∃ t, exec (.evfSet n g val) s = .next t ∧ t = { s with regs := t.regs }) ∧
  (∀ (n : Fin 6) (q : Fin 32) (s : State), ∃ t, exec (.flushTx n q) s = .next t ∧ t = { s with regs := t.regs, fc := t.fc, out := t.out }) ∧
  (∀ (n : Fin 6) (g : Fin 4) (e : Fin 8) (s : State), ∃ t, exec (.pioDelayExpiry n g e) s = .next t ∧ t = { s with regs := t.regs, fc := t.fc }) ∧
  (∀ (n : Fin 6) (g : Fin 4) (e : Fin 8) (rise : Bool) (s : State), ∃ t, exec (.pioInEdge n g e rise) s = .next t ∧ t = { s with regs := t.regs, node := t.node, boot := t.boot, ring := t.ring, flt := t.flt, hq := t.hq, dlv := t.dlv, twin := t.twin, sch := t.sch, vis := t.vis, net := t.net, fc := t.fc, sig := t.sig, bulk := t.bulk, ints := t.ints, out := t.out }) ∧
  (∀ (n : Fin 6) (g : Fin 4) (e : Fin 8) (s : State), ∃ t, exec (.pioJmp n g e) s = .next t ∧ t = { s with regs := t.regs, fc := t.fc }) ∧
  (∀ (n : Fin 6) (g : Fin 4) (e : Fin 8) (s : State), ∃ t, exec (.pioLoad n g e) s = .next t ∧ t = { s with regs := t.regs, fc := t.fc }) ∧
  (∀ (n : Fin 6) (g : Fin 4) (e : Fin 8) (s : State), ∃ t, exec (.pioMov n g e) s = .next t ∧ t = { s with regs := t.regs, fc := t.fc }) ∧
  (∀ (n : Fin 6) (g : Fin 4) (e : Fin 8) (onTick : Bool) (s : State), ∃ t, exec (.pioWait n g e onTick) s = .next t ∧ t = { s with regs := t.regs, fc := t.fc }) ∧
  (∀ (n : Fin 6) (g : Fin 4) (e : Fin 8) (onTick : Bool) (s : State), ∃ t, exec (.pioWaitSatisfied n g e onTick) s = .next t ∧ t = { s with regs := t.regs, fc := t.fc }) ∧
  (∀ (src : Nat) (ep : BitVec 12) (bytes : InClass) (s : State), ∃ t, exec (.signalFrame src ep bytes) s = .next t ∧ t = { s with regs := t.regs, dlv := t.dlv, sig := t.sig }) ∧
  (∀ (s : State), ∃ t, exec (.stagingRelease) s = .next t ∧ t = { s with regs := t.regs, vis := t.vis }) ∧
  (∀ (n : Fin 6) (q : Fin 32) (s : State), ∃ t, exec (.txFifoWrite n q) s = .next t ∧ t = { s with regs := t.regs, fc := t.fc, out := t.out })

end Statements
end

