-- ==== Sys2Proof/Laws/Memory.lean ====
section
/-! SUPPORT. The laws of sparse maps and of memory: read after write, and the canonical form, which every operation keeps. -/

namespace Sys2Proof.Machine

/-- Every key of the map is above `k`. -/
def SMap.above {α : Type} (k : Nat) (m : SMap α) : Prop := ∀ e ∈ m, k < e.1

theorem SMap.sorted_cons {α : Type} (a : Nat) (v : α) (m : SMap α) :
    SMap.sorted ((a, v) :: m) = true ↔ SMap.above a m ∧ SMap.sorted m = true := by
  induction m generalizing a v with
  | nil => simp [SMap.sorted, SMap.above]
  | cons e m ih =>
    obtain ⟨b, w⟩ := e
    have hb := ih b w
    simp only [SMap.sorted, Bool.and_eq_true, decide_eq_true_eq]
    constructor
    · rintro ⟨h, hs⟩
      refine ⟨?_, hs⟩
      intro e he
      rcases List.mem_cons.1 he with rfl | he
      · exact h
      · exact Nat.lt_trans h ((hb.1 hs).1 e he)
    · rintro ⟨h, hs⟩
      exact ⟨h (b, w) (List.mem_cons_self ..), hs⟩

theorem SMap.above_insert {α : Type} {k j : Nat} {v : α} {m : SMap α} (h : SMap.above k m) (hj : k < j) :
    SMap.above k (SMap.insert m j v) := by
  induction m with
  | nil => intro e he; simp only [SMap.insert, List.mem_singleton] at he; subst he; exact hj
  | cons e m ih =>
    obtain ⟨b, w⟩ := e
    have hb : k < b := h (b, w) (List.mem_cons_self ..)
    have hm : SMap.above k m := fun e he => h e (List.mem_cons_of_mem _ he)
    simp only [SMap.insert]
    split
    · intro e he
      rcases List.mem_cons.1 he with rfl | he
      · exact hj
      · exact h e he
    · split
      · intro e he
        rcases List.mem_cons.1 he with rfl | he
        · exact hj
        · exact hm e he
      · intro e he
        rcases List.mem_cons.1 he with rfl | he
        · exact hb
        · exact ih hm e he

theorem SMap.sorted_insert {α : Type} (m : SMap α) (k : Nat) (v : α) (h : SMap.sorted m = true) :
    SMap.sorted (SMap.insert m k v) = true := by
  induction m with
  | nil => simp [SMap.insert, SMap.sorted]
  | cons e m ih =>
    obtain ⟨b, w⟩ := e
    have hc := (SMap.sorted_cons b w m).1 h
    simp only [SMap.insert]
    split
    · next hk =>
      refine (SMap.sorted_cons _ _ _).2 ⟨?_, h⟩
      intro e he
      rcases List.mem_cons.1 he with rfl | he
      · exact hk
      · exact Nat.lt_trans hk (hc.1 e he)
    · split
      · next hk => subst hk; exact (SMap.sorted_cons _ _ _).2 hc
      · next h1 h2 => exact (SMap.sorted_cons _ _ _).2 ⟨SMap.above_insert hc.1 (by omega), ih hc.2⟩

theorem SMap.sorted_filter {α : Type} (m : SMap α) (p : Nat × α → Bool) (h : SMap.sorted m = true) :
    SMap.sorted (m.filter p) = true := by
  induction m with
  | nil => rfl
  | cons e m ih =>
    obtain ⟨b, w⟩ := e
    have hc := (SMap.sorted_cons b w m).1 h
    simp only [List.filter]
    split
    · exact (SMap.sorted_cons _ _ _).2 ⟨fun e he => hc.1 e (List.mem_of_mem_filter he), ih hc.2⟩
    · exact ih hc.2

theorem SMap.erase_eq_filter {α : Type} (m : SMap α) (k : Nat) : SMap.erase m k = m.filter (fun e => decide (e.1 ≠ k)) := by
  induction m with
  | nil => rfl
  | cons e m ih =>
    obtain ⟨b, w⟩ := e
    by_cases hb : b = k <;> simp [SMap.erase, hb, ih]

theorem SMap.sorted_erase {α : Type} (m : SMap α) (k : Nat) (h : SMap.sorted m = true) : SMap.sorted (SMap.erase m k) = true := by
  rw [SMap.erase_eq_filter]; exact SMap.sorted_filter m _ h

@[simp] theorem SMap.find_insert_same {α : Type} (m : SMap α) (k : Nat) (v : α) : SMap.find (SMap.insert m k v) k = some v := by
  induction m with
  | nil => simp [SMap.insert, SMap.find]
  | cons e m ih =>
    obtain ⟨b, w⟩ := e
    simp only [SMap.insert]
    split
    · simp [SMap.find]
    · split
      · simp [SMap.find]
      · next h1 h2 =>
        have : b ≠ k := fun e => h2 e.symm
        simp [SMap.find, this, ih]

theorem SMap.find_insert_other {α : Type} (m : SMap α) (k j : Nat) (v : α) (h : j ≠ k) :
    SMap.find (SMap.insert m k v) j = SMap.find m j := by
  have hk : k ≠ j := fun e => h e.symm
  induction m with
  | nil => simp [SMap.insert, SMap.find, hk]
  | cons e m ih =>
    obtain ⟨b, w⟩ := e
    simp only [SMap.insert]
    split
    · simp [SMap.find, hk]
    · split
      · next h2 => subst h2; simp [SMap.find, hk]
      · by_cases hb : b = j <;> simp [SMap.find, hb, ih]

@[simp] theorem SMap.find_erase_same {α : Type} (m : SMap α) (k : Nat) : SMap.find (SMap.erase m k) k = none := by
  induction m with
  | nil => rfl
  | cons e m ih =>
    obtain ⟨b, w⟩ := e
    by_cases hb : b = k <;> simp [SMap.erase, SMap.find, hb, ih]

theorem SMap.find_erase_other {α : Type} (m : SMap α) (k j : Nat) (h : j ≠ k) : SMap.find (SMap.erase m k) j = SMap.find m j := by
  induction m with
  | nil => rfl
  | cons e m ih =>
    obtain ⟨b, w⟩ := e
    by_cases hb : b = k
    · subst hb
      have hj : b ≠ j := fun e => h e.symm
      simp [SMap.erase, SMap.find, hj, ih]
    · by_cases hj : b = j
      · subst hj; simp [SMap.erase, SMap.find, hb]
      · simp [SMap.erase, SMap.find, hb, hj, ih]

/-! ### Register fields -/

theorem State.put_get (s : State) (f : Field) (v : Nat) : (s.put f v).get f = v % 2 ^ f.w := by
  unfold State.put State.get SMap.getD
  split
  · next h => simp [h]
  · simp

theorem State.put_get_other (s : State) (f g : Field) (v : Nat) (h : g.key ≠ f.key) : (s.put f v).get g = s.get g := by
  unfold State.put State.get SMap.getD
  split
  · simp [SMap.find_erase_other _ _ _ h]
  · simp [SMap.find_insert_other _ _ _ _ h]

/-! ### Memory -/

theorem Memory.read_eq (m : List Host.Cell) (k : Nat) : Memory.read m k = SMap.getD m k 0 := by
  induction m with
  | nil => rfl
  | cons e m ih =>
    obtain ⟨b, w⟩ := e
    by_cases hb : b = k
    · simp [Memory.read, SMap.getD, SMap.find, hb]
    · simp only [Memory.read, SMap.getD, SMap.find, hb, if_false] at *; exact ih

theorem Memory.read_write_same (m : List Host.Cell) (k : Nat) (b : Byte) : Memory.read (Memory.write m k b) k = b := by
  rw [Memory.read_eq]
  unfold Memory.write SMap.getD
  split
  · next h => simp [h]
  · simp

theorem Memory.read_write_other (m : List Host.Cell) (k j : Nat) (b : Byte) (h : j ≠ k) :
    Memory.read (Memory.write m k b) j = Memory.read m j := by
  rw [Memory.read_eq, Memory.read_eq]
  unfold Memory.write SMap.getD
  split
  · simp [SMap.find_erase_other _ _ _ h]
  · simp [SMap.find_insert_other _ _ _ _ h]

/-- A byte outside the stored ones reads as before. -/
theorem Memory.read_writeList_other (m : List Host.Cell) (k j : Nat) (bs : List Byte) (h : j < k ∨ k + bs.length ≤ j) :
    Memory.read (Memory.writeList m k bs) j = Memory.read m j := by
  induction bs generalizing m k with
  | nil => rfl
  | cons b bs ih =>
    simp only [Memory.writeList, List.length_cons] at *
    rw [ih (Memory.write m k b) (k + 1) (by omega), Memory.read_write_other _ _ _ _ (by omega)]

theorem SMap.all_insert (m : SMap Byte) (k : Nat) (b : Byte) (hb : b ≠ 0) (h : m.all (fun c => c.2 != 0) = true) :
    (SMap.insert m k b).all (fun c => c.2 != 0) = true := by
  induction m with
  | nil => simpa [SMap.insert] using hb
  | cons e m ih =>
    obtain ⟨a, w⟩ := e
    simp only [List.all_cons, Bool.and_eq_true] at h
    simp only [SMap.insert]
    split
    · simp only [List.all_cons, Bool.and_eq_true]; exact ⟨by simpa using hb, h.1, h.2⟩
    · split
      · simp only [List.all_cons, Bool.and_eq_true]; exact ⟨by simpa using hb, h.2⟩
      · simp only [List.all_cons, Bool.and_eq_true]; exact ⟨h.1, ih h.2⟩

theorem Memory.wf_write (m : List Host.Cell) (k : Nat) (b : Byte) (h : Memory.wf m = true) : Memory.wf (Memory.write m k b) = true := by
  unfold Memory.wf at *
  simp only [Bool.and_eq_true] at *
  unfold Memory.write
  split
  · refine ⟨SMap.sorted_erase _ _ h.1, ?_⟩
    rw [SMap.erase_eq_filter]
    exact List.all_eq_true.2 fun e he => List.all_eq_true.1 h.2 e (List.mem_of_mem_filter he)
  · next hb => exact ⟨SMap.sorted_insert _ _ _ h.1, SMap.all_insert _ _ _ hb h.2⟩

theorem Memory.wf_writeList (m : List Host.Cell) (k : Nat) (bs : List Byte) (h : Memory.wf m = true) :
    Memory.wf (Memory.writeList m k bs) = true := by
  induction bs generalizing m k with
  | nil => exact h
  | cons b bs ih => exact ih _ _ (Memory.wf_write m k b h)

theorem Memory.wf_nil : Memory.wf [] = true := rfl

end Sys2Proof.Machine
end

