-- ==== Sys2Proof/Laws/Kept.lean ====
section
/-! SUPPORT. What every operation of the block keeps: the commands that wait are untouched, what has been sent outward stays sent,
and canonical forms stay canonical. -/

namespace Sys2Proof.Machine

/-- From `o` to `s` the waiting commands are the same, the output has at most grown, and the canonical forms are kept. -/
structure Kept (o s : State) : Prop where
  pending : s.pending = o.pending
  out     : ∃ l, s.out = o.out ++ l
  canon   : Canonical o = true → Canonical s = true

/-- Every next state of an outcome is kept from `o`. -/
def Keeps (o : State) (r : Host.Outcome State Fault Refusal) : Prop := ∀ t, r = .next t → Kept o t

theorem Kept.refl (o : State) : Kept o o := ⟨rfl, ⟨[], by simp⟩, id⟩

theorem Kept.trans {o s t : State} (h : Kept o s) (k : Kept s t) : Kept o t := by
  obtain ⟨l, hl⟩ := h.out
  obtain ⟨m, hm⟩ := k.out
  exact ⟨k.pending.trans h.pending, ⟨l ++ m, by rw [hm, hl, List.append_assoc]⟩, fun c => k.canon (h.canon c)⟩

theorem keeps_next {o t : State} (h : Kept o t) : Keeps o (.next t) := by
  intro u e; cases e; exact h

/-- Any update that leaves queue and output alone and keeps the canonical forms. -/
theorem kept_of {o s t : State} (h : Kept o s) (hp : t.pending = s.pending) (ho : t.out = s.out)
    (hc : Canonical s = true → Canonical t = true) : Kept o t := by
  obtain ⟨l, hl⟩ := h.out
  exact ⟨hp.trans h.pending, ⟨l, ho.trans hl⟩, fun c => hc (h.canon c)⟩

theorem canonical_iff (s : State) : Canonical s = true ↔
    Memory.wf s.mem = true ∧ Memory.wf s.bar2 = true ∧ Memory.wf s.pld.mem = true ∧ SMap.sorted s.regs = true := by
  unfold Canonical; simp [and_assoc]

/-- An update of the other fields. -/
theorem kept_mk {o s : State} {capture staged node boot ring flt hq dlv twin time saved savedRun sch vis net fc canCap sig bulk dike
    pwr ints fresh} {pld : PldSt} (h : Kept o s) (hp : pld.mem = s.pld.mem) :
    Kept o (State.mk s.regs s.mem s.bar2 capture staged node boot ring flt hq dlv twin time saved savedRun pld sch vis net fc canCap
      sig bulk dike pwr ints s.out fresh s.pending) := by
  refine ⟨h.pending, h.out, fun c => ?_⟩
  have := h.canon c
  unfold Canonical at *
  simpa [hp] using this

/-- The same, as an equivalence that a simplifier can read from left to right. -/
theorem kept_mk_iff {o s : State} {capture staged node boot ring flt hq dlv twin time saved savedRun sch vis net fc canCap sig bulk
    dike pwr ints fresh} {pld : PldSt} (hp : pld.mem = s.pld.mem) :
    Kept o (State.mk s.regs s.mem s.bar2 capture staged node boot ring flt hq dlv twin time saved savedRun pld sch vis net fc canCap
      sig bulk dike pwr ints s.out fresh s.pending) ↔ Kept o s :=
  ⟨fun h => ⟨h.pending, h.out, fun c => by have := h.canon c; unfold Canonical at *; simpa [hp] using this⟩, fun h => kept_mk h hp⟩

theorem kept_foldl {α : Type} {o s : State} {l : List α} {f : State → α → State} (h : Kept o s)
    (hf : ∀ s x, Kept o s → Kept o (f s x)) : Kept o (l.foldl f s) := by
  induction l generalizing s with
  | nil => exact h
  | cons a l ih => exact ih (hf s a h)

theorem kept_foldl_fst {α β : Type} {o : State} {p : State × β} {l : List α} {f : State × β → α → State × β} (h : Kept o p.1)
    (hf : ∀ p x, Kept o p.1 → Kept o (f p x).1) : Kept o (l.foldl f p).1 := by
  induction l generalizing p with
  | nil => exact h
  | cons a l ih => exact ih (hf p a h)

theorem State.each_kept {o s : State} {l : List Nat} {f : State → Nat → State} (h : Kept o s)
    (hf : ∀ s x, Kept o s → Kept o (f s x)) : Kept o (s.each l f) := kept_foldl h hf

theorem kept_have {P : Prop} {o x : State} (h : Kept o x) (g : Kept o x → P) : P := g h

theorem kept_ite {c : Prop} [Decidable c] {o a b : State} (ha : c → Kept o a) (hb : ¬ c → Kept o b) :
    Kept o (if c then a else b) := by
  split
  · next h => exact ha h
  · next h => exact hb h

theorem kept_fst {α : Type} {o t : State} {p : State × α} {b : α} (e : p = (t, b)) (h : Kept o p.1) : Kept o t := by
  subst e; exact h

theorem State.put_kept {o s : State} {f : Field} {v : Nat} (h : Kept o s) : Kept o (s.put f v) := by
  refine ⟨h.pending, h.out, fun c => ?_⟩
  have := h.canon c
  unfold Canonical State.put at *
  simp only [Bool.and_eq_true] at *
  refine ⟨this.1, ?_⟩
  split
  · exact SMap.sorted_erase _ _ this.2
  · exact SMap.sorted_insert _ _ _ this.2

theorem kept_filter {o s : State} {p : Nat × Nat → Bool} (h : Kept o s) : Kept o { s with regs := s.regs.filter p } := by
  refine ⟨h.pending, h.out, fun c => ?_⟩
  have := h.canon c
  unfold Canonical at *
  simp only [Bool.and_eq_true] at *
  exact ⟨this.1, SMap.sorted_filter _ _ this.2⟩

theorem State.emit_kept {o s : State} {x : Output} (h : Kept o s) : Kept o (s.emit x) := by
  obtain ⟨l, hl⟩ := h.out
  exact ⟨h.pending, ⟨l ++ [x], by simp [State.emit, hl]⟩, fun c => h.canon c⟩

theorem State.memWrite_kept {o s : State} {k : Nat} {bs : List Byte} (h : Kept o s) : Kept o (s.memWrite k bs) := by
  refine ⟨h.pending, h.out, fun c => ?_⟩
  have := h.canon c
  unfold Canonical State.memWrite at *
  simp only [Bool.and_eq_true] at *
  exact ⟨⟨⟨Memory.wf_writeList _ _ _ this.1.1.1, this.1.1.2⟩, this.1.2⟩, this.2⟩

end Sys2Proof.Machine
end

