-- ==== Sys2Proof/Laws/KeptOps.lean ====
section
/-! SUPPORT. What the operations of Machine/Ops.lean keep (Laws/Kept.lean). -/

set_option linter.all false

namespace Sys2Proof.Machine

theorem State.addTo_kept {o : State} {s : State} {f : Field} {n : Nat} (h : Kept o s) : Kept o (State.addTo s f n) := by
  unfold State.addTo
  repeat' first
    | with_reducible assumption
    | with_reducible refine State.put_kept ?_
    | dsimp only

theorem State.inc_kept {o : State} {s : State} {f : Field} (h : Kept o s) : Kept o (State.inc s f) := by
  unfold State.inc
  repeat' first
    | with_reducible assumption
    | with_reducible refine State.addTo_kept ?_
    | dsimp only

theorem State.addSat_kept {o : State} {s : State} {f : Field} {n : Nat} (h : Kept o s) : Kept o (State.addSat s f n) := by
  unfold State.addSat
  repeat' first
    | with_reducible assumption
    | with_reducible refine State.put_kept ?_
    | dsimp only

theorem State.incSat_kept {o : State} {s : State} {f : Field} (h : Kept o s) : Kept o (State.incSat s f) := by
  unfold State.incSat
  repeat' first
    | with_reducible assumption
    | with_reducible refine State.addSat_kept ?_
    | dsimp only

theorem State.orBits_kept {o : State} {s : State} {f : Field} {m : Nat} (h : Kept o s) : Kept o (State.orBits s f m) := by
  unfold State.orBits
  repeat' first
    | with_reducible assumption
    | with_reducible refine State.put_kept ?_
    | dsimp only

theorem State.dropBits_kept {o : State} {s : State} {f : Field} {m : Nat} (h : Kept o s) : Kept o (State.dropBits s f m) := by
  unfold State.dropBits
  repeat' first
    | with_reducible assumption
    | with_reducible refine State.put_kept ?_
    | dsimp only

theorem State.put64_kept {o : State} {s : State} {lo : Field} {hi : Field} {v : Nat} (h : Kept o s) : Kept o (State.put64 s lo hi v) := by
  unfold State.put64
  repeat' first
    | with_reducible assumption
    | with_reducible refine State.put_kept ?_
    | dsimp only

theorem State.draw_kept {o : State} {s : State} (h : Kept o s) : Kept o (State.draw s) := by
  unfold State.draw
  repeat' first
    | with_reducible assumption
    | with_reducible exact rfl
    | (extract_lets +onlyGivenNames s; refine kept_have (o := o) (x := s) ?_ (fun h => ?_); (on_goal 1 => unfold s; clear s); (on_goal 2 => try clear_value s))
    | (extract_lets +onlyGivenNames x; first | (have _p : PldSt := x; clear _p; unfold x) | skip)
    | simp only [↓kept_mk_iff]
    | dsimp only

theorem State.showGroups_kept {o s : State} (h : Kept o s) : Kept o s.showGroups := by
  obtain ⟨l, hl⟩ := h.out
  obtain ⟨m, hm⟩ : ∃ m, s.showGroups.out = s.out ++ m := ⟨_, rfl⟩
  exact ⟨h.pending, ⟨l ++ m, by rw [hm, hl, List.append_assoc]⟩, fun c => h.canon c⟩

theorem State.setMode_kept {o : State} {s : State} {m : Nat} (h : Kept o s) : Kept o (State.setMode s m) := by
  unfold State.setMode
  repeat' first
    | with_reducible assumption
    | with_reducible exact rfl
    | with_reducible refine State.put_kept ?_
    | with_reducible refine State.showGroups_kept ?_
    | (extract_lets +onlyGivenNames s; refine kept_have (o := o) (x := s) ?_ (fun h => ?_); (on_goal 1 => unfold s; clear s); (on_goal 2 => try clear_value s))
    | (extract_lets +onlyGivenNames x; first | (have _p : PldSt := x; clear _p; unfold x) | skip)
    | simp only [↓kept_mk_iff]
    | dsimp only

theorem State.setPhase_kept {o : State} {s : State} {d : Nat} {p : Phase} (h : Kept o s) : Kept o (State.setPhase s d p) := by
  unfold State.setPhase
  repeat' first
    | with_reducible assumption
    | with_reducible exact rfl
    | with_reducible refine State.showGroups_kept ?_
    | with_reducible refine State.dropBits_kept ?_
    | with_reducible refine State.orBits_kept ?_
    | (extract_lets +onlyGivenNames s; refine kept_have (o := o) (x := s) ?_ (fun h => ?_); (on_goal 1 => unfold s; clear s); (on_goal 2 => try clear_value s))
    | (extract_lets +onlyGivenNames x; first | (have _p : PldSt := x; clear _p; unfold x) | skip)
    | simp only [↓kept_mk_iff]
    | split
    | dsimp only
    | (dsimp +zetaDelta only; split)

theorem State.endThreat_kept {o : State} {s : State} {d : Nat} (h : Kept o s) : Kept o (State.endThreat s d) := by
  unfold State.endThreat
  repeat' first
    | with_reducible assumption
    | with_reducible exact rfl
    | (extract_lets +onlyGivenNames s; refine kept_have (o := o) (x := s) ?_ (fun h => ?_); (on_goal 1 => unfold s; clear s); (on_goal 2 => try clear_value s))
    | (extract_lets +onlyGivenNames x; first | (have _p : PldSt := x; clear _p; unfold x) | skip)
    | simp only [↓kept_mk_iff]
    | dsimp only

theorem State.msix_kept {o : State} {s : State} {v : Nat} (h : Kept o s) : Kept o (State.msix s v) := by
  unfold State.msix
  repeat' first
    | with_reducible assumption
    | with_reducible exact rfl
    | with_reducible refine State.emit_kept ?_
    | with_reducible refine State.orBits_kept ?_
    | (extract_lets +onlyGivenNames s; refine kept_have (o := o) (x := s) ?_ (fun h => ?_); (on_goal 1 => unfold s; clear s); (on_goal 2 => try clear_value s))
    | (extract_lets +onlyGivenNames x; first | (have _p : PldSt := x; clear _p; unfold x) | skip)
    | simp only [↓kept_mk_iff]
    | with_reducible refine kept_ite (fun _ => ?_) (fun _ => ?_)
    | split
    | dsimp only
    | (dsimp +zetaDelta only; split)

theorem State.pendShared_kept {o : State} {s : State} {n : Nat} (h : Kept o s) : Kept o (State.pendShared s n) := by
  unfold State.pendShared
  repeat' first
    | with_reducible assumption
    | with_reducible refine State.msix_kept ?_
    | with_reducible refine State.orBits_kept ?_
    | (extract_lets +onlyGivenNames s; refine kept_have (o := o) (x := s) ?_ (fun h => ?_); (on_goal 1 => unfold s; clear s); (on_goal 2 => try clear_value s))
    | (extract_lets +onlyGivenNames x; first | (have _p : PldSt := x; clear _p; unfold x) | skip)
    | with_reducible refine kept_ite (fun _ => ?_) (fun _ => ?_)
    | split
    | dsimp only
    | (dsimp +zetaDelta only; split)

theorem State.pendPrivate_kept {o : State} {s : State} {b : Nat} {n : Nat} (h : Kept o s) : Kept o (State.pendPrivate s b n) := by
  unfold State.pendPrivate
  repeat' first
    | with_reducible assumption
    | with_reducible exact rfl
    | with_reducible refine State.orBits_kept ?_
    | (extract_lets +onlyGivenNames s; refine kept_have (o := o) (x := s) ?_ (fun h => ?_); (on_goal 1 => unfold s; clear s); (on_goal 2 => try clear_value s))
    | (extract_lets +onlyGivenNames x; first | (have _p : PldSt := x; clear _p; unfold x) | skip)
    | simp only [↓kept_mk_iff]
    | with_reducible refine kept_ite (fun _ => ?_) (fun _ => ?_)
    | split
    | dsimp only
    | (dsimp +zetaDelta only; split)

theorem State.riseBit_kept {o : State} {s : State} {f : Field} {i : Nat} {b : Nat} {n : Nat} (h : Kept o s) : Kept o (State.riseBit s f i b n) := by
  unfold State.riseBit
  repeat' first
    | with_reducible assumption
    | with_reducible refine State.orBits_kept ?_
    | with_reducible refine State.pendPrivate_kept ?_
    | with_reducible refine kept_ite (fun _ => ?_) (fun _ => ?_)
    | split
    | dsimp only
    | (dsimp +zetaDelta only; split)

theorem State.putLevel_kept {o : State} {s : State} {f : Field} {v : Nat} (h : Kept o s) : Kept o (State.putLevel s f v) := by
  unfold State.putLevel
  repeat' first
    | with_reducible assumption
    | with_reducible exact rfl
    | with_reducible refine State.pendPrivate_kept ?_
    | with_reducible refine State.put_kept ?_
    | with_reducible refine State.pendShared_kept ?_
    | (extract_lets +onlyGivenNames s; refine kept_have (o := o) (x := s) ?_ (fun h => ?_); (on_goal 1 => unfold s; clear s); (on_goal 2 => try clear_value s))
    | (extract_lets +onlyGivenNames x; first | (have _p : PldSt := x; clear _p; unfold x) | skip)
    | simp only [↓kept_mk_iff]
    | split
    | dsimp only
    | (dsimp +zetaDelta only; split)

theorem State.raise_kept {o : State} {s : State} {f : Field} (h : Kept o s) : Kept o (State.raise s f) := by
  unfold State.raise
  repeat' first
    | with_reducible assumption
    | with_reducible refine State.putLevel_kept ?_
    | dsimp only

theorem State.hostWrite_kept {o : State} {s : State} {addr : Nat} {bytes : List Byte} (h : Kept o s) : Kept o (State.hostWrite s addr bytes) := by
  unfold State.hostWrite
  repeat' first
    | with_reducible assumption
    | with_reducible exact rfl
    | with_reducible refine State.emit_kept ?_
    | (extract_lets +onlyGivenNames s; refine kept_have (o := o) (x := s) ?_ (fun h => ?_); (on_goal 1 => unfold s; clear s); (on_goal 2 => try clear_value s))
    | (extract_lets +onlyGivenNames x; first | (have _p : PldSt := x; clear _p; unfold x) | skip)
    | simp only [↓kept_mk_iff]
    | with_reducible refine kept_ite (fun _ => ?_) (fun _ => ?_)
    | split
    | dsimp only
    | (dsimp +zetaDelta only; split)

theorem State.sendOn_kept {o : State} {s : State} {p : Nat} {dst : Nat} {seq : Nat} {body : KBody} (h : Kept o s) : Kept o (State.sendOn s p dst seq body) := by
  unfold State.sendOn
  repeat' first
    | with_reducible assumption
    | with_reducible exact rfl
    | with_reducible refine State.inc_kept ?_
    | with_reducible refine State.emit_kept ?_
    | (extract_lets +onlyGivenNames s; refine kept_have (o := o) (x := s) ?_ (fun h => ?_); (on_goal 1 => unfold s; clear s); (on_goal 2 => try clear_value s))
    | (extract_lets +onlyGivenNames x; first | (have _p : PldSt := x; clear _p; unfold x) | skip)
    | simp only [↓kept_mk_iff]
    | with_reducible refine kept_ite (fun _ => ?_) (fun _ => ?_)
    | split
    | dsimp only
    | (dsimp +zetaDelta only; split)

theorem State.broadcast_kept {o : State} {s : State} {body : KBody} (h : Kept o s) : Kept o (State.broadcast s body) := by
  unfold State.broadcast
  repeat' first
    | with_reducible assumption
    | with_reducible exact rfl
    | with_reducible refine State.sendOn_kept ?_
    | (extract_lets +onlyGivenNames s; refine kept_have (o := o) (x := s) ?_ (fun h => ?_); (on_goal 1 => unfold s; clear s); (on_goal 2 => try clear_value s))
    | (extract_lets +onlyGivenNames x; first | (have _p : PldSt := x; clear _p; unfold x) | skip)
    | simp only [↓kept_mk_iff]
    | with_reducible refine kept_ite (fun _ => ?_) (fun _ => ?_)
    | split
    | dsimp only
    | (dsimp +zetaDelta only; split)

theorem State.unicast_kept {o : State} {s : State} {node : Nat} {ep : Nat} {seq : Nat} {body : KBody} {back : Nat} (h : Kept o s) : Kept o (State.unicast s node ep seq body back) := by
  unfold State.unicast
  repeat' first
    | with_reducible assumption
    | with_reducible exact rfl
    | with_reducible refine State.sendOn_kept ?_
    | (extract_lets +onlyGivenNames s; refine kept_have (o := o) (x := s) ?_ (fun h => ?_); (on_goal 1 => unfold s; clear s); (on_goal 2 => try clear_value s))
    | (extract_lets +onlyGivenNames x; first | (have _p : PldSt := x; clear _p; unfold x) | skip)
    | simp only [↓kept_mk_iff]
    | with_reducible refine kept_ite (fun _ => ?_) (fun _ => ?_)
    | split
    | dsimp only
    | (dsimp +zetaDelta only; split)

theorem State.sendEpChange_kept {o : State} {s : State} {entries : List (Nat × Nat)} (h : Kept o s) : Kept o (State.sendEpChange s entries) := by
  unfold State.sendEpChange
  repeat' first
    | with_reducible assumption
    | with_reducible exact rfl
    | with_reducible refine State.broadcast_kept ?_
    | (extract_lets +onlyGivenNames s; refine kept_have (o := o) (x := s) ?_ (fun h => ?_); (on_goal 1 => unfold s; clear s); (on_goal 2 => try clear_value s))
    | (extract_lets +onlyGivenNames x; first | (have _p : PldSt := x; clear _p; unfold x) | skip)
    | simp only [↓kept_mk_iff]
    | with_reducible refine kept_ite (fun _ => ?_) (fun _ => ?_)
    | split
    | dsimp only
    | (dsimp +zetaDelta only; split)

theorem State.epChange_kept {o : State} {s : State} {entries : List (Nat × Nat)} (h : Kept o s) : Kept o (State.epChange s entries) := by
  unfold State.epChange
  repeat' first
    | with_reducible assumption
    | with_reducible exact rfl
    | with_reducible refine State.sendEpChange_kept ?_
    | (extract_lets +onlyGivenNames s; refine kept_have (o := o) (x := s) ?_ (fun h => ?_); (on_goal 1 => unfold s; clear s); (on_goal 2 => try clear_value s))
    | (extract_lets +onlyGivenNames x; first | (have _p : PldSt := x; clear _p; unfold x) | skip)
    | simp only [↓kept_mk_iff]
    | dsimp only

theorem State.announce_kept {o : State} {s : State} {ep : Nat} {ops : Nat} (h : Kept o s) : Kept o (State.announce s ep ops) := by
  unfold State.announce
  repeat' first
    | with_reducible assumption
    | with_reducible exact rfl
    | with_reducible refine State.epChange_kept ?_
    | (extract_lets +onlyGivenNames s; refine kept_have (o := o) (x := s) ?_ (fun h => ?_); (on_goal 1 => unfold s; clear s); (on_goal 2 => try clear_value s))
    | (extract_lets +onlyGivenNames x; first | (have _p : PldSt := x; clear _p; unfold x) | skip)
    | simp only [↓kept_mk_iff]
    | with_reducible refine kept_ite (fun _ => ?_) (fun _ => ?_)
    | split
    | dsimp only
    | (dsimp +zetaDelta only; split)

theorem State.sendChunks_kept {o s : State} {pair : Bool} {l : List (List (Nat × Nat))} (h : Kept o s) :
    Kept o (s.sendChunks pair l) := by
  induction l generalizing s with
  | nil => exact h
  | cons x l ih =>
    cases l with
    | nil => exact State.broadcast_kept h
    | cons y l => exact ih (State.broadcast_kept h)

theorem State.sendFullState_kept {o : State} {s : State} (h : Kept o s) : Kept o (State.sendFullState s) := by
  unfold State.sendFullState
  repeat' first
    | with_reducible assumption
    | with_reducible refine State.sendChunks_kept ?_
    | (extract_lets +onlyGivenNames s; refine kept_have (o := o) (x := s) ?_ (fun h => ?_); (on_goal 1 => unfold s; clear s); (on_goal 2 => try clear_value s))
    | (extract_lets +onlyGivenNames x; first | (have _p : PldSt := x; clear _p; unfold x) | skip)
    | with_reducible refine kept_ite (fun _ => ?_) (fun _ => ?_)
    | split
    | dsimp only
    | (dsimp +zetaDelta only; split)

end Sys2Proof.Machine
end

