-- ==== Sys2Proof/Laws/KeptClusterOps.lean ====
section
/-! SUPPORT. What the operations of Machine/ClusterOps.lean keep (Laws/Kept.lean). -/

set_option linter.all false

namespace Sys2Proof.Machine

theorem State.setCl_kept {o : State} {s : State} {n : Nat} {c : Cluster} (h : Kept o s) : Kept o (State.setCl s n c) := by
  unfold State.setCl
  repeat' first
    | with_reducible assumption
    | with_reducible exact rfl
    | (extract_lets +onlyGivenNames s; refine kept_have (o := o) (x := s) ?_ (fun h => ?_); (on_goal 1 => unfold s; clear s); (on_goal 2 => try clear_value s))
    | (extract_lets +onlyGivenNames x; first | (have _p : PldSt := x; clear _p; unfold x) | skip)
    | simp only [↓kept_mk_iff]
    | dsimp only

theorem State.setPortSt_kept {o : State} {s : State} {n : Nat} {q : Nat} {x : PortSt} (h : Kept o s) : Kept o (State.setPortSt s n q x) := by
  unfold State.setPortSt
  repeat' first
    | with_reducible assumption
    | with_reducible exact rfl
    | with_reducible refine State.setCl_kept ?_
    | (extract_lets +onlyGivenNames s; refine kept_have (o := o) (x := s) ?_ (fun h => ?_); (on_goal 1 => unfold s; clear s); (on_goal 2 => try clear_value s))
    | (extract_lets +onlyGivenNames x; first | (have _p : PldSt := x; clear _p; unfold x) | skip)
    | simp only [↓kept_mk_iff]
    | dsimp only

theorem State.setLine_kept {o : State} {s : State} {n : Nat} {p : Nat} {x : LineSt} (h : Kept o s) : Kept o (State.setLine s n p x) := by
  unfold State.setLine
  repeat' first
    | with_reducible assumption
    | with_reducible exact rfl
    | with_reducible refine State.setCl_kept ?_
    | with_reducible refine State.put_kept ?_
    | (extract_lets +onlyGivenNames s; refine kept_have (o := o) (x := s) ?_ (fun h => ?_); (on_goal 1 => unfold s; clear s); (on_goal 2 => try clear_value s))
    | (extract_lets +onlyGivenNames x; first | (have _p : PldSt := x; clear _p; unfold x) | skip)
    | simp only [↓kept_mk_iff]
    | dsimp only

theorem State.setGroup_kept {o : State} {s : State} {n : Nat} {g : Nat} {x : GroupSt} (h : Kept o s) : Kept o (State.setGroup s n g x) := by
  unfold State.setGroup
  repeat' first
    | with_reducible assumption
    | with_reducible exact rfl
    | with_reducible refine State.setCl_kept ?_
    | (extract_lets +onlyGivenNames s; refine kept_have (o := o) (x := s) ?_ (fun h => ?_); (on_goal 1 => unfold s; clear s); (on_goal 2 => try clear_value s))
    | (extract_lets +onlyGivenNames x; first | (have _p : PldSt := x; clear _p; unfold x) | skip)
    | simp only [↓kept_mk_iff]
    | dsimp only

theorem State.setEng_kept {o : State} {s : State} {n : Nat} {g : Nat} {e : Nat} {x : EngSt} (h : Kept o s) : Kept o (State.setEng s n g e x) := by
  unfold State.setEng
  repeat' first
    | with_reducible assumption
    | with_reducible exact rfl
    | with_reducible refine State.setGroup_kept ?_
    | (extract_lets +onlyGivenNames s; refine kept_have (o := o) (x := s) ?_ (fun h => ?_); (on_goal 1 => unfold s; clear s); (on_goal 2 => try clear_value s))
    | (extract_lets +onlyGivenNames x; first | (have _p : PldSt := x; clear _p; unfold x) | skip)
    | simp only [↓kept_mk_iff]
    | dsimp only

theorem State.setCan_kept {o : State} {s : State} {n : Nat} {c : Nat} {x : CanSt} (h : Kept o s) : Kept o (State.setCan s n c x) := by
  unfold State.setCan
  repeat' first
    | with_reducible assumption
    | with_reducible exact rfl
    | with_reducible refine State.setCl_kept ?_
    | (extract_lets +onlyGivenNames s; refine kept_have (o := o) (x := s) ?_ (fun h => ?_); (on_goal 1 => unfold s; clear s); (on_goal 2 => try clear_value s))
    | (extract_lets +onlyGivenNames x; first | (have _p : PldSt := x; clear _p; unfold x) | skip)
    | simp only [↓kept_mk_iff]
    | dsimp only

theorem State.showPins_kept {o before s : State} (h : Kept o s) : Kept o (State.showPins before s) := by
  obtain ⟨l, hl⟩ := h.out
  obtain ⟨m, hm⟩ : ∃ m, (State.showPins before s).out = s.out ++ m := ⟨_, rfl⟩
  exact ⟨h.pending, ⟨l ++ m, by rw [hm, hl, List.append_assoc]⟩, fun c => h.canon c⟩

theorem State.drivePin_kept {o : State} {s : State} {n : Nat} {p : Nat} {level : Bool} {oe : Bool} (h : Kept o s) : Kept o (State.drivePin s n p level oe) := by
  unfold State.drivePin
  repeat' first
    | with_reducible assumption
    | with_reducible exact rfl
    | with_reducible refine State.emit_kept ?_
    | with_reducible refine State.setCl_kept ?_
    | (extract_lets +onlyGivenNames s; refine kept_have (o := o) (x := s) ?_ (fun h => ?_); (on_goal 1 => unfold s; clear s); (on_goal 2 => try clear_value s))
    | (extract_lets +onlyGivenNames x; first | (have _p : PldSt := x; clear _p; unfold x) | skip)
    | simp only [↓kept_mk_iff]
    | with_reducible refine kept_ite (fun _ => ?_) (fun _ => ?_)
    | split
    | dsimp only
    | (dsimp +zetaDelta only; split)

theorem State.driveFlowPin_kept {o : State} {s : State} {n : Nat} {p : Nat} (h : Kept o s) : Kept o (State.driveFlowPin s n p) := by
  unfold State.driveFlowPin
  repeat' first
    | with_reducible assumption
    | with_reducible refine State.drivePin_kept ?_
    | with_reducible refine kept_ite (fun _ => ?_) (fun _ => ?_)
    | split
    | dsimp only
    | (dsimp +zetaDelta only; split)

theorem State.setFlow_kept {o : State} {s : State} {m : Nat} (h : Kept o s) : Kept o (State.setFlow s m) := by
  unfold State.setFlow
  repeat' first
    | with_reducible assumption
    | with_reducible exact rfl
    | with_reducible refine State.setCl_kept ?_
    | (extract_lets +onlyGivenNames s; refine kept_have (o := o) (x := s) ?_ (fun h => ?_); (on_goal 1 => unfold s; clear s); (on_goal 2 => try clear_value s))
    | (extract_lets +onlyGivenNames x; first | (have _p : PldSt := x; clear _p; unfold x) | skip)
    | simp only [↓kept_mk_iff]
    | with_reducible refine kept_ite (fun _ => ?_) (fun _ => ?_)
    | split
    | dsimp only
    | (dsimp +zetaDelta only; split)

theorem State.driveFlow_kept {o : State} {s : State} {m : Nat} (h : Kept o s) : Kept o (State.driveFlow s m) := by
  unfold State.driveFlow
  repeat' first
    | with_reducible assumption
    | with_reducible refine State.emit_kept ?_
    | with_reducible refine State.setFlow_kept ?_
    | (extract_lets +onlyGivenNames s; refine kept_have (o := o) (x := s) ?_ (fun h => ?_); (on_goal 1 => unfold s; clear s); (on_goal 2 => try clear_value s))
    | (extract_lets +onlyGivenNames x; first | (have _p : PldSt := x; clear _p; unfold x) | skip)
    | with_reducible refine kept_ite (fun _ => ?_) (fun _ => ?_)
    | split
    | dsimp only
    | (dsimp +zetaDelta only; split)

theorem State.showFlow_kept {o : State} {s : State} {n : Nat} {q : Nat} {dir : Nat} (h : Kept o s) : Kept o (State.showFlow s n q dir) := by
  unfold State.showFlow
  repeat' first
    | with_reducible assumption
    | with_reducible refine State.driveFlow_kept ?_
    | with_reducible refine State.driveFlowPin_kept ?_
    | with_reducible refine State.each_kept ?_ (fun s x h => ?_)
    | (extract_lets +onlyGivenNames s; refine kept_have (o := o) (x := s) ?_ (fun h => ?_); (on_goal 1 => unfold s; clear s); (on_goal 2 => try clear_value s))
    | (extract_lets +onlyGivenNames x; first | (have _p : PldSt := x; clear _p; unfold x) | skip)
    | dsimp only

theorem State.showPort_kept {o : State} {s : State} {n : Nat} {q : Nat} (h : Kept o s) : Kept o (State.showPort s n q) := by
  unfold State.showPort
  repeat' first
    | with_reducible assumption
    | with_reducible refine State.showFlow_kept ?_
    | with_reducible refine State.put_kept ?_
    | (extract_lets +onlyGivenNames s; refine kept_have (o := o) (x := s) ?_ (fun h => ?_); (on_goal 1 => unfold s; clear s); (on_goal 2 => try clear_value s))
    | (extract_lets +onlyGivenNames x; first | (have _p : PldSt := x; clear _p; unfold x) | skip)
    | with_reducible refine kept_ite (fun _ => ?_) (fun _ => ?_)
    | split
    | dsimp only
    | (dsimp +zetaDelta only; split)

theorem State.showCluster_kept {o : State} {s : State} {n : Nat} (h : Kept o s) : Kept o (State.showCluster s n) := by
  unfold State.showCluster
  repeat' first
    | with_reducible assumption
    | with_reducible refine State.showPort_kept ?_
    | with_reducible refine State.each_kept ?_ (fun s x h => ?_)
    | dsimp only

theorem State.showForced_kept {o : State} {s : State} {d : Nat} (h : Kept o s) : Kept o (State.showForced s d) := by
  unfold State.showForced
  repeat' first
    | with_reducible assumption
    | with_reducible refine State.showCluster_kept ?_
    | with_reducible refine State.each_kept ?_ (fun s x h => ?_)
    | with_reducible refine kept_ite (fun _ => ?_) (fun _ => ?_)
    | split
    | dsimp only
    | (dsimp +zetaDelta only; split)

theorem State.setEngState_kept {o : State} {s : State} {n : Nat} {g : Nat} {e : Nat} {st : Nat} (h : Kept o s) : Kept o (State.setEngState s n g e st) := by
  unfold State.setEngState
  repeat' first
    | with_reducible assumption
    | with_reducible refine State.orBits_kept ?_
    | with_reducible refine State.dropBits_kept ?_
    | with_reducible refine State.put_kept ?_
    | (extract_lets +onlyGivenNames s; refine kept_have (o := o) (x := s) ?_ (fun h => ?_); (on_goal 1 => unfold s; clear s); (on_goal 2 => try clear_value s))
    | (extract_lets +onlyGivenNames x; first | (have _p : PldSt := x; clear _p; unfold x) | skip)
    | with_reducible refine kept_ite (fun _ => ?_) (fun _ => ?_)
    | split
    | dsimp only
    | (dsimp +zetaDelta only; split)

theorem State.haltEngine_kept {o : State} {s : State} {n : Nat} {g : Nat} {e : Nat} {detail : Nat} (h : Kept o s) : Kept o (State.haltEngine s n g e detail) := by
  unfold State.haltEngine
  repeat' first
    | with_reducible assumption
    | with_reducible exact rfl
    | with_reducible refine State.setPortSt_kept ?_
    | with_reducible refine State.showPort_kept ?_
    | with_reducible refine State.setEngState_kept ?_
    | with_reducible refine State.setEng_kept ?_
    | with_reducible refine State.put_kept ?_
    | (extract_lets +onlyGivenNames s; refine kept_have (o := o) (x := s) ?_ (fun h => ?_); (on_goal 1 => unfold s; clear s); (on_goal 2 => try clear_value s))
    | (extract_lets +onlyGivenNames x; first | (have _p : PldSt := x; clear _p; unfold x) | skip)
    | simp only [↓kept_mk_iff]
    | with_reducible refine kept_ite (fun _ => ?_) (fun _ => ?_)
    | split
    | dsimp only
    | (dsimp +zetaDelta only; split)

theorem State.haltGroup_kept {o : State} {s : State} {n : Nat} {g : Nat} {detail : Nat} (h : Kept o s) : Kept o (State.haltGroup s n g detail) := by
  unfold State.haltGroup
  repeat' first
    | with_reducible assumption
    | with_reducible refine State.haltEngine_kept ?_
    | with_reducible refine State.each_kept ?_ (fun s x h => ?_)
    | dsimp only

theorem State.pauseWaits_kept {o : State} {s : State} (h : Kept o s) : Kept o (State.pauseWaits s) := by
  unfold State.pauseWaits
  repeat' first
    | with_reducible assumption
    | with_reducible exact rfl
    | with_reducible refine State.setEngState_kept ?_
    | with_reducible refine State.setEng_kept ?_
    | with_reducible refine State.each_kept ?_ (fun s x h => ?_)
    | (extract_lets +onlyGivenNames s; refine kept_have (o := o) (x := s) ?_ (fun h => ?_); (on_goal 1 => unfold s; clear s); (on_goal 2 => try clear_value s))
    | (extract_lets +onlyGivenNames x; first | (have _p : PldSt := x; clear _p; unfold x) | skip)
    | simp only [↓kept_mk_iff]
    | with_reducible refine kept_ite (fun _ => ?_) (fun _ => ?_)
    | split
    | dsimp only
    | (dsimp +zetaDelta only; split)

theorem State.resumeEngines_kept {o : State} {s : State} (h : Kept o s) : Kept o (State.resumeEngines s) := by
  unfold State.resumeEngines
  repeat' first
    | with_reducible assumption
    | with_reducible refine State.setEngState_kept ?_
    | with_reducible refine State.each_kept ?_ (fun s x h => ?_)
    | (extract_lets +onlyGivenNames s; refine kept_have (o := o) (x := s) ?_ (fun h => ?_); (on_goal 1 => unfold s; clear s); (on_goal 2 => try clear_value s))
    | (extract_lets +onlyGivenNames x; first | (have _p : PldSt := x; clear _p; unfold x) | skip)
    | with_reducible refine kept_ite (fun _ => ?_) (fun _ => ?_)
    | split
    | dsimp only
    | (dsimp +zetaDelta only; split)

theorem State.canConfig_kept {o : State} {s : State} {n : Nat} {c : Nat} (h : Kept o s) : Kept o (State.canConfig s n c) := by
  unfold State.canConfig
  repeat' first
    | with_reducible assumption
    | with_reducible exact rfl
    | with_reducible refine State.setCan_kept ?_
    | with_reducible refine State.each_kept ?_ (fun s x h => ?_)
    | with_reducible refine State.put_kept ?_
    | (extract_lets +onlyGivenNames s; refine kept_have (o := o) (x := s) ?_ (fun h => ?_); (on_goal 1 => unfold s; clear s); (on_goal 2 => try clear_value s))
    | (extract_lets +onlyGivenNames x; first | (have _p : PldSt := x; clear _p; unfold x) | skip)
    | simp only [↓kept_mk_iff]
    | dsimp only

end Sys2Proof.Machine
end

