-- ==== Sys2Proof/Laws/KeptProtect.lean ====
section
/-! SUPPORT. What the operations of Machine/Protect.lean keep (Laws/Kept.lean). -/

set_option linter.all false

namespace Sys2Proof.Machine

theorem State.voidRound_kept {o : State} {s : State} {reason : Nat} (h : Kept o s) : Kept o (State.voidRound s reason) := by
  unfold State.voidRound
  repeat' first
    | with_reducible assumption
    | with_reducible exact rfl
    | with_reducible refine State.broadcast_kept ?_
    | with_reducible refine State.put_kept ?_
    | (extract_lets +onlyGivenNames s; refine kept_have (o := o) (x := s) ?_ (fun h => ?_); (on_goal 1 => unfold s; clear s); (on_goal 2 => try clear_value s))
    | (extract_lets +onlyGivenNames x; first | (have _p : PldSt := x; clear _p; unfold x) | skip)
    | simp only [↓kept_mk_iff]
    | dsimp only

theorem State.voidBy_kept {o : State} {s : State} {reason : Nat} (h : Kept o s) : Kept o (State.voidBy s reason) := by
  unfold State.voidBy
  repeat' first
    | with_reducible assumption
    | with_reducible exact rfl
    | with_reducible refine State.put_kept ?_
    | with_reducible refine State.voidRound_kept ?_
    | (extract_lets +onlyGivenNames s; refine kept_have (o := o) (x := s) ?_ (fun h => ?_); (on_goal 1 => unfold s; clear s); (on_goal 2 => try clear_value s))
    | (extract_lets +onlyGivenNames x; first | (have _p : PldSt := x; clear _p; unfold x) | skip)
    | simp only [↓kept_mk_iff]
    | with_reducible refine kept_ite (fun _ => ?_) (fun _ => ?_)
    | split
    | dsimp only
    | (dsimp +zetaDelta only; split)

theorem State.showBreaks_kept {o : State} {s : State} (h : Kept o s) : Kept o (State.showBreaks s) := by
  unfold State.showBreaks
  repeat' first
    | with_reducible assumption
    | with_reducible exact rfl
    | with_reducible refine State.putLevel_kept ?_
    | with_reducible refine State.put_kept ?_
    | (extract_lets +onlyGivenNames s; refine kept_have (o := o) (x := s) ?_ (fun h => ?_); (on_goal 1 => unfold s; clear s); (on_goal 2 => try clear_value s))
    | (extract_lets +onlyGivenNames x; first | (have _p : PldSt := x; clear _p; unfold x) | skip)
    | simp only [↓kept_mk_iff]
    | split
    | dsimp only
    | (dsimp +zetaDelta only; split)

theorem State.addBreak_kept {o : State} {s : State} {node : Nat} {port : Nat} {seq : Nat} (h : Kept o s) : Kept o (State.addBreak s node port seq) := by
  unfold State.addBreak
  repeat' first
    | with_reducible assumption
    | with_reducible exact rfl
    | with_reducible refine State.showBreaks_kept ?_
    | (extract_lets +onlyGivenNames s; refine kept_have (o := o) (x := s) ?_ (fun h => ?_); (on_goal 1 => unfold s; clear s); (on_goal 2 => try clear_value s))
    | (extract_lets +onlyGivenNames x; first | (have _p : PldSt := x; clear _p; unfold x) | skip)
    | simp only [↓kept_mk_iff]
    | with_reducible refine kept_ite (fun _ => ?_) (fun _ => ?_)
    | split
    | dsimp only
    | (dsimp +zetaDelta only; split)

theorem State.dropBreak_kept {o : State} {s : State} {node : Nat} {port : Nat} {seq : Nat} (h : Kept o s) : Kept o (State.dropBreak s node port seq) := by
  unfold State.dropBreak
  repeat' first
    | with_reducible assumption
    | with_reducible exact rfl
    | with_reducible refine State.showBreaks_kept ?_
    | (extract_lets +onlyGivenNames s; refine kept_have (o := o) (x := s) ?_ (fun h => ?_); (on_goal 1 => unfold s; clear s); (on_goal 2 => try clear_value s))
    | (extract_lets +onlyGivenNames x; first | (have _p : PldSt := x; clear _p; unfold x) | skip)
    | simp only [↓kept_mk_iff]
    | with_reducible refine kept_ite (fun _ => ?_) (fun _ => ?_)
    | split
    | dsimp only
    | (dsimp +zetaDelta only; split)

theorem State.startEnum_kept {o : State} {s : State} (h : Kept o s) : Kept o (State.startEnum s) := by
  unfold State.startEnum
  repeat' first
    | with_reducible assumption
    | with_reducible exact rfl
    | with_reducible refine State.sendOn_kept ?_
    | with_reducible refine State.put_kept ?_
    | with_reducible refine State.voidBy_kept ?_
    | (extract_lets +onlyGivenNames s; refine kept_have (o := o) (x := s) ?_ (fun h => ?_); (on_goal 1 => unfold s; clear s); (on_goal 2 => try clear_value s))
    | (extract_lets +onlyGivenNames x; first | (have _p : PldSt := x; clear _p; unfold x) | skip)
    | simp only [↓kept_mk_iff]
    | dsimp only

theorem State.protectionEvent_kept {o : State} {s : State} {release : Bool} (h : Kept o s) : Kept o (State.protectionEvent s release) := by
  unfold State.protectionEvent
  repeat' first
    | with_reducible assumption
    | with_reducible exact rfl
    | with_reducible refine State.startEnum_kept ?_
    | with_reducible refine State.put_kept ?_
    | (extract_lets +onlyGivenNames s; refine kept_have (o := o) (x := s) ?_ (fun h => ?_); (on_goal 1 => unfold s; clear s); (on_goal 2 => try clear_value s))
    | (extract_lets +onlyGivenNames x; first | (have _p : PldSt := x; clear _p; unfold x) | skip)
    | simp only [↓kept_mk_iff]
    | with_reducible refine kept_ite (fun _ => ?_) (fun _ => ?_)
    | split
    | dsimp only
    | (dsimp +zetaDelta only; split)

theorem State.wrapPort_kept {o : State} {s : State} {p : Nat} (h : Kept o s) : Kept o (State.wrapPort s p) := by
  unfold State.wrapPort
  repeat' first
    | with_reducible assumption
    | with_reducible refine State.addBreak_kept ?_
    | with_reducible refine State.protectionEvent_kept ?_
    | with_reducible refine State.broadcast_kept ?_
    | with_reducible refine State.put_kept ?_
    | with_reducible refine State.voidBy_kept ?_
    | (extract_lets +onlyGivenNames s; refine kept_have (o := o) (x := s) ?_ (fun h => ?_); (on_goal 1 => unfold s; clear s); (on_goal 2 => try clear_value s))
    | (extract_lets +onlyGivenNames x; first | (have _p : PldSt := x; clear _p; unfold x) | skip)
    | dsimp only

theorem State.unwrapPort_kept {o : State} {s : State} {p : Nat} (h : Kept o s) : Kept o (State.unwrapPort s p) := by
  unfold State.unwrapPort
  repeat' first
    | with_reducible assumption
    | with_reducible refine State.dropBreak_kept ?_
    | with_reducible refine State.protectionEvent_kept ?_
    | with_reducible refine State.broadcast_kept ?_
    | with_reducible refine State.put_kept ?_
    | (extract_lets +onlyGivenNames s; refine kept_have (o := o) (x := s) ?_ (fun h => ?_); (on_goal 1 => unfold s; clear s); (on_goal 2 => try clear_value s))
    | (extract_lets +onlyGivenNames x; first | (have _p : PldSt := x; clear _p; unfold x) | skip)
    | dsimp only

end Sys2Proof.Machine
end

