-- ==== Sys2Proof/Laws/KeptStops.lean ====
section
/-! SUPPORT. What the operations of Machine/Stops.lean keep (Laws/Kept.lean). -/

set_option linter.all false

namespace Sys2Proof.Machine

theorem State.clearRegs_kept {o s : State} {d : Nat} (h : Kept o s) : Kept o (s.clearRegs d) := kept_filter h

theorem State.wakeRegs_kept {o s : State} {d : Nat} (h : Kept o s) : Kept o (s.wakeRegs d) := kept_filter h

theorem State.dropTaken_kept {o : State} {s : State} {d : Nat} (h : Kept o s) : Kept o (State.dropTaken s d) := by
  unfold State.dropTaken
  repeat' first
    | with_reducible assumption
    | with_reducible exact rfl
    | (extract_lets +onlyGivenNames s; refine kept_have (o := o) (x := s) ?_ (fun h => ?_); (on_goal 1 => unfold s; clear s); (on_goal 2 => try clear_value s))
    | (extract_lets +onlyGivenNames x; first | (have _p : PldSt := x; clear _p; unfold x) | skip)
    | simp only [↓kept_mk_iff]
    | with_reducible refine kept_ite (fun _ => ?_) (fun _ => ?_)
    | split
    | dsimp only
    | (dsimp +zetaDelta only; split)

theorem State.stopBridge_kept {o : State} {s : State} (h : Kept o s) : Kept o (State.stopBridge s) := by
  unfold State.stopBridge
  repeat' first
    | with_reducible assumption
    | with_reducible exact rfl
    | (extract_lets +onlyGivenNames s; refine kept_have (o := o) (x := s) ?_ (fun h => ?_); (on_goal 1 => unfold s; clear s); (on_goal 2 => try clear_value s))
    | (extract_lets +onlyGivenNames x; first | (have _p : PldSt := x; clear _p; unfold x) | skip)
    | simp only [↓kept_mk_iff]
    | with_reducible refine kept_ite (fun _ => ?_) (fun _ => ?_)
    | split
    | dsimp only
    | (dsimp +zetaDelta only; split)

theorem State.clearEndpoints_kept {o : State} {s : State} {d : Nat} (h : Kept o s) : Kept o (State.clearEndpoints s d) := by
  unfold State.clearEndpoints
  repeat' first
    | with_reducible assumption
    | with_reducible exact rfl
    | with_reducible refine State.epChange_kept ?_
    | (extract_lets +onlyGivenNames s; refine kept_have (o := o) (x := s) ?_ (fun h => ?_); (on_goal 1 => unfold s; clear s); (on_goal 2 => try clear_value s))
    | (extract_lets +onlyGivenNames x; first | (have _p : PldSt := x; clear _p; unfold x) | skip)
    | simp only [↓kept_mk_iff]
    | with_reducible refine kept_ite (fun _ => ?_) (fun _ => ?_)
    | split
    | dsimp only
    | (dsimp +zetaDelta only; split)

theorem State.loseHost_kept {o : State} {s : State} {blocked : Bool} (h : Kept o s) : Kept o (State.loseHost s blocked) := by
  unfold State.loseHost
  repeat' first
    | with_reducible assumption
    | with_reducible exact rfl
    | (extract_lets +onlyGivenNames s; refine kept_have (o := o) (x := s) ?_ (fun h => ?_); (on_goal 1 => unfold s; clear s); (on_goal 2 => try clear_value s))
    | (extract_lets +onlyGivenNames x; first | (have _p : PldSt := x; clear _p; unfold x) | skip)
    | simp only [↓kept_mk_iff]
    | dsimp only

theorem State.freshUnits_kept {o : State} {s : State} {d : Nat} (h : Kept o s) : Kept o (State.freshUnits s d) := by
  unfold State.freshUnits
  repeat' first
    | with_reducible assumption
    | with_reducible exact rfl
    | with_reducible refine State.each_kept ?_ (fun s x h => ?_)
    | with_reducible refine State.put_kept ?_
    | with_reducible refine State.loseHost_kept ?_
    | with_reducible refine State.setCl_kept ?_
    | with_reducible refine State.dropTaken_kept ?_
    | with_reducible refine State.clearEndpoints_kept ?_
    | (extract_lets +onlyGivenNames s; refine kept_have (o := o) (x := s) ?_ (fun h => ?_); (on_goal 1 => unfold s; clear s); (on_goal 2 => try clear_value s))
    | (extract_lets +onlyGivenNames x; first | (have _p : PldSt := x; clear _p; unfold x) | skip)
    | simp only [↓kept_mk_iff]
    | with_reducible refine kept_ite (fun _ => ?_) (fun _ => ?_)
    | split
    | dsimp only
    | (dsimp +zetaDelta only; split)

theorem State.clearLanes_kept {o : State} {s : State} {p : Nat} (h : Kept o s) : Kept o (State.clearLanes s p) := by
  unfold State.clearLanes
  repeat' first
    | with_reducible assumption
    | with_reducible refine State.put_kept ?_
    | dsimp only

theorem State.losePair_kept {o : State} {s : State} (h : Kept o s) : Kept o (State.losePair s) := by
  unfold State.losePair
  repeat' first
    | with_reducible assumption
    | with_reducible exact rfl
    | with_reducible refine State.put_kept ?_
    | (extract_lets +onlyGivenNames s; refine kept_have (o := o) (x := s) ?_ (fun h => ?_); (on_goal 1 => unfold s; clear s); (on_goal 2 => try clear_value s))
    | (extract_lets +onlyGivenNames x; first | (have _p : PldSt := x; clear _p; unfold x) | skip)
    | simp only [↓kept_mk_iff]
    | with_reducible refine kept_ite (fun _ => ?_) (fun _ => ?_)
    | split
    | dsimp only
    | (dsimp +zetaDelta only; split)

theorem State.stopPort_kept {o : State} {s : State} {p : Nat} (h : Kept o s) : Kept o (State.stopPort s p) := by
  unfold State.stopPort
  repeat' first
    | with_reducible assumption
    | with_reducible exact rfl
    | with_reducible refine State.wrapPort_kept ?_
    | with_reducible refine State.losePair_kept ?_
    | with_reducible refine State.put_kept ?_
    | with_reducible refine State.clearLanes_kept ?_
    | with_reducible refine State.pendShared_kept ?_
    | (extract_lets +onlyGivenNames s; refine kept_have (o := o) (x := s) ?_ (fun h => ?_); (on_goal 1 => unfold s; clear s); (on_goal 2 => try clear_value s))
    | (extract_lets +onlyGivenNames x; first | (have _p : PldSt := x; clear _p; unfold x) | skip)
    | simp only [↓kept_mk_iff]
    | with_reducible refine kept_ite (fun _ => ?_) (fun _ => ?_)
    | split
    | dsimp only
    | (dsimp +zetaDelta only; split)

theorem State.stopDomain_kept {o : State} {s : State} {d : Nat} (h : Kept o s) : Kept o (State.stopDomain s d) := by
  unfold State.stopDomain
  repeat' first
    | with_reducible assumption
    | with_reducible exact rfl
    | with_reducible refine State.dropTaken_kept ?_
    | with_reducible refine State.put_kept ?_
    | with_reducible refine State.emit_kept ?_
    | with_reducible refine State.stopPort_kept ?_
    | with_reducible refine State.loseHost_kept ?_
    | with_reducible refine State.stopBridge_kept ?_
    | with_reducible refine State.canConfig_kept ?_
    | with_reducible refine State.haltGroup_kept ?_
    | with_reducible refine State.each_kept ?_ (fun s x h => ?_)
    | (extract_lets +onlyGivenNames s; refine kept_have (o := o) (x := s) ?_ (fun h => ?_); (on_goal 1 => unfold s; clear s); (on_goal 2 => try clear_value s))
    | (extract_lets +onlyGivenNames x; first | (have _p : PldSt := x; clear _p; unfold x) | skip)
    | simp only [↓kept_mk_iff]
    | with_reducible refine kept_foldl ?_ (fun s x h => ?_)
    | with_reducible refine kept_foldl_fst ?_ (fun p x h => ?_)
    | with_reducible refine kept_ite (fun _ => ?_) (fun _ => ?_)
    | split
    | dsimp only
    | (dsimp +zetaDelta only; split)

end Sys2Proof.Machine
end

