-- ==== Sys2Proof/Laws/KeptFaultHub.lean ====
section
/-! SUPPORT. What the operations of Machine/FaultHub.lean keep (Laws/Kept.lean). -/

set_option linter.all false

namespace Sys2Proof.Machine

theorem State.showHealth_kept {o : State} {s : State} (h : Kept o s) : Kept o (State.showHealth s) := by
  unfold State.showHealth
  repeat' first
    | with_reducible assumption
    | with_reducible refine State.put_kept ?_
    | dsimp only

theorem State.showUnack_kept {o : State} {s : State} (h : Kept o s) : Kept o (State.showUnack s) := by
  unfold State.showUnack
  repeat' first
    | with_reducible assumption
    | with_reducible refine State.put_kept ?_
    | with_reducible refine State.showHealth_kept ?_
    | dsimp only

theorem State.logEntry_kept {o : State} {s : State} {seq : Nat} {ws : List Nat} (h : Kept o s) : Kept o (State.logEntry s seq ws) := by
  unfold State.logEntry
  repeat' first
    | with_reducible assumption
    | with_reducible refine State.put_kept ?_
    | with_reducible refine State.each_kept ?_ (fun s x h => ?_)
    | dsimp only

theorem State.hlogLoop_kept {o : State} {a0 : Nat} {a1 : State} (h : Kept o a1) : Kept o (State.hlogLoop a0 a1) := by
  induction a0 generalizing a1 with
  | zero =>
    unfold State.hlogLoop
    repeat' first
      | with_reducible assumption
      | with_reducible refine State.hostWrite_kept ?_
      | with_reducible refine State.put_kept ?_
      | (extract_lets +onlyGivenNames s; refine kept_have (o := o) (x := s) ?_ (fun h => ?_); (on_goal 1 => unfold s; clear s); (on_goal 2 => try clear_value s))
      | (extract_lets +onlyGivenNames x; first | (have _p : PldSt := x; clear _p; unfold x) | skip)
      | with_reducible refine kept_ite (fun _ => ?_) (fun _ => ?_)
      | split
      | dsimp only
      | (dsimp +zetaDelta only; split)
  | succ k ih =>
    unfold State.hlogLoop
    repeat' first
      | with_reducible apply ih
      | with_reducible assumption
      | with_reducible refine State.hostWrite_kept ?_
      | with_reducible refine State.put_kept ?_
      | (extract_lets +onlyGivenNames s; refine kept_have (o := o) (x := s) ?_ (fun h => ?_); (on_goal 1 => unfold s; clear s); (on_goal 2 => try clear_value s))
      | (extract_lets +onlyGivenNames x; first | (have _p : PldSt := x; clear _p; unfold x) | skip)
      | with_reducible refine kept_ite (fun _ => ?_) (fun _ => ?_)
      | split
      | dsimp only
      | (dsimp +zetaDelta only; split)

theorem State.hlogCopy_kept {o : State} {s : State} (h : Kept o s) : Kept o (State.hlogCopy s) := by
  unfold State.hlogCopy
  repeat' first
    | with_reducible assumption
    | with_reducible refine State.hlogLoop_kept ?_
    | with_reducible refine State.put_kept ?_
    | (extract_lets +onlyGivenNames s; refine kept_have (o := o) (x := s) ?_ (fun h => ?_); (on_goal 1 => unfold s; clear s); (on_goal 2 => try clear_value s))
    | (extract_lets +onlyGivenNames x; first | (have _p : PldSt := x; clear _p; unfold x) | skip)
    | with_reducible refine kept_ite (fun _ => ?_) (fun _ => ?_)
    | split
    | dsimp only
    | (dsimp +zetaDelta only; split)

theorem State.downEndpoints_kept {o : State} {s : State} {d : Nat} (h : Kept o s) : Kept o (State.downEndpoints s d) := by
  unfold State.downEndpoints
  repeat' first
    | with_reducible assumption
    | with_reducible exact rfl
    | (extract_lets +onlyGivenNames s; refine kept_have (o := o) (x := s) ?_ (fun h => ?_); (on_goal 1 => unfold s; clear s); (on_goal 2 => try clear_value s))
    | (extract_lets +onlyGivenNames x; first | (have _p : PldSt := x; clear _p; unfold x) | skip)
    | simp only [↓kept_mk_iff]
    | with_reducible refine kept_foldl ?_ (fun s x h => ?_)
    | with_reducible refine kept_foldl_fst ?_ (fun p x h => ?_)
    | with_reducible refine kept_ite (fun _ => ?_) (fun _ => ?_)
    | split
    | dsimp only
    | (dsimp +zetaDelta only; split)

theorem State.fenceDomain_kept {o : State} {s : State} {d : Nat} (h : Kept o s) : Kept o (State.fenceDomain s d) := by
  unfold State.fenceDomain
  repeat' first
    | with_reducible assumption
    | with_reducible exact rfl
    | with_reducible refine State.setPhase_kept ?_
    | with_reducible refine State.stopDomain_kept ?_
    | with_reducible refine State.endThreat_kept ?_
    | with_reducible refine State.downEndpoints_kept ?_
    | with_reducible refine State.orBits_kept ?_
    | (extract_lets +onlyGivenNames s; refine kept_have (o := o) (x := s) ?_ (fun h => ?_); (on_goal 1 => unfold s; clear s); (on_goal 2 => try clear_value s))
    | (extract_lets +onlyGivenNames x; first | (have _p : PldSt := x; clear _p; unfold x) | skip)
    | simp only [↓kept_mk_iff]
    | with_reducible refine kept_ite (fun _ => ?_) (fun _ => ?_)
    | split
    | dsimp only
    | (dsimp +zetaDelta only; split)

theorem State.portsWake_kept {o : State} {s : State} (h : Kept o s) : Kept o (State.portsWake s) := by
  unfold State.portsWake
  repeat' first
    | with_reducible assumption
    | with_reducible exact rfl
    | with_reducible refine State.put_kept ?_
    | with_reducible refine State.pendShared_kept ?_
    | with_reducible refine State.each_kept ?_ (fun s x h => ?_)
    | (extract_lets +onlyGivenNames s; refine kept_have (o := o) (x := s) ?_ (fun h => ?_); (on_goal 1 => unfold s; clear s); (on_goal 2 => try clear_value s))
    | (extract_lets +onlyGivenNames x; first | (have _p : PldSt := x; clear _p; unfold x) | skip)
    | simp only [↓kept_mk_iff]
    | with_reducible refine kept_ite (fun _ => ?_) (fun _ => ?_)
    | split
    | dsimp only
    | (dsimp +zetaDelta only; split)

theorem State.lullBack_kept {o : State} {s : State} (h : Kept o s) : Kept o (State.lullBack s) := by
  unfold State.lullBack
  repeat' first
    | with_reducible assumption
    | with_reducible refine State.wakeRegs_kept ?_
    | with_reducible refine State.freshUnits_kept ?_
    | with_reducible refine State.setPhase_kept ?_
    | with_reducible refine State.each_kept ?_ (fun s x h => ?_)
    | dsimp only

theorem State.leaveLull_kept {o : State} {s : State} (h : Kept o s) : Kept o (State.leaveLull s) := by
  unfold State.leaveLull
  repeat' first
    | with_reducible assumption
    | with_reducible exact rfl
    | with_reducible refine State.put_kept ?_
    | with_reducible refine State.lullBack_kept ?_
    | with_reducible refine State.portsWake_kept ?_
    | (extract_lets +onlyGivenNames s; refine kept_have (o := o) (x := s) ?_ (fun h => ?_); (on_goal 1 => unfold s; clear s); (on_goal 2 => try clear_value s))
    | (extract_lets +onlyGivenNames x; first | (have _p : PldSt := x; clear _p; unfold x) | skip)
    | simp only [↓kept_mk_iff]
    | with_reducible refine kept_ite (fun _ => ?_) (fun _ => ?_)
    | split
    | dsimp only
    | (dsimp +zetaDelta only; split)

theorem State.bringBack_kept {o : State} {s : State} (h : Kept o s) : Kept o (State.bringBack s) := by
  unfold State.bringBack
  repeat' first
    | with_reducible assumption
    | with_reducible exact rfl
    | with_reducible refine State.setPhase_kept ?_
    | with_reducible refine State.each_kept ?_ (fun s x h => ?_)
    | (extract_lets +onlyGivenNames s; refine kept_have (o := o) (x := s) ?_ (fun h => ?_); (on_goal 1 => unfold s; clear s); (on_goal 2 => try clear_value s))
    | (extract_lets +onlyGivenNames x; first | (have _p : PldSt := x; clear _p; unfold x) | skip)
    | simp only [↓kept_mk_iff]
    | with_reducible refine kept_ite (fun _ => ?_) (fun _ => ?_)
    | split
    | dsimp only
    | (dsimp +zetaDelta only; split)

theorem State.disarm_kept {o : State} {s : State} {code : Nat} (h : Kept o s) : Kept o (State.disarm s code) := by
  unfold State.disarm
  repeat' first
    | with_reducible assumption
    | with_reducible exact rfl
    | with_reducible refine State.put_kept ?_
    | with_reducible refine State.unicast_kept ?_
    | (extract_lets +onlyGivenNames s; refine kept_have (o := o) (x := s) ?_ (fun h => ?_); (on_goal 1 => unfold s; clear s); (on_goal 2 => try clear_value s))
    | (extract_lets +onlyGivenNames x; first | (have _p : PldSt := x; clear _p; unfold x) | skip)
    | simp only [↓kept_mk_iff]
    | split
    | dsimp only
    | (dsimp +zetaDelta only; split)

theorem State.stopActivation_kept {o : State} {s : State} (h : Kept o s) : Kept o (State.stopActivation s) := by
  unfold State.stopActivation
  repeat' first
    | with_reducible assumption
    | with_reducible exact rfl
    | with_reducible refine State.emit_kept ?_
    | (extract_lets +onlyGivenNames s; refine kept_have (o := o) (x := s) ?_ (fun h => ?_); (on_goal 1 => unfold s; clear s); (on_goal 2 => try clear_value s))
    | (extract_lets +onlyGivenNames x; first | (have _p : PldSt := x; clear _p; unfold x) | skip)
    | simp only [↓kept_mk_iff]
    | with_reducible refine kept_ite (fun _ => ?_) (fun _ => ?_)
    | split
    | dsimp only
    | (dsimp +zetaDelta only; split)

theorem State.sendRemoteFault_kept {o : State} {s : State} (h : Kept o s) : Kept o (State.sendRemoteFault s) := by
  unfold State.sendRemoteFault
  repeat' first
    | with_reducible assumption
    | with_reducible exact rfl
    | with_reducible refine State.emit_kept ?_
    | with_reducible refine State.each_kept ?_ (fun s x h => ?_)
    | (extract_lets +onlyGivenNames s; refine kept_have (o := o) (x := s) ?_ (fun h => ?_); (on_goal 1 => unfold s; clear s); (on_goal 2 => try clear_value s))
    | (extract_lets +onlyGivenNames x; first | (have _p : PldSt := x; clear _p; unfold x) | skip)
    | simp only [↓kept_mk_iff]
    | with_reducible refine kept_ite (fun _ => ?_) (fun _ => ?_)
    | split
    | dsimp only
    | (dsimp +zetaDelta only; split)

theorem State.classF_kept {o : State} {s : State} {src : Nat} (h : Kept o s) : Kept o (State.classF s src) := by
  unfold State.classF
  repeat' first
    | with_reducible assumption
    | with_reducible exact rfl
    | with_reducible refine State.epChange_kept ?_
    | with_reducible refine State.sendRemoteFault_kept ?_
    | with_reducible refine State.setMode_kept ?_
    | with_reducible refine State.showHealth_kept ?_
    | with_reducible refine State.stopActivation_kept ?_
    | with_reducible refine State.disarm_kept ?_
    | with_reducible refine State.fenceDomain_kept ?_
    | with_reducible refine State.each_kept ?_ (fun s x h => ?_)
    | with_reducible refine State.showPins_kept ?_
    | with_reducible refine State.bringBack_kept ?_
    | with_reducible refine State.leaveLull_kept ?_
    | with_reducible refine State.put_kept ?_
    | with_reducible refine State.emit_kept ?_
    | (extract_lets +onlyGivenNames s; refine kept_have (o := o) (x := s) ?_ (fun h => ?_); (on_goal 1 => unfold s; clear s); (on_goal 2 => try clear_value s))
    | (extract_lets +onlyGivenNames x; first | (have _p : PldSt := x; clear _p; unfold x) | skip)
    | simp only [↓kept_mk_iff]
    | with_reducible refine kept_ite (fun _ => ?_) (fun _ => ?_)
    | split
    | dsimp only
    | (dsimp +zetaDelta only; split)

theorem State.recordWith_kept {o : State} {s : State} {src : Nat} {info : List Nat} (h : Kept o s) : Kept o (State.recordWith s src info) := by
  unfold State.recordWith
  repeat' first
    | with_reducible assumption
    | with_reducible exact rfl
    | with_reducible refine State.classF_kept ?_
    | with_reducible refine State.hlogCopy_kept ?_
    | with_reducible refine State.showUnack_kept ?_
    | with_reducible refine State.pendShared_kept ?_
    | with_reducible refine State.inc_kept ?_
    | with_reducible refine State.put_kept ?_
    | with_reducible refine State.logEntry_kept ?_
    | with_reducible refine State.incSat_kept ?_
    | (extract_lets +onlyGivenNames s; refine kept_have (o := o) (x := s) ?_ (fun h => ?_); (on_goal 1 => unfold s; clear s); (on_goal 2 => try clear_value s))
    | (extract_lets +onlyGivenNames x; first | (have _p : PldSt := x; clear _p; unfold x) | skip)
    | simp only [↓kept_mk_iff]
    | with_reducible refine kept_ite (fun _ => ?_) (fun _ => ?_)
    | split
    | dsimp only
    | (dsimp +zetaDelta only; split)

theorem State.record_kept {o : State} {s : State} {src : Nat} (h : Kept o s) : Kept o (State.record s src) := by
  unfold State.record
  repeat' first
    | with_reducible assumption
    | with_reducible refine State.recordWith_kept ?_
    | dsimp only

theorem State.acknowledge_kept {o : State} {s : State} {c : Nat} {q : Nat} (h : Kept o s) : Kept o (State.acknowledge s c q) := by
  unfold State.acknowledge
  repeat' first
    | with_reducible assumption
    | with_reducible exact rfl
    | with_reducible refine State.showUnack_kept ?_
    | with_reducible refine State.raise_kept ?_
    | (extract_lets +onlyGivenNames s; refine kept_have (o := o) (x := s) ?_ (fun h => ?_); (on_goal 1 => unfold s; clear s); (on_goal 2 => try clear_value s))
    | (extract_lets +onlyGivenNames x; first | (have _p : PldSt := x; clear _p; unfold x) | skip)
    | simp only [↓kept_mk_iff]
    | with_reducible refine kept_ite (fun _ => ?_) (fun _ => ?_)
    | split
    | dsimp only
    | (dsimp +zetaDelta only; split)

end Sys2Proof.Machine
end

