-- ==== Sys2Proof/Laws/KeptReset.lean ====
section
/-! SUPPORT. What the operations of Machine/Reset.lean keep (Laws/Kept.lean). -/

set_option linter.all false

namespace Sys2Proof.Machine

theorem State.resetBase_kept {o s : State} {kind : Nat} (h : Kept o s) : Kept o (s.resetBase kind) := by
  refine kept_of h rfl rfl fun c => ?_
  obtain ⟨c₁, c₂, c₃, c₄⟩ := (canonical_iff s).1 c
  refine (canonical_iff _).2 ⟨?_, c₂, c₃, SMap.sorted_filter _ _ c₄⟩
  show Memory.wf (if kind = 1 then s.mem else []) = true
  split
  · exact c₁
  · rfl

theorem State.offBase_kept {o s : State} {node : NodeSt} (h : Kept o s) : Kept o (s.offBase node) := by
  refine kept_of h rfl rfl fun c => ?_
  obtain ⟨c₁, c₂, c₃, c₄⟩ := (canonical_iff s).1 c
  exact (canonical_iff _).2 ⟨rfl, rfl, rfl, SMap.sorted_filter _ _ c₄⟩

theorem State.resetNarrow_kept {o : State} {s : State} {kind : Nat} {source : Nat} (h : Kept o s) : Kept o (State.resetNarrow s kind source) := by
  unfold State.resetNarrow
  repeat' first
    | with_reducible assumption
    | with_reducible exact rfl
    | with_reducible refine State.emit_kept ?_
    | with_reducible refine State.showPins_kept ?_
    | with_reducible refine State.showGroups_kept ?_
    | with_reducible refine State.incSat_kept ?_
    | with_reducible refine State.put_kept ?_
    | with_reducible refine State.resetBase_kept ?_
    | with_reducible refine State.resetBase_kept ?_
    | (extract_lets +onlyGivenNames s; refine kept_have (o := o) (x := s) ?_ (fun h => ?_); (on_goal 1 => unfold s; clear s); (on_goal 2 => try clear_value s))
    | (extract_lets +onlyGivenNames x; first | (have _p : PldSt := x; clear _p; unfold x) | skip)
    | simp only [↓kept_mk_iff]
    | with_reducible refine kept_ite (fun _ => ?_) (fun _ => ?_)
    | split
    | dsimp only
    | (dsimp +zetaDelta only; split)

theorem State.narrowReset_kept {o : State} {s : State} {kind : Nat} {source : Nat} (h : Kept o s) : Kept o (State.narrowReset s kind source) := by
  unfold State.narrowReset
  repeat' first
    | with_reducible assumption
    | with_reducible refine State.hlogCopy_kept ?_
    | with_reducible refine State.resetNarrow_kept ?_
    | with_reducible refine kept_ite (fun _ => ?_) (fun _ => ?_)
    | split
    | dsimp only
    | (dsimp +zetaDelta only; split)

theorem State.toOff_kept {o : State} {s : State} {cause : Nat} (h : Kept o s) : Kept o (State.toOff s cause) := by
  unfold State.toOff
  repeat' first
    | with_reducible assumption
    | with_reducible refine State.put_kept ?_
    | with_reducible refine State.offBase_kept ?_
    | with_reducible refine State.offBase_kept ?_
    | (extract_lets +onlyGivenNames s; refine kept_have (o := o) (x := s) ?_ (fun h => ?_); (on_goal 1 => unfold s; clear s); (on_goal 2 => try clear_value s))
    | (extract_lets +onlyGivenNames x; first | (have _p : PldSt := x; clear _p; unfold x) | skip)
    | dsimp only

theorem execPorAssert_kept {o : State} {s : State} (h : Kept o s) : Keeps o (execPorAssert s) := by
  unfold execPorAssert
  repeat' first
    | with_reducible assumption
    | with_reducible refine State.toOff_kept ?_
    | with_reducible refine keeps_next ?_
    | dsimp only

theorem execSupplyLoss_kept {o : State} {s : State} (h : Kept o s) : Keeps o (execSupplyLoss s) := by
  unfold execSupplyLoss
  repeat' first
    | with_reducible assumption
    | with_reducible refine State.toOff_kept ?_
    | with_reducible refine keeps_next ?_
    | dsimp only

theorem State.domainsDown_kept {o : State} {s : State} (h : Kept o s) : Kept o (State.domainsDown s) := by
  unfold State.domainsDown
  repeat' first
    | with_reducible assumption
    | with_reducible exact rfl
    | with_reducible refine State.put_kept ?_
    | with_reducible refine State.showGroups_kept ?_
    | (extract_lets +onlyGivenNames s; refine kept_have (o := o) (x := s) ?_ (fun h => ?_); (on_goal 1 => unfold s; clear s); (on_goal 2 => try clear_value s))
    | (extract_lets +onlyGivenNames x; first | (have _p : PldSt := x; clear _p; unfold x) | skip)
    | simp only [↓kept_mk_iff]
    | dsimp only

theorem State.domainsUp_kept {o : State} {s : State} (h : Kept o s) : Kept o (State.domainsUp s) := by
  unfold State.domainsUp
  repeat' first
    | with_reducible assumption
    | with_reducible exact rfl
    | with_reducible refine State.put_kept ?_
    | with_reducible refine State.showGroups_kept ?_
    | (extract_lets +onlyGivenNames s; refine kept_have (o := o) (x := s) ?_ (fun h => ?_); (on_goal 1 => unfold s; clear s); (on_goal 2 => try clear_value s))
    | (extract_lets +onlyGivenNames x; first | (have _p : PldSt := x; clear _p; unfold x) | skip)
    | simp only [↓kept_mk_iff]
    | dsimp only

theorem State.holdReset_kept {o : State} {s : State} (h : Kept o s) : Kept o (State.holdReset s) := by
  unfold State.holdReset
  repeat' first
    | with_reducible assumption
    | with_reducible exact rfl
    | with_reducible refine State.domainsDown_kept ?_
    | (extract_lets +onlyGivenNames s; refine kept_have (o := o) (x := s) ?_ (fun h => ?_); (on_goal 1 => unfold s; clear s); (on_goal 2 => try clear_value s))
    | (extract_lets +onlyGivenNames x; first | (have _p : PldSt := x; clear _p; unfold x) | skip)
    | simp only [↓kept_mk_iff]
    | dsimp only

theorem execPorRelease_kept {o : State} {load : BitVec 2} {slot : Bool} {testEn : Bool} {psw : Bool} {suppliesValid : Bool} {s : State} (h : Kept o s) : Keeps o (execPorRelease load slot testEn psw suppliesValid s) := by
  unfold execPorRelease
  repeat' first
    | with_reducible assumption
    | with_reducible exact rfl
    | with_reducible refine State.holdReset_kept ?_
    | with_reducible refine State.showGroups_kept ?_
    | with_reducible refine State.put_kept ?_
    | with_reducible refine State.offBase_kept ?_
    | with_reducible refine keeps_next ?_
    | with_reducible refine State.offBase_kept ?_
    | (extract_lets +onlyGivenNames s; refine kept_have (o := o) (x := s) ?_ (fun h => ?_); (on_goal 1 => unfold s; clear s); (on_goal 2 => try clear_value s))
    | (extract_lets +onlyGivenNames x; first | (have _p : PldSt := x; clear _p; unfold x) | skip)
    | simp only [↓kept_mk_iff]
    | with_reducible refine kept_ite (fun _ => ?_) (fun _ => ?_)
    | split
    | dsimp only
    | (dsimp +zetaDelta only; split)

theorem execGlbResetWarm_kept {o : State} {req : Requester} {s : State} (h : Kept o s) : Keeps o (execGlbResetWarm req s) := by
  unfold execGlbResetWarm
  repeat' first
    | with_reducible assumption
    | with_reducible refine State.narrowReset_kept ?_
    | with_reducible refine keeps_next ?_
    | with_reducible refine kept_ite (fun _ => ?_) (fun _ => ?_)
    | split
    | dsimp only
    | (dsimp +zetaDelta only; split)

theorem execGlbResetNode_kept {o : State} {req : Requester} {s : State} (h : Kept o s) : Keeps o (execGlbResetNode req s) := by
  unfold execGlbResetNode
  repeat' first
    | with_reducible assumption
    | with_reducible refine State.narrowReset_kept ?_
    | with_reducible refine keeps_next ?_
    | with_reducible refine kept_ite (fun _ => ?_) (fun _ => ?_)
    | split
    | dsimp only
    | (dsimp +zetaDelta only; split)

theorem State.hifReset_kept {o : State} {s : State} (h : Kept o s) : Kept o (State.hifReset s) := by
  unfold State.hifReset
  repeat' first
    | with_reducible assumption
    | with_reducible exact rfl
    | with_reducible refine State.clearRegs_kept ?_
    | with_reducible refine State.freshUnits_kept ?_
    | (extract_lets +onlyGivenNames s; refine kept_have (o := o) (x := s) ?_ (fun h => ?_); (on_goal 1 => unfold s; clear s); (on_goal 2 => try clear_value s))
    | (extract_lets +onlyGivenNames x; first | (have _p : PldSt := x; clear _p; unfold x) | skip)
    | simp only [↓kept_mk_iff]
    | dsimp only

theorem execPerstAssert_kept {o : State} {s : State} (h : Kept o s) : Keeps o (execPerstAssert s) := by
  unfold execPerstAssert
  repeat' first
    | with_reducible assumption
    | with_reducible exact rfl
    | with_reducible refine State.hifReset_kept ?_
    | with_reducible refine State.narrowReset_kept ?_
    | with_reducible refine State.holdReset_kept ?_
    | with_reducible refine keeps_next ?_
    | (extract_lets +onlyGivenNames s; refine kept_have (o := o) (x := s) ?_ (fun h => ?_); (on_goal 1 => unfold s; clear s); (on_goal 2 => try clear_value s))
    | (extract_lets +onlyGivenNames x; first | (have _p : PldSt := x; clear _p; unfold x) | skip)
    | simp only [↓kept_mk_iff]
    | with_reducible refine kept_ite (fun _ => ?_) (fun _ => ?_)
    | split
    | dsimp only
    | (dsimp +zetaDelta only; split)

theorem execPerstRelease_kept {o : State} {s : State} (h : Kept o s) : Keeps o (execPerstRelease s) := by
  unfold execPerstRelease
  repeat' first
    | with_reducible assumption
    | with_reducible exact rfl
    | with_reducible refine State.domainsUp_kept ?_
    | with_reducible refine keeps_next ?_
    | (extract_lets +onlyGivenNames s; refine kept_have (o := o) (x := s) ?_ (fun h => ?_); (on_goal 1 => unfold s; clear s); (on_goal 2 => try clear_value s))
    | (extract_lets +onlyGivenNames x; first | (have _p : PldSt := x; clear _p; unfold x) | skip)
    | simp only [↓kept_mk_iff]
    | with_reducible refine kept_ite (fun _ => ?_) (fun _ => ?_)
    | split
    | dsimp only
    | (dsimp +zetaDelta only; split)

theorem execSvWatchdogExpiry_kept {o : State} {s : State} (h : Kept o s) : Keeps o (execSvWatchdogExpiry s) := by
  unfold execSvWatchdogExpiry
  repeat' first
    | with_reducible assumption
    | with_reducible exact rfl
    | with_reducible refine State.resetNarrow_kept ?_
    | with_reducible refine State.record_kept ?_
    | with_reducible refine keeps_next ?_
    | (extract_lets +onlyGivenNames s; refine kept_have (o := o) (x := s) ?_ (fun h => ?_); (on_goal 1 => unfold s; clear s); (on_goal 2 => try clear_value s))
    | (extract_lets +onlyGivenNames x; first | (have _p : PldSt := x; clear _p; unfold x) | skip)
    | simp only [↓kept_mk_iff]
    | with_reducible refine kept_ite (fun _ => ?_) (fun _ => ?_)
    | split
    | dsimp only
    | (dsimp +zetaDelta only; split)

theorem execFltRecoverExpiry_kept {o : State} {s : State} (h : Kept o s) : Keeps o (execFltRecoverExpiry s) := by
  unfold execFltRecoverExpiry
  repeat' first
    | with_reducible assumption
    | with_reducible exact rfl
    | with_reducible refine State.narrowReset_kept ?_
    | with_reducible refine keeps_next ?_
    | (extract_lets +onlyGivenNames s; refine kept_have (o := o) (x := s) ?_ (fun h => ?_); (on_goal 1 => unfold s; clear s); (on_goal 2 => try clear_value s))
    | (extract_lets +onlyGivenNames x; first | (have _p : PldSt := x; clear _p; unfold x) | skip)
    | simp only [↓kept_mk_iff]
    | with_reducible refine kept_ite (fun _ => ?_) (fun _ => ?_)
    | split
    | dsimp only
    | (dsimp +zetaDelta only; split)

theorem State.recordWake_kept {o : State} {s : State} {bit : Nat} {first : Nat} (h : Kept o s) : Kept o (State.recordWake s bit first) := by
  unfold State.recordWake
  repeat' first
    | with_reducible assumption
    | with_reducible refine State.orBits_kept ?_
    | with_reducible refine State.put_kept ?_
    | (extract_lets +onlyGivenNames s; refine kept_have (o := o) (x := s) ?_ (fun h => ?_); (on_goal 1 => unfold s; clear s); (on_goal 2 => try clear_value s))
    | (extract_lets +onlyGivenNames x; first | (have _p : PldSt := x; clear _p; unfold x) | skip)
    | with_reducible refine kept_ite (fun _ => ?_) (fun _ => ?_)
    | split
    | dsimp only
    | (dsimp +zetaDelta only; split)

theorem State.wakeFromDormant_kept {o : State} {s : State} (h : Kept o s) : Kept o (State.wakeFromDormant s) := by
  unfold State.wakeFromDormant
  repeat' first
    | with_reducible assumption
    | with_reducible exact rfl
    | with_reducible refine State.domainsDown_kept ?_
    | with_reducible refine State.resetNarrow_kept ?_
    | (extract_lets +onlyGivenNames s; refine kept_have (o := o) (x := s) ?_ (fun h => ?_); (on_goal 1 => unfold s; clear s); (on_goal 2 => try clear_value s))
    | (extract_lets +onlyGivenNames x; first | (have _p : PldSt := x; clear _p; unfold x) | skip)
    | simp only [↓kept_mk_iff]
    | with_reducible refine kept_ite (fun _ => ?_) (fun _ => ?_)
    | split
    | dsimp only
    | (dsimp +zetaDelta only; split)

theorem State.wake_kept {o : State} {s : State} {bit : Nat} {first : Nat} (h : Kept o s) : Kept o (State.wake s bit first) := by
  unfold State.wake
  repeat' first
    | with_reducible assumption
    | with_reducible exact rfl
    | with_reducible refine State.voidBy_kept ?_
    | with_reducible refine State.epChange_kept ?_
    | with_reducible refine State.bringBack_kept ?_
    | with_reducible refine State.put_kept ?_
    | with_reducible refine State.portsWake_kept ?_
    | with_reducible refine State.recordWake_kept ?_
    | with_reducible refine State.wakeFromDormant_kept ?_
    | (extract_lets +onlyGivenNames s; refine kept_have (o := o) (x := s) ?_ (fun h => ?_); (on_goal 1 => unfold s; clear s); (on_goal 2 => try clear_value s))
    | (extract_lets +onlyGivenNames x; first | (have _p : PldSt := x; clear _p; unfold x) | skip)
    | simp only [↓kept_mk_iff]
    | with_reducible refine kept_ite (fun _ => ?_) (fun _ => ?_)
    | split
    | dsimp only
    | (dsimp +zetaDelta only; split)

theorem execDormantEntryComplete_kept {o : State} {s : State} (h : Kept o s) : Keeps o (execDormantEntryComplete s) := by
  unfold execDormantEntryComplete
  repeat' first
    | with_reducible assumption
    | with_reducible exact rfl
    | with_reducible refine State.wakeFromDormant_kept ?_
    | with_reducible refine State.put_kept ?_
    | with_reducible refine State.setPhase_kept ?_
    | with_reducible refine State.setMode_kept ?_
    | with_reducible refine keeps_next ?_
    | (extract_lets +onlyGivenNames s; refine kept_have (o := o) (x := s) ?_ (fun h => ?_); (on_goal 1 => unfold s; clear s); (on_goal 2 => try clear_value s))
    | (extract_lets +onlyGivenNames x; first | (have _p : PldSt := x; clear _p; unfold x) | skip)
    | simp only [↓kept_mk_iff]
    | with_reducible refine kept_ite (fun _ => ?_) (fun _ => ?_)
    | split
    | dsimp only
    | (dsimp +zetaDelta only; split)

theorem execReferenceClocksPresent_kept {o : State} {s : State} (h : Kept o s) : Keeps o (execReferenceClocksPresent s) := by
  unfold execReferenceClocksPresent
  repeat' first
    | with_reducible assumption
    | with_reducible exact rfl
    | with_reducible refine State.domainsUp_kept ?_
    | with_reducible refine keeps_next ?_
    | (extract_lets +onlyGivenNames s; refine kept_have (o := o) (x := s) ?_ (fun h => ?_); (on_goal 1 => unfold s; clear s); (on_goal 2 => try clear_value s))
    | (extract_lets +onlyGivenNames x; first | (have _p : PldSt := x; clear _p; unfold x) | skip)
    | simp only [↓kept_mk_iff]
    | with_reducible refine kept_ite (fun _ => ?_) (fun _ => ?_)
    | split
    | dsimp only
    | (dsimp +zetaDelta only; split)

theorem execWakeInAssert_kept {o : State} {s : State} (h : Kept o s) : Keeps o (execWakeInAssert s) := by
  unfold execWakeInAssert
  repeat' first
    | with_reducible assumption
    | with_reducible refine State.wake_kept ?_
    | with_reducible refine keeps_next ?_
    | dsimp only

end Sys2Proof.Machine
end

