-- ==== Sys2Proof/Laws/KeptBoot.lean ====
section
/-! SUPPORT. What the operations of Machine/Boot.lean keep (Laws/Kept.lean). -/

set_option linter.all false

namespace Sys2Proof.Machine

theorem State.setSession_kept {o : State} {s : State} {x : Session} (h : Kept o s) : Kept o (State.setSession s x) := by
  unfold State.setSession
  repeat' first
    | with_reducible assumption
    | with_reducible exact rfl
    | (extract_lets +onlyGivenNames s; refine kept_have (o := o) (x := s) ?_ (fun h => ?_); (on_goal 1 => unfold s; clear s); (on_goal 2 => try clear_value s))
    | (extract_lets +onlyGivenNames x; first | (have _p : PldSt := x; clear _p; unfold x) | skip)
    | simp only [↓kept_mk_iff]
    | with_reducible refine kept_ite (fun _ => ?_) (fun _ => ?_)
    | split
    | dsimp only
    | (dsimp +zetaDelta only; split)

theorem State.setSessionStatus_kept {o : State} {s : State} {v : Nat} (h : Kept o s) : Kept o (State.setSessionStatus s v) := by
  unfold State.setSessionStatus
  repeat' first
    | with_reducible assumption
    | with_reducible refine State.put_kept ?_
    | with_reducible refine kept_ite (fun _ => ?_) (fun _ => ?_)
    | split
    | dsimp only
    | (dsimp +zetaDelta only; split)

theorem State.setSessionDetail_kept {o : State} {s : State} {v : Nat} (h : Kept o s) : Kept o (State.setSessionDetail s v) := by
  unfold State.setSessionDetail
  repeat' first
    | with_reducible assumption
    | with_reducible refine State.put_kept ?_
    | with_reducible refine kept_ite (fun _ => ?_) (fun _ => ?_)
    | split
    | dsimp only
    | (dsimp +zetaDelta only; split)

theorem State.setSlotInfo_kept {o : State} {s : State} {slot : Nat} {x : SlotInfo} (h : Kept o s) : Kept o (State.setSlotInfo s slot x) := by
  unfold State.setSlotInfo
  repeat' first
    | with_reducible assumption
    | with_reducible exact rfl
    | (extract_lets +onlyGivenNames s; refine kept_have (o := o) (x := s) ?_ (fun h => ?_); (on_goal 1 => unfold s; clear s); (on_goal 2 => try clear_value s))
    | (extract_lets +onlyGivenNames x; first | (have _p : PldSt := x; clear _p; unfold x) | skip)
    | simp only [↓kept_mk_iff]
    | with_reducible refine kept_ite (fun _ => ?_) (fun _ => ?_)
    | split
    | dsimp only
    | (dsimp +zetaDelta only; split)

theorem State.showPages_kept {o : State} {s : State} (h : Kept o s) : Kept o (State.showPages s) := by
  unfold State.showPages
  repeat' first
    | with_reducible assumption
    | with_reducible exact rfl
    | with_reducible refine State.put_kept ?_
    | (extract_lets +onlyGivenNames s; refine kept_have (o := o) (x := s) ?_ (fun h => ?_); (on_goal 1 => unfold s; clear s); (on_goal 2 => try clear_value s))
    | (extract_lets +onlyGivenNames x; first | (have _p : PldSt := x; clear _p; unfold x) | skip)
    | simp only [↓kept_mk_iff]
    | split
    | dsimp only
    | (dsimp +zetaDelta only; split)

theorem State.storePage_kept {o : State} {s : State} {x : Session} {h' : Header} {b : Block} (h : Kept o s) : Kept o (State.storePage s x h' b) := by
  unfold State.storePage
  repeat' first
    | with_reducible assumption
    | with_reducible exact rfl
    | with_reducible refine State.setSessionStatus_kept ?_
    | with_reducible refine State.setSession_kept ?_
    | with_reducible refine State.showPages_kept ?_
    | with_reducible refine State.memWrite_kept ?_
    | (extract_lets +onlyGivenNames s; refine kept_have (o := o) (x := s) ?_ (fun h => ?_); (on_goal 1 => unfold s; clear s); (on_goal 2 => try clear_value s))
    | (extract_lets +onlyGivenNames x; first | (have _p : PldSt := x; clear _p; unfold x) | skip)
    | simp only [↓kept_mk_iff]
    | with_reducible refine kept_ite (fun _ => ?_) (fun _ => ?_)
    | split
    | dsimp only
    | (dsimp +zetaDelta only; split)

theorem State.acceptHeader_kept {o : State} {s : State} {path : Nat} {b : Block} (h : Kept o s) : Kept o (State.acceptHeader s path b) := by
  unfold State.acceptHeader
  repeat' first
    | with_reducible assumption
    | with_reducible refine State.setSlotInfo_kept ?_
    | with_reducible refine State.storePage_kept ?_
    | with_reducible refine State.put_kept ?_
    | (extract_lets +onlyGivenNames s; refine kept_have (o := o) (x := s) ?_ (fun h => ?_); (on_goal 1 => unfold s; clear s); (on_goal 2 => try clear_value s))
    | (extract_lets +onlyGivenNames x; first | (have _p : PldSt := x; clear _p; unfold x) | skip)
    | with_reducible refine kept_ite (fun _ => ?_) (fun _ => ?_)
    | split
    | dsimp only
    | (dsimp +zetaDelta only; split)

theorem State.restartLoad_kept {o : State} {s : State} (h : Kept o s) : Kept o (State.restartLoad s) := by
  unfold State.restartLoad
  repeat' first
    | with_reducible assumption
    | with_reducible exact rfl
    | with_reducible refine State.showPages_kept ?_
    | with_reducible refine State.put_kept ?_
    | (extract_lets +onlyGivenNames s; refine kept_have (o := o) (x := s) ?_ (fun h => ?_); (on_goal 1 => unfold s; clear s); (on_goal 2 => try clear_value s))
    | (extract_lets +onlyGivenNames x; first | (have _p : PldSt := x; clear _p; unfold x) | skip)
    | simp only [↓kept_mk_iff]
    | with_reducible refine kept_ite (fun _ => ?_) (fun _ => ?_)
    | split
    | dsimp only
    | (dsimp +zetaDelta only; split)

theorem State.restartStage_kept {o : State} {s : State} (h : Kept o s) : Kept o (State.restartStage s) := by
  unfold State.restartStage
  repeat' first
    | with_reducible assumption
    | with_reducible exact rfl
    | with_reducible refine State.showPages_kept ?_
    | with_reducible refine State.setSlotInfo_kept ?_
    | with_reducible refine State.put_kept ?_
    | (extract_lets +onlyGivenNames s; refine kept_have (o := o) (x := s) ?_ (fun h => ?_); (on_goal 1 => unfold s; clear s); (on_goal 2 => try clear_value s))
    | (extract_lets +onlyGivenNames x; first | (have _p : PldSt := x; clear _p; unfold x) | skip)
    | simp only [↓kept_mk_iff]
    | with_reducible refine kept_ite (fun _ => ?_) (fun _ => ?_)
    | split
    | dsimp only
    | (dsimp +zetaDelta only; split)

theorem State.restartSession_kept {o : State} {s : State} {sess : Nat} (h : Kept o s) : Kept o (State.restartSession s sess) := by
  unfold State.restartSession
  repeat' first
    | with_reducible assumption
    | with_reducible refine State.restartLoad_kept ?_
    | with_reducible refine State.restartStage_kept ?_
    | with_reducible refine kept_ite (fun _ => ?_) (fun _ => ?_)
    | split
    | dsimp only
    | (dsimp +zetaDelta only; split)

theorem State.ctrlRestart_kept {o : State} {s : State} {sess : Nat} (h : Kept o s) : Kept o (State.ctrlRestart s sess) := by
  unfold State.ctrlRestart
  repeat' first
    | with_reducible assumption
    | with_reducible refine State.restartSession_kept ?_
    | with_reducible refine kept_ite (fun _ => ?_) (fun _ => ?_)
    | split
    | dsimp only
    | (dsimp +zetaDelta only; split)

theorem State.loadProcs_kept {o : State} {s : State} {ps : List Nat} (h : Kept o s) : Kept o (State.loadProcs s ps) := by
  unfold State.loadProcs
  repeat' first
    | with_reducible assumption
    | with_reducible refine State.emit_kept ?_
    | (extract_lets +onlyGivenNames s; refine kept_have (o := o) (x := s) ?_ (fun h => ?_); (on_goal 1 => unfold s; clear s); (on_goal 2 => try clear_value s))
    | (extract_lets +onlyGivenNames x; first | (have _p : PldSt := x; clear _p; unfold x) | skip)
    | with_reducible refine kept_foldl ?_ (fun s x h => ?_)
    | with_reducible refine kept_foldl_fst ?_ (fun p x h => ?_)
    | dsimp only

theorem State.startImage_kept {o : State} {s : State} (h : Kept o s) : Kept o (State.startImage s) := by
  unfold State.startImage
  repeat' first
    | with_reducible assumption
    | with_reducible refine State.loadProcs_kept ?_
    | with_reducible refine State.emit_kept ?_
    | dsimp only

theorem State.actOnBlock_kept {o : State} {s : State} {path : Nat} {b : Block} (h : Kept o s) : Kept o (State.actOnBlock s path b) := by
  unfold State.actOnBlock
  repeat' first
    | with_reducible assumption
    | with_reducible exact rfl
    | with_reducible refine State.storePage_kept ?_
    | with_reducible refine State.acceptHeader_kept ?_
    | with_reducible refine State.put_kept ?_
    | with_reducible refine State.startImage_kept ?_
    | with_reducible refine State.restartSession_kept ?_
    | (extract_lets +onlyGivenNames s; refine kept_have (o := o) (x := s) ?_ (fun h => ?_); (on_goal 1 => unfold s; clear s); (on_goal 2 => try clear_value s))
    | (extract_lets +onlyGivenNames x; first | (have _p : PldSt := x; clear _p; unfold x) | skip)
    | simp only [↓kept_mk_iff]
    | with_reducible refine kept_ite (fun _ => ?_) (fun _ => ?_)
    | split
    | dsimp only
    | (dsimp +zetaDelta only; split)

theorem State.agent_kept {o : State} {s : State} {path : Nat} {bs : List Byte} (h : Kept o s) : Kept o (State.agent s path bs).1 := by
  unfold State.agent
  repeat' first
    | with_reducible assumption
    | with_reducible exact rfl
    | with_reducible refine State.setSessionStatus_kept ?_
    | with_reducible refine State.setSessionDetail_kept ?_
    | with_reducible refine State.actOnBlock_kept ?_
    | (extract_lets +onlyGivenNames s; refine kept_have (o := o) (x := s) ?_ (fun h => ?_); (on_goal 1 => unfold s; clear s); (on_goal 2 => try clear_value s))
    | (extract_lets +onlyGivenNames x; first | (have _p : PldSt := x; clear _p; unfold x) | skip)
    | simp only [↓kept_mk_iff]
    | exact h
    | with_reducible refine kept_ite (fun _ => ?_) (fun _ => ?_)
    | split
    | dsimp only
    | (dsimp +zetaDelta only; split)

theorem execBootBar2Post_kept {o : State} {slot : BitVec 13} {s : State} (h : Kept o s) : Keeps o (execBootBar2Post slot s) := by
  unfold execBootBar2Post
  repeat' first
    | with_reducible assumption
    | with_reducible exact rfl
    | with_reducible refine State.raise_kept ?_
    | with_reducible refine State.put_kept ?_
    | with_reducible refine keeps_next ?_
    | (extract_lets +onlyGivenNames s; refine kept_have (o := o) (x := s) ?_ (fun h => ?_); (on_goal 1 => unfold s; clear s); (on_goal 2 => try clear_value s))
    | (extract_lets +onlyGivenNames x; first | (have _p : PldSt := x; clear _p; unfold x) | skip)
    | simp only [↓kept_mk_iff]
    | with_reducible refine kept_ite (fun _ => ?_) (fun _ => ?_)
    | split
    | dsimp only
    | (dsimp +zetaDelta only; split)

theorem execBar2SlotConsumed_kept {o : State} {s : State} (h : Kept o s) : Keeps o (execBar2SlotConsumed s) := by
  unfold execBar2SlotConsumed
  repeat' first
    | with_reducible assumption
    | with_reducible exact rfl
    | with_reducible refine State.agent_kept ?_
    | with_reducible refine kept_fst (by assumption) (State.agent_kept ?_)
    | with_reducible refine State.put_kept ?_
    | with_reducible refine keeps_next ?_
    | (extract_lets +onlyGivenNames s; refine kept_have (o := o) (x := s) ?_ (fun h => ?_); (on_goal 1 => unfold s; clear s); (on_goal 2 => try clear_value s))
    | (extract_lets +onlyGivenNames x; first | (have _p : PldSt := x; clear _p; unfold x) | skip)
    | simp only [↓kept_mk_iff]
    | with_reducible refine kept_ite (fun _ => ?_) (fun _ => ?_)
    | split
    | dsimp only
    | (dsimp +zetaDelta only; split)

theorem execBar2Write_kept {o : State} {off : Nat} {bytes : List Byte} {s : State} (h : Kept o s) :
    Keeps o (execBar2Write off bytes s) := by
  unfold execBar2Write
  refine keeps_next ?_
  split
  · refine kept_of h rfl rfl fun c => ?_
    obtain ⟨c₁, c₂, c₃, c₄⟩ := (canonical_iff s).1 c
    exact (canonical_iff _).2 ⟨c₁, Memory.wf_writeList _ _ _ c₂, c₃, c₄⟩
  · exact h

theorem execSvcBootDatagram_kept {o : State} {g : Datagram} {s : State} (h : Kept o s) : Keeps o (execSvcBootDatagram g s) := by
  unfold execSvcBootDatagram
  repeat' first
    | with_reducible assumption
    | with_reducible refine State.emit_kept ?_
    | with_reducible refine State.agent_kept ?_
    | with_reducible refine kept_fst (by assumption) (State.agent_kept ?_)
    | with_reducible refine keeps_next ?_
    | (extract_lets +onlyGivenNames s; refine kept_have (o := o) (x := s) ?_ (fun h => ?_); (on_goal 1 => unfold s; clear s); (on_goal 2 => try clear_value s))
    | (extract_lets +onlyGivenNames x; first | (have _p : PldSt := x; clear _p; unfold x) | skip)
    | with_reducible refine kept_ite (fun _ => ?_) (fun _ => ?_)
    | split
    | dsimp only
    | (dsimp +zetaDelta only; split)

theorem execBootBlockFrame_kept {o : State} {unicast : Bool} {src : AtPort} {bytes : List Byte} {s : State} (h : Kept o s) : Keeps o (execBootBlockFrame unicast src bytes s) := by
  unfold execBootBlockFrame
  repeat' first
    | with_reducible assumption
    | with_reducible exact rfl
    | with_reducible refine State.unicast_kept ?_
    | with_reducible refine State.agent_kept ?_
    | with_reducible refine kept_fst (by assumption) (State.agent_kept ?_)
    | with_reducible refine keeps_next ?_
    | (extract_lets +onlyGivenNames s; refine kept_have (o := o) (x := s) ?_ (fun h => ?_); (on_goal 1 => unfold s; clear s); (on_goal 2 => try clear_value s))
    | (extract_lets +onlyGivenNames x; first | (have _p : PldSt := x; clear _p; unfold x) | skip)
    | simp only [↓kept_mk_iff]
    | with_reducible refine kept_ite (fun _ => ?_) (fun _ => ?_)
    | split
    | dsimp only
    | (dsimp +zetaDelta only; split)

theorem execBootReplyFrame_kept {o : State} {node : Nat} {offset : Nat} {status : Nat} {detail : Nat} {loadStatus : Nat} {loadId : Nat} {s : State} (h : Kept o s) : Keeps o (execBootReplyFrame node offset status detail loadStatus loadId s) := by
  unfold execBootReplyFrame
  repeat' first
    | with_reducible assumption
    | with_reducible exact rfl
    | with_reducible refine keeps_next ?_
    | (extract_lets +onlyGivenNames s; refine kept_have (o := o) (x := s) ?_ (fun h => ?_); (on_goal 1 => unfold s; clear s); (on_goal 2 => try clear_value s))
    | (extract_lets +onlyGivenNames x; first | (have _p : PldSt := x; clear _p; unfold x) | skip)
    | simp only [↓kept_mk_iff]
    | with_reducible refine kept_ite (fun _ => ?_) (fun _ => ?_)
    | split
    | dsimp only
    | (dsimp +zetaDelta only; split)

theorem State.agentKind_kept {o : State} {s : State} {kind : Nat} {path : Nat} {bs : List Byte} (h : Kept o s) : Kept o (State.agentKind s kind path bs) := by
  unfold State.agentKind
  repeat' first
    | with_reducible assumption
    | with_reducible refine State.agent_kept ?_
    | with_reducible refine kept_fst (by assumption) (State.agent_kept ?_)
    | with_reducible refine kept_ite (fun _ => ?_) (fun _ => ?_)
    | split
    | dsimp only
    | (dsimp +zetaDelta only; split)

theorem execBootHeaderBlock_kept {o : State} {path : Fin 3} {bytes : List Byte} {s : State} (h : Kept o s) : Keeps o (execBootHeaderBlock path bytes s) := by
  unfold execBootHeaderBlock
  repeat' first
    | with_reducible assumption
    | with_reducible refine State.agentKind_kept ?_
    | with_reducible refine keeps_next ?_
    | dsimp only

theorem execBootImageBlock_kept {o : State} {path : Fin 3} {bytes : List Byte} {s : State} (h : Kept o s) : Keeps o (execBootImageBlock path bytes s) := by
  unfold execBootImageBlock
  repeat' first
    | with_reducible assumption
    | with_reducible refine State.agentKind_kept ?_
    | with_reducible refine keeps_next ?_
    | dsimp only

theorem execBootStartBlock_kept {o : State} {path : Fin 3} {bytes : List Byte} {s : State} (h : Kept o s) : Keeps o (execBootStartBlock path bytes s) := by
  unfold execBootStartBlock
  repeat' first
    | with_reducible assumption
    | with_reducible refine State.agentKind_kept ?_
    | with_reducible refine keeps_next ?_
    | dsimp only

theorem execBootRestartBlock_kept {o : State} {path : Fin 3} {bytes : List Byte} {s : State} (h : Kept o s) : Keeps o (execBootRestartBlock path bytes s) := by
  unfold execBootRestartBlock
  repeat' first
    | with_reducible assumption
    | with_reducible refine State.agentKind_kept ?_
    | with_reducible refine keeps_next ?_
    | dsimp only

theorem execBootCtrlRestart_kept {o : State} {s : State} (h : Kept o s) : Keeps o (execBootCtrlRestart s) := by
  unfold execBootCtrlRestart
  repeat' first
    | with_reducible assumption
    | with_reducible exact rfl
    | with_reducible refine State.ctrlRestart_kept ?_
    | with_reducible refine keeps_next ?_
    | (extract_lets +onlyGivenNames s; refine kept_have (o := o) (x := s) ?_ (fun h => ?_); (on_goal 1 => unfold s; clear s); (on_goal 2 => try clear_value s))
    | (extract_lets +onlyGivenNames x; first | (have _p : PldSt := x; clear _p; unfold x) | skip)
    | simp only [↓kept_mk_iff]
    | with_reducible refine kept_ite (fun _ => ?_) (fun _ => ?_)
    | split
    | dsimp only
    | (dsimp +zetaDelta only; split)

theorem execBootCtrlRestartStage_kept {o : State} {s : State} (h : Kept o s) : Keeps o (execBootCtrlRestartStage s) := by
  unfold execBootCtrlRestartStage
  repeat' first
    | with_reducible assumption
    | with_reducible exact rfl
    | with_reducible refine State.ctrlRestart_kept ?_
    | with_reducible refine keeps_next ?_
    | (extract_lets +onlyGivenNames s; refine kept_have (o := o) (x := s) ?_ (fun h => ?_); (on_goal 1 => unfold s; clear s); (on_goal 2 => try clear_value s))
    | (extract_lets +onlyGivenNames x; first | (have _p : PldSt := x; clear _p; unfold x) | skip)
    | simp only [↓kept_mk_iff]
    | with_reducible refine kept_ite (fun _ => ?_) (fun _ => ?_)
    | split
    | dsimp only
    | (dsimp +zetaDelta only; split)

theorem State.verifyWarm_kept {o s : State} (h : Kept o s) : Kept o s.verifyWarm := by
  unfold State.verifyWarm
  have h₁ : Kept o ({ s with boot := { s.boot with warmCheck := false } } : State) := kept_mk h rfl
  generalize ({ s with boot := { s.boot with warmCheck := false } } : State) = s₁ at h₁
  exact kept_ite (fun _ => State.startImage_kept (kept_mk (State.put_kept h₁) rfl))
    (fun _ => State.put_kept (State.restartLoad_kept h₁))

theorem execImageVerifyDone_kept {o s : State} (h : Kept o s) : Keeps o (execImageVerifyDone s) := by
  unfold execImageVerifyDone
  refine keeps_next (kept_ite (fun _ => h) fun _ => kept_ite (fun _ => State.verifyWarm_kept h) fun _ => ?_)
  split
  · exact h
  · exact kept_ite (fun _ => State.setSessionStatus_kept (State.setSlotInfo_kept h))
      (fun _ => State.setSessionStatus_kept (State.setSessionDetail_kept h))

theorem State.readCalibration_kept {o : State} {s : State} (h : Kept o s) : Kept o (State.readCalibration s) := by
  unfold State.readCalibration
  repeat' first
    | with_reducible assumption
    | with_reducible exact rfl
    | with_reducible refine State.record_kept ?_
    | (extract_lets +onlyGivenNames s; refine kept_have (o := o) (x := s) ?_ (fun h => ?_); (on_goal 1 => unfold s; clear s); (on_goal 2 => try clear_value s))
    | (extract_lets +onlyGivenNames x; first | (have _p : PldSt := x; clear _p; unfold x) | skip)
    | simp only [↓kept_mk_iff]
    | with_reducible refine kept_ite (fun _ => ?_) (fun _ => ?_)
    | split
    | dsimp only
    | (dsimp +zetaDelta only; split)

theorem State.timeAfterReset_kept {o : State} {s : State} (h : Kept o s) : Kept o (State.timeAfterReset s) := by
  unfold State.timeAfterReset
  repeat' first
    | with_reducible assumption
    | with_reducible refine State.putLevel_kept ?_
    | with_reducible refine State.put_kept ?_
    | with_reducible refine kept_ite (fun _ => ?_) (fun _ => ?_)
    | split
    | dsimp only
    | (dsimp +zetaDelta only; split)

theorem State.trained_kept {o : State} {s : State} {sizeGiB : Nat} (h : Kept o s) : Kept o (State.trained s sizeGiB) := by
  unfold State.trained
  repeat' first
    | with_reducible assumption
    | with_reducible refine State.put_kept ?_
    | dsimp only

theorem State.unarm_kept {o : State} {s : State} (h : Kept o s) : Kept o (State.unarm s) := by
  unfold State.unarm
  repeat' first
    | with_reducible assumption
    | with_reducible exact rfl
    | with_reducible refine State.put_kept ?_
    | (extract_lets +onlyGivenNames s; refine kept_have (o := o) (x := s) ?_ (fun h => ?_); (on_goal 1 => unfold s; clear s); (on_goal 2 => try clear_value s))
    | (extract_lets +onlyGivenNames x; first | (have _p : PldSt := x; clear _p; unfold x) | skip)
    | simp only [↓kept_mk_iff]
    | dsimp only

theorem State.cancelRound_kept {o : State} {s : State} (h : Kept o s) : Kept o (State.cancelRound s) := by
  unfold State.cancelRound
  repeat' first
    | with_reducible assumption
    | with_reducible refine State.unarm_kept ?_
    | with_reducible refine State.broadcast_kept ?_
    | with_reducible refine State.put_kept ?_
    | (extract_lets +onlyGivenNames s; refine kept_have (o := o) (x := s) ?_ (fun h => ?_); (on_goal 1 => unfold s; clear s); (on_goal 2 => try clear_value s))
    | (extract_lets +onlyGivenNames x; first | (have _p : PldSt := x; clear _p; unfold x) | skip)
    | with_reducible refine kept_ite (fun _ => ?_) (fun _ => ?_)
    | split
    | dsimp only
    | (dsimp +zetaDelta only; split)

theorem State.armNode_kept {o : State} {s : State} {time : Nat} {crc : Nat} {gap : Nat} {seq : Nat} {src : Nat} (h : Kept o s) : Kept o (State.armNode s time crc gap seq src) := by
  unfold State.armNode
  repeat' first
    | with_reducible assumption
    | with_reducible exact rfl
    | with_reducible refine State.unicast_kept ?_
    | with_reducible refine State.put_kept ?_
    | (extract_lets +onlyGivenNames s; refine kept_have (o := o) (x := s) ?_ (fun h => ?_); (on_goal 1 => unfold s; clear s); (on_goal 2 => try clear_value s))
    | (extract_lets +onlyGivenNames x; first | (have _p : PldSt := x; clear _p; unfold x) | skip)
    | simp only [↓kept_mk_iff]
    | with_reducible refine kept_ite (fun _ => ?_) (fun _ => ?_)
    | split
    | dsimp only
    | (dsimp +zetaDelta only; split)

theorem State.countBad_kept {o : State} {s : State} {node : Nat} {code : Nat} (h : Kept o s) : Kept o (State.countBad s node code) := by
  unfold State.countBad
  repeat' first
    | with_reducible assumption
    | with_reducible exact rfl
    | with_reducible refine State.inc_kept ?_
    | with_reducible refine State.put_kept ?_
    | (extract_lets +onlyGivenNames s; refine kept_have (o := o) (x := s) ?_ (fun h => ?_); (on_goal 1 => unfold s; clear s); (on_goal 2 => try clear_value s))
    | (extract_lets +onlyGivenNames x; first | (have _p : PldSt := x; clear _p; unfold x) | skip)
    | simp only [↓kept_mk_iff]
    | with_reducible refine kept_ite (fun _ => ?_) (fun _ => ?_)
    | split
    | dsimp only
    | (dsimp +zetaDelta only; split)

theorem State.actReported_kept {o s : State} {node code : Nat} (h : Kept o s) : Kept o (s.actReported node code) := by
  unfold State.actReported
  refine kept_ite (fun _ => h) fun _ => kept_ite (fun _ => State.cancelRound_kept ?_) fun _ => kept_ite (fun _ => State.put_kept ?_) fun _ => ?_
  all_goals exact kept_mk (State.countBad_kept h) rfl

theorem State.startAct_kept {o : State} {s : State} {gap : Nat} (h : Kept o s) : Kept o (State.startAct s gap) := by
  unfold State.startAct
  repeat' first
    | with_reducible assumption
    | with_reducible exact rfl
    | with_reducible refine State.actReported_kept ?_
    | with_reducible refine State.broadcast_kept ?_
    | with_reducible refine State.put_kept ?_
    | (extract_lets +onlyGivenNames s; refine kept_have (o := o) (x := s) ?_ (fun h => ?_); (on_goal 1 => unfold s; clear s); (on_goal 2 => try clear_value s))
    | (extract_lets +onlyGivenNames x; first | (have _p : PldSt := x; clear _p; unfold x) | skip)
    | simp only [↓kept_mk_iff]
    | with_reducible refine kept_ite (fun _ => ?_) (fun _ => ?_)
    | split
    | dsimp only
    | (dsimp +zetaDelta only; split)

theorem execActArmCmd_kept {o : State} {val : Word} {s : State} (h : Kept o s) : Keeps o (execActArmCmd val s) := by
  unfold execActArmCmd
  repeat' first
    | with_reducible assumption
    | with_reducible exact rfl
    | with_reducible refine State.startAct_kept ?_
    | with_reducible refine State.put_kept ?_
    | with_reducible refine keeps_next ?_
    | (extract_lets +onlyGivenNames s; refine kept_have (o := o) (x := s) ?_ (fun h => ?_); (on_goal 1 => unfold s; clear s); (on_goal 2 => try clear_value s))
    | (extract_lets +onlyGivenNames x; first | (have _p : PldSt := x; clear _p; unfold x) | skip)
    | simp only [↓kept_mk_iff]
    | with_reducible refine kept_ite (fun _ => ?_) (fun _ => ?_)
    | split
    | dsimp only
    | (dsimp +zetaDelta only; split)

theorem execActCancelCmd_kept {o : State} {s : State} (h : Kept o s) : Keeps o (execActCancelCmd s) := by
  unfold execActCancelCmd
  repeat' first
    | with_reducible assumption
    | with_reducible refine State.cancelRound_kept ?_
    | with_reducible refine keeps_next ?_
    | (extract_lets +onlyGivenNames s; refine kept_have (o := o) (x := s) ?_ (fun h => ?_); (on_goal 1 => unfold s; clear s); (on_goal 2 => try clear_value s))
    | (extract_lets +onlyGivenNames x; first | (have _p : PldSt := x; clear _p; unfold x) | skip)
    | with_reducible refine kept_ite (fun _ => ?_) (fun _ => ?_)
    | split
    | dsimp only
    | (dsimp +zetaDelta only; split)

theorem execActReportDeadline_kept {o : State} {s : State} (h : Kept o s) : Keeps o (execActReportDeadline s) := by
  unfold execActReportDeadline
  repeat' first
    | with_reducible assumption
    | with_reducible refine State.cancelRound_kept ?_
    | with_reducible refine keeps_next ?_
    | (extract_lets +onlyGivenNames s; refine kept_have (o := o) (x := s) ?_ (fun h => ?_); (on_goal 1 => unfold s; clear s); (on_goal 2 => try clear_value s))
    | (extract_lets +onlyGivenNames x; first | (have _p : PldSt := x; clear _p; unfold x) | skip)
    | with_reducible refine kept_ite (fun _ => ?_) (fun _ => ?_)
    | split
    | dsimp only
    | (dsimp +zetaDelta only; split)

theorem execActRoundEnd_kept {o : State} {s : State} (h : Kept o s) : Keeps o (execActRoundEnd s) := by
  unfold execActRoundEnd
  repeat' first
    | with_reducible assumption
    | with_reducible refine State.put_kept ?_
    | with_reducible refine keeps_next ?_
    | (extract_lets +onlyGivenNames s; refine kept_have (o := o) (x := s) ?_ (fun h => ?_); (on_goal 1 => unfold s; clear s); (on_goal 2 => try clear_value s))
    | (extract_lets +onlyGivenNames x; first | (have _p : PldSt := x; clear _p; unfold x) | skip)
    | with_reducible refine kept_ite (fun _ => ?_) (fun _ => ?_)
    | split
    | dsimp only
    | (dsimp +zetaDelta only; split)

theorem State.fromPort_kept {o : State} {s : State} {p : Nat} (h : Kept o s) : Kept o (State.fromPort s p) := by
  unfold State.fromPort
  repeat' first
    | with_reducible assumption
    | with_reducible exact rfl
    | (extract_lets +onlyGivenNames s; refine kept_have (o := o) (x := s) ?_ (fun h => ?_); (on_goal 1 => unfold s; clear s); (on_goal 2 => try clear_value s))
    | (extract_lets +onlyGivenNames x; first | (have _p : PldSt := x; clear _p; unfold x) | skip)
    | simp only [↓kept_mk_iff]
    | dsimp only

theorem execActArmFrame_kept {o : State} {time : Nat} {crc : Nat} {gap : Nat} {seq : AtPort} {nodes : Nat} {s : State} (h : Kept o s) : Keeps o (execActArmFrame time crc gap seq nodes s) := by
  unfold execActArmFrame
  repeat' first
    | with_reducible assumption
    | with_reducible refine State.fromPort_kept ?_
    | with_reducible refine State.armNode_kept ?_
    | with_reducible refine keeps_next ?_
    | with_reducible refine kept_ite (fun _ => ?_) (fun _ => ?_)
    | split
    | dsimp only
    | (dsimp +zetaDelta only; split)

theorem execActCancelFrame_kept {o : State} {seq : AtPort} {s : State} (h : Kept o s) : Keeps o (execActCancelFrame seq s) := by
  unfold execActCancelFrame
  repeat' first
    | with_reducible assumption
    | with_reducible exact rfl
    | with_reducible refine State.unarm_kept ?_
    | with_reducible refine State.unicast_kept ?_
    | with_reducible refine keeps_next ?_
    | (extract_lets +onlyGivenNames s; refine kept_have (o := o) (x := s) ?_ (fun h => ?_); (on_goal 1 => unfold s; clear s); (on_goal 2 => try clear_value s))
    | (extract_lets +onlyGivenNames x; first | (have _p : PldSt := x; clear _p; unfold x) | skip)
    | simp only [↓kept_mk_iff]
    | with_reducible refine kept_ite (fun _ => ?_) (fun _ => ?_)
    | split
    | dsimp only
    | (dsimp +zetaDelta only; split)

theorem execActReportFrame_kept {o : State} {seq : Nat} {node : Nat} {code : Nat} {s : State} (h : Kept o s) : Keeps o (execActReportFrame seq node code s) := by
  unfold execActReportFrame
  repeat' first
    | with_reducible assumption
    | with_reducible exact rfl
    | with_reducible refine State.countBad_kept ?_
    | with_reducible refine State.actReported_kept ?_
    | with_reducible refine keeps_next ?_
    | (extract_lets +onlyGivenNames s; refine kept_have (o := o) (x := s) ?_ (fun h => ?_); (on_goal 1 => unfold s; clear s); (on_goal 2 => try clear_value s))
    | (extract_lets +onlyGivenNames x; first | (have _p : PldSt := x; clear _p; unfold x) | skip)
    | simp only [↓kept_mk_iff]
    | with_reducible refine kept_ite (fun _ => ?_) (fun _ => ?_)
    | split
    | dsimp only
    | (dsimp +zetaDelta only; split)

theorem execActivationTime_kept {o : State} {s : State} (h : Kept o s) : Keeps o (execActivationTime s) := by
  unfold execActivationTime
  repeat' first
    | with_reducible assumption
    | with_reducible exact rfl
    | with_reducible refine State.emit_kept ?_
    | with_reducible refine keeps_next ?_
    | (extract_lets +onlyGivenNames s; refine kept_have (o := o) (x := s) ?_ (fun h => ?_); (on_goal 1 => unfold s; clear s); (on_goal 2 => try clear_value s))
    | (extract_lets +onlyGivenNames x; first | (have _p : PldSt := x; clear _p; unfold x) | skip)
    | simp only [↓kept_mk_iff]
    | with_reducible refine kept_ite (fun _ => ?_) (fun _ => ?_)
    | split
    | dsimp only
    | (dsimp +zetaDelta only; split)

theorem State.showImage_kept {o : State} {s : State} (h : Kept o s) : Kept o (State.showImage s) := by
  unfold State.showImage
  repeat' first
    | with_reducible assumption
    | with_reducible refine State.put_kept ?_
    | (extract_lets +onlyGivenNames s; refine kept_have (o := o) (x := s) ?_ (fun h => ?_); (on_goal 1 => unfold s; clear s); (on_goal 2 => try clear_value s))
    | (extract_lets +onlyGivenNames x; first | (have _p : PldSt := x; clear _p; unfold x) | skip)
    | dsimp only

theorem execActProcessorsStopped_kept {o : State} {s : State} (h : Kept o s) : Keeps o (execActProcessorsStopped s) := by
  unfold execActProcessorsStopped
  repeat' first
    | with_reducible assumption
    | with_reducible exact rfl
    | with_reducible refine State.loadProcs_kept ?_
    | with_reducible refine State.emit_kept ?_
    | with_reducible refine State.put_kept ?_
    | with_reducible refine State.showImage_kept ?_
    | with_reducible refine keeps_next ?_
    | (extract_lets +onlyGivenNames s; refine kept_have (o := o) (x := s) ?_ (fun h => ?_); (on_goal 1 => unfold s; clear s); (on_goal 2 => try clear_value s))
    | (extract_lets +onlyGivenNames x; first | (have _p : PldSt := x; clear _p; unfold x) | skip)
    | simp only [↓kept_mk_iff]
    | with_reducible refine kept_ite (fun _ => ?_) (fun _ => ?_)
    | split
    | dsimp only
    | (dsimp +zetaDelta only; split)

theorem execActP0Running_kept {o : State} {s : State} (h : Kept o s) : Keeps o (execActP0Running s) := by
  unfold execActP0Running
  repeat' first
    | with_reducible assumption
    | with_reducible exact rfl
    | with_reducible refine State.put_kept ?_
    | with_reducible refine State.each_kept ?_ (fun s x h => ?_)
    | with_reducible refine State.loadProcs_kept ?_
    | with_reducible refine State.emit_kept ?_
    | with_reducible refine keeps_next ?_
    | (extract_lets +onlyGivenNames s; refine kept_have (o := o) (x := s) ?_ (fun h => ?_); (on_goal 1 => unfold s; clear s); (on_goal 2 => try clear_value s))
    | (extract_lets +onlyGivenNames x; first | (have _p : PldSt := x; clear _p; unfold x) | skip)
    | simp only [↓kept_mk_iff]
    | with_reducible refine kept_ite (fun _ => ?_) (fun _ => ?_)
    | split
    | dsimp only
    | (dsimp +zetaDelta only; split)

theorem execActTimerExpiry_kept {o : State} {s : State} (h : Kept o s) : Keeps o (execActTimerExpiry s) := by
  unfold execActTimerExpiry
  repeat' first
    | with_reducible assumption
    | with_reducible exact rfl
    | with_reducible refine State.put_kept ?_
    | with_reducible refine State.showImage_kept ?_
    | with_reducible refine State.record_kept ?_
    | with_reducible refine State.resetNarrow_kept ?_
    | with_reducible refine keeps_next ?_
    | (extract_lets +onlyGivenNames s; refine kept_have (o := o) (x := s) ?_ (fun h => ?_); (on_goal 1 => unfold s; clear s); (on_goal 2 => try clear_value s))
    | (extract_lets +onlyGivenNames x; first | (have _p : PldSt := x; clear _p; unfold x) | skip)
    | simp only [↓kept_mk_iff]
    | with_reducible refine kept_ite (fun _ => ?_) (fun _ => ?_)
    | split
    | dsimp only
    | (dsimp +zetaDelta only; split)

theorem execCalLoadShadow_kept {o : State} {s : State} (h : Kept o s) : Keeps o (execCalLoadShadow s) := by
  unfold execCalLoadShadow
  repeat' first
    | with_reducible assumption
    | with_reducible refine State.put_kept ?_
    | with_reducible refine State.each_kept ?_ (fun s x h => ?_)
    | with_reducible refine State.raise_kept ?_
    | with_reducible refine keeps_next ?_
    | with_reducible refine kept_ite (fun _ => ?_) (fun _ => ?_)
    | split
    | dsimp only
    | (dsimp +zetaDelta only; split)

theorem execCalCommit_kept {o : State} {s : State} (h : Kept o s) : Keeps o (execCalCommit s) := by
  unfold execCalCommit
  repeat' first
    | with_reducible assumption
    | with_reducible exact rfl
    | with_reducible refine State.put_kept ?_
    | with_reducible refine State.raise_kept ?_
    | with_reducible refine keeps_next ?_
    | (extract_lets +onlyGivenNames s; refine kept_have (o := o) (x := s) ?_ (fun h => ?_); (on_goal 1 => unfold s; clear s); (on_goal 2 => try clear_value s))
    | (extract_lets +onlyGivenNames x; first | (have _p : PldSt := x; clear _p; unfold x) | skip)
    | simp only [↓kept_mk_iff]
    | with_reducible refine kept_ite (fun _ => ?_) (fun _ => ?_)
    | split
    | dsimp only
    | (dsimp +zetaDelta only; split)

theorem execCalErase_kept {o : State} {s : State} (h : Kept o s) : Keeps o (execCalErase s) := by
  unfold execCalErase
  repeat' first
    | with_reducible assumption
    | with_reducible exact rfl
    | with_reducible refine State.put_kept ?_
    | with_reducible refine State.raise_kept ?_
    | with_reducible refine keeps_next ?_
    | (extract_lets +onlyGivenNames s; refine kept_have (o := o) (x := s) ?_ (fun h => ?_); (on_goal 1 => unfold s; clear s); (on_goal 2 => try clear_value s))
    | (extract_lets +onlyGivenNames x; first | (have _p : PldSt := x; clear _p; unfold x) | skip)
    | simp only [↓kept_mk_iff]
    | with_reducible refine kept_ite (fun _ => ?_) (fun _ => ?_)
    | split
    | dsimp only
    | (dsimp +zetaDelta only; split)

theorem execCalCommitDone_kept {o : State} {s : State} (h : Kept o s) : Keeps o (execCalCommitDone s) := by
  unfold execCalCommitDone
  repeat' first
    | with_reducible assumption
    | with_reducible exact rfl
    | with_reducible refine State.inc_kept ?_
    | with_reducible refine State.put_kept ?_
    | with_reducible refine State.each_kept ?_ (fun s x h => ?_)
    | with_reducible refine keeps_next ?_
    | (extract_lets +onlyGivenNames s; refine kept_have (o := o) (x := s) ?_ (fun h => ?_); (on_goal 1 => unfold s; clear s); (on_goal 2 => try clear_value s))
    | (extract_lets +onlyGivenNames x; first | (have _p : PldSt := x; clear _p; unfold x) | skip)
    | simp only [↓kept_mk_iff]
    | with_reducible refine kept_ite (fun _ => ?_) (fun _ => ?_)
    | split
    | dsimp only
    | (dsimp +zetaDelta only; split)

theorem execCalEraseDone_kept {o : State} {s : State} (h : Kept o s) : Keeps o (execCalEraseDone s) := by
  unfold execCalEraseDone
  repeat' first
    | with_reducible assumption
    | with_reducible exact rfl
    | with_reducible refine State.put_kept ?_
    | with_reducible refine State.draw_kept ?_
    | with_reducible refine State.each_kept ?_ (fun s x h => ?_)
    | with_reducible refine keeps_next ?_
    | (extract_lets +onlyGivenNames s; refine kept_have (o := o) (x := s) ?_ (fun h => ?_); (on_goal 1 => unfold s; clear s); (on_goal 2 => try clear_value s))
    | (extract_lets +onlyGivenNames x; first | (have _p : PldSt := x; clear _p; unfold x) | skip)
    | simp only [↓kept_mk_iff]
    | with_reducible refine kept_ite (fun _ => ?_) (fun _ => ?_)
    | split
    | dsimp only
    | (dsimp +zetaDelta only; split)

end Sys2Proof.Machine
end

