-- ==== Sys2Proof/Laws/KeptNode.lean ====
section
/-! SUPPORT. What the operations of Machine/Node.lean keep (Laws/Kept.lean). -/

set_option linter.all false

namespace Sys2Proof.Machine

theorem State.startOn_kept {o : State} {s : State} {d : Nat} (h : Kept o s) : Kept o (State.startOn s d) := by
  unfold State.startOn
  repeat' first
    | with_reducible assumption
    | with_reducible exact rfl
    | with_reducible refine State.setPhase_kept ?_
    | (extract_lets +onlyGivenNames s; refine kept_have (o := o) (x := s) ?_ (fun h => ?_); (on_goal 1 => unfold s; clear s); (on_goal 2 => try clear_value s))
    | (extract_lets +onlyGivenNames x; first | (have _p : PldSt := x; clear _p; unfold x) | skip)
    | simp only [↓kept_mk_iff]
    | split
    | dsimp only
    | (dsimp +zetaDelta only; split)

theorem State.startOff_kept {o : State} {s : State} {d : Nat} (h : Kept o s) : Kept o (State.startOff s d) := by
  unfold State.startOff
  repeat' first
    | with_reducible assumption
    | with_reducible exact rfl
    | with_reducible refine State.setPhase_kept ?_
    | (extract_lets +onlyGivenNames s; refine kept_have (o := o) (x := s) ?_ (fun h => ?_); (on_goal 1 => unfold s; clear s); (on_goal 2 => try clear_value s))
    | (extract_lets +onlyGivenNames x; first | (have _p : PldSt := x; clear _p; unfold x) | skip)
    | simp only [↓kept_mk_iff]
    | split
    | dsimp only
    | (dsimp +zetaDelta only; split)

theorem execGlbPdOnSet_kept {o : State} {_req : Requester} {val : Word} {s : State} (h : Kept o s) : Keeps o (execGlbPdOnSet _req val s) := by
  unfold execGlbPdOnSet
  repeat' first
    | with_reducible assumption
    | with_reducible refine State.startOn_kept ?_
    | with_reducible refine State.each_kept ?_ (fun s x h => ?_)
    | with_reducible refine State.orBits_kept ?_
    | with_reducible refine keeps_next ?_
    | (extract_lets +onlyGivenNames s; refine kept_have (o := o) (x := s) ?_ (fun h => ?_); (on_goal 1 => unfold s; clear s); (on_goal 2 => try clear_value s))
    | (extract_lets +onlyGivenNames x; first | (have _p : PldSt := x; clear _p; unfold x) | skip)
    | with_reducible refine kept_ite (fun _ => ?_) (fun _ => ?_)
    | split
    | dsimp only
    | (dsimp +zetaDelta only; split)

theorem execGlbPdOnClr_kept {o : State} {_req : Requester} {val : Word} {s : State} (h : Kept o s) : Keeps o (execGlbPdOnClr _req val s) := by
  unfold execGlbPdOnClr
  repeat' first
    | with_reducible assumption
    | with_reducible refine State.startOff_kept ?_
    | with_reducible refine State.each_kept ?_ (fun s x h => ?_)
    | with_reducible refine State.orBits_kept ?_
    | with_reducible refine State.dropBits_kept ?_
    | with_reducible refine keeps_next ?_
    | (extract_lets +onlyGivenNames s; refine kept_have (o := o) (x := s) ?_ (fun h => ?_); (on_goal 1 => unfold s; clear s); (on_goal 2 => try clear_value s))
    | (extract_lets +onlyGivenNames x; first | (have _p : PldSt := x; clear _p; unfold x) | skip)
    | with_reducible refine kept_ite (fun _ => ?_) (fun _ => ?_)
    | split
    | dsimp only
    | (dsimp +zetaDelta only; split)

theorem execDomainPowerUpStart_kept {o : State} {d : Fin 17} {s : State} (h : Kept o s) : Keeps o (execDomainPowerUpStart d s) := by
  unfold execDomainPowerUpStart
  repeat' first
    | with_reducible assumption
    | with_reducible refine State.setPhase_kept ?_
    | with_reducible refine keeps_next ?_
    | with_reducible refine kept_ite (fun _ => ?_) (fun _ => ?_)
    | split
    | dsimp only
    | (dsimp +zetaDelta only; split)

theorem execDomainDrainStart_kept {o : State} {d : Fin 17} {s : State} (h : Kept o s) : Keeps o (execDomainDrainStart d s) := by
  unfold execDomainDrainStart
  repeat' first
    | with_reducible assumption
    | with_reducible exact rfl
    | with_reducible refine State.setPhase_kept ?_
    | with_reducible refine State.epChange_kept ?_
    | with_reducible refine keeps_next ?_
    | (extract_lets +onlyGivenNames s; refine kept_have (o := o) (x := s) ?_ (fun h => ?_); (on_goal 1 => unfold s; clear s); (on_goal 2 => try clear_value s))
    | (extract_lets +onlyGivenNames x; first | (have _p : PldSt := x; clear _p; unfold x) | skip)
    | simp only [↓kept_mk_iff]
    | with_reducible refine kept_ite (fun _ => ?_) (fun _ => ?_)
    | split
    | dsimp only
    | (dsimp +zetaDelta only; split)

theorem execDomainDrainEnd_kept {o : State} {d : Fin 17} {s : State} (h : Kept o s) : Keeps o (execDomainDrainEnd d s) := by
  unfold execDomainDrainEnd
  repeat' first
    | with_reducible assumption
    | with_reducible exact rfl
    | with_reducible refine State.setPhase_kept ?_
    | with_reducible refine State.stopDomain_kept ?_
    | with_reducible refine State.endThreat_kept ?_
    | with_reducible refine keeps_next ?_
    | (extract_lets +onlyGivenNames s; refine kept_have (o := o) (x := s) ?_ (fun h => ?_); (on_goal 1 => unfold s; clear s); (on_goal 2 => try clear_value s))
    | (extract_lets +onlyGivenNames x; first | (have _p : PldSt := x; clear _p; unfold x) | skip)
    | simp only [↓kept_mk_iff]
    | with_reducible refine kept_ite (fun _ => ?_) (fun _ => ?_)
    | split
    | dsimp only
    | (dsimp +zetaDelta only; split)

theorem execDomainPowerOffDone_kept {o : State} {d : Fin 17} {s : State} (h : Kept o s) : Keeps o (execDomainPowerOffDone d s) := by
  unfold execDomainPowerOffDone
  repeat' first
    | with_reducible assumption
    | with_reducible exact rfl
    | with_reducible refine State.epChange_kept ?_
    | with_reducible refine State.setPhase_kept ?_
    | with_reducible refine keeps_next ?_
    | (extract_lets +onlyGivenNames s; refine kept_have (o := o) (x := s) ?_ (fun h => ?_); (on_goal 1 => unfold s; clear s); (on_goal 2 => try clear_value s))
    | (extract_lets +onlyGivenNames x; first | (have _p : PldSt := x; clear _p; unfold x) | skip)
    | simp only [↓kept_mk_iff]
    | with_reducible refine kept_ite (fun _ => ?_) (fun _ => ?_)
    | split
    | dsimp only
    | (dsimp +zetaDelta only; split)

theorem State.modeRequest_kept {o s : State} {from' : Nat} {act : State → State} (h : Kept o s)
    (ha : ∀ s, Kept o s → Kept o (act s)) : Kept o (s.modeRequest from' act) := by
  unfold State.modeRequest
  repeat' first
    | exact h
    | exact ha s h
    | with_reducible refine State.put_kept ?_
    | split

theorem execModeReqActive_kept {o : State} {s : State} (h : Kept o s) : Keeps o (execModeReqActive s) := by
  unfold execModeReqActive
  repeat' first
    | with_reducible assumption
    | with_reducible exact rfl
    | with_reducible refine State.resumeEngines_kept ?_
    | with_reducible refine State.setMode_kept ?_
    | with_reducible refine State.put_kept ?_
    | with_reducible refine State.modeRequest_kept ?_ (fun s h => ?_)
    | with_reducible refine keeps_next ?_
    | (extract_lets +onlyGivenNames s; refine kept_have (o := o) (x := s) ?_ (fun h => ?_); (on_goal 1 => unfold s; clear s); (on_goal 2 => try clear_value s))
    | (extract_lets +onlyGivenNames x; first | (have _p : PldSt := x; clear _p; unfold x) | skip)
    | simp only [↓kept_mk_iff]
    | dsimp only

theorem execModeReqService_kept {o : State} {s : State} (h : Kept o s) : Keeps o (execModeReqService s) := by
  unfold execModeReqService
  repeat' first
    | with_reducible assumption
    | with_reducible exact rfl
    | with_reducible refine State.put_kept ?_
    | with_reducible refine State.pauseWaits_kept ?_
    | with_reducible refine State.modeRequest_kept ?_ (fun s h => ?_)
    | with_reducible refine keeps_next ?_
    | (extract_lets +onlyGivenNames s; refine kept_have (o := o) (x := s) ?_ (fun h => ?_); (on_goal 1 => unfold s; clear s); (on_goal 2 => try clear_value s))
    | (extract_lets +onlyGivenNames x; first | (have _p : PldSt := x; clear _p; unfold x) | skip)
    | simp only [↓kept_mk_iff]
    | dsimp only

theorem execServiceEntryComplete_kept {o : State} {s : State} (h : Kept o s) : Keeps o (execServiceEntryComplete s) := by
  unfold execServiceEntryComplete
  repeat' first
    | with_reducible assumption
    | with_reducible exact rfl
    | with_reducible refine State.setMode_kept ?_
    | with_reducible refine State.put_kept ?_
    | with_reducible refine keeps_next ?_
    | (extract_lets +onlyGivenNames s; refine kept_have (o := o) (x := s) ?_ (fun h => ?_); (on_goal 1 => unfold s; clear s); (on_goal 2 => try clear_value s))
    | (extract_lets +onlyGivenNames x; first | (have _p : PldSt := x; clear _p; unfold x) | skip)
    | simp only [↓kept_mk_iff]
    | with_reducible refine kept_ite (fun _ => ?_) (fun _ => ?_)
    | split
    | dsimp only
    | (dsimp +zetaDelta only; split)

theorem execModeReqDormant_kept {o : State} {s : State} (h : Kept o s) : Keeps o (execModeReqDormant s) := by
  unfold execModeReqDormant
  repeat' first
    | with_reducible assumption
    | with_reducible exact rfl
    | with_reducible refine State.startOff_kept ?_
    | with_reducible refine State.each_kept ?_ (fun s x h => ?_)
    | with_reducible refine State.put_kept ?_
    | with_reducible refine State.modeRequest_kept ?_ (fun s h => ?_)
    | with_reducible refine keeps_next ?_
    | (extract_lets +onlyGivenNames s; refine kept_have (o := o) (x := s) ?_ (fun h => ?_); (on_goal 1 => unfold s; clear s); (on_goal 2 => try clear_value s))
    | (extract_lets +onlyGivenNames x; first | (have _p : PldSt := x; clear _p; unfold x) | skip)
    | simp only [↓kept_mk_iff]
    | dsimp only

theorem execModeReqNotAllowed_kept {o : State} {target : BitVec 4} {s : State} (h : Kept o s) : Keeps o (execModeReqNotAllowed target s) := by
  unfold execModeReqNotAllowed
  repeat' first
    | with_reducible assumption
    | with_reducible refine State.modeRequest_kept ?_ (fun s h => ?_)
    | with_reducible refine keeps_next ?_
    | with_reducible refine kept_ite (fun _ => ?_) (fun _ => ?_)
    | split
    | dsimp only
    | (dsimp +zetaDelta only; split)
    | exact h

theorem State.islandUnderrun_kept {o : State} {s : State} {i : Nat} (h : Kept o s) : Kept o (State.islandUnderrun s i) := by
  unfold State.islandUnderrun
  repeat' first
    | with_reducible assumption
    | with_reducible refine State.emit_kept ?_
    | with_reducible refine State.record_kept ?_
    | dsimp only

theorem execRefclkLoss_kept {o : State} {clk : Fin 3} {s : State} (h : Kept o s) : Keeps o (execRefclkLoss clk s) := by
  unfold execRefclkLoss
  repeat' first
    | with_reducible assumption
    | with_reducible exact rfl
    | with_reducible refine State.recordWith_kept ?_
    | with_reducible refine keeps_next ?_
    | (extract_lets +onlyGivenNames s; refine kept_have (o := o) (x := s) ?_ (fun h => ?_); (on_goal 1 => unfold s; clear s); (on_goal 2 => try clear_value s))
    | (extract_lets +onlyGivenNames x; first | (have _p : PldSt := x; clear _p; unfold x) | skip)
    | simp only [↓kept_mk_iff]
    | with_reducible refine kept_ite (fun _ => ?_) (fun _ => ?_)
    | split
    | dsimp only
    | (dsimp +zetaDelta only; split)

theorem execRefclkReturn_kept {o : State} {clk : Fin 3} {s : State} (h : Kept o s) : Keeps o (execRefclkReturn clk s) := by
  unfold execRefclkReturn
  repeat' first
    | with_reducible assumption
    | with_reducible exact rfl
    | with_reducible refine keeps_next ?_
    | (extract_lets +onlyGivenNames s; refine kept_have (o := o) (x := s) ?_ (fun h => ?_); (on_goal 1 => unfold s; clear s); (on_goal 2 => try clear_value s))
    | (extract_lets +onlyGivenNames x; first | (have _p : PldSt := x; clear _p; unfold x) | skip)
    | simp only [↓kept_mk_iff]
    | with_reducible refine kept_ite (fun _ => ?_) (fun _ => ?_)
    | split
    | dsimp only
    | (dsimp +zetaDelta only; split)

theorem State.paceThreat_kept {o : State} {s : State} {d : Nat} {pace : Nat} (h : Kept o s) : Kept o (State.paceThreat s d pace) := by
  unfold State.paceThreat
  repeat' first
    | with_reducible assumption
    | with_reducible exact rfl
    | with_reducible refine State.recordWith_kept ?_
    | with_reducible refine State.pendShared_kept ?_
    | with_reducible refine State.put_kept ?_
    | (extract_lets +onlyGivenNames s; refine kept_have (o := o) (x := s) ?_ (fun h => ?_); (on_goal 1 => unfold s; clear s); (on_goal 2 => try clear_value s))
    | (extract_lets +onlyGivenNames x; first | (have _p : PldSt := x; clear _p; unfold x) | skip)
    | simp only [↓kept_mk_iff]
    | with_reducible refine kept_ite (fun _ => ?_) (fun _ => ?_)
    | split
    | dsimp only
    | (dsimp +zetaDelta only; split)

theorem State.releaseThreat_kept {o : State} {s : State} {d : Nat} (h : Kept o s) : Kept o (State.releaseThreat s d) := by
  unfold State.releaseThreat
  repeat' first
    | with_reducible assumption
    | with_reducible refine State.endThreat_kept ?_
    | dsimp only

theorem execSvLockstep_kept {o : State} {s : State} (h : Kept o s) : Keeps o (execSvLockstep s) := by
  unfold execSvLockstep
  repeat' first
    | with_reducible assumption
    | with_reducible refine State.record_kept ?_
    | with_reducible refine keeps_next ?_
    | split
    | dsimp only
    | (dsimp +zetaDelta only; split)

theorem State.drivePins_kept {o : State} {s : State} (h : Kept o s) : Kept o (State.drivePins s) := by
  unfold State.drivePins
  repeat' first
    | with_reducible assumption
    | with_reducible exact rfl
    | with_reducible refine State.put_kept ?_
    | with_reducible refine State.emit_kept ?_
    | with_reducible refine State.showGroups_kept ?_
    | with_reducible refine State.showPins_kept ?_
    | (extract_lets +onlyGivenNames s; refine kept_have (o := o) (x := s) ?_ (fun h => ?_); (on_goal 1 => unfold s; clear s); (on_goal 2 => try clear_value s))
    | (extract_lets +onlyGivenNames x; first | (have _p : PldSt := x; clear _p; unfold x) | skip)
    | simp only [↓kept_mk_iff]
    | dsimp only

theorem State.releasePins_kept {o : State} {s : State} (h : Kept o s) : Kept o (State.releasePins s) := by
  unfold State.releasePins
  repeat' first
    | with_reducible assumption
    | with_reducible refine State.put_kept ?_
    | with_reducible refine State.emit_kept ?_
    | with_reducible refine State.showGroups_kept ?_
    | with_reducible refine State.showPins_kept ?_
    | dsimp only

theorem State.takePulse_kept {o : State} {s : State} (h : Kept o s) : Kept o (State.takePulse s) := by
  unfold State.takePulse
  repeat' first
    | with_reducible assumption
    | with_reducible exact rfl
    | with_reducible refine State.drivePins_kept ?_
    | with_reducible refine State.emit_kept ?_
    | (extract_lets +onlyGivenNames s; refine kept_have (o := o) (x := s) ?_ (fun h => ?_); (on_goal 1 => unfold s; clear s); (on_goal 2 => try clear_value s))
    | (extract_lets +onlyGivenNames x; first | (have _p : PldSt := x; clear _p; unfold x) | skip)
    | simp only [↓kept_mk_iff]
    | with_reducible refine kept_ite (fun _ => ?_) (fun _ => ?_)
    | split
    | dsimp only
    | (dsimp +zetaDelta only; split)

theorem execPswTake_kept {o : State} {s : State} (h : Kept o s) : Keeps o (execPswTake s) := by
  unfold execPswTake
  repeat' first
    | with_reducible assumption
    | with_reducible exact rfl
    | with_reducible refine State.takePulse_kept ?_
    | with_reducible refine keeps_next ?_
    | (extract_lets +onlyGivenNames s; refine kept_have (o := o) (x := s) ?_ (fun h => ?_); (on_goal 1 => unfold s; clear s); (on_goal 2 => try clear_value s))
    | (extract_lets +onlyGivenNames x; first | (have _p : PldSt := x; clear _p; unfold x) | skip)
    | simp only [↓kept_mk_iff]
    | with_reducible refine kept_ite (fun _ => ?_) (fun _ => ?_)
    | split
    | dsimp only
    | (dsimp +zetaDelta only; split)

theorem execPswTakePulseEnd_kept {o : State} {s : State} (h : Kept o s) : Keeps o (execPswTakePulseEnd s) := by
  unfold execPswTakePulseEnd
  repeat' first
    | with_reducible assumption
    | with_reducible exact rfl
    | with_reducible refine State.emit_kept ?_
    | with_reducible refine keeps_next ?_
    | (extract_lets +onlyGivenNames s; refine kept_have (o := o) (x := s) ?_ (fun h => ?_); (on_goal 1 => unfold s; clear s); (on_goal 2 => try clear_value s))
    | (extract_lets +onlyGivenNames x; first | (have _p : PldSt := x; clear _p; unfold x) | skip)
    | simp only [↓kept_mk_iff]
    | with_reducible refine kept_ite (fun _ => ?_) (fun _ => ?_)
    | split
    | dsimp only
    | (dsimp +zetaDelta only; split)

theorem execPswTakeTimeout_kept {o : State} {s : State} (h : Kept o s) : Keeps o (execPswTakeTimeout s) := by
  unfold execPswTakeTimeout
  repeat' first
    | with_reducible assumption
    | with_reducible exact rfl
    | with_reducible refine State.put_kept ?_
    | with_reducible refine State.record_kept ?_
    | with_reducible refine keeps_next ?_
    | (extract_lets +onlyGivenNames s; refine kept_have (o := o) (x := s) ?_ (fun h => ?_); (on_goal 1 => unfold s; clear s); (on_goal 2 => try clear_value s))
    | (extract_lets +onlyGivenNames x; first | (have _p : PldSt := x; clear _p; unfold x) | skip)
    | simp only [↓kept_mk_iff]
    | with_reducible refine kept_ite (fun _ => ?_) (fun _ => ?_)
    | split
    | dsimp only
    | (dsimp +zetaDelta only; split)

theorem State.singlePins_kept {o : State} {s : State} (h : Kept o s) : Kept o (State.singlePins s) := by
  unfold State.singlePins
  repeat' first
    | with_reducible assumption
    | with_reducible exact rfl
    | with_reducible refine State.put_kept ?_
    | with_reducible refine State.record_kept ?_
    | with_reducible refine State.releasePins_kept ?_
    | with_reducible refine State.drivePins_kept ?_
    | (extract_lets +onlyGivenNames s; refine kept_have (o := o) (x := s) ?_ (fun h => ?_); (on_goal 1 => unfold s; clear s); (on_goal 2 => try clear_value s))
    | (extract_lets +onlyGivenNames x; first | (have _p : PldSt := x; clear _p; unfold x) | skip)
    | simp only [↓kept_mk_iff]
    | with_reducible refine kept_ite (fun _ => ?_) (fun _ => ?_)
    | split
    | dsimp only
    | (dsimp +zetaDelta only; split)

theorem execSvWatchdogService_kept {o : State} {period : Option Nat} {s : State} (h : Kept o s) : Keeps o (execSvWatchdogService period s) := by
  unfold execSvWatchdogService
  repeat' first
    | with_reducible assumption
    | with_reducible exact rfl
    | with_reducible refine keeps_next ?_
    | (extract_lets +onlyGivenNames s; refine kept_have (o := o) (x := s) ?_ (fun h => ?_); (on_goal 1 => unfold s; clear s); (on_goal 2 => try clear_value s))
    | (extract_lets +onlyGivenNames x; first | (have _p : PldSt := x; clear _p; unfold x) | skip)
    | simp only [↓kept_mk_iff]
    | with_reducible refine kept_ite (fun _ => ?_) (fun _ => ?_)
    | split
    | dsimp only
    | (dsimp +zetaDelta only; split)

theorem execSvWatchdogWarning_kept {o : State} {s : State} (h : Kept o s) : Keeps o (execSvWatchdogWarning s) := by
  unfold execSvWatchdogWarning
  repeat' first
    | with_reducible assumption
    | with_reducible exact rfl
    | with_reducible refine State.pendPrivate_kept ?_
    | with_reducible refine keeps_next ?_
    | (extract_lets +onlyGivenNames s; refine kept_have (o := o) (x := s) ?_ (fun h => ?_); (on_goal 1 => unfold s; clear s); (on_goal 2 => try clear_value s))
    | (extract_lets +onlyGivenNames x; first | (have _p : PldSt := x; clear _p; unfold x) | skip)
    | simp only [↓kept_mk_iff]
    | with_reducible refine kept_ite (fun _ => ?_) (fun _ => ?_)
    | split
    | dsimp only
    | (dsimp +zetaDelta only; split)

end Sys2Proof.Machine
end

