-- ==== Sys2Proof/Laws/KeptItems.lean ====
section
/-! SUPPORT. What the operations of Machine/Items.lean keep (Laws/Kept.lean). -/

set_option linter.all false

namespace Sys2Proof.Machine

theorem State.setItems_kept {o : State} {s : State} {l' : List Item} (h : Kept o s) : Kept o (State.setItems s l') := by
  unfold State.setItems
  repeat' first
    | with_reducible assumption
    | with_reducible exact rfl
    | (extract_lets +onlyGivenNames s; refine kept_have (o := o) (x := s) ?_ (fun h => ?_); (on_goal 1 => unfold s; clear s); (on_goal 2 => try clear_value s))
    | (extract_lets +onlyGivenNames x; first | (have _p : PldSt := x; clear _p; unfold x) | skip)
    | simp only [↓kept_mk_iff]
    | dsimp only

theorem State.updItem_kept {o : State} {s : State} {sq : Nat} {num : Nat} {f : Item → Item} (h : Kept o s) : Kept o (State.updItem s sq num f) := by
  unfold State.updItem
  repeat' first
    | with_reducible assumption
    | with_reducible refine State.setItems_kept ?_
    | with_reducible refine kept_ite (fun _ => ?_) (fun _ => ?_)
    | split
    | dsimp only
    | (dsimp +zetaDelta only; split)

theorem State.showInflight_kept {o : State} {s : State} {sq : Nat} (h : Kept o s) : Kept o (State.showInflight s sq) := by
  unfold State.showInflight
  repeat' first
    | with_reducible assumption
    | with_reducible refine State.put_kept ?_
    | dsimp only

theorem State.queueRecord_kept {o : State} {s : State} {cq : Nat} {r : Record} (h : Kept o s) : Kept o (State.queueRecord s cq r) := by
  unfold State.queueRecord
  repeat' first
    | with_reducible assumption
    | with_reducible exact rfl
    | (extract_lets +onlyGivenNames s; refine kept_have (o := o) (x := s) ?_ (fun h => ?_); (on_goal 1 => unfold s; clear s); (on_goal 2 => try clear_value s))
    | (extract_lets +onlyGivenNames x; first | (have _p : PldSt := x; clear _p; unfold x) | skip)
    | simp only [↓kept_mk_iff]
    | dsimp only

theorem State.pumpRecords_kept {o : State} {s : State} {sq : Nat} (h : Kept o s) : Kept o (State.pumpRecords s sq) := by
  unfold State.pumpRecords
  repeat' first
    | with_reducible assumption
    | with_reducible exact rfl
    | with_reducible refine State.updItem_kept ?_
    | with_reducible refine State.queueRecord_kept ?_
    | (extract_lets +onlyGivenNames s; refine kept_have (o := o) (x := s) ?_ (fun h => ?_); (on_goal 1 => unfold s; clear s); (on_goal 2 => try clear_value s))
    | (extract_lets +onlyGivenNames x; first | (have _p : PldSt := x; clear _p; unfold x) | skip)
    | simp only [↓kept_mk_iff]
    | with_reducible refine kept_foldl ?_ (fun s x h => ?_)
    | with_reducible refine kept_foldl_fst ?_ (fun p x h => ?_)
    | dsimp only

theorem State.finish_kept {o : State} {s : State} {sq : Nat} {num : Nat} {status : Nat} {result : Nat} {detail : Nat} {late : Bool} (h : Kept o s) : Kept o (State.finish s sq num status result detail late) := by
  unfold State.finish
  repeat' first
    | with_reducible assumption
    | with_reducible exact rfl
    | with_reducible refine State.updItem_kept ?_
    | with_reducible refine State.inc_kept ?_
    | (extract_lets +onlyGivenNames s; refine kept_have (o := o) (x := s) ?_ (fun h => ?_); (on_goal 1 => unfold s; clear s); (on_goal 2 => try clear_value s))
    | (extract_lets +onlyGivenNames x; first | (have _p : PldSt := x; clear _p; unfold x) | skip)
    | simp only [↓kept_mk_iff]
    | with_reducible refine kept_ite (fun _ => ?_) (fun _ => ?_)
    | split
    | dsimp only
    | (dsimp +zetaDelta only; split)

theorem State.flushSq_kept {o : State} {s : State} {sq : Nat} (h : Kept o s) : Kept o (State.flushSq s sq) := by
  unfold State.flushSq
  repeat' first
    | with_reducible assumption
    | with_reducible refine State.finish_kept ?_
    | with_reducible refine kept_foldl ?_ (fun s x h => ?_)
    | dsimp only

theorem State.sqError_kept {o : State} {s : State} {sq : Nat} {status : Nat} (h : Kept o s) : Kept o (State.sqError s sq status) := by
  unfold State.sqError
  repeat' first
    | with_reducible assumption
    | with_reducible exact rfl
    | with_reducible refine State.put_kept ?_
    | with_reducible refine State.flushSq_kept ?_
    | with_reducible refine State.pumpRecords_kept ?_
    | (extract_lets +onlyGivenNames s; refine kept_have (o := o) (x := s) ?_ (fun h => ?_); (on_goal 1 => unfold s; clear s); (on_goal 2 => try clear_value s))
    | (extract_lets +onlyGivenNames x; first | (have _p : PldSt := x; clear _p; unfold x) | skip)
    | simp only [↓kept_mk_iff]
    | with_reducible refine kept_ite (fun _ => ?_) (fun _ => ?_)
    | split
    | dsimp only
    | (dsimp +zetaDelta only; split)

theorem State.settleSq_kept {o : State} {s : State} {sq : Nat} (h : Kept o s) : Kept o (State.settleSq s sq) := by
  unfold State.settleSq
  repeat' first
    | with_reducible assumption
    | with_reducible exact rfl
    | with_reducible refine State.put_kept ?_
    | (extract_lets +onlyGivenNames s; refine kept_have (o := o) (x := s) ?_ (fun h => ?_); (on_goal 1 => unfold s; clear s); (on_goal 2 => try clear_value s))
    | (extract_lets +onlyGivenNames x; first | (have _p : PldSt := x; clear _p; unfold x) | skip)
    | simp only [↓kept_mk_iff]
    | with_reducible refine kept_ite (fun _ => ?_) (fun _ => ?_)
    | split
    | dsimp only
    | (dsimp +zetaDelta only; split)

theorem State.complete_kept {o : State} {s : State} {sq : Nat} {num : Nat} {status : Nat} {result : Nat} {detail : Nat} {late : Bool} (h : Kept o s) : Kept o (State.complete s sq num status result detail late) := by
  unfold State.complete
  repeat' first
    | with_reducible assumption
    | with_reducible refine State.sqError_kept ?_
    | with_reducible refine State.finish_kept ?_
    | with_reducible refine State.pumpRecords_kept ?_
    | (extract_lets +onlyGivenNames s; refine kept_have (o := o) (x := s) ?_ (fun h => ?_); (on_goal 1 => unfold s; clear s); (on_goal 2 => try clear_value s))
    | (extract_lets +onlyGivenNames x; first | (have _p : PldSt := x; clear _p; unfold x) | skip)
    | with_reducible refine kept_ite (fun _ => ?_) (fun _ => ?_)
    | split
    | dsimp only
    | (dsimp +zetaDelta only; split)

theorem State.writeTable_kept {o : State} {s : State} {sq : Nat} (h : Kept o s) : Kept o (State.writeTable s sq) := by
  unfold State.writeTable
  repeat' first
    | with_reducible assumption
    | with_reducible exact rfl
    | with_reducible refine State.hostWrite_kept ?_
    | (extract_lets +onlyGivenNames s; refine kept_have (o := o) (x := s) ?_ (fun h => ?_); (on_goal 1 => unfold s; clear s); (on_goal 2 => try clear_value s))
    | (extract_lets +onlyGivenNames x; first | (have _p : PldSt := x; clear _p; unfold x) | skip)
    | simp only [↓kept_mk_iff]
    | with_reducible refine kept_ite (fun _ => ?_) (fun _ => ?_)
    | split
    | dsimp only
    | (dsimp +zetaDelta only; split)

theorem State.showSpool_kept {o : State} {s : State} (h : Kept o s) : Kept o (State.showSpool s) := by
  unfold State.showSpool
  repeat' first
    | with_reducible assumption
    | with_reducible exact rfl
    | with_reducible refine State.put_kept ?_
    | (extract_lets +onlyGivenNames s; refine kept_have (o := o) (x := s) ?_ (fun h => ?_); (on_goal 1 => unfold s; clear s); (on_goal 2 => try clear_value s))
    | (extract_lets +onlyGivenNames x; first | (have _p : PldSt := x; clear _p; unfold x) | skip)
    | simp only [↓kept_mk_iff]
    | with_reducible refine kept_ite (fun _ => ?_) (fun _ => ?_)
    | split
    | dsimp only
    | (dsimp +zetaDelta only; split)

theorem State.writeRecordState_kept {o : State} {s : State} {sq : Nat} {wsn : Nat} {st : Nat} (h : Kept o s) : Kept o (State.writeRecordState s sq wsn st) := by
  unfold State.writeRecordState
  repeat' first
    | with_reducible assumption
    | with_reducible exact rfl
    | with_reducible refine State.hostWrite_kept ?_
    | (extract_lets +onlyGivenNames s; refine kept_have (o := o) (x := s) ?_ (fun h => ?_); (on_goal 1 => unfold s; clear s); (on_goal 2 => try clear_value s))
    | (extract_lets +onlyGivenNames x; first | (have _p : PldSt := x; clear _p; unfold x) | skip)
    | simp only [↓kept_mk_iff]
    | split
    | dsimp only
    | (dsimp +zetaDelta only; split)

theorem State.releaseSlot_kept {o : State} {s : State} {sq : Nat} {wsn : Nat} (h : Kept o s) : Kept o (State.releaseSlot s sq wsn) := by
  unfold State.releaseSlot
  repeat' first
    | with_reducible assumption
    | with_reducible exact rfl
    | with_reducible refine State.writeTable_kept ?_
    | with_reducible refine State.showSpool_kept ?_
    | (extract_lets +onlyGivenNames s; refine kept_have (o := o) (x := s) ?_ (fun h => ?_); (on_goal 1 => unfold s; clear s); (on_goal 2 => try clear_value s))
    | (extract_lets +onlyGivenNames x; first | (have _p : PldSt := x; clear _p; unfold x) | skip)
    | simp only [↓kept_mk_iff]
    | with_reducible refine kept_ite (fun _ => ?_) (fun _ => ?_)
    | split
    | dsimp only
    | (dsimp +zetaDelta only; split)

theorem State.payFlush_kept {o : State} {s : State} (h : Kept o s) : Kept o (State.payFlush s) := by
  unfold State.payFlush
  repeat' first
    | with_reducible assumption
    | with_reducible exact rfl
    | with_reducible refine State.unicast_kept ?_
    | (extract_lets +onlyGivenNames s; refine kept_have (o := o) (x := s) ?_ (fun h => ?_); (on_goal 1 => unfold s; clear s); (on_goal 2 => try clear_value s))
    | (extract_lets +onlyGivenNames x; first | (have _p : PldSt := x; clear _p; unfold x) | skip)
    | simp only [↓kept_mk_iff]
    | with_reducible refine kept_foldl ?_ (fun s x h => ?_)
    | with_reducible refine kept_foldl_fst ?_ (fun p x h => ?_)
    | split
    | dsimp only
    | (dsimp +zetaDelta only; split)

theorem State.sendData_kept {o : State} {s : State} {i : Item} {resend : Bool} (h : Kept o s) : Kept o (State.sendData s i resend) := by
  unfold State.sendData
  repeat' first
    | with_reducible assumption
    | with_reducible refine State.unicast_kept ?_
    | with_reducible refine kept_foldl ?_ (fun s x h => ?_)
    | with_reducible refine kept_foldl_fst ?_ (fun p x h => ?_)
    | dsimp only

theorem State.sendAcks_kept {o : State} {s : State} {src : Nat} (h : Kept o s) : Kept o (State.sendAcks s src) := by
  unfold State.sendAcks
  repeat' first
    | with_reducible assumption
    | with_reducible exact rfl
    | with_reducible refine State.unicast_kept ?_
    | (extract_lets +onlyGivenNames s; refine kept_have (o := o) (x := s) ?_ (fun h => ?_); (on_goal 1 => unfold s; clear s); (on_goal 2 => try clear_value s))
    | (extract_lets +onlyGivenNames x; first | (have _p : PldSt := x; clear _p; unfold x) | skip)
    | simp only [↓kept_mk_iff]
    | with_reducible refine kept_ite (fun _ => ?_) (fun _ => ?_)
    | split
    | dsimp only
    | (dsimp +zetaDelta only; split)

theorem State.sendAck_kept {o : State} {s : State} {w : Work} {wsn : Nat} {result : Nat} {detail : Nat} (h : Kept o s) : Kept o (State.sendAck s w wsn result detail) := by
  unfold State.sendAck
  repeat' first
    | with_reducible assumption
    | with_reducible exact rfl
    | with_reducible refine State.sendAcks_kept ?_
    | (extract_lets +onlyGivenNames s; refine kept_have (o := o) (x := s) ?_ (fun h => ?_); (on_goal 1 => unfold s; clear s); (on_goal 2 => try clear_value s))
    | (extract_lets +onlyGivenNames x; first | (have _p : PldSt := x; clear _p; unfold x) | skip)
    | simp only [↓kept_mk_iff]
    | with_reducible refine kept_ite (fun _ => ?_) (fun _ => ?_)
    | split
    | dsimp only
    | (dsimp +zetaDelta only; split)

theorem State.flushAcks_kept {o : State} {s : State} (h : Kept o s) : Kept o (State.flushAcks s) := by
  unfold State.flushAcks
  repeat' first
    | with_reducible assumption
    | with_reducible exact rfl
    | with_reducible refine State.sendAcks_kept ?_
    | with_reducible refine State.each_kept ?_ (fun s x h => ?_)
    | (extract_lets +onlyGivenNames s; refine kept_have (o := o) (x := s) ?_ (fun h => ?_); (on_goal 1 => unfold s; clear s); (on_goal 2 => try clear_value s))
    | (extract_lets +onlyGivenNames x; first | (have _p : PldSt := x; clear _p; unfold x) | skip)
    | simp only [↓kept_mk_iff]
    | dsimp only

theorem State.mirrorEntry_kept {o : State} {s : State} {k' : Nat} {state : Nat} {gen : Nat} {last : Nat} {pend : Nat} (h : Kept o s) : Kept o (State.mirrorEntry s k' state gen last pend) := by
  unfold State.mirrorEntry
  repeat' first
    | with_reducible assumption
    | with_reducible refine State.emit_kept ?_
    | with_reducible refine kept_ite (fun _ => ?_) (fun _ => ?_)
    | split
    | dsimp only
    | (dsimp +zetaDelta only; split)

theorem State.putLedger_kept {o : State} {s : State} {k' : Nat} {e : LedgerEntry} (h : Kept o s) : Kept o (State.putLedger s k' e) := by
  unfold State.putLedger
  repeat' first
    | with_reducible assumption
    | with_reducible exact rfl
    | with_reducible refine State.put_kept ?_
    | with_reducible refine State.mirrorEntry_kept ?_
    | (extract_lets +onlyGivenNames s; refine kept_have (o := o) (x := s) ?_ (fun h => ?_); (on_goal 1 => unfold s; clear s); (on_goal 2 => try clear_value s))
    | (extract_lets +onlyGivenNames x; first | (have _p : PldSt := x; clear _p; unfold x) | skip)
    | simp only [↓kept_mk_iff]
    | with_reducible refine kept_ite (fun _ => ?_) (fun _ => ?_)
    | split
    | dsimp only
    | (dsimp +zetaDelta only; split)

theorem State.dropLedger_kept {o : State} {s : State} {k' : Nat} (h : Kept o s) : Kept o (State.dropLedger s k') := by
  unfold State.dropLedger
  repeat' first
    | with_reducible assumption
    | with_reducible exact rfl
    | with_reducible refine State.put_kept ?_
    | with_reducible refine State.mirrorEntry_kept ?_
    | (extract_lets +onlyGivenNames s; refine kept_have (o := o) (x := s) ?_ (fun h => ?_); (on_goal 1 => unfold s; clear s); (on_goal 2 => try clear_value s))
    | (extract_lets +onlyGivenNames x; first | (have _p : PldSt := x; clear _p; unfold x) | skip)
    | simp only [↓kept_mk_iff]
    | dsimp only

theorem State.ledgerRoom_kept {o s t : State} (h : Kept o s) (e : s.ledgerRoom = some t) : Kept o t := by
  unfold State.ledgerRoom at e
  split at e
  · cases e; exact h
  · split at e
    · cases e; exact State.dropLedger_kept h
    · cases e

theorem State.ledgerRoom_getD_kept {o s : State} (h : Kept o s) : Kept o (s.ledgerRoom.getD s) := by
  cases e : s.ledgerRoom with
  | none => exact h
  | some t => exact State.ledgerRoom_kept h e

theorem State.markHead_kept {o : State} {s : State} {ep : Nat} (h : Kept o s) : Kept o (State.markHead s ep) := by
  unfold State.markHead
  repeat' first
    | with_reducible assumption
    | with_reducible exact rfl
    | (extract_lets +onlyGivenNames s; refine kept_have (o := o) (x := s) ?_ (fun h => ?_); (on_goal 1 => unfold s; clear s); (on_goal 2 => try clear_value s))
    | (extract_lets +onlyGivenNames x; first | (have _p : PldSt := x; clear _p; unfold x) | skip)
    | simp only [↓kept_mk_iff]
    | with_reducible refine kept_ite (fun _ => ?_) (fun _ => ?_)
    | split
    | dsimp only
    | (dsimp +zetaDelta only; split)

theorem State.addWork_kept {o : State} {s : State} {w : Work} (h : Kept o s) : Kept o (State.addWork s w) := by
  unfold State.addWork
  repeat' first
    | with_reducible assumption
    | with_reducible exact rfl
    | with_reducible refine State.markHead_kept ?_
    | (extract_lets +onlyGivenNames s; refine kept_have (o := o) (x := s) ?_ (fun h => ?_); (on_goal 1 => unfold s; clear s); (on_goal 2 => try clear_value s))
    | (extract_lets +onlyGivenNames x; first | (have _p : PldSt := x; clear _p; unfold x) | skip)
    | simp only [↓kept_mk_iff]
    | dsimp only

theorem State.dropWork_kept {o : State} {s : State} {w : Work} (h : Kept o s) : Kept o (State.dropWork s w) := by
  unfold State.dropWork
  repeat' first
    | with_reducible assumption
    | with_reducible exact rfl
    | with_reducible refine State.markHead_kept ?_
    | (extract_lets +onlyGivenNames s; refine kept_have (o := o) (x := s) ?_ (fun h => ?_); (on_goal 1 => unfold s; clear s); (on_goal 2 => try clear_value s))
    | (extract_lets +onlyGivenNames x; first | (have _p : PldSt := x; clear _p; unfold x) | skip)
    | simp only [↓kept_mk_iff]
    | dsimp only

theorem State.updWork_kept {o : State} {s : State} {w : Work} {f : Work → Work} (h : Kept o s) : Kept o (State.updWork s w f) := by
  unfold State.updWork
  repeat' first
    | with_reducible assumption
    | with_reducible exact rfl
    | (extract_lets +onlyGivenNames s; refine kept_have (o := o) (x := s) ?_ (fun h => ?_); (on_goal 1 => unfold s; clear s); (on_goal 2 => try clear_value s))
    | (extract_lets +onlyGivenNames x; first | (have _p : PldSt := x; clear _p; unfold x) | skip)
    | simp only [↓kept_mk_iff]
    | with_reducible refine kept_ite (fun _ => ?_) (fun _ => ?_)
    | split
    | dsimp only
    | (dsimp +zetaDelta only; split)

theorem State.takeWork_kept {o : State} {s : State} {w : Work} (h : Kept o s) : Kept o (State.takeWork s w) := by
  unfold State.takeWork
  repeat' first
    | with_reducible assumption
    | with_reducible exact rfl
    | with_reducible refine State.updWork_kept ?_
    | (extract_lets +onlyGivenNames s; refine kept_have (o := o) (x := s) ?_ (fun h => ?_); (on_goal 1 => unfold s; clear s); (on_goal 2 => try clear_value s))
    | (extract_lets +onlyGivenNames x; first | (have _p : PldSt := x; clear _p; unfold x) | skip)
    | simp only [↓kept_mk_iff]
    | dsimp only

theorem State.retireRaw_kept {o : State} {s : State} {sq : Nat} {wsn : Nat} {status : Nat} {result : Nat} {detail : Nat} {late : Bool} (h : Kept o s) : Kept o (State.retireRaw s sq wsn status result detail late) := by
  unfold State.retireRaw
  repeat' first
    | with_reducible assumption
    | with_reducible exact rfl
    | with_reducible refine State.complete_kept ?_
    | with_reducible refine State.payFlush_kept ?_
    | with_reducible refine State.inc_kept ?_
    | (extract_lets +onlyGivenNames s; refine kept_have (o := o) (x := s) ?_ (fun h => ?_); (on_goal 1 => unfold s; clear s); (on_goal 2 => try clear_value s))
    | (extract_lets +onlyGivenNames x; first | (have _p : PldSt := x; clear _p; unfold x) | skip)
    | simp only [↓kept_mk_iff]
    | with_reducible refine kept_ite (fun _ => ?_) (fun _ => ?_)
    | split
    | dsimp only
    | (dsimp +zetaDelta only; split)

theorem State.answerRaw_kept {o : State} {s : State} {w : Work} {result : Nat} {bytes : Nat} {detail : Nat} (h : Kept o s) : Kept o (State.answerRaw s w result bytes detail) := by
  unfold State.answerRaw
  repeat' first
    | with_reducible assumption
    | with_reducible exact rfl
    | with_reducible refine State.sendAck_kept ?_
    | with_reducible refine State.retireRaw_kept ?_
    | with_reducible refine State.inc_kept ?_
    | with_reducible refine State.dropWork_kept ?_
    | (extract_lets +onlyGivenNames s; refine kept_have (o := o) (x := s) ?_ (fun h => ?_); (on_goal 1 => unfold s; clear s); (on_goal 2 => try clear_value s))
    | (extract_lets +onlyGivenNames x; first | (have _p : PldSt := x; clear _p; unfold x) | skip)
    | simp only [↓kept_mk_iff]
    | with_reducible refine kept_ite (fun _ => ?_) (fun _ => ?_)
    | split
    | dsimp only
    | (dsimp +zetaDelta only; split)

theorem State.startEmission_kept {o : State} {s : State} {w : Work} (h : Kept o s) : Kept o (State.startEmission s w) := by
  unfold State.startEmission
  repeat' first
    | with_reducible assumption
    | with_reducible exact rfl
    | with_reducible refine State.putLedger_kept ?_
    | with_reducible refine State.updWork_kept ?_
    | with_reducible refine State.inc_kept ?_
    | (extract_lets +onlyGivenNames s; refine kept_have (o := o) (x := s) ?_ (fun h => ?_); (on_goal 1 => unfold s; clear s); (on_goal 2 => try clear_value s))
    | (extract_lets +onlyGivenNames x; first | (have _p : PldSt := x; clear _p; unfold x) | skip)
    | simp only [↓kept_mk_iff]
    | with_reducible refine kept_ite (fun _ => ?_) (fun _ => ?_)
    | split
    | dsimp only
    | (dsimp +zetaDelta only; split)

theorem State.settleGets_kept {o : State} {s : State} {src : Nat} {t : Tag} (h : Kept o s) : Kept o (State.settleGets s src t) := by
  unfold State.settleGets
  repeat' first
    | with_reducible assumption
    | with_reducible exact rfl
    | (extract_lets +onlyGivenNames s; refine kept_have (o := o) (x := s) ?_ (fun h => ?_); (on_goal 1 => unfold s; clear s); (on_goal 2 => try clear_value s))
    | (extract_lets +onlyGivenNames x; first | (have _p : PldSt := x; clear _p; unfold x) | skip)
    | simp only [↓kept_mk_iff]
    | with_reducible refine kept_ite (fun _ => ?_) (fun _ => ?_)
    | split
    | dsimp only
    | (dsimp +zetaDelta only; split)

theorem State.sendBridgeReply_kept {o : State} {s : State} {w : Work} {result : Nat} {detail : Nat} {bytes : List Byte} (h : Kept o s) : Kept o (State.sendBridgeReply s w result detail bytes) := by
  unfold State.sendBridgeReply
  repeat' first
    | with_reducible assumption
    | with_reducible refine State.sendAck_kept ?_
    | with_reducible refine State.unicast_kept ?_
    | with_reducible refine kept_foldl ?_ (fun s x h => ?_)
    | with_reducible refine kept_foldl_fst ?_ (fun p x h => ?_)
    | with_reducible refine kept_ite (fun _ => ?_) (fun _ => ?_)
    | split
    | dsimp only
    | (dsimp +zetaDelta only; split)

theorem State.answerDup_kept {o : State} {s : State} {w : Work} (h : Kept o s) : Kept o (State.answerDup s w) := by
  unfold State.answerDup
  repeat' first
    | with_reducible assumption
    | with_reducible exact rfl
    | with_reducible refine State.sendBridgeReply_kept ?_
    | with_reducible refine State.answerRaw_kept ?_
    | with_reducible refine State.hostWrite_kept ?_
    | (extract_lets +onlyGivenNames s; refine kept_have (o := o) (x := s) ?_ (fun h => ?_); (on_goal 1 => unfold s; clear s); (on_goal 2 => try clear_value s))
    | (extract_lets +onlyGivenNames x; first | (have _p : PldSt := x; clear _p; unfold x) | skip)
    | simp only [↓kept_mk_iff]
    | with_reducible refine kept_ite (fun _ => ?_) (fun _ => ?_)
    | split
    | dsimp only
    | (dsimp +zetaDelta only; split)

theorem State.evictGap_kept {o : State} {s : State} {k' : Nat} (h : Kept o s) : Kept o (State.evictGap s k') := by
  unfold State.evictGap
  repeat' first
    | with_reducible assumption
    | with_reducible exact rfl
    | with_reducible refine State.dropLedger_kept ?_
    | (extract_lets +onlyGivenNames s; refine kept_have (o := o) (x := s) ?_ (fun h => ?_); (on_goal 1 => unfold s; clear s); (on_goal 2 => try clear_value s))
    | (extract_lets +onlyGivenNames x; first | (have _p : PldSt := x; clear _p; unfold x) | skip)
    | simp only [↓kept_mk_iff]
    | with_reducible refine kept_ite (fun _ => ?_) (fun _ => ?_)
    | split
    | dsimp only
    | (dsimp +zetaDelta only; split)

theorem State.takeVerdict_kept {o s : State} {w : Work} {t : Tag} {v : Verdict} (h : Kept o s) : Kept o (s.takeVerdict w t v) := by
  unfold State.takeVerdict
  split
  · exact h
  · exact State.addWork_kept h
  · exact State.addWork_kept (State.putLedger_kept (kept_ite (fun _ => h) (fun _ => State.ledgerRoom_getD_kept h)))
  · exact State.answerDup_kept (State.inc_kept h)
  · exact State.evictGap_kept (kept_ite (fun _ => State.inc_kept h) (fun _ => State.sendAck_kept (State.inc_kept h)))
  · exact kept_ite (fun _ => State.record_kept (State.inc_kept h)) (fun _ => State.sendAck_kept (State.record_kept (State.inc_kept h)))

theorem State.noteTag_kept {o : State} {s : State} {w : Work} {t : Tag} (h : Kept o s) : Kept o (State.noteTag s w t) := by
  unfold State.noteTag
  repeat' first
    | with_reducible assumption
    | with_reducible exact rfl
    | with_reducible refine State.settleGets_kept ?_
    | (extract_lets +onlyGivenNames s; refine kept_have (o := o) (x := s) ?_ (fun h => ?_); (on_goal 1 => unfold s; clear s); (on_goal 2 => try clear_value s))
    | (extract_lets +onlyGivenNames x; first | (have _p : PldSt := x; clear _p; unfold x) | skip)
    | simp only [↓kept_mk_iff]
    | with_reducible refine kept_ite (fun _ => ?_) (fun _ => ?_)
    | split
    | dsimp only
    | (dsimp +zetaDelta only; split)

theorem State.arrive_kept {o : State} {s : State} {w : Work} {t : Tag} (h : Kept o s) : Kept o (State.arrive s w t) := by
  unfold State.arrive
  repeat' first
    | with_reducible assumption
    | with_reducible exact rfl
    | with_reducible refine State.takeVerdict_kept ?_
    | with_reducible refine State.addWork_kept ?_
    | with_reducible refine State.updWork_kept ?_
    | with_reducible refine State.answerRaw_kept ?_
    | with_reducible refine State.noteTag_kept ?_
    | (extract_lets +onlyGivenNames s; refine kept_have (o := o) (x := s) ?_ (fun h => ?_); (on_goal 1 => unfold s; clear s); (on_goal 2 => try clear_value s))
    | (extract_lets +onlyGivenNames x; first | (have _p : PldSt := x; clear _p; unfold x) | skip)
    | simp only [↓kept_mk_iff]
    | with_reducible refine kept_ite (fun _ => ?_) (fun _ => ?_)
    | split
    | dsimp only
    | (dsimp +zetaDelta only; split)

theorem State.refill_kept {o : State} {s : State} {i : Item} {last : Nat} (h : Kept o s) : Kept o (State.refill s i last) := by
  unfold State.refill
  repeat' first
    | with_reducible assumption
    | with_reducible exact rfl
    | with_reducible refine State.arrive_kept ?_
    | (extract_lets +onlyGivenNames s; refine kept_have (o := o) (x := s) ?_ (fun h => ?_); (on_goal 1 => unfold s; clear s); (on_goal 2 => try clear_value s))
    | (extract_lets +onlyGivenNames x; first | (have _p : PldSt := x; clear _p; unfold x) | skip)
    | simp only [↓kept_mk_iff]
    | with_reducible refine kept_foldl ?_ (fun s x h => ?_)
    | with_reducible refine kept_foldl_fst ?_ (fun p x h => ?_)
    | dsimp only

theorem State.forward_kept {o : State} {s : State} {i : Item} {resend : Bool} (h : Kept o s) : Kept o (State.forward s i resend) := by
  unfold State.forward
  repeat' first
    | with_reducible assumption
    | with_reducible exact rfl
    | with_reducible refine State.sendData_kept ?_
    | with_reducible refine State.arrive_kept ?_
    | with_reducible refine State.refill_kept ?_
    | with_reducible refine State.updItem_kept ?_
    | with_reducible refine State.inc_kept ?_
    | (extract_lets +onlyGivenNames s; refine kept_have (o := o) (x := s) ?_ (fun h => ?_); (on_goal 1 => unfold s; clear s); (on_goal 2 => try clear_value s))
    | (extract_lets +onlyGivenNames x; first | (have _p : PldSt := x; clear _p; unfold x) | skip)
    | simp only [↓kept_mk_iff]
    | with_reducible refine kept_ite (fun _ => ?_) (fun _ => ?_)
    | split
    | dsimp only
    | (dsimp +zetaDelta only; split)

theorem State.pumpForward_kept {o : State} {a0 : Nat} {a1 : State} {a2 : Nat} (h : Kept o a1) : Kept o (State.pumpForward a0 a1 a2) := by
  induction a0 generalizing a1 a2 with
  | zero =>
    unfold State.pumpForward
    repeat' first
      | with_reducible assumption
      | with_reducible exact rfl
      | with_reducible refine State.forward_kept ?_
      | (extract_lets +onlyGivenNames s; refine kept_have (o := o) (x := s) ?_ (fun h => ?_); (on_goal 1 => unfold s; clear s); (on_goal 2 => try clear_value s))
      | (extract_lets +onlyGivenNames x; first | (have _p : PldSt := x; clear _p; unfold x) | skip)
      | simp only [↓kept_mk_iff]
      | split
      | dsimp only
      | (dsimp +zetaDelta only; split)
  | succ k ih =>
    unfold State.pumpForward
    repeat' first
      | with_reducible apply ih
      | with_reducible assumption
      | with_reducible exact rfl
      | with_reducible refine State.forward_kept ?_
      | (extract_lets +onlyGivenNames s; refine kept_have (o := o) (x := s) ?_ (fun h => ?_); (on_goal 1 => unfold s; clear s); (on_goal 2 => try clear_value s))
      | (extract_lets +onlyGivenNames x; first | (have _p : PldSt := x; clear _p; unfold x) | skip)
      | simp only [↓kept_mk_iff]
      | split
      | dsimp only
      | (dsimp +zetaDelta only; split)

theorem State.pump_kept {o : State} {s : State} {sq : Nat} (h : Kept o s) : Kept o (State.pump s sq) := by
  unfold State.pump
  repeat' first
    | with_reducible assumption
    | with_reducible refine State.pumpForward_kept ?_
    | dsimp only

theorem State.kick_kept {o : State} {s : State} (h : Kept o s) : Kept o (State.kick s) := by
  unfold State.kick
  repeat' first
    | with_reducible assumption
    | with_reducible refine State.pump_kept ?_
    | with_reducible refine kept_foldl ?_ (fun s x h => ?_)
    | dsimp only

theorem State.retire_kept {o : State} {s : State} {sq : Nat} {wsn : Nat} {status : Nat} {result : Nat} {detail : Nat} {late : Bool} (h : Kept o s) : Kept o (State.retire s sq wsn status result detail late) := by
  unfold State.retire
  repeat' first
    | with_reducible assumption
    | with_reducible refine State.retireRaw_kept ?_
    | with_reducible refine State.kick_kept ?_
    | dsimp only

theorem State.answer_kept {o : State} {s : State} {w : Work} {result : Nat} {bytes : Nat} {detail : Nat} (h : Kept o s) : Kept o (State.answer s w result bytes detail) := by
  unfold State.answer
  repeat' first
    | with_reducible assumption
    | with_reducible exact rfl
    | with_reducible refine State.answerRaw_kept ?_
    | with_reducible refine State.kick_kept ?_
    | (extract_lets +onlyGivenNames s; refine kept_have (o := o) (x := s) ?_ (fun h => ?_); (on_goal 1 => unfold s; clear s); (on_goal 2 => try clear_value s))
    | (extract_lets +onlyGivenNames x; first | (have _p : PldSt := x; clear _p; unfold x) | skip)
    | simp only [↓kept_mk_iff]
    | dsimp only

theorem State.bumpTwin_kept {o : State} {s : State} {kind : Nat} (h : Kept o s) : Kept o (State.bumpTwin s kind) := by
  unfold State.bumpTwin
  repeat' first
    | with_reducible assumption
    | with_reducible exact rfl
    | (extract_lets +onlyGivenNames s; refine kept_have (o := o) (x := s) ?_ (fun h => ?_); (on_goal 1 => unfold s; clear s); (on_goal 2 => try clear_value s))
    | (extract_lets +onlyGivenNames x; first | (have _p : PldSt := x; clear _p; unfold x) | skip)
    | simp only [↓kept_mk_iff]
    | dsimp only

theorem State.journalInput_kept {o : State} {s : State} {body : JournalBody} (h : Kept o s) : Kept o (State.journalInput s body) := by
  unfold State.journalInput
  repeat' first
    | with_reducible assumption
    | with_reducible exact rfl
    | with_reducible refine State.sendOn_kept ?_
    | with_reducible refine State.bumpTwin_kept ?_
    | (extract_lets +onlyGivenNames s; refine kept_have (o := o) (x := s) ?_ (fun h => ?_); (on_goal 1 => unfold s; clear s); (on_goal 2 => try clear_value s))
    | (extract_lets +onlyGivenNames x; first | (have _p : PldSt := x; clear _p; unfold x) | skip)
    | simp only [↓kept_mk_iff]
    | with_reducible refine kept_ite (fun _ => ?_) (fun _ => ?_)
    | split
    | dsimp only
    | (dsimp +zetaDelta only; split)

theorem State.commitLedger_kept {o : State} {s : State} {w : Work} (h : Kept o s) : Kept o (State.commitLedger s w) := by
  unfold State.commitLedger
  repeat' first
    | with_reducible assumption
    | with_reducible exact rfl
    | with_reducible refine State.putLedger_kept ?_
    | (extract_lets +onlyGivenNames s; refine kept_have (o := o) (x := s) ?_ (fun h => ?_); (on_goal 1 => unfold s; clear s); (on_goal 2 => try clear_value s))
    | (extract_lets +onlyGivenNames x; first | (have _p : PldSt := x; clear _p; unfold x) | skip)
    | simp only [↓kept_mk_iff]
    | with_reducible refine kept_ite (fun _ => ?_) (fun _ => ?_)
    | split
    | dsimp only
    | (dsimp +zetaDelta only; split)

theorem State.commit_kept {o : State} {s : State} {w : Work} {bytes : Nat} {detail : Nat} (h : Kept o s) : Kept o (State.commit s w bytes detail) := by
  unfold State.commit
  repeat' first
    | with_reducible assumption
    | with_reducible refine State.answer_kept ?_
    | with_reducible refine State.commitLedger_kept ?_
    | with_reducible refine State.journalInput_kept ?_
    | (extract_lets +onlyGivenNames s; refine kept_have (o := o) (x := s) ?_ (fun h => ?_); (on_goal 1 => unfold s; clear s); (on_goal 2 => try clear_value s))
    | (extract_lets +onlyGivenNames x; first | (have _p : PldSt := x; clear _p; unfold x) | skip)
    | with_reducible refine kept_ite (fun _ => ?_) (fun _ => ?_)
    | split
    | dsimp only
    | (dsimp +zetaDelta only; split)

theorem State.returnData_kept {o : State} {s : State} {w : Work} {bytes : List Byte} {detail : Nat} (h : Kept o s) : Kept o (State.returnData s w bytes detail) := by
  unfold State.returnData
  repeat' first
    | with_reducible assumption
    | with_reducible exact rfl
    | with_reducible refine State.dropWork_kept ?_
    | with_reducible refine State.kick_kept ?_
    | with_reducible refine State.unicast_kept ?_
    | with_reducible refine State.answer_kept ?_
    | with_reducible refine State.hostWrite_kept ?_
    | (extract_lets +onlyGivenNames s; refine kept_have (o := o) (x := s) ?_ (fun h => ?_); (on_goal 1 => unfold s; clear s); (on_goal 2 => try clear_value s))
    | (extract_lets +onlyGivenNames x; first | (have _p : PldSt := x; clear _p; unfold x) | skip)
    | simp only [↓kept_mk_iff]
    | with_reducible refine kept_foldl ?_ (fun s x h => ?_)
    | with_reducible refine kept_foldl_fst ?_ (fun p x h => ?_)
    | with_reducible refine kept_ite (fun _ => ?_) (fun _ => ?_)
    | split
    | dsimp only
    | (dsimp +zetaDelta only; split)

theorem State.tearWork_kept {o : State} {s : State} {w : Work} (h : Kept o s) : Kept o (State.tearWork s w) := by
  unfold State.tearWork
  repeat' first
    | with_reducible assumption
    | with_reducible exact rfl
    | with_reducible refine State.updWork_kept ?_
    | with_reducible refine State.dropWork_kept ?_
    | (extract_lets +onlyGivenNames s; refine kept_have (o := o) (x := s) ?_ (fun h => ?_); (on_goal 1 => unfold s; clear s); (on_goal 2 => try clear_value s))
    | (extract_lets +onlyGivenNames x; first | (have _p : PldSt := x; clear _p; unfold x) | skip)
    | simp only [↓kept_mk_iff]
    | with_reducible refine kept_ite (fun _ => ?_) (fun _ => ?_)
    | split
    | dsimp only
    | (dsimp +zetaDelta only; split)

theorem State.failWork_kept {o : State} {s : State} {w : Work} {result : Nat} {bytes : Nat} {detail : Nat} (h : Kept o s) : Kept o (State.failWork s w result bytes detail) := by
  unfold State.failWork
  repeat' first
    | with_reducible assumption
    | with_reducible exact rfl
    | with_reducible refine State.commitLedger_kept ?_
    | with_reducible refine State.answer_kept ?_
    | (extract_lets +onlyGivenNames s; refine kept_have (o := o) (x := s) ?_ (fun h => ?_); (on_goal 1 => unfold s; clear s); (on_goal 2 => try clear_value s))
    | (extract_lets +onlyGivenNames x; first | (have _p : PldSt := x; clear _p; unfold x) | skip)
    | simp only [↓kept_mk_iff]
    | dsimp only

theorem State.addRaw_kept {o : State} {s : State} {who : Nat} {ep : Nat} {cls : Nat} {data : List Byte} (h : Kept o s) : Kept o (State.addRaw s who ep cls data) := by
  unfold State.addRaw
  repeat' first
    | with_reducible assumption
    | with_reducible exact rfl
    | with_reducible refine State.addWork_kept ?_
    | (extract_lets +onlyGivenNames s; refine kept_have (o := o) (x := s) ?_ (fun h => ?_); (on_goal 1 => unfold s; clear s); (on_goal 2 => try clear_value s))
    | (extract_lets +onlyGivenNames x; first | (have _p : PldSt := x; clear _p; unfold x) | skip)
    | simp only [↓kept_mk_iff]
    | dsimp only

theorem State.payFails_kept {o : State} {s : State} (h : Kept o s) : Kept o (State.payFails s) := by
  unfold State.payFails
  repeat' first
    | with_reducible assumption
    | with_reducible exact rfl
    | with_reducible refine State.failWork_kept ?_
    | with_reducible refine State.commit_kept ?_
    | (extract_lets +onlyGivenNames s; refine kept_have (o := o) (x := s) ?_ (fun h => ?_); (on_goal 1 => unfold s; clear s); (on_goal 2 => try clear_value s))
    | (extract_lets +onlyGivenNames x; first | (have _p : PldSt := x; clear _p; unfold x) | skip)
    | simp only [↓kept_mk_iff]
    | with_reducible refine kept_foldl ?_ (fun s x h => ?_)
    | with_reducible refine kept_foldl_fst ?_ (fun p x h => ?_)
    | split
    | dsimp only
    | (dsimp +zetaDelta only; split)

theorem State.redirectWork_kept {o : State} {s : State} {w : Work} (h : Kept o s) : Kept o (State.redirectWork s w) := by
  unfold State.redirectWork
  repeat' first
    | with_reducible assumption
    | with_reducible exact rfl
    | with_reducible refine State.answer_kept ?_
    | (extract_lets +onlyGivenNames s; refine kept_have (o := o) (x := s) ?_ (fun h => ?_); (on_goal 1 => unfold s; clear s); (on_goal 2 => try clear_value s))
    | (extract_lets +onlyGivenNames x; first | (have _p : PldSt := x; clear _p; unfold x) | skip)
    | simp only [↓kept_mk_iff]
    | dsimp only

theorem State.commitInternal_kept {o : State} {s : State} {w : Work} {bytes : Nat} (h : Kept o s) : Kept o (State.commitInternal s w bytes) := by
  unfold State.commitInternal
  repeat' first
    | with_reducible assumption
    | with_reducible exact rfl
    | with_reducible refine State.commit_kept ?_
    | with_reducible refine State.updWork_kept ?_
    | with_reducible refine State.sendOn_kept ?_
    | with_reducible refine State.bumpTwin_kept ?_
    | (extract_lets +onlyGivenNames s; refine kept_have (o := o) (x := s) ?_ (fun h => ?_); (on_goal 1 => unfold s; clear s); (on_goal 2 => try clear_value s))
    | (extract_lets +onlyGivenNames x; first | (have _p : PldSt := x; clear _p; unfold x) | skip)
    | simp only [↓kept_mk_iff]
    | with_reducible refine kept_ite (fun _ => ?_) (fun _ => ?_)
    | split
    | dsimp only
    | (dsimp +zetaDelta only; split)

theorem State.resend_kept {o : State} {s : State} {i : Item} (h : Kept o s) : Kept o (State.resend s i) := by
  unfold State.resend
  repeat' first
    | with_reducible assumption
    | with_reducible exact rfl
    | with_reducible refine State.forward_kept ?_
    | (extract_lets +onlyGivenNames s; refine kept_have (o := o) (x := s) ?_ (fun h => ?_); (on_goal 1 => unfold s; clear s); (on_goal 2 => try clear_value s))
    | (extract_lets +onlyGivenNames x; first | (have _p : PldSt := x; clear _p; unfold x) | skip)
    | simp only [↓kept_mk_iff]
    | with_reducible refine kept_ite (fun _ => ?_) (fun _ => ?_)
    | split
    | dsimp only
    | (dsimp +zetaDelta only; split)

theorem State.resendTo_kept {o : State} {s : State} {node : Nat} {p : Item → Bool} (h : Kept o s) : Kept o (State.resendTo s node p) := by
  unfold State.resendTo
  repeat' first
    | with_reducible assumption
    | with_reducible refine State.resend_kept ?_
    | with_reducible refine kept_foldl ?_ (fun s x h => ?_)
    | with_reducible refine kept_foldl_fst ?_ (fun p x h => ?_)
    | dsimp only

theorem State.resendOwn_kept {o : State} {s : State} {ep : Nat} (h : Kept o s) : Kept o (State.resendOwn s ep) := by
  unfold State.resendOwn
  repeat' first
    | with_reducible assumption
    | with_reducible refine State.resend_kept ?_
    | with_reducible refine kept_foldl ?_ (fun s x h => ?_)
    | dsimp only

theorem State.indeterminate_kept {o : State} {s : State} {i : Item} {detail : Nat} (h : Kept o s) : Kept o (State.indeterminate s i detail) := by
  unfold State.indeterminate
  repeat' first
    | with_reducible assumption
    | with_reducible exact rfl
    | with_reducible refine State.retire_kept ?_
    | (extract_lets +onlyGivenNames s; refine kept_have (o := o) (x := s) ?_ (fun h => ?_); (on_goal 1 => unfold s; clear s); (on_goal 2 => try clear_value s))
    | (extract_lets +onlyGivenNames x; first | (have _p : PldSt := x; clear _p; unfold x) | skip)
    | simp only [↓kept_mk_iff]
    | dsimp only

theorem State.reportIndet_kept {o : State} {s : State} {sq : Nat} {first : Nat} {last : Nat} (h : Kept o s) : Kept o (State.reportIndet s sq first last) := by
  unfold State.reportIndet
  repeat' first
    | with_reducible assumption
    | with_reducible refine State.recordWith_kept ?_
    | dsimp only

theorem State.indetAll_kept {o : State} {s : State} {l' : List Item} {detail : Nat} (h : Kept o s) : Kept o (State.indetAll s l' detail) := by
  unfold State.indetAll
  repeat' first
    | with_reducible assumption
    | with_reducible exact rfl
    | with_reducible refine State.reportIndet_kept ?_
    | with_reducible refine State.indeterminate_kept ?_
    | (extract_lets +onlyGivenNames s; refine kept_have (o := o) (x := s) ?_ (fun h => ?_); (on_goal 1 => unfold s; clear s); (on_goal 2 => try clear_value s))
    | (extract_lets +onlyGivenNames x; first | (have _p : PldSt := x; clear _p; unfold x) | skip)
    | simp only [↓kept_mk_iff]
    | with_reducible refine kept_foldl ?_ (fun s x h => ?_)
    | with_reducible refine kept_foldl_fst ?_ (fun p x h => ?_)
    | dsimp only

end Sys2Proof.Machine
end

