-- ==== Sys2Proof/Laws/KeptLinks.lean ====
section
/-! SUPPORT. What the operations of Machine/Links.lean keep (Laws/Kept.lean). -/

set_option linter.all false

namespace Sys2Proof.Machine

theorem State.setFlap_kept {o : State} {s : State} {ep : Nat} {f : Option Flap} (h : Kept o s) : Kept o (State.setFlap s ep f) := by
  unfold State.setFlap
  repeat' first
    | with_reducible assumption
    | with_reducible exact rfl
    | (extract_lets +onlyGivenNames s; refine kept_have (o := o) (x := s) ?_ (fun h => ?_); (on_goal 1 => unfold s; clear s); (on_goal 2 => try clear_value s))
    | (extract_lets +onlyGivenNames x; first | (have _p : PldSt := x; clear _p; unfold x) | skip)
    | simp only [↓kept_mk_iff]
    | split
    | dsimp only
    | (dsimp +zetaDelta only; split)

theorem State.showLink_kept {o : State} {s : State} {ep : Nat} {st : Nat} (h : Kept o s) : Kept o (State.showLink s ep st) := by
  unfold State.showLink
  repeat' first
    | with_reducible assumption
    | with_reducible exact rfl
    | with_reducible refine State.put_kept ?_
    | with_reducible refine State.pendPrivate_kept ?_
    | (extract_lets +onlyGivenNames s; refine kept_have (o := o) (x := s) ?_ (fun h => ?_); (on_goal 1 => unfold s; clear s); (on_goal 2 => try clear_value s))
    | (extract_lets +onlyGivenNames x; first | (have _p : PldSt := x; clear _p; unfold x) | skip)
    | simp only [↓kept_mk_iff]
    | with_reducible refine kept_ite (fun _ => ?_) (fun _ => ?_)
    | split
    | dsimp only
    | (dsimp +zetaDelta only; split)

theorem State.epLinkLost_kept {o : State} {s : State} {ep : Nat} (h : Kept o s) : Kept o (State.epLinkLost s ep) := by
  unfold State.epLinkLost
  repeat' first
    | with_reducible assumption
    | with_reducible exact rfl
    | with_reducible refine State.setFlap_kept ?_
    | with_reducible refine State.showLink_kept ?_
    | (extract_lets +onlyGivenNames s; refine kept_have (o := o) (x := s) ?_ (fun h => ?_); (on_goal 1 => unfold s; clear s); (on_goal 2 => try clear_value s))
    | (extract_lets +onlyGivenNames x; first | (have _p : PldSt := x; clear _p; unfold x) | skip)
    | simp only [↓kept_mk_iff]
    | split
    | dsimp only
    | (dsimp +zetaDelta only; split)

theorem State.epLinkReturn_kept {o : State} {s : State} {ep : Nat} (h : Kept o s) : Kept o (State.epLinkReturn s ep) := by
  unfold State.epLinkReturn
  repeat' first
    | with_reducible assumption
    | with_reducible exact rfl
    | with_reducible refine State.setFlap_kept ?_
    | (extract_lets +onlyGivenNames s; refine kept_have (o := o) (x := s) ?_ (fun h => ?_); (on_goal 1 => unfold s; clear s); (on_goal 2 => try clear_value s))
    | (extract_lets +onlyGivenNames x; first | (have _p : PldSt := x; clear _p; unfold x) | skip)
    | simp only [↓kept_mk_iff]
    | with_reducible refine kept_ite (fun _ => ?_) (fun _ => ?_)
    | split
    | dsimp only
    | (dsimp +zetaDelta only; split)

theorem State.epLinkStable_kept {o : State} {s : State} {ep : Nat} (h : Kept o s) : Kept o (State.epLinkStable s ep) := by
  unfold State.epLinkStable
  repeat' first
    | with_reducible assumption
    | with_reducible exact rfl
    | with_reducible refine State.setFlap_kept ?_
    | with_reducible refine State.showLink_kept ?_
    | (extract_lets +onlyGivenNames s; refine kept_have (o := o) (x := s) ?_ (fun h => ?_); (on_goal 1 => unfold s; clear s); (on_goal 2 => try clear_value s))
    | (extract_lets +onlyGivenNames x; first | (have _p : PldSt := x; clear _p; unfold x) | skip)
    | simp only [↓kept_mk_iff]
    | split
    | dsimp only
    | (dsimp +zetaDelta only; split)

theorem State.epHoldExpiry_kept {o : State} {s : State} {ep : Nat} (h : Kept o s) : Kept o (State.epHoldExpiry s ep) := by
  unfold State.epHoldExpiry
  repeat' first
    | with_reducible assumption
    | with_reducible exact rfl
    | with_reducible refine State.redirectWork_kept ?_
    | with_reducible refine State.setFlap_kept ?_
    | with_reducible refine State.showLink_kept ?_
    | (extract_lets +onlyGivenNames s; refine kept_have (o := o) (x := s) ?_ (fun h => ?_); (on_goal 1 => unfold s; clear s); (on_goal 2 => try clear_value s))
    | (extract_lets +onlyGivenNames x; first | (have _p : PldSt := x; clear _p; unfold x) | skip)
    | simp only [↓kept_mk_iff]
    | with_reducible refine kept_foldl ?_ (fun s x h => ?_)
    | split
    | dsimp only
    | (dsimp +zetaDelta only; split)

end Sys2Proof.Machine
end

