-- ==== Sys2Proof/Laws/KeptPools.lean ====
section
/-! SUPPORT. What the operations of Machine/Pools.lean keep (Laws/Kept.lean). -/

set_option linter.all false

namespace Sys2Proof.Machine

theorem State.showPools_kept {o : State} {s : State} (h : Kept o s) : Kept o (State.showPools s) := by
  unfold State.showPools
  repeat' first
    | with_reducible assumption
    | with_reducible exact rfl
    | with_reducible refine State.each_kept ?_ (fun s x h => ?_)
    | with_reducible refine State.put_kept ?_
    | (extract_lets +onlyGivenNames s; refine kept_have (o := o) (x := s) ?_ (fun h => ?_); (on_goal 1 => unfold s; clear s); (on_goal 2 => try clear_value s))
    | (extract_lets +onlyGivenNames x; first | (have _p : PldSt := x; clear _p; unfold x) | skip)
    | simp only [↓kept_mk_iff]
    | with_reducible refine kept_foldl ?_ (fun s x h => ?_)
    | with_reducible refine kept_ite (fun _ => ?_) (fun _ => ?_)
    | split
    | dsimp only
    | (dsimp +zetaDelta only; split)

end Sys2Proof.Machine
end

