-- ==== Sys2Proof/Laws/KeptPolder.lean ====
section
/-! SUPPORT. What the operations of Machine/Polder.lean keep (Laws/Kept.lean). -/

set_option linter.all false

namespace Sys2Proof.Machine

theorem Memory.wf_cells (bytes : List Byte) (cells : List (Nat × Nat)) (m : List Host.Cell) (h : Memory.wf m = true) :
    Memory.wf (cells.foldl (fun m (c, i) => Memory.writeList m (256 * c) ((bytes.drop (256 * i)).take 256)) m) = true := by
  induction cells generalizing m with
  | nil => exact h
  | cons c cells ih => exact ih _ (Memory.wf_writeList _ _ _ h)

theorem State.setEth_kept {o : State} {s : State} {n : Nat} {x : EthSt} (h : Kept o s) : Kept o (State.setEth s n x) := by
  unfold State.setEth
  repeat' first
    | with_reducible assumption
    | with_reducible exact rfl
    | (extract_lets +onlyGivenNames s; refine kept_have (o := o) (x := s) ?_ (fun h => ?_); (on_goal 1 => unfold s; clear s); (on_goal 2 => try clear_value s))
    | (extract_lets +onlyGivenNames x; first | (have _p : PldSt := x; clear _p; unfold x) | skip)
    | simp only [↓kept_mk_iff]
    | dsimp only

theorem State.sendPause_kept {o : State} {s : State} {n : Nat} {quanta : Nat} (h : Kept o s) : Kept o (State.sendPause s n quanta) := by
  unfold State.sendPause
  repeat' first
    | with_reducible assumption
    | with_reducible exact rfl
    | with_reducible refine State.inc_kept ?_
    | with_reducible refine State.emit_kept ?_
    | (extract_lets +onlyGivenNames s; refine kept_have (o := o) (x := s) ?_ (fun h => ?_); (on_goal 1 => unfold s; clear s); (on_goal 2 => try clear_value s))
    | (extract_lets +onlyGivenNames x; first | (have _p : PldSt := x; clear _p; unfold x) | skip)
    | simp only [↓kept_mk_iff]
    | with_reducible refine kept_ite (fun _ => ?_) (fun _ => ?_)
    | split
    | dsimp only
    | (dsimp +zetaDelta only; split)

theorem State.pauseUpdate_kept {o : State} {s : State} {n : Nat} (h : Kept o s) : Kept o (State.pauseUpdate s n) := by
  unfold State.pauseUpdate
  repeat' first
    | with_reducible assumption
    | with_reducible exact rfl
    | with_reducible refine State.setEth_kept ?_
    | with_reducible refine State.sendPause_kept ?_
    | (extract_lets +onlyGivenNames s; refine kept_have (o := o) (x := s) ?_ (fun h => ?_); (on_goal 1 => unfold s; clear s); (on_goal 2 => try clear_value s))
    | (extract_lets +onlyGivenNames x; first | (have _p : PldSt := x; clear _p; unfold x) | skip)
    | simp only [↓kept_mk_iff]
    | with_reducible refine kept_ite (fun _ => ?_) (fun _ => ?_)
    | split
    | dsimp only
    | (dsimp +zetaDelta only; split)

theorem State.pauseAll_kept {o : State} {s : State} (h : Kept o s) : Kept o (State.pauseAll s) := by
  unfold State.pauseAll
  repeat' first
    | with_reducible assumption
    | with_reducible refine State.pauseUpdate_kept ?_
    | with_reducible refine State.each_kept ?_ (fun s x h => ?_)
    | dsimp only

theorem State.spill_kept {o : State} {s : State} {n : Nat} {cnt : Field} (h : Kept o s) : Kept o (State.spill s n cnt) := by
  unfold State.spill
  repeat' first
    | with_reducible assumption
    | with_reducible refine State.inc_kept ?_
    | dsimp only

theorem State.holdInput_kept {o : State} {s : State} {n : Nat} {outs : List Nat} (h : Kept o s) : Kept o (State.holdInput s n outs) := by
  unfold State.holdInput
  repeat' first
    | with_reducible assumption
    | with_reducible exact rfl
    | with_reducible refine State.put_kept ?_
    | (extract_lets +onlyGivenNames s; refine kept_have (o := o) (x := s) ?_ (fun h => ?_); (on_goal 1 => unfold s; clear s); (on_goal 2 => try clear_value s))
    | (extract_lets +onlyGivenNames x; first | (have _p : PldSt := x; clear _p; unfold x) | skip)
    | simp only [↓kept_mk_iff]
    | dsimp only

theorem State.fillCells_kept {o s : State} {bytes : List Byte} (h : Kept o s) : Kept o (s.fillCells bytes).1 := by
  refine kept_of h rfl rfl fun c => ?_
  obtain ⟨c₁, c₂, c₃, c₄⟩ := (canonical_iff s).1 c
  exact (canonical_iff _).2 ⟨c₁, c₂, Memory.wf_cells _ _ _ c₃, c₄⟩

theorem State.linkCells_kept {o : State} {s : State} {cells : List Nat} {n : Nat} {outs : List Nat} {k' : Nat} {tagged : Bool} {bytes : List Byte} {res : Nat} {vis : Option VisOutput} (h : Kept o s) : Kept o (State.linkCells s cells n outs k' tagged bytes res vis) := by
  unfold State.linkCells
  repeat' first
    | with_reducible assumption
    | with_reducible exact rfl
    | with_reducible refine State.pauseUpdate_kept ?_
    | with_reducible refine State.inc_kept ?_
    | with_reducible refine State.showPools_kept ?_
    | (extract_lets +onlyGivenNames s; refine kept_have (o := o) (x := s) ?_ (fun h => ?_); (on_goal 1 => unfold s; clear s); (on_goal 2 => try clear_value s))
    | (extract_lets +onlyGivenNames x; first | (have _p : PldSt := x; clear _p; unfold x) | skip)
    | simp only [↓kept_mk_iff]
    | with_reducible refine kept_ite (fun _ => ?_) (fun _ => ?_)
    | split
    | dsimp only
    | (dsimp +zetaDelta only; split)

theorem State.linkFrame_kept {o : State} {s : State} {n : Nat} {outs : List Nat} {k' : Nat} {tagged : Bool} {bytes : List Byte} {res : Nat} {vis : Option VisOutput} (h : Kept o s) : Kept o (State.linkFrame s n outs k' tagged bytes res vis) := by
  unfold State.linkFrame
  repeat' first
    | with_reducible assumption
    | with_reducible refine State.fillCells_kept ?_
    | with_reducible refine kept_fst (by assumption) (State.fillCells_kept ?_)
    | with_reducible refine State.linkCells_kept ?_
    | dsimp only

theorem State.frameIn_kept {o : State} {s : State} {n : Nat} {outs : List Nat} {k' : Nat} {tagged : Bool} {ok : Bool} {bytes : List Byte} (h : Kept o s) : Kept o (State.frameIn s n outs k' tagged ok bytes) := by
  unfold State.frameIn
  repeat' first
    | with_reducible assumption
    | with_reducible refine State.linkFrame_kept ?_
    | with_reducible refine State.fillCells_kept ?_
    | with_reducible refine kept_fst (by assumption) (State.fillCells_kept ?_)
    | with_reducible refine State.holdInput_kept ?_
    | with_reducible refine State.spill_kept ?_
    | with_reducible refine State.inc_kept ?_
    | (extract_lets +onlyGivenNames s; refine kept_have (o := o) (x := s) ?_ (fun h => ?_); (on_goal 1 => unfold s; clear s); (on_goal 2 => try clear_value s))
    | (extract_lets +onlyGivenNames x; first | (have _p : PldSt := x; clear _p; unfold x) | skip)
    | with_reducible refine kept_ite (fun _ => ?_) (fun _ => ?_)
    | split
    | dsimp only
    | (dsimp +zetaDelta only; split)

theorem State.returnCredits_kept {o : State} {s : State} {f : PFrame} (h : Kept o s) : Kept o (State.returnCredits s f) := by
  unfold State.returnCredits
  repeat' first
    | with_reducible assumption
    | with_reducible exact rfl
    | (extract_lets +onlyGivenNames s; refine kept_have (o := o) (x := s) ?_ (fun h => ?_); (on_goal 1 => unfold s; clear s); (on_goal 2 => try clear_value s))
    | (extract_lets +onlyGivenNames x; first | (have _p : PldSt := x; clear _p; unfold x) | skip)
    | simp only [↓kept_mk_iff]
    | with_reducible refine kept_ite (fun _ => ?_) (fun _ => ?_)
    | split
    | dsimp only
    | (dsimp +zetaDelta only; split)

theorem State.unpromote_kept {o : State} {s : State} {o' : Nat} {f : PFrame} (h : Kept o s) : Kept o (State.unpromote s o' f) := by
  unfold State.unpromote
  repeat' first
    | with_reducible assumption
    | with_reducible exact rfl
    | (extract_lets +onlyGivenNames s; refine kept_have (o := o) (x := s) ?_ (fun h => ?_); (on_goal 1 => unfold s; clear s); (on_goal 2 => try clear_value s))
    | (extract_lets +onlyGivenNames x; first | (have _p : PldSt := x; clear _p; unfold x) | skip)
    | simp only [↓kept_mk_iff]
    | with_reducible refine kept_ite (fun _ => ?_) (fun _ => ?_)
    | split
    | dsimp only
    | (dsimp +zetaDelta only; split)

theorem State.loseVis_kept {o : State} {s : State} {o' : VisOutput} (h : Kept o s) : Kept o (State.loseVis s o') := by
  unfold State.loseVis
  repeat' first
    | with_reducible assumption
    | with_reducible exact rfl
    | with_reducible refine State.inc_kept ?_
    | (extract_lets +onlyGivenNames s; refine kept_have (o := o) (x := s) ?_ (fun h => ?_); (on_goal 1 => unfold s; clear s); (on_goal 2 => try clear_value s))
    | (extract_lets +onlyGivenNames x; first | (have _p : PldSt := x; clear _p; unfold x) | skip)
    | simp only [↓kept_mk_iff]
    | with_reducible refine kept_ite (fun _ => ?_) (fun _ => ?_)
    | split
    | dsimp only
    | (dsimp +zetaDelta only; split)

theorem State.loseFrame_kept {o : State} {s : State} {f : PFrame} (h : Kept o s) : Kept o (State.loseFrame s f) := by
  unfold State.loseFrame
  repeat' first
    | with_reducible assumption
    | with_reducible exact rfl
    | with_reducible refine State.loseVis_kept ?_
    | (extract_lets +onlyGivenNames s; refine kept_have (o := o) (x := s) ?_ (fun h => ?_); (on_goal 1 => unfold s; clear s); (on_goal 2 => try clear_value s))
    | (extract_lets +onlyGivenNames x; first | (have _p : PldSt := x; clear _p; unfold x) | skip)
    | simp only [↓kept_mk_iff]
    | split
    | dsimp only
    | (dsimp +zetaDelta only; split)

theorem State.dropCopy_kept {o : State} {s : State} {num : Nat} {o' : Nat} {emitted : Bool} (h : Kept o s) : Kept o (State.dropCopy s num o' emitted) := by
  unfold State.dropCopy
  repeat' first
    | with_reducible assumption
    | with_reducible exact rfl
    | with_reducible refine State.showPools_kept ?_
    | with_reducible refine State.pauseUpdate_kept ?_
    | with_reducible refine State.loseFrame_kept ?_
    | with_reducible refine State.spill_kept ?_
    | with_reducible refine State.incSat_kept ?_
    | with_reducible refine State.returnCredits_kept ?_
    | with_reducible refine State.unpromote_kept ?_
    | (extract_lets +onlyGivenNames s; refine kept_have (o := o) (x := s) ?_ (fun h => ?_); (on_goal 1 => unfold s; clear s); (on_goal 2 => try clear_value s))
    | (extract_lets +onlyGivenNames x; first | (have _p : PldSt := x; clear _p; unfold x) | skip)
    | simp only [↓kept_mk_iff]
    | with_reducible refine kept_ite (fun _ => ?_) (fun _ => ?_)
    | split
    | dsimp only
    | (dsimp +zetaDelta only; split)

theorem State.flushReady_kept {o : State} {s : State} (h : Kept o s) : Kept o (State.flushReady s) := by
  unfold State.flushReady
  repeat' first
    | with_reducible assumption
    | with_reducible exact rfl
    | with_reducible refine State.dropCopy_kept ?_
    | (extract_lets +onlyGivenNames s; refine kept_have (o := o) (x := s) ?_ (fun h => ?_); (on_goal 1 => unfold s; clear s); (on_goal 2 => try clear_value s))
    | (extract_lets +onlyGivenNames x; first | (have _p : PldSt := x; clear _p; unfold x) | skip)
    | simp only [↓kept_mk_iff]
    | with_reducible refine kept_foldl ?_ (fun s x h => ?_)
    | with_reducible refine kept_foldl_fst ?_ (fun p x h => ?_)
    | split
    | dsimp only
    | (dsimp +zetaDelta only; split)

theorem execPldFlush_kept {o : State} {val : Word} {s : State} (h : Kept o s) : Keeps o (execPldFlush val s) := by
  unfold execPldFlush
  repeat' first
    | with_reducible assumption
    | with_reducible exact rfl
    | with_reducible refine State.flushReady_kept ?_
    | with_reducible refine State.put_kept ?_
    | with_reducible refine State.raise_kept ?_
    | with_reducible refine keeps_next ?_
    | (extract_lets +onlyGivenNames s; refine kept_have (o := o) (x := s) ?_ (fun h => ?_); (on_goal 1 => unfold s; clear s); (on_goal 2 => try clear_value s))
    | (extract_lets +onlyGivenNames x; first | (have _p : PldSt := x; clear _p; unfold x) | skip)
    | simp only [↓kept_mk_iff]
    | with_reducible refine kept_ite (fun _ => ?_) (fun _ => ?_)
    | split
    | dsimp only
    | (dsimp +zetaDelta only; split)

theorem execPldFlushDone_kept {o : State} {s : State} (h : Kept o s) : Keeps o (execPldFlushDone s) := by
  unfold execPldFlushDone
  repeat' first
    | with_reducible assumption
    | with_reducible refine State.put_kept ?_
    | with_reducible refine keeps_next ?_
    | with_reducible refine kept_ite (fun _ => ?_) (fun _ => ?_)
    | split
    | dsimp only
    | (dsimp +zetaDelta only; split)

theorem State.frameEccU_kept {o : State} {s : State} {num : Nat} (h : Kept o s) : Kept o (State.frameEccU s num) := by
  unfold State.frameEccU
  repeat' first
    | with_reducible assumption
    | with_reducible exact rfl
    | with_reducible refine State.returnCredits_kept ?_
    | with_reducible refine State.showPools_kept ?_
    | with_reducible refine State.flushReady_kept ?_
    | with_reducible refine State.unpromote_kept ?_
    | with_reducible refine State.emit_kept ?_
    | with_reducible refine State.loseFrame_kept ?_
    | with_reducible refine State.inc_kept ?_
    | with_reducible refine State.raise_kept ?_
    | (extract_lets +onlyGivenNames s; refine kept_have (o := o) (x := s) ?_ (fun h => ?_); (on_goal 1 => unfold s; clear s); (on_goal 2 => try clear_value s))
    | (extract_lets +onlyGivenNames x; first | (have _p : PldSt := x; clear _p; unfold x) | skip)
    | simp only [↓kept_mk_iff]
    | with_reducible refine kept_foldl ?_ (fun s x h => ?_)
    | with_reducible refine kept_foldl_fst ?_ (fun p x h => ?_)
    | with_reducible refine kept_ite (fun _ => ?_) (fun _ => ?_)
    | split
    | dsimp only
    | (dsimp +zetaDelta only; split)

end Sys2Proof.Machine
end

