-- ==== Sys2Proof/Laws/KeptRing.lean ====
section
/-! SUPPORT. What the operations of Machine/Ring.lean keep (Laws/Kept.lean). -/

set_option linter.all false

namespace Sys2Proof.Machine

theorem Memory.wf_turn (frames : List PFrame) (m : List Host.Cell) (h : Memory.wf m = true) :
    Memory.wf (frames.foldl (fun m f => (f.cells.zipIdx).foldl (fun m (c, i) =>
      Memory.writeList m (256 * c) (((turnFrame f.bytes).drop (256 * i)).take 256)) m) m) = true := by
  induction frames generalizing m with
  | nil => exact h
  | cons f frames ih => exact ih _ (Memory.wf_cells _ _ _ h)

theorem State.setPort_kept {o : State} {s : State} {p : Nat} {st : Nat} (h : Kept o s) : Kept o (State.setPort s p st) := by
  unfold State.setPort
  repeat' first
    | with_reducible assumption
    | with_reducible refine State.pendShared_kept ?_
    | with_reducible refine State.put_kept ?_
    | (extract_lets +onlyGivenNames s; refine kept_have (o := o) (x := s) ?_ (fun h => ?_); (on_goal 1 => unfold s; clear s); (on_goal 2 => try clear_value s))
    | (extract_lets +onlyGivenNames x; first | (have _p : PldSt := x; clear _p; unfold x) | skip)
    | with_reducible refine kept_ite (fun _ => ?_) (fun _ => ?_)
    | split
    | dsimp only
    | (dsimp +zetaDelta only; split)

theorem State.grant_kept {o : State} {s : State} {p : Nat} {k' : Nat} {n : Nat} (h : Kept o s) : Kept o (State.grant s p k' n) := by
  unfold State.grant
  repeat' first
    | with_reducible assumption
    | with_reducible exact rfl
    | with_reducible refine State.emit_kept ?_
    | (extract_lets +onlyGivenNames s; refine kept_have (o := o) (x := s) ?_ (fun h => ?_); (on_goal 1 => unfold s; clear s); (on_goal 2 => try clear_value s))
    | (extract_lets +onlyGivenNames x; first | (have _p : PldSt := x; clear _p; unfold x) | skip)
    | simp only [↓kept_mk_iff]
    | dsimp only

theorem State.advertise_kept {o : State} {s : State} {p : Nat} (h : Kept o s) : Kept o (State.advertise s p) := by
  unfold State.advertise
  repeat' first
    | with_reducible assumption
    | with_reducible exact rfl
    | with_reducible refine State.grant_kept ?_
    | with_reducible refine State.each_kept ?_ (fun s x h => ?_)
    | (extract_lets +onlyGivenNames s; refine kept_have (o := o) (x := s) ?_ (fun h => ?_); (on_goal 1 => unfold s; clear s); (on_goal 2 => try clear_value s))
    | (extract_lets +onlyGivenNames x; first | (have _p : PldSt := x; clear _p; unfold x) | skip)
    | simp only [↓kept_mk_iff]
    | with_reducible refine kept_ite (fun _ => ?_) (fun _ => ?_)
    | split
    | dsimp only
    | (dsimp +zetaDelta only; split)

theorem State.sendTransit_kept {o : State} {s : State} {out : Nat} {cls : Nat} {bs : List Byte} (h : Kept o s) : Kept o (State.sendTransit s out cls bs) := by
  unfold State.sendTransit
  repeat' first
    | with_reducible assumption
    | with_reducible exact rfl
    | with_reducible refine State.inc_kept ?_
    | with_reducible refine State.emit_kept ?_
    | (extract_lets +onlyGivenNames s; refine kept_have (o := o) (x := s) ?_ (fun h => ?_); (on_goal 1 => unfold s; clear s); (on_goal 2 => try clear_value s))
    | (extract_lets +onlyGivenNames x; first | (have _p : PldSt := x; clear _p; unfold x) | skip)
    | simp only [↓kept_mk_iff]
    | with_reducible refine kept_ite (fun _ => ?_) (fun _ => ?_)
    | split
    | dsimp only
    | (dsimp +zetaDelta only; split)

theorem State.passOn_kept {o : State} {s : State} {p : Nat} {src : Nat} {seq : Nat} {hops : Nat} {dst : Nat} {wrapped : Bool} {body : KBody} (h : Kept o s) : Kept o (State.passOn s p src seq hops dst wrapped body) := by
  unfold State.passOn
  repeat' first
    | with_reducible assumption
    | with_reducible exact rfl
    | with_reducible refine State.sendTransit_kept ?_
    | with_reducible refine State.inc_kept ?_
    | (extract_lets +onlyGivenNames s; refine kept_have (o := o) (x := s) ?_ (fun h => ?_); (on_goal 1 => unfold s; clear s); (on_goal 2 => try clear_value s))
    | (extract_lets +onlyGivenNames x; first | (have _p : PldSt := x; clear _p; unfold x) | skip)
    | simp only [↓kept_mk_iff]
    | with_reducible refine kept_ite (fun _ => ?_) (fun _ => ?_)
    | split
    | dsimp only
    | (dsimp +zetaDelta only; split)

theorem State.sendHeld_kept {o : State} {s : State} {h' : HeldFrame} (h : Kept o s) : Kept o (State.sendHeld s h') := by
  unfold State.sendHeld
  repeat' first
    | with_reducible assumption
    | with_reducible refine State.sendOn_kept ?_
    | (extract_lets +onlyGivenNames s; refine kept_have (o := o) (x := s) ?_ (fun h => ?_); (on_goal 1 => unfold s; clear s); (on_goal 2 => try clear_value s))
    | (extract_lets +onlyGivenNames x; first | (have _p : PldSt := x; clear _p; unfold x) | skip)
    | with_reducible refine kept_ite (fun _ => ?_) (fun _ => ?_)
    | split
    | dsimp only
    | (dsimp +zetaDelta only; split)

theorem State.releaseHeld_kept {o : State} {s : State} (h : Kept o s) : Kept o (State.releaseHeld s) := by
  unfold State.releaseHeld
  repeat' first
    | with_reducible assumption
    | with_reducible exact rfl
    | with_reducible refine State.sendHeld_kept ?_
    | with_reducible refine State.kick_kept ?_
    | with_reducible refine State.sendTransit_kept ?_
    | (extract_lets +onlyGivenNames s; refine kept_have (o := o) (x := s) ?_ (fun h => ?_); (on_goal 1 => unfold s; clear s); (on_goal 2 => try clear_value s))
    | (extract_lets +onlyGivenNames x; first | (have _p : PldSt := x; clear _p; unfold x) | skip)
    | simp only [↓kept_mk_iff]
    | with_reducible refine kept_foldl ?_ (fun s x h => ?_)
    | with_reducible refine kept_foldl_fst ?_ (fun p x h => ?_)
    | dsimp only

theorem State.wrapOther_kept {o : State} {s : State} {p : Nat} (h : Kept o s) : Kept o (State.wrapOther s p) := by
  unfold State.wrapOther
  repeat' first
    | with_reducible assumption
    | with_reducible refine State.wrapPort_kept ?_
    | with_reducible refine kept_ite (fun _ => ?_) (fun _ => ?_)
    | split
    | dsimp only
    | (dsimp +zetaDelta only; split)

theorem State.redirectQueued_kept {o s : State} {p : Nat} (h : Kept o s) : Kept o (s.redirectQueued p) := by
  refine State.showPools_kept (kept_of h rfl rfl fun c => ?_)
  obtain ⟨c₁, c₂, c₃, c₄⟩ := (canonical_iff s).1 c
  exact (canonical_iff _).2 ⟨c₁, c₂, Memory.wf_turn _ _ c₃, c₄⟩

theorem State.showLanes_kept {o : State} {s : State} {p : Nat} (h : Kept o s) : Kept o (State.showLanes s p) := by
  unfold State.showLanes
  repeat' first
    | with_reducible assumption
    | with_reducible refine State.put_kept ?_
    | dsimp only

theorem State.portUp_kept {o : State} {s : State} {p : Nat} (h : Kept o s) : Kept o (State.portUp s p) := by
  unfold State.portUp
  repeat' first
    | with_reducible assumption
    | with_reducible exact rfl
    | with_reducible refine State.wrapOther_kept ?_
    | with_reducible refine State.releaseHeld_kept ?_
    | with_reducible refine State.unwrapPort_kept ?_
    | with_reducible refine State.redirectQueued_kept ?_
    | with_reducible refine State.advertise_kept ?_
    | with_reducible refine State.setPort_kept ?_
    | with_reducible refine State.put_kept ?_
    | with_reducible refine State.showLanes_kept ?_
    | (extract_lets +onlyGivenNames s; refine kept_have (o := o) (x := s) ?_ (fun h => ?_); (on_goal 1 => unfold s; clear s); (on_goal 2 => try clear_value s))
    | (extract_lets +onlyGivenNames x; first | (have _p : PldSt := x; clear _p; unfold x) | skip)
    | simp only [↓kept_mk_iff]
    | with_reducible refine kept_ite (fun _ => ?_) (fun _ => ?_)
    | split
    | dsimp only
    | (dsimp +zetaDelta only; split)

theorem State.twinLinkLost_kept {o : State} {s : State} (h : Kept o s) : Kept o (State.twinLinkLost s) := by
  unfold State.twinLinkLost
  repeat' first
    | with_reducible assumption
    | with_reducible exact rfl
    | with_reducible refine State.commit_kept ?_
    | with_reducible refine State.record_kept ?_
    | with_reducible refine State.put_kept ?_
    | (extract_lets +onlyGivenNames s; refine kept_have (o := o) (x := s) ?_ (fun h => ?_); (on_goal 1 => unfold s; clear s); (on_goal 2 => try clear_value s))
    | (extract_lets +onlyGivenNames x; first | (have _p : PldSt := x; clear _p; unfold x) | skip)
    | simp only [↓kept_mk_iff]
    | with_reducible refine kept_foldl ?_ (fun s x h => ?_)
    | with_reducible refine kept_foldl_fst ?_ (fun p x h => ?_)
    | with_reducible refine kept_ite (fun _ => ?_) (fun _ => ?_)
    | split
    | dsimp only
    | (dsimp +zetaDelta only; split)

theorem State.loseLanes_kept {o : State} {s : State} {p : Nat} {cause : Nat} {lanes : Nat} (h : Kept o s) : Kept o (State.loseLanes s p cause lanes) := by
  unfold State.loseLanes
  repeat' first
    | with_reducible assumption
    | with_reducible refine State.dropBits_kept ?_
    | with_reducible refine State.put_kept ?_
    | (extract_lets +onlyGivenNames s; refine kept_have (o := o) (x := s) ?_ (fun h => ?_); (on_goal 1 => unfold s; clear s); (on_goal 2 => try clear_value s))
    | (extract_lets +onlyGivenNames x; first | (have _p : PldSt := x; clear _p; unfold x) | skip)
    | with_reducible refine kept_ite (fun _ => ?_) (fun _ => ?_)
    | split
    | dsimp only
    | (dsimp +zetaDelta only; split)

theorem State.portLoss_kept {o : State} {s : State} {p : Nat} {cause : Nat} {lanes : Nat} (h : Kept o s) : Kept o (State.portLoss s p cause lanes) := by
  unfold State.portLoss
  repeat' first
    | with_reducible assumption
    | with_reducible exact rfl
    | with_reducible refine State.wrapPort_kept ?_
    | with_reducible refine State.twinLinkLost_kept ?_
    | with_reducible refine State.emit_kept ?_
    | with_reducible refine State.setPort_kept ?_
    | with_reducible refine State.inc_kept ?_
    | with_reducible refine State.loseLanes_kept ?_
    | with_reducible refine State.record_kept ?_
    | (extract_lets +onlyGivenNames s; refine kept_have (o := o) (x := s) ?_ (fun h => ?_); (on_goal 1 => unfold s; clear s); (on_goal 2 => try clear_value s))
    | (extract_lets +onlyGivenNames x; first | (have _p : PldSt := x; clear _p; unfold x) | skip)
    | simp only [↓kept_mk_iff]
    | with_reducible refine kept_ite (fun _ => ?_) (fun _ => ?_)
    | split
    | dsimp only
    | (dsimp +zetaDelta only; split)

theorem execRingSignalDetect_kept {o : State} {port : Fin 3} {s : State} (h : Kept o s) : Keeps o (execRingSignalDetect port s) := by
  unfold execRingSignalDetect
  repeat' first
    | with_reducible assumption
    | with_reducible refine State.setPort_kept ?_
    | with_reducible refine State.put_kept ?_
    | with_reducible refine keeps_next ?_
    | with_reducible refine kept_ite (fun _ => ?_) (fun _ => ?_)
    | split
    | dsimp only
    | (dsimp +zetaDelta only; split)

theorem execRingTrainingDone_kept {o : State} {port : Fin 3} {s : State} (h : Kept o s) : Keeps o (execRingTrainingDone port s) := by
  unfold execRingTrainingDone
  repeat' first
    | with_reducible assumption
    | with_reducible exact rfl
    | with_reducible refine State.portUp_kept ?_
    | with_reducible refine keeps_next ?_
    | (extract_lets +onlyGivenNames s; refine kept_have (o := o) (x := s) ?_ (fun h => ?_); (on_goal 1 => unfold s; clear s); (on_goal 2 => try clear_value s))
    | (extract_lets +onlyGivenNames x; first | (have _p : PldSt := x; clear _p; unfold x) | skip)
    | simp only [↓kept_mk_iff]
    | with_reducible refine kept_ite (fun _ => ?_) (fun _ => ?_)
    | split
    | dsimp only
    | (dsimp +zetaDelta only; split)

theorem execRingPortLoss_kept {o : State} {port : Fin 3} {cause : PortLoss} {s : State} (h : Kept o s) : Keeps o (execRingPortLoss port cause s) := by
  unfold execRingPortLoss
  repeat' first
    | with_reducible assumption
    | with_reducible refine State.portLoss_kept ?_
    | with_reducible refine keeps_next ?_
    | dsimp only

theorem execCreditOs_kept {o : State} {port : Fin 3} {cls : Fin 8} {cells : Nat} {s : State} (h : Kept o s) : Keeps o (execCreditOs port cls cells s) := by
  unfold execCreditOs
  repeat' first
    | with_reducible assumption
    | with_reducible exact rfl
    | with_reducible refine keeps_next ?_
    | (extract_lets +onlyGivenNames s; refine kept_have (o := o) (x := s) ?_ (fun h => ?_); (on_goal 1 => unfold s; clear s); (on_goal 2 => try clear_value s))
    | (extract_lets +onlyGivenNames x; first | (have _p : PldSt := x; clear _p; unfold x) | skip)
    | simp only [↓kept_mk_iff]
    | with_reducible refine kept_ite (fun _ => ?_) (fun _ => ?_)
    | split
    | dsimp only
    | (dsimp +zetaDelta only; split)

theorem execCreditReturnTimer_kept {o : State} {port : Fin 3} {s : State} (h : Kept o s) : Keeps o (execCreditReturnTimer port s) := by
  unfold execCreditReturnTimer
  repeat' first
    | with_reducible assumption
    | with_reducible exact rfl
    | with_reducible refine State.grant_kept ?_
    | with_reducible refine State.each_kept ?_ (fun s x h => ?_)
    | with_reducible refine keeps_next ?_
    | (extract_lets +onlyGivenNames s; refine kept_have (o := o) (x := s) ?_ (fun h => ?_); (on_goal 1 => unfold s; clear s); (on_goal 2 => try clear_value s))
    | (extract_lets +onlyGivenNames x; first | (have _p : PldSt := x; clear _p; unfold x) | skip)
    | simp only [↓kept_mk_iff]
    | with_reducible refine kept_ite (fun _ => ?_) (fun _ => ?_)
    | split
    | dsimp only
    | (dsimp +zetaDelta only; split)

theorem execRingEnable_kept {o : State} {s : State} (h : Kept o s) : Keeps o (execRingEnable s) := by
  unfold execRingEnable
  repeat' first
    | with_reducible assumption
    | with_reducible exact rfl
    | with_reducible refine State.put_kept ?_
    | with_reducible refine State.startEnum_kept ?_
    | with_reducible refine keeps_next ?_
    | (extract_lets +onlyGivenNames s; refine kept_have (o := o) (x := s) ?_ (fun h => ?_); (on_goal 1 => unfold s; clear s); (on_goal 2 => try clear_value s))
    | (extract_lets +onlyGivenNames x; first | (have _p : PldSt := x; clear _p; unfold x) | skip)
    | simp only [↓kept_mk_iff]
    | with_reducible refine kept_ite (fun _ => ?_) (fun _ => ?_)
    | split
    | dsimp only
    | (dsimp +zetaDelta only; split)

theorem execEnumStart_kept {o : State} {s : State} (h : Kept o s) : Keeps o (execEnumStart s) := by
  unfold execEnumStart
  repeat' first
    | with_reducible assumption
    | with_reducible refine State.startEnum_kept ?_
    | with_reducible refine keeps_next ?_
    | with_reducible refine kept_ite (fun _ => ?_) (fun _ => ?_)
    | split
    | dsimp only
    | (dsimp +zetaDelta only; split)

theorem State.answerEnum_kept {o : State} {s : State} {port : Fin 2} {src : Nat} {round : Nat} {hops : Nat} (h : Kept o s) : Kept o (State.answerEnum s port src round hops) := by
  unfold State.answerEnum
  repeat' first
    | with_reducible assumption
    | with_reducible exact rfl
    | with_reducible refine State.sendOn_kept ?_
    | (extract_lets +onlyGivenNames s; refine kept_have (o := o) (x := s) ?_ (fun h => ?_); (on_goal 1 => unfold s; clear s); (on_goal 2 => try clear_value s))
    | (extract_lets +onlyGivenNames x; first | (have _p : PldSt := x; clear _p; unfold x) | skip)
    | simp only [↓kept_mk_iff]
    | with_reducible refine kept_ite (fun _ => ?_) (fun _ => ?_)
    | split
    | dsimp only
    | (dsimp +zetaDelta only; split)

theorem execEnumFrame_kept {o : State} {port : Fin 2} {src : Sent} {round : Nat} {hops : Nat} {wrapped : Bool} {s : State} (h : Kept o s) : Keeps o (execEnumFrame port src round hops wrapped s) := by
  unfold execEnumFrame
  repeat' first
    | with_reducible assumption
    | with_reducible exact rfl
    | with_reducible refine State.answerEnum_kept ?_
    | with_reducible refine State.passOn_kept ?_
    | with_reducible refine keeps_next ?_
    | (extract_lets +onlyGivenNames s; refine kept_have (o := o) (x := s) ?_ (fun h => ?_); (on_goal 1 => unfold s; clear s); (on_goal 2 => try clear_value s))
    | (extract_lets +onlyGivenNames x; first | (have _p : PldSt := x; clear _p; unfold x) | skip)
    | simp only [↓kept_mk_iff]
    | with_reducible refine kept_ite (fun _ => ?_) (fun _ => ?_)
    | split
    | dsimp only
    | (dsimp +zetaDelta only; split)

theorem execEnumReportFrame_kept {o : State} {uid : Nat} {claim : Nat} {mode : Nat} {flags : Nat} {hops : Nat} {round : Nat} {s : State} (h : Kept o s) : Keeps o (execEnumReportFrame uid claim mode flags hops round s) := by
  unfold execEnumReportFrame
  repeat' first
    | with_reducible assumption
    | with_reducible exact rfl
    | with_reducible refine keeps_next ?_
    | (extract_lets +onlyGivenNames s; refine kept_have (o := o) (x := s) ?_ (fun h => ?_); (on_goal 1 => unfold s; clear s); (on_goal 2 => try clear_value s))
    | (extract_lets +onlyGivenNames x; first | (have _p : PldSt := x; clear _p; unfold x) | skip)
    | simp only [↓kept_mk_iff]
    | with_reducible refine kept_ite (fun _ => ?_) (fun _ => ?_)
    | split
    | dsimp only
    | (dsimp +zetaDelta only; split)

theorem State.showMap_kept {o : State} {s : State} (h : Kept o s) : Kept o (State.showMap s) := by
  unfold State.showMap
  repeat' first
    | with_reducible assumption
    | with_reducible refine State.put_kept ?_
    | with_reducible refine State.each_kept ?_ (fun s x h => ?_)
    | with_reducible refine kept_foldl ?_ (fun s x h => ?_)
    | with_reducible refine kept_ite (fun _ => ?_) (fun _ => ?_)
    | split
    | dsimp only
    | (dsimp +zetaDelta only; split)

theorem State.applyMap_kept {o : State} {s : State} {n : Nat} {closed : Bool} {ids : List Nat} {pos : Nat} (h : Kept o s) : Kept o (State.applyMap s n closed ids pos) := by
  unfold State.applyMap
  repeat' first
    | with_reducible assumption
    | with_reducible exact rfl
    | with_reducible refine State.showBreaks_kept ?_
    | with_reducible refine State.releaseHeld_kept ?_
    | with_reducible refine State.put_kept ?_
    | with_reducible refine State.showMap_kept ?_
    | (extract_lets +onlyGivenNames s; refine kept_have (o := o) (x := s) ?_ (fun h => ?_); (on_goal 1 => unfold s; clear s); (on_goal 2 => try clear_value s))
    | (extract_lets +onlyGivenNames x; first | (have _p : PldSt := x; clear _p; unfold x) | skip)
    | simp only [↓kept_mk_iff]
    | with_reducible refine kept_ite (fun _ => ?_) (fun _ => ?_)
    | split
    | dsimp only
    | (dsimp +zetaDelta only; split)

theorem State.recordDup_kept {o : State} {s : State} {id : Nat} {a : Nat} {b : Nat} (h : Kept o s) : Kept o (State.recordDup s id a b) := by
  unfold State.recordDup
  repeat' first
    | with_reducible assumption
    | with_reducible exact rfl
    | with_reducible refine State.put64_kept ?_
    | with_reducible refine State.recordWith_kept ?_
    | with_reducible refine State.incSat_kept ?_
    | with_reducible refine State.put_kept ?_
    | (extract_lets +onlyGivenNames s; refine kept_have (o := o) (x := s) ?_ (fun h => ?_); (on_goal 1 => unfold s; clear s); (on_goal 2 => try clear_value s))
    | (extract_lets +onlyGivenNames x; first | (have _p : PldSt := x; clear _p; unfold x) | skip)
    | simp only [↓kept_mk_iff]
    | dsimp only

theorem State.formRing_kept {o : State} {s : State} (h : Kept o s) : Kept o (State.formRing s) := by
  unfold State.formRing
  repeat' first
    | with_reducible assumption
    | with_reducible exact rfl
    | with_reducible refine State.recordDup_kept ?_
    | with_reducible refine State.applyMap_kept ?_
    | with_reducible refine State.sendFullState_kept ?_
    | with_reducible refine State.broadcast_kept ?_
    | with_reducible refine State.addSat_kept ?_
    | (extract_lets +onlyGivenNames s; refine kept_have (o := o) (x := s) ?_ (fun h => ?_); (on_goal 1 => unfold s; clear s); (on_goal 2 => try clear_value s))
    | (extract_lets +onlyGivenNames x; first | (have _p : PldSt := x; clear _p; unfold x) | skip)
    | simp only [↓kept_mk_iff]
    | with_reducible refine kept_foldl ?_ (fun s x h => ?_)
    | with_reducible refine kept_foldl_fst ?_ (fun p x h => ?_)
    | with_reducible refine kept_ite (fun _ => ?_) (fun _ => ?_)
    | split
    | dsimp only
    | (dsimp +zetaDelta only; split)

theorem execEnumMapTimer_kept {o : State} {s : State} (h : Kept o s) : Keeps o (execEnumMapTimer s) := by
  unfold execEnumMapTimer
  repeat' first
    | with_reducible assumption
    | with_reducible refine State.formRing_kept ?_
    | with_reducible refine keeps_next ?_
    | with_reducible refine kept_ite (fun _ => ?_) (fun _ => ?_)
    | split
    | dsimp only
    | (dsimp +zetaDelta only; split)

theorem execMapFrame_kept {o : State} {_src : Nat} {round : Nat} {n : Nat} {flags : Nat} {ids : List Nat} {s : State} (h : Kept o s) : Keeps o (execMapFrame _src round n flags ids s) := by
  unfold execMapFrame
  repeat' first
    | with_reducible assumption
    | with_reducible refine State.sendFullState_kept ?_
    | with_reducible refine State.raise_kept ?_
    | with_reducible refine State.record_kept ?_
    | with_reducible refine State.applyMap_kept ?_
    | with_reducible refine State.put_kept ?_
    | with_reducible refine keeps_next ?_
    | (extract_lets +onlyGivenNames s; refine kept_have (o := o) (x := s) ?_ (fun h => ?_); (on_goal 1 => unfold s; clear s); (on_goal 2 => try clear_value s))
    | (extract_lets +onlyGivenNames x; first | (have _p : PldSt := x; clear _p; unfold x) | skip)
    | with_reducible refine kept_ite (fun _ => ?_) (fun _ => ?_)
    | split
    | dsimp only
    | (dsimp +zetaDelta only; split)

theorem execEnumRestartTimer_kept {o : State} {s : State} (h : Kept o s) : Keeps o (execEnumRestartTimer s) := by
  unfold execEnumRestartTimer
  repeat' first
    | with_reducible assumption
    | with_reducible refine State.startEnum_kept ?_
    | with_reducible refine keeps_next ?_
    | with_reducible refine kept_ite (fun _ => ?_) (fun _ => ?_)
    | split
    | dsimp only
    | (dsimp +zetaDelta only; split)

theorem execProtectFrame_kept {o : State} {src : Nat} {seq : Nat} {kind : Nat} {port : Nat} {s : State} (h : Kept o s) : Keeps o (execProtectFrame src seq kind port s) := by
  unfold execProtectFrame
  repeat' first
    | with_reducible assumption
    | with_reducible refine State.dropBreak_kept ?_
    | with_reducible refine State.releaseHeld_kept ?_
    | with_reducible refine State.addBreak_kept ?_
    | with_reducible refine State.protectionEvent_kept ?_
    | with_reducible refine keeps_next ?_
    | with_reducible refine kept_ite (fun _ => ?_) (fun _ => ?_)
    | split
    | dsimp only
    | (dsimp +zetaDelta only; split)

theorem State.oweFlush_kept {o : State} {s : State} {src : Nat} {version : Nat} {draining : Nat} {gone : List Nat} (h : Kept o s) : Kept o (State.oweFlush s src version draining gone) := by
  unfold State.oweFlush
  repeat' first
    | with_reducible assumption
    | with_reducible exact rfl
    | with_reducible refine State.payFlush_kept ?_
    | (extract_lets +onlyGivenNames s; refine kept_have (o := o) (x := s) ?_ (fun h => ?_); (on_goal 1 => unfold s; clear s); (on_goal 2 => try clear_value s))
    | (extract_lets +onlyGivenNames x; first | (have _p : PldSt := x; clear _p; unfold x) | skip)
    | simp only [↓kept_mk_iff]
    | with_reducible refine kept_ite (fun _ => ?_) (fun _ => ?_)
    | split
    | dsimp only
    | (dsimp +zetaDelta only; split)

theorem State.mergeEp_kept {o : State} {s : State} {src : Nat} {pair : Bool} {ring : Fin 2} {hops : Nat} {version : Nat} {up : Nat} {draining : Nat} {fenced : Nat} {full : Bool} {more : Bool} {entries : List (Nat × Nat)} (h : Kept o s) : Kept o (State.mergeEp s src pair ring hops version up draining fenced full more entries) := by
  unfold State.mergeEp
  repeat' first
    | with_reducible assumption
    | with_reducible exact rfl
    | (extract_lets +onlyGivenNames s; refine kept_have (o := o) (x := s) ?_ (fun h => ?_); (on_goal 1 => unfold s; clear s); (on_goal 2 => try clear_value s))
    | (extract_lets +onlyGivenNames x; first | (have _p : PldSt := x; clear _p; unfold x) | skip)
    | simp only [↓kept_mk_iff]
    | with_reducible refine kept_ite (fun _ => ?_) (fun _ => ?_)
    | split
    | dsimp only
    | (dsimp +zetaDelta only; split)

theorem execEpStateFrame_kept {o : State} {src : Sent} {pair : Bool} {ring : OnRing} {hops : Nat} {version : Nat} {up : Nat} {draining : Nat} {fenced : Nat} {full : Bool} {more : Bool} {entries : List (Nat × Nat)} {s : State} (h : Kept o s) : Keeps o (execEpStateFrame src pair ring hops version up draining fenced full more entries s) := by
  unfold execEpStateFrame
  repeat' first
    | with_reducible assumption
    | with_reducible refine State.resendTo_kept ?_
    | with_reducible refine State.oweFlush_kept ?_
    | with_reducible refine State.mergeEp_kept ?_
    | with_reducible refine State.passOn_kept ?_
    | with_reducible refine keeps_next ?_
    | (extract_lets +onlyGivenNames s; refine kept_have (o := o) (x := s) ?_ (fun h => ?_); (on_goal 1 => unfold s; clear s); (on_goal 2 => try clear_value s))
    | (extract_lets +onlyGivenNames x; first | (have _p : PldSt := x; clear _p; unfold x) | skip)
    | with_reducible refine kept_ite (fun _ => ?_) (fun _ => ?_)
    | split
    | dsimp only
    | (dsimp +zetaDelta only; split)

theorem execEpFlushFrame_kept {o : State} {src : Nat} {version : Nat} {s : State} (h : Kept o s) : Keeps o (execEpFlushFrame src version s) := by
  unfold execEpFlushFrame
  repeat' first
    | with_reducible assumption
    | with_reducible exact rfl
    | with_reducible refine keeps_next ?_
    | (extract_lets +onlyGivenNames s; refine kept_have (o := o) (x := s) ?_ (fun h => ?_); (on_goal 1 => unfold s; clear s); (on_goal 2 => try clear_value s))
    | (extract_lets +onlyGivenNames x; first | (have _p : PldSt := x; clear _p; unfold x) | skip)
    | simp only [↓kept_mk_iff]
    | with_reducible refine kept_ite (fun _ => ?_) (fun _ => ?_)
    | split
    | dsimp only
    | (dsimp +zetaDelta only; split)

theorem State.resendDrain_kept {o : State} {s : State} {d : Drain} (h : Kept o s) : Kept o (State.resendDrain s d) := by
  unfold State.resendDrain
  repeat' first
    | with_reducible assumption
    | with_reducible exact rfl
    | with_reducible refine State.broadcast_kept ?_
    | (extract_lets +onlyGivenNames s; refine kept_have (o := o) (x := s) ?_ (fun h => ?_); (on_goal 1 => unfold s; clear s); (on_goal 2 => try clear_value s))
    | (extract_lets +onlyGivenNames x; first | (have _p : PldSt := x; clear _p; unfold x) | skip)
    | simp only [↓kept_mk_iff]
    | with_reducible refine kept_ite (fun _ => ?_) (fun _ => ?_)
    | split
    | dsimp only
    | (dsimp +zetaDelta only; split)

theorem execEpStateRetransmit_kept {o : State} {s : State} (h : Kept o s) : Keeps o (execEpStateRetransmit s) := by
  unfold execEpStateRetransmit
  repeat' first
    | with_reducible assumption
    | with_reducible refine State.resendDrain_kept ?_
    | with_reducible refine keeps_next ?_
    | with_reducible refine kept_foldl ?_ (fun s x h => ?_)
    | with_reducible refine kept_foldl_fst ?_ (fun p x h => ?_)
    | dsimp only

theorem State.withdraw_kept {o : State} {s : State} {ep : Nat} (h : Kept o s) : Kept o (State.withdraw s ep) := by
  unfold State.withdraw
  repeat' first
    | with_reducible assumption
    | with_reducible exact rfl
    | with_reducible refine State.announce_kept ?_
    | (extract_lets +onlyGivenNames s; refine kept_have (o := o) (x := s) ?_ (fun h => ?_); (on_goal 1 => unfold s; clear s); (on_goal 2 => try clear_value s))
    | (extract_lets +onlyGivenNames x; first | (have _p : PldSt := x; clear _p; unfold x) | skip)
    | simp only [↓kept_mk_iff]
    | dsimp only

theorem State.endWithdraw_kept {o : State} {s : State} {ep : Nat} (h : Kept o s) : Kept o (State.endWithdraw s ep) := by
  unfold State.endWithdraw
  repeat' first
    | with_reducible assumption
    | with_reducible exact rfl
    | (extract_lets +onlyGivenNames s; refine kept_have (o := o) (x := s) ?_ (fun h => ?_); (on_goal 1 => unfold s; clear s); (on_goal 2 => try clear_value s))
    | (extract_lets +onlyGivenNames x; first | (have _p : PldSt := x; clear _p; unfold x) | skip)
    | simp only [↓kept_mk_iff]
    | dsimp only

theorem State.reannounce_kept {o : State} {s : State} {ep : Nat} {ops : Nat} (h : Kept o s) : Kept o (State.reannounce s ep ops) := by
  unfold State.reannounce
  repeat' first
    | with_reducible assumption
    | with_reducible exact rfl
    | with_reducible refine State.endWithdraw_kept ?_
    | with_reducible refine State.announce_kept ?_
    | with_reducible refine State.resendOwn_kept ?_
    | with_reducible refine State.withdraw_kept ?_
    | (extract_lets +onlyGivenNames s; refine kept_have (o := o) (x := s) ?_ (fun h => ?_); (on_goal 1 => unfold s; clear s); (on_goal 2 => try clear_value s))
    | (extract_lets +onlyGivenNames x; first | (have _p : PldSt := x; clear _p; unfold x) | skip)
    | simp only [↓kept_mk_iff]
    | with_reducible refine kept_ite (fun _ => ?_) (fun _ => ?_)
    | split
    | dsimp only
    | (dsimp +zetaDelta only; split)

end Sys2Proof.Machine
end

