-- ==== Sys2Proof/Laws/KeptScheduler.lean ====
section
/-! SUPPORT. What the operations of Machine/Scheduler.lean keep (Laws/Kept.lean). -/

set_option linter.all false

namespace Sys2Proof.Machine

theorem State.setOut_kept {o : State} {s : State} {o' : Nat} {x : OutSt} (h : Kept o s) : Kept o (State.setOut s o' x) := by
  unfold State.setOut
  repeat' first
    | with_reducible assumption
    | with_reducible exact rfl
    | (extract_lets +onlyGivenNames s; refine kept_have (o := o) (x := s) ?_ (fun h => ?_); (on_goal 1 => unfold s; clear s); (on_goal 2 => try clear_value s))
    | (extract_lets +onlyGivenNames x; first | (have _p : PldSt := x; clear _p; unfold x) | skip)
    | simp only [↓kept_mk_iff]
    | dsimp only

theorem State.setWeir_kept {o : State} {s : State} {o' : Nat} {k' : Nat} {x : WeirSt} (h : Kept o s) : Kept o (State.setWeir s o' k' x) := by
  unfold State.setWeir
  repeat' first
    | with_reducible assumption
    | with_reducible exact rfl
    | with_reducible refine State.put_kept ?_
    | (extract_lets +onlyGivenNames s; refine kept_have (o := o) (x := s) ?_ (fun h => ?_); (on_goal 1 => unfold s; clear s); (on_goal 2 => try clear_value s))
    | (extract_lets +onlyGivenNames x; first | (have _p : PldSt := x; clear _p; unfold x) | skip)
    | simp only [↓kept_mk_iff]
    | dsimp only

theorem State.setGcl_kept {o : State} {s : State} {g : Nat} {x : GclSt} (h : Kept o s) : Kept o (State.setGcl s g x) := by
  unfold State.setGcl
  repeat' first
    | with_reducible assumption
    | with_reducible exact rfl
    | (extract_lets +onlyGivenNames s; refine kept_have (o := o) (x := s) ?_ (fun h => ?_); (on_goal 1 => unfold s; clear s); (on_goal 2 => try clear_value s))
    | (extract_lets +onlyGivenNames x; first | (have _p : PldSt := x; clear _p; unfold x) | skip)
    | simp only [↓kept_mk_iff]
    | dsimp only

theorem State.accrue_kept {o : State} {s : State} {o' : Nat} {k' : Nat} (h : Kept o s) : Kept o (State.accrue s o' k') := by
  unfold State.accrue
  repeat' first
    | with_reducible assumption
    | with_reducible exact rfl
    | with_reducible refine State.setWeir_kept ?_
    | (extract_lets +onlyGivenNames s; refine kept_have (o := o) (x := s) ?_ (fun h => ?_); (on_goal 1 => unfold s; clear s); (on_goal 2 => try clear_value s))
    | (extract_lets +onlyGivenNames x; first | (have _p : PldSt := x; clear _p; unfold x) | skip)
    | simp only [↓kept_mk_iff]
    | with_reducible refine kept_ite (fun _ => ?_) (fun _ => ?_)
    | split
    | dsimp only
    | (dsimp +zetaDelta only; split)

theorem State.accrueBudget_kept {o : State} {s : State} {o' : Nat} (h : Kept o s) : Kept o (State.accrueBudget s o') := by
  unfold State.accrueBudget
  repeat' first
    | with_reducible assumption
    | with_reducible exact rfl
    | with_reducible refine State.setOut_kept ?_
    | (extract_lets +onlyGivenNames s; refine kept_have (o := o) (x := s) ?_ (fun h => ?_); (on_goal 1 => unfold s; clear s); (on_goal 2 => try clear_value s))
    | (extract_lets +onlyGivenNames x; first | (have _p : PldSt := x; clear _p; unfold x) | skip)
    | simp only [↓kept_mk_iff]
    | dsimp only

theorem State.showBudget_kept {o : State} {s : State} {o' : Nat} (h : Kept o s) : Kept o (State.showBudget s o') := by
  unfold State.showBudget
  repeat' first
    | with_reducible assumption
    | with_reducible refine State.put_kept ?_
    | (extract_lets +onlyGivenNames s; refine kept_have (o := o) (x := s) ?_ (fun h => ?_); (on_goal 1 => unfold s; clear s); (on_goal 2 => try clear_value s))
    | (extract_lets +onlyGivenNames x; first | (have _p : PldSt := x; clear _p; unfold x) | skip)
    | with_reducible refine kept_ite (fun _ => ?_) (fun _ => ?_)
    | split
    | dsimp only
    | (dsimp +zetaDelta only; split)

theorem State.refreshOut_kept {o : State} {s : State} {o' : Nat} (h : Kept o s) : Kept o (State.refreshOut s o') := by
  unfold State.refreshOut
  repeat' first
    | with_reducible assumption
    | with_reducible refine State.accrue_kept ?_
    | with_reducible refine State.each_kept ?_ (fun s x h => ?_)
    | with_reducible refine State.accrueBudget_kept ?_
    | with_reducible refine State.showBudget_kept ?_
    | dsimp only

theorem State.spend_kept {o : State} {s : State} {o' : Nat} {k' : Nat} {l' : Nat} (h : Kept o s) : Kept o (State.spend s o' k' l') := by
  unfold State.spend
  repeat' first
    | with_reducible assumption
    | with_reducible exact rfl
    | with_reducible refine State.setWeir_kept ?_
    | (extract_lets +onlyGivenNames s; refine kept_have (o := o) (x := s) ?_ (fun h => ?_); (on_goal 1 => unfold s; clear s); (on_goal 2 => try clear_value s))
    | (extract_lets +onlyGivenNames x; first | (have _p : PldSt := x; clear _p; unfold x) | skip)
    | simp only [↓kept_mk_iff]
    | with_reducible refine kept_ite (fun _ => ?_) (fun _ => ?_)
    | split
    | dsimp only
    | (dsimp +zetaDelta only; split)

theorem State.takeTags_kept {o : State} {s : State} {o' : Nat} (h : Kept o s) : Kept o (State.takeTags s o') := by
  unfold State.takeTags
  repeat' first
    | with_reducible assumption
    | with_reducible exact rfl
    | with_reducible refine State.setOut_kept ?_
    | (extract_lets +onlyGivenNames s; refine kept_have (o := o) (x := s) ?_ (fun h => ?_); (on_goal 1 => unfold s; clear s); (on_goal 2 => try clear_value s))
    | (extract_lets +onlyGivenNames x; first | (have _p : PldSt := x; clear _p; unfold x) | skip)
    | simp only [↓kept_mk_iff]
    | with_reducible refine kept_foldl ?_ (fun s x h => ?_)
    | with_reducible refine kept_foldl_fst ?_ (fun p x h => ?_)
    | dsimp only

theorem State.countGuarded_kept {o : State} {s : State} {o' : Nat} (h : Kept o s) : Kept o (State.countGuarded s o') := by
  unfold State.countGuarded
  repeat' first
    | with_reducible assumption
    | with_reducible exact rfl
    | with_reducible refine State.setOut_kept ?_
    | with_reducible refine State.addTo_kept ?_
    | (extract_lets +onlyGivenNames s; refine kept_have (o := o) (x := s) ?_ (fun h => ?_); (on_goal 1 => unfold s; clear s); (on_goal 2 => try clear_value s))
    | (extract_lets +onlyGivenNames x; first | (have _p : PldSt := x; clear _p; unfold x) | skip)
    | simp only [↓kept_mk_iff]
    | with_reducible refine kept_ite (fun _ => ?_) (fun _ => ?_)
    | split
    | dsimp only
    | (dsimp +zetaDelta only; split)

theorem State.newHeads_kept {o : State} {s : State} {o' : Nat} (h : Kept o s) : Kept o (State.newHeads s o') := by
  unfold State.newHeads
  repeat' first
    | with_reducible assumption
    | with_reducible refine State.takeTags_kept ?_
    | with_reducible refine State.countGuarded_kept ?_
    | dsimp only

theorem State.charge_kept {o : State} {s : State} {o' : Nat} {n : Nat} {k' : Nat} {f : PFrame} {band : Nat} (h : Kept o s) : Kept o (State.charge s o' n k' f band) := by
  unfold State.charge
  repeat' first
    | with_reducible assumption
    | with_reducible exact rfl
    | with_reducible refine State.inc_kept ?_
    | with_reducible refine State.spend_kept ?_
    | with_reducible refine State.setOut_kept ?_
    | with_reducible refine State.showBudget_kept ?_
    | (extract_lets +onlyGivenNames s; refine kept_have (o := o) (x := s) ?_ (fun h => ?_); (on_goal 1 => unfold s; clear s); (on_goal 2 => try clear_value s))
    | (extract_lets +onlyGivenNames x; first | (have _p : PldSt := x; clear _p; unfold x) | skip)
    | simp only [↓kept_mk_iff]
    | with_reducible refine kept_ite (fun _ => ?_) (fun _ => ?_)
    | split
    | dsimp only
    | (dsimp +zetaDelta only; split)

theorem State.startFrame_kept {o : State} {s : State} {o' : Nat} {n : Nat} {k' : Nat} {f : PFrame} {band : Nat} (h : Kept o s) : Kept o (State.startFrame s o' n k' f band) := by
  unfold State.startFrame
  repeat' first
    | with_reducible assumption
    | with_reducible exact rfl
    | with_reducible refine State.charge_kept ?_
    | (extract_lets +onlyGivenNames s; refine kept_have (o := o) (x := s) ?_ (fun h => ?_); (on_goal 1 => unfold s; clear s); (on_goal 2 => try clear_value s))
    | (extract_lets +onlyGivenNames x; first | (have _p : PldSt := x; clear _p; unfold x) | skip)
    | simp only [↓kept_mk_iff]
    | with_reducible refine kept_ite (fun _ => ?_) (fun _ => ?_)
    | split
    | dsimp only
    | (dsimp +zetaDelta only; split)

theorem execSchFrameStart_kept {o : State} {out : Fin 32} {s : State} (h : Kept o s) : Keeps o (execSchFrameStart out s) := by
  unfold execSchFrameStart
  repeat' first
    | with_reducible assumption
    | with_reducible exact rfl
    | with_reducible refine State.startFrame_kept ?_
    | with_reducible refine State.refreshOut_kept ?_
    | with_reducible refine State.newHeads_kept ?_
    | with_reducible refine keeps_next ?_
    | (extract_lets +onlyGivenNames s; refine kept_have (o := o) (x := s) ?_ (fun h => ?_); (on_goal 1 => unfold s; clear s); (on_goal 2 => try clear_value s))
    | (extract_lets +onlyGivenNames x; first | (have _p : PldSt := x; clear _p; unfold x) | skip)
    | simp only [↓kept_mk_iff]
    | with_reducible refine kept_ite (fun _ => ?_) (fun _ => ?_)
    | split
    | dsimp only
    | (dsimp +zetaDelta only; split)

theorem State.endEgress_kept {o : State} {s : State} {o' : Nat} {num : Nat} (h : Kept o s) : Kept o (State.endEgress s o' num) := by
  unfold State.endEgress
  repeat' first
    | with_reducible assumption
    | with_reducible exact rfl
    | with_reducible refine State.dropCopy_kept ?_
    | with_reducible refine State.flushReady_kept ?_
    | with_reducible refine State.newHeads_kept ?_
    | with_reducible refine State.inc_kept ?_
    | with_reducible refine State.emit_kept ?_
    | with_reducible refine State.setOut_kept ?_
    | (extract_lets +onlyGivenNames s; refine kept_have (o := o) (x := s) ?_ (fun h => ?_); (on_goal 1 => unfold s; clear s); (on_goal 2 => try clear_value s))
    | (extract_lets +onlyGivenNames x; first | (have _p : PldSt := x; clear _p; unfold x) | skip)
    | simp only [↓kept_mk_iff]
    | with_reducible refine kept_ite (fun _ => ?_) (fun _ => ?_)
    | split
    | dsimp only
    | (dsimp +zetaDelta only; split)

theorem execPldFrameLink_kept {o : State} {inp : Fin 32} {dsts : List SwitchDst} {cls : Fin 8} {tagged : Bool} {ok : Bool} {bytes : List Byte} {s : State} (h : Kept o s) : Keeps o (execPldFrameLink inp dsts cls tagged ok bytes s) := by
  unfold execPldFrameLink
  repeat' first
    | with_reducible assumption
    | with_reducible refine State.newHeads_kept ?_
    | with_reducible refine State.frameIn_kept ?_
    | with_reducible refine State.each_kept ?_ (fun s x h => ?_)
    | with_reducible refine keeps_next ?_
    | (extract_lets +onlyGivenNames s; refine kept_have (o := o) (x := s) ?_ (fun h => ?_); (on_goal 1 => unfold s; clear s); (on_goal 2 => try clear_value s))
    | (extract_lets +onlyGivenNames x; first | (have _p : PldSt := x; clear _p; unfold x) | skip)
    | with_reducible refine kept_ite (fun _ => ?_) (fun _ => ?_)
    | split
    | dsimp only
    | (dsimp +zetaDelta only; split)

theorem execVoqPromotion_kept {o : State} {out : Fin 32} {inp : Fin 32} {cls : Fin 8} {s : State} (h : Kept o s) : Keeps o (execVoqPromotion out inp cls s) := by
  unfold execVoqPromotion
  repeat' first
    | with_reducible assumption
    | with_reducible exact rfl
    | with_reducible refine State.setOut_kept ?_
    | with_reducible refine State.inc_kept ?_
    | with_reducible refine keeps_next ?_
    | (extract_lets +onlyGivenNames s; refine kept_have (o := o) (x := s) ?_ (fun h => ?_); (on_goal 1 => unfold s; clear s); (on_goal 2 => try clear_value s))
    | (extract_lets +onlyGivenNames x; first | (have _p : PldSt := x; clear _p; unfold x) | skip)
    | simp only [↓kept_mk_iff]
    | with_reducible refine kept_ite (fun _ => ?_) (fun _ => ?_)
    | split
    | dsimp only
    | (dsimp +zetaDelta only; split)

theorem execWeirRateWrite_kept {o : State} {out : Fin 32} {cls : Fin 8} {val : Word} {s : State} (h : Kept o s) : Keeps o (execWeirRateWrite out cls val s) := by
  unfold execWeirRateWrite
  repeat' first
    | with_reducible assumption
    | with_reducible refine State.setWeir_kept ?_
    | with_reducible refine State.put_kept ?_
    | with_reducible refine State.raise_kept ?_
    | with_reducible refine keeps_next ?_
    | (extract_lets +onlyGivenNames s; refine kept_have (o := o) (x := s) ?_ (fun h => ?_); (on_goal 1 => unfold s; clear s); (on_goal 2 => try clear_value s))
    | (extract_lets +onlyGivenNames x; first | (have _p : PldSt := x; clear _p; unfold x) | skip)
    | with_reducible refine kept_ite (fun _ => ?_) (fun _ => ?_)
    | split
    | dsimp only
    | (dsimp +zetaDelta only; split)

theorem execWeirBurstWrite_kept {o : State} {out : Fin 32} {cls : Fin 8} {val : Word} {s : State} (h : Kept o s) : Keeps o (execWeirBurstWrite out cls val s) := by
  unfold execWeirBurstWrite
  repeat' first
    | with_reducible assumption
    | with_reducible refine State.put_kept ?_
    | with_reducible refine keeps_next ?_
    | dsimp only

theorem execGclCommit_kept {o : State} {g : Fin 19} {val : Word} {s : State} (h : Kept o s) : Keeps o (execGclCommit g val s) := by
  unfold execGclCommit
  repeat' first
    | with_reducible assumption
    | with_reducible exact rfl
    | with_reducible refine State.setGcl_kept ?_
    | with_reducible refine State.put_kept ?_
    | with_reducible refine State.raise_kept ?_
    | with_reducible refine keeps_next ?_
    | (extract_lets +onlyGivenNames s; refine kept_have (o := o) (x := s) ?_ (fun h => ?_); (on_goal 1 => unfold s; clear s); (on_goal 2 => try clear_value s))
    | (extract_lets +onlyGivenNames x; first | (have _p : PldSt := x; clear _p; unfold x) | skip)
    | simp only [↓kept_mk_iff]
    | with_reducible refine kept_ite (fun _ => ?_) (fun _ => ?_)
    | split
    | dsimp only
    | (dsimp +zetaDelta only; split)

theorem execGclDisable_kept {o : State} {g : Fin 19} {s : State} (h : Kept o s) : Keeps o (execGclDisable g s) := by
  unfold execGclDisable
  repeat' first
    | with_reducible assumption
    | with_reducible exact rfl
    | with_reducible refine State.setGcl_kept ?_
    | with_reducible refine State.put_kept ?_
    | with_reducible refine keeps_next ?_
    | (extract_lets +onlyGivenNames s; refine kept_have (o := o) (x := s) ?_ (fun h => ?_); (on_goal 1 => unfold s; clear s); (on_goal 2 => try clear_value s))
    | (extract_lets +onlyGivenNames x; first | (have _p : PldSt := x; clear _p; unfold x) | skip)
    | simp only [↓kept_mk_iff]
    | with_reducible refine kept_ite (fun _ => ?_) (fun _ => ?_)
    | split
    | dsimp only
    | (dsimp +zetaDelta only; split)

theorem State.openList_kept {o : State} {s : State} {i : Nat} (h : Kept o s) : Kept o (State.openList s i) := by
  unfold State.openList
  repeat' first
    | with_reducible assumption
    | with_reducible exact rfl
    | with_reducible refine State.setGcl_kept ?_
    | with_reducible refine State.put_kept ?_
    | (extract_lets +onlyGivenNames s; refine kept_have (o := o) (x := s) ?_ (fun h => ?_); (on_goal 1 => unfold s; clear s); (on_goal 2 => try clear_value s))
    | (extract_lets +onlyGivenNames x; first | (have _p : PldSt := x; clear _p; unfold x) | skip)
    | simp only [↓kept_mk_iff]
    | with_reducible refine kept_foldl ?_ (fun s x h => ?_)
    | with_reducible refine kept_foldl_fst ?_ (fun p x h => ?_)
    | dsimp only

theorem execGclAbort_kept {o : State} {g : Fin 19} {s : State} (h : Kept o s) : Keeps o (execGclAbort g s) := by
  unfold execGclAbort
  repeat' first
    | with_reducible assumption
    | with_reducible refine State.openList_kept ?_
    | with_reducible refine State.put_kept ?_
    | with_reducible refine keeps_next ?_
    | with_reducible refine kept_ite (fun _ => ?_) (fun _ => ?_)
    | split
    | dsimp only
    | (dsimp +zetaDelta only; split)

theorem execGclStartTime_kept {o : State} {g : Fin 19} {s : State} (h : Kept o s) : Keeps o (execGclStartTime g s) := by
  unfold execGclStartTime
  repeat' first
    | with_reducible assumption
    | with_reducible refine State.openList_kept ?_
    | with_reducible refine keeps_next ?_
    | with_reducible refine kept_ite (fun _ => ?_) (fun _ => ?_)
    | split
    | dsimp only
    | (dsimp +zetaDelta only; split)

theorem execGclEntryBoundary_kept {o : State} {g : Fin 19} {s : State} (h : Kept o s) : Keeps o (execGclEntryBoundary g s) := by
  unfold execGclEntryBoundary
  repeat' first
    | with_reducible assumption
    | with_reducible exact rfl
    | with_reducible refine State.setGcl_kept ?_
    | with_reducible refine State.put_kept ?_
    | with_reducible refine keeps_next ?_
    | (extract_lets +onlyGivenNames s; refine kept_have (o := o) (x := s) ?_ (fun h => ?_); (on_goal 1 => unfold s; clear s); (on_goal 2 => try clear_value s))
    | (extract_lets +onlyGivenNames x; first | (have _p : PldSt := x; clear _p; unfold x) | skip)
    | simp only [↓kept_mk_iff]
    | with_reducible refine kept_ite (fun _ => ?_) (fun _ => ?_)
    | split
    | dsimp only
    | (dsimp +zetaDelta only; split)

theorem execGuardBandStart_kept {o : State} {g : Fin 19} {cls : Fin 8} {s : State} (h : Kept o s) : Keeps o (execGuardBandStart g cls s) := by
  unfold execGuardBandStart
  repeat' first
    | with_reducible assumption
    | with_reducible refine State.refreshOut_kept ?_
    | with_reducible refine State.countGuarded_kept ?_
    | with_reducible refine keeps_next ?_
    | with_reducible refine kept_ite (fun _ => ?_) (fun _ => ?_)
    | split
    | dsimp only
    | (dsimp +zetaDelta only; split)

end Sys2Proof.Machine
end

