-- ==== Sys2Proof/Laws/KeptNet.lean ====
section
/-! SUPPORT. What the operations of Machine/Net.lean keep (Laws/Kept.lean). -/

set_option linter.all false

namespace Sys2Proof.Machine

theorem State.setEthState_kept {o : State} {s : State} {n : Nat} {st : Nat} (h : Kept o s) : Kept o (State.setEthState s n st) := by
  unfold State.setEthState
  repeat' first
    | with_reducible assumption
    | with_reducible exact rfl
    | with_reducible refine State.put_kept ?_
    | with_reducible refine State.pendPrivate_kept ?_
    | (extract_lets +onlyGivenNames s; refine kept_have (o := o) (x := s) ?_ (fun h => ?_); (on_goal 1 => unfold s; clear s); (on_goal 2 => try clear_value s))
    | (extract_lets +onlyGivenNames x; first | (have _p : PldSt := x; clear _p; unfold x) | skip)
    | simp only [↓kept_mk_iff]
    | with_reducible refine kept_ite (fun _ => ?_) (fun _ => ?_)
    | split
    | dsimp only
    | (dsimp +zetaDelta only; split)

theorem State.setGuards_kept {o : State} {s : State} {n : Nat} {code : Nat} (h : Kept o s) : Kept o (State.setGuards s n code) := by
  unfold State.setGuards
  repeat' first
    | with_reducible assumption
    | with_reducible refine State.put_kept ?_
    | with_reducible refine State.each_kept ?_ (fun s x h => ?_)
    | (extract_lets +onlyGivenNames s; refine kept_have (o := o) (x := s) ?_ (fun h => ?_); (on_goal 1 => unfold s; clear s); (on_goal 2 => try clear_value s))
    | (extract_lets +onlyGivenNames x; first | (have _p : PldSt := x; clear _p; unfold x) | skip)
    | dsimp only

theorem State.gclIdle_kept {o : State} {s : State} {g : Nat} (h : Kept o s) : Kept o (State.gclIdle s g) := by
  unfold State.gclIdle
  repeat' first
    | with_reducible assumption
    | with_reducible exact rfl
    | with_reducible refine State.setGcl_kept ?_
    | with_reducible refine State.put_kept ?_
    | (extract_lets +onlyGivenNames s; refine kept_have (o := o) (x := s) ?_ (fun h => ?_); (on_goal 1 => unfold s; clear s); (on_goal 2 => try clear_value s))
    | (extract_lets +onlyGivenNames x; first | (have _p : PldSt := x; clear _p; unfold x) | skip)
    | simp only [↓kept_mk_iff]
    | dsimp only

theorem State.ethDisable_kept {o : State} {s : State} {n : Nat} (h : Kept o s) : Kept o (State.ethDisable s n) := by
  unfold State.ethDisable
  repeat' first
    | with_reducible assumption
    | with_reducible exact rfl
    | with_reducible refine State.failWork_kept ?_
    | with_reducible refine State.setEthState_kept ?_
    | with_reducible refine State.withdraw_kept ?_
    | with_reducible refine State.put_kept ?_
    | (extract_lets +onlyGivenNames s; refine kept_have (o := o) (x := s) ?_ (fun h => ?_); (on_goal 1 => unfold s; clear s); (on_goal 2 => try clear_value s))
    | (extract_lets +onlyGivenNames x; first | (have _p : PldSt := x; clear _p; unfold x) | skip)
    | simp only [↓kept_mk_iff]
    | with_reducible refine kept_foldl ?_ (fun s x h => ?_)
    | with_reducible refine kept_foldl_fst ?_ (fun p x h => ?_)
    | with_reducible refine kept_ite (fun _ => ?_) (fun _ => ?_)
    | split
    | dsimp only
    | (dsimp +zetaDelta only; split)

theorem State.ethEnable_kept {o : State} {s : State} {n : Nat} (h : Kept o s) : Kept o (State.ethEnable s n) := by
  unfold State.ethEnable
  repeat' first
    | with_reducible assumption
    | with_reducible refine State.setEthState_kept ?_
    | with_reducible refine State.announce_kept ?_
    | with_reducible refine State.resendOwn_kept ?_
    | with_reducible refine State.put_kept ?_
    | (extract_lets +onlyGivenNames s; refine kept_have (o := o) (x := s) ?_ (fun h => ?_); (on_goal 1 => unfold s; clear s); (on_goal 2 => try clear_value s))
    | (extract_lets +onlyGivenNames x; first | (have _p : PldSt := x; clear _p; unfold x) | skip)
    | with_reducible refine kept_ite (fun _ => ?_) (fun _ => ?_)
    | split
    | dsimp only
    | (dsimp +zetaDelta only; split)

theorem State.ethRecord_kept {o : State} {s : State} {n : Nat} {src : Nat} (h : Kept o s) : Kept o (State.ethRecord s n src) := by
  unfold State.ethRecord
  repeat' first
    | with_reducible assumption
    | with_reducible exact rfl
    | with_reducible refine State.ethDisable_kept ?_
    | with_reducible refine State.record_kept ?_
    | (extract_lets +onlyGivenNames s; refine kept_have (o := o) (x := s) ?_ (fun h => ?_); (on_goal 1 => unfold s; clear s); (on_goal 2 => try clear_value s))
    | (extract_lets +onlyGivenNames x; first | (have _p : PldSt := x; clear _p; unfold x) | skip)
    | simp only [↓kept_mk_iff]
    | with_reducible refine kept_ite (fun _ => ?_) (fun _ => ?_)
    | split
    | dsimp only
    | (dsimp +zetaDelta only; split)

theorem State.writeEthCfg_kept {o : State} {s : State} {n : Nat} {v : Nat} (h : Kept o s) : Kept o (State.writeEthCfg s n v) := by
  unfold State.writeEthCfg
  repeat' first
    | with_reducible assumption
    | with_reducible refine State.ethDisable_kept ?_
    | with_reducible refine State.ethEnable_kept ?_
    | with_reducible refine State.setGuards_kept ?_
    | with_reducible refine State.put_kept ?_
    | with_reducible refine State.raise_kept ?_
    | (extract_lets +onlyGivenNames s; refine kept_have (o := o) (x := s) ?_ (fun h => ?_); (on_goal 1 => unfold s; clear s); (on_goal 2 => try clear_value s))
    | (extract_lets +onlyGivenNames x; first | (have _p : PldSt := x; clear _p; unfold x) | skip)
    | with_reducible refine kept_ite (fun _ => ?_) (fun _ => ?_)
    | split
    | dsimp only
    | (dsimp +zetaDelta only; split)

theorem execEthPortEnable_kept {o : State} {port : Fin 16} {val : Word} {s : State} (h : Kept o s) : Keeps o (execEthPortEnable port val s) := by
  unfold execEthPortEnable
  repeat' first
    | with_reducible assumption
    | with_reducible exact rfl
    | with_reducible refine State.writeEthCfg_kept ?_
    | with_reducible refine keeps_next ?_
    | (extract_lets +onlyGivenNames s; refine kept_have (o := o) (x := s) ?_ (fun h => ?_); (on_goal 1 => unfold s; clear s); (on_goal 2 => try clear_value s))
    | (extract_lets +onlyGivenNames x; first | (have _p : PldSt := x; clear _p; unfold x) | skip)
    | simp only [↓kept_mk_iff]
    | with_reducible refine kept_ite (fun _ => ?_) (fun _ => ?_)
    | split
    | dsimp only
    | (dsimp +zetaDelta only; split)

theorem execEthPortDisable_kept {o : State} {port : Fin 16} {val : Word} {s : State} (h : Kept o s) : Keeps o (execEthPortDisable port val s) := by
  unfold execEthPortDisable
  repeat' first
    | with_reducible assumption
    | with_reducible exact rfl
    | with_reducible refine State.writeEthCfg_kept ?_
    | with_reducible refine keeps_next ?_
    | (extract_lets +onlyGivenNames s; refine kept_have (o := o) (x := s) ?_ (fun h => ?_); (on_goal 1 => unfold s; clear s); (on_goal 2 => try clear_value s))
    | (extract_lets +onlyGivenNames x; first | (have _p : PldSt := x; clear _p; unfold x) | skip)
    | simp only [↓kept_mk_iff]
    | with_reducible refine kept_ite (fun _ => ?_) (fun _ => ?_)
    | split
    | dsimp only
    | (dsimp +zetaDelta only; split)

theorem execEthDrainDone_kept {o : State} {port : Fin 16} {s : State} (h : Kept o s) : Keeps o (execEthDrainDone port s) := by
  unfold execEthDrainDone
  repeat' first
    | with_reducible assumption
    | with_reducible exact rfl
    | with_reducible refine State.ethEnable_kept ?_
    | with_reducible refine State.setEth_kept ?_
    | with_reducible refine State.showPools_kept ?_
    | with_reducible refine State.setEthState_kept ?_
    | with_reducible refine State.endWithdraw_kept ?_
    | with_reducible refine State.setFlap_kept ?_
    | with_reducible refine keeps_next ?_
    | (extract_lets +onlyGivenNames s; refine kept_have (o := o) (x := s) ?_ (fun h => ?_); (on_goal 1 => unfold s; clear s); (on_goal 2 => try clear_value s))
    | (extract_lets +onlyGivenNames x; first | (have _p : PldSt := x; clear _p; unfold x) | skip)
    | simp only [↓kept_mk_iff]
    | with_reducible refine kept_ite (fun _ => ?_) (fun _ => ?_)
    | split
    | dsimp only
    | (dsimp +zetaDelta only; split)

theorem State.ethTear_kept {o : State} {s : State} {n : Nat} (h : Kept o s) : Kept o (State.ethTear s n) := by
  unfold State.ethTear
  repeat' first
    | with_reducible assumption
    | with_reducible exact rfl
    | with_reducible refine State.tearWork_kept ?_
    | with_reducible refine State.setEth_kept ?_
    | (extract_lets +onlyGivenNames s; refine kept_have (o := o) (x := s) ?_ (fun h => ?_); (on_goal 1 => unfold s; clear s); (on_goal 2 => try clear_value s))
    | (extract_lets +onlyGivenNames x; first | (have _p : PldSt := x; clear _p; unfold x) | skip)
    | simp only [↓kept_mk_iff]
    | split
    | dsimp only
    | (dsimp +zetaDelta only; split)

theorem State.ethLinkLost_kept {o : State} {s : State} {n : Nat} (h : Kept o s) : Kept o (State.ethLinkLost s n) := by
  unfold State.ethLinkLost
  repeat' first
    | with_reducible assumption
    | with_reducible exact rfl
    | with_reducible refine State.ethRecord_kept ?_
    | with_reducible refine State.setEth_kept ?_
    | with_reducible refine State.setEthState_kept ?_
    | with_reducible refine State.setFlap_kept ?_
    | with_reducible refine State.ethTear_kept ?_
    | with_reducible refine State.put_kept ?_
    | with_reducible refine State.inc_kept ?_
    | (extract_lets +onlyGivenNames s; refine kept_have (o := o) (x := s) ?_ (fun h => ?_); (on_goal 1 => unfold s; clear s); (on_goal 2 => try clear_value s))
    | (extract_lets +onlyGivenNames x; first | (have _p : PldSt := x; clear _p; unfold x) | skip)
    | simp only [↓kept_mk_iff]
    | with_reducible refine kept_ite (fun _ => ?_) (fun _ => ?_)
    | split
    | dsimp only
    | (dsimp +zetaDelta only; split)

theorem State.ethLinkUp_kept {o : State} {s : State} {n : Nat} {code : Nat} (h : Kept o s) : Kept o (State.ethLinkUp s n code) := by
  unfold State.ethLinkUp
  repeat' first
    | with_reducible assumption
    | with_reducible refine State.pauseUpdate_kept ?_
    | with_reducible refine State.gclIdle_kept ?_
    | with_reducible refine State.ethRecord_kept ?_
    | with_reducible refine State.epLinkReturn_kept ?_
    | with_reducible refine State.setGuards_kept ?_
    | with_reducible refine State.put_kept ?_
    | (extract_lets +onlyGivenNames s; refine kept_have (o := o) (x := s) ?_ (fun h => ?_); (on_goal 1 => unfold s; clear s); (on_goal 2 => try clear_value s))
    | (extract_lets +onlyGivenNames x; first | (have _p : PldSt := x; clear _p; unfold x) | skip)
    | with_reducible refine kept_ite (fun _ => ?_) (fun _ => ?_)
    | split
    | dsimp only
    | (dsimp +zetaDelta only; split)

theorem execQsgmiiSyncLoss_kept {o : State} {link : Fin 4} {s : State} (h : Kept o s) : Keeps o (execQsgmiiSyncLoss link s) := by
  unfold execQsgmiiSyncLoss
  repeat' first
    | with_reducible assumption
    | with_reducible refine State.ethLinkLost_kept ?_
    | with_reducible refine State.dropBits_kept ?_
    | with_reducible refine State.each_kept ?_ (fun s x h => ?_)
    | with_reducible refine State.pendPrivate_kept ?_
    | with_reducible refine keeps_next ?_
    | (extract_lets +onlyGivenNames s; refine kept_have (o := o) (x := s) ?_ (fun h => ?_); (on_goal 1 => unfold s; clear s); (on_goal 2 => try clear_value s))
    | (extract_lets +onlyGivenNames x; first | (have _p : PldSt := x; clear _p; unfold x) | skip)
    | with_reducible refine kept_ite (fun _ => ?_) (fun _ => ?_)
    | split
    | dsimp only
    | (dsimp +zetaDelta only; split)

theorem execQsgmiiControlWord_kept {o : State} {port : Fin 16} {link : Bool} {full : Bool} {speed : Fin 3} {s : State} (h : Kept o s) : Keeps o (execQsgmiiControlWord port link full speed s) := by
  unfold execQsgmiiControlWord
  repeat' first
    | with_reducible assumption
    | with_reducible refine State.ethLinkUp_kept ?_
    | with_reducible refine State.ethLinkLost_kept ?_
    | with_reducible refine State.riseBit_kept ?_
    | with_reducible refine keeps_next ?_
    | (extract_lets +onlyGivenNames s; refine kept_have (o := o) (x := s) ?_ (fun h => ?_); (on_goal 1 => unfold s; clear s); (on_goal 2 => try clear_value s))
    | (extract_lets +onlyGivenNames x; first | (have _p : PldSt := x; clear _p; unfold x) | skip)
    | with_reducible refine kept_ite (fun _ => ?_) (fun _ => ?_)
    | split
    | dsimp only
    | (dsimp +zetaDelta only; split)

theorem execEthLinkUpTimer_kept {o : State} {port : Fin 16} {s : State} (h : Kept o s) : Keeps o (execEthLinkUpTimer port s) := by
  unfold execEthLinkUpTimer
  repeat' first
    | with_reducible assumption
    | with_reducible refine State.setEthState_kept ?_
    | with_reducible refine keeps_next ?_
    | with_reducible refine kept_ite (fun _ => ?_) (fun _ => ?_)
    | split
    | dsimp only
    | (dsimp +zetaDelta only; split)

theorem State.pauseReceived_kept {o : State} {s : State} {n : Nat} {quanta : Nat} (h : Kept o s) : Kept o (State.pauseReceived s n quanta) := by
  unfold State.pauseReceived
  repeat' first
    | with_reducible assumption
    | with_reducible exact rfl
    | with_reducible refine State.setEth_kept ?_
    | with_reducible refine State.setEthState_kept ?_
    | with_reducible refine State.inc_kept ?_
    | (extract_lets +onlyGivenNames s; refine kept_have (o := o) (x := s) ?_ (fun h => ?_); (on_goal 1 => unfold s; clear s); (on_goal 2 => try clear_value s))
    | (extract_lets +onlyGivenNames x; first | (have _p : PldSt := x; clear _p; unfold x) | skip)
    | simp only [↓kept_mk_iff]
    | with_reducible refine kept_ite (fun _ => ?_) (fun _ => ?_)
    | split
    | dsimp only
    | (dsimp +zetaDelta only; split)

theorem execEthPauseReceive_kept {o : State} {port : Fin 16} {quanta : BitVec 16} {s : State} (h : Kept o s) : Keeps o (execEthPauseReceive port quanta s) := by
  unfold execEthPauseReceive
  repeat' first
    | with_reducible assumption
    | with_reducible refine State.pauseReceived_kept ?_
    | with_reducible refine keeps_next ?_
    | with_reducible refine kept_ite (fun _ => ?_) (fun _ => ?_)
    | split
    | dsimp only
    | (dsimp +zetaDelta only; split)

theorem execEthPauseExpiry_kept {o : State} {port : Fin 16} {s : State} (h : Kept o s) : Keeps o (execEthPauseExpiry port s) := by
  unfold execEthPauseExpiry
  repeat' first
    | with_reducible assumption
    | with_reducible exact rfl
    | with_reducible refine State.setEth_kept ?_
    | with_reducible refine State.setEthState_kept ?_
    | with_reducible refine keeps_next ?_
    | (extract_lets +onlyGivenNames s; refine kept_have (o := o) (x := s) ?_ (fun h => ?_); (on_goal 1 => unfold s; clear s); (on_goal 2 => try clear_value s))
    | (extract_lets +onlyGivenNames x; first | (have _p : PldSt := x; clear _p; unfold x) | skip)
    | simp only [↓kept_mk_iff]
    | with_reducible refine kept_ite (fun _ => ?_) (fun _ => ?_)
    | split
    | dsimp only
    | (dsimp +zetaDelta only; split)

theorem execEthPauseRepeat_kept {o : State} {port : Fin 16} {s : State} (h : Kept o s) : Keeps o (execEthPauseRepeat port s) := by
  unfold execEthPauseRepeat
  repeat' first
    | with_reducible assumption
    | with_reducible refine State.pauseUpdate_kept ?_
    | with_reducible refine State.sendPause_kept ?_
    | with_reducible refine keeps_next ?_
    | with_reducible refine kept_ite (fun _ => ?_) (fun _ => ?_)
    | split
    | dsimp only
    | (dsimp +zetaDelta only; split)

theorem State.ethStart_kept {o : State} {s : State} {n : Nat} (h : Kept o s) : Kept o (State.ethStart s n) := by
  unfold State.ethStart
  repeat' first
    | with_reducible assumption
    | with_reducible exact rfl
    | with_reducible refine State.emit_kept ?_
    | with_reducible refine State.startEmission_kept ?_
    | with_reducible refine State.setEth_kept ?_
    | with_reducible refine State.takeWork_kept ?_
    | with_reducible refine State.refreshOut_kept ?_
    | with_reducible refine State.spend_kept ?_
    | (extract_lets +onlyGivenNames s; refine kept_have (o := o) (x := s) ?_ (fun h => ?_); (on_goal 1 => unfold s; clear s); (on_goal 2 => try clear_value s))
    | (extract_lets +onlyGivenNames x; first | (have _p : PldSt := x; clear _p; unfold x) | skip)
    | simp only [↓kept_mk_iff]
    | with_reducible refine kept_ite (fun _ => ?_) (fun _ => ?_)
    | split
    | dsimp only
    | (dsimp +zetaDelta only; split)

theorem execEthTxCommit_kept {o : State} {port : Fin 16} {s : State} (h : Kept o s) : Keeps o (execEthTxCommit port s) := by
  unfold execEthTxCommit
  repeat' first
    | with_reducible assumption
    | with_reducible exact rfl
    | with_reducible refine State.commit_kept ?_
    | with_reducible refine State.setEthState_kept ?_
    | with_reducible refine State.setEth_kept ?_
    | with_reducible refine State.inc_kept ?_
    | with_reducible refine keeps_next ?_
    | (extract_lets +onlyGivenNames s; refine kept_have (o := o) (x := s) ?_ (fun h => ?_); (on_goal 1 => unfold s; clear s); (on_goal 2 => try clear_value s))
    | (extract_lets +onlyGivenNames x; first | (have _p : PldSt := x; clear _p; unfold x) | skip)
    | simp only [↓kept_mk_iff]
    | with_reducible refine kept_ite (fun _ => ?_) (fun _ => ?_)
    | split
    | dsimp only
    | (dsimp +zetaDelta only; split)

theorem State.ethFill_kept {o : State} {a0 : Nat} {a1 : State} {a2 : Nat} (h : Kept o a1) : Kept o (State.ethFill a0 a1 a2) := by
  induction a0 generalizing a1 a2 with
  | zero =>
    unfold State.ethFill
    repeat' first
      | with_reducible assumption
      | with_reducible exact rfl
      | with_reducible refine State.setEth_kept ?_
      | with_reducible refine State.returnData_kept ?_
      | with_reducible refine State.failWork_kept ?_
      | (extract_lets +onlyGivenNames s; refine kept_have (o := o) (x := s) ?_ (fun h => ?_); (on_goal 1 => unfold s; clear s); (on_goal 2 => try clear_value s))
      | (extract_lets +onlyGivenNames x; first | (have _p : PldSt := x; clear _p; unfold x) | skip)
      | simp only [↓kept_mk_iff]
      | with_reducible refine kept_ite (fun _ => ?_) (fun _ => ?_)
      | split
      | dsimp only
      | (dsimp +zetaDelta only; split)
  | succ k ih =>
    unfold State.ethFill
    repeat' first
      | with_reducible apply ih
      | with_reducible assumption
      | with_reducible exact rfl
      | with_reducible refine State.setEth_kept ?_
      | with_reducible refine State.returnData_kept ?_
      | with_reducible refine State.failWork_kept ?_
      | (extract_lets +onlyGivenNames s; refine kept_have (o := o) (x := s) ?_ (fun h => ?_); (on_goal 1 => unfold s; clear s); (on_goal 2 => try clear_value s))
      | (extract_lets +onlyGivenNames x; first | (have _p : PldSt := x; clear _p; unfold x) | skip)
      | simp only [↓kept_mk_iff]
      | with_reducible refine kept_ite (fun _ => ?_) (fun _ => ?_)
      | split
      | dsimp only
      | (dsimp +zetaDelta only; split)

theorem State.ethDeliver_kept {o : State} {s : State} {n : Nat} (h : Kept o s) : Kept o (State.ethDeliver s n) := by
  unfold State.ethDeliver
  repeat' first
    | with_reducible assumption
    | with_reducible refine State.ethFill_kept ?_
    | with_reducible refine State.showPools_kept ?_
    | with_reducible refine State.pauseUpdate_kept ?_
    | dsimp only

theorem State.ethStore_kept {o : State} {s : State} {n : Nat} {bytes : List Byte} (h : Kept o s) : Kept o (State.ethStore s n bytes) := by
  unfold State.ethStore
  repeat' first
    | with_reducible assumption
    | with_reducible exact rfl
    | with_reducible refine State.setEth_kept ?_
    | with_reducible refine State.ethDeliver_kept ?_
    | with_reducible refine State.fillCells_kept ?_
    | with_reducible refine kept_fst (by assumption) (State.fillCells_kept ?_)
    | with_reducible refine State.spill_kept ?_
    | with_reducible refine State.inc_kept ?_
    | (extract_lets +onlyGivenNames s; refine kept_have (o := o) (x := s) ?_ (fun h => ?_); (on_goal 1 => unfold s; clear s); (on_goal 2 => try clear_value s))
    | (extract_lets +onlyGivenNames x; first | (have _p : PldSt := x; clear _p; unfold x) | skip)
    | simp only [↓kept_mk_iff]
    | with_reducible refine kept_ite (fun _ => ?_) (fun _ => ?_)
    | split
    | dsimp only
    | (dsimp +zetaDelta only; split)

theorem execEthFrameReceive_kept {o : State} {port : Fin 16} {bytes : List Byte} {s : State} (h : Kept o s) : Keeps o (execEthFrameReceive port bytes s) := by
  unfold execEthFrameReceive
  repeat' first
    | with_reducible assumption
    | with_reducible refine State.ethStore_kept ?_
    | with_reducible refine State.emit_kept ?_
    | with_reducible refine State.pendPrivate_kept ?_
    | with_reducible refine State.pauseReceived_kept ?_
    | with_reducible refine State.spill_kept ?_
    | with_reducible refine State.inc_kept ?_
    | with_reducible refine keeps_next ?_
    | (extract_lets +onlyGivenNames s; refine kept_have (o := o) (x := s) ?_ (fun h => ?_); (on_goal 1 => unfold s; clear s); (on_goal 2 => try clear_value s))
    | (extract_lets +onlyGivenNames x; first | (have _p : PldSt := x; clear _p; unfold x) | skip)
    | with_reducible refine kept_ite (fun _ => ?_) (fun _ => ?_)
    | split
    | dsimp only
    | (dsimp +zetaDelta only; split)

end Sys2Proof.Machine
end

