-- ==== Sys2Proof/Laws/KeptHostQueues.lean ====
section
/-! SUPPORT. What the operations of Machine/HostQueues.lean keep (Laws/Kept.lean). -/

set_option linter.all false

namespace Sys2Proof.Machine

theorem State.hqReject_kept {o : State} {s : State} (h : Kept o s) : Kept o (State.hqReject s) := by
  unfold State.hqReject
  repeat' first
    | with_reducible assumption
    | with_reducible refine State.raise_kept ?_
    | dsimp only

theorem execHqCtrlEn_kept {o : State} {val : Word} {s : State} (h : Kept o s) : Keeps o (execHqCtrlEn val s) := by
  unfold execHqCtrlEn
  repeat' first
    | with_reducible assumption
    | with_reducible refine State.put_kept ?_
    | with_reducible refine State.hqReject_kept ?_
    | with_reducible refine keeps_next ?_
    | with_reducible refine kept_ite (fun _ => ?_) (fun _ => ?_)
    | split
    | dsimp only
    | (dsimp +zetaDelta only; split)

theorem State.writeConsumed_kept {o : State} {s : State} {sq : Nat} (h : Kept o s) : Kept o (State.writeConsumed s sq) := by
  unfold State.writeConsumed
  repeat' first
    | with_reducible assumption
    | with_reducible exact rfl
    | with_reducible refine State.hostWrite_kept ?_
    | (extract_lets +onlyGivenNames s; refine kept_have (o := o) (x := s) ?_ (fun h => ?_); (on_goal 1 => unfold s; clear s); (on_goal 2 => try clear_value s))
    | (extract_lets +onlyGivenNames x; first | (have _p : PldSt := x; clear _p; unfold x) | skip)
    | simp only [↓kept_mk_iff]
    | with_reducible refine kept_ite (fun _ => ?_) (fun _ => ?_)
    | split
    | dsimp only
    | (dsimp +zetaDelta only; split)

theorem State.replaySq_kept {o : State} {s : State} {sq : Nat} (h : Kept o s) : Kept o (State.replaySq s sq) := by
  unfold State.replaySq
  repeat' first
    | with_reducible assumption
    | with_reducible exact rfl
    | with_reducible refine State.kick_kept ?_
    | with_reducible refine State.updItem_kept ?_
    | (extract_lets +onlyGivenNames s; refine kept_have (o := o) (x := s) ?_ (fun h => ?_); (on_goal 1 => unfold s; clear s); (on_goal 2 => try clear_value s))
    | (extract_lets +onlyGivenNames x; first | (have _p : PldSt := x; clear _p; unfold x) | skip)
    | simp only [↓kept_mk_iff]
    | with_reducible refine kept_foldl ?_ (fun s x h => ?_)
    | with_reducible refine kept_foldl_fst ?_ (fun p x h => ?_)
    | dsimp only

theorem execSqEnable_kept {o : State} {sq : BitVec 8} {val : Word} {s : State} (h : Kept o s) : Keeps o (execSqEnable sq val s) := by
  unfold execSqEnable
  repeat' first
    | with_reducible assumption
    | with_reducible exact rfl
    | with_reducible refine State.replaySq_kept ?_
    | with_reducible refine State.writeConsumed_kept ?_
    | with_reducible refine State.put_kept ?_
    | with_reducible refine State.hqReject_kept ?_
    | with_reducible refine keeps_next ?_
    | (extract_lets +onlyGivenNames s; refine kept_have (o := o) (x := s) ?_ (fun h => ?_); (on_goal 1 => unfold s; clear s); (on_goal 2 => try clear_value s))
    | (extract_lets +onlyGivenNames x; first | (have _p : PldSt := x; clear _p; unfold x) | skip)
    | simp only [↓kept_mk_iff]
    | with_reducible refine kept_ite (fun _ => ?_) (fun _ => ?_)
    | split
    | dsimp only
    | (dsimp +zetaDelta only; split)

theorem execSqDisable_kept {o : State} {sq : BitVec 8} {val : Word} {s : State} (h : Kept o s) : Keeps o (execSqDisable sq val s) := by
  unfold execSqDisable
  repeat' first
    | with_reducible assumption
    | with_reducible exact rfl
    | with_reducible refine State.put_kept ?_
    | with_reducible refine State.flushSq_kept ?_
    | with_reducible refine State.pumpRecords_kept ?_
    | with_reducible refine State.settleSq_kept ?_
    | with_reducible refine State.pump_kept ?_
    | with_reducible refine State.hqReject_kept ?_
    | with_reducible refine keeps_next ?_
    | (extract_lets +onlyGivenNames s; refine kept_have (o := o) (x := s) ?_ (fun h => ?_); (on_goal 1 => unfold s; clear s); (on_goal 2 => try clear_value s))
    | (extract_lets +onlyGivenNames x; first | (have _p : PldSt := x; clear _p; unfold x) | skip)
    | simp only [↓kept_mk_iff]
    | with_reducible refine kept_ite (fun _ => ?_) (fun _ => ?_)
    | split
    | dsimp only
    | (dsimp +zetaDelta only; split)

theorem execCqEnable_kept {o : State} {cq : BitVec 8} {val : Word} {s : State} (h : Kept o s) : Keeps o (execCqEnable cq val s) := by
  unfold execCqEnable
  repeat' first
    | with_reducible assumption
    | with_reducible exact rfl
    | with_reducible refine State.put_kept ?_
    | with_reducible refine State.hqReject_kept ?_
    | with_reducible refine keeps_next ?_
    | (extract_lets +onlyGivenNames s; refine kept_have (o := o) (x := s) ?_ (fun h => ?_); (on_goal 1 => unfold s; clear s); (on_goal 2 => try clear_value s))
    | (extract_lets +onlyGivenNames x; first | (have _p : PldSt := x; clear _p; unfold x) | skip)
    | simp only [↓kept_mk_iff]
    | with_reducible refine kept_ite (fun _ => ?_) (fun _ => ?_)
    | split
    | dsimp only
    | (dsimp +zetaDelta only; split)

theorem execDoorbellPollIssue_kept {o : State} {line : Fin 32} {s : State} (h : Kept o s) : Keeps o (execDoorbellPollIssue line s) := by
  unfold execDoorbellPollIssue
  repeat' first
    | with_reducible assumption
    | with_reducible exact rfl
    | with_reducible refine State.emit_kept ?_
    | with_reducible refine keeps_next ?_
    | (extract_lets +onlyGivenNames s; refine kept_have (o := o) (x := s) ?_ (fun h => ?_); (on_goal 1 => unfold s; clear s); (on_goal 2 => try clear_value s))
    | (extract_lets +onlyGivenNames x; first | (have _p : PldSt := x; clear _p; unfold x) | skip)
    | simp only [↓kept_mk_iff]
    | with_reducible refine kept_ite (fun _ => ?_) (fun _ => ?_)
    | split
    | dsimp only
    | (dsimp +zetaDelta only; split)

theorem State.doorbell_kept {o : State} {s : State} {n : Nat} {w : Nat} (h : Kept o s) : Kept o (State.doorbell s n w).1 := by
  unfold State.doorbell
  repeat' first
    | with_reducible assumption
    | with_reducible exact rfl
    | with_reducible refine State.sqError_kept ?_
    | with_reducible refine State.recordWith_kept ?_
    | with_reducible refine State.inc_kept ?_
    | (extract_lets +onlyGivenNames s; refine kept_have (o := o) (x := s) ?_ (fun h => ?_); (on_goal 1 => unfold s; clear s); (on_goal 2 => try clear_value s))
    | (extract_lets +onlyGivenNames x; first | (have _p : PldSt := x; clear _p; unfold x) | skip)
    | simp only [↓kept_mk_iff]
    | exact h
    | with_reducible refine kept_ite (fun _ => ?_) (fun _ => ?_)
    | split
    | dsimp only
    | (dsimp +zetaDelta only; split)

theorem State.doorbells_kept {o s : State} {line : Nat} {ws : List Word64} (h : Kept o s) : Kept o (s.doorbells line ws).1 :=
  kept_foldl_fst h fun _ _ h => State.doorbell_kept h

theorem State.pollReturn_kept {o s : State} {line : Nat} {words : Option (List Word64)} (h : Kept o s) :
    Kept o (s.pollReturn line words).1 := by
  unfold State.pollReturn
  split
  · exact h
  · have h₁ : Kept o ({ s with hq := { s.hq with polling := clearBit s.hq.polling line } } : State) := kept_mk h rfl
    generalize ({ s with hq := { s.hq with polling := clearBit s.hq.polling line } } : State) = s₁ at h₁
    cases words with
    | none => dsimp only; exact State.raise_kept (kept_mk h₁ rfl)
    | some ws =>
      dsimp only
      have h₂ := State.doorbells_kept (line := line) (ws := ws) h₁
      generalize s₁.doorbells line ws = p at h₂
      obtain ⟨s₂, found⟩ := p
      exact kept_mk (s := s₂) h₂ rfl

theorem execCqHeadPoll_kept {o : State} {line : Fin 32} {s : State} (h : Kept o s) : Keeps o (execCqHeadPoll line s) := by
  unfold execCqHeadPoll
  repeat' first
    | with_reducible assumption
    | with_reducible refine State.emit_kept ?_
    | with_reducible refine keeps_next ?_
    | with_reducible refine kept_ite (fun _ => ?_) (fun _ => ?_)
    | split
    | dsimp only
    | (dsimp +zetaDelta only; split)

theorem State.stopCq_kept {o : State} {s : State} {n : Nat} (h : Kept o s) : Kept o (State.stopCq s n) := by
  unfold State.stopCq
  repeat' first
    | with_reducible assumption
    | with_reducible exact rfl
    | with_reducible refine State.sqError_kept ?_
    | with_reducible refine State.each_kept ?_ (fun s x h => ?_)
    | (extract_lets +onlyGivenNames s; refine kept_have (o := o) (x := s) ?_ (fun h => ?_); (on_goal 1 => unfold s; clear s); (on_goal 2 => try clear_value s))
    | (extract_lets +onlyGivenNames x; first | (have _p : PldSt := x; clear _p; unfold x) | skip)
    | simp only [↓kept_mk_iff]
    | dsimp only

theorem State.badHead_kept {o : State} {s : State} {n : Nat} {head : Nat} (h : Kept o s) : Kept o (State.badHead s n head) := by
  unfold State.badHead
  repeat' first
    | with_reducible assumption
    | with_reducible refine State.stopCq_kept ?_
    | with_reducible refine State.recordWith_kept ?_
    | (extract_lets +onlyGivenNames s; refine kept_have (o := o) (x := s) ?_ (fun h => ?_); (on_goal 1 => unfold s; clear s); (on_goal 2 => try clear_value s))
    | (extract_lets +onlyGivenNames x; first | (have _p : PldSt := x; clear _p; unfold x) | skip)
    | with_reducible refine kept_ite (fun _ => ?_) (fun _ => ?_)
    | split
    | dsimp only
    | (dsimp +zetaDelta only; split)

theorem State.headWord_kept {o : State} {s : State} {n : Nat} {head : Nat} (h : Kept o s) : Kept o (State.headWord s n head) := by
  unfold State.headWord
  repeat' first
    | with_reducible assumption
    | with_reducible exact rfl
    | with_reducible refine State.badHead_kept ?_
    | (extract_lets +onlyGivenNames s; refine kept_have (o := o) (x := s) ?_ (fun h => ?_); (on_goal 1 => unfold s; clear s); (on_goal 2 => try clear_value s))
    | (extract_lets +onlyGivenNames x; first | (have _p : PldSt := x; clear _p; unfold x) | skip)
    | simp only [↓kept_mk_iff]
    | with_reducible refine kept_ite (fun _ => ?_) (fun _ => ?_)
    | split
    | dsimp only
    | (dsimp +zetaDelta only; split)

theorem execCqHeadReadReturn_kept {o : State} {line : Fin 32} {words : Option (List Word64)} {s : State} (h : Kept o s) : Keeps o (execCqHeadReadReturn line words s) := by
  unfold execCqHeadReadReturn
  repeat' first
    | with_reducible assumption
    | with_reducible exact rfl
    | with_reducible refine State.headWord_kept ?_
    | with_reducible refine State.each_kept ?_ (fun s x h => ?_)
    | with_reducible refine State.raise_kept ?_
    | with_reducible refine keeps_next ?_
    | (extract_lets +onlyGivenNames s; refine kept_have (o := o) (x := s) ?_ (fun h => ?_); (on_goal 1 => unfold s; clear s); (on_goal 2 => try clear_value s))
    | (extract_lets +onlyGivenNames x; first | (have _p : PldSt := x; clear _p; unfold x) | skip)
    | simp only [↓kept_mk_iff]
    | split
    | dsimp only
    | (dsimp +zetaDelta only; split)

theorem State.readSlots_kept {o : State} {s : State} {n : Nat} {c : Nat} {k' : Nat} (h : Kept o s) : Kept o (State.readSlots s n c k') := by
  unfold State.readSlots
  repeat' first
    | with_reducible assumption
    | with_reducible refine State.emit_kept ?_
    | (extract_lets +onlyGivenNames s; refine kept_have (o := o) (x := s) ?_ (fun h => ?_); (on_goal 1 => unfold s; clear s); (on_goal 2 => try clear_value s))
    | (extract_lets +onlyGivenNames x; first | (have _p : PldSt := x; clear _p; unfold x) | skip)
    | with_reducible refine kept_ite (fun _ => ?_) (fun _ => ?_)
    | split
    | dsimp only
    | (dsimp +zetaDelta only; split)

theorem execDescFetchIssue_kept {o : State} {s : State} (h : Kept o s) : Keeps o (execDescFetchIssue s) := by
  unfold execDescFetchIssue
  repeat' first
    | with_reducible assumption
    | with_reducible exact rfl
    | with_reducible refine State.readSlots_kept ?_
    | with_reducible refine keeps_next ?_
    | (extract_lets +onlyGivenNames s; refine kept_have (o := o) (x := s) ?_ (fun h => ?_); (on_goal 1 => unfold s; clear s); (on_goal 2 => try clear_value s))
    | (extract_lets +onlyGivenNames x; first | (have _p : PldSt := x; clear _p; unfold x) | skip)
    | simp only [↓kept_mk_iff]
    | with_reducible refine kept_ite (fun _ => ?_) (fun _ => ?_)
    | split
    | dsimp only
    | (dsimp +zetaDelta only; split)

theorem State.takeDesc_kept {o : State} {s : State} {n : Nat} {bs : List Byte} (h : Kept o s) : Kept o (State.takeDesc s n bs) := by
  unfold State.takeDesc
  repeat' first
    | with_reducible assumption
    | with_reducible refine State.complete_kept ?_
    | with_reducible refine State.setItems_kept ?_
    | with_reducible refine State.put_kept ?_
    | with_reducible refine State.inc_kept ?_
    | (extract_lets +onlyGivenNames s; refine kept_have (o := o) (x := s) ?_ (fun h => ?_); (on_goal 1 => unfold s; clear s); (on_goal 2 => try clear_value s))
    | (extract_lets +onlyGivenNames x; first | (have _p : PldSt := x; clear _p; unfold x) | skip)
    | with_reducible refine kept_ite (fun _ => ?_) (fun _ => ?_)
    | split
    | dsimp only
    | (dsimp +zetaDelta only; split)

theorem State.hifRead_kept {o : State} {s : State} {i : Item} (h : Kept o s) : Kept o (State.hifRead s i) := by
  unfold State.hifRead
  repeat' first
    | with_reducible assumption
    | with_reducible exact rfl
    | with_reducible refine State.updItem_kept ?_
    | with_reducible refine State.emit_kept ?_
    | (extract_lets +onlyGivenNames s; refine kept_have (o := o) (x := s) ?_ (fun h => ?_); (on_goal 1 => unfold s; clear s); (on_goal 2 => try clear_value s))
    | (extract_lets +onlyGivenNames x; first | (have _p : PldSt := x; clear _p; unfold x) | skip)
    | simp only [↓kept_mk_iff]
    | with_reducible refine kept_ite (fun _ => ?_) (fun _ => ?_)
    | split
    | dsimp only
    | (dsimp +zetaDelta only; split)

theorem State.hifPump_kept {o : State} {s : State} (h : Kept o s) : Kept o (State.hifPump s) := by
  unfold State.hifPump
  repeat' first
    | with_reducible assumption
    | with_reducible refine State.hifRead_kept ?_
    | with_reducible refine kept_foldl ?_ (fun s x h => ?_)
    | with_reducible refine kept_foldl_fst ?_ (fun p x h => ?_)
    | dsimp only

theorem execDescFetchReturn_kept {o : State} {sq : BitVec 8} {descs : Option (List (List Byte))} {s : State} (h : Kept o s) : Keeps o (execDescFetchReturn sq descs s) := by
  unfold execDescFetchReturn
  repeat' first
    | with_reducible assumption
    | with_reducible exact rfl
    | with_reducible refine State.writeConsumed_kept ?_
    | with_reducible refine State.showInflight_kept ?_
    | with_reducible refine State.hifPump_kept ?_
    | with_reducible refine State.takeDesc_kept ?_
    | with_reducible refine State.sqError_kept ?_
    | with_reducible refine State.recordWith_kept ?_
    | with_reducible refine State.settleSq_kept ?_
    | with_reducible refine keeps_next ?_
    | (extract_lets +onlyGivenNames s; refine kept_have (o := o) (x := s) ?_ (fun h => ?_); (on_goal 1 => unfold s; clear s); (on_goal 2 => try clear_value s))
    | (extract_lets +onlyGivenNames x; first | (have _p : PldSt := x; clear _p; unfold x) | skip)
    | simp only [↓kept_mk_iff]
    | with_reducible refine kept_foldl ?_ (fun s x h => ?_)
    | with_reducible refine kept_foldl_fst ?_ (fun p x h => ?_)
    | split
    | dsimp only
    | (dsimp +zetaDelta only; split)

theorem execPayloadReadDone_kept {o : State} {sq : BitVec 8} {num : Nat} {bytes : Option (List Byte)} {s : State} (h : Kept o s) : Keeps o (execPayloadReadDone sq num bytes s) := by
  unfold execPayloadReadDone
  repeat' first
    | with_reducible assumption
    | with_reducible exact rfl
    | with_reducible refine State.updItem_kept ?_
    | with_reducible refine State.complete_kept ?_
    | with_reducible refine keeps_next ?_
    | (extract_lets +onlyGivenNames s; refine kept_have (o := o) (x := s) ?_ (fun h => ?_); (on_goal 1 => unfold s; clear s); (on_goal 2 => try clear_value s))
    | (extract_lets +onlyGivenNames x; first | (have _p : PldSt := x; clear _p; unfold x) | skip)
    | simp only [↓kept_mk_iff]
    | with_reducible refine kept_ite (fun _ => ?_) (fun _ => ?_)
    | split
    | dsimp only
    | (dsimp +zetaDelta only; split)

theorem State.acceptAt_kept {o : State} {s : State} {i : Item} {slot : Nat} {off : Nat} {len : Nat} (h : Kept o s) : Kept o (State.acceptAt s i slot off len) := by
  unfold State.acceptAt
  repeat' first
    | with_reducible assumption
    | with_reducible exact rfl
    | with_reducible refine State.emit_kept ?_
    | with_reducible refine State.inc_kept ?_
    | with_reducible refine State.writeTable_kept ?_
    | with_reducible refine State.showSpool_kept ?_
    | with_reducible refine State.updItem_kept ?_
    | with_reducible refine State.hostWrite_kept ?_
    | (extract_lets +onlyGivenNames s; refine kept_have (o := o) (x := s) ?_ (fun h => ?_); (on_goal 1 => unfold s; clear s); (on_goal 2 => try clear_value s))
    | (extract_lets +onlyGivenNames x; first | (have _p : PldSt := x; clear _p; unfold x) | skip)
    | simp only [↓kept_mk_iff]
    | with_reducible refine kept_ite (fun _ => ?_) (fun _ => ?_)
    | split
    | dsimp only
    | (dsimp +zetaDelta only; split)

theorem execItemAccept_kept {o : State} {sq : BitVec 8} {num : Nat} {s : State} (h : Kept o s) : Keeps o (execItemAccept sq num s) := by
  unfold execItemAccept
  repeat' first
    | with_reducible assumption
    | with_reducible exact rfl
    | with_reducible refine State.acceptAt_kept ?_
    | with_reducible refine keeps_next ?_
    | (extract_lets +onlyGivenNames s; refine kept_have (o := o) (x := s) ?_ (fun h => ?_); (on_goal 1 => unfold s; clear s); (on_goal 2 => try clear_value s))
    | (extract_lets +onlyGivenNames x; first | (have _p : PldSt := x; clear _p; unfold x) | skip)
    | simp only [↓kept_mk_iff]
    | with_reducible refine kept_ite (fun _ => ?_) (fun _ => ?_)
    | split
    | dsimp only
    | (dsimp +zetaDelta only; split)

theorem execJournalFlushReadDone_kept {o : State} {covered : Nat} {s : State} (h : Kept o s) : Keeps o (execJournalFlushReadDone covered s) := by
  unfold execJournalFlushReadDone
  repeat' first
    | with_reducible assumption
    | with_reducible exact rfl
    | with_reducible refine State.setItems_kept ?_
    | with_reducible refine State.kick_kept ?_
    | with_reducible refine keeps_next ?_
    | (extract_lets +onlyGivenNames s; refine kept_have (o := o) (x := s) ?_ (fun h => ?_); (on_goal 1 => unfold s; clear s); (on_goal 2 => try clear_value s))
    | (extract_lets +onlyGivenNames x; first | (have _p : PldSt := x; clear _p; unfold x) | skip)
    | simp only [↓kept_mk_iff]
    | with_reducible refine kept_ite (fun _ => ?_) (fun _ => ?_)
    | split
    | dsimp only
    | (dsimp +zetaDelta only; split)

theorem execNop_kept {o : State} {sq : BitVec 8} {num : Nat} {s : State} (h : Kept o s) : Keeps o (execNop sq num s) := by
  unfold execNop
  repeat' first
    | with_reducible assumption
    | with_reducible exact rfl
    | with_reducible refine State.retire_kept ?_
    | with_reducible refine keeps_next ?_
    | (extract_lets +onlyGivenNames s; refine kept_have (o := o) (x := s) ?_ (fun h => ?_); (on_goal 1 => unfold s; clear s); (on_goal 2 => try clear_value s))
    | (extract_lets +onlyGivenNames x; first | (have _p : PldSt := x; clear _p; unfold x) | skip)
    | simp only [↓kept_mk_iff]
    | with_reducible refine kept_ite (fun _ => ?_) (fun _ => ?_)
    | split
    | dsimp only
    | (dsimp +zetaDelta only; split)

theorem execFence_kept {o : State} {sq : BitVec 8} {num : Nat} {s : State} (h : Kept o s) : Keeps o (execFence sq num s) := by
  unfold execFence
  repeat' first
    | with_reducible assumption
    | with_reducible exact rfl
    | with_reducible refine State.retire_kept ?_
    | with_reducible refine keeps_next ?_
    | (extract_lets +onlyGivenNames s; refine kept_have (o := o) (x := s) ?_ (fun h => ?_); (on_goal 1 => unfold s; clear s); (on_goal 2 => try clear_value s))
    | (extract_lets +onlyGivenNames x; first | (have _p : PldSt := x; clear _p; unfold x) | skip)
    | simp only [↓kept_mk_iff]
    | with_reducible refine kept_ite (fun _ => ?_) (fun _ => ?_)
    | split
    | dsimp only
    | (dsimp +zetaDelta only; split)

theorem State.cqMessage_kept {o : State} {s : State} {n : Nat} (h : Kept o s) : Kept o (State.cqMessage s n) := by
  unfold State.cqMessage
  repeat' first
    | with_reducible assumption
    | with_reducible exact rfl
    | with_reducible refine State.msix_kept ?_
    | (extract_lets +onlyGivenNames s; refine kept_have (o := o) (x := s) ?_ (fun h => ?_); (on_goal 1 => unfold s; clear s); (on_goal 2 => try clear_value s))
    | (extract_lets +onlyGivenNames x; first | (have _p : PldSt := x; clear _p; unfold x) | skip)
    | simp only [↓kept_mk_iff]
    | dsimp only

theorem State.recordWritten_kept {o : State} {s : State} {r : Record} (h : Kept o s) : Kept o (State.recordWritten s r) := by
  unfold State.recordWritten
  repeat' first
    | with_reducible assumption
    | with_reducible refine State.showInflight_kept ?_
    | with_reducible refine State.settleSq_kept ?_
    | with_reducible refine State.writeRecordState_kept ?_
    | with_reducible refine State.releaseSlot_kept ?_
    | with_reducible refine State.setItems_kept ?_
    | (extract_lets +onlyGivenNames s; refine kept_have (o := o) (x := s) ?_ (fun h => ?_); (on_goal 1 => unfold s; clear s); (on_goal 2 => try clear_value s))
    | (extract_lets +onlyGivenNames x; first | (have _p : PldSt := x; clear _p; unfold x) | skip)
    | with_reducible refine kept_ite (fun _ => ?_) (fun _ => ?_)
    | split
    | dsimp only
    | (dsimp +zetaDelta only; split)

theorem State.putRecord_kept {o s : State} {n : Nat} {r : Record} {rest : List Record} (h : Kept o s) :
    Kept o (s.putRecord n r rest) := by
  unfold State.putRecord
  refine kept_ite (fun _ => State.cqMessage_kept ?_) (fun _ => kept_mk ?_ rfl) <;>
    exact State.recordWritten_kept (State.put_kept (State.hostWrite_kept (kept_mk h rfl)))

theorem execCqRecordWrite_kept {o : State} {cq : BitVec 8} {s : State} (h : Kept o s) : Keeps o (execCqRecordWrite cq s) := by
  unfold execCqRecordWrite
  repeat' first
    | with_reducible assumption
    | with_reducible exact rfl
    | with_reducible refine State.putRecord_kept ?_
    | with_reducible refine State.inc_kept ?_
    | with_reducible refine State.raise_kept ?_
    | with_reducible refine keeps_next ?_
    | (extract_lets +onlyGivenNames s; refine kept_have (o := o) (x := s) ?_ (fun h => ?_); (on_goal 1 => unfold s; clear s); (on_goal 2 => try clear_value s))
    | (extract_lets +onlyGivenNames x; first | (have _p : PldSt := x; clear _p; unfold x) | skip)
    | simp only [↓kept_mk_iff]
    | with_reducible refine kept_ite (fun _ => ?_) (fun _ => ?_)
    | split
    | dsimp only
    | (dsimp +zetaDelta only; split)

theorem execCqModTimeExpiry_kept {o : State} {cq : BitVec 8} {s : State} (h : Kept o s) : Keeps o (execCqModTimeExpiry cq s) := by
  unfold execCqModTimeExpiry
  repeat' first
    | with_reducible assumption
    | with_reducible refine State.cqMessage_kept ?_
    | with_reducible refine keeps_next ?_
    | with_reducible refine kept_ite (fun _ => ?_) (fun _ => ?_)
    | split
    | dsimp only
    | (dsimp +zetaDelta only; split)

theorem execMsixVectorUnmask_kept {o : State} {vector : BitVec 8} {s : State} (h : Kept o s) : Keeps o (execMsixVectorUnmask vector s) := by
  unfold execMsixVectorUnmask
  repeat' first
    | with_reducible assumption
    | with_reducible refine State.dropBits_kept ?_
    | with_reducible refine State.msix_kept ?_
    | with_reducible refine State.put_kept ?_
    | with_reducible refine keeps_next ?_
    | (extract_lets +onlyGivenNames s; refine kept_have (o := o) (x := s) ?_ (fun h => ?_); (on_goal 1 => unfold s; clear s); (on_goal 2 => try clear_value s))
    | (extract_lets +onlyGivenNames x; first | (have _p : PldSt := x; clear _p; unfold x) | skip)
    | with_reducible refine kept_ite (fun _ => ?_) (fun _ => ?_)
    | split
    | dsimp only
    | (dsimp +zetaDelta only; split)

theorem execHostWritesBlocked_kept {o : State} {s : State} (h : Kept o s) : Keeps o (execHostWritesBlocked s) := by
  unfold execHostWritesBlocked
  repeat' first
    | with_reducible assumption
    | with_reducible exact rfl
    | with_reducible refine State.raise_kept ?_
    | with_reducible refine keeps_next ?_
    | (extract_lets +onlyGivenNames s; refine kept_have (o := o) (x := s) ?_ (fun h => ?_); (on_goal 1 => unfold s; clear s); (on_goal 2 => try clear_value s))
    | (extract_lets +onlyGivenNames x; first | (have _p : PldSt := x; clear _p; unfold x) | skip)
    | simp only [↓kept_mk_iff]
    | with_reducible refine kept_ite (fun _ => ?_) (fun _ => ?_)
    | split
    | dsimp only
    | (dsimp +zetaDelta only; split)

theorem State.issueHeld_kept {o : State} {s : State} {a1 : Output} (h : Kept o s) : Kept o (State.issueHeld s a1) := by
  unfold State.issueHeld
  repeat' first
    | with_reducible assumption
    | with_reducible refine State.emit_kept ?_
    | with_reducible refine State.msix_kept ?_
    | split
    | dsimp only
    | (dsimp +zetaDelta only; split)

theorem execHostWritesResumed_kept {o : State} {s : State} (h : Kept o s) : Keeps o (execHostWritesResumed s) := by
  unfold execHostWritesResumed
  repeat' first
    | with_reducible assumption
    | with_reducible exact rfl
    | with_reducible refine State.writeConsumed_kept ?_
    | with_reducible refine State.hlogCopy_kept ?_
    | with_reducible refine State.issueHeld_kept ?_
    | with_reducible refine State.writeTable_kept ?_
    | with_reducible refine keeps_next ?_
    | (extract_lets +onlyGivenNames s; refine kept_have (o := o) (x := s) ?_ (fun h => ?_); (on_goal 1 => unfold s; clear s); (on_goal 2 => try clear_value s))
    | (extract_lets +onlyGivenNames x; first | (have _p : PldSt := x; clear _p; unfold x) | skip)
    | simp only [↓kept_mk_iff]
    | with_reducible refine kept_foldl ?_ (fun s x h => ?_)
    | with_reducible refine kept_foldl_fst ?_ (fun p x h => ?_)
    | with_reducible refine kept_ite (fun _ => ?_) (fun _ => ?_)
    | split
    | dsimp only
    | (dsimp +zetaDelta only; split)

theorem execDoorbellPollReturn_kept {o : State} {line : Fin 32} {words : Option (List Word64)} {s : State} (h : Kept o s) : Keeps o (execDoorbellPollReturn line words s) := by
  unfold execDoorbellPollReturn
  repeat' first
    | with_reducible assumption
    | with_reducible refine State.wake_kept ?_
    | with_reducible refine State.pollReturn_kept ?_
    | with_reducible refine kept_fst (by assumption) (State.pollReturn_kept ?_)
    | with_reducible refine keeps_next ?_
    | (extract_lets +onlyGivenNames s; refine kept_have (o := o) (x := s) ?_ (fun h => ?_); (on_goal 1 => unfold s; clear s); (on_goal 2 => try clear_value s))
    | (extract_lets +onlyGivenNames x; first | (have _p : PldSt := x; clear _p; unfold x) | skip)
    | with_reducible refine kept_ite (fun _ => ?_) (fun _ => ?_)
    | split
    | dsimp only
    | (dsimp +zetaDelta only; split)

end Sys2Proof.Machine
end

