-- ==== Sys2Proof/Laws/KeptDelivery.lean ====
section
/-! SUPPORT. What the operations of Machine/Delivery.lean keep (Laws/Kept.lean). -/

set_option linter.all false

namespace Sys2Proof.Machine

theorem State.segment_kept {o : State} {s : State} {w : Work} {t : Tag} {segOff : Nat} {bytes : List Byte} (h : Kept o s) : Kept o (State.segment s w t segOff bytes) := by
  unfold State.segment
  repeat' first
    | with_reducible assumption
    | with_reducible exact rfl
    | with_reducible refine State.arrive_kept ?_
    | (extract_lets +onlyGivenNames s; refine kept_have (o := o) (x := s) ?_ (fun h => ?_); (on_goal 1 => unfold s; clear s); (on_goal 2 => try clear_value s))
    | (extract_lets +onlyGivenNames x; first | (have _p : PldSt := x; clear _p; unfold x) | skip)
    | simp only [↓kept_mk_iff]
    | split
    | dsimp only
    | (dsimp +zetaDelta only; split)

theorem State.takeFrame_kept {o : State} {s : State} {tag : Tag} {ep : Nat} {cls : Nat} {param : Nat} {opcode : Nat} {length : Nat} {segOff : Nat} {last : Bool} {bytes : List Byte} (h : Kept o s) : Kept o (State.takeFrame s tag ep cls param opcode length segOff last bytes) := by
  unfold State.takeFrame
  repeat' first
    | with_reducible assumption
    | with_reducible exact rfl
    | with_reducible refine State.segment_kept ?_
    | with_reducible refine State.arrive_kept ?_
    | (extract_lets +onlyGivenNames s; refine kept_have (o := o) (x := s) ?_ (fun h => ?_); (on_goal 1 => unfold s; clear s); (on_goal 2 => try clear_value s))
    | (extract_lets +onlyGivenNames x; first | (have _p : PldSt := x; clear _p; unfold x) | skip)
    | simp only [↓kept_mk_iff]
    | with_reducible refine kept_ite (fun _ => ?_) (fun _ => ?_)
    | split
    | dsimp only
    | (dsimp +zetaDelta only; split)

theorem execDataFrame_kept {o : State} {tag : Tag} {ep : BitVec 12} {cls : Fin 8} {param : Nat} {opcode : Nat} {length : Nat} {segOff : Nat} {last : Bool} {bytes : List Byte} {s : State} (h : Kept o s) : Keeps o (execDataFrame tag ep cls param opcode length segOff last bytes s) := by
  unfold execDataFrame
  repeat' first
    | with_reducible assumption
    | with_reducible refine State.takeFrame_kept ?_
    | with_reducible refine State.voidBy_kept ?_
    | with_reducible refine State.journalInput_kept ?_
    | with_reducible refine keeps_next ?_
    | (extract_lets +onlyGivenNames s; refine kept_have (o := o) (x := s) ?_ (fun h => ?_); (on_goal 1 => unfold s; clear s); (on_goal 2 => try clear_value s))
    | (extract_lets +onlyGivenNames x; first | (have _p : PldSt := x; clear _p; unfold x) | skip)
    | dsimp only

theorem execReturnFrame_kept {o : State} {tag : Tag} {segOff : Nat} {last : Bool} {bytes : List Byte} {s : State} (h : Kept o s) : Keeps o (execReturnFrame tag segOff last bytes s) := by
  unfold execReturnFrame
  repeat' first
    | with_reducible assumption
    | with_reducible exact rfl
    | with_reducible refine State.retire_kept ?_
    | with_reducible refine State.updItem_kept ?_
    | with_reducible refine State.hostWrite_kept ?_
    | with_reducible refine keeps_next ?_
    | (extract_lets +onlyGivenNames s; refine kept_have (o := o) (x := s) ?_ (fun h => ?_); (on_goal 1 => unfold s; clear s); (on_goal 2 => try clear_value s))
    | (extract_lets +onlyGivenNames x; first | (have _p : PldSt := x; clear _p; unfold x) | skip)
    | simp only [↓kept_mk_iff]
    | with_reducible refine kept_ite (fun _ => ?_) (fun _ => ?_)
    | split
    | dsimp only
    | (dsimp +zetaDelta only; split)

theorem State.postedRecord_kept {o : State} {s : State} {sq : Nat} {num : Nat} {tag : Nat} {wsn : Nat} {detail : Nat} (h : Kept o s) : Kept o (State.postedRecord s sq num tag wsn detail) := by
  unfold State.postedRecord
  repeat' first
    | with_reducible assumption
    | with_reducible exact rfl
    | with_reducible refine State.sqError_kept ?_
    | with_reducible refine State.queueRecord_kept ?_
    | (extract_lets +onlyGivenNames s; refine kept_have (o := o) (x := s) ?_ (fun h => ?_); (on_goal 1 => unfold s; clear s); (on_goal 2 => try clear_value s))
    | (extract_lets +onlyGivenNames x; first | (have _p : PldSt := x; clear _p; unfold x) | skip)
    | simp only [↓kept_mk_iff]
    | with_reducible refine kept_ite (fun _ => ?_) (fun _ => ?_)
    | split
    | dsimp only
    | (dsimp +zetaDelta only; split)

theorem State.postedFault_kept {o : State} {s : State} {_src : Nat} {e : AckEntry} (h : Kept o s) : Kept o (State.postedFault s _src e) := by
  unfold State.postedFault
  repeat' first
    | with_reducible assumption
    | with_reducible exact rfl
    | with_reducible refine State.postedRecord_kept ?_
    | (extract_lets +onlyGivenNames s; refine kept_have (o := o) (x := s) ?_ (fun h => ?_); (on_goal 1 => unfold s; clear s); (on_goal 2 => try clear_value s))
    | (extract_lets +onlyGivenNames x; first | (have _p : PldSt := x; clear _p; unfold x) | skip)
    | simp only [↓kept_mk_iff]
    | split
    | dsimp only
    | (dsimp +zetaDelta only; split)

theorem State.ackEntry_kept {o : State} {s : State} {src : Nat} {e : AckEntry} (h : Kept o s) : Kept o (State.ackEntry s src e) := by
  unfold State.ackEntry
  repeat' first
    | with_reducible assumption
    | with_reducible exact rfl
    | with_reducible refine State.postedFault_kept ?_
    | with_reducible refine State.draw_kept ?_
    | with_reducible refine State.retire_kept ?_
    | with_reducible refine State.indetAll_kept ?_
    | with_reducible refine State.resend_kept ?_
    | (extract_lets +onlyGivenNames s; refine kept_have (o := o) (x := s) ?_ (fun h => ?_); (on_goal 1 => unfold s; clear s); (on_goal 2 => try clear_value s))
    | (extract_lets +onlyGivenNames x; first | (have _p : PldSt := x; clear _p; unfold x) | skip)
    | simp only [↓kept_mk_iff]
    | with_reducible refine kept_foldl ?_ (fun s x h => ?_)
    | with_reducible refine kept_foldl_fst ?_ (fun p x h => ?_)
    | with_reducible refine kept_ite (fun _ => ?_) (fun _ => ?_)
    | split
    | dsimp only
    | (dsimp +zetaDelta only; split)

theorem execAckFrame_kept {o : State} {src : Nat} {entries : List AckEntry} {s : State} (h : Kept o s) : Keeps o (execAckFrame src entries s) := by
  unfold execAckFrame
  repeat' first
    | with_reducible assumption
    | with_reducible refine State.ackEntry_kept ?_
    | with_reducible refine keeps_next ?_
    | with_reducible refine kept_foldl ?_ (fun s x h => ?_)
    | dsimp only

theorem execAckTimeoutExpiry_kept {o : State} {sq : BitVec 8} {wsn : Nat} {s : State} (h : Kept o s) : Keeps o (execAckTimeoutExpiry sq wsn s) := by
  unfold execAckTimeoutExpiry
  repeat' first
    | with_reducible assumption
    | with_reducible exact rfl
    | with_reducible refine State.updItem_kept ?_
    | with_reducible refine State.resend_kept ?_
    | with_reducible refine keeps_next ?_
    | (extract_lets +onlyGivenNames s; refine kept_have (o := o) (x := s) ?_ (fun h => ?_); (on_goal 1 => unfold s; clear s); (on_goal 2 => try clear_value s))
    | (extract_lets +onlyGivenNames x; first | (have _p : PldSt := x; clear _p; unfold x) | skip)
    | simp only [↓kept_mk_iff]
    | with_reducible refine kept_ite (fun _ => ?_) (fun _ => ?_)
    | split
    | dsimp only
    | (dsimp +zetaDelta only; split)

theorem execResyncFrame_kept {o : State} {src : Nat} {seq : Nat} {ledger : Nat} {s : State} (h : Kept o s) : Keeps o (execResyncFrame src seq ledger s) := by
  unfold execResyncFrame
  repeat' first
    | with_reducible assumption
    | with_reducible exact rfl
    | with_reducible refine State.resendTo_kept ?_
    | with_reducible refine State.sendFullState_kept ?_
    | with_reducible refine State.indetAll_kept ?_
    | with_reducible refine State.kick_kept ?_
    | with_reducible refine keeps_next ?_
    | (extract_lets +onlyGivenNames s; refine kept_have (o := o) (x := s) ?_ (fun h => ?_); (on_goal 1 => unfold s; clear s); (on_goal 2 => try clear_value s))
    | (extract_lets +onlyGivenNames x; first | (have _p : PldSt := x; clear _p; unfold x) | skip)
    | simp only [↓kept_mk_iff]
    | with_reducible refine kept_ite (fun _ => ?_) (fun _ => ?_)
    | split
    | dsimp only
    | (dsimp +zetaDelta only; split)

theorem execDestAbsentExpiry_kept {o : State} {node : Nat} {s : State} (h : Kept o s) : Keeps o (execDestAbsentExpiry node s) := by
  unfold execDestAbsentExpiry
  repeat' first
    | with_reducible assumption
    | with_reducible exact rfl
    | with_reducible refine State.indetAll_kept ?_
    | with_reducible refine State.kick_kept ?_
    | with_reducible refine State.retireRaw_kept ?_
    | with_reducible refine keeps_next ?_
    | (extract_lets +onlyGivenNames s; refine kept_have (o := o) (x := s) ?_ (fun h => ?_); (on_goal 1 => unfold s; clear s); (on_goal 2 => try clear_value s))
    | (extract_lets +onlyGivenNames x; first | (have _p : PldSt := x; clear _p; unfold x) | skip)
    | simp only [↓kept_mk_iff]
    | with_reducible refine kept_foldl ?_ (fun s x h => ?_)
    | with_reducible refine kept_foldl_fst ?_ (fun p x h => ?_)
    | with_reducible refine kept_ite (fun _ => ?_) (fun _ => ?_)
    | split
    | dsimp only
    | (dsimp +zetaDelta only; split)

theorem State.reportLost_kept {o : State} {s : State} (h : Kept o s) : Kept o (State.reportLost s) := by
  unfold State.reportLost
  repeat' first
    | with_reducible assumption
    | with_reducible exact rfl
    | with_reducible refine State.recordWith_kept ?_
    | (extract_lets +onlyGivenNames s; refine kept_have (o := o) (x := s) ?_ (fun h => ?_); (on_goal 1 => unfold s; clear s); (on_goal 2 => try clear_value s))
    | (extract_lets +onlyGivenNames x; first | (have _p : PldSt := x; clear _p; unfold x) | skip)
    | simp only [↓kept_mk_iff]
    | with_reducible refine kept_foldl ?_ (fun s x h => ?_)
    | with_reducible refine kept_foldl_fst ?_ (fun p x h => ?_)
    | with_reducible refine kept_ite (fun _ => ?_) (fun _ => ?_)
    | split
    | dsimp only
    | (dsimp +zetaDelta only; split)

theorem State.jrnFields_kept {o : State} {s : State} {v : Nat} (h : Kept o s) : Kept o (State.jrnFields s v) := by
  unfold State.jrnFields
  repeat' first
    | with_reducible assumption
    | with_reducible refine State.put_kept ?_
    | dsimp only

theorem State.jrnRefuse_kept {o : State} {s : State} {code : Nat} (h : Kept o s) : Kept o (State.jrnRefuse s code) := by
  unfold State.jrnRefuse
  repeat' first
    | with_reducible assumption
    | with_reducible exact rfl
    | with_reducible refine State.put_kept ?_
    | with_reducible refine State.hqReject_kept ?_
    | (extract_lets +onlyGivenNames s; refine kept_have (o := o) (x := s) ?_ (fun h => ?_); (on_goal 1 => unfold s; clear s); (on_goal 2 => try clear_value s))
    | (extract_lets +onlyGivenNames x; first | (have _p : PldSt := x; clear _p; unfold x) | skip)
    | simp only [↓kept_mk_iff]
    | dsimp only

theorem State.jrnStart_kept {o : State} {s : State} {v : Nat} {gen : Nat} {table : List (Nat × Nat × Nat)} (h : Kept o s) : Kept o (State.jrnStart s v gen table) := by
  unfold State.jrnStart
  repeat' first
    | with_reducible assumption
    | with_reducible exact rfl
    | with_reducible refine State.emit_kept ?_
    | with_reducible refine State.showSpool_kept ?_
    | with_reducible refine State.reportLost_kept ?_
    | with_reducible refine State.jrnFields_kept ?_
    | with_reducible refine State.put_kept ?_
    | (extract_lets +onlyGivenNames s; refine kept_have (o := o) (x := s) ?_ (fun h => ?_); (on_goal 1 => unfold s; clear s); (on_goal 2 => try clear_value s))
    | (extract_lets +onlyGivenNames x; first | (have _p : PldSt := x; clear _p; unfold x) | skip)
    | simp only [↓kept_mk_iff]
    | with_reducible refine kept_foldl ?_ (fun s x h => ?_)
    | with_reducible refine kept_foldl_fst ?_ (fun p x h => ?_)
    | with_reducible refine kept_ite (fun _ => ?_) (fun _ => ?_)
    | split
    | dsimp only
    | (dsimp +zetaDelta only; split)

theorem State.jrnOff_kept {o : State} {s : State} (h : Kept o s) : Kept o (State.jrnOff s) := by
  unfold State.jrnOff
  repeat' first
    | with_reducible assumption
    | with_reducible exact rfl
    | with_reducible refine State.showInflight_kept ?_
    | with_reducible refine State.setItems_kept ?_
    | with_reducible refine State.put_kept ?_
    | (extract_lets +onlyGivenNames s; refine kept_have (o := o) (x := s) ?_ (fun h => ?_); (on_goal 1 => unfold s; clear s); (on_goal 2 => try clear_value s))
    | (extract_lets +onlyGivenNames x; first | (have _p : PldSt := x; clear _p; unfold x) | skip)
    | simp only [↓kept_mk_iff]
    | with_reducible refine kept_foldl ?_ (fun s x h => ?_)
    | dsimp only

theorem execJournalEnable_kept {o : State} {val : Word} {header : Option Nat} {table : List (Nat × Nat × Nat)} {s : State} (h : Kept o s) : Keeps o (execJournalEnable val header table s) := by
  unfold execJournalEnable
  repeat' first
    | with_reducible assumption
    | with_reducible exact rfl
    | with_reducible refine State.jrnStart_kept ?_
    | with_reducible refine State.jrnRefuse_kept ?_
    | with_reducible refine State.jrnFields_kept ?_
    | with_reducible refine State.put_kept ?_
    | with_reducible refine State.jrnOff_kept ?_
    | with_reducible refine State.hqReject_kept ?_
    | with_reducible refine keeps_next ?_
    | (extract_lets +onlyGivenNames s; refine kept_have (o := o) (x := s) ?_ (fun h => ?_); (on_goal 1 => unfold s; clear s); (on_goal 2 => try clear_value s))
    | (extract_lets +onlyGivenNames x; first | (have _p : PldSt := x; clear _p; unfold x) | skip)
    | simp only [↓kept_mk_iff]
    | with_reducible refine kept_ite (fun _ => ?_) (fun _ => ?_)
    | split
    | dsimp only
    | (dsimp +zetaDelta only; split)

theorem State.takeRecord_kept {o : State} {s : State} {r : JRead} (h : Kept o s) : Kept o (State.takeRecord s r) := by
  unfold State.takeRecord
  repeat' first
    | with_reducible assumption
    | with_reducible exact rfl
    | with_reducible refine State.setItems_kept ?_
    | with_reducible refine State.showInflight_kept ?_
    | (extract_lets +onlyGivenNames s; refine kept_have (o := o) (x := s) ?_ (fun h => ?_); (on_goal 1 => unfold s; clear s); (on_goal 2 => try clear_value s))
    | (extract_lets +onlyGivenNames x; first | (have _p : PldSt := x; clear _p; unfold x) | skip)
    | simp only [↓kept_mk_iff]
    | with_reducible refine kept_ite (fun _ => ?_) (fun _ => ?_)
    | split
    | dsimp only
    | (dsimp +zetaDelta only; split)

theorem State.jrnError_kept {o : State} {s : State} (h : Kept o s) : Kept o (State.jrnError s) := by
  unfold State.jrnError
  repeat' first
    | with_reducible assumption
    | with_reducible refine State.flushSq_kept ?_
    | with_reducible refine State.pumpRecords_kept ?_
    | with_reducible refine State.each_kept ?_ (fun s x h => ?_)
    | with_reducible refine State.put_kept ?_
    | with_reducible refine State.record_kept ?_
    | (extract_lets +onlyGivenNames s; refine kept_have (o := o) (x := s) ?_ (fun h => ?_); (on_goal 1 => unfold s; clear s); (on_goal 2 => try clear_value s))
    | (extract_lets +onlyGivenNames x; first | (have _p : PldSt := x; clear _p; unfold x) | skip)
    | with_reducible refine kept_ite (fun _ => ?_) (fun _ => ?_)
    | split
    | dsimp only
    | (dsimp +zetaDelta only; split)

theorem State.takeScan_kept {o : State} {s : State} {rs : List JRead} (h : Kept o s) : Kept o (State.takeScan s rs) := by
  unfold State.takeScan
  repeat' first
    | with_reducible assumption
    | with_reducible refine State.replaySq_kept ?_
    | with_reducible refine State.each_kept ?_ (fun s x h => ?_)
    | with_reducible refine State.indetAll_kept ?_
    | with_reducible refine State.showSpool_kept ?_
    | with_reducible refine State.takeRecord_kept ?_
    | with_reducible refine State.put_kept ?_
    | (extract_lets +onlyGivenNames s; refine kept_have (o := o) (x := s) ?_ (fun h => ?_); (on_goal 1 => unfold s; clear s); (on_goal 2 => try clear_value s))
    | (extract_lets +onlyGivenNames x; first | (have _p : PldSt := x; clear _p; unfold x) | skip)
    | with_reducible refine kept_foldl ?_ (fun s x h => ?_)
    | with_reducible refine kept_foldl_fst ?_ (fun p x h => ?_)
    | with_reducible refine kept_ite (fun _ => ?_) (fun _ => ?_)
    | split
    | dsimp only
    | (dsimp +zetaDelta only; split)

theorem execJournalScanDone_kept {o : State} {records : List (Nat × List Byte × List Byte)} {s : State} (h : Kept o s) : Keeps o (execJournalScanDone records s) := by
  unfold execJournalScanDone
  repeat' first
    | with_reducible assumption
    | with_reducible exact rfl
    | with_reducible refine State.takeScan_kept ?_
    | with_reducible refine State.jrnError_kept ?_
    | with_reducible refine keeps_next ?_
    | (extract_lets +onlyGivenNames s; refine kept_have (o := o) (x := s) ?_ (fun h => ?_); (on_goal 1 => unfold s; clear s); (on_goal 2 => try clear_value s))
    | (extract_lets +onlyGivenNames x; first | (have _p : PldSt := x; clear _p; unfold x) | skip)
    | simp only [↓kept_mk_iff]
    | with_reducible refine kept_ite (fun _ => ?_) (fun _ => ?_)
    | split
    | dsimp only
    | (dsimp +zetaDelta only; split)

theorem execJournalWaitGenExpiry_kept {o : State} {s : State} (h : Kept o s) : Keeps o (execJournalWaitGenExpiry s) := by
  unfold execJournalWaitGenExpiry
  repeat' first
    | with_reducible assumption
    | with_reducible exact rfl
    | with_reducible refine State.put_kept ?_
    | with_reducible refine State.showSpool_kept ?_
    | with_reducible refine keeps_next ?_
    | (extract_lets +onlyGivenNames s; refine kept_have (o := o) (x := s) ?_ (fun h => ?_); (on_goal 1 => unfold s; clear s); (on_goal 2 => try clear_value s))
    | (extract_lets +onlyGivenNames x; first | (have _p : PldSt := x; clear _p; unfold x) | skip)
    | simp only [↓kept_mk_iff]
    | with_reducible refine kept_ite (fun _ => ?_) (fun _ => ?_)
    | split
    | dsimp only
    | (dsimp +zetaDelta only; split)

theorem execJournalReplayDone_kept {o : State} {s : State} (h : Kept o s) : Keeps o (execJournalReplayDone s) := by
  unfold execJournalReplayDone
  repeat' first
    | with_reducible assumption
    | with_reducible exact rfl
    | with_reducible refine State.put_kept ?_
    | with_reducible refine keeps_next ?_
    | (extract_lets +onlyGivenNames s; refine kept_have (o := o) (x := s) ?_ (fun h => ?_); (on_goal 1 => unfold s; clear s); (on_goal 2 => try clear_value s))
    | (extract_lets +onlyGivenNames x; first | (have _p : PldSt := x; clear _p; unfold x) | skip)
    | simp only [↓kept_mk_iff]
    | with_reducible refine kept_ite (fun _ => ?_) (fun _ => ?_)
    | split
    | dsimp only
    | (dsimp +zetaDelta only; split)

end Sys2Proof.Machine
end

