-- ==== Sys2Proof/Laws/KeptBridge.lean ====
section
/-! SUPPORT. What the operations of Machine/Bridge.lean keep (Laws/Kept.lean). -/

set_option linter.all false

namespace Sys2Proof.Machine

theorem State.showBuses_kept {o : State} {s : State} (h : Kept o s) : Kept o (State.showBuses s) := by
  unfold State.showBuses
  repeat' first
    | with_reducible assumption
    | with_reducible refine State.put_kept ?_
    | with_reducible refine State.each_kept ?_ (fun s x h => ?_)
    | dsimp only

theorem State.updTx_kept {o : State} {s : State} {t : BrgTx} (h : Kept o s) : Kept o (State.updTx s t) := by
  unfold State.updTx
  repeat' first
    | with_reducible assumption
    | with_reducible exact rfl
    | (extract_lets +onlyGivenNames s; refine kept_have (o := o) (x := s) ?_ (fun h => ?_); (on_goal 1 => unfold s; clear s); (on_goal 2 => try clear_value s))
    | (extract_lets +onlyGivenNames x; first | (have _p : PldSt := x; clear _p; unfold x) | skip)
    | simp only [↓kept_mk_iff]
    | with_reducible refine kept_ite (fun _ => ?_) (fun _ => ?_)
    | split
    | dsimp only
    | (dsimp +zetaDelta only; split)

theorem State.dropTx_kept {o : State} {s : State} {t : BrgTx} (h : Kept o s) : Kept o (State.dropTx s t) := by
  unfold State.dropTx
  repeat' first
    | with_reducible assumption
    | with_reducible exact rfl
    | (extract_lets +onlyGivenNames s; refine kept_have (o := o) (x := s) ?_ (fun h => ?_); (on_goal 1 => unfold s; clear s); (on_goal 2 => try clear_value s))
    | (extract_lets +onlyGivenNames x; first | (have _p : PldSt := x; clear _p; unfold x) | skip)
    | simp only [↓kept_mk_iff]
    | dsimp only

theorem State.lockStage_kept {o : State} {s : State} {stream : Option (Nat × Nat)} {st : LockStage} (h : Kept o s) : Kept o (State.lockStage s stream st) := by
  unfold State.lockStage
  repeat' first
    | with_reducible assumption
    | with_reducible exact rfl
    | (extract_lets +onlyGivenNames s; refine kept_have (o := o) (x := s) ?_ (fun h => ?_); (on_goal 1 => unfold s; clear s); (on_goal 2 => try clear_value s))
    | (extract_lets +onlyGivenNames x; first | (have _p : PldSt := x; clear _p; unfold x) | skip)
    | simp only [↓kept_mk_iff]
    | with_reducible refine kept_ite (fun _ => ?_) (fun _ => ?_)
    | split
    | dsimp only
    | (dsimp +zetaDelta only; split)

theorem State.endLock_kept {o : State} {s : State} {stream : Option (Nat × Nat)} (h : Kept o s) : Kept o (State.endLock s stream) := by
  unfold State.endLock
  repeat' first
    | with_reducible assumption
    | with_reducible exact rfl
    | (extract_lets +onlyGivenNames s; refine kept_have (o := o) (x := s) ?_ (fun h => ?_); (on_goal 1 => unfold s; clear s); (on_goal 2 => try clear_value s))
    | (extract_lets +onlyGivenNames x; first | (have _p : PldSt := x; clear _p; unfold x) | skip)
    | simp only [↓kept_mk_iff]
    | dsimp only

theorem State.fbSend_kept {o : State} {s : State} {b : Nat} {cls : Nat} {bytes : List Byte} (h : Kept o s) : Kept o (State.fbSend s b cls bytes) := by
  unfold State.fbSend
  repeat' first
    | with_reducible assumption
    | with_reducible refine State.addRaw_kept ?_
    | (extract_lets +onlyGivenNames s; refine kept_have (o := o) (x := s) ?_ (fun h => ?_); (on_goal 1 => unfold s; clear s); (on_goal 2 => try clear_value s))
    | (extract_lets +onlyGivenNames x; first | (have _p : PldSt := x; clear _p; unfold x) | skip)
    | with_reducible refine kept_ite (fun _ => ?_) (fun _ => ?_)
    | split
    | dsimp only
    | (dsimp +zetaDelta only; split)

theorem State.fbReply_kept {o : State} {s : State} {t : BrgTx} {op : Nat} {code : Nat} {data : List Byte} (h : Kept o s) : Kept o (State.fbReply s t op code data) := by
  unfold State.fbReply
  repeat' first
    | with_reducible assumption
    | with_reducible refine State.fbSend_kept ?_
    | dsimp only

theorem State.bridgeAnswer_kept {o : State} {s : State} {w : Work} {result : Nat} {detail : Nat} {bytes : List Byte} (h : Kept o s) : Kept o (State.bridgeAnswer s w result detail bytes) := by
  unfold State.bridgeAnswer
  repeat' first
    | with_reducible assumption
    | with_reducible exact rfl
    | with_reducible refine State.dropWork_kept ?_
    | with_reducible refine State.sendBridgeReply_kept ?_
    | with_reducible refine State.kick_kept ?_
    | with_reducible refine State.answer_kept ?_
    | with_reducible refine State.hostWrite_kept ?_
    | (extract_lets +onlyGivenNames s; refine kept_have (o := o) (x := s) ?_ (fun h => ?_); (on_goal 1 => unfold s; clear s); (on_goal 2 => try clear_value s))
    | (extract_lets +onlyGivenNames x; first | (have _p : PldSt := x; clear _p; unfold x) | skip)
    | simp only [↓kept_mk_iff]
    | with_reducible refine kept_ite (fun _ => ?_) (fun _ => ?_)
    | split
    | dsimp only
    | (dsimp +zetaDelta only; split)

theorem State.bridgeCommit_kept {o : State} {s : State} {w : Work} (h : Kept o s) : Kept o (State.bridgeCommit s w) := by
  unfold State.bridgeCommit
  repeat' first
    | with_reducible assumption
    | with_reducible exact rfl
    | with_reducible refine State.updWork_kept ?_
    | with_reducible refine State.commitLedger_kept ?_
    | with_reducible refine State.journalInput_kept ?_
    | (extract_lets +onlyGivenNames s; refine kept_have (o := o) (x := s) ?_ (fun h => ?_); (on_goal 1 => unfold s; clear s); (on_goal 2 => try clear_value s))
    | (extract_lets +onlyGivenNames x; first | (have _p : PldSt := x; clear _p; unfold x) | skip)
    | simp only [↓kept_mk_iff]
    | dsimp only

theorem State.bridgeFail_kept {o : State} {s : State} {w : Work} {detail : Nat} (h : Kept o s) : Kept o (State.bridgeFail s w detail) := by
  unfold State.bridgeFail
  repeat' first
    | with_reducible assumption
    | with_reducible exact rfl
    | with_reducible refine State.bridgeCommit_kept ?_
    | with_reducible refine State.bridgeAnswer_kept ?_
    | (extract_lets +onlyGivenNames s; refine kept_have (o := o) (x := s) ?_ (fun h => ?_); (on_goal 1 => unfold s; clear s); (on_goal 2 => try clear_value s))
    | (extract_lets +onlyGivenNames x; first | (have _p : PldSt := x; clear _p; unfold x) | skip)
    | simp only [↓kept_mk_iff]
    | dsimp only

theorem State.loseTx_kept {o : State} {s : State} {t : BrgTx} (h : Kept o s) : Kept o (State.loseTx s t) := by
  unfold State.loseTx
  repeat' first
    | with_reducible assumption
    | with_reducible exact rfl
    | with_reducible refine State.updTx_kept ?_
    | with_reducible refine State.bridgeFail_kept ?_
    | with_reducible refine State.lockStage_kept ?_
    | with_reducible refine State.endLock_kept ?_
    | with_reducible refine State.fbReply_kept ?_
    | with_reducible refine State.dropTx_kept ?_
    | with_reducible refine State.inc_kept ?_
    | (extract_lets +onlyGivenNames s; refine kept_have (o := o) (x := s) ?_ (fun h => ?_); (on_goal 1 => unfold s; clear s); (on_goal 2 => try clear_value s))
    | (extract_lets +onlyGivenNames x; first | (have _p : PldSt := x; clear _p; unfold x) | skip)
    | simp only [↓kept_mk_iff]
    | with_reducible refine kept_ite (fun _ => ?_) (fun _ => ?_)
    | split
    | dsimp only
    | (dsimp +zetaDelta only; split)

theorem State.checkCycle_kept {o : State} {s : State} {t : BrgTx} (h : Kept o s) : Kept o (State.checkCycle s t) := by
  unfold State.checkCycle
  repeat' first
    | with_reducible assumption
    | with_reducible exact rfl
    | with_reducible refine State.loseTx_kept ?_
    | (extract_lets +onlyGivenNames s; refine kept_have (o := o) (x := s) ?_ (fun h => ?_); (on_goal 1 => unfold s; clear s); (on_goal 2 => try clear_value s))
    | (extract_lets +onlyGivenNames x; first | (have _p : PldSt := x; clear _p; unfold x) | skip)
    | simp only [↓kept_mk_iff]
    | split
    | dsimp only
    | (dsimp +zetaDelta only; split)

theorem State.nearPump_kept {o : State} {a0 : Nat} {a1 : State} (h : Kept o a1) : Kept o (State.nearPump a0 a1) := by
  induction a0 generalizing a1 with
  | zero =>
    unfold State.nearPump
    repeat' first
      | with_reducible assumption
      | with_reducible exact rfl
      | with_reducible refine State.updTx_kept ?_
      | with_reducible refine State.checkCycle_kept ?_
      | (extract_lets +onlyGivenNames s; refine kept_have (o := o) (x := s) ?_ (fun h => ?_); (on_goal 1 => unfold s; clear s); (on_goal 2 => try clear_value s))
      | (extract_lets +onlyGivenNames x; first | (have _p : PldSt := x; clear _p; unfold x) | skip)
      | simp only [↓kept_mk_iff]
      | split
      | dsimp only
      | (dsimp +zetaDelta only; split)
  | succ k ih =>
    unfold State.nearPump
    repeat' first
      | with_reducible apply ih
      | with_reducible assumption
      | with_reducible exact rfl
      | with_reducible refine State.updTx_kept ?_
      | with_reducible refine State.checkCycle_kept ?_
      | (extract_lets +onlyGivenNames s; refine kept_have (o := o) (x := s) ?_ (fun h => ?_); (on_goal 1 => unfold s; clear s); (on_goal 2 => try clear_value s))
      | (extract_lets +onlyGivenNames x; first | (have _p : PldSt := x; clear _p; unfold x) | skip)
      | simp only [↓kept_mk_iff]
      | split
      | dsimp only
      | (dsimp +zetaDelta only; split)

theorem State.bridgePump_kept {o : State} {s : State} (h : Kept o s) : Kept o (State.bridgePump s) := by
  unfold State.bridgePump
  repeat' first
    | with_reducible assumption
    | with_reducible refine State.nearPump_kept ?_
    | with_reducible refine State.showBuses_kept ?_
    | dsimp only

theorem State.enterTx_kept {o : State} {s : State} {t : BrgTx} (h : Kept o s) : Kept o (State.enterTx s t) := by
  unfold State.enterTx
  repeat' first
    | with_reducible assumption
    | with_reducible exact rfl
    | with_reducible refine State.bridgePump_kept ?_
    | (extract_lets +onlyGivenNames s; refine kept_have (o := o) (x := s) ?_ (fun h => ?_); (on_goal 1 => unfold s; clear s); (on_goal 2 => try clear_value s))
    | (extract_lets +onlyGivenNames x; first | (have _p : PldSt := x; clear _p; unfold x) | skip)
    | simp only [↓kept_mk_iff]
    | with_reducible refine kept_ite (fun _ => ?_) (fun _ => ?_)
    | split
    | dsimp only
    | (dsimp +zetaDelta only; split)

theorem State.startBridge_kept {o : State} {s : State} {w : Work} (h : Kept o s) : Kept o (State.startBridge s w) := by
  unfold State.startBridge
  repeat' first
    | with_reducible assumption
    | with_reducible exact rfl
    | with_reducible refine State.updWork_kept ?_
    | with_reducible refine State.enterTx_kept ?_
    | with_reducible refine State.endLock_kept ?_
    | with_reducible refine State.bridgeFail_kept ?_
    | with_reducible refine State.bridgePump_kept ?_
    | (extract_lets +onlyGivenNames s; refine kept_have (o := o) (x := s) ?_ (fun h => ?_); (on_goal 1 => unfold s; clear s); (on_goal 2 => try clear_value s))
    | (extract_lets +onlyGivenNames x; first | (have _p : PldSt := x; clear _p; unfold x) | skip)
    | simp only [↓kept_mk_iff]
    | with_reducible refine kept_ite (fun _ => ?_) (fun _ => ?_)
    | split
    | dsimp only
    | (dsimp +zetaDelta only; split)

theorem execBridgeWrite_kept {o : State} {src : Nat} {sq : Nat} {wsn : Nat} {s : State} (h : Kept o s) : Keeps o (execBridgeWrite src sq wsn s) := by
  unfold execBridgeWrite
  repeat' first
    | with_reducible assumption
    | with_reducible exact rfl
    | with_reducible refine State.startBridge_kept ?_
    | with_reducible refine keeps_next ?_
    | (extract_lets +onlyGivenNames s; refine kept_have (o := o) (x := s) ?_ (fun h => ?_); (on_goal 1 => unfold s; clear s); (on_goal 2 => try clear_value s))
    | (extract_lets +onlyGivenNames x; first | (have _p : PldSt := x; clear _p; unfold x) | skip)
    | simp only [↓kept_mk_iff]
    | with_reducible refine kept_ite (fun _ => ?_) (fun _ => ?_)
    | split
    | dsimp only
    | (dsimp +zetaDelta only; split)

theorem execBridgeRead_kept {o : State} {src : Nat} {sq : Nat} {wsn : Nat} {s : State} (h : Kept o s) : Keeps o (execBridgeRead src sq wsn s) := by
  unfold execBridgeRead
  repeat' first
    | with_reducible assumption
    | with_reducible exact rfl
    | with_reducible refine State.startBridge_kept ?_
    | with_reducible refine keeps_next ?_
    | (extract_lets +onlyGivenNames s; refine kept_have (o := o) (x := s) ?_ (fun h => ?_); (on_goal 1 => unfold s; clear s); (on_goal 2 => try clear_value s))
    | (extract_lets +onlyGivenNames x; first | (have _p : PldSt := x; clear _p; unfold x) | skip)
    | simp only [↓kept_mk_iff]
    | with_reducible refine kept_ite (fun _ => ?_) (fun _ => ?_)
    | split
    | dsimp only
    | (dsimp +zetaDelta only; split)

theorem State.fbPop_kept {o : State} {s : State} {b : Nat} (h : Kept o s) : Kept o (State.fbPop s b) := by
  unfold State.fbPop
  repeat' first
    | with_reducible assumption
    | with_reducible exact rfl
    | (extract_lets +onlyGivenNames s; refine kept_have (o := o) (x := s) ?_ (fun h => ?_); (on_goal 1 => unfold s; clear s); (on_goal 2 => try clear_value s))
    | (extract_lets +onlyGivenNames x; first | (have _p : PldSt := x; clear _p; unfold x) | skip)
    | simp only [↓kept_mk_iff]
    | dsimp only

theorem State.serveRequest_kept {o : State} {s : State} {b : Nat} {bs : List Byte} (h : Kept o s) : Kept o (State.serveRequest s b bs) := by
  unfold State.serveRequest
  repeat' first
    | with_reducible assumption
    | with_reducible exact rfl
    | with_reducible refine State.enterTx_kept ?_
    | with_reducible refine State.fbReply_kept ?_
    | (extract_lets +onlyGivenNames s; refine kept_have (o := o) (x := s) ?_ (fun h => ?_); (on_goal 1 => unfold s; clear s); (on_goal 2 => try clear_value s))
    | (extract_lets +onlyGivenNames x; first | (have _p : PldSt := x; clear _p; unfold x) | skip)
    | simp only [↓kept_mk_iff]
    | with_reducible refine kept_ite (fun _ => ?_) (fun _ => ?_)
    | split
    | dsimp only
    | (dsimp +zetaDelta only; split)

theorem execFbDeviceRequest_kept {o : State} {fb : Fin 16} {s : State} (h : Kept o s) : Keeps o (execFbDeviceRequest fb s) := by
  unfold execFbDeviceRequest
  repeat' first
    | with_reducible assumption
    | with_reducible exact rfl
    | with_reducible refine State.fbPop_kept ?_
    | with_reducible refine State.serveRequest_kept ?_
    | with_reducible refine keeps_next ?_
    | (extract_lets +onlyGivenNames s; refine kept_have (o := o) (x := s) ?_ (fun h => ?_); (on_goal 1 => unfold s; clear s); (on_goal 2 => try clear_value s))
    | (extract_lets +onlyGivenNames x; first | (have _p : PldSt := x; clear _p; unfold x) | skip)
    | simp only [↓kept_mk_iff]
    | with_reducible refine kept_ite (fun _ => ?_) (fun _ => ?_)
    | split
    | dsimp only
    | (dsimp +zetaDelta only; split)

theorem State.access_kept {o : State} {s : State} {t : BrgTx} (h : Kept o s) : Kept o (State.access s t) := by
  unfold State.access
  repeat' first
    | with_reducible assumption
    | with_reducible refine State.fbSend_kept ?_
    | with_reducible refine State.unicast_kept ?_
    | with_reducible refine State.emit_kept ?_
    | (extract_lets +onlyGivenNames s; refine kept_have (o := o) (x := s) ?_ (fun h => ?_); (on_goal 1 => unfold s; clear s); (on_goal 2 => try clear_value s))
    | (extract_lets +onlyGivenNames x; first | (have _p : PldSt := x; clear _p; unfold x) | skip)
    | with_reducible refine kept_ite (fun _ => ?_) (fun _ => ?_)
    | split
    | dsimp only
    | (dsimp +zetaDelta only; split)

theorem State.numberRa_kept {o : State} {s : State} {t : BrgTx} (h : Kept o s) : Kept o (State.numberRa s t).1 := by
  unfold State.numberRa
  repeat' first
    | with_reducible assumption
    | with_reducible exact rfl
    | (extract_lets +onlyGivenNames s; refine kept_have (o := o) (x := s) ?_ (fun h => ?_); (on_goal 1 => unfold s; clear s); (on_goal 2 => try clear_value s))
    | (extract_lets +onlyGivenNames x; first | (have _p : PldSt := x; clear _p; unfold x) | skip)
    | simp only [↓kept_mk_iff]
    | exact h
    | with_reducible refine kept_ite (fun _ => ?_) (fun _ => ?_)
    | split
    | dsimp only
    | (dsimp +zetaDelta only; split)

theorem State.endTx_kept {o : State} {s : State} {t : BrgTx} {detail : Nat} {bytes : List Byte} (h : Kept o s) : Kept o (State.endTx s t detail bytes) := by
  unfold State.endTx
  repeat' first
    | with_reducible assumption
    | with_reducible exact rfl
    | with_reducible refine State.bridgePump_kept ?_
    | with_reducible refine State.endLock_kept ?_
    | with_reducible refine State.fbReply_kept ?_
    | with_reducible refine State.bridgeAnswer_kept ?_
    | with_reducible refine State.dropTx_kept ?_
    | (extract_lets +onlyGivenNames s; refine kept_have (o := o) (x := s) ?_ (fun h => ?_); (on_goal 1 => unfold s; clear s); (on_goal 2 => try clear_value s))
    | (extract_lets +onlyGivenNames x; first | (have _p : PldSt := x; clear _p; unfold x) | skip)
    | simp only [↓kept_mk_iff]
    | with_reducible refine kept_ite (fun _ => ?_) (fun _ => ?_)
    | split
    | dsimp only
    | (dsimp +zetaDelta only; split)

theorem State.issuePosted_kept {o : State} {s : State} {t : BrgTx} (h : Kept o s) : Kept o (State.issuePosted s t) := by
  unfold State.issuePosted
  repeat' first
    | with_reducible assumption
    | with_reducible exact rfl
    | with_reducible refine State.bridgePump_kept ?_
    | with_reducible refine State.fbReply_kept ?_
    | with_reducible refine State.bridgeAnswer_kept ?_
    | with_reducible refine State.access_kept ?_
    | with_reducible refine State.dropTx_kept ?_
    | with_reducible refine State.bridgeCommit_kept ?_
    | with_reducible refine State.numberRa_kept ?_
    | with_reducible refine kept_fst (by assumption) (State.numberRa_kept ?_)
    | (extract_lets +onlyGivenNames s; refine kept_have (o := o) (x := s) ?_ (fun h => ?_); (on_goal 1 => unfold s; clear s); (on_goal 2 => try clear_value s))
    | (extract_lets +onlyGivenNames x; first | (have _p : PldSt := x; clear _p; unfold x) | skip)
    | simp only [↓kept_mk_iff]
    | with_reducible refine kept_ite (fun _ => ?_) (fun _ => ?_)
    | split
    | dsimp only
    | (dsimp +zetaDelta only; split)

theorem State.issueTx_kept {o : State} {s : State} {t : BrgTx} (h : Kept o s) : Kept o (State.issueTx s t) := by
  unfold State.issueTx
  repeat' first
    | with_reducible assumption
    | with_reducible exact rfl
    | with_reducible refine State.endTx_kept ?_
    | with_reducible refine State.updTx_kept ?_
    | with_reducible refine State.access_kept ?_
    | with_reducible refine State.showBuses_kept ?_
    | with_reducible refine State.bridgeCommit_kept ?_
    | with_reducible refine State.lockStage_kept ?_
    | with_reducible refine State.numberRa_kept ?_
    | with_reducible refine kept_fst (by assumption) (State.numberRa_kept ?_)
    | (extract_lets +onlyGivenNames s; refine kept_have (o := o) (x := s) ?_ (fun h => ?_); (on_goal 1 => unfold s; clear s); (on_goal 2 => try clear_value s))
    | (extract_lets +onlyGivenNames x; first | (have _p : PldSt := x; clear _p; unfold x) | skip)
    | simp only [↓kept_mk_iff]
    | with_reducible refine kept_ite (fun _ => ?_) (fun _ => ?_)
    | split
    | dsimp only
    | (dsimp +zetaDelta only; split)

theorem execBridgeBusGrant_kept {o : State} {bus : Fin 18} {s : State} (h : Kept o s) : Keeps o (execBridgeBusGrant bus s) := by
  unfold execBridgeBusGrant
  repeat' first
    | with_reducible assumption
    | with_reducible exact rfl
    | with_reducible refine State.issueTx_kept ?_
    | with_reducible refine State.issuePosted_kept ?_
    | with_reducible refine keeps_next ?_
    | (extract_lets +onlyGivenNames s; refine kept_have (o := o) (x := s) ?_ (fun h => ?_); (on_goal 1 => unfold s; clear s); (on_goal 2 => try clear_value s))
    | (extract_lets +onlyGivenNames x; first | (have _p : PldSt := x; clear _p; unfold x) | skip)
    | simp only [↓kept_mk_iff]
    | with_reducible refine kept_ite (fun _ => ?_) (fun _ => ?_)
    | split
    | dsimp only
    | (dsimp +zetaDelta only; split)

theorem State.failPosted_kept {o : State} {s : State} {p : BrgPosted} {detail : Nat} (h : Kept o s) : Kept o (State.failPosted s p detail) := by
  unfold State.failPosted
  repeat' first
    | with_reducible assumption
    | with_reducible exact rfl
    | with_reducible refine State.sendAck_kept ?_
    | with_reducible refine State.postedRecord_kept ?_
    | with_reducible refine State.inc_kept ?_
    | with_reducible refine State.recordWith_kept ?_
    | with_reducible refine State.fbReply_kept ?_
    | (extract_lets +onlyGivenNames s; refine kept_have (o := o) (x := s) ?_ (fun h => ?_); (on_goal 1 => unfold s; clear s); (on_goal 2 => try clear_value s))
    | (extract_lets +onlyGivenNames x; first | (have _p : PldSt := x; clear _p; unfold x) | skip)
    | simp only [↓kept_mk_iff]
    | with_reducible refine kept_ite (fun _ => ?_) (fun _ => ?_)
    | split
    | dsimp only
    | (dsimp +zetaDelta only; split)

theorem State.dropPosted_kept {o : State} {s : State} {p : BrgPosted} (h : Kept o s) : Kept o (State.dropPosted s p) := by
  unfold State.dropPosted
  repeat' first
    | with_reducible assumption
    | with_reducible exact rfl
    | (extract_lets +onlyGivenNames s; refine kept_have (o := o) (x := s) ?_ (fun h => ?_); (on_goal 1 => unfold s; clear s); (on_goal 2 => try clear_value s))
    | (extract_lets +onlyGivenNames x; first | (have _p : PldSt := x; clear _p; unfold x) | skip)
    | simp only [↓kept_mk_iff]
    | dsimp only

theorem execBridgePcieCompletion_kept {o : State} {error : Bool} {bytes : List Byte} {s : State} (h : Kept o s) : Keeps o (execBridgePcieCompletion error bytes s) := by
  unfold execBridgePcieCompletion
  repeat' first
    | with_reducible assumption
    | with_reducible exact rfl
    | with_reducible refine State.endTx_kept ?_
    | with_reducible refine keeps_next ?_
    | (extract_lets +onlyGivenNames s; refine kept_have (o := o) (x := s) ?_ (fun h => ?_); (on_goal 1 => unfold s; clear s); (on_goal 2 => try clear_value s))
    | (extract_lets +onlyGivenNames x; first | (have _p : PldSt := x; clear _p; unfold x) | skip)
    | simp only [↓kept_mk_iff]
    | with_reducible refine kept_ite (fun _ => ?_) (fun _ => ?_)
    | split
    | dsimp only
    | (dsimp +zetaDelta only; split)

theorem State.takeResponse_kept {o : State} {s : State} {b : Nat} {bs : List Byte} (h : Kept o s) : Kept o (State.takeResponse s b bs) := by
  unfold State.takeResponse
  repeat' first
    | with_reducible assumption
    | with_reducible exact rfl
    | with_reducible refine State.dropPosted_kept ?_
    | with_reducible refine State.failPosted_kept ?_
    | with_reducible refine State.endTx_kept ?_
    | (extract_lets +onlyGivenNames s; refine kept_have (o := o) (x := s) ?_ (fun h => ?_); (on_goal 1 => unfold s; clear s); (on_goal 2 => try clear_value s))
    | (extract_lets +onlyGivenNames x; first | (have _p : PldSt := x; clear _p; unfold x) | skip)
    | simp only [↓kept_mk_iff]
    | with_reducible refine kept_ite (fun _ => ?_) (fun _ => ?_)
    | split
    | dsimp only
    | (dsimp +zetaDelta only; split)

theorem execFbResponse_kept {o : State} {fb : Fin 16} {s : State} (h : Kept o s) : Keeps o (execFbResponse fb s) := by
  unfold execFbResponse
  repeat' first
    | with_reducible assumption
    | with_reducible exact rfl
    | with_reducible refine State.fbPop_kept ?_
    | with_reducible refine State.takeResponse_kept ?_
    | with_reducible refine keeps_next ?_
    | (extract_lets +onlyGivenNames s; refine kept_have (o := o) (x := s) ?_ (fun h => ?_); (on_goal 1 => unfold s; clear s); (on_goal 2 => try clear_value s))
    | (extract_lets +onlyGivenNames x; first | (have _p : PldSt := x; clear _p; unfold x) | skip)
    | simp only [↓kept_mk_iff]
    | with_reducible refine kept_ite (fun _ => ?_) (fun _ => ?_)
    | split
    | dsimp only
    | (dsimp +zetaDelta only; split)

theorem State.bridgeRaRsp_kept {o : State} {s : State} {seq : Nat} {status : Nat} {words : List Word} (h : Kept o s) : Kept o (State.bridgeRaRsp s seq status words) := by
  unfold State.bridgeRaRsp
  repeat' first
    | with_reducible assumption
    | with_reducible exact rfl
    | with_reducible refine State.endTx_kept ?_
    | (extract_lets +onlyGivenNames s; refine kept_have (o := o) (x := s) ?_ (fun h => ?_); (on_goal 1 => unfold s; clear s); (on_goal 2 => try clear_value s))
    | (extract_lets +onlyGivenNames x; first | (have _p : PldSt := x; clear _p; unfold x) | skip)
    | simp only [↓kept_mk_iff]
    | with_reducible refine kept_ite (fun _ => ?_) (fun _ => ?_)
    | split
    | dsimp only
    | (dsimp +zetaDelta only; split)

theorem State.bridgePostedRsp_kept {o : State} {s : State} {seq : Nat} {status : Nat} (h : Kept o s) : Kept o (State.bridgePostedRsp s seq status) := by
  unfold State.bridgePostedRsp
  repeat' first
    | with_reducible assumption
    | with_reducible exact rfl
    | with_reducible refine State.failPosted_kept ?_
    | with_reducible refine State.dropPosted_kept ?_
    | (extract_lets +onlyGivenNames s; refine kept_have (o := o) (x := s) ?_ (fun h => ?_); (on_goal 1 => unfold s; clear s); (on_goal 2 => try clear_value s))
    | (extract_lets +onlyGivenNames x; first | (have _p : PldSt := x; clear _p; unfold x) | skip)
    | simp only [↓kept_mk_iff]
    | with_reducible refine kept_ite (fun _ => ?_) (fun _ => ?_)
    | split
    | dsimp only
    | (dsimp +zetaDelta only; split)

theorem execBridgeFarTimeout_kept {o : State} {bus : Fin 18} {id : Nat} {s : State} (h : Kept o s) : Keeps o (execBridgeFarTimeout bus id s) := by
  unfold execBridgeFarTimeout
  repeat' first
    | with_reducible assumption
    | with_reducible exact rfl
    | with_reducible refine State.dropPosted_kept ?_
    | with_reducible refine State.failPosted_kept ?_
    | with_reducible refine State.endTx_kept ?_
    | with_reducible refine keeps_next ?_
    | (extract_lets +onlyGivenNames s; refine kept_have (o := o) (x := s) ?_ (fun h => ?_); (on_goal 1 => unfold s; clear s); (on_goal 2 => try clear_value s))
    | (extract_lets +onlyGivenNames x; first | (have _p : PldSt := x; clear _p; unfold x) | skip)
    | simp only [↓kept_mk_iff]
    | with_reducible refine kept_ite (fun _ => ?_) (fun _ => ?_)
    | split
    | dsimp only
    | (dsimp +zetaDelta only; split)

theorem State.breakLock_kept {o : State} {s : State} {l' : BrgLock} (h : Kept o s) : Kept o (State.breakLock s l') := by
  unfold State.breakLock
  repeat' first
    | with_reducible assumption
    | with_reducible exact rfl
    | with_reducible refine State.bridgePump_kept ?_
    | with_reducible refine State.dropTx_kept ?_
    | with_reducible refine State.bridgeFail_kept ?_
    | with_reducible refine State.endLock_kept ?_
    | with_reducible refine State.lockStage_kept ?_
    | (extract_lets +onlyGivenNames s; refine kept_have (o := o) (x := s) ?_ (fun h => ?_); (on_goal 1 => unfold s; clear s); (on_goal 2 => try clear_value s))
    | (extract_lets +onlyGivenNames x; first | (have _p : PldSt := x; clear _p; unfold x) | skip)
    | simp only [↓kept_mk_iff]
    | with_reducible refine kept_foldl ?_ (fun s x h => ?_)
    | with_reducible refine kept_foldl_fst ?_ (fun p x h => ?_)
    | with_reducible refine kept_ite (fun _ => ?_) (fun _ => ?_)
    | split
    | dsimp only
    | (dsimp +zetaDelta only; split)

theorem execBridgeLockTimeout_kept {o : State} {near : Fin 18} {s : State} (h : Kept o s) : Keeps o (execBridgeLockTimeout near s) := by
  unfold execBridgeLockTimeout
  repeat' first
    | with_reducible assumption
    | with_reducible exact rfl
    | with_reducible refine State.breakLock_kept ?_
    | with_reducible refine keeps_next ?_
    | (extract_lets +onlyGivenNames s; refine kept_have (o := o) (x := s) ?_ (fun h => ?_); (on_goal 1 => unfold s; clear s); (on_goal 2 => try clear_value s))
    | (extract_lets +onlyGivenNames x; first | (have _p : PldSt := x; clear _p; unfold x) | skip)
    | simp only [↓kept_mk_iff]
    | split
    | dsimp only
    | (dsimp +zetaDelta only; split)

theorem State.endRetry_kept {o : State} {s : State} {t : BrgTx} (h : Kept o s) : Kept o (State.endRetry s t) := by
  unfold State.endRetry
  repeat' first
    | with_reducible assumption
    | with_reducible exact rfl
    | with_reducible refine State.inc_kept ?_
    | with_reducible refine State.bridgeFail_kept ?_
    | with_reducible refine State.bridgePump_kept ?_
    | with_reducible refine State.dropTx_kept ?_
    | (extract_lets +onlyGivenNames s; refine kept_have (o := o) (x := s) ?_ (fun h => ?_); (on_goal 1 => unfold s; clear s); (on_goal 2 => try clear_value s))
    | (extract_lets +onlyGivenNames x; first | (have _p : PldSt := x; clear _p; unfold x) | skip)
    | simp only [↓kept_mk_iff]
    | with_reducible refine kept_ite (fun _ => ?_) (fun _ => ?_)
    | split
    | dsimp only
    | (dsimp +zetaDelta only; split)

theorem execBridgeRetryTimer_kept {o : State} {id : Nat} {s : State} (h : Kept o s) : Keeps o (execBridgeRetryTimer id s) := by
  unfold execBridgeRetryTimer
  repeat' first
    | with_reducible assumption
    | with_reducible exact rfl
    | with_reducible refine State.endRetry_kept ?_
    | with_reducible refine keeps_next ?_
    | (extract_lets +onlyGivenNames s; refine kept_have (o := o) (x := s) ?_ (fun h => ?_); (on_goal 1 => unfold s; clear s); (on_goal 2 => try clear_value s))
    | (extract_lets +onlyGivenNames x; first | (have _p : PldSt := x; clear _p; unfold x) | skip)
    | simp only [↓kept_mk_iff]
    | split
    | dsimp only
    | (dsimp +zetaDelta only; split)

theorem State.writeBrgRetry_kept {o : State} {s : State} {v : Nat} (h : Kept o s) : Kept o (State.writeBrgRetry s v) := by
  unfold State.writeBrgRetry
  repeat' first
    | with_reducible assumption
    | with_reducible refine State.put_kept ?_
    | with_reducible refine State.raise_kept ?_
    | with_reducible refine kept_ite (fun _ => ?_) (fun _ => ?_)
    | split
    | dsimp only
    | (dsimp +zetaDelta only; split)

theorem State.writeBrgLock_kept {o : State} {s : State} {v : Nat} (h : Kept o s) : Kept o (State.writeBrgLock s v) := by
  unfold State.writeBrgLock
  repeat' first
    | with_reducible assumption
    | with_reducible refine State.put_kept ?_
    | with_reducible refine State.raise_kept ?_
    | with_reducible refine kept_ite (fun _ => ?_) (fun _ => ?_)
    | split
    | dsimp only
    | (dsimp +zetaDelta only; split)

theorem State.writeRngCfg_kept {o : State} {s : State} {r : Nat} {v : Nat} (h : Kept o s) : Kept o (State.writeRngCfg s r v) := by
  unfold State.writeRngCfg
  repeat' first
    | with_reducible assumption
    | with_reducible refine State.put_kept ?_
    | with_reducible refine State.raise_kept ?_
    | (extract_lets +onlyGivenNames s; refine kept_have (o := o) (x := s) ?_ (fun h => ?_); (on_goal 1 => unfold s; clear s); (on_goal 2 => try clear_value s))
    | (extract_lets +onlyGivenNames x; first | (have _p : PldSt := x; clear _p; unfold x) | skip)
    | with_reducible refine kept_ite (fun _ => ?_) (fun _ => ?_)
    | split
    | dsimp only
    | (dsimp +zetaDelta only; split)

theorem State.writeRngBase_kept {o : State} {s : State} {r : Nat} {v : Nat} (h : Kept o s) : Kept o (State.writeRngBase s r v) := by
  unfold State.writeRngBase
  repeat' first
    | with_reducible assumption
    | with_reducible refine State.put64_kept ?_
    | with_reducible refine State.raise_kept ?_
    | (extract_lets +onlyGivenNames s; refine kept_have (o := o) (x := s) ?_ (fun h => ?_); (on_goal 1 => unfold s; clear s); (on_goal 2 => try clear_value s))
    | (extract_lets +onlyGivenNames x; first | (have _p : PldSt := x; clear _p; unfold x) | skip)
    | with_reducible refine kept_ite (fun _ => ?_) (fun _ => ?_)
    | split
    | dsimp only
    | (dsimp +zetaDelta only; split)

theorem State.writeRngXlate_kept {o : State} {s : State} {r : Nat} {v : Nat} (h : Kept o s) : Kept o (State.writeRngXlate s r v) := by
  unfold State.writeRngXlate
  repeat' first
    | with_reducible assumption
    | with_reducible refine State.put64_kept ?_
    | with_reducible refine State.raise_kept ?_
    | with_reducible refine kept_ite (fun _ => ?_) (fun _ => ?_)
    | split
    | dsimp only
    | (dsimp +zetaDelta only; split)

theorem State.showBinding_kept {o : State} {s : State} {p : Nat × Nat} (h : Kept o s) : Kept o (State.showBinding s p) := by
  unfold State.showBinding
  repeat' first
    | with_reducible assumption
    | with_reducible refine State.reannounce_kept ?_
    | with_reducible refine kept_ite (fun _ => ?_) (fun _ => ?_)
    | split
    | dsimp only
    | (dsimp +zetaDelta only; split)

theorem State.writeBusCfg_kept {o : State} {s : State} {b : Nat} {v : Nat} (h : Kept o s) : Kept o (State.writeBusCfg s b v) := by
  unfold State.writeBusCfg
  repeat' first
    | with_reducible assumption
    | with_reducible refine State.showBinding_kept ?_
    | with_reducible refine State.put_kept ?_
    | with_reducible refine State.raise_kept ?_
    | (extract_lets +onlyGivenNames s; refine kept_have (o := o) (x := s) ?_ (fun h => ?_); (on_goal 1 => unfold s; clear s); (on_goal 2 => try clear_value s))
    | (extract_lets +onlyGivenNames x; first | (have _p : PldSt := x; clear _p; unfold x) | skip)
    | with_reducible refine kept_ite (fun _ => ?_) (fun _ => ?_)
    | split
    | dsimp only
    | (dsimp +zetaDelta only; split)

theorem State.writeBusTimeout_kept {o : State} {s : State} {b : Nat} {v : Nat} (h : Kept o s) : Kept o (State.writeBusTimeout s b v) := by
  unfold State.writeBusTimeout
  repeat' first
    | with_reducible assumption
    | with_reducible refine State.put_kept ?_
    | with_reducible refine State.raise_kept ?_
    | with_reducible refine kept_ite (fun _ => ?_) (fun _ => ?_)
    | split
    | dsimp only
    | (dsimp +zetaDelta only; split)

end Sys2Proof.Machine
end

