-- ==== Sys2Proof/Laws/KeptSig.lean ====
section
/-! SUPPORT. What the operations of Machine/Sig.lean keep (Laws/Kept.lean). -/

set_option linter.all false

namespace Sys2Proof.Machine

theorem State.setValue_kept {o : State} {s : State} {id : Nat} {v : Int} (h : Kept o s) : Kept o (State.setValue s id v) := by
  unfold State.setValue
  repeat' first
    | with_reducible assumption
    | with_reducible refine State.memWrite_kept ?_
    | dsimp only

theorem State.sigOp_kept {o : State} {s : State} {id : Nat} (h : Kept o s) : Kept o (State.sigOp s id) := by
  unfold State.sigOp
  repeat' first
    | with_reducible assumption
    | with_reducible exact rfl
    | with_reducible refine State.inc_kept ?_
    | (extract_lets +onlyGivenNames s; refine kept_have (o := o) (x := s) ?_ (fun h => ?_); (on_goal 1 => unfold s; clear s); (on_goal 2 => try clear_value s))
    | (extract_lets +onlyGivenNames x; first | (have _p : PldSt := x; clear _p; unfold x) | skip)
    | simp only [↓kept_mk_iff]
    | with_reducible refine kept_ite (fun _ => ?_) (fun _ => ?_)
    | split
    | dsimp only
    | (dsimp +zetaDelta only; split)

theorem State.writeEntry_kept {o : State} {s : State} {id : Nat} {bs : List Byte} (h : Kept o s) : Kept o (State.writeEntry s id bs) := by
  unfold State.writeEntry
  repeat' first
    | with_reducible assumption
    | with_reducible exact rfl
    | with_reducible refine State.put_kept ?_
    | with_reducible refine State.memWrite_kept ?_
    | with_reducible refine State.raise_kept ?_
    | (extract_lets +onlyGivenNames s; refine kept_have (o := o) (x := s) ?_ (fun h => ?_); (on_goal 1 => unfold s; clear s); (on_goal 2 => try clear_value s))
    | (extract_lets +onlyGivenNames x; first | (have _p : PldSt := x; clear _p; unfold x) | skip)
    | simp only [↓kept_mk_iff]
    | with_reducible refine kept_ite (fun _ => ?_) (fun _ => ?_)
    | split
    | dsimp only
    | (dsimp +zetaDelta only; split)

theorem State.storeEntry_kept {o : State} {s : State} {id : Nat} (h : Kept o s) : Kept o (State.storeEntry s id) := by
  unfold State.storeEntry
  repeat' first
    | with_reducible assumption
    | with_reducible refine State.writeEntry_kept ?_
    | dsimp only

theorem State.loadEntry_kept {o : State} {s : State} {id : Nat} (h : Kept o s) : Kept o (State.loadEntry s id) := by
  unfold State.loadEntry
  repeat' first
    | with_reducible assumption
    | with_reducible refine State.put_kept ?_
    | with_reducible refine State.each_kept ?_ (fun s x h => ?_)
    | (extract_lets +onlyGivenNames s; refine kept_have (o := o) (x := s) ?_ (fun h => ?_); (on_goal 1 => unfold s; clear s); (on_goal 2 => try clear_value s))
    | (extract_lets +onlyGivenNames x; first | (have _p : PldSt := x; clear _p; unfold x) | skip)
    | dsimp only

theorem State.writeEntSel_kept {o : State} {s : State} {v : Nat} (h : Kept o s) : Kept o (State.writeEntSel s v) := by
  unfold State.writeEntSel
  repeat' first
    | with_reducible assumption
    | with_reducible refine State.loadEntry_kept ?_
    | with_reducible refine State.storeEntry_kept ?_
    | with_reducible refine State.put_kept ?_
    | (extract_lets +onlyGivenNames s; refine kept_have (o := o) (x := s) ?_ (fun h => ?_); (on_goal 1 => unfold s; clear s); (on_goal 2 => try clear_value s))
    | (extract_lets +onlyGivenNames x; first | (have _p : PldSt := x; clear _p; unfold x) | skip)
    | with_reducible refine kept_ite (fun _ => ?_) (fun _ => ?_)
    | split
    | dsimp only
    | (dsimp +zetaDelta only; split)

theorem execSigEntryWrite_kept {o : State} {val : Word} {s : State} (h : Kept o s) : Keeps o (execSigEntryWrite val s) := by
  unfold execSigEntryWrite
  repeat' first
    | with_reducible assumption
    | with_reducible exact rfl
    | with_reducible refine State.writeEntSel_kept ?_
    | with_reducible refine keeps_next ?_
    | (extract_lets +onlyGivenNames s; refine kept_have (o := o) (x := s) ?_ (fun h => ?_); (on_goal 1 => unfold s; clear s); (on_goal 2 => try clear_value s))
    | (extract_lets +onlyGivenNames x; first | (have _p : PldSt := x; clear _p; unfold x) | skip)
    | simp only [↓kept_mk_iff]
    | with_reducible refine kept_ite (fun _ => ?_) (fun _ => ?_)
    | split
    | dsimp only
    | (dsimp +zetaDelta only; split)

theorem execSigEntryRead_kept {o : State} {val : Word} {s : State} (h : Kept o s) : Keeps o (execSigEntryRead val s) := by
  unfold execSigEntryRead
  repeat' first
    | with_reducible assumption
    | with_reducible exact rfl
    | with_reducible refine State.writeEntSel_kept ?_
    | with_reducible refine keeps_next ?_
    | (extract_lets +onlyGivenNames s; refine kept_have (o := o) (x := s) ?_ (fun h => ?_); (on_goal 1 => unfold s; clear s); (on_goal 2 => try clear_value s))
    | (extract_lets +onlyGivenNames x; first | (have _p : PldSt := x; clear _p; unfold x) | skip)
    | simp only [↓kept_mk_iff]
    | with_reducible refine kept_ite (fun _ => ?_) (fun _ => ?_)
    | split
    | dsimp only
    | (dsimp +zetaDelta only; split)

theorem State.writeMsg_kept {o : State} {s : State} {m : Nat} {w : Nat} {v : Nat} (h : Kept o s) : Kept o (State.writeMsg s m w v) := by
  unfold State.writeMsg
  repeat' first
    | with_reducible assumption
    | with_reducible exact rfl
    | with_reducible refine State.put_kept ?_
    | with_reducible refine State.raise_kept ?_
    | (extract_lets +onlyGivenNames s; refine kept_have (o := o) (x := s) ?_ (fun h => ?_); (on_goal 1 => unfold s; clear s); (on_goal 2 => try clear_value s))
    | (extract_lets +onlyGivenNames x; first | (have _p : PldSt := x; clear _p; unfold x) | skip)
    | simp only [↓kept_mk_iff]
    | with_reducible refine kept_ite (fun _ => ?_) (fun _ => ?_)
    | split
    | dsimp only
    | (dsimp +zetaDelta only; split)

theorem State.setSigTx_kept {o : State} {s : State} {m : Nat} {x : SigTx} (h : Kept o s) : Kept o (State.setSigTx s m x) := by
  unfold State.setSigTx
  repeat' first
    | with_reducible assumption
    | with_reducible exact rfl
    | (extract_lets +onlyGivenNames s; refine kept_have (o := o) (x := s) ?_ (fun h => ?_); (on_goal 1 => unfold s; clear s); (on_goal 2 => try clear_value s))
    | (extract_lets +onlyGivenNames x; first | (have _p : PldSt := x; clear _p; unfold x) | skip)
    | simp only [↓kept_mk_iff]
    | dsimp only

theorem State.emitLocal_kept {o : State} {s : State} {m : Nat} {ep : Nat} {cls : Nat} {bytes : List Byte} (h : Kept o s) : Kept o (State.emitLocal s m ep cls bytes) := by
  unfold State.emitLocal
  repeat' first
    | with_reducible assumption
    | with_reducible exact rfl
    | with_reducible refine State.addWork_kept ?_
    | with_reducible refine State.updWork_kept ?_
    | with_reducible refine State.inc_kept ?_
    | (extract_lets +onlyGivenNames s; refine kept_have (o := o) (x := s) ?_ (fun h => ?_); (on_goal 1 => unfold s; clear s); (on_goal 2 => try clear_value s))
    | (extract_lets +onlyGivenNames x; first | (have _p : PldSt := x; clear _p; unfold x) | skip)
    | simp only [↓kept_mk_iff]
    | with_reducible refine kept_ite (fun _ => ?_) (fun _ => ?_)
    | split
    | dsimp only
    | (dsimp +zetaDelta only; split)

theorem State.sendSignal_kept {o : State} {s : State} {node : Nat} {ep : Nat} {cls : Nat} {bytes : List Byte} (h : Kept o s) : Kept o (State.sendSignal s node ep cls bytes) := by
  unfold State.sendSignal
  repeat' first
    | with_reducible assumption
    | with_reducible refine State.unicast_kept ?_
    | with_reducible refine State.inc_kept ?_
    | with_reducible refine State.broadcast_kept ?_
    | with_reducible refine kept_ite (fun _ => ?_) (fun _ => ?_)
    | split
    | dsimp only
    | (dsimp +zetaDelta only; split)

theorem State.emitMsg_kept {o : State} {s : State} {m : Nat} (h : Kept o s) : Kept o (State.emitMsg s m) := by
  unfold State.emitMsg
  repeat' first
    | with_reducible assumption
    | with_reducible exact rfl
    | with_reducible refine State.emitLocal_kept ?_
    | with_reducible refine State.sendSignal_kept ?_
    | with_reducible refine State.inc_kept ?_
    | with_reducible refine State.setSigTx_kept ?_
    | (extract_lets +onlyGivenNames s; refine kept_have (o := o) (x := s) ?_ (fun h => ?_); (on_goal 1 => unfold s; clear s); (on_goal 2 => try clear_value s))
    | (extract_lets +onlyGivenNames x; first | (have _p : PldSt := x; clear _p; unfold x) | skip)
    | simp only [↓kept_mk_iff]
    | with_reducible refine kept_foldl ?_ (fun s x h => ?_)
    | with_reducible refine kept_foldl_fst ?_ (fun p x h => ?_)
    | with_reducible refine kept_ite (fun _ => ?_) (fun _ => ?_)
    | split
    | dsimp only
    | (dsimp +zetaDelta only; split)

theorem State.emitDue_kept {o : State} {s : State} {m : Nat} (h : Kept o s) : Kept o (State.emitDue s m) := by
  unfold State.emitDue
  repeat' first
    | with_reducible assumption
    | with_reducible exact rfl
    | with_reducible refine State.emitMsg_kept ?_
    | with_reducible refine State.setSigTx_kept ?_
    | (extract_lets +onlyGivenNames s; refine kept_have (o := o) (x := s) ?_ (fun h => ?_); (on_goal 1 => unfold s; clear s); (on_goal 2 => try clear_value s))
    | (extract_lets +onlyGivenNames x; first | (have _p : PldSt := x; clear _p; unfold x) | skip)
    | simp only [↓kept_mk_iff]
    | with_reducible refine kept_ite (fun _ => ?_) (fun _ => ?_)
    | split
    | dsimp only
    | (dsimp +zetaDelta only; split)

theorem State.repack_kept {o : State} {s : State} {len : Nat} {id : Nat} {bs : List Byte} (h : Kept o s) : Kept o (State.repack s len id bs).1 := by
  unfold State.repack
  repeat' first
    | with_reducible assumption
    | with_reducible refine State.sigOp_kept ?_
    | with_reducible refine State.inc_kept ?_
    | (extract_lets +onlyGivenNames s; refine kept_have (o := o) (x := s) ?_ (fun h => ?_); (on_goal 1 => unfold s; clear s); (on_goal 2 => try clear_value s))
    | (extract_lets +onlyGivenNames x; first | (have _p : PldSt := x; clear _p; unfold x) | skip)
    | with_reducible refine kept_foldl ?_ (fun s x h => ?_)
    | with_reducible refine kept_foldl_fst ?_ (fun p x h => ?_)
    | exact h
    | with_reducible refine kept_ite (fun _ => ?_) (fun _ => ?_)
    | split
    | dsimp only
    | (dsimp +zetaDelta only; split)

theorem State.assembleMsg_kept {o : State} {s : State} {m : Nat} (h : Kept o s) : Kept o (State.assembleMsg s m) := by
  unfold State.assembleMsg
  repeat' first
    | with_reducible assumption
    | with_reducible exact rfl
    | with_reducible refine State.emitDue_kept ?_
    | with_reducible refine State.setSigTx_kept ?_
    | with_reducible refine State.repack_kept ?_
    | with_reducible refine kept_fst (by assumption) (State.repack_kept ?_)
    | (extract_lets +onlyGivenNames s; refine kept_have (o := o) (x := s) ?_ (fun h => ?_); (on_goal 1 => unfold s; clear s); (on_goal 2 => try clear_value s))
    | (extract_lets +onlyGivenNames x; first | (have _p : PldSt := x; clear _p; unfold x) | skip)
    | simp only [↓kept_mk_iff]
    | with_reducible refine kept_foldl ?_ (fun s x h => ?_)
    | with_reducible refine kept_foldl_fst ?_ (fun p x h => ?_)
    | with_reducible refine kept_ite (fun _ => ?_) (fun _ => ?_)
    | split
    | dsimp only
    | (dsimp +zetaDelta only; split)

theorem State.followLinks_kept {o s : State} {k : Nat} {todo : List (Nat × Int)} {got : List Nat} (h : Kept o s) :
    Kept o (State.followLinks k s todo got).1 := by
  induction k generalizing s todo got with
  | zero => cases todo <;> exact h
  | succ k ih =>
    match k, todo with
    | _, [] => exact h
    | 0, _ :: _ =>
      unfold State.followLinks
      exact (State.record_kept (State.raise_kept h) : Kept o ((s.raise Reg.SIG_ERR_LINK_LIMIT).record 512))
    | k + 1, (id, v) :: rest => exact ih (State.setValue_kept (State.sigOp_kept h))

theorem State.takeValue_kept {o : State} {s : State} {k' : Nat} {id : Nat} {v : Int} {got : List Nat} (h : Kept o s) : Kept o (State.takeValue s k' id v got).1 := by
  unfold State.takeValue
  repeat' first
    | with_reducible assumption
    | with_reducible refine State.followLinks_kept ?_
    | with_reducible refine kept_fst (by assumption) (State.followLinks_kept ?_)
    | with_reducible refine State.setValue_kept ?_
    | (extract_lets +onlyGivenNames s; refine kept_have (o := o) (x := s) ?_ (fun h => ?_); (on_goal 1 => unfold s; clear s); (on_goal 2 => try clear_value s))
    | (extract_lets +onlyGivenNames x; first | (have _p : PldSt := x; clear _p; unfold x) | skip)
    | exact h
    | dsimp only

theorem State.updateMsgs_kept {o : State} {s : State} {got : List Nat} (h : Kept o s) : Kept o (State.updateMsgs s got) := by
  unfold State.updateMsgs
  repeat' first
    | with_reducible assumption
    | with_reducible refine State.assembleMsg_kept ?_
    | (extract_lets +onlyGivenNames s; refine kept_have (o := o) (x := s) ?_ (fun h => ?_); (on_goal 1 => unfold s; clear s); (on_goal 2 => try clear_value s))
    | (extract_lets +onlyGivenNames x; first | (have _p : PldSt := x; clear _p; unfold x) | skip)
    | with_reducible refine kept_foldl ?_ (fun s x h => ?_)
    | with_reducible refine kept_foldl_fst ?_ (fun p x h => ?_)
    | dsimp only

theorem State.unpack_kept {o : State} {s : State} {m : Nat} {bytes : List Byte} (h : Kept o s) : Kept o (State.unpack s m bytes) := by
  unfold State.unpack
  repeat' first
    | with_reducible assumption
    | with_reducible refine State.updateMsgs_kept ?_
    | with_reducible refine State.sigOp_kept ?_
    | with_reducible refine State.takeValue_kept ?_
    | with_reducible refine kept_fst (by assumption) (State.takeValue_kept ?_)
    | with_reducible refine State.inc_kept ?_
    | (extract_lets +onlyGivenNames s; refine kept_have (o := o) (x := s) ?_ (fun h => ?_); (on_goal 1 => unfold s; clear s); (on_goal 2 => try clear_value s))
    | (extract_lets +onlyGivenNames x; first | (have _p : PldSt := x; clear _p; unfold x) | skip)
    | with_reducible refine kept_foldl ?_ (fun s x h => ?_)
    | with_reducible refine kept_foldl_fst ?_ (fun p x h => ?_)
    | with_reducible refine kept_ite (fun _ => ?_) (fun _ => ?_)
    | split
    | dsimp only
    | (dsimp +zetaDelta only; split)

theorem State.coalesce_kept {o : State} {s : State} {i : SigIn} (h : Kept o s) : Kept o (State.coalesce s i) := by
  unfold State.coalesce
  repeat' first
    | with_reducible assumption
    | with_reducible exact rfl
    | with_reducible refine State.addTo_kept ?_
    | (extract_lets +onlyGivenNames s; refine kept_have (o := o) (x := s) ?_ (fun h => ?_); (on_goal 1 => unfold s; clear s); (on_goal 2 => try clear_value s))
    | (extract_lets +onlyGivenNames x; first | (have _p : PldSt := x; clear _p; unfold x) | skip)
    | simp only [↓kept_mk_iff]
    | split
    | dsimp only
    | (dsimp +zetaDelta only; split)

theorem State.toRouter_kept {o : State} {s : State} {i : SigIn} (h : Kept o s) : Kept o (State.toRouter s i) := by
  unfold State.toRouter
  repeat' first
    | with_reducible assumption
    | with_reducible exact rfl
    | with_reducible refine State.journalInput_kept ?_
    | with_reducible refine State.coalesce_kept ?_
    | (extract_lets +onlyGivenNames s; refine kept_have (o := o) (x := s) ?_ (fun h => ?_); (on_goal 1 => unfold s; clear s); (on_goal 2 => try clear_value s))
    | (extract_lets +onlyGivenNames x; first | (have _p : PldSt := x; clear _p; unfold x) | skip)
    | simp only [↓kept_mk_iff]
    | with_reducible refine kept_ite (fun _ => ?_) (fun _ => ?_)
    | split
    | dsimp only
    | (dsimp +zetaDelta only; split)

theorem State.applyRecord_kept {o : State} {s : State} {bs : List Byte} (h : Kept o s) : Kept o (State.applyRecord s bs) := by
  unfold State.applyRecord
  repeat' first
    | with_reducible assumption
    | with_reducible refine State.inc_kept ?_
    | with_reducible refine State.updateMsgs_kept ?_
    | with_reducible refine State.takeValue_kept ?_
    | with_reducible refine kept_fst (by assumption) (State.takeValue_kept ?_)
    | (extract_lets +onlyGivenNames s; refine kept_have (o := o) (x := s) ?_ (fun h => ?_); (on_goal 1 => unfold s; clear s); (on_goal 2 => try clear_value s))
    | (extract_lets +onlyGivenNames x; first | (have _p : PldSt := x; clear _p; unfold x) | skip)
    | with_reducible refine kept_ite (fun _ => ?_) (fun _ => ?_)
    | split
    | dsimp only
    | (dsimp +zetaDelta only; split)

theorem State.serveInput_kept {o : State} {s : State} {i : SigIn} (h : Kept o s) : Kept o (State.serveInput s i) := by
  unfold State.serveInput
  repeat' first
    | with_reducible assumption
    | with_reducible exact rfl
    | with_reducible refine State.unpack_kept ?_
    | with_reducible refine State.inc_kept ?_
    | with_reducible refine State.applyRecord_kept ?_
    | (extract_lets +onlyGivenNames s; refine kept_have (o := o) (x := s) ?_ (fun h => ?_); (on_goal 1 => unfold s; clear s); (on_goal 2 => try clear_value s))
    | (extract_lets +onlyGivenNames x; first | (have _p : PldSt := x; clear _p; unfold x) | skip)
    | simp only [↓kept_mk_iff]
    | with_reducible refine kept_foldl ?_ (fun s x h => ?_)
    | with_reducible refine kept_foldl_fst ?_ (fun p x h => ?_)
    | with_reducible refine kept_ite (fun _ => ?_) (fun _ => ?_)
    | split
    | dsimp only
    | (dsimp +zetaDelta only; split)

theorem execSigInput_kept {o : State} {s : State} (h : Kept o s) : Keeps o (execSigInput s) := by
  unfold execSigInput
  repeat' first
    | with_reducible assumption
    | with_reducible exact rfl
    | with_reducible refine State.serveInput_kept ?_
    | with_reducible refine keeps_next ?_
    | (extract_lets +onlyGivenNames s; refine kept_have (o := o) (x := s) ?_ (fun h => ?_); (on_goal 1 => unfold s; clear s); (on_goal 2 => try clear_value s))
    | (extract_lets +onlyGivenNames x; first | (have _p : PldSt := x; clear _p; unfold x) | skip)
    | simp only [↓kept_mk_iff]
    | with_reducible refine kept_ite (fun _ => ?_) (fun _ => ?_)
    | split
    | dsimp only
    | (dsimp +zetaDelta only; split)

theorem execSignalFrame_kept {o : State} {src : Nat} {ep : BitVec 12} {f : InClass} {s : State} (h : Kept o s) : Keeps o (execSignalFrame src ep f s) := by
  unfold execSignalFrame
  repeat' first
    | with_reducible assumption
    | with_reducible exact rfl
    | with_reducible refine State.emitLocal_kept ?_
    | with_reducible refine keeps_next ?_
    | (extract_lets +onlyGivenNames s; refine kept_have (o := o) (x := s) ?_ (fun h => ?_); (on_goal 1 => unfold s; clear s); (on_goal 2 => try clear_value s))
    | (extract_lets +onlyGivenNames x; first | (have _p : PldSt := x; clear _p; unfold x) | skip)
    | simp only [↓kept_mk_iff]
    | with_reducible refine kept_ite (fun _ => ?_) (fun _ => ?_)
    | split
    | dsimp only
    | (dsimp +zetaDelta only; split)

theorem execSigPeriodExpiry_kept {o : State} {m : Fin 4096} {s : State} (h : Kept o s) : Keeps o (execSigPeriodExpiry m s) := by
  unfold execSigPeriodExpiry
  repeat' first
    | with_reducible assumption
    | with_reducible refine State.emitDue_kept ?_
    | with_reducible refine keeps_next ?_
    | with_reducible refine kept_ite (fun _ => ?_) (fun _ => ?_)
    | split
    | dsimp only
    | (dsimp +zetaDelta only; split)

theorem execSigMinGapExpiry_kept {o : State} {m : Fin 4096} {s : State} (h : Kept o s) : Keeps o (execSigMinGapExpiry m s) := by
  unfold execSigMinGapExpiry
  repeat' first
    | with_reducible assumption
    | with_reducible exact rfl
    | with_reducible refine State.emitMsg_kept ?_
    | with_reducible refine State.setSigTx_kept ?_
    | with_reducible refine keeps_next ?_
    | (extract_lets +onlyGivenNames s; refine kept_have (o := o) (x := s) ?_ (fun h => ?_); (on_goal 1 => unfold s; clear s); (on_goal 2 => try clear_value s))
    | (extract_lets +onlyGivenNames x; first | (have _p : PldSt := x; clear _p; unfold x) | skip)
    | simp only [↓kept_mk_iff]
    | with_reducible refine kept_ite (fun _ => ?_) (fun _ => ?_)
    | split
    | dsimp only
    | (dsimp +zetaDelta only; split)

theorem execSigUpdate_kept {o : State} {src : Nat} {sq : Nat} {wsn : Nat} {s : State} (h : Kept o s) : Keeps o (execSigUpdate src sq wsn s) := by
  unfold execSigUpdate
  repeat' first
    | with_reducible assumption
    | with_reducible exact rfl
    | with_reducible refine State.failWork_kept ?_
    | with_reducible refine State.applyRecord_kept ?_
    | with_reducible refine State.commitInternal_kept ?_
    | with_reducible refine keeps_next ?_
    | (extract_lets +onlyGivenNames s; refine kept_have (o := o) (x := s) ?_ (fun h => ?_); (on_goal 1 => unfold s; clear s); (on_goal 2 => try clear_value s))
    | (extract_lets +onlyGivenNames x; first | (have _p : PldSt := x; clear _p; unfold x) | skip)
    | simp only [↓kept_mk_iff]
    | with_reducible refine kept_foldl ?_ (fun s x h => ?_)
    | with_reducible refine kept_foldl_fst ?_ (fun p x h => ?_)
    | with_reducible refine kept_ite (fun _ => ?_) (fun _ => ?_)
    | split
    | dsimp only
    | (dsimp +zetaDelta only; split)

theorem State.writeSigCtrl_kept {o : State} {s : State} {v : Nat} (h : Kept o s) : Kept o (State.writeSigCtrl s v) := by
  unfold State.writeSigCtrl
  repeat' first
    | with_reducible assumption
    | with_reducible refine State.reannounce_kept ?_
    | with_reducible refine State.put_kept ?_
    | (extract_lets +onlyGivenNames s; refine kept_have (o := o) (x := s) ?_ (fun h => ?_); (on_goal 1 => unfold s; clear s); (on_goal 2 => try clear_value s))
    | (extract_lets +onlyGivenNames x; first | (have _p : PldSt := x; clear _p; unfold x) | skip)
    | dsimp only

end Sys2Proof.Machine
end

