-- ==== Sys2Proof/Laws/KeptCan.lean ====
section
/-! SUPPORT. What the operations of Machine/Can.lean keep (Laws/Kept.lean). -/

set_option linter.all false

namespace Sys2Proof.Machine

theorem State.putData_kept {o : State} {s : State} {n : Nat} {c : Nat} {j : Nat} {data : List Byte} (h : Kept o s) : Kept o (State.putData s n c j data) := by
  unfold State.putData
  repeat' first
    | with_reducible assumption
    | with_reducible refine State.put_kept ?_
    | with_reducible refine State.each_kept ?_ (fun s x h => ?_)
    | (extract_lets +onlyGivenNames s; refine kept_have (o := o) (x := s) ?_ (fun h => ?_); (on_goal 1 => unfold s; clear s); (on_goal 2 => try clear_value s))
    | (extract_lets +onlyGivenNames x; first | (have _p : PldSt := x; clear _p; unfold x) | skip)
    | dsimp only

theorem State.putTime_kept {o : State} {s : State} {n : Nat} {c : Nat} {j : Nat} {time : Nat} (h : Kept o s) : Kept o (State.putTime s n c j time) := by
  unfold State.putTime
  repeat' first
    | with_reducible assumption
    | with_reducible refine State.put_kept ?_
    | dsimp only

theorem State.captureObj_kept {o : State} {s : State} {req : Requester} {n : Nat} {c : Nat} {j : Nat} (h : Kept o s) : Kept o (State.captureObj s req n c j) := by
  unfold State.captureObj
  repeat' first
    | with_reducible assumption
    | with_reducible exact rfl
    | (extract_lets +onlyGivenNames s; refine kept_have (o := o) (x := s) ?_ (fun h => ?_); (on_goal 1 => unfold s; clear s); (on_goal 2 => try clear_value s))
    | (extract_lets +onlyGivenNames x; first | (have _p : PldSt := x; clear _p; unfold x) | skip)
    | simp only [↓kept_mk_iff]
    | dsimp only

theorem execCanObjectCaptureRead_kept {o : State} {req : Requester} {n : Fin 6} {c : Fin 8} {j : Fin 128} {s : State} (h : Kept o s) : Keeps o (execCanObjectCaptureRead req n c j s) := by
  unfold execCanObjectCaptureRead
  repeat' first
    | with_reducible assumption
    | with_reducible refine State.captureObj_kept ?_
    | with_reducible refine keeps_next ?_
    | with_reducible refine kept_ite (fun _ => ?_) (fun _ => ?_)
    | split
    | dsimp only
    | (dsimp +zetaDelta only; split)

theorem State.setCanState_kept {o : State} {s : State} {n : Nat} {c : Nat} {st : Nat} (h : Kept o s) : Kept o (State.setCanState s n c st) := by
  unfold State.setCanState
  repeat' first
    | with_reducible assumption
    | with_reducible refine State.put_kept ?_
    | dsimp only

theorem State.canFlag_kept {o : State} {s : State} {n : Nat} {c : Nat} {f : Field} {k' : Nat} (h : Kept o s) : Kept o (State.canFlag s n c f k') := by
  unfold State.canFlag
  repeat' first
    | with_reducible assumption
    | with_reducible exact rfl
    | with_reducible refine State.riseBit_kept ?_
    | (extract_lets +onlyGivenNames s; refine kept_have (o := o) (x := s) ?_ (fun h => ?_); (on_goal 1 => unfold s; clear s); (on_goal 2 => try clear_value s))
    | (extract_lets +onlyGivenNames x; first | (have _p : PldSt := x; clear _p; unfold x) | skip)
    | simp only [↓kept_mk_iff]
    | dsimp only

theorem State.canReturnLoans_kept {o : State} {s : State} {n : Nat} {c : Nat} (h : Kept o s) : Kept o (State.canReturnLoans s n c) := by
  unfold State.canReturnLoans
  repeat' first
    | with_reducible assumption
    | with_reducible exact rfl
    | with_reducible refine State.failWork_kept ?_
    | with_reducible refine State.setCan_kept ?_
    | (extract_lets +onlyGivenNames s; refine kept_have (o := o) (x := s) ?_ (fun h => ?_); (on_goal 1 => unfold s; clear s); (on_goal 2 => try clear_value s))
    | (extract_lets +onlyGivenNames x; first | (have _p : PldSt := x; clear _p; unfold x) | skip)
    | simp only [↓kept_mk_iff]
    | with_reducible refine kept_foldl ?_ (fun s x h => ?_)
    | with_reducible refine kept_foldl_fst ?_ (fun p x h => ?_)
    | dsimp only

theorem State.canOff_kept {o : State} {s : State} {n : Nat} {c : Nat} (h : Kept o s) : Kept o (State.canOff s n c) := by
  unfold State.canOff
  repeat' first
    | with_reducible assumption
    | with_reducible exact rfl
    | with_reducible refine State.setFlap_kept ?_
    | with_reducible refine State.reannounce_kept ?_
    | with_reducible refine State.canReturnLoans_kept ?_
    | with_reducible refine State.canConfig_kept ?_
    | with_reducible refine State.tearWork_kept ?_
    | (extract_lets +onlyGivenNames s; refine kept_have (o := o) (x := s) ?_ (fun h => ?_); (on_goal 1 => unfold s; clear s); (on_goal 2 => try clear_value s))
    | (extract_lets +onlyGivenNames x; first | (have _p : PldSt := x; clear _p; unfold x) | skip)
    | simp only [↓kept_mk_iff]
    | with_reducible refine kept_foldl ?_ (fun s x h => ?_)
    | with_reducible refine kept_foldl_fst ?_ (fun p x h => ?_)
    | split
    | dsimp only
    | (dsimp +zetaDelta only; split)

theorem State.canRecord_kept {o : State} {s : State} {n : Nat} {c : Nat} {src : Nat} {info : List Nat} (h : Kept o s) : Kept o (State.canRecord s n c src info) := by
  unfold State.canRecord
  repeat' first
    | with_reducible assumption
    | with_reducible exact rfl
    | with_reducible refine State.canOff_kept ?_
    | with_reducible refine State.recordWith_kept ?_
    | (extract_lets +onlyGivenNames s; refine kept_have (o := o) (x := s) ?_ (fun h => ?_); (on_goal 1 => unfold s; clear s); (on_goal 2 => try clear_value s))
    | (extract_lets +onlyGivenNames x; first | (have _p : PldSt := x; clear _p; unfold x) | skip)
    | simp only [↓kept_mk_iff]
    | with_reducible refine kept_ite (fun _ => ?_) (fun _ => ?_)
    | split
    | dsimp only
    | (dsimp +zetaDelta only; split)

theorem State.canBusOff_kept {o : State} {s : State} {n : Nat} {c : Nat} (h : Kept o s) : Kept o (State.canBusOff s n c) := by
  unfold State.canBusOff
  repeat' first
    | with_reducible assumption
    | with_reducible refine State.canRecord_kept ?_
    | with_reducible refine State.canFlag_kept ?_
    | with_reducible refine State.setFlap_kept ?_
    | with_reducible refine State.setCanState_kept ?_
    | with_reducible refine State.inc_kept ?_
    | (extract_lets +onlyGivenNames s; refine kept_have (o := o) (x := s) ?_ (fun h => ?_); (on_goal 1 => unfold s; clear s); (on_goal 2 => try clear_value s))
    | (extract_lets +onlyGivenNames x; first | (have _p : PldSt := x; clear _p; unfold x) | skip)
    | with_reducible refine kept_ite (fun _ => ?_) (fun _ => ?_)
    | split
    | dsimp only
    | (dsimp +zetaDelta only; split)

theorem State.setErrors_kept {o : State} {s : State} {n : Nat} {c : Nat} {tec : Nat} {rec : Nat} (h : Kept o s) : Kept o (State.setErrors s n c tec rec) := by
  unfold State.setErrors
  repeat' first
    | with_reducible assumption
    | with_reducible refine State.setCanState_kept ?_
    | with_reducible refine State.canFlag_kept ?_
    | with_reducible refine State.canRecord_kept ?_
    | with_reducible refine State.canBusOff_kept ?_
    | with_reducible refine State.put_kept ?_
    | (extract_lets +onlyGivenNames s; refine kept_have (o := o) (x := s) ?_ (fun h => ?_); (on_goal 1 => unfold s; clear s); (on_goal 2 => try clear_value s))
    | (extract_lets +onlyGivenNames x; first | (have _p : PldSt := x; clear _p; unfold x) | skip)
    | with_reducible refine kept_ite (fun _ => ?_) (fun _ => ?_)
    | split
    | dsimp only
    | (dsimp +zetaDelta only; split)

theorem State.writeCanCfg_kept {o : State} {s : State} {n : Nat} {c : Nat} {v : Nat} (h : Kept o s) : Kept o (State.writeCanCfg s n c v) := by
  unfold State.writeCanCfg
  repeat' first
    | with_reducible assumption
    | with_reducible exact rfl
    | with_reducible refine State.canReturnLoans_kept ?_
    | with_reducible refine State.canOff_kept ?_
    | with_reducible refine State.reannounce_kept ?_
    | with_reducible refine State.setCanState_kept ?_
    | with_reducible refine State.put_kept ?_
    | with_reducible refine State.raise_kept ?_
    | (extract_lets +onlyGivenNames s; refine kept_have (o := o) (x := s) ?_ (fun h => ?_); (on_goal 1 => unfold s; clear s); (on_goal 2 => try clear_value s))
    | (extract_lets +onlyGivenNames x; first | (have _p : PldSt := x; clear _p; unfold x) | skip)
    | simp only [↓kept_mk_iff]
    | with_reducible refine kept_ite (fun _ => ?_) (fun _ => ?_)
    | split
    | dsimp only
    | (dsimp +zetaDelta only; split)

theorem execCanEnable_kept {o : State} {n : Fin 6} {c : Fin 8} {val : Word} {s : State} (h : Kept o s) : Keeps o (execCanEnable n c val s) := by
  unfold execCanEnable
  repeat' first
    | with_reducible assumption
    | with_reducible exact rfl
    | with_reducible refine State.writeCanCfg_kept ?_
    | with_reducible refine keeps_next ?_
    | (extract_lets +onlyGivenNames s; refine kept_have (o := o) (x := s) ?_ (fun h => ?_); (on_goal 1 => unfold s; clear s); (on_goal 2 => try clear_value s))
    | (extract_lets +onlyGivenNames x; first | (have _p : PldSt := x; clear _p; unfold x) | skip)
    | simp only [↓kept_mk_iff]
    | with_reducible refine kept_ite (fun _ => ?_) (fun _ => ?_)
    | split
    | dsimp only
    | (dsimp +zetaDelta only; split)

theorem execCanDisable_kept {o : State} {n : Fin 6} {c : Fin 8} {val : Word} {s : State} (h : Kept o s) : Keeps o (execCanDisable n c val s) := by
  unfold execCanDisable
  repeat' first
    | with_reducible assumption
    | with_reducible exact rfl
    | with_reducible refine State.writeCanCfg_kept ?_
    | with_reducible refine keeps_next ?_
    | (extract_lets +onlyGivenNames s; refine kept_have (o := o) (x := s) ?_ (fun h => ?_); (on_goal 1 => unfold s; clear s); (on_goal 2 => try clear_value s))
    | (extract_lets +onlyGivenNames x; first | (have _p : PldSt := x; clear _p; unfold x) | skip)
    | simp only [↓kept_mk_iff]
    | with_reducible refine kept_ite (fun _ => ?_) (fun _ => ?_)
    | split
    | dsimp only
    | (dsimp +zetaDelta only; split)

theorem execCanIntegrated_kept {o : State} {n : Fin 6} {c : Fin 8} {s : State} (h : Kept o s) : Keeps o (execCanIntegrated n c s) := by
  unfold execCanIntegrated
  repeat' first
    | with_reducible assumption
    | with_reducible exact rfl
    | with_reducible refine State.setCanState_kept ?_
    | with_reducible refine State.setErrors_kept ?_
    | with_reducible refine State.setCan_kept ?_
    | with_reducible refine keeps_next ?_
    | (extract_lets +onlyGivenNames s; refine kept_have (o := o) (x := s) ?_ (fun h => ?_); (on_goal 1 => unfold s; clear s); (on_goal 2 => try clear_value s))
    | (extract_lets +onlyGivenNames x; first | (have _p : PldSt := x; clear _p; unfold x) | skip)
    | simp only [↓kept_mk_iff]
    | with_reducible refine kept_ite (fun _ => ?_) (fun _ => ?_)
    | split
    | dsimp only
    | (dsimp +zetaDelta only; split)

theorem State.canRecover_kept {o : State} {s : State} {n : Nat} {c : Nat} (h : Kept o s) : Kept o (State.canRecover s n c) := by
  unfold State.canRecover
  repeat' first
    | with_reducible assumption
    | with_reducible refine State.setCanState_kept ?_
    | with_reducible refine kept_ite (fun _ => ?_) (fun _ => ?_)
    | split
    | dsimp only
    | (dsimp +zetaDelta only; split)

theorem execCanRecover_kept {o : State} {n : Fin 6} {c : Fin 8} {s : State} (h : Kept o s) : Keeps o (execCanRecover n c s) := by
  unfold execCanRecover
  repeat' first
    | with_reducible assumption
    | with_reducible refine State.canRecover_kept ?_
    | with_reducible refine keeps_next ?_
    | with_reducible refine kept_ite (fun _ => ?_) (fun _ => ?_)
    | split
    | dsimp only
    | (dsimp +zetaDelta only; split)

theorem execCanRecoveryDone_kept {o : State} {n : Fin 6} {c : Fin 8} {s : State} (h : Kept o s) : Keeps o (execCanRecoveryDone n c s) := by
  unfold execCanRecoveryDone
  repeat' first
    | with_reducible assumption
    | with_reducible refine State.epLinkReturn_kept ?_
    | with_reducible refine State.setCanState_kept ?_
    | with_reducible refine State.put_kept ?_
    | with_reducible refine keeps_next ?_
    | (extract_lets +onlyGivenNames s; refine kept_have (o := o) (x := s) ?_ (fun h => ?_); (on_goal 1 => unfold s; clear s); (on_goal 2 => try clear_value s))
    | (extract_lets +onlyGivenNames x; first | (have _p : PldSt := x; clear _p; unfold x) | skip)
    | with_reducible refine kept_ite (fun _ => ?_) (fun _ => ?_)
    | split
    | dsimp only
    | (dsimp +zetaDelta only; split)

theorem State.canSleep_kept {o : State} {s : State} {n : Nat} {c : Nat} {busIdle : Bool} (h : Kept o s) : Kept o (State.canSleep s n c busIdle) := by
  unfold State.canSleep
  repeat' first
    | with_reducible assumption
    | with_reducible exact rfl
    | with_reducible refine State.canFlag_kept ?_
    | with_reducible refine State.setCanState_kept ?_
    | (extract_lets +onlyGivenNames s; refine kept_have (o := o) (x := s) ?_ (fun h => ?_); (on_goal 1 => unfold s; clear s); (on_goal 2 => try clear_value s))
    | (extract_lets +onlyGivenNames x; first | (have _p : PldSt := x; clear _p; unfold x) | skip)
    | simp only [↓kept_mk_iff]
    | with_reducible refine kept_ite (fun _ => ?_) (fun _ => ?_)
    | split
    | dsimp only
    | (dsimp +zetaDelta only; split)

theorem execCanSleep_kept {o : State} {n : Fin 6} {c : Fin 8} {busIdle : Bool} {s : State} (h : Kept o s) : Keeps o (execCanSleep n c busIdle s) := by
  unfold execCanSleep
  repeat' first
    | with_reducible assumption
    | with_reducible refine State.canSleep_kept ?_
    | with_reducible refine keeps_next ?_
    | with_reducible refine kept_ite (fun _ => ?_) (fun _ => ?_)
    | split
    | dsimp only
    | (dsimp +zetaDelta only; split)

theorem State.canWake_kept {o : State} {s : State} {n : Nat} {c : Nat} {cause : Nat} (h : Kept o s) : Kept o (State.canWake s n c cause) := by
  unfold State.canWake
  repeat' first
    | with_reducible assumption
    | with_reducible refine State.setCanState_kept ?_
    | with_reducible refine State.put_kept ?_
    | with_reducible refine State.canFlag_kept ?_
    | with_reducible refine kept_ite (fun _ => ?_) (fun _ => ?_)
    | split
    | dsimp only
    | (dsimp +zetaDelta only; split)

theorem execCanWake_kept {o : State} {n : Fin 6} {c : Fin 8} {s : State} (h : Kept o s) : Keeps o (execCanWake n c s) := by
  unfold execCanWake
  repeat' first
    | with_reducible assumption
    | with_reducible refine State.canWake_kept ?_
    | with_reducible refine keeps_next ?_
    | with_reducible refine kept_ite (fun _ => ?_) (fun _ => ?_)
    | split
    | dsimp only
    | (dsimp +zetaDelta only; split)

theorem execCanBusWake_kept {o : State} {n : Fin 6} {c : Fin 8} {s : State} (h : Kept o s) : Keeps o (execCanBusWake n c s) := by
  unfold execCanBusWake
  repeat' first
    | with_reducible assumption
    | with_reducible refine State.canWake_kept ?_
    | with_reducible refine keeps_next ?_
    | with_reducible refine kept_ite (fun _ => ?_) (fun _ => ?_)
    | split
    | dsimp only
    | (dsimp +zetaDelta only; split)

theorem State.setTxPend_kept {o : State} {s : State} {n : Nat} {c : Nat} {j : Nat} {on : Bool} (h : Kept o s) : Kept o (State.setTxPend s n c j on) := by
  unfold State.setTxPend
  repeat' first
    | with_reducible assumption
    | with_reducible refine State.dropBits_kept ?_
    | with_reducible refine State.orBits_kept ?_
    | with_reducible refine kept_ite (fun _ => ?_) (fun _ => ?_)
    | split
    | dsimp only
    | (dsimp +zetaDelta only; split)

theorem State.canLoad_kept {o : State} {s : State} {n : Nat} {c : Nat} (h : Kept o s) : Kept o (State.canLoad s n c) := by
  unfold State.canLoad
  repeat' first
    | with_reducible assumption
    | with_reducible exact rfl
    | with_reducible refine State.setCan_kept ?_
    | with_reducible refine State.setTxPend_kept ?_
    | with_reducible refine State.canWake_kept ?_
    | with_reducible refine State.updWork_kept ?_
    | with_reducible refine State.putData_kept ?_
    | with_reducible refine State.put_kept ?_
    | with_reducible refine State.failWork_kept ?_
    | (extract_lets +onlyGivenNames s; refine kept_have (o := o) (x := s) ?_ (fun h => ?_); (on_goal 1 => unfold s; clear s); (on_goal 2 => try clear_value s))
    | (extract_lets +onlyGivenNames x; first | (have _p : PldSt := x; clear _p; unfold x) | skip)
    | simp only [↓kept_mk_iff]
    | with_reducible refine kept_ite (fun _ => ?_) (fun _ => ?_)
    | split
    | dsimp only
    | (dsimp +zetaDelta only; split)

theorem execCanObjectLoad_kept {o : State} {n : Fin 6} {c : Fin 8} {s : State} (h : Kept o s) : Keeps o (execCanObjectLoad n c s) := by
  unfold execCanObjectLoad
  repeat' first
    | with_reducible assumption
    | with_reducible refine State.canLoad_kept ?_
    | with_reducible refine keeps_next ?_
    | with_reducible refine kept_ite (fun _ => ?_) (fun _ => ?_)
    | split
    | dsimp only
    | (dsimp +zetaDelta only; split)

theorem State.updObj_kept {o : State} {s : State} {n : Nat} {c : Nat} {j : Nat} {o' : Option CanObj} (h : Kept o s) : Kept o (State.updObj s n c j o') := by
  unfold State.updObj
  repeat' first
    | with_reducible assumption
    | with_reducible exact rfl
    | with_reducible refine State.setTxPend_kept ?_
    | with_reducible refine State.setCan_kept ?_
    | (extract_lets +onlyGivenNames s; refine kept_have (o := o) (x := s) ?_ (fun h => ?_); (on_goal 1 => unfold s; clear s); (on_goal 2 => try clear_value s))
    | (extract_lets +onlyGivenNames x; first | (have _p : PldSt := x; clear _p; unfold x) | skip)
    | simp only [↓kept_mk_iff]
    | split
    | dsimp only
    | (dsimp +zetaDelta only; split)

theorem execCanObjectRequest_kept {o : State} {n : Fin 6} {c : Fin 8} {j : Fin 128} {s : State} (h : Kept o s) : Keeps o (execCanObjectRequest n c j s) := by
  unfold execCanObjectRequest
  repeat' first
    | with_reducible assumption
    | with_reducible exact rfl
    | with_reducible refine State.updObj_kept ?_
    | with_reducible refine keeps_next ?_
    | (extract_lets +onlyGivenNames s; refine kept_have (o := o) (x := s) ?_ (fun h => ?_); (on_goal 1 => unfold s; clear s); (on_goal 2 => try clear_value s))
    | (extract_lets +onlyGivenNames x; first | (have _p : PldSt := x; clear _p; unfold x) | skip)
    | simp only [↓kept_mk_iff]
    | with_reducible refine kept_ite (fun _ => ?_) (fun _ => ?_)
    | split
    | dsimp only
    | (dsimp +zetaDelta only; split)

theorem State.attemptOver_kept {o : State} {s : State} {n : Nat} {c : Nat} (h : Kept o s) : Kept o (State.attemptOver s n c) := by
  unfold State.attemptOver
  repeat' first
    | with_reducible assumption
    | with_reducible exact rfl
    | (extract_lets +onlyGivenNames s; refine kept_have (o := o) (x := s) ?_ (fun h => ?_); (on_goal 1 => unfold s; clear s); (on_goal 2 => try clear_value s))
    | (extract_lets +onlyGivenNames x; first | (have _p : PldSt := x; clear _p; unfold x) | skip)
    | simp only [↓kept_mk_iff]
    | with_reducible refine kept_ite (fun _ => ?_) (fun _ => ?_)
    | split
    | dsimp only
    | (dsimp +zetaDelta only; split)

theorem State.canBegin_kept {o : State} {s : State} {n : Nat} {c : Nat} {j : Nat} (h : Kept o s) : Kept o (State.canBegin s n c j) := by
  unfold State.canBegin
  repeat' first
    | with_reducible assumption
    | with_reducible exact rfl
    | with_reducible refine State.startEmission_kept ?_
    | (extract_lets +onlyGivenNames s; refine kept_have (o := o) (x := s) ?_ (fun h => ?_); (on_goal 1 => unfold s; clear s); (on_goal 2 => try clear_value s))
    | (extract_lets +onlyGivenNames x; first | (have _p : PldSt := x; clear _p; unfold x) | skip)
    | simp only [↓kept_mk_iff]
    | with_reducible refine kept_ite (fun _ => ?_) (fun _ => ?_)
    | split
    | dsimp only
    | (dsimp +zetaDelta only; split)

theorem State.endCancel_kept {o : State} {s : State} {n : Nat} {c : Nat} {j : Nat} {res : Nat} (h : Kept o s) : Kept o (State.endCancel s n c j res) := by
  unfold State.endCancel
  repeat' first
    | with_reducible assumption
    | with_reducible exact rfl
    | with_reducible refine State.setCan_kept ?_
    | with_reducible refine State.put_kept ?_
    | (extract_lets +onlyGivenNames s; refine kept_have (o := o) (x := s) ?_ (fun h => ?_); (on_goal 1 => unfold s; clear s); (on_goal 2 => try clear_value s))
    | (extract_lets +onlyGivenNames x; first | (have _p : PldSt := x; clear _p; unfold x) | skip)
    | simp only [↓kept_mk_iff]
    | with_reducible refine kept_ite (fun _ => ?_) (fun _ => ?_)
    | split
    | dsimp only
    | (dsimp +zetaDelta only; split)

theorem State.cancelObj_kept {o : State} {s : State} {n : Nat} {c : Nat} {j : Nat} (h : Kept o s) : Kept o (State.cancelObj s n c j) := by
  unfold State.cancelObj
  repeat' first
    | with_reducible assumption
    | with_reducible exact rfl
    | with_reducible refine State.failWork_kept ?_
    | with_reducible refine State.updObj_kept ?_
    | with_reducible refine State.inc_kept ?_
    | (extract_lets +onlyGivenNames s; refine kept_have (o := o) (x := s) ?_ (fun h => ?_); (on_goal 1 => unfold s; clear s); (on_goal 2 => try clear_value s))
    | (extract_lets +onlyGivenNames x; first | (have _p : PldSt := x; clear _p; unfold x) | skip)
    | simp only [↓kept_mk_iff]
    | split
    | dsimp only
    | (dsimp +zetaDelta only; split)

theorem execCanArbLost_kept {o : State} {n : Fin 6} {c : Fin 8} {newer : List (Fin 128)} {s : State} (h : Kept o s) : Keeps o (execCanArbLost n c newer s) := by
  unfold execCanArbLost
  repeat' first
    | with_reducible assumption
    | with_reducible exact rfl
    | with_reducible refine State.updObj_kept ?_
    | with_reducible refine State.attemptOver_kept ?_
    | with_reducible refine State.canBegin_kept ?_
    | with_reducible refine State.inc_kept ?_
    | with_reducible refine keeps_next ?_
    | (extract_lets +onlyGivenNames s; refine kept_have (o := o) (x := s) ?_ (fun h => ?_); (on_goal 1 => unfold s; clear s); (on_goal 2 => try clear_value s))
    | (extract_lets +onlyGivenNames x; first | (have _p : PldSt := x; clear _p; unfold x) | skip)
    | simp only [↓kept_mk_iff]
    | split
    | dsimp only
    | (dsimp +zetaDelta only; split)

theorem State.measureLoop_kept {o : State} {s : State} {n : Nat} {c : Nat} {loop : Nat} (h : Kept o s) : Kept o (State.measureLoop s n c loop) := by
  unfold State.measureLoop
  repeat' first
    | with_reducible assumption
    | with_reducible exact rfl
    | with_reducible refine State.put_kept ?_
    | (extract_lets +onlyGivenNames s; refine kept_have (o := o) (x := s) ?_ (fun h => ?_); (on_goal 1 => unfold s; clear s); (on_goal 2 => try clear_value s))
    | (extract_lets +onlyGivenNames x; first | (have _p : PldSt := x; clear _p; unfold x) | skip)
    | simp only [↓kept_mk_iff]
    | with_reducible refine kept_ite (fun _ => ?_) (fun _ => ?_)
    | split
    | dsimp only
    | (dsimp +zetaDelta only; split)

theorem State.frameLoop_kept {o : State} {s : State} {n : Nat} {c : Nat} {j : Nat} {loop : Nat} (h : Kept o s) : Kept o (State.frameLoop s n c j loop) := by
  unfold State.frameLoop
  repeat' first
    | with_reducible assumption
    | with_reducible exact rfl
    | with_reducible refine State.measureLoop_kept ?_
    | (extract_lets +onlyGivenNames s; refine kept_have (o := o) (x := s) ?_ (fun h => ?_); (on_goal 1 => unfold s; clear s); (on_goal 2 => try clear_value s))
    | (extract_lets +onlyGivenNames x; first | (have _p : PldSt := x; clear _p; unfold x) | skip)
    | simp only [↓kept_mk_iff]
    | with_reducible refine kept_ite (fun _ => ?_) (fun _ => ?_)
    | split
    | dsimp only
    | (dsimp +zetaDelta only; split)

theorem State.txSent_kept {o : State} {s : State} {n : Nat} {c : Nat} {j : Nat} (h : Kept o s) : Kept o (State.txSent s n c j) := by
  unfold State.txSent
  repeat' first
    | with_reducible assumption
    | with_reducible exact rfl
    | with_reducible refine State.commit_kept ?_
    | with_reducible refine State.put_kept ?_
    | with_reducible refine State.updObj_kept ?_
    | with_reducible refine State.endCancel_kept ?_
    | with_reducible refine State.inc_kept ?_
    | with_reducible refine State.canBegin_kept ?_
    | with_reducible refine State.setCan_kept ?_
    | (extract_lets +onlyGivenNames s; refine kept_have (o := o) (x := s) ?_ (fun h => ?_); (on_goal 1 => unfold s; clear s); (on_goal 2 => try clear_value s))
    | (extract_lets +onlyGivenNames x; first | (have _p : PldSt := x; clear _p; unfold x) | skip)
    | simp only [↓kept_mk_iff]
    | with_reducible refine kept_ite (fun _ => ?_) (fun _ => ?_)
    | split
    | dsimp only
    | (dsimp +zetaDelta only; split)

theorem execCanTxCommit_kept {o : State} {n : Fin 6} {c : Fin 8} {newer : List (Fin 128)} {loop : Nat} {ago : Nat} {s : State} (h : Kept o s) : Keeps o (execCanTxCommit n c newer loop ago s) := by
  unfold execCanTxCommit
  repeat' first
    | with_reducible assumption
    | with_reducible exact rfl
    | with_reducible refine State.txSent_kept ?_
    | with_reducible refine State.setErrors_kept ?_
    | with_reducible refine State.frameLoop_kept ?_
    | with_reducible refine State.putTime_kept ?_
    | with_reducible refine State.attemptOver_kept ?_
    | with_reducible refine State.emit_kept ?_
    | with_reducible refine keeps_next ?_
    | (extract_lets +onlyGivenNames s; refine kept_have (o := o) (x := s) ?_ (fun h => ?_); (on_goal 1 => unfold s; clear s); (on_goal 2 => try clear_value s))
    | (extract_lets +onlyGivenNames x; first | (have _p : PldSt := x; clear _p; unfold x) | skip)
    | simp only [↓kept_mk_iff]
    | split
    | dsimp only
    | (dsimp +zetaDelta only; split)

theorem State.dupHold_kept {o : State} {s : State} {n : Nat} {c : Nat} {j : Nat} {o' : CanObj} (h : Kept o s) : Kept o (State.dupHold s n c j o') := by
  unfold State.dupHold
  repeat' first
    | with_reducible assumption
    | with_reducible exact rfl
    | with_reducible refine State.inc_kept ?_
    | with_reducible refine State.canRecord_kept ?_
    | with_reducible refine State.canFlag_kept ?_
    | with_reducible refine State.incSat_kept ?_
    | with_reducible refine State.put_kept ?_
    | with_reducible refine State.draw_kept ?_
    | with_reducible refine State.updObj_kept ?_
    | (extract_lets +onlyGivenNames s; refine kept_have (o := o) (x := s) ?_ (fun h => ?_); (on_goal 1 => unfold s; clear s); (on_goal 2 => try clear_value s))
    | (extract_lets +onlyGivenNames x; first | (have _p : PldSt := x; clear _p; unfold x) | skip)
    | simp only [↓kept_mk_iff]
    | dsimp only

theorem State.eofError_kept {o : State} {s : State} {n : Nat} {c : Nat} {tec : Nat} {rec : Nat} (h : Kept o s) : Kept o (State.eofError s n c tec rec) := by
  unfold State.eofError
  repeat' first
    | with_reducible assumption
    | with_reducible exact rfl
    | with_reducible refine State.inc_kept ?_
    | with_reducible refine State.canFlag_kept ?_
    | with_reducible refine State.setErrors_kept ?_
    | with_reducible refine State.setCan_kept ?_
    | (extract_lets +onlyGivenNames s; refine kept_have (o := o) (x := s) ?_ (fun h => ?_); (on_goal 1 => unfold s; clear s); (on_goal 2 => try clear_value s))
    | (extract_lets +onlyGivenNames x; first | (have _p : PldSt := x; clear _p; unfold x) | skip)
    | simp only [↓kept_mk_iff]
    | with_reducible refine kept_ite (fun _ => ?_) (fun _ => ?_)
    | split
    | dsimp only
    | (dsimp +zetaDelta only; split)

theorem State.noteError_kept {o : State} {s : State} {n : Nat} {c : Nat} {lec : Nat} (h : Kept o s) : Kept o (State.noteError s n c lec) := by
  unfold State.noteError
  repeat' first
    | with_reducible assumption
    | with_reducible exact rfl
    | with_reducible refine State.inc_kept ?_
    | with_reducible refine State.put_kept ?_
    | with_reducible refine State.emit_kept ?_
    | (extract_lets +onlyGivenNames s; refine kept_have (o := o) (x := s) ?_ (fun h => ?_); (on_goal 1 => unfold s; clear s); (on_goal 2 => try clear_value s))
    | (extract_lets +onlyGivenNames x; first | (have _p : PldSt := x; clear _p; unfold x) | skip)
    | simp only [↓kept_mk_iff]
    | dsimp only

theorem State.attemptFailed_kept {o : State} {s : State} {n : Nat} {c : Nat} {j : Nat} {dup : Bool} (h : Kept o s) : Kept o (State.attemptFailed s n c j dup) := by
  unfold State.attemptFailed
  repeat' first
    | with_reducible assumption
    | with_reducible exact rfl
    | with_reducible refine State.cancelObj_kept ?_
    | with_reducible refine State.endCancel_kept ?_
    | with_reducible refine State.dupHold_kept ?_
    | with_reducible refine State.updObj_kept ?_
    | (extract_lets +onlyGivenNames s; refine kept_have (o := o) (x := s) ?_ (fun h => ?_); (on_goal 1 => unfold s; clear s); (on_goal 2 => try clear_value s))
    | (extract_lets +onlyGivenNames x; first | (have _p : PldSt := x; clear _p; unfold x) | skip)
    | simp only [↓kept_mk_iff]
    | with_reducible refine kept_ite (fun _ => ?_) (fun _ => ?_)
    | split
    | dsimp only
    | (dsimp +zetaDelta only; split)

theorem execCanTxError_kept {o : State} {n : Fin 6} {c : Fin 8} {newer : List (Fin 128)} {lec : Fin 7} {dTec : Fin 9} {dRec : Fin 9} {dup : Bool} {at' : AttemptEnd} {s : State} (h : Kept o s) : Keeps o (execCanTxError n c newer lec dTec dRec dup at' s) := by
  unfold execCanTxError
  repeat' first
    | with_reducible assumption
    | with_reducible exact rfl
    | with_reducible refine State.canBegin_kept ?_
    | with_reducible refine State.attemptFailed_kept ?_
    | with_reducible refine State.setErrors_kept ?_
    | with_reducible refine State.attemptOver_kept ?_
    | with_reducible refine State.frameLoop_kept ?_
    | with_reducible refine State.noteError_kept ?_
    | with_reducible refine State.eofError_kept ?_
    | with_reducible refine keeps_next ?_
    | (extract_lets +onlyGivenNames s; refine kept_have (o := o) (x := s) ?_ (fun h => ?_); (on_goal 1 => unfold s; clear s); (on_goal 2 => try clear_value s))
    | (extract_lets +onlyGivenNames x; first | (have _p : PldSt := x; clear _p; unfold x) | skip)
    | simp only [↓kept_mk_iff]
    | with_reducible refine kept_ite (fun _ => ?_) (fun _ => ?_)
    | split
    | dsimp only
    | (dsimp +zetaDelta only; split)

theorem execCanDupHoldEnd_kept {o : State} {n : Fin 6} {c : Fin 8} {j : Fin 128} {s : State} (h : Kept o s) : Keeps o (execCanDupHoldEnd n c j s) := by
  unfold execCanDupHoldEnd
  repeat' first
    | with_reducible assumption
    | with_reducible exact rfl
    | with_reducible refine State.updObj_kept ?_
    | with_reducible refine keeps_next ?_
    | (extract_lets +onlyGivenNames s; refine kept_have (o := o) (x := s) ?_ (fun h => ?_); (on_goal 1 => unfold s; clear s); (on_goal 2 => try clear_value s))
    | (extract_lets +onlyGivenNames x; first | (have _p : PldSt := x; clear _p; unfold x) | skip)
    | simp only [↓kept_mk_iff]
    | with_reducible refine kept_ite (fun _ => ?_) (fun _ => ?_)
    | split
    | dsimp only
    | (dsimp +zetaDelta only; split)

theorem State.txCancel_kept {o : State} {s : State} {n : Nat} {c : Nat} {j : Nat} {won : Bool} (h : Kept o s) : Kept o (State.txCancel s n c j won) := by
  unfold State.txCancel
  repeat' first
    | with_reducible assumption
    | with_reducible exact rfl
    | with_reducible refine State.cancelObj_kept ?_
    | with_reducible refine State.setCan_kept ?_
    | with_reducible refine State.canBegin_kept ?_
    | with_reducible refine State.put_kept ?_
    | with_reducible refine State.raise_kept ?_
    | (extract_lets +onlyGivenNames s; refine kept_have (o := o) (x := s) ?_ (fun h => ?_); (on_goal 1 => unfold s; clear s); (on_goal 2 => try clear_value s))
    | (extract_lets +onlyGivenNames x; first | (have _p : PldSt := x; clear _p; unfold x) | skip)
    | simp only [↓kept_mk_iff]
    | with_reducible refine kept_ite (fun _ => ?_) (fun _ => ?_)
    | split
    | dsimp only
    | (dsimp +zetaDelta only; split)

theorem execCanTxCancel_kept {o : State} {n : Fin 6} {c : Fin 8} {j : Fin 128} {won : Bool} {s : State} (h : Kept o s) : Keeps o (execCanTxCancel n c j won s) := by
  unfold execCanTxCancel
  repeat' first
    | with_reducible assumption
    | with_reducible refine State.txCancel_kept ?_
    | with_reducible refine keeps_next ?_
    | with_reducible refine kept_ite (fun _ => ?_) (fun _ => ?_)
    | split
    | dsimp only
    | (dsimp +zetaDelta only; split)

theorem State.canCloseLoan_kept {o : State} {s : State} {n : Nat} {c : Nat} (h : Kept o s) : Kept o (State.canCloseLoan s n c) := by
  unfold State.canCloseLoan
  repeat' first
    | with_reducible assumption
    | with_reducible exact rfl
    | with_reducible refine State.setCan_kept ?_
    | with_reducible refine State.returnData_kept ?_
    | (extract_lets +onlyGivenNames s; refine kept_have (o := o) (x := s) ?_ (fun h => ?_); (on_goal 1 => unfold s; clear s); (on_goal 2 => try clear_value s))
    | (extract_lets +onlyGivenNames x; first | (have _p : PldSt := x; clear _p; unfold x) | skip)
    | simp only [↓kept_mk_iff]
    | split
    | dsimp only
    | (dsimp +zetaDelta only; split)

theorem State.canDrain_kept {o : State} {a0 : Nat} {a1 : State} {a2 : Nat} {a3 : Nat} (h : Kept o a1) : Kept o (State.canDrain a0 a1 a2 a3) := by
  induction a0 generalizing a1 a2 a3 with
  | zero =>
    unfold State.canDrain
    repeat' first
      | with_reducible assumption
      | with_reducible exact rfl
      | with_reducible refine State.canCloseLoan_kept ?_
      | with_reducible refine State.setCan_kept ?_
      | with_reducible refine State.toRouter_kept ?_
      | (extract_lets +onlyGivenNames s; refine kept_have (o := o) (x := s) ?_ (fun h => ?_); (on_goal 1 => unfold s; clear s); (on_goal 2 => try clear_value s))
      | (extract_lets +onlyGivenNames x; first | (have _p : PldSt := x; clear _p; unfold x) | skip)
      | simp only [↓kept_mk_iff]
      | with_reducible refine kept_ite (fun _ => ?_) (fun _ => ?_)
      | split
      | dsimp only
      | (dsimp +zetaDelta only; split)
  | succ k ih =>
    unfold State.canDrain
    repeat' first
      | with_reducible apply ih
      | with_reducible assumption
      | with_reducible exact rfl
      | with_reducible refine State.canCloseLoan_kept ?_
      | with_reducible refine State.setCan_kept ?_
      | with_reducible refine State.toRouter_kept ?_
      | (extract_lets +onlyGivenNames s; refine kept_have (o := o) (x := s) ?_ (fun h => ?_); (on_goal 1 => unfold s; clear s); (on_goal 2 => try clear_value s))
      | (extract_lets +onlyGivenNames x; first | (have _p : PldSt := x; clear _p; unfold x) | skip)
      | simp only [↓kept_mk_iff]
      | with_reducible refine kept_ite (fun _ => ?_) (fun _ => ?_)
      | split
      | dsimp only
      | (dsimp +zetaDelta only; split)

theorem State.canDeliver_kept {o : State} {s : State} {n : Nat} {c : Nat} (h : Kept o s) : Kept o (State.canDeliver s n c) := by
  unfold State.canDeliver
  repeat' first
    | with_reducible assumption
    | with_reducible refine State.canDrain_kept ?_
    | with_reducible refine kept_ite (fun _ => ?_) (fun _ => ?_)
    | split
    | dsimp only
    | (dsimp +zetaDelta only; split)

theorem State.canEnqueue_kept {o : State} {s : State} {n : Nat} {c : Nat} {deliver : Nat} {time : Nat} {w0 : Nat} {obj : Nat} {flags : Nat} {data : List Byte} (h : Kept o s) : Kept o (State.canEnqueue s n c deliver time w0 obj flags data) := by
  unfold State.canEnqueue
  repeat' first
    | with_reducible assumption
    | with_reducible exact rfl
    | with_reducible refine State.inc_kept ?_
    | with_reducible refine State.canFlag_kept ?_
    | with_reducible refine State.setCan_kept ?_
    | with_reducible refine State.put_kept ?_
    | with_reducible refine State.each_kept ?_ (fun s x h => ?_)
    | (extract_lets +onlyGivenNames s; refine kept_have (o := o) (x := s) ?_ (fun h => ?_); (on_goal 1 => unfold s; clear s); (on_goal 2 => try clear_value s))
    | (extract_lets +onlyGivenNames x; first | (have _p : PldSt := x; clear _p; unfold x) | skip)
    | simp only [↓kept_mk_iff]
    | with_reducible refine kept_ite (fun _ => ?_) (fun _ => ?_)
    | split
    | dsimp only
    | (dsimp +zetaDelta only; split)

theorem State.recAfterFrame_kept {o : State} {s : State} {n : Nat} {c : Nat} (h : Kept o s) : Kept o (State.recAfterFrame s n c) := by
  unfold State.recAfterFrame
  repeat' first
    | with_reducible assumption
    | with_reducible refine State.draw_kept ?_
    | with_reducible refine State.setErrors_kept ?_
    | (extract_lets +onlyGivenNames s; refine kept_have (o := o) (x := s) ?_ (fun h => ?_); (on_goal 1 => unfold s; clear s); (on_goal 2 => try clear_value s))
    | (extract_lets +onlyGivenNames x; first | (have _p : PldSt := x; clear _p; unfold x) | skip)
    | with_reducible refine kept_ite (fun _ => ?_) (fun _ => ?_)
    | split
    | dsimp only
    | (dsimp +zetaDelta only; split)

theorem State.canStore_kept {o : State} {s : State} {n : Nat} {c : Nat} {j : Nat} {w0 : Nat} {fdf : Bool} {brs : Bool} {esi : Bool} {dlc : Nat} {bytes : List Byte} {ago : Nat} (h : Kept o s) : Kept o (State.canStore s n c j w0 fdf brs esi dlc bytes ago) := by
  unfold State.canStore
  repeat' first
    | with_reducible assumption
    | with_reducible refine State.canEnqueue_kept ?_
    | with_reducible refine State.canDeliver_kept ?_
    | with_reducible refine State.putLevel_kept ?_
    | with_reducible refine State.putTime_kept ?_
    | with_reducible refine State.putData_kept ?_
    | with_reducible refine State.inc_kept ?_
    | with_reducible refine State.put_kept ?_
    | (extract_lets +onlyGivenNames s; refine kept_have (o := o) (x := s) ?_ (fun h => ?_); (on_goal 1 => unfold s; clear s); (on_goal 2 => try clear_value s))
    | (extract_lets +onlyGivenNames x; first | (have _p : PldSt := x; clear _p; unfold x) | skip)
    | with_reducible refine kept_ite (fun _ => ?_) (fun _ => ?_)
    | split
    | dsimp only
    | (dsimp +zetaDelta only; split)

theorem execCanFrameReceive_kept {o : State} {n : Fin 6} {c : Fin 8} {ident : Word} {fdf : Bool} {brs : Bool} {esi : Bool} {dlc : Fin 16} {bytes : List Byte} {ago : Nat} {s : State} (h : Kept o s) : Keeps o (execCanFrameReceive n c ident fdf brs esi dlc bytes ago s) := by
  unfold execCanFrameReceive
  repeat' first
    | with_reducible assumption
    | with_reducible exact rfl
    | with_reducible refine State.canStore_kept ?_
    | with_reducible refine State.inc_kept ?_
    | with_reducible refine State.recAfterFrame_kept ?_
    | with_reducible refine keeps_next ?_
    | (extract_lets +onlyGivenNames s; refine kept_have (o := o) (x := s) ?_ (fun h => ?_); (on_goal 1 => unfold s; clear s); (on_goal 2 => try clear_value s))
    | (extract_lets +onlyGivenNames x; first | (have _p : PldSt := x; clear _p; unfold x) | skip)
    | simp only [↓kept_mk_iff]
    | with_reducible refine kept_ite (fun _ => ?_) (fun _ => ?_)
    | split
    | dsimp only
    | (dsimp +zetaDelta only; split)

theorem execCanLoanHoldExpiry_kept {o : State} {n : Fin 6} {c : Fin 8} {s : State} (h : Kept o s) : Keeps o (execCanLoanHoldExpiry n c s) := by
  unfold execCanLoanHoldExpiry
  repeat' first
    | with_reducible assumption
    | with_reducible refine State.canCloseLoan_kept ?_
    | with_reducible refine State.canDeliver_kept ?_
    | with_reducible refine keeps_next ?_
    | with_reducible refine kept_ite (fun _ => ?_) (fun _ => ?_)
    | split
    | dsimp only
    | (dsimp +zetaDelta only; split)

theorem execCanRxError_kept {o : State} {n : Fin 6} {c : Fin 8} {lec : Fin 7} {dTec : Fin 9} {dRec : Fin 9} {s : State} (h : Kept o s) : Keeps o (execCanRxError n c lec dTec dRec s) := by
  unfold execCanRxError
  repeat' first
    | with_reducible assumption
    | with_reducible exact rfl
    | with_reducible refine State.noteError_kept ?_
    | with_reducible refine State.setErrors_kept ?_
    | with_reducible refine State.inc_kept ?_
    | with_reducible refine State.put_kept ?_
    | with_reducible refine State.setCan_kept ?_
    | with_reducible refine keeps_next ?_
    | (extract_lets +onlyGivenNames s; refine kept_have (o := o) (x := s) ?_ (fun h => ?_); (on_goal 1 => unfold s; clear s); (on_goal 2 => try clear_value s))
    | (extract_lets +onlyGivenNames x; first | (have _p : PldSt := x; clear _p; unfold x) | skip)
    | simp only [↓kept_mk_iff]
    | with_reducible refine kept_ite (fun _ => ?_) (fun _ => ?_)
    | split
    | dsimp only
    | (dsimp +zetaDelta only; split)

theorem State.canFilterEcc_kept {o : State} {s : State} {n : Nat} {c : Nat} (h : Kept o s) : Kept o (State.canFilterEcc s n c) := by
  unfold State.canFilterEcc
  repeat' first
    | with_reducible assumption
    | with_reducible refine State.recordWith_kept ?_
    | with_reducible refine State.canOff_kept ?_
    | dsimp only

theorem State.writeMm_kept {o : State} {s : State} {n : Nat} {c : Nat} {w : Nat} {v : Nat} (h : Kept o s) : Kept o (State.writeMm s n c w v) := by
  unfold State.writeMm
  repeat' first
    | with_reducible assumption
    | with_reducible refine State.put_kept ?_
    | with_reducible refine State.raise_kept ?_
    | (extract_lets +onlyGivenNames s; refine kept_have (o := o) (x := s) ?_ (fun h => ?_); (on_goal 1 => unfold s; clear s); (on_goal 2 => try clear_value s))
    | (extract_lets +onlyGivenNames x; first | (have _p : PldSt := x; clear _p; unfold x) | skip)
    | with_reducible refine kept_ite (fun _ => ?_) (fun _ => ?_)
    | split
    | dsimp only
    | (dsimp +zetaDelta only; split)

end Sys2Proof.Machine
end

