-- ==== Sys2Proof/Laws/KeptDike.lean ====
section
/-! SUPPORT. What the operations of Machine/Dike.lean keep (Laws/Kept.lean). -/

set_option linter.all false

namespace Sys2Proof.Machine

theorem State.setDk_kept {o : State} {s : State} {c : Nat} {x : DikeCh} (h : Kept o s) : Kept o (State.setDk s c x) := by
  unfold State.setDk
  repeat' first
    | with_reducible assumption
    | with_reducible exact rfl
    | (extract_lets +onlyGivenNames s; refine kept_have (o := o) (x := s) ?_ (fun h => ?_); (on_goal 1 => unfold s; clear s); (on_goal 2 => try clear_value s))
    | (extract_lets +onlyGivenNames x; first | (have _p : PldSt := x; clear _p; unfold x) | skip)
    | simp only [↓kept_mk_iff]
    | dsimp only

theorem State.dikeWake_kept {o : State} {s : State} (h : Kept o s) : Kept o (State.dikeWake s) := by
  unfold State.dikeWake
  repeat' first
    | with_reducible assumption
    | with_reducible refine State.wake_kept ?_
    | with_reducible refine kept_ite (fun _ => ?_) (fun _ => ?_)
    | split
    | dsimp only
    | (dsimp +zetaDelta only; split)

theorem State.dikeReject_kept {o : State} {s : State} (h : Kept o s) : Kept o (State.dikeReject s) := by
  unfold State.dikeReject
  repeat' first
    | with_reducible assumption
    | with_reducible refine State.put_kept ?_
    | dsimp only

theorem State.dikeCtrl_kept {o : State} {s : State} {c : Nat} {on : Bool} (h : Kept o s) : Kept o (State.dikeCtrl s c on) := by
  unfold State.dikeCtrl
  repeat' first
    | with_reducible assumption
    | with_reducible exact rfl
    | with_reducible refine State.emit_kept ?_
    | with_reducible refine State.setDk_kept ?_
    | (extract_lets +onlyGivenNames s; refine kept_have (o := o) (x := s) ?_ (fun h => ?_); (on_goal 1 => unfold s; clear s); (on_goal 2 => try clear_value s))
    | (extract_lets +onlyGivenNames x; first | (have _p : PldSt := x; clear _p; unfold x) | skip)
    | simp only [↓kept_mk_iff]
    | with_reducible refine kept_ite (fun _ => ?_) (fun _ => ?_)
    | split
    | dsimp only
    | (dsimp +zetaDelta only; split)

theorem State.dikePgPin_kept {o : State} {s : State} {c : Nat} (h : Kept o s) : Kept o (State.dikePgPin s c) := by
  unfold State.dikePgPin
  repeat' first
    | with_reducible assumption
    | with_reducible refine State.emit_kept ?_
    | with_reducible refine kept_ite (fun _ => ?_) (fun _ => ?_)
    | split
    | dsimp only
    | (dsimp +zetaDelta only; split)

theorem State.dikeShow_kept {o : State} {s : State} {c : Nat} (h : Kept o s) : Kept o (State.dikeShow s c) := by
  unfold State.dikeShow
  repeat' first
    | with_reducible assumption
    | with_reducible refine State.epLinkReturn_kept ?_
    | with_reducible refine State.pendShared_kept ?_
    | with_reducible refine State.epLinkLost_kept ?_
    | with_reducible refine kept_foldl ?_ (fun s x h => ?_)
    | with_reducible refine kept_foldl_fst ?_ (fun p x h => ?_)
    | with_reducible refine kept_ite (fun _ => ?_) (fun _ => ?_)
    | split
    | dsimp only
    | (dsimp +zetaDelta only; split)

theorem State.dikePg_kept {o : State} {s : State} {c : Nat} {pg : Bool} (h : Kept o s) : Kept o (State.dikePg s c pg) := by
  unfold State.dikePg
  repeat' first
    | with_reducible assumption
    | with_reducible exact rfl
    | with_reducible refine State.dikePgPin_kept ?_
    | with_reducible refine State.dikeShow_kept ?_
    | with_reducible refine State.dropBits_kept ?_
    | with_reducible refine State.orBits_kept ?_
    | with_reducible refine State.put_kept ?_
    | (extract_lets +onlyGivenNames s; refine kept_have (o := o) (x := s) ?_ (fun h => ?_); (on_goal 1 => unfold s; clear s); (on_goal 2 => try clear_value s))
    | (extract_lets +onlyGivenNames x; first | (have _p : PldSt := x; clear _p; unfold x) | skip)
    | simp only [↓kept_mk_iff]
    | with_reducible refine kept_ite (fun _ => ?_) (fun _ => ?_)
    | split
    | dsimp only
    | (dsimp +zetaDelta only; split)

theorem State.dikeOff_kept {o : State} {s : State} {c : Nat} {st : Nat} (h : Kept o s) : Kept o (State.dikeOff s c st) := by
  unfold State.dikeOff
  repeat' first
    | with_reducible assumption
    | with_reducible exact rfl
    | with_reducible refine State.put_kept ?_
    | with_reducible refine State.dikeCtrl_kept ?_
    | with_reducible refine State.dikePg_kept ?_
    | (extract_lets +onlyGivenNames s; refine kept_have (o := o) (x := s) ?_ (fun h => ?_); (on_goal 1 => unfold s; clear s); (on_goal 2 => try clear_value s))
    | (extract_lets +onlyGivenNames x; first | (have _p : PldSt := x; clear _p; unfold x) | skip)
    | simp only [↓kept_mk_iff]
    | dsimp only

theorem State.dikeZero_kept {o : State} {s : State} {c : Nat} (h : Kept o s) : Kept o (State.dikeZero s c) := by
  unfold State.dikeZero
  repeat' first
    | with_reducible assumption
    | with_reducible exact rfl
    | with_reducible refine State.setDk_kept ?_
    | (extract_lets +onlyGivenNames s; refine kept_have (o := o) (x := s) ?_ (fun h => ?_); (on_goal 1 => unfold s; clear s); (on_goal 2 => try clear_value s))
    | (extract_lets +onlyGivenNames x; first | (have _p : PldSt := x; clear _p; unfold x) | skip)
    | simp only [↓kept_mk_iff]
    | dsimp only

theorem State.dikeAttempt_kept {o : State} {s : State} {c : Nat} (h : Kept o s) : Kept o (State.dikeAttempt s c) := by
  unfold State.dikeAttempt
  repeat' first
    | with_reducible assumption
    | with_reducible exact rfl
    | with_reducible refine State.setDk_kept ?_
    | with_reducible refine State.dikeCtrl_kept ?_
    | with_reducible refine State.dikeOff_kept ?_
    | with_reducible refine State.dikeZero_kept ?_
    | (extract_lets +onlyGivenNames s; refine kept_have (o := o) (x := s) ?_ (fun h => ?_); (on_goal 1 => unfold s; clear s); (on_goal 2 => try clear_value s))
    | (extract_lets +onlyGivenNames x; first | (have _p : PldSt := x; clear _p; unfold x) | skip)
    | simp only [↓kept_mk_iff]
    | dsimp only

theorem State.dikeEmpty_kept {o : State} {s : State} {c : Nat} (h : Kept o s) : Kept o (State.dikeEmpty s c) := by
  unfold State.dikeEmpty
  repeat' first
    | with_reducible assumption
    | with_reducible refine State.put_kept ?_
    | with_reducible refine State.dikeOff_kept ?_
    | (extract_lets +onlyGivenNames s; refine kept_have (o := o) (x := s) ?_ (fun h => ?_); (on_goal 1 => unfold s; clear s); (on_goal 2 => try clear_value s))
    | (extract_lets +onlyGivenNames x; first | (have _p : PldSt := x; clear _p; unfold x) | skip)
    | with_reducible refine kept_ite (fun _ => ?_) (fun _ => ?_)
    | split
    | dsimp only
    | (dsimp +zetaDelta only; split)

theorem State.dikeTrip_kept {o : State} {s : State} {c : Nat} {cause : Nat} {point : Nat} (h : Kept o s) : Kept o (State.dikeTrip s c cause point) := by
  unfold State.dikeTrip
  repeat' first
    | with_reducible assumption
    | with_reducible refine State.record_kept ?_
    | with_reducible refine State.dikeWake_kept ?_
    | with_reducible refine State.recordWith_kept ?_
    | with_reducible refine State.dikeZero_kept ?_
    | with_reducible refine State.inc_kept ?_
    | with_reducible refine State.put_kept ?_
    | with_reducible refine State.dikeOff_kept ?_
    | (extract_lets +onlyGivenNames s; refine kept_have (o := o) (x := s) ?_ (fun h => ?_); (on_goal 1 => unfold s; clear s); (on_goal 2 => try clear_value s))
    | (extract_lets +onlyGivenNames x; first | (have _p : PldSt := x; clear _p; unfold x) | skip)
    | with_reducible refine kept_ite (fun _ => ?_) (fun _ => ?_)
    | split
    | dsimp only
    | (dsimp +zetaDelta only; split)

theorem State.dikeTimeTrip_kept {o : State} {s : State} {c : Nat} (h : Kept o s) : Kept o (State.dikeTimeTrip s c) := by
  unfold State.dikeTimeTrip
  repeat' first
    | with_reducible assumption
    | with_reducible exact rfl
    | with_reducible refine State.dikeTrip_kept ?_
    | (extract_lets +onlyGivenNames s; refine kept_have (o := o) (x := s) ?_ (fun h => ?_); (on_goal 1 => unfold s; clear s); (on_goal 2 => try clear_value s))
    | (extract_lets +onlyGivenNames x; first | (have _p : PldSt := x; clear _p; unfold x) | skip)
    | simp only [↓kept_mk_iff]
    | with_reducible refine kept_ite (fun _ => ?_) (fun _ => ?_)
    | split
    | dsimp only
    | (dsimp +zetaDelta only; split)

theorem State.dikeSample_kept {o : State} {s : State} {c : Nat} {raw : Nat} {late : Bool} (h : Kept o s) : Kept o (State.dikeSample s c raw late) := by
  unfold State.dikeSample
  repeat' first
    | with_reducible assumption
    | with_reducible exact rfl
    | with_reducible refine State.dikeZero_kept ?_
    | with_reducible refine State.dikeTimeTrip_kept ?_
    | with_reducible refine State.dikeTrip_kept ?_
    | with_reducible refine State.setDk_kept ?_
    | with_reducible refine State.put_kept ?_
    | (extract_lets +onlyGivenNames s; refine kept_have (o := o) (x := s) ?_ (fun h => ?_); (on_goal 1 => unfold s; clear s); (on_goal 2 => try clear_value s))
    | (extract_lets +onlyGivenNames x; first | (have _p : PldSt := x; clear _p; unfold x) | skip)
    | simp only [↓kept_mk_iff]
    | with_reducible refine kept_ite (fun _ => ?_) (fun _ => ?_)
    | split
    | dsimp only
    | (dsimp +zetaDelta only; split)

theorem State.dikeSamples_kept {o : State} {s : State} {c : Nat} {raws : List (BitVec 12)} (h : Kept o s) : Kept o (State.dikeSamples s c raws) := by
  unfold State.dikeSamples
  repeat' first
    | with_reducible assumption
    | with_reducible refine State.dikeSample_kept ?_
    | with_reducible refine kept_foldl ?_ (fun s x h => ?_)
    | with_reducible refine kept_foldl_fst ?_ (fun p x h => ?_)
    | with_reducible refine kept_ite (fun _ => ?_) (fun _ => ?_)
    | split
    | dsimp only
    | (dsimp +zetaDelta only; split)

theorem execDikeLimiterEngage_kept {o : State} {c : Fin 16} {raws : List (BitVec 12)} {s : State} (h : Kept o s) : Keeps o (execDikeLimiterEngage c raws s) := by
  unfold execDikeLimiterEngage
  repeat' first
    | with_reducible assumption
    | with_reducible refine State.dikeSamples_kept ?_
    | with_reducible refine keeps_next ?_
    | dsimp only

theorem execDikeLimiterRelease_kept {o : State} {c : Fin 16} {raws : List (BitVec 12)} {s : State} (h : Kept o s) : Keeps o (execDikeLimiterRelease c raws s) := by
  unfold execDikeLimiterRelease
  repeat' first
    | with_reducible assumption
    | with_reducible exact rfl
    | with_reducible refine State.put_kept ?_
    | with_reducible refine State.dikeSamples_kept ?_
    | with_reducible refine keeps_next ?_
    | (extract_lets +onlyGivenNames s; refine kept_have (o := o) (x := s) ?_ (fun h => ?_); (on_goal 1 => unfold s; clear s); (on_goal 2 => try clear_value s))
    | (extract_lets +onlyGivenNames x; first | (have _p : PldSt := x; clear _p; unfold x) | skip)
    | simp only [↓kept_mk_iff]
    | with_reducible refine kept_ite (fun _ => ?_) (fun _ => ?_)
    | split
    | dsimp only
    | (dsimp +zetaDelta only; split)

theorem execDikeTrip_kept {o : State} {c : Fin 16} {raws : List (BitVec 12)} {timeout : Bool} {s : State} (h : Kept o s) : Keeps o (execDikeTrip c raws timeout s) := by
  unfold execDikeTrip
  repeat' first
    | with_reducible assumption
    | with_reducible exact rfl
    | with_reducible refine State.dikeTimeTrip_kept ?_
    | with_reducible refine State.dikeSample_kept ?_
    | with_reducible refine State.dikeSamples_kept ?_
    | with_reducible refine keeps_next ?_
    | (extract_lets +onlyGivenNames s; refine kept_have (o := o) (x := s) ?_ (fun h => ?_); (on_goal 1 => unfold s; clear s); (on_goal 2 => try clear_value s))
    | (extract_lets +onlyGivenNames x; first | (have _p : PldSt := x; clear _p; unfold x) | skip)
    | simp only [↓kept_mk_iff]
    | with_reducible refine kept_ite (fun _ => ?_) (fun _ => ?_)
    | split
    | dsimp only
    | (dsimp +zetaDelta only; split)

theorem execDikePgSettleExpiry_kept {o : State} {c : Fin 16} {s : State} (h : Kept o s) : Keeps o (execDikePgSettleExpiry c s) := by
  unfold execDikePgSettleExpiry
  repeat' first
    | with_reducible assumption
    | with_reducible exact rfl
    | with_reducible refine State.put_kept ?_
    | with_reducible refine State.dikePg_kept ?_
    | with_reducible refine keeps_next ?_
    | (extract_lets +onlyGivenNames s; refine kept_have (o := o) (x := s) ?_ (fun h => ?_); (on_goal 1 => unfold s; clear s); (on_goal 2 => try clear_value s))
    | (extract_lets +onlyGivenNames x; first | (have _p : PldSt := x; clear _p; unfold x) | skip)
    | simp only [↓kept_mk_iff]
    | with_reducible refine kept_ite (fun _ => ?_) (fun _ => ?_)
    | split
    | dsimp only
    | (dsimp +zetaDelta only; split)

theorem execDikeDebounceDone_kept {o : State} {c : Fin 16} {s : State} (h : Kept o s) : Keeps o (execDikeDebounceDone c s) := by
  unfold execDikeDebounceDone
  repeat' first
    | with_reducible assumption
    | with_reducible refine State.inc_kept ?_
    | with_reducible refine State.dikeAttempt_kept ?_
    | with_reducible refine State.dikeWake_kept ?_
    | with_reducible refine keeps_next ?_
    | with_reducible refine kept_ite (fun _ => ?_) (fun _ => ?_)
    | split
    | dsimp only
    | (dsimp +zetaDelta only; split)

theorem execDikeBackoffEnd_kept {o : State} {c : Fin 16} {s : State} (h : Kept o s) : Keeps o (execDikeBackoffEnd c s) := by
  unfold execDikeBackoffEnd
  repeat' first
    | with_reducible assumption
    | with_reducible refine State.dikeAttempt_kept ?_
    | with_reducible refine keeps_next ?_
    | with_reducible refine kept_ite (fun _ => ?_) (fun _ => ?_)
    | split
    | dsimp only
    | (dsimp +zetaDelta only; split)

theorem execDikeRetryResetTimer_kept {o : State} {c : Fin 16} {s : State} (h : Kept o s) : Keeps o (execDikeRetryResetTimer c s) := by
  unfold execDikeRetryResetTimer
  repeat' first
    | with_reducible assumption
    | with_reducible exact rfl
    | with_reducible refine State.put_kept ?_
    | with_reducible refine keeps_next ?_
    | (extract_lets +onlyGivenNames s; refine kept_have (o := o) (x := s) ?_ (fun h => ?_); (on_goal 1 => unfold s; clear s); (on_goal 2 => try clear_value s))
    | (extract_lets +onlyGivenNames x; first | (have _p : PldSt := x; clear _p; unfold x) | skip)
    | simp only [↓kept_mk_iff]
    | with_reducible refine kept_ite (fun _ => ?_) (fun _ => ?_)
    | split
    | dsimp only
    | (dsimp +zetaDelta only; split)

theorem State.dikePres_kept {o : State} {s : State} {c : Nat} (h : Kept o s) : Kept o (State.dikePres s c) := by
  unfold State.dikePres
  repeat' first
    | with_reducible assumption
    | with_reducible refine State.dikeOff_kept ?_
    | with_reducible refine State.dikeWake_kept ?_
    | with_reducible refine State.record_kept ?_
    | with_reducible refine State.put_kept ?_
    | (extract_lets +onlyGivenNames s; refine kept_have (o := o) (x := s) ?_ (fun h => ?_); (on_goal 1 => unfold s; clear s); (on_goal 2 => try clear_value s))
    | (extract_lets +onlyGivenNames x; first | (have _p : PldSt := x; clear _p; unfold x) | skip)
    | with_reducible refine kept_ite (fun _ => ?_) (fun _ => ?_)
    | split
    | dsimp only
    | (dsimp +zetaDelta only; split)

theorem execDikePresChange_kept {o : State} {c : Fin 16} {level : Bool} {s : State} (h : Kept o s) : Keeps o (execDikePresChange c level s) := by
  unfold execDikePresChange
  repeat' first
    | with_reducible assumption
    | with_reducible exact rfl
    | with_reducible refine State.setDk_kept ?_
    | with_reducible refine State.dikePres_kept ?_
    | with_reducible refine keeps_next ?_
    | (extract_lets +onlyGivenNames s; refine kept_have (o := o) (x := s) ?_ (fun h => ?_); (on_goal 1 => unfold s; clear s); (on_goal 2 => try clear_value s))
    | (extract_lets +onlyGivenNames x; first | (have _p : PldSt := x; clear _p; unfold x) | skip)
    | simp only [↓kept_mk_iff]
    | dsimp only

theorem State.dikeRestart_kept {o : State} {s : State} {c : Nat} (h : Kept o s) : Kept o (State.dikeRestart s c) := by
  unfold State.dikeRestart
  repeat' first
    | with_reducible assumption
    | with_reducible refine State.dikeReject_kept ?_
    | with_reducible refine State.put_kept ?_
    | with_reducible refine State.dikeAttempt_kept ?_
    | with_reducible refine kept_ite (fun _ => ?_) (fun _ => ?_)
    | split
    | dsimp only
    | (dsimp +zetaDelta only; split)

theorem execDikeRestart_kept {o : State} {c : Fin 16} {val : Word} {s : State} (h : Kept o s) : Keeps o (execDikeRestart c val s) := by
  unfold execDikeRestart
  repeat' first
    | with_reducible assumption
    | with_reducible refine State.dikeRestart_kept ?_
    | with_reducible refine keeps_next ?_
    | with_reducible refine kept_ite (fun _ => ?_) (fun _ => ?_)
    | split
    | dsimp only
    | (dsimp +zetaDelta only; split)

theorem State.dikeCfgFields_kept {o : State} {s : State} {c : Nat} {v : Nat} (h : Kept o s) : Kept o (State.dikeCfgFields s c v) := by
  unfold State.dikeCfgFields
  repeat' first
    | with_reducible assumption
    | with_reducible refine State.put_kept ?_
    | (extract_lets +onlyGivenNames s; refine kept_have (o := o) (x := s) ?_ (fun h => ?_); (on_goal 1 => unfold s; clear s); (on_goal 2 => try clear_value s))
    | (extract_lets +onlyGivenNames x; first | (have _p : PldSt := x; clear _p; unfold x) | skip)
    | dsimp only

theorem State.dikeStart_kept {o : State} {s : State} {c : Nat} (h : Kept o s) : Kept o (State.dikeStart s c) := by
  unfold State.dikeStart
  repeat' first
    | with_reducible assumption
    | with_reducible exact rfl
    | with_reducible refine State.dikeAttempt_kept ?_
    | with_reducible refine State.dikeEmpty_kept ?_
    | with_reducible refine State.put_kept ?_
    | with_reducible refine State.dikeShow_kept ?_
    | (extract_lets +onlyGivenNames s; refine kept_have (o := o) (x := s) ?_ (fun h => ?_); (on_goal 1 => unfold s; clear s); (on_goal 2 => try clear_value s))
    | (extract_lets +onlyGivenNames x; first | (have _p : PldSt := x; clear _p; unfold x) | skip)
    | simp only [↓kept_mk_iff]
    | with_reducible refine kept_ite (fun _ => ?_) (fun _ => ?_)
    | split
    | dsimp only
    | (dsimp +zetaDelta only; split)

theorem State.dikeStop_kept {o : State} {s : State} {c : Nat} (h : Kept o s) : Kept o (State.dikeStop s c) := by
  unfold State.dikeStop
  repeat' first
    | with_reducible assumption
    | with_reducible refine State.dikeShow_kept ?_
    | with_reducible refine State.dikeOff_kept ?_
    | with_reducible refine State.put_kept ?_
    | (extract_lets +onlyGivenNames s; refine kept_have (o := o) (x := s) ?_ (fun h => ?_); (on_goal 1 => unfold s; clear s); (on_goal 2 => try clear_value s))
    | (extract_lets +onlyGivenNames x; first | (have _p : PldSt := x; clear _p; unfold x) | skip)
    | dsimp only

theorem State.writeDikeCfg_kept {o : State} {s : State} {c : Nat} {v : Nat} (h : Kept o s) : Kept o (State.writeDikeCfg s c v) := by
  unfold State.writeDikeCfg
  repeat' first
    | with_reducible assumption
    | with_reducible refine State.dikeStart_kept ?_
    | with_reducible refine State.dikePres_kept ?_
    | with_reducible refine State.dikePgPin_kept ?_
    | with_reducible refine State.dikeCfgFields_kept ?_
    | with_reducible refine State.dikeStop_kept ?_
    | with_reducible refine State.dikeReject_kept ?_
    | (extract_lets +onlyGivenNames s; refine kept_have (o := o) (x := s) ?_ (fun h => ?_); (on_goal 1 => unfold s; clear s); (on_goal 2 => try clear_value s))
    | (extract_lets +onlyGivenNames x; first | (have _p : PldSt := x; clear _p; unfold x) | skip)
    | with_reducible refine kept_ite (fun _ => ?_) (fun _ => ?_)
    | split
    | dsimp only
    | (dsimp +zetaDelta only; split)

theorem execDikeEnable_kept {o : State} {c : Fin 16} {val : Word} {s : State} (h : Kept o s) : Keeps o (execDikeEnable c val s) := by
  unfold execDikeEnable
  repeat' first
    | with_reducible assumption
    | with_reducible exact rfl
    | with_reducible refine State.writeDikeCfg_kept ?_
    | with_reducible refine keeps_next ?_
    | (extract_lets +onlyGivenNames s; refine kept_have (o := o) (x := s) ?_ (fun h => ?_); (on_goal 1 => unfold s; clear s); (on_goal 2 => try clear_value s))
    | (extract_lets +onlyGivenNames x; first | (have _p : PldSt := x; clear _p; unfold x) | skip)
    | simp only [↓kept_mk_iff]
    | with_reducible refine kept_ite (fun _ => ?_) (fun _ => ?_)
    | split
    | dsimp only
    | (dsimp +zetaDelta only; split)

theorem execDikeDisable_kept {o : State} {c : Fin 16} {val : Word} {s : State} (h : Kept o s) : Keeps o (execDikeDisable c val s) := by
  unfold execDikeDisable
  repeat' first
    | with_reducible assumption
    | with_reducible exact rfl
    | with_reducible refine State.writeDikeCfg_kept ?_
    | with_reducible refine keeps_next ?_
    | (extract_lets +onlyGivenNames s; refine kept_have (o := o) (x := s) ?_ (fun h => ?_); (on_goal 1 => unfold s; clear s); (on_goal 2 => try clear_value s))
    | (extract_lets +onlyGivenNames x; first | (have _p : PldSt := x; clear _p; unfold x) | skip)
    | simp only [↓kept_mk_iff]
    | with_reducible refine kept_ite (fun _ => ?_) (fun _ => ?_)
    | split
    | dsimp only
    | (dsimp +zetaDelta only; split)

theorem State.dikeResume_kept {o : State} {s : State} {c : Nat} {st : Nat} {retries : Nat} (h : Kept o s) : Kept o (State.dikeResume s c st retries) := by
  unfold State.dikeResume
  repeat' first
    | with_reducible assumption
    | with_reducible refine State.dikeOff_kept ?_
    | with_reducible refine State.dikeAttempt_kept ?_
    | with_reducible refine State.dikeShow_kept ?_
    | with_reducible refine State.dikeZero_kept ?_
    | with_reducible refine State.dikeCtrl_kept ?_
    | with_reducible refine State.dikePg_kept ?_
    | with_reducible refine State.put_kept ?_
    | (extract_lets +onlyGivenNames s; refine kept_have (o := o) (x := s) ?_ (fun h => ?_); (on_goal 1 => unfold s; clear s); (on_goal 2 => try clear_value s))
    | (extract_lets +onlyGivenNames x; first | (have _p : PldSt := x; clear _p; unfold x) | skip)
    | with_reducible refine kept_ite (fun _ => ?_) (fun _ => ?_)
    | split
    | dsimp only
    | (dsimp +zetaDelta only; split)

end Sys2Proof.Machine
end

