-- ==== Sys2Proof/Laws/KeptDio.lean ====
section
/-! SUPPORT. What the operations of Machine/Dio.lean keep (Laws/Kept.lean). -/

set_option linter.all false

namespace Sys2Proof.Machine

theorem State.driveLine_kept {o : State} {s : State} {n : Nat} {p : Nat} (h : Kept o s) : Kept o (State.driveLine s n p) := by
  unfold State.driveLine
  repeat' first
    | with_reducible assumption
    | with_reducible exact rfl
    | with_reducible refine State.drivePin_kept ?_
    | (extract_lets +onlyGivenNames s; refine kept_have (o := o) (x := s) ?_ (fun h => ?_); (on_goal 1 => unfold s; clear s); (on_goal 2 => try clear_value s))
    | (extract_lets +onlyGivenNames x; first | (have _p : PldSt := x; clear _p; unfold x) | skip)
    | simp only [↓kept_mk_iff]
    | with_reducible refine kept_ite (fun _ => ?_) (fun _ => ?_)
    | split
    | dsimp only
    | (dsimp +zetaDelta only; split)

theorem State.setLevel_kept {o : State} {s : State} {n : Nat} {p : Nat} {level : Bool} (h : Kept o s) : Kept o (State.setLevel s n p level) := by
  unfold State.setLevel
  repeat' first
    | with_reducible assumption
    | with_reducible refine State.dropBits_kept ?_
    | with_reducible refine State.orBits_kept ?_
    | with_reducible refine State.driveLine_kept ?_
    | (extract_lets +onlyGivenNames s; refine kept_have (o := o) (x := s) ?_ (fun h => ?_); (on_goal 1 => unfold s; clear s); (on_goal 2 => try clear_value s))
    | (extract_lets +onlyGivenNames x; first | (have _p : PldSt := x; clear _p; unfold x) | skip)
    | with_reducible refine kept_ite (fun _ => ?_) (fun _ => ?_)
    | split
    | dsimp only
    | (dsimp +zetaDelta only; split)

theorem State.lineEntry_kept {o : State} {s : State} {n : Nat} {p : Nat} (h : Kept o s) : Kept o (State.lineEntry s n p) := by
  unfold State.lineEntry
  repeat' first
    | with_reducible assumption
    | with_reducible exact rfl
    | with_reducible refine State.takeWork_kept ?_
    | with_reducible refine State.setLine_kept ?_
    | (extract_lets +onlyGivenNames s; refine kept_have (o := o) (x := s) ?_ (fun h => ?_); (on_goal 1 => unfold s; clear s); (on_goal 2 => try clear_value s))
    | (extract_lets +onlyGivenNames x; first | (have _p : PldSt := x; clear _p; unfold x) | skip)
    | simp only [↓kept_mk_iff]
    | with_reducible refine kept_ite (fun _ => ?_) (fun _ => ?_)
    | split
    | dsimp only
    | (dsimp +zetaDelta only; split)

theorem execDioTimedEntry_kept {o : State} {n : Fin 6} {p : Fin 64} {s : State} (h : Kept o s) : Keeps o (execDioTimedEntry n p s) := by
  unfold execDioTimedEntry
  repeat' first
    | with_reducible assumption
    | with_reducible refine State.lineEntry_kept ?_
    | with_reducible refine keeps_next ?_
    | dsimp only

theorem execDioEntryApply_kept {o : State} {n : Fin 6} {p : Fin 64} {s : State} (h : Kept o s) : Keeps o (execDioEntryApply n p s) := by
  unfold execDioEntryApply
  repeat' first
    | with_reducible assumption
    | with_reducible exact rfl
    | with_reducible refine State.commit_kept ?_
    | with_reducible refine State.startEmission_kept ?_
    | with_reducible refine State.setLevel_kept ?_
    | with_reducible refine State.setLine_kept ?_
    | with_reducible refine keeps_next ?_
    | (extract_lets +onlyGivenNames s; refine kept_have (o := o) (x := s) ?_ (fun h => ?_); (on_goal 1 => unfold s; clear s); (on_goal 2 => try clear_value s))
    | (extract_lets +onlyGivenNames x; first | (have _p : PldSt := x; clear _p; unfold x) | skip)
    | simp only [↓kept_mk_iff]
    | with_reducible refine kept_ite (fun _ => ?_) (fun _ => ?_)
    | split
    | dsimp only
    | (dsimp +zetaDelta only; split)

theorem execDioOutSet_kept {o : State} {n : Fin 6} {m : Fin 2} {val : Word} {s : State} (h : Kept o s) : Keeps o (execDioOutSet n m val s) := by
  unfold execDioOutSet
  repeat' first
    | with_reducible assumption
    | with_reducible refine State.setLevel_kept ?_
    | with_reducible refine State.each_kept ?_ (fun s x h => ?_)
    | with_reducible refine keeps_next ?_
    | with_reducible refine kept_ite (fun _ => ?_) (fun _ => ?_)
    | split
    | dsimp only
    | (dsimp +zetaDelta only; split)

theorem execDioOutClr_kept {o : State} {n : Fin 6} {m : Fin 2} {val : Word} {s : State} (h : Kept o s) : Keeps o (execDioOutClr n m val s) := by
  unfold execDioOutClr
  repeat' first
    | with_reducible assumption
    | with_reducible refine State.setLevel_kept ?_
    | with_reducible refine State.each_kept ?_ (fun s x h => ?_)
    | with_reducible refine keeps_next ?_
    | with_reducible refine kept_ite (fun _ => ?_) (fun _ => ?_)
    | split
    | dsimp only
    | (dsimp +zetaDelta only; split)

theorem State.closeLoan_kept {o : State} {s : State} {n : Nat} {p : Nat} (h : Kept o s) : Kept o (State.closeLoan s n p) := by
  unfold State.closeLoan
  repeat' first
    | with_reducible assumption
    | with_reducible exact rfl
    | with_reducible refine State.setLine_kept ?_
    | with_reducible refine State.returnData_kept ?_
    | (extract_lets +onlyGivenNames s; refine kept_have (o := o) (x := s) ?_ (fun h => ?_); (on_goal 1 => unfold s; clear s); (on_goal 2 => try clear_value s))
    | (extract_lets +onlyGivenNames x; first | (have _p : PldSt := x; clear _p; unfold x) | skip)
    | simp only [↓kept_mk_iff]
    | split
    | dsimp only
    | (dsimp +zetaDelta only; split)

theorem State.fillLoan_kept {o : State} {s : State} {n : Nat} {p : Nat} {r : List Byte} (h : Kept o s) : Kept o (State.fillLoan s n p r) := by
  unfold State.fillLoan
  repeat' first
    | with_reducible assumption
    | with_reducible exact rfl
    | with_reducible refine State.closeLoan_kept ?_
    | with_reducible refine State.setLine_kept ?_
    | (extract_lets +onlyGivenNames s; refine kept_have (o := o) (x := s) ?_ (fun h => ?_); (on_goal 1 => unfold s; clear s); (on_goal 2 => try clear_value s))
    | (extract_lets +onlyGivenNames x; first | (have _p : PldSt := x; clear _p; unfold x) | skip)
    | simp only [↓kept_mk_iff]
    | with_reducible refine kept_ite (fun _ => ?_) (fun _ => ?_)
    | split
    | dsimp only
    | (dsimp +zetaDelta only; split)

theorem State.putEvent_kept {o : State} {s : State} {n : Nat} {p : Nat} {time : Nat} {level : Bool} (h : Kept o s) : Kept o (State.putEvent s n p time level) := by
  unfold State.putEvent
  repeat' first
    | with_reducible assumption
    | with_reducible exact rfl
    | with_reducible refine State.raise_kept ?_
    | with_reducible refine State.setCl_kept ?_
    | with_reducible refine State.fillLoan_kept ?_
    | with_reducible refine State.setLine_kept ?_
    | (extract_lets +onlyGivenNames s; refine kept_have (o := o) (x := s) ?_ (fun h => ?_); (on_goal 1 => unfold s; clear s); (on_goal 2 => try clear_value s))
    | (extract_lets +onlyGivenNames x; first | (have _p : PldSt := x; clear _p; unfold x) | skip)
    | simp only [↓kept_mk_iff]
    | with_reducible refine kept_ite (fun _ => ?_) (fun _ => ?_)
    | split
    | dsimp only
    | (dsimp +zetaDelta only; split)

theorem State.lineDrain_kept {o : State} {a0 : Nat} {a1 : State} {a2 : Nat} {a3 : Nat} (h : Kept o a1) : Kept o (State.lineDrain a0 a1 a2 a3) := by
  induction a0 generalizing a1 a2 a3 with
  | zero =>
    unfold State.lineDrain
    repeat' first
      | with_reducible assumption
      | with_reducible exact rfl
      | with_reducible refine State.setCl_kept ?_
      | with_reducible refine State.fillLoan_kept ?_
      | (extract_lets +onlyGivenNames s; refine kept_have (o := o) (x := s) ?_ (fun h => ?_); (on_goal 1 => unfold s; clear s); (on_goal 2 => try clear_value s))
      | (extract_lets +onlyGivenNames x; first | (have _p : PldSt := x; clear _p; unfold x) | skip)
      | simp only [↓kept_mk_iff]
      | split
      | dsimp only
      | (dsimp +zetaDelta only; split)
  | succ k ih =>
    unfold State.lineDrain
    repeat' first
      | with_reducible apply ih
      | with_reducible assumption
      | with_reducible exact rfl
      | with_reducible refine State.setCl_kept ?_
      | with_reducible refine State.fillLoan_kept ?_
      | (extract_lets +onlyGivenNames s; refine kept_have (o := o) (x := s) ?_ (fun h => ?_); (on_goal 1 => unfold s; clear s); (on_goal 2 => try clear_value s))
      | (extract_lets +onlyGivenNames x; first | (have _p : PldSt := x; clear _p; unfold x) | skip)
      | simp only [↓kept_mk_iff]
      | split
      | dsimp only
      | (dsimp +zetaDelta only; split)

theorem State.lineDeliver_kept {o : State} {s : State} {n : Nat} {p : Nat} (h : Kept o s) : Kept o (State.lineDeliver s n p) := by
  unfold State.lineDeliver
  repeat' first
    | with_reducible assumption
    | with_reducible refine State.lineDrain_kept ?_
    | dsimp only

theorem execEvtLoanHoldExpiry_kept {o : State} {n : Fin 6} {p : Fin 64} {s : State} (h : Kept o s) : Keeps o (execEvtLoanHoldExpiry n p s) := by
  unfold execEvtLoanHoldExpiry
  repeat' first
    | with_reducible assumption
    | with_reducible refine State.closeLoan_kept ?_
    | with_reducible refine State.lineDeliver_kept ?_
    | with_reducible refine keeps_next ?_
    | with_reducible refine kept_ite (fun _ => ?_) (fun _ => ?_)
    | split
    | dsimp only
    | (dsimp +zetaDelta only; split)

theorem State.acceptLevel_kept {o : State} {s : State} {n : Nat} {p : Nat} {level : Bool} {time : Nat} (h : Kept o s) : Kept o (State.acceptLevel s n p level time) := by
  unfold State.acceptLevel
  repeat' first
    | with_reducible assumption
    | with_reducible exact rfl
    | with_reducible refine State.putEvent_kept ?_
    | with_reducible refine State.inc_kept ?_
    | with_reducible refine State.riseBit_kept ?_
    | with_reducible refine State.dropBits_kept ?_
    | with_reducible refine State.orBits_kept ?_
    | with_reducible refine State.setLine_kept ?_
    | (extract_lets +onlyGivenNames s; refine kept_have (o := o) (x := s) ?_ (fun h => ?_); (on_goal 1 => unfold s; clear s); (on_goal 2 => try clear_value s))
    | (extract_lets +onlyGivenNames x; first | (have _p : PldSt := x; clear _p; unfold x) | skip)
    | simp only [↓kept_mk_iff]
    | with_reducible refine kept_ite (fun _ => ?_) (fun _ => ?_)
    | split
    | dsimp only
    | (dsimp +zetaDelta only; split)

theorem State.latchEdge_kept {o : State} {s : State} {n : Nat} {g : Nat} {e : Nat} {rise : Bool} (h : Kept o s) : Kept o (State.latchEdge s n g e rise) := by
  unfold State.latchEdge
  repeat' first
    | with_reducible assumption
    | with_reducible exact rfl
    | with_reducible refine State.setEng_kept ?_
    | (extract_lets +onlyGivenNames s; refine kept_have (o := o) (x := s) ?_ (fun h => ?_); (on_goal 1 => unfold s; clear s); (on_goal 2 => try clear_value s))
    | (extract_lets +onlyGivenNames x; first | (have _p : PldSt := x; clear _p; unfold x) | skip)
    | simp only [↓kept_mk_iff]
    | dsimp only

theorem State.setRaw_kept {o : State} {s : State} {n : Nat} {p : Nat} {level : Bool} (h : Kept o s) : Kept o (State.setRaw s n p level) := by
  unfold State.setRaw
  repeat' first
    | with_reducible assumption
    | with_reducible exact rfl
    | with_reducible refine State.latchEdge_kept ?_
    | with_reducible refine State.each_kept ?_ (fun s x h => ?_)
    | with_reducible refine State.setCl_kept ?_
    | (extract_lets +onlyGivenNames s; refine kept_have (o := o) (x := s) ?_ (fun h => ?_); (on_goal 1 => unfold s; clear s); (on_goal 2 => try clear_value s))
    | (extract_lets +onlyGivenNames x; first | (have _p : PldSt := x; clear _p; unfold x) | skip)
    | simp only [↓kept_mk_iff]
    | with_reducible refine kept_ite (fun _ => ?_) (fun _ => ?_)
    | split
    | dsimp only
    | (dsimp +zetaDelta only; split)

theorem State.rawChange_kept {o : State} {s : State} {n : Nat} {p : Nat} {level : Bool} (h : Kept o s) : Kept o (State.rawChange s n p level) := by
  unfold State.rawChange
  repeat' first
    | with_reducible assumption
    | with_reducible exact rfl
    | with_reducible refine State.acceptLevel_kept ?_
    | with_reducible refine State.setLine_kept ?_
    | with_reducible refine State.setRaw_kept ?_
    | (extract_lets +onlyGivenNames s; refine kept_have (o := o) (x := s) ?_ (fun h => ?_); (on_goal 1 => unfold s; clear s); (on_goal 2 => try clear_value s))
    | (extract_lets +onlyGivenNames x; first | (have _p : PldSt := x; clear _p; unfold x) | skip)
    | simp only [↓kept_mk_iff]
    | with_reducible refine kept_ite (fun _ => ?_) (fun _ => ?_)
    | split
    | dsimp only
    | (dsimp +zetaDelta only; split)

theorem execDioRawChange_kept {o : State} {n : Fin 6} {p : Fin 64} {level : Bool} {s : State} (h : Kept o s) : Keeps o (execDioRawChange n p level s) := by
  unfold execDioRawChange
  repeat' first
    | with_reducible assumption
    | with_reducible refine State.rawChange_kept ?_
    | with_reducible refine keeps_next ?_
    | with_reducible refine kept_ite (fun _ => ?_) (fun _ => ?_)
    | split
    | dsimp only
    | (dsimp +zetaDelta only; split)

theorem execDioDebounceExpiry_kept {o : State} {n : Fin 6} {p : Fin 64} {s : State} (h : Kept o s) : Keeps o (execDioDebounceExpiry n p s) := by
  unfold execDioDebounceExpiry
  repeat' first
    | with_reducible assumption
    | with_reducible exact rfl
    | with_reducible refine State.acceptLevel_kept ?_
    | with_reducible refine keeps_next ?_
    | (extract_lets +onlyGivenNames s; refine kept_have (o := o) (x := s) ?_ (fun h => ?_); (on_goal 1 => unfold s; clear s); (on_goal 2 => try clear_value s))
    | (extract_lets +onlyGivenNames x; first | (have _p : PldSt := x; clear _p; unfold x) | skip)
    | simp only [↓kept_mk_iff]
    | with_reducible refine kept_ite (fun _ => ?_) (fun _ => ?_)
    | split
    | dsimp only
    | (dsimp +zetaDelta only; split)

theorem State.writeLineCfg_kept {o : State} {s : State} {n : Nat} {p : Nat} {v : Nat} (h : Kept o s) : Kept o (State.writeLineCfg s n p v) := by
  unfold State.writeLineCfg
  repeat' first
    | with_reducible assumption
    | with_reducible exact rfl
    | with_reducible refine State.reannounce_kept ?_
    | with_reducible refine State.failWork_kept ?_
    | with_reducible refine State.closeLoan_kept ?_
    | with_reducible refine State.drivePin_kept ?_
    | with_reducible refine State.setLevel_kept ?_
    | with_reducible refine State.put_kept ?_
    | with_reducible refine State.raise_kept ?_
    | (extract_lets +onlyGivenNames s; refine kept_have (o := o) (x := s) ?_ (fun h => ?_); (on_goal 1 => unfold s; clear s); (on_goal 2 => try clear_value s))
    | (extract_lets +onlyGivenNames x; first | (have _p : PldSt := x; clear _p; unfold x) | skip)
    | simp only [↓kept_mk_iff]
    | with_reducible refine kept_foldl ?_ (fun s x h => ?_)
    | with_reducible refine kept_foldl_fst ?_ (fun p x h => ?_)
    | with_reducible refine kept_ite (fun _ => ?_) (fun _ => ?_)
    | split
    | dsimp only
    | (dsimp +zetaDelta only; split)

theorem execDioDirWrite_kept {o : State} {n : Fin 6} {p : Fin 64} {val : Word} {s : State} (h : Kept o s) : Keeps o (execDioDirWrite n p val s) := by
  unfold execDioDirWrite
  repeat' first
    | with_reducible assumption
    | with_reducible refine State.writeLineCfg_kept ?_
    | with_reducible refine keeps_next ?_
    | with_reducible refine kept_ite (fun _ => ?_) (fun _ => ?_)
    | split
    | dsimp only
    | (dsimp +zetaDelta only; split)

end Sys2Proof.Machine
end

