-- ==== Sys2Proof/Laws/KeptFifos.lean ====
section
/-! SUPPORT. What the operations of Machine/Fifos.lean keep (Laws/Kept.lean). -/

set_option linter.all false

namespace Sys2Proof.Machine

theorem State.writePinCfg_kept {o : State} {s : State} {n : Nat} {p : Nat} {v : Nat} (h : Kept o s) : Kept o (State.writePinCfg s n p v) := by
  unfold State.writePinCfg
  repeat' first
    | with_reducible assumption
    | with_reducible exact rfl
    | with_reducible refine State.driveFlowPin_kept ?_
    | with_reducible refine State.reannounce_kept ?_
    | with_reducible refine State.setCl_kept ?_
    | with_reducible refine State.put_kept ?_
    | with_reducible refine State.raise_kept ?_
    | (extract_lets +onlyGivenNames s; refine kept_have (o := o) (x := s) ?_ (fun h => ?_); (on_goal 1 => unfold s; clear s); (on_goal 2 => try clear_value s))
    | (extract_lets +onlyGivenNames x; first | (have _p : PldSt := x; clear _p; unfold x) | skip)
    | simp only [↓kept_mk_iff]
    | with_reducible refine kept_ite (fun _ => ?_) (fun _ => ?_)
    | split
    | dsimp only
    | (dsimp +zetaDelta only; split)

theorem execPinFuncWrite_kept {o : State} {n : Fin 6} {p : Fin 64} {val : Word} {s : State} (h : Kept o s) : Keeps o (execPinFuncWrite n p val s) := by
  unfold execPinFuncWrite
  repeat' first
    | with_reducible assumption
    | with_reducible refine State.writePinCfg_kept ?_
    | with_reducible refine keeps_next ?_
    | with_reducible refine kept_ite (fun _ => ?_) (fun _ => ?_)
    | split
    | dsimp only
    | (dsimp +zetaDelta only; split)

theorem State.undriveFlow_kept {o : State} {s : State} {m : Nat} (h : Kept o s) : Kept o (State.undriveFlow s m) := by
  unfold State.undriveFlow
  repeat' first
    | with_reducible assumption
    | with_reducible exact rfl
    | with_reducible refine State.setCl_kept ?_
    | (extract_lets +onlyGivenNames s; refine kept_have (o := o) (x := s) ?_ (fun h => ?_); (on_goal 1 => unfold s; clear s); (on_goal 2 => try clear_value s))
    | (extract_lets +onlyGivenNames x; first | (have _p : PldSt := x; clear _p; unfold x) | skip)
    | simp only [↓kept_mk_iff]
    | with_reducible refine kept_ite (fun _ => ?_) (fun _ => ?_)
    | split
    | dsimp only
    | (dsimp +zetaDelta only; split)

theorem State.writeFlowCfg_kept {o : State} {s : State} {m : Nat} {v : Nat} (h : Kept o s) : Kept o (State.writeFlowCfg s m v) := by
  unfold State.writeFlowCfg
  repeat' first
    | with_reducible assumption
    | with_reducible refine State.emit_kept ?_
    | with_reducible refine State.undriveFlow_kept ?_
    | with_reducible refine State.setFlow_kept ?_
    | with_reducible refine State.put_kept ?_
    | with_reducible refine State.raise_kept ?_
    | (extract_lets +onlyGivenNames s; refine kept_have (o := o) (x := s) ?_ (fun h => ?_); (on_goal 1 => unfold s; clear s); (on_goal 2 => try clear_value s))
    | (extract_lets +onlyGivenNames x; first | (have _p : PldSt := x; clear _p; unfold x) | skip)
    | with_reducible refine kept_ite (fun _ => ?_) (fun _ => ?_)
    | split
    | dsimp only
    | (dsimp +zetaDelta only; split)

theorem State.writeWatermark_kept {o : State} {s : State} {n : Nat} {q : Nat} {dir : Nat} {v : Nat} (h : Kept o s) : Kept o (State.writeWatermark s n q dir v) := by
  unfold State.writeWatermark
  repeat' first
    | with_reducible assumption
    | with_reducible refine State.put_kept ?_
    | with_reducible refine State.showPort_kept ?_
    | with_reducible refine State.raise_kept ?_
    | (extract_lets +onlyGivenNames s; refine kept_have (o := o) (x := s) ?_ (fun h => ?_); (on_goal 1 => unfold s; clear s); (on_goal 2 => try clear_value s))
    | (extract_lets +onlyGivenNames x; first | (have _p : PldSt := x; clear _p; unfold x) | skip)
    | with_reducible refine kept_ite (fun _ => ?_) (fun _ => ?_)
    | split
    | dsimp only
    | (dsimp +zetaDelta only; split)

theorem State.writePortCfg_kept {o : State} {s : State} {n : Nat} {q : Nat} {v : Nat} (h : Kept o s) : Kept o (State.writePortCfg s n q v) := by
  unfold State.writePortCfg
  repeat' first
    | with_reducible assumption
    | with_reducible refine State.reannounce_kept ?_
    | with_reducible refine State.failWork_kept ?_
    | with_reducible refine State.put_kept ?_
    | with_reducible refine State.raise_kept ?_
    | (extract_lets +onlyGivenNames s; refine kept_have (o := o) (x := s) ?_ (fun h => ?_); (on_goal 1 => unfold s; clear s); (on_goal 2 => try clear_value s))
    | (extract_lets +onlyGivenNames x; first | (have _p : PldSt := x; clear _p; unfold x) | skip)
    | with_reducible refine kept_foldl ?_ (fun s x h => ?_)
    | with_reducible refine kept_foldl_fst ?_ (fun p x h => ?_)
    | with_reducible refine kept_ite (fun _ => ?_) (fun _ => ?_)
    | split
    | dsimp only
    | (dsimp +zetaDelta only; split)

theorem State.pushPort_kept {o : State} {s : State} {n : Nat} {q : Nat} {bytes : List Byte} {eop : Bool} {err : Bool} (h : Kept o s) : Kept o (State.pushPort s n q bytes eop err).1 := by
  unfold State.pushPort
  repeat' first
    | with_reducible assumption
    | with_reducible exact rfl
    | with_reducible refine State.raise_kept ?_
    | with_reducible refine State.showPort_kept ?_
    | with_reducible refine State.setPortSt_kept ?_
    | (extract_lets +onlyGivenNames s; refine kept_have (o := o) (x := s) ?_ (fun h => ?_); (on_goal 1 => unfold s; clear s); (on_goal 2 => try clear_value s))
    | (extract_lets +onlyGivenNames x; first | (have _p : PldSt := x; clear _p; unfold x) | skip)
    | simp only [↓kept_mk_iff]
    | exact h
    | with_reducible refine kept_ite (fun _ => ?_) (fun _ => ?_)
    | split
    | dsimp only
    | (dsimp +zetaDelta only; split)

theorem State.portFill_kept {o : State} {a0 : Nat} {a1 : State} {a2 : Nat} {a3 : Nat} (h : Kept o a1) : Kept o (State.portFill a0 a1 a2 a3) := by
  induction a0 generalizing a1 a2 a3 with
  | zero =>
    unfold State.portFill
    repeat' first
      | with_reducible assumption
      | with_reducible exact rfl
      | with_reducible refine State.setPortSt_kept ?_
      | with_reducible refine State.returnData_kept ?_
      | with_reducible refine State.failWork_kept ?_
      | (extract_lets +onlyGivenNames s; refine kept_have (o := o) (x := s) ?_ (fun h => ?_); (on_goal 1 => unfold s; clear s); (on_goal 2 => try clear_value s))
      | (extract_lets +onlyGivenNames x; first | (have _p : PldSt := x; clear _p; unfold x) | skip)
      | simp only [↓kept_mk_iff]
      | with_reducible refine kept_ite (fun _ => ?_) (fun _ => ?_)
      | split
      | dsimp only
      | (dsimp +zetaDelta only; split)
  | succ k ih =>
    unfold State.portFill
    repeat' first
      | with_reducible apply ih
      | with_reducible assumption
      | with_reducible exact rfl
      | with_reducible refine State.setPortSt_kept ?_
      | with_reducible refine State.returnData_kept ?_
      | with_reducible refine State.failWork_kept ?_
      | (extract_lets +onlyGivenNames s; refine kept_have (o := o) (x := s) ?_ (fun h => ?_); (on_goal 1 => unfold s; clear s); (on_goal 2 => try clear_value s))
      | (extract_lets +onlyGivenNames x; first | (have _p : PldSt := x; clear _p; unfold x) | skip)
      | simp only [↓kept_mk_iff]
      | with_reducible refine kept_ite (fun _ => ?_) (fun _ => ?_)
      | split
      | dsimp only
      | (dsimp +zetaDelta only; split)

theorem State.portDeliver_kept {o : State} {s : State} {n : Nat} {q : Nat} (h : Kept o s) : Kept o (State.portDeliver s n q) := by
  unfold State.portDeliver
  repeat' first
    | with_reducible assumption
    | with_reducible refine State.portFill_kept ?_
    | dsimp only

theorem State.linkPacket_kept {o : State} {s : State} {n : Nat} {q : Nat} {bytes : List Byte} {detail : Nat} (h : Kept o s) : Kept o (State.linkPacket s n q bytes detail) := by
  unfold State.linkPacket
  repeat' first
    | with_reducible assumption
    | with_reducible exact rfl
    | with_reducible refine State.setPortSt_kept ?_
    | with_reducible refine State.portDeliver_kept ?_
    | with_reducible refine State.toRouter_kept ?_
    | with_reducible refine State.inc_kept ?_
    | (extract_lets +onlyGivenNames s; refine kept_have (o := o) (x := s) ?_ (fun h => ?_); (on_goal 1 => unfold s; clear s); (on_goal 2 => try clear_value s))
    | (extract_lets +onlyGivenNames x; first | (have _p : PldSt := x; clear _p; unfold x) | skip)
    | simp only [↓kept_mk_iff]
    | with_reducible refine kept_ite (fun _ => ?_) (fun _ => ?_)
    | split
    | dsimp only
    | (dsimp +zetaDelta only; split)

theorem execRxPacketToSlice_kept {o : State} {n : Fin 6} {q : Fin 32} {s : State} (h : Kept o s) : Keeps o (execRxPacketToSlice n q s) := by
  unfold execRxPacketToSlice
  repeat' first
    | with_reducible assumption
    | with_reducible exact rfl
    | with_reducible refine State.setPortSt_kept ?_
    | with_reducible refine State.showPort_kept ?_
    | with_reducible refine State.linkPacket_kept ?_
    | with_reducible refine keeps_next ?_
    | (extract_lets +onlyGivenNames s; refine kept_have (o := o) (x := s) ?_ (fun h => ?_); (on_goal 1 => unfold s; clear s); (on_goal 2 => try clear_value s))
    | (extract_lets +onlyGivenNames x; first | (have _p : PldSt := x; clear _p; unfold x) | skip)
    | simp only [↓kept_mk_iff]
    | with_reducible refine kept_ite (fun _ => ?_) (fun _ => ?_)
    | split
    | dsimp only
    | (dsimp +zetaDelta only; split)

theorem State.portStart_kept {o : State} {s : State} {n : Nat} {q : Nat} (h : Kept o s) : Kept o (State.portStart s n q) := by
  unfold State.portStart
  repeat' first
    | with_reducible assumption
    | with_reducible exact rfl
    | with_reducible refine State.takeWork_kept ?_
    | with_reducible refine State.setPortSt_kept ?_
    | (extract_lets +onlyGivenNames s; refine kept_have (o := o) (x := s) ?_ (fun h => ?_); (on_goal 1 => unfold s; clear s); (on_goal 2 => try clear_value s))
    | (extract_lets +onlyGivenNames x; first | (have _p : PldSt := x; clear _p; unfold x) | skip)
    | simp only [↓kept_mk_iff]
    | with_reducible refine kept_ite (fun _ => ?_) (fun _ => ?_)
    | split
    | dsimp only
    | (dsimp +zetaDelta only; split)

theorem execTxFifoWrite_kept {o : State} {n : Fin 6} {q : Fin 32} {s : State} (h : Kept o s) : Keeps o (execTxFifoWrite n q s) := by
  unfold execTxFifoWrite
  repeat' first
    | with_reducible assumption
    | with_reducible refine State.setPortSt_kept ?_
    | with_reducible refine State.showPort_kept ?_
    | with_reducible refine keeps_next ?_
    | with_reducible refine kept_ite (fun _ => ?_) (fun _ => ?_)
    | split
    | dsimp only
    | (dsimp +zetaDelta only; split)

theorem State.flushRx_kept {o : State} {s : State} {n : Nat} {q : Nat} (h : Kept o s) : Kept o (State.flushRx s n q) := by
  unfold State.flushRx
  repeat' first
    | with_reducible assumption
    | with_reducible exact rfl
    | with_reducible refine State.setPortSt_kept ?_
    | with_reducible refine State.showPort_kept ?_
    | (extract_lets +onlyGivenNames s; refine kept_have (o := o) (x := s) ?_ (fun h => ?_); (on_goal 1 => unfold s; clear s); (on_goal 2 => try clear_value s))
    | (extract_lets +onlyGivenNames x; first | (have _p : PldSt := x; clear _p; unfold x) | skip)
    | simp only [↓kept_mk_iff]
    | dsimp only

theorem State.flushTx_kept {o : State} {s : State} {n : Nat} {q : Nat} (h : Kept o s) : Kept o (State.flushTx s n q) := by
  unfold State.flushTx
  repeat' first
    | with_reducible assumption
    | with_reducible exact rfl
    | with_reducible refine State.setPortSt_kept ?_
    | with_reducible refine State.showPort_kept ?_
    | (extract_lets +onlyGivenNames s; refine kept_have (o := o) (x := s) ?_ (fun h => ?_); (on_goal 1 => unfold s; clear s); (on_goal 2 => try clear_value s))
    | (extract_lets +onlyGivenNames x; first | (have _p : PldSt := x; clear _p; unfold x) | skip)
    | simp only [↓kept_mk_iff]
    | dsimp only

theorem execFlushRx_kept {o : State} {n : Fin 6} {q : Fin 32} {s : State} (h : Kept o s) : Keeps o (execFlushRx n q s) := by
  unfold execFlushRx
  repeat' first
    | with_reducible assumption
    | with_reducible refine State.flushRx_kept ?_
    | with_reducible refine keeps_next ?_
    | with_reducible refine kept_ite (fun _ => ?_) (fun _ => ?_)
    | split
    | dsimp only
    | (dsimp +zetaDelta only; split)

theorem execFlushTx_kept {o : State} {n : Fin 6} {q : Fin 32} {s : State} (h : Kept o s) : Keeps o (execFlushTx n q s) := by
  unfold execFlushTx
  repeat' first
    | with_reducible assumption
    | with_reducible refine State.flushTx_kept ?_
    | with_reducible refine keeps_next ?_
    | with_reducible refine kept_ite (fun _ => ?_) (fun _ => ?_)
    | split
    | dsimp only
    | (dsimp +zetaDelta only; split)

theorem State.releaseRx_kept {o : State} {s : State} {n : Nat} {q : Nat} (h : Kept o s) : Kept o (State.releaseRx s n q) := by
  unfold State.releaseRx
  repeat' first
    | with_reducible assumption
    | with_reducible exact rfl
    | with_reducible refine State.setPortSt_kept ?_
    | with_reducible refine State.addTo_kept ?_
    | (extract_lets +onlyGivenNames s; refine kept_have (o := o) (x := s) ?_ (fun h => ?_); (on_goal 1 => unfold s; clear s); (on_goal 2 => try clear_value s))
    | (extract_lets +onlyGivenNames x; first | (have _p : PldSt := x; clear _p; unfold x) | skip)
    | simp only [↓kept_mk_iff]
    | dsimp only

theorem State.releaseTx_kept {o : State} {s : State} {n : Nat} {q : Nat} (h : Kept o s) : Kept o (State.releaseTx s n q) := by
  unfold State.releaseTx
  repeat' first
    | with_reducible assumption
    | with_reducible exact rfl
    | with_reducible refine State.answer_kept ?_
    | with_reducible refine State.raise_kept ?_
    | with_reducible refine State.setPortSt_kept ?_
    | (extract_lets +onlyGivenNames s; refine kept_have (o := o) (x := s) ?_ (fun h => ?_); (on_goal 1 => unfold s; clear s); (on_goal 2 => try clear_value s))
    | (extract_lets +onlyGivenNames x; first | (have _p : PldSt := x; clear _p; unfold x) | skip)
    | simp only [↓kept_mk_iff]
    | with_reducible refine kept_foldl ?_ (fun s x h => ?_)
    | with_reducible refine kept_foldl_fst ?_ (fun p x h => ?_)
    | with_reducible refine kept_ite (fun _ => ?_) (fun _ => ?_)
    | split
    | dsimp only
    | (dsimp +zetaDelta only; split)

theorem execFifoFlushDone_kept {o : State} {n : Fin 6} {q : Fin 32} {s : State} (h : Kept o s) : Keeps o (execFifoFlushDone n q s) := by
  unfold execFifoFlushDone
  repeat' first
    | with_reducible assumption
    | with_reducible exact rfl
    | with_reducible refine State.showPort_kept ?_
    | with_reducible refine State.releaseTx_kept ?_
    | with_reducible refine State.releaseRx_kept ?_
    | with_reducible refine keeps_next ?_
    | (extract_lets +onlyGivenNames s; refine kept_have (o := o) (x := s) ?_ (fun h => ?_); (on_goal 1 => unfold s; clear s); (on_goal 2 => try clear_value s))
    | (extract_lets +onlyGivenNames x; first | (have _p : PldSt := x; clear _p; unfold x) | skip)
    | simp only [↓kept_mk_iff]
    | with_reducible refine kept_ite (fun _ => ?_) (fun _ => ?_)
    | split
    | dsimp only
    | (dsimp +zetaDelta only; split)

theorem State.dropRxPacket_kept {o : State} {s : State} {n : Nat} {q : Nat} (h : Kept o s) : Kept o (State.dropRxPacket s n q) := by
  unfold State.dropRxPacket
  repeat' first
    | with_reducible assumption
    | with_reducible exact rfl
    | with_reducible refine State.setPortSt_kept ?_
    | with_reducible refine State.showPort_kept ?_
    | with_reducible refine State.raise_kept ?_
    | (extract_lets +onlyGivenNames s; refine kept_have (o := o) (x := s) ?_ (fun h => ?_); (on_goal 1 => unfold s; clear s); (on_goal 2 => try clear_value s))
    | (extract_lets +onlyGivenNames x; first | (have _p : PldSt := x; clear _p; unfold x) | skip)
    | simp only [↓kept_mk_iff]
    | with_reducible refine kept_ite (fun _ => ?_) (fun _ => ?_)
    | split
    | dsimp only
    | (dsimp +zetaDelta only; split)

theorem State.dropTxPacket_kept {o : State} {s : State} {n : Nat} {q : Nat} (h : Kept o s) : Kept o (State.dropTxPacket s n q) := by
  unfold State.dropTxPacket
  repeat' first
    | with_reducible assumption
    | with_reducible exact rfl
    | with_reducible refine State.failWork_kept ?_
    | with_reducible refine State.setPortSt_kept ?_
    | with_reducible refine State.showPort_kept ?_
    | with_reducible refine State.raise_kept ?_
    | (extract_lets +onlyGivenNames s; refine kept_have (o := o) (x := s) ?_ (fun h => ?_); (on_goal 1 => unfold s; clear s); (on_goal 2 => try clear_value s))
    | (extract_lets +onlyGivenNames x; first | (have _p : PldSt := x; clear _p; unfold x) | skip)
    | simp only [↓kept_mk_iff]
    | split
    | dsimp only
    | (dsimp +zetaDelta only; split)

theorem execDropRx_kept {o : State} {n : Fin 6} {q : Fin 32} {s : State} (h : Kept o s) : Keeps o (execDropRx n q s) := by
  unfold execDropRx
  repeat' first
    | with_reducible assumption
    | with_reducible refine State.dropRxPacket_kept ?_
    | with_reducible refine keeps_next ?_
    | with_reducible refine kept_ite (fun _ => ?_) (fun _ => ?_)
    | split
    | dsimp only
    | (dsimp +zetaDelta only; split)

theorem execDropTx_kept {o : State} {n : Fin 6} {q : Fin 32} {s : State} (h : Kept o s) : Keeps o (execDropTx n q s) := by
  unfold execDropTx
  repeat' first
    | with_reducible assumption
    | with_reducible refine State.dropTxPacket_kept ?_
    | with_reducible refine keeps_next ?_
    | with_reducible refine kept_ite (fun _ => ?_) (fun _ => ?_)
    | split
    | dsimp only
    | (dsimp +zetaDelta only; split)

end Sys2Proof.Machine
end

