-- ==== Sys2Proof/Laws/KeptPio.lean ====
section
/-! SUPPORT. What the operations of Machine/Pio.lean keep (Laws/Kept.lean). -/

set_option linter.all false

namespace Sys2Proof.Machine

theorem State.endInstr_kept {o : State} {s : State} {n : Nat} {g : Nat} {e : Nat} {w : Nat} {next : Nat} {freeWait : Bool} (h : Kept o s) : Kept o (State.endInstr s n g e w next freeWait) := by
  unfold State.endInstr
  repeat' first
    | with_reducible assumption
    | with_reducible exact rfl
    | with_reducible refine State.setEng_kept ?_
    | with_reducible refine State.put_kept ?_
    | (extract_lets +onlyGivenNames s; refine kept_have (o := o) (x := s) ?_ (fun h => ?_); (on_goal 1 => unfold s; clear s); (on_goal 2 => try clear_value s))
    | (extract_lets +onlyGivenNames x; first | (have _p : PldSt := x; clear _p; unfold x) | skip)
    | simp only [↓kept_mk_iff]
    | with_reducible refine kept_ite (fun _ => ?_) (fun _ => ?_)
    | split
    | dsimp only
    | (dsimp +zetaDelta only; split)

theorem State.onInstr_kept {o s : State} {n g e op : Nat} {f : Nat → State} (h : Kept o s)
    (hf : ∀ w, Kept o (f w)) : Kept o (s.onInstr n g e op f) := by
  unfold State.onInstr
  repeat' first
    | exact h
    | exact hf _
    | with_reducible refine State.setEngState_kept ?_
    | split

theorem State.pioRecord_kept {o : State} {s : State} {n : Nat} {g : Nat} {src : Nat} (h : Kept o s) : Kept o (State.pioRecord s n g src) := by
  unfold State.pioRecord
  repeat' first
    | with_reducible assumption
    | with_reducible exact rfl
    | with_reducible refine State.haltGroup_kept ?_
    | with_reducible refine State.payFails_kept ?_
    | with_reducible refine State.record_kept ?_
    | (extract_lets +onlyGivenNames s; refine kept_have (o := o) (x := s) ?_ (fun h => ?_); (on_goal 1 => unfold s; clear s); (on_goal 2 => try clear_value s))
    | (extract_lets +onlyGivenNames x; first | (have _p : PldSt := x; clear _p; unfold x) | skip)
    | simp only [↓kept_mk_iff]
    | with_reducible refine kept_ite (fun _ => ?_) (fun _ => ?_)
    | split
    | dsimp only
    | (dsimp +zetaDelta only; split)

theorem State.haltIllegal_kept {o : State} {s : State} {n : Nat} {g : Nat} {e : Nat} (h : Kept o s) : Kept o (State.haltIllegal s n g e) := by
  unfold State.haltIllegal
  repeat' first
    | with_reducible assumption
    | with_reducible refine State.pioRecord_kept ?_
    | with_reducible refine State.put_kept ?_
    | with_reducible refine State.riseBit_kept ?_
    | with_reducible refine State.haltEngine_kept ?_
    | with_reducible refine State.payFails_kept ?_
    | (extract_lets +onlyGivenNames s; refine kept_have (o := o) (x := s) ?_ (fun h => ?_); (on_goal 1 => unfold s; clear s); (on_goal 2 => try clear_value s))
    | (extract_lets +onlyGivenNames x; first | (have _p : PldSt := x; clear _p; unfold x) | skip)
    | dsimp only

theorem State.pioPin_kept {o : State} {s : State} {n : Nat} {g : Nat} {p : Nat} {level : Option Bool} {oe : Option Bool} (h : Kept o s) : Kept o (State.pioPin s n g p level oe) := by
  unfold State.pioPin
  repeat' first
    | with_reducible assumption
    | with_reducible refine State.drivePin_kept ?_
    | (extract_lets +onlyGivenNames s; refine kept_have (o := o) (x := s) ?_ (fun h => ?_); (on_goal 1 => unfold s; clear s); (on_goal 2 => try clear_value s))
    | (extract_lets +onlyGivenNames x; first | (have _p : PldSt := x; clear _p; unfold x) | skip)
    | with_reducible refine kept_ite (fun _ => ?_) (fun _ => ?_)
    | split
    | dsimp only
    | (dsimp +zetaDelta only; split)

theorem State.pioBit_kept {o : State} {s : State} {n : Nat} {g : Nat} {e : Nat} {p : Nat} {b : Bool} (h : Kept o s) : Kept o (State.pioBit s n g e p b) := by
  unfold State.pioBit
  repeat' first
    | with_reducible assumption
    | with_reducible refine State.pioPin_kept ?_
    | with_reducible refine kept_ite (fun _ => ?_) (fun _ => ?_)
    | split
    | dsimp only
    | (dsimp +zetaDelta only; split)

theorem State.pinClash_kept {o : State} {s : State} {n : Nat} {g : Nat} {written : Nat} {lost : Nat} (h : Kept o s) : Kept o (State.pinClash s n g written lost) := by
  unfold State.pinClash
  repeat' first
    | with_reducible assumption
    | with_reducible refine State.raise_kept ?_
    | with_reducible refine State.pioRecord_kept ?_
    | with_reducible refine kept_ite (fun _ => ?_) (fun _ => ?_)
    | split
    | dsimp only
    | (dsimp +zetaDelta only; split)

theorem execPioSet_kept {o : State} {n : Fin 6} {g : Fin 4} {e : Fin 8} {lost : BitVec 16} {s : State} (h : Kept o s) : Keeps o (execPioSet n g e lost s) := by
  unfold execPioSet
  repeat' first
    | with_reducible assumption
    | with_reducible refine State.endInstr_kept ?_
    | with_reducible refine State.pinClash_kept ?_
    | with_reducible refine State.pioPin_kept ?_
    | with_reducible refine State.each_kept ?_ (fun s x h => ?_)
    | with_reducible refine State.onInstr_kept ?_ (fun x => ?_)
    | with_reducible refine keeps_next ?_
    | (extract_lets +onlyGivenNames s; refine kept_have (o := o) (x := s) ?_ (fun h => ?_); (on_goal 1 => unfold s; clear s); (on_goal 2 => try clear_value s))
    | (extract_lets +onlyGivenNames x; first | (have _p : PldSt := x; clear _p; unfold x) | skip)
    | with_reducible refine kept_ite (fun _ => ?_) (fun _ => ?_)
    | split
    | dsimp only
    | (dsimp +zetaDelta only; split)

theorem State.endOfFrame_kept {o : State} {s : State} {n : Nat} {g : Nat} {e : Nat} (h : Kept o s) : Kept o (State.endOfFrame s n g e) := by
  unfold State.endOfFrame
  repeat' first
    | with_reducible assumption
    | with_reducible exact rfl
    | with_reducible refine State.put_kept ?_
    | with_reducible refine State.commit_kept ?_
    | with_reducible refine State.setPortSt_kept ?_
    | with_reducible refine State.inc_kept ?_
    | (extract_lets +onlyGivenNames s; refine kept_have (o := o) (x := s) ?_ (fun h => ?_); (on_goal 1 => unfold s; clear s); (on_goal 2 => try clear_value s))
    | (extract_lets +onlyGivenNames x; first | (have _p : PldSt := x; clear _p; unfold x) | skip)
    | simp only [↓kept_mk_iff]
    | with_reducible refine kept_ite (fun _ => ?_) (fun _ => ?_)
    | split
    | dsimp only
    | (dsimp +zetaDelta only; split)

theorem State.pullInside_kept {o : State} {s : State} {n : Nat} {g : Nat} {e : Nat} {want : Nat} {k' : Nat × Nat × Nat} (h : Kept o s) : Kept o (State.pullInside s n g e want k').1 := by
  unfold State.pullInside
  repeat' first
    | with_reducible assumption
    | with_reducible exact rfl
    | with_reducible refine State.setEng_kept ?_
    | with_reducible refine State.put_kept ?_
    | with_reducible refine State.inc_kept ?_
    | with_reducible refine State.setPortSt_kept ?_
    | with_reducible refine State.showPort_kept ?_
    | (extract_lets +onlyGivenNames s; refine kept_have (o := o) (x := s) ?_ (fun h => ?_); (on_goal 1 => unfold s; clear s); (on_goal 2 => try clear_value s))
    | (extract_lets +onlyGivenNames x; first | (have _p : PldSt := x; clear _p; unfold x) | skip)
    | simp only [↓kept_mk_iff]
    | exact h
    | with_reducible refine kept_ite (fun _ => ?_) (fun _ => ?_)
    | split
    | dsimp only
    | (dsimp +zetaDelta only; split)

theorem State.enginePull_kept {o : State} {s : State} {n : Nat} {g : Nat} {e : Nat} {want : Nat} (h : Kept o s) : Kept o (State.enginePull s n g e want).1 := by
  unfold State.enginePull
  repeat' first
    | with_reducible assumption
    | with_reducible exact rfl
    | with_reducible refine State.startEmission_kept ?_
    | with_reducible refine State.endOfFrame_kept ?_
    | with_reducible refine State.pullInside_kept ?_
    | with_reducible refine kept_fst (by assumption) (State.pullInside_kept ?_)
    | with_reducible refine State.setEng_kept ?_
    | with_reducible refine State.setPortSt_kept ?_
    | with_reducible refine State.put_kept ?_
    | (extract_lets +onlyGivenNames s; refine kept_have (o := o) (x := s) ?_ (fun h => ?_); (on_goal 1 => unfold s; clear s); (on_goal 2 => try clear_value s))
    | (extract_lets +onlyGivenNames x; first | (have _p : PldSt := x; clear _p; unfold x) | skip)
    | simp only [↓kept_mk_iff]
    | exact h
    | with_reducible refine kept_ite (fun _ => ?_) (fun _ => ?_)
    | split
    | dsimp only
    | (dsimp +zetaDelta only; split)

theorem State.pioUnderflow_kept {o : State} {s : State} {n : Nat} {g : Nat} {e : Nat} (h : Kept o s) : Kept o (State.pioUnderflow s n g e) := by
  unfold State.pioUnderflow
  repeat' first
    | with_reducible assumption
    | with_reducible exact rfl
    | with_reducible refine State.pioRecord_kept ?_
    | with_reducible refine State.haltIllegal_kept ?_
    | with_reducible refine State.setEng_kept ?_
    | with_reducible refine State.tearWork_kept ?_
    | with_reducible refine State.raise_kept ?_
    | with_reducible refine State.put_kept ?_
    | with_reducible refine State.setPortSt_kept ?_
    | with_reducible refine State.showPort_kept ?_
    | (extract_lets +onlyGivenNames s; refine kept_have (o := o) (x := s) ?_ (fun h => ?_); (on_goal 1 => unfold s; clear s); (on_goal 2 => try clear_value s))
    | (extract_lets +onlyGivenNames x; first | (have _p : PldSt := x; clear _p; unfold x) | skip)
    | simp only [↓kept_mk_iff]
    | with_reducible refine kept_ite (fun _ => ?_) (fun _ => ?_)
    | split
    | dsimp only
    | (dsimp +zetaDelta only; split)

theorem State.pullThen_kept {o s : State} {n g e want : Nat} {f : State → State} (h : Kept o s)
    (hf : ∀ s, Kept o s → Kept o (f s)) : Kept o (s.pullThen n g e want f) := by
  unfold State.pullThen
  split
  · exact State.setEng_kept (State.setEngState_kept h)
  · split
    · next e => exact hf _ (State.setEng_kept (State.setEngState_kept (kept_fst e (State.enginePull_kept h))))
    · next e => exact State.setEng_kept (State.setEngState_kept (kept_fst e (State.enginePull_kept h)))
    · next e => exact State.pioUnderflow_kept (State.setEngState_kept (kept_fst e (State.enginePull_kept h)))

theorem execPioPull_kept {o : State} {n : Fin 6} {g : Fin 4} {e : Fin 8} {s : State} (h : Kept o s) : Keeps o (execPioPull n g e s) := by
  unfold execPioPull
  repeat' first
    | with_reducible assumption
    | with_reducible refine State.endInstr_kept ?_
    | with_reducible refine State.pullThen_kept ?_ (fun s h => ?_)
    | with_reducible refine State.onInstr_kept ?_ (fun x => ?_)
    | with_reducible refine keeps_next ?_
    | dsimp only

theorem execPioPullUnstall_kept {o : State} {n : Fin 6} {g : Fin 4} {e : Fin 8} {s : State} (h : Kept o s) : Keeps o (execPioPullUnstall n g e s) := by
  unfold execPioPullUnstall
  repeat' first
    | with_reducible assumption
    | with_reducible exact rfl
    | with_reducible refine State.setEng_kept ?_
    | with_reducible refine State.endInstr_kept ?_
    | with_reducible refine State.pullThen_kept ?_ (fun s h => ?_)
    | with_reducible refine keeps_next ?_
    | (extract_lets +onlyGivenNames s; refine kept_have (o := o) (x := s) ?_ (fun h => ?_); (on_goal 1 => unfold s; clear s); (on_goal 2 => try clear_value s))
    | (extract_lets +onlyGivenNames x; first | (have _p : PldSt := x; clear _p; unfold x) | skip)
    | simp only [↓kept_mk_iff]
    | with_reducible refine kept_ite (fun _ => ?_) (fun _ => ?_)
    | split
    | dsimp only
    | (dsimp +zetaDelta only; split)

theorem execPioUnderflow_kept {o : State} {n : Fin 6} {g : Fin 4} {e : Fin 8} {s : State} (h : Kept o s) : Keeps o (execPioUnderflow n g e s) := by
  unfold execPioUnderflow
  repeat' first
    | with_reducible assumption
    | with_reducible refine State.pioUnderflow_kept ?_
    | with_reducible refine State.onInstr_kept ?_ (fun x => ?_)
    | with_reducible refine keeps_next ?_
    | (extract_lets +onlyGivenNames s; refine kept_have (o := o) (x := s) ?_ (fun h => ?_); (on_goal 1 => unfold s; clear s); (on_goal 2 => try clear_value s))
    | (extract_lets +onlyGivenNames x; first | (have _p : PldSt := x; clear _p; unfold x) | skip)
    | with_reducible refine kept_ite (fun _ => ?_) (fun _ => ?_)
    | split
    | dsimp only
    | (dsimp +zetaDelta only; split)

theorem execPioPush_kept {o : State} {n : Fin 6} {g : Fin 4} {e : Fin 8} {s : State} (h : Kept o s) : Keeps o (execPioPush n g e s) := by
  unfold execPioPush
  repeat' first
    | with_reducible assumption
    | with_reducible refine State.endInstr_kept ?_
    | with_reducible refine State.put_kept ?_
    | with_reducible refine State.pushPort_kept ?_
    | with_reducible refine kept_fst (by assumption) (State.pushPort_kept ?_)
    | with_reducible refine State.onInstr_kept ?_ (fun x => ?_)
    | with_reducible refine keeps_next ?_
    | (extract_lets +onlyGivenNames s; refine kept_have (o := o) (x := s) ?_ (fun h => ?_); (on_goal 1 => unfold s; clear s); (on_goal 2 => try clear_value s))
    | (extract_lets +onlyGivenNames x; first | (have _p : PldSt := x; clear _p; unfold x) | skip)
    | with_reducible refine kept_ite (fun _ => ?_) (fun _ => ?_)
    | split
    | dsimp only
    | (dsimp +zetaDelta only; split)

theorem execPioEopIdleClose_kept {o : State} {n : Fin 6} {g : Fin 4} {e : Fin 8} {s : State} (h : Kept o s) : Keeps o (execPioEopIdleClose n g e s) := by
  unfold execPioEopIdleClose
  repeat' first
    | with_reducible assumption
    | with_reducible exact rfl
    | with_reducible refine State.pushPort_kept ?_
    | with_reducible refine kept_fst (by assumption) (State.pushPort_kept ?_)
    | with_reducible refine keeps_next ?_
    | (extract_lets +onlyGivenNames s; refine kept_have (o := o) (x := s) ?_ (fun h => ?_); (on_goal 1 => unfold s; clear s); (on_goal 2 => try clear_value s))
    | (extract_lets +onlyGivenNames x; first | (have _p : PldSt := x; clear _p; unfold x) | skip)
    | simp only [↓kept_mk_iff]
    | with_reducible refine kept_ite (fun _ => ?_) (fun _ => ?_)
    | split
    | dsimp only
    | (dsimp +zetaDelta only; split)

theorem State.shiftRun_kept {o : State} {s : State} {n : Nat} {g : Nat} {e : Nat} {w : Nat} {k' : Nat} {rx : List Bool} {lost : Nat} (h : Kept o s) : Kept o (State.shiftRun s n g e w k' rx lost) := by
  unfold State.shiftRun
  repeat' first
    | with_reducible assumption
    | with_reducible exact rfl
    | with_reducible refine State.pinClash_kept ?_
    | with_reducible refine State.emit_kept ?_
    | with_reducible refine State.pioBit_kept ?_
    | with_reducible refine State.setEng_kept ?_
    | with_reducible refine State.put_kept ?_
    | (extract_lets +onlyGivenNames s; refine kept_have (o := o) (x := s) ?_ (fun h => ?_); (on_goal 1 => unfold s; clear s); (on_goal 2 => try clear_value s))
    | (extract_lets +onlyGivenNames x; first | (have _p : PldSt := x; clear _p; unfold x) | skip)
    | simp only [↓kept_mk_iff]
    | with_reducible refine kept_ite (fun _ => ?_) (fun _ => ?_)
    | split
    | dsimp only
    | (dsimp +zetaDelta only; split)

theorem State.shiftEnd_kept {o : State} {s : State} {n : Nat} {g : Nat} {e : Nat} {w : Nat} (h : Kept o s) : Kept o (State.shiftEnd s n g e w) := by
  unfold State.shiftEnd
  repeat' first
    | with_reducible assumption
    | with_reducible exact rfl
    | with_reducible refine State.endInstr_kept ?_
    | with_reducible refine State.endOfFrame_kept ?_
    | with_reducible refine State.haltIllegal_kept ?_
    | with_reducible refine State.setEng_kept ?_
    | with_reducible refine State.pullThen_kept ?_ (fun s h => ?_)
    | (extract_lets +onlyGivenNames s; refine kept_have (o := o) (x := s) ?_ (fun h => ?_); (on_goal 1 => unfold s; clear s); (on_goal 2 => try clear_value s))
    | (extract_lets +onlyGivenNames x; first | (have _p : PldSt := x; clear _p; unfold x) | skip)
    | simp only [↓kept_mk_iff]
    | with_reducible refine kept_ite (fun _ => ?_) (fun _ => ?_)
    | split
    | dsimp only
    | (dsimp +zetaDelta only; split)

theorem State.shiftSome_kept {o : State} {s : State} {n : Nat} {g : Nat} {e : Nat} {w : Nat} {k' : Nat} {rx : List Bool} {cut : Nat} {lost : Nat} (h : Kept o s) : Kept o (State.shiftSome s n g e w k' rx cut lost) := by
  unfold State.shiftSome
  repeat' first
    | with_reducible assumption
    | with_reducible exact rfl
    | with_reducible refine State.shiftEnd_kept ?_
    | with_reducible refine State.setEngState_kept ?_
    | with_reducible refine State.setEng_kept ?_
    | with_reducible refine State.shiftRun_kept ?_
    | (extract_lets +onlyGivenNames s; refine kept_have (o := o) (x := s) ?_ (fun h => ?_); (on_goal 1 => unfold s; clear s); (on_goal 2 => try clear_value s))
    | (extract_lets +onlyGivenNames x; first | (have _p : PldSt := x; clear _p; unfold x) | skip)
    | simp only [↓kept_mk_iff]
    | with_reducible refine kept_ite (fun _ => ?_) (fun _ => ?_)
    | split
    | dsimp only
    | (dsimp +zetaDelta only; split)

theorem execPioShift_kept {o : State} {n : Fin 6} {g : Fin 4} {e : Fin 8} {rx : List Bool} {cut : Fin 32} {lost : BitVec 16} {s : State} (h : Kept o s) : Keeps o (execPioShift n g e rx cut lost s) := by
  unfold execPioShift
  repeat' first
    | with_reducible assumption
    | with_reducible exact rfl
    | with_reducible refine State.shiftSome_kept ?_
    | with_reducible refine State.onInstr_kept ?_ (fun x => ?_)
    | with_reducible refine keeps_next ?_
    | (extract_lets +onlyGivenNames s; refine kept_have (o := o) (x := s) ?_ (fun h => ?_); (on_goal 1 => unfold s; clear s); (on_goal 2 => try clear_value s))
    | (extract_lets +onlyGivenNames x; first | (have _p : PldSt := x; clear _p; unfold x) | skip)
    | simp only [↓kept_mk_iff]
    | dsimp only

theorem execPioStretchRelease_kept {o : State} {n : Fin 6} {g : Fin 4} {e : Fin 8} {rx : List Bool} {cut : Fin 32} {lost : BitVec 16} {s : State} (h : Kept o s) : Keeps o (execPioStretchRelease n g e rx cut lost s) := by
  unfold execPioStretchRelease
  repeat' first
    | with_reducible assumption
    | with_reducible exact rfl
    | with_reducible refine State.shiftSome_kept ?_
    | with_reducible refine State.setEngState_kept ?_
    | with_reducible refine State.setEng_kept ?_
    | with_reducible refine keeps_next ?_
    | (extract_lets +onlyGivenNames s; refine kept_have (o := o) (x := s) ?_ (fun h => ?_); (on_goal 1 => unfold s; clear s); (on_goal 2 => try clear_value s))
    | (extract_lets +onlyGivenNames x; first | (have _p : PldSt := x; clear _p; unfold x) | skip)
    | simp only [↓kept_mk_iff]
    | with_reducible refine kept_ite (fun _ => ?_) (fun _ => ?_)
    | split
    | dsimp only
    | (dsimp +zetaDelta only; split)

theorem State.waitDone_kept {o : State} {s : State} {n : Nat} {g : Nat} {e : Nat} {w : Nat} {freeWait : Bool} (h : Kept o s) : Kept o (State.waitDone s n g e w freeWait) := by
  unfold State.waitDone
  repeat' first
    | with_reducible assumption
    | with_reducible exact rfl
    | with_reducible refine State.endInstr_kept ?_
    | with_reducible refine State.setEngState_kept ?_
    | with_reducible refine State.setEng_kept ?_
    | (extract_lets +onlyGivenNames s; refine kept_have (o := o) (x := s) ?_ (fun h => ?_); (on_goal 1 => unfold s; clear s); (on_goal 2 => try clear_value s))
    | (extract_lets +onlyGivenNames x; first | (have _p : PldSt := x; clear _p; unfold x) | skip)
    | simp only [↓kept_mk_iff]
    | with_reducible refine kept_ite (fun _ => ?_) (fun _ => ?_)
    | split
    | dsimp only
    | (dsimp +zetaDelta only; split)

theorem State.releaseFlag_kept {o : State} {s : State} {n : Nat} {g : Nat} {f : Nat} {clr : Bool} (h : Kept o s) : Kept o (State.releaseFlag s n g f clr) := by
  unfold State.releaseFlag
  repeat' first
    | with_reducible assumption
    | with_reducible refine State.dropBits_kept ?_
    | with_reducible refine State.waitDone_kept ?_
    | with_reducible refine State.each_kept ?_ (fun s x h => ?_)
    | (extract_lets +onlyGivenNames s; refine kept_have (o := o) (x := s) ?_ (fun h => ?_); (on_goal 1 => unfold s; clear s); (on_goal 2 => try clear_value s))
    | (extract_lets +onlyGivenNames x; first | (have _p : PldSt := x; clear _p; unfold x) | skip)
    | with_reducible refine kept_ite (fun _ => ?_) (fun _ => ?_)
    | split
    | dsimp only
    | (dsimp +zetaDelta only; split)

theorem execPioWait_kept {o : State} {n : Fin 6} {g : Fin 4} {e : Fin 8} {onTick : Bool} {s : State} (h : Kept o s) : Keeps o (execPioWait n g e onTick s) := by
  unfold execPioWait
  repeat' first
    | with_reducible assumption
    | with_reducible exact rfl
    | with_reducible refine State.setEngState_kept ?_
    | with_reducible refine State.releaseFlag_kept ?_
    | with_reducible refine State.waitDone_kept ?_
    | with_reducible refine State.setEng_kept ?_
    | with_reducible refine State.onInstr_kept ?_ (fun x => ?_)
    | with_reducible refine keeps_next ?_
    | (extract_lets +onlyGivenNames s; refine kept_have (o := o) (x := s) ?_ (fun h => ?_); (on_goal 1 => unfold s; clear s); (on_goal 2 => try clear_value s))
    | (extract_lets +onlyGivenNames x; first | (have _p : PldSt := x; clear _p; unfold x) | skip)
    | simp only [↓kept_mk_iff]
    | with_reducible refine kept_ite (fun _ => ?_) (fun _ => ?_)
    | split
    | dsimp only
    | (dsimp +zetaDelta only; split)

theorem execPioWaitSatisfied_kept {o : State} {n : Fin 6} {g : Fin 4} {e : Fin 8} {onTick : Bool} {s : State} (h : Kept o s) : Keeps o (execPioWaitSatisfied n g e onTick s) := by
  unfold execPioWaitSatisfied
  repeat' first
    | with_reducible assumption
    | with_reducible refine State.waitDone_kept ?_
    | with_reducible refine State.releaseFlag_kept ?_
    | with_reducible refine keeps_next ?_
    | (extract_lets +onlyGivenNames s; refine kept_have (o := o) (x := s) ?_ (fun h => ?_); (on_goal 1 => unfold s; clear s); (on_goal 2 => try clear_value s))
    | (extract_lets +onlyGivenNames x; first | (have _p : PldSt := x; clear _p; unfold x) | skip)
    | with_reducible refine kept_ite (fun _ => ?_) (fun _ => ?_)
    | split
    | dsimp only
    | (dsimp +zetaDelta only; split)

theorem execPioInEdge_kept {o : State} {n : Fin 6} {g : Fin 4} {e : Fin 8} {rise : Bool} {s : State} (h : Kept o s) : Keeps o (execPioInEdge n g e rise s) := by
  unfold execPioInEdge
  repeat' first
    | with_reducible assumption
    | with_reducible refine State.rawChange_kept ?_
    | with_reducible refine State.latchEdge_kept ?_
    | with_reducible refine keeps_next ?_
    | with_reducible refine kept_ite (fun _ => ?_) (fun _ => ?_)
    | split
    | dsimp only
    | (dsimp +zetaDelta only; split)

theorem State.jmpTest_kept {o : State} {s : State} {n : Nat} {g : Nat} {e : Nat} {cond : Nat} {arg : Nat} (h : Kept o s) : Kept o (State.jmpTest s n g e cond arg).1 := by
  unfold State.jmpTest
  repeat' first
    | with_reducible assumption
    | with_reducible exact rfl
    | with_reducible refine State.put_kept ?_
    | (extract_lets +onlyGivenNames s; refine kept_have (o := o) (x := s) ?_ (fun h => ?_); (on_goal 1 => unfold s; clear s); (on_goal 2 => try clear_value s))
    | (extract_lets +onlyGivenNames x; first | (have _p : PldSt := x; clear _p; unfold x) | skip)
    | simp only [↓kept_mk_iff]
    | exact h
    | split
    | dsimp only
    | (dsimp +zetaDelta only; split)

theorem execPioJmp_kept {o : State} {n : Fin 6} {g : Fin 4} {e : Fin 8} {s : State} (h : Kept o s) : Keeps o (execPioJmp n g e s) := by
  unfold execPioJmp
  repeat' first
    | with_reducible assumption
    | with_reducible refine State.endInstr_kept ?_
    | with_reducible refine State.jmpTest_kept ?_
    | with_reducible refine kept_fst (by assumption) (State.jmpTest_kept ?_)
    | with_reducible refine State.onInstr_kept ?_ (fun x => ?_)
    | with_reducible refine keeps_next ?_
    | (extract_lets +onlyGivenNames s; refine kept_have (o := o) (x := s) ?_ (fun h => ?_); (on_goal 1 => unfold s; clear s); (on_goal 2 => try clear_value s))
    | (extract_lets +onlyGivenNames x; first | (have _p : PldSt := x; clear _p; unfold x) | skip)
    | with_reducible refine kept_ite (fun _ => ?_) (fun _ => ?_)
    | split
    | dsimp only
    | (dsimp +zetaDelta only; split)

theorem execPioEvent_kept {o : State} {n : Fin 6} {g : Fin 4} {e : Fin 8} {s : State} (h : Kept o s) : Keeps o (execPioEvent n g e s) := by
  unfold execPioEvent
  repeat' first
    | with_reducible assumption
    | with_reducible refine State.endInstr_kept ?_
    | with_reducible refine State.endOfFrame_kept ?_
    | with_reducible refine State.riseBit_kept ?_
    | with_reducible refine State.orBits_kept ?_
    | with_reducible refine State.dropBits_kept ?_
    | with_reducible refine State.onInstr_kept ?_ (fun x => ?_)
    | with_reducible refine keeps_next ?_
    | (extract_lets +onlyGivenNames s; refine kept_have (o := o) (x := s) ?_ (fun h => ?_); (on_goal 1 => unfold s; clear s); (on_goal 2 => try clear_value s))
    | (extract_lets +onlyGivenNames x; first | (have _p : PldSt := x; clear _p; unfold x) | skip)
    | with_reducible refine kept_ite (fun _ => ?_) (fun _ => ?_)
    | split
    | dsimp only
    | (dsimp +zetaDelta only; split)

theorem State.loadImm_kept {o : State} {s : State} {n : Nat} {g : Nat} {e : Nat} {dst : Nat} {imm : Nat} (h : Kept o s) : Kept o (State.loadImm s n g e dst imm) := by
  unfold State.loadImm
  repeat' first
    | with_reducible assumption
    | with_reducible exact rfl
    | with_reducible refine State.put_kept ?_
    | (extract_lets +onlyGivenNames s; refine kept_have (o := o) (x := s) ?_ (fun h => ?_); (on_goal 1 => unfold s; clear s); (on_goal 2 => try clear_value s))
    | (extract_lets +onlyGivenNames x; first | (have _p : PldSt := x; clear _p; unfold x) | skip)
    | simp only [↓kept_mk_iff]
    | split
    | dsimp only
    | (dsimp +zetaDelta only; split)

theorem execPioLoad_kept {o : State} {n : Fin 6} {g : Fin 4} {e : Fin 8} {s : State} (h : Kept o s) : Keeps o (execPioLoad n g e s) := by
  unfold execPioLoad
  repeat' first
    | with_reducible assumption
    | with_reducible refine State.loadImm_kept ?_
    | with_reducible refine State.endInstr_kept ?_
    | with_reducible refine State.onInstr_kept ?_ (fun x => ?_)
    | with_reducible refine keeps_next ?_
    | dsimp only

theorem State.movDst_kept {o : State} {s : State} {n : Nat} {g : Nat} {e : Nat} {dst : Nat} {v : Nat} (h : Kept o s) : Kept o (State.movDst s n g e dst v) := by
  unfold State.movDst
  repeat' first
    | with_reducible assumption
    | with_reducible exact rfl
    | with_reducible refine State.put_kept ?_
    | (extract_lets +onlyGivenNames s; refine kept_have (o := o) (x := s) ?_ (fun h => ?_); (on_goal 1 => unfold s; clear s); (on_goal 2 => try clear_value s))
    | (extract_lets +onlyGivenNames x; first | (have _p : PldSt := x; clear _p; unfold x) | skip)
    | simp only [↓kept_mk_iff]
    | split
    | dsimp only
    | (dsimp +zetaDelta only; split)

theorem execPioMov_kept {o : State} {n : Fin 6} {g : Fin 4} {e : Fin 8} {s : State} (h : Kept o s) : Keeps o (execPioMov n g e s) := by
  unfold execPioMov
  repeat' first
    | with_reducible assumption
    | with_reducible refine State.movDst_kept ?_
    | with_reducible refine State.endInstr_kept ?_
    | with_reducible refine State.onInstr_kept ?_ (fun x => ?_)
    | with_reducible refine keeps_next ?_
    | (extract_lets +onlyGivenNames s; refine kept_have (o := o) (x := s) ?_ (fun h => ?_); (on_goal 1 => unfold s; clear s); (on_goal 2 => try clear_value s))
    | (extract_lets +onlyGivenNames x; first | (have _p : PldSt := x; clear _p; unfold x) | skip)
    | with_reducible refine kept_ite (fun _ => ?_) (fun _ => ?_)
    | split
    | dsimp only
    | (dsimp +zetaDelta only; split)

theorem execPioDrop_kept {o : State} {n : Fin 6} {g : Fin 4} {e : Fin 8} {s : State} (h : Kept o s) : Keeps o (execPioDrop n g e s) := by
  unfold execPioDrop
  repeat' first
    | with_reducible assumption
    | with_reducible refine State.endInstr_kept ?_
    | with_reducible refine State.dropTxPacket_kept ?_
    | with_reducible refine State.onInstr_kept ?_ (fun x => ?_)
    | with_reducible refine keeps_next ?_
    | (extract_lets +onlyGivenNames s; refine kept_have (o := o) (x := s) ?_ (fun h => ?_); (on_goal 1 => unfold s; clear s); (on_goal 2 => try clear_value s))
    | (extract_lets +onlyGivenNames x; first | (have _p : PldSt := x; clear _p; unfold x) | skip)
    | with_reducible refine kept_ite (fun _ => ?_) (fun _ => ?_)
    | split
    | dsimp only
    | (dsimp +zetaDelta only; split)

theorem execPioHalt_kept {o : State} {n : Fin 6} {g : Fin 4} {e : Fin 8} {s : State} (h : Kept o s) : Keeps o (execPioHalt n g e s) := by
  unfold execPioHalt
  repeat' first
    | with_reducible assumption
    | with_reducible refine State.put_kept ?_
    | with_reducible refine State.haltEngine_kept ?_
    | with_reducible refine State.payFails_kept ?_
    | with_reducible refine State.onInstr_kept ?_ (fun x => ?_)
    | with_reducible refine keeps_next ?_
    | dsimp only

theorem execPioIllegal_kept {o : State} {n : Fin 6} {g : Fin 4} {e : Fin 8} {s : State} (h : Kept o s) : Keeps o (execPioIllegal n g e s) := by
  unfold execPioIllegal
  repeat' first
    | with_reducible assumption
    | with_reducible refine State.haltIllegal_kept ?_
    | with_reducible refine keeps_next ?_
    | with_reducible refine kept_ite (fun _ => ?_) (fun _ => ?_)
    | split
    | dsimp only
    | (dsimp +zetaDelta only; split)

theorem execPioDelayExpiry_kept {o : State} {n : Fin 6} {g : Fin 4} {e : Fin 8} {s : State} (h : Kept o s) : Keeps o (execPioDelayExpiry n g e s) := by
  unfold execPioDelayExpiry
  repeat' first
    | with_reducible assumption
    | with_reducible exact rfl
    | with_reducible refine State.setEng_kept ?_
    | with_reducible refine State.put_kept ?_
    | with_reducible refine keeps_next ?_
    | (extract_lets +onlyGivenNames s; refine kept_have (o := o) (x := s) ?_ (fun h => ?_); (on_goal 1 => unfold s; clear s); (on_goal 2 => try clear_value s))
    | (extract_lets +onlyGivenNames x; first | (have _p : PldSt := x; clear _p; unfold x) | skip)
    | simp only [↓kept_mk_iff]
    | with_reducible refine kept_ite (fun _ => ?_) (fun _ => ?_)
    | split
    | dsimp only
    | (dsimp +zetaDelta only; split)

theorem State.startEngine_kept {o : State} {s : State} {n : Nat} {g : Nat} {e : Nat} (h : Kept o s) : Kept o (State.startEngine s n g e) := by
  unfold State.startEngine
  repeat' first
    | with_reducible assumption
    | with_reducible refine State.setEngState_kept ?_
    | with_reducible refine State.put_kept ?_
    | with_reducible refine State.setEng_kept ?_
    | with_reducible refine kept_ite (fun _ => ?_) (fun _ => ?_)
    | split
    | dsimp only
    | (dsimp +zetaDelta only; split)

theorem State.restartEngine_kept {o : State} {s : State} {n : Nat} {g : Nat} {e : Nat} (h : Kept o s) : Kept o (State.restartEngine s n g e) := by
  unfold State.restartEngine
  repeat' first
    | with_reducible assumption
    | with_reducible exact rfl
    | with_reducible refine State.setEng_kept ?_
    | (extract_lets +onlyGivenNames s; refine kept_have (o := o) (x := s) ?_ (fun h => ?_); (on_goal 1 => unfold s; clear s); (on_goal 2 => try clear_value s))
    | (extract_lets +onlyGivenNames x; first | (have _p : PldSt := x; clear _p; unfold x) | skip)
    | simp only [↓kept_mk_iff]
    | with_reducible refine kept_ite (fun _ => ?_) (fun _ => ?_)
    | split
    | dsimp only
    | (dsimp +zetaDelta only; split)

theorem State.syncNow_kept {o : State} {s : State} {n : Nat} {g : Nat} {start : Nat} {restart : Nat} (h : Kept o s) : Kept o (State.syncNow s n g start restart) := by
  unfold State.syncNow
  repeat' first
    | with_reducible assumption
    | with_reducible refine State.startEngine_kept ?_
    | with_reducible refine State.restartEngine_kept ?_
    | with_reducible refine State.each_kept ?_ (fun s x h => ?_)
    | (extract_lets +onlyGivenNames s; refine kept_have (o := o) (x := s) ?_ (fun h => ?_); (on_goal 1 => unfold s; clear s); (on_goal 2 => try clear_value s))
    | (extract_lets +onlyGivenNames x; first | (have _p : PldSt := x; clear _p; unfold x) | skip)
    | dsimp only

theorem State.writeSync_kept {o : State} {s : State} {n : Nat} {g : Nat} {v : Nat} (h : Kept o s) : Kept o (State.writeSync s n g v) := by
  unfold State.writeSync
  repeat' first
    | with_reducible assumption
    | with_reducible exact rfl
    | with_reducible refine State.syncNow_kept ?_
    | with_reducible refine State.setGroup_kept ?_
    | with_reducible refine State.put_kept ?_
    | with_reducible refine State.raise_kept ?_
    | (extract_lets +onlyGivenNames s; refine kept_have (o := o) (x := s) ?_ (fun h => ?_); (on_goal 1 => unfold s; clear s); (on_goal 2 => try clear_value s))
    | (extract_lets +onlyGivenNames x; first | (have _p : PldSt := x; clear _p; unfold x) | skip)
    | simp only [↓kept_mk_iff]
    | with_reducible refine kept_ite (fun _ => ?_) (fun _ => ?_)
    | split
    | dsimp only
    | (dsimp +zetaDelta only; split)

theorem execPioSyncStart_kept {o : State} {n : Fin 6} {g : Fin 4} {val : Word} {s : State} (h : Kept o s) : Keeps o (execPioSyncStart n g val s) := by
  unfold execPioSyncStart
  repeat' first
    | with_reducible assumption
    | with_reducible refine State.writeSync_kept ?_
    | with_reducible refine keeps_next ?_
    | with_reducible refine kept_ite (fun _ => ?_) (fun _ => ?_)
    | split
    | dsimp only
    | (dsimp +zetaDelta only; split)

theorem execPioSyncRestart_kept {o : State} {n : Fin 6} {g : Fin 4} {val : Word} {s : State} (h : Kept o s) : Keeps o (execPioSyncRestart n g val s) := by
  unfold execPioSyncRestart
  repeat' first
    | with_reducible assumption
    | with_reducible refine State.writeSync_kept ?_
    | with_reducible refine keeps_next ?_
    | with_reducible refine kept_ite (fun _ => ?_) (fun _ => ?_)
    | split
    | dsimp only
    | (dsimp +zetaDelta only; split)

theorem execPioSyncTimeReached_kept {o : State} {n : Fin 6} {g : Fin 4} {s : State} (h : Kept o s) : Keeps o (execPioSyncTimeReached n g s) := by
  unfold execPioSyncTimeReached
  repeat' first
    | with_reducible assumption
    | with_reducible exact rfl
    | with_reducible refine State.setGroup_kept ?_
    | with_reducible refine State.put_kept ?_
    | with_reducible refine State.syncNow_kept ?_
    | with_reducible refine keeps_next ?_
    | (extract_lets +onlyGivenNames s; refine kept_have (o := o) (x := s) ?_ (fun h => ?_); (on_goal 1 => unfold s; clear s); (on_goal 2 => try clear_value s))
    | (extract_lets +onlyGivenNames x; first | (have _p : PldSt := x; clear _p; unfold x) | skip)
    | simp only [↓kept_mk_iff]
    | with_reducible refine kept_ite (fun _ => ?_) (fun _ => ?_)
    | split
    | dsimp only
    | (dsimp +zetaDelta only; split)

theorem State.unSync_kept {o : State} {s : State} {n : Nat} {g : Nat} {e : Nat} (h : Kept o s) : Kept o (State.unSync s n g e) := by
  unfold State.unSync
  repeat' first
    | with_reducible assumption
    | with_reducible exact rfl
    | with_reducible refine State.setGroup_kept ?_
    | with_reducible refine State.raise_kept ?_
    | (extract_lets +onlyGivenNames s; refine kept_have (o := o) (x := s) ?_ (fun h => ?_); (on_goal 1 => unfold s; clear s); (on_goal 2 => try clear_value s))
    | (extract_lets +onlyGivenNames x; first | (have _p : PldSt := x; clear _p; unfold x) | skip)
    | simp only [↓kept_mk_iff]
    | with_reducible refine kept_ite (fun _ => ?_) (fun _ => ?_)
    | split
    | dsimp only
    | (dsimp +zetaDelta only; split)

theorem State.haltWrite_kept {o : State} {s : State} {n : Nat} {g : Nat} {mask : Nat} {cuts : List (Nat × Nat × List Bool)} (h : Kept o s) : Kept o (State.haltWrite s n g mask cuts) := by
  unfold State.haltWrite
  repeat' first
    | with_reducible assumption
    | with_reducible exact rfl
    | with_reducible refine State.each_kept ?_ (fun s x h => ?_)
    | with_reducible refine State.payFails_kept ?_
    | with_reducible refine State.haltEngine_kept ?_
    | with_reducible refine State.shiftRun_kept ?_
    | with_reducible refine State.put_kept ?_
    | with_reducible refine State.unSync_kept ?_
    | (extract_lets +onlyGivenNames s; refine kept_have (o := o) (x := s) ?_ (fun h => ?_); (on_goal 1 => unfold s; clear s); (on_goal 2 => try clear_value s))
    | (extract_lets +onlyGivenNames x; first | (have _p : PldSt := x; clear _p; unfold x) | skip)
    | simp only [↓kept_mk_iff]
    | with_reducible refine kept_ite (fun _ => ?_) (fun _ => ?_)
    | split
    | dsimp only
    | (dsimp +zetaDelta only; split)

theorem execPioHaltCmd_kept {o : State} {n : Fin 6} {g : Fin 4} {mask : BitVec 8} {cuts : List (Nat × Nat × List Bool)} {s : State} (h : Kept o s) : Keeps o (execPioHaltCmd n g mask cuts s) := by
  unfold execPioHaltCmd
  repeat' first
    | with_reducible assumption
    | with_reducible refine State.haltWrite_kept ?_
    | with_reducible refine keeps_next ?_
    | with_reducible refine kept_ite (fun _ => ?_) (fun _ => ?_)
    | split
    | dsimp only
    | (dsimp +zetaDelta only; split)

theorem execEvfSet_kept {o : State} {n : Fin 6} {g : Fin 4} {val : Word} {s : State} (h : Kept o s) : Keeps o (execEvfSet n g val s) := by
  unfold execEvfSet
  repeat' first
    | with_reducible assumption
    | with_reducible refine State.orBits_kept ?_
    | with_reducible refine keeps_next ?_
    | with_reducible refine kept_ite (fun _ => ?_) (fun _ => ?_)
    | split
    | dsimp only
    | (dsimp +zetaDelta only; split)

theorem execEvfClr_kept {o : State} {n : Fin 6} {g : Fin 4} {val : Word} {s : State} (h : Kept o s) : Keeps o (execEvfClr n g val s) := by
  unfold execEvfClr
  repeat' first
    | with_reducible assumption
    | with_reducible refine State.dropBits_kept ?_
    | with_reducible refine keeps_next ?_
    | with_reducible refine kept_ite (fun _ => ?_) (fun _ => ?_)
    | split
    | dsimp only
    | (dsimp +zetaDelta only; split)

theorem State.writeProg_kept {o : State} {s : State} {n : Nat} {g : Nat} {w : Nat} {v : Nat} (h : Kept o s) : Kept o (State.writeProg s n g w v) := by
  unfold State.writeProg
  repeat' first
    | with_reducible assumption
    | with_reducible exact rfl
    | with_reducible refine State.put_kept ?_
    | with_reducible refine State.raise_kept ?_
    | (extract_lets +onlyGivenNames s; refine kept_have (o := o) (x := s) ?_ (fun h => ?_); (on_goal 1 => unfold s; clear s); (on_goal 2 => try clear_value s))
    | (extract_lets +onlyGivenNames x; first | (have _p : PldSt := x; clear _p; unfold x) | skip)
    | simp only [↓kept_mk_iff]
    | with_reducible refine kept_ite (fun _ => ?_) (fun _ => ?_)
    | split
    | dsimp only
    | (dsimp +zetaDelta only; split)

theorem execPioProgWrite_kept {o : State} {n : Fin 6} {g : Fin 4} {w : Fin 128} {val : Word} {s : State} (h : Kept o s) : Keeps o (execPioProgWrite n g w val s) := by
  unfold execPioProgWrite
  repeat' first
    | with_reducible assumption
    | with_reducible refine State.writeProg_kept ?_
    | with_reducible refine keeps_next ?_
    | with_reducible refine kept_ite (fun _ => ?_) (fun _ => ?_)
    | split
    | dsimp only
    | (dsimp +zetaDelta only; split)

end Sys2Proof.Machine
end

