-- ==== Sys2Proof/Laws/KeptVision.lean ====
section
/-! SUPPORT. What the operations of Machine/Vision.lean keep (Laws/Kept.lean). -/

set_option linter.all false

namespace Sys2Proof.Machine

theorem State.setCam_kept {o : State} {s : State} {c : Nat} {x : VisCam} (h : Kept o s) : Kept o (State.setCam s c x) := by
  unfold State.setCam
  repeat' first
    | with_reducible assumption
    | with_reducible exact rfl
    | with_reducible refine State.put_kept ?_
    | (extract_lets +onlyGivenNames s; refine kept_have (o := o) (x := s) ?_ (fun h => ?_); (on_goal 1 => unfold s; clear s); (on_goal 2 => try clear_value s))
    | (extract_lets +onlyGivenNames x; first | (have _p : PldSt := x; clear _p; unfold x) | skip)
    | simp only [↓kept_mk_iff]
    | dsimp only

theorem State.showVis_kept {o : State} {s : State} (h : Kept o s) : Kept o (State.showVis s) := by
  unfold State.showVis
  repeat' first
    | with_reducible assumption
    | with_reducible refine State.put_kept ?_
    | (extract_lets +onlyGivenNames s; refine kept_have (o := o) (x := s) ?_ (fun h => ?_); (on_goal 1 => unfold s; clear s); (on_goal 2 => try clear_value s))
    | (extract_lets +onlyGivenNames x; first | (have _p : PldSt := x; clear _p; unfold x) | skip)
    | dsimp only

theorem State.showAdmit_kept {o : State} {s : State} (h : Kept o s) : Kept o (State.showAdmit s) := by
  unfold State.showAdmit
  repeat' first
    | with_reducible assumption
    | with_reducible refine State.put_kept ?_
    | dsimp only

theorem State.setCamState_kept {o : State} {s : State} {c : Nat} {st : Nat} (h : Kept o s) : Kept o (State.setCamState s c st) := by
  unfold State.setCamState
  repeat' first
    | with_reducible assumption
    | with_reducible refine State.put_kept ?_
    | with_reducible refine State.showAdmit_kept ?_
    | dsimp only

theorem State.startCam_kept {o : State} {s : State} {c : Nat} (h : Kept o s) : Kept o (State.startCam s c) := by
  unfold State.startCam
  repeat' first
    | with_reducible assumption
    | with_reducible exact rfl
    | with_reducible refine State.emit_kept ?_
    | with_reducible refine State.showVis_kept ?_
    | with_reducible refine State.setCamState_kept ?_
    | with_reducible refine State.raise_kept ?_
    | with_reducible refine State.put_kept ?_
    | (extract_lets +onlyGivenNames s; refine kept_have (o := o) (x := s) ?_ (fun h => ?_); (on_goal 1 => unfold s; clear s); (on_goal 2 => try clear_value s))
    | (extract_lets +onlyGivenNames x; first | (have _p : PldSt := x; clear _p; unfold x) | skip)
    | simp only [↓kept_mk_iff]
    | with_reducible refine kept_ite (fun _ => ?_) (fun _ => ?_)
    | split
    | dsimp only
    | (dsimp +zetaDelta only; split)

theorem State.returnLoans_kept {o : State} {s : State} {ep : Nat} (h : Kept o s) : Kept o (State.returnLoans s ep) := by
  unfold State.returnLoans
  repeat' first
    | with_reducible assumption
    | with_reducible exact rfl
    | with_reducible refine State.failWork_kept ?_
    | (extract_lets +onlyGivenNames s; refine kept_have (o := o) (x := s) ?_ (fun h => ?_); (on_goal 1 => unfold s; clear s); (on_goal 2 => try clear_value s))
    | (extract_lets +onlyGivenNames x; first | (have _p : PldSt := x; clear _p; unfold x) | skip)
    | simp only [↓kept_mk_iff]
    | with_reducible refine kept_foldl ?_ (fun s x h => ?_)
    | with_reducible refine kept_foldl_fst ?_ (fun p x h => ?_)
    | with_reducible refine kept_ite (fun _ => ?_) (fun _ => ?_)
    | split
    | dsimp only
    | (dsimp +zetaDelta only; split)

theorem State.startDirect_kept {o : State} {s : State} {c : Nat} (h : Kept o s) : Kept o (State.startDirect s c) := by
  unfold State.startDirect
  repeat' first
    | with_reducible assumption
    | with_reducible exact rfl
    | with_reducible refine State.setCam_kept ?_
    | with_reducible refine State.emit_kept ?_
    | (extract_lets +onlyGivenNames s; refine kept_have (o := o) (x := s) ?_ (fun h => ?_); (on_goal 1 => unfold s; clear s); (on_goal 2 => try clear_value s))
    | (extract_lets +onlyGivenNames x; first | (have _p : PldSt := x; clear _p; unfold x) | skip)
    | simp only [↓kept_mk_iff]
    | with_reducible refine kept_ite (fun _ => ?_) (fun _ => ?_)
    | split
    | dsimp only
    | (dsimp +zetaDelta only; split)

theorem State.dropCam_kept {o : State} {s : State} {c : Nat} (h : Kept o s) : Kept o (State.dropCam s c) := by
  unfold State.dropCam
  repeat' first
    | with_reducible assumption
    | with_reducible exact rfl
    | with_reducible refine State.returnLoans_kept ?_
    | with_reducible refine State.each_kept ?_ (fun s x h => ?_)
    | with_reducible refine State.setCam_kept ?_
    | with_reducible refine State.startDirect_kept ?_
    | (extract_lets +onlyGivenNames s; refine kept_have (o := o) (x := s) ?_ (fun h => ?_); (on_goal 1 => unfold s; clear s); (on_goal 2 => try clear_value s))
    | (extract_lets +onlyGivenNames x; first | (have _p : PldSt := x; clear _p; unfold x) | skip)
    | simp only [↓kept_mk_iff]
    | with_reducible refine kept_ite (fun _ => ?_) (fun _ => ?_)
    | split
    | dsimp only
    | (dsimp +zetaDelta only; split)

theorem State.stopCam_kept {o : State} {s : State} {c : Nat} (h : Kept o s) : Kept o (State.stopCam s c) := by
  unfold State.stopCam
  repeat' first
    | with_reducible assumption
    | with_reducible exact rfl
    | with_reducible refine State.put_kept ?_
    | with_reducible refine State.setCamState_kept ?_
    | with_reducible refine State.dropCam_kept ?_
    | with_reducible refine State.reannounce_kept ?_
    | with_reducible refine State.showVis_kept ?_
    | (extract_lets +onlyGivenNames s; refine kept_have (o := o) (x := s) ?_ (fun h => ?_); (on_goal 1 => unfold s; clear s); (on_goal 2 => try clear_value s))
    | (extract_lets +onlyGivenNames x; first | (have _p : PldSt := x; clear _p; unfold x) | skip)
    | simp only [↓kept_mk_iff]
    | dsimp only

theorem State.camFields_kept {o : State} {s : State} {c : Nat} {v : Nat} (h : Kept o s) : Kept o (State.camFields s c v) := by
  unfold State.camFields
  repeat' first
    | with_reducible assumption
    | with_reducible refine State.put_kept ?_
    | (extract_lets +onlyGivenNames s; refine kept_have (o := o) (x := s) ?_ (fun h => ?_); (on_goal 1 => unfold s; clear s); (on_goal 2 => try clear_value s))
    | (extract_lets +onlyGivenNames x; first | (have _p : PldSt := x; clear _p; unfold x) | skip)
    | dsimp only

theorem State.writeCamCfg_kept {o : State} {s : State} {c : Nat} {v : Nat} (h : Kept o s) : Kept o (State.writeCamCfg s c v) := by
  unfold State.writeCamCfg
  repeat' first
    | with_reducible assumption
    | with_reducible exact rfl
    | with_reducible refine State.camFields_kept ?_
    | with_reducible refine State.startCam_kept ?_
    | with_reducible refine State.stopCam_kept ?_
    | with_reducible refine State.put_kept ?_
    | with_reducible refine State.setCam_kept ?_
    | with_reducible refine State.raise_kept ?_
    | (extract_lets +onlyGivenNames s; refine kept_have (o := o) (x := s) ?_ (fun h => ?_); (on_goal 1 => unfold s; clear s); (on_goal 2 => try clear_value s))
    | (extract_lets +onlyGivenNames x; first | (have _p : PldSt := x; clear _p; unfold x) | skip)
    | simp only [↓kept_mk_iff]
    | with_reducible refine kept_ite (fun _ => ?_) (fun _ => ?_)
    | split
    | dsimp only
    | (dsimp +zetaDelta only; split)

theorem execCamEnable_kept {o : State} {c : Fin 8} {val : Word} {s : State} (h : Kept o s) : Keeps o (execCamEnable c val s) := by
  unfold execCamEnable
  repeat' first
    | with_reducible assumption
    | with_reducible exact rfl
    | with_reducible refine State.writeCamCfg_kept ?_
    | with_reducible refine keeps_next ?_
    | (extract_lets +onlyGivenNames s; refine kept_have (o := o) (x := s) ?_ (fun h => ?_); (on_goal 1 => unfold s; clear s); (on_goal 2 => try clear_value s))
    | (extract_lets +onlyGivenNames x; first | (have _p : PldSt := x; clear _p; unfold x) | skip)
    | simp only [↓kept_mk_iff]
    | with_reducible refine kept_ite (fun _ => ?_) (fun _ => ?_)
    | split
    | dsimp only
    | (dsimp +zetaDelta only; split)

theorem execCamDisable_kept {o : State} {c : Fin 8} {val : Word} {s : State} (h : Kept o s) : Keeps o (execCamDisable c val s) := by
  unfold execCamDisable
  repeat' first
    | with_reducible assumption
    | with_reducible exact rfl
    | with_reducible refine State.writeCamCfg_kept ?_
    | with_reducible refine keeps_next ?_
    | (extract_lets +onlyGivenNames s; refine kept_have (o := o) (x := s) ?_ (fun h => ?_); (on_goal 1 => unfold s; clear s); (on_goal 2 => try clear_value s))
    | (extract_lets +onlyGivenNames x; first | (have _p : PldSt := x; clear _p; unfold x) | skip)
    | simp only [↓kept_mk_iff]
    | with_reducible refine kept_ite (fun _ => ?_) (fun _ => ?_)
    | split
    | dsimp only
    | (dsimp +zetaDelta only; split)

theorem State.failStart_kept {o : State} {s : State} {c : Nat} {err : Nat} (h : Kept o s) : Kept o (State.failStart s c err) := by
  unfold State.failStart
  repeat' first
    | with_reducible assumption
    | with_reducible exact rfl
    | with_reducible refine State.put_kept ?_
    | with_reducible refine State.stopCam_kept ?_
    | (extract_lets +onlyGivenNames s; refine kept_have (o := o) (x := s) ?_ (fun h => ?_); (on_goal 1 => unfold s; clear s); (on_goal 2 => try clear_value s))
    | (extract_lets +onlyGivenNames x; first | (have _p : PldSt := x; clear _p; unfold x) | skip)
    | simp only [↓kept_mk_iff]
    | dsimp only

theorem execCamIdReadDone_kept {o : State} {c : Fin 8} {ack : Bool} {value : Nat} {s : State} (h : Kept o s) : Keeps o (execCamIdReadDone c ack value s) := by
  unfold execCamIdReadDone
  repeat' first
    | with_reducible assumption
    | with_reducible exact rfl
    | with_reducible refine State.emit_kept ?_
    | with_reducible refine State.failStart_kept ?_
    | with_reducible refine keeps_next ?_
    | (extract_lets +onlyGivenNames s; refine kept_have (o := o) (x := s) ?_ (fun h => ?_); (on_goal 1 => unfold s; clear s); (on_goal 2 => try clear_value s))
    | (extract_lets +onlyGivenNames x; first | (have _p : PldSt := x; clear _p; unfold x) | skip)
    | simp only [↓kept_mk_iff]
    | with_reducible refine kept_foldl ?_ (fun s x h => ?_)
    | with_reducible refine kept_foldl_fst ?_ (fun p x h => ?_)
    | with_reducible refine kept_ite (fun _ => ?_) (fun _ => ?_)
    | split
    | dsimp only
    | (dsimp +zetaDelta only; split)

theorem execCamInitDone_kept {o : State} {c : Fin 8} {ack : Bool} {s : State} (h : Kept o s) : Keeps o (execCamInitDone c ack s) := by
  unfold execCamInitDone
  repeat' first
    | with_reducible assumption
    | with_reducible refine State.reannounce_kept ?_
    | with_reducible refine State.showVis_kept ?_
    | with_reducible refine State.setCamState_kept ?_
    | with_reducible refine State.put_kept ?_
    | with_reducible refine State.failStart_kept ?_
    | with_reducible refine keeps_next ?_
    | (extract_lets +onlyGivenNames s; refine kept_have (o := o) (x := s) ?_ (fun h => ?_); (on_goal 1 => unfold s; clear s); (on_goal 2 => try clear_value s))
    | (extract_lets +onlyGivenNames x; first | (have _p : PldSt := x; clear _p; unfold x) | skip)
    | with_reducible refine kept_ite (fun _ => ?_) (fun _ => ?_)
    | split
    | dsimp only
    | (dsimp +zetaDelta only; split)

theorem State.camRecord_kept {o : State} {s : State} {c : Nat} {src : Nat} {info : List Nat} (h : Kept o s) : Kept o (State.camRecord s c src info) := by
  unfold State.camRecord
  repeat' first
    | with_reducible assumption
    | with_reducible refine State.stopCam_kept ?_
    | with_reducible refine State.recordWith_kept ?_
    | (extract_lets +onlyGivenNames s; refine kept_have (o := o) (x := s) ?_ (fun h => ?_); (on_goal 1 => unfold s; clear s); (on_goal 2 => try clear_value s))
    | (extract_lets +onlyGivenNames x; first | (have _p : PldSt := x; clear _p; unfold x) | skip)
    | with_reducible refine kept_ite (fun _ => ?_) (fun _ => ?_)
    | split
    | dsimp only
    | (dsimp +zetaDelta only; split)

theorem State.closeFrame_kept {o : State} {s : State} {c : Nat} {noFe : Bool} (h : Kept o s) : Kept o (State.closeFrame s c noFe) := by
  unfold State.closeFrame
  repeat' first
    | with_reducible assumption
    | with_reducible exact rfl
    | with_reducible refine State.setCamState_kept ?_
    | with_reducible refine State.setCam_kept ?_
    | with_reducible refine State.inc_kept ?_
    | with_reducible refine State.pendPrivate_kept ?_
    | (extract_lets +onlyGivenNames s; refine kept_have (o := o) (x := s) ?_ (fun h => ?_); (on_goal 1 => unfold s; clear s); (on_goal 2 => try clear_value s))
    | (extract_lets +onlyGivenNames x; first | (have _p : PldSt := x; clear _p; unfold x) | skip)
    | simp only [↓kept_mk_iff]
    | with_reducible refine kept_ite (fun _ => ?_) (fun _ => ?_)
    | split
    | dsimp only
    | (dsimp +zetaDelta only; split)

theorem State.sendWrite_kept {o : State} {s : State} {c : Nat} (h : Kept o s) : Kept o (State.sendWrite s c) := by
  unfold State.sendWrite
  repeat' first
    | with_reducible assumption
    | with_reducible exact rfl
    | with_reducible refine State.emit_kept ?_
    | (extract_lets +onlyGivenNames s; refine kept_have (o := o) (x := s) ?_ (fun h => ?_); (on_goal 1 => unfold s; clear s); (on_goal 2 => try clear_value s))
    | (extract_lets +onlyGivenNames x; first | (have _p : PldSt := x; clear _p; unfold x) | skip)
    | simp only [↓kept_mk_iff]
    | split
    | dsimp only
    | (dsimp +zetaDelta only; split)

theorem State.openWindow_kept {o : State} {s : State} {c : Nat} (h : Kept o s) : Kept o (State.openWindow s c) := by
  unfold State.openWindow
  repeat' first
    | with_reducible assumption
    | with_reducible exact rfl
    | with_reducible refine State.sendWrite_kept ?_
    | with_reducible refine State.setCam_kept ?_
    | with_reducible refine State.put_kept ?_
    | with_reducible refine State.inc_kept ?_
    | (extract_lets +onlyGivenNames s; refine kept_have (o := o) (x := s) ?_ (fun h => ?_); (on_goal 1 => unfold s; clear s); (on_goal 2 => try clear_value s))
    | (extract_lets +onlyGivenNames x; first | (have _p : PldSt := x; clear _p; unfold x) | skip)
    | simp only [↓kept_mk_iff]
    | with_reducible refine kept_ite (fun _ => ?_) (fun _ => ?_)
    | split
    | dsimp only
    | (dsimp +zetaDelta only; split)

theorem State.refuseFrame_kept {o : State} {s : State} {n : Nat} (h : Kept o s) : Kept o (State.refuseFrame s n) := by
  unfold State.refuseFrame
  repeat' first
    | with_reducible assumption
    | with_reducible exact rfl
    | with_reducible refine State.setCam_kept ?_
    | with_reducible refine State.showVis_kept ?_
    | with_reducible refine State.inc_kept ?_
    | with_reducible refine State.put_kept ?_
    | (extract_lets +onlyGivenNames s; refine kept_have (o := o) (x := s) ?_ (fun h => ?_); (on_goal 1 => unfold s; clear s); (on_goal 2 => try clear_value s))
    | (extract_lets +onlyGivenNames x; first | (have _p : PldSt := x; clear _p; unfold x) | skip)
    | simp only [↓kept_mk_iff]
    | dsimp only

theorem State.beginFrame_kept {o : State} {s : State} {n : Nat} {fn : Nat} (h : Kept o s) : Kept o (State.beginFrame s n fn) := by
  unfold State.beginFrame
  repeat' first
    | with_reducible assumption
    | with_reducible exact rfl
    | with_reducible refine State.setCam_kept ?_
    | with_reducible refine State.setCamState_kept ?_
    | with_reducible refine State.showVis_kept ?_
    | (extract_lets +onlyGivenNames s; refine kept_have (o := o) (x := s) ?_ (fun h => ?_); (on_goal 1 => unfold s; clear s); (on_goal 2 => try clear_value s))
    | (extract_lets +onlyGivenNames x; first | (have _p : PldSt := x; clear _p; unfold x) | skip)
    | simp only [↓kept_mk_iff]
    | with_reducible refine kept_ite (fun _ => ?_) (fun _ => ?_)
    | split
    | dsimp only
    | (dsimp +zetaDelta only; split)

theorem State.cutFrame_kept {o : State} {s : State} {n : Nat} (h : Kept o s) : Kept o (State.cutFrame s n) := by
  unfold State.cutFrame
  repeat' first
    | with_reducible assumption
    | with_reducible exact rfl
    | with_reducible refine State.closeFrame_kept ?_
    | (extract_lets +onlyGivenNames s; refine kept_have (o := o) (x := s) ?_ (fun h => ?_); (on_goal 1 => unfold s; clear s); (on_goal 2 => try clear_value s))
    | (extract_lets +onlyGivenNames x; first | (have _p : PldSt := x; clear _p; unfold x) | skip)
    | simp only [↓kept_mk_iff]
    | with_reducible refine kept_ite (fun _ => ?_) (fun _ => ?_)
    | split
    | dsimp only
    | (dsimp +zetaDelta only; split)

theorem State.startOfFrame_kept {o : State} {s : State} {n : Nat} {fn : Nat} (h : Kept o s) : Kept o (State.startOfFrame s n fn) := by
  unfold State.startOfFrame
  repeat' first
    | with_reducible assumption
    | with_reducible refine State.beginFrame_kept ?_
    | with_reducible refine State.refuseFrame_kept ?_
    | with_reducible refine State.openWindow_kept ?_
    | with_reducible refine State.pendPrivate_kept ?_
    | (extract_lets +onlyGivenNames s; refine kept_have (o := o) (x := s) ?_ (fun h => ?_); (on_goal 1 => unfold s; clear s); (on_goal 2 => try clear_value s))
    | (extract_lets +onlyGivenNames x; first | (have _p : PldSt := x; clear _p; unfold x) | skip)
    | with_reducible refine kept_ite (fun _ => ?_) (fun _ => ?_)
    | split
    | dsimp only
    | (dsimp +zetaDelta only; split)

theorem execCsiFrameStart_kept {o : State} {c : Fin 8} {vc : Fin 4} {fn : BitVec 16} {s : State} (h : Kept o s) : Keeps o (execCsiFrameStart c vc fn s) := by
  unfold execCsiFrameStart
  repeat' first
    | with_reducible assumption
    | with_reducible exact rfl
    | with_reducible refine State.startOfFrame_kept ?_
    | with_reducible refine State.stopCam_kept ?_
    | with_reducible refine State.cutFrame_kept ?_
    | with_reducible refine keeps_next ?_
    | (extract_lets +onlyGivenNames s; refine kept_have (o := o) (x := s) ?_ (fun h => ?_); (on_goal 1 => unfold s; clear s); (on_goal 2 => try clear_value s))
    | (extract_lets +onlyGivenNames x; first | (have _p : PldSt := x; clear _p; unfold x) | skip)
    | simp only [↓kept_mk_iff]
    | with_reducible refine kept_ite (fun _ => ?_) (fun _ => ?_)
    | split
    | dsimp only
    | (dsimp +zetaDelta only; split)

theorem State.keepLine_kept {o : State} {s : State} {n : Nat} {frame : Nat} {bytes : List Byte} {crcOk : Bool} (h : Kept o s) : Kept o (State.keepLine s n frame bytes crcOk) := by
  unfold State.keepLine
  repeat' first
    | with_reducible assumption
    | with_reducible exact rfl
    | with_reducible refine State.inc_kept ?_
    | with_reducible refine State.put_kept ?_
    | with_reducible refine State.setCam_kept ?_
    | with_reducible refine State.camRecord_kept ?_
    | (extract_lets +onlyGivenNames s; refine kept_have (o := o) (x := s) ?_ (fun h => ?_); (on_goal 1 => unfold s; clear s); (on_goal 2 => try clear_value s))
    | (extract_lets +onlyGivenNames x; first | (have _p : PldSt := x; clear _p; unfold x) | skip)
    | simp only [↓kept_mk_iff]
    | with_reducible refine kept_ite (fun _ => ?_) (fun _ => ?_)
    | split
    | dsimp only
    | (dsimp +zetaDelta only; split)

theorem State.takeLine_kept {o : State} {s : State} {n : Nat} {f : VisFrame} {dt : Nat} {bytes : List Byte} {crcOk : Bool} (h : Kept o s) : Kept o (State.takeLine s n f dt bytes crcOk) := by
  unfold State.takeLine
  repeat' first
    | with_reducible assumption
    | with_reducible exact rfl
    | with_reducible refine State.keepLine_kept ?_
    | with_reducible refine State.camRecord_kept ?_
    | with_reducible refine State.inc_kept ?_
    | with_reducible refine State.setCam_kept ?_
    | (extract_lets +onlyGivenNames s; refine kept_have (o := o) (x := s) ?_ (fun h => ?_); (on_goal 1 => unfold s; clear s); (on_goal 2 => try clear_value s))
    | (extract_lets +onlyGivenNames x; first | (have _p : PldSt := x; clear _p; unfold x) | skip)
    | simp only [↓kept_mk_iff]
    | with_reducible refine kept_ite (fun _ => ?_) (fun _ => ?_)
    | split
    | dsimp only
    | (dsimp +zetaDelta only; split)

theorem execCsiLine_kept {o : State} {c : Fin 8} {vc : Fin 4} {dt : Nat} {bytes : List Byte} {headerOk : Bool} {crcOk : Bool} {s : State} (h : Kept o s) : Keeps o (execCsiLine c vc dt bytes headerOk crcOk s) := by
  unfold execCsiLine
  repeat' first
    | with_reducible assumption
    | with_reducible exact rfl
    | with_reducible refine State.takeLine_kept ?_
    | with_reducible refine State.inc_kept ?_
    | with_reducible refine keeps_next ?_
    | (extract_lets +onlyGivenNames s; refine kept_have (o := o) (x := s) ?_ (fun h => ?_); (on_goal 1 => unfold s; clear s); (on_goal 2 => try clear_value s))
    | (extract_lets +onlyGivenNames x; first | (have _p : PldSt := x; clear _p; unfold x) | skip)
    | simp only [↓kept_mk_iff]
    | with_reducible refine kept_ite (fun _ => ?_) (fun _ => ?_)
    | split
    | dsimp only
    | (dsimp +zetaDelta only; split)

theorem State.settingsSet_kept {o : State} {s : State} {c : Nat} (h : Kept o s) : Kept o (State.settingsSet s c) := by
  unfold State.settingsSet
  repeat' first
    | with_reducible assumption
    | with_reducible exact rfl
    | with_reducible refine State.setCam_kept ?_
    | with_reducible refine State.showVis_kept ?_
    | with_reducible refine State.commitInternal_kept ?_
    | with_reducible refine State.inc_kept ?_
    | with_reducible refine State.failWork_kept ?_
    | (extract_lets +onlyGivenNames s; refine kept_have (o := o) (x := s) ?_ (fun h => ?_); (on_goal 1 => unfold s; clear s); (on_goal 2 => try clear_value s))
    | (extract_lets +onlyGivenNames x; first | (have _p : PldSt := x; clear _p; unfold x) | skip)
    | simp only [↓kept_mk_iff]
    | with_reducible refine kept_ite (fun _ => ?_) (fun _ => ?_)
    | split
    | dsimp only
    | (dsimp +zetaDelta only; split)

theorem execVisSettingsSet_kept {o : State} {c : Fin 8} {s : State} (h : Kept o s) : Keeps o (execVisSettingsSet c s) := by
  unfold execVisSettingsSet
  repeat' first
    | with_reducible assumption
    | with_reducible refine State.settingsSet_kept ?_
    | with_reducible refine keeps_next ?_
    | dsimp only

theorem State.cciFault_kept {o : State} {s : State} {c : Nat} {w : CciWrite} (h : Kept o s) : Kept o (State.cciFault s c w) := by
  unfold State.cciFault
  repeat' first
    | with_reducible assumption
    | with_reducible exact rfl
    | with_reducible refine State.camRecord_kept ?_
    | with_reducible refine State.setCam_kept ?_
    | with_reducible refine State.inc_kept ?_
    | (extract_lets +onlyGivenNames s; refine kept_have (o := o) (x := s) ?_ (fun h => ?_); (on_goal 1 => unfold s; clear s); (on_goal 2 => try clear_value s))
    | (extract_lets +onlyGivenNames x; first | (have _p : PldSt := x; clear _p; unfold x) | skip)
    | simp only [↓kept_mk_iff]
    | dsimp only

theorem State.nextCci_kept {o : State} {s : State} {c : Nat} (h : Kept o s) : Kept o (State.nextCci s c) := by
  unfold State.nextCci
  repeat' first
    | with_reducible assumption
    | with_reducible refine State.sendWrite_kept ?_
    | with_reducible refine State.startDirect_kept ?_
    | with_reducible refine kept_ite (fun _ => ?_) (fun _ => ?_)
    | split
    | dsimp only
    | (dsimp +zetaDelta only; split)

theorem execCciWriteDone_kept {o : State} {c : Fin 8} {ack : Bool} {s : State} (h : Kept o s) : Keeps o (execCciWriteDone c ack s) := by
  unfold execCciWriteDone
  repeat' first
    | with_reducible assumption
    | with_reducible exact rfl
    | with_reducible refine State.cciFault_kept ?_
    | with_reducible refine State.emit_kept ?_
    | with_reducible refine State.setCam_kept ?_
    | with_reducible refine State.nextCci_kept ?_
    | with_reducible refine keeps_next ?_
    | (extract_lets +onlyGivenNames s; refine kept_have (o := o) (x := s) ?_ (fun h => ?_); (on_goal 1 => unfold s; clear s); (on_goal 2 => try clear_value s))
    | (extract_lets +onlyGivenNames x; first | (have _p : PldSt := x; clear _p; unfold x) | skip)
    | simp only [↓kept_mk_iff]
    | with_reducible refine kept_ite (fun _ => ?_) (fun _ => ?_)
    | split
    | dsimp only
    | (dsimp +zetaDelta only; split)

theorem execCciLatchPoint_kept {o : State} {c : Fin 8} {frame : Nat} {s : State} (h : Kept o s) : Keeps o (execCciLatchPoint c frame s) := by
  unfold execCciLatchPoint
  repeat' first
    | with_reducible assumption
    | with_reducible exact rfl
    | with_reducible refine State.nextCci_kept ?_
    | with_reducible refine State.setCam_kept ?_
    | with_reducible refine State.cciFault_kept ?_
    | with_reducible refine keeps_next ?_
    | (extract_lets +onlyGivenNames s; refine kept_have (o := o) (x := s) ?_ (fun h => ?_); (on_goal 1 => unfold s; clear s); (on_goal 2 => try clear_value s))
    | (extract_lets +onlyGivenNames x; first | (have _p : PldSt := x; clear _p; unfold x) | skip)
    | simp only [↓kept_mk_iff]
    | with_reducible refine kept_foldl ?_ (fun s x h => ?_)
    | with_reducible refine kept_foldl_fst ?_ (fun p x h => ?_)
    | with_reducible refine kept_ite (fun _ => ?_) (fun _ => ?_)
    | split
    | dsimp only
    | (dsimp +zetaDelta only; split)

theorem State.writeCciCmd_kept {o : State} {s : State} {c : Nat} {v : Nat} (h : Kept o s) : Kept o (State.writeCciCmd s c v) := by
  unfold State.writeCciCmd
  repeat' first
    | with_reducible assumption
    | with_reducible exact rfl
    | with_reducible refine State.setCam_kept ?_
    | with_reducible refine State.startDirect_kept ?_
    | with_reducible refine State.put_kept ?_
    | with_reducible refine State.raise_kept ?_
    | (extract_lets +onlyGivenNames s; refine kept_have (o := o) (x := s) ?_ (fun h => ?_); (on_goal 1 => unfold s; clear s); (on_goal 2 => try clear_value s))
    | (extract_lets +onlyGivenNames x; first | (have _p : PldSt := x; clear _p; unfold x) | skip)
    | simp only [↓kept_mk_iff]
    | with_reducible refine kept_ite (fun _ => ?_) (fun _ => ?_)
    | split
    | dsimp only
    | (dsimp +zetaDelta only; split)

theorem execCciDirectCmd_kept {o : State} {c : Fin 8} {val : Word} {s : State} (h : Kept o s) : Keeps o (execCciDirectCmd c val s) := by
  unfold execCciDirectCmd
  repeat' first
    | with_reducible assumption
    | with_reducible refine State.writeCciCmd_kept ?_
    | with_reducible refine keeps_next ?_
    | with_reducible refine kept_ite (fun _ => ?_) (fun _ => ?_)
    | split
    | dsimp only
    | (dsimp +zetaDelta only; split)

theorem execCciDirectDone_kept {o : State} {c : Fin 8} {ack : Bool} {data : Byte} {s : State} (h : Kept o s) : Keeps o (execCciDirectDone c ack data s) := by
  unfold execCciDirectDone
  repeat' first
    | with_reducible assumption
    | with_reducible exact rfl
    | with_reducible refine State.setCam_kept ?_
    | with_reducible refine State.pendPrivate_kept ?_
    | with_reducible refine State.nextCci_kept ?_
    | with_reducible refine State.put_kept ?_
    | with_reducible refine keeps_next ?_
    | (extract_lets +onlyGivenNames s; refine kept_have (o := o) (x := s) ?_ (fun h => ?_); (on_goal 1 => unfold s; clear s); (on_goal 2 => try clear_value s))
    | (extract_lets +onlyGivenNames x; first | (have _p : PldSt := x; clear _p; unfold x) | skip)
    | simp only [↓kept_mk_iff]
    | with_reducible refine kept_ite (fun _ => ?_) (fun _ => ?_)
    | split
    | dsimp only
    | (dsimp +zetaDelta only; split)

end Sys2Proof.Machine
end

