-- ==== Sys2Proof/Laws/KeptTwin.lean ====
section
/-! SUPPORT. What the operations of Machine/Twin.lean keep (Laws/Kept.lean). -/

set_option linter.all false

namespace Sys2Proof.Machine

theorem State.sendTwin_kept {o : State} {s : State} {kind : Nat} {words : List Nat} (h : Kept o s) : Kept o (State.sendTwin s kind words) := by
  unfold State.sendTwin
  repeat' first
    | with_reducible assumption
    | with_reducible exact rfl
    | with_reducible refine State.bumpTwin_kept ?_
    | with_reducible refine State.sendOn_kept ?_
    | (extract_lets +onlyGivenNames s; refine kept_have (o := o) (x := s) ?_ (fun h => ?_); (on_goal 1 => unfold s; clear s); (on_goal 2 => try clear_value s))
    | (extract_lets +onlyGivenNames x; first | (have _p : PldSt := x; clear _p; unfold x) | skip)
    | simp only [↓kept_mk_iff]
    | with_reducible refine kept_ite (fun _ => ?_) (fun _ => ?_)
    | split
    | dsimp only
    | (dsimp +zetaDelta only; split)

theorem State.setRole_kept {o : State} {s : State} {r : TwinRole} (h : Kept o s) : Kept o (State.setRole s r) := by
  unfold State.setRole
  repeat' first
    | with_reducible assumption
    | with_reducible exact rfl
    | with_reducible refine State.put_kept ?_
    | with_reducible refine State.showHealth_kept ?_
    | (extract_lets +onlyGivenNames s; refine kept_have (o := o) (x := s) ?_ (fun h => ?_); (on_goal 1 => unfold s; clear s); (on_goal 2 => try clear_value s))
    | (extract_lets +onlyGivenNames x; first | (have _p : PldSt := x; clear _p; unfold x) | skip)
    | simp only [↓kept_mk_iff]
    | dsimp only

theorem State.sendCopy_kept {o : State} {s : State} {body : CopyBody} {ckpt : Bool} (h : Kept o s) : Kept o (State.sendCopy s body ckpt) := by
  unfold State.sendCopy
  repeat' first
    | with_reducible assumption
    | with_reducible exact rfl
    | with_reducible refine State.sendOn_kept ?_
    | with_reducible refine State.bumpTwin_kept ?_
    | (extract_lets +onlyGivenNames s; refine kept_have (o := o) (x := s) ?_ (fun h => ?_); (on_goal 1 => unfold s; clear s); (on_goal 2 => try clear_value s))
    | (extract_lets +onlyGivenNames x; first | (have _p : PldSt := x; clear _p; unfold x) | skip)
    | simp only [↓kept_mk_iff]
    | dsimp only

theorem State.rangeWrites_kept {o : State} {s : State} {r : Nat} {a2 : Nat} {a3 : Nat} {a4 : List Byte} (h : Kept o s) : Kept o (State.rangeWrites s r a2 a3 a4) := by
  induction a2 generalizing s a3 a4 with
  | zero =>
    unfold State.rangeWrites
    repeat' first
      | with_reducible assumption
      | with_reducible exact rfl
      | with_reducible refine State.access_kept ?_
      | (extract_lets +onlyGivenNames s; refine kept_have (o := o) (x := s) ?_ (fun h => ?_); (on_goal 1 => unfold s; clear s); (on_goal 2 => try clear_value s))
      | (extract_lets +onlyGivenNames x; first | (have _p : PldSt := x; clear _p; unfold x) | skip)
      | simp only [↓kept_mk_iff]
      | with_reducible refine kept_ite (fun _ => ?_) (fun _ => ?_)
      | split
      | dsimp only
      | (dsimp +zetaDelta only; split)
  | succ k ih =>
    unfold State.rangeWrites
    repeat' first
      | with_reducible apply ih
      | with_reducible assumption
      | with_reducible exact rfl
      | with_reducible refine State.access_kept ?_
      | (extract_lets +onlyGivenNames s; refine kept_have (o := o) (x := s) ?_ (fun h => ?_); (on_goal 1 => unfold s; clear s); (on_goal 2 => try clear_value s))
      | (extract_lets +onlyGivenNames x; first | (have _p : PldSt := x; clear _p; unfold x) | skip)
      | simp only [↓kept_mk_iff]
      | with_reducible refine kept_ite (fun _ => ?_) (fun _ => ?_)
      | split
      | dsimp only
      | (dsimp +zetaDelta only; split)

theorem State.hostCheckpoint_kept {o : State} {s : State} {l' : List CopyBody} (h : Kept o s) : Kept o (State.hostCheckpoint s l') := by
  unfold State.hostCheckpoint
  repeat' first
    | with_reducible assumption
    | with_reducible exact rfl
    | with_reducible refine State.rangeWrites_kept ?_
    | (extract_lets +onlyGivenNames s; refine kept_have (o := o) (x := s) ?_ (fun h => ?_); (on_goal 1 => unfold s; clear s); (on_goal 2 => try clear_value s))
    | (extract_lets +onlyGivenNames x; first | (have _p : PldSt := x; clear _p; unfold x) | skip)
    | simp only [↓kept_mk_iff]
    | with_reducible refine kept_ite (fun _ => ?_) (fun _ => ?_)
    | split
    | dsimp only
    | (dsimp +zetaDelta only; split)

theorem State.sendCheckpoint_kept {o : State} {s : State} (h : Kept o s) : Kept o (State.sendCheckpoint s) := by
  unfold State.sendCheckpoint
  repeat' first
    | with_reducible assumption
    | with_reducible refine State.sendCopy_kept ?_
    | with_reducible refine State.hostCheckpoint_kept ?_
    | (extract_lets +onlyGivenNames s; refine kept_have (o := o) (x := s) ?_ (fun h => ?_); (on_goal 1 => unfold s; clear s); (on_goal 2 => try clear_value s))
    | (extract_lets +onlyGivenNames x; first | (have _p : PldSt := x; clear _p; unfold x) | skip)
    | with_reducible refine kept_foldl ?_ (fun s x h => ?_)
    | dsimp only

theorem execTwinCkptTimer_kept {o : State} {s : State} (h : Kept o s) : Keeps o (execTwinCkptTimer s) := by
  unfold execTwinCkptTimer
  repeat' first
    | with_reducible assumption
    | with_reducible refine State.sendCheckpoint_kept ?_
    | with_reducible refine keeps_next ?_
    | with_reducible refine kept_ite (fun _ => ?_) (fun _ => ?_)
    | split
    | dsimp only
    | (dsimp +zetaDelta only; split)

theorem execTwinCopyAck_kept {o : State} {seq : Nat} {s : State} (h : Kept o s) : Keeps o (execTwinCopyAck seq s) := by
  unfold execTwinCopyAck
  repeat' first
    | with_reducible assumption
    | with_reducible exact rfl
    | with_reducible refine State.commit_kept ?_
    | with_reducible refine State.put_kept ?_
    | with_reducible refine State.inc_kept ?_
    | with_reducible refine keeps_next ?_
    | (extract_lets +onlyGivenNames s; refine kept_have (o := o) (x := s) ?_ (fun h => ?_); (on_goal 1 => unfold s; clear s); (on_goal 2 => try clear_value s))
    | (extract_lets +onlyGivenNames x; first | (have _p : PldSt := x; clear _p; unfold x) | skip)
    | simp only [↓kept_mk_iff]
    | with_reducible refine kept_ite (fun _ => ?_) (fun _ => ?_)
    | split
    | dsimp only
    | (dsimp +zetaDelta only; split)

theorem State.startSync_kept {o : State} {s : State} (h : Kept o s) : Kept o (State.startSync s) := by
  unfold State.startSync
  repeat' first
    | with_reducible assumption
    | with_reducible exact rfl
    | with_reducible refine State.sendCheckpoint_kept ?_
    | with_reducible refine State.emit_kept ?_
    | with_reducible refine State.put_kept ?_
    | (extract_lets +onlyGivenNames s; refine kept_have (o := o) (x := s) ?_ (fun h => ?_); (on_goal 1 => unfold s; clear s); (on_goal 2 => try clear_value s))
    | (extract_lets +onlyGivenNames x; first | (have _p : PldSt := x; clear _p; unfold x) | skip)
    | simp only [↓kept_mk_iff]
    | with_reducible refine kept_foldl ?_ (fun s x h => ?_)
    | with_reducible refine kept_foldl_fst ?_ (fun p x h => ?_)
    | with_reducible refine kept_ite (fun _ => ?_) (fun _ => ?_)
    | split
    | dsimp only
    | (dsimp +zetaDelta only; split)

theorem State.checkHello_kept {o : State} {s : State} (h : Kept o s) : Kept o (State.checkHello s) := by
  unfold State.checkHello
  repeat' first
    | with_reducible assumption
    | with_reducible exact rfl
    | with_reducible refine State.record_kept ?_
    | with_reducible refine State.startSync_kept ?_
    | with_reducible refine State.put_kept ?_
    | (extract_lets +onlyGivenNames s; refine kept_have (o := o) (x := s) ?_ (fun h => ?_); (on_goal 1 => unfold s; clear s); (on_goal 2 => try clear_value s))
    | (extract_lets +onlyGivenNames x; first | (have _p : PldSt := x; clear _p; unfold x) | skip)
    | simp only [↓kept_mk_iff]
    | with_reducible refine kept_ite (fun _ => ?_) (fun _ => ?_)
    | split
    | dsimp only
    | (dsimp +zetaDelta only; split)

theorem execTwinPairingStart_kept {o : State} {s : State} (h : Kept o s) : Keeps o (execTwinPairingStart s) := by
  unfold execTwinPairingStart
  repeat' first
    | with_reducible assumption
    | with_reducible refine State.sendTwin_kept ?_
    | with_reducible refine State.checkHello_kept ?_
    | with_reducible refine keeps_next ?_
    | with_reducible refine kept_ite (fun _ => ?_) (fun _ => ?_)
    | split
    | dsimp only
    | (dsimp +zetaDelta only; split)

theorem execTwinHello_kept {o : State} {id : Nat} {slot : Nat} {role : Nat} {mode : Nat} {pairId : Nat} {epoch : Nat} {img : Nat} {s : State} (h : Kept o s) : Keeps o (execTwinHello id slot role mode pairId epoch img s) := by
  unfold execTwinHello
  repeat' first
    | with_reducible assumption
    | with_reducible exact rfl
    | with_reducible refine State.checkHello_kept ?_
    | with_reducible refine State.put_kept ?_
    | with_reducible refine keeps_next ?_
    | (extract_lets +onlyGivenNames s; refine kept_have (o := o) (x := s) ?_ (fun h => ?_); (on_goal 1 => unfold s; clear s); (on_goal 2 => try clear_value s))
    | (extract_lets +onlyGivenNames x; first | (have _p : PldSt := x; clear _p; unfold x) | skip)
    | simp only [↓kept_mk_iff]
    | with_reducible refine kept_ite (fun _ => ?_) (fun _ => ?_)
    | split
    | dsimp only
    | (dsimp +zetaDelta only; split)

theorem State.diverge_kept {o : State} {s : State} (h : Kept o s) : Kept o (State.diverge s) := by
  unfold State.diverge
  repeat' first
    | with_reducible assumption
    | with_reducible refine State.putLevel_kept ?_
    | with_reducible refine State.raise_kept ?_
    | with_reducible refine State.inc_kept ?_
    | with_reducible refine State.record_kept ?_
    | with_reducible refine kept_ite (fun _ => ?_) (fun _ => ?_)
    | split
    | dsimp only
    | (dsimp +zetaDelta only; split)

theorem State.resync_kept {o : State} {s : State} (h : Kept o s) : Kept o (State.resync s) := by
  unfold State.resync
  repeat' first
    | with_reducible assumption
    | with_reducible refine State.startSync_kept ?_
    | with_reducible refine kept_ite (fun _ => ?_) (fun _ => ?_)
    | split
    | dsimp only
    | (dsimp +zetaDelta only; split)

theorem State.compareDigests_kept {o : State} {s : State} (h : Kept o s) : Kept o (State.compareDigests s) := by
  unfold State.compareDigests
  repeat' first
    | with_reducible assumption
    | with_reducible exact rfl
    | with_reducible refine State.diverge_kept ?_
    | with_reducible refine State.put_kept ?_
    | (extract_lets +onlyGivenNames s; refine kept_have (o := o) (x := s) ?_ (fun h => ?_); (on_goal 1 => unfold s; clear s); (on_goal 2 => try clear_value s))
    | (extract_lets +onlyGivenNames x; first | (have _p : PldSt := x; clear _p; unfold x) | skip)
    | simp only [↓kept_mk_iff]
    | with_reducible refine kept_ite (fun _ => ?_) (fun _ => ?_)
    | split
    | dsimp only
    | (dsimp +zetaDelta only; split)

theorem execTwinEpochEnd_kept {o : State} {epoch : Nat} {s : State} (h : Kept o s) : Keeps o (execTwinEpochEnd epoch s) := by
  unfold execTwinEpochEnd
  repeat' first
    | with_reducible assumption
    | with_reducible exact rfl
    | with_reducible refine State.sendTwin_kept ?_
    | with_reducible refine State.compareDigests_kept ?_
    | with_reducible refine keeps_next ?_
    | (extract_lets +onlyGivenNames s; refine kept_have (o := o) (x := s) ?_ (fun h => ?_); (on_goal 1 => unfold s; clear s); (on_goal 2 => try clear_value s))
    | (extract_lets +onlyGivenNames x; first | (have _p : PldSt := x; clear _p; unfold x) | skip)
    | simp only [↓kept_mk_iff]
    | with_reducible refine kept_ite (fun _ => ?_) (fun _ => ?_)
    | split
    | dsimp only
    | (dsimp +zetaDelta only; split)

theorem execTwinDigest_kept {o : State} {epoch : Nat} {digest : Nat} {_health : Bool} {s : State} (h : Kept o s) : Keeps o (execTwinDigest epoch digest _health s) := by
  unfold execTwinDigest
  repeat' first
    | with_reducible assumption
    | with_reducible exact rfl
    | with_reducible refine State.compareDigests_kept ?_
    | with_reducible refine keeps_next ?_
    | (extract_lets +onlyGivenNames s; refine kept_have (o := o) (x := s) ?_ (fun h => ?_); (on_goal 1 => unfold s; clear s); (on_goal 2 => try clear_value s))
    | (extract_lets +onlyGivenNames x; first | (have _p : PldSt := x; clear _p; unfold x) | skip)
    | simp only [↓kept_mk_iff]
    | with_reducible refine kept_ite (fun _ => ?_) (fun _ => ?_)
    | split
    | dsimp only
    | (dsimp +zetaDelta only; split)

theorem execTwinDigestTimeout_kept {o : State} {s : State} (h : Kept o s) : Keeps o (execTwinDigestTimeout s) := by
  unfold execTwinDigestTimeout
  repeat' first
    | with_reducible assumption
    | with_reducible exact rfl
    | with_reducible refine State.diverge_kept ?_
    | with_reducible refine keeps_next ?_
    | (extract_lets +onlyGivenNames s; refine kept_have (o := o) (x := s) ?_ (fun h => ?_); (on_goal 1 => unfold s; clear s); (on_goal 2 => try clear_value s))
    | (extract_lets +onlyGivenNames x; first | (have _p : PldSt := x; clear _p; unfold x) | skip)
    | simp only [↓kept_mk_iff]
    | with_reducible refine kept_ite (fun _ => ?_) (fun _ => ?_)
    | split
    | dsimp only
    | (dsimp +zetaDelta only; split)

theorem State.twinReject_kept {o : State} {s : State} (h : Kept o s) : Kept o (State.twinReject s) := by
  unfold State.twinReject
  repeat' first
    | with_reducible assumption
    | with_reducible refine State.raise_kept ?_
    | dsimp only

theorem State.startTake_kept {o : State} {s : State} (h : Kept o s) : Kept o (State.startTake s) := by
  unfold State.startTake
  repeat' first
    | with_reducible assumption
    | with_reducible exact rfl
    | with_reducible refine State.sendTwin_kept ?_
    | (extract_lets +onlyGivenNames s; refine kept_have (o := o) (x := s) ?_ (fun h => ?_); (on_goal 1 => unfold s; clear s); (on_goal 2 => try clear_value s))
    | (extract_lets +onlyGivenNames x; first | (have _p : PldSt := x; clear _p; unfold x) | skip)
    | simp only [↓kept_mk_iff]
    | with_reducible refine kept_ite (fun _ => ?_) (fun _ => ?_)
    | split
    | dsimp only
    | (dsimp +zetaDelta only; split)

theorem State.writeTwinCtrl_kept {o : State} {s : State} {req : Requester} {v : Nat} (h : Kept o s) : Kept o (State.writeTwinCtrl s req v) := by
  unfold State.writeTwinCtrl
  repeat' first
    | with_reducible assumption
    | with_reducible refine State.startTake_kept ?_
    | with_reducible refine State.resync_kept ?_
    | with_reducible refine State.twinReject_kept ?_
    | (extract_lets +onlyGivenNames s; refine kept_have (o := o) (x := s) ?_ (fun h => ?_); (on_goal 1 => unfold s; clear s); (on_goal 2 => try clear_value s))
    | (extract_lets +onlyGivenNames x; first | (have _p : PldSt := x; clear _p; unfold x) | skip)
    | with_reducible refine kept_ite (fun _ => ?_) (fun _ => ?_)
    | split
    | dsimp only
    | (dsimp +zetaDelta only; split)

theorem execTwinTake_kept {o : State} {req : Requester} {val : Word} {s : State} (h : Kept o s) : Keeps o (execTwinTake req val s) := by
  unfold execTwinTake
  repeat' first
    | with_reducible assumption
    | with_reducible exact rfl
    | with_reducible refine State.writeTwinCtrl_kept ?_
    | with_reducible refine keeps_next ?_
    | (extract_lets +onlyGivenNames s; refine kept_have (o := o) (x := s) ?_ (fun h => ?_); (on_goal 1 => unfold s; clear s); (on_goal 2 => try clear_value s))
    | (extract_lets +onlyGivenNames x; first | (have _p : PldSt := x; clear _p; unfold x) | skip)
    | simp only [↓kept_mk_iff]
    | with_reducible refine kept_ite (fun _ => ?_) (fun _ => ?_)
    | split
    | dsimp only
    | (dsimp +zetaDelta only; split)

theorem execTwinResync_kept {o : State} {req : Requester} {val : Word} {s : State} (h : Kept o s) : Keeps o (execTwinResync req val s) := by
  unfold execTwinResync
  repeat' first
    | with_reducible assumption
    | with_reducible exact rfl
    | with_reducible refine State.writeTwinCtrl_kept ?_
    | with_reducible refine keeps_next ?_
    | (extract_lets +onlyGivenNames s; refine kept_have (o := o) (x := s) ?_ (fun h => ?_); (on_goal 1 => unfold s; clear s); (on_goal 2 => try clear_value s))
    | (extract_lets +onlyGivenNames x; first | (have _p : PldSt := x; clear _p; unfold x) | skip)
    | simp only [↓kept_mk_iff]
    | with_reducible refine kept_ite (fun _ => ?_) (fun _ => ?_)
    | split
    | dsimp only
    | (dsimp +zetaDelta only; split)

theorem State.giveUpPins_kept {o : State} {s : State} (h : Kept o s) : Kept o (State.giveUpPins s) := by
  unfold State.giveUpPins
  repeat' first
    | with_reducible assumption
    | with_reducible exact rfl
    | with_reducible refine State.releasePins_kept ?_
    | (extract_lets +onlyGivenNames s; refine kept_have (o := o) (x := s) ?_ (fun h => ?_); (on_goal 1 => unfold s; clear s); (on_goal 2 => try clear_value s))
    | (extract_lets +onlyGivenNames x; first | (have _p : PldSt := x; clear _p; unfold x) | skip)
    | simp only [↓kept_mk_iff]
    | with_reducible refine kept_ite (fun _ => ?_) (fun _ => ?_)
    | split
    | dsimp only
    | (dsimp +zetaDelta only; split)

theorem State.idleUnits_kept {o : State} {s : State} (h : Kept o s) : Kept o (State.idleUnits s) := by
  unfold State.idleUnits
  repeat' first
    | with_reducible assumption
    | with_reducible exact rfl
    | with_reducible refine State.stopDomain_kept ?_
    | with_reducible refine State.canConfig_kept ?_
    | with_reducible refine State.put_kept ?_
    | with_reducible refine State.dropTaken_kept ?_
    | with_reducible refine State.haltGroup_kept ?_
    | with_reducible refine State.each_kept ?_ (fun s x h => ?_)
    | (extract_lets +onlyGivenNames s; refine kept_have (o := o) (x := s) ?_ (fun h => ?_); (on_goal 1 => unfold s; clear s); (on_goal 2 => try clear_value s))
    | (extract_lets +onlyGivenNames x; first | (have _p : PldSt := x; clear _p; unfold x) | skip)
    | simp only [↓kept_mk_iff]
    | dsimp only

theorem State.sendLedger_kept {o : State} {s : State} (h : Kept o s) : Kept o (State.sendLedger s) := by
  unfold State.sendLedger
  repeat' first
    | with_reducible assumption
    | with_reducible refine State.sendTwin_kept ?_
    | (extract_lets +onlyGivenNames s; refine kept_have (o := o) (x := s) ?_ (fun h => ?_); (on_goal 1 => unfold s; clear s); (on_goal 2 => try clear_value s))
    | (extract_lets +onlyGivenNames x; first | (have _p : PldSt := x; clear _p; unfold x) | skip)
    | with_reducible refine kept_foldl ?_ (fun s x h => ?_)
    | with_reducible refine kept_foldl_fst ?_ (fun p x h => ?_)
    | dsimp only

theorem execTwinLedgerReq_kept {o : State} {switchOver : Bool} {s : State} (h : Kept o s) : Keeps o (execTwinLedgerReq switchOver s) := by
  unfold execTwinLedgerReq
  repeat' first
    | with_reducible assumption
    | with_reducible refine State.giveUpPins_kept ?_
    | with_reducible refine State.idleUnits_kept ?_
    | with_reducible refine State.setRole_kept ?_
    | with_reducible refine State.setMode_kept ?_
    | with_reducible refine State.sendLedger_kept ?_
    | with_reducible refine keeps_next ?_
    | (extract_lets +onlyGivenNames s; refine kept_have (o := o) (x := s) ?_ (fun h => ?_); (on_goal 1 => unfold s; clear s); (on_goal 2 => try clear_value s))
    | (extract_lets +onlyGivenNames x; first | (have _p : PldSt := x; clear _p; unfold x) | skip)
    | with_reducible refine kept_ite (fun _ => ?_) (fun _ => ?_)
    | split
    | dsimp only
    | (dsimp +zetaDelta only; split)

theorem State.settleEntry_kept {o : State} {s : State} {k' : Nat} {e : LedgerEntry} (h : Kept o s) : Kept o (State.settleEntry s k' e) := by
  unfold State.settleEntry
  repeat' first
    | with_reducible assumption
    | with_reducible exact rfl
    | with_reducible refine State.sendAck_kept ?_
    | with_reducible refine State.recordWith_kept ?_
    | (extract_lets +onlyGivenNames s; refine kept_have (o := o) (x := s) ?_ (fun h => ?_); (on_goal 1 => unfold s; clear s); (on_goal 2 => try clear_value s))
    | (extract_lets +onlyGivenNames x; first | (have _p : PldSt := x; clear _p; unfold x) | skip)
    | simp only [↓kept_mk_iff]
    | with_reducible refine kept_ite (fun _ => ?_) (fun _ => ?_)
    | split
    | dsimp only
    | (dsimp +zetaDelta only; split)

theorem State.reapply_kept {o : State} {s : State} {k' : Nat} {e : LedgerEntry} (h : Kept o s) : Kept o (State.reapply s k' e) := by
  unfold State.reapply
  repeat' first
    | with_reducible assumption
    | with_reducible exact rfl
    | with_reducible refine State.emit_kept ?_
    | with_reducible refine State.setLevel_kept ?_
    | (extract_lets +onlyGivenNames s; refine kept_have (o := o) (x := s) ?_ (fun h => ?_); (on_goal 1 => unfold s; clear s); (on_goal 2 => try clear_value s))
    | (extract_lets +onlyGivenNames x; first | (have _p : PldSt := x; clear _p; unfold x) | skip)
    | simp only [↓kept_mk_iff]
    | with_reducible refine kept_ite (fun _ => ?_) (fun _ => ?_)
    | split
    | dsimp only
    | (dsimp +zetaDelta only; split)

theorem State.startEngines_kept {o : State} {s : State} {n : Nat} (h : Kept o s) : Kept o (State.startEngines s n) := by
  unfold State.startEngines
  repeat' first
    | with_reducible assumption
    | with_reducible refine State.syncNow_kept ?_
    | with_reducible refine State.each_kept ?_ (fun s x h => ?_)
    | with_reducible refine kept_foldl ?_ (fun s x h => ?_)
    | with_reducible refine kept_foldl_fst ?_ (fun p x h => ?_)
    | dsimp only

theorem State.startCans_kept {o : State} {s : State} {n : Nat} (h : Kept o s) : Kept o (State.startCans s n) := by
  unfold State.startCans
  repeat' first
    | with_reducible assumption
    | with_reducible refine State.setCanState_kept ?_
    | with_reducible refine State.each_kept ?_ (fun s x h => ?_)
    | with_reducible refine kept_ite (fun _ => ?_) (fun _ => ?_)
    | split
    | dsimp only
    | (dsimp +zetaDelta only; split)

theorem State.startCams_kept {o : State} {s : State} (h : Kept o s) : Kept o (State.startCams s) := by
  unfold State.startCams
  repeat' first
    | with_reducible assumption
    | with_reducible exact rfl
    | with_reducible refine State.setCam_kept ?_
    | with_reducible refine State.startCam_kept ?_
    | with_reducible refine State.each_kept ?_ (fun s x h => ?_)
    | (extract_lets +onlyGivenNames s; refine kept_have (o := o) (x := s) ?_ (fun h => ?_); (on_goal 1 => unfold s; clear s); (on_goal 2 => try clear_value s))
    | (extract_lets +onlyGivenNames x; first | (have _p : PldSt := x; clear _p; unfold x) | skip)
    | simp only [↓kept_mk_iff]
    | dsimp only

theorem State.startUnits_kept {o : State} {s : State} (h : Kept o s) : Kept o (State.startUnits s) := by
  unfold State.startUnits
  repeat' first
    | with_reducible assumption
    | with_reducible exact rfl
    | with_reducible refine State.startCams_kept ?_
    | with_reducible refine State.startEngines_kept ?_
    | with_reducible refine State.startCans_kept ?_
    | with_reducible refine State.each_kept ?_ (fun s x h => ?_)
    | (extract_lets +onlyGivenNames s; refine kept_have (o := o) (x := s) ?_ (fun h => ?_); (on_goal 1 => unfold s; clear s); (on_goal 2 => try clear_value s))
    | (extract_lets +onlyGivenNames x; first | (have _p : PldSt := x; clear _p; unfold x) | skip)
    | simp only [↓kept_mk_iff]
    | dsimp only

theorem State.endTake_kept {o : State} {s : State} (h : Kept o s) : Kept o (State.endTake s) := by
  unfold State.endTake
  repeat' first
    | with_reducible assumption
    | with_reducible exact rfl
    | with_reducible refine State.sendFullState_kept ?_
    | with_reducible refine State.broadcast_kept ?_
    | with_reducible refine State.startUnits_kept ?_
    | (extract_lets +onlyGivenNames s; refine kept_have (o := o) (x := s) ?_ (fun h => ?_); (on_goal 1 => unfold s; clear s); (on_goal 2 => try clear_value s))
    | (extract_lets +onlyGivenNames x; first | (have _p : PldSt := x; clear _p; unfold x) | skip)
    | simp only [↓kept_mk_iff]
    | with_reducible refine kept_ite (fun _ => ?_) (fun _ => ?_)
    | split
    | dsimp only
    | (dsimp +zetaDelta only; split)

theorem State.takeOver_kept {o : State} {s : State} {pins : List (Fin 6 × BitVec 64)} {dike : List (Fin 16 × Fin 8 × BitVec 4)} (h : Kept o s) : Kept o (State.takeOver s pins dike) := by
  unfold State.takeOver
  repeat' first
    | with_reducible assumption
    | with_reducible exact rfl
    | with_reducible refine State.endTake_kept ?_
    | with_reducible refine State.takePulse_kept ?_
    | with_reducible refine State.dikeResume_kept ?_
    | with_reducible refine State.setLevel_kept ?_
    | with_reducible refine State.each_kept ?_ (fun s x h => ?_)
    | with_reducible refine State.setRole_kept ?_
    | with_reducible refine State.setMode_kept ?_
    | with_reducible refine State.inc_kept ?_
    | with_reducible refine State.put_kept ?_
    | (extract_lets +onlyGivenNames s; refine kept_have (o := o) (x := s) ?_ (fun h => ?_); (on_goal 1 => unfold s; clear s); (on_goal 2 => try clear_value s))
    | (extract_lets +onlyGivenNames x; first | (have _p : PldSt := x; clear _p; unfold x) | skip)
    | simp only [↓kept_mk_iff]
    | with_reducible refine kept_foldl ?_ (fun s x h => ?_)
    | with_reducible refine kept_foldl_fst ?_ (fun p x h => ?_)
    | with_reducible refine kept_ite (fun _ => ?_) (fun _ => ?_)
    | split
    | dsimp only
    | (dsimp +zetaDelta only; split)

theorem execTwinLedger_kept {o : State} {entries : List (Nat × Bool × Nat × Nat × Nat)} {pins : List (Fin 6 × BitVec 64)} {dike : List (Fin 16 × Fin 8 × BitVec 4)} {s : State} (h : Kept o s) : Keeps o (execTwinLedger entries pins dike s) := by
  unfold execTwinLedger
  repeat' first
    | with_reducible assumption
    | with_reducible exact rfl
    | with_reducible refine State.takeOver_kept ?_
    | with_reducible refine keeps_next ?_
    | (extract_lets +onlyGivenNames s; refine kept_have (o := o) (x := s) ?_ (fun h => ?_); (on_goal 1 => unfold s; clear s); (on_goal 2 => try clear_value s))
    | (extract_lets +onlyGivenNames x; first | (have _p : PldSt := x; clear _p; unfold x) | skip)
    | simp only [↓kept_mk_iff]
    | with_reducible refine kept_ite (fun _ => ?_) (fun _ => ?_)
    | split
    | dsimp only
    | (dsimp +zetaDelta only; split)

theorem execTwinLedgerReadTimeout_kept {o : State} {entries : List (Nat × Bool × Nat × Nat × Nat)} {pins : List (Fin 6 × BitVec 64)} {dike : List (Fin 16 × Fin 8 × BitVec 4)} {s : State} (h : Kept o s) : Keeps o (execTwinLedgerReadTimeout entries pins dike s) := by
  unfold execTwinLedgerReadTimeout
  repeat' first
    | with_reducible assumption
    | with_reducible exact rfl
    | with_reducible refine State.reapply_kept ?_
    | with_reducible refine State.settleEntry_kept ?_
    | with_reducible refine State.takeOver_kept ?_
    | with_reducible refine keeps_next ?_
    | (extract_lets +onlyGivenNames s; refine kept_have (o := o) (x := s) ?_ (fun h => ?_); (on_goal 1 => unfold s; clear s); (on_goal 2 => try clear_value s))
    | (extract_lets +onlyGivenNames x; first | (have _p : PldSt := x; clear _p; unfold x) | skip)
    | simp only [↓kept_mk_iff]
    | with_reducible refine kept_foldl ?_ (fun s x h => ?_)
    | with_reducible refine kept_foldl_fst ?_ (fun p x h => ?_)
    | with_reducible refine kept_ite (fun _ => ?_) (fun _ => ?_)
    | split
    | dsimp only
    | (dsimp +zetaDelta only; split)

theorem execPswSenseChange_kept {o : State} {level : Bool} {s : State} (h : Kept o s) : Keeps o (execPswSenseChange level s) := by
  unfold execPswSenseChange
  repeat' first
    | with_reducible assumption
    | with_reducible exact rfl
    | with_reducible refine State.releasePins_kept ?_
    | with_reducible refine State.endTake_kept ?_
    | with_reducible refine State.drivePins_kept ?_
    | with_reducible refine State.put_kept ?_
    | with_reducible refine State.showGroups_kept ?_
    | with_reducible refine State.showPins_kept ?_
    | with_reducible refine keeps_next ?_
    | (extract_lets +onlyGivenNames s; refine kept_have (o := o) (x := s) ?_ (fun h => ?_); (on_goal 1 => unfold s; clear s); (on_goal 2 => try clear_value s))
    | (extract_lets +onlyGivenNames x; first | (have _p : PldSt := x; clear _p; unfold x) | skip)
    | simp only [↓kept_mk_iff]
    | with_reducible refine kept_ite (fun _ => ?_) (fun _ => ?_)
    | split
    | dsimp only
    | (dsimp +zetaDelta only; split)

theorem State.raSend_kept {o : State} {s : State} {node : Nat} {off : Nat} {count : Nat} {words : List Nat} {watch : Bool} (h : Kept o s) : Kept o (State.raSend s node off count words watch) := by
  unfold State.raSend
  repeat' first
    | with_reducible assumption
    | with_reducible exact rfl
    | with_reducible refine State.unicast_kept ?_
    | (extract_lets +onlyGivenNames s; refine kept_have (o := o) (x := s) ?_ (fun h => ?_); (on_goal 1 => unfold s; clear s); (on_goal 2 => try clear_value s))
    | (extract_lets +onlyGivenNames x; first | (have _p : PldSt := x; clear _p; unfold x) | skip)
    | simp only [↓kept_mk_iff]
    | with_reducible refine kept_ite (fun _ => ?_) (fun _ => ?_)
    | split
    | dsimp only
    | (dsimp +zetaDelta only; split)

theorem State.orderTake_kept {o : State} {s : State} {p : Nat} {decision : Nat} (h : Kept o s) : Kept o (State.orderTake s p decision) := by
  unfold State.orderTake
  repeat' first
    | with_reducible assumption
    | with_reducible exact rfl
    | with_reducible refine State.incSat_kept ?_
    | with_reducible refine State.put_kept ?_
    | with_reducible refine State.raSend_kept ?_
    | (extract_lets +onlyGivenNames s; refine kept_have (o := o) (x := s) ?_ (fun h => ?_); (on_goal 1 => unfold s; clear s); (on_goal 2 => try clear_value s))
    | (extract_lets +onlyGivenNames x; first | (have _p : PldSt := x; clear _p; unfold x) | skip)
    | simp only [↓kept_mk_iff]
    | with_reducible refine kept_ite (fun _ => ?_) (fun _ => ?_)
    | split
    | dsimp only
    | (dsimp +zetaDelta only; split)

theorem State.setWitness_kept {o : State} {s : State} {p : Nat} {x : WitnessPair} (h : Kept o s) : Kept o (State.setWitness s p x) := by
  unfold State.setWitness
  repeat' first
    | with_reducible assumption
    | with_reducible exact rfl
    | (extract_lets +onlyGivenNames s; refine kept_have (o := o) (x := s) ?_ (fun h => ?_); (on_goal 1 => unfold s; clear s); (on_goal 2 => try clear_value s))
    | (extract_lets +onlyGivenNames x; first | (have _p : PldSt := x; clear _p; unfold x) | skip)
    | simp only [↓kept_mk_iff]
    | dsimp only

theorem State.followRole_kept {o : State} {s : State} {p : Nat} {a : Option TwinAnswer} {b : Option TwinAnswer} (h : Kept o s) : Kept o (State.followRole s p a b) := by
  unfold State.followRole
  repeat' first
    | with_reducible assumption
    | with_reducible exact rfl
    | with_reducible refine State.put_kept ?_
    | with_reducible refine State.setWitness_kept ?_
    | (extract_lets +onlyGivenNames s; refine kept_have (o := o) (x := s) ?_ (fun h => ?_); (on_goal 1 => unfold s; clear s); (on_goal 2 => try clear_value s))
    | (extract_lets +onlyGivenNames x; first | (have _p : PldSt := x; clear _p; unfold x) | skip)
    | simp only [↓kept_mk_iff]
    | with_reducible refine kept_ite (fun _ => ?_) (fun _ => ?_)
    | split
    | dsimp only
    | (dsimp +zetaDelta only; split)

theorem State.witnessDecide_kept {o : State} {s : State} {p : Nat} {act : Option TwinAnswer} {sb : Option TwinAnswer} (h : Kept o s) : Kept o (State.witnessDecide s p act sb) := by
  unfold State.witnessDecide
  repeat' first
    | with_reducible assumption
    | with_reducible exact rfl
    | with_reducible refine State.raSend_kept ?_
    | with_reducible refine State.each_kept ?_ (fun s x h => ?_)
    | with_reducible refine State.orderTake_kept ?_
    | with_reducible refine State.record_kept ?_
    | with_reducible refine State.put_kept ?_
    | with_reducible refine State.setWitness_kept ?_
    | (extract_lets +onlyGivenNames s; refine kept_have (o := o) (x := s) ?_ (fun h => ?_); (on_goal 1 => unfold s; clear s); (on_goal 2 => try clear_value s))
    | (extract_lets +onlyGivenNames x; first | (have _p : PldSt := x; clear _p; unfold x) | skip)
    | simp only [↓kept_mk_iff]
    | with_reducible refine kept_ite (fun _ => ?_) (fun _ => ?_)
    | split
    | dsimp only
    | (dsimp +zetaDelta only; split)

theorem execWitnessBeat_kept {o : State} {pair : Fin 64} {a : Option TwinAnswer} {b : Option TwinAnswer} {s : State} (h : Kept o s) : Keeps o (execWitnessBeat pair a b s) := by
  unfold execWitnessBeat
  repeat' first
    | with_reducible assumption
    | with_reducible refine State.witnessDecide_kept ?_
    | with_reducible refine State.followRole_kept ?_
    | with_reducible refine State.raSend_kept ?_
    | with_reducible refine State.each_kept ?_ (fun s x h => ?_)
    | with_reducible refine keeps_next ?_
    | (extract_lets +onlyGivenNames s; refine kept_have (o := o) (x := s) ?_ (fun h => ?_); (on_goal 1 => unfold s; clear s); (on_goal 2 => try clear_value s))
    | (extract_lets +onlyGivenNames x; first | (have _p : PldSt := x; clear _p; unfold x) | skip)
    | with_reducible refine kept_ite (fun _ => ?_) (fun _ => ?_)
    | split
    | dsimp only
    | (dsimp +zetaDelta only; split)

theorem execWitnessSwitchOver_kept {o : State} {val : Word} {a : Option TwinAnswer} {b : Option TwinAnswer} {s : State} (h : Kept o s) : Keeps o (execWitnessSwitchOver val a b s) := by
  unfold execWitnessSwitchOver
  repeat' first
    | with_reducible assumption
    | with_reducible refine State.put_kept ?_
    | with_reducible refine State.orderTake_kept ?_
    | with_reducible refine keeps_next ?_
    | with_reducible refine kept_ite (fun _ => ?_) (fun _ => ?_)
    | split
    | dsimp only
    | (dsimp +zetaDelta only; split)

end Sys2Proof.Machine
end

