-- ==== Sys2Proof/Laws/KeptBulk.lean ====
section
/-! SUPPORT. What the operations of Machine/Bulk.lean keep (Laws/Kept.lean). -/

set_option linter.all false

namespace Sys2Proof.Machine

theorem State.setFill_kept {o : State} {s : State} {q : Nat} {n : Nat} (h : Kept o s) : Kept o (State.setFill s q n) := by
  unfold State.setFill
  repeat' first
    | with_reducible assumption
    | with_reducible exact rfl
    | with_reducible refine State.put_kept ?_
    | (extract_lets +onlyGivenNames s; refine kept_have (o := o) (x := s) ?_ (fun h => ?_); (on_goal 1 => unfold s; clear s); (on_goal 2 => try clear_value s))
    | (extract_lets +onlyGivenNames x; first | (have _p : PldSt := x; clear _p; unfold x) | skip)
    | simp only [↓kept_mk_iff]
    | with_reducible refine kept_ite (fun _ => ?_) (fun _ => ?_)
    | split
    | dsimp only
    | (dsimp +zetaDelta only; split)

theorem State.ringWrite_kept {o : State} {s : State} {q : Nat} {i : Nat} {bytes : List Byte} (h : Kept o s) : Kept o (State.ringWrite s q i bytes) := by
  unfold State.ringWrite
  repeat' first
    | with_reducible assumption
    | with_reducible refine State.memWrite_kept ?_
    | (extract_lets +onlyGivenNames s; refine kept_have (o := o) (x := s) ?_ (fun h => ?_); (on_goal 1 => unfold s; clear s); (on_goal 2 => try clear_value s))
    | (extract_lets +onlyGivenNames x; first | (have _p : PldSt := x; clear _p; unfold x) | skip)
    | split
    | dsimp only
    | (dsimp +zetaDelta only; split)

theorem State.leaveBytes_kept {o : State} {a0 : Nat} {a1 : State} {a2 : Nat} (h : Kept o a1) : Kept o (State.leaveBytes a0 a1 a2) := by
  induction a0 generalizing a1 a2 with
  | zero =>
    unfold State.leaveBytes
    repeat' first
      | with_reducible assumption
      | with_reducible exact rfl
      | with_reducible refine State.setFill_kept ?_
      | (extract_lets +onlyGivenNames s; refine kept_have (o := o) (x := s) ?_ (fun h => ?_); (on_goal 1 => unfold s; clear s); (on_goal 2 => try clear_value s))
      | (extract_lets +onlyGivenNames x; first | (have _p : PldSt := x; clear _p; unfold x) | skip)
      | simp only [↓kept_mk_iff]
      | with_reducible refine kept_ite (fun _ => ?_) (fun _ => ?_)
      | split
      | dsimp only
      | (dsimp +zetaDelta only; split)
  | succ k ih =>
    unfold State.leaveBytes
    repeat' first
      | with_reducible apply ih
      | with_reducible assumption
      | with_reducible exact rfl
      | with_reducible refine State.setFill_kept ?_
      | (extract_lets +onlyGivenNames s; refine kept_have (o := o) (x := s) ?_ (fun h => ?_); (on_goal 1 => unfold s; clear s); (on_goal 2 => try clear_value s))
      | (extract_lets +onlyGivenNames x; first | (have _p : PldSt := x; clear _p; unfold x) | skip)
      | simp only [↓kept_mk_iff]
      | with_reducible refine kept_ite (fun _ => ?_) (fun _ => ?_)
      | split
      | dsimp only
      | (dsimp +zetaDelta only; split)

theorem State.settleBulk_kept {o : State} {s : State} (h : Kept o s) : Kept o (State.settleBulk s) := by
  unfold State.settleBulk
  repeat' first
    | with_reducible assumption
    | with_reducible refine State.leaveBytes_kept ?_
    | with_reducible refine kept_foldl ?_ (fun s x h => ?_)
    | dsimp only

theorem State.bulkLost_kept {o : State} {s : State} {w : Work} {q : Nat} (h : Kept o s) : Kept o (State.bulkLost s w q) := by
  unfold State.bulkLost
  repeat' first
    | with_reducible assumption
    | with_reducible exact rfl
    | with_reducible refine State.put_kept ?_
    | with_reducible refine State.setFill_kept ?_
    | with_reducible refine State.failWork_kept ?_
    | (extract_lets +onlyGivenNames s; refine kept_have (o := o) (x := s) ?_ (fun h => ?_); (on_goal 1 => unfold s; clear s); (on_goal 2 => try clear_value s))
    | (extract_lets +onlyGivenNames x; first | (have _p : PldSt := x; clear _p; unfold x) | skip)
    | simp only [↓kept_mk_iff]
    | dsimp only

theorem State.bulkTake_kept {o : State} {s : State} {w : Work} {q : Nat} (h : Kept o s) : Kept o (State.bulkTake s w q) := by
  unfold State.bulkTake
  repeat' first
    | with_reducible assumption
    | with_reducible refine State.ringWrite_kept ?_
    | with_reducible refine State.setFill_kept ?_
    | with_reducible refine State.commitInternal_kept ?_
    | with_reducible refine State.failWork_kept ?_
    | with_reducible refine State.bulkLost_kept ?_
    | (extract_lets +onlyGivenNames s; refine kept_have (o := o) (x := s) ?_ (fun h => ?_); (on_goal 1 => unfold s; clear s); (on_goal 2 => try clear_value s))
    | (extract_lets +onlyGivenNames x; first | (have _p : PldSt := x; clear _p; unfold x) | skip)
    | with_reducible refine kept_ite (fun _ => ?_) (fun _ => ?_)
    | split
    | dsimp only
    | (dsimp +zetaDelta only; split)

theorem execBulkPut_kept {o : State} {src : Nat} {sq : Nat} {wsn : Nat} {s : State} (h : Kept o s) : Keeps o (execBulkPut src sq wsn s) := by
  unfold execBulkPut
  repeat' first
    | with_reducible assumption
    | with_reducible exact rfl
    | with_reducible refine State.bulkTake_kept ?_
    | with_reducible refine State.settleBulk_kept ?_
    | with_reducible refine keeps_next ?_
    | (extract_lets +onlyGivenNames s; refine kept_have (o := o) (x := s) ?_ (fun h => ?_); (on_goal 1 => unfold s; clear s); (on_goal 2 => try clear_value s))
    | (extract_lets +onlyGivenNames x; first | (have _p : PldSt := x; clear _p; unfold x) | skip)
    | simp only [↓kept_mk_iff]
    | split
    | dsimp only
    | (dsimp +zetaDelta only; split)

theorem State.bulkGive_kept {o : State} {s : State} {w : Work} {q : Nat} (h : Kept o s) : Kept o (State.bulkGive s w q) := by
  unfold State.bulkGive
  repeat' first
    | with_reducible assumption
    | with_reducible exact rfl
    | with_reducible refine State.returnData_kept ?_
    | with_reducible refine State.settleBulk_kept ?_
    | with_reducible refine State.bulkLost_kept ?_
    | (extract_lets +onlyGivenNames s; refine kept_have (o := o) (x := s) ?_ (fun h => ?_); (on_goal 1 => unfold s; clear s); (on_goal 2 => try clear_value s))
    | (extract_lets +onlyGivenNames x; first | (have _p : PldSt := x; clear _p; unfold x) | skip)
    | simp only [↓kept_mk_iff]
    | with_reducible refine kept_ite (fun _ => ?_) (fun _ => ?_)
    | split
    | dsimp only
    | (dsimp +zetaDelta only; split)

theorem execBulkGet_kept {o : State} {src : Nat} {sq : Nat} {wsn : Nat} {s : State} (h : Kept o s) : Keeps o (execBulkGet src sq wsn s) := by
  unfold execBulkGet
  repeat' first
    | with_reducible assumption
    | with_reducible exact rfl
    | with_reducible refine State.bulkGive_kept ?_
    | with_reducible refine State.settleBulk_kept ?_
    | with_reducible refine keeps_next ?_
    | (extract_lets +onlyGivenNames s; refine kept_have (o := o) (x := s) ?_ (fun h => ?_); (on_goal 1 => unfold s; clear s); (on_goal 2 => try clear_value s))
    | (extract_lets +onlyGivenNames x; first | (have _p : PldSt := x; clear _p; unfold x) | skip)
    | simp only [↓kept_mk_iff]
    | split
    | dsimp only
    | (dsimp +zetaDelta only; split)

theorem State.writeBulkCfg_kept {o : State} {s : State} {q : Nat} {v : Nat} (h : Kept o s) : Kept o (State.writeBulkCfg s q v) := by
  unfold State.writeBulkCfg
  repeat' first
    | with_reducible assumption
    | with_reducible refine State.reannounce_kept ?_
    | with_reducible refine State.put_kept ?_
    | with_reducible refine State.raise_kept ?_
    | (extract_lets +onlyGivenNames s; refine kept_have (o := o) (x := s) ?_ (fun h => ?_); (on_goal 1 => unfold s; clear s); (on_goal 2 => try clear_value s))
    | (extract_lets +onlyGivenNames x; first | (have _p : PldSt := x; clear _p; unfold x) | skip)
    | with_reducible refine kept_ite (fun _ => ?_) (fun _ => ?_)
    | split
    | dsimp only
    | (dsimp +zetaDelta only; split)

end Sys2Proof.Machine
end

