-- ==== Sys2Proof/Laws/KeptVisPipe.lean ====
section
/-! SUPPORT. What the operations of Machine/VisPipe.lean keep (Laws/Kept.lean). -/

set_option linter.all false

namespace Sys2Proof.Machine

theorem State.skipOutput_kept {o : State} {s : State} {c : Nat} {kind : Nat} (h : Kept o s) : Kept o (State.skipOutput s c kind) := by
  unfold State.skipOutput
  repeat' first
    | with_reducible assumption
    | with_reducible refine State.inc_kept ?_
    | with_reducible refine State.raise_kept ?_
    | dsimp only

theorem State.reserve_kept {o : State} {s : State} {c : Nat} {f : VisFrame} {kind : Nat} {roi : Nat} (h : Kept o s) : Kept o (State.reserve s c f kind roi) := by
  unfold State.reserve
  repeat' first
    | with_reducible assumption
    | with_reducible exact rfl
    | with_reducible refine State.skipOutput_kept ?_
    | (extract_lets +onlyGivenNames s; refine kept_have (o := o) (x := s) ?_ (fun h => ?_); (on_goal 1 => unfold s; clear s); (on_goal 2 => try clear_value s))
    | (extract_lets +onlyGivenNames x; first | (have _p : PldSt := x; clear _p; unfold x) | skip)
    | simp only [↓kept_mk_iff]
    | with_reducible refine kept_ite (fun _ => ?_) (fun _ => ?_)
    | split
    | dsimp only
    | (dsimp +zetaDelta only; split)

theorem State.reserveFrame_kept {o : State} {s : State} {c : Nat} {f : VisFrame} (h : Kept o s) : Kept o (State.reserveFrame s c f) := by
  unfold State.reserveFrame
  repeat' first
    | with_reducible assumption
    | with_reducible refine State.reserve_kept ?_
    | with_reducible refine State.each_kept ?_ (fun s x h => ?_)
    | dsimp only

theorem State.queueCsi_kept {o : State} {s : State} {t : Nat} {x : CsiFrame} (h : Kept o s) : Kept o (State.queueCsi s t x) := by
  unfold State.queueCsi
  repeat' first
    | with_reducible assumption
    | with_reducible exact rfl
    | with_reducible refine State.put_kept ?_
    | (extract_lets +onlyGivenNames s; refine kept_have (o := o) (x := s) ?_ (fun h => ?_); (on_goal 1 => unfold s; clear s); (on_goal 2 => try clear_value s))
    | (extract_lets +onlyGivenNames x; first | (have _p : PldSt := x; clear _p; unfold x) | skip)
    | simp only [↓kept_mk_iff]
    | with_reducible refine kept_ite (fun _ => ?_) (fun _ => ?_)
    | split
    | dsimp only
    | (dsimp +zetaDelta only; split)

theorem State.showProcessed_kept {o : State} {s : State} {c : Nat} {frame : Nat} (h : Kept o s) : Kept o (State.showProcessed s c frame) := by
  unfold State.showProcessed
  repeat' first
    | with_reducible assumption
    | with_reducible refine State.put_kept ?_
    | with_reducible refine kept_ite (fun _ => ?_) (fun _ => ?_)
    | split
    | dsimp only
    | (dsimp +zetaDelta only; split)

theorem State.sendRow_kept {o : State} {s : State} {n : Nat} {x : CsiFrame} {rest : List CsiFrame} (h : Kept o s) : Kept o (State.sendRow s n x rest) := by
  unfold State.sendRow
  repeat' first
    | with_reducible assumption
    | with_reducible exact rfl
    | with_reducible refine State.showProcessed_kept ?_
    | with_reducible refine State.inc_kept ?_
    | with_reducible refine State.put_kept ?_
    | with_reducible refine State.emit_kept ?_
    | (extract_lets +onlyGivenNames s; refine kept_have (o := o) (x := s) ?_ (fun h => ?_); (on_goal 1 => unfold s; clear s); (on_goal 2 => try clear_value s))
    | (extract_lets +onlyGivenNames x; first | (have _p : PldSt := x; clear _p; unfold x) | skip)
    | simp only [↓kept_mk_iff]
    | with_reducible refine kept_ite (fun _ => ?_) (fun _ => ?_)
    | split
    | dsimp only
    | (dsimp +zetaDelta only; split)

theorem execCsitxRowSend_kept {o : State} {t : Fin 2} {s : State} (h : Kept o s) : Keeps o (execCsitxRowSend t s) := by
  unfold execCsitxRowSend
  repeat' first
    | with_reducible assumption
    | with_reducible exact rfl
    | with_reducible refine State.sendRow_kept ?_
    | with_reducible refine keeps_next ?_
    | (extract_lets +onlyGivenNames s; refine kept_have (o := o) (x := s) ?_ (fun h => ?_); (on_goal 1 => unfold s; clear s); (on_goal 2 => try clear_value s))
    | (extract_lets +onlyGivenNames x; first | (have _p : PldSt := x; clear _p; unfold x) | skip)
    | simp only [↓kept_mk_iff]
    | with_reducible refine kept_ite (fun _ => ?_) (fun _ => ?_)
    | split
    | dsimp only
    | (dsimp +zetaDelta only; split)

theorem State.bulkAppend_kept {o s t : State} {q : Nat} {bytes : List Byte} (h : Kept o s)
    (e : s.bulkAppend q bytes = some t) : Kept o t := by
  unfold State.bulkAppend at e
  dsimp only at e
  split at e
  · cases e
  · cases e; exact State.setFill_kept (State.ringWrite_kept h)

theorem State.returnSmall_kept {o : State} {s : State} {ep : Nat} {max : Nat} (h : Kept o s) : Kept o (State.returnSmall s ep max) := by
  unfold State.returnSmall
  repeat' first
    | with_reducible assumption
    | with_reducible refine State.failWork_kept ?_
    | with_reducible refine kept_foldl ?_ (fun s x h => ?_)
    | dsimp only

theorem State.setSink_kept {o : State} {s : State} {k' : Nat} {x : SinkSt} (h : Kept o s) : Kept o (State.setSink s k' x) := by
  unfold State.setSink
  repeat' first
    | with_reducible assumption
    | with_reducible exact rfl
    | (extract_lets +onlyGivenNames s; refine kept_have (o := o) (x := s) ?_ (fun h => ?_); (on_goal 1 => unfold s; clear s); (on_goal 2 => try clear_value s))
    | (extract_lets +onlyGivenNames x; first | (have _p : PldSt := x; clear _p; unfold x) | skip)
    | simp only [↓kept_mk_iff]
    | dsimp only

theorem State.sinkPump_kept {o : State} {a0 : Nat} {a1 : State} {a2 : Nat} (h : Kept o a1) : Kept o (State.sinkPump a0 a1 a2) := by
  induction a0 generalizing a1 a2 with
  | zero =>
    unfold State.sinkPump
    repeat' first
      | with_reducible assumption
      | with_reducible exact rfl
      | with_reducible refine State.queueCsi_kept ?_
      | with_reducible refine State.inc_kept ?_
      | with_reducible refine State.setSink_kept ?_
      | (extract_lets +onlyGivenNames s; refine kept_have (o := o) (x := s) ?_ (fun h => ?_); (on_goal 1 => unfold s; clear s); (on_goal 2 => try clear_value s))
      | (extract_lets +onlyGivenNames x; first | (have _p : PldSt := x; clear _p; unfold x) | skip)
      | simp only [↓kept_mk_iff]
      | with_reducible refine kept_ite (fun _ => ?_) (fun _ => ?_)
      | split
      | dsimp only
      | (dsimp +zetaDelta only; split)
  | succ k ih =>
    unfold State.sinkPump
    repeat' first
      | with_reducible apply ih
      | with_reducible assumption
      | with_reducible exact rfl
      | with_reducible refine State.queueCsi_kept ?_
      | with_reducible refine State.inc_kept ?_
      | with_reducible refine State.setSink_kept ?_
      | (extract_lets +onlyGivenNames s; refine kept_have (o := o) (x := s) ?_ (fun h => ?_); (on_goal 1 => unfold s; clear s); (on_goal 2 => try clear_value s))
      | (extract_lets +onlyGivenNames x; first | (have _p : PldSt := x; clear _p; unfold x) | skip)
      | simp only [↓kept_mk_iff]
      | with_reducible refine kept_ite (fun _ => ?_) (fun _ => ?_)
      | split
      | dsimp only
      | (dsimp +zetaDelta only; split)

theorem State.closeSink_kept {o : State} {s : State} {k' : Nat} (h : Kept o s) : Kept o (State.closeSink s k') := by
  unfold State.closeSink
  repeat' first
    | with_reducible assumption
    | with_reducible exact rfl
    | with_reducible refine State.sinkPump_kept ?_
    | with_reducible refine State.setSink_kept ?_
    | with_reducible refine State.inc_kept ?_
    | (extract_lets +onlyGivenNames s; refine kept_have (o := o) (x := s) ?_ (fun h => ?_); (on_goal 1 => unfold s; clear s); (on_goal 2 => try clear_value s))
    | (extract_lets +onlyGivenNames x; first | (have _p : PldSt := x; clear _p; unfold x) | skip)
    | simp only [↓kept_mk_iff]
    | with_reducible refine kept_ite (fun _ => ?_) (fun _ => ?_)
    | split
    | dsimp only
    | (dsimp +zetaDelta only; split)

theorem State.sinkSegment_kept {o : State} {s : State} {k' : Nat} {bytes : List Byte} (h : Kept o s) : Kept o (State.sinkSegment s k' bytes) := by
  unfold State.sinkSegment
  repeat' first
    | with_reducible assumption
    | with_reducible exact rfl
    | with_reducible refine State.setSink_kept ?_
    | with_reducible refine State.inc_kept ?_
    | with_reducible refine State.closeSink_kept ?_
    | (extract_lets +onlyGivenNames s; refine kept_have (o := o) (x := s) ?_ (fun h => ?_); (on_goal 1 => unfold s; clear s); (on_goal 2 => try clear_value s))
    | (extract_lets +onlyGivenNames x; first | (have _p : PldSt := x; clear _p; unfold x) | skip)
    | simp only [↓kept_mk_iff]
    | with_reducible refine kept_ite (fun _ => ?_) (fun _ => ?_)
    | split
    | dsimp only
    | (dsimp +zetaDelta only; split)

theorem execStreamFrame_kept {o : State} {ep : BitVec 12} {bytes : List Byte} {s : State} (h : Kept o s) : Keeps o (execStreamFrame ep bytes s) := by
  unfold execStreamFrame
  repeat' first
    | with_reducible assumption
    | with_reducible refine State.sinkSegment_kept ?_
    | with_reducible refine keeps_next ?_
    | with_reducible refine kept_ite (fun _ => ?_) (fun _ => ?_)
    | split
    | dsimp only
    | (dsimp +zetaDelta only; split)

theorem execSinkIncompleteTimeout_kept {o : State} {k' : Fin 64} {s : State} (h : Kept o s) : Keeps o (execSinkIncompleteTimeout k' s) := by
  unfold execSinkIncompleteTimeout
  repeat' first
    | with_reducible assumption
    | with_reducible refine State.closeSink_kept ?_
    | with_reducible refine keeps_next ?_
    | with_reducible refine kept_ite (fun _ => ?_) (fun _ => ?_)
    | split
    | dsimp only
    | (dsimp +zetaDelta only; split)

theorem State.markSent_kept {o : State} {s : State} {o' : VisOutput} (h : Kept o s) : Kept o (State.markSent s o') := by
  unfold State.markSent
  repeat' first
    | with_reducible assumption
    | with_reducible exact rfl
    | with_reducible refine State.inc_kept ?_
    | with_reducible refine State.showVis_kept ?_
    | (extract_lets +onlyGivenNames s; refine kept_have (o := o) (x := s) ?_ (fun h => ?_); (on_goal 1 => unfold s; clear s); (on_goal 2 => try clear_value s))
    | (extract_lets +onlyGivenNames x; first | (have _p : PldSt := x; clear _p; unfold x) | skip)
    | simp only [↓kept_mk_iff]
    | with_reducible refine kept_ite (fun _ => ?_) (fun _ => ?_)
    | split
    | dsimp only
    | (dsimp +zetaDelta only; split)

theorem State.setPos_kept {o : State} {s : State} {o' : VisOutput} {n : Nat} (h : Kept o s) : Kept o (State.setPos s o' n) := by
  unfold State.setPos
  repeat' first
    | with_reducible assumption
    | with_reducible exact rfl
    | with_reducible refine State.setSink_kept ?_
    | (extract_lets +onlyGivenNames s; refine kept_have (o := o) (x := s) ?_ (fun h => ?_); (on_goal 1 => unfold s; clear s); (on_goal 2 => try clear_value s))
    | (extract_lets +onlyGivenNames x; first | (have _p : PldSt := x; clear _p; unfold x) | skip)
    | simp only [↓kept_mk_iff]
    | with_reducible refine kept_ite (fun _ => ?_) (fun _ => ?_)
    | split
    | dsimp only
    | (dsimp +zetaDelta only; split)

theorem State.sendPiece_kept {o : State} {s : State} {o' : VisOutput} (h : Kept o s) : Kept o (State.sendPiece s o') := by
  unfold State.sendPiece
  repeat' first
    | with_reducible assumption
    | with_reducible exact rfl
    | with_reducible refine State.newHeads_kept ?_
    | with_reducible refine State.each_kept ?_ (fun s x h => ?_)
    | with_reducible refine State.markSent_kept ?_
    | with_reducible refine State.linkFrame_kept ?_
    | with_reducible refine State.setPos_kept ?_
    | with_reducible refine State.holdInput_kept ?_
    | (extract_lets +onlyGivenNames s; refine kept_have (o := o) (x := s) ?_ (fun h => ?_); (on_goal 1 => unfold s; clear s); (on_goal 2 => try clear_value s))
    | (extract_lets +onlyGivenNames x; first | (have _p : PldSt := x; clear _p; unfold x) | skip)
    | simp only [↓kept_mk_iff]
    | with_reducible refine kept_ite (fun _ => ?_) (fun _ => ?_)
    | split
    | dsimp only
    | (dsimp +zetaDelta only; split)

theorem execVisStreamSend_kept {o : State} {s : State} (h : Kept o s) : Keeps o (execVisStreamSend s) := by
  unfold execVisStreamSend
  repeat' first
    | with_reducible assumption
    | with_reducible exact rfl
    | with_reducible refine State.sendPiece_kept ?_
    | with_reducible refine State.returnSmall_kept ?_
    | with_reducible refine State.each_kept ?_ (fun s x h => ?_)
    | with_reducible refine keeps_next ?_
    | (extract_lets +onlyGivenNames s; refine kept_have (o := o) (x := s) ?_ (fun h => ?_); (on_goal 1 => unfold s; clear s); (on_goal 2 => try clear_value s))
    | (extract_lets +onlyGivenNames x; first | (have _p : PldSt := x; clear _p; unfold x) | skip)
    | simp only [↓kept_mk_iff]
    | with_reducible refine kept_ite (fun _ => ?_) (fun _ => ?_)
    | split
    | dsimp only
    | (dsimp +zetaDelta only; split)

theorem State.outputDone_kept {o : State} {s : State} {o' : VisOutput} (h : Kept o s) : Kept o (State.outputDone s o') := by
  unfold State.outputDone
  repeat' first
    | with_reducible assumption
    | with_reducible exact rfl
    | with_reducible refine State.markSent_kept ?_
    | with_reducible refine State.setSink_kept ?_
    | with_reducible refine State.inc_kept ?_
    | (extract_lets +onlyGivenNames s; refine kept_have (o := o) (x := s) ?_ (fun h => ?_); (on_goal 1 => unfold s; clear s); (on_goal 2 => try clear_value s))
    | (extract_lets +onlyGivenNames x; first | (have _p : PldSt := x; clear _p; unfold x) | skip)
    | simp only [↓kept_mk_iff]
    | with_reducible refine kept_ite (fun _ => ?_) (fun _ => ?_)
    | split
    | dsimp only
    | (dsimp +zetaDelta only; split)

theorem State.loanPiece_kept {o : State} {s : State} {o' : VisOutput} {whole : VisOutput} (h : Kept o s) : Kept o (State.loanPiece s o' whole) := by
  unfold State.loanPiece
  repeat' first
    | with_reducible assumption
    | with_reducible exact rfl
    | with_reducible refine State.answer_kept ?_
    | with_reducible refine State.outputDone_kept ?_
    | with_reducible refine State.hostWrite_kept ?_
    | (extract_lets +onlyGivenNames s; refine kept_have (o := o) (x := s) ?_ (fun h => ?_); (on_goal 1 => unfold s; clear s); (on_goal 2 => try clear_value s))
    | (extract_lets +onlyGivenNames x; first | (have _p : PldSt := x; clear _p; unfold x) | skip)
    | simp only [↓kept_mk_iff]
    | with_reducible refine kept_ite (fun _ => ?_) (fun _ => ?_)
    | split
    | dsimp only
    | (dsimp +zetaDelta only; split)

theorem State.appendPiece_kept {o : State} {s : State} {o' : VisOutput} {whole : VisOutput} (h : Kept o s) : Kept o (State.appendPiece s o' whole) := by
  unfold State.appendPiece
  repeat' first
    | with_reducible assumption
    | with_reducible exact rfl
    | with_reducible refine State.showVis_kept ?_
    | with_reducible refine State.skipOutput_kept ?_
    | with_reducible refine State.setSink_kept ?_
    | with_reducible refine State.inc_kept ?_
    | with_reducible refine State.outputDone_kept ?_
    | with_reducible refine State.bulkAppend_kept ?_ (by assumption)
    | (extract_lets +onlyGivenNames s; refine kept_have (o := o) (x := s) ?_ (fun h => ?_); (on_goal 1 => unfold s; clear s); (on_goal 2 => try clear_value s))
    | (extract_lets +onlyGivenNames x; first | (have _p : PldSt := x; clear _p; unfold x) | skip)
    | simp only [↓kept_mk_iff]
    | with_reducible refine kept_ite (fun _ => ?_) (fun _ => ?_)
    | split
    | dsimp only
    | (dsimp +zetaDelta only; split)

theorem State.pieceOut_kept {o : State} {s : State} {out : Nat} {o' : VisOutput} (h : Kept o s) : Kept o (State.pieceOut s out o') := by
  unfold State.pieceOut
  repeat' first
    | with_reducible assumption
    | with_reducible exact rfl
    | with_reducible refine State.appendPiece_kept ?_
    | with_reducible refine State.loanPiece_kept ?_
    | with_reducible refine State.sinkSegment_kept ?_
    | (extract_lets +onlyGivenNames s; refine kept_have (o := o) (x := s) ?_ (fun h => ?_); (on_goal 1 => unfold s; clear s); (on_goal 2 => try clear_value s))
    | (extract_lets +onlyGivenNames x; first | (have _p : PldSt := x; clear _p; unfold x) | skip)
    | simp only [↓kept_mk_iff]
    | with_reducible refine kept_ite (fun _ => ?_) (fun _ => ?_)
    | split
    | dsimp only
    | (dsimp +zetaDelta only; split)

theorem execFrameEgressEnd_kept {o : State} {out : Fin 32} {s : State} (h : Kept o s) : Keeps o (execFrameEgressEnd out s) := by
  unfold execFrameEgressEnd
  repeat' first
    | with_reducible assumption
    | with_reducible exact rfl
    | with_reducible refine State.pieceOut_kept ?_
    | with_reducible refine State.endEgress_kept ?_
    | with_reducible refine keeps_next ?_
    | (extract_lets +onlyGivenNames s; refine kept_have (o := o) (x := s) ?_ (fun h => ?_); (on_goal 1 => unfold s; clear s); (on_goal 2 => try clear_value s))
    | (extract_lets +onlyGivenNames x; first | (have _p : PldSt := x; clear _p; unfold x) | skip)
    | simp only [↓kept_mk_iff]
    | with_reducible refine kept_ite (fun _ => ?_) (fun _ => ?_)
    | split
    | dsimp only
    | (dsimp +zetaDelta only; split)

theorem execStagingRelease_kept {o : State} {s : State} (h : Kept o s) : Keeps o (execStagingRelease s) := by
  unfold execStagingRelease
  repeat' first
    | with_reducible assumption
    | with_reducible exact rfl
    | with_reducible refine State.showVis_kept ?_
    | with_reducible refine keeps_next ?_
    | (extract_lets +onlyGivenNames s; refine kept_have (o := o) (x := s) ?_ (fun h => ?_); (on_goal 1 => unfold s; clear s); (on_goal 2 => try clear_value s))
    | (extract_lets +onlyGivenNames x; first | (have _p : PldSt := x; clear _p; unfold x) | skip)
    | simp only [↓kept_mk_iff]
    | split
    | dsimp only
    | (dsimp +zetaDelta only; split)

theorem State.writeReference_kept {o : State} {s : State} {c : Nat} {m : Img} (h : Kept o s) : Kept o (State.writeReference s c m) := by
  unfold State.writeReference
  repeat' first
    | with_reducible assumption
    | with_reducible refine State.memWrite_kept ?_
    | (extract_lets +onlyGivenNames s; refine kept_have (o := o) (x := s) ?_ (fun h => ?_); (on_goal 1 => unfold s; clear s); (on_goal 2 => try clear_value s))
    | (extract_lets +onlyGivenNames x; first | (have _p : PldSt := x; clear _p; unfold x) | skip)
    | with_reducible refine kept_foldl ?_ (fun s x h => ?_)
    | with_reducible refine kept_foldl_fst ?_ (fun p x h => ?_)
    | dsimp only

theorem State.fillOutput_kept {o : State} {s : State} {c : Nat} {f : VisFrame} {o' : VisOutput} {fmt : Nat} {oflags : Nat} {ow : Nat} {oh : Nat} {rows : List (List Byte)} (h : Kept o s) : Kept o (State.fillOutput s c f o' fmt oflags ow oh rows) := by
  unfold State.fillOutput
  repeat' first
    | with_reducible assumption
    | with_reducible exact rfl
    | with_reducible refine State.queueCsi_kept ?_
    | (extract_lets +onlyGivenNames s; refine kept_have (o := o) (x := s) ?_ (fun h => ?_); (on_goal 1 => unfold s; clear s); (on_goal 2 => try clear_value s))
    | (extract_lets +onlyGivenNames x; first | (have _p : PldSt := x; clear _p; unfold x) | skip)
    | simp only [↓kept_mk_iff]
    | with_reducible refine kept_ite (fun _ => ?_) (fun _ => ?_)
    | split
    | dsimp only
    | (dsimp +zetaDelta only; split)

theorem State.finishFrame_kept {o : State} {s : State} {c : Nat} {f : VisFrame} (h : Kept o s) : Kept o (State.finishFrame s c f) := by
  unfold State.finishFrame
  repeat' first
    | with_reducible assumption
    | with_reducible exact rfl
    | with_reducible refine State.showProcessed_kept ?_
    | with_reducible refine State.showVis_kept ?_
    | with_reducible refine State.reserve_kept ?_
    | with_reducible refine State.fillOutput_kept ?_
    | with_reducible refine State.put_kept ?_
    | with_reducible refine State.setCam_kept ?_
    | with_reducible refine State.writeReference_kept ?_
    | (extract_lets +onlyGivenNames s; refine kept_have (o := o) (x := s) ?_ (fun h => ?_); (on_goal 1 => unfold s; clear s); (on_goal 2 => try clear_value s))
    | (extract_lets +onlyGivenNames x; first | (have _p : PldSt := x; clear _p; unfold x) | skip)
    | simp only [↓kept_mk_iff]
    | with_reducible refine kept_foldl ?_ (fun s x h => ?_)
    | with_reducible refine kept_foldl_fst ?_ (fun p x h => ?_)
    | with_reducible refine kept_ite (fun _ => ?_) (fun _ => ?_)
    | split
    | dsimp only
    | (dsimp +zetaDelta only; split)

theorem State.finishFrames_kept {o : State} {a0 : Nat} {a1 : State} {a2 : Nat} (h : Kept o a1) : Kept o (State.finishFrames a0 a1 a2) := by
  induction a0 generalizing a1 a2 with
  | zero =>
    unfold State.finishFrames
    repeat' first
      | with_reducible assumption
      | with_reducible exact rfl
      | with_reducible refine State.finishFrame_kept ?_
      | (extract_lets +onlyGivenNames s; refine kept_have (o := o) (x := s) ?_ (fun h => ?_); (on_goal 1 => unfold s; clear s); (on_goal 2 => try clear_value s))
      | (extract_lets +onlyGivenNames x; first | (have _p : PldSt := x; clear _p; unfold x) | skip)
      | simp only [↓kept_mk_iff]
      | with_reducible refine kept_ite (fun _ => ?_) (fun _ => ?_)
      | split
      | dsimp only
      | (dsimp +zetaDelta only; split)
  | succ k ih =>
    unfold State.finishFrames
    repeat' first
      | with_reducible apply ih
      | with_reducible assumption
      | with_reducible exact rfl
      | with_reducible refine State.finishFrame_kept ?_
      | (extract_lets +onlyGivenNames s; refine kept_have (o := o) (x := s) ?_ (fun h => ?_); (on_goal 1 => unfold s; clear s); (on_goal 2 => try clear_value s))
      | (extract_lets +onlyGivenNames x; first | (have _p : PldSt := x; clear _p; unfold x) | skip)
      | simp only [↓kept_mk_iff]
      | with_reducible refine kept_ite (fun _ => ?_) (fun _ => ?_)
      | split
      | dsimp only
      | (dsimp +zetaDelta only; split)

theorem State.takeNext_kept {o : State} {s : State} {c : Nat} {l' : VisLine} {rest : List VisLine} (h : Kept o s) : Kept o (State.takeNext s c l' rest) := by
  unfold State.takeNext
  repeat' first
    | with_reducible assumption
    | with_reducible exact rfl
    | with_reducible refine State.finishFrames_kept ?_
    | with_reducible refine State.reserveFrame_kept ?_
    | with_reducible refine State.showVis_kept ?_
    | with_reducible refine State.setCam_kept ?_
    | with_reducible refine State.inc_kept ?_
    | (extract_lets +onlyGivenNames s; refine kept_have (o := o) (x := s) ?_ (fun h => ?_); (on_goal 1 => unfold s; clear s); (on_goal 2 => try clear_value s))
    | (extract_lets +onlyGivenNames x; first | (have _p : PldSt := x; clear _p; unfold x) | skip)
    | simp only [↓kept_mk_iff]
    | with_reducible refine kept_ite (fun _ => ?_) (fun _ => ?_)
    | split
    | dsimp only
    | (dsimp +zetaDelta only; split)

theorem State.takeFrom_kept {o : State} {s : State} {c : Nat} (h : Kept o s) : Kept o (State.takeFrom s c) := by
  unfold State.takeFrom
  repeat' first
    | with_reducible assumption
    | with_reducible exact rfl
    | with_reducible refine State.takeNext_kept ?_
    | (extract_lets +onlyGivenNames s; refine kept_have (o := o) (x := s) ?_ (fun h => ?_); (on_goal 1 => unfold s; clear s); (on_goal 2 => try clear_value s))
    | (extract_lets +onlyGivenNames x; first | (have _p : PldSt := x; clear _p; unfold x) | skip)
    | simp only [↓kept_mk_iff]
    | split
    | dsimp only
    | (dsimp +zetaDelta only; split)

theorem execPipeLineTake_kept {o : State} {s : State} (h : Kept o s) : Keeps o (execPipeLineTake s) := by
  unfold execPipeLineTake
  repeat' first
    | with_reducible assumption
    | with_reducible exact rfl
    | with_reducible refine State.takeFrom_kept ?_
    | with_reducible refine keeps_next ?_
    | (extract_lets +onlyGivenNames s; refine kept_have (o := o) (x := s) ?_ (fun h => ?_); (on_goal 1 => unfold s; clear s); (on_goal 2 => try clear_value s))
    | (extract_lets +onlyGivenNames x; first | (have _p : PldSt := x; clear _p; unfold x) | skip)
    | simp only [↓kept_mk_iff]
    | with_reducible refine kept_ite (fun _ => ?_) (fun _ => ?_)
    | split
    | dsimp only
    | (dsimp +zetaDelta only; split)

theorem State.endFrame_kept {o : State} {s : State} {n : Nat} (h : Kept o s) : Kept o (State.endFrame s n) := by
  unfold State.endFrame
  repeat' first
    | with_reducible assumption
    | with_reducible exact rfl
    | with_reducible refine State.finishFrames_kept ?_
    | with_reducible refine State.showVis_kept ?_
    | with_reducible refine State.stopCam_kept ?_
    | with_reducible refine State.closeFrame_kept ?_
    | (extract_lets +onlyGivenNames s; refine kept_have (o := o) (x := s) ?_ (fun h => ?_); (on_goal 1 => unfold s; clear s); (on_goal 2 => try clear_value s))
    | (extract_lets +onlyGivenNames x; first | (have _p : PldSt := x; clear _p; unfold x) | skip)
    | simp only [↓kept_mk_iff]
    | with_reducible refine kept_ite (fun _ => ?_) (fun _ => ?_)
    | split
    | dsimp only
    | (dsimp +zetaDelta only; split)

theorem execCsiFrameEnd_kept {o : State} {c : Fin 8} {vc : Fin 4} {s : State} (h : Kept o s) : Keeps o (execCsiFrameEnd c vc s) := by
  unfold execCsiFrameEnd
  repeat' first
    | with_reducible assumption
    | with_reducible refine State.endFrame_kept ?_
    | with_reducible refine keeps_next ?_
    | with_reducible refine kept_ite (fun _ => ?_) (fun _ => ?_)
    | split
    | dsimp only
    | (dsimp +zetaDelta only; split)

theorem State.showBound_kept {o : State} {s : State} (h : Kept o s) : Kept o (State.showBound s) := by
  unfold State.showBound
  repeat' first
    | with_reducible assumption
    | with_reducible refine State.put_kept ?_
    | with_reducible refine State.each_kept ?_ (fun s x h => ?_)
    | dsimp only

theorem State.writeOutCfg_kept {o : State} {s : State} {c : Nat} {k' : Nat} {v : Nat} (h : Kept o s) : Kept o (State.writeOutCfg s c k' v) := by
  unfold State.writeOutCfg
  repeat' first
    | with_reducible assumption
    | with_reducible refine State.reannounce_kept ?_
    | with_reducible refine State.showBound_kept ?_
    | with_reducible refine State.returnLoans_kept ?_
    | with_reducible refine State.put_kept ?_
    | with_reducible refine State.raise_kept ?_
    | (extract_lets +onlyGivenNames s; refine kept_have (o := o) (x := s) ?_ (fun h => ?_); (on_goal 1 => unfold s; clear s); (on_goal 2 => try clear_value s))
    | (extract_lets +onlyGivenNames x; first | (have _p : PldSt := x; clear _p; unfold x) | skip)
    | with_reducible refine kept_ite (fun _ => ?_) (fun _ => ?_)
    | split
    | dsimp only
    | (dsimp +zetaDelta only; split)

theorem execVisOutputEnable_kept {o : State} {c : Fin 8} {k' : Fin 5} {val : Word} {s : State} (h : Kept o s) : Keeps o (execVisOutputEnable c k' val s) := by
  unfold execVisOutputEnable
  repeat' first
    | with_reducible assumption
    | with_reducible refine State.writeOutCfg_kept ?_
    | with_reducible refine keeps_next ?_
    | with_reducible refine kept_ite (fun _ => ?_) (fun _ => ?_)
    | split
    | dsimp only
    | (dsimp +zetaDelta only; split)

theorem State.writeSinkCfg_kept {o : State} {s : State} {k' : Nat} {v : Nat} (h : Kept o s) : Kept o (State.writeSinkCfg s k' v) := by
  unfold State.writeSinkCfg
  repeat' first
    | with_reducible assumption
    | with_reducible refine State.reannounce_kept ?_
    | with_reducible refine State.showBound_kept ?_
    | with_reducible refine State.setSink_kept ?_
    | with_reducible refine State.returnLoans_kept ?_
    | with_reducible refine State.put_kept ?_
    | with_reducible refine State.raise_kept ?_
    | (extract_lets +onlyGivenNames s; refine kept_have (o := o) (x := s) ?_ (fun h => ?_); (on_goal 1 => unfold s; clear s); (on_goal 2 => try clear_value s))
    | (extract_lets +onlyGivenNames x; first | (have _p : PldSt := x; clear _p; unfold x) | skip)
    | with_reducible refine kept_ite (fun _ => ?_) (fun _ => ?_)
    | split
    | dsimp only
    | (dsimp +zetaDelta only; split)

theorem State.writeCstCfg_kept {o : State} {s : State} {t : Nat} {v : Nat} (h : Kept o s) : Kept o (State.writeCstCfg s t v) := by
  unfold State.writeCstCfg
  repeat' first
    | with_reducible assumption
    | with_reducible exact rfl
    | with_reducible refine State.put_kept ?_
    | with_reducible refine State.raise_kept ?_
    | (extract_lets +onlyGivenNames s; refine kept_have (o := o) (x := s) ?_ (fun h => ?_); (on_goal 1 => unfold s; clear s); (on_goal 2 => try clear_value s))
    | (extract_lets +onlyGivenNames x; first | (have _p : PldSt := x; clear _p; unfold x) | skip)
    | simp only [↓kept_mk_iff]
    | with_reducible refine kept_ite (fun _ => ?_) (fun _ => ?_)
    | split
    | dsimp only
    | (dsimp +zetaDelta only; split)

theorem State.writeStageBase_kept {o : State} {s : State} {v : Nat} (h : Kept o s) : Kept o (State.writeStageBase s v) := by
  unfold State.writeStageBase
  repeat' first
    | with_reducible assumption
    | with_reducible refine State.put_kept ?_
    | with_reducible refine State.showVis_kept ?_
    | with_reducible refine State.raise_kept ?_
    | with_reducible refine kept_ite (fun _ => ?_) (fun _ => ?_)
    | split
    | dsimp only
    | (dsimp +zetaDelta only; split)

theorem State.writeStageSize_kept {o : State} {s : State} {v : Nat} (h : Kept o s) : Kept o (State.writeStageSize s v) := by
  unfold State.writeStageSize
  repeat' first
    | with_reducible assumption
    | with_reducible refine State.put_kept ?_
    | with_reducible refine State.showVis_kept ?_
    | with_reducible refine State.raise_kept ?_
    | (extract_lets +onlyGivenNames s; refine kept_have (o := o) (x := s) ?_ (fun h => ?_); (on_goal 1 => unfold s; clear s); (on_goal 2 => try clear_value s))
    | (extract_lets +onlyGivenNames x; first | (have _p : PldSt := x; clear _p; unfold x) | skip)
    | with_reducible refine kept_ite (fun _ => ?_) (fun _ => ?_)
    | split
    | dsimp only
    | (dsimp +zetaDelta only; split)

end Sys2Proof.Machine
end

