-- ==== Sys2Proof/Laws/KeptRestore.lean ====
section
/-! SUPPORT. What the operations of Machine/Restore.lean keep (Laws/Kept.lean). -/

set_option linter.all false

namespace Sys2Proof.Machine

theorem State.saveConfig_kept {o : State} {s : State} {ds : List Nat} (h : Kept o s) : Kept o (State.saveConfig s ds) := by
  unfold State.saveConfig
  repeat' first
    | with_reducible assumption
    | with_reducible exact rfl
    | (extract_lets +onlyGivenNames s; refine kept_have (o := o) (x := s) ?_ (fun h => ?_); (on_goal 1 => unfold s; clear s); (on_goal 2 => try clear_value s))
    | (extract_lets +onlyGivenNames x; first | (have _p : PldSt := x; clear _p; unfold x) | skip)
    | simp only [↓kept_mk_iff]
    | with_reducible refine kept_foldl ?_ (fun s x h => ?_)
    | with_reducible refine kept_foldl_fst ?_ (fun p x h => ?_)
    | with_reducible refine kept_ite (fun _ => ?_) (fun _ => ?_)
    | split
    | dsimp only
    | (dsimp +zetaDelta only; split)

theorem State.restoreFields_kept {o s : State} {d : Nat} (h : Kept o s) : Kept o (s.restoreFields d) := by
  refine kept_of h rfl rfl fun c => ?_
  obtain ⟨c₁, c₂, c₃, c₄⟩ := (canonical_iff s).1 c
  refine (canonical_iff _).2 ⟨c₁, c₂, c₃, ?_⟩
  have key : ∀ (l m : SMap Nat), SMap.sorted m = true → SMap.sorted (l.foldl (fun m e => SMap.insert m e.1 e.2) m) = true := by
    intro l
    induction l with
    | nil => exact fun m hm => hm
    | cons e l ih => exact fun m hm => ih _ (SMap.sorted_insert _ _ _ hm)
  exact key _ _ c₄

theorem State.restoreCluster_kept {o : State} {s : State} {n : Nat} (h : Kept o s) : Kept o (State.restoreCluster s n) := by
  unfold State.restoreCluster
  repeat' first
    | with_reducible assumption
    | with_reducible exact rfl
    | with_reducible refine State.reannounce_kept ?_
    | with_reducible refine State.each_kept ?_ (fun s x h => ?_)
    | with_reducible refine State.showCluster_kept ?_
    | with_reducible refine State.startEngines_kept ?_
    | with_reducible refine State.startCans_kept ?_
    | (extract_lets +onlyGivenNames s; refine kept_have (o := o) (x := s) ?_ (fun h => ?_); (on_goal 1 => unfold s; clear s); (on_goal 2 => try clear_value s))
    | (extract_lets +onlyGivenNames x; first | (have _p : PldSt := x; clear _p; unfold x) | skip)
    | simp only [↓kept_mk_iff]
    | with_reducible refine kept_ite (fun _ => ?_) (fun _ => ?_)
    | split
    | dsimp only
    | (dsimp +zetaDelta only; split)

theorem State.restoreSig_kept {o : State} {s : State} (h : Kept o s) : Kept o (State.restoreSig s) := by
  unfold State.restoreSig
  repeat' first
    | with_reducible assumption
    | with_reducible refine State.each_kept ?_ (fun s x h => ?_)
    | with_reducible refine State.reannounce_kept ?_
    | (extract_lets +onlyGivenNames s; refine kept_have (o := o) (x := s) ?_ (fun h => ?_); (on_goal 1 => unfold s; clear s); (on_goal 2 => try clear_value s))
    | (extract_lets +onlyGivenNames x; first | (have _p : PldSt := x; clear _p; unfold x) | skip)
    | dsimp only

theorem State.restoreVis_kept {o : State} {s : State} (h : Kept o s) : Kept o (State.restoreVis s) := by
  unfold State.restoreVis
  repeat' first
    | with_reducible assumption
    | with_reducible exact rfl
    | with_reducible refine State.showBound_kept ?_
    | with_reducible refine State.showVis_kept ?_
    | with_reducible refine State.reannounce_kept ?_
    | with_reducible refine State.startCam_kept ?_
    | with_reducible refine State.put_kept ?_
    | with_reducible refine State.each_kept ?_ (fun s x h => ?_)
    | (extract_lets +onlyGivenNames s; refine kept_have (o := o) (x := s) ?_ (fun h => ?_); (on_goal 1 => unfold s; clear s); (on_goal 2 => try clear_value s))
    | (extract_lets +onlyGivenNames x; first | (have _p : PldSt := x; clear _p; unfold x) | skip)
    | simp only [↓kept_mk_iff]
    | with_reducible refine kept_ite (fun _ => ?_) (fun _ => ?_)
    | split
    | dsimp only
    | (dsimp +zetaDelta only; split)

theorem State.restoreNet_kept {o : State} {s : State} (h : Kept o s) : Kept o (State.restoreNet s) := by
  unfold State.restoreNet
  repeat' first
    | with_reducible assumption
    | with_reducible refine State.ethEnable_kept ?_
    | with_reducible refine State.each_kept ?_ (fun s x h => ?_)
    | dsimp only

theorem State.restoreDomain_kept {o : State} {s : State} {d : Nat} (h : Kept o s) : Kept o (State.restoreDomain s d) := by
  unfold State.restoreDomain
  repeat' first
    | with_reducible assumption
    | with_reducible refine State.restoreNet_kept ?_
    | with_reducible refine State.restoreVis_kept ?_
    | with_reducible refine State.restoreSig_kept ?_
    | with_reducible refine State.restoreCluster_kept ?_
    | with_reducible refine State.restoreFields_kept ?_
    | with_reducible refine State.put_kept ?_
    | with_reducible refine State.each_kept ?_ (fun s x h => ?_)
    | (extract_lets +onlyGivenNames s; refine kept_have (o := o) (x := s) ?_ (fun h => ?_); (on_goal 1 => unfold s; clear s); (on_goal 2 => try clear_value s))
    | (extract_lets +onlyGivenNames x; first | (have _p : PldSt := x; clear _p; unfold x) | skip)
    | with_reducible refine kept_ite (fun _ => ?_) (fun _ => ?_)
    | split
    | dsimp only
    | (dsimp +zetaDelta only; split)

theorem State.upEndpoints_kept {o : State} {s : State} {d : Nat} (h : Kept o s) : Kept o (State.upEndpoints s d) := by
  unfold State.upEndpoints
  repeat' first
    | with_reducible assumption
    | with_reducible exact rfl
    | (extract_lets +onlyGivenNames s; refine kept_have (o := o) (x := s) ?_ (fun h => ?_); (on_goal 1 => unfold s; clear s); (on_goal 2 => try clear_value s))
    | (extract_lets +onlyGivenNames x; first | (have _p : PldSt := x; clear _p; unfold x) | skip)
    | simp only [↓kept_mk_iff]
    | dsimp only

theorem execDomainPowerUpDone_kept {o : State} {d : Fin 17} {s : State} (h : Kept o s) : Keeps o (execDomainPowerUpDone d s) := by
  unfold execDomainPowerUpDone
  repeat' first
    | with_reducible assumption
    | with_reducible exact rfl
    | with_reducible refine State.epChange_kept ?_
    | with_reducible refine State.restoreDomain_kept ?_
    | with_reducible refine State.hlogCopy_kept ?_
    | with_reducible refine State.upEndpoints_kept ?_
    | with_reducible refine State.showPools_kept ?_
    | with_reducible refine State.clearRegs_kept ?_
    | with_reducible refine State.freshUnits_kept ?_
    | with_reducible refine State.setPhase_kept ?_
    | with_reducible refine keeps_next ?_
    | (extract_lets +onlyGivenNames s; refine kept_have (o := o) (x := s) ?_ (fun h => ?_); (on_goal 1 => unfold s; clear s); (on_goal 2 => try clear_value s))
    | (extract_lets +onlyGivenNames x; first | (have _p : PldSt := x; clear _p; unfold x) | skip)
    | simp only [↓kept_mk_iff]
    | with_reducible refine kept_ite (fun _ => ?_) (fun _ => ?_)
    | split
    | dsimp only
    | (dsimp +zetaDelta only; split)

end Sys2Proof.Machine
end

