-- ==== Sys2Proof/Laws/KeptLull.lean ====
section
/-! SUPPORT. What the operations of Machine/Lull.lean keep (Laws/Kept.lean). -/

set_option linter.all false

namespace Sys2Proof.Machine

theorem State.startRound_kept {o : State} {s : State} {own : OwnConsent} (h : Kept o s) : Kept o (State.startRound s own) := by
  unfold State.startRound
  repeat' first
    | with_reducible assumption
    | with_reducible exact rfl
    | with_reducible refine State.sendOn_kept ?_
    | with_reducible refine State.inc_kept ?_
    | with_reducible refine State.put_kept ?_
    | (extract_lets +onlyGivenNames s; refine kept_have (o := o) (x := s) ?_ (fun h => ?_); (on_goal 1 => unfold s; clear s); (on_goal 2 => try clear_value s))
    | (extract_lets +onlyGivenNames x; first | (have _p : PldSt := x; clear _p; unfold x) | skip)
    | simp only [↓kept_mk_iff]
    | with_reducible refine kept_ite (fun _ => ?_) (fun _ => ?_)
    | split
    | dsimp only
    | (dsimp +zetaDelta only; split)

theorem execLullStart_kept {o : State} {own : OwnConsent} {s : State} (h : Kept o s) : Keeps o (execLullStart own s) := by
  unfold execLullStart
  repeat' first
    | with_reducible assumption
    | with_reducible refine State.startRound_kept ?_
    | with_reducible refine keeps_next ?_
    | with_reducible refine kept_ite (fun _ => ?_) (fun _ => ?_)
    | split
    | dsimp only
    | (dsimp +zetaDelta only; split)

theorem State.endRound_kept {o : State} {s : State} {result : Nat} {reason : Nat} (h : Kept o s) : Kept o (State.endRound s result reason) := by
  unfold State.endRound
  repeat' first
    | with_reducible assumption
    | with_reducible exact rfl
    | with_reducible refine State.voidRound_kept ?_
    | with_reducible refine State.put_kept ?_
    | (extract_lets +onlyGivenNames s; refine kept_have (o := o) (x := s) ?_ (fun h => ?_); (on_goal 1 => unfold s; clear s); (on_goal 2 => try clear_value s))
    | (extract_lets +onlyGivenNames x; first | (have _p : PldSt := x; clear _p; unfold x) | skip)
    | simp only [↓kept_mk_iff]
    | dsimp only

theorem execLullAbort_kept {o : State} {s : State} (h : Kept o s) : Keeps o (execLullAbort s) := by
  unfold execLullAbort
  repeat' first
    | with_reducible assumption
    | with_reducible refine State.endRound_kept ?_
    | with_reducible refine keeps_next ?_
    | with_reducible refine kept_ite (fun _ => ?_) (fun _ => ?_)
    | split
    | dsimp only
    | (dsimp +zetaDelta only; split)

theorem execLullWakeCmd_kept {o : State} {s : State} (h : Kept o s) : Keeps o (execLullWakeCmd s) := by
  unfold execLullWakeCmd
  repeat' first
    | with_reducible assumption
    | with_reducible refine State.wake_kept ?_
    | with_reducible refine keeps_next ?_
    | with_reducible refine kept_ite (fun _ => ?_) (fun _ => ?_)
    | split
    | dsimp only
    | (dsimp +zetaDelta only; split)

theorem execLullClearLog_kept {o : State} {s : State} (h : Kept o s) : Keeps o (execLullClearLog s) := by
  unfold execLullClearLog
  repeat' first
    | with_reducible assumption
    | with_reducible refine State.put_kept ?_
    | with_reducible refine State.each_kept ?_ (fun s x h => ?_)
    | with_reducible refine keeps_next ?_
    | with_reducible refine kept_ite (fun _ => ?_) (fun _ => ?_)
    | split
    | dsimp only
    | (dsimp +zetaDelta only; split)

theorem State.consented_kept {o : State} {s : State} {nodes : List Nat} (h : Kept o s) : Kept o (State.consented s nodes) := by
  unfold State.consented
  repeat' first
    | with_reducible assumption
    | with_reducible exact rfl
    | with_reducible refine State.put_kept ?_
    | (extract_lets +onlyGivenNames s; refine kept_have (o := o) (x := s) ?_ (fun h => ?_); (on_goal 1 => unfold s; clear s); (on_goal 2 => try clear_value s))
    | (extract_lets +onlyGivenNames x; first | (have _p : PldSt := x; clear _p; unfold x) | skip)
    | simp only [↓kept_mk_iff]
    | with_reducible refine kept_foldl ?_ (fun s x h => ?_)
    | dsimp only

theorem State.logRefusal_kept {o : State} {s : State} {node : Nat} {reason : Nat} (h : Kept o s) : Kept o (State.logRefusal s node reason) := by
  unfold State.logRefusal
  repeat' first
    | with_reducible assumption
    | with_reducible exact rfl
    | with_reducible refine State.recordWith_kept ?_
    | with_reducible refine State.incSat_kept ?_
    | with_reducible refine State.put_kept ?_
    | (extract_lets +onlyGivenNames s; refine kept_have (o := o) (x := s) ?_ (fun h => ?_); (on_goal 1 => unfold s; clear s); (on_goal 2 => try clear_value s))
    | (extract_lets +onlyGivenNames x; first | (have _p : PldSt := x; clear _p; unfold x) | skip)
    | simp only [↓kept_mk_iff]
    | with_reducible refine kept_ite (fun _ => ?_) (fun _ => ?_)
    | split
    | dsimp only
    | (dsimp +zetaDelta only; split)

theorem State.committed_kept {o : State} {s : State} (h : Kept o s) : Kept o (State.committed s) := by
  unfold State.committed
  repeat' first
    | with_reducible assumption
    | with_reducible exact rfl
    | with_reducible refine State.pendPrivate_kept ?_
    | with_reducible refine State.setPort_kept ?_
    | with_reducible refine State.each_kept ?_ (fun s x h => ?_)
    | with_reducible refine State.put_kept ?_
    | (extract_lets +onlyGivenNames s; refine kept_have (o := o) (x := s) ?_ (fun h => ?_); (on_goal 1 => unfold s; clear s); (on_goal 2 => try clear_value s))
    | (extract_lets +onlyGivenNames x; first | (have _p : PldSt := x; clear _p; unfold x) | skip)
    | simp only [↓kept_mk_iff]
    | with_reducible refine kept_ite (fun _ => ?_) (fun _ => ?_)
    | split
    | dsimp only
    | (dsimp +zetaDelta only; split)

theorem execLullTokenFrame_kept {o : State} {f : RoundAt} {n : Nat} {consents : Nat} {policyConsents : Bool} {wakeAsserted : Bool} {s : State} (h : Kept o s) : Keeps o (execLullTokenFrame f n consents policyConsents wakeAsserted s) := by
  unfold execLullTokenFrame
  repeat' first
    | with_reducible assumption
    | with_reducible exact rfl
    | with_reducible refine State.passOn_kept ?_
    | with_reducible refine State.unicast_kept ?_
    | with_reducible refine State.put_kept ?_
    | with_reducible refine State.sendOn_kept ?_
    | with_reducible refine State.consented_kept ?_
    | with_reducible refine keeps_next ?_
    | (extract_lets +onlyGivenNames s; refine kept_have (o := o) (x := s) ?_ (fun h => ?_); (on_goal 1 => unfold s; clear s); (on_goal 2 => try clear_value s))
    | (extract_lets +onlyGivenNames x; first | (have _p : PldSt := x; clear _p; unfold x) | skip)
    | simp only [↓kept_mk_iff]
    | with_reducible refine kept_ite (fun _ => ?_) (fun _ => ?_)
    | split
    | dsimp only
    | (dsimp +zetaDelta only; split)

theorem execLullCommitFrame_kept {o : State} {f : RoundAt} {s : State} (h : Kept o s) : Keeps o (execLullCommitFrame f s) := by
  unfold execLullCommitFrame
  repeat' first
    | with_reducible assumption
    | with_reducible refine State.passOn_kept ?_
    | with_reducible refine State.put_kept ?_
    | with_reducible refine State.inc_kept ?_
    | with_reducible refine State.committed_kept ?_
    | with_reducible refine keeps_next ?_
    | with_reducible refine kept_ite (fun _ => ?_) (fun _ => ?_)
    | split
    | dsimp only
    | (dsimp +zetaDelta only; split)

theorem execLullRefuseFrame_kept {o : State} {src : Nat} {round : Nat} {reason : Nat} {s : State} (h : Kept o s) : Keeps o (execLullRefuseFrame src round reason s) := by
  unfold execLullRefuseFrame
  repeat' first
    | with_reducible assumption
    | with_reducible exact rfl
    | with_reducible refine State.endRound_kept ?_
    | with_reducible refine State.put_kept ?_
    | with_reducible refine State.consented_kept ?_
    | with_reducible refine State.logRefusal_kept ?_
    | with_reducible refine keeps_next ?_
    | (extract_lets +onlyGivenNames s; refine kept_have (o := o) (x := s) ?_ (fun h => ?_); (on_goal 1 => unfold s; clear s); (on_goal 2 => try clear_value s))
    | (extract_lets +onlyGivenNames x; first | (have _p : PldSt := x; clear _p; unfold x) | skip)
    | simp only [↓kept_mk_iff]
    | with_reducible refine kept_ite (fun _ => ?_) (fun _ => ?_)
    | split
    | dsimp only
    | (dsimp +zetaDelta only; split)

theorem execLullVoidFrame_kept {o : State} {src : Nat} {round : Nat} {reason : Nat} {s : State} (h : Kept o s) : Keeps o (execLullVoidFrame src round reason s) := by
  unfold execLullVoidFrame
  repeat' first
    | with_reducible assumption
    | with_reducible refine State.logRefusal_kept ?_
    | with_reducible refine State.put_kept ?_
    | with_reducible refine keeps_next ?_
    | (extract_lets +onlyGivenNames s; refine kept_have (o := o) (x := s) ?_ (fun h => ?_); (on_goal 1 => unfold s; clear s); (on_goal 2 => try clear_value s))
    | (extract_lets +onlyGivenNames x; first | (have _p : PldSt := x; clear _p; unfold x) | skip)
    | with_reducible refine kept_ite (fun _ => ?_) (fun _ => ?_)
    | split
    | dsimp only
    | (dsimp +zetaDelta only; split)

theorem execLullRoundTimeout_kept {o : State} {s : State} (h : Kept o s) : Keeps o (execLullRoundTimeout s) := by
  unfold execLullRoundTimeout
  repeat' first
    | with_reducible assumption
    | with_reducible exact rfl
    | with_reducible refine State.put_kept ?_
    | with_reducible refine State.endRound_kept ?_
    | with_reducible refine keeps_next ?_
    | (extract_lets +onlyGivenNames s; refine kept_have (o := o) (x := s) ?_ (fun h => ?_); (on_goal 1 => unfold s; clear s); (on_goal 2 => try clear_value s))
    | (extract_lets +onlyGivenNames x; first | (have _p : PldSt := x; clear _p; unfold x) | skip)
    | simp only [↓kept_mk_iff]
    | with_reducible refine kept_ite (fun _ => ?_) (fun _ => ?_)
    | split
    | dsimp only
    | (dsimp +zetaDelta only; split)

theorem execLullSetOff_kept {o : State} {s : State} (h : Kept o s) : Keeps o (execLullSetOff s) := by
  unfold execLullSetOff
  repeat' first
    | with_reducible assumption
    | with_reducible exact rfl
    | with_reducible refine State.portsWake_kept ?_
    | with_reducible refine State.setMode_kept ?_
    | with_reducible refine State.put_kept ?_
    | with_reducible refine State.stopDomain_kept ?_
    | with_reducible refine State.endThreat_kept ?_
    | with_reducible refine State.setPhase_kept ?_
    | with_reducible refine State.saveConfig_kept ?_
    | with_reducible refine keeps_next ?_
    | (extract_lets +onlyGivenNames s; refine kept_have (o := o) (x := s) ?_ (fun h => ?_); (on_goal 1 => unfold s; clear s); (on_goal 2 => try clear_value s))
    | (extract_lets +onlyGivenNames x; first | (have _p : PldSt := x; clear _p; unfold x) | skip)
    | simp only [↓kept_mk_iff]
    | with_reducible refine kept_foldl ?_ (fun s x h => ?_)
    | with_reducible refine kept_foldl_fst ?_ (fun p x h => ?_)
    | with_reducible refine kept_ite (fun _ => ?_) (fun _ => ?_)
    | split
    | dsimp only
    | (dsimp +zetaDelta only; split)

theorem execLullSetUp_kept {o : State} {s : State} (h : Kept o s) : Keeps o (execLullSetUp s) := by
  unfold execLullSetUp
  repeat' first
    | with_reducible assumption
    | with_reducible refine State.restoreDomain_kept ?_
    | with_reducible refine State.epChange_kept ?_
    | with_reducible refine State.setMode_kept ?_
    | with_reducible refine State.put_kept ?_
    | with_reducible refine State.lullBack_kept ?_
    | with_reducible refine keeps_next ?_
    | (extract_lets +onlyGivenNames s; refine kept_have (o := o) (x := s) ?_ (fun h => ?_); (on_goal 1 => unfold s; clear s); (on_goal 2 => try clear_value s))
    | (extract_lets +onlyGivenNames x; first | (have _p : PldSt := x; clear _p; unfold x) | skip)
    | with_reducible refine kept_foldl ?_ (fun s x h => ?_)
    | with_reducible refine kept_foldl_fst ?_ (fun p x h => ?_)
    | with_reducible refine kept_ite (fun _ => ?_) (fun _ => ?_)
    | split
    | dsimp only
    | (dsimp +zetaDelta only; split)

theorem execRingWakeArm_kept {o : State} {port : Fin 3} {s : State} (h : Kept o s) : Keeps o (execRingWakeArm port s) := by
  unfold execRingWakeArm
  repeat' first
    | with_reducible assumption
    | with_reducible exact rfl
    | with_reducible refine State.clearLanes_kept ?_
    | with_reducible refine keeps_next ?_
    | (extract_lets +onlyGivenNames s; refine kept_have (o := o) (x := s) ?_ (fun h => ?_); (on_goal 1 => unfold s; clear s); (on_goal 2 => try clear_value s))
    | (extract_lets +onlyGivenNames x; first | (have _p : PldSt := x; clear _p; unfold x) | skip)
    | simp only [↓kept_mk_iff]
    | with_reducible refine kept_ite (fun _ => ?_) (fun _ => ?_)
    | split
    | dsimp only
    | (dsimp +zetaDelta only; split)

theorem execRingActivityWake_kept {o : State} {port : Fin 3} {s : State} (h : Kept o s) : Keeps o (execRingActivityWake port s) := by
  unfold execRingActivityWake
  repeat' first
    | with_reducible assumption
    | with_reducible refine State.wake_kept ?_
    | with_reducible refine keeps_next ?_
    | with_reducible refine kept_ite (fun _ => ?_) (fun _ => ?_)
    | split
    | dsimp only
    | (dsimp +zetaDelta only; split)

theorem execRingQuietTimer_kept {o : State} {port : Fin 3} {s : State} (h : Kept o s) : Keeps o (execRingQuietTimer port s) := by
  unfold execRingQuietTimer
  repeat' first
    | with_reducible assumption
    | with_reducible exact rfl
    | with_reducible refine State.wake_kept ?_
    | with_reducible refine keeps_next ?_
    | (extract_lets +onlyGivenNames s; refine kept_have (o := o) (x := s) ?_ (fun h => ?_); (on_goal 1 => unfold s; clear s); (on_goal 2 => try clear_value s))
    | (extract_lets +onlyGivenNames x; first | (have _p : PldSt := x; clear _p; unfold x) | skip)
    | simp only [↓kept_mk_iff]
    | with_reducible refine kept_ite (fun _ => ?_) (fun _ => ?_)
    | split
    | dsimp only
    | (dsimp +zetaDelta only; split)

theorem execAonCanWake_kept {o : State} {ctrl : Fin 48} {s : State} (h : Kept o s) : Keeps o (execAonCanWake ctrl s) := by
  unfold execAonCanWake
  repeat' first
    | with_reducible assumption
    | with_reducible refine State.wake_kept ?_
    | with_reducible refine State.put_kept ?_
    | with_reducible refine keeps_next ?_
    | (extract_lets +onlyGivenNames s; refine kept_have (o := o) (x := s) ?_ (fun h => ?_); (on_goal 1 => unfold s; clear s); (on_goal 2 => try clear_value s))
    | (extract_lets +onlyGivenNames x; first | (have _p : PldSt := x; clear _p; unfold x) | skip)
    | with_reducible refine kept_ite (fun _ => ?_) (fun _ => ?_)
    | split
    | dsimp only
    | (dsimp +zetaDelta only; split)

end Sys2Proof.Machine
end

