-- ==== Sys2Proof/Laws/KeptPower.lean ====
section
/-! SUPPORT. What the operations of Machine/Power.lean keep (Laws/Kept.lean). -/

set_option linter.all false

namespace Sys2Proof.Machine

theorem State.pmbPut_kept {o : State} {s : State} (h : Kept o s) : Kept o (State.pmbPut s) := by
  unfold State.pmbPut
  repeat' first
    | with_reducible assumption
    | with_reducible exact rfl
    | with_reducible refine State.emit_kept ?_
    | (extract_lets +onlyGivenNames s; refine kept_have (o := o) (x := s) ?_ (fun h => ?_); (on_goal 1 => unfold s; clear s); (on_goal 2 => try clear_value s))
    | (extract_lets +onlyGivenNames x; first | (have _p : PldSt := x; clear _p; unfold x) | skip)
    | simp only [↓kept_mk_iff]
    | with_reducible refine kept_ite (fun _ => ?_) (fun _ => ?_)
    | split
    | dsimp only
    | (dsimp +zetaDelta only; split)

theorem State.pmbSend_kept {o : State} {s : State} {cmd : Nat} {mv : Nat} (h : Kept o s) : Kept o (State.pmbSend s cmd mv) := by
  unfold State.pmbSend
  repeat' first
    | with_reducible assumption
    | with_reducible exact rfl
    | with_reducible refine State.pmbPut_kept ?_
    | (extract_lets +onlyGivenNames s; refine kept_have (o := o) (x := s) ?_ (fun h => ?_); (on_goal 1 => unfold s; clear s); (on_goal 2 => try clear_value s))
    | (extract_lets +onlyGivenNames x; first | (have _p : PldSt := x; clear _p; unfold x) | skip)
    | simp only [↓kept_mk_iff]
    | with_reducible refine kept_ite (fun _ => ?_) (fun _ => ?_)
    | split
    | dsimp only
    | (dsimp +zetaDelta only; split)

theorem State.setVcore_kept {o : State} {s : State} {mv : Nat} (h : Kept o s) : Kept o (State.setVcore s mv) := by
  unfold State.setVcore
  repeat' first
    | with_reducible assumption
    | with_reducible exact rfl
    | with_reducible refine State.pmbSend_kept ?_
    | with_reducible refine State.put_kept ?_
    | (extract_lets +onlyGivenNames s; refine kept_have (o := o) (x := s) ?_ (fun h => ?_); (on_goal 1 => unfold s; clear s); (on_goal 2 => try clear_value s))
    | (extract_lets +onlyGivenNames x; first | (have _p : PldSt := x; clear _p; unfold x) | skip)
    | simp only [↓kept_mk_iff]
    | dsimp only

theorem State.pmbFault_kept {o : State} {s : State} (h : Kept o s) : Kept o (State.pmbFault s) := by
  unfold State.pmbFault
  repeat' first
    | with_reducible assumption
    | with_reducible refine State.put_kept ?_
    | with_reducible refine State.raise_kept ?_
    | with_reducible refine State.record_kept ?_
    | dsimp only

theorem State.avsBoot_kept {o : State} {s : State} (h : Kept o s) : Kept o (State.avsBoot s) := by
  unfold State.avsBoot
  repeat' first
    | with_reducible assumption
    | with_reducible exact rfl
    | with_reducible refine State.pmbSend_kept ?_
    | with_reducible refine State.setVcore_kept ?_
    | with_reducible refine State.put_kept ?_
    | (extract_lets +onlyGivenNames s; refine kept_have (o := o) (x := s) ?_ (fun h => ?_); (on_goal 1 => unfold s; clear s); (on_goal 2 => try clear_value s))
    | (extract_lets +onlyGivenNames x; first | (have _p : PldSt := x; clear _p; unfold x) | skip)
    | simp only [↓kept_mk_iff]
    | dsimp only

theorem State.avsStart_kept {o : State} {s : State} (h : Kept o s) : Kept o (State.avsStart s) := by
  unfold State.avsStart
  repeat' first
    | with_reducible assumption
    | with_reducible exact rfl
    | with_reducible refine State.setVcore_kept ?_
    | with_reducible refine State.put_kept ?_
    | (extract_lets +onlyGivenNames s; refine kept_have (o := o) (x := s) ?_ (fun h => ?_); (on_goal 1 => unfold s; clear s); (on_goal 2 => try clear_value s))
    | (extract_lets +onlyGivenNames x; first | (have _p : PldSt := x; clear _p; unfold x) | skip)
    | simp only [↓kept_mk_iff]
    | with_reducible refine kept_ite (fun _ => ?_) (fun _ => ?_)
    | split
    | dsimp only
    | (dsimp +zetaDelta only; split)

theorem State.pmbAnswer_kept {o : State} {s : State} {cmd : Nat} {y : Nat} (h : Kept o s) : Kept o (State.pmbAnswer s cmd y) := by
  unfold State.pmbAnswer
  repeat' first
    | with_reducible assumption
    | with_reducible exact rfl
    | with_reducible refine State.pmbFault_kept ?_
    | with_reducible refine State.put_kept ?_
    | (extract_lets +onlyGivenNames s; refine kept_have (o := o) (x := s) ?_ (fun h => ?_); (on_goal 1 => unfold s; clear s); (on_goal 2 => try clear_value s))
    | (extract_lets +onlyGivenNames x; first | (have _p : PldSt := x; clear _p; unfold x) | skip)
    | simp only [↓kept_mk_iff]
    | with_reducible refine kept_ite (fun _ => ?_) (fun _ => ?_)
    | split
    | dsimp only
    | (dsimp +zetaDelta only; split)

theorem State.pmbPop_kept {o : State} {s : State} {rest : List (Nat × Nat)} (h : Kept o s) : Kept o (State.pmbPop s rest) := by
  unfold State.pmbPop
  repeat' first
    | with_reducible assumption
    | with_reducible exact rfl
    | (extract_lets +onlyGivenNames s; refine kept_have (o := o) (x := s) ?_ (fun h => ?_); (on_goal 1 => unfold s; clear s); (on_goal 2 => try clear_value s))
    | (extract_lets +onlyGivenNames x; first | (have _p : PldSt := x; clear _p; unfold x) | skip)
    | simp only [↓kept_mk_iff]
    | dsimp only

theorem execPmbusResponse_kept {o : State} {ack : Bool} {data : BitVec 16} {s : State} (h : Kept o s) : Keeps o (execPmbusResponse ack data s) := by
  unfold execPmbusResponse
  repeat' first
    | with_reducible assumption
    | with_reducible exact rfl
    | with_reducible refine State.pmbFault_kept ?_
    | with_reducible refine State.pmbPop_kept ?_
    | with_reducible refine State.pmbAnswer_kept ?_
    | with_reducible refine State.pmbPut_kept ?_
    | with_reducible refine keeps_next ?_
    | (extract_lets +onlyGivenNames s; refine kept_have (o := o) (x := s) ?_ (fun h => ?_); (on_goal 1 => unfold s; clear s); (on_goal 2 => try clear_value s))
    | (extract_lets +onlyGivenNames x; first | (have _p : PldSt := x; clear _p; unfold x) | skip)
    | simp only [↓kept_mk_iff]
    | with_reducible refine kept_ite (fun _ => ?_) (fun _ => ?_)
    | split
    | dsimp only
    | (dsimp +zetaDelta only; split)

theorem execPmbusAlert_kept {o : State} {s : State} (h : Kept o s) : Keeps o (execPmbusAlert s) := by
  unfold execPmbusAlert
  repeat' first
    | with_reducible assumption
    | with_reducible refine State.pmbSend_kept ?_
    | with_reducible refine keeps_next ?_
    | with_reducible refine kept_ite (fun _ => ?_) (fun _ => ?_)
    | split
    | dsimp only
    | (dsimp +zetaDelta only; split)

theorem execAvsSettleExpiry_kept {o : State} {s : State} (h : Kept o s) : Keeps o (execAvsSettleExpiry s) := by
  unfold execAvsSettleExpiry
  repeat' first
    | with_reducible assumption
    | with_reducible exact rfl
    | with_reducible refine State.pmbSend_kept ?_
    | with_reducible refine keeps_next ?_
    | (extract_lets +onlyGivenNames s; refine kept_have (o := o) (x := s) ?_ (fun h => ?_); (on_goal 1 => unfold s; clear s); (on_goal 2 => try clear_value s))
    | (extract_lets +onlyGivenNames x; first | (have _p : PldSt := x; clear _p; unfold x) | skip)
    | simp only [↓kept_mk_iff]
    | with_reducible refine kept_ite (fun _ => ?_) (fun _ => ?_)
    | split
    | dsimp only
    | (dsimp +zetaDelta only; split)

theorem execAvsHoldPoll_kept {o : State} {s : State} (h : Kept o s) : Keeps o (execAvsHoldPoll s) := by
  unfold execAvsHoldPoll
  repeat' first
    | with_reducible assumption
    | with_reducible refine State.pmbSend_kept ?_
    | with_reducible refine keeps_next ?_
    | with_reducible refine kept_ite (fun _ => ?_) (fun _ => ?_)
    | split
    | dsimp only
    | (dsimp +zetaDelta only; split)

theorem State.writePolCtrl_kept {o : State} {s : State} {v : Nat} (h : Kept o s) : Kept o (State.writePolCtrl s v) := by
  unfold State.writePolCtrl
  repeat' first
    | with_reducible assumption
    | with_reducible exact rfl
    | with_reducible refine State.setVcore_kept ?_
    | with_reducible refine State.pmbSend_kept ?_
    | with_reducible refine State.put_kept ?_
    | (extract_lets +onlyGivenNames s; refine kept_have (o := o) (x := s) ?_ (fun h => ?_); (on_goal 1 => unfold s; clear s); (on_goal 2 => try clear_value s))
    | (extract_lets +onlyGivenNames x; first | (have _p : PldSt := x; clear _p; unfold x) | skip)
    | simp only [↓kept_mk_iff]
    | with_reducible refine kept_ite (fun _ => ?_) (fun _ => ?_)
    | split
    | dsimp only
    | (dsimp +zetaDelta only; split)

theorem execAvsEnable_kept {o : State} {val : Word} {s : State} (h : Kept o s) : Keeps o (execAvsEnable val s) := by
  unfold execAvsEnable
  repeat' first
    | with_reducible assumption
    | with_reducible refine State.writePolCtrl_kept ?_
    | with_reducible refine keeps_next ?_
    | dsimp only

theorem State.measure_kept {o : State} {s : State} {counts : List (Fin 17 × Fin 64 × BitVec 16)} (h : Kept o s) : Kept o (State.measure s counts) := by
  unfold State.measure
  repeat' first
    | with_reducible assumption
    | with_reducible exact rfl
    | with_reducible refine State.put_kept ?_
    | with_reducible refine State.each_kept ?_ (fun s x h => ?_)
    | (extract_lets +onlyGivenNames s; refine kept_have (o := o) (x := s) ?_ (fun h => ?_); (on_goal 1 => unfold s; clear s); (on_goal 2 => try clear_value s))
    | (extract_lets +onlyGivenNames x; first | (have _p : PldSt := x; clear _p; unfold x) | skip)
    | simp only [↓kept_mk_iff]
    | with_reducible refine kept_ite (fun _ => ?_) (fun _ => ?_)
    | split
    | dsimp only
    | (dsimp +zetaDelta only; split)

theorem State.avsClear_kept {o : State} {s : State} (h : Kept o s) : Kept o (State.avsClear s) := by
  unfold State.avsClear
  repeat' first
    | with_reducible assumption
    | with_reducible exact rfl
    | (extract_lets +onlyGivenNames s; refine kept_have (o := o) (x := s) ?_ (fun h => ?_); (on_goal 1 => unfold s; clear s); (on_goal 2 => try clear_value s))
    | (extract_lets +onlyGivenNames x; first | (have _p : PldSt := x; clear _p; unfold x) | skip)
    | simp only [↓kept_mk_iff]
    | dsimp only

theorem State.avsUp_kept {o : State} {s : State} (h : Kept o s) : Kept o (State.avsUp s) := by
  unfold State.avsUp
  repeat' first
    | with_reducible assumption
    | with_reducible refine State.setVcore_kept ?_
    | with_reducible refine State.avsClear_kept ?_
    | (extract_lets +onlyGivenNames s; refine kept_have (o := o) (x := s) ?_ (fun h => ?_); (on_goal 1 => unfold s; clear s); (on_goal 2 => try clear_value s))
    | (extract_lets +onlyGivenNames x; first | (have _p : PldSt := x; clear _p; unfold x) | skip)
    | with_reducible refine kept_ite (fun _ => ?_) (fun _ => ?_)
    | split
    | dsimp only
    | (dsimp +zetaDelta only; split)

theorem State.avsDown_kept {o : State} {s : State} (h : Kept o s) : Kept o (State.avsDown s) := by
  unfold State.avsDown
  repeat' first
    | with_reducible assumption
    | with_reducible exact rfl
    | with_reducible refine State.setVcore_kept ?_
    | with_reducible refine State.avsClear_kept ?_
    | (extract_lets +onlyGivenNames s; refine kept_have (o := o) (x := s) ?_ (fun h => ?_); (on_goal 1 => unfold s; clear s); (on_goal 2 => try clear_value s))
    | (extract_lets +onlyGivenNames x; first | (have _p : PldSt := x; clear _p; unfold x) | skip)
    | simp only [↓kept_mk_iff]
    | with_reducible refine kept_ite (fun _ => ?_) (fun _ => ?_)
    | split
    | dsimp only
    | (dsimp +zetaDelta only; split)

theorem State.avsDecide_kept {o : State} {s : State} {p : Nat} {t : Nat} (h : Kept o s) : Kept o (State.avsDecide s p t) := by
  unfold State.avsDecide
  repeat' first
    | with_reducible assumption
    | with_reducible refine State.avsClear_kept ?_
    | with_reducible refine State.avsDown_kept ?_
    | with_reducible refine State.avsUp_kept ?_
    | with_reducible refine kept_ite (fun _ => ?_) (fun _ => ?_)
    | split
    | dsimp only
    | (dsimp +zetaDelta only; split)

theorem State.showRatio_kept {o : State} {s : State} {d : Nat} (h : Kept o s) : Kept o (State.showRatio s d) := by
  unfold State.showRatio
  repeat' first
    | with_reducible assumption
    | with_reducible exact rfl
    | with_reducible refine State.put_kept ?_
    | (extract_lets +onlyGivenNames s; refine kept_have (o := o) (x := s) ?_ (fun h => ?_); (on_goal 1 => unfold s; clear s); (on_goal 2 => try clear_value s))
    | (extract_lets +onlyGivenNames x; first | (have _p : PldSt := x; clear _p; unfold x) | skip)
    | simp only [↓kept_mk_iff]
    | dsimp only

theorem execAvsEvaluation_kept {o : State} {counts : List (Fin 17 × Fin 64 × BitVec 16)} {s : State} (h : Kept o s) : Keeps o (execAvsEvaluation counts s) := by
  unfold execAvsEvaluation
  repeat' first
    | with_reducible assumption
    | with_reducible exact rfl
    | with_reducible refine State.showRatio_kept ?_
    | with_reducible refine State.avsDecide_kept ?_
    | with_reducible refine State.measure_kept ?_
    | with_reducible refine keeps_next ?_
    | (extract_lets +onlyGivenNames s; refine kept_have (o := o) (x := s) ?_ (fun h => ?_); (on_goal 1 => unfold s; clear s); (on_goal 2 => try clear_value s))
    | (extract_lets +onlyGivenNames x; first | (have _p : PldSt := x; clear _p; unfold x) | skip)
    | simp only [↓kept_mk_iff]
    | split
    | dsimp only
    | (dsimp +zetaDelta only; split)

theorem State.setLimit_kept {o : State} {s : State} {v : Nat} (h : Kept o s) : Kept o (State.setLimit s v) := by
  unfold State.setLimit
  repeat' first
    | with_reducible assumption
    | with_reducible refine State.put_kept ?_
    | with_reducible refine kept_ite (fun _ => ?_) (fun _ => ?_)
    | split
    | dsimp only
    | (dsimp +zetaDelta only; split)

theorem State.stepLimit_kept {o : State} {s : State} {lv : Nat} (h : Kept o s) : Kept o (State.stepLimit s lv) := by
  unfold State.stepLimit
  repeat' first
    | with_reducible assumption
    | with_reducible refine State.setLimit_kept ?_
    | (extract_lets +onlyGivenNames s; refine kept_have (o := o) (x := s) ?_ (fun h => ?_); (on_goal 1 => unfold s; clear s); (on_goal 2 => try clear_value s))
    | (extract_lets +onlyGivenNames x; first | (have _p : PldSt := x; clear _p; unfold x) | skip)
    | with_reducible refine kept_ite (fun _ => ?_) (fun _ => ?_)
    | split
    | dsimp only
    | (dsimp +zetaDelta only; split)

theorem State.enterLevel_kept {o : State} {s : State} {old : Nat} {lv : Nat} (h : Kept o s) : Kept o (State.enterLevel s old lv) := by
  unfold State.enterLevel
  repeat' first
    | with_reducible assumption
    | with_reducible refine State.emit_kept ?_
    | with_reducible refine State.record_kept ?_
    | with_reducible refine State.stepLimit_kept ?_
    | with_reducible refine State.put_kept ?_
    | (extract_lets +onlyGivenNames s; refine kept_have (o := o) (x := s) ?_ (fun h => ?_); (on_goal 1 => unfold s; clear s); (on_goal 2 => try clear_value s))
    | (extract_lets +onlyGivenNames x; first | (have _p : PldSt := x; clear _p; unfold x) | skip)
    | with_reducible refine kept_ite (fun _ => ?_) (fun _ => ?_)
    | split
    | dsimp only
    | (dsimp +zetaDelta only; split)

theorem execThermalSample_kept {o : State} {temps : List (BitVec 8)} {s : State} (h : Kept o s) : Keeps o (execThermalSample temps s) := by
  unfold execThermalSample
  repeat' first
    | with_reducible assumption
    | with_reducible exact rfl
    | with_reducible refine State.enterLevel_kept ?_
    | with_reducible refine State.put_kept ?_
    | with_reducible refine keeps_next ?_
    | (extract_lets +onlyGivenNames s; refine kept_have (o := o) (x := s) ?_ (fun h => ?_); (on_goal 1 => unfold s; clear s); (on_goal 2 => try clear_value s))
    | (extract_lets +onlyGivenNames x; first | (have _p : PldSt := x; clear _p; unfold x) | skip)
    | simp only [↓kept_mk_iff]
    | with_reducible refine kept_ite (fun _ => ?_) (fun _ => ?_)
    | split
    | dsimp only
    | (dsimp +zetaDelta only; split)

theorem execThermalLimitStep_kept {o : State} {s : State} (h : Kept o s) : Keeps o (execThermalLimitStep s) := by
  unfold execThermalLimitStep
  repeat' first
    | with_reducible assumption
    | with_reducible refine State.stepLimit_kept ?_
    | with_reducible refine keeps_next ?_
    | dsimp only

theorem execLullAutoStart_kept {o : State} {own : OwnConsent} {s : State} (h : Kept o s) : Keeps o (execLullAutoStart own s) := by
  unfold execLullAutoStart
  repeat' first
    | with_reducible assumption
    | with_reducible exact rfl
    | with_reducible refine State.startRound_kept ?_
    | with_reducible refine keeps_next ?_
    | (extract_lets +onlyGivenNames s; refine kept_have (o := o) (x := s) ?_ (fun h => ?_); (on_goal 1 => unfold s; clear s); (on_goal 2 => try clear_value s))
    | (extract_lets +onlyGivenNames x; first | (have _p : PldSt := x; clear _p; unfold x) | skip)
    | simp only [↓kept_mk_iff]
    | with_reducible refine kept_ite (fun _ => ?_) (fun _ => ?_)
    | split
    | dsimp only
    | (dsimp +zetaDelta only; split)

end Sys2Proof.Machine
end

