-- ==== Sys2Proof/Laws/KeptTime.lean ====
section
/-! SUPPORT. What the operations of Machine/Time.lean keep (Laws/Kept.lean). -/

set_option linter.all false

namespace Sys2Proof.Machine

theorem State.putOffset_kept {o : State} {s : State} {v : Nat} (h : Kept o s) : Kept o (State.putOffset s v) := by
  unfold State.putOffset
  repeat' first
    | with_reducible assumption
    | with_reducible exact rfl
    | with_reducible refine State.put64_kept ?_
    | (extract_lets +onlyGivenNames s; refine kept_have (o := o) (x := s) ?_ (fun h => ?_); (on_goal 1 => unfold s; clear s); (on_goal 2 => try clear_value s))
    | (extract_lets +onlyGivenNames x; first | (have _p : PldSt := x; clear _p; unfold x) | skip)
    | simp only [↓kept_mk_iff]
    | dsimp only

theorem State.setRate_kept {o : State} {s : State} {r : Nat} (h : Kept o s) : Kept o (State.setRate s r) := by
  unfold State.setRate
  repeat' first
    | with_reducible assumption
    | with_reducible exact rfl
    | (extract_lets +onlyGivenNames s; refine kept_have (o := o) (x := s) ?_ (fun h => ?_); (on_goal 1 => unfold s; clear s); (on_goal 2 => try clear_value s))
    | (extract_lets +onlyGivenNames x; first | (have _p : PldSt := x; clear _p; unfold x) | skip)
    | simp only [↓kept_mk_iff]
    | dsimp only

theorem State.takeRate_kept {o : State} {s : State} (h : Kept o s) : Kept o (State.takeRate s) := by
  unfold State.takeRate
  repeat' first
    | with_reducible assumption
    | with_reducible exact rfl
    | with_reducible refine State.putOffset_kept ?_
    | with_reducible refine State.put64_kept ?_
    | with_reducible refine State.put_kept ?_
    | (extract_lets +onlyGivenNames s; refine kept_have (o := o) (x := s) ?_ (fun h => ?_); (on_goal 1 => unfold s; clear s); (on_goal 2 => try clear_value s))
    | (extract_lets +onlyGivenNames x; first | (have _p : PldSt := x; clear _p; unfold x) | skip)
    | simp only [↓kept_mk_iff]
    | split
    | dsimp only
    | (dsimp +zetaDelta only; split)

theorem State.takeStep_kept {o : State} {s : State} (h : Kept o s) : Kept o (State.takeStep s) := by
  unfold State.takeStep
  repeat' first
    | with_reducible assumption
    | with_reducible exact rfl
    | with_reducible refine State.putOffset_kept ?_
    | (extract_lets +onlyGivenNames s; refine kept_have (o := o) (x := s) ?_ (fun h => ?_); (on_goal 1 => unfold s; clear s); (on_goal 2 => try clear_value s))
    | (extract_lets +onlyGivenNames x; first | (have _p : PldSt := x; clear _p; unfold x) | skip)
    | simp only [↓kept_mk_iff]
    | split
    | dsimp only
    | (dsimp +zetaDelta only; split)

theorem execTimeRateWrite_kept {o : State} {val : Word} {s : State} (h : Kept o s) : Keeps o (execTimeRateWrite val s) := by
  unfold execTimeRateWrite
  repeat' first
    | with_reducible assumption
    | with_reducible refine State.raise_kept ?_
    | with_reducible refine State.setRate_kept ?_
    | with_reducible refine keeps_next ?_
    | with_reducible refine kept_ite (fun _ => ?_) (fun _ => ?_)
    | split
    | dsimp only
    | (dsimp +zetaDelta only; split)

theorem State.writeTimeCfg_kept {o : State} {s : State} {v : Nat} (h : Kept o s) : Kept o (State.writeTimeCfg s v) := by
  unfold State.writeTimeCfg
  repeat' first
    | with_reducible assumption
    | with_reducible refine State.put_kept ?_
    | with_reducible refine State.raise_kept ?_
    | (extract_lets +onlyGivenNames s; refine kept_have (o := o) (x := s) ?_ (fun h => ?_); (on_goal 1 => unfold s; clear s); (on_goal 2 => try clear_value s))
    | (extract_lets +onlyGivenNames x; first | (have _p : PldSt := x; clear _p; unfold x) | skip)
    | with_reducible refine kept_ite (fun _ => ?_) (fun _ => ?_)
    | split
    | dsimp only
    | (dsimp +zetaDelta only; split)

theorem State.fixTimeSource_kept {o : State} {s : State} (h : Kept o s) : Kept o (State.fixTimeSource s) := by
  unfold State.fixTimeSource
  repeat' first
    | with_reducible assumption
    | with_reducible refine State.put_kept ?_
    | with_reducible refine kept_ite (fun _ => ?_) (fun _ => ?_)
    | split
    | dsimp only
    | (dsimp +zetaDelta only; split)

theorem State.setLock_kept {o : State} {s : State} {st : Nat} (h : Kept o s) : Kept o (State.setLock s st) := by
  unfold State.setLock
  repeat' first
    | with_reducible assumption
    | with_reducible exact rfl
    | with_reducible refine State.putLevel_kept ?_
    | (extract_lets +onlyGivenNames s; refine kept_have (o := o) (x := s) ?_ (fun h => ?_); (on_goal 1 => unfold s; clear s); (on_goal 2 => try clear_value s))
    | (extract_lets +onlyGivenNames x; first | (have _p : PldSt := x; clear _p; unfold x) | skip)
    | simp only [↓kept_mk_iff]
    | dsimp only

theorem State.enterLocked_kept {o : State} {s : State} (h : Kept o s) : Kept o (State.enterLocked s) := by
  unfold State.enterLocked
  repeat' first
    | with_reducible assumption
    | with_reducible exact rfl
    | with_reducible refine State.setLock_kept ?_
    | with_reducible refine State.put_kept ?_
    | with_reducible refine State.raise_kept ?_
    | (extract_lets +onlyGivenNames s; refine kept_have (o := o) (x := s) ?_ (fun h => ?_); (on_goal 1 => unfold s; clear s); (on_goal 2 => try clear_value s))
    | (extract_lets +onlyGivenNames x; first | (have _p : PldSt := x; clear _p; unfold x) | skip)
    | simp only [↓kept_mk_iff]
    | split
    | dsimp only
    | (dsimp +zetaDelta only; split)

theorem State.upstreamValid_kept {o : State} {s : State} (h : Kept o s) : Kept o (State.upstreamValid s) := by
  unfold State.upstreamValid
  repeat' first
    | with_reducible assumption
    | with_reducible refine State.setLock_kept ?_
    | with_reducible refine kept_ite (fun _ => ?_) (fun _ => ?_)
    | split
    | dsimp only
    | (dsimp +zetaDelta only; split)

theorem execLockNow_kept {o : State} {s : State} (h : Kept o s) : Keeps o (execLockNow s) := by
  unfold execLockNow
  repeat' first
    | with_reducible assumption
    | with_reducible exact rfl
    | with_reducible refine State.enterLocked_kept ?_
    | with_reducible refine keeps_next ?_
    | (extract_lets +onlyGivenNames s; refine kept_have (o := o) (x := s) ?_ (fun h => ?_); (on_goal 1 => unfold s; clear s); (on_goal 2 => try clear_value s))
    | (extract_lets +onlyGivenNames x; first | (have _p : PldSt := x; clear _p; unfold x) | skip)
    | simp only [↓kept_mk_iff]
    | with_reducible refine kept_ite (fun _ => ?_) (fun _ => ?_)
    | split
    | dsimp only
    | (dsimp +zetaDelta only; split)

theorem execTimeLockAchieved_kept {o : State} {s : State} (h : Kept o s) : Keeps o (execTimeLockAchieved s) := by
  unfold execTimeLockAchieved
  repeat' first
    | with_reducible assumption
    | with_reducible exact rfl
    | with_reducible refine State.enterLocked_kept ?_
    | with_reducible refine keeps_next ?_
    | (extract_lets +onlyGivenNames s; refine kept_have (o := o) (x := s) ?_ (fun h => ?_); (on_goal 1 => unfold s; clear s); (on_goal 2 => try clear_value s))
    | (extract_lets +onlyGivenNames x; first | (have _p : PldSt := x; clear _p; unfold x) | skip)
    | simp only [↓kept_mk_iff]
    | with_reducible refine kept_ite (fun _ => ?_) (fun _ => ?_)
    | split
    | dsimp only
    | (dsimp +zetaDelta only; split)

theorem State.noteUpstream_kept {o : State} {s : State} (h : Kept o s) : Kept o (State.noteUpstream s) := by
  unfold State.noteUpstream
  repeat' first
    | with_reducible assumption
    | with_reducible exact rfl
    | (extract_lets +onlyGivenNames s; refine kept_have (o := o) (x := s) ?_ (fun h => ?_); (on_goal 1 => unfold s; clear s); (on_goal 2 => try clear_value s))
    | (extract_lets +onlyGivenNames x; first | (have _p : PldSt := x; clear _p; unfold x) | skip)
    | simp only [↓kept_mk_iff]
    | dsimp only

theorem execTimeUpstreamTimeout_kept {o : State} {s : State} (h : Kept o s) : Keeps o (execTimeUpstreamTimeout s) := by
  unfold execTimeUpstreamTimeout
  repeat' first
    | with_reducible assumption
    | with_reducible exact rfl
    | with_reducible refine State.setLock_kept ?_
    | with_reducible refine State.raise_kept ?_
    | with_reducible refine State.record_kept ?_
    | with_reducible refine keeps_next ?_
    | (extract_lets +onlyGivenNames s; refine kept_have (o := o) (x := s) ?_ (fun h => ?_); (on_goal 1 => unfold s; clear s); (on_goal 2 => try clear_value s))
    | (extract_lets +onlyGivenNames x; first | (have _p : PldSt := x; clear _p; unfold x) | skip)
    | simp only [↓kept_mk_iff]
    | with_reducible refine kept_ite (fun _ => ?_) (fun _ => ?_)
    | split
    | dsimp only
    | (dsimp +zetaDelta only; split)

theorem State.setFsync_kept {o : State} {s : State} {n : Nat} {x : FsyncSt} (h : Kept o s) : Kept o (State.setFsync s n x) := by
  unfold State.setFsync
  repeat' first
    | with_reducible assumption
    | with_reducible exact rfl
    | (extract_lets +onlyGivenNames s; refine kept_have (o := o) (x := s) ?_ (fun h => ?_); (on_goal 1 => unfold s; clear s); (on_goal 2 => try clear_value s))
    | (extract_lets +onlyGivenNames x; first | (have _p : PldSt := x; clear _p; unfold x) | skip)
    | simp only [↓kept_mk_iff]
    | dsimp only

theorem State.fsyncPin_kept {o : State} {s : State} {n : Nat} {level : Nat} (h : Kept o s) : Kept o (State.fsyncPin s n level) := by
  unfold State.fsyncPin
  repeat' first
    | with_reducible assumption
    | with_reducible refine State.emit_kept ?_
    | with_reducible refine kept_ite (fun _ => ?_) (fun _ => ?_)
    | split
    | dsimp only
    | (dsimp +zetaDelta only; split)

theorem State.fsyncDrive_kept {o : State} {s : State} {n : Nat} (h : Kept o s) : Kept o (State.fsyncDrive s n) := by
  unfold State.fsyncDrive
  repeat' first
    | with_reducible assumption
    | with_reducible exact rfl
    | with_reducible refine State.setFsync_kept ?_
    | with_reducible refine State.inc_kept ?_
    | with_reducible refine State.fsyncPin_kept ?_
    | (extract_lets +onlyGivenNames s; refine kept_have (o := o) (x := s) ?_ (fun h => ?_); (on_goal 1 => unfold s; clear s); (on_goal 2 => try clear_value s))
    | (extract_lets +onlyGivenNames x; first | (have _p : PldSt := x; clear _p; unfold x) | skip)
    | simp only [↓kept_mk_iff]
    | with_reducible refine kept_ite (fun _ => ?_) (fun _ => ?_)
    | split
    | dsimp only
    | (dsimp +zetaDelta only; split)

theorem State.fsyncFire_kept {o : State} {s : State} {n : Nat} (h : Kept o s) : Kept o (State.fsyncFire s n) := by
  unfold State.fsyncFire
  repeat' first
    | with_reducible assumption
    | with_reducible exact rfl
    | with_reducible refine State.fsyncDrive_kept ?_
    | with_reducible refine State.setFsync_kept ?_
    | with_reducible refine State.inc_kept ?_
    | (extract_lets +onlyGivenNames s; refine kept_have (o := o) (x := s) ?_ (fun h => ?_); (on_goal 1 => unfold s; clear s); (on_goal 2 => try clear_value s))
    | (extract_lets +onlyGivenNames x; first | (have _p : PldSt := x; clear _p; unfold x) | skip)
    | simp only [↓kept_mk_iff]
    | with_reducible refine kept_ite (fun _ => ?_) (fun _ => ?_)
    | split
    | dsimp only
    | (dsimp +zetaDelta only; split)

theorem execFsyncEdge_kept {o : State} {n : Fin 8} {s : State} (h : Kept o s) : Keeps o (execFsyncEdge n s) := by
  unfold execFsyncEdge
  repeat' first
    | with_reducible assumption
    | with_reducible refine State.fsyncFire_kept ?_
    | with_reducible refine keeps_next ?_
    | dsimp only

theorem execFsyncHeldRelease_kept {o : State} {n : Fin 8} {s : State} (h : Kept o s) : Keeps o (execFsyncHeldRelease n s) := by
  unfold execFsyncHeldRelease
  repeat' first
    | with_reducible assumption
    | with_reducible exact rfl
    | with_reducible refine State.setFsync_kept ?_
    | with_reducible refine State.fsyncDrive_kept ?_
    | with_reducible refine keeps_next ?_
    | (extract_lets +onlyGivenNames s; refine kept_have (o := o) (x := s) ?_ (fun h => ?_); (on_goal 1 => unfold s; clear s); (on_goal 2 => try clear_value s))
    | (extract_lets +onlyGivenNames x; first | (have _p : PldSt := x; clear _p; unfold x) | skip)
    | simp only [↓kept_mk_iff]
    | with_reducible refine kept_ite (fun _ => ?_) (fun _ => ?_)
    | split
    | dsimp only
    | (dsimp +zetaDelta only; split)

theorem execFsyncPulseEnd_kept {o : State} {n : Fin 8} {s : State} (h : Kept o s) : Keeps o (execFsyncPulseEnd n s) := by
  unfold execFsyncPulseEnd
  repeat' first
    | with_reducible assumption
    | with_reducible exact rfl
    | with_reducible refine State.setFsync_kept ?_
    | with_reducible refine State.fsyncPin_kept ?_
    | with_reducible refine keeps_next ?_
    | (extract_lets +onlyGivenNames s; refine kept_have (o := o) (x := s) ?_ (fun h => ?_); (on_goal 1 => unfold s; clear s); (on_goal 2 => try clear_value s))
    | (extract_lets +onlyGivenNames x; first | (have _p : PldSt := x; clear _p; unfold x) | skip)
    | simp only [↓kept_mk_iff]
    | with_reducible refine kept_ite (fun _ => ?_) (fun _ => ?_)
    | split
    | dsimp only
    | (dsimp +zetaDelta only; split)

theorem State.writeFsync_kept {o : State} {s : State} {n : Nat} {v : Nat} (h : Kept o s) : Kept o (State.writeFsync s n v) := by
  unfold State.writeFsync
  repeat' first
    | with_reducible assumption
    | with_reducible exact rfl
    | with_reducible refine State.setFsync_kept ?_
    | with_reducible refine State.fsyncFire_kept ?_
    | with_reducible refine State.each_kept ?_ (fun s x h => ?_)
    | with_reducible refine State.put_kept ?_
    | with_reducible refine State.raise_kept ?_
    | (extract_lets +onlyGivenNames s; refine kept_have (o := o) (x := s) ?_ (fun h => ?_); (on_goal 1 => unfold s; clear s); (on_goal 2 => try clear_value s))
    | (extract_lets +onlyGivenNames x; first | (have _p : PldSt := x; clear _p; unfold x) | skip)
    | simp only [↓kept_mk_iff]
    | with_reducible refine kept_ite (fun _ => ?_) (fun _ => ?_)
    | split
    | dsimp only
    | (dsimp +zetaDelta only; split)

theorem execFsyncEnable_kept {o : State} {n : Fin 8} {val : Word} {s : State} (h : Kept o s) : Keeps o (execFsyncEnable n val s) := by
  unfold execFsyncEnable
  repeat' first
    | with_reducible assumption
    | with_reducible refine State.writeFsync_kept ?_
    | with_reducible refine keeps_next ?_
    | dsimp only

theorem execTimeStepWrite_kept {o : State} {req : Requester} {val : Word} {s : State} (h : Kept o s) : Keeps o (execTimeStepWrite req val s) := by
  unfold execTimeStepWrite
  repeat' first
    | with_reducible assumption
    | with_reducible exact rfl
    | with_reducible refine State.raise_kept ?_
    | with_reducible refine keeps_next ?_
    | (extract_lets +onlyGivenNames s; refine kept_have (o := o) (x := s) ?_ (fun h => ?_); (on_goal 1 => unfold s; clear s); (on_goal 2 => try clear_value s))
    | (extract_lets +onlyGivenNames x; first | (have _p : PldSt := x; clear _p; unfold x) | skip)
    | simp only [↓kept_mk_iff]
    | with_reducible refine kept_ite (fun _ => ?_) (fun _ => ?_)
    | split
    | dsimp only
    | (dsimp +zetaDelta only; split)

theorem State.ppsRise_kept {o : State} {s : State} (h : Kept o s) : Kept o (State.ppsRise s) := by
  unfold State.ppsRise
  repeat' first
    | with_reducible assumption
    | with_reducible exact rfl
    | with_reducible refine State.emit_kept ?_
    | (extract_lets +onlyGivenNames s; refine kept_have (o := o) (x := s) ?_ (fun h => ?_); (on_goal 1 => unfold s; clear s); (on_goal 2 => try clear_value s))
    | (extract_lets +onlyGivenNames x; first | (have _p : PldSt := x; clear _p; unfold x) | skip)
    | simp only [↓kept_mk_iff]
    | with_reducible refine kept_ite (fun _ => ?_) (fun _ => ?_)
    | split
    | dsimp only
    | (dsimp +zetaDelta only; split)

theorem execPpsOutEdge_kept {o : State} {rise : Bool} {s : State} (h : Kept o s) : Keeps o (execPpsOutEdge rise s) := by
  unfold execPpsOutEdge
  repeat' first
    | with_reducible assumption
    | with_reducible exact rfl
    | with_reducible refine State.emit_kept ?_
    | with_reducible refine State.ppsRise_kept ?_
    | with_reducible refine keeps_next ?_
    | (extract_lets +onlyGivenNames s; refine kept_have (o := o) (x := s) ?_ (fun h => ?_); (on_goal 1 => unfold s; clear s); (on_goal 2 => try clear_value s))
    | (extract_lets +onlyGivenNames x; first | (have _p : PldSt := x; clear _p; unfold x) | skip)
    | simp only [↓kept_mk_iff]
    | with_reducible refine kept_ite (fun _ => ?_) (fun _ => ?_)
    | split
    | dsimp only
    | (dsimp +zetaDelta only; split)

theorem State.servoInput_kept {o : State} {s : State} {e : Int} (h : Kept o s) : Kept o (State.servoInput s e) := by
  unfold State.servoInput
  repeat' first
    | with_reducible assumption
    | with_reducible exact rfl
    | (extract_lets +onlyGivenNames s; refine kept_have (o := o) (x := s) ?_ (fun h => ?_); (on_goal 1 => unfold s; clear s); (on_goal 2 => try clear_value s))
    | (extract_lets +onlyGivenNames x; first | (have _p : PldSt := x; clear _p; unfold x) | skip)
    | simp only [↓kept_mk_iff]
    | dsimp only

theorem execPpsInEdge_kept {o : State} {s : State} (h : Kept o s) : Keeps o (execPpsInEdge s) := by
  unfold execPpsInEdge
  repeat' first
    | with_reducible assumption
    | with_reducible exact rfl
    | with_reducible refine State.servoInput_kept ?_
    | with_reducible refine State.noteUpstream_kept ?_
    | with_reducible refine State.upstreamValid_kept ?_
    | with_reducible refine State.put64_kept ?_
    | with_reducible refine keeps_next ?_
    | (extract_lets +onlyGivenNames s; refine kept_have (o := o) (x := s) ?_ (fun h => ?_); (on_goal 1 => unfold s; clear s); (on_goal 2 => try clear_value s))
    | (extract_lets +onlyGivenNames x; first | (have _p : PldSt := x; clear _p; unfold x) | skip)
    | simp only [↓kept_mk_iff]
    | with_reducible refine kept_ite (fun _ => ?_) (fun _ => ?_)
    | split
    | dsimp only
    | (dsimp +zetaDelta only; split)

theorem execTimeSyncTimer_kept {o : State} {port : Fin 3} {wait : Nat} {s : State} (h : Kept o s) : Keeps o (execTimeSyncTimer port wait s) := by
  unfold execTimeSyncTimer
  repeat' first
    | with_reducible assumption
    | with_reducible exact rfl
    | with_reducible refine State.emit_kept ?_
    | with_reducible refine keeps_next ?_
    | (extract_lets +onlyGivenNames s; refine kept_have (o := o) (x := s) ?_ (fun h => ?_); (on_goal 1 => unfold s; clear s); (on_goal 2 => try clear_value s))
    | (extract_lets +onlyGivenNames x; first | (have _p : PldSt := x; clear _p; unfold x) | skip)
    | simp only [↓kept_mk_iff]
    | with_reducible refine kept_ite (fun _ => ?_) (fun _ => ?_)
    | split
    | dsimp only
    | (dsimp +zetaDelta only; split)

theorem execTimeSyncOs_kept {o : State} {port : Fin 3} {seq : BitVec 8} {wait : Nat} {s : State} (h : Kept o s) : Keeps o (execTimeSyncOs port seq wait s) := by
  unfold execTimeSyncOs
  repeat' first
    | with_reducible assumption
    | with_reducible exact rfl
    | with_reducible refine State.emit_kept ?_
    | with_reducible refine keeps_next ?_
    | (extract_lets +onlyGivenNames s; refine kept_have (o := o) (x := s) ?_ (fun h => ?_); (on_goal 1 => unfold s; clear s); (on_goal 2 => try clear_value s))
    | (extract_lets +onlyGivenNames x; first | (have _p : PldSt := x; clear _p; unfold x) | skip)
    | simp only [↓kept_mk_iff]
    | with_reducible refine kept_ite (fun _ => ?_) (fun _ => ?_)
    | split
    | dsimp only
    | (dsimp +zetaDelta only; split)

theorem execTimeReplyOs_kept {o : State} {port : Fin 3} {seq : BitVec 8} {s : State} (h : Kept o s) : Keeps o (execTimeReplyOs port seq s) := by
  unfold execTimeReplyOs
  repeat' first
    | with_reducible assumption
    | with_reducible exact rfl
    | with_reducible refine State.emit_kept ?_
    | with_reducible refine keeps_next ?_
    | (extract_lets +onlyGivenNames s; refine kept_have (o := o) (x := s) ?_ (fun h => ?_); (on_goal 1 => unfold s; clear s); (on_goal 2 => try clear_value s))
    | (extract_lets +onlyGivenNames x; first | (have _p : PldSt := x; clear _p; unfold x) | skip)
    | simp only [↓kept_mk_iff]
    | with_reducible refine kept_ite (fun _ => ?_) (fun _ => ?_)
    | split
    | dsimp only
    | (dsimp +zetaDelta only; split)

theorem State.measureClosure_kept {o : State} {s : State} {corrUp : Int} {theta : Int} (h : Kept o s) : Kept o (State.measureClosure s corrUp theta) := by
  unfold State.measureClosure
  repeat' first
    | with_reducible assumption
    | with_reducible refine State.draw_kept ?_
    | with_reducible refine State.put_kept ?_
    | (extract_lets +onlyGivenNames s; refine kept_have (o := o) (x := s) ?_ (fun h => ?_); (on_goal 1 => unfold s; clear s); (on_goal 2 => try clear_value s))
    | (extract_lets +onlyGivenNames x; first | (have _p : PldSt := x; clear _p; unfold x) | skip)
    | with_reducible refine kept_ite (fun _ => ?_) (fun _ => ?_)
    | split
    | dsimp only
    | (dsimp +zetaDelta only; split)

theorem State.followExchange_kept {o : State} {s : State} {theta : Int} {corrUp : Int} {e : Int} {valid : Bool} {hops : Nat} {chain : Nat} (h : Kept o s) : Kept o (State.followExchange s theta corrUp e valid hops chain) := by
  unfold State.followExchange
  repeat' first
    | with_reducible assumption
    | with_reducible exact rfl
    | with_reducible refine State.servoInput_kept ?_
    | with_reducible refine State.noteUpstream_kept ?_
    | with_reducible refine State.upstreamValid_kept ?_
    | with_reducible refine State.put_kept ?_
    | (extract_lets +onlyGivenNames s; refine kept_have (o := o) (x := s) ?_ (fun h => ?_); (on_goal 1 => unfold s; clear s); (on_goal 2 => try clear_value s))
    | (extract_lets +onlyGivenNames x; first | (have _p : PldSt := x; clear _p; unfold x) | skip)
    | simp only [↓kept_mk_iff]
    | with_reducible refine kept_ite (fun _ => ?_) (fun _ => ?_)
    | split
    | dsimp only
    | (dsimp +zetaDelta only; split)

theorem State.takeExchange_kept {o : State} {s : State} {port : Nat} {bytes : List Byte} {t2 : Nat} {t3 : Nat} (h : Kept o s) : Kept o (State.takeExchange s port bytes t2 t3) := by
  unfold State.takeExchange
  repeat' first
    | with_reducible assumption
    | with_reducible refine State.followExchange_kept ?_
    | with_reducible refine State.measureClosure_kept ?_
    | with_reducible refine State.put_kept ?_
    | (extract_lets +onlyGivenNames s; refine kept_have (o := o) (x := s) ?_ (fun h => ?_); (on_goal 1 => unfold s; clear s); (on_goal 2 => try clear_value s))
    | (extract_lets +onlyGivenNames x; first | (have _p : PldSt := x; clear _p; unfold x) | skip)
    | with_reducible refine kept_ite (fun _ => ?_) (fun _ => ?_)
    | split
    | dsimp only
    | (dsimp +zetaDelta only; split)

theorem execTimeSyncFrame_kept {o : State} {port : Fin 3} {bytes : List Byte} {s : State} (h : Kept o s) : Keeps o (execTimeSyncFrame port bytes s) := by
  unfold execTimeSyncFrame
  repeat' first
    | with_reducible assumption
    | with_reducible exact rfl
    | with_reducible refine State.takeExchange_kept ?_
    | with_reducible refine keeps_next ?_
    | (extract_lets +onlyGivenNames s; refine kept_have (o := o) (x := s) ?_ (fun h => ?_); (on_goal 1 => unfold s; clear s); (on_goal 2 => try clear_value s))
    | (extract_lets +onlyGivenNames x; first | (have _p : PldSt := x; clear _p; unfold x) | skip)
    | simp only [↓kept_mk_iff]
    | with_reducible refine kept_ite (fun _ => ?_) (fun _ => ?_)
    | split
    | dsimp only
    | (dsimp +zetaDelta only; split)

theorem State.servoStep_kept {o : State} {s : State} {e : Int} (h : Kept o s) : Kept o (State.servoStep s e) := by
  unfold State.servoStep
  repeat' first
    | with_reducible assumption
    | with_reducible exact rfl
    | with_reducible refine State.put_kept ?_
    | with_reducible refine State.setRate_kept ?_
    | (extract_lets +onlyGivenNames s; refine kept_have (o := o) (x := s) ?_ (fun h => ?_); (on_goal 1 => unfold s; clear s); (on_goal 2 => try clear_value s))
    | (extract_lets +onlyGivenNames x; first | (have _p : PldSt := x; clear _p; unfold x) | skip)
    | simp only [↓kept_mk_iff]
    | split
    | dsimp only
    | (dsimp +zetaDelta only; split)

theorem State.ptpInput_kept {o : State} {s : State} {source : Option Int} (h : Kept o s) : Kept o (State.ptpInput s source) := by
  unfold State.ptpInput
  repeat' first
    | with_reducible assumption
    | with_reducible exact rfl
    | with_reducible refine State.servoInput_kept ?_
    | with_reducible refine State.noteUpstream_kept ?_
    | with_reducible refine State.upstreamValid_kept ?_
    | (extract_lets +onlyGivenNames s; refine kept_have (o := o) (x := s) ?_ (fun h => ?_); (on_goal 1 => unfold s; clear s); (on_goal 2 => try clear_value s))
    | (extract_lets +onlyGivenNames x; first | (have _p : PldSt := x; clear _p; unfold x) | skip)
    | simp only [↓kept_mk_iff]
    | with_reducible refine kept_ite (fun _ => ?_) (fun _ => ?_)
    | split
    | dsimp only
    | (dsimp +zetaDelta only; split)

theorem execServoWindowEnd_kept {o : State} {source : Option Int} {s : State} (h : Kept o s) : Keeps o (execServoWindowEnd source s) := by
  unfold execServoWindowEnd
  repeat' first
    | with_reducible assumption
    | with_reducible exact rfl
    | with_reducible refine State.servoStep_kept ?_
    | with_reducible refine State.ptpInput_kept ?_
    | with_reducible refine keeps_next ?_
    | (extract_lets +onlyGivenNames s; refine kept_have (o := o) (x := s) ?_ (fun h => ?_); (on_goal 1 => unfold s; clear s); (on_goal 2 => try clear_value s))
    | (extract_lets +onlyGivenNames x; first | (have _p : PldSt := x; clear _p; unfold x) | skip)
    | simp only [↓kept_mk_iff]
    | with_reducible refine kept_ite (fun _ => ?_) (fun _ => ?_)
    | split
    | dsimp only
    | (dsimp +zetaDelta only; split)

end Sys2Proof.Machine
end

