-- ==== Sys2Proof/Laws/KeptBootEnd.lean ====
section
/-! SUPPORT. What the operations of Machine/BootEnd.lean keep (Laws/Kept.lean). -/

set_option linter.all false

namespace Sys2Proof.Machine

theorem State.setUp_kept {o : State} {s : State} {k' : Nat} {sizeGiB : Nat} (h : Kept o s) : Kept o (State.setUp s k' sizeGiB) := by
  unfold State.setUp
  repeat' first
    | with_reducible assumption
    | with_reducible exact rfl
    | with_reducible refine State.trained_kept ?_
    | with_reducible refine State.timeAfterReset_kept ?_
    | with_reducible refine State.readCalibration_kept ?_
    | with_reducible refine State.showGroups_kept ?_
    | with_reducible refine State.avsBoot_kept ?_
    | (extract_lets +onlyGivenNames s; refine kept_have (o := o) (x := s) ?_ (fun h => ?_); (on_goal 1 => unfold s; clear s); (on_goal 2 => try clear_value s))
    | (extract_lets +onlyGivenNames x; first | (have _p : PldSt := x; clear _p; unfold x) | skip)
    | simp only [↓kept_mk_iff]
    | with_reducible refine kept_ite (fun _ => ?_) (fun _ => ?_)
    | split
    | dsimp only
    | (dsimp +zetaDelta only; split)

theorem State.startAgent_kept {o : State} {s : State} {k' : Nat} (h : Kept o s) : Kept o (State.startAgent s k') := by
  unfold State.startAgent
  repeat' first
    | with_reducible assumption
    | with_reducible exact rfl
    | with_reducible refine State.restartSession_kept ?_
    | with_reducible refine State.put_kept ?_
    | (extract_lets +onlyGivenNames s; refine kept_have (o := o) (x := s) ?_ (fun h => ?_); (on_goal 1 => unfold s; clear s); (on_goal 2 => try clear_value s))
    | (extract_lets +onlyGivenNames x; first | (have _p : PldSt := x; clear _p; unfold x) | skip)
    | simp only [↓kept_mk_iff]
    | with_reducible refine kept_ite (fun _ => ?_) (fun _ => ?_)
    | split
    | dsimp only
    | (dsimp +zetaDelta only; split)

theorem execLoaderResetEnd_kept {o : State} {sizeGiB : Nat} {s : State} (h : Kept o s) : Keeps o (execLoaderResetEnd sizeGiB s) := by
  unfold execLoaderResetEnd
  repeat' first
    | with_reducible assumption
    | with_reducible exact rfl
    | with_reducible refine State.setUp_kept ?_
    | with_reducible refine State.startAgent_kept ?_
    | with_reducible refine keeps_next ?_
    | (extract_lets +onlyGivenNames s; refine kept_have (o := o) (x := s) ?_ (fun h => ?_); (on_goal 1 => unfold s; clear s); (on_goal 2 => try clear_value s))
    | (extract_lets +onlyGivenNames x; first | (have _p : PldSt := x; clear _p; unfold x) | skip)
    | simp only [↓kept_mk_iff]
    | with_reducible refine kept_ite (fun _ => ?_) (fun _ => ?_)
    | split
    | dsimp only
    | (dsimp +zetaDelta only; split)

theorem State.takeRoles_kept {o : State} {s : State} (h : Kept o s) : Kept o (State.takeRoles s) := by
  unfold State.takeRoles
  repeat' first
    | with_reducible assumption
    | with_reducible exact rfl
    | with_reducible refine State.fixTimeSource_kept ?_
    | with_reducible refine State.setRole_kept ?_
    | with_reducible refine State.put_kept ?_
    | with_reducible refine State.setSlotInfo_kept ?_
    | (extract_lets +onlyGivenNames s; refine kept_have (o := o) (x := s) ?_ (fun h => ?_); (on_goal 1 => unfold s; clear s); (on_goal 2 => try clear_value s))
    | (extract_lets +onlyGivenNames x; first | (have _p : PldSt := x; clear _p; unfold x) | skip)
    | simp only [↓kept_mk_iff]
    | dsimp only

theorem State.enterRole_kept {o : State} {s : State} (h : Kept o s) : Kept o (State.enterRole s) := by
  unfold State.enterRole
  repeat' first
    | with_reducible assumption
    | with_reducible refine State.takePulse_kept ?_
    | with_reducible refine State.setMode_kept ?_
    | (extract_lets +onlyGivenNames s; refine kept_have (o := o) (x := s) ?_ (fun h => ?_); (on_goal 1 => unfold s; clear s); (on_goal 2 => try clear_value s))
    | (extract_lets +onlyGivenNames x; first | (have _p : PldSt := x; clear _p; unfold x) | skip)
    | with_reducible refine kept_ite (fun _ => ?_) (fun _ => ?_)
    | split
    | dsimp only
    | (dsimp +zetaDelta only; split)

theorem State.payReport_kept {o : State} {s : State} (h : Kept o s) : Kept o (State.payReport s) := by
  unfold State.payReport
  repeat' first
    | with_reducible assumption
    | with_reducible exact rfl
    | with_reducible refine State.unicast_kept ?_
    | (extract_lets +onlyGivenNames s; refine kept_have (o := o) (x := s) ?_ (fun h => ?_); (on_goal 1 => unfold s; clear s); (on_goal 2 => try clear_value s))
    | (extract_lets +onlyGivenNames x; first | (have _p : PldSt := x; clear _p; unfold x) | skip)
    | simp only [↓kept_mk_iff]
    | split
    | dsimp only
    | (dsimp +zetaDelta only; split)

theorem execProcessorsReady_kept {o : State} {s : State} (h : Kept o s) : Keeps o (execProcessorsReady s) := by
  unfold execProcessorsReady
  repeat' first
    | with_reducible assumption
    | with_reducible refine State.payReport_kept ?_
    | with_reducible refine State.singlePins_kept ?_
    | with_reducible refine State.avsStart_kept ?_
    | with_reducible refine State.broadcast_kept ?_
    | with_reducible refine State.sendFullState_kept ?_
    | with_reducible refine State.takeRoles_kept ?_
    | with_reducible refine State.enterRole_kept ?_
    | with_reducible refine keeps_next ?_
    | (extract_lets +onlyGivenNames s; refine kept_have (o := o) (x := s) ?_ (fun h => ?_); (on_goal 1 => unfold s; clear s); (on_goal 2 => try clear_value s))
    | (extract_lets +onlyGivenNames x; first | (have _p : PldSt := x; clear _p; unfold x) | skip)
    | with_reducible refine kept_ite (fun _ => ?_) (fun _ => ?_)
    | split
    | dsimp only
    | (dsimp +zetaDelta only; split)

theorem State.rootDone_kept {o : State} {s : State} (h : Kept o s) : Kept o (State.rootDone s) := by
  unfold State.rootDone
  repeat' first
    | with_reducible assumption
    | with_reducible exact rfl
    | with_reducible refine State.actReported_kept ?_
    | with_reducible refine State.unarm_kept ?_
    | (extract_lets +onlyGivenNames s; refine kept_have (o := o) (x := s) ?_ (fun h => ?_); (on_goal 1 => unfold s; clear s); (on_goal 2 => try clear_value s))
    | (extract_lets +onlyGivenNames x; first | (have _p : PldSt := x; clear _p; unfold x) | skip)
    | simp only [↓kept_mk_iff]
    | with_reducible refine kept_ite (fun _ => ?_) (fun _ => ?_)
    | split
    | dsimp only
    | (dsimp +zetaDelta only; split)

theorem execActAllReady_kept {o : State} {s : State} (h : Kept o s) : Keeps o (execActAllReady s) := by
  unfold execActAllReady
  repeat' first
    | with_reducible assumption
    | with_reducible exact rfl
    | with_reducible refine State.disarm_kept ?_
    | with_reducible refine State.rootDone_kept ?_
    | with_reducible refine State.startTake_kept ?_
    | with_reducible refine State.setSlotInfo_kept ?_
    | with_reducible refine keeps_next ?_
    | (extract_lets +onlyGivenNames s; refine kept_have (o := o) (x := s) ?_ (fun h => ?_); (on_goal 1 => unfold s; clear s); (on_goal 2 => try clear_value s))
    | (extract_lets +onlyGivenNames x; first | (have _p : PldSt := x; clear _p; unfold x) | skip)
    | simp only [↓kept_mk_iff]
    | with_reducible refine kept_ite (fun _ => ?_) (fun _ => ?_)
    | split
    | dsimp only
    | (dsimp +zetaDelta only; split)

end Sys2Proof.Machine
end

