-- ==== Sys2Proof/Laws/KeptInts.lean ====
section
/-! SUPPORT. What the operations of Machine/Ints.lean keep (Laws/Kept.lean). -/

set_option linter.all false

namespace Sys2Proof.Machine

theorem State.latchLevels_kept {o : State} {s : State} (h : Kept o s) : Kept o (State.latchLevels s) := by
  unfold State.latchLevels
  repeat' first
    | with_reducible assumption
    | with_reducible refine State.pendShared_kept ?_
    | with_reducible refine kept_foldl ?_ (fun s x h => ?_)
    | with_reducible refine kept_ite (fun _ => ?_) (fun _ => ?_)
    | split
    | dsimp only
    | (dsimp +zetaDelta only; split)

theorem State.setBank_kept {o : State} {s : State} {b : Nat} {x : IntBank} (h : Kept o s) : Kept o (State.setBank s b x) := by
  unfold State.setBank
  repeat' first
    | with_reducible assumption
    | with_reducible exact rfl
    | (extract_lets +onlyGivenNames s; refine kept_have (o := o) (x := s) ?_ (fun h => ?_); (on_goal 1 => unfold s; clear s); (on_goal 2 => try clear_value s))
    | (extract_lets +onlyGivenNames x; first | (have _p : PldSt := x; clear _p; unfold x) | skip)
    | simp only [↓kept_mk_iff]
    | dsimp only

theorem State.setInsvc_kept {o : State} {s : State} {b : Nat} {v : Nat} (h : Kept o s) : Kept o (State.setInsvc s b v) := by
  unfold State.setInsvc
  repeat' first
    | with_reducible assumption
    | with_reducible exact rfl
    | with_reducible refine State.put_kept ?_
    | (extract_lets +onlyGivenNames s; refine kept_have (o := o) (x := s) ?_ (fun h => ?_); (on_goal 1 => unfold s; clear s); (on_goal 2 => try clear_value s))
    | (extract_lets +onlyGivenNames x; first | (have _p : PldSt := x; clear _p; unfold x) | skip)
    | simp only [↓kept_mk_iff]
    | dsimp only

theorem State.intAccept_kept {o : State} {s : State} {b : Nat} (h : Kept o s) : Kept o (State.intAccept s b) := by
  unfold State.intAccept
  repeat' first
    | with_reducible assumption
    | with_reducible exact rfl
    | with_reducible refine State.setInsvc_kept ?_
    | with_reducible refine State.inc_kept ?_
    | with_reducible refine State.setBank_kept ?_
    | (extract_lets +onlyGivenNames s; refine kept_have (o := o) (x := s) ?_ (fun h => ?_); (on_goal 1 => unfold s; clear s); (on_goal 2 => try clear_value s))
    | (extract_lets +onlyGivenNames x; first | (have _p : PldSt := x; clear _p; unfold x) | skip)
    | simp only [↓kept_mk_iff]
    | with_reducible refine kept_ite (fun _ => ?_) (fun _ => ?_)
    | split
    | dsimp only
    | (dsimp +zetaDelta only; split)

theorem execIntAccept_kept {o : State} {b : Fin 9} {s : State} (h : Kept o s) : Keeps o (execIntAccept b s) := by
  unfold execIntAccept
  repeat' first
    | with_reducible assumption
    | with_reducible refine State.intAccept_kept ?_
    | with_reducible refine keeps_next ?_
    | with_reducible refine kept_ite (fun _ => ?_) (fun _ => ?_)
    | split
    | dsimp only
    | (dsimp +zetaDelta only; split)

theorem execIntEntryDone_kept {o : State} {b : Fin 9} {s : State} (h : Kept o s) : Keeps o (execIntEntryDone b s) := by
  unfold execIntEntryDone
  repeat' first
    | with_reducible assumption
    | with_reducible exact rfl
    | with_reducible refine State.setBank_kept ?_
    | with_reducible refine State.intAccept_kept ?_
    | with_reducible refine keeps_next ?_
    | (extract_lets +onlyGivenNames s; refine kept_have (o := o) (x := s) ?_ (fun h => ?_); (on_goal 1 => unfold s; clear s); (on_goal 2 => try clear_value s))
    | (extract_lets +onlyGivenNames x; first | (have _p : PldSt := x; clear _p; unfold x) | skip)
    | simp only [↓kept_mk_iff]
    | with_reducible refine kept_ite (fun _ => ?_) (fun _ => ?_)
    | split
    | dsimp only
    | (dsimp +zetaDelta only; split)

theorem execIntExitDone_kept {o : State} {b : Fin 9} {s : State} (h : Kept o s) : Keeps o (execIntExitDone b s) := by
  unfold execIntExitDone
  repeat' first
    | with_reducible assumption
    | with_reducible exact rfl
    | with_reducible refine State.setBank_kept ?_
    | with_reducible refine State.intAccept_kept ?_
    | with_reducible refine keeps_next ?_
    | (extract_lets +onlyGivenNames s; refine kept_have (o := o) (x := s) ?_ (fun h => ?_); (on_goal 1 => unfold s; clear s); (on_goal 2 => try clear_value s))
    | (extract_lets +onlyGivenNames x; first | (have _p : PldSt := x; clear _p; unfold x) | skip)
    | simp only [↓kept_mk_iff]
    | with_reducible refine kept_ite (fun _ => ?_) (fun _ => ?_)
    | split
    | dsimp only
    | (dsimp +zetaDelta only; split)

theorem State.resample_kept {o : State} {s : State} {b : Nat} {src : Nat} (h : Kept o s) : Kept o (State.resample s b src) := by
  unfold State.resample
  repeat' first
    | with_reducible assumption
    | with_reducible refine State.dropBits_kept ?_
    | with_reducible refine State.orBits_kept ?_
    | (extract_lets +onlyGivenNames s; refine kept_have (o := o) (x := s) ?_ (fun h => ?_); (on_goal 1 => unfold s; clear s); (on_goal 2 => try clear_value s))
    | (extract_lets +onlyGivenNames x; first | (have _p : PldSt := x; clear _p; unfold x) | skip)
    | with_reducible refine kept_ite (fun _ => ?_) (fun _ => ?_)
    | split
    | dsimp only
    | (dsimp +zetaDelta only; split)

theorem State.intComplete_kept {o : State} {s : State} {req : Requester} {b : Nat} {l' : Nat} {low : List Nat} (h : Kept o s) : Kept o (State.intComplete s req b l' low) := by
  unfold State.intComplete
  repeat' first
    | with_reducible assumption
    | with_reducible exact rfl
    | with_reducible refine State.setBank_kept ?_
    | with_reducible refine State.addTo_kept ?_
    | with_reducible refine State.resample_kept ?_
    | with_reducible refine State.setInsvc_kept ?_
    | with_reducible refine State.put_kept ?_
    | (extract_lets +onlyGivenNames s; refine kept_have (o := o) (x := s) ?_ (fun h => ?_); (on_goal 1 => unfold s; clear s); (on_goal 2 => try clear_value s))
    | (extract_lets +onlyGivenNames x; first | (have _p : PldSt := x; clear _p; unfold x) | skip)
    | simp only [↓kept_mk_iff]
    | with_reducible refine kept_foldl ?_ (fun s x h => ?_)
    | with_reducible refine kept_foldl_fst ?_ (fun p x h => ?_)
    | with_reducible refine kept_ite (fun _ => ?_) (fun _ => ?_)
    | split
    | dsimp only
    | (dsimp +zetaDelta only; split)

theorem execIntComplete_kept {o : State} {req : Requester} {b : Fin 9} {val : Word} {low : List Nat} {s : State} (h : Kept o s) : Keeps o (execIntComplete req b val low s) := by
  unfold execIntComplete
  repeat' first
    | with_reducible assumption
    | with_reducible refine State.intComplete_kept ?_
    | with_reducible refine keeps_next ?_
    | with_reducible refine kept_ite (fun _ => ?_) (fun _ => ?_)
    | split
    | dsimp only
    | (dsimp +zetaDelta only; split)

theorem State.pendSet_kept {o : State} {s : State} {bank : Option Nat} {w : Nat} {v : Nat} (h : Kept o s) : Kept o (State.pendSet s bank w v) := by
  unfold State.pendSet
  repeat' first
    | with_reducible assumption
    | with_reducible exact rfl
    | with_reducible refine State.pendShared_kept ?_
    | with_reducible refine State.each_kept ?_ (fun s x h => ?_)
    | with_reducible refine State.orBits_kept ?_
    | (extract_lets +onlyGivenNames s; refine kept_have (o := o) (x := s) ?_ (fun h => ?_); (on_goal 1 => unfold s; clear s); (on_goal 2 => try clear_value s))
    | (extract_lets +onlyGivenNames x; first | (have _p : PldSt := x; clear _p; unfold x) | skip)
    | simp only [↓kept_mk_iff]
    | split
    | dsimp only
    | (dsimp +zetaDelta only; split)

theorem State.pendClr_kept {o : State} {s : State} {bank : Option Nat} {w : Nat} {v : Nat} (h : Kept o s) : Kept o (State.pendClr s bank w v) := by
  unfold State.pendClr
  repeat' first
    | with_reducible assumption
    | with_reducible exact rfl
    | with_reducible refine State.dropBits_kept ?_
    | (extract_lets +onlyGivenNames s; refine kept_have (o := o) (x := s) ?_ (fun h => ?_); (on_goal 1 => unfold s; clear s); (on_goal 2 => try clear_value s))
    | (extract_lets +onlyGivenNames x; first | (have _p : PldSt := x; clear _p; unfold x) | skip)
    | simp only [↓kept_mk_iff]
    | split
    | dsimp only
    | (dsimp +zetaDelta only; split)

theorem State.maskSet_kept {o : State} {s : State} {bank : Option Nat} {w : Nat} {v : Nat} (h : Kept o s) : Kept o (State.maskSet s bank w v) := by
  unfold State.maskSet
  repeat' first
    | with_reducible assumption
    | with_reducible exact rfl
    | with_reducible refine State.orBits_kept ?_
    | (extract_lets +onlyGivenNames s; refine kept_have (o := o) (x := s) ?_ (fun h => ?_); (on_goal 1 => unfold s; clear s); (on_goal 2 => try clear_value s))
    | (extract_lets +onlyGivenNames x; first | (have _p : PldSt := x; clear _p; unfold x) | skip)
    | simp only [↓kept_mk_iff]
    | split
    | dsimp only
    | (dsimp +zetaDelta only; split)

theorem State.maskClr_kept {o : State} {s : State} {bank : Option Nat} {w : Nat} {v : Nat} (h : Kept o s) : Kept o (State.maskClr s bank w v) := by
  unfold State.maskClr
  repeat' first
    | with_reducible assumption
    | with_reducible exact rfl
    | with_reducible refine State.msix_kept ?_
    | with_reducible refine State.each_kept ?_ (fun s x h => ?_)
    | with_reducible refine State.dropBits_kept ?_
    | (extract_lets +onlyGivenNames s; refine kept_have (o := o) (x := s) ?_ (fun h => ?_); (on_goal 1 => unfold s; clear s); (on_goal 2 => try clear_value s))
    | (extract_lets +onlyGivenNames x; first | (have _p : PldSt := x; clear _p; unfold x) | skip)
    | simp only [↓kept_mk_iff]
    | split
    | dsimp only
    | (dsimp +zetaDelta only; split)

theorem State.writeRoute_kept {o : State} {s : State} {n : Nat} {v : Nat} (h : Kept o s) : Kept o (State.writeRoute s n v) := by
  unfold State.writeRoute
  repeat' first
    | with_reducible assumption
    | with_reducible refine State.put_kept ?_
    | (extract_lets +onlyGivenNames s; refine kept_have (o := o) (x := s) ?_ (fun h => ?_); (on_goal 1 => unfold s; clear s); (on_goal 2 => try clear_value s))
    | (extract_lets +onlyGivenNames x; first | (have _p : PldSt := x; clear _p; unfold x) | skip)
    | with_reducible refine kept_ite (fun _ => ?_) (fun _ => ?_)
    | split
    | dsimp only
    | (dsimp +zetaDelta only; split)

theorem State.onBank_kept {o s : State} {bank : Fin 10} {w : Fin 32} {f : Option Nat → State} (h : Kept o s)
    (hf : ∀ b, Kept o (f b)) : Kept o (s.onBank bank w f) := by
  unfold State.onBank
  repeat' first
    | exact h
    | apply hf
    | lift_lets
    | intro b
    | split

theorem execIntPendSet_kept {o : State} {bank : Fin 10} {w : Fin 32} {val : Word} {s : State} (h : Kept o s) : Keeps o (execIntPendSet bank w val s) := by
  unfold execIntPendSet
  repeat' first
    | with_reducible assumption
    | with_reducible refine State.pendSet_kept ?_
    | with_reducible refine State.onBank_kept ?_ (fun x => ?_)
    | with_reducible refine keeps_next ?_
    | dsimp only

theorem execIntPendClr_kept {o : State} {bank : Fin 10} {w : Fin 32} {val : Word} {s : State} (h : Kept o s) : Keeps o (execIntPendClr bank w val s) := by
  unfold execIntPendClr
  repeat' first
    | with_reducible assumption
    | with_reducible refine State.pendClr_kept ?_
    | with_reducible refine State.onBank_kept ?_ (fun x => ?_)
    | with_reducible refine keeps_next ?_
    | dsimp only

theorem execIntMaskSet_kept {o : State} {bank : Fin 10} {w : Fin 32} {val : Word} {s : State} (h : Kept o s) : Keeps o (execIntMaskSet bank w val s) := by
  unfold execIntMaskSet
  repeat' first
    | with_reducible assumption
    | with_reducible refine State.maskSet_kept ?_
    | with_reducible refine State.onBank_kept ?_ (fun x => ?_)
    | with_reducible refine keeps_next ?_
    | dsimp only

theorem execIntMaskClr_kept {o : State} {bank : Fin 10} {w : Fin 32} {val : Word} {s : State} (h : Kept o s) : Keeps o (execIntMaskClr bank w val s) := by
  unfold execIntMaskClr
  repeat' first
    | with_reducible assumption
    | with_reducible refine State.maskClr_kept ?_
    | with_reducible refine State.onBank_kept ?_ (fun x => ?_)
    | with_reducible refine keeps_next ?_
    | dsimp only

theorem execIntRouteWrite_kept {o : State} {n : Fin 1024} {val : Word} {s : State} (h : Kept o s) : Keeps o (execIntRouteWrite n val s) := by
  unfold execIntRouteWrite
  repeat' first
    | with_reducible assumption
    | with_reducible refine State.writeRoute_kept ?_
    | with_reducible refine keeps_next ?_
    | with_reducible refine kept_ite (fun _ => ?_) (fun _ => ?_)
    | split
    | dsimp only
    | (dsimp +zetaDelta only; split)

end Sys2Proof.Machine
end

