-- ==== Sys2Proof/Laws/KeptUnits.lean ====
section
/-! SUPPORT. What the operations of Machine/Units.lean keep (Laws/Kept.lean). -/

set_option linter.all false

namespace Sys2Proof.Machine

theorem State.startSend_kept {o : State} {s : State} {ep : Nat} (h : Kept o s) : Kept o (State.startSend s ep) := by
  unfold State.startSend
  repeat' first
    | with_reducible assumption
    | with_reducible exact rfl
    | with_reducible refine State.settingsSet_kept ?_
    | with_reducible refine State.canLoad_kept ?_
    | with_reducible refine State.lineEntry_kept ?_
    | with_reducible refine State.portStart_kept ?_
    | with_reducible refine State.ethStart_kept ?_
    | (extract_lets +onlyGivenNames s; refine kept_have (o := o) (x := s) ?_ (fun h => ?_); (on_goal 1 => unfold s; clear s); (on_goal 2 => try clear_value s))
    | (extract_lets +onlyGivenNames x; first | (have _p : PldSt := x; clear _p; unfold x) | skip)
    | simp only [↓kept_mk_iff]
    | with_reducible refine kept_ite (fun _ => ?_) (fun _ => ?_)
    | split
    | dsimp only
    | (dsimp +zetaDelta only; split)

theorem execSend_kept {o : State} {ep : BitVec 12} {s : State} (h : Kept o s) : Keeps o (execSend ep s) := by
  unfold execSend
  repeat' first
    | with_reducible assumption
    | with_reducible refine State.startSend_kept ?_
    | with_reducible refine keeps_next ?_
    | dsimp only

theorem execSendTimeReached_kept {o : State} {ep : BitVec 12} {s : State} (h : Kept o s) : Keeps o (execSendTimeReached ep s) := by
  unfold execSendTimeReached
  repeat' first
    | with_reducible assumption
    | with_reducible refine State.startSend_kept ?_
    | with_reducible refine keeps_next ?_
    | with_reducible refine kept_ite (fun _ => ?_) (fun _ => ?_)
    | split
    | dsimp only
    | (dsimp +zetaDelta only; split)

theorem State.deliver_kept {o : State} {s : State} {ep : Nat} (h : Kept o s) : Kept o (State.deliver s ep) := by
  unfold State.deliver
  repeat' first
    | with_reducible assumption
    | with_reducible exact rfl
    | with_reducible refine State.canDeliver_kept ?_
    | with_reducible refine State.lineDeliver_kept ?_
    | with_reducible refine State.portDeliver_kept ?_
    | with_reducible refine State.ethDeliver_kept ?_
    | (extract_lets +onlyGivenNames s; refine kept_have (o := o) (x := s) ?_ (fun h => ?_); (on_goal 1 => unfold s; clear s); (on_goal 2 => try clear_value s))
    | (extract_lets +onlyGivenNames x; first | (have _p : PldSt := x; clear _p; unfold x) | skip)
    | simp only [↓kept_mk_iff]
    | split
    | dsimp only
    | (dsimp +zetaDelta only; split)

theorem execRxPost_kept {o : State} {src : Nat} {sq : Nat} {wsn : Nat} {s : State} (h : Kept o s) : Keeps o (execRxPost src sq wsn s) := by
  unfold execRxPost
  repeat' first
    | with_reducible assumption
    | with_reducible exact rfl
    | with_reducible refine State.takeWork_kept ?_
    | with_reducible refine State.deliver_kept ?_
    | with_reducible refine keeps_next ?_
    | (extract_lets +onlyGivenNames s; refine kept_have (o := o) (x := s) ?_ (fun h => ?_); (on_goal 1 => unfold s; clear s); (on_goal 2 => try clear_value s))
    | (extract_lets +onlyGivenNames x; first | (have _p : PldSt := x; clear _p; unfold x) | skip)
    | simp only [↓kept_mk_iff]
    | with_reducible refine kept_ite (fun _ => ?_) (fun _ => ?_)
    | split
    | dsimp only
    | (dsimp +zetaDelta only; split)

theorem execPortDown_kept {o : State} {port : Nat} {s : State} (h : Kept o s) : Keeps o (execPortDown port s) := by
  unfold execPortDown
  repeat' first
    | with_reducible assumption
    | with_reducible exact rfl
    | with_reducible refine State.epLinkLost_kept ?_
    | with_reducible refine State.ethLinkLost_kept ?_
    | with_reducible refine State.setFlap_kept ?_
    | with_reducible refine State.portLoss_kept ?_
    | with_reducible refine keeps_next ?_
    | (extract_lets +onlyGivenNames s; refine kept_have (o := o) (x := s) ?_ (fun h => ?_); (on_goal 1 => unfold s; clear s); (on_goal 2 => try clear_value s))
    | (extract_lets +onlyGivenNames x; first | (have _p : PldSt := x; clear _p; unfold x) | skip)
    | simp only [↓kept_mk_iff]
    | with_reducible refine kept_ite (fun _ => ?_) (fun _ => ?_)
    | split
    | dsimp only
    | (dsimp +zetaDelta only; split)

theorem execLinkReturn_kept {o : State} {port : Nat} {s : State} (h : Kept o s) : Keeps o (execLinkReturn port s) := by
  unfold execLinkReturn
  repeat' first
    | with_reducible assumption
    | with_reducible refine State.epLinkReturn_kept ?_
    | with_reducible refine State.showLanes_kept ?_
    | with_reducible refine State.setFlap_kept ?_
    | with_reducible refine keeps_next ?_
    | with_reducible refine kept_ite (fun _ => ?_) (fun _ => ?_)
    | split
    | dsimp only
    | (dsimp +zetaDelta only; split)

theorem execLinkStableExpiry_kept {o : State} {port : Nat} {s : State} (h : Kept o s) : Keeps o (execLinkStableExpiry port s) := by
  unfold execLinkStableExpiry
  repeat' first
    | with_reducible assumption
    | with_reducible refine State.epLinkStable_kept ?_
    | with_reducible refine State.setFlap_kept ?_
    | with_reducible refine State.portUp_kept ?_
    | with_reducible refine keeps_next ?_
    | with_reducible refine kept_ite (fun _ => ?_) (fun _ => ?_)
    | split
    | dsimp only
    | (dsimp +zetaDelta only; split)

theorem State.purge_kept {o : State} {s : State} {ep : Nat} (h : Kept o s) : Kept o (State.purge s ep) := by
  unfold State.purge
  repeat' first
    | with_reducible assumption
    | with_reducible exact rfl
    | with_reducible refine State.setLine_kept ?_
    | with_reducible refine State.setPortSt_kept ?_
    | with_reducible refine State.showPort_kept ?_
    | with_reducible refine State.updObj_kept ?_
    | (extract_lets +onlyGivenNames s; refine kept_have (o := o) (x := s) ?_ (fun h => ?_); (on_goal 1 => unfold s; clear s); (on_goal 2 => try clear_value s))
    | (extract_lets +onlyGivenNames x; first | (have _p : PldSt := x; clear _p; unfold x) | skip)
    | simp only [↓kept_mk_iff]
    | with_reducible refine kept_foldl ?_ (fun s x h => ?_)
    | with_reducible refine kept_foldl_fst ?_ (fun p x h => ?_)
    | with_reducible refine kept_ite (fun _ => ?_) (fun _ => ?_)
    | split
    | dsimp only
    | (dsimp +zetaDelta only; split)

theorem execHoldTimeExpiry_kept {o : State} {port : Nat} {s : State} (h : Kept o s) : Keeps o (execHoldTimeExpiry port s) := by
  unfold execHoldTimeExpiry
  repeat' first
    | with_reducible assumption
    | with_reducible exact rfl
    | with_reducible refine State.epHoldExpiry_kept ?_
    | with_reducible refine State.purge_kept ?_
    | with_reducible refine State.redirectQueued_kept ?_
    | with_reducible refine State.setPort_kept ?_
    | with_reducible refine keeps_next ?_
    | (extract_lets +onlyGivenNames s; refine kept_have (o := o) (x := s) ?_ (fun h => ?_); (on_goal 1 => unfold s; clear s); (on_goal 2 => try clear_value s))
    | (extract_lets +onlyGivenNames x; first | (have _p : PldSt := x; clear _p; unfold x) | skip)
    | simp only [↓kept_mk_iff]
    | with_reducible refine kept_foldl ?_ (fun s x h => ?_)
    | with_reducible refine kept_foldl_fst ?_ (fun p x h => ?_)
    | with_reducible refine kept_ite (fun _ => ?_) (fun _ => ?_)
    | split
    | dsimp only
    | (dsimp +zetaDelta only; split)

theorem State.showThreat_kept {o : State} {s : State} {d : Nat} (h : Kept o s) : Kept o (State.showThreat s d) := by
  unfold State.showThreat
  repeat' first
    | with_reducible assumption
    | with_reducible refine State.pauseAll_kept ?_
    | with_reducible refine State.showForced_kept ?_
    | dsimp only

theorem execPaceThreat_kept {o : State} {d : Fin 17} {pace : BitVec 16} {s : State} (h : Kept o s) : Keeps o (execPaceThreat d pace s) := by
  unfold execPaceThreat
  repeat' first
    | with_reducible assumption
    | with_reducible exact rfl
    | with_reducible refine State.paceThreat_kept ?_
    | with_reducible refine State.showThreat_kept ?_
    | with_reducible refine keeps_next ?_
    | (extract_lets +onlyGivenNames s; refine kept_have (o := o) (x := s) ?_ (fun h => ?_); (on_goal 1 => unfold s; clear s); (on_goal 2 => try clear_value s))
    | (extract_lets +onlyGivenNames x; first | (have _p : PldSt := x; clear _p; unfold x) | skip)
    | simp only [↓kept_mk_iff]
    | dsimp only

theorem execFlowControlRelease_kept {o : State} {d : Fin 17} {s : State} (h : Kept o s) : Keeps o (execFlowControlRelease d s) := by
  unfold execFlowControlRelease
  repeat' first
    | with_reducible assumption
    | with_reducible refine State.canDeliver_kept ?_
    | with_reducible refine State.each_kept ?_ (fun s x h => ?_)
    | with_reducible refine State.releaseThreat_kept ?_
    | with_reducible refine State.showThreat_kept ?_
    | with_reducible refine keeps_next ?_
    | (extract_lets +onlyGivenNames s; refine kept_have (o := o) (x := s) ?_ (fun h => ?_); (on_goal 1 => unfold s; clear s); (on_goal 2 => try clear_value s))
    | (extract_lets +onlyGivenNames x; first | (have _p : PldSt := x; clear _p; unfold x) | skip)
    | with_reducible refine kept_ite (fun _ => ?_) (fun _ => ?_)
    | split
    | dsimp only
    | (dsimp +zetaDelta only; split)

theorem State.canTear_kept {o : State} {s : State} {n : Nat} {c : Nat} (h : Kept o s) : Kept o (State.canTear s n c) := by
  unfold State.canTear
  repeat' first
    | with_reducible assumption
    | with_reducible exact rfl
    | with_reducible refine State.setCan_kept ?_
    | with_reducible refine State.setTxPend_kept ?_
    | with_reducible refine State.tearWork_kept ?_
    | (extract_lets +onlyGivenNames s; refine kept_have (o := o) (x := s) ?_ (fun h => ?_); (on_goal 1 => unfold s; clear s); (on_goal 2 => try clear_value s))
    | (extract_lets +onlyGivenNames x; first | (have _p : PldSt := x; clear _p; unfold x) | skip)
    | simp only [↓kept_mk_iff]
    | split
    | dsimp only
    | (dsimp +zetaDelta only; split)

theorem execIslUnderrun_kept {o : State} {island : Fin 81} {engine : Fin 8} {s : State} (h : Kept o s) : Keeps o (execIslUnderrun island engine s) := by
  unfold execIslUnderrun
  repeat' first
    | with_reducible assumption
    | with_reducible refine State.islandUnderrun_kept ?_
    | with_reducible refine State.ethTear_kept ?_
    | with_reducible refine State.record_kept ?_
    | with_reducible refine State.canOff_kept ?_
    | with_reducible refine State.canTear_kept ?_
    | with_reducible refine State.emit_kept ?_
    | with_reducible refine State.pioUnderflow_kept ?_
    | with_reducible refine keeps_next ?_
    | (extract_lets +onlyGivenNames s; refine kept_have (o := o) (x := s) ?_ (fun h => ?_); (on_goal 1 => unfold s; clear s); (on_goal 2 => try clear_value s))
    | (extract_lets +onlyGivenNames x; first | (have _p : PldSt := x; clear _p; unfold x) | skip)
    | with_reducible refine kept_ite (fun _ => ?_) (fun _ => ?_)
    | split
    | dsimp only
    | (dsimp +zetaDelta only; split)

theorem State.stopUnit_kept {o : State} {s : State} {src : Nat} {info : List Nat} (h : Kept o s) : Kept o (State.stopUnit s src info) := by
  unfold State.stopUnit
  repeat' first
    | with_reducible assumption
    | with_reducible refine State.stopCam_kept ?_
    | with_reducible refine State.haltGroup_kept ?_
    | with_reducible refine State.payFails_kept ?_
    | with_reducible refine State.canOff_kept ?_
    | with_reducible refine State.ethDisable_kept ?_
    | with_reducible refine State.stopCq_kept ?_
    | with_reducible refine State.sqError_kept ?_
    | (extract_lets +onlyGivenNames s; refine kept_have (o := o) (x := s) ?_ (fun h => ?_); (on_goal 1 => unfold s; clear s); (on_goal 2 => try clear_value s))
    | (extract_lets +onlyGivenNames x; first | (have _p : PldSt := x; clear _p; unfold x) | skip)
    | with_reducible refine kept_ite (fun _ => ?_) (fun _ => ?_)
    | split
    | dsimp only
    | (dsimp +zetaDelta only; split)

theorem State.sourceEffect_kept {o : State} {s : State} {src : Nat} {info : List Nat} (h : Kept o s) : Kept o (State.sourceEffect s src info) := by
  unfold State.sourceEffect
  repeat' first
    | with_reducible assumption
    | with_reducible refine State.canOff_kept ?_
    | with_reducible refine State.raise_kept ?_
    | with_reducible refine State.frameEccU_kept ?_
    | with_reducible refine State.inc_kept ?_
    | with_reducible refine kept_ite (fun _ => ?_) (fun _ => ?_)
    | split
    | dsimp only
    | (dsimp +zetaDelta only; split)

theorem execFaultRecord_kept {o : State} {src : Fin 640} {info : List Word} {s : State} (h : Kept o s) : Keeps o (execFaultRecord src info s) := by
  unfold execFaultRecord
  repeat' first
    | with_reducible assumption
    | with_reducible refine State.stopUnit_kept ?_
    | with_reducible refine State.recordWith_kept ?_
    | with_reducible refine State.sourceEffect_kept ?_
    | with_reducible refine keeps_next ?_
    | (extract_lets +onlyGivenNames s; refine kept_have (o := o) (x := s) ?_ (fun h => ?_); (on_goal 1 => unfold s; clear s); (on_goal 2 => try clear_value s))
    | (extract_lets +onlyGivenNames x; first | (have _p : PldSt := x; clear _p; unfold x) | skip)
    | with_reducible refine kept_ite (fun _ => ?_) (fun _ => ?_)
    | split
    | dsimp only
    | (dsimp +zetaDelta only; split)

theorem execFltAckC_kept {o : State} {val : Word} {s : State} (h : Kept o s) : Keeps o (execFltAckC val s) := by
  unfold execFltAckC
  repeat' first
    | with_reducible assumption
    | with_reducible refine State.acknowledge_kept ?_
    | with_reducible refine keeps_next ?_
    | dsimp only

theorem execFltAckU_kept {o : State} {val : Word} {s : State} (h : Kept o s) : Keeps o (execFltAckU val s) := by
  unfold execFltAckU
  repeat' first
    | with_reducible assumption
    | with_reducible refine State.acknowledge_kept ?_
    | with_reducible refine keeps_next ?_
    | dsimp only

theorem execFltAckF_kept {o : State} {val : Word} {s : State} (h : Kept o s) : Keeps o (execFltAckF val s) := by
  unfold execFltAckF
  repeat' first
    | with_reducible assumption
    | with_reducible refine State.acknowledge_kept ?_
    | with_reducible refine keeps_next ?_
    | dsimp only

theorem State.writeAction_kept {o : State} {s : State} {n : Nat} {v : Nat} (h : Kept o s) : Kept o (State.writeAction s n v) := by
  unfold State.writeAction
  repeat' first
    | with_reducible assumption
    | with_reducible refine State.put_kept ?_
    | (extract_lets +onlyGivenNames s; refine kept_have (o := o) (x := s) ?_ (fun h => ?_); (on_goal 1 => unfold s; clear s); (on_goal 2 => try clear_value s))
    | (extract_lets +onlyGivenNames x; first | (have _p : PldSt := x; clear _p; unfold x) | skip)
    | with_reducible refine kept_ite (fun _ => ?_) (fun _ => ?_)
    | split
    | dsimp only
    | (dsimp +zetaDelta only; split)

theorem execFltActionWrite_kept {o : State} {n : Fin 640} {val : Word} {s : State} (h : Kept o s) : Keeps o (execFltActionWrite n val s) := by
  unfold execFltActionWrite
  repeat' first
    | with_reducible assumption
    | with_reducible refine State.writeAction_kept ?_
    | with_reducible refine keeps_next ?_
    | dsimp only

theorem execFaultNPulseEnd_kept {o : State} {s : State} (h : Kept o s) : Keeps o (execFaultNPulseEnd s) := by
  unfold execFaultNPulseEnd
  repeat' first
    | with_reducible assumption
    | with_reducible refine State.put_kept ?_
    | with_reducible refine State.emit_kept ?_
    | with_reducible refine keeps_next ?_
    | with_reducible refine kept_ite (fun _ => ?_) (fun _ => ?_)
    | split
    | dsimp only
    | (dsimp +zetaDelta only; split)

end Sys2Proof.Machine
end

