-- ==== Sys2Proof/Laws/KeptBus.lean ====
section
/-! SUPPORT. What the operations of Machine/Bus.lean keep (Laws/Kept.lean). -/

set_option linter.all false

namespace Sys2Proof.Machine

theorem kept_nextOf {o s : State} {r : Host.Outcome State Fault Refusal} (h : Kept o s) (hr : Keeps o r) : Kept o (nextOf r s) := by
  unfold nextOf
  split
  · next t => exact hr t rfl
  · exact h

theorem State.writeField_kept {o : State} {s : State} {f : Field} {a : Reg.Acc} {v : Nat} (h : Kept o s) : Kept o (State.writeField s f a v) := by
  unfold State.writeField
  repeat' first
    | with_reducible assumption
    | with_reducible exact rfl
    | with_reducible refine State.orBits_kept ?_
    | with_reducible refine State.dropBits_kept ?_
    | with_reducible refine State.put_kept ?_
    | (extract_lets +onlyGivenNames s; refine kept_have (o := o) (x := s) ?_ (fun h => ?_); (on_goal 1 => unfold s; clear s); (on_goal 2 => try clear_value s))
    | (extract_lets +onlyGivenNames x; first | (have _p : PldSt := x; clear _p; unfold x) | skip)
    | simp only [↓kept_mk_iff]
    | split
    | dsimp only
    | (dsimp +zetaDelta only; split)

theorem State.plain_kept {o : State} {s : State} {off : Nat} {v : Nat} (h : Kept o s) : Kept o (State.plain s off v) := by
  unfold State.plain
  repeat' first
    | with_reducible assumption
    | with_reducible refine State.writeField_kept ?_
    | with_reducible refine kept_foldl ?_ (fun s x h => ?_)
    | with_reducible refine kept_foldl_fst ?_ (fun p x h => ?_)
    | dsimp only

theorem State.writeIf_kept {o : State} {s : State} {off : Nat} {v : Nat} {value : Bool} {state : Bool} {rej : Field} (h : Kept o s) : Kept o (State.writeIf s off v value state rej) := by
  unfold State.writeIf
  repeat' first
    | with_reducible assumption
    | with_reducible refine State.plain_kept ?_
    | with_reducible refine State.raise_kept ?_
    | with_reducible refine kept_ite (fun _ => ?_) (fun _ => ?_)
    | split
    | dsimp only
    | (dsimp +zetaDelta only; split)

theorem State.plainPair_kept {o : State} {s : State} {off : Nat} {v : Nat} (h : Kept o s) : Kept o (State.plainPair s off v) := by
  unfold State.plainPair
  repeat' first
    | with_reducible assumption
    | with_reducible refine State.plain_kept ?_
    | dsimp only

theorem State.pairIf_kept {o : State} {s : State} {off : Nat} {v : Nat} {state : Bool} {rej : Field} (h : Kept o s) : Kept o (State.pairIf s off v state rej) := by
  unfold State.pairIf
  repeat' first
    | with_reducible assumption
    | with_reducible refine State.plainPair_kept ?_
    | with_reducible refine State.raise_kept ?_
    | with_reducible refine kept_ite (fun _ => ?_) (fun _ => ?_)
    | split
    | dsimp only
    | (dsimp +zetaDelta only; split)

theorem State.writeGlb_kept {o : State} {s : State} {req : Requester} {off : Nat} {v : Nat} (h : Kept o s) : Kept o (State.writeGlb s req off v) := by
  unfold State.writeGlb
  repeat' first
    | with_reducible assumption
    | with_reducible refine State.takePulse_kept ?_
    | with_reducible refine State.plain_kept ?_
    | with_reducible refine State.showPins_kept ?_
    | with_reducible refine State.narrowReset_kept ?_
    | with_reducible refine State.record_kept ?_
    | with_reducible refine execGlbPdOnClr_kept ?_
    | with_reducible refine execGlbPdOnSet_kept ?_
    | with_reducible refine execModeReqNotAllowed_kept ?_
    | with_reducible refine execModeReqDormant_kept ?_
    | with_reducible refine execModeReqService_kept ?_
    | with_reducible refine execModeReqActive_kept ?_
    | with_reducible refine kept_nextOf ?_ ?_
    | (extract_lets +onlyGivenNames s; refine kept_have (o := o) (x := s) ?_ (fun h => ?_); (on_goal 1 => unfold s; clear s); (on_goal 2 => try clear_value s))
    | (extract_lets +onlyGivenNames x; first | (have _p : PldSt := x; clear _p; unfold x) | skip)
    | with_reducible refine kept_ite (fun _ => ?_) (fun _ => ?_)
    | split
    | dsimp only
    | (dsimp +zetaDelta only; split)

theorem State.writeBoot_kept {o : State} {s : State} {off : Nat} {v : Nat} (h : Kept o s) : Kept o (State.writeBoot s off v) := by
  unfold State.writeBoot
  repeat' first
    | with_reducible assumption
    | with_reducible exact rfl
    | with_reducible refine State.plain_kept ?_
    | with_reducible refine execCalErase_kept ?_
    | with_reducible refine execCalCommit_kept ?_
    | with_reducible refine execCalLoadShadow_kept ?_
    | with_reducible refine State.raise_kept ?_
    | with_reducible refine execActCancelCmd_kept ?_
    | with_reducible refine State.put_kept ?_
    | with_reducible refine execActArmCmd_kept ?_
    | with_reducible refine State.ctrlRestart_kept ?_
    | with_reducible refine execBootBar2Post_kept ?_
    | with_reducible refine kept_nextOf ?_ ?_
    | (extract_lets +onlyGivenNames s; refine kept_have (o := o) (x := s) ?_ (fun h => ?_); (on_goal 1 => unfold s; clear s); (on_goal 2 => try clear_value s))
    | (extract_lets +onlyGivenNames x; first | (have _p : PldSt := x; clear _p; unfold x) | skip)
    | simp only [↓kept_mk_iff]
    | with_reducible refine kept_ite (fun _ => ?_) (fun _ => ?_)
    | split
    | dsimp only
    | (dsimp +zetaDelta only; split)

theorem State.writeSqCtrl_kept {o : State} {s : State} {n : Nat} {v : Nat} (h : Kept o s) : Kept o (State.writeSqCtrl s n v) := by
  unfold State.writeSqCtrl
  repeat' first
    | with_reducible assumption
    | with_reducible refine State.writeIf_kept ?_
    | with_reducible refine execSqEnable_kept ?_
    | with_reducible refine execSqDisable_kept ?_
    | with_reducible refine kept_nextOf ?_ ?_
    | with_reducible refine kept_ite (fun _ => ?_) (fun _ => ?_)
    | split
    | dsimp only
    | (dsimp +zetaDelta only; split)

theorem State.writeJournal_kept {o : State} {s : State} {v : Nat} (h : Kept o s) : Kept o (State.writeJournal s v) := by
  unfold State.writeJournal
  repeat' first
    | with_reducible assumption
    | with_reducible exact rfl
    | with_reducible refine execJournalEnable_kept ?_
    | with_reducible refine kept_nextOf ?_ ?_
    | (extract_lets +onlyGivenNames s; refine kept_have (o := o) (x := s) ?_ (fun h => ?_); (on_goal 1 => unfold s; clear s); (on_goal 2 => try clear_value s))
    | (extract_lets +onlyGivenNames x; first | (have _p : PldSt := x; clear _p; unfold x) | skip)
    | simp only [↓kept_mk_iff]
    | with_reducible refine kept_ite (fun _ => ?_) (fun _ => ?_)
    | split
    | dsimp only
    | (dsimp +zetaDelta only; split)

theorem State.writeHq_kept {o : State} {s : State} {off : Nat} {v : Nat} (h : Kept o s) : Kept o (State.writeHq s off v) := by
  unfold State.writeHq
  repeat' first
    | with_reducible assumption
    | with_reducible refine State.writeJournal_kept ?_
    | with_reducible refine execMsixVectorUnmask_kept ?_
    | with_reducible refine State.plain_kept ?_
    | with_reducible refine execCqEnable_kept ?_
    | with_reducible refine State.writeSqCtrl_kept ?_
    | with_reducible refine State.writeIf_kept ?_
    | with_reducible refine execHqCtrlEn_kept ?_
    | with_reducible refine kept_nextOf ?_ ?_
    | (extract_lets +onlyGivenNames s; refine kept_have (o := o) (x := s) ?_ (fun h => ?_); (on_goal 1 => unfold s; clear s); (on_goal 2 => try clear_value s))
    | (extract_lets +onlyGivenNames x; first | (have _p : PldSt := x; clear _p; unfold x) | skip)
    | with_reducible refine kept_ite (fun _ => ?_) (fun _ => ?_)
    | split
    | dsimp only
    | (dsimp +zetaDelta only; split)

theorem State.writeHqPair_kept {o : State} {s : State} {off : Nat} {v : Nat} (h : Kept o s) : Kept o (State.writeHqPair s off v) := by
  unfold State.writeHqPair
  repeat' first
    | with_reducible assumption
    | with_reducible refine State.plainPair_kept ?_
    | with_reducible refine State.pairIf_kept ?_
    | with_reducible refine kept_ite (fun _ => ?_) (fun _ => ?_)
    | split
    | dsimp only
    | (dsimp +zetaDelta only; split)

theorem State.writeComplete_kept {o : State} {s : State} {req : Requester} {b : Nat} {l' : Nat} (h : Kept o s) : Kept o (State.writeComplete s req b l') := by
  unfold State.writeComplete
  repeat' first
    | with_reducible assumption
    | with_reducible exact rfl
    | with_reducible refine State.intComplete_kept ?_
    | (extract_lets +onlyGivenNames s; refine kept_have (o := o) (x := s) ?_ (fun h => ?_); (on_goal 1 => unfold s; clear s); (on_goal 2 => try clear_value s))
    | (extract_lets +onlyGivenNames x; first | (have _p : PldSt := x; clear _p; unfold x) | skip)
    | simp only [↓kept_mk_iff]
    | dsimp only

theorem State.writeInt_kept {o : State} {s : State} {req : Requester} {off : Nat} {v : Nat} (h : Kept o s) : Kept o (State.writeInt s req off v) := by
  unfold State.writeInt
  repeat' first
    | with_reducible assumption
    | with_reducible refine State.writeRoute_kept ?_
    | with_reducible refine State.plain_kept ?_
    | with_reducible refine State.writeComplete_kept ?_
    | with_reducible refine State.maskClr_kept ?_
    | with_reducible refine State.maskSet_kept ?_
    | with_reducible refine State.pendClr_kept ?_
    | with_reducible refine State.pendSet_kept ?_
    | (extract_lets +onlyGivenNames s; refine kept_have (o := o) (x := s) ?_ (fun h => ?_); (on_goal 1 => unfold s; clear s); (on_goal 2 => try clear_value s))
    | (extract_lets +onlyGivenNames x; first | (have _p : PldSt := x; clear _p; unfold x) | skip)
    | with_reducible refine kept_ite (fun _ => ?_) (fun _ => ?_)
    | split
    | dsimp only
    | (dsimp +zetaDelta only; split)

theorem State.writeFlt_kept {o : State} {s : State} {off : Nat} {v : Nat} (h : Kept o s) : Kept o (State.writeFlt s off v) := by
  unfold State.writeFlt
  repeat' first
    | with_reducible assumption
    | with_reducible refine State.writeAction_kept ?_
    | with_reducible refine State.hlogCopy_kept ?_
    | with_reducible refine State.raise_kept ?_
    | with_reducible refine State.emit_kept ?_
    | with_reducible refine State.plain_kept ?_
    | with_reducible refine State.acknowledge_kept ?_
    | (extract_lets +onlyGivenNames s; refine kept_have (o := o) (x := s) ?_ (fun h => ?_); (on_goal 1 => unfold s; clear s); (on_goal 2 => try clear_value s))
    | (extract_lets +onlyGivenNames x; first | (have _p : PldSt := x; clear _p; unfold x) | skip)
    | with_reducible refine kept_ite (fun _ => ?_) (fun _ => ?_)
    | split
    | dsimp only
    | (dsimp +zetaDelta only; split)

theorem State.writePwr_kept {o : State} {s : State} {off : Nat} {v : Nat} (h : Kept o s) : Kept o (State.writePwr s off v) := by
  unfold State.writePwr
  repeat' first
    | with_reducible assumption
    | with_reducible refine State.setVcore_kept ?_
    | with_reducible refine State.plain_kept ?_
    | with_reducible refine State.raise_kept ?_
    | with_reducible refine State.writePolCtrl_kept ?_
    | (extract_lets +onlyGivenNames s; refine kept_have (o := o) (x := s) ?_ (fun h => ?_); (on_goal 1 => unfold s; clear s); (on_goal 2 => try clear_value s))
    | (extract_lets +onlyGivenNames x; first | (have _p : PldSt := x; clear _p; unfold x) | skip)
    | with_reducible refine kept_ite (fun _ => ?_) (fun _ => ?_)
    | split
    | dsimp only
    | (dsimp +zetaDelta only; split)

theorem State.writeDike_kept {o : State} {s : State} {off : Nat} {v : Nat} (h : Kept o s) : Kept o (State.writeDike s off v) := by
  unfold State.writeDike
  repeat' first
    | with_reducible assumption
    | with_reducible refine State.writeIf_kept ?_
    | with_reducible refine State.dikeRestart_kept ?_
    | with_reducible refine State.writeDikeCfg_kept ?_
    | with_reducible refine State.plain_kept ?_
    | (extract_lets +onlyGivenNames s; refine kept_have (o := o) (x := s) ?_ (fun h => ?_); (on_goal 1 => unfold s; clear s); (on_goal 2 => try clear_value s))
    | (extract_lets +onlyGivenNames x; first | (have _p : PldSt := x; clear _p; unfold x) | skip)
    | with_reducible refine kept_ite (fun _ => ?_) (fun _ => ?_)
    | split
    | dsimp only
    | (dsimp +zetaDelta only; split)

theorem State.writeTime_kept {o : State} {s : State} {off : Nat} {v : Nat} (h : Kept o s) : Kept o (State.writeTime s off v) := by
  unfold State.writeTime
  repeat' first
    | with_reducible assumption
    | with_reducible refine State.plain_kept ?_
    | with_reducible refine State.writeIf_kept ?_
    | with_reducible refine State.writeFsync_kept ?_
    | with_reducible refine execLockNow_kept ?_
    | with_reducible refine State.writeTimeCfg_kept ?_
    | with_reducible refine execTimeRateWrite_kept ?_
    | with_reducible refine kept_nextOf ?_ ?_
    | (extract_lets +onlyGivenNames s; refine kept_have (o := o) (x := s) ?_ (fun h => ?_); (on_goal 1 => unfold s; clear s); (on_goal 2 => try clear_value s))
    | (extract_lets +onlyGivenNames x; first | (have _p : PldSt := x; clear _p; unfold x) | skip)
    | with_reducible refine kept_ite (fun _ => ?_) (fun _ => ?_)
    | split
    | dsimp only
    | (dsimp +zetaDelta only; split)

theorem State.writeTimePair_kept {o : State} {s : State} {off : Nat} {v : Nat} (h : Kept o s) : Kept o (State.writeTimePair s off v) := by
  unfold State.writeTimePair
  repeat' first
    | with_reducible assumption
    | with_reducible refine State.pairIf_kept ?_
    | dsimp only

theorem State.writeLullCtrl_kept {o : State} {s : State} {v : Nat} (h : Kept o s) : Kept o (State.writeLullCtrl s v) := by
  unfold State.writeLullCtrl
  repeat' first
    | with_reducible assumption
    | with_reducible refine execLullClearLog_kept ?_
    | with_reducible refine execLullWakeCmd_kept ?_
    | with_reducible refine execLullAbort_kept ?_
    | with_reducible refine State.draw_kept ?_
    | with_reducible refine execLullStart_kept ?_
    | with_reducible refine kept_nextOf ?_ ?_
    | (extract_lets +onlyGivenNames s; refine kept_have (o := o) (x := s) ?_ (fun h => ?_); (on_goal 1 => unfold s; clear s); (on_goal 2 => try clear_value s))
    | (extract_lets +onlyGivenNames x; first | (have _p : PldSt := x; clear _p; unfold x) | skip)
    | with_reducible refine kept_ite (fun _ => ?_) (fun _ => ?_)
    | split
    | dsimp only
    | (dsimp +zetaDelta only; split)

theorem State.writeRing_kept {o : State} {s : State} {off : Nat} {v : Nat} (h : Kept o s) : Kept o (State.writeRing s off v) := by
  unfold State.writeRing
  repeat' first
    | with_reducible assumption
    | with_reducible refine State.writeLullCtrl_kept ?_
    | with_reducible refine State.plain_kept ?_
    | with_reducible refine State.writeIf_kept ?_
    | with_reducible refine execEnumStart_kept ?_
    | with_reducible refine execRingEnable_kept ?_
    | with_reducible refine State.put_kept ?_
    | with_reducible refine State.raise_kept ?_
    | with_reducible refine kept_nextOf ?_ ?_
    | (extract_lets +onlyGivenNames s; refine kept_have (o := o) (x := s) ?_ (fun h => ?_); (on_goal 1 => unfold s; clear s); (on_goal 2 => try clear_value s))
    | (extract_lets +onlyGivenNames x; first | (have _p : PldSt := x; clear _p; unfold x) | skip)
    | with_reducible refine kept_ite (fun _ => ?_) (fun _ => ?_)
    | split
    | dsimp only
    | (dsimp +zetaDelta only; split)

theorem State.writeTwin_kept {o : State} {s : State} {req : Requester} {off : Nat} {v : Nat} (h : Kept o s) : Kept o (State.writeTwin s req off v) := by
  unfold State.writeTwin
  repeat' first
    | with_reducible assumption
    | with_reducible exact rfl
    | with_reducible refine State.plain_kept ?_
    | with_reducible refine execWitnessSwitchOver_kept ?_
    | with_reducible refine State.writeTwinCtrl_kept ?_
    | with_reducible refine State.writeIf_kept ?_
    | with_reducible refine kept_nextOf ?_ ?_
    | (extract_lets +onlyGivenNames s; refine kept_have (o := o) (x := s) ?_ (fun h => ?_); (on_goal 1 => unfold s; clear s); (on_goal 2 => try clear_value s))
    | (extract_lets +onlyGivenNames x; first | (have _p : PldSt := x; clear _p; unfold x) | skip)
    | simp only [↓kept_mk_iff]
    | with_reducible refine kept_ite (fun _ => ?_) (fun _ => ?_)
    | split
    | dsimp only
    | (dsimp +zetaDelta only; split)

end Sys2Proof.Machine
end

