-- ==== Sys2Proof/Laws/KeptBusField.lean ====
section
/-! SUPPORT. What the operations of Machine/BusField.lean keep (Laws/Kept.lean). -/

set_option linter.all false

namespace Sys2Proof.Machine

theorem State.writePld_kept {o : State} {s : State} {off : Nat} {v : Nat} (h : Kept o s) : Kept o (State.writePld s off v) := by
  unfold State.writePld
  repeat' first
    | with_reducible assumption
    | with_reducible refine State.raise_kept ?_
    | with_reducible refine State.showPools_kept ?_
    | with_reducible refine State.plain_kept ?_
    | with_reducible refine execPldFlush_kept ?_
    | with_reducible refine kept_nextOf ?_ ?_
    | (extract_lets +onlyGivenNames s; refine kept_have (o := o) (x := s) ?_ (fun h => ?_); (on_goal 1 => unfold s; clear s); (on_goal 2 => try clear_value s))
    | (extract_lets +onlyGivenNames x; first | (have _p : PldSt := x; clear _p; unfold x) | skip)
    | with_reducible refine kept_ite (fun _ => ?_) (fun _ => ?_)
    | split
    | dsimp only
    | (dsimp +zetaDelta only; split)

theorem State.writeGcl_kept {o : State} {s : State} {g : Fin 19} {v : Nat} (h : Kept o s) : Kept o (State.writeGcl s g v) := by
  unfold State.writeGcl
  repeat' first
    | with_reducible assumption
    | with_reducible refine execGclCommit_kept ?_
    | with_reducible refine execGclDisable_kept ?_
    | with_reducible refine execGclAbort_kept ?_
    | with_reducible refine State.put_kept ?_
    | with_reducible refine State.raise_kept ?_
    | with_reducible refine kept_nextOf ?_ ?_
    | (extract_lets +onlyGivenNames s; refine kept_have (o := o) (x := s) ?_ (fun h => ?_); (on_goal 1 => unfold s; clear s); (on_goal 2 => try clear_value s))
    | (extract_lets +onlyGivenNames x; first | (have _p : PldSt := x; clear _p; unfold x) | skip)
    | with_reducible refine kept_ite (fun _ => ?_) (fun _ => ?_)
    | split
    | dsimp only
    | (dsimp +zetaDelta only; split)

theorem State.writeSch_kept {o : State} {s : State} {off : Nat} {v : Nat} (h : Kept o s) : Kept o (State.writeSch s off v) := by
  unfold State.writeSch
  repeat' first
    | with_reducible assumption
    | with_reducible refine State.writeGcl_kept ?_
    | with_reducible refine State.plain_kept ?_
    | with_reducible refine execWeirBurstWrite_kept ?_
    | with_reducible refine execWeirRateWrite_kept ?_
    | with_reducible refine State.writeIf_kept ?_
    | with_reducible refine kept_nextOf ?_ ?_
    | (extract_lets +onlyGivenNames s; refine kept_have (o := o) (x := s) ?_ (fun h => ?_); (on_goal 1 => unfold s; clear s); (on_goal 2 => try clear_value s))
    | (extract_lets +onlyGivenNames x; first | (have _p : PldSt := x; clear _p; unfold x) | skip)
    | with_reducible refine kept_ite (fun _ => ?_) (fun _ => ?_)
    | split
    | dsimp only
    | (dsimp +zetaDelta only; split)

theorem State.writeNet_kept {o : State} {s : State} {off : Nat} {v : Nat} (h : Kept o s) : Kept o (State.writeNet s off v) := by
  unfold State.writeNet
  repeat' first
    | with_reducible assumption
    | with_reducible refine State.writeIf_kept ?_
    | with_reducible refine State.writeEthCfg_kept ?_
    | with_reducible refine State.plain_kept ?_
    | (extract_lets +onlyGivenNames s; refine kept_have (o := o) (x := s) ?_ (fun h => ?_); (on_goal 1 => unfold s; clear s); (on_goal 2 => try clear_value s))
    | (extract_lets +onlyGivenNames x; first | (have _p : PldSt := x; clear _p; unfold x) | skip)
    | with_reducible refine kept_ite (fun _ => ?_) (fun _ => ?_)
    | split
    | dsimp only
    | (dsimp +zetaDelta only; split)

theorem State.writeCam_kept {o : State} {s : State} {c : Nat} {r : Nat} {off : Nat} {v : Nat} (h : Kept o s) : Kept o (State.writeCam s c r off v) := by
  unfold State.writeCam
  repeat' first
    | with_reducible assumption
    | with_reducible refine State.plain_kept ?_
    | with_reducible refine State.writeOutCfg_kept ?_
    | with_reducible refine State.writeCciCmd_kept ?_
    | with_reducible refine State.writeIf_kept ?_
    | with_reducible refine State.writeCamCfg_kept ?_
    | (extract_lets +onlyGivenNames s; refine kept_have (o := o) (x := s) ?_ (fun h => ?_); (on_goal 1 => unfold s; clear s); (on_goal 2 => try clear_value s))
    | (extract_lets +onlyGivenNames x; first | (have _p : PldSt := x; clear _p; unfold x) | skip)
    | with_reducible refine kept_ite (fun _ => ?_) (fun _ => ?_)
    | split
    | dsimp only
    | (dsimp +zetaDelta only; split)

theorem State.writeVis_kept {o : State} {s : State} {off : Nat} {v : Nat} (h : Kept o s) : Kept o (State.writeVis s off v) := by
  unfold State.writeVis
  repeat' first
    | with_reducible assumption
    | with_reducible exact rfl
    | with_reducible refine State.plain_kept ?_
    | with_reducible refine State.writeSinkCfg_kept ?_
    | with_reducible refine State.writeCstCfg_kept ?_
    | with_reducible refine State.writeIf_kept ?_
    | with_reducible refine State.writeStageSize_kept ?_
    | with_reducible refine State.writeStageBase_kept ?_
    | with_reducible refine State.writeCam_kept ?_
    | (extract_lets +onlyGivenNames s; refine kept_have (o := o) (x := s) ?_ (fun h => ?_); (on_goal 1 => unfold s; clear s); (on_goal 2 => try clear_value s))
    | (extract_lets +onlyGivenNames x; first | (have _p : PldSt := x; clear _p; unfold x) | skip)
    | simp only [↓kept_mk_iff]
    | with_reducible refine kept_ite (fun _ => ?_) (fun _ => ?_)
    | split
    | dsimp only
    | (dsimp +zetaDelta only; split)

theorem State.writePortCtrl_kept {o : State} {s : State} {n : Fin 6} {q : Fin 32} {v : Nat} (h : Kept o s) : Kept o (State.writePortCtrl s n q v) := by
  unfold State.writePortCtrl
  repeat' first
    | with_reducible assumption
    | with_reducible refine execDropTx_kept ?_
    | with_reducible refine execDropRx_kept ?_
    | with_reducible refine execFlushTx_kept ?_
    | with_reducible refine execFlushRx_kept ?_
    | with_reducible refine kept_nextOf ?_ ?_
    | (extract_lets +onlyGivenNames s; refine kept_have (o := o) (x := s) ?_ (fun h => ?_); (on_goal 1 => unfold s; clear s); (on_goal 2 => try clear_value s))
    | (extract_lets +onlyGivenNames x; first | (have _p : PldSt := x; clear _p; unfold x) | skip)
    | with_reducible refine kept_ite (fun _ => ?_) (fun _ => ?_)
    | split
    | dsimp only
    | (dsimp +zetaDelta only; split)

theorem State.writeHalt_kept {o : State} {s : State} {n : Nat} {g : Nat} {mask : Nat} (h : Kept o s) : Kept o (State.writeHalt s n g mask) := by
  unfold State.writeHalt
  repeat' first
    | with_reducible assumption
    | with_reducible exact rfl
    | with_reducible refine State.haltWrite_kept ?_
    | (extract_lets +onlyGivenNames s; refine kept_have (o := o) (x := s) ?_ (fun h => ?_); (on_goal 1 => unfold s; clear s); (on_goal 2 => try clear_value s))
    | (extract_lets +onlyGivenNames x; first | (have _p : PldSt := x; clear _p; unfold x) | skip)
    | simp only [↓kept_mk_iff]
    | dsimp only

theorem State.writePio_kept {o : State} {s : State} {n : Nat} {g : Nat} {r : Nat} {off : Nat} {v : Nat} (h : Kept o s) : Kept o (State.writePio s n g r off v) := by
  unfold State.writePio
  repeat' first
    | with_reducible assumption
    | with_reducible refine State.plain_kept ?_
    | with_reducible refine State.writeIf_kept ?_
    | with_reducible refine State.writeProg_kept ?_
    | with_reducible refine State.dropBits_kept ?_
    | with_reducible refine State.orBits_kept ?_
    | with_reducible refine State.writeHalt_kept ?_
    | with_reducible refine State.writeSync_kept ?_
    | with_reducible refine kept_ite (fun _ => ?_) (fun _ => ?_)
    | split
    | dsimp only
    | (dsimp +zetaDelta only; split)

theorem State.writeCanCmd_kept {o : State} {s : State} {n : Nat} {c : Nat} {v : Nat} (h : Kept o s) : Kept o (State.writeCanCmd s n c v) := by
  unfold State.writeCanCmd
  repeat' first
    | with_reducible assumption
    | with_reducible refine State.draw_kept ?_
    | with_reducible refine State.canSleep_kept ?_
    | with_reducible refine State.canWake_kept ?_
    | with_reducible refine State.canRecover_kept ?_
    | (extract_lets +onlyGivenNames s; refine kept_have (o := o) (x := s) ?_ (fun h => ?_); (on_goal 1 => unfold s; clear s); (on_goal 2 => try clear_value s))
    | (extract_lets +onlyGivenNames x; first | (have _p : PldSt := x; clear _p; unfold x) | skip)
    | with_reducible refine kept_ite (fun _ => ?_) (fun _ => ?_)
    | split
    | dsimp only
    | (dsimp +zetaDelta only; split)

theorem State.writeCan_kept {o : State} {s : State} {n : Nat} {c : Nat} {r : Nat} {off : Nat} {v : Nat} (h : Kept o s) : Kept o (State.writeCan s n c r off v) := by
  unfold State.writeCan
  repeat' first
    | with_reducible assumption
    | with_reducible refine State.plain_kept ?_
    | with_reducible refine State.writeMm_kept ?_
    | with_reducible refine State.draw_kept ?_
    | with_reducible refine State.txCancel_kept ?_
    | with_reducible refine State.writeIf_kept ?_
    | with_reducible refine State.writeCanCmd_kept ?_
    | with_reducible refine State.writeCanCfg_kept ?_
    | with_reducible refine kept_ite (fun _ => ?_) (fun _ => ?_)
    | split
    | dsimp only
    | (dsimp +zetaDelta only; split)

theorem State.writeFc_kept {o : State} {s : State} {n : Nat} {r : Nat} {off : Nat} {v : Nat} (h : Kept o s) : Kept o (State.writeFc s n r off v) := by
  unfold State.writeFc
  repeat' first
    | with_reducible assumption
    | with_reducible refine State.writeCan_kept ?_
    | with_reducible refine State.writePio_kept ?_
    | with_reducible refine State.plain_kept ?_
    | with_reducible refine State.writePortCtrl_kept ?_
    | with_reducible refine State.writeWatermark_kept ?_
    | with_reducible refine State.writePortCfg_kept ?_
    | with_reducible refine State.writeLineCfg_kept ?_
    | with_reducible refine State.writeFlowCfg_kept ?_
    | with_reducible refine State.setLevel_kept ?_
    | with_reducible refine State.each_kept ?_ (fun s x h => ?_)
    | with_reducible refine State.writePinCfg_kept ?_
    | with_reducible refine State.writeIf_kept ?_
    | (extract_lets +onlyGivenNames s; refine kept_have (o := o) (x := s) ?_ (fun h => ?_); (on_goal 1 => unfold s; clear s); (on_goal 2 => try clear_value s))
    | (extract_lets +onlyGivenNames x; first | (have _p : PldSt := x; clear _p; unfold x) | skip)
    | with_reducible refine kept_ite (fun _ => ?_) (fun _ => ?_)
    | split
    | dsimp only
    | (dsimp +zetaDelta only; split)

theorem State.writeSig_kept {o : State} {s : State} {off : Nat} {v : Nat} (h : Kept o s) : Kept o (State.writeSig s off v) := by
  unfold State.writeSig
  repeat' first
    | with_reducible assumption
    | with_reducible refine State.plain_kept ?_
    | with_reducible refine State.writeBulkCfg_kept ?_
    | with_reducible refine State.writeBusTimeout_kept ?_
    | with_reducible refine State.writeBusCfg_kept ?_
    | with_reducible refine State.writeRngCfg_kept ?_
    | with_reducible refine State.writeBrgLock_kept ?_
    | with_reducible refine State.writeBrgRetry_kept ?_
    | with_reducible refine State.writeMsg_kept ?_
    | with_reducible refine State.writeEntSel_kept ?_
    | with_reducible refine State.writeSigCtrl_kept ?_
    | with_reducible refine kept_ite (fun _ => ?_) (fun _ => ?_)
    | split
    | dsimp only
    | (dsimp +zetaDelta only; split)

theorem State.writeSigPair_kept {o : State} {s : State} {off : Nat} {v : Nat} (h : Kept o s) : Kept o (State.writeSigPair s off v) := by
  unfold State.writeSigPair
  repeat' first
    | with_reducible assumption
    | with_reducible refine State.writeRngXlate_kept ?_
    | with_reducible refine State.writeRngBase_kept ?_
    | (extract_lets +onlyGivenNames s; refine kept_have (o := o) (x := s) ?_ (fun h => ?_); (on_goal 1 => unfold s; clear s); (on_goal 2 => try clear_value s))
    | (extract_lets +onlyGivenNames x; first | (have _p : PldSt := x; clear _p; unfold x) | skip)
    | with_reducible refine kept_ite (fun _ => ?_) (fun _ => ?_)
    | split
    | dsimp only
    | (dsimp +zetaDelta only; split)

end Sys2Proof.Machine
end

