-- ==== Sys2Proof/Laws/KeptIdle.lean ====
section
/-! SUPPORT. What the operations of Machine/Idle.lean keep (Laws/Kept.lean). -/

set_option linter.all false

namespace Sys2Proof.Machine

theorem State.ageTick_kept {o : State} {s : State} (h : Kept o s) : Kept o (State.ageTick s) := by
  unfold State.ageTick
  repeat' first
    | with_reducible assumption
    | with_reducible exact rfl
    | with_reducible refine State.incSat_kept ?_
    | (extract_lets +onlyGivenNames s; refine kept_have (o := o) (x := s) ?_ (fun h => ?_); (on_goal 1 => unfold s; clear s); (on_goal 2 => try clear_value s))
    | (extract_lets +onlyGivenNames x; first | (have _p : PldSt := x; clear _p; unfold x) | skip)
    | simp only [↓kept_mk_iff]
    | with_reducible refine kept_ite (fun _ => ?_) (fun _ => ?_)
    | split
    | dsimp only
    | (dsimp +zetaDelta only; split)

theorem State.firePassed_kept {o : State} {s : State} {a1 : Passed} (h : Kept o s) : Kept o (State.firePassed s a1) := by
  unfold State.firePassed
  repeat' first
    | with_reducible assumption
    | with_reducible exact rfl
    | with_reducible refine State.startSend_kept ?_
    | with_reducible refine State.lineEntry_kept ?_
    | with_reducible refine execDioEntryApply_kept ?_
    | with_reducible refine State.ppsRise_kept ?_
    | with_reducible refine State.fsyncFire_kept ?_
    | with_reducible refine kept_nextOf ?_ ?_
    | (extract_lets +onlyGivenNames s; refine kept_have (o := o) (x := s) ?_ (fun h => ?_); (on_goal 1 => unfold s; clear s); (on_goal 2 => try clear_value s))
    | (extract_lets +onlyGivenNames x; first | (have _p : PldSt := x; clear _p; unfold x) | skip)
    | simp only [↓kept_mk_iff]
    | split
    | dsimp only
    | (dsimp +zetaDelta only; split)

theorem State.retime_kept {o : State} {s : State} (h : Kept o s) : Kept o (State.retime s) := by
  unfold State.retime
  repeat' first
    | with_reducible assumption
    | with_reducible refine State.firePassed_kept ?_
    | with_reducible refine State.takeStep_kept ?_
    | with_reducible refine State.takeRate_kept ?_
    | (extract_lets +onlyGivenNames s; refine kept_have (o := o) (x := s) ?_ (fun h => ?_); (on_goal 1 => unfold s; clear s); (on_goal 2 => try clear_value s))
    | (extract_lets +onlyGivenNames x; first | (have _p : PldSt := x; clear _p; unfold x) | skip)
    | with_reducible refine kept_foldl ?_ (fun s x h => ?_)
    | with_reducible refine kept_foldl_fst ?_ (fun p x h => ?_)
    | with_reducible refine kept_ite (fun _ => ?_) (fun _ => ?_)
    | split
    | dsimp only
    | (dsimp +zetaDelta only; split)

theorem State.idleTick_kept {o : State} {s : State} (h : Kept o s) : Kept o (State.idleTick s) := by
  unfold State.idleTick
  repeat' first
    | with_reducible assumption
    | with_reducible refine State.put64_kept ?_
    | with_reducible refine State.retime_kept ?_
    | with_reducible refine State.ageTick_kept ?_
    | with_reducible refine State.latchLevels_kept ?_
    | with_reducible refine State.payFails_kept ?_
    | with_reducible refine State.flushAcks_kept ?_
    | with_reducible refine State.hifPump_kept ?_
    | with_reducible refine kept_ite (fun _ => ?_) (fun _ => ?_)
    | split
    | dsimp only
    | (dsimp +zetaDelta only; split)

end Sys2Proof.Machine
end

