-- ==== Sys2Proof/Laws/KeptRegAccess.lean ====
section
/-! SUPPORT. What the operations of Machine/RegAccess.lean keep (Laws/Kept.lean). -/

set_option linter.all false

namespace Sys2Proof.Machine

theorem State.writeReg_kept {o : State} {s : State} {req : Requester} {off : Nat} {v : Nat} (h : Kept o s) : Kept o (State.writeReg s req off v) := by
  unfold State.writeReg
  repeat' first
    | with_reducible assumption
    | with_reducible refine State.plain_kept ?_
    | with_reducible refine State.writeTwin_kept ?_
    | with_reducible refine State.writeSig_kept ?_
    | with_reducible refine State.writeFc_kept ?_
    | with_reducible refine State.writeVis_kept ?_
    | with_reducible refine State.writeNet_kept ?_
    | with_reducible refine State.writeSch_kept ?_
    | with_reducible refine State.writePld_kept ?_
    | with_reducible refine State.writeRing_kept ?_
    | with_reducible refine State.writeTime_kept ?_
    | with_reducible refine State.writeDike_kept ?_
    | with_reducible refine State.writePwr_kept ?_
    | with_reducible refine State.writeFlt_kept ?_
    | with_reducible refine State.writeInt_kept ?_
    | with_reducible refine State.writeHq_kept ?_
    | with_reducible refine State.writeBoot_kept ?_
    | with_reducible refine State.writeGlb_kept ?_
    | with_reducible refine kept_ite (fun _ => ?_) (fun _ => ?_)
    | split
    | dsimp only
    | (dsimp +zetaDelta only; split)

theorem State.writePair_kept {o : State} {s : State} {off : Nat} {v : Nat} (h : Kept o s) : Kept o (State.writePair s off v) := by
  unfold State.writePair
  repeat' first
    | with_reducible assumption
    | with_reducible refine State.plainPair_kept ?_
    | with_reducible refine State.writeSigPair_kept ?_
    | with_reducible refine State.writeTimePair_kept ?_
    | with_reducible refine State.writeHqPair_kept ?_
    | with_reducible refine kept_ite (fun _ => ?_) (fun _ => ?_)
    | split
    | dsimp only
    | (dsimp +zetaDelta only; split)

theorem State.unstage_kept {o : State} {s : State} {req : Requester} {off : Nat} (h : Kept o s) : Kept o (State.unstage s req off) := by
  unfold State.unstage
  repeat' first
    | with_reducible assumption
    | with_reducible exact rfl
    | (extract_lets +onlyGivenNames s; refine kept_have (o := o) (x := s) ?_ (fun h => ?_); (on_goal 1 => unfold s; clear s); (on_goal 2 => try clear_value s))
    | (extract_lets +onlyGivenNames x; first | (have _p : PldSt := x; clear _p; unfold x) | skip)
    | simp only [↓kept_mk_iff]
    | dsimp only

theorem State.stage_kept {o : State} {s : State} {req : Requester} {off : Nat} {v : Nat} (h : Kept o s) : Kept o (State.stage s req off v) := by
  unfold State.stage
  repeat' first
    | with_reducible assumption
    | with_reducible exact rfl
    | with_reducible refine State.unstage_kept ?_
    | (extract_lets +onlyGivenNames s; refine kept_have (o := o) (x := s) ?_ (fun h => ?_); (on_goal 1 => unfold s; clear s); (on_goal 2 => try clear_value s))
    | (extract_lets +onlyGivenNames x; first | (have _p : PldSt := x; clear _p; unfold x) | skip)
    | simp only [↓kept_mk_iff]
    | with_reducible refine kept_ite (fun _ => ?_) (fun _ => ?_)
    | split
    | dsimp only
    | (dsimp +zetaDelta only; split)

theorem State.writeHigh_kept {o : State} {s : State} {req : Requester} {off : Nat} {v : Nat} (h : Kept o s) : Kept o (State.writeHigh s req off v) := by
  unfold State.writeHigh
  repeat' first
    | with_reducible assumption
    | with_reducible refine State.unstage_kept ?_
    | with_reducible refine State.writePair_kept ?_
    | with_reducible refine execTimeStepWrite_kept ?_
    | with_reducible refine kept_nextOf ?_ ?_
    | (extract_lets +onlyGivenNames s; refine kept_have (o := o) (x := s) ?_ (fun h => ?_); (on_goal 1 => unfold s; clear s); (on_goal 2 => try clear_value s))
    | (extract_lets +onlyGivenNames x; first | (have _p : PldSt := x; clear _p; unfold x) | skip)
    | with_reducible refine kept_ite (fun _ => ?_) (fun _ => ?_)
    | split
    | dsimp only
    | (dsimp +zetaDelta only; split)

theorem State.copyConfig_kept {o : State} {s : State} {off : Nat} {v : Nat} (h : Kept o s) : Kept o (State.copyConfig s off v) := by
  unfold State.copyConfig
  repeat' first
    | with_reducible assumption
    | with_reducible refine State.sendCopy_kept ?_
    | with_reducible refine State.journalInput_kept ?_
    | with_reducible refine kept_ite (fun _ => ?_) (fun _ => ?_)
    | split
    | dsimp only
    | (dsimp +zetaDelta only; split)

theorem State.busWrite_kept {o : State} {s : State} {req : Requester} {off : Nat} {v : Nat} (h : Kept o s) : Kept o (State.busWrite s req off v) := by
  unfold State.busWrite
  repeat' first
    | with_reducible assumption
    | with_reducible exact rfl
    | with_reducible refine State.writeReg_kept ?_
    | with_reducible refine State.writeHigh_kept ?_
    | with_reducible refine State.copyConfig_kept ?_
    | with_reducible refine State.stage_kept ?_
    | (extract_lets +onlyGivenNames s; refine kept_have (o := o) (x := s) ?_ (fun h => ?_); (on_goal 1 => unfold s; clear s); (on_goal 2 => try clear_value s))
    | (extract_lets +onlyGivenNames x; first | (have _p : PldSt := x; clear _p; unfold x) | skip)
    | simp only [↓kept_mk_iff]
    | with_reducible refine kept_ite (fun _ => ?_) (fun _ => ?_)
    | split
    | dsimp only
    | (dsimp +zetaDelta only; split)

theorem State.captureLow_kept {o : State} {s : State} {req : Requester} {off : Nat} (h : Kept o s) : Kept o (State.captureLow s req off) := by
  unfold State.captureLow
  repeat' first
    | with_reducible assumption
    | with_reducible exact rfl
    | (extract_lets +onlyGivenNames s; refine kept_have (o := o) (x := s) ?_ (fun h => ?_); (on_goal 1 => unfold s; clear s); (on_goal 2 => try clear_value s))
    | (extract_lets +onlyGivenNames x; first | (have _p : PldSt := x; clear _p; unfold x) | skip)
    | simp only [↓kept_mk_iff]
    | dsimp only

theorem State.captureRead_kept {o : State} {s : State} {req : Requester} {off : Nat} (h : Kept o s) : Kept o (State.captureRead s req off) := by
  unfold State.captureRead
  repeat' first
    | with_reducible assumption
    | with_reducible refine State.captureObj_kept ?_
    | with_reducible refine kept_ite (fun _ => ?_) (fun _ => ?_)
    | split
    | dsimp only
    | (dsimp +zetaDelta only; split)

theorem State.busRead_kept {o : State} {s : State} {req : Requester} {off : Nat} (h : Kept o s) : Kept o (State.busRead s req off).1 := by
  unfold State.busRead
  repeat' first
    | with_reducible assumption
    | with_reducible exact rfl
    | with_reducible refine State.captureRead_kept ?_
    | with_reducible refine State.captureLow_kept ?_
    | (extract_lets +onlyGivenNames s; refine kept_have (o := o) (x := s) ?_ (fun h => ?_); (on_goal 1 => unfold s; clear s); (on_goal 2 => try clear_value s))
    | (extract_lets +onlyGivenNames x; first | (have _p : PldSt := x; clear _p; unfold x) | skip)
    | simp only [↓kept_mk_iff]
    | exact h
    | with_reducible refine kept_ite (fun _ => ?_) (fun _ => ?_)
    | split
    | dsimp only
    | (dsimp +zetaDelta only; split)

theorem State.busReads_kept {o : State} {s : State} {req : Requester} {a2 : Nat} {a3 : Nat} (h : Kept o s) : Kept o (State.busReads s req a2 a3).1 := by
  induction a2 generalizing s a3 with
  | zero =>
    unfold State.busReads
    repeat' first
      | with_reducible assumption
      | with_reducible refine State.busRead_kept ?_
      | with_reducible refine kept_fst (by assumption) (State.busRead_kept ?_)
      | (extract_lets +onlyGivenNames s; refine kept_have (o := o) (x := s) ?_ (fun h => ?_); (on_goal 1 => unfold s; clear s); (on_goal 2 => try clear_value s))
      | (extract_lets +onlyGivenNames x; first | (have _p : PldSt := x; clear _p; unfold x) | skip)
      | exact h
      | split
      | dsimp only
      | (dsimp +zetaDelta only; split)
  | succ k ih =>
    unfold State.busReads
    repeat' first
      | with_reducible apply ih
      | with_reducible assumption
      | with_reducible refine State.busRead_kept ?_
      | with_reducible refine kept_fst (by assumption) (State.busRead_kept ?_)
      | (extract_lets +onlyGivenNames s; refine kept_have (o := o) (x := s) ?_ (fun h => ?_); (on_goal 1 => unfold s; clear s); (on_goal 2 => try clear_value s))
      | (extract_lets +onlyGivenNames x; first | (have _p : PldSt := x; clear _p; unfold x) | skip)
      | exact h
      | split
      | dsimp only
      | (dsimp +zetaDelta only; split)

theorem State.busReadBytes_kept {o : State} {s : State} {req : Requester} {a : Nat} {len : Nat} (h : Kept o s) : Kept o (State.busReadBytes s req a len).1 := by
  unfold State.busReadBytes
  repeat' first
    | with_reducible assumption
    | with_reducible refine State.busReads_kept ?_
    | with_reducible refine kept_fst (by assumption) (State.busReads_kept ?_)
    | (extract_lets +onlyGivenNames s; refine kept_have (o := o) (x := s) ?_ (fun h => ?_); (on_goal 1 => unfold s; clear s); (on_goal 2 => try clear_value s))
    | (extract_lets +onlyGivenNames x; first | (have _p : PldSt := x; clear _p; unfold x) | skip)
    | exact h
    | split
    | dsimp only
    | (dsimp +zetaDelta only; split)

theorem State.busWrites_kept {o : State} {s : State} {req : Requester} {off : Nat} {ws : List Nat} (h : Kept o s) : Kept o (State.busWrites s req off ws) := by
  unfold State.busWrites
  repeat' first
    | with_reducible assumption
    | with_reducible refine State.busWrite_kept ?_
    | with_reducible refine kept_foldl ?_ (fun s x h => ?_)
    | with_reducible refine kept_foldl_fst ?_ (fun p x h => ?_)
    | dsimp only

theorem execRegisterWrite_kept {o : State} {req : Requester} {off : Nat} {val : Word} {s : State} (h : Kept o s) : Keeps o (execRegisterWrite req off val s) := by
  unfold execRegisterWrite
  repeat' first
    | with_reducible assumption
    | with_reducible refine State.busWrite_kept ?_
    | with_reducible refine keeps_next ?_
    | dsimp only

theorem execBar0PartialWrite_kept {o : State} {_req : Requester} {_off : Nat} {s : State} (h : Kept o s) : Keeps o (execBar0PartialWrite _req _off s) := by
  unfold execBar0PartialWrite
  repeat' first
    | with_reducible assumption
    | with_reducible refine State.record_kept ?_
    | with_reducible refine keeps_next ?_
    | with_reducible refine kept_ite (fun _ => ?_) (fun _ => ?_)
    | split
    | dsimp only
    | (dsimp +zetaDelta only; split)

theorem execRegPairLoRead_kept {o : State} {req : Requester} {off : Span} {s : State} (h : Kept o s) : Keeps o (execRegPairLoRead req off s) := by
  unfold execRegPairLoRead
  repeat' first
    | with_reducible assumption
    | with_reducible refine State.emit_kept ?_
    | with_reducible refine State.busReadBytes_kept ?_
    | with_reducible refine kept_fst (by assumption) (State.busReadBytes_kept ?_)
    | with_reducible refine keeps_next ?_
    | (extract_lets +onlyGivenNames s; refine kept_have (o := o) (x := s) ?_ (fun h => ?_); (on_goal 1 => unfold s; clear s); (on_goal 2 => try clear_value s))
    | (extract_lets +onlyGivenNames x; first | (have _p : PldSt := x; clear _p; unfold x) | skip)
    | split
    | dsimp only
    | (dsimp +zetaDelta only; split)

theorem execRegPairLoWrite_kept {o : State} {req : Requester} {off : Nat} {val : Word} {s : State} (h : Kept o s) : Keeps o (execRegPairLoWrite req off val s) := by
  unfold execRegPairLoWrite
  repeat' first
    | with_reducible assumption
    | with_reducible refine State.stage_kept ?_
    | with_reducible refine keeps_next ?_
    | with_reducible refine kept_ite (fun _ => ?_) (fun _ => ?_)
    | split
    | dsimp only
    | (dsimp +zetaDelta only; split)

theorem State.raAnswer_kept {o : State} {s : State} {port : Nat} {src : Nat} {seq : Nat} {status : Nat} {count : Nat} {words : List Nat} (h : Kept o s) : Kept o (State.raAnswer s port src seq status count words) := by
  unfold State.raAnswer
  repeat' first
    | with_reducible assumption
    | with_reducible refine State.unicast_kept ?_
    | dsimp only

theorem State.raServe_kept {o : State} {s : State} {port : Nat} {src : Nat} {seq : Nat} {offset : Nat} {count : Nat} {write : Nat} {words : List Word} (h : Kept o s) : Kept o (State.raServe s port src seq offset count write words) := by
  unfold State.raServe
  repeat' first
    | with_reducible assumption
    | with_reducible refine State.busWrite_kept ?_
    | with_reducible refine State.raAnswer_kept ?_
    | with_reducible refine State.busReads_kept ?_
    | with_reducible refine kept_fst (by assumption) (State.busReads_kept ?_)
    | (extract_lets +onlyGivenNames s; refine kept_have (o := o) (x := s) ?_ (fun h => ?_); (on_goal 1 => unfold s; clear s); (on_goal 2 => try clear_value s))
    | (extract_lets +onlyGivenNames x; first | (have _p : PldSt := x; clear _p; unfold x) | skip)
    | with_reducible refine kept_foldl ?_ (fun s x h => ?_)
    | with_reducible refine kept_foldl_fst ?_ (fun p x h => ?_)
    | with_reducible refine kept_ite (fun _ => ?_) (fun _ => ?_)
    | split
    | dsimp only
    | (dsimp +zetaDelta only; split)

theorem execRaReqFrame_kept {o : State} {src : AtPort} {seq : Nat} {offset : Nat} {count : Nat} {write : Nat} {reserved : Nat} {payLen : Nat} {words : List Word} {s : State} (h : Kept o s) : Keeps o (execRaReqFrame src seq offset count write reserved payLen words s) := by
  unfold execRaReqFrame
  repeat' first
    | with_reducible assumption
    | with_reducible refine State.raServe_kept ?_
    | with_reducible refine State.raAnswer_kept ?_
    | with_reducible refine keeps_next ?_
    | (extract_lets +onlyGivenNames s; refine kept_have (o := o) (x := s) ?_ (fun h => ?_); (on_goal 1 => unfold s; clear s); (on_goal 2 => try clear_value s))
    | (extract_lets +onlyGivenNames x; first | (have _p : PldSt := x; clear _p; unfold x) | skip)
    | with_reducible refine kept_ite (fun _ => ?_) (fun _ => ?_)
    | split
    | dsimp only
    | (dsimp +zetaDelta only; split)

theorem execRaRspFrame_kept {o : State} {_src : Nat} {seq : Nat} {status : Nat} {_count : Nat} {words : List Word} {s : State} (h : Kept o s) : Keeps o (execRaRspFrame _src seq status _count words s) := by
  unfold execRaRspFrame
  repeat' first
    | with_reducible assumption
    | with_reducible exact rfl
    | with_reducible refine State.bridgeRaRsp_kept ?_
    | with_reducible refine State.bridgePostedRsp_kept ?_
    | with_reducible refine keeps_next ?_
    | (extract_lets +onlyGivenNames s; refine kept_have (o := o) (x := s) ?_ (fun h => ?_); (on_goal 1 => unfold s; clear s); (on_goal 2 => try clear_value s))
    | (extract_lets +onlyGivenNames x; first | (have _p : PldSt := x; clear _p; unfold x) | skip)
    | simp only [↓kept_mk_iff]
    | dsimp only

theorem execRaTimeout_kept {o : State} {seq : Nat} {s : State} (h : Kept o s) : Keeps o (execRaTimeout seq s) := by
  unfold execRaTimeout
  repeat' first
    | with_reducible assumption
    | with_reducible exact rfl
    | with_reducible refine State.raise_kept ?_
    | with_reducible refine keeps_next ?_
    | (extract_lets +onlyGivenNames s; refine kept_have (o := o) (x := s) ?_ (fun h => ?_); (on_goal 1 => unfold s; clear s); (on_goal 2 => try clear_value s))
    | (extract_lets +onlyGivenNames x; first | (have _p : PldSt := x; clear _p; unfold x) | skip)
    | simp only [↓kept_mk_iff]
    | with_reducible refine kept_ite (fun _ => ?_) (fun _ => ?_)
    | split
    | dsimp only
    | (dsimp +zetaDelta only; split)

theorem execRegWrite_kept {o : State} {src : Nat} {sq : Nat} {wsn : Nat} {s : State} (h : Kept o s) : Keeps o (execRegWrite src sq wsn s) := by
  unfold execRegWrite
  repeat' first
    | with_reducible assumption
    | with_reducible exact rfl
    | with_reducible refine State.commitInternal_kept ?_
    | with_reducible refine State.busWrites_kept ?_
    | with_reducible refine State.failWork_kept ?_
    | with_reducible refine keeps_next ?_
    | (extract_lets +onlyGivenNames s; refine kept_have (o := o) (x := s) ?_ (fun h => ?_); (on_goal 1 => unfold s; clear s); (on_goal 2 => try clear_value s))
    | (extract_lets +onlyGivenNames x; first | (have _p : PldSt := x; clear _p; unfold x) | skip)
    | simp only [↓kept_mk_iff]
    | with_reducible refine kept_ite (fun _ => ?_) (fun _ => ?_)
    | split
    | dsimp only
    | (dsimp +zetaDelta only; split)

theorem execRegRead_kept {o : State} {src : Nat} {sq : Nat} {wsn : Nat} {s : State} (h : Kept o s) : Keeps o (execRegRead src sq wsn s) := by
  unfold execRegRead
  repeat' first
    | with_reducible assumption
    | with_reducible exact rfl
    | with_reducible refine State.returnData_kept ?_
    | with_reducible refine State.busReads_kept ?_
    | with_reducible refine kept_fst (by assumption) (State.busReads_kept ?_)
    | with_reducible refine State.failWork_kept ?_
    | with_reducible refine keeps_next ?_
    | (extract_lets +onlyGivenNames s; refine kept_have (o := o) (x := s) ?_ (fun h => ?_); (on_goal 1 => unfold s; clear s); (on_goal 2 => try clear_value s))
    | (extract_lets +onlyGivenNames x; first | (have _p : PldSt := x; clear _p; unfold x) | skip)
    | simp only [↓kept_mk_iff]
    | with_reducible refine kept_ite (fun _ => ?_) (fun _ => ?_)
    | split
    | dsimp only
    | (dsimp +zetaDelta only; split)

end Sys2Proof.Machine
end

