-- ==== Sys2Proof/Laws/KeptTransit.lean ====
section
/-! SUPPORT. What the operations of Machine/Transit.lean keep (Laws/Kept.lean). -/

set_option linter.all false

namespace Sys2Proof.Machine

theorem State.discard_kept {o : State} {s : State} {p : Nat} (h : Kept o s) : Kept o (State.discard s p) := by
  unfold State.discard
  repeat' first
    | with_reducible assumption
    | with_reducible refine State.inc_kept ?_
    | dsimp only

theorem State.forwardTransit_kept {o : State} {s : State} {p : Nat} {h' : KHeader} {bs : List Byte} (h : Kept o s) : Kept o (State.forwardTransit s p h' bs) := by
  unfold State.forwardTransit
  repeat' first
    | with_reducible assumption
    | with_reducible refine State.sendTransit_kept ?_
    | with_reducible refine State.discard_kept ?_
    | with_reducible refine kept_ite (fun _ => ?_) (fun _ => ?_)
    | split
    | dsimp only
    | (dsimp +zetaDelta only; split)

theorem State.keep_kept {o : State} {s : State} {p : Nat} {bs : List Byte} (h : Kept o s) : Kept o (State.keep s p bs) := by
  unfold State.keep
  repeat' first
    | with_reducible assumption
    | with_reducible refine State.emit_kept ?_
    | dsimp only

theorem State.broadcastIn_kept {o : State} {s : State} {p : Nat} {h' : KHeader} {bs : List Byte} (h : Kept o s) : Kept o (State.broadcastIn s p h' bs) := by
  unfold State.broadcastIn
  repeat' first
    | with_reducible assumption
    | with_reducible exact rfl
    | with_reducible refine State.forwardTransit_kept ?_
    | with_reducible refine State.keep_kept ?_
    | (extract_lets +onlyGivenNames s; refine kept_have (o := o) (x := s) ?_ (fun h => ?_); (on_goal 1 => unfold s; clear s); (on_goal 2 => try clear_value s))
    | (extract_lets +onlyGivenNames x; first | (have _p : PldSt := x; clear _p; unfold x) | skip)
    | simp only [↓kept_mk_iff]
    | with_reducible refine kept_ite (fun _ => ?_) (fun _ => ?_)
    | split
    | dsimp only
    | (dsimp +zetaDelta only; split)

theorem State.unicastIn_kept {o : State} {s : State} {p : Nat} {h' : KHeader} {bs : List Byte} (h : Kept o s) : Kept o (State.unicastIn s p h' bs) := by
  unfold State.unicastIn
  repeat' first
    | with_reducible assumption
    | with_reducible refine State.forwardTransit_kept ?_
    | with_reducible refine State.discard_kept ?_
    | with_reducible refine State.record_kept ?_
    | with_reducible refine State.keep_kept ?_
    | with_reducible refine kept_ite (fun _ => ?_) (fun _ => ?_)
    | split
    | dsimp only
    | (dsimp +zetaDelta only; split)

theorem execRingTransitFrame_kept {o : State} {port : Fin 3} {bytes : List Byte} {s : State} (h : Kept o s) : Keeps o (execRingTransitFrame port bytes s) := by
  unfold execRingTransitFrame
  repeat' first
    | with_reducible assumption
    | with_reducible refine State.unicastIn_kept ?_
    | with_reducible refine State.broadcastIn_kept ?_
    | with_reducible refine State.keep_kept ?_
    | with_reducible refine State.discard_kept ?_
    | with_reducible refine State.record_kept ?_
    | with_reducible refine State.inc_kept ?_
    | with_reducible refine keeps_next ?_
    | (extract_lets +onlyGivenNames s; refine kept_have (o := o) (x := s) ?_ (fun h => ?_); (on_goal 1 => unfold s; clear s); (on_goal 2 => try clear_value s))
    | (extract_lets +onlyGivenNames x; first | (have _p : PldSt := x; clear _p; unfold x) | skip)
    | with_reducible refine kept_ite (fun _ => ?_) (fun _ => ?_)
    | split
    | dsimp only
    | (dsimp +zetaDelta only; split)

end Sys2Proof.Machine
end

