-- ==== Sys2Proof/Laws/KeptTwinApply.lean ====
section
/-! SUPPORT. What the operations of Machine/TwinApply.lean keep (Laws/Kept.lean). -/

set_option linter.all false

namespace Sys2Proof.Machine

theorem State.quiet_kept {o s : State} {f : State → State} (h : Kept o s) (hf : ∀ s, Kept o s → Kept o (f s)) :
    Kept o (s.quiet f) := ⟨(hf s h).pending, h.out, (hf s h).canon⟩

theorem State.setRun_kept {o : State} {s : State} {run : Bool} {ks : List Nat} (h : Kept o s) : Kept o (State.setRun s run ks) := by
  unfold State.setRun
  repeat' first
    | with_reducible assumption
    | with_reducible exact rfl
    | (extract_lets +onlyGivenNames s; refine kept_have (o := o) (x := s) ?_ (fun h => ?_); (on_goal 1 => unfold s; clear s); (on_goal 2 => try clear_value s))
    | (extract_lets +onlyGivenNames x; first | (have _p : PldSt := x; clear _p; unfold x) | skip)
    | simp only [↓kept_mk_iff]
    | with_reducible refine kept_ite (fun _ => ?_) (fun _ => ?_)
    | split
    | dsimp only
    | (dsimp +zetaDelta only; split)

theorem State.applyConfig_kept {o : State} {s : State} {off : Nat} {v : Nat} (h : Kept o s) : Kept o (State.applyConfig s off v) := by
  unfold State.applyConfig
  repeat' first
    | with_reducible assumption
    | with_reducible exact rfl
    | with_reducible refine State.camFields_kept ?_
    | with_reducible refine State.setRun_kept ?_
    | with_reducible refine State.busWrite_kept ?_
    | (extract_lets +onlyGivenNames s; refine kept_have (o := o) (x := s) ?_ (fun h => ?_); (on_goal 1 => unfold s; clear s); (on_goal 2 => try clear_value s))
    | (extract_lets +onlyGivenNames x; first | (have _p : PldSt := x; clear _p; unfold x) | skip)
    | simp only [↓kept_mk_iff]
    | with_reducible refine kept_ite (fun _ => ?_) (fun _ => ?_)
    | split
    | dsimp only
    | (dsimp +zetaDelta only; split)

theorem State.copyPut_kept {o : State} {s : State} {q : Nat} {bytes : List Byte} (h : Kept o s) : Kept o (State.copyPut s q bytes) := by
  unfold State.copyPut
  repeat' first
    | with_reducible assumption
    | with_reducible refine State.ringWrite_kept ?_
    | with_reducible refine State.setFill_kept ?_
    | (extract_lets +onlyGivenNames s; refine kept_have (o := o) (x := s) ?_ (fun h => ?_); (on_goal 1 => unfold s; clear s); (on_goal 2 => try clear_value s))
    | (extract_lets +onlyGivenNames x; first | (have _p : PldSt := x; clear _p; unfold x) | skip)
    | with_reducible refine kept_ite (fun _ => ?_) (fun _ => ?_)
    | split
    | dsimp only
    | (dsimp +zetaDelta only; split)

theorem State.applyItem_kept {o : State} {s : State} {opcode : Nat} {ep : Nat} {bytes : List Byte} (h : Kept o s) : Kept o (State.applyItem s opcode ep bytes) := by
  unfold State.applyItem
  repeat' first
    | with_reducible assumption
    | with_reducible exact rfl
    | with_reducible refine State.setCam_kept ?_
    | with_reducible refine State.settleBulk_kept ?_
    | with_reducible refine State.copyPut_kept ?_
    | with_reducible refine State.applyRecord_kept ?_
    | with_reducible refine State.quiet_kept ?_ (fun s h => ?_)
    | (extract_lets +onlyGivenNames s; refine kept_have (o := o) (x := s) ?_ (fun h => ?_); (on_goal 1 => unfold s; clear s); (on_goal 2 => try clear_value s))
    | (extract_lets +onlyGivenNames x; first | (have _p : PldSt := x; clear _p; unfold x) | skip)
    | simp only [↓kept_mk_iff]
    | with_reducible refine kept_foldl ?_ (fun s x h => ?_)
    | with_reducible refine kept_foldl_fst ?_ (fun p x h => ?_)
    | with_reducible refine kept_ite (fun _ => ?_) (fun _ => ?_)
    | split
    | dsimp only
    | (dsimp +zetaDelta only; split)

theorem State.applySignals_kept {o : State} {s : State} {first : Bool} {values : List (Nat × Nat)} (h : Kept o s) : Kept o (State.applySignals s first values) := by
  unfold State.applySignals
  repeat' first
    | with_reducible assumption
    | with_reducible refine State.memWrite_kept ?_
    | (extract_lets +onlyGivenNames s; refine kept_have (o := o) (x := s) ?_ (fun h => ?_); (on_goal 1 => unfold s; clear s); (on_goal 2 => try clear_value s))
    | (extract_lets +onlyGivenNames x; first | (have _p : PldSt := x; clear _p; unfold x) | skip)
    | with_reducible refine kept_foldl ?_ (fun s x h => ?_)
    | with_reducible refine kept_foldl_fst ?_ (fun p x h => ?_)
    | with_reducible refine kept_ite (fun _ => ?_) (fun _ => ?_)
    | split
    | dsimp only
    | (dsimp +zetaDelta only; split)

theorem State.applyCopy_kept {o : State} {s : State} {body : CopyBody} (h : Kept o s) : Kept o (State.applyCopy s body) := by
  unfold State.applyCopy
  repeat' first
    | with_reducible assumption
    | with_reducible exact rfl
    | with_reducible refine State.applyConfig_kept ?_
    | with_reducible refine State.setSigTx_kept ?_
    | with_reducible refine State.applySignals_kept ?_
    | with_reducible refine State.updWork_kept ?_
    | with_reducible refine State.applyItem_kept ?_
    | (extract_lets +onlyGivenNames s; refine kept_have (o := o) (x := s) ?_ (fun h => ?_); (on_goal 1 => unfold s; clear s); (on_goal 2 => try clear_value s))
    | (extract_lets +onlyGivenNames x; first | (have _p : PldSt := x; clear _p; unfold x) | skip)
    | simp only [↓kept_mk_iff]
    | with_reducible refine kept_foldl ?_ (fun s x h => ?_)
    | with_reducible refine kept_foldl_fst ?_ (fun p x h => ?_)
    | split
    | dsimp only
    | (dsimp +zetaDelta only; split)

theorem execTwinCopy_kept {o : State} {seq : Nat} {body : CopyBody} {s : State} (h : Kept o s) : Keeps o (execTwinCopy seq body s) := by
  unfold execTwinCopy
  repeat' first
    | with_reducible assumption
    | with_reducible refine State.applyCopy_kept ?_
    | with_reducible refine State.sendTwin_kept ?_
    | with_reducible refine keeps_next ?_
    | with_reducible refine kept_ite (fun _ => ?_) (fun _ => ?_)
    | split
    | dsimp only
    | (dsimp +zetaDelta only; split)

theorem State.applyCommit_kept {o : State} {s : State} {k' : Nat} {wsn : Nat} (h : Kept o s) : Kept o (State.applyCommit s k' wsn) := by
  unfold State.applyCommit
  repeat' first
    | with_reducible assumption
    | with_reducible exact rfl
    | with_reducible refine State.applyItem_kept ?_
    | with_reducible refine State.dropWork_kept ?_
    | (extract_lets +onlyGivenNames s; refine kept_have (o := o) (x := s) ?_ (fun h => ?_); (on_goal 1 => unfold s; clear s); (on_goal 2 => try clear_value s))
    | (extract_lets +onlyGivenNames x; first | (have _p : PldSt := x; clear _p; unfold x) | skip)
    | simp only [↓kept_mk_iff]
    | with_reducible refine kept_ite (fun _ => ?_) (fun _ => ?_)
    | split
    | dsimp only
    | (dsimp +zetaDelta only; split)

theorem State.applyGets_kept {o : State} {s : State} (h : Kept o s) : Kept o (State.applyGets s) := by
  unfold State.applyGets
  repeat' first
    | with_reducible assumption
    | with_reducible exact rfl
    | with_reducible refine execBulkGet_kept ?_
    | with_reducible refine State.quiet_kept ?_ (fun s h => ?_)
    | with_reducible refine kept_nextOf ?_ ?_
    | (extract_lets +onlyGivenNames s; refine kept_have (o := o) (x := s) ?_ (fun h => ?_); (on_goal 1 => unfold s; clear s); (on_goal 2 => try clear_value s))
    | (extract_lets +onlyGivenNames x; first | (have _p : PldSt := x; clear _p; unfold x) | skip)
    | simp only [↓kept_mk_iff]
    | with_reducible refine kept_foldl ?_ (fun s x h => ?_)
    | with_reducible refine kept_foldl_fst ?_ (fun p x h => ?_)
    | dsimp only

theorem State.applyJournal_kept {o : State} {s : State} {body : JournalBody} (h : Kept o s) : Kept o (State.applyJournal s body) := by
  unfold State.applyJournal
  repeat' first
    | with_reducible assumption
    | with_reducible exact rfl
    | with_reducible refine State.applyConfig_kept ?_
    | with_reducible refine State.applyCommit_kept ?_
    | with_reducible refine execSigInput_kept ?_
    | with_reducible refine State.takeFrame_kept ?_
    | with_reducible refine State.quiet_kept ?_ (fun s h => ?_)
    | with_reducible refine kept_nextOf ?_ ?_
    | (extract_lets +onlyGivenNames s; refine kept_have (o := o) (x := s) ?_ (fun h => ?_); (on_goal 1 => unfold s; clear s); (on_goal 2 => try clear_value s))
    | (extract_lets +onlyGivenNames x; first | (have _p : PldSt := x; clear _p; unfold x) | skip)
    | simp only [↓kept_mk_iff]
    | split
    | dsimp only
    | (dsimp +zetaDelta only; split)

theorem execTwinJournal_kept {o : State} {_seq : Nat} {body : JournalBody} {s : State} (h : Kept o s) : Keeps o (execTwinJournal _seq body s) := by
  unfold execTwinJournal
  repeat' first
    | with_reducible assumption
    | with_reducible exact rfl
    | with_reducible refine State.applyJournal_kept ?_
    | with_reducible refine State.applyGets_kept ?_
    | with_reducible refine keeps_next ?_
    | (extract_lets +onlyGivenNames s; refine kept_have (o := o) (x := s) ?_ (fun h => ?_); (on_goal 1 => unfold s; clear s); (on_goal 2 => try clear_value s))
    | (extract_lets +onlyGivenNames x; first | (have _p : PldSt := x; clear _p; unfold x) | skip)
    | simp only [↓kept_mk_iff]
    | with_reducible refine kept_ite (fun _ => ?_) (fun _ => ?_)
    | split
    | dsimp only
    | (dsimp +zetaDelta only; split)

theorem execTwinSyncDone_kept {o : State} {config : List (Nat × Word)} {s : State} (h : Kept o s) : Keeps o (execTwinSyncDone config s) := by
  unfold execTwinSyncDone
  repeat' first
    | with_reducible assumption
    | with_reducible refine State.put_kept ?_
    | with_reducible refine State.applyConfig_kept ?_
    | with_reducible refine keeps_next ?_
    | (extract_lets +onlyGivenNames s; refine kept_have (o := o) (x := s) ?_ (fun h => ?_); (on_goal 1 => unfold s; clear s); (on_goal 2 => try clear_value s))
    | (extract_lets +onlyGivenNames x; first | (have _p : PldSt := x; clear _p; unfold x) | skip)
    | with_reducible refine kept_foldl ?_ (fun s x h => ?_)
    | with_reducible refine kept_foldl_fst ?_ (fun p x h => ?_)
    | with_reducible refine kept_ite (fun _ => ?_) (fun _ => ?_)
    | split
    | dsimp only
    | (dsimp +zetaDelta only; split)

end Sys2Proof.Machine
end

