-- ==== Sys2Proof/Laws/State.lean ====
section
/-! SUPPORT. What the elementary updates leave alone, field by field, and how a register field reads after them. -/

namespace Sys2Proof.Machine

/-! ### `State.put` -/

@[simp] theorem State.put_mem (s : State) (f : Field) (v : Nat) : (s.put f v).mem = s.mem := rfl
@[simp] theorem State.put_bar2 (s : State) (f : Field) (v : Nat) : (s.put f v).bar2 = s.bar2 := rfl
@[simp] theorem State.put_capture (s : State) (f : Field) (v : Nat) : (s.put f v).capture = s.capture := rfl
@[simp] theorem State.put_staged (s : State) (f : Field) (v : Nat) : (s.put f v).staged = s.staged := rfl
@[simp] theorem State.put_node (s : State) (f : Field) (v : Nat) : (s.put f v).node = s.node := rfl
@[simp] theorem State.put_boot (s : State) (f : Field) (v : Nat) : (s.put f v).boot = s.boot := rfl
@[simp] theorem State.put_ring (s : State) (f : Field) (v : Nat) : (s.put f v).ring = s.ring := rfl
@[simp] theorem State.put_flt (s : State) (f : Field) (v : Nat) : (s.put f v).flt = s.flt := rfl
@[simp] theorem State.put_hq (s : State) (f : Field) (v : Nat) : (s.put f v).hq = s.hq := rfl
@[simp] theorem State.put_dlv (s : State) (f : Field) (v : Nat) : (s.put f v).dlv = s.dlv := rfl
@[simp] theorem State.put_twin (s : State) (f : Field) (v : Nat) : (s.put f v).twin = s.twin := rfl
@[simp] theorem State.put_time (s : State) (f : Field) (v : Nat) : (s.put f v).time = s.time := rfl
@[simp] theorem State.put_saved (s : State) (f : Field) (v : Nat) : (s.put f v).saved = s.saved := rfl
@[simp] theorem State.put_savedRun (s : State) (f : Field) (v : Nat) : (s.put f v).savedRun = s.savedRun := rfl
@[simp] theorem State.put_pld (s : State) (f : Field) (v : Nat) : (s.put f v).pld = s.pld := rfl
@[simp] theorem State.put_sch (s : State) (f : Field) (v : Nat) : (s.put f v).sch = s.sch := rfl
@[simp] theorem State.put_vis (s : State) (f : Field) (v : Nat) : (s.put f v).vis = s.vis := rfl
@[simp] theorem State.put_net (s : State) (f : Field) (v : Nat) : (s.put f v).net = s.net := rfl
@[simp] theorem State.put_fc (s : State) (f : Field) (v : Nat) : (s.put f v).fc = s.fc := rfl
@[simp] theorem State.put_canCap (s : State) (f : Field) (v : Nat) : (s.put f v).canCap = s.canCap := rfl
@[simp] theorem State.put_sig (s : State) (f : Field) (v : Nat) : (s.put f v).sig = s.sig := rfl
@[simp] theorem State.put_bulk (s : State) (f : Field) (v : Nat) : (s.put f v).bulk = s.bulk := rfl
@[simp] theorem State.put_dike (s : State) (f : Field) (v : Nat) : (s.put f v).dike = s.dike := rfl
@[simp] theorem State.put_pwr (s : State) (f : Field) (v : Nat) : (s.put f v).pwr = s.pwr := rfl
@[simp] theorem State.put_ints (s : State) (f : Field) (v : Nat) : (s.put f v).ints = s.ints := rfl
@[simp] theorem State.put_out (s : State) (f : Field) (v : Nat) : (s.put f v).out = s.out := rfl
@[simp] theorem State.put_fresh (s : State) (f : Field) (v : Nat) : (s.put f v).fresh = s.fresh := rfl
@[simp] theorem State.put_pending (s : State) (f : Field) (v : Nat) : (s.put f v).pending = s.pending := rfl

/-! ### `State.orBits` -/

@[simp] theorem State.orBits_mem (s : State) (f : Field) (v : Nat) : (s.orBits f v).mem = s.mem := rfl
@[simp] theorem State.orBits_bar2 (s : State) (f : Field) (v : Nat) : (s.orBits f v).bar2 = s.bar2 := rfl
@[simp] theorem State.orBits_capture (s : State) (f : Field) (v : Nat) : (s.orBits f v).capture = s.capture := rfl
@[simp] theorem State.orBits_staged (s : State) (f : Field) (v : Nat) : (s.orBits f v).staged = s.staged := rfl
@[simp] theorem State.orBits_node (s : State) (f : Field) (v : Nat) : (s.orBits f v).node = s.node := rfl
@[simp] theorem State.orBits_boot (s : State) (f : Field) (v : Nat) : (s.orBits f v).boot = s.boot := rfl
@[simp] theorem State.orBits_ring (s : State) (f : Field) (v : Nat) : (s.orBits f v).ring = s.ring := rfl
@[simp] theorem State.orBits_flt (s : State) (f : Field) (v : Nat) : (s.orBits f v).flt = s.flt := rfl
@[simp] theorem State.orBits_hq (s : State) (f : Field) (v : Nat) : (s.orBits f v).hq = s.hq := rfl
@[simp] theorem State.orBits_dlv (s : State) (f : Field) (v : Nat) : (s.orBits f v).dlv = s.dlv := rfl
@[simp] theorem State.orBits_twin (s : State) (f : Field) (v : Nat) : (s.orBits f v).twin = s.twin := rfl
@[simp] theorem State.orBits_time (s : State) (f : Field) (v : Nat) : (s.orBits f v).time = s.time := rfl
@[simp] theorem State.orBits_saved (s : State) (f : Field) (v : Nat) : (s.orBits f v).saved = s.saved := rfl
@[simp] theorem State.orBits_savedRun (s : State) (f : Field) (v : Nat) : (s.orBits f v).savedRun = s.savedRun := rfl
@[simp] theorem State.orBits_pld (s : State) (f : Field) (v : Nat) : (s.orBits f v).pld = s.pld := rfl
@[simp] theorem State.orBits_sch (s : State) (f : Field) (v : Nat) : (s.orBits f v).sch = s.sch := rfl
@[simp] theorem State.orBits_vis (s : State) (f : Field) (v : Nat) : (s.orBits f v).vis = s.vis := rfl
@[simp] theorem State.orBits_net (s : State) (f : Field) (v : Nat) : (s.orBits f v).net = s.net := rfl
@[simp] theorem State.orBits_fc (s : State) (f : Field) (v : Nat) : (s.orBits f v).fc = s.fc := rfl
@[simp] theorem State.orBits_canCap (s : State) (f : Field) (v : Nat) : (s.orBits f v).canCap = s.canCap := rfl
@[simp] theorem State.orBits_sig (s : State) (f : Field) (v : Nat) : (s.orBits f v).sig = s.sig := rfl
@[simp] theorem State.orBits_bulk (s : State) (f : Field) (v : Nat) : (s.orBits f v).bulk = s.bulk := rfl
@[simp] theorem State.orBits_dike (s : State) (f : Field) (v : Nat) : (s.orBits f v).dike = s.dike := rfl
@[simp] theorem State.orBits_pwr (s : State) (f : Field) (v : Nat) : (s.orBits f v).pwr = s.pwr := rfl
@[simp] theorem State.orBits_ints (s : State) (f : Field) (v : Nat) : (s.orBits f v).ints = s.ints := rfl
@[simp] theorem State.orBits_out (s : State) (f : Field) (v : Nat) : (s.orBits f v).out = s.out := rfl
@[simp] theorem State.orBits_fresh (s : State) (f : Field) (v : Nat) : (s.orBits f v).fresh = s.fresh := rfl
@[simp] theorem State.orBits_pending (s : State) (f : Field) (v : Nat) : (s.orBits f v).pending = s.pending := rfl

/-! ### `State.dropBits` -/

@[simp] theorem State.dropBits_mem (s : State) (f : Field) (v : Nat) : (s.dropBits f v).mem = s.mem := rfl
@[simp] theorem State.dropBits_bar2 (s : State) (f : Field) (v : Nat) : (s.dropBits f v).bar2 = s.bar2 := rfl
@[simp] theorem State.dropBits_capture (s : State) (f : Field) (v : Nat) : (s.dropBits f v).capture = s.capture := rfl
@[simp] theorem State.dropBits_staged (s : State) (f : Field) (v : Nat) : (s.dropBits f v).staged = s.staged := rfl
@[simp] theorem State.dropBits_node (s : State) (f : Field) (v : Nat) : (s.dropBits f v).node = s.node := rfl
@[simp] theorem State.dropBits_boot (s : State) (f : Field) (v : Nat) : (s.dropBits f v).boot = s.boot := rfl
@[simp] theorem State.dropBits_ring (s : State) (f : Field) (v : Nat) : (s.dropBits f v).ring = s.ring := rfl
@[simp] theorem State.dropBits_flt (s : State) (f : Field) (v : Nat) : (s.dropBits f v).flt = s.flt := rfl
@[simp] theorem State.dropBits_hq (s : State) (f : Field) (v : Nat) : (s.dropBits f v).hq = s.hq := rfl
@[simp] theorem State.dropBits_dlv (s : State) (f : Field) (v : Nat) : (s.dropBits f v).dlv = s.dlv := rfl
@[simp] theorem State.dropBits_twin (s : State) (f : Field) (v : Nat) : (s.dropBits f v).twin = s.twin := rfl
@[simp] theorem State.dropBits_time (s : State) (f : Field) (v : Nat) : (s.dropBits f v).time = s.time := rfl
@[simp] theorem State.dropBits_saved (s : State) (f : Field) (v : Nat) : (s.dropBits f v).saved = s.saved := rfl
@[simp] theorem State.dropBits_savedRun (s : State) (f : Field) (v : Nat) : (s.dropBits f v).savedRun = s.savedRun := rfl
@[simp] theorem State.dropBits_pld (s : State) (f : Field) (v : Nat) : (s.dropBits f v).pld = s.pld := rfl
@[simp] theorem State.dropBits_sch (s : State) (f : Field) (v : Nat) : (s.dropBits f v).sch = s.sch := rfl
@[simp] theorem State.dropBits_vis (s : State) (f : Field) (v : Nat) : (s.dropBits f v).vis = s.vis := rfl
@[simp] theorem State.dropBits_net (s : State) (f : Field) (v : Nat) : (s.dropBits f v).net = s.net := rfl
@[simp] theorem State.dropBits_fc (s : State) (f : Field) (v : Nat) : (s.dropBits f v).fc = s.fc := rfl
@[simp] theorem State.dropBits_canCap (s : State) (f : Field) (v : Nat) : (s.dropBits f v).canCap = s.canCap := rfl
@[simp] theorem State.dropBits_sig (s : State) (f : Field) (v : Nat) : (s.dropBits f v).sig = s.sig := rfl
@[simp] theorem State.dropBits_bulk (s : State) (f : Field) (v : Nat) : (s.dropBits f v).bulk = s.bulk := rfl
@[simp] theorem State.dropBits_dike (s : State) (f : Field) (v : Nat) : (s.dropBits f v).dike = s.dike := rfl
@[simp] theorem State.dropBits_pwr (s : State) (f : Field) (v : Nat) : (s.dropBits f v).pwr = s.pwr := rfl
@[simp] theorem State.dropBits_ints (s : State) (f : Field) (v : Nat) : (s.dropBits f v).ints = s.ints := rfl
@[simp] theorem State.dropBits_out (s : State) (f : Field) (v : Nat) : (s.dropBits f v).out = s.out := rfl
@[simp] theorem State.dropBits_fresh (s : State) (f : Field) (v : Nat) : (s.dropBits f v).fresh = s.fresh := rfl
@[simp] theorem State.dropBits_pending (s : State) (f : Field) (v : Nat) : (s.dropBits f v).pending = s.pending := rfl

/-! ### `State.addTo` -/

@[simp] theorem State.addTo_mem (s : State) (f : Field) (v : Nat) : (s.addTo f v).mem = s.mem := rfl
@[simp] theorem State.addTo_bar2 (s : State) (f : Field) (v : Nat) : (s.addTo f v).bar2 = s.bar2 := rfl
@[simp] theorem State.addTo_capture (s : State) (f : Field) (v : Nat) : (s.addTo f v).capture = s.capture := rfl
@[simp] theorem State.addTo_staged (s : State) (f : Field) (v : Nat) : (s.addTo f v).staged = s.staged := rfl
@[simp] theorem State.addTo_node (s : State) (f : Field) (v : Nat) : (s.addTo f v).node = s.node := rfl
@[simp] theorem State.addTo_boot (s : State) (f : Field) (v : Nat) : (s.addTo f v).boot = s.boot := rfl
@[simp] theorem State.addTo_ring (s : State) (f : Field) (v : Nat) : (s.addTo f v).ring = s.ring := rfl
@[simp] theorem State.addTo_flt (s : State) (f : Field) (v : Nat) : (s.addTo f v).flt = s.flt := rfl
@[simp] theorem State.addTo_hq (s : State) (f : Field) (v : Nat) : (s.addTo f v).hq = s.hq := rfl
@[simp] theorem State.addTo_dlv (s : State) (f : Field) (v : Nat) : (s.addTo f v).dlv = s.dlv := rfl
@[simp] theorem State.addTo_twin (s : State) (f : Field) (v : Nat) : (s.addTo f v).twin = s.twin := rfl
@[simp] theorem State.addTo_time (s : State) (f : Field) (v : Nat) : (s.addTo f v).time = s.time := rfl
@[simp] theorem State.addTo_saved (s : State) (f : Field) (v : Nat) : (s.addTo f v).saved = s.saved := rfl
@[simp] theorem State.addTo_savedRun (s : State) (f : Field) (v : Nat) : (s.addTo f v).savedRun = s.savedRun := rfl
@[simp] theorem State.addTo_pld (s : State) (f : Field) (v : Nat) : (s.addTo f v).pld = s.pld := rfl
@[simp] theorem State.addTo_sch (s : State) (f : Field) (v : Nat) : (s.addTo f v).sch = s.sch := rfl
@[simp] theorem State.addTo_vis (s : State) (f : Field) (v : Nat) : (s.addTo f v).vis = s.vis := rfl
@[simp] theorem State.addTo_net (s : State) (f : Field) (v : Nat) : (s.addTo f v).net = s.net := rfl
@[simp] theorem State.addTo_fc (s : State) (f : Field) (v : Nat) : (s.addTo f v).fc = s.fc := rfl
@[simp] theorem State.addTo_canCap (s : State) (f : Field) (v : Nat) : (s.addTo f v).canCap = s.canCap := rfl
@[simp] theorem State.addTo_sig (s : State) (f : Field) (v : Nat) : (s.addTo f v).sig = s.sig := rfl
@[simp] theorem State.addTo_bulk (s : State) (f : Field) (v : Nat) : (s.addTo f v).bulk = s.bulk := rfl
@[simp] theorem State.addTo_dike (s : State) (f : Field) (v : Nat) : (s.addTo f v).dike = s.dike := rfl
@[simp] theorem State.addTo_pwr (s : State) (f : Field) (v : Nat) : (s.addTo f v).pwr = s.pwr := rfl
@[simp] theorem State.addTo_ints (s : State) (f : Field) (v : Nat) : (s.addTo f v).ints = s.ints := rfl
@[simp] theorem State.addTo_out (s : State) (f : Field) (v : Nat) : (s.addTo f v).out = s.out := rfl
@[simp] theorem State.addTo_fresh (s : State) (f : Field) (v : Nat) : (s.addTo f v).fresh = s.fresh := rfl
@[simp] theorem State.addTo_pending (s : State) (f : Field) (v : Nat) : (s.addTo f v).pending = s.pending := rfl

/-! ### `State.inc` -/

@[simp] theorem State.inc_mem (s : State) (f : Field) : (s.inc f).mem = s.mem := rfl
@[simp] theorem State.inc_bar2 (s : State) (f : Field) : (s.inc f).bar2 = s.bar2 := rfl
@[simp] theorem State.inc_capture (s : State) (f : Field) : (s.inc f).capture = s.capture := rfl
@[simp] theorem State.inc_staged (s : State) (f : Field) : (s.inc f).staged = s.staged := rfl
@[simp] theorem State.inc_node (s : State) (f : Field) : (s.inc f).node = s.node := rfl
@[simp] theorem State.inc_boot (s : State) (f : Field) : (s.inc f).boot = s.boot := rfl
@[simp] theorem State.inc_ring (s : State) (f : Field) : (s.inc f).ring = s.ring := rfl
@[simp] theorem State.inc_flt (s : State) (f : Field) : (s.inc f).flt = s.flt := rfl
@[simp] theorem State.inc_hq (s : State) (f : Field) : (s.inc f).hq = s.hq := rfl
@[simp] theorem State.inc_dlv (s : State) (f : Field) : (s.inc f).dlv = s.dlv := rfl
@[simp] theorem State.inc_twin (s : State) (f : Field) : (s.inc f).twin = s.twin := rfl
@[simp] theorem State.inc_time (s : State) (f : Field) : (s.inc f).time = s.time := rfl
@[simp] theorem State.inc_saved (s : State) (f : Field) : (s.inc f).saved = s.saved := rfl
@[simp] theorem State.inc_savedRun (s : State) (f : Field) : (s.inc f).savedRun = s.savedRun := rfl
@[simp] theorem State.inc_pld (s : State) (f : Field) : (s.inc f).pld = s.pld := rfl
@[simp] theorem State.inc_sch (s : State) (f : Field) : (s.inc f).sch = s.sch := rfl
@[simp] theorem State.inc_vis (s : State) (f : Field) : (s.inc f).vis = s.vis := rfl
@[simp] theorem State.inc_net (s : State) (f : Field) : (s.inc f).net = s.net := rfl
@[simp] theorem State.inc_fc (s : State) (f : Field) : (s.inc f).fc = s.fc := rfl
@[simp] theorem State.inc_canCap (s : State) (f : Field) : (s.inc f).canCap = s.canCap := rfl
@[simp] theorem State.inc_sig (s : State) (f : Field) : (s.inc f).sig = s.sig := rfl
@[simp] theorem State.inc_bulk (s : State) (f : Field) : (s.inc f).bulk = s.bulk := rfl
@[simp] theorem State.inc_dike (s : State) (f : Field) : (s.inc f).dike = s.dike := rfl
@[simp] theorem State.inc_pwr (s : State) (f : Field) : (s.inc f).pwr = s.pwr := rfl
@[simp] theorem State.inc_ints (s : State) (f : Field) : (s.inc f).ints = s.ints := rfl
@[simp] theorem State.inc_out (s : State) (f : Field) : (s.inc f).out = s.out := rfl
@[simp] theorem State.inc_fresh (s : State) (f : Field) : (s.inc f).fresh = s.fresh := rfl
@[simp] theorem State.inc_pending (s : State) (f : Field) : (s.inc f).pending = s.pending := rfl

/-! ### `State.addSat` -/

@[simp] theorem State.addSat_mem (s : State) (f : Field) (v : Nat) : (s.addSat f v).mem = s.mem := rfl
@[simp] theorem State.addSat_bar2 (s : State) (f : Field) (v : Nat) : (s.addSat f v).bar2 = s.bar2 := rfl
@[simp] theorem State.addSat_capture (s : State) (f : Field) (v : Nat) : (s.addSat f v).capture = s.capture := rfl
@[simp] theorem State.addSat_staged (s : State) (f : Field) (v : Nat) : (s.addSat f v).staged = s.staged := rfl
@[simp] theorem State.addSat_node (s : State) (f : Field) (v : Nat) : (s.addSat f v).node = s.node := rfl
@[simp] theorem State.addSat_boot (s : State) (f : Field) (v : Nat) : (s.addSat f v).boot = s.boot := rfl
@[simp] theorem State.addSat_ring (s : State) (f : Field) (v : Nat) : (s.addSat f v).ring = s.ring := rfl
@[simp] theorem State.addSat_flt (s : State) (f : Field) (v : Nat) : (s.addSat f v).flt = s.flt := rfl
@[simp] theorem State.addSat_hq (s : State) (f : Field) (v : Nat) : (s.addSat f v).hq = s.hq := rfl
@[simp] theorem State.addSat_dlv (s : State) (f : Field) (v : Nat) : (s.addSat f v).dlv = s.dlv := rfl
@[simp] theorem State.addSat_twin (s : State) (f : Field) (v : Nat) : (s.addSat f v).twin = s.twin := rfl
@[simp] theorem State.addSat_time (s : State) (f : Field) (v : Nat) : (s.addSat f v).time = s.time := rfl
@[simp] theorem State.addSat_saved (s : State) (f : Field) (v : Nat) : (s.addSat f v).saved = s.saved := rfl
@[simp] theorem State.addSat_savedRun (s : State) (f : Field) (v : Nat) : (s.addSat f v).savedRun = s.savedRun := rfl
@[simp] theorem State.addSat_pld (s : State) (f : Field) (v : Nat) : (s.addSat f v).pld = s.pld := rfl
@[simp] theorem State.addSat_sch (s : State) (f : Field) (v : Nat) : (s.addSat f v).sch = s.sch := rfl
@[simp] theorem State.addSat_vis (s : State) (f : Field) (v : Nat) : (s.addSat f v).vis = s.vis := rfl
@[simp] theorem State.addSat_net (s : State) (f : Field) (v : Nat) : (s.addSat f v).net = s.net := rfl
@[simp] theorem State.addSat_fc (s : State) (f : Field) (v : Nat) : (s.addSat f v).fc = s.fc := rfl
@[simp] theorem State.addSat_canCap (s : State) (f : Field) (v : Nat) : (s.addSat f v).canCap = s.canCap := rfl
@[simp] theorem State.addSat_sig (s : State) (f : Field) (v : Nat) : (s.addSat f v).sig = s.sig := rfl
@[simp] theorem State.addSat_bulk (s : State) (f : Field) (v : Nat) : (s.addSat f v).bulk = s.bulk := rfl
@[simp] theorem State.addSat_dike (s : State) (f : Field) (v : Nat) : (s.addSat f v).dike = s.dike := rfl
@[simp] theorem State.addSat_pwr (s : State) (f : Field) (v : Nat) : (s.addSat f v).pwr = s.pwr := rfl
@[simp] theorem State.addSat_ints (s : State) (f : Field) (v : Nat) : (s.addSat f v).ints = s.ints := rfl
@[simp] theorem State.addSat_out (s : State) (f : Field) (v : Nat) : (s.addSat f v).out = s.out := rfl
@[simp] theorem State.addSat_fresh (s : State) (f : Field) (v : Nat) : (s.addSat f v).fresh = s.fresh := rfl
@[simp] theorem State.addSat_pending (s : State) (f : Field) (v : Nat) : (s.addSat f v).pending = s.pending := rfl

/-! ### `State.incSat` -/

@[simp] theorem State.incSat_mem (s : State) (f : Field) : (s.incSat f).mem = s.mem := rfl
@[simp] theorem State.incSat_bar2 (s : State) (f : Field) : (s.incSat f).bar2 = s.bar2 := rfl
@[simp] theorem State.incSat_capture (s : State) (f : Field) : (s.incSat f).capture = s.capture := rfl
@[simp] theorem State.incSat_staged (s : State) (f : Field) : (s.incSat f).staged = s.staged := rfl
@[simp] theorem State.incSat_node (s : State) (f : Field) : (s.incSat f).node = s.node := rfl
@[simp] theorem State.incSat_boot (s : State) (f : Field) : (s.incSat f).boot = s.boot := rfl
@[simp] theorem State.incSat_ring (s : State) (f : Field) : (s.incSat f).ring = s.ring := rfl
@[simp] theorem State.incSat_flt (s : State) (f : Field) : (s.incSat f).flt = s.flt := rfl
@[simp] theorem State.incSat_hq (s : State) (f : Field) : (s.incSat f).hq = s.hq := rfl
@[simp] theorem State.incSat_dlv (s : State) (f : Field) : (s.incSat f).dlv = s.dlv := rfl
@[simp] theorem State.incSat_twin (s : State) (f : Field) : (s.incSat f).twin = s.twin := rfl
@[simp] theorem State.incSat_time (s : State) (f : Field) : (s.incSat f).time = s.time := rfl
@[simp] theorem State.incSat_saved (s : State) (f : Field) : (s.incSat f).saved = s.saved := rfl
@[simp] theorem State.incSat_savedRun (s : State) (f : Field) : (s.incSat f).savedRun = s.savedRun := rfl
@[simp] theorem State.incSat_pld (s : State) (f : Field) : (s.incSat f).pld = s.pld := rfl
@[simp] theorem State.incSat_sch (s : State) (f : Field) : (s.incSat f).sch = s.sch := rfl
@[simp] theorem State.incSat_vis (s : State) (f : Field) : (s.incSat f).vis = s.vis := rfl
@[simp] theorem State.incSat_net (s : State) (f : Field) : (s.incSat f).net = s.net := rfl
@[simp] theorem State.incSat_fc (s : State) (f : Field) : (s.incSat f).fc = s.fc := rfl
@[simp] theorem State.incSat_canCap (s : State) (f : Field) : (s.incSat f).canCap = s.canCap := rfl
@[simp] theorem State.incSat_sig (s : State) (f : Field) : (s.incSat f).sig = s.sig := rfl
@[simp] theorem State.incSat_bulk (s : State) (f : Field) : (s.incSat f).bulk = s.bulk := rfl
@[simp] theorem State.incSat_dike (s : State) (f : Field) : (s.incSat f).dike = s.dike := rfl
@[simp] theorem State.incSat_pwr (s : State) (f : Field) : (s.incSat f).pwr = s.pwr := rfl
@[simp] theorem State.incSat_ints (s : State) (f : Field) : (s.incSat f).ints = s.ints := rfl
@[simp] theorem State.incSat_out (s : State) (f : Field) : (s.incSat f).out = s.out := rfl
@[simp] theorem State.incSat_fresh (s : State) (f : Field) : (s.incSat f).fresh = s.fresh := rfl
@[simp] theorem State.incSat_pending (s : State) (f : Field) : (s.incSat f).pending = s.pending := rfl

/-! ### `State.put64` -/

@[simp] theorem State.put64_mem (s : State) (lo hi : Field) (v : Nat) : (s.put64 lo hi v).mem = s.mem := rfl
@[simp] theorem State.put64_bar2 (s : State) (lo hi : Field) (v : Nat) : (s.put64 lo hi v).bar2 = s.bar2 := rfl
@[simp] theorem State.put64_capture (s : State) (lo hi : Field) (v : Nat) : (s.put64 lo hi v).capture = s.capture := rfl
@[simp] theorem State.put64_staged (s : State) (lo hi : Field) (v : Nat) : (s.put64 lo hi v).staged = s.staged := rfl
@[simp] theorem State.put64_node (s : State) (lo hi : Field) (v : Nat) : (s.put64 lo hi v).node = s.node := rfl
@[simp] theorem State.put64_boot (s : State) (lo hi : Field) (v : Nat) : (s.put64 lo hi v).boot = s.boot := rfl
@[simp] theorem State.put64_ring (s : State) (lo hi : Field) (v : Nat) : (s.put64 lo hi v).ring = s.ring := rfl
@[simp] theorem State.put64_flt (s : State) (lo hi : Field) (v : Nat) : (s.put64 lo hi v).flt = s.flt := rfl
@[simp] theorem State.put64_hq (s : State) (lo hi : Field) (v : Nat) : (s.put64 lo hi v).hq = s.hq := rfl
@[simp] theorem State.put64_dlv (s : State) (lo hi : Field) (v : Nat) : (s.put64 lo hi v).dlv = s.dlv := rfl
@[simp] theorem State.put64_twin (s : State) (lo hi : Field) (v : Nat) : (s.put64 lo hi v).twin = s.twin := rfl
@[simp] theorem State.put64_time (s : State) (lo hi : Field) (v : Nat) : (s.put64 lo hi v).time = s.time := rfl
@[simp] theorem State.put64_saved (s : State) (lo hi : Field) (v : Nat) : (s.put64 lo hi v).saved = s.saved := rfl
@[simp] theorem State.put64_savedRun (s : State) (lo hi : Field) (v : Nat) : (s.put64 lo hi v).savedRun = s.savedRun := rfl
@[simp] theorem State.put64_pld (s : State) (lo hi : Field) (v : Nat) : (s.put64 lo hi v).pld = s.pld := rfl
@[simp] theorem State.put64_sch (s : State) (lo hi : Field) (v : Nat) : (s.put64 lo hi v).sch = s.sch := rfl
@[simp] theorem State.put64_vis (s : State) (lo hi : Field) (v : Nat) : (s.put64 lo hi v).vis = s.vis := rfl
@[simp] theorem State.put64_net (s : State) (lo hi : Field) (v : Nat) : (s.put64 lo hi v).net = s.net := rfl
@[simp] theorem State.put64_fc (s : State) (lo hi : Field) (v : Nat) : (s.put64 lo hi v).fc = s.fc := rfl
@[simp] theorem State.put64_canCap (s : State) (lo hi : Field) (v : Nat) : (s.put64 lo hi v).canCap = s.canCap := rfl
@[simp] theorem State.put64_sig (s : State) (lo hi : Field) (v : Nat) : (s.put64 lo hi v).sig = s.sig := rfl
@[simp] theorem State.put64_bulk (s : State) (lo hi : Field) (v : Nat) : (s.put64 lo hi v).bulk = s.bulk := rfl
@[simp] theorem State.put64_dike (s : State) (lo hi : Field) (v : Nat) : (s.put64 lo hi v).dike = s.dike := rfl
@[simp] theorem State.put64_pwr (s : State) (lo hi : Field) (v : Nat) : (s.put64 lo hi v).pwr = s.pwr := rfl
@[simp] theorem State.put64_ints (s : State) (lo hi : Field) (v : Nat) : (s.put64 lo hi v).ints = s.ints := rfl
@[simp] theorem State.put64_out (s : State) (lo hi : Field) (v : Nat) : (s.put64 lo hi v).out = s.out := rfl
@[simp] theorem State.put64_fresh (s : State) (lo hi : Field) (v : Nat) : (s.put64 lo hi v).fresh = s.fresh := rfl
@[simp] theorem State.put64_pending (s : State) (lo hi : Field) (v : Nat) : (s.put64 lo hi v).pending = s.pending := rfl

/-! ### `State.showGroups` -/

@[simp] theorem State.showGroups_regs (s : State) : s.showGroups.regs = s.regs := rfl
@[simp] theorem State.showGroups_mem (s : State) : s.showGroups.mem = s.mem := rfl
@[simp] theorem State.showGroups_bar2 (s : State) : s.showGroups.bar2 = s.bar2 := rfl
@[simp] theorem State.showGroups_capture (s : State) : s.showGroups.capture = s.capture := rfl
@[simp] theorem State.showGroups_staged (s : State) : s.showGroups.staged = s.staged := rfl
@[simp] theorem State.showGroups_boot (s : State) : s.showGroups.boot = s.boot := rfl
@[simp] theorem State.showGroups_ring (s : State) : s.showGroups.ring = s.ring := rfl
@[simp] theorem State.showGroups_flt (s : State) : s.showGroups.flt = s.flt := rfl
@[simp] theorem State.showGroups_hq (s : State) : s.showGroups.hq = s.hq := rfl
@[simp] theorem State.showGroups_dlv (s : State) : s.showGroups.dlv = s.dlv := rfl
@[simp] theorem State.showGroups_twin (s : State) : s.showGroups.twin = s.twin := rfl
@[simp] theorem State.showGroups_time (s : State) : s.showGroups.time = s.time := rfl
@[simp] theorem State.showGroups_saved (s : State) : s.showGroups.saved = s.saved := rfl
@[simp] theorem State.showGroups_savedRun (s : State) : s.showGroups.savedRun = s.savedRun := rfl
@[simp] theorem State.showGroups_pld (s : State) : s.showGroups.pld = s.pld := rfl
@[simp] theorem State.showGroups_sch (s : State) : s.showGroups.sch = s.sch := rfl
@[simp] theorem State.showGroups_vis (s : State) : s.showGroups.vis = s.vis := rfl
@[simp] theorem State.showGroups_net (s : State) : s.showGroups.net = s.net := rfl
@[simp] theorem State.showGroups_fc (s : State) : s.showGroups.fc = s.fc := rfl
@[simp] theorem State.showGroups_canCap (s : State) : s.showGroups.canCap = s.canCap := rfl
@[simp] theorem State.showGroups_sig (s : State) : s.showGroups.sig = s.sig := rfl
@[simp] theorem State.showGroups_bulk (s : State) : s.showGroups.bulk = s.bulk := rfl
@[simp] theorem State.showGroups_dike (s : State) : s.showGroups.dike = s.dike := rfl
@[simp] theorem State.showGroups_pwr (s : State) : s.showGroups.pwr = s.pwr := rfl
@[simp] theorem State.showGroups_ints (s : State) : s.showGroups.ints = s.ints := rfl
@[simp] theorem State.showGroups_fresh (s : State) : s.showGroups.fresh = s.fresh := rfl
@[simp] theorem State.showGroups_pending (s : State) : s.showGroups.pending = s.pending := rfl
@[simp] theorem State.showGroups_phase (s : State) : s.showGroups.node.phase = s.node.phase := rfl
@[simp] theorem State.showGroups_get (s : State) (f : Field) : s.showGroups.get f = s.get f := rfl

/-- Showing the pin groups appends to the output alone. -/
theorem State.showGroups_out (s : State) : ∃ l, s.showGroups.out = s.out ++ l := ⟨_, rfl⟩

/-! ### `State.showPins` -/

@[simp] theorem State.showPins_regs (b s : State) : (State.showPins b s).regs = s.regs := rfl
@[simp] theorem State.showPins_node (b s : State) : (State.showPins b s).node = s.node := rfl
@[simp] theorem State.showPins_fc (b s : State) : (State.showPins b s).fc = s.fc := rfl
@[simp] theorem State.showPins_pending (b s : State) : (State.showPins b s).pending = s.pending := rfl
@[simp] theorem State.showPins_get (b s : State) (f : Field) : (State.showPins b s).get f = s.get f := rfl

/-- Showing the field pins appends to the output alone. -/
theorem State.showPins_out (b s : State) : ∃ l, (State.showPins b s).out = s.out ++ l := ⟨_, rfl⟩

/-! ### `State.setMode` -/

@[simp] theorem State.setMode_mem (s : State) (m : Nat) : (s.setMode m).mem = s.mem := rfl
@[simp] theorem State.setMode_bar2 (s : State) (m : Nat) : (s.setMode m).bar2 = s.bar2 := rfl
@[simp] theorem State.setMode_capture (s : State) (m : Nat) : (s.setMode m).capture = s.capture := rfl
@[simp] theorem State.setMode_staged (s : State) (m : Nat) : (s.setMode m).staged = s.staged := rfl
@[simp] theorem State.setMode_phase (s : State) (m : Nat) : (s.setMode m).node.phase = s.node.phase := rfl
@[simp] theorem State.setMode_boot (s : State) (m : Nat) : (s.setMode m).boot = s.boot := rfl
@[simp] theorem State.setMode_ring (s : State) (m : Nat) : (s.setMode m).ring = s.ring := rfl
@[simp] theorem State.setMode_flt (s : State) (m : Nat) : (s.setMode m).flt = s.flt := rfl
@[simp] theorem State.setMode_hq (s : State) (m : Nat) : (s.setMode m).hq = s.hq := rfl
@[simp] theorem State.setMode_dlv (s : State) (m : Nat) : (s.setMode m).dlv = s.dlv := rfl
@[simp] theorem State.setMode_twin (s : State) (m : Nat) : (s.setMode m).twin = s.twin := rfl
@[simp] theorem State.setMode_time (s : State) (m : Nat) : (s.setMode m).time = s.time := rfl
@[simp] theorem State.setMode_saved (s : State) (m : Nat) : (s.setMode m).saved = s.saved := rfl
@[simp] theorem State.setMode_savedRun (s : State) (m : Nat) : (s.setMode m).savedRun = s.savedRun := rfl
@[simp] theorem State.setMode_pld (s : State) (m : Nat) : (s.setMode m).pld = s.pld := rfl
@[simp] theorem State.setMode_sch (s : State) (m : Nat) : (s.setMode m).sch = s.sch := rfl
@[simp] theorem State.setMode_vis (s : State) (m : Nat) : (s.setMode m).vis = s.vis := rfl
@[simp] theorem State.setMode_net (s : State) (m : Nat) : (s.setMode m).net = s.net := rfl
@[simp] theorem State.setMode_fc (s : State) (m : Nat) : (s.setMode m).fc = s.fc := rfl
@[simp] theorem State.setMode_canCap (s : State) (m : Nat) : (s.setMode m).canCap = s.canCap := rfl
@[simp] theorem State.setMode_sig (s : State) (m : Nat) : (s.setMode m).sig = s.sig := rfl
@[simp] theorem State.setMode_bulk (s : State) (m : Nat) : (s.setMode m).bulk = s.bulk := rfl
@[simp] theorem State.setMode_dike (s : State) (m : Nat) : (s.setMode m).dike = s.dike := rfl
@[simp] theorem State.setMode_pwr (s : State) (m : Nat) : (s.setMode m).pwr = s.pwr := rfl
@[simp] theorem State.setMode_ints (s : State) (m : Nat) : (s.setMode m).ints = s.ints := rfl
@[simp] theorem State.setMode_fresh (s : State) (m : Nat) : (s.setMode m).fresh = s.fresh := rfl
@[simp] theorem State.setMode_pending (s : State) (m : Nat) : (s.setMode m).pending = s.pending := rfl

/-! ### `State.emit` -/

@[simp] theorem State.emit_regs (s : State) (x : Output) : (s.emit x).regs = s.regs := rfl
@[simp] theorem State.emit_mem (s : State) (x : Output) : (s.emit x).mem = s.mem := rfl
@[simp] theorem State.emit_bar2 (s : State) (x : Output) : (s.emit x).bar2 = s.bar2 := rfl
@[simp] theorem State.emit_capture (s : State) (x : Output) : (s.emit x).capture = s.capture := rfl
@[simp] theorem State.emit_staged (s : State) (x : Output) : (s.emit x).staged = s.staged := rfl
@[simp] theorem State.emit_node (s : State) (x : Output) : (s.emit x).node = s.node := rfl
@[simp] theorem State.emit_boot (s : State) (x : Output) : (s.emit x).boot = s.boot := rfl
@[simp] theorem State.emit_ring (s : State) (x : Output) : (s.emit x).ring = s.ring := rfl
@[simp] theorem State.emit_flt (s : State) (x : Output) : (s.emit x).flt = s.flt := rfl
@[simp] theorem State.emit_hq (s : State) (x : Output) : (s.emit x).hq = s.hq := rfl
@[simp] theorem State.emit_dlv (s : State) (x : Output) : (s.emit x).dlv = s.dlv := rfl
@[simp] theorem State.emit_twin (s : State) (x : Output) : (s.emit x).twin = s.twin := rfl
@[simp] theorem State.emit_time (s : State) (x : Output) : (s.emit x).time = s.time := rfl
@[simp] theorem State.emit_saved (s : State) (x : Output) : (s.emit x).saved = s.saved := rfl
@[simp] theorem State.emit_savedRun (s : State) (x : Output) : (s.emit x).savedRun = s.savedRun := rfl
@[simp] theorem State.emit_pld (s : State) (x : Output) : (s.emit x).pld = s.pld := rfl
@[simp] theorem State.emit_sch (s : State) (x : Output) : (s.emit x).sch = s.sch := rfl
@[simp] theorem State.emit_vis (s : State) (x : Output) : (s.emit x).vis = s.vis := rfl
@[simp] theorem State.emit_net (s : State) (x : Output) : (s.emit x).net = s.net := rfl
@[simp] theorem State.emit_fc (s : State) (x : Output) : (s.emit x).fc = s.fc := rfl
@[simp] theorem State.emit_canCap (s : State) (x : Output) : (s.emit x).canCap = s.canCap := rfl
@[simp] theorem State.emit_sig (s : State) (x : Output) : (s.emit x).sig = s.sig := rfl
@[simp] theorem State.emit_bulk (s : State) (x : Output) : (s.emit x).bulk = s.bulk := rfl
@[simp] theorem State.emit_dike (s : State) (x : Output) : (s.emit x).dike = s.dike := rfl
@[simp] theorem State.emit_pwr (s : State) (x : Output) : (s.emit x).pwr = s.pwr := rfl
@[simp] theorem State.emit_ints (s : State) (x : Output) : (s.emit x).ints = s.ints := rfl
@[simp] theorem State.emit_fresh (s : State) (x : Output) : (s.emit x).fresh = s.fresh := rfl
@[simp] theorem State.emit_pending (s : State) (x : Output) : (s.emit x).pending = s.pending := rfl

/-! ### `State.draw` -/

@[simp] theorem State.draw_regs (s : State) : (s.draw).regs = s.regs := rfl
@[simp] theorem State.draw_mem (s : State) : (s.draw).mem = s.mem := rfl
@[simp] theorem State.draw_bar2 (s : State) : (s.draw).bar2 = s.bar2 := rfl
@[simp] theorem State.draw_capture (s : State) : (s.draw).capture = s.capture := rfl
@[simp] theorem State.draw_staged (s : State) : (s.draw).staged = s.staged := rfl
@[simp] theorem State.draw_node (s : State) : (s.draw).node = s.node := rfl
@[simp] theorem State.draw_boot (s : State) : (s.draw).boot = s.boot := rfl
@[simp] theorem State.draw_ring (s : State) : (s.draw).ring = s.ring := rfl
@[simp] theorem State.draw_flt (s : State) : (s.draw).flt = s.flt := rfl
@[simp] theorem State.draw_hq (s : State) : (s.draw).hq = s.hq := rfl
@[simp] theorem State.draw_dlv (s : State) : (s.draw).dlv = s.dlv := rfl
@[simp] theorem State.draw_twin (s : State) : (s.draw).twin = s.twin := rfl
@[simp] theorem State.draw_time (s : State) : (s.draw).time = s.time := rfl
@[simp] theorem State.draw_saved (s : State) : (s.draw).saved = s.saved := rfl
@[simp] theorem State.draw_savedRun (s : State) : (s.draw).savedRun = s.savedRun := rfl
@[simp] theorem State.draw_pld (s : State) : (s.draw).pld = s.pld := rfl
@[simp] theorem State.draw_sch (s : State) : (s.draw).sch = s.sch := rfl
@[simp] theorem State.draw_vis (s : State) : (s.draw).vis = s.vis := rfl
@[simp] theorem State.draw_net (s : State) : (s.draw).net = s.net := rfl
@[simp] theorem State.draw_fc (s : State) : (s.draw).fc = s.fc := rfl
@[simp] theorem State.draw_canCap (s : State) : (s.draw).canCap = s.canCap := rfl
@[simp] theorem State.draw_sig (s : State) : (s.draw).sig = s.sig := rfl
@[simp] theorem State.draw_bulk (s : State) : (s.draw).bulk = s.bulk := rfl
@[simp] theorem State.draw_dike (s : State) : (s.draw).dike = s.dike := rfl
@[simp] theorem State.draw_pwr (s : State) : (s.draw).pwr = s.pwr := rfl
@[simp] theorem State.draw_ints (s : State) : (s.draw).ints = s.ints := rfl
@[simp] theorem State.draw_out (s : State) : (s.draw).out = s.out := rfl
@[simp] theorem State.draw_pending (s : State) : (s.draw).pending = s.pending := rfl

/-! ### `State.memWrite` -/

@[simp] theorem State.memWrite_regs (s : State) (k : Nat) (bs : List Byte) : (s.memWrite k bs).regs = s.regs := rfl
@[simp] theorem State.memWrite_bar2 (s : State) (k : Nat) (bs : List Byte) : (s.memWrite k bs).bar2 = s.bar2 := rfl
@[simp] theorem State.memWrite_capture (s : State) (k : Nat) (bs : List Byte) : (s.memWrite k bs).capture = s.capture := rfl
@[simp] theorem State.memWrite_staged (s : State) (k : Nat) (bs : List Byte) : (s.memWrite k bs).staged = s.staged := rfl
@[simp] theorem State.memWrite_node (s : State) (k : Nat) (bs : List Byte) : (s.memWrite k bs).node = s.node := rfl
@[simp] theorem State.memWrite_boot (s : State) (k : Nat) (bs : List Byte) : (s.memWrite k bs).boot = s.boot := rfl
@[simp] theorem State.memWrite_ring (s : State) (k : Nat) (bs : List Byte) : (s.memWrite k bs).ring = s.ring := rfl
@[simp] theorem State.memWrite_flt (s : State) (k : Nat) (bs : List Byte) : (s.memWrite k bs).flt = s.flt := rfl
@[simp] theorem State.memWrite_hq (s : State) (k : Nat) (bs : List Byte) : (s.memWrite k bs).hq = s.hq := rfl
@[simp] theorem State.memWrite_dlv (s : State) (k : Nat) (bs : List Byte) : (s.memWrite k bs).dlv = s.dlv := rfl
@[simp] theorem State.memWrite_twin (s : State) (k : Nat) (bs : List Byte) : (s.memWrite k bs).twin = s.twin := rfl
@[simp] theorem State.memWrite_time (s : State) (k : Nat) (bs : List Byte) : (s.memWrite k bs).time = s.time := rfl
@[simp] theorem State.memWrite_saved (s : State) (k : Nat) (bs : List Byte) : (s.memWrite k bs).saved = s.saved := rfl
@[simp] theorem State.memWrite_savedRun (s : State) (k : Nat) (bs : List Byte) : (s.memWrite k bs).savedRun = s.savedRun := rfl
@[simp] theorem State.memWrite_pld (s : State) (k : Nat) (bs : List Byte) : (s.memWrite k bs).pld = s.pld := rfl
@[simp] theorem State.memWrite_sch (s : State) (k : Nat) (bs : List Byte) : (s.memWrite k bs).sch = s.sch := rfl
@[simp] theorem State.memWrite_vis (s : State) (k : Nat) (bs : List Byte) : (s.memWrite k bs).vis = s.vis := rfl
@[simp] theorem State.memWrite_net (s : State) (k : Nat) (bs : List Byte) : (s.memWrite k bs).net = s.net := rfl
@[simp] theorem State.memWrite_fc (s : State) (k : Nat) (bs : List Byte) : (s.memWrite k bs).fc = s.fc := rfl
@[simp] theorem State.memWrite_canCap (s : State) (k : Nat) (bs : List Byte) : (s.memWrite k bs).canCap = s.canCap := rfl
@[simp] theorem State.memWrite_sig (s : State) (k : Nat) (bs : List Byte) : (s.memWrite k bs).sig = s.sig := rfl
@[simp] theorem State.memWrite_bulk (s : State) (k : Nat) (bs : List Byte) : (s.memWrite k bs).bulk = s.bulk := rfl
@[simp] theorem State.memWrite_dike (s : State) (k : Nat) (bs : List Byte) : (s.memWrite k bs).dike = s.dike := rfl
@[simp] theorem State.memWrite_pwr (s : State) (k : Nat) (bs : List Byte) : (s.memWrite k bs).pwr = s.pwr := rfl
@[simp] theorem State.memWrite_ints (s : State) (k : Nat) (bs : List Byte) : (s.memWrite k bs).ints = s.ints := rfl
@[simp] theorem State.memWrite_out (s : State) (k : Nat) (bs : List Byte) : (s.memWrite k bs).out = s.out := rfl
@[simp] theorem State.memWrite_fresh (s : State) (k : Nat) (bs : List Byte) : (s.memWrite k bs).fresh = s.fresh := rfl
@[simp] theorem State.memWrite_pending (s : State) (k : Nat) (bs : List Byte) : (s.memWrite k bs).pending = s.pending := rfl

/-! ### `State.endThreat` -/

@[simp] theorem State.endThreat_regs (s : State) (d : Nat) : (s.endThreat d).regs = s.regs := rfl
@[simp] theorem State.endThreat_mem (s : State) (d : Nat) : (s.endThreat d).mem = s.mem := rfl
@[simp] theorem State.endThreat_bar2 (s : State) (d : Nat) : (s.endThreat d).bar2 = s.bar2 := rfl
@[simp] theorem State.endThreat_capture (s : State) (d : Nat) : (s.endThreat d).capture = s.capture := rfl
@[simp] theorem State.endThreat_staged (s : State) (d : Nat) : (s.endThreat d).staged = s.staged := rfl
@[simp] theorem State.endThreat_boot (s : State) (d : Nat) : (s.endThreat d).boot = s.boot := rfl
@[simp] theorem State.endThreat_ring (s : State) (d : Nat) : (s.endThreat d).ring = s.ring := rfl
@[simp] theorem State.endThreat_flt (s : State) (d : Nat) : (s.endThreat d).flt = s.flt := rfl
@[simp] theorem State.endThreat_hq (s : State) (d : Nat) : (s.endThreat d).hq = s.hq := rfl
@[simp] theorem State.endThreat_dlv (s : State) (d : Nat) : (s.endThreat d).dlv = s.dlv := rfl
@[simp] theorem State.endThreat_twin (s : State) (d : Nat) : (s.endThreat d).twin = s.twin := rfl
@[simp] theorem State.endThreat_time (s : State) (d : Nat) : (s.endThreat d).time = s.time := rfl
@[simp] theorem State.endThreat_saved (s : State) (d : Nat) : (s.endThreat d).saved = s.saved := rfl
@[simp] theorem State.endThreat_savedRun (s : State) (d : Nat) : (s.endThreat d).savedRun = s.savedRun := rfl
@[simp] theorem State.endThreat_pld (s : State) (d : Nat) : (s.endThreat d).pld = s.pld := rfl
@[simp] theorem State.endThreat_sch (s : State) (d : Nat) : (s.endThreat d).sch = s.sch := rfl
@[simp] theorem State.endThreat_vis (s : State) (d : Nat) : (s.endThreat d).vis = s.vis := rfl
@[simp] theorem State.endThreat_net (s : State) (d : Nat) : (s.endThreat d).net = s.net := rfl
@[simp] theorem State.endThreat_fc (s : State) (d : Nat) : (s.endThreat d).fc = s.fc := rfl
@[simp] theorem State.endThreat_canCap (s : State) (d : Nat) : (s.endThreat d).canCap = s.canCap := rfl
@[simp] theorem State.endThreat_sig (s : State) (d : Nat) : (s.endThreat d).sig = s.sig := rfl
@[simp] theorem State.endThreat_bulk (s : State) (d : Nat) : (s.endThreat d).bulk = s.bulk := rfl
@[simp] theorem State.endThreat_dike (s : State) (d : Nat) : (s.endThreat d).dike = s.dike := rfl
@[simp] theorem State.endThreat_pwr (s : State) (d : Nat) : (s.endThreat d).pwr = s.pwr := rfl
@[simp] theorem State.endThreat_ints (s : State) (d : Nat) : (s.endThreat d).ints = s.ints := rfl
@[simp] theorem State.endThreat_out (s : State) (d : Nat) : (s.endThreat d).out = s.out := rfl
@[simp] theorem State.endThreat_fresh (s : State) (d : Nat) : (s.endThreat d).fresh = s.fresh := rfl
@[simp] theorem State.endThreat_pending (s : State) (d : Nat) : (s.endThreat d).pending = s.pending := rfl

/-! ### `State.setPhase` -/

@[simp] theorem State.setPhase_mem (s : State) (d : Nat) (p : Phase) : (s.setPhase d p).mem = s.mem := by
  cases p <;> rfl
@[simp] theorem State.setPhase_bar2 (s : State) (d : Nat) (p : Phase) : (s.setPhase d p).bar2 = s.bar2 := by
  cases p <;> rfl
@[simp] theorem State.setPhase_capture (s : State) (d : Nat) (p : Phase) : (s.setPhase d p).capture = s.capture := by
  cases p <;> rfl
@[simp] theorem State.setPhase_staged (s : State) (d : Nat) (p : Phase) : (s.setPhase d p).staged = s.staged := by
  cases p <;> rfl
@[simp] theorem State.setPhase_boot (s : State) (d : Nat) (p : Phase) : (s.setPhase d p).boot = s.boot := by
  cases p <;> rfl
@[simp] theorem State.setPhase_ring (s : State) (d : Nat) (p : Phase) : (s.setPhase d p).ring = s.ring := by
  cases p <;> rfl
@[simp] theorem State.setPhase_flt (s : State) (d : Nat) (p : Phase) : (s.setPhase d p).flt = s.flt := by
  cases p <;> rfl
@[simp] theorem State.setPhase_hq (s : State) (d : Nat) (p : Phase) : (s.setPhase d p).hq = s.hq := by
  cases p <;> rfl
@[simp] theorem State.setPhase_dlv (s : State) (d : Nat) (p : Phase) : (s.setPhase d p).dlv = s.dlv := by
  cases p <;> rfl
@[simp] theorem State.setPhase_twin (s : State) (d : Nat) (p : Phase) : (s.setPhase d p).twin = s.twin := by
  cases p <;> rfl
@[simp] theorem State.setPhase_time (s : State) (d : Nat) (p : Phase) : (s.setPhase d p).time = s.time := by
  cases p <;> rfl
@[simp] theorem State.setPhase_saved (s : State) (d : Nat) (p : Phase) : (s.setPhase d p).saved = s.saved := by
  cases p <;> rfl
@[simp] theorem State.setPhase_savedRun (s : State) (d : Nat) (p : Phase) : (s.setPhase d p).savedRun = s.savedRun := by
  cases p <;> rfl
@[simp] theorem State.setPhase_pld (s : State) (d : Nat) (p : Phase) : (s.setPhase d p).pld = s.pld := by
  cases p <;> rfl
@[simp] theorem State.setPhase_sch (s : State) (d : Nat) (p : Phase) : (s.setPhase d p).sch = s.sch := by
  cases p <;> rfl
@[simp] theorem State.setPhase_vis (s : State) (d : Nat) (p : Phase) : (s.setPhase d p).vis = s.vis := by
  cases p <;> rfl
@[simp] theorem State.setPhase_net (s : State) (d : Nat) (p : Phase) : (s.setPhase d p).net = s.net := by
  cases p <;> rfl
@[simp] theorem State.setPhase_fc (s : State) (d : Nat) (p : Phase) : (s.setPhase d p).fc = s.fc := by
  cases p <;> rfl
@[simp] theorem State.setPhase_canCap (s : State) (d : Nat) (p : Phase) : (s.setPhase d p).canCap = s.canCap := by
  cases p <;> rfl
@[simp] theorem State.setPhase_sig (s : State) (d : Nat) (p : Phase) : (s.setPhase d p).sig = s.sig := by
  cases p <;> rfl
@[simp] theorem State.setPhase_bulk (s : State) (d : Nat) (p : Phase) : (s.setPhase d p).bulk = s.bulk := by
  cases p <;> rfl
@[simp] theorem State.setPhase_dike (s : State) (d : Nat) (p : Phase) : (s.setPhase d p).dike = s.dike := by
  cases p <;> rfl
@[simp] theorem State.setPhase_pwr (s : State) (d : Nat) (p : Phase) : (s.setPhase d p).pwr = s.pwr := by
  cases p <;> rfl
@[simp] theorem State.setPhase_ints (s : State) (d : Nat) (p : Phase) : (s.setPhase d p).ints = s.ints := by
  cases p <;> rfl
@[simp] theorem State.setPhase_fresh (s : State) (d : Nat) (p : Phase) : (s.setPhase d p).fresh = s.fresh := by
  cases p <;> rfl
@[simp] theorem State.setPhase_pending (s : State) (d : Nat) (p : Phase) : (s.setPhase d p).pending = s.pending := by
  cases p <;> rfl

@[simp] theorem State.setPhase_phase (s : State) (d : Nat) (p : Phase) :
    (s.setPhase d p).node.phase = updAt s.node.phase d (fun _ => p) := by
  cases p <;> rfl

@[simp] theorem State.put_isThreat (s : State) (f : Field) (v d : Nat) : (s.put f v).isThreat d = s.isThreat d := rfl

/-! ### Register fields after an update -/

/-- A field reads from the registers alone. -/
theorem State.get_congr {s t : State} (h : t.regs = s.regs) (f : Field) : t.get f = s.get f := by
  unfold State.get; rw [h]

@[simp] theorem State.emit_out (s : State) (x : Output) : (s.emit x).out = s.out ++ [x] := rfl
@[simp] theorem State.emit_get (s : State) (x : Output) (f : Field) : (s.emit x).get f = s.get f := rfl
@[simp] theorem State.emit_flag (s : State) (x : Output) (f : Field) : (s.emit x).flag f = s.flag f := rfl
@[simp] theorem State.emit_isUp (s : State) (x : Output) (d : Nat) : (s.emit x).isUp d = s.isUp d := rfl
@[simp] theorem State.draw_get (s : State) (f : Field) : s.draw.get f = s.get f := rfl
@[simp] theorem State.draw_fresh (s : State) : s.draw.fresh = s.fresh + 1 := rfl
@[simp] theorem State.memWrite_get (s : State) (k : Nat) (bs : List Byte) (f : Field) : (s.memWrite k bs).get f = s.get f := rfl
@[simp] theorem State.memWrite_mem (s : State) (k : Nat) (bs : List Byte) :
    (s.memWrite k bs).mem = Memory.writeList s.mem k bs := rfl
@[simp] theorem State.endThreat_get (s : State) (d : Nat) (f : Field) : (s.endThreat d).get f = s.get f := rfl

/-- A field just written reads as the low bits of what was written. -/
theorem State.get_put (s : State) (f : Field) (v : Nat) (h : v < 2 ^ f.w) : (s.put f v).get f = v := by
  rw [State.put_get, Nat.mod_eq_of_lt h]

theorem State.get_orBits_other (s : State) (f g : Field) (v : Nat) (h : g.key ≠ f.key) : (s.orBits f v).get g = s.get g :=
  State.put_get_other _ _ _ _ h

theorem State.get_dropBits_other (s : State) (f g : Field) (v : Nat) (h : g.key ≠ f.key) : (s.dropBits f v).get g = s.get g :=
  State.put_get_other _ _ _ _ h

theorem State.get_inc (s : State) (f : Field) : (s.inc f).get f = (s.get f + 1) % 2 ^ f.w := State.put_get _ _ _

theorem State.get_inc_other (s : State) (f g : Field) (h : g.key ≠ f.key) : (s.inc f).get g = s.get g :=
  State.put_get_other _ _ _ _ h

theorem State.get_incSat_other (s : State) (f g : Field) (h : g.key ≠ f.key) : (s.incSat f).get g = s.get g :=
  State.put_get_other _ _ _ _ h

/-- A mode transition leaves every register but `GLB_MODE` alone. -/
theorem State.get_setMode_other (s : State) (m : Nat) (g : Field) (h₁ : g.key ≠ Reg.GLB_MODE_MODE.key)
    (h₂ : g.key ≠ Reg.GLB_MODE_PREV.key) : (s.setMode m).get g = s.get g := by
  unfold State.setMode
  rw [State.showGroups_get, State.put_get_other _ _ _ _ h₁, State.put_get_other _ _ _ _ h₂]
  rfl

@[simp] theorem State.mode_setMode (s : State) (m : Nat) : (s.setMode m).mode = m % 16 := State.put_get _ _ _

end Sys2Proof.Machine
end

