-- ==== Sys2Proof/Tests/Helpers.lean ====
section
/-! SUPPORT. The states of the tests: a node in ACTIVE with every domain up, and what the tests change in it. -/

namespace Sys2Proof.Tests

open Sys2Proof.Machine
open Sys2Proof.Machine.Reg

/-- A node in ACTIVE with every domain up. -/
def active : State :=
  { State.reset with
    regs := [(GLB_MODE_MODE.key, 3), (GLB_PD_STATUS.key, 0x1FFFF), (GLB_PD_ON_SET.key, 0x1FFFF)].foldl (fun m e => SMap.insert m e.1 e.2) []
    node := { State.reset.node with phase := List.replicate 17 .up, upSincePor := 0x1FFFF, resetKind := none } }

/-- The same in another mode. -/
def inMode (m : Nat) : State := active.put GLB_MODE_MODE m

/-- The same with domain `d` in another phase. -/
def phase (d : Nat) (p : Phase) : State := active.setPhase d p

/-- The same with work queued at the node as its destination. -/
def withWork (l : List Work) : State := { active with dlv := { active.dlv with work := l } }

/-- The same with engine 7 of group 3 of cluster 5 running, region 0-127, and word `w` at its `PC`. -/
def engine (w : Nat) : State :=
  (((active.put (FC_PIO_PROG 5 3 0) w).put (FC_PIO_ENG_CTRL_END 5 3 7) 127).put (FC_PIO_ENG_DIV_MOD 5 3 7) 1).setEngState 5 3 7 1

/-- The same with the engine using its ports 0. -/
def portEngine (w : Nat) : State := ((engine w).put (FC_PIO_ENG_PORTS_TX_USE 5 3 7) 1).put (FC_PIO_ENG_PORTS_RX_USE 5 3 7) 1

/-- An image's component list and one sensor profile: `ID_VALUE` 0, a latch time of 65.536 ms, parameter 1 of one byte. -/
def profileBytes : List Byte :=
  List.replicate 32 0 ++ [1, 0] ++ List.replicate 14 0 ++ [6, 0, 0, 0, 64, 0, 0, 0, 40, 0, 0, 0] ++ List.replicate 4 0
  ++ [1, 0, 0, 0, 0, 0, 0, 0, 0, 0, 1, 0, 0, 0, 0, 0, 1, 0] ++ List.replicate 14 0 ++ [1, 0, 0, 0, 1, 0, 0, 0]

/-- Its profile. -/
def aProfile : Profile := (readProfile (profileBytes.drop 64)).1

/-- The same with camera 7 in a state and that image in memory. -/
def profiled (st : Nat) : State := (active.memWrite 0 profileBytes).put (VIS_CAM_STATUS_STATE 7) st

/-- A settings set for frame 5 of camera 7, alone in its queue. -/
def aSet : Work := { opcode := 0x10, ep := 0x507, length := 24, data := [5, 0, 0, 0, 0, 0, 1, 0xFF] ++ List.replicate 8 0 ++ [1, 0, 0, 0, 9, 0, 0, 0] }

/-- An ARMED camera 7 with that set queued for it. -/
def setQueued : State := let s : State := profiled 2
  { s with dlv := { s.dlv with work := [aSet] } }

/-- A half of a twin pair with TWL UP, in a role and a state of the pair. -/
def pairHalf (r : TwinRole) (st : Nat) : State := let s : State := (active.put (RING_PORT_STATUS_STATE 2) 2).put TWIN_STATUS_STATE st
  { s with node := { s.node with twinRole := r } }

/-- A block of R62 with its CRC. -/
def aBlock (off id : Nat) (data : List Byte) : List Byte :=
  let bs := leBytes 4 0x4C424B31 ++ leBytes 4 off ++ leBytes 2 data.length ++ leBytes 2 0 ++ leBytes 4 id ++ data
  bs ++ leBytes 4 (crc32c bs)

/-- An image of 128 bytes with the four components that R70 asks for, in the first page's form of R69. -/
def anImage : List Byte :=
  let comps := ([1, 2, 3, 4].map (fun i => leBytes 2 i ++ leBytes 2 0 ++ leBytes 4 (108 + 4 * i) ++ leBytes 4 4 ++ leBytes 4 0)).flatten
  let head (c : Nat) : List Byte := leBytes 4 0x4B4E4D46 ++ [0, 1] ++ leBytes 2 112 ++ leBytes 2 0x640 ++ leBytes 2 2 ++ leBytes 4 128
    ++ leBytes 4 7 ++ leBytes 4 c ++ leBytes 8 0 ++ leBytes 2 4 ++ List.replicate 14 0 ++ comps
  head (crc32c (head 0)) ++ List.replicate 16 0

/-- A node in LOADING whose boot paths are open, with its load session in status `st` under header `x`. -/
def loadOpen (st : Nat) (x : Option Header) : State :=
  let s : State := (inMode mLOADING).put BOOT_STATUS_LOAD_STATUS st
  { s with boot := { s.boot with pathsOpen := true, load := { hdr := x } } }

end Sys2Proof.Tests
end

