-- ==== Sys2Proof/Tests/Slice0.lean ====
section
/-! SUPPORT. The model's own tests: ill-formed operands that the check refuses, single steps whose results are worked out by hand
from the rules named, and, for each statement with hypotheses, states and operands that meet them. -/

set_option linter.all false
set_option Elab.async false

namespace Sys2Proof.Tests

open Sys2Proof.Machine Sys2Proof.Machine.Reg

/-! ### Ill-formed commands -/

/-- One ill-formed term for each check of WellFormed. -/
theorem test_ill_formed :
    isByte 256 = false ∧ isHalf 65536 = false ∧ isWord (2 ^ 32) = false ∧ isLong (2 ^ 64) = false ∧ isBit 2 = false ∧
    isOff 0x4000000 = false ∧ isReg 2 = false ∧ isNode 0 = false ∧ isNode 255 = false ∧ isNodeSet (2 ^ 256) = false ∧
    isWsn 0 = false ∧ isEp 4096 = false ∧ isRequester (.proc 9) = false ∧ isBar2 0x1000000 [0] = false ∧
    isBlock (List.replicate 1045 0) = false ∧ isPayload (List.replicate 2049 0) = false ∧
    isSegment (List.replicate 2033 0) = false ∧ isFrame (List.replicate 20 0) = false ∧
    isMap (List.replicate 255 1) = false ∧ areEntries [(4096, 1)] = false ∧ areWords (List.replicate 257 0) = false ∧
    isLine (some []) = false ∧ areDescs (some [[0]]) = false ∧ isTag { src := 0, gen := 0, wsn := 1, prev := 0, retired := 0, sq := 0 } = false ∧
    areAcks [{ gen := 0, wsn := 0, sq := 0, result := 256, endpoint := 0, detail := 0 }] = false ∧ isLedgerCode 0 = false ∧
    isHeader (some (2 ^ 32)) = false ∧ isTable [(256, 0, 0)] = false ∧ areRecords [(0, [], [])] = false ∧
    isGroup (List.replicate 33 true) = false ∧ areCuts [(8, 0, [])] = false ∧ isCanData (List.replicate 65 0) = false ∧
    isDt 64 = false ∧ areSources [1280] = false ∧ isInfo [0, 0, 0, 0, 0] = false ∧ areTemps [] = false ∧ isRole 3 = false ∧
    areWrites [(2, 0)] = false ∧ isJournal (.commit 0 0) = false ∧ isCopy (.config 2 0) = false ∧
    areReads [(2 ^ 28, false, 0, 0, 0)] = false := by decide +kernel

/-- The same for the two checks of the longest data, by their lengths. -/
theorem test_ill_formed_long (bytes : List Byte) (h : 65536 < bytes.length) : isSwitchFrame bytes = false ∧ isPage bytes = false := by
  unfold isSwitchFrame isPage; constructor <;> simp <;> omega

/-- Commands with such operands are ill formed. -/
theorem test_ill_formed_commands :
    (Instr.registerWrite (.remote 0) 4 0).wellFormed = false ∧ (Instr.registerWrite .host 6 0).wellFormed = false ∧
    (Instr.bar2Write 0x1000000 [0]).wellFormed = false ∧ (Instr.sigUpdate 1 0 0).wellFormed = false ∧
    (Instr.thermalSample []).wellFormed = false := by decide +kernel

/-! ### Single steps, worked out from the rules -/

/-- The state after a command. -/
def after (c : Instr) (s : State) : State := nextOf (exec c s) s

/-- R5: byte 0 holds the least significant bits. -/
theorem test_little_endian : leBytes 4 0x12345678 = [0x78, 0x56, 0x34, 0x12] ∧ leNat [0x78, 0x56, 0x34, 0x12] = 0x12345678 := by
  decide +kernel

/-- R62: the check value of CRC-32C over the digits 1 to 9. -/
theorem test_crc32c : crc32c [0x31, 0x32, 0x33, 0x34, 0x35, 0x36, 0x37, 0x38, 0x39] = 0xE3069283 := by decide +kernel

/-- Serial-number arithmetic wraps: 0 is later than 0xFFFF, and not the other way round. -/
theorem test_later_wraps : laterThan 16 0 0xFFFF = true ∧ laterThan 16 0xFFFF 0 = false := by decide +kernel

/-- R7, R50: the RW fields of `GLB_PIN_POLICY` take their bits of a write, and its RSV bits stay 0. -/
theorem test_pin_policy : ((after (.registerWrite .host 0x40 0xFFFFFFFF) active).busRead .host 0x40).2 = 0x3F3F := by decide +kernel

/-- R2, R7: `GLB_ID` is RO and reads 0x0640_A101. -/
theorem test_id : ((after (.registerWrite .host 0 0) active).busRead .host 0).2 = 0x0640A101 := by decide +kernel

/-- R216: an idle step counts one tick. -/
theorem test_idle_tick : (match step active with | .next t => t.count | _ => 0) = 1 := by decide +kernel

/-- R12: a step takes the front of the queue only. -/
theorem test_front : (match step { active with pending := [.modeReqService, .modeReqActive] } with
    | .next t => (t.pending, t.get GLB_MODE_REQ_STATUS) | _ => ([], 0)) = ([.modeReqActive], 2) := by decide +kernel

/-- R36, R37: ACTIVE requested in SERVICE is done at once; requested in ACTIVE it is not allowed. -/
theorem test_mode_request : (after .modeReqActive (inMode mSERVICE)).mode = mACTIVE ∧
    (after (.modeReqNotAllowed 3) active).get GLB_MODE_REQ_STATUS = 3 := by decide +kernel

/-- R425: the first entry takes sequence number 1, and `SEQ` goes on to 2; the interrupt of source 5 becomes pending. -/
theorem test_fault_entry : (after (.faultRecord 5 []) active).get FLT_SEQ = 2 ∧
    (after (.faultRecord 5 []) active).get (INT_SH_PEND_SET 0) = 0x20 := by decide +kernel

/-- R428: a sequence number not yet assigned is refused. -/
theorem test_ack_early : (after (.fltAckC 1) active).get FLT_ERR = 1 ∧ (after (.fltAckC 0) active).get FLT_ERR = 0 := by decide +kernel

/-- R444: 100 codes with an offset of 8/16 give 100.5, rounded away from zero to 101; of 9 codes with -16 x 16/16 the clamp leaves 0. -/
theorem test_dike_code :
    let cal (v : Nat) : State := { active with boot := { active.boot with cal := [((BOOT_CAL_DATA 0x59).key, v)] } }
    (cal 8).dikeCode 0 100 = 101 ∧ (cal 0xFF00).dikeCode 0 9 = 0 := by decide +kernel

/-- R449, R457: a channel without presence enabled with the default limits starts an attempt in INRUSH only with a valid configuration. -/
theorem test_dike_refused : (after (.dikeEnable 0 0x80000000) active).get DIKE_ERR = 1 := by decide +kernel

/-- R463: a reading of 115 °C is CRITICAL, level 3, and drives `THERM_N` low. -/
theorem test_thermal_critical : (after (.thermalSample (115 :: List.replicate 15 20)) active).get PWR_THERM_STATUS_LEVEL = 3 := by
  decide +kernel

/-- R9, R295: `EVF` flags set and cleared through their two registers. -/
theorem test_evf : (after (.evfClr 0 0 1) (after (.evfSet 0 0 3) active)).busRead .host 0x410018 =
    ((after (.evfClr 0 0 1) (after (.evfSet 0 0 3) active)), 2) := by decide +kernel

/-- R416, R417: level 1 is offered, accepted and completed. -/
theorem test_interrupt : let s := ((active.put (INT_P_PEND_SET 1 0) 1).put (INT_P_MASK_SET 1 0) 0).put (INT_P_PRIO_PRIO0 1 0) 1
    (after (.intAccept 1) s).get (INT_P_STATE_RUNLVL 1) = 1 ∧
    (after (.intComplete (.proc 1) 1 1 []) (after (.intAccept 1) s)).get (INT_P_STATE_RUNLVL 1) = 0 := by decide +kernel

/-- R420: a route is written only while its source is masked. -/
theorem test_route : (after (.intRouteWrite 0 9) (active.put (INT_SH_MASK_SET 0) 0)).get INT_SH_ERR = 1 ∧
    (after (.intRouteWrite 0 9) (active.put (INT_SH_MASK_SET 0) 1)).get (INT_SH_ROUTE_TARGET 0) = 9 := by decide +kernel

/-! ### Hypotheses that are met -/

/-- The hypotheses of `Obligations.PowerDomains` are met, clause by clause. -/
theorem test_meets_PowerDomains :
    (∃ (s : State) (req : Requester) (val : Word), (s.aonOpen = true)) ∧
    (∃ (s : State) (req : Requester) (val : Word), (s.aonOpen = true)) ∧
    (∃ (s : State) (d : Fin 17), (s.phase d = .upWait) ∧ ((bitList (requiresBits d) 17).all s.isUp = true)) ∧
    (∃ (s : State) (d : Fin 17), (s.phase d = .upRun)) ∧
    (∃ (s : State) (d : Fin 17), (s.phase d = .drainWait) ∧ (s.requirersOff d = true)) ∧
    (∃ (s : State) (d : Fin 17), (s.phase d = .drainRun) ∧ (s.drainFlushed d = true) ∧ (s.emittedAll d = true) ∧ (s.requirersOff d = true)) ∧
    (∃ (s : State) (d : Fin 17), (s.phase d = .isolated) ∧ ((s.get GLB_PD_ON_SET).testBit d = false)) ∧
    (∃ (s : State) (d : Fin 17), (s.phase d = .isolated) ∧ ((s.get GLB_PD_ON_SET).testBit d = true) ∧ (s.isFenced d = false) ∧ (s.node.modeReq ≠ some mDORMANT)) :=
  ⟨⟨active, .host, 0x1FFFF, by decide +kernel⟩,
   ⟨active, .host, 0x1FFFF, by decide +kernel⟩,
   ⟨phase 16 .upWait, 16, by decide +kernel⟩,
   ⟨phase 16 .upRun, 16, by decide +kernel⟩,
   ⟨phase 16 .drainWait, 16, by decide +kernel⟩,
   ⟨phase 16 .drainRun, 16, by decide +kernel⟩,
   ⟨(phase 16 .isolated).put GLB_PD_ON_SET 0xFFFF, 16, by decide +kernel⟩,
   ⟨phase 16 .isolated, 16, by decide +kernel⟩⟩

/-- The hypotheses of `Obligations.ModeRequests` are met, clause by clause. -/
theorem test_meets_ModeRequests :
    (∃ (s : State), (s.aonOpen = true) ∧ (s.get GLB_MODE_REQ_STATUS ≠ 2) ∧ (s.boot.actEvent = 0) ∧ (s.mode = mSERVICE)) ∧
    (∃ (s : State), (s.aonOpen = true) ∧ (s.get GLB_MODE_REQ_STATUS ≠ 2) ∧ (s.boot.actEvent = 0) ∧ (s.mode = mACTIVE)) ∧
    (∃ (s : State), (s.aonOpen = true) ∧ (s.get GLB_MODE_REQ_STATUS ≠ 2) ∧ (s.boot.actEvent = 0) ∧ (s.mode = mACTIVE)) ∧
    (∃ (s : State) (target : BitVec 4), (s.aonOpen = true) ∧ (s.get GLB_MODE_REQ_STATUS ≠ 2) ∧ (s.boot.actEvent = 0) ∧ (s.mode < 8) ∧ (¬ ((target = 3 ∧ s.mode = mSERVICE) ∨ ((target = 6 ∨ target = 1) ∧ s.mode = mACTIVE)))) ∧
    (∃ (s : State), (s.node.modeReq = some mSERVICE)) ∧
    (∃ (s : State), (s.node.modeReq = some mDORMANT) ∧ (((List.range 17).drop 1).all (fun d => s.phase d == .off || (s.phase d == .isolated && d == dSV)) = true) ∧ (s.node.wakeLate = false)) ∧
    (∃ (s : State), (s.node.modeReq = some mDORMANT) ∧ (((List.range 17).drop 1).all (fun d => s.phase d == .off || (s.phase d == .isolated && d == dSV)) = true) ∧ (s.node.wakeLate = true)) ∧
    (∃ (s : State), (s.mode = mDORMANT)) :=
  ⟨⟨inMode mSERVICE, by decide +kernel⟩,
   ⟨active, by decide +kernel⟩,
   ⟨active, by decide +kernel⟩,
   ⟨active, 15, by decide +kernel⟩,
   ⟨{ active with node := { active.node with modeReq := some mSERVICE } }, by decide +kernel⟩,
   ⟨{ active with node := { active.node with modeReq := some mDORMANT, phase := .up :: .isolated :: List.replicate 15 .off } }, by decide +kernel⟩,
   ⟨{ active with node := { active.node with modeReq := some mDORMANT, wakeLate := true, phase := .up :: .isolated :: List.replicate 15 .off } }, by decide +kernel⟩,
   ⟨inMode mDORMANT, by decide +kernel⟩⟩

/-- The hypotheses of `Obligations.ResetCommands` are met, clause by clause. -/
theorem test_meets_ResetCommands :
    (∃ (s : State) (load : BitVec 2) (slot testEn psw : Bool), (s.node.off = true) ∧ (s.node.perst = false)) ∧
    (∃ (s : State), (s.node.off = false) ∧ (s.flag GLB_RST_CFG = true) ∧ (s.widerReset 2 = false)) ∧
    (∃ (s : State), (s.node.off = false) ∧ (s.flag GLB_RST_CFG = false)) ∧
    (∃ (s : State), (s.node.held = false)) ∧
    (∃ (s : State), (s.node.held = true) ∧ (s.node.awaitRefs = false)) ∧
    (∃ (s : State) (req : Requester), (s.aonOpen = true) ∧ (s.node.off = false) ∧ (s.widerReset 1 = false)) ∧
    (∃ (s : State) (req : Requester), (s.aonOpen = true) ∧ (s.node.off = false) ∧ (s.widerReset 2 = false)) ∧
    (∃ (s : State), (s.node.wdogRun = true) ∧ (s.node.off = false) ∧ (s.widerReset 1 = false)) ∧
    (∃ (s : State), (s.node.recovering = true) ∧ (s.mode = mCONTAINED) ∧ (s.isFenced dSV = false) ∧ (s.node.off = false) ∧ (s.widerReset 1 = false)) ∧
    (∃ (s : State), (s.node.awaitRefs = true) ∧ (s.node.held = false)) :=
  ⟨⟨{ active with node := { active.node with off := true } }, 3, true, true, true, by decide +kernel⟩,
   ⟨active.put GLB_RST_CFG 1, by decide +kernel⟩,
   ⟨active.put GLB_RST_CFG 0, by decide +kernel⟩,
   ⟨{ active with node := { active.node with perst := true } }, by decide +kernel⟩,
   ⟨{ active with node := { active.node with perst := true, held := true } }, by decide +kernel⟩,
   ⟨active, .host, by decide +kernel⟩,
   ⟨active, .host, by decide +kernel⟩,
   ⟨active, by decide +kernel⟩,
   ⟨{ inMode mCONTAINED with node := { active.node with recovering := true } }, by decide +kernel⟩,
   ⟨{ active with node := { active.node with awaitRefs := true } }, by decide +kernel⟩⟩

/-- The hypotheses of `Obligations.NodeSources` are met, clause by clause. -/
theorem test_meets_NodeSources :
    (∃ (s : State), (s.mode ≠ mDORMANT) ∧ (s.node.off = false)) ∧
    (∃ (s : State), (s.mode ≠ mDORMANT) ∧ (s.node.off = false)) ∧
    (∃ (s : State), (s.mode ≠ mDORMANT) ∧ (s.node.off = false)) ∧
    (∃ (s : State) (island : Fin 81) (engine : Fin 8), (island.val < 3 ∨ island.val = 7 ∨ island.val = 8)) ∧
    (∃ (s : State) (island : Fin 81) (engine : Fin 8), (3 ≤ island.val ∧ island.val ≤ 6)) ∧
    (∃ (s : State) (island : Fin 81) (engine : Fin 8), (9 ≤ island.val) ∧ (island.val ≤ 56) ∧ (s.stops (128 + island.val) = false)) ∧
    (∃ (s : State) (island : Fin 81) (engine : Fin 8), (57 ≤ island.val)) ∧
    (∃ (s : State) (d : Fin 17) (pace : BitVec 16), (s.isUp d = true) ∧ (s.isFenced d = false) ∧ (s.isThreat d = false) ∧ (paceFloor d ≠ 0) ∧ (100 * pace.toNat < 105 * paceFloor d) ∧ (s.atCeiling = true)) ∧
    (∃ (s : State) (d : Fin 17), (s.isThreat d = true)) ∧
    (∃ (s : State) (p : Nat), (10000 ≤ p) ∧ (p ≤ 1000000)) ∧
    (∃ (s : State), (s.node.wdogRun = true)) ∧
    (∃ (s : State), (s.aonOpen = true) ∧ (s.node.twinRole = .active) ∧ (s.ownSlot = false)) ∧
    (∃ (s : State), (s.node.pswPulse = true)) ∧
    (∃ (s : State), (s.node.pswWait = true) ∧ (s.ownSlot = false)) ∧
    (∃ (s : State) (level : Bool), (s.node.off = false) ∧ (s.node.twinRole = .active) ∧ (s.ownSlot = true) ∧ (b2n level ≠ s.get GLB_STRAP_SLOT) ∧ (s.flag GLB_PSW_OWN = true)) :=
  ⟨⟨active, by decide +kernel⟩,
   ⟨active, by decide +kernel⟩,
   ⟨active, by decide +kernel⟩,
   ⟨active, 2, 7, by decide +kernel⟩,
   ⟨active, 6, 7, by decide +kernel⟩,
   ⟨active, 56, 0, by decide +kernel⟩,
   ⟨active, 80, 7, by decide +kernel⟩,
   ⟨active, 6, 524, by decide +kernel⟩,
   ⟨{ active with node := { active.node with threat := 0x40 } }, 6, by decide +kernel⟩,
   ⟨active, 1000000, by decide +kernel⟩,
   ⟨active, by decide +kernel⟩,
   ⟨{ active.put GLB_STRAP_SLOT 1 with node := { active.node with twinRole := .active } }, by decide +kernel⟩,
   ⟨{ active with node := { active.node with pswPulse := true } }, by decide +kernel⟩,
   ⟨{ active.put GLB_STRAP_SLOT 1 with node := { active.node with pswWait := true } }, by decide +kernel⟩,
   ⟨{ active.put GLB_PSW_OWN 1 with node := { active.node with twinRole := .active } }, true, by decide +kernel⟩⟩

/-- The hypotheses of `Obligations.EndpointUnits` are met, clause by clause. -/
theorem test_meets_EndpointUnits :
    (∃ (s : State) (ep : BitVec 12), ((s.sendReady ep.toNat).isSome = true)) ∧
    (∃ (s : State) (src sq wsn : Nat) (x : Work), (s.work? src sq wsn = some x) ∧ (x.opcode = 0x50) ∧ (x.taken = false) ∧ (s.inOrder x = true)) ∧
    (∃ (s : State) (port : Nat), (port ≤ 2) ∧ (s.portState port = 2)) ∧
    (∃ (s : State) (port : Nat), (port ≤ 2) ∧ (s.portState port = 3)) ∧
    (∃ (s : State) (port : Nat), (port ≤ 2) ∧ (s.portState port = 4)) ∧
    (∃ (s : State) (port : Nat), (2 < port)) ∧
    (∃ (s : State) (port : Nat), (port ≤ 2) ∧ ((SMap.find s.dlv.flaps (ringFlap port)).isSome = true) ∧ (s.portState port = 3 ∨ s.portState port = 4)) ∧
    (∃ (s : State) (port : Nat), (2 < port) ∧ (s.linked port = true)) ∧
    (∃ (s : State), (s.portState 2 = 3) ∧ ((SMap.find s.dlv.flaps (ringFlap 2)).isNone = true)) ∧
    (∃ (s : State) (port : Nat), (2 < port)) :=
  ⟨⟨withWork [{ src := 3, sq := 1, wsn := 7, ep := 4095, opcode := 0x10 }], 4095, by decide +kernel⟩,
   ⟨withWork [{ src := 3, sq := 1, wsn := 7, ep := 2, opcode := 0x50 }], 3, 1, 7, { src := 3, sq := 1, wsn := 7, ep := 2, opcode := 0x50 }, by decide +kernel⟩,
   ⟨active.put (RING_PORT_STATUS_STATE 2) 2, 2, by decide +kernel⟩,
   ⟨active.put (RING_PORT_STATUS_STATE 2) 3, 2, by decide +kernel⟩,
   ⟨active.put (RING_PORT_STATUS_STATE 2) 4, 2, by decide +kernel⟩,
   ⟨active, 0x100, by decide +kernel⟩,
   ⟨(active.put (RING_PORT_STATUS_STATE 0) 4).setFlap (ringFlap 0) (some .redirectStable), 0, by decide +kernel⟩,
   ⟨active, 0x100, by decide +kernel⟩,
   ⟨active.put (RING_PORT_STATUS_STATE 2) 3, by decide +kernel⟩,
   ⟨active, 0x100, by decide +kernel⟩⟩

/-- The hypotheses of `Obligations.FaultHub` are met, clause by clause. -/
theorem test_meets_FaultHub :
    (∃ (s : State) (src : Fin 640) (info : List Word), (srcListed src = true) ∧ (s.stops src = false) ∧ (info.map (fun x => x.toNat) ≠ [])) ∧
    (∃ (s : State) (src : Fin 640), (srcListed src = true) ∧ (s.stops src = true)) ∧
    (∃ (s : State) (n : Fin 640) (val : Word), (srcListed n.val = true) ∧ (val.toNat % 4 ≤ 2) ∧ (s.get (FLT_SRC_ACTION n) < val.toNat % 4)) ∧
    (∃ (s : State), (s.flag FLT_FAULTN_PULSE = true)) :=
  ⟨⟨active, 64, [1, 2], by decide +kernel⟩,
   ⟨active.put (FLT_SRC_ACTION 320) 1, 320, by decide +kernel⟩,
   ⟨active.put (FLT_SRC_ACTION 16) 1, 16, 2, by decide +kernel⟩,
   ⟨active.put FLT_FAULTN_PULSE 1, by decide +kernel⟩⟩

/-- The hypotheses of `Obligations.BootAgent` are met, clause by clause. -/
theorem test_meets_BootAgent :
    (∃ (s : State) (slot : BitVec 13), (s.aonOpen = true) ∧ (s.boot.posts.length < 64)) ∧
    (∃ (s : State) (slot : BitVec 13), (s.aonOpen = true) ∧ (64 ≤ s.boot.posts.length)) ∧
    (∃ (s : State) (slot : Nat) (rest : List Nat), (s.boot.posts = slot :: rest) ∧ (s.boot.pathsOpen = true)) ∧
    (∃ (s : State) (off : Nat) (bytes : List Byte), (off + bytes.length ≤ 0x1000000) ∧ (s.accessible dHIF = true)) ∧
    (∃ (s : State) (dstMac srcMac dstIp srcIp srcPort : Nat) (bytes : List Byte), (s.boot.pathsOpen = true) ∧ (dstMac = allMac ∨ dstMac = ownMac)) ∧
    (∃ (s : State) (dstMac srcMac dstIp srcIp srcPort dstPort : Nat) (bytes : List Byte), (dstPort ≠ 50640 ∨ (dstMac ≠ ownMac ∧ dstMac ≠ allMac))) ∧
    (∃ (s : State) (port : Fin 2) (src : Nat) (bytes : List Byte), (s.boot.pathsOpen = true)) ∧
    (∃ (s : State) (port : Fin 2) (src : Nat) (bytes : List Byte), (s.boot.pathsOpen = true)) ∧
    (∃ (s : State) (node offset status detail loadStatus loadId : Nat), (s.flag RING_NODE_ROOT = true)) ∧
    (∃ (s : State) (node offset status detail loadStatus loadId : Nat), (s.flag RING_NODE_ROOT = false)) ∧
    (∃ (s : State) (path : Fin 3) (bytes : List Byte), (s.boot.pathsOpen = true) ∧ (s.blockKind (parseBlock bytes) = 0)) ∧
    (∃ (s : State) (path : Fin 3) (bytes : List Byte), (s.boot.pathsOpen = true) ∧ ((parseBlock bytes).off = 0) ∧ (s.session.hdr = none) ∧ (s.blockStatus path (parseBlock bytes) = (0, 0))) ∧
    (∃ (s : State) (path : Fin 3) (bytes : List Byte), (s.boot.pathsOpen = true) ∧ (s.blockKind (parseBlock bytes) = 1)) ∧
    (∃ (s : State) (path : Fin 3) (bytes : List Byte) (x : Header), (s.boot.pathsOpen = true) ∧ ((parseBlock bytes).off < 0xFFFFF000) ∧ (s.session.hdr = some x) ∧ (s.blockStatus path (parseBlock bytes) = (0, 0))) ∧
    (∃ (s : State) (path : Fin 3) (bytes : List Byte), (s.boot.pathsOpen = true) ∧ (s.blockKind (parseBlock bytes) = 2)) ∧
    (∃ (s : State) (path : Fin 3) (bytes : List Byte), (s.boot.pathsOpen = true) ∧ ((parseBlock bytes).off = offStart) ∧ (s.blockStatus path (parseBlock bytes) = (0, 0))) ∧
    (∃ (s : State) (path : Fin 3) (bytes : List Byte), (s.boot.pathsOpen = true) ∧ (s.blockKind (parseBlock bytes) = 3)) ∧
    (∃ (s : State) (path : Fin 3) (bytes : List Byte), (s.boot.pathsOpen = true) ∧ ((parseBlock bytes).off = offRestart) ∧ (s.blockStatus path (parseBlock bytes) = (0, 0))) ∧
    (∃ (s : State), (s.aonOpen = true) ∧ (s.mode ≠ mLULL) ∧ (s.mode ≠ mCONTAINED) ∧ (s.get BOOT_STATUS_LOAD_STATUS ≠ 8 ∨ s.staging = true)) ∧
    (∃ (s : State), (s.mode = mLULL ∨ s.mode = mCONTAINED ∨ (s.get BOOT_STATUS_LOAD_STATUS = 8 ∧ s.staging = false))) ∧
    (∃ (s : State), (s.aonOpen = true) ∧ (s.mode ≠ mLULL) ∧ (s.mode ≠ mCONTAINED) ∧ (s.get BOOT_STATUS_LOAD_STATUS ≠ 8 ∨ s.staging = true)) ∧
    (∃ (s : State), (s.mode = mLULL ∨ s.mode = mCONTAINED ∨ (s.get BOOT_STATUS_LOAD_STATUS = 8 ∧ s.staging = false))) :=
  ⟨⟨active, 8191, by decide +kernel⟩,
   ⟨{ active with boot := { active.boot with posts := List.replicate 64 5 } }, 0, by decide +kernel⟩,
   ⟨{ active with boot := { active.boot with posts := [7], pathsOpen := true } }, 7, [], by decide +kernel⟩,
   ⟨active, 0xFFFFFF, [1], by decide +kernel⟩,
   ⟨{ active with boot := { active.boot with pathsOpen := true } }, allMac, 1, 2, 3, 4, [], by decide +kernel⟩,
   ⟨active, allMac, 1, 2, 3, 4, 5, [], by decide +kernel⟩,
   ⟨{ active with boot := { active.boot with pathsOpen := true } }, 1, 1, [], by decide +kernel⟩,
   ⟨{ active with boot := { active.boot with pathsOpen := true } }, 0, 1, [], by decide +kernel⟩,
   ⟨active.put RING_NODE_ROOT 1, 254, 0, 0, 0, 1, 9, by decide +kernel⟩,
   ⟨active, 254, 0, 0, 0, 1, 9, by decide +kernel⟩,
   ⟨{ active with boot := { active.boot with pathsOpen := true } }, 2, [], by decide +kernel⟩,
   ⟨loadOpen 0 none, 2, aBlock 0 0 anImage, by decide +kernel⟩,
   ⟨{ active with boot := { active.boot with pathsOpen := true } }, 2, [0, 0, 0, 0, 0, 4, 0, 0], by decide +kernel⟩,
   ⟨loadOpen 1 (some { total := 1028 }), 2, aBlock 1024 0 [1, 2, 3, 4], { total := 1028 }, by decide +kernel⟩,
   ⟨{ active with boot := { active.boot with pathsOpen := true } }, 0, [0, 0, 0, 0, 0, 240, 255, 255], by decide +kernel⟩,
   ⟨loadOpen 3 (some { total := 1028 }), 1, aBlock offStart 0 (1 :: 2 :: List.replicate 14 0), by decide +kernel⟩,
   ⟨{ active with boot := { active.boot with pathsOpen := true } }, 0, [0, 0, 0, 0, 0, 244, 255, 255], by decide +kernel⟩,
   ⟨loadOpen 3 (some { total := 1028 }), 1, aBlock offRestart 0 (1 :: List.replicate 15 0), by decide +kernel⟩,
   ⟨active, by decide +kernel⟩,
   ⟨inMode mCONTAINED, by decide +kernel⟩,
   ⟨active, by decide +kernel⟩,
   ⟨inMode mCONTAINED, by decide +kernel⟩⟩

/-- The hypotheses of `Obligations.Activation` are met, clause by clause. -/
theorem test_meets_Activation :
    (∃ (s : State) (val : Word), (s.aonOpen = true) ∧ (s.armHeard = true) ∧ (val.toNat / 65536 < 5000)) ∧
    (∃ (s : State) (val : Word), (s.aonOpen = true) ∧ (s.armHeard = true) ∧ (5000 ≤ val.toNat / 65536) ∧ (s.actTime < s.ringTime + 200000000)) ∧
    (∃ (s : State) (val : Word), (s.aonOpen = true) ∧ (s.armHeard = true) ∧ (5000 ≤ val.toNat / 65536) ∧ (s.ringTime + 200000000 ≤ s.actTime)) ∧
    (∃ (s : State) (val : Word), (s.armHeard = false)) ∧
    (∃ (s : State), (s.aonOpen = true) ∧ (s.flag RING_NODE_ROOT = true) ∧ (s.get BOOT_ACT_RESULT_ACT_STATE = 1 ∨ s.get BOOT_ACT_RESULT_ACT_STATE = 2) ∧ (s.ringTime + 50000000 ≤ s.boot.actAt)) ∧
    (∃ (s : State), (s.boot.actAt < s.ringTime + 50000000)) ∧
    (∃ (s : State), (s.get BOOT_ACT_RESULT_ACT_STATE = 1 ∨ s.get BOOT_ACT_RESULT_ACT_STATE = 2) ∧ (s.boot.actAt ≤ s.ringTime + 50000000) ∧ (s.allReported 0 = false)) ∧
    (∃ (s : State), (s.get BOOT_ACT_RESULT_ACT_STATE = 1 ∨ s.get BOOT_ACT_RESULT_ACT_STATE = 2) ∧ (s.boot.actAt + 1000 * s.boot.actGap + 2000000 ≤ s.ringTime)) ∧
    (∃ (s : State) (port : Fin 2) (time crc gap seq nodes : Nat), (s.nodeId ≠ 0) ∧ (nodes.testBit s.nodeId = true)) ∧
    (∃ (s : State) (port : Fin 2) (time crc gap seq nodes : Nat), (s.nodeId = 0 ∨ nodes.testBit s.nodeId = false)) ∧
    (∃ (s : State) (port : Fin 2) (seq : Nat) (a : Armed), (s.boot.armed = some a) ∧ (a.seq = seq) ∧ (s.boot.actEvent = 0) ∧ (s.ringTime < a.time)) ∧
    (∃ (s : State) (port : Fin 2) (seq : Nat) (a : Armed), (s.boot.armed = some a) ∧ (a.seq = seq) ∧ (s.boot.actEvent ≠ 0 ∨ a.time ≤ s.ringTime)) ∧
    (∃ (s : State) (seq node code : Nat), (s.flag RING_NODE_ROOT = true) ∧ (seq = s.boot.actSeq) ∧ (s.get BOOT_ACT_RESULT_ACT_STATE = 1 ∨ s.get BOOT_ACT_RESULT_ACT_STATE = 2)) ∧
    (∃ (s : State) (seq node code : Nat), (s.flag RING_NODE_ROOT = true) ∧ (seq = s.boot.actSeq) ∧ (3 ≤ s.get BOOT_ACT_RESULT_ACT_STATE) ∧ (s.boot.actMap.testBit node = true)) ∧
    (∃ (s : State) (a : Armed), (s.boot.armed = some a) ∧ (a.time ≤ s.ringTime) ∧ (s.boot.actEvent = 0) ∧ (s.mode ≠ mCONTAINED)) ∧
    (∃ (s : State), (s.boot.actEvent = 1)) ∧
    (∃ (s : State), (s.boot.actEvent = 2)) ∧
    (∃ (s : State), (s.boot.actEvent = 3) ∧ (s.twin.takeWaits = false) ∧ (s.flag RING_NODE_ROOT = false)) ∧
    (∃ (s : State), (s.boot.actEvent = 3) ∧ (s.twin.takeWaits = false) ∧ (s.flag RING_NODE_ROOT = true)) ∧
    (∃ (s : State), (s.boot.actEvent ≠ 0)) :=
  ⟨⟨active.put RING_NODE_ROOT 1, 0x13870001, by decide +kernel⟩,
   ⟨(active.put RING_NODE_ROOT 1).put BOOT_ACT_TIME_LO 199999999, 0x13880001, by decide +kernel⟩,
   ⟨((active.put RING_NODE_ROOT 1).put BOOT_ACT_RESULT_ACT_STATE 5).put BOOT_ACT_TIME_LO 200000000, 0x13880001, by decide +kernel⟩,
   ⟨active, 0x13880001, by decide +kernel⟩,
   ⟨{ (active.put RING_NODE_ROOT 1).put BOOT_ACT_RESULT_ACT_STATE 2 with boot := { active.boot with actAt := 50000000 } }, by decide +kernel⟩,
   ⟨{ (active.put RING_NODE_ROOT 1).put BOOT_ACT_RESULT_ACT_STATE 2 with boot := { active.boot with actAt := 49999999 } }, by decide +kernel⟩,
   ⟨{ active.put BOOT_ACT_RESULT_ACT_STATE 1 with boot := { active.boot with actMap := 2 } }, by decide +kernel⟩,
   ⟨(active.put BOOT_ACT_RESULT_ACT_STATE 2).put TIME_COUNT_LO 4000000000, by decide +kernel⟩,
   ⟨active.put RING_NODE_ID 254, 1, 0, 0, 5000, 1, 2 ^ 254, by decide +kernel⟩,
   ⟨active.put RING_NODE_ID 254, 1, 0, 0, 5000, 1, 2 ^ 253, by decide +kernel⟩,
   ⟨{ active with boot := { active.boot with armed := some { time := 1, seq := 3, src := 1 } } }, 1, 3, { time := 1, seq := 3, src := 1 }, by decide +kernel⟩,
   ⟨{ active with boot := { active.boot with armed := some { time := 0, seq := 3, src := 1 } } }, 1, 3, { time := 0, seq := 3, src := 1 }, by decide +kernel⟩,
   ⟨(active.put RING_NODE_ROOT 1).put BOOT_ACT_RESULT_ACT_STATE 1, 0, 1, 0, by decide +kernel⟩,
   ⟨{ (active.put RING_NODE_ROOT 1).put BOOT_ACT_RESULT_ACT_STATE 3 with boot := { active.boot with actMap := 2 } }, 0, 1, 0, by decide +kernel⟩,
   ⟨{ active with boot := { active.boot with armed := some { time := 0, seq := 3, src := 1 } } }, { time := 0, seq := 3, src := 1 }, by decide +kernel⟩,
   ⟨{ active with boot := { active.boot with actEvent := 1 } }, by decide +kernel⟩,
   ⟨{ active with boot := { active.boot with actEvent := 2 } }, by decide +kernel⟩,
   ⟨{ active with boot := { active.boot with actEvent := 3 } }, by decide +kernel⟩,
   ⟨{ active.put RING_NODE_ROOT 1 with boot := { active.boot with actEvent := 3 } }, by decide +kernel⟩,
   ⟨{ active with boot := { active.boot with actEvent := 1 } }, by decide +kernel⟩⟩

/-- The hypotheses of `Obligations.Calibration` are met, clause by clause. -/
theorem test_meets_Calibration :
    (∃ (s : State), (s.aonOpen = true) ∧ (s.flag BOOT_CAL_STATE_BUSY = false)) ∧
    (∃ (s : State), (s.aonOpen = true) ∧ (s.flag BOOT_CAL_STATE_BUSY = true)) ∧
    (∃ (s : State), (s.aonOpen = true) ∧ (s.flag BOOT_CAL_STATE_BUSY = true)) ∧
    (∃ (s : State), (s.aonOpen = true) ∧ (s.flag BOOT_CAL_STATE_BUSY = false)) ∧
    (∃ (s : State), (s.aonOpen = true) ∧ (s.flag BOOT_CAL_STATE_BUSY = true)) ∧
    (∃ (s : State), (s.aonOpen = true) ∧ (s.flag BOOT_CAL_STATE_BUSY = false)) ∧
    (∃ (s : State), (s.boot.calJob = 1)) ∧
    (∃ (s : State), (s.boot.calJob = 2)) ∧
    (∃ (s : State) (sizeGiB k : Nat), (s.node.resetKind = some k) ∧ (s.node.held = false) ∧ (s.node.awaitRefs = false) ∧ (s.node.off = false) ∧ ((s.setUp k sizeGiB).flag GLB_STRAP_TEST_EN = true)) ∧
    (∃ (s : State) (sizeGiB : Nat), (s.node.resetKind = some 1) ∧ (s.node.held = false) ∧ (s.node.awaitRefs = false) ∧ (s.node.off = false) ∧ ((s.setUp 1 sizeGiB).flag GLB_STRAP_TEST_EN = false) ∧ ((s.setUp 1 sizeGiB).boot.imageStarted = true)) ∧
    (∃ (s : State) (sizeGiB k : Nat), (s.node.resetKind = some k) ∧ (k ≠ 1) ∧ (s.node.held = false) ∧ (s.node.awaitRefs = false) ∧ (s.node.off = false) ∧ ((s.setUp k sizeGiB).flag GLB_STRAP_TEST_EN = false)) ∧
    (∃ (s : State) (x : Header), (s.sessionStatus = 2) ∧ (s.boot.warmCheck = false ∨ s.staging = true) ∧ (s.session.hdr = some x) ∧ (s.imageCheck s.sessionSlot x = 0)) ∧
    (∃ (s : State) (x : Header), (s.sessionStatus = 2) ∧ (s.boot.warmCheck = false ∨ s.staging = true) ∧ (s.session.hdr = some x) ∧ (s.imageCheck s.sessionSlot x ≠ 0)) ∧
    (∃ (s : State), (s.sessionStatus = 2) ∧ (s.boot.warmCheck = true) ∧ (s.staging = false)) ∧
    (∃ (s : State), (s.get BOOT_STATUS_LOAD_STATUS = 4) ∧ (s.mode = mLOADING)) :=
  ⟨⟨active, by decide +kernel⟩,
   ⟨active.put BOOT_CAL_STATE_BUSY 1, by decide +kernel⟩,
   ⟨active.put BOOT_CAL_STATE_BUSY 1, by decide +kernel⟩,
   ⟨active, by decide +kernel⟩,
   ⟨active.put BOOT_CAL_STATE_BUSY 1, by decide +kernel⟩,
   ⟨active, by decide +kernel⟩,
   ⟨{ active with boot := { active.boot with calJob := 1 } }, by decide +kernel⟩,
   ⟨{ active with boot := { active.boot with calJob := 2 } }, by decide +kernel⟩,
   ⟨{ active.put GLB_STRAP_TEST_EN 1 with node := { active.node with resetKind := some 0 } }, 16, 0, by decide +kernel⟩,
   ⟨{ active with node := { active.node with resetKind := some 1 }, boot := { active.boot with imageStarted := true } }, 16, by decide +kernel⟩,
   ⟨{ active with node := { active.node with resetKind := some 0 } }, 16, 0, by decide +kernel⟩,
   ⟨{ (inMode mLOADING).put BOOT_STATUS_LOAD_STATUS 2 with boot := { active.boot with load := { hdr := some {} } } }, {}, by decide +kernel⟩,
   ⟨{ (inMode mLOADING).put BOOT_STATUS_LOAD_STATUS 2 with boot := { active.boot with load := { hdr := some { crc := 1 } } } }, { crc := 1 }, by decide +kernel⟩,
   ⟨{ (inMode mLOADING).put BOOT_STATUS_LOAD_STATUS 2 with boot := { active.boot with warmCheck := true } }, by decide +kernel⟩,
   ⟨(inMode mLOADING).put BOOT_STATUS_LOAD_STATUS 4, by decide +kernel⟩⟩

/-- The hypotheses of `Obligations.RegisterAccess` are met, clause by clause. -/
theorem test_meets_RegisterAccess :
    (∃ (s : State) (req : Requester) (off : Nat) (val : Word), (s.busOpen off = true) ∧ (pairAt off = .single) ∧ ((fieldsAt off).all (fun e => e.2 == .ro) = false)) ∧
    (∃ (s : State) (req : Requester) (off : Nat) (val : Word), (s.busOpen off = true) ∧ (pairAt off = .lo)) ∧
    (∃ (s : State) (req : Requester) (off : Nat) (val : Word), (s.busOpen off = true) ∧ (pairAt off = .hi)) ∧
    (∃ (s : State) (req : Requester) (off : Nat) (val : Word), (s.busOpen off = false)) ∧
    (∃ (s : State) (req : Requester) (off : Nat) (val : Word), (pairAt off = .single) ∧ ((fieldsAt off).all (fun e => e.2 == .ro) = true)) ∧
    (∃ (s : State) (req : Requester) (off : Nat), (s.node.off = false)) ∧
    (∃ (s : State) (req : Requester) (off : Nat), (s.busOpen off = true) ∧ (pairAt off = .lo) ∧ (off % 4 = 0)) ∧
    (∃ (s : State) (req : Requester) (off : Nat) (val : Word), (s.busOpen off = true) ∧ (pairAt off = .lo) ∧ ((fieldsAt off).all (fun e => e.2 == .ro) = false)) :=
  ⟨⟨active, .host, 0x10, 0xFFFFFFFF, by decide +kernel⟩,
   ⟨active, .host, 0x40030, 1, by decide +kernel⟩,
   ⟨active, .host, 0x40034, 1, by decide +kernel⟩,
   ⟨{ active with node := { active.node with off := true } }, .host, 0x10, 1, by decide +kernel⟩,
   ⟨active, .host, 0xFFFFFFC, 1, by decide +kernel⟩,
   ⟨active, .host, 0x10, by decide +kernel⟩,
   ⟨active, .host, 0x60008, by decide +kernel⟩,
   ⟨active, .host, 0x40030, 7, by decide +kernel⟩⟩

/-- The hypotheses of `Obligations.RemoteAccess` are met, clause by clause. -/
theorem test_meets_RemoteAccess :
    (∃ (s : State) (port : Fin 2) (src seq offset count : Nat) (words : List Word), (raMalformed offset count 0 0 8 words = false) ∧ (s.remoteTest src offset count false = 0)) ∧
    (∃ (s : State) (port : Fin 2) (src seq offset count payLen : Nat) (words : List Word), (raMalformed offset count 1 0 payLen words = false) ∧ (s.remoteTest src offset count true = 0)) ∧
    (∃ (s : State) (port : Fin 2) (src seq offset count write reserved payLen : Nat) (words : List Word), (raMalformed offset count write reserved payLen words = true)) ∧
    (∃ (s : State) (port : Fin 2) (src seq offset count write reserved payLen : Nat) (words : List Word), (raMalformed offset count write reserved payLen words = false) ∧ (s.remoteTest src offset count (write == 1) ≠ 0)) ∧
    (∃ (s : State) (seq : Nat), (s.accessible dSV = true)) ∧
    (∃ (s : State) (src sq wsn : Nat) (w : Work), (s.readyWork src sq wsn 0x20 = some w) ∧ (s.itemTest w = 0)) ∧
    (∃ (s : State) (src sq wsn : Nat) (w : Work), (s.readyWork src sq wsn 0x20 = some w) ∧ (s.itemTest w ≠ 0)) ∧
    (∃ (s : State) (src sq wsn : Nat) (w : Work), (s.readyWork src sq wsn 0x21 = some w) ∧ (s.itemTest w = 0)) ∧
    (∃ (s : State) (src sq wsn : Nat) (w : Work), (s.readyWork src sq wsn 0x21 = some w) ∧ (s.itemTest w ≠ 0)) :=
  ⟨⟨active, 1, 1, 0, 0, 2, [], by decide +kernel⟩,
   ⟨{ active.put RING_NODE_ROOT 1 with ring := { active.ring with map := [1] } }.put RING_NODE_ID 1, 0, 1, 0, 0x10, 1, 12, [5], by decide +kernel⟩,
   ⟨active, 1, 1, 0, 2, 1, 0, 0, 8, [], by decide +kernel⟩,
   ⟨inMode mLOADING, 0, 1, 0, 0x20, 1, 0, 0, 8, [], by decide +kernel⟩,
   ⟨active, 0, by decide +kernel⟩,
   ⟨withWork [{ src := 0, opcode := 0x20, param := 0x10, length := 4, data := [1, 0, 0, 0] }], 0, 0, 0, { src := 0, opcode := 0x20, param := 0x10, length := 4, data := [1, 0, 0, 0] }, by decide +kernel⟩,
   ⟨withWork [{ src := 3, opcode := 0x20, param := 0x10, length := 3, data := [1, 0, 0, 0] }], 3, 0, 0, { src := 3, opcode := 0x20, param := 0x10, length := 3, data := [1, 0, 0, 0] }, by decide +kernel⟩,
   ⟨withWork [{ src := 0, opcode := 0x21, param := 0x10, length := 4 }], 0, 0, 0, { src := 0, opcode := 0x21, param := 0x10, length := 4 }, by decide +kernel⟩,
   ⟨withWork [{ src := 3, opcode := 0x21, param := 0x10, length := 3 }], 3, 0, 0, { src := 3, opcode := 0x21, param := 0x10, length := 3 }, by decide +kernel⟩⟩

/-- The hypotheses of `Obligations.LullRounds` are met, clause by clause. -/
theorem test_meets_LullRounds :
    (∃ (s : State) (policyConsents wakeAsserted : Bool), (s.flag RING_NODE_ROOT = true) ∧ (s.get RING_LULL_STATUS_RESULT ≠ 1) ∧ (s.lullBarred = true)) ∧
    (∃ (s : State) (policyConsents wakeAsserted : Bool), (s.flag RING_NODE_ROOT = true) ∧ (s.get RING_LULL_STATUS_RESULT ≠ 1) ∧ (s.lullBarred = false)) ∧
    (∃ (s : State), (s.flag RING_NODE_ROOT = true) ∧ (s.get RING_LULL_STATUS_RESULT = 1)) ∧
    (∃ (s : State), (s.flag RING_NODE_ROOT = true)) ∧
    (∃ (s : State) (hops round n consents : Nat) (policyConsents wakeAsserted : Bool), (s.flag RING_NODE_ROOT = false) ∧ (s.get RING_LULL_STATUS_STATE = 0)) ∧
    (∃ (s : State) (hops round n consents : Nat) (policyConsents wakeAsserted : Bool), (s.flag RING_NODE_ROOT = true) ∧ (s.get RING_LULL_STATUS_RESULT = 1) ∧ (s.get RING_LULL_STATUS_STATE = 1) ∧ (round = s.ring.lullRound) ∧ (consents + 1 = s.get RING_ENUM_STATUS_N)) ∧
    (∃ (s : State) (hops round : Nat), (s.flag RING_NODE_ROOT = false) ∧ (s.get RING_LULL_STATUS_STATE = 1) ∧ (round = s.ring.lullRound) ∧ (s.ring.lullVoided.contains round = false)) ∧
    (∃ (s : State) (hops round : Nat), (s.flag RING_NODE_ROOT = true) ∧ (s.ring.commitSent = true) ∧ (s.get RING_LULL_STATUS_STATE = 1) ∧ (round = s.ring.lullRound) ∧ (s.ring.lullVoided.contains round = false)) ∧
    (∃ (s : State) (src round reason : Nat), (s.flag RING_NODE_ROOT = true) ∧ (s.get RING_LULL_STATUS_RESULT = 1) ∧ (round = s.ring.lullRound)) ∧
    (∃ (s : State) (src round reason : Nat), (s.flag RING_NODE_ROOT = true) ∧ (s.get RING_LULL_STATUS_RESULT ≠ 1 ∨ round ≠ s.ring.lullRound)) ∧
    (∃ (s : State) (src round reason : Nat), (s.flag RING_NODE_ROOT = false) ∧ (s.get RING_LULL_STATUS_STATE = 1) ∧ (round = s.ring.lullRound)) ∧
    (∃ (s : State) (src round reason : Nat), (s.flag RING_NODE_ROOT = true) ∧ (s.get RING_LULL_STATUS_STATE = 1) ∧ (round = s.ring.lullRound)) ∧
    (∃ (s : State), (s.flag RING_NODE_ROOT = true) ∧ (s.get RING_LULL_STATUS_RESULT = 1) ∧ (s.ring.commitSent = false)) ∧
    (∃ (s : State), (s.flag RING_NODE_ROOT = false) ∧ (s.get RING_LULL_STATUS_STATE = 1)) :=
  ⟨⟨active.put RING_NODE_ROOT 1, true, false, by decide +kernel⟩,
   ⟨{ (active.put RING_NODE_ROOT 1).put RING_ENUM_STATUS_CLOSED 1 with ring := { active.ring with map := [1] } }, true, false, by decide +kernel⟩,
   ⟨(active.put RING_NODE_ROOT 1).put RING_LULL_STATUS_RESULT 1, by decide +kernel⟩,
   ⟨active.put RING_NODE_ROOT 1, by decide +kernel⟩,
   ⟨active, 1, 1, 3, 1, true, false, by decide +kernel⟩,
   ⟨(((active.put RING_NODE_ROOT 1).put RING_LULL_STATUS_RESULT 1).put RING_LULL_STATUS_STATE 1).put RING_ENUM_STATUS_N 3, 2, 0, 3, 2, true, false, by decide +kernel⟩,
   ⟨active.put RING_LULL_STATUS_STATE 1, 3, 0, by decide +kernel⟩,
   ⟨{ (active.put RING_NODE_ROOT 1).put RING_LULL_STATUS_STATE 1 with ring := { active.ring with commitSent := true } }, 3, 0, by decide +kernel⟩,
   ⟨(active.put RING_NODE_ROOT 1).put RING_LULL_STATUS_RESULT 1, 4, 0, 5, by decide +kernel⟩,
   ⟨active.put RING_NODE_ROOT 1, 4, 0, 5, by decide +kernel⟩,
   ⟨active.put RING_LULL_STATUS_STATE 1, 4, 0, 5, by decide +kernel⟩,
   ⟨((active.put RING_NODE_ROOT 1).put RING_LULL_STATUS_RESULT 1).put RING_LULL_STATUS_STATE 1, 4, 0, 5, by decide +kernel⟩,
   ⟨(active.put RING_NODE_ROOT 1).put RING_LULL_STATUS_RESULT 1, by decide +kernel⟩,
   ⟨active.put RING_LULL_STATUS_STATE 1, by decide +kernel⟩⟩

/-- The hypotheses of `Obligations.LullSleep` are met, clause by clause. -/
theorem test_meets_LullSleep :
    (∃ (s : State), (s.get RING_LULL_STATUS_STATE = 2) ∧ (s.lullDrained = true)) ∧
    (∃ (s : State), (s.lullDrained = false)) ∧
    (∃ (s : State), (s.get RING_LULL_STATUS_STATE = 4)) ∧
    (∃ (s : State), (s.mode ≠ mDORMANT)) ∧
    (∃ (s : State), (s.mode = mDORMANT)) ∧
    (∃ (s : State) (port : Fin 3), (s.mode = mLULL ∨ s.mode = mDORMANT)) ∧
    (∃ (s : State) (port : Fin 3), (s.ring.wakeArmed.testBit port = true)) ∧
    (∃ (s : State) (port : Fin 3), (s.ring.wakeArmed.testBit port = false)) ∧
    (∃ (s : State) (port : Fin 3), (s.mode = mLULL) ∧ (s.ring.wakeArmed.testBit port = false)) ∧
    (∃ (s : State) (port : Fin 3), (s.mode = mDORMANT)) ∧
    (∃ (s : State) (ctrl : Fin 48), (s.canWakes (ctrl.val / 8) = true) ∧ ((s.get AON_WAKE_SRC_SRC).testBit 3 = false)) ∧
    (∃ (s : State) (ctrl : Fin 48), (s.canWakes (ctrl.val / 8) = true) ∧ ((s.get AON_WAKE_SRC_SRC).testBit 3 = true)) ∧
    (∃ (s : State) (ctrl : Fin 48), (s.canWakes (ctrl.val / 8) = false)) :=
  ⟨⟨active.put RING_LULL_STATUS_STATE 2, by decide +kernel⟩,
   ⟨{ (active.put RING_LULL_STATUS_STATE 2).put RING_LULL_SET 0x100 with dlv := { active.dlv with work := [{ opcode := 0x10, ep := 0x400 }] } }, by decide +kernel⟩,
   ⟨active.put RING_LULL_STATUS_STATE 4, by decide +kernel⟩,
   ⟨inMode mLULL, by decide +kernel⟩,
   ⟨inMode mDORMANT, by decide +kernel⟩,
   ⟨inMode mDORMANT, 2, by decide +kernel⟩,
   ⟨{ inMode mLULL with ring := { active.ring with wakeArmed := 4 } }, 2, by decide +kernel⟩,
   ⟨inMode mLULL, 2, by decide +kernel⟩,
   ⟨inMode mLULL, 2, by decide +kernel⟩,
   ⟨inMode mDORMANT, 2, by decide +kernel⟩,
   ⟨(inMode mDORMANT).put GLB_PD_STATUS 1, 47, by decide +kernel⟩,
   ⟨((inMode mDORMANT).put AON_WAKE_SRC_SRC 8).put GLB_PD_STATUS 1, 0, by decide +kernel⟩,
   ⟨active, 0, by decide +kernel⟩⟩

/-- The hypotheses of `Obligations.RingFrames` are met, clause by clause. -/
theorem test_meets_RingFrames :
    (∃ (s : State) (port : Fin 3) (bytes : List Byte), (s.portState port.val ≠ 2)) ∧
    (∃ (s : State) (port : Fin 3) (bytes : List Byte), (s.portState port.val = 2) ∧ (frameTest bytes (parseHeader bytes) = 1)) ∧
    (∃ (s : State) (port : Fin 3) (bytes : List Byte), (s.portState port.val = 2) ∧ (frameTest bytes (parseHeader bytes) = 2)) ∧
    (∃ (s : State) (port : Fin 3) (bytes : List Byte), (s.portState port.val = 2) ∧ (frameTest bytes (parseHeader bytes) = 3)) ∧
    (∃ (s : State) (port : Fin 3) (bytes : List Byte), (s.portState port.val = 2) ∧ (frameTest bytes (parseHeader bytes) = 0)) :=
  ⟨⟨active, 0, [], by decide +kernel⟩,
   ⟨active.put (RING_PORT_STATUS_STATE 0) 2, 0, [0, 0, 0, 0, 1], by decide +kernel⟩,
   ⟨active.put (RING_PORT_STATUS_STATE 0) 2, 0, [], by decide +kernel⟩,
   ⟨active.put (RING_PORT_STATUS_STATE 0) 2, 0, leBytes 17 (3 + 256 + 65536) ++ leBytes 4 (crc32c (leBytes 17 (3 + 256 + 65536))), by decide +kernel⟩,
   ⟨active.put (RING_PORT_STATUS_STATE 0) 2, 0, leBytes 17 (3 + 65536) ++ leBytes 4 (crc32c (leBytes 17 (3 + 65536))), by decide +kernel⟩⟩

/-- The hypotheses of `Obligations.HostRings` are met, clause by clause. -/
theorem test_meets_HostRings :
    (∃ (s : State) (val : Word), (val.toNat % 2 ≠ s.get HQ_CTRL) ∧ (s.allSqDisabled = true) ∧ (val.toNat % 2 = 1 ∨ s.jrnState = 0)) ∧
    (∃ (s : State) (val : Word), (val.toNat % 2 ≠ s.get HQ_CTRL) ∧ (s.allSqDisabled = false)) ∧
    (∃ (s : State) (val : Word), (val.toNat % 2 ≠ s.get HQ_CTRL) ∧ (val.toNat % 2 = 0) ∧ (s.jrnState ≠ 0)) ∧
    (∃ (s : State) (sq : BitVec 8) (val : Word), (s.sqState sq.toNat = 0) ∧ (s.sqValid sq.toNat = true)) ∧
    (∃ (s : State) (sq : BitVec 8) (val : Word), (s.sqState sq.toNat = 0) ∧ (s.sqValid sq.toNat = false)) ∧
    (∃ (s : State) (sq : BitVec 8) (val : Word), (s.sqState sq.toNat ≠ 0) ∧ (val.toNat / 65536 ≠ s.get (HQ_SQ_CTRL_EPOCH sq.toNat))) ∧
    (∃ (s : State) (sq : BitVec 8) (val : Word), (s.sqState sq.toNat = 1 ∨ s.sqState sq.toNat = 3) ∧ (val.toNat / 65536 = s.get (HQ_SQ_CTRL_EPOCH sq.toNat))) ∧
    (∃ (s : State) (sq : BitVec 8) (val : Word), (s.sqState sq.toNat = 0)) ∧
    (∃ (s : State) (sq : BitVec 8) (val : Word), (s.sqState sq.toNat ≠ 0) ∧ (val.toNat / 65536 ≠ s.get (HQ_SQ_CTRL_EPOCH sq.toNat))) ∧
    (∃ (s : State) (cq : BitVec 8) (val : Word), (s.flag (HQ_CQ_CFG_ENABLE cq.toNat) = false) ∧ (val.toNat % 2 = 1) ∧ (6 ≤ val.toNat / 2 ^ 19 % 32 ∧ val.toNat / 2 ^ 19 % 32 ≤ 16)) ∧
    (∃ (s : State) (cq : BitVec 8) (val : Word), (s.flag (HQ_CQ_CFG_ENABLE cq.toNat) = false) ∧ (val.toNat % 2 = 1) ∧ (¬ (6 ≤ val.toNat / 2 ^ 19 % 32 ∧ val.toNat / 2 ^ 19 % 32 ≤ 16))) ∧
    (∃ (s : State) (cq : BitVec 8) (val : Word), (s.flag (HQ_CQ_CFG_ENABLE cq.toNat) = true) ∧ (val.toNat / 2 ^ 24 = s.get (HQ_CQ_CFG_VECTOR cq.toNat)) ∧ (val.toNat / 2 ^ 19 % 32 = s.get (HQ_CQ_CFG_LOG2_ENTRIES cq.toNat)) ∧ (val.toNat % 2 = 0)) ∧
    (∃ (s : State) (line : Fin 32), (s.linePolled line = true) ∧ (s.hq.polling.testBit line = false)) ∧
    (∃ (s : State) (line : Fin 32) (words : Option (List Word64)), (s.mode ≠ mLULL) ∧ ((s.pollReturn line words).1.mode ≠ mLULL)) ∧
    (∃ (s : State) (line : Fin 32) (words : Option (List Word64)), ((s.pollReturn line words).1.mode = mLULL) ∧ ((s.pollReturn line words).1.flag RING_NODE_ROOT = true) ∧ ((s.pollReturn line words).2 = true)) ∧
    (∃ (s : State) (line : Fin 32), ((lineOf line).any s.cqFull = true)) :=
  ⟨⟨active, 1, by decide +kernel⟩,
   ⟨active.put (HQ_SQ_STATE_STATE 255) 1, 1, by decide +kernel⟩,
   ⟨(active.put HQ_CTRL 1).put HQ_JRN_STATUS_STATE 3, 0, by decide +kernel⟩,
   ⟨((active.put (HQ_SQ_CFG_LOG2_ENTRIES 255) 16).put (HQ_CQ_CFG_ENABLE 0) 1).put HQ_JRN_STATUS_STATE 3, 255, 0x00050001, by decide +kernel⟩,
   ⟨active, 255, 0x00050001, by decide +kernel⟩,
   ⟨active.put (HQ_SQ_STATE_STATE 0) 1, 0, 0x00050001, by decide +kernel⟩,
   ⟨active.put (HQ_SQ_STATE_STATE 255) 3, 255, 2, by decide +kernel⟩,
   ⟨active, 255, 0x00050002, by decide +kernel⟩,
   ⟨active.put (HQ_SQ_STATE_STATE 255) 3, 255, 0x00050002, by decide +kernel⟩,
   ⟨active, 255, 0x800001, by decide +kernel⟩,
   ⟨active, 0, 0x880001, by decide +kernel⟩,
   ⟨active.put (HQ_CQ_CFG_ENABLE 255) 1, 255, 0, by decide +kernel⟩,
   ⟨(active.put (HQ_SQ_STATE_STATE 255) 1).put HQ_CTRL 1, 31, by decide +kernel⟩,
   ⟨active, 31, none, by decide +kernel⟩,
   ⟨{ (((inMode mLULL).put RING_NODE_ROOT 1).put (HQ_SQ_STATE_STATE 255) 1).put (HQ_SQ_CFG_LOG2_ENTRIES 255) 6 with hq := { active.hq with polling := 2 ^ 31 } }, 31, some [0, 0, 0, 0, 0, 0, 0, 1], by decide +kernel⟩,
   ⟨{ (active.put (HQ_CQ_CFG_LOG2_ENTRIES 255) 6).put (HQ_CQ_WRITTEN 255) 64 with hq := { active.hq with records := [(255, [{}])] } }, 31, by decide +kernel⟩⟩

/-- The hypotheses of `Obligations.HostItems` are met, clause by clause. -/
theorem test_meets_HostItems :
    (∃ (s : State) (n : Nat), (s.fetchRuns = true) ∧ (s.nextFetch = some n)) ∧
    (∃ (s : State) (sq : BitVec 8) (k : Nat) (l : List (List Byte)), (SMap.find s.hq.fetching sq.toNat = some k)) ∧
    (∃ (s : State) (sq : BitVec 8) (k : Nat), (SMap.find s.hq.fetching sq.toNat = some k)) ∧
    (∃ (s : State) (sq : BitVec 8) (num : Nat) (bs : List Byte) (i : Item), (s.item? sq.toNat num = some i) ∧ (i.stage = .reading) ∧ (i.badLineByte bs = false)) ∧
    (∃ (s : State) (sq : BitVec 8) (num : Nat) (bs : List Byte) (i : Item), (s.item? sq.toNat num = some i) ∧ (i.stage = .reading) ∧ (i.badLineByte bs = true)) ∧
    (∃ (s : State) (sq : BitVec 8) (num : Nat) (i : Item), (s.item? sq.toNat num = some i) ∧ (i.stage = .reading)) ∧
    (∃ (s : State) (sq : BitVec 8) (num : Nat) (i : Item) (slot off len : Nat), (s.item? sq.toNat num = some i) ∧ (s.mayAccept i = true) ∧ (s.journalPlace i = some (slot, off, len))) ∧
    (∃ (s : State) (sq : BitVec 8) (num : Nat) (i : Item), (s.item? sq.toNat num = some i) ∧ (s.mayAccept i = false ∨ s.journalPlace i = none)) ∧
    (∃ (s : State) (sq : BitVec 8) (num : Nat) (i : Item), (s.item? sq.toNat num = some i) ∧ (i.desc.opcode = 0x00) ∧ (i.isAccepted = true) ∧ (i.isDone = false)) ∧
    (∃ (s : State) (sq : BitVec 8) (num : Nat) (i : Item), (s.item? sq.toNat num = some i) ∧ (i.desc.opcode = 0x01) ∧ (i.isAccepted = true) ∧ (i.isDone = false) ∧ (((s.itemsOf i.sq).takeWhile (fun j => j.num != num)).all (fun j => j.isDone) = true)) ∧
    (∃ (s : State) (sq : BitVec 8) (num : Nat) (i : Item), (s.item? sq.toNat num = some i) ∧ (((s.itemsOf i.sq).takeWhile (fun j => j.num != num)).all (fun j => j.isDone) = false)) :=
  ⟨⟨{ ((active.put HQ_CTRL 1).put (HQ_SQ_STATE_STATE 5) 1).put HQ_JRN_STATUS_STATE 3 with hq := { active.hq with prod := [(5, 20)] } }, 5, by decide +kernel⟩,
   ⟨{ active with hq := { active.hq with fetching := [(255, 1)] } }, 255, 1, [], by decide +kernel⟩,
   ⟨{ active with hq := { active.hq with fetching := [(255, 1)] } }, 255, 1, by decide +kernel⟩,
   ⟨{ active with hq := { active.hq with items := [{ sq := 3, num := 9, stage := .reading }] } }, 3, 9, [1], { sq := 3, num := 9, stage := .reading }, by decide +kernel⟩,
   ⟨{ active with hq := { active.hq with items := [{ sq := 3, num := 9, stage := .reading, desc := { opcode := 0x10, dest := 0x100 } }] } }, 3, 9, [2], { sq := 3, num := 9, stage := .reading, desc := { opcode := 0x10, dest := 0x100 } }, by decide +kernel⟩,
   ⟨{ active with hq := { active.hq with items := [{ sq := 3, num := 9, stage := .reading }] } }, 3, 9, { sq := 3, num := 9, stage := .reading }, by decide +kernel⟩,
   ⟨{ (active.put (HQ_SQ_STATE_STATE 3) 1).put HQ_JRN_STATUS_STATE 3 with hq := { active.hq with items := [{ sq := 3, num := 9, stage := .ready }] } }, 3, 9, { sq := 3, num := 9, stage := .ready }, 0, 0xFFFFFFFF, 0, by decide +kernel⟩,
   ⟨{ (active.put (HQ_SQ_STATE_STATE 3) 1).put HQ_JRN_STATUS_STATE 2 with hq := { active.hq with items := [{ sq := 3, num := 9 }] } }, 3, 9, { sq := 3, num := 9 }, by decide +kernel⟩,
   ⟨{ active with hq := { active.hq with items := [{ sq := 3, num := 9, stage := .flushed, wsn := 1 }] } }, 3, 9, { sq := 3, num := 9, stage := .flushed, wsn := 1 }, by decide +kernel⟩,
   ⟨{ active with hq := { active.hq with items := [{ sq := 3, num := 9, stage := .flushed, wsn := 1, desc := { opcode := 1 } }] } }, 3, 9, { sq := 3, num := 9, stage := .flushed, wsn := 1, desc := { opcode := 1 } }, by decide +kernel⟩,
   ⟨{ active with hq := { active.hq with items := [{ sq := 3, num := 8, stage := .flushed, wsn := 1 }, { sq := 3, num := 9, stage := .flushed, wsn := 1, desc := { opcode := 1 } }] } }, 3, 9, { sq := 3, num := 9, stage := .flushed, wsn := 1, desc := { opcode := 1 } }, by decide +kernel⟩⟩

/-- The hypotheses of `Obligations.HostRecords` are met, clause by clause. -/
theorem test_meets_HostRecords :
    (∃ (s : State) (cq : BitVec 8) (r : Record) (rest : List Record), (SMap.getD s.hq.records cq.toNat [] = r :: rest) ∧ (s.flag (HQ_CQ_CFG_ENABLE cq.toNat) = true) ∧ (s.hq.blocked = false) ∧ (s.cqFull cq.toNat = false)) ∧
    (∃ (s : State) (cq : BitVec 8) (r : Record) (rest : List Record), (SMap.getD s.hq.records cq.toNat [] = r :: rest) ∧ (s.flag (HQ_CQ_CFG_ENABLE cq.toNat) = true) ∧ (s.hq.blocked = true)) ∧
    (∃ (s : State) (cq : BitVec 8) (r : Record) (rest : List Record), (SMap.getD s.hq.records cq.toNat [] = r :: rest) ∧ (s.flag (HQ_CQ_CFG_ENABLE cq.toNat) = true) ∧ (s.hq.blocked = false) ∧ (s.cqFull cq.toNat = true) ∧ (r.stalled = false)) ∧
    (∃ (s : State) (cq : BitVec 8), (SMap.getD s.hq.unsignalled cq.toNat 0 ≠ 0)) ∧
    (∃ (s : State), (s.hifHeld = false)) ∧
    (∃ (s : State), (s.hifHeld = true)) :=
  ⟨⟨{ (active.put (HQ_CQ_CFG_LOG2_ENTRIES 255) 6).put (HQ_CQ_CFG_ENABLE 255) 1 with hq := { active.hq with records := [(255, [{}])] } }, 255, {}, [], by decide +kernel⟩,
   ⟨{ active.put (HQ_CQ_CFG_ENABLE 255) 1 with hq := { active.hq with records := [(255, [{}])], blocked := true } }, 255, {}, [], by decide +kernel⟩,
   ⟨{ ((active.put (HQ_CQ_CFG_LOG2_ENTRIES 255) 6).put (HQ_CQ_WRITTEN 255) 64).put (HQ_CQ_CFG_ENABLE 255) 1 with hq := { active.hq with records := [(255, [{}])] } }, 255, {}, [], by decide +kernel⟩,
   ⟨{ active with hq := { active.hq with unsignalled := [(7, 1)] } }, 7, by decide +kernel⟩,
   ⟨active, by decide +kernel⟩,
   ⟨{ active with node := { active.node with perst := true } }, by decide +kernel⟩⟩

/-- The hypotheses of `Obligations.Delivery` are met, clause by clause. -/
theorem test_meets_Delivery :
    (∃ (s : State) (tag : Tag) (segOff : Nat) (last : Bool) (bytes : List Byte) (i : Item), (tag.gen = s.dlv.gen) ∧ (s.openItem? tag.sq tag.wsn = some i)) ∧
    (∃ (s : State) (tag : Tag) (segOff : Nat) (last : Bool) (bytes : List Byte), (tag.gen ≠ s.dlv.gen ∨ s.openItem? tag.sq tag.wsn = none)) ∧
    (∃ (s : State) (sq : BitVec 8) (wsn : Nat) (i : Item), (s.openItem? sq.toNat wsn = some i) ∧ (i.stage = .forwarded)) ∧
    (∃ (s : State) (sq : BitVec 8) (wsn : Nat), (s.openItem? sq.toNat wsn = none)) ∧
    (∃ (s : State) (node : Nat), (node ≠ s.nodeId) ∧ (s.routePort node 0 = none)) :=
  ⟨⟨{ active with hq := { active.hq with items := [{ sq := 3, num := 9, wsn := 1, stage := .forwarded }] } }, { sq := 3, wsn := 1 }, 0, true, [1], { sq := 3, num := 9, wsn := 1, stage := .forwarded }, by decide +kernel⟩,
   ⟨active, { sq := 3, wsn := 1 }, 0, true, [1], by decide +kernel⟩,
   ⟨{ active with hq := { active.hq with items := [{ sq := 3, num := 9, wsn := 1, stage := .forwarded, desc := { dest := 0x5000 } }] } }, 3, 1, { sq := 3, num := 9, wsn := 1, stage := .forwarded, desc := { dest := 0x5000 } }, by decide +kernel⟩,
   ⟨active, 3, 1, by decide +kernel⟩,
   ⟨active, 254, by decide +kernel⟩⟩

/-- The hypotheses of `Obligations.Journal` are met, clause by clause. -/
theorem test_meets_Journal :
    (∃ (s : State) (val : Word) (gen : Nat) (table : List (Nat × Nat × Nat)), (s.flag HQ_JRN_CFG_ENABLE = false) ∧ (val.toNat % 2 = 1) ∧ (s.flag HQ_CTRL = true) ∧ (jrnSizesOk val.toNat = true) ∧ (gen % 2 ^ 32 ≠ 0)) ∧
    (∃ (s : State) (val : Word) (header : Option Nat) (table : List (Nat × Nat × Nat)), (s.flag HQ_JRN_CFG_ENABLE = false) ∧ (val.toNat % 2 = 1) ∧ (s.flag HQ_CTRL = false ∨ jrnSizesOk val.toNat = false)) ∧
    (∃ (s : State) (val : Word) (table : List (Nat × Nat × Nat)), (s.flag HQ_JRN_CFG_ENABLE = false) ∧ (val.toNat % 2 = 1) ∧ (s.flag HQ_CTRL = true) ∧ (jrnSizesOk val.toNat = true)) ∧
    (∃ (s : State) (val : Word) (header : Option Nat) (table : List (Nat × Nat × Nat)), (s.flag HQ_JRN_CFG_ENABLE = false) ∧ (val.toNat % 2 = 0)) ∧
    (∃ (s : State) (val : Word) (gen : Nat) (table : List (Nat × Nat × Nat)), (s.flag HQ_JRN_CFG_ENABLE = false) ∧ (val.toNat % 2 = 1) ∧ (s.flag HQ_CTRL = true) ∧ (jrnSizesOk val.toNat = true) ∧ (gen % 2 ^ 32 = 0)) ∧
    (∃ (s : State) (val : Word) (header : Option Nat) (table : List (Nat × Nat × Nat)), (s.flag HQ_JRN_CFG_ENABLE = true) ∧ (val.toNat / 65536 % 8192 = s.get HQ_JRN_CFG_SPOOL_MIB) ∧ (val.toNat / 256 % 32 = s.get HQ_JRN_CFG_LOG2_RECORDS) ∧ (val.toNat % 2 = 0) ∧ (s.allSqDisabled = true)) ∧
    (∃ (s : State) (records : List (Nat × List Byte × List Byte)), (s.jrnState = 1) ∧ (((records.map (fun (i, bs, d) => readRecord i bs d)).filter (fun r => r.st != 0)).all (fun r => r.ok) = true)) ∧
    (∃ (s : State) (records : List (Nat × List Byte × List Byte)), (s.jrnState = 1 ∨ s.jrnState = 2) ∧ (((records.map (fun (i, bs, d) => readRecord i bs d)).filter (fun r => r.st != 0)).all (fun r => r.ok) = false)) ∧
    (∃ (s : State), (s.jrnState = 4)) ∧
    (∃ (s : State), (s.jrnState = 2) ∧ (s.hq.items.all Item.resent = true)) ∧
    (∃ (s : State), (s.hq.items.all Item.resent = false)) :=
  ⟨⟨active.put HQ_CTRL 1, 0x00200A01, 1, [], by decide +kernel⟩,
   ⟨active.put HQ_CTRL 1, 0x001F0A01, some 1, [], by decide +kernel⟩,
   ⟨active.put HQ_CTRL 1, 0x10001401, [], by decide +kernel⟩,
   ⟨active, 0x00200A00, none, [], by decide +kernel⟩,
   ⟨active.put HQ_CTRL 1, 0x00200A01, 0, [], by decide +kernel⟩,
   ⟨active.put HQ_JRN_CFG_ENABLE 1, 0, none, [], by decide +kernel⟩,
   ⟨active.put HQ_JRN_STATUS_STATE 1, [], by decide +kernel⟩,
   ⟨active.put HQ_JRN_STATUS_STATE 2, [(0, [0, 0, 0, 0, 0, 0, 0, 1], [])], by decide +kernel⟩,
   ⟨active.put HQ_JRN_STATUS_STATE 4, by decide +kernel⟩,
   ⟨active.put HQ_JRN_STATUS_STATE 2, by decide +kernel⟩,
   ⟨{ active.put HQ_JRN_STATUS_STATE 2 with hq := { active.hq with items := [{ replay := true, desc := { opcode := 0x10 } }] } }, by decide +kernel⟩⟩

/-- The hypotheses of `Obligations.RingPorts` are met, clause by clause. -/
theorem test_meets_RingPorts :
    (∃ (s : State) (port : Fin 3), (s.portState port = 0) ∧ (s.isUp (dRGE + port) = true)) ∧
    (∃ (s : State) (port : Fin 3), (s.portState port = 1)) ∧
    (∃ (s : State) (port : Fin 3), (s.portState port = 1)) ∧
    (∃ (s : State) (port : Fin 3) (lanes : Fin 16), (s.portState port = 2)) ∧
    (∃ (s : State) (port : Fin 3) (cause : Fin 4) (lanes : Fin 16), (s.portState port = 2) ∧ (cause ≠ 3)) ∧
    (∃ (s : State) (port : Fin 3) (cause : Fin 4) (lanes : Fin 16), (s.portState port ≠ 2)) ∧
    (∃ (s : State) (port : Fin 3) (cls : Fin 8) (cells : Nat), (cells ≠ 0)) ∧
    (∃ (s : State) (port : Fin 3), (s.creditsHeld port = false)) ∧
    (∃ (s : State) (port : Fin 3), (s.creditsHeld port = true)) :=
  ⟨⟨active, 2, by decide +kernel⟩,
   ⟨active.put (RING_PORT_STATUS_STATE 2) 1, 2, by decide +kernel⟩,
   ⟨active.put (RING_PORT_STATUS_STATE 0) 1, 0, by decide +kernel⟩,
   ⟨active.put (RING_PORT_STATUS_STATE 2) 2, 2, 0, by decide +kernel⟩,
   ⟨active.put (RING_PORT_STATUS_STATE 0) 2, 0, 1, 15, by decide +kernel⟩,
   ⟨active, 0, 1, 15, by decide +kernel⟩,
   ⟨active, 2, 7, 1, by decide +kernel⟩,
   ⟨active, 2, by decide +kernel⟩,
   ⟨{ active with node := { active.node with threat := 64 } }, 2, by decide +kernel⟩⟩

/-- The hypotheses of `Obligations.Enumeration` are met, clause by clause. -/
theorem test_meets_Enumeration :
    (∃ (s : State), (s.flag RING_NODE_ROOT = true) ∧ (s.flag RING_CTRL_EN = false)) ∧
    (∃ (s : State), (s.flag RING_NODE_ROOT = false)) ∧
    (∃ (s : State), (s.rootRuns = true) ∧ (s.get RING_ENUM_STATUS_STATE ≠ 1)) ∧
    (∃ (s : State), (s.rootRuns = true) ∧ (s.ring.enumAgain = true)) ∧
    (∃ (s : State) (port : Fin 2) (src seq round hops : Nat), (s.flag RING_NODE_ROOT = false ∨ src ≠ s.nodeId)) ∧
    (∃ (s : State) (port : Fin 2) (src seq round hops : Nat), (s.flag RING_NODE_ROOT = false ∨ src ≠ s.nodeId)) ∧
    (∃ (s : State) (src seq round hops : Nat), (s.flag RING_NODE_ROOT = true) ∧ (src = s.nodeId) ∧ (round = s.get RING_ENUM_STATUS_ROUND)) ∧
    (∃ (s : State) (port : Fin 2) (src seq round hops : Nat) (wrapped : Bool), (s.flag RING_NODE_ROOT = true) ∧ (src = s.nodeId) ∧ (port = 0 ∨ wrapped = true ∨ round ≠ s.get RING_ENUM_STATUS_ROUND)) ∧
    (∃ (s : State) (uid claim mode flags hops round : Nat), (s.flag RING_NODE_ROOT = true) ∧ (s.get RING_ENUM_STATUS_STATE = 1) ∧ (round = s.get RING_ENUM_STATUS_ROUND)) ∧
    (∃ (s : State), (s.flag RING_NODE_ROOT = true) ∧ (s.get RING_ENUM_STATUS_STATE = 1)) ∧
    (∃ (s : State) (src round n flags : Nat) (ids : List Nat), (s.flag RING_NODE_ROOT = false) ∧ (s.ring.answered = some round) ∧ (ids.getD (s.myPos n) 0 ≠ 0)) ∧
    (∃ (s : State) (src round n flags : Nat) (ids : List Nat), (s.flag RING_NODE_ROOT = false) ∧ (s.ring.answered = some round) ∧ (ids.getD (s.myPos n) 0 = 0)) ∧
    (∃ (s : State) (src seq : Nat) (pair wrapped : Bool) (ring : Fin 2) (hops version up draining fenced : Nat) (full more : Bool) (entries : List (Nat × Nat)), (src ≠ s.nodeId ∨ src = 0) ∧ (s.flag RING_NODE_HELD_OUT = false)) ∧
    (∃ (s : State) (src seq : Nat) (pair wrapped : Bool) (ring : Fin 2) (hops version up draining fenced : Nat) (full more : Bool) (entries : List (Nat × Nat)), (src ≠ s.nodeId ∨ src = 0) ∧ (s.flag RING_NODE_HELD_OUT = true)) ∧
    (∃ (s : State) (src seq : Nat) (pair wrapped : Bool) (ring : Fin 2) (hops version up draining fenced : Nat) (full more : Bool) (entries : List (Nat × Nat)), (src = s.nodeId) ∧ (src ≠ 0)) :=
  ⟨⟨active.put RING_NODE_ROOT 1, by decide +kernel⟩,
   ⟨active, by decide +kernel⟩,
   ⟨(active.put RING_NODE_ROOT 1).put RING_CTRL_EN 1, by decide +kernel⟩,
   ⟨{ (active.put RING_NODE_ROOT 1).put RING_CTRL_EN 1 with ring := { active.ring with enumAgain := true } }, by decide +kernel⟩,
   ⟨active, 1, 254, 3, 0, 0, by decide +kernel⟩,
   ⟨active, 1, 254, 3, 0, 0, by decide +kernel⟩,
   ⟨active.put RING_NODE_ROOT 1, 0, 3, 0, 0, by decide +kernel⟩,
   ⟨active.put RING_NODE_ROOT 1, 0, 0, 3, 0, 0, false, by decide +kernel⟩,
   ⟨(active.put RING_NODE_ROOT 1).put RING_ENUM_STATUS_STATE 1, 0, 0, 0, 0, 0, 0, by decide +kernel⟩,
   ⟨(active.put RING_NODE_ROOT 1).put RING_ENUM_STATUS_STATE 1, by decide +kernel⟩,
   ⟨{ active with ring := { active.ring with answered := some 7, hopsA := some 1 } }, 1, 7, 2, 1, [1, 254], by decide +kernel⟩,
   ⟨{ active with ring := { active.ring with answered := some 7, hopsB := some 1 } }, 1, 7, 2, 1, [1, 0], by decide +kernel⟩,
   ⟨active, 3, 9, false, false, 1, 0, 1, 0, 0, 0, false, false, [(0x400, 1)], by decide +kernel⟩,
   ⟨active.put RING_NODE_HELD_OUT 1, 3, 9, false, false, 1, 0, 1, 0, 0, 0, false, false, [(0x400, 1)], by decide +kernel⟩,
   ⟨active.put RING_NODE_ID 3, 3, 9, false, false, 1, 0, 1, 0, 0, 0, false, false, [(0x400, 1)], by decide +kernel⟩⟩

/-- The hypotheses of `Obligations.Polder` are met, clause by clause. -/
theorem test_meets_Polder :
    (∃ (s : State) (inp : Fin 32) (dsts : List SwitchDst) (outs : List Nat) (cls : Fin 8) (tagged ok : Bool) (bytes : List Byte), (s.isUp dPLD = true) ∧ (bytes ≠ []) ∧ ((dsts.filterMap s.switchOut).eraseDups = outs) ∧ (outs ≠ [] ∧ outs.length ≤ 4) ∧ (s.sliceShut inp outs = false) ∧ (s.inputBarred inp (cellsOf bytes.length - s.reservedFor inp cls bytes.length) outs = false) ∧ (cellsOf bytes.length - s.reservedFor inp cls bytes.length ≤ s.shrFree) ∧ (bytes.length ≤ 9216) ∧ (checkFrame inp ok bytes = true)) ∧
    (∃ (s : State) (inp : Fin 32) (dsts : List SwitchDst) (outs : List Nat) (cls : Fin 8) (tagged ok : Bool) (bytes : List Byte), (s.isUp dPLD = true) ∧ (bytes ≠ []) ∧ ((dsts.filterMap s.switchOut).eraseDups = outs) ∧ (outs ≠ [] ∧ outs.length ≤ 4) ∧ (s.sliceShut inp outs = false) ∧ (s.inputBarred inp (cellsOf 9216 - s.reservedFor inp cls 9216) outs = false) ∧ (cellsOf 9216 - s.reservedFor inp cls 9216 ≤ s.shrFree) ∧ (9216 < bytes.length)) ∧
    (∃ (s : State) (inp : Fin 32) (dsts : List SwitchDst) (outs : List Nat) (cls : Fin 8) (tagged ok : Bool) (bytes : List Byte), (s.isUp dPLD = true) ∧ (bytes ≠ []) ∧ ((dsts.filterMap s.switchOut).eraseDups = outs) ∧ (outs ≠ [] ∧ outs.length ≤ 4) ∧ (s.sliceShut inp outs = false) ∧ (s.inputBarred inp (cellsOf bytes.length - s.reservedFor inp cls bytes.length) outs = false) ∧ (cellsOf bytes.length - s.reservedFor inp cls bytes.length ≤ s.shrFree) ∧ (bytes.length ≤ 9216) ∧ (checkFrame inp ok bytes = false)) ∧
    (∃ (s : State) (inp : Fin 32) (dsts : List SwitchDst) (outs : List Nat) (cls : Fin 8) (tagged ok : Bool) (bytes : List Byte), (s.isUp dPLD = true) ∧ (bytes ≠ []) ∧ ((dsts.filterMap s.switchOut).eraseDups = outs) ∧ (outs ≠ [] ∧ outs.length ≤ 4) ∧ (s.sliceShut inp outs = false) ∧ (s.inputBarred inp (cellsOf (min bytes.length 9216) - s.reservedFor inp cls (min bytes.length 9216)) outs = true ∨ s.shrFree < cellsOf (min bytes.length 9216) - s.reservedFor inp cls (min bytes.length 9216))) ∧
    (∃ (s : State) (inp : Fin 32) (dsts : List SwitchDst) (outs : List Nat) (cls : Fin 8) (tagged ok : Bool) (bytes : List Byte), (s.isUp dPLD = true) ∧ (bytes ≠ []) ∧ ((dsts.filterMap s.switchOut).eraseDups = outs) ∧ (outs ≠ [] ∧ outs.length ≤ 4) ∧ (s.sliceShut inp outs = true)) ∧
    (∃ (s : State) (out : Fin 32) (n k : Nat) (f : PFrame) (band : Nat), (s.isUp dPLD = true) ∧ ((((s.refreshOut out).newHeads out).outSt out).busy = none) ∧ (((s.refreshOut out).newHeads out).pick out = some (n, k, f, band))) ∧
    (∃ (s : State) (out : Fin 32), (s.isUp dPLD = true) ∧ ((((s.refreshOut out).newHeads out).outSt out).busy.isSome = true ∨ ((s.refreshOut out).newHeads out).pick out = none)) ∧
    (∃ (s : State) (out : Fin 32) (num : Nat), (s.isUp dPLD = true) ∧ ((s.outSt out).busy = some num) ∧ ((s.pld.frames.find? (fun f => f.num == num)).bind (fun f => f.vis) = none)) ∧
    (∃ (s : State) (out : Fin 32) (num : Nat) (o : VisOutput), (s.isUp dPLD = true) ∧ ((s.outSt out).busy = some num) ∧ ((s.pld.frames.find? (fun f => f.num == num)).bind (fun f => f.vis) = some o)) ∧
    (∃ (s : State) (out : Fin 32), ((s.outSt out).busy = none)) ∧
    (∃ (s : State) (out inp : Fin 32) (cls : Fin 8), (s.flag (SCH_OUT_CLS_CFG_PROMO_EN out cls) = true) ∧ ((s.headOf out inp cls).isSome = true) ∧ ((s.outSt out).promoted.contains (8 * inp.val + cls.val) = false)) ∧
    (∃ (s : State) (val : Word), (s.isUp dPLD = true) ∧ (s.flag PLD_FLUSH_STATUS_BUSY = false) ∧ (val.toNat / 2 ^ 10 % 256 ≠ 0)) ∧
    (∃ (s : State) (val : Word), (s.isUp dPLD = true) ∧ (s.flag PLD_FLUSH_STATUS_BUSY = true ∨ val.toNat / 2 ^ 10 % 256 = 0)) ∧
    (∃ (s : State), (s.isUp dPLD = true) ∧ (s.pld.flush = []) ∧ (s.flushRuns = false)) ∧
    (∃ (s : State), (s.pld.flush ≠ [] ∨ s.flushRuns = true)) :=
  ⟨⟨active, 6, [.host], [3], 7, true, true, [0, 0], by decide +kernel⟩,
   ⟨active, 6, [.host], [3], 7, true, true, List.replicate 9217 0, by decide +kernel⟩,
   ⟨active, 6, [.host], [3], 7, true, false, [0, 0], by decide +kernel⟩,
   ⟨active.put (PLD_IN_STATE_HELD 20) 1, 20, [.host], [3], 7, true, true, [0, 0], by decide +kernel⟩,
   ⟨active, 31, [.host], [3], 7, true, true, [0, 0], by decide +kernel⟩,
   ⟨{ active with pld := { active.pld with frames := [{ outs := [12], bytes := [0] }] } }, 12, 0, 0, { outs := [12], bytes := [0] }, 2, by decide +kernel⟩,
   ⟨active, 12, by decide +kernel⟩,
   ⟨{ active with sch := { active.sch with outs := [(12, { busy := some 0 })] } }, 12, 0, by decide +kernel⟩,
   ⟨{ active with sch := { active.sch with outs := [(30, { busy := some 0 })] }, pld := { active.pld with frames := [{ outs := [30], bytes := [0], vis := some {} }] } }, 30, 0, {}, by decide +kernel⟩,
   ⟨active, 12, by decide +kernel⟩,
   ⟨{ active.put (SCH_OUT_CLS_CFG_PROMO_EN 12 0) 1 with pld := { active.pld with frames := [{ outs := [12], bytes := [0] }] } }, 12, 0, 0, by decide +kernel⟩,
   ⟨active, 0x3FC00, by decide +kernel⟩,
   ⟨active, 0xFFFC03FF, by decide +kernel⟩,
   ⟨active, by decide +kernel⟩,
   ⟨{ active with pld := { active.pld with flush := [(0, 0)] } }, by decide +kernel⟩⟩

/-- The hypotheses of `Obligations.Weirs` are met, clause by clause. -/
theorem test_meets_Weirs :
    (∃ (s : State) (out : Fin 32) (cls : Fin 8) (val : Word), (¬ (val.toNat.testBit 31 = true ∧ val.toNat % 2 ^ 27 = 0)) ∧ (s.largestFrame out + s.get (SCH_OUT_LINK_OVERHEAD out) ≤ s.get (SCH_OUT_CLS_WEIR_BURST out cls))) ∧
    (∃ (s : State) (out : Fin 32) (cls : Fin 8) (val : Word), ((val.toNat.testBit 31 = true ∧ val.toNat % 2 ^ 27 = 0) ∨ s.get (SCH_OUT_CLS_WEIR_BURST out cls) < s.largestFrame out + s.get (SCH_OUT_LINK_OVERHEAD out))) ∧
    (∃ (s : State) (g : Fin 19) (val : Word), (s.get (SCH_GCL_STATUS_STATE g) ≠ 1) ∧ ((s.put (SCH_GCL_CTRL_LEN g) (val.toNat / 65536 % 256)).gclCheck g (val.toNat / 65536 % 256) ≠ 0)) ∧
    (∃ (s : State) (g : Fin 19) (val : Word), (s.get (SCH_GCL_STATUS_STATE g) ≠ 1) ∧ ((s.put (SCH_GCL_CTRL_LEN g) (val.toNat / 65536 % 256)).gclCheck g (val.toNat / 65536 % 256) = 0)) ∧
    (∃ (s : State) (g : Fin 19) (val : Word), (s.get (SCH_GCL_STATUS_STATE g) = 1) ∧ (val.toNat / 65536 % 256 ≠ s.get (SCH_GCL_CTRL_LEN g))) ∧
    (∃ (s : State) (g : Fin 19), (s.get (SCH_GCL_STATUS_STATE g) = 2)) ∧
    (∃ (s : State) (g : Fin 19), (s.get (SCH_GCL_STATUS_STATE g) = 1) ∧ (s.ringTime < (s.gcl g).start)) ∧
    (∃ (s : State) (g : Fin 19), (s.get (SCH_GCL_STATUS_STATE g) = 1) ∧ ((s.gcl g).start ≤ s.ringTime)) ∧
    (∃ (s : State) (g : Fin 19), (s.get (SCH_GCL_STATUS_STATE g) = 1) ∧ ((s.gcl g).start ≤ s.ringTime)) ∧
    (∃ (s : State) (g : Fin 19), (s.ringTime < (s.gcl g).start)) ∧
    (∃ (s : State) (g : Fin 19), ((s.gcl g).since + s.get (SCH_GCL_OPE_IVL g (s.get (SCH_GCL_STATUS_ENTRY g))) ≤ s.ringTime) ∧ ((s.gcl g).closing = true)) ∧
    (∃ (s : State) (g : Fin 19), (s.ringTime < (s.gcl g).since + s.get (SCH_GCL_OPE_IVL g (s.get (SCH_GCL_STATUS_ENTRY g))))) ∧
    (∃ (s : State) (g : Fin 19), ((s.gcl g).since + s.get (SCH_GCL_OPE_IVL g (s.get (SCH_GCL_STATUS_ENTRY g))) ≤ s.ringTime) ∧ ((s.gcl g).closing = false) ∧ (s.listRuns g = true) ∧ (s.get (SCH_GCL_STATUS_OPER_LEN g) ≠ 0)) ∧
    (∃ (s : State) (g : Fin 19) (cls : Fin 8), (s.isUp dPLD = true) ∧ (s.guardRuns g cls = true)) ∧
    (∃ (s : State) (g : Fin 19) (cls : Fin 8), (s.guardRuns g cls = false)) :=
  ⟨⟨active.put (SCH_OUT_CLS_WEIR_BURST 31 7) 0x8000, 31, 7, 0xC0000001, by decide +kernel⟩,
   ⟨active.put (SCH_OUT_CLS_WEIR_BURST 31 7) 0x8000, 31, 7, 0x80000000, by decide +kernel⟩,
   ⟨active, 18, 0, by decide +kernel⟩,
   ⟨((active.put (SCH_GCL_ADM_IVL 18 0) 1000).put (SCH_GCL_ADM_GATES 18 0) 255).put TIME_STATUS_LOCKED_SINCE_RESET 1, 18, 0x10001, by decide +kernel⟩,
   ⟨active.put (SCH_GCL_STATUS_STATE 18) 1, 18, 0x10001, by decide +kernel⟩,
   ⟨active.put (SCH_GCL_STATUS_STATE 18) 2, 18, by decide +kernel⟩,
   ⟨{ active.put (SCH_GCL_STATUS_STATE 18) 1 with sch := { active.sch with gcls := [(18, { start := 5 })] } }, 18, by decide +kernel⟩,
   ⟨active.put (SCH_GCL_STATUS_STATE 18) 1, 18, by decide +kernel⟩,
   ⟨active.put (SCH_GCL_STATUS_STATE 18) 1, 18, by decide +kernel⟩,
   ⟨{ active with sch := { active.sch with gcls := [(18, { start := 5 })] } }, 18, by decide +kernel⟩,
   ⟨{ active with sch := { active.sch with gcls := [(18, { closing := true })] } }, 18, by decide +kernel⟩,
   ⟨{ active with sch := { active.sch with gcls := [(18, { since := 5 })] } }, 18, by decide +kernel⟩,
   ⟨(active.put (SCH_GCL_STATUS_STATE 18) 2).put (SCH_GCL_STATUS_OPER_LEN 18) 1, 18, by decide +kernel⟩,
   ⟨((((((active.put (SCH_GCL_STATUS_STATE 18) 2).put (SCH_GCL_STATUS_OPER_LEN 18) 2).put (SCH_GCL_OPE_IVL 18 0) 100).put (SCH_GCL_OPE_IVL 18 1) 100).put (SCH_GCL_OPE_GATES 18 0) 128).put (SCH_GCL_STATUS_GATES 18) 128).put (SCH_GCL_GUARD 18 7) 100, 18, 7, by decide +kernel⟩,
   ⟨active, 18, 7, by decide +kernel⟩⟩

/-- The hypotheses of `Obligations.TimeLock` are met, clause by clause. -/
theorem test_meets_TimeLock :
    (∃ (s : State) (val : Word), (rateOk (s.get TIME_CFG_LIMIT_PPM) val.toNat = true)) ∧
    (∃ (s : State) (val : Word), (rateOk (s.get TIME_CFG_LIMIT_PPM) val.toNat = false)) ∧
    (∃ (s : State) (req : Requester) (val : Word), (s.flag TIME_STATUS_EVER_LOCKED = true)) ∧
    (∃ (s : State) (req : Requester) (val : Word), (s.flag TIME_STATUS_EVER_LOCKED = false)) ∧
    (∃ (s : State), (s.flag RING_NODE_ROOT = true) ∧ (s.get TIME_CFG_SRC = 0) ∧ (s.get TIME_STATUS_LOCK ≠ 2) ∧ (s.time.stepNext = none)) ∧
    (∃ (s : State) (d : Int), (s.flag RING_NODE_ROOT = true) ∧ (s.get TIME_CFG_SRC = 0) ∧ (s.get TIME_STATUS_LOCK ≠ 2) ∧ (s.time.stepNext = some d)) ∧
    (∃ (s : State), (s.get TIME_STATUS_LOCK = 1) ∧ ((sext 32 (s.get TIME_ERR_EST)).natAbs ≤ 512) ∧ (s.time.stepNext = none)) ∧
    (∃ (s : State) (d : Int), (s.get TIME_STATUS_LOCK = 1) ∧ ((sext 32 (s.get TIME_ERR_EST)).natAbs ≤ 512) ∧ (s.time.stepNext = some d)) ∧
    (∃ (s : State), (s.get TIME_CFG_SRC ≠ 0) ∧ (s.upstreamSilent = true) ∧ (s.get TIME_STATUS_LOCK = 1 ∨ s.get TIME_STATUS_LOCK = 2)) ∧
    (∃ (s : State), (s.get TIME_CFG_SRC = 0 ∨ s.upstreamSilent = false)) ∧
    (∃ (s : State) (port : Fin 3) (wait : Nat), (s.portState port = 2)) ∧
    (∃ (s : State) (port : Fin 3) (seq : BitVec 8) (wait : Nat), (s.portState port = 2)) ∧
    (∃ (s : State) (port : Fin 3) (seq : BitVec 8) (t1 : Nat), (SMap.find s.time.sent port = some (seq.toNat, t1)) ∧ (s.portState port = 2)) ∧
    (∃ (s : State) (port : Fin 3) (bytes : List Byte) (q t2 t3 c2 : Nat), (SMap.find s.time.got port = some (q, t2, t3, c2)) ∧ (s.followsSync bytes q c2 = true)) ∧
    (∃ (s : State) (port : Fin 3) (bytes : List Byte) (q t2 t3 c2 : Nat), (SMap.find s.time.got port = some (q, t2, t3, c2)) ∧ (s.followsSync bytes q c2 = false)) ∧
    (∃ (s : State) (source : Option Int), ((s.ptpInput source).time.errNum ≠ 0) ∧ ((s.ptpInput source).boot.frozen = false) ∧ ((s.ptpInput source).flag PWR_POL_CTRL_SERVO = true) ∧ ((s.ptpInput source).get TIME_STATUS_LOCK ≠ 3)) :=
  ⟨⟨active, 1, by decide +kernel⟩,
   ⟨active, 0x7FFFFFFF, by decide +kernel⟩,
   ⟨active.put TIME_STATUS_EVER_LOCKED 1, .host, 0, by decide +kernel⟩,
   ⟨active, .host, 0, by decide +kernel⟩,
   ⟨active.put RING_NODE_ROOT 1, by decide +kernel⟩,
   ⟨{ active.put RING_NODE_ROOT 1 with time := { active.time with stepNext := some 5 } }, 5, by decide +kernel⟩,
   ⟨active.put TIME_STATUS_LOCK 1, by decide +kernel⟩,
   ⟨{ active.put TIME_STATUS_LOCK 1 with time := { active.time with stepNext := some 5 } }, 5, by decide +kernel⟩,
   ⟨(active.put TIME_STATUS_LOCK 1).put TIME_CFG_SRC 3, by decide +kernel⟩,
   ⟨active, by decide +kernel⟩,
   ⟨active.put (RING_PORT_STATUS_STATE 2) 2, 2, 0, by decide +kernel⟩,
   ⟨active.put (RING_PORT_STATUS_STATE 2) 2, 2, 255, 0, by decide +kernel⟩,
   ⟨{ active.put (RING_PORT_STATUS_STATE 2) 2 with time := { active.time with sent := [(2, (9, 5))] } }, 2, 9, 5, by decide +kernel⟩,
   ⟨{ active with time := { active.time with got := [(2, (9, 5, 6, 0))] } }, 2, [1, 9], 9, 5, 6, 0, by decide +kernel⟩,
   ⟨{ active with time := { active.time with got := [(2, (9, 5, 6, 0))] } }, 2, [1, 8], 9, 5, 6, 0, by decide +kernel⟩,
   ⟨{ active.put PWR_POL_CTRL_SERVO 1 with time := { active.time with errNum := 1 } }, none, by decide +kernel⟩⟩

/-- The hypotheses of `Obligations.Fsync` are met, clause by clause. -/
theorem test_meets_Fsync :
    (∃ (s : State) (n : Fin 8) (val : Word), (s.flag (TIME_FSYNC_CTRL_EN n) = false) ∧ (val.toNat.testBit 0 = true) ∧ (1000 ≤ s.get (TIME_FSYNC_PERIOD n)) ∧ (1 ≤ s.get (TIME_FSYNC_WIDTH n) ∧ s.get (TIME_FSYNC_WIDTH n) < s.get (TIME_FSYNC_PERIOD n)) ∧ (val.toNat.testBit 1 = false ∨ s.ringTime + 10000 ≤ s.fsyncStart n)) ∧
    (∃ (s : State) (n : Fin 8) (val : Word), (s.flag (TIME_FSYNC_CTRL_EN n) = false) ∧ (val.toNat.testBit 0 = true) ∧ (s.get (TIME_FSYNC_PERIOD n) < 1000 ∨ s.get (TIME_FSYNC_WIDTH n) < 1 ∨ s.get (TIME_FSYNC_PERIOD n) ≤ s.get (TIME_FSYNC_WIDTH n))) ∧
    (∃ (s : State) (n : Fin 8) (val : Word), (s.flag (TIME_FSYNC_CTRL_EN n) = false) ∧ (val.toNat.testBit 0 = true) ∧ (val.toNat.testBit 1 = true) ∧ (s.fsyncStart n < s.ringTime + 10000)) ∧
    (∃ (s : State) (n : Fin 8) (val : Word), (s.flag (TIME_FSYNC_CTRL_EN n) = true) ∧ (b2n (val.toNat.testBit 1) ≠ s.get (TIME_FSYNC_CTRL_ONCE n) ∨ val.toNat / 4 % 2 ≠ s.get (TIME_FSYNC_CTRL_POL n))) ∧
    (∃ (s : State) (n : Fin 8) (val : Word), (s.flag (TIME_FSYNC_CTRL_EN n) = true) ∧ (b2n (val.toNat.testBit 1) = s.get (TIME_FSYNC_CTRL_ONCE n)) ∧ (val.toNat / 4 % 2 = s.get (TIME_FSYNC_CTRL_POL n)) ∧ (val.toNat.testBit 0 = false)) ∧
    (∃ (s : State) (n : Fin 8), (s.fsyncDue n ≠ 0) ∧ (s.fsyncHold = true)) ∧
    (∃ (s : State) (n : Fin 8), (s.fsyncDue n ≠ 0) ∧ (s.fsyncHold = false)) ∧
    (∃ (s : State) (n : Fin 8), ((s.fsync n).held = true) ∧ (s.visBusy = false)) ∧
    (∃ (s : State) (n : Fin 8), ((s.fsync n).high = true)) ∧
    (∃ (s : State), (s.ringTime % 1000000000 ≤ 5) ∧ (s.flag TIME_CFG_PPS_OUT_EN = true) ∧ (s.time.ppsHigh = false)) ∧
    (∃ (s : State), (s.time.ppsHigh = true)) ∧
    (∃ (s : State), (s.flag TIME_CFG_PPS_IN_EN = true)) :=
  ⟨⟨(active.put (TIME_FSYNC_PERIOD 7) 1000).put (TIME_FSYNC_WIDTH 7) 999, 7, 5, by decide +kernel⟩,
   ⟨active, 7, 5, by decide +kernel⟩,
   ⟨active, 7, 3, by decide +kernel⟩,
   ⟨active.put (TIME_FSYNC_CTRL_EN 7) 1, 7, 5, by decide +kernel⟩,
   ⟨active.put (TIME_FSYNC_CTRL_EN 7) 1, 7, 0, by decide +kernel⟩,
   ⟨{ (active.put (TIME_FSYNC_CTRL_EN 7) 1).put (TIME_FSYNC_PERIOD 7) 1000 with node := { active.node with threat := 0x1FFFF }, vis := { active.vis with cams := [(0, { lines := [{}] })] } }, 7, by decide +kernel⟩,
   ⟨(active.put (TIME_FSYNC_CTRL_EN 7) 1).put (TIME_FSYNC_PERIOD 7) 1000, 7, by decide +kernel⟩,
   ⟨{ active with time := { active.time with fsync := [(7, { held := true })] } }, 7, by decide +kernel⟩,
   ⟨{ active with time := { active.time with fsync := [(7, { high := true })] } }, 7, by decide +kernel⟩,
   ⟨active.put TIME_CFG_PPS_OUT_EN 1, by decide +kernel⟩,
   ⟨{ active with time := { active.time with ppsHigh := true } }, by decide +kernel⟩,
   ⟨active.put TIME_CFG_PPS_IN_EN 1, by decide +kernel⟩⟩

/-- The hypotheses of `Obligations.EthernetPorts` are met, clause by clause. -/
theorem test_meets_EthernetPorts :
    (∃ (s : State) (port : Fin 16) (val : Word), (s.isUp dNET = true)) ∧
    (∃ (s : State) (port : Fin 16) (val : Word), (s.isUp dNET = true)) ∧
    (∃ (s : State) (port : Fin 16) (val : Word), (s.isUp dNET = true) ∧ ((val.toNat ||| 2 ^ 31) % 2 ^ 14 < 64)) ∧
    (∃ (s : State) (port : Fin 16), (s.ethState port = 6) ∧ (s.withdrawn (epEth port) = true) ∧ (s.dlv.work.all (fun w => w.ep != epEth port) = true) ∧ ((s.eth port).tx = none)) ∧
    (∃ (s : State) (link : Fin 4), (s.isUp dNET = true)) ∧
    (∃ (s : State) (port : Fin 16) (speed : Fin 3), (s.isUp dNET = true) ∧ (¬ ((s.riseBit NET_QS_STATUS (port / 4) 8 (32 + port / 4)).flag (NET_PORT_STATUS_LINK port) = true ∧ (s.riseBit NET_QS_STATUS (port / 4) 8 (32 + port / 4)).get (NET_PORT_STATUS_SPEED port) = speed.val + 1))) ∧
    (∃ (s : State) (port : Fin 16) (link full : Bool) (speed : Fin 3), (s.isUp dNET = true) ∧ (link = false ∨ full = false)) ∧
    (∃ (s : State) (port : Fin 16) (speed : Fin 3), (s.isUp dNET = true) ∧ ((s.riseBit NET_QS_STATUS (port / 4) 8 (32 + port / 4)).flag (NET_PORT_STATUS_LINK port) = true) ∧ ((s.riseBit NET_QS_STATUS (port / 4) 8 (32 + port / 4)).get (NET_PORT_STATUS_SPEED port) = speed.val + 1)) ∧
    (∃ (s : State) (port : Fin 16), (s.isUp dNET = true) ∧ (s.ethState port = 1) ∧ (s.flag (NET_PORT_STATUS_LINK port) = true)) ∧
    (∃ (s : State) (port : Fin 16) (quanta : BitVec 16), (s.isUp dNET = true) ∧ (s.flag (NET_PORT_STATUS_LINK port) = true) ∧ (s.ethState port ≠ 0)) ∧
    (∃ (s : State) (port : Fin 16), (s.isUp dNET = true) ∧ (s.ethState port = 5)) ∧
    (∃ (s : State) (port : Fin 16), (s.isUp dNET = true) ∧ ((s.eth port).pauseSent = true) ∧ (s.pauseCause port = true)) ∧
    (∃ (s : State) (port : Fin 16), (s.isUp dNET = true) ∧ (s.pauseCause port = false)) ∧
    (∃ (s : State) (port : Fin 16) (src sq wsn : Nat), ((s.eth port).tx = some (src, sq, wsn))) ∧
    (∃ (s : State) (port : Fin 16) (bytes : List Byte), (s.isUp dNET = false ∨ s.isDraining dNET = true ∨ s.flag (NET_PORT_STATUS_LINK port) = false ∨ s.ethState port = 0 ∨ s.ethState port = 1 ∨ s.ethState port = 7)) ∧
    (∃ (s : State) (port : Fin 16) (bytes : List Byte), (s.isUp dNET = true ∧ s.isDraining dNET = false) ∧ (s.flag (NET_PORT_STATUS_LINK port) = true) ∧ (s.ethState port ≠ 0 ∧ s.ethState port ≠ 1 ∧ s.ethState port ≠ 7) ∧ (bytes.length < 64)) ∧
    (∃ (s : State) (port : Fin 16) (bytes : List Byte), (s.isUp dNET = true ∧ s.isDraining dNET = false) ∧ (s.flag (NET_PORT_STATUS_LINK port) = true) ∧ (s.ethState port ≠ 0 ∧ s.ethState port ≠ 1 ∧ s.ethState port ≠ 7) ∧ (64 ≤ bytes.length) ∧ (s.get (NET_PORT_CFG_MAX_FRAME port) < bytes.length)) ∧
    (∃ (s : State) (port : Fin 16) (bytes : List Byte), (s.isUp dNET = true ∧ s.isDraining dNET = false) ∧ (s.flag (NET_PORT_STATUS_LINK port) = true) ∧ (s.ethState port ≠ 0 ∧ s.ethState port ≠ 1 ∧ s.ethState port ≠ 7) ∧ (64 ≤ bytes.length ∧ bytes.length ≤ s.get (NET_PORT_CFG_MAX_FRAME port)) ∧ (crc32 (bytes.take (bytes.length - 4)) ≠ leAt bytes (bytes.length - 4) 4)) ∧
    (∃ (s : State) (port : Fin 16) (bytes : List Byte), (s.isUp dNET = true ∧ s.isDraining dNET = false) ∧ (s.flag (NET_PORT_STATUS_LINK port) = true) ∧ (s.ethState port ≠ 0 ∧ s.ethState port ≠ 1 ∧ s.ethState port ≠ 7) ∧ (64 ≤ bytes.length ∧ bytes.length ≤ s.get (NET_PORT_CFG_MAX_FRAME port)) ∧ (crc32 (bytes.take (bytes.length - 4)) = leAt bytes (bytes.length - 4) 4)) :=
  ⟨⟨active, 15, 64, by decide +kernel⟩,
   ⟨active, 15, 64, by decide +kernel⟩,
   ⟨active, 15, 63, by decide +kernel⟩,
   ⟨active.put (NET_PORT_STATUS_STATE 15) 6, 15, by decide +kernel⟩,
   ⟨active, 3, by decide +kernel⟩,
   ⟨active, 15, 2, by decide +kernel⟩,
   ⟨active, 15, true, false, 2, by decide +kernel⟩,
   ⟨(active.put (NET_PORT_STATUS_LINK 15) 1).put (NET_PORT_STATUS_SPEED 15) 3, 15, 2, by decide +kernel⟩,
   ⟨(active.put (NET_PORT_STATUS_STATE 15) 1).put (NET_PORT_STATUS_LINK 15) 1, 15, by decide +kernel⟩,
   ⟨(active.put (NET_PORT_STATUS_STATE 15) 1).put (NET_PORT_STATUS_LINK 15) 1, 15, 0, by decide +kernel⟩,
   ⟨active.put (NET_PORT_STATUS_STATE 15) 5, 15, by decide +kernel⟩,
   ⟨{ active.setEth 15 { pauseSent := true } with node := { active.node with threat := 0x1FFFF } }, 15, by decide +kernel⟩,
   ⟨active.put (PLD_IN_SHR_SHR_MAX 28) 9, 15, by decide +kernel⟩,
   ⟨active.setEth 15 { tx := some (1, 2, 3) }, 15, 1, 2, 3, by decide +kernel⟩,
   ⟨active, 15, [], by decide +kernel⟩,
   ⟨(active.put (NET_PORT_STATUS_STATE 15) 2).put (NET_PORT_STATUS_LINK 15) 1, 15, [], by decide +kernel⟩,
   ⟨((active.put (NET_PORT_STATUS_STATE 15) 2).put (NET_PORT_STATUS_LINK 15) 1).put (NET_PORT_CFG_MAX_FRAME 15) 64, 15, List.replicate 65 0, by decide +kernel⟩,
   ⟨((active.put (NET_PORT_STATUS_STATE 15) 2).put (NET_PORT_STATUS_LINK 15) 1).put (NET_PORT_CFG_MAX_FRAME 15) 64, 15, List.replicate 64 0, by decide +kernel⟩,
   ⟨((active.put (NET_PORT_STATUS_STATE 15) 2).put (NET_PORT_STATUS_LINK 15) 1).put (NET_PORT_CFG_MAX_FRAME 15) 64, 15, List.replicate 60 0 ++ leBytes 4 (crc32 (List.replicate 60 0)), by decide +kernel⟩⟩

/-- The hypotheses of `Obligations.FieldPins` are met, clause by clause. -/
theorem test_meets_FieldPins :
    (∃ (s : State) (n : Fin 6) (p : Fin 64) (val : Word), (s.isUp (dFC n) = true)) ∧
    (∃ (s : State) (n : Fin 6) (p : Fin 64) (val : Word), (s.isUp (dFC n) = true) ∧ (val.toNat % 4 ≠ 1) ∧ (s.get (FC_PIN_CFG_FUNC n p) = 1) ∧ (s.groupRuns n (p / 16) = true)) ∧
    (∃ (s : State) (n : Fin 6) (m : Fin 2) (val : Word), (s.isUp (dFC n) = true)) ∧
    (∃ (s : State) (n : Fin 6) (m : Fin 2) (val : Word), (s.isUp (dFC n) = true)) ∧
    (∃ (s : State) (n : Fin 6) (p : Fin 64) (val : Word), (s.isUp (dFC n) = true)) ∧
    (∃ (s : State) (n : Fin 6) (p : Fin 64) (w : Work), (s.dlv.work.find? (fun w => w.ep == epLine n p && w.opcode == 0x10 && !w.taken) = some w) ∧ (s.isUp (dFC n) = true) ∧ ((s.line n p).queue.length < 8)) ∧
    (∃ (s : State) (n : Fin 6) (p : Fin 64) (k : Nat × Nat × Nat) (late : Bool) (w : Work), ((s.line n p).queue = [(k, late)]) ∧ (s.workAt k = some w) ∧ (s.emits (dFC n) = true ∧ s.ownsPins = true) ∧ (s.epDown (epLine n p) = false) ∧ (w.param ≤ s.ringTime)) ∧
    (∃ (s : State) (n : Fin 6) (p : Fin 64) (level : Bool), (s.isUp (dFC n) = true)) ∧
    (∃ (s : State) (n : Fin 6) (p : Fin 64) (level : Bool) (time : Nat), (s.isUp (dFC n) = true) ∧ ((s.line n p).deb = some (level, time))) ∧
    (∃ (s : State) (n : Fin 6) (p : Fin 64), ((s.line n p).loan ≠ [])) :=
  ⟨⟨active, 5, 63, 1, by decide +kernel⟩,
   ⟨(active.put (FC_PIN_CFG_FUNC 5 63) 1).put (FC_PIO_STATE_RUNNING 5 3) 1, 5, 63, 0, by decide +kernel⟩,
   ⟨active, 5, 1, 0x80000000, by decide +kernel⟩,
   ⟨active, 5, 1, 0x80000000, by decide +kernel⟩,
   ⟨active, 5, 63, 1, by decide +kernel⟩,
   ⟨withWork [{ ep := epLine 5 63, opcode := 0x10 }], 5, 63, { ep := epLine 5 63, opcode := 0x10 }, by decide +kernel⟩,
   ⟨((withWork [{ ep := epLine 5 63, opcode := 0x10 }]).put GLB_PSW_OWN 1).setLine 5 63 { queue := [((0, 0, 0), true)] }, 5, 63, (0, 0, 0), true, { ep := epLine 5 63, opcode := 0x10 }, by decide +kernel⟩,
   ⟨active, 5, 63, true, by decide +kernel⟩,
   ⟨active.setLine 5 63 { deb := some (true, 4) }, 5, 63, true, 4, by decide +kernel⟩,
   ⟨active.setLine 5 63 { loan := [0] }, 5, 63, by decide +kernel⟩⟩

/-- The hypotheses of `Obligations.PortFifos` are met, clause by clause. -/
theorem test_meets_PortFifos :
    (∃ (s : State) (n : Fin 6) (q : Fin 32) (ws rest : List FWord) (w : FWord), (s.isUp (dFC n) = true) ∧ (s.isDraining (dFC n) = false) ∧ (takePacket (s.portSt n q).rx.swap.draining = (ws, rest)) ∧ (ws.getLast? = some w)) ∧
    (∃ (s : State) (n : Fin 6) (q : Fin 32), (s.isUp (dFC n) = true)) ∧
    (∃ (s : State) (n : Fin 6) (q : Fin 32), (s.isUp (dFC n) = true)) ∧
    (∃ (s : State) (n : Fin 6) (q : Fin 32), (s.isUp (dFC n) = true)) ∧
    (∃ (s : State) (n : Fin 6) (q : Fin 32), (s.isUp (dFC n) = true) ∧ ((s.portSt n q).rxLen = 0)) ∧
    (∃ (s : State) (n : Fin 6) (q : Fin 32), (s.isUp (dFC n) = true) ∧ ((s.portSt n q).rxLen ≠ 0)) ∧
    (∃ (s : State) (n : Fin 6) (q : Fin 32), (s.isUp (dFC n) = true) ∧ ((s.portSt n q).txPkt = none)) ∧
    (∃ (s : State) (n : Fin 6) (q : Fin 32) (k : Nat × Nat × Nat) (last : Bool), (s.isUp (dFC n) = true) ∧ ((s.portSt n q).txPkt = some (k, last))) :=
  ⟨⟨active.setPortSt 5 31 { rx := { draining := [{ bytes := [1], eop := true }] } }, 5, 31, [{ bytes := [1], eop := true }], [], { bytes := [1], eop := true }, by decide +kernel⟩,
   ⟨active, 5, 31, by decide +kernel⟩,
   ⟨active, 5, 31, by decide +kernel⟩,
   ⟨active, 5, 31, by decide +kernel⟩,
   ⟨active, 5, 31, by decide +kernel⟩,
   ⟨active.setPortSt 5 31 { rxLen := 1 }, 5, 31, by decide +kernel⟩,
   ⟨active, 5, 31, by decide +kernel⟩,
   ⟨active.setPortSt 5 31 { txPkt := some ((1, 2, 3), false) }, 5, 31, (1, 2, 3), false, by decide +kernel⟩⟩

/-- The hypotheses of `Obligations.PioPins` are met, clause by clause. -/
theorem test_meets_PioPins :
    (∃ (s : State) (n : Fin 6) (g : Fin 4) (e : Fin 8) (rx : List Bool) (cut : Fin 32) (lost : BitVec 16), (s.pioMay n g e 0x0 = true) ∧ (s.pioPauses n g e = false)) ∧
    (∃ (s : State) (n : Fin 6) (g : Fin 4) (e : Fin 8) (rx : List Bool) (cut : Fin 32) (lost : BitVec 16), (s.pioMay n g e 0x0 = false)) ∧
    (∃ (s : State) (n : Fin 6) (g : Fin 4) (e : Fin 8) (rx : List Bool) (cut : Fin 32) (lost : BitVec 16), (s.pioMay n g e 0x0 = true) ∧ (s.pioPauses n g e = true)) ∧
    (∃ (s : State) (n : Fin 6) (g : Fin 4) (e : Fin 8) (lost : BitVec 16), (s.pioMay n g e 0x1 = true) ∧ (s.pioPauses n g e = false)) ∧
    (∃ (s : State) (n : Fin 6) (g : Fin 4) (e : Fin 8) (lost : BitVec 16), (s.pioMay n g e 0x1 = true) ∧ (s.pioPauses n g e = true)) ∧
    (∃ (s : State) (n : Fin 6) (g : Fin 4) (e : Fin 8) (lost : BitVec 16), (s.pioMay n g e 0x1 = false)) ∧
    (∃ (s : State) (n : Fin 6) (g : Fin 4) (e : Fin 8), (s.pioMay n g e 0x3 = true) ∧ (s.pioPauses n g e = false)) ∧
    (∃ (s : State) (n : Fin 6) (g : Fin 4) (e : Fin 8) , (s.pioMay n g e 0x3 = false)) ∧
    (∃ (s : State) (n : Fin 6) (g : Fin 4) (e : Fin 8) , (s.pioMay n g e 0x3 = true) ∧ (s.pioPauses n g e = true)) ∧
    (∃ (s : State) (n : Fin 6) (g : Fin 4) (e : Fin 8), (s.pioMay n g e 0x7 = true) ∧ (s.pioPauses n g e = false)) ∧
    (∃ (s : State) (n : Fin 6) (g : Fin 4) (e : Fin 8) , (s.pioMay n g e 0x7 = false)) ∧
    (∃ (s : State) (n : Fin 6) (g : Fin 4) (e : Fin 8) , (s.pioMay n g e 0x7 = true) ∧ (s.pioPauses n g e = true)) ∧
    (∃ (s : State) (n : Fin 6) (g : Fin 4) (e : Fin 8), (s.pioMay n g e 0x8 = true) ∧ (s.pioPauses n g e = false)) ∧
    (∃ (s : State) (n : Fin 6) (g : Fin 4) (e : Fin 8) , (s.pioMay n g e 0x8 = false)) ∧
    (∃ (s : State) (n : Fin 6) (g : Fin 4) (e : Fin 8) , (s.pioMay n g e 0x8 = true) ∧ (s.pioPauses n g e = true)) :=
  ⟨⟨engine 0x00000008, 5, 3, 7, [], 0, 0, by decide +kernel⟩,
   ⟨active, 5, 3, 7, [], 0, 0, by decide +kernel⟩,
   ⟨{ engine 0x00000008 with node := { active.node with paused := true } }, 5, 3, 7, [], 0, 0, by decide +kernel⟩,
   ⟨engine 0x10A08000, 5, 3, 7, 0, by decide +kernel⟩,
   ⟨{ engine 0x10A08000 with node := { active.node with paused := true } }, 5, 3, 7, 0, by decide +kernel⟩,
   ⟨active, 5, 3, 7, 0, by decide +kernel⟩,
   ⟨engine 0x30A0007F, 5, 3, 7, by decide +kernel⟩,
   ⟨active, 5, 3, 7, by decide +kernel⟩,
   ⟨{ engine 0x30A0007F with node := { active.node with paused := true } }, 5, 3, 7, by decide +kernel⟩,
   ⟨engine 0x70C0FFFF, 5, 3, 7, by decide +kernel⟩,
   ⟨active, 5, 3, 7, by decide +kernel⟩,
   ⟨{ engine 0x70C0FFFF with node := { active.node with paused := true } }, 5, 3, 7, by decide +kernel⟩,
   ⟨engine 0x80980000, 5, 3, 7, by decide +kernel⟩,
   ⟨active, 5, 3, 7, by decide +kernel⟩,
   ⟨{ engine 0x80980000 with node := { active.node with paused := true } }, 5, 3, 7, by decide +kernel⟩⟩

/-- The hypotheses of `Obligations.PioFrames` are met, clause by clause. -/
theorem test_meets_PioFrames :
    (∃ (s : State) (n : Fin 6) (g : Fin 4) (e : Fin 8), (s.pioMay n g e 0x4 = true) ∧ (s.pioPauses n g e = false)) ∧
    (∃ (s : State) (n : Fin 6) (g : Fin 4) (e : Fin 8) , (s.pioMay n g e 0x4 = false)) ∧
    (∃ (s : State) (n : Fin 6) (g : Fin 4) (e : Fin 8), (s.isUp (dFC n) = true) ∧ (s.engState n g e = 2) ∧ ((s.eng n g e).stall = .pull) ∧ (opOf (s.pioWord n g e) = 0x4)) ∧
    (∃ (s : State) (n : Fin 6) (g : Fin 4) (e : Fin 8), (s.isUp (dFC n) = true) ∧ (s.engState n g e = 2) ∧ ((s.eng n g e).stall = .pull) ∧ (opOf (s.pioWord n g e) ≠ 0x4)) ∧
    (∃ (s : State) (n : Fin 6) (g : Fin 4) (e : Fin 8), (s.pioMay n g e 0x4 = true) ∧ (s.pioPauses n g e = false) ∧ (((s.portSt n (s.txPort n g e)).pull (bitsOf (s.pioWord n g e) 0 3)).2.2.1 = true)) ∧
    (∃ (s : State) (n : Fin 6) (g : Fin 4) (e : Fin 8) , (s.pioMay n g e 0x4 = false)) ∧
    (∃ (s : State) (n : Fin 6) (g : Fin 4) (e : Fin 8), (s.pioMay n g e 0x5 = true) ∧ (s.pioPauses n g e = false)) ∧
    (∃ (s : State) (n : Fin 6) (g : Fin 4) (e : Fin 8) , (s.pioMay n g e 0x5 = false)) ∧
    (∃ (s : State) (n : Fin 6) (g : Fin 4) (e : Fin 8) , (s.pioMay n g e 0x5 = true) ∧ (s.pioPauses n g e = true)) ∧
    (∃ (s : State) (n : Fin 6) (g : Fin 4) (e : Fin 8), (s.pioMay n g e 0x6 = true) ∧ (s.pioPauses n g e = false)) ∧
    (∃ (s : State) (n : Fin 6) (g : Fin 4) (e : Fin 8) , (s.pioMay n g e 0x6 = false)) ∧
    (∃ (s : State) (n : Fin 6) (g : Fin 4) (e : Fin 8) , (s.pioMay n g e 0x6 = true) ∧ (s.pioPauses n g e = true)) ∧
    (∃ (s : State) (n : Fin 6) (g : Fin 4) (e : Fin 8), (s.pioMay n g e 0x9 = true) ∧ (s.pioPauses n g e = false)) ∧
    (∃ (s : State) (n : Fin 6) (g : Fin 4) (e : Fin 8) , (s.pioMay n g e 0x9 = false)) ∧
    (∃ (s : State) (n : Fin 6) (g : Fin 4) (e : Fin 8) , (s.pioMay n g e 0x9 = true) ∧ (s.pioPauses n g e = true)) ∧
    (∃ (s : State) (n : Fin 6) (g : Fin 4) (e : Fin 8), (s.pioMay n g e 0xA = true) ∧ (s.pioPauses n g e = false)) ∧
    (∃ (s : State) (n : Fin 6) (g : Fin 4) (e : Fin 8) , (s.pioMay n g e 0xA = false)) ∧
    (∃ (s : State) (n : Fin 6) (g : Fin 4) (e : Fin 8) , (s.pioMay n g e 0xA = true) ∧ (s.pioPauses n g e = true)) ∧
    (∃ (s : State) (n : Fin 6) (g : Fin 4) (e : Fin 8), (s.isUp (dFC n) = true) ∧ (s.engState n g e = 1) ∧ ((s.eng n g e).delay = false) ∧ (s.pioLegal n g e (s.pioWord n g e) = false)) :=
  ⟨⟨portEngine 0x40000004, 5, 3, 7, by decide +kernel⟩,
   ⟨active, 5, 3, 7, by decide +kernel⟩,
   ⟨((portEngine 0x40000004).setEngState 5 3 7 2).setEng 5 3 7 { stall := .pull }, 5, 3, 7, by decide +kernel⟩,
   ⟨((portEngine 0x00020008).setEngState 5 3 7 2).setEng 5 3 7 { stall := .pull }, 5, 3, 7, by decide +kernel⟩,
   ⟨portEngine 0x40000004, 5, 3, 7, by decide +kernel⟩,
   ⟨active, 5, 3, 7, by decide +kernel⟩,
   ⟨portEngine 0x50000104, 5, 3, 7, by decide +kernel⟩,
   ⟨active, 5, 3, 7, by decide +kernel⟩,
   ⟨{ (portEngine 0x50000104).put (FC_PIO_ENG_PORTS_TX_USE 5 3 7) 0 with node := { active.node with paused := true } }, 5, 3, 7, by decide +kernel⟩,
   ⟨engine 0x60000F07, 5, 3, 7, by decide +kernel⟩,
   ⟨active, 5, 3, 7, by decide +kernel⟩,
   ⟨{ engine 0x60000F07 with node := { active.node with paused := true } }, 5, 3, 7, by decide +kernel⟩,
   ⟨engine 0x90000000, 5, 3, 7, by decide +kernel⟩,
   ⟨active, 5, 3, 7, by decide +kernel⟩,
   ⟨{ engine 0x90000000 with node := { active.node with paused := true } }, 5, 3, 7, by decide +kernel⟩,
   ⟨engine 0xA0000000, 5, 3, 7, by decide +kernel⟩,
   ⟨active, 5, 3, 7, by decide +kernel⟩,
   ⟨{ engine 0xA0000000 with node := { active.node with paused := true } }, 5, 3, 7, by decide +kernel⟩,
   ⟨engine 0xB0000000, 5, 3, 7, by decide +kernel⟩⟩

/-- The hypotheses of `Obligations.PioWaits` are met, clause by clause. -/
theorem test_meets_PioWaits :
    (∃ (s : State) (n : Fin 6) (g : Fin 4) (e : Fin 8) (onTick : Bool), (s.pioMay n g e 0x2 = true) ∧ (s.pioPauses n g e = false) ∧ ((s.setEng n g e { s.eng n g e with waitAt := s.tick }).waitHolds n g e (s.pioWord n g e) onTick = true) ∧ ((s.eng n g e).freeWait = false)) ∧
    (∃ (s : State) (n : Fin 6) (g : Fin 4) (e : Fin 8) (onTick : Bool), (s.pioMay n g e 0x2 = true) ∧ (s.pioPauses n g e = false) ∧ ((s.setEng n g e { s.eng n g e with waitAt := s.tick }).waitHolds n g e (s.pioWord n g e) onTick = false ∨ (s.eng n g e).freeWait = true)) ∧
    (∃ (s : State) (n : Fin 6) (g : Fin 4) (e : Fin 8) (onTick : Bool), (s.pioMay n g e 0x2 = false)) ∧
    (∃ (s : State) (n : Fin 6) (g : Fin 4) (e : Fin 8) (onTick : Bool), (s.pioMay n g e 0x2 = true) ∧ (s.pioPauses n g e = true)) ∧
    (∃ (s : State) (n : Fin 6) (g : Fin 4) (e : Fin 8) (onTick : Bool), (s.isUp (dFC n) = true) ∧ (s.engState n g e = 2) ∧ ((s.eng n g e).stall = .wait) ∧ (s.waitHolds n g e (s.pioWord n g e) onTick = true)) ∧
    (∃ (s : State) (n : Fin 6) (g : Fin 4) (e : Fin 8), (s.isUp (dFC n) = true) ∧ (s.engState n g e = 1) ∧ ((s.eng n g e).delay = true)) ∧
    (∃ (s : State) (n : Fin 6) (g : Fin 4) (e : Fin 8) (rx : List Bool) (cut : Fin 32) (lost : BitVec 16), (s.isUp (dFC n) = true) ∧ (s.engState n g e = 2) ∧ ((s.eng n g e).stall = .stretch)) ∧
    (∃ (s : State) (n : Fin 6) (g : Fin 4) (e : Fin 8) (rise : Bool), (s.isUp (dFC n) = true)) ∧
    (∃ (s : State) (n : Fin 6) (g : Fin 4) (e : Fin 8), (s.isUp (dFC n) = true) ∧ (s.engState n g e = 2) ∧ ((s.eng n g e).stall = .wait) ∧ (s.get (FC_PIO_ENG_TIMING_EOP_IDLE n g e) ≠ 0) ∧ (s.flag (FC_PIO_ENG_PORTS_RX_USE n g e) = true)) :=
  ⟨⟨engine 0x20200000, 5, 3, 7, false, by decide +kernel⟩,
   ⟨engine 0x20000000, 5, 3, 7, false, by decide +kernel⟩,
   ⟨active, 5, 3, 7, false, by decide +kernel⟩,
   ⟨{ engine 0x20000000 with node := { active.node with paused := true } }, 5, 3, 7, false, by decide +kernel⟩,
   ⟨((engine 0x20200000).setEngState 5 3 7 2).setEng 5 3 7 { stall := .wait }, 5, 3, 7, false, by decide +kernel⟩,
   ⟨(engine 0).setEng 5 3 7 { delay := true }, 5, 3, 7, by decide +kernel⟩,
   ⟨((engine 0).setEngState 5 3 7 2).setEng 5 3 7 { stall := .stretch }, 5, 3, 7, [], 0, 0, by decide +kernel⟩,
   ⟨active, 5, 3, 7, true, by decide +kernel⟩,
   ⟨((((portEngine 0x20000000).setEngState 5 3 7 2).setEng 5 3 7 { stall := .wait }).put (FC_PIO_ENG_TIMING_EOP_IDLE 5 3 7) 1).setPortSt 5 24 { rxLen := 1 }, 5, 3, 7, by decide +kernel⟩⟩

/-- The hypotheses of `Obligations.PioControl` are met, clause by clause. -/
theorem test_meets_PioControl :
    (∃ (s : State) (n : Fin 6) (g : Fin 4) (val : Word), (s.isUp (dFC n) = true)) ∧
    (∃ (s : State) (n : Fin 6) (g : Fin 4) (val : Word), (s.isUp (dFC n) = true)) ∧
    (∃ (s : State) (n : Fin 6) (g : Fin 4) (val : Word), (s.isUp (dFC n) = true) ∧ ((s.group n g).sync.isSome = true)) ∧
    (∃ (s : State) (n : Fin 6) (g : Fin 4) (start restart : Nat), ((s.group n g).sync = some (start, restart)) ∧ (s.get64 (FC_PIO_SYNC_TIME_LO n g) (FC_PIO_SYNC_TIME_HI n g) ≤ s.ringTime)) ∧
    (∃ (s : State) (n : Fin 6) (g : Fin 4) (mask : BitVec 8) (cuts : List (Nat × Nat × List Bool)), (s.isUp (dFC n) = true)) ∧
    (∃ (s : State) (n : Fin 6) (g : Fin 4) (val : Word), (s.isUp (dFC n) = true)) ∧
    (∃ (s : State) (n : Fin 6) (g : Fin 4) (val : Word), (s.isUp (dFC n) = true)) ∧
    (∃ (s : State) (n : Fin 6) (g : Fin 4) (w : Fin 128) (val : Word), (s.isUp (dFC n) = true) ∧ (val.toNat = s.get (FC_PIO_PROG n g w) ∨ (List.range 8).any (fun e => s.engState n g e != 0 && s.inRegion n g e w) = false)) ∧
    (∃ (s : State) (n : Fin 6) (g : Fin 4) (w : Fin 128) (val : Word), (s.isUp (dFC n) = true) ∧ (val.toNat ≠ s.get (FC_PIO_PROG n g w)) ∧ ((List.range 8).any (fun e => s.engState n g e != 0 && s.inRegion n g e w) = true)) :=
  ⟨⟨active, 5, 3, 0x80, by decide +kernel⟩,
   ⟨active, 5, 3, 0x8000, by decide +kernel⟩,
   ⟨active.setGroup 5 3 { sync := some (0, 0) }, 5, 3, 0x80, by decide +kernel⟩,
   ⟨active.setGroup 5 3 { sync := some (128, 1) }, 5, 3, 128, 1, by decide +kernel⟩,
   ⟨active, 5, 3, 255, [], by decide +kernel⟩,
   ⟨active, 5, 3, 255, by decide +kernel⟩,
   ⟨active, 5, 3, 255, by decide +kernel⟩,
   ⟨active, 5, 3, 127, 5, by decide +kernel⟩,
   ⟨engine 0, 5, 3, 127, 5, by decide +kernel⟩⟩

/-- The hypotheses of `Obligations.CanStates` are met, clause by clause. -/
theorem test_meets_CanStates :
    (∃ (s : State) (n : Fin 6) (c : Fin 8) (val : Word), (s.isUp (dFC n) = true)) ∧
    (∃ (s : State) (n : Fin 6) (c : Fin 8) (val : Word), (s.isUp (dFC n) = true)) ∧
    (∃ (s : State) (n : Fin 6) (c : Fin 8) (val : Word), (s.isUp (dFC n) = true) ∧ (bitsOf (val.toNat ||| 2 ^ 31) 0 9 = 0)) ∧
    (∃ (s : State) (n : Fin 6) (c : Fin 8), (s.isUp (dFC n) = true) ∧ (s.canState n c = 4)) ∧
    (∃ (s : State) (n : Fin 6) (c : Fin 8), (s.isUp (dFC n) = true) ∧ (s.canState n c = 2 ∨ s.canState n c = 3) ∧ ((s.can n c).objs.any (fun e => e.2.requested) = false)) ∧
    (∃ (s : State) (n : Fin 6) (c : Fin 8), (s.isUp (dFC n) = true) ∧ (s.canState n c = 2 ∨ s.canState n c = 3)) ∧
    (∃ (s : State) (n : Fin 6) (c : Fin 8), (s.isUp (dFC n) = true) ∧ (s.canState n c = 6)) ∧
    (∃ (s : State) (n : Fin 6) (c : Fin 8), (s.isUp (dFC n) = true) ∧ (s.canState n c = 6)) ∧
    (∃ (s : State) (n : Fin 6) (c : Fin 8), (s.isUp (dFC n) = true) ∧ ((s.setCan n c { s.can n c with waiting := false }).canState n c = 1)) ∧
    (∃ (s : State) (n : Fin 6) (c : Fin 8), (s.isUp (dFC n) = true) ∧ (s.canState n c = 5)) ∧
    (∃ (s : State) (req : Requester) (n : Fin 6) (c : Fin 8) (j : Fin 128), (s.accessible (dFC n) = true)) :=
  ⟨⟨active, 5, 7, 1, by decide +kernel⟩,
   ⟨active, 5, 7, 1, by decide +kernel⟩,
   ⟨active, 5, 7, 0x200, by decide +kernel⟩,
   ⟨active.setCanState 5 7 4, 5, 7, by decide +kernel⟩,
   ⟨active.setCanState 5 7 3, 5, 7, by decide +kernel⟩,
   ⟨active.setCanState 5 7 3, 5, 7, by decide +kernel⟩,
   ⟨active.setCanState 5 7 6, 5, 7, by decide +kernel⟩,
   ⟨active.setCanState 5 7 6, 5, 7, by decide +kernel⟩,
   ⟨active.setCanState 5 7 1, 5, 7, by decide +kernel⟩,
   ⟨active.setCanState 5 7 5, 5, 7, by decide +kernel⟩,
   ⟨active, .host, 5, 7, 127, by decide +kernel⟩⟩

/-- The hypotheses of `Obligations.CanSend` are met, clause by clause. -/
theorem test_meets_CanSend :
    (∃ (s : State) (n : Fin 6) (c : Fin 8), (s.isUp (dFC n) = true) ∧ (s.canState n c ≠ 0)) ∧
    (∃ (s : State) (n : Fin 6) (c : Fin 8) (j : Fin 128) (o : CanObj) (w : Work), (SMap.find (s.can n c).objs j = some o) ∧ (s.workAt o.key = some w) ∧ (s.isUp (dFC n) = true) ∧ (w.param ≤ s.ringTime)) ∧
    (∃ (s : State) (n : Fin 6) (c : Fin 8) (newer : List (Fin 128)) (j : Nat), (s.canAttempt n c newer = some j)) ∧
    (∃ (s : State) (n : Fin 6) (c : Fin 8) (newer : List (Fin 128)) (loop ago : Nat) (j : Nat), (s.canAttempt n c newer = some j)) ∧
    (∃ (s : State) (n : Fin 6) (c : Fin 8) (newer : List (Fin 128)) (lec : Fin 7) (dTec dRec : Fin 9) (dup : Bool) (loop : Nat) (j : Nat), (s.canAttempt n c newer = some j)) ∧
    (∃ (s : State) (n : Fin 6) (c : Fin 8) (newer : List (Fin 128)) (lec : Fin 7) (dTec dRec : Fin 9) (dup : Bool) (loop : Nat), (s.isUp (dFC n) = true) ∧ ((s.can n c).last.isSome = true)) ∧
    (∃ (s : State) (n : Fin 6) (c : Fin 8) (j : Fin 128) (o : CanObj), (SMap.find (s.can n c).objs j = some o) ∧ (o.held.isSome = true)) ∧
    (∃ (s : State) (n : Fin 6) (c : Fin 8) (j : Fin 128) (won : Bool), (s.isUp (dFC n) = true) ∧ (s.get (FC_CAN_CANCEL_RESULT_RESULT n c) = 3)) ∧
    (∃ (s : State) (n : Fin 6) (c : Fin 8) (j : Fin 128) (won : Bool), (s.isUp (dFC n) = true)) :=
  ⟨⟨active.setCanState 5 7 2, 5, 7, by decide +kernel⟩,
   ⟨(withWork [{ ep := epCan 5 7, opcode := 0x10 }]).setCan 5 7 { objs := [(127, {})] }, 5, 7, 127, {}, { ep := epCan 5 7, opcode := 0x10 }, by decide +kernel⟩,
   ⟨((active.put GLB_PSW_OWN 1).setCanState 5 7 2).setCan 5 7 { objs := [(127, { requested := true })] }, 5, 7, [], 127, by decide +kernel⟩,
   ⟨((active.put GLB_PSW_OWN 1).setCanState 5 7 2).setCan 5 7 { objs := [(127, { requested := true })] }, 5, 7, [], 0, 0, 127, by decide +kernel⟩,
   ⟨((active.put GLB_PSW_OWN 1).setCanState 5 7 2).setCan 5 7 { objs := [(127, { requested := true })] }, 5, 7, [], 6, 8, 0, true, 1, 127, by decide +kernel⟩,
   ⟨((active.put GLB_PSW_OWN 1).setCanState 5 7 2).setCan 5 7 { last := some (127, false) }, 5, 7, [], 6, 8, 0, true, 1, by decide +kernel⟩,
   ⟨active.setCan 5 7 { objs := [(127, { held := some 1 })] }, 5, 7, 127, { held := some 1 }, by decide +kernel⟩,
   ⟨active.put (FC_CAN_CANCEL_RESULT_RESULT 5 7) 3, 5, 7, 127, true, by decide +kernel⟩,
   ⟨active, 5, 7, 127, true, by decide +kernel⟩⟩

/-- The hypotheses of `Obligations.CanReceive` are met, clause by clause. -/
theorem test_meets_CanReceive :
    (∃ (s : State) (n : Fin 6) (c : Fin 8) (ident : Word) (fdf brs esi : Bool) (dlc : Fin 16) (bytes : List Byte) (ago : Nat) (j : Nat), (s.canOnBus n c = true) ∧ ((s.can n c).waiting = false) ∧ (fdf = true → s.flag (FC_CAN_CFG_FD_EN n c) = true) ∧ ((s.recAfterFrame n c).canFilter n c (clearBit ident.toNat 29) = some j)) ∧
    (∃ (s : State) (n : Fin 6) (c : Fin 8) (ident : Word) (fdf brs esi : Bool) (dlc : Fin 16) (bytes : List Byte) (ago : Nat), (s.canOnBus n c = true) ∧ ((s.can n c).waiting = false) ∧ (fdf = true → s.flag (FC_CAN_CFG_FD_EN n c) = true) ∧ ((s.recAfterFrame n c).canFilter n c (clearBit ident.toNat 29) = none)) ∧
    (∃ (s : State) (n : Fin 6) (c : Fin 8) (ident : Word) (fdf brs esi : Bool) (dlc : Fin 16) (bytes : List Byte) (ago : Nat), (s.canOnBus n c = false ∨ (s.can n c).waiting = true ∨ (fdf = true ∧ s.flag (FC_CAN_CFG_FD_EN n c) = false))) ∧
    (∃ (s : State) (n : Fin 6) (c : Fin 8), ((s.can n c).loan ≠ [])) ∧
    (∃ (s : State) (n : Fin 6) (c : Fin 8) (lec : Fin 7) (dTec dRec : Fin 9), (s.canOnBus n c = true) ∧ (s.flag (FC_CAN_CFG_RESTRICTED n c) = false)) ∧
    (∃ (s : State) (n : Fin 6) (c : Fin 8) (lec : Fin 7) (dTec dRec : Fin 9), (s.canOnBus n c = true) ∧ (s.flag (FC_CAN_CFG_RESTRICTED n c) = true)) :=
  ⟨⟨((active.setCanState 5 7 2).put (FC_CAN_CFG_NOMATCH_STORE 5 7) 1).put (FC_CAN_CFG_NOMATCH_OBJ 5 7) 127, 5, 7, 5, false, false, false, 0, [], 0, 127, by decide +kernel⟩,
   ⟨active.setCanState 5 7 3, 5, 7, 5, false, false, false, 0, [], 0, by decide +kernel⟩,
   ⟨active, 5, 7, 5, false, false, false, 0, [], 0, by decide +kernel⟩,
   ⟨active.setCan 5 7 { loan := [0] }, 5, 7, by decide +kernel⟩,
   ⟨active.setCanState 5 7 2, 5, 7, 6, 8, 8, by decide +kernel⟩,
   ⟨(active.setCanState 5 7 2).put (FC_CAN_CFG_RESTRICTED 5 7) 1, 5, 7, 6, 8, 8, by decide +kernel⟩⟩

/-- The hypotheses of `Obligations.SignalRouter` are met, clause by clause. -/
theorem test_meets_SignalRouter :
    (∃ (s : State) (i : SigIn) (rest : List SigIn), (s.routes = true) ∧ (s.sig.inputs = i :: rest)) ∧
    (∃ (s : State), (s.routes = false ∨ s.sig.inputs = [])) ∧
    (∃ (s : State) (src sq wsn : Nat) (w : Work), (s.routes = true) ∧ (s.readyWork src sq wsn 0x11 = some w) ∧ ((recordsOf w.data.length w.data).all (s.recordOk false) = true)) ∧
    (∃ (s : State) (src sq wsn : Nat) (w : Work), (s.routes = true) ∧ (s.readyWork src sq wsn 0x11 = some w) ∧ ((recordsOf w.data.length w.data).all (s.recordOk false) = false)) ∧
    (∃ (s : State) (src : Nat) (ep : BitVec 12) (cls : Fin 8) (bytes : List Byte), (s.isUp dSIG = true) ∧ (8 ≤ bytes.length) ∧ (bytes.headD 0 = 1)) ∧
    (∃ (s : State) (src : Nat) (ep : BitVec 12) (cls : Fin 8) (bytes : List Byte), (s.isUp dSIG = true) ∧ (8 ≤ bytes.length) ∧ (bytes.headD 0 = 2)) ∧
    (∃ (s : State) (src : Nat) (ep : BitVec 12) (cls : Fin 8) (bytes : List Byte), (s.isUp dSIG = false ∨ bytes.length < 8)) ∧
    (∃ (s : State) (m : Fin 4096), (s.routes = true) ∧ (m.val ≠ 0) ∧ (s.msgDir m.val = 2) ∧ (s.msgPeriod m.val ≠ 0)) ∧
    (∃ (s : State) (m : Fin 4096), ((s.sigTx m.val).gap = true)) ∧
    (∃ (s : State) (val : Word), (s.isUp dSIG = true) ∧ (val.toNat.testBit 31 = true)) ∧
    (∃ (s : State) (val : Word), (s.isUp dSIG = true) ∧ (val.toNat.testBit 30 = true) ∧ (val.toNat.testBit 31 = false)) :=
  ⟨⟨{ active.put SIG_CTRL_EN 1 with sig := { active.sig with inputs := [.packet 5 []] } }, .packet 5 [], [], by decide +kernel⟩,
   ⟨active, by decide +kernel⟩,
   ⟨(withWork [{ opcode := 0x11, length := 16, data := [1, 0, 0, 0x10, 0, 0, 0, 0, 9, 0, 0, 0, 0, 0, 0, 0] }]).put SIG_CTRL_EN 1, 0, 0, 0, { opcode := 0x11, length := 16, data := [1, 0, 0, 0x10, 0, 0, 0, 0, 9, 0, 0, 0, 0, 0, 0, 0] }, by decide +kernel⟩,
   ⟨(withWork [{ opcode := 0x11, length := 16, data := [1, 0, 0, 0x30, 0, 0, 0, 0, 9, 0, 0, 0, 0, 0, 0, 0] }]).put SIG_CTRL_EN 1, 0, 0, 0, { opcode := 0x11, length := 16, data := [1, 0, 0, 0x30, 0, 0, 0, 0, 9, 0, 0, 0, 0, 0, 0, 0] }, by decide +kernel⟩,
   ⟨active, 1, 0x140, 7, [1, 0, 0, 0, 0, 0, 0, 0], by decide +kernel⟩,
   ⟨active, 1, 0, 7, [2, 0, 0, 0, 0, 0, 0, 0], by decide +kernel⟩,
   ⟨active, 1, 0, 7, [], by decide +kernel⟩,
   ⟨((active.put SIG_CTRL_EN 1).put (SIG_MSG_W 4095 0) 0x80000000).put (SIG_MSG_W 4095 3) 0x10000, 4095, by decide +kernel⟩,
   ⟨active.setSigTx 4095 { gap := true }, 4095, by decide +kernel⟩,
   ⟨active, 0x8003FFFF, by decide +kernel⟩,
   ⟨active, 0x4003FFFF, by decide +kernel⟩⟩

/-- The hypotheses of `Obligations.Bridge` are met, clause by clause. -/
theorem test_meets_Bridge :
    (∃ (s : State) (src sq wsn : Nat) (w : Work), (s.bridgeOpen = true) ∧ (s.readyWork src sq wsn 0x30 = some w)) ∧
    (∃ (s : State) (src sq wsn : Nat) (w : Work), (s.bridgeOpen = true) ∧ (s.readyWork src sq wsn 0x31 = some w)) ∧
    (∃ (s : State) (fb : Fin 16) (bs : List Byte), (s.fbHead (2 + fb.val) = some bs) ∧ (isResponse bs = false) ∧ (s.bridgeOpen = true)) ∧
    (∃ (s : State) (fb : Fin 16) (bs : List Byte), (s.fbHead (2 + fb.val) = some bs) ∧ (isResponse bs = true)) ∧
    (∃ (s : State) (bus : Fin 18) (x : BrgTx), (s.isUp dSIG = true) ∧ (s.sig.txs.find? (fun t => t.posted && t.far == bus.val && s.inTurn t && !s.lockedOut bus.val none && !s.postWaits t) = some x)) ∧
    (∃ (s : State) (bus : Fin 18) (x : BrgTx), (s.isUp dSIG = true) ∧ (s.sig.txs.find? (fun t => t.posted && t.far == bus.val && s.inTurn t && !s.lockedOut bus.val none && !s.postWaits t) = none) ∧ (s.sig.txs.find? (fun t => !t.posted && t.stage == .waitFar && t.far == bus.val && s.farFree t && s.inTurn t) = some x)) ∧
    (∃ (s : State) (error : Bool) (bytes : List Byte) (x : BrgTx), (s.farTx 0 = some x)) ∧
    (∃ (s : State) (bus : Fin 18) (id : Nat) (x : BrgTx), (s.farTx bus.val = some x) ∧ (x.id = id)) ∧
    (∃ (s : State) (id : Nat) (x : BrgPosted), (s.farTx 1 = none) ∧ (s.sig.posted.find? (fun p => p.tx.far == 1 && p.tx.id == id) = some x)) ∧
    (∃ (s : State) (near : Fin 18) (l : BrgLock), (s.sig.locks.find? (fun l => l.stage == .held && l.near == near.val) = some l)) ∧
    (∃ (s : State) (id : Nat) (x : BrgTx), (s.sig.txs.find? (fun t => t.id == id && t.stage == .retry) = some x)) :=
  ⟨⟨(withWork [{ opcode := 0x30 }]).put SIG_CTRL_BRG_EN 1, 0, 0, 0, { opcode := 0x30 }, by decide +kernel⟩,
   ⟨(withWork [{ opcode := 0x31 }]).put SIG_CTRL_BRG_EN 1, 0, 0, 0, { opcode := 0x31 }, by decide +kernel⟩,
   ⟨{ active.put SIG_CTRL_BRG_EN 1 with sig := { active.sig with fbIn := [(17, [[1]])] } }, 15, [1], by decide +kernel⟩,
   ⟨{ active with sig := { active.sig with fbIn := [(17, [[0x10]])] } }, 15, [0x10], by decide +kernel⟩,
   ⟨{ active with sig := { active.sig with txs := [{ posted := true, far := 17 }] } }, 17, { posted := true, far := 17 }, by decide +kernel⟩,
   ⟨{ active with sig := { active.sig with txs := [{ stage := .waitFar, far := 17 }] } }, 17, { stage := .waitFar, far := 17 }, by decide +kernel⟩,
   ⟨{ active with sig := { active.sig with txs := [{ stage := .issued }] } }, true, [], { stage := .issued }, by decide +kernel⟩,
   ⟨{ active with sig := { active.sig with txs := [{ stage := .issued, far := 17 }] } }, 17, 0, { stage := .issued, far := 17 }, by decide +kernel⟩,
   ⟨{ active with sig := { active.sig with posted := [{ tx := { far := 1 } }] } }, 0, { tx := { far := 1 } }, by decide +kernel⟩,
   ⟨{ active with sig := { active.sig with locks := [{ stage := .held, near := 1 }] } }, 1, { stage := .held, near := 1 }, by decide +kernel⟩,
   ⟨{ active with sig := { active.sig with txs := [{ stage := .retry }] } }, 0, { stage := .retry }, by decide +kernel⟩⟩

/-- The hypotheses of `Obligations.BulkQueues` are met, clause by clause. -/
theorem test_meets_BulkQueues :
    (∃ (s : State) (src sq wsn : Nat) (w : Work) (q : Nat), (s.settleBulk.bulkReady src sq wsn 0x40 = some (w, q))) ∧
    (∃ (s : State) (src sq wsn : Nat) (w : Work) (q : Nat), (s.settleBulk.bulkReady src sq wsn 0x40 = some (w, q)) ∧ (s.settleBulk.flag (SIG_BULK_STATUS q) = false) ∧ (s.settleBulk.bulkSize q < s.settleBulk.get (SIG_BULK_FILL q) + w.data.length)) ∧
    (∃ (s : State) (src sq wsn : Nat) (w : Work) (q : Nat), (s.settleBulk.bulkReady src sq wsn 0x41 = some (w, q))) ∧
    (∃ (s : State) (src sq wsn : Nat), (s.settleBulk.bulkReady src sq wsn 0x41 = none)) :=
  ⟨⟨withWork [{ opcode := 0x40, ep := 0x7FF }], 0, 0, 0, { opcode := 0x40, ep := 0x7FF }, 511, by decide +kernel⟩,
   ⟨(withWork [{ opcode := 0x40, ep := 0x7FF, data := [1] }]).put (SIG_BULK_FILL 511) 0x40000000, 0, 0, 0, { opcode := 0x40, ep := 0x7FF, data := [1] }, 511, by decide +kernel⟩,
   ⟨withWork [{ opcode := 0x41, ep := 0x7FF }], 0, 0, 0, { opcode := 0x41, ep := 0x7FF }, 511, by decide +kernel⟩,
   ⟨active, 0, 0, 0, by decide +kernel⟩⟩

/-- The hypotheses of `Obligations.Cameras` are met, clause by clause. -/
theorem test_meets_Cameras :
    (∃ (s : State) (c : Fin 8) (val : Word), (s.isUp dVIS = true) ∧ (val.toNat.testBit 31 = true)) ∧
    (∃ (s : State) (c : Fin 8) (val : Word), (s.isUp dVIS = true) ∧ (val.toNat.testBit 31 = false)) ∧
    (∃ (s : State) (c : Fin 8) (ack : Bool) (value : Nat) (p : Profile), (s.camState c.val = 1) ∧ (s.camProfile c.val = some p) ∧ (value % 2 ^ (if p.flags.testBit 2 then 16 else 8) = p.idValue)) ∧
    (∃ (s : State) (c : Fin 8) (value : Nat) (p : Profile), (s.camState c.val = 1) ∧ (s.camProfile c.val = some p) ∧ (value % 2 ^ (if p.flags.testBit 2 then 16 else 8) ≠ p.idValue)) ∧
    (∃ (s : State) (c : Fin 8) (ack : Bool), (s.camState c.val = 1)) :=
  ⟨⟨active, 7, 0xFFFFFFFF, by decide +kernel⟩,
   ⟨active, 7, 0x7FFFFFFF, by decide +kernel⟩,
   ⟨profiled 1, 7, true, 0, aProfile, by decide +kernel⟩,
   ⟨profiled 1, 7, 255, aProfile, by decide +kernel⟩,
   ⟨active.put (VIS_CAM_STATUS_STATE 7) 1, 7, true, by decide +kernel⟩⟩

/-- The hypotheses of `Obligations.CameraFrames` are met, clause by clause. -/
theorem test_meets_CameraFrames :
    (∃ (s : State) (c : Fin 8) (vc : Fin 4) (fn : BitVec 16), (s.isUp dVIS = true) ∧ (2 ≤ s.camState c.val) ∧ (vc.val = s.get (VIS_CAM_CFG_VC c.val)) ∧ (((s.cutFrame c.val).cam c.val).stopping = false)) ∧
    (∃ (s : State) (c : Fin 8) (vc : Fin 4) (fn : BitVec 16), (s.isUp dVIS = true) ∧ (2 ≤ s.camState c.val) ∧ (vc.val = s.get (VIS_CAM_CFG_VC c.val)) ∧ (((s.cutFrame c.val).cam c.val).stopping = true)) ∧
    (∃ (s : State) (c : Fin 8) (vc : Fin 4), (s.isUp dVIS = true) ∧ (s.camState c.val = 3) ∧ (vc.val = s.get (VIS_CAM_CFG_VC c.val))) ∧
    (∃ (s : State) (c : Fin 8) (vc : Fin 4) (dt : Nat) (bytes : List Byte) (crcOk : Bool) (f : VisFrame), (s.isUp dVIS = true) ∧ (2 ≤ s.camState c.val) ∧ (vc.val = s.get (VIS_CAM_CFG_VC c.val)) ∧ (dt = s.get (VIS_CAM_CFG_DT c.val)) ∧ ((s.cam c.val).openFrame = some f)) ∧
    (∃ (s : State) (c : Fin 8) (vc : Fin 4) (dt : Nat) (bytes : List Byte) (headerOk crcOk : Bool), (s.isUp dVIS = true) ∧ (2 ≤ s.camState c.val) ∧ (headerOk = false ∨ vc.val ≠ s.get (VIS_CAM_CFG_VC c.val) ∨ dt ≠ s.get (VIS_CAM_CFG_DT c.val))) :=
  ⟨⟨active.put (VIS_CAM_STATUS_STATE 7) 3, 7, 0, 0xFFFF, by decide +kernel⟩,
   ⟨(active.setCam 7 { stopping := true }).put (VIS_CAM_STATUS_STATE 7) 2, 7, 0, 0xFFFF, by decide +kernel⟩,
   ⟨active.put (VIS_CAM_STATUS_STATE 7) 3, 7, 0, by decide +kernel⟩,
   ⟨(active.setCam 7 { frames := [{}] }).put (VIS_CAM_STATUS_STATE 7) 3, 7, 0, 44, [], true, {}, by decide +kernel⟩,
   ⟨active.put (VIS_CAM_STATUS_STATE 7) 2, 7, 3, 0, [], true, true, by decide +kernel⟩⟩

/-- The hypotheses of `Obligations.SensorControl` are met, clause by clause. -/
theorem test_meets_SensorControl :
    (∃ (s : State) (c : Fin 8) (w : Work), (s.isUp dVIS = true) ∧ (s.sendReady (epCam c.val) = some w) ∧ (s.setCheck c.val w.data ≠ 0)) ∧
    (∃ (s : State) (c : Fin 8) (w : Work), (s.isUp dVIS = true) ∧ (s.sendReady (epCam c.val) = some w) ∧ (s.setCheck c.val w.data = 0) ∧ ((addSet (s.cam c.val).sets (readSet w.data)).length ≤ 16)) ∧
    (∃ (s : State) (c : Fin 8) (w : Work), (s.isUp dVIS = true) ∧ (s.sendReady (epCam c.val) = some w) ∧ (s.setCheck c.val w.data = 0) ∧ (16 < (addSet (s.cam c.val).sets (readSet w.data)).length)) ∧
    (∃ (s : State) (c : Fin 8) (w : CciWrite) (rest : List CciWrite), (s.isUp dVIS = true) ∧ ((s.cam c.val).direct = false) ∧ ((s.cam c.val).writes = w :: rest)) ∧
    (∃ (s : State) (c : Fin 8) (w : CciWrite) (rest : List CciWrite), (s.isUp dVIS = true) ∧ ((s.cam c.val).direct = false) ∧ ((s.cam c.val).writes = w :: rest)) ∧
    (∃ (s : State) (c : Fin 8) (frame : Nat), (s.isUp dVIS = true) ∧ ((s.cam c.val).writes.any (fun w => w.frame == frame && w.kind == 1) = true) ∧ ((s.cam c.val).direct = false)) ∧
    (∃ (s : State) (c : Fin 8) (val : Word), (s.isUp dVIS = true)) ∧
    (∃ (s : State) (c : Fin 8) (data : Byte), (s.isUp dVIS = true) ∧ ((s.cam c.val).direct = true)) ∧
    (∃ (s : State) (c : Fin 8) (data : Byte), (s.isUp dVIS = true) ∧ ((s.cam c.val).direct = true) ∧ ((s.cam c.val).cmd.testBit 30 = true)) ∧
    (∃ (s : State) (c : Fin 8) (data : Byte), (s.isUp dVIS = true) ∧ ((s.cam c.val).direct = true) ∧ ((s.cam c.val).cmd.testBit 30 = false)) :=
  ⟨⟨withWork [{ opcode := 0x10, ep := 0x507 }], 7, { opcode := 0x10, ep := 0x507 }, by decide +kernel⟩,
   ⟨setQueued, 7, aSet, by decide +kernel⟩,
   ⟨setQueued.setCam 7 { setQueued.cam 7 with sets := List.replicate 16 { target := 1 } }, 7, aSet, by decide +kernel⟩,
   ⟨active.setCam 7 { writes := [{}] }, 7, {}, [], by decide +kernel⟩,
   ⟨active.setCam 7 { writes := [{}] }, 7, {}, [], by decide +kernel⟩,
   ⟨active.setCam 7 { writes := [{ kind := 1 }] }, 7, 0, by decide +kernel⟩,
   ⟨active, 7, 0xFFFFFFFF, by decide +kernel⟩,
   ⟨active.setCam 7 { direct := true }, 7, 255, by decide +kernel⟩,
   ⟨active.setCam 7 { direct := true, cmd := 2 ^ 30 }, 7, 255, by decide +kernel⟩,
   ⟨active.setCam 7 { direct := true }, 7, 255, by decide +kernel⟩⟩

/-- The hypotheses of `Obligations.VisionOutputs` are met, clause by clause. -/
theorem test_meets_VisionOutputs :
    (∃ (s : State) (c : Nat), (s.isUp dVIS = true) ∧ (s.nextCam = some c) ∧ (s.tnrHeld c = false)) ∧
    (∃ (s : State) (c : Nat), (s.isUp dVIS = true) ∧ (s.nextCam = some c) ∧ (s.tnrHeld c = true)) ∧
    (∃ (s : State) (c : Fin 8) (k : Fin 5) (val : Word), (s.isUp dVIS = true)) ∧
    (∃ (s : State) (o : VisOutput), (s.emits dVIS = true) ∧ (((s.each (List.range 40) (fun s i => s.returnSmall (epOut (i / 5) (i % 5)) (s.get (VIS_CAM_OUT_MAX (i / 5) (i % 5))))).each (List.range 64) (fun s k => s.returnSmall (epSink k) (s.get (VIS_SINK_MAX k)))).nextOutput = some o)) ∧
    (∃ (s : State) (o : VisOutput), (s.vis.staged.find? (fun o => o.sent) = some o)) ∧
    (∃ (s : State) (k : Fin 64), (s.isUp dVIS = true)) ∧
    (∃ (s : State) (t : Fin 2) (x : CsiFrame) (rest : List CsiFrame), (s.isUp dVIS = true) ∧ (s.flag (VIS_CST_CFG_EN t.val) = true) ∧ (SMap.getD s.vis.tx t.val [] = x :: rest)) :=
  ⟨⟨active.setCam 7 { lines := [{}] }, 7, by decide +kernel⟩,
   ⟨{ active.setCam 7 { lines := [{}], frames := [{}] } with node := { active.node with threat := 2 ^ dMEM } }.put (VIS_SET_TNR_EN 0) 1, 7, by decide +kernel⟩,
   ⟨active, 7, 4, 0x80000000, by decide +kernel⟩,
   ⟨{ active with vis := { active.vis with staged := [{ ready := true, dest := 1 }] } }, { ready := true, dest := 1 }, by decide +kernel⟩,
   ⟨{ active with vis := { active.vis with staged := [{ sent := true }] } }, { sent := true }, by decide +kernel⟩,
   ⟨active, 63, by decide +kernel⟩,
   ⟨{ active.put (VIS_CST_CFG_EN 1) 1 with vis := { active.vis with tx := [(1, [{}])] } }, 1, {}, [], by decide +kernel⟩⟩

/-- The hypotheses of `Obligations.TwinPairs` are met, clause by clause. -/
theorem test_meets_TwinPairs :
    (∃ (s : State), (s.pairing = true)) ∧
    (∃ (s : State) (id slot role mode pairId epoch img : Nat), (s.pairState = 0)) ∧
    (∃ (s : State) (id slot role mode pairId epoch img : Nat), (s.pairState ≠ 0)) ∧
    (∃ (s : State), (s.node.twinRole = .active) ∧ (s.get TWIN_CFG_MODE = 0) ∧ (s.pairState = 1 ∨ s.pairState = 2) ∧ (s.twlUp = true)) ∧
    (∃ (s : State) (seq : Nat) (x : CopyWait) (w : Work), (s.twin.copies.find? (fun y => y.seq == seq) = some x) ∧ (x.ckpt = false) ∧ (x.config = false) ∧ (State.work? { s with twin := { s.twin with copies := s.twin.copies.filter (fun y => y.seq != seq) } } x.src x.sq x.wsn = some w)) ∧
    (∃ (s : State) (seq : Nat) (x : CopyWait), (s.twin.copies.find? (fun y => y.seq == seq) = some x) ∧ (x.ckpt = true) ∧ ((s.twin.copies.filter (fun y => y.seq != seq)).any (fun y => y.ckpt) = false)) ∧
    (∃ (s : State) (epoch : Nat), (s.lockstep = true) ∧ ((epoch + 1) * (s.get TWIN_CFG_EPOCH_US * 1000) ≤ s.ringTime)) ∧
    (∃ (s : State) (epoch digest : Nat) (health : Bool), (s.lockstep = true)) ∧
    (∃ (s : State), (s.lockstep = true)) ∧
    (∃ (s : State) (switchOver : Bool), (s.node.twinRole = .active) ∧ (s.pairState ≠ 4)) ∧
    (∃ (s : State) (entries : List (Nat × Bool × Nat × Nat × Nat)) (pins : List (Fin 6 × BitVec 64)) (dike : List (Fin 16 × Fin 8 × BitVec 4)), (s.twin.reading = true)) ∧
    (∃ (s : State) (entries : List (Nat × Bool × Nat × Nat × Nat)) (pins : List (Fin 6 × BitVec 64)) (dike : List (Fin 16 × Fin 8 × BitVec 4)), (s.twin.reading = true)) ∧
    (∃ (s : State) (req : Requester) (val : Word), (val.toNat.testBit 1 = true) ∧ (val.toNat / 2 ^ 16 % 2 ^ 16 = 0x7A1E) ∧ (s.isWitness req = true)) ∧
    (∃ (s : State) (req : Requester) (val : Word), (val.toNat.testBit 1 = true) ∧ (val.toNat / 2 ^ 16 % 2 ^ 16 ≠ 0x7A1E ∨ s.isWitness req = false)) ∧
    (∃ (s : State) (req : Requester) (val : Word), (val.toNat.testBit 2 = true) ∧ (val.toNat.testBit 1 = false) ∧ (val.toNat / 2 ^ 16 % 2 ^ 16 = 0x7A1E)) ∧
    (∃ (s : State) (req : Requester) (val : Word), (val.toNat.testBit 2 = true) ∧ (val.toNat / 2 ^ 16 % 2 ^ 16 ≠ 0x7A1E)) ∧
    (∃ (s : State) (config : List (Nat × Word)), (s.pairState = 1) ∧ (s.twin.copies.all (fun y => !y.ckpt && !y.config) = true) ∧ (s.get TWIN_CFG_MODE = 0 ∨ s.twin.synced = true) ∧ (s.flag TWIN_CKPT_CFG_HOST = false)) ∧
    (∃ (s : State) (config : List (Nat × Word)), (s.pairState = 1) ∧ (s.twin.copies.all (fun y => !y.ckpt && !y.config) = true) ∧ (s.get TWIN_CFG_MODE = 0 ∨ s.twin.synced = true) ∧ (s.flag TWIN_CKPT_CFG_HOST = true)) ∧
    (∃ (s : State) (seq : Nat) (body : JournalBody), (s.follows = true) ∧ (s.get TWIN_CFG_MODE = 1)) ∧
    (∃ (s : State) (seq : Nat) (body : CopyBody), (s.follows = true)) ∧
    (∃ (s : State) (pair : Fin 64) (x y : Option TwinAnswer), (s.witnesses = true) ∧ (s.flag (TWIN_WITP_CFG_EN pair.val) = true)) ∧
    (∃ (s : State) (val : Word) (x y : Option TwinAnswer), (val.toNat / 2 ^ 16 = 0x7A1E)) ∧
    (∃ (s : State) (val : Word) (x y : Option TwinAnswer), (val.toNat / 2 ^ 16 ≠ 0x7A1E)) :=
  ⟨⟨(active.put (RING_PORT_STATUS_STATE 2) 2).put TWIN_CFG_EN 1, by decide +kernel⟩,
   ⟨active, 1, 1, 2, 0, 1, 0, 0, by decide +kernel⟩,
   ⟨active.put TWIN_STATUS_STATE 2, 1, 1, 2, 0, 1, 0, 0, by decide +kernel⟩,
   ⟨pairHalf .active 2, by decide +kernel⟩,
   ⟨(let s := withWork [{}]; { s with twin := { s.twin with copies := [{ seq := 3 }] } }), 3, { seq := 3 }, {}, by decide +kernel⟩,
   ⟨{ active with twin := { active.twin with copies := [{ seq := 3, ckpt := true }] } }, 3, { seq := 3, ckpt := true }, by decide +kernel⟩,
   ⟨((pairHalf .active 2).put TWIN_CFG_MODE 1).put TWIN_CFG_EPOCH_US 0, 0, by decide +kernel⟩,
   ⟨(pairHalf .standby 2).put TWIN_CFG_MODE 1, 5, 0, true, by decide +kernel⟩,
   ⟨(pairHalf .standby 2).put TWIN_CFG_MODE 1, by decide +kernel⟩,
   ⟨pairHalf .active 2, true, by decide +kernel⟩,
   ⟨(let s := pairHalf .standby 2; { s with twin := { s.twin with reading := true } }), [], [], [], by decide +kernel⟩,
   ⟨(let s := pairHalf .standby 2; { s with twin := { s.twin with reading := true } }), [], [], [], by decide +kernel⟩,
   ⟨(pairHalf .standby 2).put TWIN_WIT_ID 1, .remote 1, 0x7A1E0002, by decide +kernel⟩,
   ⟨active, .supervisor, 0x7A1E0002, by decide +kernel⟩,
   ⟨active, .supervisor, 0x7A1E0004, by decide +kernel⟩,
   ⟨active, .supervisor, 4, by decide +kernel⟩,
   ⟨pairHalf .active 1, [], by decide +kernel⟩,
   ⟨(pairHalf .active 1).put TWIN_CKPT_CFG_HOST 1, [], by decide +kernel⟩,
   ⟨(pairHalf .standby 1).put TWIN_CFG_MODE 1, 0, .commit 0 0, by decide +kernel⟩,
   ⟨pairHalf .standby 1, 0, .signals true [], by decide +kernel⟩,
   ⟨(active.put TWIN_WIT_CFG_EN 1).put (TWIN_WITP_CFG_EN 63) 1, 63, none, none, by decide +kernel⟩,
   ⟨active, 0x7A1E003F, none, none, by decide +kernel⟩,
   ⟨active, 63, none, none, by decide +kernel⟩⟩

/-- The hypotheses of `Obligations.Interrupts` are met, clause by clause. -/
theorem test_meets_Interrupts :
    (∃ (s : State) (x : Fin 9), (s.bankRuns x = true) ∧ ((s.bank x).entry = false)) ∧
    (∃ (s : State) (x : Fin 9), (s.bankRuns x = true) ∧ ((s.bank x).entry = true)) ∧
    (∃ (s : State) (x : Fin 9), (s.bankRuns x = true) ∧ ((s.bank x).exit = true)) ∧
    (∃ (s : State) (req : Requester) (x : Fin 9) (val : Word) (low : List Nat), (s.accessible (bankDomain x) = true)) ∧
    (∃ (s : State) (bank : Fin 10) (w : Fin 32) (val : Word), (s.accessible (intDomain (bankOf bank)) = true) ∧ (bank.val = 9 ∨ w.val < 8)) ∧
    (∃ (s : State) (bank : Fin 10) (w : Fin 32) (val : Word), (s.accessible (intDomain (bankOf bank)) = true) ∧ (bank.val = 9 ∨ w.val < 8)) ∧
    (∃ (s : State) (bank : Fin 10) (w : Fin 32) (val : Word), (s.accessible (intDomain (bankOf bank)) = true) ∧ (bank.val = 9 ∨ w.val < 8)) ∧
    (∃ (s : State) (bank : Fin 10) (w : Fin 32) (val : Word), (s.accessible (intDomain (bankOf bank)) = true) ∧ (bank.val = 9 ∨ w.val < 8)) ∧
    (∃ (s : State) (n : Fin 1024) (val : Word), (s.accessible dSV = true) ∧ (9 < val.toNat % 16 ∨ ((val.toNat % 16 ≠ s.get (INT_SH_ROUTE_TARGET n) ∨ val.toNat / 256 % 256 ≠ s.get (INT_SH_ROUTE_VECTOR n)) ∧ (s.get (INT_SH_MASK_SET (n.val / 32))).testBit (n.val % 32) = false))) ∧
    (∃ (s : State) (n : Fin 1024) (val : Word), (s.accessible dSV = true) ∧ (val.toNat % 16 ≤ 9) ∧ ((val.toNat % 16 = s.get (INT_SH_ROUTE_TARGET n) ∧ val.toNat / 256 % 256 = s.get (INT_SH_ROUTE_VECTOR n)) ∨ (s.get (INT_SH_MASK_SET (n.val / 32))).testBit (n.val % 32) = true)) :=
  ⟨⟨active, 8, by decide +kernel⟩,
   ⟨active.setBank 8 { entry := true }, 8, by decide +kernel⟩,
   ⟨active.setBank 8 { exit := true }, 8, by decide +kernel⟩,
   ⟨active, .proc 8, 8, 0xFFFFFFFF, [], by decide +kernel⟩,
   ⟨active, 9, 31, 0xFFFFFFFF, by decide +kernel⟩,
   ⟨active, 8, 7, 0xFFFFFFFF, by decide +kernel⟩,
   ⟨active, 9, 31, 0xFFFFFFFF, by decide +kernel⟩,
   ⟨active, 9, 31, 0xFFFFFFFF, by decide +kernel⟩,
   ⟨active, 1023, 10, by decide +kernel⟩,
   ⟨active.put (INT_SH_MASK_SET 31) 0xFFFFFFFF, 1023, 9, by decide +kernel⟩⟩

/-- The hypotheses of `Obligations.DikeChannels` are met, clause by clause. -/
theorem test_meets_DikeChannels :
    (∃ (s : State) (x : Fin 16) (val : Word), (val.toNat.testBit 31 = true) ∧ (s.flag (DIKE_CH_CFG_EN x.val) = false) ∧ ((s.dikeCfgFields x.val val.toNat).dikeOk x.val = true)) ∧
    (∃ (s : State) (x : Fin 16) (val : Word), (val.toNat.testBit 31 = true) ∧ (s.flag (DIKE_CH_CFG_EN x.val) = false) ∧ ((s.dikeCfgFields x.val val.toNat).dikeOk x.val = false)) ∧
    (∃ (s : State) (x : Fin 16) (val : Word), (val.toNat.testBit 31 = true) ∧ (s.flag (DIKE_CH_CFG_EN x.val) = true)) ∧
    (∃ (s : State) (x : Fin 16) (val : Word), (val.toNat.testBit 31 = false) ∧ (s.flag (DIKE_CH_CFG_EN x.val) = true)) ∧
    (∃ (s : State) (x : Fin 16) (val : Word), (val.toNat.testBit 31 = false) ∧ (s.flag (DIKE_CH_CFG_EN x.val) = false)) ∧
    (∃ (s : State) (x : Fin 16) (val : Word), (val.toNat.testBit 0 = true) ∧ (s.dkState x.val = 6 ∨ s.dkState x.val = 7)) ∧
    (∃ (s : State) (x : Fin 16) (val : Word), (val.toNat.testBit 0 = true) ∧ (s.dkState x.val ≠ 6) ∧ (s.dkState x.val ≠ 7)) ∧
    (∃ (s : State) (x : Fin 16), (s.dikeRuns = true) ∧ (s.dkState x.val = 2)) ∧
    (∃ (s : State) (x : Fin 16) (raws : List (BitVec 12)), (s.dikeRuns = true)) ∧
    (∃ (s : State) (x : Fin 16) (raws : List (BitVec 12)), ((s.dikeSamples x.val raws).dikeReleases x.val raws = true)) ∧
    (∃ (s : State) (x : Fin 16), (s.dikeRuns = true) ∧ (s.dkState x.val = 4) ∧ (s.flag (DIKE_CH_STATUS_LIMITING x.val) = false)) ∧
    (∃ (s : State) (x : Fin 16), (s.dikeRuns = true)) ∧
    (∃ (s : State) (x : Fin 16) (raws : List (BitVec 12)) (r : BitVec 12) (late : Bool), (s.dikeRuns = true) ∧ (raws.getLast? = some r)) ∧
    (∃ (s : State) (x : Fin 16), (s.dikeRuns = true) ∧ (s.dkState x.val = 6)) ∧
    (∃ (s : State) (x : Fin 16), (s.dikeRuns = true) ∧ (s.dkState x.val = 5)) :=
  ⟨⟨((active.put (DIKE_CH_LIMIT_ILIM_INRUSH 15) 1).put (DIKE_CH_LIMIT_ILIM 15) 1).put (DIKE_CH_SC 15) 4095, 15, 0x80010001, by decide +kernel⟩,
   ⟨active, 15, 0x80000000, by decide +kernel⟩,
   ⟨active.put (DIKE_CH_CFG_EN 15) 1, 15, 0xFFFFFFFF, by decide +kernel⟩,
   ⟨active.put (DIKE_CH_CFG_EN 15) 1, 15, 0x7FFFFFFF, by decide +kernel⟩,
   ⟨active, 15, 0x7FFFFFFF, by decide +kernel⟩,
   ⟨active.put (DIKE_CH_STATUS_STATE 15) 7, 15, 1, by decide +kernel⟩,
   ⟨active, 15, 1, by decide +kernel⟩,
   ⟨active.put (DIKE_CH_STATUS_STATE 15) 2, 15, by decide +kernel⟩,
   ⟨active, 15, [4095], by decide +kernel⟩,
   ⟨(((active.put (DIKE_CH_STATUS_STATE 15) 5).put (DIKE_CH_STATUS_LIMITING 15) 1).put (DIKE_CH_LIMIT_ILIM 15) 4095).put (DIKE_CH_SC 15) 4095, 15, List.replicate 10 0, by decide +kernel⟩,
   ⟨active.put (DIKE_CH_STATUS_STATE 15) 4, 15, by decide +kernel⟩,
   ⟨active, 15, by decide +kernel⟩,
   ⟨active, 15, [4095], 4095, true, by decide +kernel⟩,
   ⟨active.put (DIKE_CH_STATUS_STATE 15) 6, 15, by decide +kernel⟩,
   ⟨active.put (DIKE_CH_STATUS_STATE 15) 5, 15, by decide +kernel⟩⟩

/-- The hypotheses of `Obligations.PowerPolicies` are met, clause by clause. -/
theorem test_meets_PowerPolicies :
    (∃ (s : State) (counts : List (Fin 17 × Fin 64 × BitVec 16)) (d : Nat), ((s.measure counts).lowestRatio = some d)) ∧
    (∃ (s : State), (s.pwr.settling = true)) ∧
    (∃ (s : State), (s.avsState = 3) ∧ (s.node.off = false)) ∧
    (∃ (s : State), (s.avsState ≠ 3) ∧ (s.node.off = false)) ∧
    (∃ (s : State) (data : BitVec 16) (cmd mv : Nat) (rest : List (Nat × Nat)), (s.pwr.queue = (cmd, mv) :: rest)) ∧
    (∃ (s : State) (data : BitVec 16) (cmd mv : Nat) (rest : List (Nat × Nat)), (s.pwr.queue = (cmd, mv) :: rest)) ∧
    (∃ (s : State) (temps : List (BitVec 8)) (n : Int), ((temps.map (fun t => t.toInt)).max? = some n) ∧ (s.node.off = false)) ∧
    (∃ (s : State) (policyConsents wakeAsserted : Bool), (s.flag RING_NODE_ROOT = true) ∧ (s.flag PWR_POL_CTRL_LULL_AUTO = true) ∧ (s.get RING_LULL_STATUS_RESULT ≠ 1) ∧ (s.lullBarred = false) ∧ (s.mode = mACTIVE) ∧ (s.refusal policyConsents wakeAsserted = 0)) :=
  ⟨⟨active, [], (active.measure []).lowestRatio.getD 0, by decide +kernel⟩,
   ⟨{ active with pwr := { active.pwr with settling := true } }, by decide +kernel⟩,
   ⟨active.put PWR_AVS_STATUS_STATE 3, by decide +kernel⟩,
   ⟨active, by decide +kernel⟩,
   ⟨{ active with pwr := { active.pwr with queue := [(0x8B, 0)] } }, 0xFFFF, 0x8B, 0, [], by decide +kernel⟩,
   ⟨{ active with pwr := { active.pwr with queue := [(0x8B, 0)] } }, 0xFFFF, 0x8B, 0, [], by decide +kernel⟩,
   ⟨active, [0x7F, 0x80], 127, by decide +kernel⟩,
   ⟨(let s : State := ((active.put RING_NODE_ROOT 1).put PWR_POL_CTRL_LULL_AUTO 1).put RING_ENUM_STATUS_CLOSED 1; { s with ring := { s.ring with map := [1] } }), true, false, by decide +kernel⟩⟩

/-- The hypotheses of `Obligations.StepIdle` are met. -/
theorem test_meets_StepIdle :
    (∃ s : State, s.pending = [] ∧ (s.node.off = true ∨ s.node.refTime = false)) ∧
    (∃ s : State, s.pending = [] ∧ s.node.off = false ∧ s.node.refTime = true ∧ s.time.rateNext = none ∧ s.time.stepNext = none ∧
      s.dlv.owedFail = [] ∧ s.twin.orphans = [] ∧ s.dlv.acks = [] ∧ s.hq.items.all (fun i => i.stage != .waiting) = true) :=
  ⟨⟨{ active with node := { active.node with refTime := false } }, by decide +kernel⟩, ⟨active, by decide +kernel⟩⟩

/-- The hypotheses of `Obligations.QueueAndOutputKept` are met. -/
theorem test_meets_QueueAndOutputKept :
    (∃ (c : Instr) (s t : State), exec c s = .next t) ∧
    (∃ (c : Instr) (rest : List Instr) (s t : State), s.pending = c :: rest ∧ step s = .next t) :=
  ⟨⟨.intAccept 0, active, _, rfl⟩, ⟨.intAccept 0, [], { active with pending := [.intAccept 0] }, _, rfl, rfl⟩⟩

/-- The hypotheses of `Obligations.CanonicalStep` are met. -/
theorem test_meets_CanonicalStep :
    (∃ s t : State, Canonical s = true ∧ step s = .next t) ∧ (∃ s t : State, Safe s = true ∧ step s = .next t) :=
  ⟨⟨State.reset, _, by decide +kernel, rfl⟩, ⟨State.reset, _, by decide +kernel, rfl⟩⟩

/-- The hypotheses of `Obligations.LittleEndian` are met at both ends of the bytes stored. -/
theorem test_meets_LittleEndian :
    (∃ n i : Nat, i < n) ∧ (∃ (k j : Nat) (bs : List Byte), j < k ∧ bs ≠ []) ∧
    (∃ (k j : Nat) (bs : List Byte), k + bs.length ≤ j ∧ bs ≠ []) :=
  ⟨⟨4, 3, by decide⟩, ⟨1, 0, [0], by decide⟩, ⟨0, 1, [0], by decide⟩⟩

/-- The hypothesis of `Obligations.UndefinedOffsets` is met, in a block that is there. -/
theorem test_meets_UndefinedOffsets : ∃ off : Nat, regAt off = none ∧ off < 0x10000 := ⟨0xFFFC, by decide +kernel⟩

/-- The hypotheses of `Obligations.Acknowledge` are met: the last number assigned, and the next one. -/
theorem test_meets_Acknowledge :
    (∃ (s : State) (val : Word), laterThan 32 val.toNat ((s.get FLT_SEQ + 2 ^ 32 - 1) % 2 ^ 32) = true) ∧
    (∃ (s : State) (val : Word), laterThan 32 val.toNat ((s.get FLT_SEQ + 2 ^ 32 - 1) % 2 ^ 32) = false) :=
  ⟨⟨State.reset, 1, by decide +kernel⟩, ⟨State.reset, 0, by decide +kernel⟩⟩

/-- The hypotheses of `Obligations.DikeCode` are met with a BLANK block and with another, in states on both sides. -/
theorem test_meets_DikeCode :
    (∃ s : State, s.boot.calBlank = true ∧ s.dikeRuns = true ∧ s.dkState 15 < 3) ∧
    (∃ s : State, s.boot.calBlank = false ∧ s.dikeRuns = true ∧ 5 < s.dkState 15) :=
  ⟨⟨{ active with boot := { active.boot with calBlank := true } }, by decide +kernel⟩,
   ⟨active.put (DIKE_CH_STATUS_STATE 15) 6, by decide +kernel⟩⟩

end Sys2Proof.Tests
end

section
/-! PROOFS. What one step keeps, whichever command it carries out: the dispatch of `exec` over the laws of Laws/Kept*.lean, and from it
the statements about every command and every step. -/

namespace Sys2Proof.Machine

/-- Whatever the command, the next state is kept from the one it started in: one law of Laws/Kept*.lean for each arm. -/
theorem exec_kept (c : Instr) (s : State) : Keeps s (exec c s) := by
  have h := Kept.refl s
  unfold exec
  cases c with
  | registerWrite => exact execRegisterWrite_kept h
  | bar0PartialWrite => exact execBar0PartialWrite_kept h
  | regPairLoRead => exact execRegPairLoRead_kept h
  | regPairLoWrite => exact execRegPairLoWrite_kept h
  | svLockstep => exact execSvLockstep_kept h
  | islUnderrun => exact execIslUnderrun_kept h
  | refclkLoss => exact execRefclkLoss_kept h
  | refclkReturn => exact execRefclkReturn_kept h
  | paceThreat => exact execPaceThreat_kept h
  | flowControlRelease => exact execFlowControlRelease_kept h
  | glbPdOnSet => exact execGlbPdOnSet_kept h
  | glbPdOnClr => exact execGlbPdOnClr_kept h
  | domainPowerUpStart => exact execDomainPowerUpStart_kept h
  | domainPowerUpDone => exact execDomainPowerUpDone_kept h
  | domainDrainStart => exact execDomainDrainStart_kept h
  | domainDrainEnd => exact execDomainDrainEnd_kept h
  | domainPowerOffDone => exact execDomainPowerOffDone_kept h
  | modeReqActive => exact execModeReqActive_kept h
  | modeReqService => exact execModeReqService_kept h
  | modeReqDormant => exact execModeReqDormant_kept h
  | modeReqNotAllowed => exact execModeReqNotAllowed_kept h
  | serviceEntryComplete => exact execServiceEntryComplete_kept h
  | dormantEntryComplete => exact execDormantEntryComplete_kept h
  | porAssert => exact execPorAssert_kept h
  | porRelease => exact execPorRelease_kept h
  | supplyLoss => exact execSupplyLoss_kept h
  | perstAssert => exact execPerstAssert_kept h
  | perstRelease => exact execPerstRelease_kept h
  | glbResetWarm => exact execGlbResetWarm_kept h
  | glbResetNode => exact execGlbResetNode_kept h
  | svWatchdogService => exact execSvWatchdogService_kept h
  | svWatchdogWarning => exact execSvWatchdogWarning_kept h
  | svWatchdogExpiry => exact execSvWatchdogExpiry_kept h
  | loaderResetEnd => exact execLoaderResetEnd_kept h
  | bootBar2Post => exact execBootBar2Post_kept h
  | bar2SlotConsumed => exact execBar2SlotConsumed_kept h
  | bar2Write => exact execBar2Write_kept h
  | svcBootDatagram => exact execSvcBootDatagram_kept h
  | bootBlockFrame => exact execBootBlockFrame_kept h
  | bootReplyFrame => exact execBootReplyFrame_kept h
  | bootHeaderBlock => exact execBootHeaderBlock_kept h
  | bootImageBlock => exact execBootImageBlock_kept h
  | bootStartBlock => exact execBootStartBlock_kept h
  | bootRestartBlock => exact execBootRestartBlock_kept h
  | bootCtrlRestart => exact execBootCtrlRestart_kept h
  | bootCtrlRestartStage => exact execBootCtrlRestartStage_kept h
  | imageVerifyDone => exact execImageVerifyDone_kept h
  | processorsReady => exact execProcessorsReady_kept h
  | actArmCmd => exact execActArmCmd_kept h
  | actCancelCmd => exact execActCancelCmd_kept h
  | actReportDeadline => exact execActReportDeadline_kept h
  | actRoundEnd => exact execActRoundEnd_kept h
  | actArmFrame => exact execActArmFrame_kept h
  | actCancelFrame => exact execActCancelFrame_kept h
  | actReportFrame => exact execActReportFrame_kept h
  | activationTime => exact execActivationTime_kept h
  | actProcessorsStopped => exact execActProcessorsStopped_kept h
  | actP0Running => exact execActP0Running_kept h
  | actAllReady => exact execActAllReady_kept h
  | actTimerExpiry => exact execActTimerExpiry_kept h
  | calLoadShadow => exact execCalLoadShadow_kept h
  | calCommit => exact execCalCommit_kept h
  | calErase => exact execCalErase_kept h
  | calCommitDone => exact execCalCommitDone_kept h
  | calEraseDone => exact execCalEraseDone_kept h
  | hqCtrlEn => exact execHqCtrlEn_kept h
  | sqEnable => exact execSqEnable_kept h
  | sqDisable => exact execSqDisable_kept h
  | cqEnable => exact execCqEnable_kept h
  | doorbellPollIssue => exact execDoorbellPollIssue_kept h
  | doorbellPollReturn => exact execDoorbellPollReturn_kept h
  | cqHeadPoll => exact execCqHeadPoll_kept h
  | cqHeadReadReturn => exact execCqHeadReadReturn_kept h
  | descFetchIssue => exact execDescFetchIssue_kept h
  | descFetchReturn => exact execDescFetchReturn_kept h
  | payloadReadDone => exact execPayloadReadDone_kept h
  | itemAccept => exact execItemAccept_kept h
  | journalFlushReadDone => exact execJournalFlushReadDone_kept h
  | cqRecordWrite => exact execCqRecordWrite_kept h
  | cqModTimeExpiry => exact execCqModTimeExpiry_kept h
  | msixVectorUnmask => exact execMsixVectorUnmask_kept h
  | hostWritesBlocked => exact execHostWritesBlocked_kept h
  | hostWritesResumed => exact execHostWritesResumed_kept h
  | nop => exact execNop_kept h
  | fence => exact execFence_kept h
  | send => exact execSend_kept h
  | sendTimeReached => exact execSendTimeReached_kept h
  | sigUpdate => exact execSigUpdate_kept h
  | regWrite => exact execRegWrite_kept h
  | regRead => exact execRegRead_kept h
  | bridgeWrite => exact execBridgeWrite_kept h
  | bridgeRead => exact execBridgeRead_kept h
  | bulkPut => exact execBulkPut_kept h
  | bulkGet => exact execBulkGet_kept h
  | rxPost => exact execRxPost_kept h
  | dataFrame => exact execDataFrame_kept h
  | returnFrame => exact execReturnFrame_kept h
  | ackFrame => exact execAckFrame_kept h
  | ackTimeoutExpiry => exact execAckTimeoutExpiry_kept h
  | resyncFrame => exact execResyncFrame_kept h
  | journalEnable => exact execJournalEnable_kept h
  | journalScanDone => exact execJournalScanDone_kept h
  | journalWaitGenExpiry => exact execJournalWaitGenExpiry_kept h
  | journalReplayDone => exact execJournalReplayDone_kept h
  | portDown => exact execPortDown_kept h
  | linkReturn => exact execLinkReturn_kept h
  | linkStableExpiry => exact execLinkStableExpiry_kept h
  | holdTimeExpiry => exact execHoldTimeExpiry_kept h
  | destAbsentExpiry => exact execDestAbsentExpiry_kept h
  | ringSignalDetect => exact execRingSignalDetect_kept h
  | ringTrainingDone => exact execRingTrainingDone_kept h
  | ringPortLoss => exact execRingPortLoss_kept h
  | creditOs => exact execCreditOs_kept h
  | creditReturnTimer => exact execCreditReturnTimer_kept h
  | ringTransitFrame => exact execRingTransitFrame_kept h
  | ringEnable => exact execRingEnable_kept h
  | enumStart => exact execEnumStart_kept h
  | enumFrame => exact execEnumFrame_kept h
  | enumReportFrame => exact execEnumReportFrame_kept h
  | enumMapTimer => exact execEnumMapTimer_kept h
  | mapFrame => exact execMapFrame_kept h
  | enumRestartTimer => exact execEnumRestartTimer_kept h
  | protectFrame => exact execProtectFrame_kept h
  | epStateFrame => exact execEpStateFrame_kept h
  | epFlushFrame => exact execEpFlushFrame_kept h
  | epStateRetransmit => exact execEpStateRetransmit_kept h
  | raReqFrame => exact execRaReqFrame_kept h
  | raRspFrame => exact execRaRspFrame_kept h
  | raTimeout => exact execRaTimeout_kept h
  | lullStart => exact execLullStart_kept h
  | lullAbort => exact execLullAbort_kept h
  | lullWakeCmd => exact execLullWakeCmd_kept h
  | lullClearLog => exact execLullClearLog_kept h
  | lullTokenFrame => exact execLullTokenFrame_kept h
  | lullCommitFrame => exact execLullCommitFrame_kept h
  | lullRefuseFrame => exact execLullRefuseFrame_kept h
  | lullVoidFrame => exact execLullVoidFrame_kept h
  | lullRoundTimeout => exact execLullRoundTimeout_kept h
  | lullSetOff => exact execLullSetOff_kept h
  | lullSetUp => exact execLullSetUp_kept h
  | wakeInAssert => exact execWakeInAssert_kept h
  | ringWakeArm => exact execRingWakeArm_kept h
  | ringActivityWake => exact execRingActivityWake_kept h
  | ringQuietTimer => exact execRingQuietTimer_kept h
  | aonCanWake => exact execAonCanWake_kept h
  | pswTake => exact execPswTake_kept h
  | pswTakePulseEnd => exact execPswTakePulseEnd_kept h
  | pswSenseChange => exact execPswSenseChange_kept h
  | pswTakeTimeout => exact execPswTakeTimeout_kept h
  | pldFrameLink => exact execPldFrameLink_kept h
  | pldFlush => exact execPldFlush_kept h
  | pldFlushDone => exact execPldFlushDone_kept h
  | schFrameStart => exact execSchFrameStart_kept h
  | frameEgressEnd => exact execFrameEgressEnd_kept h
  | voqPromotion => exact execVoqPromotion_kept h
  | weirRateWrite => exact execWeirRateWrite_kept h
  | weirBurstWrite => exact execWeirBurstWrite_kept h
  | gclCommit => exact execGclCommit_kept h
  | gclDisable => exact execGclDisable_kept h
  | gclAbort => exact execGclAbort_kept h
  | gclStartTime => exact execGclStartTime_kept h
  | gclEntryBoundary => exact execGclEntryBoundary_kept h
  | guardBandStart => exact execGuardBandStart_kept h
  | timeRateWrite => exact execTimeRateWrite_kept h
  | timeStepWrite => exact execTimeStepWrite_kept h
  | lockNow => exact execLockNow_kept h
  | timeLockAchieved => exact execTimeLockAchieved_kept h
  | timeUpstreamTimeout => exact execTimeUpstreamTimeout_kept h
  | timeSyncTimer => exact execTimeSyncTimer_kept h
  | timeSyncOs => exact execTimeSyncOs_kept h
  | timeReplyOs => exact execTimeReplyOs_kept h
  | timeSyncFrame => exact execTimeSyncFrame_kept h
  | servoWindowEnd => exact execServoWindowEnd_kept h
  | fsyncEnable => exact execFsyncEnable_kept h
  | fsyncEdge => exact execFsyncEdge_kept h
  | fsyncPulseEnd => exact execFsyncPulseEnd_kept h
  | fsyncHeldRelease => exact execFsyncHeldRelease_kept h
  | ppsOutEdge => exact execPpsOutEdge_kept h
  | ppsInEdge => exact execPpsInEdge_kept h
  | qsgmiiSyncLoss => exact execQsgmiiSyncLoss_kept h
  | qsgmiiControlWord => exact execQsgmiiControlWord_kept h
  | ethLinkUpTimer => exact execEthLinkUpTimer_kept h
  | ethPortEnable => exact execEthPortEnable_kept h
  | ethPortDisable => exact execEthPortDisable_kept h
  | ethDrainDone => exact execEthDrainDone_kept h
  | ethFrameReceive => exact execEthFrameReceive_kept h
  | ethPauseReceive => exact execEthPauseReceive_kept h
  | ethPauseExpiry => exact execEthPauseExpiry_kept h
  | ethPauseRepeat => exact execEthPauseRepeat_kept h
  | ethTxCommit => exact execEthTxCommit_kept h
  | pinFuncWrite => exact execPinFuncWrite_kept h
  | rxPacketToSlice => exact execRxPacketToSlice_kept h
  | txFifoWrite => exact execTxFifoWrite_kept h
  | flushRx => exact execFlushRx_kept h
  | flushTx => exact execFlushTx_kept h
  | fifoFlushDone => exact execFifoFlushDone_kept h
  | dropRx => exact execDropRx_kept h
  | dropTx => exact execDropTx_kept h
  | dioTimedEntry => exact execDioTimedEntry_kept h
  | dioEntryApply => exact execDioEntryApply_kept h
  | dioOutSet => exact execDioOutSet_kept h
  | dioOutClr => exact execDioOutClr_kept h
  | dioDirWrite => exact execDioDirWrite_kept h
  | dioRawChange => exact execDioRawChange_kept h
  | dioDebounceExpiry => exact execDioDebounceExpiry_kept h
  | evtLoanHoldExpiry => exact execEvtLoanHoldExpiry_kept h
  | pioShift => exact execPioShift_kept h
  | pioSet => exact execPioSet_kept h
  | pioWait => exact execPioWait_kept h
  | pioWaitSatisfied => exact execPioWaitSatisfied_kept h
  | pioJmp => exact execPioJmp_kept h
  | pioPull => exact execPioPull_kept h
  | pioPullUnstall => exact execPioPullUnstall_kept h
  | pioUnderflow => exact execPioUnderflow_kept h
  | pioPush => exact execPioPush_kept h
  | pioEvent => exact execPioEvent_kept h
  | pioLoad => exact execPioLoad_kept h
  | pioMov => exact execPioMov_kept h
  | pioDrop => exact execPioDrop_kept h
  | pioHalt => exact execPioHalt_kept h
  | pioIllegal => exact execPioIllegal_kept h
  | pioDelayExpiry => exact execPioDelayExpiry_kept h
  | pioStretchRelease => exact execPioStretchRelease_kept h
  | pioEopIdleClose => exact execPioEopIdleClose_kept h
  | pioInEdge => exact execPioInEdge_kept h
  | pioSyncStart => exact execPioSyncStart_kept h
  | pioSyncRestart => exact execPioSyncRestart_kept h
  | pioSyncTimeReached => exact execPioSyncTimeReached_kept h
  | pioHaltCmd => exact execPioHaltCmd_kept h
  | evfSet => exact execEvfSet_kept h
  | evfClr => exact execEvfClr_kept h
  | pioProgWrite => exact execPioProgWrite_kept h
  | canEnable => exact execCanEnable_kept h
  | canDisable => exact execCanDisable_kept h
  | canSleep => exact execCanSleep_kept h
  | canWake => exact execCanWake_kept h
  | canRecover => exact execCanRecover_kept h
  | canTxCancel => exact execCanTxCancel_kept h
  | canIntegrated => exact execCanIntegrated_kept h
  | canRecoveryDone => exact execCanRecoveryDone_kept h
  | canObjectLoad => exact execCanObjectLoad_kept h
  | canObjectRequest => exact execCanObjectRequest_kept h
  | canArbLost => exact execCanArbLost_kept h
  | canTxCommit => exact execCanTxCommit_kept h
  | canTxError => exact execCanTxError_kept h
  | canDupHoldEnd => exact execCanDupHoldEnd_kept h
  | canFrameReceive => exact execCanFrameReceive_kept h
  | canBusWake => exact execCanBusWake_kept h
  | canLoanHoldExpiry => exact execCanLoanHoldExpiry_kept h
  | canObjectCaptureRead => exact execCanObjectCaptureRead_kept h
  | sigInput => exact execSigInput_kept h
  | signalFrame => exact execSignalFrame_kept h
  | sigPeriodExpiry => exact execSigPeriodExpiry_kept h
  | sigMinGapExpiry => exact execSigMinGapExpiry_kept h
  | sigEntryWrite => exact execSigEntryWrite_kept h
  | sigEntryRead => exact execSigEntryRead_kept h
  | fbDeviceRequest => exact execFbDeviceRequest_kept h
  | fbResponse => exact execFbResponse_kept h
  | bridgeBusGrant => exact execBridgeBusGrant_kept h
  | bridgePcieCompletion => exact execBridgePcieCompletion_kept h
  | bridgeFarTimeout => exact execBridgeFarTimeout_kept h
  | bridgeLockTimeout => exact execBridgeLockTimeout_kept h
  | bridgeRetryTimer => exact execBridgeRetryTimer_kept h
  | csiFrameStart => exact execCsiFrameStart_kept h
  | csiLine => exact execCsiLine_kept h
  | csiFrameEnd => exact execCsiFrameEnd_kept h
  | camEnable => exact execCamEnable_kept h
  | camDisable => exact execCamDisable_kept h
  | camIdReadDone => exact execCamIdReadDone_kept h
  | camInitDone => exact execCamInitDone_kept h
  | visSettingsSet => exact execVisSettingsSet_kept h
  | cciWriteDone => exact execCciWriteDone_kept h
  | cciLatchPoint => exact execCciLatchPoint_kept h
  | cciDirectCmd => exact execCciDirectCmd_kept h
  | cciDirectDone => exact execCciDirectDone_kept h
  | pipeLineTake => exact execPipeLineTake_kept h
  | visOutputEnable => exact execVisOutputEnable_kept h
  | visStreamSend => exact execVisStreamSend_kept h
  | stagingRelease => exact execStagingRelease_kept h
  | streamFrame => exact execStreamFrame_kept h
  | sinkIncompleteTimeout => exact execSinkIncompleteTimeout_kept h
  | csitxRowSend => exact execCsitxRowSend_kept h
  | twinPairingStart => exact execTwinPairingStart_kept h
  | twinHello => exact execTwinHello_kept h
  | twinSyncDone => exact execTwinSyncDone_kept h
  | twinJournal => exact execTwinJournal_kept h
  | twinEpochEnd => exact execTwinEpochEnd_kept h
  | twinDigest => exact execTwinDigest_kept h
  | twinDigestTimeout => exact execTwinDigestTimeout_kept h
  | twinCopy => exact execTwinCopy_kept h
  | twinCopyAck => exact execTwinCopyAck_kept h
  | twinCkptTimer => exact execTwinCkptTimer_kept h
  | twinLedgerReq => exact execTwinLedgerReq_kept h
  | twinLedger => exact execTwinLedger_kept h
  | twinLedgerReadTimeout => exact execTwinLedgerReadTimeout_kept h
  | twinTake => exact execTwinTake_kept h
  | twinResync => exact execTwinResync_kept h
  | witnessBeat => exact execWitnessBeat_kept h
  | witnessSwitchOver => exact execWitnessSwitchOver_kept h
  | intAccept => exact execIntAccept_kept h
  | intEntryDone => exact execIntEntryDone_kept h
  | intComplete => exact execIntComplete_kept h
  | intExitDone => exact execIntExitDone_kept h
  | intPendSet => exact execIntPendSet_kept h
  | intPendClr => exact execIntPendClr_kept h
  | intMaskSet => exact execIntMaskSet_kept h
  | intMaskClr => exact execIntMaskClr_kept h
  | intRouteWrite => exact execIntRouteWrite_kept h
  | faultRecord => exact execFaultRecord_kept h
  | fltAckC => exact execFltAckC_kept h
  | fltAckU => exact execFltAckU_kept h
  | fltAckF => exact execFltAckF_kept h
  | fltActionWrite => exact execFltActionWrite_kept h
  | faultNPulseEnd => exact execFaultNPulseEnd_kept h
  | fltRecoverExpiry => exact execFltRecoverExpiry_kept h
  | dikeEnable => exact execDikeEnable_kept h
  | dikeDisable => exact execDikeDisable_kept h
  | dikeRestart => exact execDikeRestart_kept h
  | dikePresChange => exact execDikePresChange_kept h
  | dikeDebounceDone => exact execDikeDebounceDone_kept h
  | dikeLimiterEngage => exact execDikeLimiterEngage_kept h
  | dikeLimiterRelease => exact execDikeLimiterRelease_kept h
  | dikePgSettleExpiry => exact execDikePgSettleExpiry_kept h
  | dikeTrip => exact execDikeTrip_kept h
  | dikeBackoffEnd => exact execDikeBackoffEnd_kept h
  | dikeRetryResetTimer => exact execDikeRetryResetTimer_kept h
  | avsEvaluation => exact execAvsEvaluation_kept h
  | avsSettleExpiry => exact execAvsSettleExpiry_kept h
  | avsHoldPoll => exact execAvsHoldPoll_kept h
  | pmbusAlert => exact execPmbusAlert_kept h
  | pmbusResponse => exact execPmbusResponse_kept h
  | avsEnable => exact execAvsEnable_kept h
  | thermalSample => exact execThermalSample_kept h
  | thermalLimitStep => exact execThermalLimitStep_kept h
  | lullAutoStart => exact execLullAutoStart_kept h
  | canRxError => exact execCanRxError_kept h
  | referenceClocksPresent => exact execReferenceClocksPresent_kept h

/-- Every arm of `exec` answers a next state (R15). -/
theorem exec_next (c : Instr) (s : State) : ∃ t, exec c s = .next t := by
  cases c <;> exact ⟨_, rfl⟩

theorem step_nil (s : State) (h : s.pending = []) : step s = .next s.idleTick := by
  unfold step; rw [h]

theorem step_cons (c : Instr) (rest : List Instr) (s : State) (h : s.pending = c :: rest) :
    step s = exec c { s with pending := rest } := by
  unfold step; rw [h]

/-- The queue is in no canonical form, so taking its front leaves them as they are. -/
theorem canonical_pending (s : State) (l : List Instr) : Canonical { s with pending := l } = Canonical s := rfl

/-- A step takes the front of the queue, or none where none waits, and keeps the canonical forms. -/
theorem step_keeps {s t : State} (h : step s = .next t) :
    t.pending = s.pending.tail ∧ (Canonical s = true → Canonical t = true) := by
  cases hp : s.pending with
  | nil =>
    rw [step_nil s hp] at h
    cases h
    have k : Kept s s.idleTick := State.idleTick_kept (.refl s)
    exact ⟨k.pending.trans hp, k.canon⟩
  | cons c rest =>
    rw [step_cons c rest s hp] at h
    have k := exec_kept c _ t h
    exact ⟨k.pending, fun hc => k.canon ((canonical_pending s rest).trans hc)⟩

/-- Settles O1: the queue's front is what `step` matches on. -/
theorem stepRunsFront : Obligations.StepRunsFront := by
  intro c rest s
  exact step_cons c rest { s with pending := c :: rest } rfl

/-- Settles O3. -/
theorem commandsComplete : Obligations.CommandsComplete := exec_next

/-- Settles O4: `exec_kept`, and for the step its front taken off the queue. -/
theorem queueAndOutputKept : Obligations.QueueAndOutputKept := by
  refine ⟨fun c s t h => ?_, fun c rest s t hp h => ?_⟩
  · have k := exec_kept c s t h
    exact ⟨k.pending, k.out⟩
  · rw [(step_keeps h).1, hp, List.tail_cons]

/-- Settles O5: `step_keeps`, and the rest of a well-formed queue is well formed. -/
theorem canonicalStep : Obligations.CanonicalStep := by
  refine ⟨fun s t hs h => (step_keeps h).2 hs, fun s t hs h => ?_⟩
  obtain ⟨hp, hc⟩ := step_keeps h
  simp only [Safe, Bool.and_eq_true, List.all_eq_true] at hs ⊢
  obtain ⟨hcan, hwf⟩ := hs
  exact ⟨hc hcan, fun c hm => hwf c (List.mem_of_mem_tail (hp ▸ hm))⟩

/-- Settles O6. -/
theorem canonicalReset : Obligations.CanonicalReset := by
  unfold Obligations.CanonicalReset
  rfl

/-- Settles O7: no register field is listed after reset, so each reads its reset value. -/
theorem resetValues : Obligations.ResetValues :=
  ⟨fun _ => rfl, rfl, rfl, rfl, rfl, rfl, rfl, rfl, rfl, rfl⟩

end Sys2Proof.Machine
end

section
/-! PROOFS. Little-endian values in memory (R5). -/

namespace Sys2Proof.Machine

@[simp] theorem length_leBytes (n v : Nat) : (leBytes n v).length = n := by
  induction n generalizing v with
  | zero => rfl
  | succ n ih => simp [leBytes, ih]

/-- Byte `i` holds bits 8i to 8i + 7. -/
theorem getD_leBytes {n i : Nat} (v : Nat) (h : i < n) : ((leBytes n v).getD i 0).toNat = v / 256 ^ i % 256 := by
  induction n generalizing v i with
  | zero => omega
  | succ n ih =>
    cases i with
    | zero => simp [leBytes]
    | succ i =>
      have hi : i < n := by omega
      calc ((leBytes (n + 1) v).getD (i + 1) 0).toNat
          = ((leBytes n (v / 256)).getD i 0).toNat := by simp [leBytes]
        _ = v / 256 / 256 ^ i % 256 := ih _ hi
        _ = v / 256 ^ (i + 1) % 256 := by rw [Nat.div_div_eq_div_mul, Nat.pow_succ']

/-- The bytes of a value are worth its low bits. -/
theorem leNat_leBytes (n v : Nat) : leNat (leBytes n v) = v % 256 ^ n := by
  induction n generalizing v with
  | zero => simp [leBytes, leNat, Nat.mod_one]
  | succ n ih =>
    have hb : (BitVec.ofNat 8 v).toNat = v % 256 := by simp
    rw [leBytes, leNat, ih, hb, Nat.pow_succ', Nat.mod_mul]

/-- What has been stored reads back. -/
theorem Memory.readList_writeList (m : List Host.Cell) (k : Nat) (bs : List Byte) :
    Memory.readList (Memory.writeList m k bs) k bs.length = bs := by
  induction bs generalizing m k with
  | nil => rfl
  | cons b bs ih =>
    simp only [Memory.writeList, List.length_cons, Memory.readList]
    rw [Memory.read_writeList_other _ _ _ _ (by omega), Memory.read_write_same, ih]

/-- Settles O8: a value laid out, stored and read back. -/
theorem littleEndian : Obligations.LittleEndian := by
  refine ⟨fun n v i h => ⟨length_leBytes n v, getD_leBytes v h⟩, fun s k n v => ?_, fun s k j bs h => ?_⟩
  · have hr := Memory.readList_writeList s.mem k (leBytes n v)
    rw [length_leBytes] at hr
    rw [State.memRead, State.memWrite_mem, hr, leNat_leBytes]
  · rw [State.memWrite_mem, Memory.read_writeList_other _ _ _ _ h]

end Sys2Proof.Machine
end

section
/-! PROOFS. Register accesses of a requester (R6-R8, R11, R492): what the bus does with a register of each kind, and the statements
about offsets without a register and about accesses. -/

namespace Sys2Proof.Machine

open Sys2Proof.Machine.Reg

section Bus

variable {s : State} {req : Requester} {off v : Nat}

theorem State.busWrite_closed (h : s.busOpen off = false) : s.busWrite req off v = s := by
  simp [State.busWrite, h]

/-- A register with read-only fields alone, or with none, ignores a write (R7, R8). -/
theorem State.busWrite_readOnly (hp : pairAt off = .single) (hr : (fieldsAt off).all (fun e => e.2 == .ro) = true) :
    s.busWrite req off v = s := by
  simp [State.busWrite, hp, hr]

theorem State.busWrite_single (h : s.busOpen off = true) (hp : pairAt off = .single)
    (hr : (fieldsAt off).all (fun e => e.2 == .ro) = false) :
    s.busWrite req off v = (s.writeReg req off v).copyConfig off v := by
  simp [State.busWrite, h, hp, hr]

theorem State.busWrite_lo (h : s.busOpen off = true) (hp : pairAt off = .lo) : s.busWrite req off v = s.stage req off v := by
  simp [State.busWrite, h, hp]

theorem State.busWrite_hi (h : s.busOpen off = true) (hp : pairAt off = .hi) :
    s.busWrite req off v = ((s.writeHigh req off v).copyConfig (off - 4)
      ((s.stagedHalf req (off - 4)).getD (s.stored (off - 4)))).copyConfig off v := by
  simp [State.busWrite, h, hp]

theorem State.busRead_lo (h : s.busOpen off = true) (hp : pairAt off = .lo) :
    s.busRead req off = (s.captureLow req off, s.readReg req off) := by
  simp [State.busRead, h, hp]

/-- A read of the four bytes of one register. -/
theorem State.busReadBytes_word (ha : off % 4 = 0) :
    s.busReadBytes req off 4 = ((s.busRead req off).1, ((wordBytes [(s.busRead req off).2]).drop 0).take 4) := by
  simp [State.busReadBytes, State.busReads, ha]

/-- A low half with a writable field is staged in place of an earlier one (R11). -/
theorem State.stage_writable (hr : (fieldsAt off).all (fun e => e.2 == .ro) = false) :
    s.stage req off v =
      { s with staged := s.staged.filter (fun e => !(e.1 == req && e.2.1 == off)) ++ [(req, off, v)] } := by
  unfold State.stage
  rw [hr]
  rfl

theorem fieldsAt_undefined (h : regAt off = none) : fieldsAt off = [] := by simp [fieldsAt, h]

theorem pairAt_undefined (h : regAt off = none) : pairAt off = .single := by simp [pairAt, h]

end Bus

/-- Settles O9: without a table entry an offset has no field, so it is a register that ignores writes and reads 0. -/
theorem undefinedOffsets : Obligations.UndefinedOffsets := by
  intro s req off val h
  have hp := pairAt_undefined h
  have hf := fieldsAt_undefined h
  constructor
  · have hw : s.busWrite req off val.toNat = s := State.busWrite_readOnly hp (by simp [hf])
    exact congrArg Host.Outcome.next hw
  · simp [State.busRead, hp, hf]

/-- Settles O21, clause by clause from the bus rules above. -/
theorem registerAccess : Obligations.RegisterAccess := by
  refine ⟨?single, ?low, ?high, ?closed, ?readOnly, ?partialWrite, ?read, ?readLow, ?writeLow⟩
  case single => exact fun s req off val h hp hr => congrArg _ (State.busWrite_single h hp hr)
  case low => exact fun s req off val h hp => congrArg _ (State.busWrite_lo h hp)
  case high => exact fun s req off val h hp => congrArg _ (State.busWrite_hi h hp)
  case closed => exact fun s req off val h => congrArg _ (State.busWrite_closed h)
  case readOnly => exact fun s req off val hp hr => congrArg _ (State.busWrite_readOnly hp hr)
  case partialWrite =>
    intro s req off h
    simp [exec, execBar0PartialWrite, h]
  case read => exact fun s req a len => rfl
  case readLow =>
    intro s req off h hp ha
    simp only [exec, execRegPairLoRead, State.busReadBytes_word ha, State.busRead_lo h hp, State.captureLow]
  case writeLow =>
    intro s req off val h hp hr
    simp only [exec, execRegPairLoWrite, h, hp, and_self, if_true, State.stage_writable hr]

end Sys2Proof.Machine
end

section
/-! PROOFS. Frames: which components of the state an operation can touch. `State.outside P` blanks the components named in `P`,
so `t.outside P = s.outside P` says that `t` and `s` differ in those components at most. -/

namespace Sys2Proof.Machine

/-- The components of `State`. -/
inductive Part where
  | regs | mem | bar2 | capture | staged | node | boot | ring | flt | hq | dlv | twin | time | saved | savedRun | pld | sch
  | vis | net | fc | canCap | sig | bulk | dike | pwr | ints | out | fresh | pending
  deriving DecidableEq

/-- The components in `P` taken from `t`, the others from `s`. -/
def State.graft (P : List Part) (s t : State) : State where
  regs := if .regs ∈ P then t.regs else s.regs
  mem := if .mem ∈ P then t.mem else s.mem
  bar2 := if .bar2 ∈ P then t.bar2 else s.bar2
  capture := if .capture ∈ P then t.capture else s.capture
  staged := if .staged ∈ P then t.staged else s.staged
  node := if .node ∈ P then t.node else s.node
  boot := if .boot ∈ P then t.boot else s.boot
  ring := if .ring ∈ P then t.ring else s.ring
  flt := if .flt ∈ P then t.flt else s.flt
  hq := if .hq ∈ P then t.hq else s.hq
  dlv := if .dlv ∈ P then t.dlv else s.dlv
  twin := if .twin ∈ P then t.twin else s.twin
  time := if .time ∈ P then t.time else s.time
  saved := if .saved ∈ P then t.saved else s.saved
  savedRun := if .savedRun ∈ P then t.savedRun else s.savedRun
  pld := if .pld ∈ P then t.pld else s.pld
  sch := if .sch ∈ P then t.sch else s.sch
  vis := if .vis ∈ P then t.vis else s.vis
  net := if .net ∈ P then t.net else s.net
  fc := if .fc ∈ P then t.fc else s.fc
  canCap := if .canCap ∈ P then t.canCap else s.canCap
  sig := if .sig ∈ P then t.sig else s.sig
  bulk := if .bulk ∈ P then t.bulk else s.bulk
  dike := if .dike ∈ P then t.dike else s.dike
  pwr := if .pwr ∈ P then t.pwr else s.pwr
  ints := if .ints ∈ P then t.ints else s.ints
  out := if .out ∈ P then t.out else s.out
  fresh := if .fresh ∈ P then t.fresh else s.fresh
  pending := if .pending ∈ P then t.pending else s.pending

/-- The state with the components in `P` blank. -/
def State.outside (P : List Part) (s : State) : State := s.graft P {}

theorem State.graft_self (P : List Part) (s : State) : s.graft P s = s := by
  unfold State.graft
  simp only [ite_self]

theorem State.graft_graft (P : List Part) (s u t : State) : (s.graft P u).graft P t = s.graft P t := by
  simp +contextual only [State.graft, ite_false]

/-- What differs from `s` in `P` at most is `s` with its components in `P` replaced. -/
theorem State.eq_graft_of_outside {P : List Part} {s t : State} (h : t.outside P = s.outside P) : t = s.graft P t :=
  calc t = (t.graft P {}).graft P t := by rw [State.graft_graft, State.graft_self]
    _ = (s.graft P {}).graft P t := congrArg (State.graft P · t) h
    _ = s.graft P t := State.graft_graft ..

/-- The outcome is a next state that differs from `s` in `P` at most. -/
def Leaves (P : List Part) (s : State) (r : Host.Outcome State Fault Refusal) : Prop :=
  ∃ t, r = .next t ∧ t.outside P = s.outside P

theorem leaves_next {P : List Part} {s t : State} (h : t.outside P = s.outside P) : Leaves P s (.next t) := ⟨t, rfl, h⟩

theorem Leaves.graft {P : List Part} {s : State} {r : Host.Outcome State Fault Refusal} (h : Leaves P s r) :
    ∃ t, r = .next t ∧ t = s.graft P t :=
  let ⟨t, e, ht⟩ := h
  ⟨t, e, State.eq_graft_of_outside ht⟩

section Rules

variable {P : List Part} {s : State}

/-- Component by component, `t` differs from `s` in `P` at most. -/
@[simp] abbrev State.agrees (P : List Part) (s t : State) : Prop :=
  (.regs ∈ P ∨ t.regs = s.regs) ∧ (.mem ∈ P ∨ t.mem = s.mem) ∧ (.bar2 ∈ P ∨ t.bar2 = s.bar2) ∧
  (.capture ∈ P ∨ t.capture = s.capture) ∧ (.staged ∈ P ∨ t.staged = s.staged) ∧ (.node ∈ P ∨ t.node = s.node) ∧
  (.boot ∈ P ∨ t.boot = s.boot) ∧ (.ring ∈ P ∨ t.ring = s.ring) ∧ (.flt ∈ P ∨ t.flt = s.flt) ∧ (.hq ∈ P ∨ t.hq = s.hq) ∧
  (.dlv ∈ P ∨ t.dlv = s.dlv) ∧ (.twin ∈ P ∨ t.twin = s.twin) ∧ (.time ∈ P ∨ t.time = s.time) ∧
  (.saved ∈ P ∨ t.saved = s.saved) ∧ (.savedRun ∈ P ∨ t.savedRun = s.savedRun) ∧ (.pld ∈ P ∨ t.pld = s.pld) ∧
  (.sch ∈ P ∨ t.sch = s.sch) ∧ (.vis ∈ P ∨ t.vis = s.vis) ∧ (.net ∈ P ∨ t.net = s.net) ∧ (.fc ∈ P ∨ t.fc = s.fc) ∧
  (.canCap ∈ P ∨ t.canCap = s.canCap) ∧ (.sig ∈ P ∨ t.sig = s.sig) ∧ (.bulk ∈ P ∨ t.bulk = s.bulk) ∧
  (.dike ∈ P ∨ t.dike = s.dike) ∧ (.pwr ∈ P ∨ t.pwr = s.pwr) ∧ (.ints ∈ P ∨ t.ints = s.ints) ∧ (.out ∈ P ∨ t.out = s.out) ∧
  (.fresh ∈ P ∨ t.fresh = s.fresh) ∧ (.pending ∈ P ∨ t.pending = s.pending)

theorem outside_of_agrees {t : State} (h : s.agrees P t) : t.outside P = s.outside P := by
  have pick {α : Type} {p : Part} {a b d : α} (h : p ∈ P ∨ a = b) : (if p ∈ P then d else a) = if p ∈ P then d else b := by
    rcases h with h | rfl
    · rw [if_pos h, if_pos h]
    · rfl
  obtain ⟨hregs, hmem, hbar2, hcapture, hstaged, hnode, hboot, hring, hflt, hhq, hdlv, htwin, htime, hsaved, hsavedRun,
    hpld, hsch, hvis, hnet, hfc, hcanCap, hsig, hbulk, hdike, hpwr, hints, hout, hfresh, hpending⟩ := h
  simp only [State.outside, State.graft, State.mk.injEq]
  exact ⟨pick hregs, pick hmem, pick hbar2, pick hcapture, pick hstaged, pick hnode, pick hboot, pick hring, pick hflt,
    pick hhq, pick hdlv, pick htwin, pick htime, pick hsaved, pick hsavedRun, pick hpld, pick hsch, pick hvis, pick hnet,
    pick hfc, pick hcanCap, pick hsig, pick hbulk, pick hdike, pick hpwr, pick hints, pick hout, pick hfresh, pick hpending⟩

/-- An update of components in `P`. No operation here writes LPDDR5, so the update's LPDDR5 tells which state it updates. -/
@[simp] theorem outside_update {regs bar2 capture staged node boot ring flt hq dlv twin time saved savedRun pld sch vis net
    fc canCap sig bulk dike pwr ints out fresh pending}
    (h : s.agrees P { s with
      regs, bar2, capture, staged, node, boot, ring, flt, hq, dlv, twin, time, saved, savedRun, pld, sch,
      vis, net, fc, canCap, sig, bulk, dike, pwr, ints, out, fresh, pending }) :
    State.outside P { s with
      regs, bar2, capture, staged, node, boot, ring, flt, hq, dlv, twin, time, saved, savedRun, pld, sch,
      vis, net, fc, canCap, sig, bulk, dike, pwr, ints, out, fresh, pending } = s.outside P :=
  outside_of_agrees h

@[simp] theorem outside_ite {c : Prop} {_ : Decidable c} {a b : State} :
    (if c then a else b).outside P = if c then a.outside P else b.outside P := apply_ite ..

/-- A loop whose rounds leave everything outside `P`. -/
@[simp] theorem outside_foldl {α : Type} {l : List α} {f : State → α → State}
    (hf : ∀ s x, (f s x).outside P = s.outside P) : (l.foldl f s).outside P = s.outside P := by
  induction l generalizing s with
  | nil => rfl
  | cons a l ih => rw [List.foldl_cons, ih, hf]

@[simp] theorem State.each_outside {l : List Nat} {f : State → Nat → State} (hf : ∀ s x, (f s x).outside P = s.outside P) :
    (s.each l f).outside P = s.outside P := outside_foldl hf

/-- The components that a fault of class F can touch: its containment stops domains, wakes the node and tells others
(R432, R433). -/
@[simp] abbrev Wide (P : List Part) : Prop :=
  .regs ∈ P ∧ .node ∈ P ∧ .boot ∈ P ∧ .ring ∈ P ∧ .flt ∈ P ∧ .hq ∈ P ∧ .dlv ∈ P ∧ .twin ∈ P ∧ .sch ∈ P ∧ .vis ∈ P ∧ .net ∈ P ∧
  .fc ∈ P ∧ .sig ∈ P ∧ .bulk ∈ P ∧ .ints ∈ P ∧ .out ∈ P

end Rules

end Sys2Proof.Machine
end

section
/-! PROOFS. One frame rule for each operation that a command of the frame statements runs: outside the components that its
hypothesis names it leaves the state as it was. -/

namespace Sys2Proof.Machine

section Operations

variable {P : List Part} {s : State}

/-! ### Machine/Ops.lean -/

@[simp] theorem State.put_outside {f : Field} {v : Nat} (h : .regs ∈ P) : (s.put f v).outside P = s.outside P := by
  simp [State.put, h]

@[simp] theorem State.addTo_outside {f : Field} {n : Nat} (h : .regs ∈ P) : (s.addTo f n).outside P = s.outside P := by
  simp [State.addTo, h]

@[simp] theorem State.inc_outside {f : Field} (h : .regs ∈ P) : (s.inc f).outside P = s.outside P := by simp [State.inc, h]

@[simp] theorem State.addSat_outside {f : Field} {n : Nat} (h : .regs ∈ P) : (s.addSat f n).outside P = s.outside P := by
  simp [State.addSat, h]

@[simp] theorem State.incSat_outside {f : Field} (h : .regs ∈ P) : (s.incSat f).outside P = s.outside P := by
  simp [State.incSat, h]

@[simp] theorem State.orBits_outside {f : Field} {m : Nat} (h : .regs ∈ P) : (s.orBits f m).outside P = s.outside P := by
  simp [State.orBits, h]

@[simp] theorem State.dropBits_outside {f : Field} {m : Nat} (h : .regs ∈ P) : (s.dropBits f m).outside P = s.outside P := by
  simp [State.dropBits, h]

@[simp] theorem State.put64_outside {lo hi : Field} {v : Nat} (h : .regs ∈ P) :
    (s.put64 lo hi v).outside P = s.outside P := by
  simp [State.put64, h]

@[simp] theorem State.emit_outside {x : Output} (h : .out ∈ P) : (s.emit x).outside P = s.outside P := by
  simp [State.emit, h]

@[simp] theorem State.showGroups_outside (h : .node ∈ P ∧ .out ∈ P) : s.showGroups.outside P = s.outside P := by
  simp [State.showGroups, h]

@[simp] theorem State.setMode_outside {m : Nat} (h : .regs ∈ P ∧ .node ∈ P ∧ .out ∈ P) :
    (s.setMode m).outside P = s.outside P := by
  simp [State.setMode, h]

@[simp] theorem State.setPhase_outside {d : Nat} {p : Phase} (h : .regs ∈ P ∧ .node ∈ P ∧ .out ∈ P) :
    (s.setPhase d p).outside P = s.outside P := by
  unfold State.setPhase
  cases p <;> simp [h]

@[simp] theorem State.endThreat_outside {d : Nat} (h : .node ∈ P) : (s.endThreat d).outside P = s.outside P := by
  simp [State.endThreat, h]

@[simp] theorem State.msix_outside {v : Nat} (h : .regs ∈ P ∧ .hq ∈ P ∧ .out ∈ P) : (s.msix v).outside P = s.outside P := by
  simp [State.msix, h]

@[simp] theorem State.pendShared_outside {n : Nat} (h : .regs ∈ P ∧ .hq ∈ P ∧ .out ∈ P) :
    (s.pendShared n).outside P = s.outside P := by
  simp [State.pendShared, h]

@[simp] theorem State.pendPrivate_outside {b n : Nat} (h : .regs ∈ P) : (s.pendPrivate b n).outside P = s.outside P := by
  simp [State.pendPrivate, h]

@[simp] theorem State.riseBit_outside {f : Field} {i b n : Nat} (h : .regs ∈ P) :
    (s.riseBit f i b n).outside P = s.outside P := by
  simp [State.riseBit, h]

@[simp] theorem State.putLevel_outside {f : Field} {v : Nat} (h : .regs ∈ P ∧ .hq ∈ P ∧ .out ∈ P) :
    (s.putLevel f v).outside P = s.outside P := by
  unfold State.putLevel
  split <;> simp [h]

@[simp] theorem State.raise_outside {f : Field} (h : .regs ∈ P ∧ .hq ∈ P ∧ .out ∈ P) :
    (s.raise f).outside P = s.outside P := by
  simp [State.raise, h]

@[simp] theorem State.hostWrite_outside {addr : Nat} {bytes : List Byte} (h : .hq ∈ P ∧ .out ∈ P) :
    (s.hostWrite addr bytes).outside P = s.outside P := by
  simp [State.hostWrite, h]

@[simp] theorem State.sendOn_outside {p dst seq : Nat} {body : KBody} (h : .regs ∈ P ∧ .ring ∈ P ∧ .out ∈ P) :
    (s.sendOn p dst seq body).outside P = s.outside P := by
  simp [State.sendOn, h]

@[simp] theorem State.broadcast_outside {body : KBody} (h : .regs ∈ P ∧ .ring ∈ P ∧ .out ∈ P) :
    (s.broadcast body).outside P = s.outside P := by
  simp [State.broadcast, h]

@[simp] theorem State.unicast_outside {node ep seq : Nat} {body : KBody} {back : Nat}
    (h : .regs ∈ P ∧ .ring ∈ P ∧ .out ∈ P) :
    (s.unicast node ep seq body back).outside P = s.outside P := by
  unfold State.unicast
  split
  · rfl
  · split
    · simp [h]
    · split <;> simp [h]

@[simp] theorem State.sendEpChange_outside {entries : List (Nat × Nat)} (h : .regs ∈ P ∧ .ring ∈ P ∧ .out ∈ P) :
    (s.sendEpChange entries).outside P = s.outside P := by
  simp [State.sendEpChange, h]

@[simp] theorem State.epChange_outside {entries : List (Nat × Nat)} (h : .regs ∈ P ∧ .ring ∈ P ∧ .out ∈ P) :
    (s.epChange entries).outside P = s.outside P := by
  simp [State.epChange, h]

/-! ### Machine/ClusterOps.lean -/

@[simp] theorem State.setCl_outside {n : Nat} {c : Cluster} (h : .fc ∈ P) : (s.setCl n c).outside P = s.outside P := by
  simp [State.setCl, h]

@[simp] theorem State.setPortSt_outside {n q : Nat} {x : PortSt} (h : .fc ∈ P) :
    (s.setPortSt n q x).outside P = s.outside P := by
  simp [State.setPortSt, h]

@[simp] theorem State.setLine_outside {n p : Nat} {x : LineSt} (h : .regs ∈ P ∧ .fc ∈ P) :
    (s.setLine n p x).outside P = s.outside P := by
  simp [State.setLine, h]

@[simp] theorem State.setGroup_outside {n g : Nat} {x : GroupSt} (h : .fc ∈ P) :
    (s.setGroup n g x).outside P = s.outside P := by
  simp [State.setGroup, h]

@[simp] theorem State.setEng_outside {n g e : Nat} {x : EngSt} (h : .fc ∈ P) :
    (s.setEng n g e x).outside P = s.outside P := by
  simp [State.setEng, h]

@[simp] theorem State.setCan_outside {n c : Nat} {x : CanSt} (h : .fc ∈ P) : (s.setCan n c x).outside P = s.outside P := by
  simp [State.setCan, h]

@[simp] theorem State.showPins_outside {before : State} (h : .out ∈ P) :
    (State.showPins before s).outside P = s.outside P := by
  simp [State.showPins, h]

@[simp] theorem State.drivePin_outside {n p : Nat} {level oe : Bool} (h : .fc ∈ P ∧ .out ∈ P) :
    (s.drivePin n p level oe).outside P = s.outside P := by
  simp [State.drivePin, h]

@[simp] theorem State.driveFlowPin_outside {n p : Nat} (h : .fc ∈ P ∧ .out ∈ P) :
    (s.driveFlowPin n p).outside P = s.outside P := by
  simp [State.driveFlowPin, h]

@[simp] theorem State.setFlow_outside {m : Nat} (h : .fc ∈ P) : (s.setFlow m).outside P = s.outside P := by
  simp [State.setFlow, h]

@[simp] theorem State.driveFlow_outside {m : Nat} (h : .fc ∈ P ∧ .out ∈ P) : (s.driveFlow m).outside P = s.outside P := by
  simp [State.driveFlow, h]

@[simp] theorem State.showFlow_outside {n q dir : Nat} (h : .fc ∈ P ∧ .out ∈ P) :
    (s.showFlow n q dir).outside P = s.outside P := by
  simp [State.showFlow, h]

@[simp] theorem State.showPort_outside {n q : Nat} (h : .regs ∈ P ∧ .fc ∈ P ∧ .out ∈ P) :
    (s.showPort n q).outside P = s.outside P := by
  simp [State.showPort, h]

@[simp] theorem State.setEngState_outside {n g e st : Nat} (h : .regs ∈ P) :
    (s.setEngState n g e st).outside P = s.outside P := by
  simp [State.setEngState, h]

@[simp] theorem State.haltEngine_outside {n g e detail : Nat} (h : .regs ∈ P ∧ .dlv ∈ P ∧ .fc ∈ P ∧ .out ∈ P) :
    (s.haltEngine n g e detail).outside P = s.outside P := by
  unfold State.haltEngine
  split
  · rfl
  · extract_lets x s₁ s₂ q s₃ r
    have h₁ : s₁.outside P = s.outside P := by simp [s₁, h]
    have h₂ : s₂.outside P = s.outside P := by simp [s₂, h₁, h]
    have h₃ : s₃.outside P = s.outside P := by
      unfold s₃
      split
      · split <;> simp [h₂, h]
      · exact h₂
    simp [h₃, h]

@[simp] theorem State.haltGroup_outside {n g detail : Nat} (h : .regs ∈ P ∧ .dlv ∈ P ∧ .fc ∈ P ∧ .out ∈ P) :
    (s.haltGroup n g detail).outside P = s.outside P := by
  simp [State.haltGroup, h]

@[simp] theorem State.canConfig_outside {n c : Nat} (h : .regs ∈ P ∧ .fc ∈ P) :
    (s.canConfig n c).outside P = s.outside P := by
  simp [State.canConfig, h]

/-! ### Machine/Protect.lean -/

@[simp] theorem State.voidRound_outside {reason : Nat} (h : .regs ∈ P ∧ .ring ∈ P ∧ .out ∈ P) :
    (s.voidRound reason).outside P = s.outside P := by
  simp [State.voidRound, h]

@[simp] theorem State.voidBy_outside {reason : Nat} (h : .regs ∈ P ∧ .ring ∈ P ∧ .out ∈ P) :
    (s.voidBy reason).outside P = s.outside P := by
  simp [State.voidBy, h]

@[simp] theorem State.showBreaks_outside (h : .regs ∈ P ∧ .hq ∈ P ∧ .out ∈ P) : s.showBreaks.outside P = s.outside P := by
  simp [State.showBreaks, h]

@[simp] theorem State.addBreak_outside {node port seq : Nat} (h : .regs ∈ P ∧ .ring ∈ P ∧ .hq ∈ P ∧ .out ∈ P) :
    (s.addBreak node port seq).outside P = s.outside P := by
  simp [State.addBreak, h]

@[simp] theorem State.startEnum_outside (h : .regs ∈ P ∧ .ring ∈ P ∧ .out ∈ P) : s.startEnum.outside P = s.outside P := by
  simp [State.startEnum, h]

@[simp] theorem State.protectionEvent_outside {release : Bool} (h : .regs ∈ P ∧ .ring ∈ P ∧ .out ∈ P) :
    (s.protectionEvent release).outside P = s.outside P := by
  simp [State.protectionEvent, h]

@[simp] theorem State.wrapPort_outside {p : Nat} (h : .regs ∈ P ∧ .ring ∈ P ∧ .hq ∈ P ∧ .out ∈ P) :
    (s.wrapPort p).outside P = s.outside P := by
  simp [State.wrapPort, h]

/-! ### Machine/Stops.lean -/

@[simp] theorem State.wakeRegs_outside {d : Nat} (h : .regs ∈ P) : (s.wakeRegs d).outside P = s.outside P := by
  simp [State.wakeRegs, h]

@[simp] theorem State.dropTaken_outside {d : Nat} (h : .dlv ∈ P) : (s.dropTaken d).outside P = s.outside P := by
  simp [State.dropTaken, h]

@[simp] theorem State.stopBridge_outside (h : .dlv ∈ P ∧ .sig ∈ P) : s.stopBridge.outside P = s.outside P := by
  simp [State.stopBridge, h]

@[simp] theorem State.clearEndpoints_outside {d : Nat} (h : .regs ∈ P ∧ .ring ∈ P ∧ .out ∈ P) :
    (s.clearEndpoints d).outside P = s.outside P := by
  simp [State.clearEndpoints, h]

@[simp] theorem State.loseHost_outside {blocked : Bool} (h : .hq ∈ P ∧ .dlv ∈ P) :
    (s.loseHost blocked).outside P = s.outside P := by
  simp [State.loseHost, h]

@[simp] theorem State.freshUnits_outside {d : Nat} (h : Wide P) : (s.freshUnits d).outside P = s.outside P := by
  simp [State.freshUnits, h]

@[simp] theorem State.clearLanes_outside {p : Nat} (h : .regs ∈ P) : (s.clearLanes p).outside P = s.outside P := by
  simp [State.clearLanes, h]

@[simp] theorem State.losePair_outside (h : .regs ∈ P ∧ .twin ∈ P) : s.losePair.outside P = s.outside P := by
  simp [State.losePair, h]

@[simp] theorem State.stopPort_outside {p : Nat} (h : .regs ∈ P ∧ .ring ∈ P ∧ .hq ∈ P ∧ .twin ∈ P ∧ .out ∈ P) :
    (s.stopPort p).outside P = s.outside P := by
  simp [State.stopPort, h]

@[simp] theorem State.stopDomain_outside {d : Nat} (h : Wide P) : (s.stopDomain d).outside P = s.outside P := by
  have torn (s : State) (f : PFrame) :
      (f.started.foldl (fun s o => s.emit (.tornFrame o)) s).outside P = s.outside P :=
    outside_foldl fun s o => State.emit_outside (by simp [h])
  simp [State.stopDomain, torn, h]

/-! ### Machine/FaultHub.lean -/

@[simp] theorem State.showHealth_outside (h : .regs ∈ P) : s.showHealth.outside P = s.outside P := by
  simp [State.showHealth, h]

@[simp] theorem State.showUnack_outside (h : .regs ∈ P) : s.showUnack.outside P = s.outside P := by simp [State.showUnack, h]

@[simp] theorem State.logEntry_outside {seq : Nat} {ws : List Nat} (h : .regs ∈ P) :
    (s.logEntry seq ws).outside P = s.outside P := by
  simp [State.logEntry, h]

@[simp] theorem State.hlogLoop_outside {fuel : Nat} (h : .regs ∈ P ∧ .hq ∈ P ∧ .out ∈ P) :
    (State.hlogLoop fuel s).outside P = s.outside P := by
  induction fuel generalizing s with
  | zero => rfl
  | succ fuel ih => simp [State.hlogLoop, ih, h]

@[simp] theorem State.hlogCopy_outside (h : .regs ∈ P ∧ .hq ∈ P ∧ .out ∈ P) : s.hlogCopy.outside P = s.outside P := by
  simp [State.hlogCopy, h]

@[simp] theorem State.downEndpoints_outside {d : Nat} (h : .dlv ∈ P) : (s.downEndpoints d).outside P = s.outside P := by
  simp [State.downEndpoints, h]

@[simp] theorem State.fenceDomain_outside {d : Nat} (h : Wide P) : (s.fenceDomain d).outside P = s.outside P := by
  unfold State.fenceDomain
  extract_lets s₁ s₂
  split <;> simp [s₁, s₂, h]

@[simp] theorem State.portsWake_outside (h : .regs ∈ P ∧ .ring ∈ P ∧ .hq ∈ P ∧ .out ∈ P) :
    s.portsWake.outside P = s.outside P := by
  simp [State.portsWake, h]

@[simp] theorem State.lullBack_outside (h : Wide P) : s.lullBack.outside P = s.outside P := by simp [State.lullBack, h]

@[simp] theorem State.leaveLull_outside (h : Wide P) : s.leaveLull.outside P = s.outside P := by simp [State.leaveLull, h]

@[simp] theorem State.bringBack_outside (h : .regs ∈ P ∧ .node ∈ P ∧ .ring ∈ P ∧ .out ∈ P) :
    s.bringBack.outside P = s.outside P := by
  simp only [State.bringBack]
  rw [State.each_outside]
  · simp [h]
  · intro s d
    split
    · rfl
    · split <;> simp [h]

@[simp] theorem State.disarm_outside {code : Nat} (h : .regs ∈ P ∧ .boot ∈ P ∧ .ring ∈ P ∧ .out ∈ P) :
    (s.disarm code).outside P = s.outside P := by
  unfold State.disarm
  split <;> simp [h]

@[simp] theorem State.stopActivation_outside (h : .boot ∈ P ∧ .out ∈ P) : s.stopActivation.outside P = s.outside P := by
  simp [State.stopActivation, h]

@[simp] theorem State.sendRemoteFault_outside (h : .ring ∈ P ∧ .out ∈ P) : s.sendRemoteFault.outside P = s.outside P := by
  simp [State.sendRemoteFault, h]

@[simp] theorem State.classF_outside {src : Nat} (h : Wide P) : (s.classF src).outside P = s.outside P := by
  unfold State.classF
  extract_lets s₁ bits s₂ s₃ n₃ s₄ s₅ s₆ s₇ n₇ s₈
  split
  · simp [s₁, h]
  · have h₃ : s₃.outside P = s.outside P := by simp [s₃, s₂, s₁, h]
    have h₄ : s₄.outside P = s.outside P := by unfold s₄; split <;> simp [n₃, h₃, h]
    simp [s₈, n₇, s₇, s₆, s₅, h₄, h]

@[simp] theorem State.recordWith_outside {src : Nat} {info : List Nat} (h : Wide P) :
    (s.recordWith src info).outside P = s.outside P := by
  simp [State.recordWith, h]

@[simp] theorem State.record_outside {src : Nat} (h : Wide P) : (s.record src).outside P = s.outside P := by
  simp [State.record, h]

/-! ### Machine/Node.lean -/

/-- As far as the action of the request does. -/
@[simp] theorem State.modeRequest_outside {m : Nat} {act : State → State} (h : .regs ∈ P)
    (ha : (act s).outside P = s.outside P) : (s.modeRequest m act).outside P = s.outside P := by
  simp [State.modeRequest, ha, h]

@[simp] theorem State.drivePins_outside (h : .regs ∈ P ∧ .node ∈ P ∧ .out ∈ P) : s.drivePins.outside P = s.outside P := by
  simp [State.drivePins, h]

@[simp] theorem State.takePulse_outside (h : .regs ∈ P ∧ .node ∈ P ∧ .out ∈ P) : s.takePulse.outside P = s.outside P := by
  unfold State.takePulse
  split
  · extract_lets n s₁
    have h₁ : s₁.outside P = s.outside P := by simp [s₁, h]
    split
    · simp [h₁, h]
    · exact h₁
  · rfl

/-! ### Machine/Reset.lean -/

@[simp] theorem State.domainsUp_outside (h : .regs ∈ P ∧ .node ∈ P ∧ .out ∈ P) : s.domainsUp.outside P = s.outside P := by
  simp [State.domainsUp, h]

/-! ### Machine/Boot.lean -/

@[simp] theorem State.setSessionStatus_outside {v : Nat} (h : .regs ∈ P) :
    (s.setSessionStatus v).outside P = s.outside P := by
  simp [State.setSessionStatus, h]

@[simp] theorem State.setSessionDetail_outside {v : Nat} (h : .regs ∈ P) :
    (s.setSessionDetail v).outside P = s.outside P := by
  simp [State.setSessionDetail, h]

@[simp] theorem State.setSlotInfo_outside {slot : Nat} {x : SlotInfo} (h : .boot ∈ P) :
    (s.setSlotInfo slot x).outside P = s.outside P := by
  simp [State.setSlotInfo, h]

@[simp] theorem State.showPages_outside (h : .regs ∈ P) : s.showPages.outside P = s.outside P := by
  unfold State.showPages
  split
  · simp [h]
  · extract_lets p s₁
    split <;> simp [s₁, h]

@[simp] theorem State.restartLoad_outside (h : .regs ∈ P ∧ .boot ∈ P) : s.restartLoad.outside P = s.outside P := by
  simp [State.restartLoad, h]

@[simp] theorem State.restartStage_outside (h : .regs ∈ P ∧ .boot ∈ P) : s.restartStage.outside P = s.outside P := by
  simp [State.restartStage, h]

@[simp] theorem State.restartSession_outside {sess : Nat} (h : .regs ∈ P ∧ .boot ∈ P) :
    (s.restartSession sess).outside P = s.outside P := by
  simp [State.restartSession, h]

@[simp] theorem State.ctrlRestart_outside {sess : Nat} (h : .regs ∈ P ∧ .boot ∈ P) :
    (s.ctrlRestart sess).outside P = s.outside P := by
  simp [State.ctrlRestart, h]

@[simp] theorem State.loadProcs_outside {ps : List Nat} (h : .out ∈ P) : (s.loadProcs ps).outside P = s.outside P := by
  unfold State.loadProcs
  exact outside_foldl fun s p => outside_foldl fun s c => State.emit_outside h

@[simp] theorem State.startImage_outside (h : .out ∈ P) : s.startImage.outside P = s.outside P := by
  simp [State.startImage, h]

@[simp] theorem State.verifyWarm_outside (h : .regs ∈ P ∧ .boot ∈ P ∧ .out ∈ P) : s.verifyWarm.outside P = s.outside P := by
  simp [State.verifyWarm, h]

@[simp] theorem State.unarm_outside (h : .regs ∈ P ∧ .boot ∈ P) : s.unarm.outside P = s.outside P := by simp [State.unarm, h]

@[simp] theorem State.cancelRound_outside (h : .regs ∈ P ∧ .boot ∈ P ∧ .ring ∈ P ∧ .out ∈ P) :
    s.cancelRound.outside P = s.outside P := by
  unfold State.cancelRound
  extract_lets s₁
  split <;> simp [s₁, h]

@[simp] theorem State.armNode_outside {time crc gap seq src : Nat} (h : .regs ∈ P ∧ .boot ∈ P ∧ .ring ∈ P ∧ .out ∈ P) :
    (s.armNode time crc gap seq src).outside P = s.outside P := by
  simp [State.armNode, h]

@[simp] theorem State.fromPort_outside {p : Nat} (h : .boot ∈ P) : (s.fromPort p).outside P = s.outside P := by
  simp [State.fromPort, h]

@[simp] theorem State.showImage_outside (h : .regs ∈ P) : s.showImage.outside P = s.outside P := by simp [State.showImage, h]

/-! ### Machine/Items.lean -/

@[simp] theorem State.setItems_outside {l : List Item} (h : .hq ∈ P) : (s.setItems l).outside P = s.outside P := by
  simp [State.setItems, h]

@[simp] theorem State.updItem_outside {sq num : Nat} {f : Item → Item} (h : .hq ∈ P) :
    (s.updItem sq num f).outside P = s.outside P := by
  simp [State.updItem, h]

@[simp] theorem State.queueRecord_outside {cq : Nat} {r : Record} (h : .hq ∈ P) :
    (s.queueRecord cq r).outside P = s.outside P := by
  simp [State.queueRecord, h]

@[simp] theorem State.pumpRecords_outside {sq : Nat} (h : .hq ∈ P) : (s.pumpRecords sq).outside P = s.outside P := by
  simp [State.pumpRecords, h]

@[simp] theorem State.finish_outside {sq num status result detail : Nat} {late : Bool} (h : .regs ∈ P ∧ .hq ∈ P) :
    (s.finish sq num status result detail late).outside P = s.outside P := by
  simp [State.finish, h]

@[simp] theorem State.flushSq_outside {sq : Nat} (h : .regs ∈ P ∧ .hq ∈ P) : (s.flushSq sq).outside P = s.outside P := by
  simp [State.flushSq, h]

@[simp] theorem State.sqError_outside {sq status : Nat} (h : .regs ∈ P ∧ .hq ∈ P) :
    (s.sqError sq status).outside P = s.outside P := by
  simp [State.sqError, h]

@[simp] theorem State.complete_outside {sq num status result detail : Nat} {late : Bool} (h : .regs ∈ P ∧ .hq ∈ P) :
    (s.complete sq num status result detail late).outside P = s.outside P := by
  simp [State.complete, h]

@[simp] theorem State.showSpool_outside (h : .regs ∈ P) : s.showSpool.outside P = s.outside P := by simp [State.showSpool, h]

@[simp] theorem State.payFlush_outside (h : .regs ∈ P ∧ .ring ∈ P ∧ .out ∈ P) : s.payFlush.outside P = s.outside P := by
  simp [State.payFlush, h]

@[simp] theorem State.sendData_outside {i : Item} {resend : Bool} (h : .regs ∈ P ∧ .ring ∈ P ∧ .out ∈ P) :
    (s.sendData i resend).outside P = s.outside P := by
  simp [State.sendData, h]

@[simp] theorem State.sendAcks_outside {src : Nat} (h : .regs ∈ P ∧ .ring ∈ P ∧ .dlv ∈ P ∧ .out ∈ P) :
    (s.sendAcks src).outside P = s.outside P := by
  simp [State.sendAcks, h]

@[simp] theorem State.sendAck_outside {w : Work} {wsn result detail : Nat}
    (h : .regs ∈ P ∧ .ring ∈ P ∧ .dlv ∈ P ∧ .out ∈ P) :
    (s.sendAck w wsn result detail).outside P = s.outside P := by
  simp [State.sendAck, h]

@[simp] theorem State.mirrorEntry_outside {k state gen last pend : Nat} (h : .out ∈ P) :
    (s.mirrorEntry k state gen last pend).outside P = s.outside P := by
  simp [State.mirrorEntry, h]

@[simp] theorem State.putLedger_outside {k : Nat} {e : LedgerEntry} (h : .regs ∈ P ∧ .dlv ∈ P ∧ .out ∈ P) :
    (s.putLedger k e).outside P = s.outside P := by
  simp [State.putLedger, h]

@[simp] theorem State.dropLedger_outside {k : Nat} (h : .regs ∈ P ∧ .dlv ∈ P ∧ .out ∈ P) :
    (s.dropLedger k).outside P = s.outside P := by
  simp [State.dropLedger, h]

@[simp] theorem State.ledgerRoom_outside (h : .regs ∈ P ∧ .dlv ∈ P ∧ .out ∈ P) :
    (s.ledgerRoom.getD s).outside P = s.outside P := by
  unfold State.ledgerRoom
  split
  · rfl
  · split <;> simp [h]

@[simp] theorem State.markHead_outside {ep : Nat} (h : .dlv ∈ P) : (s.markHead ep).outside P = s.outside P := by
  unfold State.markHead
  split <;> simp [h]

@[simp] theorem State.addWork_outside {w : Work} (h : .dlv ∈ P) : (s.addWork w).outside P = s.outside P := by
  simp [State.addWork, h]

@[simp] theorem State.dropWork_outside {w : Work} (h : .dlv ∈ P) : (s.dropWork w).outside P = s.outside P := by
  simp [State.dropWork, h]

@[simp] theorem State.updWork_outside {w : Work} {f : Work → Work} (h : .dlv ∈ P) :
    (s.updWork w f).outside P = s.outside P := by
  simp [State.updWork, h]

@[simp] theorem State.takeWork_outside {w : Work} (h : .dlv ∈ P) : (s.takeWork w).outside P = s.outside P := by
  simp [State.takeWork, h]

@[simp] theorem State.retireRaw_outside {sq wsn status result detail : Nat} {late : Bool}
    (h : .regs ∈ P ∧ .ring ∈ P ∧ .hq ∈ P ∧ .out ∈ P) :
    (s.retireRaw sq wsn status result detail late).outside P = s.outside P := by
  unfold State.retireRaw
  split <;> simp [h]

@[simp] theorem State.answerRaw_outside {w : Work} {result bytes detail : Nat}
    (h : .regs ∈ P ∧ .ring ∈ P ∧ .hq ∈ P ∧ .dlv ∈ P ∧ .out ∈ P) :
    (s.answerRaw w result bytes detail).outside P = s.outside P := by
  simp [State.answerRaw, h]

@[simp] theorem State.startEmission_outside {w : Work} (h : .regs ∈ P ∧ .dlv ∈ P ∧ .out ∈ P) :
    (s.startEmission w).outside P = s.outside P := by
  simp only [State.startEmission]
  split <;> simp [h]

@[simp] theorem State.settleGets_outside {src : Nat} {t : Tag} (h : .bulk ∈ P) :
    (s.settleGets src t).outside P = s.outside P := by
  simp [State.settleGets, h]

@[simp] theorem State.sendBridgeReply_outside {w : Work} {result detail : Nat} {bytes : List Byte}
    (h : .regs ∈ P ∧ .ring ∈ P ∧ .dlv ∈ P ∧ .out ∈ P) :
    (s.sendBridgeReply w result detail bytes).outside P = s.outside P := by
  simp [State.sendBridgeReply, h]

@[simp] theorem State.answerDup_outside {w : Work} (h : .regs ∈ P ∧ .ring ∈ P ∧ .hq ∈ P ∧ .dlv ∈ P ∧ .out ∈ P) :
    (s.answerDup w).outside P = s.outside P := by
  unfold State.answerDup
  split
  · split
    · extract_lets s₁
      have h₁ : s₁.outside P = s.outside P := by unfold s₁; split <;> simp [h]
      simp [h₁, h]
    · simp [h]
  · simp [h]

@[simp] theorem State.evictGap_outside {k : Nat} (h : .regs ∈ P ∧ .dlv ∈ P ∧ .out ∈ P) :
    (s.evictGap k).outside P = s.outside P := by
  unfold State.evictGap
  split <;> simp [h]

@[simp] theorem State.takeVerdict_outside {w : Work} {t : Tag} {v : Verdict} (h : Wide P) :
    (s.takeVerdict w t v).outside P = s.outside P := by
  cases v <;> simp [State.takeVerdict, h]

@[simp] theorem State.noteTag_outside {w : Work} {t : Tag} (h : .dlv ∈ P ∧ .bulk ∈ P) :
    (s.noteTag w t).outside P = s.outside P := by
  simp [State.noteTag, h]

@[simp] theorem State.arrive_outside {w : Work} {t : Tag} (h : Wide P) : (s.arrive w t).outside P = s.outside P := by
  simp [State.arrive, h]

@[simp] theorem State.refill_outside {i : Item} {last : Nat} (h : Wide P) : (s.refill i last).outside P = s.outside P := by
  simp [State.refill, h]

@[simp] theorem State.forward_outside {i : Item} {resend : Bool} (h : Wide P) :
    (s.forward i resend).outside P = s.outside P := by
  unfold State.forward
  extract_lets s₁ s₂
  have h₂ : s₂.outside P = s.outside P := by simp [s₂, s₁, h]
  split
  · split <;> simp [h₂, h]
  · simp [h₂, h]

@[simp] theorem State.pumpForward_outside {fuel sq : Nat} (h : Wide P) :
    (State.pumpForward fuel s sq).outside P = s.outside P := by
  induction fuel generalizing s with
  | zero => rfl
  | succ fuel ih =>
    unfold State.pumpForward
    split <;> simp [ih, h]

@[simp] theorem State.pump_outside {sq : Nat} (h : Wide P) : (s.pump sq).outside P = s.outside P := by simp [State.pump, h]

@[simp] theorem State.kick_outside (h : Wide P) : s.kick.outside P = s.outside P := by simp [State.kick, h]

@[simp] theorem State.answer_outside {w : Work} {result bytes detail : Nat} (h : Wide P) :
    (s.answer w result bytes detail).outside P = s.outside P := by
  simp [State.answer, h]

@[simp] theorem State.returnData_outside {w : Work} {bytes : List Byte} {detail : Nat} (h : Wide P) :
    (s.returnData w bytes detail).outside P = s.outside P := by
  unfold State.returnData
  split
  · extract_lets s₁
    have h₁ : s₁.outside P = s.outside P := by unfold s₁; split <;> simp [h]
    simp [h₁, h]
  · simp [h]

/-! ### Machine/Pools.lean -/

@[simp] theorem State.showPools_outside (h : .regs ∈ P ∧ .pld ∈ P) : s.showPools.outside P = s.outside P := by
  simp [State.showPools, h]

/-! ### Machine/HostQueues.lean -/

@[simp] theorem State.hqReject_outside (h : .regs ∈ P ∧ .hq ∈ P ∧ .out ∈ P) : s.hqReject.outside P = s.outside P := by
  simp [State.hqReject, h]

@[simp] theorem State.readSlots_outside {n c k : Nat} (h : .out ∈ P) : (s.readSlots n c k).outside P = s.outside P := by
  simp [State.readSlots, h]

@[simp] theorem State.cqMessage_outside {n : Nat} (h : .regs ∈ P ∧ .hq ∈ P ∧ .out ∈ P) :
    (s.cqMessage n).outside P = s.outside P := by
  simp [State.cqMessage, h]

/-! ### Machine/Ring.lean -/

@[simp] theorem State.setPort_outside {p st : Nat} (h : .regs ∈ P ∧ .hq ∈ P ∧ .out ∈ P) :
    (s.setPort p st).outside P = s.outside P := by
  simp [State.setPort, h]

@[simp] theorem State.showLanes_outside {p : Nat} (h : .regs ∈ P) : (s.showLanes p).outside P = s.outside P := by
  simp [State.showLanes, h]

/-! ### Machine/Sig.lean -/

@[simp] theorem State.emitLocal_outside {m ep cls : Nat} {bytes : List Byte} (h : .regs ∈ P ∧ .dlv ∈ P) :
    (s.emitLocal m ep cls bytes).outside P = s.outside P := by
  unfold State.emitLocal
  extract_lets range doms wait n s₁
  split
  · simp [h]
  · split <;> simp [s₁, n, h]

/-! ### Machine/Fifos.lean -/

@[simp] theorem State.flushTx_outside {n q : Nat} (h : .regs ∈ P ∧ .fc ∈ P ∧ .out ∈ P) :
    (s.flushTx n q).outside P = s.outside P := by
  simp [State.flushTx, h]

/-! ### Machine/Links.lean -/

@[simp] theorem State.setFlap_outside {ep : Nat} {f : Option Flap} (h : .dlv ∈ P) :
    (s.setFlap ep f).outside P = s.outside P := by
  simp [State.setFlap, h]

@[simp] theorem State.epLinkReturn_outside {ep : Nat} (h : .dlv ∈ P) : (s.epLinkReturn ep).outside P = s.outside P := by
  unfold State.epLinkReturn
  split
  · rfl
  · split <;> simp [h]

/-! ### Machine/Polder.lean -/

@[simp] theorem State.setEth_outside {n : Nat} {x : EthSt} (h : .net ∈ P) : (s.setEth n x).outside P = s.outside P := by
  simp [State.setEth, h]

@[simp] theorem State.sendPause_outside {n quanta : Nat} (h : .regs ∈ P ∧ .out ∈ P) :
    (s.sendPause n quanta).outside P = s.outside P := by
  simp [State.sendPause, h]

@[simp] theorem State.pauseUpdate_outside {n : Nat} (h : .regs ∈ P ∧ .net ∈ P ∧ .out ∈ P) :
    (s.pauseUpdate n).outside P = s.outside P := by
  simp [State.pauseUpdate, h]

@[simp] theorem State.spill_outside {n : Nat} {cnt : Field} (h : .regs ∈ P) : (s.spill n cnt).outside P = s.outside P := by
  simp [State.spill, h]

@[simp] theorem State.holdInput_outside {n : Nat} {outs : List Nat} (h : .regs ∈ P ∧ .pld ∈ P) :
    (s.holdInput n outs).outside P = s.outside P := by
  simp [State.holdInput, h]

@[simp] theorem State.fillCells_outside {bytes : List Byte} (h : .pld ∈ P) :
    (s.fillCells bytes).1.outside P = s.outside P := by
  simp [State.fillCells, h]

@[simp] theorem State.linkCells_outside {cells : List Nat} {n : Nat} {outs : List Nat} {k : Nat} {tagged : Bool}
    {bytes : List Byte} {res : Nat} {vis : Option VisOutput}
    (h : .regs ∈ P ∧ .ring ∈ P ∧ .pld ∈ P ∧ .net ∈ P ∧ .out ∈ P) :
    (s.linkCells cells n outs k tagged bytes res vis).outside P = s.outside P := by
  simp [State.linkCells, h]

@[simp] theorem State.linkFrame_outside {n : Nat} {outs : List Nat} {k : Nat} {tagged : Bool} {bytes : List Byte}
    {res : Nat} {vis : Option VisOutput} (h : .regs ∈ P ∧ .ring ∈ P ∧ .pld ∈ P ∧ .net ∈ P ∧ .out ∈ P) :
    (s.linkFrame n outs k tagged bytes res vis).outside P = s.outside P := by
  simp [State.linkFrame, h]

@[simp] theorem State.frameIn_outside {n : Nat} {outs : List Nat} {k : Nat} {tagged ok : Bool} {bytes : List Byte}
    (h : .regs ∈ P ∧ .ring ∈ P ∧ .pld ∈ P ∧ .net ∈ P ∧ .out ∈ P) :
    (s.frameIn n outs k tagged ok bytes).outside P = s.outside P := by
  simp [State.frameIn, h]

/-! ### Machine/Scheduler.lean -/

@[simp] theorem State.setOut_outside {o : Nat} {x : OutSt} (h : .sch ∈ P) : (s.setOut o x).outside P = s.outside P := by
  simp [State.setOut, h]

@[simp] theorem State.setWeir_outside {o k : Nat} {x : WeirSt} (h : .regs ∈ P ∧ .sch ∈ P) :
    (s.setWeir o k x).outside P = s.outside P := by
  simp [State.setWeir, h]

@[simp] theorem State.setGcl_outside {g : Nat} {x : GclSt} (h : .sch ∈ P) : (s.setGcl g x).outside P = s.outside P := by
  simp [State.setGcl, h]

@[simp] theorem State.accrue_outside {o k : Nat} (h : .regs ∈ P ∧ .sch ∈ P) : (s.accrue o k).outside P = s.outside P := by
  simp [State.accrue, h]

@[simp] theorem State.accrueBudget_outside {o : Nat} (h : .sch ∈ P) : (s.accrueBudget o).outside P = s.outside P := by
  simp [State.accrueBudget, h]

@[simp] theorem State.showBudget_outside {o : Nat} (h : .regs ∈ P) : (s.showBudget o).outside P = s.outside P := by
  simp [State.showBudget, h]

@[simp] theorem State.refreshOut_outside {o : Nat} (h : .regs ∈ P ∧ .sch ∈ P) :
    (s.refreshOut o).outside P = s.outside P := by
  simp [State.refreshOut, h]

@[simp] theorem State.spend_outside {o k l : Nat} (h : .regs ∈ P ∧ .sch ∈ P) : (s.spend o k l).outside P = s.outside P := by
  simp [State.spend, h]

@[simp] theorem State.takeTags_outside {o : Nat} (h : .sch ∈ P) : (s.takeTags o).outside P = s.outside P := by
  simp [State.takeTags, h]

@[simp] theorem State.countGuarded_outside {o : Nat} (h : .regs ∈ P ∧ .sch ∈ P) :
    (s.countGuarded o).outside P = s.outside P := by
  unfold State.countGuarded
  split <;> simp [h]

@[simp] theorem State.newHeads_outside {o : Nat} (h : .regs ∈ P ∧ .sch ∈ P) : (s.newHeads o).outside P = s.outside P := by
  simp [State.newHeads, h]

@[simp] theorem State.charge_outside {o n k : Nat} {f : PFrame} {band : Nat} (h : .regs ∈ P ∧ .ring ∈ P ∧ .sch ∈ P) :
    (s.charge o n k f band).outside P = s.outside P := by
  simp [State.charge, h]

@[simp] theorem State.startFrame_outside {o n k : Nat} {f : PFrame} {band : Nat}
    (h : .regs ∈ P ∧ .ring ∈ P ∧ .pld ∈ P ∧ .sch ∈ P) :
    (s.startFrame o n k f band).outside P = s.outside P := by
  simp [State.startFrame, h]

@[simp] theorem State.openList_outside {i : Nat} (h : .regs ∈ P ∧ .sch ∈ P) : (s.openList i).outside P = s.outside P := by
  simp [State.openList, h]

/-! ### Machine/Time.lean -/

@[simp] theorem State.setRate_outside {r : Nat} (h : .time ∈ P) : (s.setRate r).outside P = s.outside P := by
  simp [State.setRate, h]

@[simp] theorem State.setLock_outside {st : Nat} (h : .regs ∈ P ∧ .hq ∈ P ∧ .out ∈ P) :
    (s.setLock st).outside P = s.outside P := by
  simp [State.setLock, h]

@[simp] theorem State.enterLocked_outside (h : .regs ∈ P ∧ .hq ∈ P ∧ .time ∈ P ∧ .out ∈ P) :
    s.enterLocked.outside P = s.outside P := by
  unfold State.enterLocked
  split <;> simp [h]

@[simp] theorem State.upstreamValid_outside (h : .regs ∈ P ∧ .hq ∈ P ∧ .out ∈ P) :
    s.upstreamValid.outside P = s.outside P := by
  simp [State.upstreamValid, h]

@[simp] theorem State.noteUpstream_outside (h : .time ∈ P) : s.noteUpstream.outside P = s.outside P := by
  simp [State.noteUpstream, h]

@[simp] theorem State.setFsync_outside {n : Nat} {x : FsyncSt} (h : .time ∈ P) :
    (s.setFsync n x).outside P = s.outside P := by
  simp [State.setFsync, h]

@[simp] theorem State.fsyncPin_outside {n level : Nat} (h : .out ∈ P) : (s.fsyncPin n level).outside P = s.outside P := by
  simp [State.fsyncPin, h]

@[simp] theorem State.fsyncDrive_outside {n : Nat} (h : .regs ∈ P ∧ .time ∈ P ∧ .out ∈ P) :
    (s.fsyncDrive n).outside P = s.outside P := by
  simp [State.fsyncDrive, h]

@[simp] theorem State.fsyncFire_outside {n : Nat} (h : .regs ∈ P ∧ .time ∈ P ∧ .out ∈ P) :
    (s.fsyncFire n).outside P = s.outside P := by
  simp [State.fsyncFire, h]

@[simp] theorem State.ppsRise_outside (h : .time ∈ P ∧ .out ∈ P) : s.ppsRise.outside P = s.outside P := by
  simp [State.ppsRise, h]

@[simp] theorem State.servoInput_outside {e : Int} (h : .time ∈ P) : (s.servoInput e).outside P = s.outside P := by
  simp [State.servoInput, h]

@[simp] theorem State.servoStep_outside {e : Int} (h : .regs ∈ P ∧ .time ∈ P) : (s.servoStep e).outside P = s.outside P := by
  simp [State.servoStep, h]

@[simp] theorem State.ptpInput_outside {source : Option Int} (h : .regs ∈ P ∧ .hq ∈ P ∧ .time ∈ P ∧ .out ∈ P) :
    (s.ptpInput source).outside P = s.outside P := by
  unfold State.ptpInput
  split <;> simp [h]

/-! ### Machine/Net.lean -/

@[simp] theorem State.setEthState_outside {n st : Nat} (h : .regs ∈ P) : (s.setEthState n st).outside P = s.outside P := by
  simp [State.setEthState, h]

@[simp] theorem State.pauseReceived_outside {n quanta : Nat} (h : .regs ∈ P ∧ .net ∈ P) :
    (s.pauseReceived n quanta).outside P = s.outside P := by
  simp [State.pauseReceived, h]

/-! ### Machine/Can.lean -/

@[simp] theorem State.captureObj_outside {req : Requester} {n c j : Nat} (h : .canCap ∈ P) :
    (s.captureObj req n c j).outside P = s.outside P := by
  simp [State.captureObj, h]

@[simp] theorem State.setCanState_outside {n c st : Nat} (h : .regs ∈ P) :
    (s.setCanState n c st).outside P = s.outside P := by
  simp [State.setCanState, h]

@[simp] theorem State.canFlag_outside {n c : Nat} {f : Field} {k : Nat} (h : .regs ∈ P) :
    (s.canFlag n c f k).outside P = s.outside P := by
  simp [State.canFlag, h]

@[simp] theorem State.canRecover_outside {n c : Nat} (h : .regs ∈ P) : (s.canRecover n c).outside P = s.outside P := by
  simp [State.canRecover, h]

@[simp] theorem State.canSleep_outside {n c : Nat} {busIdle : Bool} (h : .regs ∈ P) :
    (s.canSleep n c busIdle).outside P = s.outside P := by
  simp [State.canSleep, h]

@[simp] theorem State.canWake_outside {n c cause : Nat} (h : .regs ∈ P) : (s.canWake n c cause).outside P = s.outside P := by
  simp [State.canWake, h]

@[simp] theorem State.setTxPend_outside {n c j : Nat} {on : Bool} (h : .regs ∈ P) :
    (s.setTxPend n c j on).outside P = s.outside P := by
  simp [State.setTxPend, h]

@[simp] theorem State.updObj_outside {n c j : Nat} {o : Option CanObj} (h : .regs ∈ P ∧ .fc ∈ P) :
    (s.updObj n c j o).outside P = s.outside P := by
  unfold State.updObj
  split <;> simp [h]

@[simp] theorem State.attemptOver_outside {n c : Nat} (h : .node ∈ P) : (s.attemptOver n c).outside P = s.outside P := by
  simp [State.attemptOver, h]

@[simp] theorem State.canBegin_outside {n c j : Nat} (h : .regs ∈ P ∧ .dlv ∈ P ∧ .out ∈ P) :
    (s.canBegin n c j).outside P = s.outside P := by
  unfold State.canBegin
  split
  · split <;> simp [h]
  · rfl

/-! ### Machine/Dio.lean -/

@[simp] theorem State.driveLine_outside {n p : Nat} (h : .fc ∈ P ∧ .out ∈ P) :
    (s.driveLine n p).outside P = s.outside P := by
  simp [State.driveLine, h]

@[simp] theorem State.setLevel_outside {n p : Nat} {level : Bool} (h : .regs ∈ P ∧ .fc ∈ P ∧ .out ∈ P) :
    (s.setLevel n p level).outside P = s.outside P := by
  simp [State.setLevel, h]

@[simp] theorem State.lineEntry_outside {n p : Nat} (h : .regs ∈ P ∧ .dlv ∈ P ∧ .fc ∈ P) :
    (s.lineEntry n p).outside P = s.outside P := by
  simp only [State.lineEntry]
  split <;> simp [h]

@[simp] theorem State.closeLoan_outside {n p : Nat} (h : Wide P) : (s.closeLoan n p).outside P = s.outside P := by
  unfold State.closeLoan
  split <;> simp [h]

@[simp] theorem State.fillLoan_outside {n p : Nat} {r : List Byte} (h : Wide P) :
    (s.fillLoan n p r).outside P = s.outside P := by
  simp only [State.fillLoan]
  split <;> simp [h]

@[simp] theorem State.putEvent_outside {n p time : Nat} {level : Bool} (h : Wide P) :
    (s.putEvent n p time level).outside P = s.outside P := by
  simp [State.putEvent, h]

@[simp] theorem State.acceptLevel_outside {n p : Nat} {level : Bool} {time : Nat} (h : Wide P) :
    (s.acceptLevel n p level time).outside P = s.outside P := by
  simp [State.acceptLevel, h]

@[simp] theorem State.latchEdge_outside {n g e : Nat} {rise : Bool} (h : .fc ∈ P) :
    (s.latchEdge n g e rise).outside P = s.outside P := by
  simp [State.latchEdge, h]

@[simp] theorem State.setRaw_outside {n p : Nat} {level : Bool} (h : .fc ∈ P) :
    (s.setRaw n p level).outside P = s.outside P := by
  simp [State.setRaw, h]

@[simp] theorem State.rawChange_outside {n p : Nat} {level : Bool} (h : Wide P) :
    (s.rawChange n p level).outside P = s.outside P := by
  simp [State.rawChange, h]

/-! ### Machine/Pio.lean -/

@[simp] theorem State.endInstr_outside {n g e w next : Nat} {freeWait : Bool} (h : .regs ∈ P ∧ .fc ∈ P) :
    (s.endInstr n g e w next freeWait).outside P = s.outside P := by
  simp [State.endInstr, h]

/-- As far as the instruction does. -/
@[simp] theorem State.onInstr_outside {n g e op : Nat} {f : Nat → State} (h : .regs ∈ P)
    (hf : ∀ w, (f w).outside P = s.outside P) : (s.onInstr n g e op f).outside P = s.outside P := by
  simp [State.onInstr, hf, h]

@[simp] theorem State.waitDone_outside {n g e w : Nat} {freeWait : Bool} (h : .regs ∈ P ∧ .fc ∈ P) :
    (s.waitDone n g e w freeWait).outside P = s.outside P := by
  simp [State.waitDone, h]

@[simp] theorem State.releaseFlag_outside {n g f : Nat} {clr : Bool} (h : .regs ∈ P ∧ .fc ∈ P) :
    (s.releaseFlag n g f clr).outside P = s.outside P := by
  simp [State.releaseFlag, h]

@[simp] theorem State.jmpTest_outside {n g e cond arg : Nat} (h : .regs ∈ P) :
    (s.jmpTest n g e cond arg).1.outside P = s.outside P := by
  unfold State.jmpTest
  split <;> simp [h]

@[simp] theorem State.loadImm_outside {n g e dst imm : Nat} (h : .regs ∈ P) :
    (s.loadImm n g e dst imm).outside P = s.outside P := by
  unfold State.loadImm
  split <;> simp [h]

@[simp] theorem State.movDst_outside {n g e dst v : Nat} (h : .regs ∈ P) :
    (s.movDst n g e dst v).outside P = s.outside P := by
  unfold State.movDst
  split <;> simp [h]

/-! ### Machine/Vision.lean -/

@[simp] theorem State.setCam_outside {c : Nat} {x : VisCam} (h : .regs ∈ P ∧ .vis ∈ P) :
    (s.setCam c x).outside P = s.outside P := by
  simp [State.setCam, h]

@[simp] theorem State.showVis_outside (h : .regs ∈ P) : s.showVis.outside P = s.outside P := by simp [State.showVis, h]

@[simp] theorem State.startDirect_outside {c : Nat} (h : .regs ∈ P ∧ .vis ∈ P ∧ .out ∈ P) :
    (s.startDirect c).outside P = s.outside P := by
  simp [State.startDirect, h]

@[simp] theorem State.sendWrite_outside {c : Nat} (h : .out ∈ P) : (s.sendWrite c).outside P = s.outside P := by
  unfold State.sendWrite
  split <;> simp [h]

@[simp] theorem State.nextCci_outside {c : Nat} (h : .regs ∈ P ∧ .vis ∈ P ∧ .out ∈ P) :
    (s.nextCci c).outside P = s.outside P := by
  simp [State.nextCci, h]

@[simp] theorem State.writeCciCmd_outside {c v : Nat} (h : .regs ∈ P ∧ .hq ∈ P ∧ .vis ∈ P ∧ .out ∈ P) :
    (s.writeCciCmd c v).outside P = s.outside P := by
  simp [State.writeCciCmd, h]

/-! ### Machine/Twin.lean -/

@[simp] theorem State.raSend_outside {node off count : Nat} {words : List Nat} {watch : Bool}
    (h : .regs ∈ P ∧ .ring ∈ P ∧ .out ∈ P) :
    (s.raSend node off count words watch).outside P = s.outside P := by
  simp [State.raSend, h]

@[simp] theorem State.orderTake_outside {p decision : Nat} (h : .regs ∈ P ∧ .ring ∈ P ∧ .twin ∈ P ∧ .out ∈ P) :
    (s.orderTake p decision).outside P = s.outside P := by
  simp [State.orderTake, h]

/-! ### Machine/VisPipe.lean -/

@[simp] theorem State.showProcessed_outside {c frame : Nat} (h : .regs ∈ P) :
    (s.showProcessed c frame).outside P = s.outside P := by
  simp [State.showProcessed, h]

@[simp] theorem State.sendRow_outside {n : Nat} {x : CsiFrame} {rest : List CsiFrame} (h : .regs ∈ P ∧ .vis ∈ P ∧ .out ∈ P) :
    (s.sendRow n x rest).outside P = s.outside P := by
  unfold State.sendRow
  extract_lets fn s₁ s₂ t v s₃ s₄
  have h₂ : s₂.outside P = s.outside P := by
    unfold s₂
    split <;> simp [s₁, h]
  split <;> simp [s₄, s₃, t, v, h₂, h]

/-! ### Machine/Lull.lean -/

@[simp] theorem State.endRound_outside {result reason : Nat} (h : .regs ∈ P ∧ .ring ∈ P ∧ .out ∈ P) :
    (s.endRound result reason).outside P = s.outside P := by
  simp [State.endRound, h]

/-! ### Machine/Power.lean -/

@[simp] theorem State.pmbPut_outside (h : .out ∈ P) : s.pmbPut.outside P = s.outside P := by
  unfold State.pmbPut
  split <;> simp [h]

@[simp] theorem State.pmbSend_outside {cmd mv : Nat} (h : .pwr ∈ P ∧ .out ∈ P) :
    (s.pmbSend cmd mv).outside P = s.outside P := by
  simp [State.pmbSend, h]

@[simp] theorem State.setVcore_outside {mv : Nat} (h : .regs ∈ P ∧ .pwr ∈ P ∧ .out ∈ P) :
    (s.setVcore mv).outside P = s.outside P := by
  simp [State.setVcore, h]

@[simp] theorem State.writePolCtrl_outside {v : Nat} (h : .regs ∈ P ∧ .pwr ∈ P ∧ .out ∈ P) :
    (s.writePolCtrl v).outside P = s.outside P := by
  unfold State.writePolCtrl
  extract_lets was s₁ now st t p s₂ s₃ lo hi set s₄
  have h₁ : s₁.outside P = s.outside P := by simp [s₁, h]
  have h₃ : s₃.outside P = s.outside P := by simp [s₃, s₂, p, t, h₁, h]
  have h₄ : s₄.outside P = s.outside P := by simp [s₄, h₁, h]
  split
  · simp [h₃, h]
  · simp [h₄, h₁, h]

@[simp] theorem State.setLimit_outside {v : Nat} (h : .regs ∈ P) : (s.setLimit v).outside P = s.outside P := by
  simp [State.setLimit, h]

@[simp] theorem State.stepLimit_outside {lv : Nat} (h : .regs ∈ P) : (s.stepLimit lv).outside P = s.outside P := by
  simp [State.stepLimit, h]

/-! ### Machine/Ints.lean -/

@[simp] theorem State.setBank_outside {b : Nat} {x : IntBank} (h : .ints ∈ P) : (s.setBank b x).outside P = s.outside P := by
  simp [State.setBank, h]

@[simp] theorem State.setInsvc_outside {b v : Nat} (h : .regs ∈ P) : (s.setInsvc b v).outside P = s.outside P := by
  simp [State.setInsvc, h]

@[simp] theorem State.intAccept_outside {b : Nat} (h : .regs ∈ P ∧ .ints ∈ P) : (s.intAccept b).outside P = s.outside P := by
  simp [State.intAccept, h]

@[simp] theorem State.resample_outside {b src : Nat} (h : .regs ∈ P) : (s.resample b src).outside P = s.outside P := by
  simp [State.resample, h]

@[simp] theorem State.intComplete_outside {req : Requester} {b l : Nat} {low : List Nat} (h : .regs ∈ P ∧ .ints ∈ P) :
    (s.intComplete req b l low).outside P = s.outside P := by
  simp [State.intComplete, h]

@[simp] theorem State.pendClr_outside {bank : Option Nat} {w v : Nat} (h : .regs ∈ P) :
    (s.pendClr bank w v).outside P = s.outside P := by
  simp [State.pendClr, h]

@[simp] theorem State.maskSet_outside {bank : Option Nat} {w v : Nat} (h : .regs ∈ P) :
    (s.maskSet bank w v).outside P = s.outside P := by
  simp [State.maskSet, h]

@[simp] theorem State.writeRoute_outside {n v : Nat} (h : .regs ∈ P) : (s.writeRoute n v).outside P = s.outside P := by
  simp [State.writeRoute, h]

/-- As far as the write does in its bank. -/
@[simp] theorem State.onBank_outside {bank : Fin 10} {w : Fin 32} {f : Option Nat → State}
    (hf : ∀ b, (f b).outside P = s.outside P) : (s.onBank bank w f).outside P = s.outside P := by
  simp [State.onBank, hf]

/-! ### Machine/Units.lean -/

@[simp] theorem State.writeAction_outside {n v : Nat} (h : .regs ∈ P) : (s.writeAction n v).outside P = s.outside P := by
  simp [State.writeAction, h]

/-! ### Machine/RegAccess.lean -/

@[simp] theorem State.unstage_outside {req : Requester} {off : Nat} (h : .staged ∈ P) :
    (s.unstage req off).outside P = s.outside P := by
  simp [State.unstage, h]

@[simp] theorem State.stage_outside {req : Requester} {off v : Nat} (h : .staged ∈ P) :
    (s.stage req off v).outside P = s.outside P := by
  simp [State.stage, h]

@[simp] theorem State.captureLow_outside {req : Requester} {off : Nat} (h : .capture ∈ P) :
    (s.captureLow req off).outside P = s.outside P := by
  simp [State.captureLow, h]

@[simp] theorem State.captureRead_outside {req : Requester} {off : Nat} (h : .canCap ∈ P) :
    (s.captureRead req off).outside P = s.outside P := by
  simp [State.captureRead, h]

@[simp] theorem State.busRead_outside {req : Requester} {off : Nat} (h : .capture ∈ P ∧ .canCap ∈ P) :
    (s.busRead req off).1.outside P = s.outside P := by
  unfold State.busRead
  split
  · rfl
  · split <;> simp [apply_ite Prod.fst, h]

@[simp] theorem State.busReads_outside {req : Requester} {n off : Nat} (h : .capture ∈ P ∧ .canCap ∈ P) :
    (s.busReads req n off).1.outside P = s.outside P := by
  induction n generalizing s off with
  | zero => rfl
  | succ n ih => simp [State.busReads, ih, h]

@[simp] theorem State.busReadBytes_outside {req : Requester} {a len : Nat} (h : .capture ∈ P ∧ .canCap ∈ P) :
    (s.busReadBytes req a len).1.outside P = s.outside P := by
  simp [State.busReadBytes, h]

end Operations

end Sys2Proof.Machine
end

section
/-! PROOFS. The frames of the commands of the system blocks, and their statement. -/

namespace Sys2Proof.Machine

section Frames

variable {s : State}

theorem execActArmFrame_frame {time crc gap : Nat} {seq : AtPort} {nodes : Nat} :
    Leaves [.regs, .boot, .ring, .out] s (execActArmFrame time crc gap seq nodes s) :=
  leaves_next (by simp)

theorem execActCancelCmd_frame : Leaves [.regs, .boot, .ring, .out] s (execActCancelCmd s) :=
  leaves_next (by simp)

theorem execActCancelFrame_frame {seq : AtPort} : Leaves [.regs, .boot, .ring, .out] s (execActCancelFrame seq s) := by
  refine leaves_next ?_
  split
  · split
    · rfl
    · split <;> simp
  · rfl

theorem execActProcessorsStopped_frame : Leaves [.regs, .boot, .ints, .out] s (execActProcessorsStopped s) :=
  leaves_next (by simp)

theorem execActReportDeadline_frame : Leaves [.regs, .boot, .ring, .out] s (execActReportDeadline s) :=
  leaves_next (by simp)

theorem execActivationTime_frame : Leaves [.boot, .out] s (execActivationTime s) :=
  leaves_next (by simp)

theorem execAvsEnable_frame {val : Word} : Leaves [.regs, .pwr, .out] s (execAvsEnable val s) :=
  leaves_next (by simp)

theorem execAvsHoldPoll_frame : Leaves [.pwr, .out] s (execAvsHoldPoll s) :=
  leaves_next (by simp)

theorem execAvsSettleExpiry_frame : Leaves [.pwr, .out] s (execAvsSettleExpiry s) :=
  leaves_next (by simp)

theorem execBar2Write_frame {off : Nat} {bytes : List Byte} : Leaves [.bar2] s (execBar2Write off bytes s) :=
  leaves_next (by simp)

theorem execBootCtrlRestart_frame : Leaves [.regs, .boot] s (execBootCtrlRestart s) :=
  leaves_next (by simp)

theorem execBootCtrlRestartStage_frame : Leaves [.regs, .boot] s (execBootCtrlRestartStage s) :=
  leaves_next (by simp)

theorem execCalCommit_frame : Leaves [.regs, .boot, .hq, .out] s (execCalCommit s) :=
  leaves_next (by simp)

theorem execCalLoadShadow_frame : Leaves [.regs, .hq, .out] s (execCalLoadShadow s) :=
  leaves_next (by simp)

theorem execCqEnable_frame {cq : BitVec 8} {val : Word} : Leaves [.regs, .hq, .out] s (execCqEnable cq val s) :=
  leaves_next (by simp)

theorem execCqHeadPoll_frame {line : Fin 32} : Leaves [.out] s (execCqHeadPoll line s) :=
  leaves_next (by simp)

theorem execCqModTimeExpiry_frame {cq : BitVec 8} : Leaves [.regs, .hq, .out] s (execCqModTimeExpiry cq s) :=
  leaves_next (by simp)

theorem execCreditOs_frame {port : Fin 3} {cls : Fin 8} {cells : Nat} : Leaves [.ring] s (execCreditOs port cls cells s) :=
  leaves_next (by simp)

theorem execDescFetchIssue_frame : Leaves [.hq, .out] s (execDescFetchIssue s) := by
  refine leaves_next ?_
  split
  · split <;> simp
  · rfl

theorem execDoorbellPollIssue_frame {line : Fin 32} : Leaves [.hq, .out] s (execDoorbellPollIssue line s) :=
  leaves_next (by simp)

theorem execFaultNPulseEnd_frame : Leaves [.regs, .out] s (execFaultNPulseEnd s) :=
  leaves_next (by simp)

theorem execFltActionWrite_frame {n : Fin 640} {val : Word} : Leaves [.regs] s (execFltActionWrite n val s) :=
  leaves_next (by simp)

theorem execHqCtrlEn_frame {val : Word} : Leaves [.regs, .hq, .out] s (execHqCtrlEn val s) :=
  leaves_next (by simp)

theorem execImageVerifyDone_frame : Leaves [.regs, .boot, .out] s (execImageVerifyDone s) := by
  refine leaves_next ?_
  split
  · rfl
  · split
    · simp
    · split
      · rfl
      · extract_lets d
        split <;> simp

theorem execIntAccept_frame {b : Fin 9} : Leaves [.regs, .ints] s (execIntAccept b s) :=
  leaves_next (by simp)

theorem execIntComplete_frame {req : Requester} {b : Fin 9} {val : Word} {low : List Nat} :
    Leaves [.regs, .ints] s (execIntComplete req b val low s) :=
  leaves_next (by simp)

theorem execIntMaskSet_frame {bank : Fin 10} {w : Fin 32} {val : Word} : Leaves [.regs] s (execIntMaskSet bank w val s) :=
  leaves_next (by simp)

theorem execIntPendClr_frame {bank : Fin 10} {w : Fin 32} {val : Word} : Leaves [.regs] s (execIntPendClr bank w val s) :=
  leaves_next (by simp)

theorem execIntRouteWrite_frame {n : Fin 1024} {val : Word} : Leaves [.regs] s (execIntRouteWrite n val s) :=
  leaves_next (by simp)

theorem execJournalWaitGenExpiry_frame : Leaves [.regs, .dlv] s (execJournalWaitGenExpiry s) :=
  leaves_next (by simp)

theorem execLinkReturn_frame {port : Nat} : Leaves [.regs, .dlv] s (execLinkReturn port s) :=
  leaves_next (by simp)

theorem execLullAbort_frame : Leaves [.regs, .ring, .out] s (execLullAbort s) :=
  leaves_next (by simp)

theorem execLullRoundTimeout_frame : Leaves [.regs, .ring, .out] s (execLullRoundTimeout s) :=
  leaves_next (by simp)

theorem execModeReqNotAllowed_frame {target : BitVec 4} : Leaves [.regs] s (execModeReqNotAllowed target s) :=
  leaves_next (by simp)

theorem execPmbusAlert_frame : Leaves [.pwr, .out] s (execPmbusAlert s) :=
  leaves_next (by simp)

theorem execPswTake_frame : Leaves [.regs, .node, .out] s (execPswTake s) :=
  leaves_next (by simp)

theorem execPswTakePulseEnd_frame : Leaves [.node, .out] s (execPswTakePulseEnd s) :=
  leaves_next (by simp)

theorem execRaTimeout_frame {seq : Nat} : Leaves [.regs, .ring, .hq, .out] s (execRaTimeout seq s) :=
  leaves_next (by simp)

theorem execRefclkReturn_frame {clk : Fin 3} : Leaves [.node] s (execRefclkReturn clk s) :=
  leaves_next (by simp)

theorem execReferenceClocksPresent_frame : Leaves [.regs, .node, .out] s (execReferenceClocksPresent s) :=
  leaves_next (by simp)

theorem execRegPairLoRead_frame {req : Requester} {off : Span} :
    Leaves [.regs, .capture, .sch, .canCap, .out] s (execRegPairLoRead req off s) :=
  leaves_next (by simp)

theorem execRegPairLoWrite_frame {req : Requester} {off : Nat} {val : Word} :
    Leaves [.staged] s (execRegPairLoWrite req off val s) :=
  leaves_next (by simp)

theorem execRingEnable_frame : Leaves [.regs, .ring, .out] s (execRingEnable s) :=
  leaves_next (by simp)

theorem execRingSignalDetect_frame {port : Fin 3} : Leaves [.regs, .hq, .out] s (execRingSignalDetect port s) :=
  leaves_next (by simp)

theorem execRingWakeArm_frame {port : Fin 3} : Leaves [.regs, .ring] s (execRingWakeArm port s) :=
  leaves_next (by simp)

theorem execServiceEntryComplete_frame : Leaves [.regs, .node, .out] s (execServiceEntryComplete s) :=
  leaves_next (by simp)

theorem execSvWatchdogService_frame {period : Option Nat} : Leaves [.node] s (execSvWatchdogService period s) :=
  leaves_next (by simp)

theorem execSvWatchdogWarning_frame : Leaves [.regs, .node] s (execSvWatchdogWarning s) :=
  leaves_next (by simp)

theorem execThermalLimitStep_frame : Leaves [.regs] s (execThermalLimitStep s) :=
  leaves_next (by simp)

theorem execWitnessSwitchOver_frame {val : Word} {a b : Option TwinAnswer} :
    Leaves [.regs, .ring, .twin, .out] s (execWitnessSwitchOver val a b s) :=
  leaves_next (by simp)

end Frames

/-- Settles O58: one frame rule for each command named. -/
theorem frameSystem : Obligations.FrameSystem :=
  ⟨fun _ _ _ _ _ _ => execActArmFrame_frame.graft, fun _ => execActCancelCmd_frame.graft,
   fun _ _ => execActCancelFrame_frame.graft, fun _ => execActProcessorsStopped_frame.graft,
   fun _ => execActReportDeadline_frame.graft, fun _ => execActivationTime_frame.graft,
   fun _ _ => execAvsEnable_frame.graft, fun _ => execAvsHoldPoll_frame.graft, fun _ => execAvsSettleExpiry_frame.graft,
   fun _ _ _ => execBar2Write_frame.graft, fun _ => execBootCtrlRestart_frame.graft,
   fun _ => execBootCtrlRestartStage_frame.graft, fun _ => execCalCommit_frame.graft,
   fun _ => execCalLoadShadow_frame.graft, fun _ _ _ => execCqEnable_frame.graft, fun _ _ => execCqHeadPoll_frame.graft,
   fun _ _ => execCqModTimeExpiry_frame.graft, fun _ _ _ _ => execCreditOs_frame.graft,
   fun _ => execDescFetchIssue_frame.graft, fun _ _ => execDoorbellPollIssue_frame.graft,
   fun _ => execFaultNPulseEnd_frame.graft, fun _ _ _ => execFltActionWrite_frame.graft,
   fun _ _ => execHqCtrlEn_frame.graft, fun _ => execImageVerifyDone_frame.graft, fun _ _ => execIntAccept_frame.graft,
   fun _ _ _ _ _ => execIntComplete_frame.graft, fun _ _ _ _ => execIntMaskSet_frame.graft,
   fun _ _ _ _ => execIntPendClr_frame.graft, fun _ _ _ => execIntRouteWrite_frame.graft,
   fun _ => execJournalWaitGenExpiry_frame.graft, fun _ _ => execLinkReturn_frame.graft, fun _ => execLullAbort_frame.graft,
   fun _ => execLullRoundTimeout_frame.graft, fun _ _ => execModeReqNotAllowed_frame.graft,
   fun _ => execPmbusAlert_frame.graft, fun _ => execPswTake_frame.graft, fun _ => execPswTakePulseEnd_frame.graft,
   fun _ _ => execRaTimeout_frame.graft, fun _ _ => execRefclkReturn_frame.graft,
   fun _ => execReferenceClocksPresent_frame.graft, fun _ _ _ => execRegPairLoRead_frame.graft,
   fun _ _ _ _ => execRegPairLoWrite_frame.graft, fun _ => execRingEnable_frame.graft,
   fun _ _ => execRingSignalDetect_frame.graft, fun _ _ => execRingWakeArm_frame.graft,
   fun _ => execServiceEntryComplete_frame.graft, fun _ _ => execSvWatchdogService_frame.graft,
   fun _ => execSvWatchdogWarning_frame.graft, fun _ => execThermalLimitStep_frame.graft,
   fun _ _ _ _ => execWitnessSwitchOver_frame.graft⟩

end Sys2Proof.Machine
end

section
/-! PROOFS. The frames of the commands of the Polder, the schedule, time and Ethernet, and their statement. -/

namespace Sys2Proof.Machine

section Frames

variable {s : State}

theorem execEthLinkUpTimer_frame {port : Fin 16} : Leaves [.regs] s (execEthLinkUpTimer port s) :=
  leaves_next (by simp)

theorem execEthPauseExpiry_frame {port : Fin 16} : Leaves [.regs, .net] s (execEthPauseExpiry port s) :=
  leaves_next (by simp)

theorem execEthPauseReceive_frame {port : Fin 16} {quanta : BitVec 16} :
    Leaves [.regs, .net] s (execEthPauseReceive port quanta s) :=
  leaves_next (by simp)

theorem execFsyncEdge_frame {n : Fin 8} : Leaves [.regs, .time, .out] s (execFsyncEdge n s) :=
  leaves_next (by simp)

theorem execFsyncHeldRelease_frame {n : Fin 8} : Leaves [.regs, .time, .out] s (execFsyncHeldRelease n s) :=
  leaves_next (by simp)

theorem execFsyncPulseEnd_frame {n : Fin 8} : Leaves [.time, .out] s (execFsyncPulseEnd n s) :=
  leaves_next (by simp)

theorem execGclAbort_frame {g : Fin 19} : Leaves [.regs, .sch] s (execGclAbort g s) :=
  leaves_next (by simp)

theorem execGclCommit_frame {g : Fin 19} {val : Word} : Leaves [.regs, .hq, .sch, .out] s (execGclCommit g val s) :=
  leaves_next (by simp)

theorem execGclDisable_frame {g : Fin 19} : Leaves [.regs, .sch] s (execGclDisable g s) :=
  leaves_next (by simp)

theorem execGclEntryBoundary_frame {g : Fin 19} : Leaves [.regs, .sch] s (execGclEntryBoundary g s) :=
  leaves_next (by simp)

theorem execGuardBandStart_frame {g : Fin 19} {cls : Fin 8} : Leaves [.regs, .sch] s (execGuardBandStart g cls s) :=
  leaves_next (by simp)

theorem execLockNow_frame : Leaves [.regs, .hq, .time, .out] s (execLockNow s) :=
  leaves_next (by simp)

theorem execPldFlushDone_frame : Leaves [.regs] s (execPldFlushDone s) :=
  leaves_next (by simp)

theorem execPldFrameLink_frame {inp : Fin 32} {outs : List SwitchDst} {cls : Fin 8} {tagged ok : Bool} {bytes : List Byte} :
    Leaves [.regs, .ring, .pld, .sch, .net, .out] s (execPldFrameLink inp outs cls tagged ok bytes s) :=
  leaves_next (by simp)

theorem execPpsInEdge_frame : Leaves [.regs, .hq, .time, .out] s (execPpsInEdge s) :=
  leaves_next (by simp)

theorem execPpsOutEdge_frame {rise : Bool} : Leaves [.time, .out] s (execPpsOutEdge rise s) :=
  leaves_next (by simp)

theorem execSchFrameStart_frame {out : Fin 32} : Leaves [.regs, .ring, .pld, .sch] s (execSchFrameStart out s) := by
  refine leaves_next ?_
  split
  · rfl
  · extract_lets s₁
    split
    · simp [s₁]
    · split <;> simp [s₁]

theorem execServoWindowEnd_frame {source : Option Int} : Leaves [.regs, .hq, .time, .out] s (execServoWindowEnd source s) :=
  leaves_next (by simp)

theorem execTimeLockAchieved_frame : Leaves [.regs, .hq, .time, .out] s (execTimeLockAchieved s) :=
  leaves_next (by simp)

theorem execTimeRateWrite_frame {val : Word} : Leaves [.regs, .hq, .time, .out] s (execTimeRateWrite val s) :=
  leaves_next (by simp)

theorem execTimeReplyOs_frame {port : Fin 3} {seq : BitVec 8} : Leaves [.time, .out] s (execTimeReplyOs port seq s) := by
  refine leaves_next ?_
  split
  · split <;> simp
  · rfl

theorem execTimeSyncOs_frame {port : Fin 3} {seq : BitVec 8} {wait : Nat} :
    Leaves [.time, .out] s (execTimeSyncOs port seq wait s) :=
  leaves_next (by simp)

theorem execTimeSyncTimer_frame {port : Fin 3} {wait : Nat} : Leaves [.time, .out] s (execTimeSyncTimer port wait s) :=
  leaves_next (by simp)

theorem execVoqPromotion_frame {out inp : Fin 32} {cls : Fin 8} : Leaves [.regs, .sch] s (execVoqPromotion out inp cls s) :=
  leaves_next (by simp)

theorem execWeirBurstWrite_frame {out : Fin 32} {cls : Fin 8} {val : Word} :
    Leaves [.regs] s (execWeirBurstWrite out cls val s) :=
  leaves_next (by simp)

theorem execWeirRateWrite_frame {out : Fin 32} {cls : Fin 8} {val : Word} :
    Leaves [.regs, .hq, .sch, .out] s (execWeirRateWrite out cls val s) :=
  leaves_next (by simp)

end Frames

/-- Settles O59: one frame rule for each command named. -/
theorem frameNetwork : Obligations.FrameNetwork :=
  ⟨fun _ _ => execEthLinkUpTimer_frame.graft, fun _ _ => execEthPauseExpiry_frame.graft,
   fun _ _ _ => execEthPauseReceive_frame.graft, fun _ _ => execFsyncEdge_frame.graft,
   fun _ _ => execFsyncHeldRelease_frame.graft, fun _ _ => execFsyncPulseEnd_frame.graft,
   fun _ _ => execGclAbort_frame.graft, fun _ _ _ => execGclCommit_frame.graft, fun _ _ => execGclDisable_frame.graft,
   fun _ _ => execGclEntryBoundary_frame.graft, fun _ _ _ => execGuardBandStart_frame.graft,
   fun _ => execLockNow_frame.graft, fun _ => execPldFlushDone_frame.graft,
   fun _ _ _ _ _ _ _ => execPldFrameLink_frame.graft, fun _ => execPpsInEdge_frame.graft,
   fun _ _ => execPpsOutEdge_frame.graft, fun _ _ => execSchFrameStart_frame.graft,
   fun _ _ => execServoWindowEnd_frame.graft, fun _ => execTimeLockAchieved_frame.graft,
   fun _ _ => execTimeRateWrite_frame.graft, fun _ _ _ => execTimeReplyOs_frame.graft,
   fun _ _ _ _ => execTimeSyncOs_frame.graft, fun _ _ _ => execTimeSyncTimer_frame.graft,
   fun _ _ _ _ => execVoqPromotion_frame.graft, fun _ _ _ _ => execWeirBurstWrite_frame.graft,
   fun _ _ _ _ => execWeirRateWrite_frame.graft⟩

end Sys2Proof.Machine
end

section
/-! PROOFS. The frames of the commands of the field clusters, vision and signals, and their statement. -/

namespace Sys2Proof.Machine

section Frames

variable {s : State}

theorem execCanArbLost_frame {n : Fin 6} {c : Fin 8} {newer : List (Fin 128)} :
    Leaves [.regs, .node, .dlv, .fc, .out] s (execCanArbLost n c newer s) := by
  refine leaves_next ?_
  split
  · rfl
  · extract_lets s₁
    split <;> simp [s₁]

theorem execCanDupHoldEnd_frame {n : Fin 6} {c : Fin 8} {j : Fin 128} : Leaves [.regs, .fc] s (execCanDupHoldEnd n c j s) := by
  refine leaves_next ?_
  split <;> simp

theorem execCanObjectCaptureRead_frame {req : Requester} {n : Fin 6} {c : Fin 8} {j : Fin 128} :
    Leaves [.canCap] s (execCanObjectCaptureRead req n c j s) :=
  leaves_next (by simp)

theorem execCanObjectRequest_frame {n : Fin 6} {c : Fin 8} {j : Fin 128} :
    Leaves [.regs, .fc] s (execCanObjectRequest n c j s) := by
  refine leaves_next ?_
  split
  · split <;> simp
  · rfl

theorem execCanRecover_frame {n : Fin 6} {c : Fin 8} : Leaves [.regs] s (execCanRecover n c s) :=
  leaves_next (by simp)

theorem execCanSleep_frame {n : Fin 6} {c : Fin 8} {busIdle : Bool} : Leaves [.regs] s (execCanSleep n c busIdle s) :=
  leaves_next (by simp)

theorem execCanWake_frame {n : Fin 6} {c : Fin 8} : Leaves [.regs] s (execCanWake n c s) :=
  leaves_next (by simp)

theorem execCciDirectCmd_frame {c : Fin 8} {val : Word} : Leaves [.regs, .hq, .vis, .out] s (execCciDirectCmd c val s) :=
  leaves_next (by simp)

theorem execCciDirectDone_frame {c : Fin 8} {ack : Bool} {data : Byte} :
    Leaves [.regs, .vis, .out] s (execCciDirectDone c ack data s) :=
  leaves_next (by simp)

theorem execCsitxRowSend_frame {n : Fin 2} : Leaves [.regs, .vis, .out] s (execCsitxRowSend n s) := by
  refine leaves_next ?_
  split <;> simp

theorem execDikeRetryResetTimer_frame {c : Fin 16} : Leaves [.regs] s (execDikeRetryResetTimer c s) :=
  leaves_next (by simp)

theorem execDioOutClr_frame {n : Fin 6} {m : Fin 2} {val : Word} : Leaves [.regs, .fc, .out] s (execDioOutClr n m val s) :=
  leaves_next (by simp)

theorem execDioOutSet_frame {n : Fin 6} {m : Fin 2} {val : Word} : Leaves [.regs, .fc, .out] s (execDioOutSet n m val s) :=
  leaves_next (by simp)

theorem execDioTimedEntry_frame {n : Fin 6} {p : Fin 64} : Leaves [.regs, .dlv, .fc] s (execDioTimedEntry n p s) :=
  leaves_next (by simp)

theorem execEvfClr_frame {n : Fin 6} {g : Fin 4} {val : Word} : Leaves [.regs] s (execEvfClr n g val s) :=
  leaves_next (by simp)

theorem execEvfSet_frame {n : Fin 6} {g : Fin 4} {val : Word} : Leaves [.regs] s (execEvfSet n g val s) :=
  leaves_next (by simp)

theorem execFlushTx_frame {n : Fin 6} {q : Fin 32} : Leaves [.regs, .fc, .out] s (execFlushTx n q s) :=
  leaves_next (by simp)

theorem execPioDelayExpiry_frame {n : Fin 6} {g : Fin 4} {e : Fin 8} : Leaves [.regs, .fc] s (execPioDelayExpiry n g e s) :=
  leaves_next (by simp)

theorem execPioInEdge_frame {n : Fin 6} {g : Fin 4} {e : Fin 8} {rise : Bool} :
    Leaves [.regs, .node, .boot, .ring, .flt, .hq, .dlv, .twin, .sch, .vis, .net, .fc, .sig, .bulk, .ints, .out] s
      (execPioInEdge n g e rise s) :=
  leaves_next (by simp)

theorem execPioJmp_frame {n : Fin 6} {g : Fin 4} {e : Fin 8} : Leaves [.regs, .fc] s (execPioJmp n g e s) :=
  leaves_next (by simp)

theorem execPioLoad_frame {n : Fin 6} {g : Fin 4} {e : Fin 8} : Leaves [.regs, .fc] s (execPioLoad n g e s) :=
  leaves_next (by simp)

theorem execPioMov_frame {n : Fin 6} {g : Fin 4} {e : Fin 8} : Leaves [.regs, .fc] s (execPioMov n g e s) :=
  leaves_next (by simp)

theorem execPioWait_frame {n : Fin 6} {g : Fin 4} {e : Fin 8} {onTick : Bool} :
    Leaves [.regs, .fc] s (execPioWait n g e onTick s) :=
  leaves_next (by simp)

theorem execPioWaitSatisfied_frame {n : Fin 6} {g : Fin 4} {e : Fin 8} {onTick : Bool} :
    Leaves [.regs, .fc] s (execPioWaitSatisfied n g e onTick s) :=
  leaves_next (by simp)

theorem execSignalFrame_frame {src : Nat} {ep : BitVec 12} {bytes : InClass} :
    Leaves [.regs, .dlv, .sig] s (execSignalFrame src ep bytes s) :=
  leaves_next (by simp)

theorem execStagingRelease_frame : Leaves [.regs, .vis] s (execStagingRelease s) := by
  refine leaves_next ?_
  split <;> simp

theorem execTxFifoWrite_frame {n : Fin 6} {q : Fin 32} : Leaves [.regs, .fc, .out] s (execTxFifoWrite n q s) :=
  leaves_next (by simp)

end Frames

/-- Settles O60: one frame rule for each command named. -/
theorem frameField : Obligations.FrameField :=
  ⟨fun _ _ _ _ => execCanArbLost_frame.graft, fun _ _ _ _ => execCanDupHoldEnd_frame.graft,
   fun _ _ _ _ _ => execCanObjectCaptureRead_frame.graft, fun _ _ _ _ => execCanObjectRequest_frame.graft,
   fun _ _ _ => execCanRecover_frame.graft, fun _ _ _ _ => execCanSleep_frame.graft, fun _ _ _ => execCanWake_frame.graft,
   fun _ _ _ => execCciDirectCmd_frame.graft, fun _ _ _ _ => execCciDirectDone_frame.graft,
   fun _ _ => execCsitxRowSend_frame.graft, fun _ _ => execDikeRetryResetTimer_frame.graft,
   fun _ _ _ _ => execDioOutClr_frame.graft, fun _ _ _ _ => execDioOutSet_frame.graft,
   fun _ _ _ => execDioTimedEntry_frame.graft, fun _ _ _ _ => execEvfClr_frame.graft, fun _ _ _ _ => execEvfSet_frame.graft,
   fun _ _ _ => execFlushTx_frame.graft, fun _ _ _ _ => execPioDelayExpiry_frame.graft,
   fun _ _ _ _ _ => execPioInEdge_frame.graft, fun _ _ _ _ => execPioJmp_frame.graft,
   fun _ _ _ _ => execPioLoad_frame.graft, fun _ _ _ _ => execPioMov_frame.graft, fun _ _ _ _ _ => execPioWait_frame.graft,
   fun _ _ _ _ _ => execPioWaitSatisfied_frame.graft, fun _ _ _ _ => execSignalFrame_frame.graft,
   fun _ => execStagingRelease_frame.graft, fun _ _ _ => execTxFifoWrite_frame.graft⟩

end Sys2Proof.Machine
end

section
/-! PROOFS. The power domains, modes and resets of the node (R25, R31-R40, R57-R60): which branch of each command is taken, and
their statements. -/

namespace Sys2Proof.Machine

open Sys2Proof.Machine.Reg

/-! ### Branches -/

/-- A command under a guard that holds. -/
theorem next_ite_pos {c : Prop} [Decidable c] {a b : State} (h : c) :
    (.next (if c then a else b) : Host.Outcome State Fault Refusal) = .next a := congrArg _ (if_pos h)

/-- A command under a guard that fails. -/
theorem next_ite_neg {c : Prop} [Decidable c] {a b : State} (h : ¬ c) :
    (.next (if c then a else b) : Host.Outcome State Fault Refusal) = .next b := congrArg _ (if_neg h)

/-! ### Power domains (R31-R33) -/

/-- Settles O12: each command under the guard that its clause states. -/
theorem powerDomains : Obligations.PowerDomains := by
  refine ⟨?onSet, ?onClr, ?upStart, ?upDone, ?drainStart, ?drainEnd, ?off, ?upAgain⟩
  case onSet | onClr => exact fun s req val hopen => next_ite_pos hopen
  case upStart => exact fun s d hp hreq => next_ite_pos ⟨hp, hreq⟩
  case upDone => exact fun s d hp => next_ite_pos hp
  case drainStart => exact fun s d hp hoff => next_ite_pos ⟨hp, .inr hoff⟩
  case drainEnd => exact fun s d hp hflushed hemitted hoff => next_ite_pos ⟨hp, hflushed, hemitted, hoff⟩
  case off =>
    intro s d hp hon
    have hstays : ¬ ((s.get GLB_PD_ON_SET).testBit d && !s.isFenced d && s.node.modeReq != some mDORMANT) = true := by
      simp [hon]
    exact (next_ite_pos hp).trans (next_ite_neg hstays)
  case upAgain =>
    intro s d hp hon hfence hreq
    have hback : ((s.get GLB_PD_ON_SET).testBit d && !s.isFenced d && s.node.modeReq != some mDORMANT) = true := by
      simp [hon, hfence, hreq]
    exact (next_ite_pos hp).trans (next_ite_pos hback)

/-! ### Modes (R35-R40) -/

section Requests

variable {s : State} {m : Nat} {act : State → State}

/-- R36, R37: a request that AON takes, with none pending and no activation under way, is carried out in the mode from which
the table lists it. -/
theorem State.modeRequest_listed (hopen : s.aonOpen = true) (hpend : s.get GLB_MODE_REQ_STATUS ≠ 2)
    (hact : s.boot.actEvent = 0) (hm : s.mode = m) : s.modeRequest m act = act s := by
  simp [State.modeRequest, hopen, hpend, hact, hm]

/-- R36: in another mode it ends NOT_ALLOWED. -/
theorem State.modeRequest_unlisted (hopen : s.aonOpen = true) (hpend : s.get GLB_MODE_REQ_STATUS ≠ 2)
    (hact : s.boot.actEvent = 0) (hm : s.mode ≠ m) : s.modeRequest m act = s.put GLB_MODE_REQ_STATUS 3 := by
  simp [State.modeRequest, hopen, hpend, hact, hm]

/-- R39: a wake source in DORMANT is recorded and starts the wake. -/
theorem State.wake_of_dormant {bit first : Nat} (hm : s.mode = mDORMANT) :
    s.wake bit first = (s.recordWake bit first).wakeFromDormant := if_pos hm

end Requests

/-- Settles O13: the requests by `modeRequest`'s cases, the entries under their guards. -/
theorem modeRequests : Obligations.ModeRequests := by
  refine ⟨?active, ?service, ?dormant, ?notAllowed, ?serviceEntry, ?dormantEntry, ?dormantLate, ?wakeIn⟩
  case active =>
    intro s hopen hpend hact hm
    simp only [exec, execModeReqActive, State.modeRequest_listed hopen hpend hact hm]
  case service =>
    intro s hopen hpend hact hm
    simp only [exec, execModeReqService, State.modeRequest_listed hopen hpend hact hm]
  case dormant =>
    intro s hopen hpend hact hm
    simp only [exec, execModeReqDormant, State.modeRequest_listed hopen hpend hact hm]
  case notAllowed =>
    intro s target hopen hpend hact hm htarget
    exact (next_ite_neg htarget).trans (congrArg _ (State.modeRequest_unlisted hopen hpend hact hm.ne))
  case serviceEntry => exact fun s hreq => next_ite_pos hreq
  case dormantEntry =>
    intro s hreq hoff hlate
    have hnow : ¬ s.node.wakeLate = true := by simp [hlate]
    exact (next_ite_pos ⟨hreq, hoff⟩).trans (next_ite_neg hnow)
  case dormantLate => exact fun s hreq hoff hlate => (next_ite_pos ⟨hreq, hoff⟩).trans (next_ite_pos hlate)
  case wakeIn => exact fun s hm => congrArg _ (State.wake_of_dormant hm)

/-! ### Resets (R57-R60) -/

section Resets

variable {s : State} {kind source : Nat}

/-- R59: a reset that no wider one precludes is taken, and the host log follows it, except where `PERST_N` gives it. -/
theorem State.narrowReset_taken (hoff : s.node.off = false) (hw : s.widerReset kind = false) (hsrc : source ≠ 2) :
    s.narrowReset kind source = (s.resetNarrow kind source).hlogCopy := by
  simp [State.narrowReset, hoff, hw, hsrc]

theorem State.narrowReset_perst (hoff : s.node.off = false) (hw : s.widerReset kind = false) :
    s.narrowReset kind 2 = s.resetNarrow kind 2 := by
  simp [State.narrowReset, hoff, hw]

theorem resetSource_ne_perst (req : Requester) : resetSource req ≠ 2 := by
  cases req <;> simp [resetSource]

end Resets

/-- Settles O14: each command under its guards, and a reset by `narrowReset_taken`. -/
theorem resetCommands : Obligations.ResetCommands := by
  refine ⟨?porAssert, ?supplyLoss, ?porRelease, ?perstNode, ?perstHif, ?perstEnd, ?heldEnd, ?warm, ?node, ?watchdog,
    ?recovery, ?refs⟩
  case porAssert | supplyLoss => exact fun s => rfl
  case porRelease =>
    intro s load slot testEn psw hoff hperst
    have hhigh : ¬ s.node.perst = true := by simp [hperst]
    exact (next_ite_pos ⟨hoff, rfl⟩).trans (next_ite_neg hhigh)
  case perstNode =>
    intro s hoff hcfg hw
    have hon : ¬ s.node.off = true := by simp [hoff]
    calc exec .perstAssert s
        = .next (s.narrowReset 2 2).holdReset := (next_ite_neg hon).trans (next_ite_pos hcfg)
      _ = .next (s.resetNarrow 2 2).holdReset := by rw [State.narrowReset_perst hoff hw]
  case perstHif =>
    intro s hoff hcfg
    have hon : ¬ s.node.off = true := by simp [hoff]
    have hhif : ¬ s.flag GLB_RST_CFG = true := by simp [hcfg]
    exact (next_ite_neg hon).trans (next_ite_neg hhif)
  case perstEnd => exact fun s hheld => next_ite_neg (by simp [hheld])
  case heldEnd => exact fun s hheld hrefs => next_ite_pos ⟨hheld, by simp [hrefs]⟩
  case warm | node =>
    exact fun s req hopen hoff hw =>
      (next_ite_pos hopen).trans (congrArg _ (State.narrowReset_taken hoff hw (resetSource_ne_perst req)))
  case watchdog => exact fun s hrun hoff hw => next_ite_pos ⟨hrun, by simp [hoff], by simp [hw]⟩
  case recovery =>
    intro s hrec hm hfence hoff hw
    have hguard : s.node.recovering = true ∧ s.mode = mCONTAINED ∧ ¬ s.isFenced dSV = true := ⟨hrec, hm, by simp [hfence]⟩
    exact (next_ite_pos hguard).trans (congrArg _ (State.narrowReset_taken hoff hw (by decide)))
  case refs =>
    intro s hrefs hheld
    have hfree : ¬ s.node.held = true := by simp [hheld]
    exact (next_ite_pos hrefs).trans (next_ite_neg hfree)

end Sys2Proof.Machine
end

section
/-! PROOFS. The node's error sources and shared pins (R18, R24-R29, R53-R56, R497), and their statement. -/

namespace Sys2Proof.Machine

open Sys2Proof.Machine.Reg

/-! ### Pace (R28) -/

section Pace

variable {s : State} {d : Nat}

/-- No status that a threat depends on shares its register with `PACE`. -/
theorem State.get_put_pace {v : Nat} {f : Field} (h : f.key < 0x50100 * 32) : (s.put (PWR_PACE_PACE d) v).get f = s.get f := by
  refine State.put_get_other _ _ _ _ ?_
  simp only [PWR_PACE_PACE, Field.key] at h ⊢
  omega

/-- R28, R459: a pace below floor × 1.05 at the ceiling starts a threat in a domain that can be threatened. -/
theorem State.paceThreat_starts {pace : Nat} (hup : s.isUp d = true) (hfence : s.isFenced d = false)
    (hfree : s.isThreat d = false) (hfloor : paceFloor d ≠ 0) (hlow : 100 * pace < 105 * paceFloor d)
    (hceil : s.atCeiling = true) :
    s.paceThreat d pace =
      (let u := s.put (PWR_PACE_PACE d) pace
       State.recordWith (State.pendShared { u with node := { u.node with threat := setBit u.node.threat d } } (672 + d))
         (608 + d) [pace % 65536 + paceFloor d * 65536]) := by
  have hup' : (s.put (PWR_PACE_PACE d) pace).isUp d = true := by
    rw [State.isUp, State.get_put_pace (by decide)]; exact hup
  have hfence' : (s.put (PWR_PACE_PACE d) pace).isFenced d = false := by
    rw [State.isFenced, State.get_put_pace (by decide)]; exact hfence
  have hceil' : (s.put (PWR_PACE_PACE d) pace).atCeiling = true := by
    rw [State.atCeiling, State.get_put_pace (by decide), State.get_put_pace (by decide), State.get_put_pace (by decide)]
    exact hceil
  refine if_pos ?_
  simp [hup', hfence', hfree, hfloor, hlow, hceil']

end Pace

/-! ### The shared pins (R53-R56) -/

section Pins

variable {s : State} {level : Bool}

/-- R56: the active half sends its pulse, and waits while `PSW_SENSE` does not show its slot. -/
theorem State.takePulse_waits (hrole : s.node.twinRole = .active) (hown : s.ownSlot = false) :
    s.takePulse = State.emit { s with node := { s.node with pswPulse := true, pswWait := true } } (.pin 6 0 0) := by
  refine (if_pos hrole).trans (if_neg fun h => ?_)
  have hslot : s.ownSlot = true := h.1
  simp [hown] at hslot

/-- The pin's new level, and the pins that follow it (R54). -/
def State.sensed (s : State) (level : Bool) : State :=
  State.showPins s (State.put { s with node := { s.node with pswSense := level } } GLB_PSW_SENSE (b2n level)).showGroups

theorem State.sensed_get_other {f : Field} (h : f.key ≠ GLB_PSW_SENSE.key) : (s.sensed level).get f = s.get f :=
  State.put_get_other { s with node := { s.node with pswSense := level } } _ _ _ h

theorem State.sensed_ownSlot : (s.sensed level).ownSlot = (b2n level == s.get GLB_STRAP_SLOT) := by
  rw [State.ownSlot, State.sensed_get_other (by decide)]
  rfl

/-- R56, R406: the own slot is lost to an active half that drives the pins. -/
theorem execPswSenseChange_deposes (hoff : s.node.off = false) (hrole : s.node.twinRole = .active) (hown : s.ownSlot = true)
    (hlost : b2n level ≠ s.get GLB_STRAP_SLOT) (hdrives : s.flag GLB_PSW_OWN = true) :
    execPswSenseChange level s = .next ((s.sensed level).releasePins.put TWIN_STATUS_STATE 4) := by
  have hon : (s.sensed level).node.off = false := hoff
  have hother : (s.sensed level).ownSlot = false := by simpa [State.sensed_ownSlot] using hlost
  have hdrives' : (s.sensed level).flag GLB_PSW_OWN = true := by
    rw [State.flag, State.sensed_get_other (by decide)]; exact hdrives
  have hrole' : (s.sensed level).releasePins.node.twinRole = .active := hrole
  simp only [execPswSenseChange, ← State.sensed.eq_1, hon, hother, hdrives', hown, hrole', if_true, Bool.false_eq_true,
    not_true, if_false]

end Pins

/-- Settles O15: each command under its guards, the threat and the loss of the slot by the lemmas above. -/
theorem nodeSources : Obligations.NodeSources := by
  refine ⟨?lockstep, ?lossTime, ?lossSer, ?lossPcie, ?returnTime, ?returnSer, ?returnPcie, ?island, ?ethIsland, ?canIsland,
    ?pioIsland, ?threat, ?release, ?service, ?warning, ?take, ?pulseEnd, ?takeTimeout, ?deposed⟩
  case lockstep => exact fun s => rfl
  case lossTime | lossSer | lossPcie => exact fun s hm hoff => next_ite_neg (not_or_intro hm (by simp [hoff]))
  case returnTime | returnSer | returnPcie => exact fun s => rfl
  case island =>
    intro s i e hi
    have hpio : ¬ 57 ≤ i.val := by omega
    have hcan : ¬ 9 ≤ i.val := by omega
    have heth : ¬ (3 ≤ i.val ∧ i.val ≤ 6) := by omega
    simp [exec, execIslUnderrun, State.islandUnderrun, hpio, hcan, heth]
  case ethIsland =>
    intro s i e hi
    have hpio : ¬ 57 ≤ i.val := by omega
    have hcan : ¬ 9 ≤ i.val := by omega
    simp [exec, execIslUnderrun, State.islandUnderrun, hpio, hcan, hi]
  case canIsland =>
    intro s i e hlow hhigh hstop
    have hpio : ¬ 57 ≤ i.val := by omega
    simp [exec, execIslUnderrun, hpio, hlow, hstop]
  case pioIsland => exact fun s i e hi => next_ite_pos hi
  case threat =>
    intro s d pace hup hfence hfree hfloor hlow hceil
    simp only [exec, execPaceThreat, State.paceThreat_starts hup hfence hfree hfloor hlow hceil]
  case release => exact fun s d h => next_ite_pos h
  case service =>
    intro s p hlow hhigh
    simp [exec, execSvWatchdogService, hlow, hhigh]
  case warning => exact fun s hrun => next_ite_pos hrun
  case take => exact fun s hopen hrole hown => (next_ite_pos hopen).trans (congrArg _ (State.takePulse_waits hrole hown))
  case pulseEnd => exact fun s h => next_ite_pos h
  case takeTimeout => exact fun s hwait hown => next_ite_pos (by simp [hwait, hown])
  case deposed =>
    exact fun s level hoff hrole hown hlost hdrives => execPswSenseChange_deposes hoff hrole hown hlost hdrives

end Sys2Proof.Machine
end

section
/-! PROOFS. The sleep of the Lull set and what wakes it (R37, R39, R170-R172), and their statement. -/

namespace Sys2Proof.Machine

open Sys2Proof.Machine.Reg

/-- Settles O24: each command under the guard that its clause states. -/
theorem lullSleep : Obligations.LullSleep := by
  refine ⟨?setOff, ?notDrained, ?setUp, ?wakeCmd, ?wakeCmdDormant, ?arm, ?activity, ?noActivity, ?quiet, ?quietDormant,
    ?canFirst, ?canAgain, ?canNot⟩
  case setOff => exact fun s hcommit hdrained => next_ite_pos ⟨hcommit, hdrained⟩
  case notDrained => exact fun s hdrained => next_ite_neg fun h => by simp [hdrained] at h
  case setUp => exact fun s hwaking => next_ite_pos hwaking
  case wakeCmd => exact fun s hm => next_ite_neg hm
  case wakeCmdDormant => exact fun s hm => next_ite_pos hm
  case arm => exact fun s port hm => next_ite_pos hm
  case activity => exact fun s port harmed => next_ite_pos harmed
  case noActivity => exact fun s port harmed => next_ite_neg (by simp [harmed])
  case quiet => exact fun s port hm harmed => next_ite_pos ⟨hm, by simp [harmed]⟩
  case quietDormant => exact fun s port hm => next_ite_neg fun h => by simp [hm, mDORMANT, mLULL] at h
  case canFirst =>
    intro s ctrl hwakes hfirst
    simp [exec, execAonCanWake, hwakes, hfirst]
  case canAgain =>
    intro s ctrl hwakes hagain
    simp [exec, execAonCanWake, hwakes, hagain]
  case canNot => exact fun s ctrl hwakes => next_ite_neg (by simp [hwakes])

end Sys2Proof.Machine
end

section
/-! PROOFS. The calibration block (R80-R82), the agent at the end of a reset, the check of an image, and the end of a start (R61, R69,
R462), and their statement. -/

namespace Sys2Proof.Machine

open Sys2Proof.Machine.Reg

/-! ### The calibration block (R82) -/

/-- A commit is refused unless the shadow is valid and fewer than 10,000 have been made. -/
theorem execCalCommit_idle {s : State} (hopen : s.aonOpen = true) (hbusy : s.flag BOOT_CAL_STATE_BUSY = false) :
    execCalCommit s = .next (if s.shadowOk = true ∧ s.get BOOT_CAL_STATE_COMMITS < 10000
      then { s.put BOOT_CAL_STATE_BUSY 1 with boot := { s.boot with calJob := 1 } }
      else s.raise BOOT_CAL_STATE_ERR) := by
  have hreach : ¬ ¬ s.aonOpen = true := not_not_intro hopen
  refine (next_ite_neg hreach).trans ?_
  by_cases hgood : s.shadowOk = true ∧ s.get BOOT_CAL_STATE_COMMITS < 10000
  · obtain ⟨hshadow, hcount⟩ := hgood
    have haccept : ¬ (s.flag BOOT_CAL_STATE_BUSY = true ∨ ¬ s.shadowOk = true ∨ 10000 ≤ s.get BOOT_CAL_STATE_COMMITS) := by
      simp [hbusy, hshadow, hcount]
    rw [if_neg haccept, if_pos ⟨hshadow, hcount⟩]
  · have hrefuse : s.flag BOOT_CAL_STATE_BUSY = true ∨ ¬ s.shadowOk = true ∨ 10000 ≤ s.get BOOT_CAL_STATE_COMMITS :=
      .inr (by rwa [not_and_or, Nat.not_lt] at hgood)
    rw [if_pos hrefuse, if_neg hgood]

/-! ### The end of a reset (R61, R462) -/

section ResetEnd

variable {s : State} {k sizeGiB : Nat}

/-- A reset that nothing prolongs ends: the node is set up, then the agent acts. -/
theorem execLoaderResetEnd_due (hkind : s.node.resetKind = some k) (hheld : s.node.held = false)
    (hrefs : s.node.awaitRefs = false) (hoff : s.node.off = false) :
    execLoaderResetEnd sizeGiB s = .next ((s.setUp k sizeGiB).startAgent k) := by
  simp [execLoaderResetEnd, hkind, hheld, hrefs, hoff]

/-- R462: the strap puts the agent in TEST_HOLD after any reset. -/
theorem State.startAgent_testHold (htest : s.flag GLB_STRAP_TEST_EN = true) :
    s.startAgent k = { s.put BOOT_STATUS_LOAD_STATUS 8 with boot := { s.boot with pathsOpen := true } } := if_pos htest

/-- R61, R67: after a WARM reset the image in the active slot is checked again, its session holding that image's header. -/
theorem State.startAgent_recheck (htest : s.flag GLB_STRAP_TEST_EN = false) (himage : s.boot.imageStarted = true) :
    s.startAgent 1 =
      (let x := s.slotHeader (s.get BOOT_STATUS_SLOT)
       { (s.put BOOT_STATUS_LOAD_STATUS 2).put BOOT_STATUS_PATH 0 with boot := { s.boot with
           warmCheck := true, pathsOpen := true,
           load := { owner := 0, hdr := some x, bitmap := 2 ^ pagesOf x.total - 1 } } }) :=
  (if_neg (by simp [htest])).trans (if_pos ⟨rfl, himage⟩)

/-- R61: after a wider reset both slots are empty and the agent waits for a header. -/
theorem State.startAgent_waitHeader (htest : s.flag GLB_STRAP_TEST_EN = false) (hk : k ≠ 1) :
    s.startAgent k =
      (let v : State := { s with boot := { s.boot with pathsOpen := true, warmCheck := false } }
       let w := (v.put BOOT_STATUS_LOAD_STATUS 4).restartSession 0
       State.restartSession (((State.put { w with boot := { w.boot with slot0 := {}, slot1 := {} } } BOOT_STATUS_DETAIL 0).put
         BOOT_STATUS_SLOT 0)) 1) :=
  (if_neg (by simp [htest])).trans ((if_neg fun h => hk h.1).trans (if_neg hk))

end ResetEnd

/-! ### The check of an image (R69, R70) -/

section ImageCheck

variable {s : State} {x : Header}

/-- Unless it is the re-check after a WARM reset, the check judges the session's image. -/
theorem execImageVerifyDone_session (hstatus : s.sessionStatus = 2) (hload : s.boot.warmCheck = false ∨ s.staging = true)
    (hhdr : s.session.hdr = some x) :
    execImageVerifyDone s = .next (if s.imageCheck s.sessionSlot x = 0
      then (s.setSlotInfo s.sessionSlot { valid := true, crc := x.crc, version := x.version }).setSessionStatus 3
      else (s.setSessionDetail (s.imageCheck s.sessionSlot x)).setSessionStatus 7) := by
  have hnotWarm : ¬ (s.boot.warmCheck = true ∧ ¬ s.staging = true) :=
    fun ⟨hwarm, hstage⟩ => hload.elim (fun hcold => by simp [hcold] at hwarm) hstage
  refine (next_ite_neg (not_not_intro hstatus)).trans ((next_ite_neg hnotWarm).trans ?_)
  simp only [hhdr]

end ImageCheck

/-- Settles O20: each command under the guard that its clause states; the end of a reset by `startAgent`'s cases, the check of an
image by the session that it judges. -/
theorem calibration : Obligations.Calibration := by
  refine ⟨?loadShadow, ?loadBusy, ?commitBusy, ?commit, ?eraseBusy, ?erase, ?commitDone, ?eraseDone, ?testHold, ?recheck,
    ?waitHeader, ?verified, ?failed, ?warm, ?ready⟩
  case loadShadow | erase =>
    exact fun s hopen hbusy => (next_ite_neg (not_not_intro hopen)).trans (next_ite_neg (by simp [hbusy]))
  case loadBusy | eraseBusy =>
    exact fun s hopen hbusy => (next_ite_neg (not_not_intro hopen)).trans (next_ite_pos hbusy)
  case commitBusy => exact fun s hopen hbusy => (next_ite_neg (not_not_intro hopen)).trans (next_ite_pos (.inl hbusy))
  case commit => exact fun s hopen hbusy => execCalCommit_idle hopen hbusy
  case commitDone | eraseDone => exact fun s hjob => next_ite_pos hjob
  case testHold =>
    intro s sizeGiB k hkind hheld hrefs hoff htest
    exact (execLoaderResetEnd_due hkind hheld hrefs hoff).trans (congrArg _ (State.startAgent_testHold htest))
  case recheck =>
    intro s sizeGiB hkind hheld hrefs hoff htest himage
    exact (execLoaderResetEnd_due hkind hheld hrefs hoff).trans (congrArg _ (State.startAgent_recheck htest himage))
  case waitHeader =>
    intro s sizeGiB k hkind hk hheld hrefs hoff htest
    exact (execLoaderResetEnd_due hkind hheld hrefs hoff).trans (congrArg _ (State.startAgent_waitHeader htest hk))
  case verified =>
    exact fun s x hstatus hload hhdr hcheck => (execImageVerifyDone_session hstatus hload hhdr).trans (next_ite_pos hcheck)
  case failed =>
    exact fun s x hstatus hload hhdr hcheck => (execImageVerifyDone_session hstatus hload hhdr).trans (next_ite_neg hcheck)
  case warm =>
    intro s hstatus hwarm hstage
    exact (next_ite_neg (not_not_intro hstatus)).trans (next_ite_pos ⟨hwarm, by simp [hstage]⟩)
  case ready => exact fun s hstatus hm => next_ite_pos ⟨hstatus, hm⟩

end Sys2Proof.Machine
end

section
/-! PROOFS. The units of the endpoints and the ports that are down (R93, R97, R135, R141), and their statement. -/

namespace Sys2Proof.Machine

section Posts

variable {s : State} {src sq wsn : Nat} {x : Work}

/-- R93, R114: an RX_POST lends its buffer once, in its order. -/
theorem execRxPost_of_work (hx : s.work? src sq wsn = some x) :
    execRxPost src sq wsn s =
      .next (if x.opcode = 0x50 ∧ ¬ x.taken ∧ s.inOrder x then (s.takeWork x).deliver x.ep else s) := by
  simp only [execRxPost, hx]

end Posts

section Ports

variable {s : State} {port : Nat}

/-- R135: the link returns to a ring or twin port in REDIRECT, which is not in HOLD. -/
theorem execLinkReturn_redirect (hring : port ≤ 2) (hst : s.portState port = 4) :
    execLinkReturn port s = .next ((s.showLanes port).setFlap (ringFlap port) (some .redirectStable)) := by
  have hhold : ¬ s.portState port = 3 := by simp [hst]
  exact (next_ite_pos hring).trans ((next_ite_neg hhold).trans (next_ite_pos hst))

/-- R135: HOLD_TIME passes for the twin port, whose frames have no other port to go out by. -/
theorem execHoldTimeExpiry_twin (hst : s.portState 2 = 3) (hdown : (SMap.find s.dlv.flaps (ringFlap 2)).isNone = true) :
    execHoldTimeExpiry 2 s = .next (s.setPort 2 4) := by
  have htwin : ¬ (2 ≤ 1 ∧ (s.setPort 2 4).portState (1 - 2) = 2) := fun h => absurd h.1 (by decide)
  exact (next_ite_pos (Nat.le_refl 2)).trans ((next_ite_pos ⟨hst, hdown⟩).trans (next_ite_neg htwin))

end Ports

/-- Settles O16: each command under the guard that its clause states, with the port numbers of notes/assumptions/17.md. -/
theorem endpointUnits : Obligations.EndpointUnits := by
  refine ⟨?send, ?sendTime, ?rxPost, ?down, ?returnHold, ?returnRedirect, ?returnEndpoint, ?stable, ?stableEndpoint,
    ?holdTwin, ?holdEndpoint⟩
  case send => exact fun s ep => rfl
  case sendTime => exact fun s ep hready => next_ite_pos hready
  case rxPost =>
    intro s src sq wsn x hx hop htaken horder
    exact (execRxPost_of_work hx).trans (next_ite_pos ⟨hop, by simp [htaken], horder⟩)
  case down => exact fun s port hring hup => (next_ite_pos hring).trans (next_ite_pos hup)
  case returnHold => exact fun s port hring hhold => (next_ite_pos hring).trans (next_ite_pos hhold)
  case returnRedirect => exact fun s port hring hst => execLinkReturn_redirect hring hst
  case returnEndpoint | holdEndpoint => exact fun s port hep => next_ite_neg (Nat.not_le.mpr hep)
  case stable =>
    exact fun s port hring hlink hst => (next_ite_pos hring).trans (next_ite_pos ⟨hlink, hst⟩)
  case stableEndpoint =>
    exact fun s port hep hlinked => (next_ite_neg (Nat.not_le.mpr hep)).trans (next_ite_pos hlinked)
  case holdTwin => exact fun s hst hdown => execHoldTimeExpiry_twin hst hdown

end Sys2Proof.Machine
end

section
/-! PROOFS. Remote accesses (R165, R166) and the register items (R93, R126), and their statement. -/

namespace Sys2Proof.Machine

/-! ### Remote accesses -/

section Remote

variable {s : State} {src : AtPort} {seq offset count write reserved payLen : Nat} {words : List Word}

/-- R166: a malformed access. -/
theorem execRaReqFrame_malformed (hform : raMalformed offset count write reserved payLen words = true) :
    execRaReqFrame src seq offset count write reserved payLen words s =
      .next (s.raAnswer src.port src.num seq 0x83 count []) := by
  simp [execRaReqFrame, hform]

/-- R166: a well-formed access that the test turns away is answered with the test's code. -/
theorem execRaReqFrame_denied (hform : raMalformed offset count write reserved payLen words = false)
    (htest : s.remoteTest src.num offset count (write == 1) ≠ 0) :
    execRaReqFrame src seq offset count write reserved payLen words s =
      .next (s.raAnswer src.port src.num seq (s.remoteTest src.num offset count (write == 1)) count []) := by
  simp [execRaReqFrame, hform, htest]

/-- R166: a well-formed access that the test passes is served. -/
theorem execRaReqFrame_served (hform : raMalformed offset count write reserved payLen words = false)
    (htest : s.remoteTest src.num offset count (write == 1) = 0) :
    execRaReqFrame src seq offset count write reserved payLen words s =
      .next (s.raServe src.port src.num seq offset count write words) := by
  simp [execRaReqFrame, hform, htest]

end Remote

/-! ### Register items -/

section Items

variable {s : State} {src sq wsn : Nat} {w : Work}

/-- R93: the words of a REG_WRITE that the test passes are written in ascending order, then the item commits, unless the writes
have reset the node. -/
theorem execRegWrite_served (hw : s.readyWork src sq wsn 0x20 = some w) (htest : s.itemTest w = 0) :
    execRegWrite src sq wsn s =
      .next (let t := s.busWrites (s.itemReq w) w.param ((List.range (w.length / 4)).map (fun i => leAt w.data (4 * i) 4))
        if (t.work? src sq wsn).isSome then t.commitInternal w w.length else t) := by
  simp [execRegWrite, hw, htest]

theorem execRegWrite_denied (hw : s.readyWork src sq wsn 0x20 = some w) (htest : s.itemTest w ≠ 0) :
    execRegWrite src sq wsn s = .next (s.failWork w (s.itemTest w) 0 0) := by
  simp [execRegWrite, hw, htest]

/-- R93: the words that a REG_READ reads in ascending order are returned. -/
theorem execRegRead_served (hw : s.readyWork src sq wsn 0x21 = some w) (htest : s.itemTest w = 0) :
    execRegRead src sq wsn s =
      .next (let r := s.busReads (s.itemReq w) (w.length / 4) w.param
        r.1.returnData w (wordBytes r.2) 0) := by
  simp [execRegRead, hw, htest]

theorem execRegRead_denied (hw : s.readyWork src sq wsn 0x21 = some w) (htest : s.itemTest w ≠ 0) :
    execRegRead src sq wsn s = .next (s.failWork w (s.itemTest w) 0 0) := by
  simp [execRegRead, hw, htest]

end Items

/-- Settles O22: an access is malformed, denied or served; so is a register item whose turn it is. RA_TIMEOUT asks for SV alone, a
REG_WRITE that resets the node does not commit, and a remote write of GLB_RESET follows its answer, as the model chooses
(notes/assumptions/07.md). -/
theorem remoteAccess : Obligations.RemoteAccess := by
  refine ⟨?read, ?write, ?malformed, ?denied, ?response, ?timeout, ?regWrite, ?regWriteDenied, ?regRead, ?regReadDenied⟩
  case read => exact fun s port src seq offset count words hform htest => execRaReqFrame_served hform htest
  case write => exact fun s port src seq offset count payLen words hform htest => execRaReqFrame_served hform htest
  case malformed => exact fun s port src seq offset count write reserved payLen words hform => execRaReqFrame_malformed hform
  case denied =>
    exact fun s port src seq offset count write reserved payLen words hform htest => execRaReqFrame_denied hform htest
  case response => exact fun s src seq status count words => rfl
  case timeout => exact fun s seq hsv => next_ite_pos hsv
  case regWrite => exact fun s src sq wsn w hw htest => execRegWrite_served hw htest
  case regWriteDenied => exact fun s src sq wsn w hw htest => execRegWrite_denied hw htest
  case regRead => exact fun s src sq wsn w hw htest => execRegRead_served hw htest
  case regReadDenied => exact fun s src sq wsn w hw htest => execRegRead_denied hw htest

end Sys2Proof.Machine
end

section
/-! PROOFS. The items of the host queues from their descriptors to their records (R91-R94, R113-R120), and their statement. -/

namespace Sys2Proof.Machine

open Sys2Proof.Machine.Reg

/-! ### Descriptors (R91, R94) -/

section Descriptors

variable {s : State} {n k : Nat} {sq : BitVec 8}

theorem execDescFetchIssue_next (hruns : s.fetchRuns = true) (hnext : s.nextFetch = some n) :
    execDescFetchIssue s =
      .next (State.readSlots
        { s with hq := { s.hq with lastSq := n, fetching := SMap.insert s.hq.fetching n (s.fetchable n) } } n
        (s.get (HQ_SQ_CONS n)) (s.fetchable n)) := by
  simp only [execDescFetchIssue, hruns, hnext, if_true]

/-- The fetch of an SQ ends, whatever came back. -/
def State.endFetch (s : State) (n : Nat) : State := { s with hq := { s.hq with fetching := SMap.erase s.hq.fetching n } }

theorem execDescFetchReturn_read {l : List (List Byte)} (hk : SMap.find s.hq.fetching sq.toNat = some k) :
    execDescFetchReturn sq (some l) s =
      .next (((((l.take k).foldl (fun s bs => s.takeDesc sq.toNat bs) (s.endFetch sq.toNat)).writeConsumed
        sq.toNat).showInflight sq.toNat).hifPump.settleSq sq.toNat) := by
  simp only [execDescFetchReturn, hk, State.endFetch]

theorem execDescFetchReturn_failed (hk : SMap.find s.hq.fetching sq.toNat = some k) :
    execDescFetchReturn sq none s =
      .next ((((s.endFetch sq.toNat).sqError sq.toNat 0x0F).recordWith 17 [sq.toNat]).settleSq sq.toNat) := by
  simp only [execDescFetchReturn, hk, State.endFetch]

end Descriptors

/-! ### Items -/

section Items

variable {s : State} {sq : BitVec 8} {num : Nat} {i : Item}

/-- What a payload's read brings to an item that waits for it (R94 check 12, R263). -/
theorem execPayloadReadDone_read {bs : List Byte} (hi : s.item? sq.toNat num = some i) (hread : i.stage = .reading) :
    execPayloadReadDone sq num (some bs) s =
      .next (if i.badLineByte bs then s.complete sq.toNat num 0x01 0 0 false
        else s.updItem sq.toNat num (fun i => { i with stage := .ready, data := bs.take i.desc.length })) := by
  simp only [execPayloadReadDone, hi, hread, ne_eq, not_true, if_false]

theorem execPayloadReadDone_failed (hi : s.item? sq.toNat num = some i) (hread : i.stage = .reading) :
    execPayloadReadDone sq num none s = .next (s.complete sq.toNat num 0x0C 0 0 false) := by
  simp only [execPayloadReadDone, hi, hread, ne_eq, not_true, if_false]

/-- R113, R117: an item whose turn it is takes its places in the journal. -/
theorem execItemAccept_placed {slot off len : Nat} (hi : s.item? sq.toNat num = some i) (hmay : s.mayAccept i = true)
    (hplace : s.journalPlace i = some (slot, off, len)) :
    execItemAccept sq num s = .next (s.acceptAt i slot off len) := by
  simp only [execItemAccept, hi, hmay, hplace, if_true]

/-- Before its turn, or without places in the journal, it stays as it is. -/
theorem execItemAccept_waits (hi : s.item? sq.toNat num = some i)
    (hwait : s.mayAccept i = false ∨ s.journalPlace i = none) : execItemAccept sq num s = .next s := by
  rcases hwait with hturn | hplace
  · simp [execItemAccept, hi, hturn]
  · simp [execItemAccept, hi, hplace]

theorem execNop_of_item (hi : s.item? sq.toNat num = some i) :
    execNop sq num s =
      .next (if i.desc.opcode = 0x00 ∧ i.isAccepted ∧ ¬ i.isDone then s.retire i.sq i.wsn 0 0 0 false else s) := by
  simp only [execNop, hi]

/-- R93: a FENCE waits for every item before it in its SQ. -/
theorem execFence_of_item (hi : s.item? sq.toNat num = some i) :
    execFence sq num s =
      .next (if i.desc.opcode = 0x01 ∧ i.isAccepted ∧ ¬ i.isDone
          ∧ ((s.itemsOf i.sq).takeWhile (fun j => j.num != num)).all (fun j => j.isDone)
        then s.retire i.sq i.wsn 0 0 0 false else s) := by
  simp only [execFence, hi]

end Items

/-- Settles O27: each command by what it brings to the fetch or the item that it names. -/
theorem hostItems : Obligations.HostItems := by
  refine ⟨?issue, ?descs, ?descsFailed, ?payload, ?badLine, ?payloadFailed, ?accept, ?waits, ?flush, ?nop, ?fence, ?fenceWaits⟩
  case issue => exact fun s n hruns hnext => execDescFetchIssue_next hruns hnext
  case descs => exact fun s sq k l hk => execDescFetchReturn_read hk
  case descsFailed => exact fun s sq k hk => execDescFetchReturn_failed hk
  case payload =>
    exact fun s sq num bs i hi hread hline => (execPayloadReadDone_read hi hread).trans (next_ite_neg (by simp [hline]))
  case badLine => exact fun s sq num bs i hi hread hline => (execPayloadReadDone_read hi hread).trans (next_ite_pos hline)
  case payloadFailed => exact fun s sq num i hi hread => execPayloadReadDone_failed hi hread
  case accept => exact fun s sq num i slot off len hi hmay hplace => execItemAccept_placed hi hmay hplace
  case waits => exact fun s sq num i hi hwait => execItemAccept_waits hi hwait
  case flush => exact fun s covered => rfl
  case nop =>
    intro s sq num i hi hop hacc hopen
    exact (execNop_of_item hi).trans (next_ite_pos ⟨hop, hacc, by simp [hopen]⟩)
  case fence =>
    intro s sq num i hi hop hacc hopen hbefore
    exact (execFence_of_item hi).trans (next_ite_pos ⟨hop, hacc, by simp [hopen], hbefore⟩)
  case fenceWaits =>
    intro s sq num i hi hbefore
    have hblocked : ¬ (i.desc.opcode = 0x01 ∧ i.isAccepted ∧ ¬ i.isDone
        ∧ ((s.itemsOf i.sq).takeWhile (fun j => j.num != num)).all (fun j => j.isDone)) :=
      fun ⟨_, _, _, hdone⟩ => by simp [hbefore] at hdone
    exact (execFence_of_item hi).trans (next_ite_neg hblocked)

end Sys2Proof.Machine
end

section
/-! PROOFS. Frames of accepted items, and what follows their loss (R120-R124, R129, R135, R146, R163), and their statement. -/

namespace Sys2Proof.Machine

section Frames

variable {s : State} {tag : Tag} {segOff node wsn : Nat} {last : Bool} {bytes : List Byte} {sq : BitVec 8} {i : Item}

/-- R146, R334: a RETURN frame of an open item under the present GEN. -/
theorem execReturnFrame_open (hgen : tag.gen = s.dlv.gen) (hi : s.openItem? tag.sq tag.wsn = some i) :
    execReturnFrame tag segOff last bytes s =
      .next (let t := (s.hostWrite (i.desc.bufAddr + segOff) bytes).updItem i.sq i.num
               (fun i => { i with got := segOff + bytes.length })
             if last ∧ (i.desc.opcode = 0x21 ∨ i.desc.opcode = 0x31)
             then t.retire i.sq i.wsn 0 (segOff + bytes.length) 0 false else t) := by
  have hpresent : ¬ tag.gen ≠ s.dlv.gen := not_not_intro hgen
  exact (next_ite_neg hpresent).trans (by simp only [hi])

/-- A RETURN frame under another GEN, or of no open item, is dropped. -/
theorem execReturnFrame_stale (hstale : tag.gen ≠ s.dlv.gen ∨ s.openItem? tag.sq tag.wsn = none) :
    execReturnFrame tag segOff last bytes s = .next s := by
  by_cases hgen : tag.gen = s.dlv.gen
  · have hnone : s.openItem? tag.sq tag.wsn = none := hstale.resolve_left (not_not_intro hgen)
    exact (next_ite_neg (not_not_intro hgen)).trans (by simp only [hnone])
  · exact next_ite_pos hgen

/-- R124: an item without acknowledgement is resent, if it has been forwarded. -/
theorem execAckTimeoutExpiry_open (hi : s.openItem? sq.toNat wsn = some i) :
    execAckTimeoutExpiry sq wsn s =
      .next (if i.stage = .forwarded
        then (s.updItem i.sq i.num (fun i => { i with timeout := min (2 * i.timeout) 1000 })).resend
          { i with timeout := min (2 * i.timeout) 1000 }
        else s) := by
  simp only [execAckTimeoutExpiry, hi]

theorem execAckTimeoutExpiry_none (hi : s.openItem? sq.toNat wsn = none) :
    execAckTimeoutExpiry sq wsn s = .next s := by
  simp only [execAckTimeoutExpiry, hi]

end Frames

/-- Settles O29: a frame or a timeout by the item that it names, an absence by the guard that its clause states. -/
theorem delivery : Obligations.Delivery := by
  refine ⟨?data, ?returned, ?stale, ?ack, ?timeout, ?noItem, ?resync, ?absent⟩
  case data => exact fun s tag ep cls param opcode length segOff last bytes => rfl
  case returned => exact fun s tag segOff last bytes i hgen hi => execReturnFrame_open hgen hi
  case stale => exact fun s tag segOff last bytes hstale => execReturnFrame_stale hstale
  case ack => exact fun s src entries => rfl
  case timeout => exact fun s sq wsn i hi hforwarded => (execAckTimeoutExpiry_open hi).trans (next_ite_pos hforwarded)
  case noItem => exact fun s sq wsn hi => execAckTimeoutExpiry_none hi
  case resync => exact fun s src seq ledger => rfl
  case absent => exact fun s node hother hroute => next_ite_neg (not_or_intro hother (by simp [hroute]))

end Sys2Proof.Machine
end

section
/-! PROOFS. The send objects of the CAN controllers (R126, R307-R310), and their statement. -/

namespace Sys2Proof.Machine

open Sys2Proof.Machine.Reg

/-! ### Objects -/

section Objects

variable {s : State} {n : Fin 6} {c : Fin 8} {j : Fin 128} {o : CanObj} {w : Work} {won : Bool}

/-- R308: ring time reaches an item's `PARAM` in an object of a cluster that is up. -/
theorem execCanObjectRequest_loaded (ho : SMap.find (s.can n c).objs j = some o) (hw : s.workAt o.key = some w) :
    execCanObjectRequest n c j s =
      .next (if s.isUp (dFC n) ∧ w.param ≤ s.ringTime then s.updObj n c j (some { o with requested := true }) else s) := by
  simp only [execCanObjectRequest, ho, hw]

/-- R310: a hold ends at an object that is held. -/
theorem execCanDupHoldEnd_loaded (ho : SMap.find (s.can n c).objs j = some o) :
    execCanDupHoldEnd n c j s =
      .next (if o.held.isSome then s.updObj n c j (some { o with held := none, dups := 0 }) else s) := by
  simp only [execCanDupHoldEnd, ho]

/-- R309: one cancel at a time. -/
theorem State.txCancel_pending (hpending : s.get (FC_CAN_CANCEL_RESULT_RESULT n c) = 3) :
    s.txCancel n c j won = s.raise (FC_CAN_ERR_CFG_REJECT n c) := if_pos hpending

end Objects

/-! ### Attempts -/

section Attempts

variable {s : State} {n : Fin 6} {c : Fin 8} {newer : List (Fin 128)} {lec : Fin 7} {dTec dRec : Fin 9} {dup : Bool}
  {loop ago j : Nat}

/-- R308: the attempt that arbitration chooses has begun, and loses to another node's frame. -/
theorem execCanArbLost_attempt (hj : s.canAttempt n c newer = some j) :
    execCanArbLost n c newer s =
      .next (let t := ((s.attemptOver n c).canBegin n c j).inc (FC_CAN_CNT_ARB_LOST n c)
        match SMap.find (t.can n c).objs j with
        | some o => t.updObj n c j (some { o with dups := 0 })
        | none => t) := by
  simp only [execCanArbLost, hj] <;> rfl

/-- R126, R308: the attempt's frame is sent. -/
theorem execCanTxCommit_attempt (hj : s.canAttempt n c newer = some j) :
    execCanTxCommit n c newer loop ago s =
      .next (let w1 := s.get (canObj n c j 1)
        let t := (s.attemptOver n c).emit (.canFrame (8 * n + c) (s.get (canObj n c j 0)) (bitsOf w1 20 10) (s.objData n c j))
        let t := (t.frameLoop n c j loop).putTime n c j (t.timeAgo ago)
        (t.setErrors n c (t.get (FC_CAN_STATUS_TEC n c) - 1) (t.get (FC_CAN_STATUS_REC n c))).txSent n c j) := by
  simp only [execCanTxCommit, hj]

/-- R308-R310: the attempt ends in an error before the seventh bit of end-of-frame. -/
theorem execCanTxError_attempt (hj : s.canAttempt n c newer = some j) :
    execCanTxError n c newer lec dTec dRec dup ⟨false, loop⟩ s =
      .next (State.setErrors (((((if loop = 0 then s else s.frameLoop n c j loop).attemptOver n c).canBegin n c j).noteError
        n c lec).attemptFailed n c j dup) n c (s.get (FC_CAN_STATUS_TEC n c) + dTec) (s.get (FC_CAN_STATUS_REC n c) + dRec)) := by
  refine (next_ite_neg Bool.false_ne_true).trans ?_
  simp only [hj]

/-- R308: an error in the seventh bit of end-of-frame follows a frame that has been sent. -/
theorem execCanTxError_eof7 (hup : s.isUp (dFC n) = true) (hlast : (s.can n c).last.isSome = true) :
    execCanTxError n c newer lec dTec dRec dup ⟨true, loop⟩ s =
      .next ((s.noteError n c lec).eofError n c (s.get (FC_CAN_STATUS_TEC n c) + dTec)
        (s.get (FC_CAN_STATUS_REC n c) + dRec)) :=
  (next_ite_pos rfl).trans (next_ite_pos ⟨hup, hlast⟩)

end Attempts

/-- Settles O45: each command by the object that it names or the attempt that arbitration chooses. -/
theorem canSend : Obligations.CanSend := by
  refine ⟨?load, ?request, ?arbLost, ?sent, ?error, ?eof7, ?holdEnd, ?cancelPending, ?cancel⟩
  case load => exact fun s n c hup hon => next_ite_pos ⟨hup, hon⟩
  case request => exact fun s n c j o w ho hw hup hdue => (execCanObjectRequest_loaded ho hw).trans (next_ite_pos ⟨hup, hdue⟩)
  case arbLost => exact fun s n c newer j hj => execCanArbLost_attempt hj
  case sent => exact fun s n c newer loop ago j hj => execCanTxCommit_attempt hj
  case error => exact fun s n c newer lec dTec dRec dup loop j hj => execCanTxError_attempt hj
  case eof7 => exact fun s n c newer lec dTec dRec dup loop hup hlast => execCanTxError_eof7 hup hlast
  case holdEnd => exact fun s n c j o ho hheld => (execCanDupHoldEnd_loaded ho).trans (next_ite_pos hheld)
  case cancelPending =>
    exact fun s n c j won hup hpending => (next_ite_pos hup).trans (congrArg _ (State.txCancel_pending hpending))
  case cancel => exact fun s n c j won hup => next_ite_pos hup

end Sys2Proof.Machine
end

section
/-! PROOFS. The bus bridge (R126, R330-R337), and its statement. -/

namespace Sys2Proof.Machine

/-! ### What starts a transaction (R331, R332) -/

section Starts

variable {s : State} {src sq wsn : Nat} {w : Work} {fb : Fin 16} {bs : List Byte}

theorem execBridgeWrite_ready (hopen : s.bridgeOpen = true) (hw : s.readyWork src sq wsn 0x30 = some w) :
    execBridgeWrite src sq wsn s = .next (s.startBridge w) :=
  (next_ite_neg (not_not_intro hopen)).trans (by simp only [hw])

theorem execBridgeRead_ready (hopen : s.bridgeOpen = true) (hw : s.readyWork src sq wsn 0x31 = some w) :
    execBridgeRead src sq wsn s = .next (s.startBridge w) :=
  (next_ite_neg (not_not_intro hopen)).trans (by simp only [hw])

/-- R331: the head of an FB is its device's request while it is no response, and is served while the bridge starts transactions. -/
theorem execFbDeviceRequest_head (hhead : s.fbHead (2 + fb.val) = some bs) :
    execFbDeviceRequest fb s =
      .next (if isResponse bs ∨ ¬ s.bridgeOpen then s else (s.fbPop (2 + fb.val)).serveRequest (2 + fb.val) bs) := by
  simp only [execFbDeviceRequest, hhead]

theorem execFbResponse_head (hhead : s.fbHead (2 + fb.val) = some bs) :
    execFbResponse fb s = .next (if isResponse bs then (s.fbPop (2 + fb.val)).takeResponse (2 + fb.val) bs else s) := by
  simp only [execFbResponse, hhead]

end Starts

/-! ### Grants (R332, R335) -/

section Grants

variable {s : State} {bus : Fin 18} {x : BrgTx}

/-- A far bus goes to the oldest posted write that may have it. -/
theorem execBridgeBusGrant_posted (hup : s.isUp dSIG = true)
    (hpost : s.sig.txs.find? (fun t => t.posted && t.far == bus.val && s.inTurn t && !s.lockedOut bus.val none
      && !s.postWaits t) = some x) :
    execBridgeBusGrant bus s = .next (s.issuePosted x) :=
  (next_ite_neg (not_not_intro hup)).trans (by simp only [hpost])

/-- Without such a write it goes to the oldest non-posted transaction that it is free for. -/
theorem execBridgeBusGrant_nonPosted (hup : s.isUp dSIG = true)
    (hpost : s.sig.txs.find? (fun t => t.posted && t.far == bus.val && s.inTurn t && !s.lockedOut bus.val none
      && !s.postWaits t) = none)
    (hwait : s.sig.txs.find? (fun t => !t.posted && t.stage == .waitFar && t.far == bus.val && s.farFree t
      && s.inTurn t) = some x) :
    execBridgeBusGrant bus s = .next (s.issueTx x) :=
  (next_ite_neg (not_not_intro hup)).trans (by simp only [hpost, hwait])

end Grants

/-! ### What ends a transaction (R333, R335, R337) -/

section Ends

variable {s : State} {bus near : Fin 18} {id : Nat} {x : BrgTx} {error : Bool} {bytes : List Byte}

theorem execBridgePcieCompletion_open (hx : s.farTx 0 = some x) :
    execBridgePcieCompletion error bytes s =
      .next (if error then s.endTx x 0x0F [] else s.endTx x 0 (padTo x.len bytes)) := by
  simp only [execBridgePcieCompletion, hx]

/-- A timeout ends the non-posted transaction of its far bus, if it names that one. -/
theorem execBridgeFarTimeout_open (hx : s.farTx bus.val = some x) :
    execBridgeFarTimeout bus id s = .next (if x.id = id then s.endTx x 0x10 [] else s) := by
  simp only [execBridgeFarTimeout, hx]

/-- On RING without a non-posted transaction, a timeout fails the posted write that it names. -/
theorem execBridgeFarTimeout_posted {p : BrgPosted} (hfree : s.farTx 1 = none)
    (hp : s.sig.posted.find? (fun p => p.tx.far == 1 && p.tx.id == id) = some p) :
    execBridgeFarTimeout 1 id s = .next ((s.dropPosted p).failPosted p 0x10) := by
  have hfree' : s.farTx (1 : Fin 18).val = none := hfree
  have hring : ((1 : Fin 18).val == 1) = true := rfl
  simp only [execBridgeFarTimeout, hfree', hring, Bool.and_true, hp]

theorem execBridgeLockTimeout_held {l : BrgLock}
    (hl : s.sig.locks.find? (fun l => l.stage == .held && l.near == near.val) = some l) :
    execBridgeLockTimeout near s = .next (s.breakLock l) := by
  simp only [execBridgeLockTimeout, hl]

theorem execBridgeRetryTimer_waiting (hx : s.sig.txs.find? (fun t => t.id == id && t.stage == .retry) = some x) :
    execBridgeRetryTimer id s = .next (s.endRetry x) := by
  simp only [execBridgeRetryTimer, hx]

end Ends

/-- Settles O48: each command by the item, packet, transaction or lock that it acts on. -/
theorem bridge : Obligations.Bridge := by
  refine ⟨?write, ?read, ?request, ?response, ?grantPosted, ?grantNonPosted, ?completion, ?timeout, ?timeoutPosted, ?lock,
    ?retry⟩
  case write => exact fun s src sq wsn w hopen hw => execBridgeWrite_ready hopen hw
  case read => exact fun s src sq wsn w hopen hw => execBridgeRead_ready hopen hw
  case request =>
    intro s fb bs hhead hreq hopen
    have hserves : ¬ (isResponse bs = true ∨ ¬ s.bridgeOpen = true) := not_or_intro (by simp [hreq]) (not_not_intro hopen)
    exact (execFbDeviceRequest_head hhead).trans (next_ite_neg hserves)
  case response => exact fun s fb bs hhead hrsp => (execFbResponse_head hhead).trans (next_ite_pos hrsp)
  case grantPosted => exact fun s bus x hup hpost => execBridgeBusGrant_posted hup hpost
  case grantNonPosted => exact fun s bus x hup hpost hwait => execBridgeBusGrant_nonPosted hup hpost hwait
  case completion => exact fun s error bytes x hx => execBridgePcieCompletion_open hx
  case timeout => exact fun s bus id x hx hid => (execBridgeFarTimeout_open hx).trans (next_ite_pos hid)
  case timeoutPosted => exact fun s id p hfree hp => execBridgeFarTimeout_posted hfree hp
  case lock => exact fun s near l hl => execBridgeLockTimeout_held hl
  case retry => exact fun s id x hx => execBridgeRetryTimer_waiting hx

end Sys2Proof.Machine
end

section
/-! PROOFS. The bulk queues (R128, R338, R339), and their statement. -/

namespace Sys2Proof.Machine

open Sys2Proof.Machine.Reg

section Queues

variable {s : State} {src sq wsn q : Nat} {w : Work}

/-- R338: a queue that has lost nothing and has no room for an item's bytes takes none of them. -/
theorem State.bulkTake_full (hkept : s.flag (SIG_BULK_STATUS q) = false)
    (hroom : s.bulkSize q < s.get (SIG_BULK_FILL q) + w.data.length) : s.bulkTake w q = s.failWork w 0x20 0 0x07 :=
  (if_neg (by simp [hkept])).trans (if_pos hroom)

/-- Once retired gets have left, a put that is ready is taken. -/
theorem execBulkPut_ready (hw : s.settleBulk.bulkReady src sq wsn 0x40 = some (w, q)) :
    execBulkPut src sq wsn s = .next (s.settleBulk.bulkTake w q) := by
  simp only [execBulkPut, hw]

theorem execBulkGet_ready (hw : s.settleBulk.bulkReady src sq wsn 0x41 = some (w, q)) :
    execBulkGet src sq wsn s = .next (s.settleBulk.bulkGive w q) := by
  simp only [execBulkGet, hw]

theorem execBulkGet_notReady (hw : s.settleBulk.bulkReady src sq wsn 0x41 = none) :
    execBulkGet src sq wsn s = .next s.settleBulk := by
  simp only [execBulkGet, hw]

end Queues

/-- Settles O49: each command once retired gets have left, by whether its item is ready. -/
theorem bulkQueues : Obligations.BulkQueues := by
  refine ⟨?put, ?full, ?get, ?notReady⟩
  case put => exact fun s src sq wsn w q hw => execBulkPut_ready hw
  case full =>
    exact fun s src sq wsn w q hw hkept hroom => (execBulkPut_ready hw).trans (congrArg _ (State.bulkTake_full hkept hroom))
  case get => exact fun s src sq wsn w q hw => execBulkGet_ready hw
  case notReady => exact fun s src sq wsn hw => execBulkGet_notReady hw

end Sys2Proof.Machine
end

section
/-! PROOFS. What a ring port receives (R143-R145, R154, R155), how ports train, carry credits and are lost (R140-R142, R156, R157,
R175), and their statements. -/

namespace Sys2Proof.Machine

open Sys2Proof.Machine.Reg

/-! ### K-frames (R143-R145, R154, R155) -/

/-- Settles O25: a port that is not UP ends the command; at one that is UP, the outcome of `frameTest` names the branch. -/
theorem ringFrames : Obligations.RingFrames := by
  refine ⟨?notUp, ?badFcs, ?badFrame, ?discarded, ?passed⟩
  case notUp => exact fun s port bytes hdown => next_ite_pos hdown
  case badFcs => exact fun s port bytes hup htest => (next_ite_neg (not_not_intro hup)).trans (next_ite_pos htest)
  case badFrame =>
    intro s port bytes hup htest
    have hfcs : frameTest bytes (parseHeader bytes) ≠ 1 := htest.trans_ne (by decide)
    exact (next_ite_neg (not_not_intro hup)).trans ((next_ite_neg hfcs).trans (next_ite_pos htest))
  case discarded =>
    intro s port bytes hup htest
    have hfcs : frameTest bytes (parseHeader bytes) ≠ 1 := htest.trans_ne (by decide)
    have hbad : frameTest bytes (parseHeader bytes) ≠ 2 := htest.trans_ne (by decide)
    exact (next_ite_neg (not_not_intro hup)).trans
      ((next_ite_neg hfcs).trans ((next_ite_neg hbad).trans (next_ite_pos htest)))
  case passed =>
    intro s port bytes hup htest
    have hfcs : frameTest bytes (parseHeader bytes) ≠ 1 := htest.trans_ne (by decide)
    have hbad : frameTest bytes (parseHeader bytes) ≠ 2 := htest.trans_ne (by decide)
    have hdiscard : frameTest bytes (parseHeader bytes) ≠ 3 := htest.trans_ne (by decide)
    exact (next_ite_neg (not_not_intro hup)).trans
      ((next_ite_neg hfcs).trans ((next_ite_neg hbad).trans (next_ite_neg hdiscard)))

/-! ### The loss of a port (R156, R157, R175) -/

section Losses

variable {s : State} {p cause lanes : Nat}

theorem State.portLoss_of_not_up (hdown : s.portState p ≠ 2) : s.portLoss p cause lanes = s := if_pos hdown

/-- R175: a loss that a received REMOTE_FAULT causes shows at that bit, and at no lane. -/
theorem State.loseLanes_remoteFault : s.loseLanes p 3 lanes = s.put (RING_PORT_STATUS_RF_RX p) 1 := if_pos rfl

/-- R157: a loss that REMOTE_FAULT causes is not answered with REMOTE_FAULT. -/
theorem State.portLoss_remoteFault (hup : s.portState p = 2) :
    s.portLoss p 3 lanes =
      (let t := (((s.setPort p 3).inc (RING_PORT_CNT_DOWN p)).put (RING_PORT_STATUS_RF_RX p) 1).record (40 + p)
       if p = 2 then t.twinLinkLost else t.wrapPort p) := by
  simp only [State.portLoss, hup, State.loseLanes_remoteFault, ne_eq, not_true_eq_false, if_false, if_true]

/-- R157: a loss of another cause is answered with REMOTE_FAULT. -/
theorem State.portLoss_answered (hup : s.portState p = 2) (hcause : cause ≠ 3) :
    s.portLoss p cause lanes =
      (let t := (((s.setPort p 3).inc (RING_PORT_CNT_DOWN p)).loseLanes p cause lanes).record (40 + p)
       let u := State.emit { t with ring := { t.ring with remoteFault := setBit t.ring.remoteFault p } }
         (.orderedSet p .remoteFault)
       if p = 2 then u.twinLinkLost else u.wrapPort p) := by
  simp only [State.portLoss, hup, hcause, ne_eq, not_true_eq_false, if_false]

end Losses

/-! ### Ports (R140-R142, R156, R157, R175) -/

/-- Settles O31: each command under the guard that its clause states, a loss by its cause. -/
theorem ringPorts : Obligations.RingPorts := by
  refine ⟨?detect, ?detectTraining, ?trained, ?remoteFault, ?lost, ?notUp, ?credit, ?noCells, ?returned, ?withheld⟩
  case detect => exact fun s port hdown hdomain => next_ite_pos ⟨hdown, hdomain⟩
  case detectTraining =>
    intro s port htraining
    have hdown : ¬ (s.portState port = 0 ∧ s.isUp (dRGE + port) = true) := fun h => by simp [htraining] at h
    exact (next_ite_neg hdown).trans (next_ite_pos htraining)
  case trained => exact fun s port htraining => next_ite_pos htraining
  case remoteFault => exact fun s port lanes hup => congrArg _ (State.portLoss_remoteFault hup)
  case lost =>
    intro s port cause lanes hup hcause
    exact congrArg _ (State.portLoss_answered hup fun h => hcause (Fin.ext h))
  case notUp => exact fun s port cause lanes hdown => congrArg _ (State.portLoss_of_not_up hdown)
  case credit => exact fun s port cls cells hcells => next_ite_neg hcells
  case noCells => exact fun s port cls => next_ite_pos rfl
  case returned => exact fun s port hfree => next_ite_neg (by simp [hfree])
  case withheld => exact fun s port hheld => next_ite_pos hheld

end Sys2Proof.Machine
end

section
/-! PROOFS. The Polder and the start and end of egress (R178, R182-R187, R191, R197, R198, R201), and their statement. -/

namespace Sys2Proof.Machine

open Sys2Proof.Machine.Reg

/-! ### What an input slice receives (R182-R189) -/

section Frames

variable {s : State} {n k len : Nat} {outs : List Nat} {tagged ok : Bool} {bytes : List Byte}

theorem State.frameIn_shut (hshut : s.sliceShut n outs = true) :
    s.frameIn n outs k tagged ok bytes =
      if 13 ≤ n ∧ n ≤ 28 ∧ s.isThreat dPLD = true then s.inc (NET_PORT_CNT_DROP (n - 13)) else s := if_pos hshut

theorem State.frameIn_noRoom (hopen : s.sliceShut n outs = false) (hlen : min bytes.length 9216 = len)
    (hfull : s.inputBarred n (cellsOf len - s.reservedFor n k len) outs = true ∨
      s.shrFree < cellsOf len - s.reservedFor n k len) :
    s.frameIn n outs k tagged ok bytes =
      if 13 ≤ n ∧ n ≤ 28 then (s.spill n PLD_CNT_NOROOM).inc (NET_PORT_CNT_DROP (n - 13)) else s.holdInput n outs := by
  subst hlen
  exact (if_neg (Bool.eq_false_iff.mp hopen)).trans (if_pos hfull)

/-- R182-R184: a frame that has room is written into its cells, and its length and its check decide where it goes. -/
theorem State.frameIn_room (hopen : s.sliceShut n outs = false) (hlen : min bytes.length 9216 = len)
    (hfree : s.inputBarred n (cellsOf len - s.reservedFor n k len) outs = false)
    (hroom : cellsOf len - s.reservedFor n k len ≤ s.shrFree) :
    s.frameIn n outs k tagged ok bytes =
      if 9216 < bytes.length then (s.fillCells (bytes.take 9216)).1.spill n PLD_CNT_OVERSIZE
      else if ¬ checkFrame n ok bytes then (s.fillCells bytes).1.spill n PLD_CNT_CRC
      else s.linkFrame n outs k tagged bytes (s.reservedFor n k len) none := by
  subst hlen
  exact (if_neg (Bool.eq_false_iff.mp hopen)).trans
    (if_neg (not_or_intro (Bool.eq_false_iff.mp hfree) hroom.not_gt))

end Frames

/-! ### The commands of the Polder and of egress -/

section Commands

variable {s t : State} {inp out : Fin 32} {dsts : List SwitchDst} {outs : List Nat} {cls : Fin 8} {tagged ok : Bool}
  {bytes : List Byte} {num n k band : Nat} {f : PFrame} {o : VisOutput}

/-- R182, R185: a frame for one to four outputs is what its input slice makes of it, and its VOQs take it at once. -/
theorem execPldFrameLink_up (hup : s.isUp dPLD = true) (hbytes : bytes ≠ [])
    (houts : (dsts.filterMap s.switchOut).eraseDups = outs) (hcount : outs ≠ [] ∧ outs.length ≤ 4)
    (hin : s.frameIn inp outs cls tagged ok bytes = t) :
    execPldFrameLink inp dsts cls tagged ok bytes s = .next (t.each outs State.newHeads) := by
  subst houts hin
  obtain ⟨hsome, hfour⟩ := hcount
  exact next_ite_neg (by simp [hup, hbytes, hsome, hfour])

/-- R198: an idle output starts what `pick` gives. -/
theorem execSchFrameStart_idle (hup : s.isUp dPLD = true) (hidle : (((s.refreshOut out).newHeads out).outSt out).busy = none)
    (hpick : ((s.refreshOut out).newHeads out).pick out = some (n, k, f, band)) :
    execSchFrameStart out s = .next (((s.refreshOut out).newHeads out).startFrame out n k f band) :=
  (next_ite_neg (not_not_intro hup)).trans ((next_ite_neg (by simp [hidle])).trans (by simp only [hpick]))

theorem execSchFrameStart_busy (hup : s.isUp dPLD = true)
    (hbusy : (((s.refreshOut out).newHeads out).outSt out).busy.isSome = true) :
    execSchFrameStart out s = .next ((s.refreshOut out).newHeads out) :=
  (next_ite_neg (not_not_intro hup)).trans (next_ite_pos hbusy)

theorem execSchFrameStart_noPick (hup : s.isUp dPLD = true) (hpick : ((s.refreshOut out).newHeads out).pick out = none) :
    execSchFrameStart out s = .next ((s.refreshOut out).newHeads out) :=
  (next_ite_neg (not_not_intro hup)).trans (by simp only [hpick, ite_self])

theorem execFrameEgressEnd_plain (hup : s.isUp dPLD = true) (hbusy : (s.outSt out).busy = some num)
    (hvis : (s.pld.frames.find? (fun f => f.num == num)).bind (fun f => f.vis) = none) :
    execFrameEgressEnd out s = .next (s.endEgress out num) := by
  simp only [execFrameEgressEnd, hup, if_true, hbusy, hvis]

theorem execFrameEgressEnd_vision (hup : s.isUp dPLD = true) (hbusy : (s.outSt out).busy = some num)
    (hvis : (s.pld.frames.find? (fun f => f.num == num)).bind (fun f => f.vis) = some o) :
    execFrameEgressEnd out s = .next ((s.endEgress out num).pieceOut out o) := by
  simp only [execFrameEgressEnd, hup, if_true, hbusy, hvis]

theorem execFrameEgressEnd_idle (hidle : (s.outSt out).busy = none) : execFrameEgressEnd out s = .next s := by
  simp only [execFrameEgressEnd, hidle, ite_self]

end Commands

/-- Settles O33: a received frame by what `frameIn` makes of it, egress by what its output sends, a flush by its guards. -/
theorem polder : Obligations.Polder := by
  refine ⟨?linked, ?oversize, ?badCheck, ?noRoom, ?shut, ?start, ?noStart, ?sent, ?visionSent, ?nothingSent, ?promoted, ?flush,
    ?flushRefused, ?flushEnds, ?flushGoesOn⟩
  case linked =>
    intro s inp dsts outs cls tagged ok bytes hup hbytes houts hcount hopen hfree hroom hsize hcheck
    exact execPldFrameLink_up hup hbytes houts hcount ((State.frameIn_room hopen (min_eq_left hsize) hfree hroom).trans
      ((if_neg hsize.not_gt).trans (if_neg (not_not_intro hcheck))))
  case oversize =>
    intro s inp dsts outs cls tagged ok bytes hup hbytes houts hcount hopen hfree hroom hsize
    exact execPldFrameLink_up hup hbytes houts hcount ((State.frameIn_room hopen (min_eq_right hsize.le) hfree hroom).trans
      (if_pos hsize))
  case badCheck =>
    intro s inp dsts outs cls tagged ok bytes hup hbytes houts hcount hopen hfree hroom hsize hcheck
    exact execPldFrameLink_up hup hbytes houts hcount ((State.frameIn_room hopen (min_eq_left hsize) hfree hroom).trans
      ((if_neg hsize.not_gt).trans (if_pos (Bool.eq_false_iff.mp hcheck))))
  case noRoom =>
    intro s inp dsts outs cls tagged ok bytes hup hbytes houts hcount hopen hfull
    exact execPldFrameLink_up hup hbytes houts hcount (State.frameIn_noRoom hopen rfl hfull)
  case shut =>
    intro s inp dsts outs cls tagged ok bytes hup hbytes houts hcount hshut
    exact execPldFrameLink_up hup hbytes houts hcount (State.frameIn_shut hshut)
  case start => exact fun s out n k f band hup hidle hpick => execSchFrameStart_idle hup hidle hpick
  case noStart =>
    exact fun s out hup hnone => hnone.elim (execSchFrameStart_busy hup) (execSchFrameStart_noPick hup)
  case sent => exact fun s out num hup hbusy hvis => execFrameEgressEnd_plain hup hbusy hvis
  case visionSent => exact fun s out num o hup hbusy hvis => execFrameEgressEnd_vision hup hbusy hvis
  case nothingSent => exact fun s out hidle => execFrameEgressEnd_idle hidle
  case promoted => exact fun s out inp cls hen hhead hnew => next_ite_pos ⟨hen, hhead, Bool.eq_false_iff.mp hnew⟩
  case flush =>
    intro s val hup hidle hmask
    exact (next_ite_neg (not_not_intro hup)).trans (next_ite_neg (not_or_intro (Bool.eq_false_iff.mp hidle) hmask))
  case flushRefused => exact fun s val hup hrefused => (next_ite_neg (not_not_intro hup)).trans (next_ite_pos hrefused)
  case flushEnds => exact fun s hup hempty hpassed => next_ite_pos ⟨hup, hempty, Bool.eq_false_iff.mp hpassed⟩
  case flushGoesOn =>
    intro s hwaits
    exact next_ite_neg fun ⟨_, hempty, hpassed⟩ => hwaits.elim (· hempty) hpassed

end Sys2Proof.Machine
end

section
/-! PROOFS. Time (R217-R228, R465): which branch of each command is taken, and the statement about lock and exchanges. -/

namespace Sys2Proof.Machine

open Sys2Proof.Machine.Reg

/-! ### Lock (R220, R221) -/

section Lock

variable {s : State} {d : Int}

theorem State.enterLocked_noStep (hstep : s.time.stepNext = none) :
    s.enterLocked = ((s.setLock 2).put TIME_STATUS_EVER_LOCKED 1).put TIME_STATUS_LOCKED_SINCE_RESET 1 := by
  simp only [State.enterLocked, hstep]

/-- R221: a step that waits for the tick is refused. -/
theorem State.enterLocked_step (hstep : s.time.stepNext = some d) :
    s.enterLocked =
      (let t := State.raise { s with time := { s.time with stepNext := none } } TIME_ERR_STEP_REJECT
       ((t.setLock 2).put TIME_STATUS_EVER_LOCKED 1).put TIME_STATUS_LOCKED_SINCE_RESET 1) := by
  simp only [State.enterLocked, hstep]

theorem execLockNow_root (hroot : s.flag RING_NODE_ROOT = true) (hsrc : s.get TIME_CFG_SRC = 0)
    (hlock : s.get TIME_STATUS_LOCK ≠ 2) : execLockNow s = .next s.enterLocked :=
  next_ite_pos ⟨hroot, hsrc, hlock⟩

theorem execTimeLockAchieved_acquired (hlock : s.get TIME_STATUS_LOCK = 1)
    (herr : (sext 32 (s.get TIME_ERR_EST)).natAbs ≤ 512) : execTimeLockAchieved s = .next s.enterLocked :=
  next_ite_pos ⟨hlock, herr⟩

theorem State.hasUpstream_iff : s.hasUpstream = true ↔ s.get TIME_CFG_SRC ≠ 0 := bne_iff_ne

end Lock

/-! ### Exchanges (R224-R226) -/

section Exchanges

variable {s : State} {port : Fin 3}

/-- R225: a REPLY to the open SYNC. -/
theorem execTimeReplyOs_open {seq : BitVec 8} {t1 : Nat} (hsent : SMap.find s.time.sent port = some (seq.toNat, t1))
    (hup : s.portState port = 2) :
    execTimeReplyOs port seq s =
      .next (State.emit { s with time := { s.time with sent := SMap.erase s.time.sent port } }
        (ownFrame s.nodeId port false 0 0 (.timeSync (s.followUp seq.toNat t1 (s.stampRx port s.count))))) := by
  simp only [execTimeReplyOs, hsent, hup, and_self, if_true]

/-- R225, R226: a FOLLOW_UP at a port where a SYNC has been received. -/
theorem execTimeSyncFrame_received {bytes : List Byte} {q t2 t3 c2 : Nat}
    (hgot : SMap.find s.time.got port = some (q, t2, t3, c2)) :
    execTimeSyncFrame port bytes s = .next (if s.followsSync bytes q c2 then s.takeExchange port bytes t2 t3 else s) := by
  simp only [execTimeSyncFrame, hgot]

end Exchanges

/-- Settles O35: each command under the guard that its clause states, the lock by whether a step waits. -/
theorem timeLock : Obligations.TimeLock := by
  refine ⟨?rate, ?rateRefused, ?stepRefused, ?step, ?lockNow, ?lockNowStep, ?locked, ?lockedStep, ?holdover, ?heard, ?sync,
    ?reply, ?followUp, ?exchange, ?noExchange, ?servo⟩
  case rate => exact fun s val hok => next_ite_pos hok
  case rateRefused => exact fun s val hbad => next_ite_neg (Bool.eq_false_iff.mp hbad)
  case stepRefused => exact fun s req val hlocked => next_ite_pos hlocked
  case step => exact fun s req val hlocked => next_ite_neg (Bool.eq_false_iff.mp hlocked)
  case lockNow =>
    exact fun s hroot hsrc hlock hstep =>
      (execLockNow_root hroot hsrc hlock).trans (congrArg _ (State.enterLocked_noStep hstep))
  case lockNowStep =>
    exact fun s d hroot hsrc hlock hstep =>
      (execLockNow_root hroot hsrc hlock).trans (congrArg _ (State.enterLocked_step hstep))
  case locked =>
    exact fun s hlock herr hstep =>
      (execTimeLockAchieved_acquired hlock herr).trans (congrArg _ (State.enterLocked_noStep hstep))
  case lockedStep =>
    exact fun s d hlock herr hstep =>
      (execTimeLockAchieved_acquired hlock herr).trans (congrArg _ (State.enterLocked_step hstep))
  case holdover =>
    exact fun s hsrc hsilent hlock => next_ite_pos ⟨State.hasUpstream_iff.mpr hsrc, hsilent, hlock⟩
  case heard =>
    intro s hheard
    refine next_ite_neg fun ⟨hsrc, hsilent, _⟩ => ?_
    exact hheard.elim (State.hasUpstream_iff.mp hsrc) (Bool.eq_false_iff.mp · hsilent)
  case sync => exact fun s port wait hup => next_ite_pos hup
  case reply => exact fun s port seq wait hup => next_ite_pos hup
  case followUp => exact fun s port seq t1 hsent hup => execTimeReplyOs_open hsent hup
  case exchange => exact fun s port bytes q t2 t3 c2 hgot hok => (execTimeSyncFrame_received hgot).trans (next_ite_pos hok)
  case noExchange =>
    exact fun s port bytes q t2 t3 c2 hgot hbad =>
      (execTimeSyncFrame_received hgot).trans (next_ite_neg (Bool.eq_false_iff.mp hbad))
  case servo =>
    intro s source hnum hfrozen hservo hlock
    refine next_ite_neg fun h => ?_
    rcases h with h | h | h | h
    · exact hnum h
    · exact Bool.eq_false_iff.mp hfrozen h
    · exact h hservo
    · exact hlock h

end Sys2Proof.Machine
end

section
/-! PROOFS. FSYNC generators and the pulse pins (R228, R230-R234), and their statement. -/

namespace Sys2Proof.Machine

open Sys2Proof.Machine.Reg

section Generators

variable {s : State} {n v : Nat}

/-- R234: `ONCE` and `POL` of a running generator do not change. -/
theorem State.writeFsync_changed (hruns : s.flag (TIME_FSYNC_CTRL_EN n) = true)
    (hother : b2n (v.testBit 1) ≠ s.get (TIME_FSYNC_CTRL_ONCE n) ∨ v / 4 % 2 ≠ s.get (TIME_FSYNC_CTRL_POL n)) :
    s.writeFsync n v = s.raise TIME_ERR_CFG_REJECT := (if_pos hruns).trans (if_pos hother)

/-- R230, R231: the edges that are due come before the stop. -/
theorem State.writeFsync_stop (hruns : s.flag (TIME_FSYNC_CTRL_EN n) = true)
    (honce : b2n (v.testBit 1) = s.get (TIME_FSYNC_CTRL_ONCE n)) (hpol : v / 4 % 2 = s.get (TIME_FSYNC_CTRL_POL n))
    (hen : v.testBit 0 = false) :
    s.writeFsync n v = (s.each (List.range (s.fsyncDue n)) (fun s _ => s.fsyncFire n)).put (TIME_FSYNC_CTRL_EN n) 0 :=
  (if_pos hruns).trans ((if_neg (not_or_intro (not_not_intro honce) (not_not_intro hpol))).trans
    (if_neg (Bool.eq_false_iff.mp hen)))

/-- A generator that stands is not enabled with `PERIOD`, `WIDTH` or `START` out of range. -/
theorem State.writeFsync_outOfRange (hstands : s.flag (TIME_FSYNC_CTRL_EN n) = false) (hen : v.testBit 0 = true)
    (hrange : s.get (TIME_FSYNC_PERIOD n) < 1000 ∨ s.get (TIME_FSYNC_WIDTH n) < 1 ∨
      s.get (TIME_FSYNC_PERIOD n) ≤ s.get (TIME_FSYNC_WIDTH n) ∨
      (v.testBit 1 = true ∧ s.fsyncStart n < s.ringTime + 10000)) :
    s.writeFsync n v = s.raise TIME_ERR_CFG_REJECT :=
  (if_neg (Bool.eq_false_iff.mp hstands)).trans (if_pos ⟨hen, hrange⟩)

theorem State.writeFsync_enable (hstands : s.flag (TIME_FSYNC_CTRL_EN n) = false) (hen : v.testBit 0 = true)
    (hperiod : 1000 ≤ s.get (TIME_FSYNC_PERIOD n))
    (hwidth : 1 ≤ s.get (TIME_FSYNC_WIDTH n) ∧ s.get (TIME_FSYNC_WIDTH n) < s.get (TIME_FSYNC_PERIOD n))
    (hstart : v.testBit 1 = false ∨ s.ringTime + 10000 ≤ s.fsyncStart n) :
    s.writeFsync n v =
      (let t := ((s.put (TIME_FSYNC_CTRL_POL n) (v / 4)).put (TIME_FSYNC_CTRL_ONCE n) (v / 2)).put (TIME_FSYNC_CTRL_EN n) v
       t.setFsync n { t.fsync n with k := t.fsyncFrom n (t.ringTime + 10000) }) := by
  obtain ⟨hpulse, hgap⟩ := hwidth
  refine (if_neg (Bool.eq_false_iff.mp hstands)).trans ((if_neg ?_).trans (if_pos hen))
  rintro ⟨_, hp | hw | hpw | ⟨honce, hearly⟩⟩
  · exact hperiod.not_gt hp
  · exact hpulse.not_gt hw
  · exact hgap.not_ge hpw
  · exact hstart.elim (Bool.eq_false_iff.mp · honce) (·.not_gt hearly)

/-- R231: a due edge is held. -/
theorem State.fsyncFire_held (hdue : s.fsyncDue n ≠ 0) (hhold : s.fsyncHold = true) :
    s.fsyncFire n = (s.setFsync n { s.fsync n with held := true }).inc (TIME_FSYNC_CNT_LATE n) :=
  (if_neg hdue).trans (if_pos hhold)

/-- R230: a due edge is driven. -/
theorem State.fsyncFire_driven (hdue : s.fsyncDue n ≠ 0) (hfree : s.fsyncHold = false) : s.fsyncFire n = s.fsyncDrive n :=
  (if_neg hdue).trans (if_neg (Bool.eq_false_iff.mp hfree))

/-- R232: `PPS_OUT` rises where it is enabled and low. -/
theorem State.ppsRise_low (hen : s.flag TIME_CFG_PPS_OUT_EN = true) (hlow : s.time.ppsHigh = false) :
    s.ppsRise = State.emit { s with time := { s.time with ppsHigh := true } } (.pin 2 0 1) :=
  if_pos ⟨hen, Bool.eq_false_iff.mp hlow⟩

end Generators

/-- Settles O36: a write by `writeFsync`'s cases, an edge by `fsyncFire`'s, each pin under its guard. -/
theorem fsync : Obligations.Fsync := by
  refine ⟨?enable, ?badPulse, ?badStart, ?changed, ?stop, ?held, ?driven, ?released, ?pulseEnd, ?ppsRise, ?ppsFall, ?ppsIn⟩
  case enable =>
    exact fun s n val hstands hen hperiod hwidth hstart =>
      congrArg _ (State.writeFsync_enable hstands hen hperiod hwidth hstart)
  case badPulse =>
    exact fun s n val hstands hen hpulse =>
      congrArg _ (State.writeFsync_outOfRange hstands hen (hpulse.imp_right (Or.imp_right .inl)))
  case badStart =>
    exact fun s n val hstands hen honce hearly =>
      congrArg _ (State.writeFsync_outOfRange hstands hen (.inr (.inr (.inr ⟨honce, hearly⟩))))
  case changed => exact fun s n val hruns hother => congrArg _ (State.writeFsync_changed hruns hother)
  case stop => exact fun s n val hruns honce hpol hen => congrArg _ (State.writeFsync_stop hruns honce hpol hen)
  case held => exact fun s n hdue hhold => congrArg _ (State.fsyncFire_held hdue hhold)
  case driven => exact fun s n hdue hfree => congrArg _ (State.fsyncFire_driven hdue hfree)
  case released => exact fun s n hheld hidle => next_ite_pos ⟨hheld, Bool.eq_false_iff.mp hidle⟩
  case pulseEnd => exact fun s n hhigh => next_ite_pos hhigh
  case ppsRise =>
    exact fun s hsecond hen hlow =>
      (next_ite_pos rfl).trans ((next_ite_pos hsecond).trans (congrArg _ (State.ppsRise_low hen hlow)))
  case ppsFall => exact fun s hhigh => (next_ite_neg Bool.false_ne_true).trans (next_ite_pos hhigh)
  case ppsIn => exact fun s hen => next_ite_pos hen

end Sys2Proof.Machine
end

section
/-! PROOFS. The idle tick (R216): when the time counter advances by one, and a state in which it does not. -/

namespace Sys2Proof.Machine

open Sys2Proof.Machine.Reg

/-! ### A tick that counts -/

/-- From `s` to `t` nothing is lost that a tick works off, and every register from the masks of the shared sources up to
`TWIN_CKPT_AGE` is as it was. Only lower registers hold pending bits of shared sources and of MSI-X vectors. -/
structure TickKeeps (s t : State) : Prop where
  mem : t.mem = s.mem
  owedFail : t.dlv.owedFail = s.dlv.owedFail
  acks : t.dlv.acks = s.dlv.acks
  orphans : t.twin.orphans = s.twin.orphans
  items : t.hq.items = s.hq.items
  get : ∀ f : Field, (INT_SH_MASK_SET 0).key ≤ f.key → f.key < TWIN_CKPT_AGE.key → t.get f = s.get f

/-- Every shared source routes to one of the 256 vectors of the MSI-X table, as the width of `VECTOR` has it. -/
def State.VectorsInTable (s : State) : Prop := ∀ n, n ≤ 688 → s.get (INT_SH_ROUTE_VECTOR n) < 256

theorem vectorsInTable_reset : State.reset.VectorsInTable := fun _ _ => (resetValues.1 _).trans_lt (show 0 < 256 by decide)

section Tick

variable {s t u : State}

theorem TickKeeps.refl (s : State) : TickKeeps s s := ⟨rfl, rfl, rfl, rfl, rfl, fun _ _ _ => rfl⟩

theorem TickKeeps.trans (hst : TickKeeps s t) (htu : TickKeeps t u) : TickKeeps s u :=
  ⟨htu.mem.trans hst.mem, htu.owedFail.trans hst.owedFail, htu.acks.trans hst.acks, htu.orphans.trans hst.orphans,
    htu.items.trans hst.items, fun f hlo hhi => (htu.get f hlo hhi).trans (hst.get f hlo hhi)⟩

theorem TickKeeps.count (h : TickKeeps s t) : t.count = s.count := by
  rw [State.count, State.count, State.get64, State.get64, h.get _ (by decide) (by decide), h.get _ (by decide) (by decide)]

theorem TickKeeps.vectorsInTable (h : TickKeeps s t) (hvec : s.VectorsInTable) : t.VectorsInTable := by
  intro n hn
  rw [h.get _ (by simp only [INT_SH_MASK_SET, INT_SH_ROUTE_VECTOR, Field.key]; omega)
    (by simp only [TWIN_CKPT_AGE, INT_SH_ROUTE_VECTOR, Field.key]; omega)]
  exact hvec n hn

/-- A field below the masks of the shared sources set. -/
theorem tickKeeps_orBits {f : Field} {m : Nat} (hf : f.key < (INT_SH_MASK_SET 0).key) : TickKeeps s (s.orBits f m) :=
  ⟨rfl, rfl, rfl, rfl, rfl, fun _ hlo _ => State.get_orBits_other _ _ _ _ (hf.trans_le hlo).ne'⟩

/-- R109: a vector of the table is sent, or waits. -/
theorem tickKeeps_msix {v : Nat} (hv : v < 256) : TickKeeps s (s.msix v) := by
  have hkey : (MSIX_PBA (v / 32)).key < (INT_SH_MASK_SET 0).key := by
    simp only [MSIX_PBA, INT_SH_MASK_SET, Field.key]; omega
  unfold State.msix
  split
  · exact tickKeeps_orBits hkey
  · split <;> exact ⟨rfl, rfl, rfl, rfl, rfl, fun _ _ _ => rfl⟩

theorem tickKeeps_pendShared {n : Nat} (hn : n ≤ 688) (hvec : s.VectorsInTable) : TickKeeps s (s.pendShared n) := by
  have hkey : (INT_SH_PEND_SET (n / 32)).key < (INT_SH_MASK_SET 0).key := by
    simp only [INT_SH_PEND_SET, INT_SH_MASK_SET, Field.key]; omega
  have hpend : TickKeeps s (s.orBits (INT_SH_PEND_SET (n / 32)) (1 <<< (n % 32))) := tickKeeps_orBits hkey
  simp only [State.pendShared]
  split
  · exact .refl s
  · split
    · exact hpend.trans (tickKeeps_msix (hpend.vectorsInTable hvec n hn))
    · exact hpend

theorem tickKeeps_foldl_pendShared {l : List Nat} (hl : ∀ n ∈ l, n ≤ 688) (hvec : s.VectorsInTable) :
    TickKeeps s (l.foldl State.pendShared s) := by
  induction l generalizing s with
  | nil => exact .refl s
  | cons n l ih =>
    have hn := tickKeeps_pendShared (hl n List.mem_cons_self) hvec
    exact hn.trans (ih (fun m hm => hl m (List.mem_cons_of_mem n hm)) (hn.vectorsInTable hvec))

theorem tickKeeps_latchLevels (hvec : s.VectorsInTable) : TickKeeps s s.latchLevels := by
  unfold State.latchLevels
  split
  · refine tickKeeps_foldl_pendShared (fun n hn => ?_) hvec
    obtain ⟨i, hi, rfl⟩ := List.mem_map.mp (List.mem_of_mem_filter hn)
    have := List.mem_range.mp hi
    omega
  · exact .refl s

theorem tickKeeps_ageTick : TickKeeps s s.ageTick := by
  unfold State.ageTick
  split
  · exact .refl s
  · exact ⟨rfl, rfl, rfl, rfl, rfl, fun _ _ hhi => State.get_incSat_other _ _ _ hhi.ne⟩

theorem State.retime_idle (hrate : s.time.rateNext = none) (hstep : s.time.stepNext = none) : s.retime = s := by
  have htake : s.takeRate = s := by simp only [State.takeRate, hrate]
  simp [State.retime, htake, State.takeStep, hstep]

theorem State.payFails_idle (howed : s.dlv.owedFail = []) (horphans : s.twin.orphans = []) : s.payFails = s := by
  simp only [State.payFails, howed, horphans, List.foldl_nil]
  rw [← howed, ← horphans]

theorem State.flushAcks_idle (hacks : s.dlv.acks = []) : s.flushAcks = s := by
  simp only [State.flushAcks, hacks, List.map_nil, State.each, List.foldl_nil]

theorem State.hifPump_idle (hitems : s.hq.items.all (fun i => i.stage != .waiting) = true) : s.hifPump = s := by
  have hnone : s.hq.items.filter (fun i => i.stage == .waiting) = [] := by
    simpa [List.filter_eq_nil_iff] using hitems
  rw [State.hifPump, hnone, List.foldl_nil]

theorem State.count_put64 (v : Nat) : (s.put64 TIME_COUNT_LO TIME_COUNT_HI v).count = v % 2 ^ 64 := by
  have hlo : (s.put64 TIME_COUNT_LO TIME_COUNT_HI v).get TIME_COUNT_LO = v % 2 ^ 32 :=
    (State.put_get_other _ _ _ _ (by decide)).trans (State.put_get _ _ _)
  have hhi : (s.put64 TIME_COUNT_LO TIME_COUNT_HI v).get TIME_COUNT_HI = v / 2 ^ 32 % 2 ^ 32 := State.put_get _ _ _
  rw [State.count, State.get64, hlo, hhi]
  omega

/-- The count is no route of a shared source. -/
theorem State.vectorsInTable_put64 {v : Nat} (hvec : s.VectorsInTable) :
    (s.put64 TIME_COUNT_LO TIME_COUNT_HI v).VectorsInTable := by
  intro n hn
  have hlo : (INT_SH_ROUTE_VECTOR n).key ≠ TIME_COUNT_LO.key := by
    simp only [INT_SH_ROUTE_VECTOR, TIME_COUNT_LO, Field.key]; omega
  have hhi : (INT_SH_ROUTE_VECTOR n).key ≠ TIME_COUNT_HI.key := by
    simp only [INT_SH_ROUTE_VECTOR, TIME_COUNT_HI, Field.key]; omega
  rw [State.put64, State.put_get_other _ _ _ _ hhi, State.put_get_other _ _ _ _ hlo]
  exact hvec n hn

/-- What follows the counter at a tick with nothing left to do: the age of the checkpoint and the level sources. -/
theorem State.tickKeeps_afterCount (hrate : s.time.rateNext = none) (hstep : s.time.stepNext = none)
    (howed : s.dlv.owedFail = []) (horphans : s.twin.orphans = []) (hacks : s.dlv.acks = [])
    (hitems : s.hq.items.all (fun i => i.stage != .waiting) = true) (hvec : s.VectorsInTable) :
    TickKeeps s (s.retime.ageTick.latchLevels.payFails).flushAcks.hifPump := by
  have hkeeps : TickKeeps s s.ageTick.latchLevels :=
    tickKeeps_ageTick.trans (tickKeeps_latchLevels (tickKeeps_ageTick.vectorsInTable hvec))
  rw [State.retime_idle hrate hstep, State.payFails_idle (hkeeps.owedFail.trans howed) (hkeeps.orphans.trans horphans),
    State.flushAcks_idle (hkeeps.acks.trans hacks), State.hifPump_idle (by rw [hkeeps.items]; exact hitems)]
  exact hkeeps

/-- R216: with every vector in the table, an idle tick with nothing left to do counts by one and leaves LPDDR5 as it was. -/
theorem State.idleTick_counts (hon : s.node.off = false) (href : s.node.refTime = true) (hrate : s.time.rateNext = none)
    (hstep : s.time.stepNext = none) (howed : s.dlv.owedFail = []) (horphans : s.twin.orphans = [])
    (hacks : s.dlv.acks = []) (hitems : s.hq.items.all (fun i => i.stage != .waiting) = true) (hvec : s.VectorsInTable) :
    s.idleTick.count = (s.count + 1) % 2 ^ 64 ∧ s.idleTick.mem = s.mem := by
  have hruns : ¬ (s.node.off = true ∨ ¬ s.node.refTime = true) := by simp [hon, href]
  have hkeeps := State.tickKeeps_afterCount (s := s.put64 TIME_COUNT_LO TIME_COUNT_HI (s.count + 1))
    (by rwa [State.put64_time]) (by rwa [State.put64_time]) (by rwa [State.put64_dlv]) (by rwa [State.put64_twin])
    (by rwa [State.put64_dlv]) (by rwa [State.put64_hq]) (State.vectorsInTable_put64 hvec)
  rw [State.idleTick, if_neg hruns, hkeeps.count, State.count_put64, hkeeps.mem, State.put64_mem]
  exact ⟨rfl, rfl⟩

end Tick

/-! ### A tick that does not -/

/-- The state after reset with source 644, whose input is high while the port is not UP, unmasked and routed to the host with
a `VECTOR` wider than its eight bits. -/
def strayVector : State :=
  { State.reset with
    regs := [((INT_SH_MASK_SET 20).key, 0), ((INT_SH_ROUTE_TARGET 644).key, 9), ((INT_SH_ROUTE_VECTOR 644).key, 0x1C8001)] }

/-- The pending bit of that vector would be bit 1 of `TIME_COUNT_LO`. -/
theorem strayVector_count : strayVector.count = 0 ∧ strayVector.idleTick.count = 3 := by decide +kernel

/-- Refutes O2: the statement ranges over states whose stored `VECTOR` exceeds its width, and there the pending bit of the masked
vector falls on the counter. No register write stores such a value; where the vectors are in the table, `State.idleTick_counts` gives
the count. -/
theorem not_stepIdle : ¬ Obligations.StepIdle := by
  rintro ⟨_, hticks⟩
  obtain ⟨t, hstep, hcount, _⟩ := hticks strayVector rfl rfl rfl rfl rfl rfl rfl rfl rfl
  have htick : strayVector.idleTick = t := Host.Outcome.next.inj ((step_nil _ rfl).symm.trans hstep)
  obtain ⟨hbefore, hafter⟩ := strayVector_count
  rw [← htick, hbefore, hafter] at hcount
  exact absurd hcount (by decide)

end Sys2Proof.Machine
end

section
/-! PROOFS. The Ethernet ports and their frames (R235-R246), and their statement. -/

namespace Sys2Proof.Machine

open Sys2Proof.Machine.Reg

/-! ### Configuration (R248) -/

/-- R248: MAX_FRAME below 64 is refused, whatever else the write says. -/
theorem State.writeEthCfg_runt {s : State} {n v : Nat} (hrunt : v % 2 ^ 14 < 64) : s.writeEthCfg n v = s.raise NET_ERR :=
  if_pos (.inl hrunt)

/-! ### Control words (R235, R236) -/

section ControlWords

variable {s : State} {port : Fin 16} {link full : Bool} {speed : Fin 3}

/-- A control word without link or full duplex. -/
theorem execQsgmiiControlWord_down (hup : s.isUp dNET = true) (hdown : link = false ∨ full = false) :
    execQsgmiiControlWord port link full speed s =
      .next ((s.riseBit NET_QS_STATUS (port / 4) 8 (32 + port / 4)).ethLinkLost port) := by
  have hlost : ¬ (link = true ∧ full = true) := fun ⟨hlink, hfull⟩ =>
    hdown.elim (Bool.eq_false_iff.mp · hlink) (Bool.eq_false_iff.mp · hfull)
  exact (next_ite_neg (not_not_intro hup)).trans (next_ite_pos hlost)

/-- A control word for link and full duplex goes by the link and the speed that the port shows. -/
theorem execQsgmiiControlWord_up (hup : s.isUp dNET = true) :
    execQsgmiiControlWord port true true speed s =
      .next (let t := s.riseBit NET_QS_STATUS (port / 4) 8 (32 + port / 4)
        if t.flag (NET_PORT_STATUS_LINK port) ∧ t.get (NET_PORT_STATUS_SPEED port) = speed.val + 1 then t
        else (t.ethLinkLost port).ethLinkUp port (speed.val + 1)) :=
  (next_ite_neg (not_not_intro hup)).trans (next_ite_neg (not_not_intro ⟨rfl, rfl⟩))

end ControlWords

/-! ### The end of a sent frame (R126, R246) -/

/-- A frame in progress ends: its PAUSE that waited takes effect, and its item commits where it still stands. -/
theorem execEthTxCommit_sending {s : State} {port : Fin 16} {src sq wsn : Nat} (htx : (s.eth port).tx = some (src, sq, wsn)) :
    execEthTxCommit port s =
      .next (let t := (s.setEth port { s.eth port with tx := none, pausePend := false }).inc (NET_PORT_CNT_TX port)
        let u := if (s.eth port).pausePend ∧ t.ethState port = 2 then t.setEthState port 5 else t
        match u.work? src sq wsn with
        | some w => u.commit w w.length 0
        | none => u) := by
  simp only [execEthTxCommit, htx] <;> rfl

/-! ### Reception (R240, R241) -/

section Reception

variable {s : State} {port : Fin 16} {bytes : List Byte}

/-- The port takes frames: NET is up and does not drain, and the port has its link and is not DISABLED, DOWN or LULL. -/
def State.EthTakes (s : State) (n : Nat) : Prop :=
  (s.isUp dNET = true ∧ s.isDraining dNET = false) ∧ s.flag (NET_PORT_STATUS_LINK n) = true ∧
    s.ethState n ≠ 0 ∧ s.ethState n ≠ 1 ∧ s.ethState n ≠ 7

/-- What a port that takes frames does with one: it tests the length, then the FCS, then what the frame is for. -/
theorem execEthFrameReceive_takes (htakes : s.EthTakes port) :
    execEthFrameReceive port bytes s = .next (
      if bytes.length < 64 then s.inc (NET_PORT_CNT_RUNT port)
      else if s.get (NET_PORT_CFG_MAX_FRAME port) < bytes.length then s.inc (NET_PORT_CNT_LONG port)
      else if crc32 (bytes.take (bytes.length - 4)) ≠ leAt bytes (bytes.length - 4) 4 then
        (s.inc (NET_PORT_CNT_FCS port)).spill (13 + port) PLD_CNT_CRC
      else
        let t := s.inc (NET_PORT_CNT_RX port)
        if isPause bytes then t.pauseReceived port (beAt bytes 16 2)
        else if t.isThreat dPLD ∨ (t.isThreat dNET ∧ (t.eth port).pauseSent) then t.inc (NET_PORT_CNT_DROP port)
        else if t.flag (NET_PORT_CFG_PTP_TRAP port) ∧ isPtp bytes then
          (t.emit (.toProcessor 8 port bytes (t.ethStamp port))).pendPrivate 8 (16 + port)
        else t.ethStore port bytes) := by
  obtain ⟨⟨hup, hruns⟩, hlink, henabled, hnotDown, hawake⟩ := htakes
  exact next_ite_neg (by simp [hup, hruns, hlink, henabled, hnotDown, hawake])

end Reception

/-- Settles O37: each command under the guard that its clause states, a control word by link and speed, a frame by the first
test of `execEthFrameReceive_takes` that it fails. -/
theorem ethernetPorts : Obligations.EthernetPorts := by
  refine ⟨?enable, ?disable, ?runtRefused, ?drained, ?syncLost, ?newSpeed, ?linkDown, ?sameSpeed, ?linkUp, ?pause, ?pauseEnd,
    ?pauseRepeated, ?pauseCleared, ?sent, ?shut, ?runt, ?long, ?badFcs, ?received⟩
  case enable | disable => exact fun s port val hup => next_ite_pos hup
  case runtRefused => exact fun s port val hup hrunt => (next_ite_pos hup).trans (congrArg _ (State.writeEthCfg_runt hrunt))
  case drained => exact fun s port hst hwithdrawn hempty hidle => next_ite_pos ⟨hst, hwithdrawn, hempty, hidle⟩
  case syncLost => exact fun s link hup => next_ite_pos hup
  case newSpeed => exact fun s port speed hup hnew => (execQsgmiiControlWord_up hup).trans (next_ite_neg hnew)
  case linkDown => exact fun s port link full speed hup hdown => execQsgmiiControlWord_down hup hdown
  case sameSpeed =>
    exact fun s port speed hup hlink hspeed => (execQsgmiiControlWord_up hup).trans (next_ite_pos ⟨hlink, hspeed⟩)
  case linkUp => exact fun s port hup hst hlink => next_ite_pos ⟨hup, hst, hlink⟩
  case pause => exact fun s port quanta hup hlink hst => next_ite_pos ⟨hup, hlink, hst⟩
  case pauseEnd => exact fun s port hup hst => (next_ite_pos hup).trans (next_ite_pos hst)
  case pauseRepeated => exact fun s port hup hsent hcause => next_ite_pos ⟨hup, hsent, hcause⟩
  case pauseCleared =>
    intro s port hup hcleared
    exact (next_ite_neg fun ⟨_, _, hcause⟩ => Bool.eq_false_iff.mp hcleared hcause).trans (next_ite_pos hup)
  case sent => exact fun s port src sq wsn htx => execEthTxCommit_sending htx
  case shut =>
    intro s port bytes hshut
    exact next_ite_pos (by simpa using hshut)
  case runt =>
    exact fun s port bytes hup hlink hst hrunt => (execEthFrameReceive_takes ⟨hup, hlink, hst⟩).trans (next_ite_pos hrunt)
  case long =>
    exact fun s port bytes hup hlink hst hmin hlong =>
      (execEthFrameReceive_takes ⟨hup, hlink, hst⟩).trans ((next_ite_neg hmin.not_gt).trans (next_ite_pos hlong))
  case badFcs =>
    intro s port bytes hup hlink hst ⟨hmin, hmax⟩ hfcs
    exact (execEthFrameReceive_takes ⟨hup, hlink, hst⟩).trans
      ((next_ite_neg hmin.not_gt).trans ((next_ite_neg hmax.not_gt).trans (next_ite_pos hfcs)))
  case received =>
    intro s port bytes hup hlink hst ⟨hmin, hmax⟩ hfcs
    exact (execEthFrameReceive_takes ⟨hup, hlink, hst⟩).trans
      ((next_ite_neg hmin.not_gt).trans ((next_ite_neg hmax.not_gt).trans (next_ite_neg (not_not_intro hfcs))))

end Sys2Proof.Machine
end

section
/-! PROOFS. Pins and discrete lines of the field clusters (R249, R250, R263-R268, R270), and their statement. -/

namespace Sys2Proof.Machine

open Sys2Proof.Machine.Reg

/-- R249: `FUNC` of a pin with PIO does not change while an engine of its group runs. -/
theorem State.writePinCfg_pioRuns {s : State} {n p v : Nat} (hchange : v % 4 ≠ 1) (hpio : s.get (FC_PIN_CFG_FUNC n p) = 1)
    (hruns : s.groupRuns n (p / 16) = true) : s.writePinCfg n p v = s.raise (FC_ERR_CFG_REJECT n) :=
  if_pos ⟨hpio ▸ hchange, .inl ⟨hpio, hruns⟩⟩

/-- R264: an item for a line enters the timed queue, late already where it becomes the head after its time. -/
theorem State.lineEntry_room {s : State} {n p : Nat} {w : Work}
    (hnext : s.dlv.work.find? (fun w => w.ep == epLine n p && w.opcode == 0x10 && !w.taken) = some w)
    (hup : s.isUp (dFC n) = true) (hroom : (s.line n p).queue.length < 8) :
    s.lineEntry n p =
      (let k := (w.src, w.sq, w.wsn)
       (s.takeWork w).setLine n p
         { s.line n p with queue := (s.line n p).queue ++ [(k, (s.line n p).queue = [] && s.entryLate k)] }) := by
  simp only [State.lineEntry, hnext]
  exact if_pos ⟨hup, hroom⟩

/-- R264: the only entry of a queue is applied once its time has come, where its cluster emits and the node owns the pins. -/
theorem execDioEntryApply_due {s : State} {n : Fin 6} {p : Fin 64} {k : Nat × Nat × Nat} {late : Bool} {w : Work}
    (hqueue : (s.line n p).queue = [(k, late)]) (hwork : s.workAt k = some w) (hemits : s.emits (dFC n) = true)
    (howns : s.ownsPins = true) (hep : s.epDown (epLine n p) = false) (hdue : w.param ≤ s.ringTime) :
    execDioEntryApply n p s =
      .next ((((s.startEmission w).setLevel n p ((leAt w.data 0 1).testBit 0)).setLine n p
        { s.line n p with queue := [] }).commit { w with late := w.late || late } 1 0) := by
  have happlies : ¬ (¬ s.emits (dFC n) = true ∨ ¬ s.ownsPins = true ∨ s.epDown (epLine n p) = true ∨ s.ringTime < w.param) := by
    simp [hemits, howns, hep, hdue]
  simp only [execDioEntryApply, hqueue, hwork]
  exact next_ite_neg happlies

/-- R266: a debounce interval that ends accepts the level that it timed. -/
theorem execDioDebounceExpiry_timed {s : State} {n : Fin 6} {p : Fin 64} {level : Bool} {time : Nat}
    (hup : s.isUp (dFC n) = true) (hdeb : (s.line n p).deb = some (level, time)) :
    execDioDebounceExpiry n p s = .next (s.acceptLevel n p level time) := by
  simp only [execDioDebounceExpiry, hdeb]
  exact next_ite_pos hup

/-- Settles O38: each command under the guard that its clause states, an entry of a line's queue by `State.lineEntry_room` and
`execDioEntryApply_due`. -/
theorem fieldPins : Obligations.FieldPins := by
  refine ⟨?pinCfg, ?pinRefused, ?set, ?clear, ?lineCfg, ?queued, ?applied, ?raw, ?debounced, ?held⟩
  case pinCfg | set | clear | lineCfg => exact fun s n i val hup => next_ite_pos hup
  case pinRefused =>
    exact fun s n p val hup hchange hpio hruns =>
      (next_ite_pos hup).trans (congrArg _ (State.writePinCfg_pioRuns hchange hpio hruns))
  case queued => exact fun s n p w hnext hup hroom => congrArg _ (State.lineEntry_room hnext hup hroom)
  case applied =>
    exact fun s n p k late w hqueue hwork ⟨hemits, howns⟩ hep hdue => execDioEntryApply_due hqueue hwork hemits howns hep hdue
  case raw => exact fun s n p level hup => next_ite_pos hup
  case debounced => exact fun s n p level time hup hdeb => execDioDebounceExpiry_timed hup hdeb
  case held => exact fun s n p hloan => next_ite_pos hloan

end Sys2Proof.Machine
end

section
/-! PROOFS. The port FIFOs of the field clusters (R254, R255, R260-R262), and their statement. -/

namespace Sys2Proof.Machine

open Sys2Proof.Machine.Reg

/-- R254: the slice takes what the draining bank holds of a packet, and links the packet where the last word ends it. -/
theorem execRxPacketToSlice_takes {s : State} {n : Fin 6} {q : Fin 32} {ws rest : List FWord} {w : FWord}
    (hup : s.isUp (dFC n) = true) (hruns : s.isDraining (dFC n) = false)
    (htake : takePacket (s.portSt n q).rx.swap.draining = (ws, rest)) (hlast : ws.getLast? = some w) :
    execRxPacketToSlice n q s = .next (
      let x := s.portSt n q
      let built := x.build ++ ws.flatMap (fun w => w.bytes)
      let rx := Fifo.swap { x.rx.swap with draining := rest }
      if w.eop then ((s.setPortSt n q { x with rx, build := [] }).showPort n q).linkPacket n q built w.detail
      else (s.setPortSt n q { x with rx, build := built }).showPort n q) := by
  have hsome : ws ≠ [] := List.getLast?_isSome.mp (hlast ▸ rfl)
  have hreads : ¬ (¬ s.isUp (dFC n) = true ∨ s.isDraining (dFC n) = true ∨ ws = []) := by simp [hup, hruns, hsome]
  simp only [execRxPacketToSlice, htake, hlast]
  exact next_ite_neg hreads

section Drop

variable {s : State} {n q : Nat}

/-- R261: no packet is being pulled. -/
theorem State.dropTxPacket_none (hnone : (s.portSt n q).txPkt = none) :
    s.dropTxPacket n q = s.raise (FC_PORT_FLAGS_DROP_LATE n q) := by
  simp only [State.dropTxPacket, hnone]

/-- R261: the packet being pulled is dropped, and its item fails where it still stands. -/
theorem State.dropTxPacket_some {k : Nat × Nat × Nat} {last : Bool} (hpkt : (s.portSt n q).txPkt = some (k, last)) :
    s.dropTxPacket n q =
      (let t := (s.setPortSt n q { (s.portSt n q).dropTx k with txEop := !last }).showPort n q
       match t.workAt k with
       | some w => t.failWork w 0x20 0 0x01
       | none => t) := by
  simp only [State.dropTxPacket, hpkt] <;> rfl

end Drop

/-- Settles O39: a read of the slice by `execRxPacketToSlice_takes`, a drop by what the port holds of a packet, and the end of a
flush as its command says it. -/
theorem portFifos : Obligations.PortFifos := by
  refine ⟨?read, ?written, ?flushRx, ?flushTx, ?flushed, ?dropRxLate, ?dropRx, ?dropTxLate, ?dropTx⟩
  case read => exact fun s n q ws rest w hup hruns htake hlast => execRxPacketToSlice_takes hup hruns htake hlast
  case written | flushRx | flushTx => exact fun s n q hup => next_ite_pos hup
  case flushed => exact fun s n q => rfl
  case dropRxLate => exact fun s n q hup hnone => (next_ite_pos hup).trans (next_ite_pos hnone)
  case dropRx => exact fun s n q hup hopen => (next_ite_pos hup).trans (next_ite_neg hopen)
  case dropTxLate => exact fun s n q hup hnone => (next_ite_pos hup).trans (congrArg _ (State.dropTxPacket_none hnone))
  case dropTx => exact fun s n q k last hup hpkt => (next_ite_pos hup).trans (congrArg _ (State.dropTxPacket_some hpkt))

end Sys2Proof.Machine
end

section
/-! PROOFS. What an engine does with an instruction at its `PC` (R278, R280, R291), the instructions on frames, events and halts
(R261, R282, R285-R287, R289, R294), and their statement. -/

namespace Sys2Proof.Machine

open Sys2Proof.Machine.Reg

/-! ### The instruction at `PC` -/

section Instruction

variable {s : State} {n g e op : Nat} {f : Nat → State}

/-- An engine that may not execute the word stays as it is. -/
theorem next_onInstr_mayNot (hmay : s.pioMay n g e op = false) :
    (.next (s.onInstr n g e op f) : Host.Outcome State Fault Refusal) = .next s := next_ite_pos (by simp [hmay])

/-- R291: an engine that pauses stops before the word. -/
theorem next_onInstr_pauses (hmay : s.pioMay n g e op = true) (hpauses : s.pioPauses n g e = true) :
    (.next (s.onInstr n g e op f) : Host.Outcome State Fault Refusal) = .next (s.setEngState n g e 3) :=
  (next_ite_neg (not_not_intro hmay)).trans (next_ite_pos hpauses)

/-- An engine that may execute the word and does not pause executes it. -/
theorem next_onInstr_executes (hmay : s.pioMay n g e op = true) (hgoes : s.pioPauses n g e = false) :
    (.next (s.onInstr n g e op f) : Host.Outcome State Fault Refusal) = .next (f (s.pioWord n g e)) :=
  (next_ite_neg (not_not_intro hmay)).trans (next_ite_neg (Bool.eq_false_iff.mp hgoes))

end Instruction

/-! ### Pulls (R285, R286) -/

/-- R285: an engine stalled in a pull goes on with it: a PULL ends its instruction, a refill goes back to its SHIFT. -/
theorem execPioPullUnstall_stalled {s : State} {n : Fin 6} {g : Fin 4} {e : Fin 8} (hup : s.isUp (dFC n) = true)
    (hstalled : s.engState n g e = 2) (hpull : (s.eng n g e).stall = .pull) :
    execPioPullUnstall n g e s = .next (
      let w := s.pioWord n g e
      if opOf w = 0x4 then s.pullThen n g e (bitsOf w 0 3) (fun t => t.endInstr n g e w (t.pcNext n g e) false)
      else s.pullThen n g e (ceilDiv (countOf w) 8) (fun t => t.setEng n g e { t.eng n g e with mid := true })) :=
  next_ite_neg (by simp [hup, hstalled, hpull])

/-- Settles O41: an instruction by whether its engine may execute it and pauses, a stalled pull by the instruction that it belongs
to, and an illegal word by the guard that its clause states. -/
theorem pioFrames : Obligations.PioFrames := by
  refine ⟨?pull, ?noPull, ?resumedPull, ?resumedRefill, ?underflow, ?noUnderflow, ?push, ?noPush, ?pausedPush,
    ?event, ?noEvent, ?pausedEvent, ?drop, ?noDrop, ?pausedDrop, ?halt, ?noHalt, ?pausedHalt, ?illegal⟩
  case noPull | noUnderflow | noPush | noEvent | noDrop | noHalt => exact fun s n g e hmay => next_onInstr_mayNot hmay
  case pausedPush | pausedEvent | pausedDrop | pausedHalt =>
    exact fun s n g e hmay hpauses => next_onInstr_pauses hmay hpauses
  case pull | push | event | drop | halt => exact fun s n g e hmay hgoes => next_onInstr_executes hmay hgoes
  case resumedPull =>
    exact fun s n g e hup hstalled hpull hop => (execPioPullUnstall_stalled hup hstalled hpull).trans (next_ite_pos hop)
  case resumedRefill =>
    exact fun s n g e hup hstalled hpull hop => (execPioPullUnstall_stalled hup hstalled hpull).trans (next_ite_neg hop)
  case underflow =>
    exact fun s n g e hmay hgoes hdry => (next_onInstr_executes hmay hgoes).trans (next_ite_pos hdry)
  case illegal =>
    intro s n g e hup hruns hdelay hillegal
    exact next_ite_pos ⟨hup, hruns, Bool.eq_false_iff.mp hdelay, Bool.eq_false_iff.mp hillegal⟩

end Sys2Proof.Machine
end

section
/-! PROOFS. The PIO instructions that shift, drive pins, jump and move (R278-R281, R283, R291), and their statement. -/

namespace Sys2Proof.Machine

/-- Settles O40: each instruction by whether its engine may execute it and pauses. -/
theorem pioPins : Obligations.PioPins := by
  refine ⟨?shift, ?noShift, ?pausedShift, ?set, ?pausedSet, ?noSet, ?jmp, ?noJmp, ?pausedJmp, ?load, ?noLoad, ?pausedLoad,
    ?mov, ?noMov, ?pausedMov⟩
  case shift => exact fun s n g e rx cut lost hmay hgoes => next_onInstr_executes hmay hgoes
  case noShift => exact fun s n g e rx cut lost hmay => next_onInstr_mayNot hmay
  case pausedShift => exact fun s n g e rx cut lost hmay hpauses => next_onInstr_pauses hmay hpauses
  case set => exact fun s n g e lost hmay hgoes => next_onInstr_executes hmay hgoes
  case noSet => exact fun s n g e lost hmay => next_onInstr_mayNot hmay
  case pausedSet => exact fun s n g e lost hmay hpauses => next_onInstr_pauses hmay hpauses
  case jmp | load | mov => exact fun s n g e hmay hgoes => next_onInstr_executes hmay hgoes
  case noJmp | noLoad | noMov => exact fun s n g e hmay => next_onInstr_mayNot hmay
  case pausedJmp | pausedLoad | pausedMov => exact fun s n g e hmay hpauses => next_onInstr_pauses hmay hpauses

end Sys2Proof.Machine
end

section
/-! PROOFS. WAIT, the end of a DELAY, stretched clocks and edges (R275-R278, R280, R283, R284, R287, R291), and their statement. -/

namespace Sys2Proof.Machine

section Wait

variable {s : State} {n : Fin 6} {g : Fin 4} {e : Fin 8} {onTick : Bool}

/-- The engine at its WAIT: the tick at which the instruction began is noted before its condition is tested. -/
def State.atWait (s : State) (n g e : Nat) : State := s.setEng n g e { s.eng n g e with waitAt := s.tick }

/-- R284: a WAIT that an engine executes completes at once where its condition holds and the instruction before was not a WAIT
that took no step. -/
theorem execPioWait_holds (hmay : s.pioMay n g e 0x2 = true) (hgoes : s.pioPauses n g e = false)
    (hholds : (s.atWait n g e).waitHolds n g e (s.pioWord n g e) onTick = true) (hstep : (s.eng n g e).freeWait = false) :
    execPioWait n g e onTick s = .next (
      let w := s.pioWord n g e
      let t := (s.atWait n g e).waitDone n g e w true
      if bitsOf w 21 3 = 4 then t.releaseFlag n g (bitsOf w 0 3) (w.testBit 20) else t) :=
  (next_onInstr_executes hmay hgoes).trans (next_ite_pos ⟨hholds, Bool.eq_false_iff.mp hstep⟩)

/-- R284, R291: any other WAIT that an engine executes stalls it, or pauses it before the WAIT while the node enters SERVICE. -/
theorem execPioWait_stalls (hmay : s.pioMay n g e 0x2 = true) (hgoes : s.pioPauses n g e = false)
    (hwaits : (s.atWait n g e).waitHolds n g e (s.pioWord n g e) onTick = false ∨ (s.eng n g e).freeWait = true) :
    execPioWait n g e onTick s = .next (
      let t := s.atWait n g e
      if t.pausing then (t.setEngState n g e 3).setEng n g e { t.eng n g e with freeWait := false }
      else (t.setEngState n g e 2).setEng n g e { t.eng n g e with stall := .wait, freeWait := false }) := by
  have hnotNow : ¬ ((s.atWait n g e).waitHolds n g e (s.pioWord n g e) onTick = true ∧ ¬ (s.eng n g e).freeWait = true) :=
    fun ⟨hholds, hstep⟩ => hwaits.elim (Bool.eq_false_iff.mp · hholds) hstep
  exact (next_onInstr_executes hmay hgoes).trans (next_ite_neg hnotNow)

end Wait

/-- Settles O42: a WAIT by whether its condition holds, what ends a stall or a delay by the state of the engine that it finds. -/
theorem pioWaits : Obligations.PioWaits := by
  refine ⟨?holds, ?stalls, ?noWait, ?pausedWait, ?satisfied, ?delayEnds, ?stretchEnds, ?edge, ?idleCloses⟩
  case holds => exact fun s n g e onTick hmay hgoes hholds hstep => execPioWait_holds hmay hgoes hholds hstep
  case stalls => exact fun s n g e onTick hmay hgoes hwaits => execPioWait_stalls hmay hgoes hwaits
  case noWait => exact fun s n g e onTick hmay => next_onInstr_mayNot hmay
  case pausedWait => exact fun s n g e onTick hmay hpauses => next_onInstr_pauses hmay hpauses
  case satisfied => exact fun s n g e onTick hup hstalled hwait hholds => next_ite_pos ⟨hup, hstalled, hwait, hholds⟩
  case delayEnds => exact fun s n g e hup hruns hdelay => next_ite_pos ⟨hup, hruns, hdelay⟩
  case stretchEnds =>
    exact fun s n g e rx cut lost hup hstalled hstretch => next_ite_neg (by simp [hup, hstalled, hstretch])
  case edge => exact fun s n g e rise hup => next_ite_pos hup
  case idleCloses =>
    exact fun s n g e hup hstalled hwait hidle huse => next_ite_pos ⟨hup, hstalled, hwait, hidle, huse⟩

end Sys2Proof.Machine
end

section
/-! PROOFS. The start and halt of PIO engines, their flags and their programs (R284, R288-R290, R292), and their statement. -/

namespace Sys2Proof.Machine

open Sys2Proof.Machine.Reg

/-- R288: a SYNC is refused while one waits for its time. -/
theorem State.writeSync_waits {s : State} {n g v : Nat} (hwaits : (s.group n g).sync.isSome = true) :
    s.writeSync n g v = s.raise (FC_PIO_ERR_CFG_REJECT n g) := if_pos (.inl hwaits)

/-- R288: a SYNC that waits acts once its time has come. -/
theorem execPioSyncTimeReached_due {s : State} {n : Fin 6} {g : Fin 4} {start restart : Nat}
    (hsync : (s.group n g).sync = some (start, restart))
    (hdue : s.get64 (FC_PIO_SYNC_TIME_LO n g) (FC_PIO_SYNC_TIME_HI n g) ≤ s.ringTime) :
    execPioSyncTimeReached n g s = .next (((s.setGroup n g { s.group n g with sync := none }).put
      (FC_PIO_STATE_SYNC_PENDING n g) 0).syncNow n g start restart) := by
  simp only [execPioSyncTimeReached, hsync]
  exact next_ite_pos hdue

section Program

variable {s : State} {n g w v : Nat}

/-- R290: a program word takes its present value at any time, and another while no running engine's region holds it. -/
theorem State.writeProg_free (hfree : v = s.get (FC_PIO_PROG n g w) ∨
      (List.range 8).any (fun e => s.engState n g e != 0 && s.inRegion n g e w) = false) :
    s.writeProg n g w v = s.put (FC_PIO_PROG n g w) v :=
  if_neg fun ⟨hchange, hheld⟩ => hfree.elim hchange (Bool.eq_false_iff.mp · hheld)

/-- R290: a change of a program word that a running engine's region holds is refused. -/
theorem State.writeProg_held (hchange : v ≠ s.get (FC_PIO_PROG n g w))
    (hheld : (List.range 8).any (fun e => s.engState n g e != 0 && s.inRegion n g e w) = true) :
    s.writeProg n g w v = s.raise (FC_PIO_ERR_PROG_REJECT n g) := if_pos ⟨hchange, hheld⟩

end Program

/-- Settles O43: each write under the guard that its clause states, a SYNC by whether one waits, a program word by whether a
running engine holds it. -/
theorem pioControl : Obligations.PioControl := by
  refine ⟨?start, ?restart, ?refused, ?timeReached, ?halt, ?flagsSet, ?flagsCleared, ?written, ?held⟩
  case start | restart | flagsSet | flagsCleared => exact fun s n g val hup => next_ite_pos hup
  case refused => exact fun s n g val hup hwaits => (next_ite_pos hup).trans (congrArg _ (State.writeSync_waits hwaits))
  case timeReached => exact fun s n g start restart hsync hdue => execPioSyncTimeReached_due hsync hdue
  case halt => exact fun s n g mask cuts hup => next_ite_pos hup
  case written => exact fun s n g w val hup hfree => (next_ite_pos hup).trans (congrArg _ (State.writeProg_free hfree))
  case held =>
    exact fun s n g w val hup hchange hheld => (next_ite_pos hup).trans (congrArg _ (State.writeProg_held hchange hheld))

end Sys2Proof.Machine
end

section
/-! PROOFS. The states of the CAN controllers (R299, R300, R302, R315, R317), what they receive (R301, R306, R312-R314), and their
statements. -/

namespace Sys2Proof.Machine

open Sys2Proof.Machine.Reg

/-! ### States -/

section States

variable {s : State} {n c v cause : Nat} {busIdle : Bool}

/-- R305, R319: a `FILT_COUNT` of 0 is refused, whatever else the write says. -/
theorem State.writeCanCfg_noFilter (hcount : bitsOf v 0 9 = 0) :
    s.writeCanCfg n c v = s.raise (FC_CAN_ERR_CFG_REJECT n c) := if_pos (.inl hcount)

theorem State.canRecover_busOff (hoff : s.canState n c = 4) : s.canRecover n c = s.setCanState n c 5 := if_pos hoff

/-- R299, R315: SLEEP reaches a controller that is ERROR_ACTIVE or ERROR_PASSIVE, and looks at its bus and its requests. -/
theorem State.canSleep_running (hruns : s.canState n c = 2 ∨ s.canState n c = 3) :
    s.canSleep n c busIdle =
      if busIdle ∧ ¬ (s.can n c).objs.any (fun e => e.2.requested) then s.setCanState n c 6
      else s.canFlag n c (FC_CAN_FLAGS_SLEEP_REFUSED n c) 6 :=
  if_neg fun ⟨hactive, hpassive⟩ => hruns.elim hactive hpassive

theorem State.canWake_asleep (hsleep : s.canState n c = 6) :
    s.canWake n c cause =
      ((s.setCanState n c 1).put (FC_CAN_STATUS_WAKE_CAUSE n c) cause).canFlag n c (FC_CAN_FLAGS_WOKEN n c) 5 := if_pos hsleep

end States

/-- Settles O44: each command while its cluster is up, by the state of the controller that it finds. -/
theorem canStates : Obligations.CanStates := by
  refine ⟨?enable, ?disable, ?noFilter, ?recover, ?sleep, ?busy, ?wake, ?busWake, ?integrated, ?recovered, ?capture⟩
  case enable | disable => exact fun s n c val hup => next_ite_pos hup
  case noFilter => exact fun s n c val hup hcount => (next_ite_pos hup).trans (congrArg _ (State.writeCanCfg_noFilter hcount))
  case recover => exact fun s n c hup hoff => (next_ite_pos hup).trans (congrArg _ (State.canRecover_busOff hoff))
  case sleep =>
    intro s n c hup hruns hnone
    have hidle : true = true ∧ ¬ (s.can n c).objs.any (fun e => e.2.requested) = true := ⟨rfl, Bool.eq_false_iff.mp hnone⟩
    exact (next_ite_pos hup).trans (congrArg _ ((State.canSleep_running hruns).trans (if_pos hidle)))
  case busy =>
    intro s n c hup hruns
    exact (next_ite_pos hup).trans (congrArg _ ((State.canSleep_running hruns).trans (if_neg fun h => Bool.false_ne_true h.1)))
  case wake | busWake => exact fun s n c hup hsleep => (next_ite_pos hup).trans (congrArg _ (State.canWake_asleep hsleep))
  case integrated => exact fun s n c hup hstate => (next_ite_neg (not_not_intro hup)).trans (next_ite_pos hstate)
  case recovered => exact fun s n c hup hstate => next_ite_pos ⟨hup, hstate⟩
  case capture => exact fun s req n c j hopen => next_ite_pos hopen

/-! ### Reception -/

/-- R299, R301, R306: a controller on the bus that does not wait takes a frame of a form that it has, by its filters. -/
theorem execCanFrameReceive_onBus {s : State} {n : Fin 6} {c : Fin 8} {ident : Word} {fdf brs esi : Bool} {dlc : Fin 16}
    {bytes : List Byte} {ago : Nat} (hon : s.canOnBus n c = true) (hwait : (s.can n c).waiting = false)
    (hform : fdf = true → s.flag (FC_CAN_CFG_FD_EN n c) = true) :
    execCanFrameReceive n c ident fdf brs esi dlc bytes ago s = .next (
      match (s.recAfterFrame n c).canFilter n c (clearBit ident.toNat 29) with
      | none => (s.recAfterFrame n c).inc (FC_CAN_CNT_RX_REJECT n c)
      | some j => (s.recAfterFrame n c).canStore n c j (clearBit ident.toNat 29) fdf brs esi dlc bytes ago) :=
  next_ite_neg (by simpa [hon, hwait] using hform)

/-- Settles O46: a frame by what the filters name for it, an error by the operation of the controller. -/
theorem canReceive : Obligations.CanReceive := by
  refine ⟨?stored, ?rejected, ?notTaken, ?held, ?error, ?restricted⟩
  case stored =>
    intro s n c ident fdf brs esi dlc bytes ago j hon hwait hform hfilter
    refine (execCanFrameReceive_onBus hon hwait hform).trans ?_
    rw [hfilter]
  case rejected =>
    intro s n c ident fdf brs esi dlc bytes ago hon hwait hform hfilter
    refine (execCanFrameReceive_onBus hon hwait hform).trans ?_
    rw [hfilter]
  case notTaken =>
    intro s n c ident fdf brs esi dlc bytes ago hoff
    exact next_ite_pos (by simpa using hoff)
  case held => exact fun s n c hloan => next_ite_pos hloan
  case error =>
    exact fun s n c lec dTec dRec hon hnormal =>
      (next_ite_neg (not_not_intro hon)).trans (next_ite_neg (Bool.eq_false_iff.mp hnormal))
  case restricted =>
    exact fun s n c lec dTec dRec hon hrestricted => (next_ite_neg (not_not_intro hon)).trans (next_ite_pos hrestricted)

end Sys2Proof.Machine
end

section
/-! PROOFS. The signal router (R324, R326-R329, R343), and its statement. -/

namespace Sys2Proof.Machine

open Sys2Proof.Machine.Reg

section Router

variable {s : State} {src sq wsn v : Nat} {w : Work}

/-- R329: a router that serves takes its oldest input. -/
theorem execSigInput_oldest {i : SigIn} {rest : List SigIn} (hserves : s.routes = true) (hin : s.sig.inputs = i :: rest) :
    execSigInput s = .next (State.serveInput { s with sig := { s.sig with inputs := rest } } i) :=
  (next_ite_neg (not_not_intro hserves)).trans (by simp only [hin])

theorem execSigInput_none (hnone : s.routes = false ∨ s.sig.inputs = []) : execSigInput s = .next s := by
  by_cases hserves : s.routes = true
  · have hempty : s.sig.inputs = [] := hnone.resolve_left (by simp [hserves])
    exact (next_ite_neg (not_not_intro hserves)).trans (by simp only [hempty])
  · exact next_ite_pos hserves

/-- R328: an update that is ready is applied as a whole, or fails. -/
theorem execSigUpdate_ready (hserves : s.routes = true) (hw : s.readyWork src sq wsn 0x11 = some w) :
    execSigUpdate src sq wsn s = .next (
      if (recordsOf w.data.length w.data).all (s.recordOk false) then
        ((recordsOf w.data.length w.data).foldl State.applyRecord s).commitInternal w w.length
      else s.failWork w 0x20 0 0x06) :=
  (next_ite_neg (not_not_intro hserves)).trans (by simp only [hw])

/-- R343: WRITE stores the entry, and READ then loads it. -/
theorem State.writeEntSel_write (hwrite : v.testBit 31 = true) :
    s.writeEntSel v =
      (let t := (s.put SIG_ENT_SEL_ID (v % 2 ^ 18)).storeEntry (v % 2 ^ 18)
       if v.testBit 30 then t.loadEntry (v % 2 ^ 18) else t) := by
  simp only [State.writeEntSel, if_pos hwrite]

theorem State.writeEntSel_read (hwrite : v.testBit 31 = false) (hread : v.testBit 30 = true) :
    s.writeEntSel v = (s.put SIG_ENT_SEL_ID (v % 2 ^ 18)).loadEntry (v % 2 ^ 18) := by
  simp only [State.writeEntSel, if_neg (Bool.eq_false_iff.mp hwrite), if_pos hread]

end Router

/-- Settles O47: each command while the router serves or SIG is up, an update by its records, a frame by its form. -/
theorem signalRouter : Obligations.SignalRouter := by
  refine ⟨?input, ?noInput, ?applied, ?failed, ?message, ?records, ?short, ?period, ?gapEnd, ?store, ?load⟩
  case input => exact fun s i rest hserves hin => execSigInput_oldest hserves hin
  case noInput => exact fun s hnone => execSigInput_none hnone
  case applied =>
    exact fun s src sq wsn w hserves hw hok => (execSigUpdate_ready hserves hw).trans (next_ite_pos hok)
  case failed =>
    exact fun s src sq wsn w hserves hw hbad =>
      (execSigUpdate_ready hserves hw).trans (next_ite_neg (Bool.eq_false_iff.mp hbad))
  case message =>
    intro s src ep cls bytes hup hlen hform
    have hwhole : ¬ (¬ s.isUp dSIG = true ∨ bytes.length < 8) := not_or_intro (not_not_intro hup) hlen.not_gt
    exact (next_ite_neg hwhole).trans (next_ite_pos hform)
  case records =>
    intro s src ep cls bytes hup hlen hform
    have hwhole : ¬ (¬ s.isUp dSIG = true ∨ bytes.length < 8) := not_or_intro (not_not_intro hup) hlen.not_gt
    have hother : bytes.headD 0 ≠ 1 := hform.trans_ne (by decide)
    exact (next_ite_neg hwhole).trans ((next_ite_neg hother).trans (next_ite_pos hform))
  case short => exact fun s src ep cls bytes hnot => next_ite_pos (hnot.imp_left Bool.eq_false_iff.mp)
  case period => exact fun s m hserves hm hdir hperiod => next_ite_pos ⟨hserves, hm, hdir, hperiod⟩
  case gapEnd => exact fun s m hgap => next_ite_neg (not_not_intro hgap)
  case store =>
    exact fun s val hup hwrite => (next_ite_pos ⟨hup, hwrite⟩).trans (congrArg _ (State.writeEntSel_write hwrite))
  case load =>
    exact fun s val hup hread hwrite =>
      (next_ite_pos ⟨hup, hread⟩).trans (congrArg _ (State.writeEntSel_read hwrite hread))

end Sys2Proof.Machine
end

section
/-! PROOFS. The cameras (R362), their frames and lines (R348, R349, R362), their settings and sensor transactions (R357, R358,
R361, R364), and their statements. -/

namespace Sys2Proof.Machine

open Sys2Proof.Machine.Reg

/-! ### Starting (R362) -/

/-- R362: the answer to the ID read reaches a camera that is STARTING with a profile. -/
theorem execCamIdReadDone_starting {s : State} {c : Fin 8} {ack : Bool} {value : Nat} {p : Profile}
    (hstarting : s.camState c.val = 1) (hp : s.camProfile c.val = some p) :
    execCamIdReadDone c ack value s = .next (
      if ¬ ack then s.failStart c.val 6
      else if value % 2 ^ (if p.flags.testBit 2 then 16 else 8) ≠ p.idValue then s.failStart c.val 5
      else p.inits.foldl (fun s e => s.emit (.cci c.val false e.1 (leBytes 1 e.2))) s) := by
  simp only [execCamIdReadDone, if_pos hstarting, hp]

/-- Settles O50: a write of the configuration by its `EN`, a camera that starts by what its sensor answers. -/
theorem cameras : Obligations.Cameras := by
  refine ⟨?enable, ?disable, ?idRead, ?otherId, ?initDone⟩
  case enable => exact fun s c val hup hen => next_ite_pos ⟨hup, hen⟩
  case disable => exact fun s c val hup hen => next_ite_pos ⟨hup, Bool.eq_false_iff.mp hen⟩
  case idRead =>
    intro s c ack value p hstarting hp hid
    refine (execCamIdReadDone_starting hstarting hp).trans ?_
    cases ack with
    | false => exact next_ite_pos Bool.false_ne_true
    | true => exact (next_ite_neg (not_not_intro rfl)).trans (next_ite_neg (not_not_intro hid))
  case otherId =>
    intro s c value p hstarting hp hid
    exact (execCamIdReadDone_starting hstarting hp).trans ((next_ite_neg (not_not_intro rfl)).trans (next_ite_pos hid))
  case initDone =>
    intro s c ack hstarting
    refine (next_ite_neg (not_not_intro hstarting)).trans ?_
    cases ack with
    | false => exact next_ite_pos Bool.false_ne_true
    | true => exact next_ite_neg (not_not_intro rfl)

/-! ### Frames and lines (R348, R349, R362) -/

section Frames

variable {s : State} {c : Fin 8} {vc : Fin 4}

/-- R362: a Frame Start of the camera's channel first closes a frame that is still open. -/
theorem execCsiFrameStart_own {fn : BitVec 16} (hup : s.isUp dVIS = true) (hruns : 2 ≤ s.camState c.val)
    (hvc : vc.val = s.get (VIS_CAM_CFG_VC c.val)) :
    execCsiFrameStart c vc fn s = .next (
      if ((s.cutFrame c.val).cam c.val).stopping then (s.cutFrame c.val).stopCam c.val
      else (s.cutFrame c.val).startOfFrame c.val fn.toNat) :=
  next_ite_neg (not_or_intro (not_not_intro hup) (not_or_intro hruns.not_gt (not_not_intro hvc)))

/-- R349: a line at a camera that runs, by its header. -/
theorem execCsiLine_running {dt : Nat} {bytes : List Byte} {headerOk crcOk : Bool} (hup : s.isUp dVIS = true)
    (hruns : 2 ≤ s.camState c.val) :
    execCsiLine c vc dt bytes headerOk crcOk s = .next (
      if ¬ headerOk ∨ vc.val ≠ s.get (VIS_CAM_CFG_VC c.val) ∨ dt ≠ s.get (VIS_CAM_CFG_DT c.val) then
        s.inc (VIS_CAM_CNT_LINE_ERR c.val)
      else match (s.cam c.val).openFrame with
        | none => s
        | some f => s.takeLine c.val f dt bytes crcOk) :=
  next_ite_neg (not_or_intro (not_not_intro hup) hruns.not_gt)

end Frames

/-- Settles O51: a Frame Start by whether the camera is stopping, a line by its header. -/
theorem cameraFrames : Obligations.CameraFrames := by
  refine ⟨?start, ?stops, ?ends, ?line, ?badLine⟩
  case start =>
    exact fun s c vc fn hup hruns hvc hgoes =>
      (execCsiFrameStart_own hup hruns hvc).trans (next_ite_neg (Bool.eq_false_iff.mp hgoes))
  case stops =>
    exact fun s c vc fn hup hruns hvc hstops => (execCsiFrameStart_own hup hruns hvc).trans (next_ite_pos hstops)
  case ends => exact fun s c vc hup hopen hvc => next_ite_neg (by simp [hup, hopen, hvc])
  case line =>
    intro s c vc dt bytes crcOk f hup hruns hvc hdt hopen
    refine (execCsiLine_running hup hruns).trans ((next_ite_neg (by simp [hvc, hdt])).trans ?_)
    rw [hopen]
  case badLine =>
    intro s c vc dt bytes headerOk crcOk hup hruns hbad
    exact (execCsiLine_running hup hruns).trans (next_ite_pos (hbad.imp_left Bool.eq_false_iff.mp))

/-! ### Settings sets (R357, R358) -/

section Sensor

variable {s : State} {c : Nat} {w : Work}

/-- R358: a settings set whose check fails is refused with its cause. -/
theorem State.settingsSet_refused (hup : s.isUp dVIS = true) (hw : s.sendReady (epCam c) = some w)
    (hcheck : s.setCheck c w.data ≠ 0) :
    s.settingsSet c = (s.inc (VIS_CAM_CNT_SET_REFUSED c)).failWork w 0x20 0 (s.setCheck c w.data) := by
  simp only [State.settingsSet, hup, hw, not_true_eq_false, if_false, if_pos hcheck]

/-- R357, R358: one that passes it goes into the queue, which holds 16 sets. -/
theorem State.settingsSet_passed (hup : s.isUp dVIS = true) (hw : s.sendReady (epCam c) = some w)
    (hcheck : s.setCheck c w.data = 0) :
    s.settingsSet c =
      if 16 < (addSet (s.cam c).sets (readSet w.data)).length then s
      else ((s.setCam c { s.cam c with sets := addSet (s.cam c).sets (readSet w.data) }).showVis).commitInternal w w.length := by
  simp only [State.settingsSet, hup, hw, not_true_eq_false, if_false, if_neg (not_not_intro hcheck)]

end Sensor

/-! ### Sensor transactions (R361, R364) -/

section Transactions

variable {s : State} {c : Fin 8} {ack : Bool}

/-- R361: the answer to a window write, while no direct command runs. -/
theorem execCciWriteDone_window {w : CciWrite} {rest : List CciWrite} (hup : s.isUp dVIS = true)
    (hwindow : (s.cam c.val).direct = false) (hwrites : (s.cam c.val).writes = w :: rest) :
    execCciWriteDone c ack s = .next (
      if ack then (s.setCam c.val { s.cam c.val with writes := rest }).nextCci c.val
      else if ¬ w.tried then
        (s.setCam c.val { s.cam c.val with writes := { w with tried := true } :: rest }).emit (.cci c.val false w.reg w.bytes)
      else ((s.setCam c.val { s.cam c.val with writes := rest }).cciFault c.val w).nextCci c.val) := by
  have htakes : s.isUp dVIS = true ∧ ¬ (s.cam c.val).direct = true := ⟨hup, Bool.eq_false_iff.mp hwindow⟩
  simp only [execCciWriteDone, if_pos htakes, hwrites]

/-- R364: a direct command that runs ends with its result. -/
theorem execCciDirectDone_running {data : Byte} (hup : s.isUp dVIS = true) (hdirect : (s.cam c.val).direct = true) :
    execCciDirectDone c ack data s = .next (
      let t := (s.put (VIS_CAM_CCI_STATUS_BUSY c.val) 0).put (VIS_CAM_CCI_STATUS_RESULT c.val) (if ack then 1 else 2)
      let u := if ack ∧ (s.cam c.val).cmd.testBit 30 then t.put (VIS_CAM_CCI_STATUS_RDATA c.val) data.toNat else t
      ((u.setCam c.val { s.cam c.val with direct := false }).pendPrivate 7 (8 * c.val + 2)).nextCci c.val) :=
  next_ite_neg (not_or_intro (not_not_intro hup) (not_not_intro hdirect))

end Transactions

/-- Settles O52: a set by its check and the room in its queue, a transaction by its answer. -/
theorem sensorControl : Obligations.SensorControl := by
  refine ⟨?refused, ?queued, ?waits, ?written, ?notWritten, ?latch, ?direct, ?directNack, ?directRead, ?directWrite⟩
  case refused => exact fun s c w hup hw hcheck => congrArg _ (State.settingsSet_refused hup hw hcheck)
  case queued =>
    exact fun s c w hup hw hcheck hroom =>
      congrArg _ ((State.settingsSet_passed hup hw hcheck).trans (if_neg hroom.not_gt))
  case waits =>
    exact fun s c w hup hw hcheck hfull => congrArg _ ((State.settingsSet_passed hup hw hcheck).trans (if_pos hfull))
  case written =>
    exact fun s c w rest hup hwindow hwrites => (execCciWriteDone_window hup hwindow hwrites).trans (next_ite_pos rfl)
  case notWritten =>
    intro s c w rest hup hwindow hwrites
    refine (execCciWriteDone_window hup hwindow hwrites).trans ((next_ite_neg Bool.false_ne_true).trans ?_)
    exact congrArg _ (ite_not _ _ _)
  case latch =>
    intro s c frame hup hlate hwindow
    have hsome : (s.cam c.val).writes.filter (fun w => w.frame == frame && w.kind == 1) ≠ [] := by
      simpa [List.filter_eq_nil_iff] using hlate
    exact (next_ite_neg (not_or_intro (not_not_intro hup) hsome)).trans (next_ite_neg (Bool.eq_false_iff.mp hwindow))
  case direct => exact fun s c val hup => next_ite_pos hup
  case directNack =>
    exact fun s c data hup hdirect => execCciDirectDone_running hup hdirect
  case directRead =>
    intro s c data hup hdirect hread
    refine (execCciDirectDone_running hup hdirect).trans ?_
    simp only [hread, and_self, if_true]
  case directWrite =>
    intro s c data hup hdirect hwrite
    refine (execCciDirectDone_running hup hdirect).trans ?_
    simp only [hwrite, and_false, Bool.false_eq_true, if_true, if_false]

end Sys2Proof.Machine
end

section
/-! PROOFS. The vision pipeline and its outputs (R351, R380-R385), and their statement. -/

namespace Sys2Proof.Machine

open Sys2Proof.Machine.Reg

section Outputs

variable {s : State}

/-- R351: the free pipeline serves the next camera, if its temporal filter is not held. -/
theorem execPipeLineTake_next {c : Nat} (hup : s.isUp dVIS = true) (hc : s.nextCam = some c) :
    execPipeLineTake s = .next (if s.tnrHeld c then s else s.takeFrom c) := by
  simp only [execPipeLineTake, if_pos hup, hc]

/-- R385: the loans of every output and sink that are too small for their endpoint are given back. -/
def State.returnSmallLoans (s : State) : State :=
  (s.each (List.range 40) (fun s i => s.returnSmall (epOut (i / 5) (i % 5)) (s.get (VIS_CAM_OUT_MAX (i / 5) (i % 5))))).each
    (List.range 64) (fun s k => s.returnSmall (epSink k) (s.get (VIS_SINK_MAX k)))

/-- Once they are, the output whose turn it is sends a piece. -/
theorem execVisStreamSend_turn {o : VisOutput} (hemits : s.emits dVIS = true) (ho : s.returnSmallLoans.nextOutput = some o) :
    execVisStreamSend s = .next (s.returnSmallLoans.sendPiece o) := by
  unfold State.returnSmallLoans at ho ⊢
  simp only [execVisStreamSend, hemits, not_true_eq_false, if_false, ho]

/-- R381: the space of the oldest sent output is released. -/
theorem execStagingRelease_sent {o : VisOutput} (ho : s.vis.staged.find? (fun o => o.sent) = some o) :
    execStagingRelease s = .next (State.showVis { s with vis := { s.vis with staged := s.vis.staged.erase o } }) := by
  simp only [execStagingRelease, ho]

/-- R384: a transmitter that is enabled sends the next row of its first output. -/
theorem execCsitxRowSend_first {t : Fin 2} {x : CsiFrame} {rest : List CsiFrame} (hup : s.isUp dVIS = true)
    (hen : s.flag (VIS_CST_CFG_EN t.val) = true) (hq : SMap.getD s.vis.tx t.val [] = x :: rest) :
    execCsitxRowSend t s = .next (s.sendRow t.val x rest) := by
  have hsends : s.isUp dVIS = true ∧ s.flag (VIS_CST_CFG_EN t.val) = true := ⟨hup, hen⟩
  simp only [execCsitxRowSend, if_pos hsends, hq]

end Outputs

/-- Settles O53: each command by the camera, output or frame whose turn it is. -/
theorem visionOutputs : Obligations.VisionOutputs := by
  refine ⟨?take, ?held, ?configured, ?piece, ?released, ?segment, ?timeout, ?row⟩
  case take =>
    exact fun s c hup hc hfree => (execPipeLineTake_next hup hc).trans (next_ite_neg (Bool.eq_false_iff.mp hfree))
  case held => exact fun s c hup hc hheld => (execPipeLineTake_next hup hc).trans (next_ite_pos hheld)
  case configured => exact fun s c k val hup => next_ite_pos hup
  case piece =>
    intro s o hemits ho
    have hturn := execVisStreamSend_turn (o := o) hemits
    simp only [State.returnSmallLoans] at hturn
    exact hturn ho
  case released => exact fun s o ho => execStagingRelease_sent ho
  case segment => exact fun s ep bytes => rfl
  case timeout => exact fun s k hup => next_ite_pos hup
  case row => exact fun s t x rest hup hen hq => execCsitxRowSend_first hup hen hq

end Sys2Proof.Machine
end

section
/-! PROOFS. The interrupt banks and the routes of the shared sources (R413, R416, R417, R419, R420), and their statement. -/

namespace Sys2Proof.Machine

open Sys2Proof.Machine.Reg

section Banks

variable {s : State} {n v : Nat}

/-- R423: a write of a pending or mask word reaches a bank that has the word, in a domain that takes accesses. -/
theorem State.onBank_accessible {bank : Fin 10} {w : Fin 32} {f : Option Nat → State}
    (hopen : s.accessible (intDomain (bankOf bank)) = true) (hword : bank.val = 9 ∨ w.val < 8) :
    s.onBank bank w f = f (bankOf bank) := if_pos ⟨hopen, hword⟩

/-- R420: a target that does not exist, and a change of an unmasked source, are refused. -/
theorem State.writeRoute_refused
    (hbad : 9 < v % 16 ∨ ((v % 16 ≠ s.get (INT_SH_ROUTE_TARGET n) ∨ v / 256 % 256 ≠ s.get (INT_SH_ROUTE_VECTOR n)) ∧
      (s.get (INT_SH_MASK_SET (n / 32))).testBit (n % 32) = false)) :
    s.writeRoute n v = s.put INT_SH_ERR 1 :=
  if_pos (hbad.imp_right fun ⟨hchange, hunmasked⟩ => by
    simpa [hunmasked, ← not_and_or] using hchange)

/-- R420: every other write of a route is taken. -/
theorem State.writeRoute_taken (htarget : v % 16 ≤ 9)
    (hsame : (v % 16 = s.get (INT_SH_ROUTE_TARGET n) ∧ v / 256 % 256 = s.get (INT_SH_ROUTE_VECTOR n)) ∨
      (s.get (INT_SH_MASK_SET (n / 32))).testBit (n % 32) = true) :
    s.writeRoute n v = (s.put (INT_SH_ROUTE_TARGET n) v).put (INT_SH_ROUTE_VECTOR n) (v / 256) :=
  if_neg (not_or_intro htarget.not_gt (not_not_intro (by simpa using hsame)))

end Banks

/-- Settles O55: each command under the guard that its clause states, a write of a bank by `State.onBank_accessible`, a route by the
two cases of `writeRoute`. -/
theorem interrupts : Obligations.Interrupts := by
  refine ⟨?accept, ?entryDone, ?exitDone, ?complete, ?pendSet, ?pendClr, ?maskSet, ?maskClr, ?routeRefused, ?routeTaken⟩
  case accept => exact fun s x hruns hentry => next_ite_pos ⟨hruns, Bool.eq_false_iff.mp hentry⟩
  case entryDone => exact fun s x hruns hentry => next_ite_pos ⟨hruns, hentry⟩
  case exitDone => exact fun s x hruns hexit => next_ite_pos ⟨hruns, hexit⟩
  case complete => exact fun s req x val low hopen => next_ite_pos hopen
  case pendSet | pendClr | maskSet | maskClr =>
    exact fun s bank w val hopen hword => congrArg _ (State.onBank_accessible hopen hword)
  case routeRefused =>
    exact fun s n val hopen hbad => (next_ite_pos hopen).trans (congrArg _ (State.writeRoute_refused hbad))
  case routeTaken =>
    exact fun s n val hopen htarget hsame =>
      (next_ite_pos hopen).trans (congrArg _ (State.writeRoute_taken htarget hsame))

end Sys2Proof.Machine
end

section
/-! PROOFS. The fault log's acknowledgements (R428), error sources and their actions (R425, R430, R431, R435), and their
statements. -/

namespace Sys2Proof.Machine

open Sys2Proof.Machine.Reg

/-! ### Acknowledgement (R428) -/

section Unack

variable {s : State} {k q : Nat}

/-- The fields that follow the unacknowledged entries. -/
def unackShown : List Field :=
  [FLT_STATUS_UNACK_C, FLT_STATUS_UNACK_U, FLT_STATUS_UNACK_F, FLT_STATUS_SQUALL, TWIN_STATUS_HEALTH]

theorem State.get_showUnack_other {f : Field} (hf : ∀ g ∈ unackShown, f.key ≠ g.key) : s.showUnack.get f = s.get f := by
  simp only [unackShown, List.forall_mem_cons] at hf
  obtain ⟨hcorrected, huncorrected, hfatal, hsquall, hhealth, -⟩ := hf
  rw [State.showUnack, State.showHealth, State.put_get_other _ _ _ _ hhealth, State.put_get_other _ _ _ _ hsquall,
    State.put_get_other _ _ _ _ hfatal, State.put_get_other _ _ _ _ huncorrected, State.put_get_other _ _ _ _ hcorrected]

theorem b2n_mod_two (b : Bool) : b2n b % 2 ^ 1 = if b then 1 else 0 := by cases b <;> rfl

/-- R428: each UNACK bit reads 1 exactly while an entry of its class is unacknowledged. -/
theorem State.get_showUnack :
    (s.showUnack.get FLT_STATUS_UNACK_C = if s.hasUnack 0 then 1 else 0) ∧
    (s.showUnack.get FLT_STATUS_UNACK_U = if s.hasUnack 1 then 1 else 0) ∧
    (s.showUnack.get FLT_STATUS_UNACK_F = if s.hasUnack 2 then 1 else 0) := by
  simp (disch := decide) only [State.showUnack, State.showHealth, State.put_get_other, State.put_get]
  exact ⟨b2n_mod_two _, b2n_mod_two _, b2n_mod_two _⟩

/-- The log without the entries of class `k` up to `q`. -/
def FltSt.acked (x : FltSt) (k q : Nat) : FltSt :=
  { x with unack := x.unack.filter (fun e => !(e.2.1 == k && !laterThan 32 e.1 q)) }

/-- R428: a value later than the last `SEQ` assigned is ignored. -/
theorem State.acknowledge_late (hlate : laterThan 32 q ((s.get FLT_SEQ + 2 ^ 32 - 1) % 2 ^ 32) = true) :
    s.acknowledge k q = s.put FLT_ERR 1 := by
  simp only [State.acknowledge]
  rw [if_pos hlate]
  rfl

/-- R428: any other acknowledges the entries of its class up to it, and `FLT_STATUS` follows. -/
theorem State.acknowledge_taken (htaken : laterThan 32 q ((s.get FLT_SEQ + 2 ^ 32 - 1) % 2 ^ 32) = false) :
    s.acknowledge k q = State.showUnack { s with flt := s.flt.acked k q } := by
  simp only [State.acknowledge]
  rw [if_neg (Bool.eq_false_iff.mp htaken)]
  rfl

end Unack

/-- The three acknowledgement registers are one operation, on the class of each. -/
theorem exec_fltAck {k : Nat} {cmd : Word → Instr}
    (hcmd : (k = 0 ∧ cmd = .fltAckC) ∨ (k = 1 ∧ cmd = .fltAckU) ∨ (k = 2 ∧ cmd = .fltAckF)) (s : State) (val : Word) :
    exec (cmd val) s = .next (s.acknowledge k val.toNat) := by
  obtain ⟨rfl, rfl⟩ | ⟨rfl, rfl⟩ | ⟨rfl, rfl⟩ := hcmd <;> rfl

/-- Settles O10: a late value sets `FLT_ERR` alone; any other leaves the log of `FltSt.acked`, whose entries `FLT_STATUS` shows. -/
theorem acknowledge : Obligations.Acknowledge := by
  intro k cmd hcmd s val
  refine ⟨fun hlate => ⟨_, (exec_fltAck hcmd s val).trans (congrArg _ (State.acknowledge_late hlate)), ?_⟩,
    fun htaken => ⟨_, (exec_fltAck hcmd s val).trans (congrArg _ (State.acknowledge_taken htaken)), ?_⟩⟩
  · exact ⟨State.get_put _ _ _ (by decide), rfl, State.put_get_other _ _ _ _ (by decide),
      State.put_get_other _ _ _ _ (by decide), State.put_get_other _ _ _ _ (by decide), State.put_get_other _ _ _ _ (by decide)⟩
  · obtain ⟨hcorrected, huncorrected, hfatal⟩ := State.get_showUnack (s := { s with flt := s.flt.acked k val.toNat })
    exact ⟨rfl, hcorrected, huncorrected, hfatal,
      State.get_showUnack_other (by decide), State.get_showUnack_other (by decide), State.get_showUnack_other (by decide), rfl,
      State.get_showUnack_other (by decide)⟩

/-! ### Sources and actions (R425, R430, R431, R435) -/

section Sources

variable {s : State} {src : Fin 640} {info : List Word} {n v : Nat}

/-- R425: a listed source acts on its unit's counters and is recorded with its INFO words, then STOP takes the unit out. -/
theorem execFaultRecord_listed (hlisted : srcListed src = true) :
    execFaultRecord src info s = .next (
      let ws := if info.map (fun x => x.toNat) = [] then [src.val - srcBase src] else (info.map (fun x => x.toNat)).take 4
      if s.stops src then ((s.sourceEffect src ws).recordWith src ws).stopUnit src ws
      else (s.sourceEffect src ws).recordWith src ws) := by
  simp only [execFaultRecord, if_pos hlisted]

/-- R430: a stricter action of 1 or 2 takes effect. -/
theorem State.writeAction_stricter (hlisted : srcListed n = true) (hvalid : v % 4 ≤ 2)
    (hstricter : s.get (FLT_SRC_ACTION n) < v % 4) : s.writeAction n v = s.put (FLT_SRC_ACTION n) (v % 4) := by
  have hfield : v / 2 ^ (FLT_SRC_ACTION n).lo % 2 ^ (FLT_SRC_ACTION n).w = v % 4 := by
    rw [show (FLT_SRC_ACTION n).lo = 0 from rfl, pow_zero, Nat.div_one]
    rfl
  simp only [State.writeAction, hfield]
  exact (if_neg (not_not_intro hlisted)).trans (if_pos ⟨hvalid, hstricter⟩)

end Sources

/-- Settles O17: a source by its action and its details, each register by its case. -/
theorem faultHub : Obligations.FaultHub := by
  refine ⟨?recorded, ?stopped, ?ackC, ?ackU, ?ackF, ?action, ?pulseEnd⟩
  case recorded =>
    intro s src info hlisted hstays hinfo
    refine (execFaultRecord_listed hlisted).trans ?_
    simp only [if_neg hinfo, hstays, Bool.false_eq_true, if_false]
  case stopped =>
    intro s src hlisted hstops
    exact (execFaultRecord_listed hlisted).trans (next_ite_pos hstops)
  case ackC | ackU | ackF => exact fun s val => rfl
  case action =>
    exact fun s n val hlisted hvalid hstricter => congrArg _ (State.writeAction_stricter hlisted hvalid hstricter)
  case pulseEnd => exact fun s hpulse => next_ite_pos hpulse

end Sys2Proof.Machine
end

section
/-! PROOFS. The corrected code of a Dike sample (R444), the Dike channels (R445-R450, R452), and their statements. -/

namespace Sys2Proof.Machine

open Sys2Proof.Machine.Reg

/-! ### Arithmetic -/

section Rounding

variable {x d : Int}

/-- Rounding half up lands within half a divisor. -/
theorem half_up_bounds (hd : 0 < d) :
    -d < 2 * (d * ((2 * x + d) / (2 * d)) - x) ∧ 2 * (d * ((2 * x + d) / (2 * d)) - x) ≤ d := by
  have hdiv := Int.mul_ediv_add_emod (2 * x + d) (2 * d)
  have hlo := Int.emod_nonneg (2 * x + d) (b := 2 * d) (by omega)
  have hhi := Int.emod_lt_of_pos (2 * x + d) (b := 2 * d) (by omega)
  rw [mul_assoc] at hdiv
  omega

/-- What half up gives for a value that is not negative lies on its far side at a half. -/
theorem half_up_nearest {y : Int} (hx : 0 ≤ x) (hy : -d < 2 * (y - x) ∧ 2 * (y - x) ≤ d) :
    2 * |y - x| ≤ d ∧ (2 * |y - x| = d → |x| < |y|) := by
  obtain ⟨hlo, hhi⟩ := hy
  rw [abs_of_nonneg hx, lt_abs]
  obtain ⟨habs, _⟩ | ⟨habs, _⟩ := abs_cases (y - x) <;> omega

/-- R444: `divRoundAway` gives the integer nearest to `x / d`, and the one farther from 0 at a half. -/
theorem divRoundAway_nearest (hd : 0 < d) :
    2 * |d * divRoundAway x d - x| ≤ d ∧ (2 * |d * divRoundAway x d - x| = d → |x| < |d * divRoundAway x d|) := by
  rw [divRoundAway, if_neg hd.not_ge]
  split
  case isTrue hx => exact half_up_nearest hx (half_up_bounds hd)
  case isFalse hx =>
    have hneg := half_up_nearest (x := -x) (by omega) (half_up_bounds hd)
    rwa [sub_neg_eq_add, ← abs_neg, neg_add', abs_neg x, ← abs_neg (d * _), ← mul_neg] at hneg

theorem clampInt_eq_max_min {lo hi : Int} (h : lo ≤ hi) : clampInt lo hi x = max lo (min hi x) := by
  unfold clampInt
  omega

/-- The model's sign extension is the signed value of a machine word. -/
theorem sext_eq_toInt (w v : Nat) : sext w v = (BitVec.ofNat w v).toInt := by
  rw [BitVec.toInt_eq_msb_cond, BitVec.msb_eq_getLsbD_last, BitVec.getLsbD, BitVec.toNat_ofNat, sext]
  push_cast
  rfl

end Rounding

/-! ### Samples (R444) -/

/-- R444: the corrected code, from the gain and offset in force. -/
theorem State.dikeCode_eq {s : State} {c raw : Nat} {gain offset : Int}
    (hcal : if s.boot.calBlank = true then gain = 65536 ∧ offset = 0
      else gain = s.calWord (0x160 / 4 + 2 * c) ∧
        offset = (BitVec.ofNat 16 (s.calWord (0x160 / 4 + 2 * c + 1))).toInt) :
    (s.dikeCode c raw : Int) = max 0 (min 4095 (divRoundAway (raw * gain + 4096 * offset) 65536)) := by
  have hmod (v : Nat) : sext 16 (v % 65536) = (BitVec.ofNat 16 v).toInt := by
    exact (sext_eq_toInt 16 _).trans (congrArg BitVec.toInt (BitVec.eq_of_toNat_eq (by simp)))
  have hround : s.dikeCode c raw = (clampInt 0 4095 (divRoundAway (raw * gain + 4096 * offset) 65536)).toNat := by
    cases hblank : s.boot.calBlank with
    | true =>
      simp only [hblank, if_true] at hcal
      obtain ⟨rfl, rfl⟩ := hcal
      simp [State.dikeCode, hblank]
    | false =>
      simp only [hblank, Bool.false_eq_true, if_false] at hcal
      rw [show 0x160 / 4 + 2 * c = 0x58 + 2 * c from rfl, show 0x58 + 2 * c + 1 = 0x59 + 2 * c by omega] at hcal
      obtain ⟨rfl, rfl⟩ := hcal
      simp [State.dikeCode, hblank, hmod, mul_comm]
  rw [hround, clampInt_eq_max_min (by decide), Int.toNat_of_nonneg (le_max_left _ _)]

/-- A sample of a channel that drives nothing is shown, and no more. -/
theorem State.dikeSample_idle {s : State} {c raw : Nat} {late : Bool} (hidle : s.dkState c < 3 ∨ 5 < s.dkState c) :
    s.dikeSample c raw late = s.put (DIKE_CH_STATUS_CURRENT c) (s.dikeCode c raw) := by
  have hstate : (s.put (DIKE_CH_STATUS_CURRENT c) (s.dikeCode c raw)).dkState c = s.dkState c :=
    State.put_get_other _ _ _ _ (by simp only [DIKE_CH_STATUS_CURRENT, DIKE_CH_STATUS_STATE, Field.key]; omega)
  simp only [State.dikeSample, hstate]
  exact if_pos hidle

/-- While the channels run, the samples of a command go through one by one. -/
theorem State.dikeSamples_runs {s : State} {c : Nat} {raws : List (BitVec 12)} (hruns : s.dikeRuns = true) :
    s.dikeSamples c raws = raws.foldl (fun s r => s.dikeSample c r.toNat false) s := if_pos hruns

/-- Settles O11: the code by `divRoundAway_nearest`, a sample by `State.dikeSample_idle`. -/
theorem dikeCode : Obligations.DikeCode := by
  intro s c raw gain offset hcal
  refine ⟨⟨_, State.dikeCode_eq hcal, divRoundAway_nearest (by decide)⟩, fun hruns hidle => ?_⟩
  have hone : s.dikeSamples c.val [raw] = s.dikeSample c.val raw.toNat false := State.dikeSamples_runs hruns
  exact congrArg _ (hone.trans (State.dikeSample_idle hidle))

/-! ### Configuration (R452) -/

section Configuration

variable {s : State} {c v : Nat}

/-- R452: a write of an enabled channel stops it or changes nothing, and is refused where it would change a field. -/
theorem State.writeDikeCfg_enabled (hen : s.flag (DIKE_CH_CFG_EN c) = true) :
    s.writeDikeCfg c v =
      if s.dikeCfgSame c v then (if v.testBit 31 then s else s.dikeStop c) else s.dikeReject :=
  (if_pos hen).trans (ite_not _ _ _)

/-- R452: a write of a disabled channel takes the fields, and starts the channel, or is refused, by its `EN`. -/
theorem State.writeDikeCfg_disabled (hen : s.flag (DIKE_CH_CFG_EN c) = false) :
    s.writeDikeCfg c v =
      if v.testBit 31 ∧ ¬ (s.dikeCfgFields c v).dikeOk c then s.dikeReject
      else
        let t := ((s.dikeCfgFields c v).dikePres c).dikePgPin c
        if v.testBit 31 then t.dikeStart c else t := if_neg (Bool.eq_false_iff.mp hen)

/-- R449: RESTART reaches a channel in BACKOFF or LOCKOUT. -/
theorem State.dikeRestart_waits (hwaits : s.dkState c = 6 ∨ s.dkState c = 7) :
    s.dikeRestart c = (s.put (DIKE_CH_STATUS_RETRIES c) 0).dikeAttempt c := if_pos hwaits

theorem State.dikeRestart_refused (hback : s.dkState c ≠ 6) (hlock : s.dkState c ≠ 7) :
    s.dikeRestart c = s.dikeReject := if_neg (not_or_intro hback hlock)

end Configuration

/-! ### Trips (R446, R447) -/

section Trips

variable {s : State} {c : Fin 16} {late : Bool}

/-- A condition of time without samples. -/
theorem execDikeTrip_timeAlone (hruns : s.dikeRuns = true) : execDikeTrip c [] true s = .next (s.dikeTimeTrip c.val) := by
  refine (next_ite_neg (not_not_intro hruns)).trans ?_
  change Host.Outcome.next ((s.dikeSamples c.val []).dikeTimeTrip c.val) = _
  rw [State.dikeSamples_runs hruns, List.foldl_nil]

/-- notes/assumptions/38.md: a condition of time holds at the last sample of its command. -/
theorem execDikeTrip_last {raws : List (BitVec 12)} {r : BitVec 12} (hruns : s.dikeRuns = true)
    (hlast : raws.getLast? = some r) :
    execDikeTrip c raws late s = .next ((s.dikeSamples c.val raws.dropLast).dikeSample c.val r.toNat late) :=
  (next_ite_neg (not_not_intro hruns)).trans (by simp only [hlast])

end Trips

/-- Settles O56: a write of the configuration by the channel's `EN` and its own, each other command by the channel's state. -/
theorem dikeChannels : Obligations.DikeChannels := by
  refine ⟨?start, ?startRefused, ?again, ?stop, ?configured, ?restart, ?restartRefused, ?presence, ?debounced, ?samples,
    ?released, ?settled, ?timeTrip, ?trip, ?backoffEnd, ?retryReset⟩
  case start =>
    intro s x val hen hoff hok
    have htaken : ¬ (val.toNat.testBit 31 = true ∧ ¬ (s.dikeCfgFields x.val val.toNat).dikeOk x.val = true) := by simp [hok]
    exact (next_ite_pos hen).trans (congrArg _ ((State.writeDikeCfg_disabled hoff).trans ((if_neg htaken).trans (if_pos hen))))
  case startRefused =>
    intro s x val hen hoff hbad
    exact (next_ite_pos hen).trans (congrArg _ ((State.writeDikeCfg_disabled hoff).trans
      (if_pos ⟨hen, Bool.eq_false_iff.mp hbad⟩)))
  case again =>
    intro s x val hen hon
    refine (next_ite_pos hen).trans (congrArg _ ?_)
    rw [State.writeDikeCfg_enabled hon, if_pos hen]
  case stop =>
    intro s x val hen hon
    have hclear : ¬ val.toNat.testBit 31 = true := Bool.eq_false_iff.mp hen
    refine (next_ite_neg hclear).trans (congrArg _ ?_)
    rw [State.writeDikeCfg_enabled hon, if_neg hclear]
  case configured =>
    intro s x val hen hoff
    have hclear : ¬ val.toNat.testBit 31 = true := Bool.eq_false_iff.mp hen
    exact (next_ite_neg hclear).trans (congrArg _ ((State.writeDikeCfg_disabled hoff).trans
      ((if_neg fun h => hclear h.1).trans (if_neg hclear))))
  case restart =>
    exact fun s x val hkey hwaits => (next_ite_pos hkey).trans (congrArg _ (State.dikeRestart_waits hwaits))
  case restartRefused =>
    exact fun s x val hkey hback hlock => (next_ite_pos hkey).trans (congrArg _ (State.dikeRestart_refused hback hlock))
  case presence => exact fun s x level => rfl
  case debounced => exact fun s x hruns hstate => next_ite_pos ⟨hruns, hstate⟩
  case samples => exact fun s x raws hruns => congrArg _ (State.dikeSamples_runs hruns)
  case released => exact fun s x raws hlow => next_ite_pos hlow
  case settled => exact fun s x hruns hstate hfree => next_ite_pos ⟨hruns, hstate, Bool.eq_false_iff.mp hfree⟩
  case timeTrip => exact fun s x hruns => execDikeTrip_timeAlone hruns
  case trip => exact fun s x raws r late hruns hlast => execDikeTrip_last hruns hlast
  case backoffEnd | retryReset => exact fun s x hruns hstate => next_ite_pos ⟨hruns, hstate⟩

end Sys2Proof.Machine
end

section
/-! PROOFS. Core voltage, PMBus, heat and rounds by policy (R460, R461, R463, R466, R471), and their statement. -/

namespace Sys2Proof.Machine

open Sys2Proof.Machine.Reg

section Policies

variable {s : State}

/-- R460: an evaluation with a ratio decides by the domain of the lowest. -/
theorem execAvsEvaluation_lowest {counts : List (Fin 17 × Fin 64 × BitVec 16)} {d : Nat}
    (hd : (s.measure counts).lowestRatio = some d) :
    execAvsEvaluation counts s = .next (((s.measure counts).showRatio d).avsDecide ((s.measure counts).get (PWR_PACE_PACE d))
      ((s.measure counts).paceTarget d)) := by
  simp only [execAvsEvaluation, hd]

/-- R461: the answer to the PMBus command at the front. -/
theorem execPmbusResponse_front {ack : Bool} {data : BitVec 16} {cmd mv : Nat} {rest : List (Nat × Nat)}
    (hq : s.pwr.queue = (cmd, mv) :: rest) :
    execPmbusResponse ack data s = .next (
      if ¬ ack ∧ ¬ s.pwr.tried then State.pmbPut { s with pwr := { s.pwr with tried := true } }
      else if ack then ((s.pmbPop rest).pmbAnswer cmd data.toNat).pmbPut
      else (s.pmbPop rest).pmbFault.pmbPut) := by
  simp only [execPmbusResponse, hq]

/-- R463: a sample of a node with power shows its highest temperature, and the level follows. -/
theorem execThermalSample_highest {temps : List (BitVec 8)} {n : Int} (hn : (temps.map (fun t => t.toInt)).max? = some n)
    (hon : s.node.off = false) :
    execThermalSample temps s = .next (
      let t := (s.put PWR_THERM_STATUS_T_MAX (wrapInt 8 n)).put PWR_THERM_STATUS_SENSOR
        ((findIdxFrom (fun (x : BitVec 8) => x.toInt == n) temps 0).getD 0)
      if t.thermalLevel n = t.get PWR_THERM_STATUS_LEVEL then t
      else t.enterLevel (t.get PWR_THERM_STATUS_LEVEL) (t.thermalLevel n)) := by
  simp only [execThermalSample, hn]
  exact next_ite_neg (Bool.eq_false_iff.mp hon)

end Policies

/-- Settles O57: an answer by the command at the front of the queue, a sample by its highest temperature, each other command under
the guard that its clause states. -/
theorem powerPolicies : Obligations.PowerPolicies := by
  refine ⟨?evaluation, ?settled, ?poll, ?alert, ?acknowledged, ?notAcknowledged, ?control, ?sample, ?limit, ?round⟩
  case evaluation => exact fun s counts d hd => execAvsEvaluation_lowest hd
  case settled => exact fun s hsettling => next_ite_pos hsettling
  case poll => exact fun s hhold hon => next_ite_pos ⟨hhold, Bool.eq_false_iff.mp hon⟩
  case alert => exact fun s hhold hon => next_ite_neg (not_or_intro (Bool.eq_false_iff.mp hon) hhold)
  case acknowledged =>
    exact fun s data cmd mv rest hq =>
      (execPmbusResponse_front hq).trans ((next_ite_neg fun h => h.1 rfl).trans (next_ite_pos rfl))
  case notAcknowledged =>
    intro s data cmd mv rest hq
    refine (execPmbusResponse_front hq).trans ?_
    cases s.pwr.tried <;> rfl
  case control => exact fun s val => rfl
  case sample => exact fun s temps n hn hon => execThermalSample_highest hn hon
  case limit => exact fun s => rfl
  case round =>
    intro s policyConsents wakeAsserted hroot hauto hresult hbarred hm hrefusal
    exact next_ite_pos ⟨hroot, hauto, hresult, Bool.eq_false_iff.mp hbarred, hm, hrefusal⟩

end Sys2Proof.Machine
end
